-- ==== Sys2Proof/Word.lean ====
section
/-! DEFINITION. The words of the machine and the names of its parts: register words, bytes, lanes, and the
logical identifiers of packages, cells and slots (R7, R15, R18). -/

namespace Sys2Proof

/-- A 64-bit scalar register word (R15). -/
abbrev Word := BitVec 64
/-- A byte; memory is little-endian (R4). -/
abbrev Byte := BitVec 8
/-- One 32-bit lane of a vector register (R18). -/
abbrev Lane := BitVec 32
/-- A package identifier within the load-store domain (R28, %PKG). -/
abbrev PkgId := BitVec 12
/-- A logical cell, y·64 + x (R7). -/
abbrev CellId := BitVec 12
/-- A slot of a cell (R7). -/
abbrev SlotId := BitVec 4
/-- A scalar register number (R58). -/
abbrev SReg := BitVec 5
/-- A vector register field (R16, R58). -/
abbrev VRegNo := BitVec 7

/-- A global slot within the domain (R7). -/
structure GRef where
  pkg : PkgId
  cell : CellId
  slot : SlotId
  deriving DecidableEq, Repr, Inhabited

/-- The column of a logical cell (R7). -/
def cellX (c : CellId) : Nat := c.toNat % 64
/-- The row of a logical cell (R7). -/
def cellY (c : CellId) : Nat := c.toNat / 64

end Sys2Proof
end

