-- ==== Sys2Proof/Machine/Arith.lean ====
section
/-! DEFINITION. Integer arithmetic of the scalar and lane instructions (R81, R82, R110, R148, R149), over bit vectors
of one width. -/

namespace Sys2Proof.Machine

/-- An instruction's integer as 1 or 0. -/
def bit {w : Nat} (b : Bool) : BitVec w := if b then 1 else 0

/-- High half of the signed product. -/
def mulHigh {w : Nat} (a b : BitVec w) : BitVec w := BitVec.ofInt w (a.toInt * b.toInt / (2 ^ w : Nat))

/-- High half of the unsigned product. -/
def mulHighU {w : Nat} (a b : BitVec w) : BitVec w := BitVec.ofNat w (a.toNat * b.toNat / 2 ^ w)

/-- Signed quotient, truncated toward zero; 0 for a zero divisor, and the most negative value by −1 gives itself (R82). -/
def divS {w : Nat} (a b : BitVec w) : BitVec w :=
  if b = 0 then 0 else BitVec.ofInt w (a.toInt.tdiv b.toInt)

/-- Signed remainder, with the sign of the dividend; 0 for a zero divisor (R82). -/
def remS {w : Nat} (a b : BitVec w) : BitVec w :=
  if b = 0 then 0 else BitVec.ofInt w (a.toInt.tmod b.toInt)

/-- Unsigned quotient; 0 for a zero divisor (R82). -/
def divU {w : Nat} (a b : BitVec w) : BitVec w := if b = 0 then 0 else BitVec.ofNat w (a.toNat / b.toNat)

/-- Unsigned remainder; 0 for a zero divisor (R82). -/
def remU {w : Nat} (a b : BitVec w) : BitVec w := if b = 0 then 0 else BitVec.ofNat w (a.toNat % b.toNat)

/-- Leading zero bits. -/
def clz {w : Nat} (a : BitVec w) : BitVec w :=
  BitVec.ofNat w (if a = 0 then w else w - 1 - Nat.log2 a.toNat)

/-- The number of set bits below bit `n`. -/
def popFrom : Nat → Nat → Nat
  | 0, _ => 0
  | n + 1, x => x % 2 + popFrom n (x / 2)

/-- Set bits. -/
def popc {w : Nat} (a : BitVec w) : BitVec w := BitVec.ofNat w (popFrom w a.toNat)

/-- The low `n` bits in reverse order, after `acc`. -/
def revFrom : Nat → Nat → Nat → Nat
  | 0, _, acc => acc
  | n + 1, x, acc => revFrom n (x / 2) (2 * acc + x % 2)

/-- Bit i of the result is bit w − 1 − i of a. -/
def brev {w : Nat} (a : BitVec w) : BitVec w := BitVec.ofNat w (revFrom w a.toNat 0)

/-- Signed minimum. -/
def minS {w : Nat} (a b : BitVec w) : BitVec w := if b.slt a then b else a
/-- Signed maximum. -/
def maxS {w : Nat} (a b : BitVec w) : BitVec w := if a.slt b then b else a
/-- Unsigned minimum. -/
def minU {w : Nat} (a b : BitVec w) : BitVec w := if b.ult a then b else a
/-- Unsigned maximum. -/
def maxU {w : Nat} (a b : BitVec w) : BitVec w := if a.ult b then b else a

/-- An exact integer clamped to the signed range (R81). -/
def clampS (w : Nat) (x : Int) : BitVec w :=
  let hi : Int := (2 ^ (w - 1) : Nat) - 1
  BitVec.ofInt w (if x < -hi - 1 then -hi - 1 else if hi < x then hi else x)

/-- An exact integer clamped to the unsigned range (R81). -/
def clampU (w : Nat) (x : Int) : BitVec w :=
  let hi : Int := (2 ^ w : Nat) - 1
  BitVec.ofInt w (if x < 0 then 0 else if hi < x then hi else x)

/-- The magnitude modulo 2^w. -/
def absS {w : Nat} (a : BitVec w) : BitVec w := if a.msb then 0 - a else a

/-- Byte j of a lane. -/
def byteOf (a : Lane) (j : Nat) : BitVec 8 := BitVec.ofNat 8 (a.toNat / 2 ^ (8 * j))

/-- Σ of the products of the four bytes, signed (VDOT4). -/
def dot4 (a b : Lane) : Lane :=
  BitVec.ofInt 32 (((List.range 4).map fun j => (byteOf a j).toInt * (byteOf b j).toInt).foldl (· + ·) 0)

/-- Σ of the products of the four bytes, unsigned (VDOT4U). -/
def dot4u (a b : Lane) : Lane :=
  BitVec.ofNat 32 (((List.range 4).map fun j => (byteOf a j).toNat * (byteOf b j).toNat).foldl (· + ·) 0)

/-- The low and high 16-bit elements of a lane (R18). -/
def lo16 (a : Lane) : BitVec 16 := a.extractLsb' 0 16
/-- The high 16-bit element of a lane. -/
def hi16 (a : Lane) : BitVec 16 := a.extractLsb' 16 16
/-- A lane of two 16-bit elements. -/
def pair16 (hi lo : BitVec 16) : Lane := hi ++ lo

/-- An operation on each of the two 16-bit elements (R149). -/
def halves (f : BitVec 16 → BitVec 16 → BitVec 16) (a b : Lane) : Lane :=
  pair16 (f (hi16 a) (hi16 b)) (f (lo16 a) (lo16 b))

end Sys2Proof.Machine
end

