-- ==== Sys2Proof/Machine/Flags.lean ====
section
/-! DEFINITION. The sticky floating-point flags (R32, R87) and the rounding modes of %FPMODE. -/

namespace Sys2Proof.Machine

/-- The flags of %FPFLAGS: bit 0 NV, 1 DV, 2 OF, 3 UF, 4 NX (R32). -/
abbrev FpFlags := BitVec 5

/-- Invalid operation. -/
def FpFlags.nv : FpFlags := 1
/-- Division by zero. -/
def FpFlags.dv : FpFlags := 2
/-- Overflow. -/
def FpFlags.of : FpFlags := 4
/-- Underflow: tiny and inexact. -/
def FpFlags.uf : FpFlags := 8
/-- Inexact. -/
def FpFlags.nx : FpFlags := 16

/-- A flag raised under a condition. -/
def FpFlags.when (b : Bool) (f : FpFlags) : FpFlags := if b then f else 0

/-- The rounding modes of %FPMODE.RM (R32), and the stochastic rounding of R103 with its 16-bit fraction. -/
inductive Rm where
  | near | zero | up | down
  | stoch (r : Nat)
  deriving DecidableEq, Repr, Inhabited

/-- The rounding mode that a %FPMODE value names (R32). -/
def Rm.ofMode (m : BitVec 2) : Rm :=
  if m = 0 then .near else if m = 1 then .zero else if m = 2 then .up else .down

end Sys2Proof.Machine
end

