-- ==== Sys2Proof/Machine/Float.lean ====
section
/-! DEFINITION. Floating-point arithmetic (R83-R88, R98): operands are taken apart into exact dyadic numbers, the
exact result is formed, and it is rounded once. -/

namespace Sys2Proof.Machine

/-- An IEEE binary format: exponent width and fraction width (R83). -/
structure FpFmt where
  ew : Nat
  fw : Nat
  deriving DecidableEq, Repr, Inhabited

/-- binary32. -/
def fp32 : FpFmt := ⟨8, 23⟩
/-- binary16. -/
def fp16 : FpFmt := ⟨5, 10⟩
/-- binary32 with its fraction cut to 7 bits. -/
def bf16 : FpFmt := ⟨8, 7⟩
/-- binary64, a result of XRD only. -/
def fp64 : FpFmt := ⟨11, 52⟩

/-- The bias. -/
def FpFmt.bias (f : FpFmt) : Nat := 2 ^ (f.ew - 1) - 1
/-- The exponent of the smallest normal value. -/
def FpFmt.emin (f : FpFmt) : Int := 1 - f.bias
/-- The exponent of the largest finite value. -/
def FpFmt.emax (f : FpFmt) : Int := f.bias
/-- The bits of +∞. -/
def FpFmt.infBits (f : FpFmt) : Nat := (2 ^ f.ew - 1) * 2 ^ f.fw
/-- The bits of the largest finite value. -/
def FpFmt.maxBits (f : FpFmt) : Nat := f.infBits - 1
/-- The canonical NaN (R84). -/
def FpFmt.nanBits (f : FpFmt) : Nat := f.infBits + 2 ^ (f.fw - 1)
/-- The sign bit. -/
def FpFmt.signBit (f : FpFmt) : Nat := 2 ^ (f.ew + f.fw)
/-- A sign put before magnitude bits. -/
def FpFmt.signed (f : FpFmt) (s : Bool) (bits : Nat) : Nat := if s then f.signBit + bits else bits

/-- What a floating-point pattern stands for: a NaN (signalling or quiet), an infinity, or (−1)^s · m · 2^e. -/
inductive FpVal where
  | nan (sig : Bool)
  | inf (s : Bool)
  | num (s : Bool) (m : Nat) (e : Int)
  deriving DecidableEq, Repr, Inhabited

/-- Takes an IEEE pattern apart (R83). -/
def FpFmt.unpack (f : FpFmt) (x : Nat) : FpVal :=
  let s := x / f.signBit % 2 == 1
  let e := x / 2 ^ f.fw % 2 ^ f.ew
  let m := x % 2 ^ f.fw
  if e = 2 ^ f.ew - 1 then
    if m = 0 then .inf s else .nan (m < 2 ^ (f.fw - 1))
  else if e = 0 then .num s m (f.emin - f.fw)
  else .num s (2 ^ f.fw + m) ((e : Int) - f.bias - f.fw)

/-- Whether a value is a signalling NaN. -/
def FpVal.isSig : FpVal → Bool
  | .nan sig => sig | .inf _ => false | .num _ _ _ => false
/-- Whether a value is a NaN. -/
def FpVal.isNan : FpVal → Bool
  | .nan _ => true | .inf _ => false | .num _ _ _ => false
/-- The sign of a value that is not a NaN. -/
def FpVal.neg : FpVal → FpVal
  | .nan sig => .nan sig | .inf s => .inf !s | .num s m e => .num (!s) m e

/-- Rounds m · 2^e to a multiple n · 2^q: the integer n, and whether it is inexact (R98). -/
def roundTo (rm : Rm) (s : Bool) (m : Nat) (e q : Int) : Nat × Bool :=
  if q ≤ e then (m * 2 ^ (e - q).toNat, false)
  else
    let d := 2 ^ (q - e).toNat
    let n := m / d
    let r := m % d
    let up : Bool := match rm with
      | .near => decide (d < 2 * r) || (decide (d = 2 * r) && n % 2 == 1)
      | .zero => false
      | .up => !s && decide (r ≠ 0)
      | .down => s && decide (r ≠ 0)
      | .stoch k => decide (65536 * d ≤ 65536 * r + k * d)
    (if up then n + 1 else n, decide (r ≠ 0))

/-- The exponent ⌊log2⌋ of m · 2^e. -/
def dyadicLog (m : Nat) (e : Int) : Int := (Nat.log2 m : Int) + e

/-- A number of fraction width `fw`, smallest normal exponent `emin`: the rounded n and its quantum's exponent, whether
the rounding is inexact, and whether the result is tiny after rounding (R87, R98). -/
structure Rounded where
  n : Nat
  e : Int
  inexact : Bool
  tiny : Bool
  deriving DecidableEq, Repr

/-- Rounds m · 2^e (m > 0) to `fw` fraction bits above `emin` (R98: rnd and rnd_unb). -/
def roundFw (fw : Nat) (emin : Int) (rm : Rm) (s : Bool) (m : Nat) (e : Int) : Rounded :=
  let l := dyadicLog m e
  let top := if l < emin then emin else l
  let r := roundTo rm s m e (top - fw)
  let u := roundTo rm s m e (l - fw)
  { n := r.1, e := top, inexact := r.2,
    tiny := decide (l < emin) && !(decide (l = emin - 1) && decide (2 ^ (fw + 1) ≤ u.1)) }

/-- Whether an overflow becomes an infinity (R99): not where the mode rounds toward zero. -/
def overflowInf (rm : Rm) (s : Bool) : Bool :=
  match rm with
  | .near => true | .zero => false | .up => !s | .down => s | .stoch _ => true

/-- Rounds (−1)^s · m · 2^e, m > 0, to an IEEE format: its bits and the flags (R86, R87). -/
def FpFmt.round (f : FpFmt) (rm : Rm) (s : Bool) (m : Nat) (e : Int) : Nat × FpFlags :=
  let r := roundFw f.fw f.emin rm s m e
  let bits := (r.e - f.emin).toNat * 2 ^ f.fw + r.n
  if f.infBits ≤ bits then
    (f.signed s (if overflowInf rm s then f.infBits else f.maxBits), FpFlags.of ||| FpFlags.nx)
  else
    (f.signed s bits,
      FpFlags.when r.inexact FpFlags.nx ||| FpFlags.when (r.inexact && r.tiny) FpFlags.uf)

/-- Delivers an exact dyadic number whose zero has the sign `z`. -/
def FpFmt.deliver (f : FpFmt) (rm : Rm) (z : Bool) (v : Int) (e : Int) : Nat × FpFlags :=
  if v = 0 then (f.signed z 0, 0) else f.round rm (decide (v < 0)) v.natAbs e

/-- The signed mantissa of a number at exponent `e0` ≤ its own. -/
def alignTo (s : Bool) (m : Nat) (e e0 : Int) : Int :=
  let v : Int := m * 2 ^ (e - e0).toNat
  if s then -v else v

/-- A canonical NaN result with its flags (R84). -/
def FpFmt.nanResult (f : FpFmt) (invalid : Bool) : Nat × FpFlags := (f.nanBits, FpFlags.when invalid FpFlags.nv)

/-- The sign of an exact zero sum: that of its terms where they agree, − under RM = 3 and + otherwise (R150). -/
def zeroSumSign (rm : Rm) (s1 s2 : Bool) : Bool := if s1 = s2 then s1 else decide (rm = .down)

/-- a + b over values (R86). -/
def FpFmt.addV (f : FpFmt) (rm : Rm) (a b : FpVal) : Nat × FpFlags :=
  match a, b with
  | .nan x, b => f.nanResult (x || b.isSig)
  | .inf _, .nan y => f.nanResult y
  | .num _ _ _, .nan y => f.nanResult y
  | .inf s, .inf t => if s = t then (f.signed s f.infBits, 0) else f.nanResult true
  | .inf s, .num _ _ _ => (f.signed s f.infBits, 0)
  | .num _ _ _, .inf t => (f.signed t f.infBits, 0)
  | .num s m e, .num t n g =>
    let e0 := if e < g then e else g
    f.deliver rm (if m = 0 ∧ n = 0 then zeroSumSign rm s t else decide (rm = .down)) (alignTo s m e e0 + alignTo t n g e0) e0

/-- a · b as a value, and whether it is invalid (R87). -/
def mulV (a b : FpVal) : FpVal × Bool :=
  match a, b with
  | .nan x, b => (.nan false, x || b.isSig)
  | .inf _, .nan y => (.nan false, y)
  | .num _ _ _, .nan y => (.nan false, y)
  | .inf s, .inf t => (.inf (s != t), false)
  | .inf s, .num t n _ => if n = 0 then (.nan false, true) else (.inf (s != t), false)
  | .num s m _, .inf t => if m = 0 then (.nan false, true) else (.inf (s != t), false)
  | .num s m e, .num t n g => (.num (s != t) (m * n) (e + g), false)

/-- A value delivered in a format. -/
def FpFmt.deliverV (f : FpFmt) (rm : Rm) (v : FpVal) : Nat × FpFlags :=
  match v with
  | .nan sig => f.nanResult sig
  | .inf s => (f.signed s f.infBits, 0)
  | .num s m e => if m = 0 then (f.signed s 0, 0) else f.round rm s m e

/-- a · b + c with one rounding (R86, R87). -/
def FpFmt.fmaV (f : FpFmt) (rm : Rm) (a b c : FpVal) : Nat × FpFlags :=
  let p := mulV a b
  if p.1.isNan then f.nanResult (p.2 || c.isSig) else f.addV rm p.1 c

/-- a / b (R86, R87): the quotient of the mantissas is taken to 128 bits past the divisor's length, with a sticky bit. -/
def FpFmt.divV (f : FpFmt) (rm : Rm) (a b : FpVal) : Nat × FpFlags :=
  match a, b with
  | .nan x, b => f.nanResult (x || b.isSig)
  | .inf _, .nan y => f.nanResult y
  | .num _ _ _, .nan y => f.nanResult y
  | .inf _, .inf _ => f.nanResult true
  | .inf s, .num t _ _ => (f.signed (s != t) f.infBits, 0)
  | .num s _ _, .inf t => (f.signed (s != t) 0, 0)
  | .num s m e, .num t n g =>
    if n = 0 then
      if m = 0 then f.nanResult true else (f.signed (s != t) f.infBits, FpFlags.dv)
    else if m = 0 then (f.signed (s != t) 0, 0)
    else
      let k := 128 + Nat.log2 n
      let q := m * 2 ^ k / n
      let st := if m * 2 ^ k % n = 0 then 0 else 1
      f.round rm (s != t) (2 * q + st) (e - g - k - 1)

/-- ⌊√x⌋ from below, bit by bit: `r` is the root so far, `k` the bits left. -/
def isqrtFrom : Nat → Nat → Nat → Nat
  | 0, _, r => r
  | k + 1, x, r =>
    let c := r + 2 ^ k
    isqrtFrom k x (if c * c ≤ x then c else r)

/-- ⌊√x⌋. -/
def isqrt (x : Nat) : Nat := isqrtFrom (Nat.log2 x / 2 + 1) x 0

/-- √(m · 2^e), e even, as a mantissa with a sticky bit at exponent e / 2 − 65. -/
def rootOf (m : Nat) : Nat :=
  let x := m * 2 ^ 128
  let r := isqrt x
  2 * r + (if r * r = x then 0 else 1)

/-- √a (R86); √(−0) = −0 (R150). -/
def FpFmt.sqrtV (f : FpFmt) (rm : Rm) (a : FpVal) : Nat × FpFlags :=
  match a with
  | .nan x => f.nanResult x
  | .inf s => if s then f.nanResult true else (f.infBits, 0)
  | .num s m e =>
    if m = 0 then (f.signed s 0, 0)
    else if s then f.nanResult true
    else
      let odd := e % 2 ≠ 0
      let m' := if odd then 2 * m else m
      let e' := if odd then e - 1 else e
      f.round rm false (rootOf m') (e' / 2 - 65)

/-- 1 / √a (R86): rSqrt(±0) = ±∞ with DV. -/
def FpFmt.rsqrtV (f : FpFmt) (rm : Rm) (a : FpVal) : Nat × FpFlags :=
  match a with
  | .nan x => f.nanResult x
  | .inf s => if s then f.nanResult true else (0, 0)
  | .num s m e =>
    if m = 0 then (f.signed s f.infBits, FpFlags.dv)
    else if s then f.nanResult true
    else
      let odd := e % 2 ≠ 0
      let m' := if odd then 2 * m else m
      let e' := if odd then e - 1 else e
      -- 1/√(m'·2^e') = √(2^(2k)/m') · 2^(−k−e'/2)
      let k := 128 + Nat.log2 m'
      let x := 2 ^ (2 * k) / m'
      let r := isqrt x
      let st := if r * r = x ∧ 2 ^ (2 * k) % m' = 0 then 0 else 1
      f.round rm false (2 * r + st) (-(k : Int) - e' / 2 - 1)

/-! ## 2^a and log2 a

Their results are irrational except where the rules name exact ones, so a truncated evaluation with a sticky bit
rounds as the exact value does wherever its error stays below the distance to the next rounding boundary. -/

/-- Fraction bits of the fixed-point evaluation. -/
def fixBits : Nat := 384

/-- Σ 2 · (1/3)^(2k+1) / (2k+1) from term `k` on: ln 2 in fixed point. `t` is (1/3)^(2k+1). -/
def ln2From : Nat → Nat → Nat → Nat
  | 0, _, _ => 0
  | n + 1, k, t => 2 * t / (2 * k + 1) + ln2From n (k + 1) (t / 9)

/-- ln 2 with `fixBits` fraction bits. -/
def ln2Fix : Nat := ln2From 130 0 (2 ^ fixBits / 3)

/-- Σ x^k / k! from term `k` on; `t` is x^k / k!. -/
def expFrom : Nat → Nat → Nat → Nat → Nat
  | 0, _, _, _ => 0
  | n + 1, k, t, x => t + expFrom n (k + 1) (t * x / 2 ^ fixBits / (k + 1)) x

/-- 2^y for y in [0, 1), with `fixBits` fraction bits. -/
def exp2Fix (y : Nat) : Nat := expFrom 90 0 (2 ^ fixBits) (y * ln2Fix / 2 ^ fixBits)

/-- 2^a (R86). -/
def FpFmt.exp2V (f : FpFmt) (rm : Rm) (a : FpVal) : Nat × FpFlags :=
  match a with
  | .nan x => f.nanResult x
  | .inf s => if s then (0, 0) else (f.infBits, 0)
  | .num s m e =>
    if m = 0 then f.round rm false 1 0
    else
      let big := decide (12 < dyadicLog m e)
      if big then f.round rm false 1 (if s then -8192 else 8192)   -- far outside every format's range
      else
        -- a in fixed point; every operand has its lowest bit at or above 2^−fixBits
        let v := m * 2 ^ (e + fixBits).toNat
        let x : Int := if s then -(v : Int) else v
        let i := x / (2 ^ fixBits : Nat)
        let y := (x % (2 ^ fixBits : Nat)).toNat
        if y = 0 then f.round rm false 1 i
        else f.round rm false (2 * exp2Fix y + 1) (i - fixBits - 1)

/-- The fraction bits of log2 y for y in [1, 2) with `fixBits` fraction bits, by repeated squaring. -/
def log2From : Nat → Nat → Nat → Nat
  | 0, _, acc => acc
  | n + 1, y, acc =>
    let z := y * y / 2 ^ fixBits
    if 2 ^ (fixBits + 1) ≤ z then log2From n (z / 2) (2 * acc + 1) else log2From n z (2 * acc)

/-- log2 a (R86): log2(±0) = −∞ with DV, log2 of a negative value is NaN with NV. -/
def FpFmt.log2V (f : FpFmt) (rm : Rm) (a : FpVal) : Nat × FpFlags :=
  match a with
  | .nan x => f.nanResult x
  | .inf s => if s then f.nanResult true else (f.infBits, 0)
  | .num s m e =>
    if m = 0 then (f.signed true f.infBits, FpFlags.dv)
    else if s then f.nanResult true
    else
      let l := Nat.log2 m
      let i : Int := (l : Int) + e
      if m = 2 ^ l then f.deliver rm false i 0
      else
        let y := m * 2 ^ (fixBits - l)
        let w := log2From 160 y 0
        let v : Int := i * (2 ^ 160 : Nat) + w
        -- v < 2^160 · log2 a < v + 1
        if 0 ≤ v then f.round rm false (2 * v.toNat + 1) (-161)
        else f.round rm true (2 * (-v - 1).toNat + 1) (-161)

/-- a rounded to an integral value of the format (R150, VFRINT). -/
def FpFmt.rintV (f : FpFmt) (rm : Rm) (a : FpVal) : Nat × FpFlags :=
  match a with
  | .nan x => f.nanResult x
  | .inf s => (f.signed s f.infBits, 0)
  | .num s m e =>
    let r := roundTo rm s m e 0
    if r.1 = 0 then (f.signed s 0, FpFlags.when r.2 FpFlags.nx)
    else ((f.round rm s r.1 0).1, FpFlags.when r.2 FpFlags.nx)

/-- Numeric comparison of two values that are not NaNs: a < b, with −0 = +0. -/
def ltV (a b : FpVal) : Bool :=
  match a, b with
  | .inf s, .inf t => s && !t
  | .inf s, .num _ _ _ => s
  | .num _ _ _, .inf t => !t
  | .num s m e, .num t n g =>
    let e0 := if e < g then e else g
    decide (alignTo s m e e0 < alignTo t n g e0)
  | .nan _, _ => false
  | .inf _, .nan _ => false
  | .num _ _ _, .nan _ => false

/-- Numeric equality of two values that are not NaNs, with −0 = +0. -/
def eqV (a b : FpVal) : Bool := !a.isNan && !b.isNan && !ltV a b && !ltV b a

/-- The order of VFMIN and VFMAX: as `ltV`, with −0 < +0 (R88). -/
def minLtV (a b : FpVal) : Bool :=
  match a, b with
  | .num s 0 _, .num t 0 _ => s && !t
  | a, b => ltV a b

/-- VFMIN and VFMAX on patterns (R88): a NaN operand gives the canonical NaN. -/
def FpFmt.minmax (f : FpFmt) (max : Bool) (x y : Nat) : Nat × FpFlags :=
  let a := f.unpack x
  let b := f.unpack y
  if a.isNan || b.isNan then f.nanResult (a.isSig || b.isSig)
  else if max then (if minLtV a b then y else x, 0) else (if minLtV b a then y else x, 0)

/-- VFMINNUM and VFMAXNUM on patterns (R88): one NaN operand gives the other. -/
def FpFmt.minmaxNum (f : FpFmt) (max : Bool) (x y : Nat) : Nat × FpFlags :=
  let a := f.unpack x
  let b := f.unpack y
  let fl := FpFlags.when (a.isSig || b.isSig) FpFlags.nv
  if a.isNan then if b.isNan then (f.nanBits, fl) else (y, fl)
  else if b.isNan then (x, fl)
  else f.minmax max x y

/-- The comparisons of R88. -/
inductive FpCmp where | eq | lt | le | un
  deriving DecidableEq, Repr, Inhabited

/-- A comparison on patterns: 1 or 0 and the flags (R88). -/
def FpFmt.compare (f : FpFmt) (c : FpCmp) (x y : Nat) : Nat × FpFlags :=
  let a := f.unpack x
  let b := f.unpack y
  let nan := a.isNan || b.isNan
  let sig := FpFlags.when (a.isSig || b.isSig) FpFlags.nv
  match c with
  | .eq => (if eqV a b then 1 else 0, sig)
  | .lt => (if !nan && ltV a b then 1 else 0, FpFlags.when nan FpFlags.nv)
  | .le => (if !nan && !ltV b a then 1 else 0, FpFlags.when nan FpFlags.nv)
  | .un => (if nan then 1 else 0, sig)

/-- The class mask of R151. -/
def FpFmt.classOf (f : FpFmt) (x : Nat) : Nat :=
  match f.unpack x with
  | .nan sig => if sig then 256 else 512
  | .inf s => if s then 1 else 128
  | .num s m _ =>
    if m = 0 then (if s then 8 else 16)
    else if m < 2 ^ f.fw then (if s then 4 else 32)
    else (if s then 2 else 64)

/-- The arithmetic of two operands (R150, R152). -/
inductive FpOp where | add | sub | mul | div
  deriving DecidableEq, Repr, Inhabited

/-- One rounded operation on two patterns. -/
def FpFmt.op (f : FpFmt) (rm : Rm) (o : FpOp) (x y : Nat) : Nat × FpFlags :=
  let a := f.unpack x
  let b := f.unpack y
  match o with
  | .add => f.addV rm a b
  | .sub => f.addV rm a b.neg
  | .mul => let p := mulV a b; if p.1.isNan then f.nanResult p.2 else f.deliverV rm p.1
  | .div => f.divV rm a b

/-- a · b + d, a · b − d or d − a · b on patterns (R150): `np` negates the product and `nd` the addend. -/
def FpFmt.fma (f : FpFmt) (rm : Rm) (np nd : Bool) (x y d : Nat) : Nat × FpFlags :=
  let a := f.unpack x
  let c := f.unpack d
  f.fmaV rm (if np then a.neg else a) (f.unpack y) (if nd then c.neg else c)

end Sys2Proof.Machine
end

