-- ==== Sys2Proof/Syntax.lean ====
section
/-! DEFINITION. The instructions and events of the opcode table (spec/opcode_table.json), one constructor a row.
Encoded rows carry their operand fields; the rows without an encoding (the events of spec/95) carry the part of the
machine they happen to. -/

namespace Sys2Proof

/-- Scope codes 0-4 (R61). -/
inductive Scope where | sl | ce | pk | dm | sv
  deriving DecidableEq, Repr, Inhabited
/-- Order codes (R61). -/
inductive Order where | rlx | acq | rel | ar
  deriving DecidableEq, Repr, Inhabited
/-- Size codes of a scalar access (R60). -/
inductive Size where | b | h | w | d
  deriving DecidableEq, Repr, Inhabited
/-- Size codes of a vector access (R60): 8-, 16-, 32-bit, and 16-bit sign-extended (loads only). -/
inductive VSize where | bu | hu | w | hs
  deriving DecidableEq, Repr, Inhabited
/-- Condition codes 0-8 of BC and DEPART (R63). -/
inductive Cond where | eqz | nez | ltz | gez | gtz | lez | any | none | all
  deriving DecidableEq, Repr, Inhabited
/-- A timeline selector (R64). -/
inductive Timeline where
  | copy (t : BitVec 2)
  | graph (t : BitVec 6)
  deriving DecidableEq, Repr, Inhabited
/-- The special registers 0-24 (R28). -/
inductive SpecReg where
  | slot | cell | pkg | gang | gslot | node | group | reccnt | time | cycle | fpmode | fpflags | rngkey | rngctr
  | stat | fewait | pid | regbase | reglim | priv | cvtsrc | mwin | chan | depth | lead
  deriving DecidableEq, Repr, Inhabited
/-- The fault rings of a package: the mailbox of a partition, or the host fault ring (R361, R402). -/
inductive Ring where
  | part (q : BitVec 3)
  | host
  deriving DecidableEq, Repr, Inhabited
/-- The unit whose error a patrol scrub, or another read, finds (R336, R337, R339). -/
inductive ScrubUnit where
  | spad (c : CellId) (unit : Nat)
  | bstore (c : CellId) (unit : Nat)
  | hbm (sector : Nat)
  | ddr (sector : Nat)
  | sreg (g : GRef) (r : SReg)
  | vreg (c : CellId) (unit : Nat)
  | acc (c : CellId) (unit : Nat)
  | opbuf (c : CellId) (byte : Nat)
  deriving DecidableEq, Repr, Inhabited
/-- The registers of the management window and doorbell page whose write has no behaviour of its own
(R342, R370, R388, R395, R399, R400, R402, R405). -/
inductive HostReg where
  | timectl | wbase | wpid | procbase
  | partWord (q : BitVec 3) (w : BitVec 3)
  | groupWord (w : BitVec 4)
  | port (k : BitVec 5)
  | route (k : PkgId)
  | hostFcidx
  | ringWord (g : BitVec 6) (w : BitVec 2)
  | intmask
  | nonce (w : BitVec 2)
  | mcmd
  | groupCmd
  deriving DecidableEq, Repr, Inhabited

/-- One constructor for each row of the opcode table. -/
inductive Instr where
  | add (d a b : SReg)  -- ADD R110
  | sub (d a b : SReg)  -- SUB R110
  | and (d a b : SReg)  -- AND R110
  | or (d a b : SReg)  -- OR R110
  | xor (d a b : SReg)  -- XOR R110
  | andn (d a b : SReg)  -- ANDN R110
  | shl (d a b : SReg)  -- SHL R110
  | shr (d a b : SReg)  -- SHR R110
  | sar (d a b : SReg)  -- SAR R110
  | ror (d a b : SReg)  -- ROR R110
  | mul (d a b : SReg)  -- MUL R110
  | mulh (d a b : SReg)  -- MULH R110
  | mulhu (d a b : SReg)  -- MULHU R110
  | div (d a b : SReg)  -- DIV R82
  | divu (d a b : SReg)  -- DIVU R82
  | rem (d a b : SReg)  -- REM R82
  | remu (d a b : SReg)  -- REMU R82
  | min (d a b : SReg)  -- MIN R110
  | max (d a b : SReg)  -- MAX R110
  | minu (d a b : SReg)  -- MINU R110
  | maxu (d a b : SReg)  -- MAXU R110
  | seq (d a b : SReg)  -- SEQ R110
  | sne (d a b : SReg)  -- SNE R110
  | slt (d a b : SReg)  -- SLT R110
  | sltu (d a b : SReg)  -- SLTU R110
  | sle (d a b : SReg)  -- SLE R110
  | sleu (d a b : SReg)  -- SLEU R110
  | clz (d a : SReg)  -- CLZ R110
  | popc (d a : SReg)  -- POPC R110
  | brev (d a : SReg)  -- BREV R110
  | addw (d a b : SReg)  -- ADDW R110
  | subw (d a b : SReg)  -- SUBW R110
  | addi (d a : SReg) (i : BitVec 12)  -- ADDI R111
  | andi (d a : SReg) (i : BitVec 12)  -- ANDI R111
  | ori (d a : SReg) (i : BitVec 12)  -- ORI R111
  | xori (d a : SReg) (i : BitVec 12)  -- XORI R111
  | slti (d a : SReg) (i : BitVec 12)  -- SLTI R111
  | sltiu (d a : SReg) (i : BitVec 12)  -- SLTIU R111
  | shli (d a : SReg) (n : BitVec 6)  -- SHLI R112
  | shri (d a : SReg) (n : BitVec 6)  -- SHRI R112
  | sari (d a : SReg) (n : BitVec 6)  -- SARI R112
  | rori (d a : SReg) (n : BitVec 6)  -- RORI R112
  | lui (d : SReg) (i : BitVec 19)  -- LUI R113
  | addpc (d : SReg) (i : BitVec 19)  -- ADDPC R114
  | movl (d : SReg) (lit : BitVec 32)  -- MOVL R68
  | movlz (d : SReg) (lit : BitVec 32)  -- MOVLZ R68
  | movlh (d : SReg) (lit : BitVec 32)  -- MOVLH R115
  | take (ta tb : Bool)  -- TAKE R126
  | br (i : BitVec 19)  -- BR R117
  | bc (c : Cond) (a : SReg) (i : BitVec 12)  -- BC R118
  | jr (a : SReg)  -- JR R119
  | jalr (d a : SReg)  -- JALR R119
  | bal (d : SReg) (i : BitVec 19)  -- BAL R120
  | loop (a : SReg) (i : BitVec 12)  -- LOOP R121
  | vif (c : VRegNo)  -- VIF R144
  | vifz (c : VRegNo)  -- VIFZ R144
  | velse  -- VELSE R144
  | vendif  -- VENDIF R144
  | vendifLx  -- VENDIF_LX R144
  | vloopb  -- VLOOPB R144
  | vbrk (c : VRegNo) (n : BitVec 7)  -- VBRK R144
  | vcont (c : VRegNo) (n : BitVec 7)  -- VCONT R144
  | vloope (d : SReg) (c : VRegNo)  -- VLOOPE R144
  | vgetnc (d : VRegNo)  -- VGETNC R146
  | vsetnc (s : VRegNo)  -- VSETNC R146
  | vadd (d a b : VRegNo)  -- VADD R148
  | vsub (d a b : VRegNo)  -- VSUB R148
  | vmul (d a b : VRegNo)  -- VMUL R148
  | vmulh (d a b : VRegNo)  -- VMULH R148
  | vmulhu (d a b : VRegNo)  -- VMULHU R148
  | vand (d a b : VRegNo)  -- VAND R148
  | vor (d a b : VRegNo)  -- VOR R148
  | vxor (d a b : VRegNo)  -- VXOR R148
  | vandn (d a b : VRegNo)  -- VANDN R148
  | vshl (d a b : VRegNo)  -- VSHL R148
  | vshr (d a b : VRegNo)  -- VSHR R148
  | vsar (d a b : VRegNo)  -- VSAR R148
  | vmin (d a b : VRegNo)  -- VMIN R148
  | vmax (d a b : VRegNo)  -- VMAX R148
  | vminu (d a b : VRegNo)  -- VMINU R148
  | vmaxu (d a b : VRegNo)  -- VMAXU R148
  | vabs (d a : VRegNo)  -- VABS R148
  | vneg (d a : VRegNo)  -- VNEG R148
  | vseq (d a b : VRegNo)  -- VSEQ R148
  | vsne (d a b : VRegNo)  -- VSNE R148
  | vslt (d a b : VRegNo)  -- VSLT R148
  | vsltu (d a b : VRegNo)  -- VSLTU R148
  | vsle (d a b : VRegNo)  -- VSLE R148
  | vsleu (d a b : VRegNo)  -- VSLEU R148
  | vclz (d a : VRegNo)  -- VCLZ R148
  | vpopc (d a : VRegNo)  -- VPOPC R148
  | vaddsat (d a b : VRegNo)  -- VADDSAT R148
  | vsubsat (d a b : VRegNo)  -- VSUBSAT R148
  | vaddsatu (d a b : VRegNo)  -- VADDSATU R148
  | vsubsatu (d a b : VRegNo)  -- VSUBSATU R148
  | vdot4 (d a b : VRegNo)  -- VDOT4 R148
  | vdot4u (d a b : VRegNo)  -- VDOT4U R148
  | vaddScalar (d a : VRegNo) (b : SReg)  -- VADD_SCALAR R148
  | vsubScalar (d a : VRegNo) (b : SReg)  -- VSUB_SCALAR R148
  | vmulScalar (d a : VRegNo) (b : SReg)  -- VMUL_SCALAR R148
  | vmulhScalar (d a : VRegNo) (b : SReg)  -- VMULH_SCALAR R148
  | vmulhuScalar (d a : VRegNo) (b : SReg)  -- VMULHU_SCALAR R148
  | vandScalar (d a : VRegNo) (b : SReg)  -- VAND_SCALAR R148
  | vorScalar (d a : VRegNo) (b : SReg)  -- VOR_SCALAR R148
  | vxorScalar (d a : VRegNo) (b : SReg)  -- VXOR_SCALAR R148
  | vandnScalar (d a : VRegNo) (b : SReg)  -- VANDN_SCALAR R148
  | vshlScalar (d a : VRegNo) (b : SReg)  -- VSHL_SCALAR R148
  | vshrScalar (d a : VRegNo) (b : SReg)  -- VSHR_SCALAR R148
  | vsarScalar (d a : VRegNo) (b : SReg)  -- VSAR_SCALAR R148
  | vminScalar (d a : VRegNo) (b : SReg)  -- VMIN_SCALAR R148
  | vmaxScalar (d a : VRegNo) (b : SReg)  -- VMAX_SCALAR R148
  | vminuScalar (d a : VRegNo) (b : SReg)  -- VMINU_SCALAR R148
  | vmaxuScalar (d a : VRegNo) (b : SReg)  -- VMAXU_SCALAR R148
  | vseqScalar (d a : VRegNo) (b : SReg)  -- VSEQ_SCALAR R148
  | vsneScalar (d a : VRegNo) (b : SReg)  -- VSNE_SCALAR R148
  | vsltScalar (d a : VRegNo) (b : SReg)  -- VSLT_SCALAR R148
  | vsltuScalar (d a : VRegNo) (b : SReg)  -- VSLTU_SCALAR R148
  | vsleScalar (d a : VRegNo) (b : SReg)  -- VSLE_SCALAR R148
  | vsleuScalar (d a : VRegNo) (b : SReg)  -- VSLEU_SCALAR R148
  | vaddsatScalar (d a : VRegNo) (b : SReg)  -- VADDSAT_SCALAR R148
  | vsubsatScalar (d a : VRegNo) (b : SReg)  -- VSUBSAT_SCALAR R148
  | vaddsatuScalar (d a : VRegNo) (b : SReg)  -- VADDSATU_SCALAR R148
  | vsubsatuScalar (d a : VRegNo) (b : SReg)  -- VSUBSATU_SCALAR R148
  | vdot4Scalar (d a : VRegNo) (b : SReg)  -- VDOT4_SCALAR R148
  | vdot4uScalar (d a : VRegNo) (b : SReg)  -- VDOT4U_SCALAR R148
  | vaddH (d a b : VRegNo)  -- VADD_H R149
  | vsubH (d a b : VRegNo)  -- VSUB_H R149
  | vmulH (d a b : VRegNo)  -- VMUL_H R149
  | vmulhH (d a b : VRegNo)  -- VMULH_H R149
  | vminH (d a b : VRegNo)  -- VMIN_H R149
  | vmaxH (d a b : VRegNo)  -- VMAX_H R149
  | vminuH (d a b : VRegNo)  -- VMINU_H R149
  | vmaxuH (d a b : VRegNo)  -- VMAXU_H R149
  | vaddsatH (d a b : VRegNo)  -- VADDSAT_H R149
  | vsubsatH (d a b : VRegNo)  -- VSUBSAT_H R149
  | vaddsatuH (d a b : VRegNo)  -- VADDSATU_H R149
  | vsubsatuH (d a b : VRegNo)  -- VSUBSATU_H R149
  | vseqH (d a b : VRegNo)  -- VSEQ_H R149
  | vsltH (d a b : VRegNo)  -- VSLT_H R149
  | vshlH (d a b : VRegNo)  -- VSHL_H R149
  | vshrH (d a b : VRegNo)  -- VSHR_H R149
  | vsarH (d a b : VRegNo)  -- VSAR_H R149
  | vabsH (d a : VRegNo)  -- VABS_H R149
  | vfadd (d a b : VRegNo)  -- VFADD R150
  | vfsub (d a b : VRegNo)  -- VFSUB R150
  | vfmul (d a b : VRegNo)  -- VFMUL R150
  | vfma (d a b : VRegNo)  -- VFMA R150
  | vfms (d a b : VRegNo)  -- VFMS R150
  | vfnma (d a b : VRegNo)  -- VFNMA R150
  | vfmin (d a b : VRegNo)  -- VFMIN R88
  | vfmax (d a b : VRegNo)  -- VFMAX R88
  | vfminnum (d a b : VRegNo)  -- VFMINNUM R88
  | vfmaxnum (d a b : VRegNo)  -- VFMAXNUM R88
  | vfabs (d a : VRegNo)  -- VFABS R150
  | vfneg (d a : VRegNo)  -- VFNEG R150
  | vfceq (d a b : VRegNo)  -- VFCEQ R88
  | vfclt (d a b : VRegNo)  -- VFCLT R88
  | vfcle (d a b : VRegNo)  -- VFCLE R88
  | vfcun (d a b : VRegNo)  -- VFCUN R88
  | vfdiv (d a b : VRegNo)  -- VFDIV R150
  | vfsqrt (d a : VRegNo)  -- VFSQRT R150
  | vfrcp (d a : VRegNo)  -- VFRCP R86
  | vfrsq (d a : VRegNo)  -- VFRSQ R86
  | vfexp2 (d a : VRegNo)  -- VFEXP2 R86
  | vflog2 (d a : VRegNo)  -- VFLOG2 R86
  | vfrint (d a : VRegNo)  -- VFRINT R150
  | vfclass (d a : VRegNo)  -- VFCLASS R151
  | vfcopysign (d a b : VRegNo)  -- VFCOPYSIGN R150
  | vfaddScalar (d a : VRegNo) (b : SReg)  -- VFADD_SCALAR R150
  | vfsubScalar (d a : VRegNo) (b : SReg)  -- VFSUB_SCALAR R150
  | vfmulScalar (d a : VRegNo) (b : SReg)  -- VFMUL_SCALAR R150
  | vfmaScalar (d a : VRegNo) (b : SReg)  -- VFMA_SCALAR R150
  | vfmsScalar (d a : VRegNo) (b : SReg)  -- VFMS_SCALAR R150
  | vfnmaScalar (d a : VRegNo) (b : SReg)  -- VFNMA_SCALAR R150
  | vfminScalar (d a : VRegNo) (b : SReg)  -- VFMIN_SCALAR R88
  | vfmaxScalar (d a : VRegNo) (b : SReg)  -- VFMAX_SCALAR R88
  | vfminnumScalar (d a : VRegNo) (b : SReg)  -- VFMINNUM_SCALAR R88
  | vfmaxnumScalar (d a : VRegNo) (b : SReg)  -- VFMAXNUM_SCALAR R88
  | vfceqScalar (d a : VRegNo) (b : SReg)  -- VFCEQ_SCALAR R88
  | vfcltScalar (d a : VRegNo) (b : SReg)  -- VFCLT_SCALAR R88
  | vfcleScalar (d a : VRegNo) (b : SReg)  -- VFCLE_SCALAR R88
  | vfcunScalar (d a : VRegNo) (b : SReg)  -- VFCUN_SCALAR R88
  | vfdivScalar (d a : VRegNo) (b : SReg)  -- VFDIV_SCALAR R150
  | vfcopysignScalar (d a : VRegNo) (b : SReg)  -- VFCOPYSIGN_SCALAR R150
  | vhadd (d a b : VRegNo)  -- VHADD R152
  | vhsub (d a b : VRegNo)  -- VHSUB R152
  | vhmul (d a b : VRegNo)  -- VHMUL R152
  | vhfma (d a b : VRegNo)  -- VHFMA R152
  | vhmin (d a b : VRegNo)  -- VHMIN R152
  | vhmax (d a b : VRegNo)  -- VHMAX R152
  | vhceq (d a b : VRegNo)  -- VHCEQ R152
  | vhclt (d a b : VRegNo)  -- VHCLT R152
  | vhcle (d a b : VRegNo)  -- VHCLE R152
  | vhcun (d a b : VRegNo)  -- VHCUN R152
  | vhaddBf (d a b : VRegNo)  -- VHADD_BF R152
  | vhsubBf (d a b : VRegNo)  -- VHSUB_BF R152
  | vhmulBf (d a b : VRegNo)  -- VHMUL_BF R152
  | vhfmaBf (d a b : VRegNo)  -- VHFMA_BF R152
  | vhminBf (d a b : VRegNo)  -- VHMIN_BF R152
  | vhmaxBf (d a b : VRegNo)  -- VHMAX_BF R152
  | vhceqBf (d a b : VRegNo)  -- VHCEQ_BF R152
  | vhcltBf (d a b : VRegNo)  -- VHCLT_BF R152
  | vhcleBf (d a b : VRegNo)  -- VHCLE_BF R152
  | vhcunBf (d a b : VRegNo)  -- VHCUN_BF R152
  | vcvt (d a : VRegNo) (f : BitVec 7) (r s : Bool) (k : BitVec 3)  -- VCVT R154
  | vshuf (d a i : VRegNo)  -- VSHUF R155
  | vrotl (d a : VRegNo) (k : SReg)  -- VROTL R155
  | vbfly (d a : VRegNo) (k : SReg)  -- VBFLY R155
  | vbcast (d a : VRegNo) (k : SReg)  -- VBCAST R155
  | vextr (d : SReg) (a : VRegNo) (k : SReg)  -- VEXTR R155
  | vins (d : VRegNo) (a k : SReg)  -- VINS R155
  | vprefix (d a : VRegNo)  -- VPREFIX R155
  | vredadd (d : SReg) (a : VRegNo)  -- VREDADD R156
  | vredmin (d : SReg) (a : VRegNo)  -- VREDMIN R156
  | vredmax (d : SReg) (a : VRegNo)  -- VREDMAX R156
  | vredminu (d : SReg) (a : VRegNo)  -- VREDMINU R156
  | vredmaxu (d : SReg) (a : VRegNo)  -- VREDMAXU R156
  | vredfadd (d : SReg) (a : VRegNo)  -- VREDFADD R156
  | vmerge (d a b : VRegNo)  -- VMERGE R155
  | vlaneid (d : VRegNo)  -- VLANEID R155
  | vmov (d a : VRegNo)  -- VMOV R155
  | vmovs (d : VRegNo) (a : SReg)  -- VMOVS R155
  | vactmask (d : SReg)  -- VACTMASK R155
  | vpackb (d a : VRegNo) (q : SReg)  -- VPACKB R157
  | vunpkb (d a : VRegNo) (q : SReg)  -- VUNPKB R157
  | vpackh (d a : VRegNo) (q : SReg)  -- VPACKH R157
  | vunpkh (d a : VRegNo) (q : SReg)  -- VUNPKH R157
  | vrand (d : VRegNo)  -- VRAND R158
  | vrandf (d : VRegNo)  -- VRANDF R158
  | xclr (a : SReg)  -- XCLR R161
  | xadd (a : SReg) (b : VRegNo)  -- XADD R161
  | xaddh (a : SReg) (b : VRegNo)  -- XADDH R161
  | xmerge (a b : SReg)  -- XMERGE R161
  | xrdS (d a : SReg)  -- XRD_S R107
  | xrdD (d a : SReg)  -- XRD_D R107
  | ld (d b : SReg) (c : Scope) (o : Order) (z : Size)  -- LD R171
  | lds (d b : SReg) (c : Scope) (o : Order) (z : Size)  -- LDS R171
  | st (d b : SReg) (c : Scope) (o : Order) (z : Size)  -- ST R171
  | ldfe (d b : SReg) (c : Scope) (o : Order)  -- LDFE R173
  | stfe (d b : SReg) (c : Scope) (o : Order)  -- STFE R173
  | ldf (d b : SReg) (c : Scope) (o : Order)  -- LDF R173
  | stf (d b : SReg) (c : Scope) (o : Order)  -- STF R173
  | feset (b : SReg) (c : Scope) (o : Order)  -- FESET R173
  | feclr (b : SReg) (c : Scope) (o : Order)  -- FECLR R173
  | feget (d b : SReg) (c : Scope) (o : Order)  -- FEGET R173
  | waiteq (d b : SReg) (c : Scope) (o : Order) (z : Size)  -- WAITEQ R176
  | waitne (d b : SReg) (c : Scope) (o : Order) (z : Size)  -- WAITNE R176
  | pref (b : SReg)  -- PREF R177
  | vld (d : VRegNo) (b : SReg) (c : Scope) (o : Order) (z : VSize)  -- VLD R178
  | vldFe (d : VRegNo) (b : SReg) (c : Scope) (o : Order)  -- VLD_FE R180
  | vldF (d : VRegNo) (b : SReg) (c : Scope) (o : Order)  -- VLD_F R180
  | vst (d : VRegNo) (b : SReg) (c : Scope) (o : Order) (z : VSize)  -- VST R178
  | vstFe (d : VRegNo) (b : SReg) (c : Scope) (o : Order)  -- VST_FE R180
  | vstF (d : VRegNo) (b : SReg) (c : Scope) (o : Order)  -- VST_F R180
  | vgath (d : VRegNo) (b : SReg) (i : VRegNo) (c : Scope) (o : Order) (z : VSize)  -- VGATH R178
  | vscat (d : VRegNo) (b : SReg) (i : VRegNo) (c : Scope) (o : Order) (z : VSize)  -- VSCAT R178
  | vldk (d : VRegNo) (b k : SReg) (c : Scope) (o : Order) (z : VSize)  -- VLDK R178
  | vstk (d : VRegNo) (b k : SReg) (c : Scope) (o : Order) (z : VSize)  -- VSTK R178
  | aadd (d b : SReg) (c : Scope) (o : Order) (z : Size)  -- AADD R181
  | aand (d b : SReg) (c : Scope) (o : Order) (z : Size)  -- AAND R181
  | aor (d b : SReg) (c : Scope) (o : Order) (z : Size)  -- AOR R181
  | axor (d b : SReg) (c : Scope) (o : Order) (z : Size)  -- AXOR R181
  | amin (d b : SReg) (c : Scope) (o : Order) (z : Size)  -- AMIN R181
  | amax (d b : SReg) (c : Scope) (o : Order) (z : Size)  -- AMAX R181
  | aminu (d b : SReg) (c : Scope) (o : Order) (z : Size)  -- AMINU R181
  | amaxu (d b : SReg) (c : Scope) (o : Order) (z : Size)  -- AMAXU R181
  | aswap (d b : SReg) (c : Scope) (o : Order) (z : Size)  -- ASWAP R181
  | acas (d b : SReg) (c : Scope) (o : Order) (z : Size)  -- ACAS R182
  | afadd (d b : SReg) (c : Scope) (o : Order)  -- AFADD R181
  | afmax (d b : SReg) (c : Scope) (o : Order)  -- AFMAX R181
  | vaadd (d : VRegNo) (b : SReg) (i : VRegNo) (o : Order)  -- VAADD R183
  | vaand (d : VRegNo) (b : SReg) (i : VRegNo) (o : Order)  -- VAAND R183
  | vaor (d : VRegNo) (b : SReg) (i : VRegNo) (o : Order)  -- VAOR R183
  | vaxor (d : VRegNo) (b : SReg) (i : VRegNo) (o : Order)  -- VAXOR R183
  | vamin (d : VRegNo) (b : SReg) (i : VRegNo) (o : Order)  -- VAMIN R183
  | vamax (d : VRegNo) (b : SReg) (i : VRegNo) (o : Order)  -- VAMAX R183
  | vaminu (d : VRegNo) (b : SReg) (i : VRegNo) (o : Order)  -- VAMINU R183
  | vamaxu (d : VRegNo) (b : SReg) (i : VRegNo) (o : Order)  -- VAMAXU R183
  | vaswap (d : VRegNo) (b : SReg) (i : VRegNo) (o : Order)  -- VASWAP R183
  | vafadd (d : VRegNo) (b : SReg) (i : VRegNo) (o : Order)  -- VAFADD R183
  | fence (c : Scope) (o : Order)  -- FENCE R184
  | fenceSc (c : Scope)  -- FENCE_SC R274
  | fenceSv  -- FENCE_SV R184
  | barinit (n c : SReg)  -- BARINIT R187
  | bararr (n : SReg)  -- BARARR R188
  | barwait (n : SReg)  -- BARWAIT R189
  | bararw (n : SReg)  -- BARARW R189
  | barlead (d n : SReg)  -- BARLEAD R189
  | barq (d n : SReg)  -- BARQ R189
  | tlwait (d v : SReg) (t : Timeline)  -- TLWAIT R190
  | tlget (d : SReg) (t : Timeline)  -- TLGET R191
  | nclaim (d b : SReg)  -- NCLAIM R192
  | nunpack (d i : SReg) (n : BitVec 2)  -- NUNPACK R193
  | park (d : SReg)  -- PARK R194
  | wake (g : SReg)  -- WAKE R195
  | sdef (n b : SReg) (x : Bool) (z : VSize)  -- SDEF R203
  | sdim (n v : SReg) (j : BitVec 7)  -- SDIM R203
  | sbind (d : VRegNo) (n : SReg)  -- SBIND R204
  | sunbind (d : VRegNo)  -- SUNBIND R204
  | sgo (n : SReg)  -- SGO R205
  | sstop (n : SReg)  -- SSTOP R205
  | sstat (d n : SReg)  -- SSTAT R206
  | sdrain (n : SReg)  -- SDRAIN R205
  | cpset (s : SReg) (n : BitVec 7)  -- CPSET R213
  | cpget (d : SReg) (n : BitVec 7)  -- CPGET R213
  | cpgo (d : SReg) (t : BitVec 2)  -- CPGO R214
  | cpstat (d : SReg) (t : BitVec 2)  -- CPSTAT R219
  | cpresume (n : SReg) (t : BitVec 2)  -- CPRESUME R221
  | obres (v : SReg) (n : BitVec 4)  -- OBRES R224
  | obfree (n : BitVec 4)  -- OBFREE R225
  | bsres (v : SReg) (n : BitVec 4)  -- BSRES R224
  | bsfree (n : BitVec 4)  -- BSFREE R225
  | mma (a b : SReg) (k : BitVec 5) (t : BitVec 2)  -- MMA R228
  | mmaz (a b : SReg) (k : BitVec 5) (t : BitVec 2)  -- MMAZ R228
  | accz (t : BitVec 2)  -- ACCZ R232
  | accrd (d : VRegNo) (c : SReg) (t : BitVec 2)  -- ACCRD R232
  | accwr (s : VRegNo) (c : SReg) (t : BitVec 2)  -- ACCWR R232
  | accst (b : SReg) (t : BitVec 2)  -- ACCST R233
  | mrot (l h : SReg)  -- MROT R235
  | publish (c : SReg)  -- PUBLISH R240
  | unpublish  -- UNPUBLISH R240
  | subscribe (c : SReg)  -- SUBSCRIBE R241
  | depart (k : Cond) (a : SReg) (i : BitVec 7)  -- DEPART R247
  | rejoin (c : SReg)  -- REJOIN R241
  | chstat (d c : SReg)  -- CHSTAT R248
  | ralloc (d : VRegNo) (n : SReg) (t : Bool)  -- RALLOC R253
  | rallocw (d : VRegNo) (n : SReg) (t : Bool)  -- RALLOCW R254
  | rcommit (d : VRegNo) (n : SReg) (v : Bool)  -- RCOMMIT R256
  | rdone  -- RDONE R257
  | rdepth (d n : SReg)  -- RDEPTH R255
  | rinfo (d n : SReg) (k : BitVec 7)  -- RINFO R258
  | slotstart (c e : SReg)  -- SLOTSTART R262
  | slotreap (d t : SReg)  -- SLOTREAP R264
  | slotexit  -- SLOTEXIT R263
  | regclaim (d n : SReg)  -- REGCLAIM R265
  | regyield (d n : SReg)  -- REGYIELD R265
  | regmode (r : BitVec 7) (l v m : Bool)  -- REGMODE R128
  | slotctlState (v g : SReg)  -- SLOTCTL_STATE R266
  | slotctlRdsr (v g : SReg)  -- SLOTCTL_RDSR R266
  | slotctlWrsr (v g : SReg)  -- SLOTCTL_WRSR R266
  | slotctlRds (v g : SReg)  -- SLOTCTL_RDS R266
  | slotctlWrs (v g : SReg)  -- SLOTCTL_WRS R266
  | slotctlRdv (v g : SReg)  -- SLOTCTL_RDV R266
  | slotctlWrv (v g : SReg)  -- SLOTCTL_WRV R266
  | slotctlRdctx (v g : SReg)  -- SLOTCTL_RDCTX R267
  | slotctlWrctx (v g : SReg)  -- SLOTCTL_WRCTX R267
  | slotctlResume (v g : SReg)  -- SLOTCTL_RESUME R367
  | slotctlKill (v g : SReg)  -- SLOTCTL_KILL R366
  | slotctlSpill (v g : SReg)  -- SLOTCTL_SPILL R310
  | getsr (d : SReg) (n : SpecReg)  -- GETSR R129
  | setsr (s : SReg) (n : SpecReg)  -- SETSR R129
  | trap (s : SReg) (c : BitVec 7)  -- TRAP R131
  | brkpt (c : BitVec 7)  -- BRKPT R131
  | locality (d s : SReg)  -- LOCALITY R132
  | icinv  -- ICINV R133
  | nop  -- NOP R135
  | idle (s : SReg)  -- IDLE R136
  | idleDelayEnd (g : GRef)  -- IDLE_DELAY_END R136
  | waitqSatisfied (g : GRef)  -- WAITQ_SATISFIED R53
  | instructionCacheRefill (g : GRef)  -- INSTRUCTION_CACHE_REFILL R340
  | icinvComplete (g : GRef)  -- ICINV_COMPLETE R133
  | producerValueWrite (g : GRef) (op : Nat)  -- PRODUCER_VALUE_WRITE R19
  | postedAcknowledgement (g : GRef) (op : Nat)  -- POSTED_ACKNOWLEDGEMENT R167
  | activeMessage (g : GRef) (op : Nat)  -- ACTIVE_MESSAGE R321
  | waiterResend (g : GRef) (op : Nat)  -- WAITER_RESEND R174
  | fewaitExpiry (g : GRef)  -- FEWAIT_EXPIRY R175
  | cancelAnswer (g : GRef)  -- CANCEL_ANSWER R175
  | barrierArrival (g : GRef) (op : Nat)  -- BARRIER_ARRIVAL R188
  | wakeArrival (g : GRef) (op : Nat)  -- WAKE_ARRIVAL R195
  | parkTimeout (g : GRef)  -- PARK_TIMEOUT R194
  | streamElementRead (p : PkgId) (c : CellId) (x : BitVec 5)  -- STREAM_ELEMENT_READ R207
  | streamElementWrite (p : PkgId) (c : CellId) (x : BitVec 5)  -- STREAM_ELEMENT_WRITE R207
  | copyLaunchAccept (p : PkgId) (c : CellId) (x : BitVec 2)  -- COPY_LAUNCH_ACCEPT R214
  | copyPayload (p : PkgId) (c : CellId) (x : BitVec 2)  -- COPY_PAYLOAD R215
  | copyCompletion (p : PkgId) (c : CellId) (x : BitVec 2)  -- COPY_COMPLETION R217
  | copyWaitrecResume (p : PkgId) (c : CellId) (x : BitVec 2)  -- COPY_WAITREC_RESUME R217
  | matrixStep (g : GRef)  -- MATRIX_STEP R229
  | stepAccumulation (p : PkgId) (c : CellId)  -- STEP_ACCUMULATION R229
  | rotationTableEffect (p : PkgId) (c : CellId)  -- ROTATION_TABLE_EFFECT R41
  | powerCapEffect (p : PkgId)  -- POWER_CAP_EFFECT R396
  | channelRegistry (g : GRef)  -- CHANNEL_REGISTRY R240
  | publishedInstruction (g : GRef)  -- PUBLISHED_INSTRUCTION R242
  | endMark (g : GRef)  -- END_MARK R240
  | channelStop (g : GRef)  -- CHANNEL_STOP R246
  | joinWaitExpiry (g : GRef)  -- JOIN_WAIT_EXPIRY R241
  | shawmRecordOperation (g : GRef) (op : Nat)  -- SHAWM_RECORD_OPERATION R259
  | rallocwServed (g : GRef)  -- RALLOCW_SERVED R254
  | rallocwWaitExpiry (g : GRef)  -- RALLOCW_WAIT_EXPIRY R254
  | coalescingTimer (p : PkgId) (x : BitVec 6) (n : BitVec 12)  -- COALESCING_TIMER R293
  | placementReservation (p : PkgId) (q : BitVec 3)  -- PLACEMENT_RESERVATION R301
  | placementRetry (p : PkgId) (q : BitVec 3)  -- PLACEMENT_RETRY R299
  | groupCommit (p : PkgId) (q : BitVec 3)  -- GROUP_COMMIT R295
  | groupStart (g : GRef)  -- GROUP_START R305
  | slotStartFirstIssue (g : GRef)  -- SLOT_START_FIRST_ISSUE R262
  | groupSlotReturn (g : GRef)  -- GROUP_SLOT_RETURN R306
  | groupEnd (p : PkgId) (x : BitVec 6) (launch : Nat)  -- GROUP_END R306
  | hostRecordAppend (p : PkgId) (x : BitVec 6)  -- HOST_RECORD_APPEND R400
  | graphLoadComplete (p : PkgId) (x : BitVec 6)  -- GRAPH_LOAD_COMPLETE R288
  | graphTeardownComplete (p : PkgId) (x : BitVec 6)  -- GRAPH_TEARDOWN_COMPLETE R312
  | spillComplete (g : GRef)  -- SPILL_COMPLETE R310
  | resumeRestore (g : GRef)  -- RESUME_RESTORE R311
  | resumedSlotFirstIssue (g : GRef)  -- RESUMED_SLOT_FIRST_ISSUE R367
  | faultRecordPost (p : PkgId) (ring : Ring)  -- FAULT_RECORD_POST R363
  | mailboxPoll (p : PkgId) (q : BitVec 3)  -- MAILBOX_POLL R372
  | mboxSlotctlState (p : PkgId) (q : BitVec 3)  -- MBOX_SLOTCTL_STATE R372
  | mboxSlotctlRdsr (p : PkgId) (q : BitVec 3)  -- MBOX_SLOTCTL_RDSR R372
  | mboxSlotctlWrsr (p : PkgId) (q : BitVec 3)  -- MBOX_SLOTCTL_WRSR R372
  | mboxSlotctlRds (p : PkgId) (q : BitVec 3)  -- MBOX_SLOTCTL_RDS R372
  | mboxSlotctlWrs (p : PkgId) (q : BitVec 3)  -- MBOX_SLOTCTL_WRS R372
  | mboxSlotctlRdv (p : PkgId) (q : BitVec 3)  -- MBOX_SLOTCTL_RDV R372
  | mboxSlotctlWrv (p : PkgId) (q : BitVec 3)  -- MBOX_SLOTCTL_WRV R372
  | mboxSlotctlRdctx (p : PkgId) (q : BitVec 3)  -- MBOX_SLOTCTL_RDCTX R372
  | mboxSlotctlWrctx (p : PkgId) (q : BitVec 3)  -- MBOX_SLOTCTL_WRCTX R372
  | mboxSlotctlResume (p : PkgId) (q : BitVec 3)  -- MBOX_SLOTCTL_RESUME R372
  | mboxSlotctlKill (p : PkgId) (q : BitVec 3)  -- MBOX_SLOTCTL_KILL R372
  | mboxSlotctlSpill (p : PkgId) (q : BitVec 3)  -- MBOX_SLOTCTL_SPILL R372
  | graphload (p : PkgId) (q : BitVec 3)  -- GRAPHLOAD R288
  | graphtear (p : PkgId) (q : BitVec 3)  -- GRAPHTEAR R312
  | inval (p : PkgId) (q : BitVec 3)  -- INVAL R335
  | invalidationComplete (p : PkgId) (q : BitVec 3)  -- INVALIDATION_COMPLETE R335
  | mboxFence (p : PkgId) (q : BitVec 3)  -- MBOX_FENCE R373
  | unfence (p : PkgId) (q : BitVec 3)  -- UNFENCE R373
  | reset (p : PkgId) (q : BitVec 3)  -- RESET R375
  | partitionResetComplete (p : PkgId) (q : BitVec 3)  -- PARTITION_RESET_COMPLETE R375
  | switch (p : PkgId) (q : BitVec 3)  -- SWITCH R377
  | switchDrainComplete (p : PkgId) (q : BitVec 3)  -- SWITCH_DRAIN_COMPLETE R377
  | switchDeadline (p : PkgId) (q : BitVec 3)  -- SWITCH_DEADLINE R377
  | partOpen (p : PkgId) (q : BitVec 3)  -- OPEN R370
  | close (p : PkgId) (q : BitVec 3)  -- CLOSE R373
  | resetpkg (p : PkgId)  -- RESETPKG R403
  | twinHashArrival (g : GRef) (op : Nat)  -- TWIN_HASH_ARRIVAL R379
  | twinHashTimeout (g : GRef)  -- TWIN_HASH_TIMEOUT R379
  | enable (p : PkgId)  -- ENABLE R343
  | protectionInitComplete (p : PkgId)  -- PROTECTION_INIT_COMPLETE R343
  | disable (p : PkgId)  -- DISABLE R343
  | declare (p : PkgId) (m : BitVec 4)  -- DECLARE R354
  | rebuild (p : PkgId)  -- REBUILD R356
  | parityDelta (p : PkgId) (x : Nat)  -- PARITY_DELTA R347
  | deltaForward (p : PkgId) (x : Nat)  -- DELTA_FORWARD R347
  | deltaAcknowledgement (p : PkgId) (x : Nat)  -- DELTA_ACKNOWLEDGEMENT R347
  | parityAcknowledgement (p : PkgId) (x : Nat)  -- PARITY_ACKNOWLEDGEMENT R350
  | deltaSilence (p : PkgId) (m : PkgId)  -- DELTA_SILENCE R353
  | quiesceDrainComplete (p : PkgId)  -- QUIESCE_DRAIN_COMPLETE R354
  | stripeRebuild (p : PkgId) (stripe : Nat)  -- STRIPE_REBUILD R356
  | sectorReconstruction (p : PkgId) (sector : Nat)  -- SECTOR_RECONSTRUCTION R352
  | patrolScrub (p : PkgId) (u : ScrubUnit) (bad : Bool)  -- PATROL_SCRUB R337
  | hostWrite (p : PkgId) (off : Word) (bytes : List Byte)  -- HOST_WRITE R399
  | hostRead (p : PkgId) (off : Word) (n : Nat)  -- HOST_READ R399
  | svfence (p : PkgId)  -- SVFENCE R401
  | mailboxDoorbell (p : PkgId) (q : BitVec 3)  -- MAILBOX_DOORBELL R399
  | intstat (p : PkgId) (v : Word)  -- INTSTAT R399
  | mevent (p : PkgId) (v : Word)  -- MEVENT R402
  | fusepkg (p : PkgId) (v : Word)  -- FUSEPKG R387
  | timectlStep (p : PkgId) (v : Word)  -- TIMECTL_STEP R394
  | pwrcap (p : PkgId) (v : Word)  -- PWRCAP R396
  | produceReport (p : PkgId)  -- PRODUCE_REPORT R405
  | reportComplete (p : PkgId)  -- REPORT_COMPLETE R405
  | registerWrite (p : PkgId) (r : HostReg) (v : Word)  -- REGISTER_WRITE R402
  | flitReplay (p : PkgId) (x : BitVec 5)  -- FLIT_REPLAY R386
  | portUp (p : PkgId) (x : BitVec 5) (peer : PkgId) (pdom : BitVec 8)  -- PORT_UP R388
  | portFailure (p : PkgId) (x : BitVec 5)  -- PORT_FAILURE R388
  | routeUnreachable (p : PkgId) (m : PkgId)  -- ROUTE_UNREACHABLE R388
  | timeSync (p : PkgId)  -- TIME_SYNC R394
  | referenceLoss (p : PkgId)  -- REFERENCE_LOSS R392
  | referenceReturn (p : PkgId)  -- REFERENCE_RETURN R392
  | droopTrip (p : PkgId) (die : BitVec 3)  -- DROOP_TRIP R391
  | stretchEnd (p : PkgId)  -- STRETCH_END R391
  | powerAlert (p : PkgId)  -- POWER_ALERT R396
  | thermalTrip (p : PkgId)  -- THERMAL_TRIP R396
  | packageReset (p : PkgId)  -- PACKAGE_RESET R403
  | bringupStageComplete (p : PkgId) (code : Byte)  -- BRINGUP_STAGE_COMPLETE R403
  | memoryEdgeRequest (g : GRef) (op : Nat)  -- MEMORY_EDGE_REQUEST R347
  | xaccHoldEnd (g : GRef)  -- XACC_HOLD_END R162
  | illegalEncoding (clause : Bool)  -- ILLEGAL_ENCODING R72
  deriving DecidableEq, Repr, Inhabited

end Sys2Proof
end

