-- ==== Sys2Proof/WellFormed.lean ====
section
/-! DEFINITION. Which instructions are well-formed: the checks of step 4 of R72 that the fields of `Instr` do not
already make by their types (R58, R60-R65, R71 and the field tables of the instruction chapters). -/

namespace Sys2Proof

/-- The valid 7-bit format codes (R65). -/
def validFormat (f : BitVec 7) : Bool :=
  if f.toNat < 32 then f.toNat % 8 != 0 else f.toNat < 0x28

/-- The conditions that read lanes and no register (R63). -/
def Cond.lane : Cond → Bool
  | .any => true | .none => true | .all => true
  | .eqz => false | .nez => false | .ltz => false | .gez => false | .gtz => false | .lez => false

/-- Whether a spelled-out instruction is one the decoder accepts. The rows without an encoding are events; every one
of them is well-formed. -/
def Instr.wf (i : Instr) : Bool :=
  match i with
  | .add _ _ _ => true
  | .sub _ _ _ => true
  | .and _ _ _ => true
  | .or _ _ _ => true
  | .xor _ _ _ => true
  | .andn _ _ _ => true
  | .shl _ _ _ => true
  | .shr _ _ _ => true
  | .sar _ _ _ => true
  | .ror _ _ _ => true
  | .mul _ _ _ => true
  | .mulh _ _ _ => true
  | .mulhu _ _ _ => true
  | .div _ _ _ => true
  | .divu _ _ _ => true
  | .rem _ _ _ => true
  | .remu _ _ _ => true
  | .min _ _ _ => true
  | .max _ _ _ => true
  | .minu _ _ _ => true
  | .maxu _ _ _ => true
  | .seq _ _ _ => true
  | .sne _ _ _ => true
  | .slt _ _ _ => true
  | .sltu _ _ _ => true
  | .sle _ _ _ => true
  | .sleu _ _ _ => true
  | .clz _ _ => true
  | .popc _ _ => true
  | .brev _ _ => true
  | .addw _ _ _ => true
  | .subw _ _ _ => true
  | .addi _ _ _ => true
  | .andi _ _ _ => true
  | .ori _ _ _ => true
  | .xori _ _ _ => true
  | .slti _ _ _ => true
  | .sltiu _ _ _ => true
  | .shli _ _ _ => true
  | .shri _ _ _ => true
  | .sari _ _ _ => true
  | .rori _ _ _ => true
  | .lui _ _ => true
  | .addpc _ _ => true
  | .movl _ _ => true
  | .movlz _ _ => true
  | .movlh _ _ => true
  | .take ta tb => (ta || tb)
  | .br _ => true
  | .bc c a _ => (!c.lane || a == 0)
  | .jr _ => true
  | .jalr _ _ => true
  | .bal _ _ => true
  | .loop _ _ => true
  | .vif _ => true
  | .vifz _ => true
  | .velse => true
  | .vendif => true
  | .vendifLx => true
  | .vloopb => true
  | .vbrk _ n => n.toNat ≤ 61
  | .vcont _ n => n.toNat ≤ 62
  | .vloope _ _ => true
  | .vgetnc _ => true
  | .vsetnc _ => true
  | .vadd _ _ _ => true
  | .vsub _ _ _ => true
  | .vmul _ _ _ => true
  | .vmulh _ _ _ => true
  | .vmulhu _ _ _ => true
  | .vand _ _ _ => true
  | .vor _ _ _ => true
  | .vxor _ _ _ => true
  | .vandn _ _ _ => true
  | .vshl _ _ _ => true
  | .vshr _ _ _ => true
  | .vsar _ _ _ => true
  | .vmin _ _ _ => true
  | .vmax _ _ _ => true
  | .vminu _ _ _ => true
  | .vmaxu _ _ _ => true
  | .vabs _ _ => true
  | .vneg _ _ => true
  | .vseq _ _ _ => true
  | .vsne _ _ _ => true
  | .vslt _ _ _ => true
  | .vsltu _ _ _ => true
  | .vsle _ _ _ => true
  | .vsleu _ _ _ => true
  | .vclz _ _ => true
  | .vpopc _ _ => true
  | .vaddsat _ _ _ => true
  | .vsubsat _ _ _ => true
  | .vaddsatu _ _ _ => true
  | .vsubsatu _ _ _ => true
  | .vdot4 _ _ _ => true
  | .vdot4u _ _ _ => true
  | .vaddScalar _ _ _ => true
  | .vsubScalar _ _ _ => true
  | .vmulScalar _ _ _ => true
  | .vmulhScalar _ _ _ => true
  | .vmulhuScalar _ _ _ => true
  | .vandScalar _ _ _ => true
  | .vorScalar _ _ _ => true
  | .vxorScalar _ _ _ => true
  | .vandnScalar _ _ _ => true
  | .vshlScalar _ _ _ => true
  | .vshrScalar _ _ _ => true
  | .vsarScalar _ _ _ => true
  | .vminScalar _ _ _ => true
  | .vmaxScalar _ _ _ => true
  | .vminuScalar _ _ _ => true
  | .vmaxuScalar _ _ _ => true
  | .vseqScalar _ _ _ => true
  | .vsneScalar _ _ _ => true
  | .vsltScalar _ _ _ => true
  | .vsltuScalar _ _ _ => true
  | .vsleScalar _ _ _ => true
  | .vsleuScalar _ _ _ => true
  | .vaddsatScalar _ _ _ => true
  | .vsubsatScalar _ _ _ => true
  | .vaddsatuScalar _ _ _ => true
  | .vsubsatuScalar _ _ _ => true
  | .vdot4Scalar _ _ _ => true
  | .vdot4uScalar _ _ _ => true
  | .vaddH _ _ _ => true
  | .vsubH _ _ _ => true
  | .vmulH _ _ _ => true
  | .vmulhH _ _ _ => true
  | .vminH _ _ _ => true
  | .vmaxH _ _ _ => true
  | .vminuH _ _ _ => true
  | .vmaxuH _ _ _ => true
  | .vaddsatH _ _ _ => true
  | .vsubsatH _ _ _ => true
  | .vaddsatuH _ _ _ => true
  | .vsubsatuH _ _ _ => true
  | .vseqH _ _ _ => true
  | .vsltH _ _ _ => true
  | .vshlH _ _ _ => true
  | .vshrH _ _ _ => true
  | .vsarH _ _ _ => true
  | .vabsH _ _ => true
  | .vfadd _ _ _ => true
  | .vfsub _ _ _ => true
  | .vfmul _ _ _ => true
  | .vfma _ _ _ => true
  | .vfms _ _ _ => true
  | .vfnma _ _ _ => true
  | .vfmin _ _ _ => true
  | .vfmax _ _ _ => true
  | .vfminnum _ _ _ => true
  | .vfmaxnum _ _ _ => true
  | .vfabs _ _ => true
  | .vfneg _ _ => true
  | .vfceq _ _ _ => true
  | .vfclt _ _ _ => true
  | .vfcle _ _ _ => true
  | .vfcun _ _ _ => true
  | .vfdiv _ _ _ => true
  | .vfsqrt _ _ => true
  | .vfrcp _ _ => true
  | .vfrsq _ _ => true
  | .vfexp2 _ _ => true
  | .vflog2 _ _ => true
  | .vfrint _ _ => true
  | .vfclass _ _ => true
  | .vfcopysign _ _ _ => true
  | .vfaddScalar _ _ _ => true
  | .vfsubScalar _ _ _ => true
  | .vfmulScalar _ _ _ => true
  | .vfmaScalar _ _ _ => true
  | .vfmsScalar _ _ _ => true
  | .vfnmaScalar _ _ _ => true
  | .vfminScalar _ _ _ => true
  | .vfmaxScalar _ _ _ => true
  | .vfminnumScalar _ _ _ => true
  | .vfmaxnumScalar _ _ _ => true
  | .vfceqScalar _ _ _ => true
  | .vfcltScalar _ _ _ => true
  | .vfcleScalar _ _ _ => true
  | .vfcunScalar _ _ _ => true
  | .vfdivScalar _ _ _ => true
  | .vfcopysignScalar _ _ _ => true
  | .vhadd _ _ _ => true
  | .vhsub _ _ _ => true
  | .vhmul _ _ _ => true
  | .vhfma _ _ _ => true
  | .vhmin _ _ _ => true
  | .vhmax _ _ _ => true
  | .vhceq _ _ _ => true
  | .vhclt _ _ _ => true
  | .vhcle _ _ _ => true
  | .vhcun _ _ _ => true
  | .vhaddBf _ _ _ => true
  | .vhsubBf _ _ _ => true
  | .vhmulBf _ _ _ => true
  | .vhfmaBf _ _ _ => true
  | .vhminBf _ _ _ => true
  | .vhmaxBf _ _ _ => true
  | .vhceqBf _ _ _ => true
  | .vhcltBf _ _ _ => true
  | .vhcleBf _ _ _ => true
  | .vhcunBf _ _ _ => true
  | .vcvt _ _ f _ _ _ => validFormat f
  | .vshuf _ _ _ => true
  | .vrotl _ _ _ => true
  | .vbfly _ _ _ => true
  | .vbcast _ _ _ => true
  | .vextr _ _ _ => true
  | .vins _ _ _ => true
  | .vprefix _ _ => true
  | .vredadd _ _ => true
  | .vredmin _ _ => true
  | .vredmax _ _ => true
  | .vredminu _ _ => true
  | .vredmaxu _ _ => true
  | .vredfadd _ _ => true
  | .vmerge _ _ _ => true
  | .vlaneid _ => true
  | .vmov _ _ => true
  | .vmovs _ _ => true
  | .vactmask _ => true
  | .vpackb _ _ _ => true
  | .vunpkb _ _ _ => true
  | .vpackh _ _ _ => true
  | .vunpkh _ _ _ => true
  | .vrand _ => true
  | .vrandf _ => true
  | .xclr _ => true
  | .xadd _ _ => true
  | .xaddh _ _ => true
  | .xmerge _ _ => true
  | .xrdS _ _ => true
  | .xrdD _ _ => true
  | .ld _ _ _ o _ => (o == .rlx || o == .acq)
  | .lds _ _ _ o z => (o == .rlx || o == .acq) && z != .d
  | .st _ _ _ o _ => (o == .rlx || o == .rel)
  | .ldfe _ _ _ o => (o == .rlx || o == .acq)
  | .stfe _ _ _ o => (o == .rlx || o == .rel)
  | .ldf _ _ _ o => (o == .rlx || o == .acq)
  | .stf _ _ _ o => (o == .rlx || o == .rel)
  | .feset _ _ o => (o == .rlx || o == .rel)
  | .feclr _ _ o => (o == .rlx || o == .rel)
  | .feget _ _ _ o => (o == .rlx || o == .acq)
  | .waiteq _ _ _ o z => (o == .rlx || o == .acq) && (z == .w || z == .d)
  | .waitne _ _ _ o z => (o == .rlx || o == .acq) && (z == .w || z == .d)
  | .pref _ => true
  | .vld _ _ _ o _ => (o == .rlx || o == .acq)
  | .vldFe _ _ _ o => (o == .rlx || o == .acq)
  | .vldF _ _ _ o => (o == .rlx || o == .acq)
  | .vst _ _ _ o z => (o == .rlx || o == .rel) && z != .hs
  | .vstFe _ _ _ o => (o == .rlx || o == .rel)
  | .vstF _ _ _ o => (o == .rlx || o == .rel)
  | .vgath _ _ _ _ o _ => (o == .rlx || o == .acq)
  | .vscat _ _ _ _ o z => (o == .rlx || o == .rel) && z != .hs
  | .vldk _ _ _ _ o _ => (o == .rlx || o == .acq)
  | .vstk _ _ _ _ o z => (o == .rlx || o == .rel) && z != .hs
  | .aadd _ _ _ _ z => (z == .w || z == .d)
  | .aand _ _ _ _ z => (z == .w || z == .d)
  | .aor _ _ _ _ z => (z == .w || z == .d)
  | .axor _ _ _ _ z => (z == .w || z == .d)
  | .amin _ _ _ _ z => (z == .w || z == .d)
  | .amax _ _ _ _ z => (z == .w || z == .d)
  | .aminu _ _ _ _ z => (z == .w || z == .d)
  | .amaxu _ _ _ _ z => (z == .w || z == .d)
  | .aswap _ _ _ _ z => (z == .w || z == .d)
  | .acas d _ _ _ z => (z == .w || z == .d) && d.toNat % 2 == 0
  | .afadd _ _ _ _ => true
  | .afmax _ _ _ _ => true
  | .vaadd _ _ _ _ => true
  | .vaand _ _ _ _ => true
  | .vaor _ _ _ _ => true
  | .vaxor _ _ _ _ => true
  | .vamin _ _ _ _ => true
  | .vamax _ _ _ _ => true
  | .vaminu _ _ _ _ => true
  | .vamaxu _ _ _ _ => true
  | .vaswap _ _ _ _ => true
  | .vafadd _ _ _ _ => true
  | .fence c o => c != .sv && o != .rlx
  | .fenceSc c => c != .sv
  | .fenceSv => true
  | .barinit _ _ => true
  | .bararr _ => true
  | .barwait _ => true
  | .bararw _ => true
  | .barlead _ _ => true
  | .barq _ _ => true
  | .tlwait _ _ _ => true
  | .tlget _ _ => true
  | .nclaim d _ => d != 31
  | .nunpack d i n => i.toNat % 2 == 0 && d.toNat + n.toNat ≤ 31
  | .park _ => true
  | .wake _ => true
  | .sdef _ _ x z => !(x && z == .hs)
  | .sdim _ _ j => j.toNat ≤ 4
  | .sbind _ _ => true
  | .sunbind _ => true
  | .sgo _ => true
  | .sstop _ => true
  | .sstat _ _ => true
  | .sdrain _ => true
  | .cpset _ n => n.toNat ≤ 10
  | .cpget _ n => n.toNat ≤ 10
  | .cpgo _ _ => true
  | .cpstat _ _ => true
  | .cpresume _ _ => true
  | .obres _ _ => true
  | .obfree _ => true
  | .bsres _ _ => true
  | .bsfree _ => true
  | .mma _ _ _ _ => true
  | .mmaz _ _ _ _ => true
  | .accz _ => true
  | .accrd _ _ _ => true
  | .accwr _ _ _ => true
  | .accst _ _ => true
  | .mrot _ _ => true
  | .publish _ => true
  | .unpublish => true
  | .subscribe _ => true
  | .depart k a _ => (!k.lane || a == 0)
  | .rejoin _ => true
  | .chstat _ _ => true
  | .ralloc _ _ _ => true
  | .rallocw _ _ _ => true
  | .rcommit _ _ _ => true
  | .rdone => true
  | .rdepth _ _ => true
  | .rinfo _ _ k => k.toNat ≤ 11
  | .slotstart _ _ => true
  | .slotreap _ _ => true
  | .slotexit => true
  | .regclaim _ _ => true
  | .regyield _ _ => true
  | .regmode r l v _ => (if l then r == 0 else (v || r.toNat < 32))
  | .slotctlState _ _ => true
  | .slotctlRdsr _ _ => true
  | .slotctlWrsr _ _ => true
  | .slotctlRds _ _ => true
  | .slotctlWrs _ _ => true
  | .slotctlRdv _ _ => true
  | .slotctlWrv _ _ => true
  | .slotctlRdctx _ _ => true
  | .slotctlWrctx _ _ => true
  | .slotctlResume _ _ => true
  | .slotctlKill _ _ => true
  | .slotctlSpill _ _ => true
  | .getsr _ _ => true
  | .setsr _ _ => true
  | .trap _ _ => true
  | .brkpt _ => true
  | .locality _ _ => true
  | .icinv => true
  | .nop => true
  | .idle _ => true
  | .idleDelayEnd _ => true
  | .waitqSatisfied _ => true
  | .instructionCacheRefill _ => true
  | .icinvComplete _ => true
  | .producerValueWrite _ _ => true
  | .postedAcknowledgement _ _ => true
  | .activeMessage _ _ => true
  | .waiterResend _ _ => true
  | .fewaitExpiry _ => true
  | .cancelAnswer _ => true
  | .barrierArrival _ _ => true
  | .wakeArrival _ _ => true
  | .parkTimeout _ => true
  | .streamElementRead _ _ _ => true
  | .streamElementWrite _ _ _ => true
  | .copyLaunchAccept _ _ _ => true
  | .copyPayload _ _ _ => true
  | .copyCompletion _ _ _ => true
  | .copyWaitrecResume _ _ _ => true
  | .matrixStep _ => true
  | .stepAccumulation _ _ => true
  | .rotationTableEffect _ _ => true
  | .powerCapEffect _ => true
  | .channelRegistry _ => true
  | .publishedInstruction _ => true
  | .endMark _ => true
  | .channelStop _ => true
  | .joinWaitExpiry _ => true
  | .shawmRecordOperation _ _ => true
  | .rallocwServed _ => true
  | .rallocwWaitExpiry _ => true
  | .coalescingTimer _ _ _ => true
  | .placementReservation _ _ => true
  | .placementRetry _ _ => true
  | .groupCommit _ _ => true
  | .groupStart _ => true
  | .slotStartFirstIssue _ => true
  | .groupSlotReturn _ => true
  | .groupEnd _ _ _ => true
  | .hostRecordAppend _ _ => true
  | .graphLoadComplete _ _ => true
  | .graphTeardownComplete _ _ => true
  | .spillComplete _ => true
  | .resumeRestore _ => true
  | .resumedSlotFirstIssue _ => true
  | .faultRecordPost _ _ => true
  | .mailboxPoll _ _ => true
  | .mboxSlotctlState _ _ => true
  | .mboxSlotctlRdsr _ _ => true
  | .mboxSlotctlWrsr _ _ => true
  | .mboxSlotctlRds _ _ => true
  | .mboxSlotctlWrs _ _ => true
  | .mboxSlotctlRdv _ _ => true
  | .mboxSlotctlWrv _ _ => true
  | .mboxSlotctlRdctx _ _ => true
  | .mboxSlotctlWrctx _ _ => true
  | .mboxSlotctlResume _ _ => true
  | .mboxSlotctlKill _ _ => true
  | .mboxSlotctlSpill _ _ => true
  | .graphload _ _ => true
  | .graphtear _ _ => true
  | .inval _ _ => true
  | .invalidationComplete _ _ => true
  | .mboxFence _ _ => true
  | .unfence _ _ => true
  | .reset _ _ => true
  | .partitionResetComplete _ _ => true
  | .switch _ _ => true
  | .switchDrainComplete _ _ => true
  | .switchDeadline _ _ => true
  | .partOpen _ _ => true
  | .close _ _ => true
  | .resetpkg _ => true
  | .twinHashArrival _ _ => true
  | .twinHashTimeout _ => true
  | .enable _ => true
  | .protectionInitComplete _ => true
  | .disable _ => true
  | .declare _ _ => true
  | .rebuild _ => true
  | .parityDelta _ _ => true
  | .deltaForward _ _ => true
  | .deltaAcknowledgement _ _ => true
  | .parityAcknowledgement _ _ => true
  | .deltaSilence _ _ => true
  | .quiesceDrainComplete _ => true
  | .stripeRebuild _ _ => true
  | .sectorReconstruction _ _ => true
  | .patrolScrub _ _ _ => true
  | .hostWrite _ _ _ => true
  | .hostRead _ _ _ => true
  | .svfence _ => true
  | .mailboxDoorbell _ _ => true
  | .intstat _ _ => true
  | .mevent _ _ => true
  | .fusepkg _ _ => true
  | .timectlStep _ _ => true
  | .pwrcap _ _ => true
  | .produceReport _ => true
  | .reportComplete _ => true
  | .registerWrite _ _ _ => true
  | .flitReplay _ _ => true
  | .portUp _ _ _ _ => true
  | .portFailure _ _ => true
  | .routeUnreachable _ _ => true
  | .timeSync _ => true
  | .referenceLoss _ => true
  | .referenceReturn _ => true
  | .droopTrip _ _ => true
  | .stretchEnd _ => true
  | .powerAlert _ => true
  | .thermalTrip _ => true
  | .packageReset _ => true
  | .bringupStageComplete _ _ => true
  | .memoryEdgeRequest _ _ => true
  | .xaccHoldEnd _ => true
  | .illegalEncoding _ => true

end Sys2Proof
end

