-- ==== Sys2Proof/Machine/Convert.lean ====
section
/-! DEFINITION. The binary8 family, the other format codes, and VCVT's conversions (R89-R104). -/

namespace Sys2Proof.Machine

/-- Whether a valid code names a binary8 format (R90). -/
def isB8 (c : Nat) : Bool := decide (c < 32) && decide (c % 8 ≠ 0)
/-- Whether a binary8 code names an unsigned format. -/
def b8Uns (c : Nat) : Bool := c / 8 % 2 == 1
/-- Whether a binary8 code names an extended domain. -/
def b8Ext (c : Nat) : Bool := c / 16 % 2 == 1
/-- The trailing fraction width T = P − 1 (R89). -/
def b8T (c : Nat) : Nat := c % 8 - 1
/-- The bias (R89). -/
def b8Bias (c : Nat) : Nat := if b8Uns c then 2 ^ (8 - c % 8) else 2 ^ (7 - c % 8)
/-- The NaN code. -/
def b8Nan (c : Nat) : Nat := if b8Uns c then 0xFF else 0x80
/-- The code of +∞ in an extended domain. -/
def b8Inf (c : Nat) : Nat := if b8Uns c then 0xFE else 0x7F
/-- The largest finite code (R91). -/
def b8Max (c : Nat) : Nat := b8Inf c - (if b8Ext c then 1 else 0)

/-- A sign put before a magnitude code. -/
def b8Signed (c : Nat) (s : Bool) (m : Nat) : Nat := if s && !b8Uns c then 0x80 + m else m

/-- The value of code `x` in binary8 format `c` (R89). -/
def b8Value (c x : Nat) : FpVal :=
  let s := !b8Uns c && decide (128 ≤ x)
  let m := if b8Uns c then x else x % 128
  if x = b8Nan c then .nan false
  else if b8Ext c && m == b8Inf c then .inf s
  else
    let t := b8T c
    let e := m / 2 ^ t
    let f := m % 2 ^ t
    if e = 0 then .num s f (1 - (b8Bias c : Int) - t)
    else .num s (2 ^ t + f) ((e : Int) - b8Bias c - t)

/-- A signed integer as a value. -/
def intValue (x : Int) : FpVal := .num (decide (x < 0)) x.natAbs 0

/-- E8M0: 2^(e − 127), or NaN (R92). -/
def e8m0Value (x : Nat) : FpVal := if x = 255 then .nan false else .num false 1 ((x : Int) - 127)

/-- A conversion's source: its value, and whether it is an integer format (R97). -/
structure CvtSrc where
  val : FpVal
  int : Bool
  deriving DecidableEq, Repr

/-- The source of VCVT kind `k` (R153) with %CVTSRC `c`. DEDUCED: an E8M0 source counts as floating-point for the NV of R100
(log 41). -/
def cvtSource (k : BitVec 3) (c : Nat) (x : Lane) : CvtSrc :=
  let lo := x.toNat % 65536
  let hi := x.toNat / 65536
  match k.toNat with
  | 0 => ⟨fp32.unpack x.toNat, false⟩
  | 1 => ⟨fp16.unpack lo, false⟩
  | 2 => ⟨fp16.unpack hi, false⟩
  | 3 => ⟨bf16.unpack lo, false⟩
  | 4 => ⟨bf16.unpack hi, false⟩
  | 5 => ⟨intValue x.toInt, true⟩
  | 6 =>
    let b := x.toNat % 256
    if c = 0x23 then ⟨intValue (BitVec.ofNat 8 b).toInt, true⟩
    else if c = 0x24 then ⟨.num false b 0, true⟩
    else if c = 0x27 then ⟨e8m0Value b, false⟩
    else ⟨b8Value c b, false⟩
  | _ => ⟨intValue (BitVec.ofNat 16 lo).toInt, true⟩

/-- The codes of 8-bit formats, which %CVTSRC may hold (R97, R154). -/
def isCvtSrc (c : Nat) : Bool := isB8 c || c == 0x23 || c == 0x24 || c == 0x27

/-- Conversion to an IEEE format (R98, R99). -/
def cvtIeee (f : FpFmt) (rm : Rm) (sat : Bool) (v : FpVal) : Nat × FpFlags :=
  match v with
  | .nan sig => f.nanResult sig
  | .inf s => (f.signed s f.infBits, 0)
  | .num s m e =>
    if m = 0 then (f.signed s 0, 0)
    else
      let r := f.round rm s m e
      if sat && (r.2 &&& FpFlags.of) != 0 then (f.signed s f.maxBits, r.2) else r

/-- Conversion to a binary8 format (R98, R99). -/
def cvtB8 (c : Nat) (rm : Rm) (sat : Bool) (v : FpVal) : Nat × FpFlags :=
  match v with
  | .nan sig => (b8Nan c, FpFlags.when sig FpFlags.nv)
  | .inf s =>
    if b8Uns c && s then if sat then (0, 0) else (b8Nan c, FpFlags.nv)
    else if b8Ext c then (b8Signed c s (b8Inf c), 0)
    else if sat then (b8Signed c s (b8Max c), 0) else (b8Nan c, FpFlags.nv)
  | .num s m e =>
    if m = 0 then (0, 0)
    else if b8Uns c && s then
      if sat then (0, FpFlags.nx) else (b8Nan c, FpFlags.nv ||| FpFlags.nx)
    else
      let emin : Int := 1 - (b8Bias c : Int)
      let r := roundFw (b8T c) emin rm s m e
      let code := (r.e - emin).toNat * 2 ^ b8T c + r.n
      if b8Max c < code then
        let fl := FpFlags.of ||| FpFlags.nx
        if sat then (b8Signed c s (b8Max c), fl)
        else if b8Ext c then (b8Signed c s (b8Inf c), fl)
        else (b8Nan c, fl ||| FpFlags.nv)
      else
        (if code = 0 then 0 else b8Signed c s code,
          FpFlags.when r.inexact FpFlags.nx ||| FpFlags.when (r.inexact && r.tiny) FpFlags.uf)

/-- Conversion to an integer of width `w` (R100); `int` marks an integer source, which raises no flag. DEDUCED: a NaN code of a
binary8 format and the E8M0 code 0xFF raise NV here, as the table of R100 has it for any NaN, where R97 says that converting them
raises no flag (log 41). -/
def cvtInt (w : Nat) (signed : Bool) (rm : Rm) (sat int : Bool) (v : FpVal) : Nat × FpFlags :=
  let lo : Int := if signed then -((2 ^ (w - 1) : Nat) : Int) else 0
  let hi : Int := if signed then (2 ^ (w - 1) : Nat) - 1 else (2 ^ w : Nat) - 1
  let out (x : Int) : Nat := (BitVec.ofInt w x).toNat
  let nv := FpFlags.when (!int) FpFlags.nv
  match v with
  | .nan _ => (0, FpFlags.nv)
  | .inf s => (if sat then out (if s then lo else hi) else 0, FpFlags.nv)
  | .num s m e =>
    let r := roundTo rm s m e 0
    let n : Int := if s then -(r.1 : Int) else r.1
    let nx := FpFlags.when r.2 FpFlags.nx
    if n < lo then (if sat then out lo else out n, nv ||| nx)
    else if hi < n then (if sat then out hi else out n, nv ||| nx)
    else (out n, nx)

/-- Conversion to E8M0 (R101). -/
def cvtE8m0 (sat : Bool) (v : FpVal) : Nat × FpFlags :=
  match v with
  | .nan sig => (0xFF, FpFlags.when sig FpFlags.nv)
  | .inf _ => if sat then (0xFE, 0) else (0xFF, FpFlags.nv)
  | .num _ m e =>
    if m = 0 ∨ dyadicLog m e < -127 then (0, FpFlags.uf ||| FpFlags.nx)
    else ((dyadicLog m e + 127).toNat, FpFlags.when (m ≠ 2 ^ Nat.log2 m) FpFlags.nx)

/-- VCVT of one lane to format code `d` (R154): the result zero-extended to the lane, and the flags. -/
def cvtLane (d : Nat) (rm : Rm) (sat : Bool) (src : CvtSrc) : Nat × FpFlags :=
  if isB8 d then cvtB8 d rm sat src.val
  else match d with
    | 0x20 => cvtIeee fp32 rm sat src.val
    | 0x21 => cvtIeee fp16 rm sat src.val
    | 0x22 => cvtIeee bf16 rm sat src.val
    | 0x23 => cvtInt 8 true rm sat src.int src.val
    | 0x24 => cvtInt 8 false rm sat src.int src.val
    | 0x25 => cvtInt 16 true rm sat src.int src.val
    | 0x26 => cvtInt 32 true rm sat src.int src.val
    | 0x27 => cvtE8m0 sat src.val
    | _ => (0, 0)

/-! ## The random source (R104) -/

/-- The four counter words and the two key words of Philox4x32. -/
structure Philox where
  c0 : Nat
  c1 : Nat
  c2 : Nat
  c3 : Nat
  k0 : Nat
  k1 : Nat
  deriving DecidableEq, Repr

/-- One round. -/
def Philox.round (p : Philox) : Philox :=
  let a := 0xD2511F53 * p.c0
  let b := 0xCD9E8D57 * p.c2
  let m := 2 ^ 32
  { c0 := (b / m) ^^^ p.c1 ^^^ p.k0, c1 := b % m, c2 := (a / m) ^^^ p.c3 ^^^ p.k1, c3 := a % m,
    k0 := (p.k0 + 0x9E3779B9) % m, k1 := (p.k1 + 0xBB67AE85) % m }

/-- `n` rounds. -/
def Philox.rounds : Nat → Philox → Philox
  | 0, p => p
  | n + 1, p => Philox.rounds n p.round

/-- The word of lane `l`: counter, key, and the slot's identities (R104). -/
def philoxLane (ctr key : Word) (slot cell pkg l : Nat) : Nat :=
  let start : Philox :=
    { c0 := ctr.toNat % 2 ^ 32, c1 := ctr.toNat / 2 ^ 32, c2 := l + slot * 32 + cell % 65536 * 512,
      c3 := pkg % 2 ^ 32, k0 := key.toNat % 2 ^ 32, k1 := key.toNat / 2 ^ 32 }
  (Philox.rounds 10 start).c0

/-! ## Exact accumulator images (R105-R107) -/

/-- An image: the status bits and the 576-bit F (R105). -/
structure Image where
  nan : Bool
  pinf : Bool
  ninf : Bool
  f : Nat
  deriving DecidableEq, Repr

/-- The modulus of F. -/
def Image.mod : Nat := 2 ^ 576

/-- An image from its 640 bits. -/
def Image.ofNat (x : Nat) : Image :=
  { nan := x % 2 == 1, pinf := x / 2 % 2 == 1, ninf := x / 4 % 2 == 1, f := x / 2 ^ 64 % Image.mod }

/-- The 640 bits of an image, status bits 63:3 zero. -/
def Image.toNat (i : Image) : Nat := i.nan.toNat + i.pinf.toNat * 2 + i.ninf.toNat * 4 + i.f * 2 ^ 64

/-- Adds one value (R106, R161). -/
def Image.add (i : Image) (v : FpVal) : Image :=
  match v with
  | .nan _ => { i with nan := true }
  | .inf s => if s then { i with ninf := true } else { i with pinf := true }
  | .num s m e =>
    let t := m * 2 ^ (e + 224).toNat
    { i with f := if s then (i.f + (Image.mod - t % Image.mod)) % Image.mod else (i.f + t) % Image.mod }

/-- Merges a second image (R106, R161). -/
def Image.merge (i j : Image) : Image :=
  { nan := i.nan || j.nan, pinf := i.pinf || j.pinf, ninf := i.ninf || j.ninf, f := (i.f + j.f) % Image.mod }

/-- The value read from an image, rounded to a format (R107). -/
def Image.read (i : Image) (f : FpFmt) (rm : Rm) : Nat × FpFlags :=
  if i.nan || (i.pinf && i.ninf) then (f.nanBits, 0)
  else if i.pinf then (f.infBits, 0)
  else if i.ninf then (f.signed true f.infBits, 0)
  else if i.f = 0 then (0, 0)
  else if i.f < 2 ^ 575 then f.round rm false i.f (-224)
  else f.round rm true (Image.mod - i.f) (-224)

/-! ## Matrix products (R93-R96) -/

/-- A value scaled by a power of two, or NaN under a NaN scale (R93). -/
def scaleV (v : FpVal) (sc : Option Nat) : FpVal :=
  match sc with
  | none => v
  | some x =>
    if x = 255 then .nan false
    else match v with
      | .nan s => .nan s
      | .inf s => .inf s
      | .num s m e => .num s m (e + x - 127)

/-- An element of a matrix operand in format code `c` (R94). -/
def elementV (c x : Nat) : FpVal :=
  if isB8 c then b8Value c x
  else if c = 0x21 then fp16.unpack x
  else if c = 0x22 then bf16.unpack x
  else if c = 0x23 then intValue (BitVec.ofNat 8 x).toInt
  else .num false x 0

/-- The exact sum of products so far: a NaN, infinities, or a dyadic number, and whether every product was −0. -/
structure ExactSum where
  nan : Bool := false
  pinf : Bool := false
  ninf : Bool := false
  v : Int := 0
  e : Int := 0
  negZero : Bool := true
  deriving DecidableEq, Repr

/-- Adds a product (R95). `plus` marks a format pair whose zero products are +0. -/
def ExactSum.add (plus : Bool) (t : ExactSum) (p : FpVal) : ExactSum :=
  match p with
  | .nan _ => { t with nan := true, negZero := false }
  | .inf s => if s then { t with ninf := true, negZero := false } else { t with pinf := true, negZero := false }
  | .num s m e =>
    let e0 := if e < t.e then e else t.e
    { t with v := t.v * 2 ^ (t.e - e0).toNat + alignTo s m e e0, e := e0,
             negZero := t.negZero && s && m == 0 && !plus }

/-- Adds the exact sum to an FP32 accumulator element with one rounding to nearest even (R95). -/
def ExactSum.accumulate (t : ExactSum) (acc : Lane) : Lane :=
  let a := fp32.unpack acc.toNat
  let r :=
    if t.nan || (t.pinf && t.ninf) then fp32.nanBits
    else if t.pinf then (fp32.addV .near (.inf false) a).1
    else if t.ninf then (fp32.addV .near (.inf true) a).1
    else (fp32.addV .near (.num (if t.v = 0 then t.negZero else decide (t.v < 0)) t.v.natAbs t.e) a).1
  BitVec.ofNat 32 r

/-- One floating-point accumulator element of a step: the products of the paired elements in order (R95). -/
def fpElement (af bf : Nat) (sa sb : Option Nat) (as bs : List Nat) (acc : Lane) : Lane :=
  let ps := as.zip bs |>.map fun p => (mulV (scaleV (elementV af p.1) sa) (scaleV (elementV bf p.2) sb)).1
  (ps.foldl (ExactSum.add (isB8 af && isB8 bf)) {}).accumulate acc

/-- The signed integer of an 8-bit element (R96). -/
def intElementV (c x : Nat) : Int := if c = 0x23 then (BitVec.ofNat 8 x).toInt else x

/-- One integer accumulator element of a step (R96). -/
def intElement (af bf : Nat) (as bs : List Nat) (acc : Lane) : Lane :=
  acc + BitVec.ofInt 32 ((as.zip bs |>.map fun p => intElementV af p.1 * intElementV bf p.2).foldl (· + ·) 0)

/-- The row of R94 that a format code belongs to: binary8, 8-bit integers, 16-bit floats. -/
def matrixRow (c : Nat) : Option Nat :=
  if isB8 c then some 0 else if c = 0x23 ∨ c = 0x24 then some 1 else if c = 0x21 ∨ c = 0x22 then some 2 else none

/-- One accumulator element of a step of any accepted pair (R94-R96). -/
def stepElement (af bf : Nat) (sa sb : Option Nat) (as bs : List Nat) (acc : Lane) : Lane :=
  if matrixRow af = some 1 then intElement af bf as bs acc else fpElement af bf sa sb as bs acc

end Sys2Proof.Machine
end

