-- ==== Sys2Proof/Decode.lean ====
section
/-! DEFINITION. The decoder (R47, R57-R72), total on any words and refusing by name, and the encoder.
The compiler cannot build a constructor whose index passes 244, so what builds an `Instr` is not compiled; the kernel
evaluates all of it. -/

namespace Sys2Proof

noncomputable section

/-- Why words are not an instruction. -/
inductive DecodeErr where
  /-- No word is left. -/
  | noWord
  /-- A clause header (major 0x3E) where an instruction is due: CLAUSE (R48). -/
  | header
  /-- A major that R69 does not assign: ILLEGAL. -/
  | badMajor
  /-- A minor that R70 does not list: ILLEGAL. -/
  | badMinor
  /-- A field value that R58 to R71 or a field table refuses: ILLEGAL. -/
  | badField
  /-- A LIT whose literal word is missing: CLAUSE (R68). -/
  | noLiteral
  deriving DecidableEq, Repr, Inhabited

/-! ## Field codes -/

/-- A field that names a scalar register takes 0-31 (R58). -/
def sreg (x : Nat) : Option SReg := if x < 32 then some (BitVec.ofNat 5 x) else none

/-- Scope codes (R61); 5-7 are refused. -/
def Scope.ofCode : Nat → Option Scope
  | 0 => some .sl | 1 => some .ce | 2 => some .pk | 3 => some .dm | 4 => some .sv | _ => none
/-- The code of a scope (R61). -/
def Scope.code : Scope → Nat
  | .sl => 0 | .ce => 1 | .pk => 2 | .dm => 3 | .sv => 4
/-- Order codes (R61). -/
def Order.ofCode : Nat → Option Order
  | 0 => some .rlx | 1 => some .acq | 2 => some .rel | 3 => some .ar | _ => none
/-- The code of an order (R61). -/
def Order.code : Order → Nat
  | .rlx => 0 | .acq => 1 | .rel => 2 | .ar => 3
/-- Size codes of scalar accesses (R60). -/
def Size.ofCode : Nat → Option Size
  | 0 => some .b | 1 => some .h | 2 => some .w | 3 => some .d | _ => none
/-- The code of a size (R60). -/
def Size.code : Size → Nat
  | .b => 0 | .h => 1 | .w => 2 | .d => 3
/-- Size codes of vector accesses (R60). -/
def VSize.ofCode : Nat → Option VSize
  | 0 => some .bu | 1 => some .hu | 2 => some .w | 3 => some .hs | _ => none
/-- The code of a vector size (R60). -/
def VSize.code : VSize → Nat
  | .bu => 0 | .hu => 1 | .w => 2 | .hs => 3
/-- Condition codes (R63); 9-127 are refused. -/
def Cond.ofCode : Nat → Option Cond
  | 0 => some .eqz | 1 => some .nez | 2 => some .ltz | 3 => some .gez | 4 => some .gtz | 5 => some .lez
  | 6 => some .any | 7 => some .none | 8 => some .all | _ => Option.none
/-- The code of a condition (R63). -/
def Cond.code : Cond → Nat
  | .eqz => 0 | .nez => 1 | .ltz => 2 | .gez => 3 | .gtz => 4 | .lez => 5 | .any => 6 | .none => 7 | .all => 8
/-- Timeline selectors (R64). -/
def Timeline.ofCode (x : Nat) : Option Timeline :=
  if x < 4 then some (.copy (BitVec.ofNat 2 x))
  else if 64 ≤ x ∧ x < 128 then some (.graph (BitVec.ofNat 6 (x - 64))) else none
/-- The code of a timeline (R64). -/
def Timeline.code : Timeline → Nat
  | .copy t => t.toNat | .graph t => t.toNat + 64
/-- Special register numbers (R28); 25-127 are refused (R29). -/
def SpecReg.ofCode : Nat → Option SpecReg
  | 0 => some .slot
  | 1 => some .cell
  | 2 => some .pkg
  | 3 => some .gang
  | 4 => some .gslot
  | 5 => some .node
  | 6 => some .group
  | 7 => some .reccnt
  | 8 => some .time
  | 9 => some .cycle
  | 10 => some .fpmode
  | 11 => some .fpflags
  | 12 => some .rngkey
  | 13 => some .rngctr
  | 14 => some .stat
  | 15 => some .fewait
  | 16 => some .pid
  | 17 => some .regbase
  | 18 => some .reglim
  | 19 => some .priv
  | 20 => some .cvtsrc
  | 21 => some .mwin
  | 22 => some .chan
  | 23 => some .depth
  | 24 => some .lead
  | _ => none
/-- The number of a special register (R28). -/
def SpecReg.code : SpecReg → Nat
  | .slot => 0
  | .cell => 1
  | .pkg => 2
  | .gang => 3
  | .gslot => 4
  | .node => 5
  | .group => 6
  | .reccnt => 7
  | .time => 8
  | .cycle => 9
  | .fpmode => 10
  | .fpflags => 11
  | .rngkey => 12
  | .rngctr => 13
  | .stat => 14
  | .fewait => 15
  | .pid => 16
  | .regbase => 17
  | .reglim => 18
  | .priv => 19
  | .cvtsrc => 20
  | .mwin => 21
  | .chan => 22
  | .depth => 23
  | .lead => 24

/-! ## Fields of the formats (R57) -/

/-- `n` bits of a word from bit `lo`. -/
def fld (w : BitVec 32) (lo n : Nat) : Nat := w.toNat / 2 ^ lo % 2 ^ n

/-- The major opcode, bits 31:26. -/
def major (w : BitVec 32) : Nat := fld w 26 6

/-- Format A: S from x, S from y, S from z. -/
def Dec.aSxSySz (f : SReg → SReg → SReg → Instr) (x y z : Nat) : Option Instr :=
  (sreg x).bind fun v0 => (sreg y).bind fun v1 => (sreg z).bind fun v2 => some (f v0 v1 v2)
/-- Format A: S from x, S from y; z = 0. -/
def Dec.aSxSy (f : SReg → SReg → Instr) (x y z : Nat) : Option Instr :=
  if z = 0 then (sreg x).bind fun v0 => (sreg y).bind fun v1 => some (f v0 v1) else none
/-- Format B: S from x, S from y, I12 from z. -/
def Dec.bSxSyIz (f : SReg → SReg → BitVec 12 → Instr) (x y z : Nat) : Option Instr :=
  (sreg x).bind fun v0 => (sreg y).bind fun v1 => some (f v0 v1 (BitVec.ofNat 12 z))
/-- Format A: S from x, S from y, N6 from (z % 64); z / 64 = 0. -/
def Dec.aSxSyN (f : SReg → SReg → BitVec 6 → Instr) (x y z : Nat) : Option Instr :=
  if z / 64 = 0 then (sreg x).bind fun v0 => (sreg y).bind fun v1 => some (f v0 v1 (BitVec.ofNat 6 (z % 64))) else none
/-- Format C: S from x, I19 from y. -/
def Dec.cSxIy (f : SReg → BitVec 19 → Instr) (x y : Nat) : Option Instr :=
  (sreg x).bind fun v0 => some (f v0 (BitVec.ofNat 19 y))
/-- Format C: I19 from y; x = 0. -/
def Dec.cIy (f : BitVec 19 → Instr) (x y : Nat) : Option Instr :=
  if x = 0 then some (f (BitVec.ofNat 19 y)) else none
/-- Format B: COND from x, S from y, I12 from z. -/
def Dec.bCxSyIz (f : Cond → SReg → BitVec 12 → Instr) (x y z : Nat) : Option Instr :=
  (Cond.ofCode x).bind fun v0 => (sreg y).bind fun v1 => some (f v0 v1 (BitVec.ofNat 12 z))
/-- Format A: S from y; x = 0, z = 0. -/
def Dec.aSy (f : SReg → Instr) (x y z : Nat) : Option Instr :=
  if x = 0 ∧ z = 0 then (sreg y).bind fun v0 => some (f v0) else none
/-- Format B: S from y, I12 from z; x = 0. -/
def Dec.bSyIz (f : SReg → BitVec 12 → Instr) (x y z : Nat) : Option Instr :=
  if x = 0 then (sreg y).bind fun v0 => some (f v0 (BitVec.ofNat 12 z)) else none
/-- Format A: V from y; x = 0, z = 0. -/
def Dec.aVy (f : VRegNo → Instr) (x y z : Nat) : Option Instr :=
  if x = 0 ∧ z = 0 then some (f (BitVec.ofNat 7 y)) else none
/-- Format A: no operand; x = 0, y = 0, z = 0. -/
def Dec.a (f : Instr) (x y z : Nat) : Option Instr :=
  if x = 0 ∧ y = 0 ∧ z = 0 then some f else none
/-- Format A: no operand; x = 0, y = 0. -/
def Dec.a2 (f : Instr) (x y : Nat) : Option Instr :=
  if x = 0 ∧ y = 0 then some f else none
/-- Format A: V from y, B7 from z; x = 0. -/
def Dec.aVyBz (f : VRegNo → BitVec 7 → Instr) (x y z : Nat) : Option Instr :=
  if x = 0 then some (f (BitVec.ofNat 7 y) (BitVec.ofNat 7 z)) else none
/-- Format A: S from x, V from y; z = 0. -/
def Dec.aSxVy (f : SReg → VRegNo → Instr) (x y z : Nat) : Option Instr :=
  if z = 0 then (sreg x).bind fun v0 => some (f v0 (BitVec.ofNat 7 y)) else none
/-- Format A: V from x; y = 0, z = 0. -/
def Dec.aVx (f : VRegNo → Instr) (x y z : Nat) : Option Instr :=
  if y = 0 ∧ z = 0 then some (f (BitVec.ofNat 7 x)) else none
/-- Format A: V from x, V from y, V from z. -/
def Dec.aVxVyVz (f : VRegNo → VRegNo → VRegNo → Instr) (x y z : Nat) : Option Instr :=
  some (f (BitVec.ofNat 7 x) (BitVec.ofNat 7 y) (BitVec.ofNat 7 z))
/-- Format A: V from x, V from y; z = 0. -/
def Dec.aVxVy (f : VRegNo → VRegNo → Instr) (x y z : Nat) : Option Instr :=
  if z = 0 then some (f (BitVec.ofNat 7 x) (BitVec.ofNat 7 y)) else none
/-- Format A: V from x, V from y, S from z. -/
def Dec.aVxVySz (f : VRegNo → VRegNo → SReg → Instr) (x y z : Nat) : Option Instr :=
  (sreg z).bind fun v2 => some (f (BitVec.ofNat 7 x) (BitVec.ofNat 7 y) v2)
/-- Format A: V from x, V from y, FC from z, BOOL from (k / 16), BOOL from (k / 8 % 2), B3 from (k % 8). -/
def Dec.aVxVyFzFFK (f : VRegNo → VRegNo → BitVec 7 → Bool → Bool → BitVec 3 → Instr) (x y z k : Nat) : Option Instr :=
  some (f (BitVec.ofNat 7 x) (BitVec.ofNat 7 y) (BitVec.ofNat 7 z) ((k / 16) == 1) ((k / 8 % 2) == 1) (BitVec.ofNat 3 (k % 8)))
/-- Format A: S from x, V from y, S from z. -/
def Dec.aSxVySz (f : SReg → VRegNo → SReg → Instr) (x y z : Nat) : Option Instr :=
  (sreg x).bind fun v0 => (sreg z).bind fun v2 => some (f v0 (BitVec.ofNat 7 y) v2)
/-- Format A: V from x, S from y, S from z. -/
def Dec.aVxSySz (f : VRegNo → SReg → SReg → Instr) (x y z : Nat) : Option Instr :=
  (sreg y).bind fun v1 => (sreg z).bind fun v2 => some (f (BitVec.ofNat 7 x) v1 v2)
/-- Format A: V from x, S from y; z = 0. -/
def Dec.aVxSy (f : VRegNo → SReg → Instr) (x y z : Nat) : Option Instr :=
  if z = 0 then (sreg y).bind fun v1 => some (f (BitVec.ofNat 7 x) v1) else none
/-- Format A: S from x; y = 0, z = 0. -/
def Dec.aSx (f : SReg → Instr) (x y z : Nat) : Option Instr :=
  if y = 0 ∧ z = 0 then (sreg x).bind fun v0 => some (f v0) else none
/-- Format A: S from y, V from z; x = 0. -/
def Dec.aSyVz (f : SReg → VRegNo → Instr) (x y z : Nat) : Option Instr :=
  if x = 0 then (sreg y).bind fun v0 => some (f v0 (BitVec.ofNat 7 z)) else none
/-- Format A: S from y, S from z; x = 0. -/
def Dec.aSySz (f : SReg → SReg → Instr) (x y z : Nat) : Option Instr :=
  if x = 0 then (sreg y).bind fun v0 => (sreg z).bind fun v1 => some (f v0 v1) else none
/-- Format A: S from x, S from y. -/
def Dec.aSxSy2 (f : SReg → SReg → Instr) (x y : Nat) : Option Instr :=
  (sreg x).bind fun v0 => (sreg y).bind fun v1 => some (f v0 v1)
/-- Format M: S from x, S from y, SCOPE from c, ORDER from o, SIZE from z. -/
def Dec.mSxSyCOZz (f : SReg → SReg → Scope → Order → Size → Instr) (x y c o z : Nat) : Option Instr :=
  (sreg x).bind fun v0 => (sreg y).bind fun v1 => (Scope.ofCode c).bind fun v2 => (Order.ofCode o).bind fun v3 => (Size.ofCode z).bind fun v4 => some (f v0 v1 v2 v3 v4)
/-- Format M: S from x, S from y, SCOPE from c, ORDER from o; z = 2. -/
def Dec.mSxSyCO (f : SReg → SReg → Scope → Order → Instr) (x y c o z : Nat) : Option Instr :=
  if z = 2 then (sreg x).bind fun v0 => (sreg y).bind fun v1 => (Scope.ofCode c).bind fun v2 => (Order.ofCode o).bind fun v3 => some (f v0 v1 v2 v3) else none
/-- Format M: S from y, SCOPE from c, ORDER from o; x = 0, z = 2. -/
def Dec.mSyCO (f : SReg → Scope → Order → Instr) (x y c o z : Nat) : Option Instr :=
  if x = 0 ∧ z = 2 then (sreg y).bind fun v0 => (Scope.ofCode c).bind fun v1 => (Order.ofCode o).bind fun v2 => some (f v0 v1 v2) else none
/-- Format M: S from y; x = 0, c = 0, o = 0, z = 0. -/
def Dec.mSy (f : SReg → Instr) (x y c o z : Nat) : Option Instr :=
  if x = 0 ∧ c = 0 ∧ o = 0 ∧ z = 0 then (sreg y).bind fun v0 => some (f v0) else none
/-- Format V: V from x, S from y, SCOPE from c, ORDER from o, VSIZE from z. -/
def Dec.vVxSyCOZz (f : VRegNo → SReg → Scope → Order → VSize → Instr) (x y c o z : Nat) : Option Instr :=
  (sreg y).bind fun v1 => (Scope.ofCode c).bind fun v2 => (Order.ofCode o).bind fun v3 => (VSize.ofCode z).bind fun v4 => some (f (BitVec.ofNat 7 x) v1 v2 v3 v4)
/-- Format V: V from x, S from y, SCOPE from c, ORDER from o; z = 2. -/
def Dec.vVxSyCO (f : VRegNo → SReg → Scope → Order → Instr) (x y c o z : Nat) : Option Instr :=
  if z = 2 then (sreg y).bind fun v1 => (Scope.ofCode c).bind fun v2 => (Order.ofCode o).bind fun v3 => some (f (BitVec.ofNat 7 x) v1 v2 v3) else none
/-- Format V: V from x, S from y, V from i, SCOPE from c, ORDER from o, VSIZE from z. -/
def Dec.vVxSyViCOZz (f : VRegNo → SReg → VRegNo → Scope → Order → VSize → Instr) (x y i c o z : Nat) : Option Instr :=
  (sreg y).bind fun v1 => (Scope.ofCode c).bind fun v3 => (Order.ofCode o).bind fun v4 => (VSize.ofCode z).bind fun v5 => some (f (BitVec.ofNat 7 x) v1 (BitVec.ofNat 7 i) v3 v4 v5)
/-- Format V: V from x, S from y, S from (i % 32), SCOPE from c, ORDER from o, VSIZE from z; i / 32 = 0. -/
def Dec.vVxSySCOZz (f : VRegNo → SReg → SReg → Scope → Order → VSize → Instr) (x y i c o z : Nat) : Option Instr :=
  if i / 32 = 0 then (sreg y).bind fun v1 => (sreg (i % 32)).bind fun v2 => (Scope.ofCode c).bind fun v3 => (Order.ofCode o).bind fun v4 => (VSize.ofCode z).bind fun v5 => some (f (BitVec.ofNat 7 x) v1 v2 v3 v4 v5) else none
/-- Format VA: V from x, S from y, V from i, ORDER from o; r = 0. -/
def Dec.vaVxSyViO (f : VRegNo → SReg → VRegNo → Order → Instr) (x y i o r : Nat) : Option Instr :=
  if r = 0 then (sreg y).bind fun v1 => (Order.ofCode o).bind fun v3 => some (f (BitVec.ofNat 7 x) v1 (BitVec.ofNat 7 i) v3) else none
/-- Format M: SCOPE from c, ORDER from o; x = 0, y = 0, z = 0. -/
def Dec.mCO (f : Scope → Order → Instr) (x y c o z : Nat) : Option Instr :=
  if x = 0 ∧ y = 0 ∧ z = 0 then (Scope.ofCode c).bind fun v0 => (Order.ofCode o).bind fun v1 => some (f v0 v1) else none
/-- Format M: SCOPE from c; x = 0, y = 0, o = 0, z = 0. -/
def Dec.mC (f : Scope → Instr) (x y c o z : Nat) : Option Instr :=
  if x = 0 ∧ y = 0 ∧ o = 0 ∧ z = 0 then (Scope.ofCode c).bind fun v0 => some (f v0) else none
/-- Format M: no operand; x = 0, y = 0, c = 0, o = 0, z = 0. -/
def Dec.m (f : Instr) (x y c o z : Nat) : Option Instr :=
  if x = 0 ∧ y = 0 ∧ c = 0 ∧ o = 0 ∧ z = 0 then some f else none
/-- Format X: S from x, S from y; z = 0. -/
def Dec.xSxSy (f : SReg → SReg → Instr) (x y z : Nat) : Option Instr :=
  if z = 0 then (sreg x).bind fun v0 => (sreg y).bind fun v1 => some (f v0 v1) else none
/-- Format X: S from y; x = 0, z = 0. -/
def Dec.xSy (f : SReg → Instr) (x y z : Nat) : Option Instr :=
  if x = 0 ∧ z = 0 then (sreg y).bind fun v0 => some (f v0) else none
/-- Format X: S from x, S from y, TL from z. -/
def Dec.xSxSyLz (f : SReg → SReg → Timeline → Instr) (x y z : Nat) : Option Instr :=
  (sreg x).bind fun v0 => (sreg y).bind fun v1 => (Timeline.ofCode z).bind fun v2 => some (f v0 v1 v2)
/-- Format X: S from x, TL from z; y = 0. -/
def Dec.xSxLz (f : SReg → Timeline → Instr) (x y z : Nat) : Option Instr :=
  if y = 0 then (sreg x).bind fun v0 => (Timeline.ofCode z).bind fun v1 => some (f v0 v1) else none
/-- Format X: S from x, S from y, B2 from (z % 4); z / 4 = 0. -/
def Dec.xSxSyT (f : SReg → SReg → BitVec 2 → Instr) (x y z : Nat) : Option Instr :=
  if z / 4 = 0 then (sreg x).bind fun v0 => (sreg y).bind fun v1 => some (f v0 v1 (BitVec.ofNat 2 (z % 4))) else none
/-- Format X: S from x; y = 0, z = 0. -/
def Dec.xSx (f : SReg → Instr) (x y z : Nat) : Option Instr :=
  if y = 0 ∧ z = 0 then (sreg x).bind fun v0 => some (f v0) else none
/-- Format X: S from x, S from y, BOOL from (z / 4 % 2), VSIZE from (z % 4); z / 8 = 0. -/
def Dec.xSxSyFZ (f : SReg → SReg → Bool → VSize → Instr) (x y z : Nat) : Option Instr :=
  if z / 8 = 0 then (sreg x).bind fun v0 => (sreg y).bind fun v1 => (VSize.ofCode (z % 4)).bind fun v3 => some (f v0 v1 ((z / 4 % 2) == 1) v3) else none
/-- Format X: S from x, S from y, B7 from z. -/
def Dec.xSxSyBz (f : SReg → SReg → BitVec 7 → Instr) (x y z : Nat) : Option Instr :=
  (sreg x).bind fun v0 => (sreg y).bind fun v1 => some (f v0 v1 (BitVec.ofNat 7 z))
/-- Format X: V from x, S from y; z = 0. -/
def Dec.xVxSy (f : VRegNo → SReg → Instr) (x y z : Nat) : Option Instr :=
  if z = 0 then (sreg y).bind fun v1 => some (f (BitVec.ofNat 7 x) v1) else none
/-- Format X: V from x; y = 0, z = 0. -/
def Dec.xVx (f : VRegNo → Instr) (x y z : Nat) : Option Instr :=
  if y = 0 ∧ z = 0 then some (f (BitVec.ofNat 7 x)) else none
/-- Format X: S from y, B7 from z; x = 0. -/
def Dec.xSyBz (f : SReg → BitVec 7 → Instr) (x y z : Nat) : Option Instr :=
  if x = 0 then (sreg y).bind fun v0 => some (f v0 (BitVec.ofNat 7 z)) else none
/-- Format X: S from x, B7 from z; y = 0. -/
def Dec.xSxBz (f : SReg → BitVec 7 → Instr) (x y z : Nat) : Option Instr :=
  if y = 0 then (sreg x).bind fun v0 => some (f v0 (BitVec.ofNat 7 z)) else none
/-- Format X: S from x, B2 from (z % 4); y = 0, z / 4 = 0. -/
def Dec.xSxT (f : SReg → BitVec 2 → Instr) (x y z : Nat) : Option Instr :=
  if y = 0 ∧ z / 4 = 0 then (sreg x).bind fun v0 => some (f v0 (BitVec.ofNat 2 (z % 4))) else none
/-- Format X: S from y, B2 from (z % 4); x = 0, z / 4 = 0. -/
def Dec.xSyT (f : SReg → BitVec 2 → Instr) (x y z : Nat) : Option Instr :=
  if x = 0 ∧ z / 4 = 0 then (sreg y).bind fun v0 => some (f v0 (BitVec.ofNat 2 (z % 4))) else none
/-- Format X: S from y, B4 from (z % 16); x = 0, z / 16 = 0. -/
def Dec.xSyR (f : SReg → BitVec 4 → Instr) (x y z : Nat) : Option Instr :=
  if x = 0 ∧ z / 16 = 0 then (sreg y).bind fun v0 => some (f v0 (BitVec.ofNat 4 (z % 16))) else none
/-- Format X: B4 from (z % 16); x = 0, y = 0, z / 16 = 0. -/
def Dec.xR (f : BitVec 4 → Instr) (x y z : Nat) : Option Instr :=
  if x = 0 ∧ y = 0 ∧ z / 16 = 0 then some (f (BitVec.ofNat 4 (z % 16))) else none
/-- Format X: S from x, S from y, B5 from (z / 4), B2 from (z % 4). -/
def Dec.xSxSyKT (f : SReg → SReg → BitVec 5 → BitVec 2 → Instr) (x y z : Nat) : Option Instr :=
  (sreg x).bind fun v0 => (sreg y).bind fun v1 => some (f v0 v1 (BitVec.ofNat 5 (z / 4)) (BitVec.ofNat 2 (z % 4)))
/-- Format X: B2 from (z % 4); x = 0, y = 0, z / 4 = 0. -/
def Dec.xT (f : BitVec 2 → Instr) (x y z : Nat) : Option Instr :=
  if x = 0 ∧ y = 0 ∧ z / 4 = 0 then some (f (BitVec.ofNat 2 (z % 4))) else none
/-- Format X: V from x, S from y, B2 from (z % 4); z / 4 = 0. -/
def Dec.xVxSyT (f : VRegNo → SReg → BitVec 2 → Instr) (x y z : Nat) : Option Instr :=
  if z / 4 = 0 then (sreg y).bind fun v1 => some (f (BitVec.ofNat 7 x) v1 (BitVec.ofNat 2 (z % 4))) else none
/-- Format X: no operand; x = 0, y = 0, z = 0. -/
def Dec.x (f : Instr) (x y z : Nat) : Option Instr :=
  if x = 0 ∧ y = 0 ∧ z = 0 then some f else none
/-- Format X: COND from x, S from y, B7 from z. -/
def Dec.xCxSyBz (f : Cond → SReg → BitVec 7 → Instr) (x y z : Nat) : Option Instr :=
  (Cond.ofCode x).bind fun v0 => (sreg y).bind fun v1 => some (f v0 v1 (BitVec.ofNat 7 z))
/-- Format X: V from x, S from y, BOOL from (z % 2); z / 2 = 0. -/
def Dec.xVxSyF (f : VRegNo → SReg → Bool → Instr) (x y z : Nat) : Option Instr :=
  if z / 2 = 0 then (sreg y).bind fun v1 => some (f (BitVec.ofNat 7 x) v1 ((z % 2) == 1)) else none
/-- Format X: B7 from x, BOOL from (z / 4 % 2), BOOL from (z / 2 % 2), BOOL from (z % 2); y = 0, z / 8 = 0. -/
def Dec.xBxFFF (f : BitVec 7 → Bool → Bool → Bool → Instr) (x y z : Nat) : Option Instr :=
  if y = 0 ∧ z / 8 = 0 then some (f (BitVec.ofNat 7 x) ((z / 4 % 2) == 1) ((z / 2 % 2) == 1) ((z % 2) == 1)) else none
/-- Format X: S from x, S from y. -/
def Dec.xSxSy2 (f : SReg → SReg → Instr) (x y : Nat) : Option Instr :=
  (sreg x).bind fun v0 => (sreg y).bind fun v1 => some (f v0 v1)
/-- Format X: S from x, SPEC from z; y = 0. -/
def Dec.xSxPz (f : SReg → SpecReg → Instr) (x y z : Nat) : Option Instr :=
  if y = 0 then (sreg x).bind fun v0 => (SpecReg.ofCode z).bind fun v1 => some (f v0 v1) else none
/-- Format X: S from y, SPEC from z; x = 0. -/
def Dec.xSyPz (f : SReg → SpecReg → Instr) (x y z : Nat) : Option Instr :=
  if x = 0 then (sreg y).bind fun v0 => (SpecReg.ofCode z).bind fun v1 => some (f v0 v1) else none
/-- Format X: B7 from z; x = 0, y = 0. -/
def Dec.xBz (f : BitVec 7 → Instr) (x y z : Nat) : Option Instr :=
  if x = 0 ∧ y = 0 then some (f (BitVec.ofNat 7 z)) else none

/-! ## The opcode tables (R69, R70) -/

/-- A listed minor whose fields may still be refused. -/
def fields (o : Option Instr) : Except DecodeErr Instr :=
  match o with
  | some i => .ok i
  | none => .error .badField

/-- Major 0x1 (R70). -/
def dec01 (k x y z : Nat) : Except DecodeErr Instr :=
  match k with
  | 0 => fields (Dec.aSxSySz .add x y z)
  | 1 => fields (Dec.aSxSySz .sub x y z)
  | 2 => fields (Dec.aSxSySz .and x y z)
  | 3 => fields (Dec.aSxSySz .or x y z)
  | 4 => fields (Dec.aSxSySz .xor x y z)
  | 5 => fields (Dec.aSxSySz .andn x y z)
  | 6 => fields (Dec.aSxSySz .shl x y z)
  | 7 => fields (Dec.aSxSySz .shr x y z)
  | 8 => fields (Dec.aSxSySz .sar x y z)
  | 9 => fields (Dec.aSxSySz .ror x y z)
  | 10 => fields (Dec.aSxSySz .mul x y z)
  | 11 => fields (Dec.aSxSySz .mulh x y z)
  | 12 => fields (Dec.aSxSySz .mulhu x y z)
  | 13 => fields (Dec.aSxSySz .div x y z)
  | 14 => fields (Dec.aSxSySz .divu x y z)
  | 15 => fields (Dec.aSxSySz .rem x y z)
  | 16 => fields (Dec.aSxSySz .remu x y z)
  | 17 => fields (Dec.aSxSySz .min x y z)
  | 18 => fields (Dec.aSxSySz .max x y z)
  | 19 => fields (Dec.aSxSySz .minu x y z)
  | 20 => fields (Dec.aSxSySz .maxu x y z)
  | 21 => fields (Dec.aSxSySz .seq x y z)
  | 22 => fields (Dec.aSxSySz .sne x y z)
  | 23 => fields (Dec.aSxSySz .slt x y z)
  | 24 => fields (Dec.aSxSySz .sltu x y z)
  | 25 => fields (Dec.aSxSySz .sle x y z)
  | 26 => fields (Dec.aSxSySz .sleu x y z)
  | 27 => fields (Dec.aSxSy .clz x y z)
  | 28 => fields (Dec.aSxSy .popc x y z)
  | 29 => fields (Dec.aSxSy .brev x y z)
  | 30 => fields (Dec.aSxSySz .addw x y z)
  | 31 => fields (Dec.aSxSySz .subw x y z)
  | _ => .error .badMinor
/-- Major 0x2 (R70). -/
def dec02 (x y z : Nat) : Except DecodeErr Instr :=
  fields (Dec.bSxSyIz .addi x y z)
/-- Major 0x3 (R70). -/
def dec03 (x y z : Nat) : Except DecodeErr Instr :=
  fields (Dec.bSxSyIz .andi x y z)
/-- Major 0x4 (R70). -/
def dec04 (x y z : Nat) : Except DecodeErr Instr :=
  fields (Dec.bSxSyIz .ori x y z)
/-- Major 0x5 (R70). -/
def dec05 (x y z : Nat) : Except DecodeErr Instr :=
  fields (Dec.bSxSyIz .xori x y z)
/-- Major 0x6 (R70). -/
def dec06 (x y z : Nat) : Except DecodeErr Instr :=
  fields (Dec.bSxSyIz .slti x y z)
/-- Major 0x7 (R70). -/
def dec07 (x y z : Nat) : Except DecodeErr Instr :=
  fields (Dec.bSxSyIz .sltiu x y z)
/-- Major 0x8 (R70). -/
def dec08 (k x y z : Nat) : Except DecodeErr Instr :=
  match k with
  | 0 => fields (Dec.aSxSyN .shli x y z)
  | 1 => fields (Dec.aSxSyN .shri x y z)
  | 2 => fields (Dec.aSxSyN .sari x y z)
  | 3 => fields (Dec.aSxSyN .rori x y z)
  | _ => .error .badMinor
/-- Major 0x9 (R70). -/
def dec09 (x y : Nat) : Except DecodeErr Instr :=
  fields (Dec.cSxIy .lui x y)
/-- Major 0xa (R70). -/
def dec0A (x y : Nat) : Except DecodeErr Instr :=
  fields (Dec.cSxIy .addpc x y)
/-- Major 0xc (R70). -/
def dec0C (x y : Nat) : Except DecodeErr Instr :=
  fields (Dec.cIy .br x y)
/-- Major 0xd (R70). -/
def dec0D (x y z : Nat) : Except DecodeErr Instr :=
  fields (Dec.bCxSyIz .bc x y z)
/-- Major 0xe (R70). -/
def dec0E (k x y z : Nat) : Except DecodeErr Instr :=
  match k with
  | 0 => fields (Dec.aSy .jr x y z)
  | 1 => fields (Dec.aSxSy .jalr x y z)
  | _ => .error .badMinor
/-- Major 0xf (R70). -/
def dec0F (x y : Nat) : Except DecodeErr Instr :=
  fields (Dec.cSxIy .bal x y)
/-- Major 0x10 (R70). -/
def dec10 (x y z : Nat) : Except DecodeErr Instr :=
  fields (Dec.bSyIz .loop x y z)
/-- Major 0x11, minor 3: by the z field. -/
def Dec.dec11_3 (z : Nat) (x y : Nat) : Except DecodeErr Instr :=
  match z with
  | 0 => fields (Dec.a2 .vendif x y)
  | 1 => fields (Dec.a2 .vendifLx x y)
  | _ => .error .badField
/-- Major 0x11 (R70). -/
def dec11 (k x y z : Nat) : Except DecodeErr Instr :=
  match k with
  | 0 => fields (Dec.aVy .vif x y z)
  | 1 => fields (Dec.aVy .vifz x y z)
  | 2 => fields (Dec.a .velse x y z)
  | 3 => Dec.dec11_3 z x y
  | 4 => fields (Dec.a .vloopb x y z)
  | 5 => fields (Dec.aVyBz .vbrk x y z)
  | 6 => fields (Dec.aVyBz .vcont x y z)
  | 7 => fields (Dec.aSxVy .vloope x y z)
  | 8 => fields (Dec.aVx .vgetnc x y z)
  | 9 => fields (Dec.aVy .vsetnc x y z)
  | _ => .error .badMinor
/-- Major 0x12 (R70). -/
def dec12 (k x y z : Nat) : Except DecodeErr Instr :=
  match k with
  | 0 => fields (Dec.aVxVyVz .vadd x y z)
  | 1 => fields (Dec.aVxVyVz .vsub x y z)
  | 2 => fields (Dec.aVxVyVz .vmul x y z)
  | 3 => fields (Dec.aVxVyVz .vmulh x y z)
  | 4 => fields (Dec.aVxVyVz .vmulhu x y z)
  | 5 => fields (Dec.aVxVyVz .vand x y z)
  | 6 => fields (Dec.aVxVyVz .vor x y z)
  | 7 => fields (Dec.aVxVyVz .vxor x y z)
  | 8 => fields (Dec.aVxVyVz .vandn x y z)
  | 9 => fields (Dec.aVxVyVz .vshl x y z)
  | 10 => fields (Dec.aVxVyVz .vshr x y z)
  | 11 => fields (Dec.aVxVyVz .vsar x y z)
  | 12 => fields (Dec.aVxVyVz .vmin x y z)
  | 13 => fields (Dec.aVxVyVz .vmax x y z)
  | 14 => fields (Dec.aVxVyVz .vminu x y z)
  | 15 => fields (Dec.aVxVyVz .vmaxu x y z)
  | 16 => fields (Dec.aVxVy .vabs x y z)
  | 17 => fields (Dec.aVxVy .vneg x y z)
  | 18 => fields (Dec.aVxVyVz .vseq x y z)
  | 19 => fields (Dec.aVxVyVz .vsne x y z)
  | 20 => fields (Dec.aVxVyVz .vslt x y z)
  | 21 => fields (Dec.aVxVyVz .vsltu x y z)
  | 22 => fields (Dec.aVxVyVz .vsle x y z)
  | 23 => fields (Dec.aVxVyVz .vsleu x y z)
  | 24 => fields (Dec.aVxVy .vclz x y z)
  | 25 => fields (Dec.aVxVy .vpopc x y z)
  | 26 => fields (Dec.aVxVyVz .vaddsat x y z)
  | 27 => fields (Dec.aVxVyVz .vsubsat x y z)
  | 28 => fields (Dec.aVxVyVz .vaddsatu x y z)
  | 29 => fields (Dec.aVxVyVz .vsubsatu x y z)
  | 30 => fields (Dec.aVxVyVz .vdot4 x y z)
  | 31 => fields (Dec.aVxVyVz .vdot4u x y z)
  | _ => .error .badMinor
/-- Major 0x13 (R70). -/
def dec13 (k x y z : Nat) : Except DecodeErr Instr :=
  match k with
  | 0 => fields (Dec.aVxVySz .vaddScalar x y z)
  | 1 => fields (Dec.aVxVySz .vsubScalar x y z)
  | 2 => fields (Dec.aVxVySz .vmulScalar x y z)
  | 3 => fields (Dec.aVxVySz .vmulhScalar x y z)
  | 4 => fields (Dec.aVxVySz .vmulhuScalar x y z)
  | 5 => fields (Dec.aVxVySz .vandScalar x y z)
  | 6 => fields (Dec.aVxVySz .vorScalar x y z)
  | 7 => fields (Dec.aVxVySz .vxorScalar x y z)
  | 8 => fields (Dec.aVxVySz .vandnScalar x y z)
  | 9 => fields (Dec.aVxVySz .vshlScalar x y z)
  | 10 => fields (Dec.aVxVySz .vshrScalar x y z)
  | 11 => fields (Dec.aVxVySz .vsarScalar x y z)
  | 12 => fields (Dec.aVxVySz .vminScalar x y z)
  | 13 => fields (Dec.aVxVySz .vmaxScalar x y z)
  | 14 => fields (Dec.aVxVySz .vminuScalar x y z)
  | 15 => fields (Dec.aVxVySz .vmaxuScalar x y z)
  | 18 => fields (Dec.aVxVySz .vseqScalar x y z)
  | 19 => fields (Dec.aVxVySz .vsneScalar x y z)
  | 20 => fields (Dec.aVxVySz .vsltScalar x y z)
  | 21 => fields (Dec.aVxVySz .vsltuScalar x y z)
  | 22 => fields (Dec.aVxVySz .vsleScalar x y z)
  | 23 => fields (Dec.aVxVySz .vsleuScalar x y z)
  | 26 => fields (Dec.aVxVySz .vaddsatScalar x y z)
  | 27 => fields (Dec.aVxVySz .vsubsatScalar x y z)
  | 28 => fields (Dec.aVxVySz .vaddsatuScalar x y z)
  | 29 => fields (Dec.aVxVySz .vsubsatuScalar x y z)
  | 30 => fields (Dec.aVxVySz .vdot4Scalar x y z)
  | 31 => fields (Dec.aVxVySz .vdot4uScalar x y z)
  | _ => .error .badMinor
/-- Major 0x14 (R70). -/
def dec14 (k x y z : Nat) : Except DecodeErr Instr :=
  match k with
  | 0 => fields (Dec.aVxVyVz .vaddH x y z)
  | 1 => fields (Dec.aVxVyVz .vsubH x y z)
  | 2 => fields (Dec.aVxVyVz .vmulH x y z)
  | 3 => fields (Dec.aVxVyVz .vmulhH x y z)
  | 4 => fields (Dec.aVxVyVz .vminH x y z)
  | 5 => fields (Dec.aVxVyVz .vmaxH x y z)
  | 6 => fields (Dec.aVxVyVz .vminuH x y z)
  | 7 => fields (Dec.aVxVyVz .vmaxuH x y z)
  | 8 => fields (Dec.aVxVyVz .vaddsatH x y z)
  | 9 => fields (Dec.aVxVyVz .vsubsatH x y z)
  | 10 => fields (Dec.aVxVyVz .vaddsatuH x y z)
  | 11 => fields (Dec.aVxVyVz .vsubsatuH x y z)
  | 12 => fields (Dec.aVxVyVz .vseqH x y z)
  | 13 => fields (Dec.aVxVyVz .vsltH x y z)
  | 14 => fields (Dec.aVxVyVz .vshlH x y z)
  | 15 => fields (Dec.aVxVyVz .vshrH x y z)
  | 16 => fields (Dec.aVxVyVz .vsarH x y z)
  | 17 => fields (Dec.aVxVy .vabsH x y z)
  | _ => .error .badMinor
/-- Major 0x15 (R70). -/
def dec15 (k x y z : Nat) : Except DecodeErr Instr :=
  match k with
  | 0 => fields (Dec.aVxVyVz .vfadd x y z)
  | 1 => fields (Dec.aVxVyVz .vfsub x y z)
  | 2 => fields (Dec.aVxVyVz .vfmul x y z)
  | 3 => fields (Dec.aVxVyVz .vfma x y z)
  | 4 => fields (Dec.aVxVyVz .vfms x y z)
  | 5 => fields (Dec.aVxVyVz .vfnma x y z)
  | 6 => fields (Dec.aVxVyVz .vfmin x y z)
  | 7 => fields (Dec.aVxVyVz .vfmax x y z)
  | 8 => fields (Dec.aVxVyVz .vfminnum x y z)
  | 9 => fields (Dec.aVxVyVz .vfmaxnum x y z)
  | 10 => fields (Dec.aVxVy .vfabs x y z)
  | 11 => fields (Dec.aVxVy .vfneg x y z)
  | 12 => fields (Dec.aVxVyVz .vfceq x y z)
  | 13 => fields (Dec.aVxVyVz .vfclt x y z)
  | 14 => fields (Dec.aVxVyVz .vfcle x y z)
  | 15 => fields (Dec.aVxVyVz .vfcun x y z)
  | 16 => fields (Dec.aVxVyVz .vfdiv x y z)
  | 17 => fields (Dec.aVxVy .vfsqrt x y z)
  | 18 => fields (Dec.aVxVy .vfrcp x y z)
  | 19 => fields (Dec.aVxVy .vfrsq x y z)
  | 20 => fields (Dec.aVxVy .vfexp2 x y z)
  | 21 => fields (Dec.aVxVy .vflog2 x y z)
  | 22 => fields (Dec.aVxVy .vfrint x y z)
  | 23 => fields (Dec.aVxVy .vfclass x y z)
  | 24 => fields (Dec.aVxVyVz .vfcopysign x y z)
  | _ => .error .badMinor
/-- Major 0x16 (R70). -/
def dec16 (k x y z : Nat) : Except DecodeErr Instr :=
  match k with
  | 0 => fields (Dec.aVxVySz .vfaddScalar x y z)
  | 1 => fields (Dec.aVxVySz .vfsubScalar x y z)
  | 2 => fields (Dec.aVxVySz .vfmulScalar x y z)
  | 3 => fields (Dec.aVxVySz .vfmaScalar x y z)
  | 4 => fields (Dec.aVxVySz .vfmsScalar x y z)
  | 5 => fields (Dec.aVxVySz .vfnmaScalar x y z)
  | 6 => fields (Dec.aVxVySz .vfminScalar x y z)
  | 7 => fields (Dec.aVxVySz .vfmaxScalar x y z)
  | 8 => fields (Dec.aVxVySz .vfminnumScalar x y z)
  | 9 => fields (Dec.aVxVySz .vfmaxnumScalar x y z)
  | 12 => fields (Dec.aVxVySz .vfceqScalar x y z)
  | 13 => fields (Dec.aVxVySz .vfcltScalar x y z)
  | 14 => fields (Dec.aVxVySz .vfcleScalar x y z)
  | 15 => fields (Dec.aVxVySz .vfcunScalar x y z)
  | 16 => fields (Dec.aVxVySz .vfdivScalar x y z)
  | 24 => fields (Dec.aVxVySz .vfcopysignScalar x y z)
  | _ => .error .badMinor
/-- Major 0x17 (R70). -/
def dec17 (k x y z : Nat) : Except DecodeErr Instr :=
  match k with
  | 0 => fields (Dec.aVxVyVz .vhadd x y z)
  | 1 => fields (Dec.aVxVyVz .vhsub x y z)
  | 2 => fields (Dec.aVxVyVz .vhmul x y z)
  | 3 => fields (Dec.aVxVyVz .vhfma x y z)
  | 4 => fields (Dec.aVxVyVz .vhmin x y z)
  | 5 => fields (Dec.aVxVyVz .vhmax x y z)
  | 6 => fields (Dec.aVxVyVz .vhceq x y z)
  | 7 => fields (Dec.aVxVyVz .vhclt x y z)
  | 8 => fields (Dec.aVxVyVz .vhcle x y z)
  | 9 => fields (Dec.aVxVyVz .vhcun x y z)
  | 16 => fields (Dec.aVxVyVz .vhaddBf x y z)
  | 17 => fields (Dec.aVxVyVz .vhsubBf x y z)
  | 18 => fields (Dec.aVxVyVz .vhmulBf x y z)
  | 19 => fields (Dec.aVxVyVz .vhfmaBf x y z)
  | 20 => fields (Dec.aVxVyVz .vhminBf x y z)
  | 21 => fields (Dec.aVxVyVz .vhmaxBf x y z)
  | 22 => fields (Dec.aVxVyVz .vhceqBf x y z)
  | 23 => fields (Dec.aVxVyVz .vhcltBf x y z)
  | 24 => fields (Dec.aVxVyVz .vhcleBf x y z)
  | 25 => fields (Dec.aVxVyVz .vhcunBf x y z)
  | _ => .error .badMinor
/-- Major 0x18 (R70). -/
def dec18 (k x y z : Nat) : Except DecodeErr Instr :=
  fields (Dec.aVxVyFzFFK .vcvt x y z k)
/-- Major 0x19 (R70). -/
def dec19 (k x y z : Nat) : Except DecodeErr Instr :=
  match k with
  | 0 => fields (Dec.aVxVyVz .vshuf x y z)
  | 1 => fields (Dec.aVxVySz .vrotl x y z)
  | 2 => fields (Dec.aVxVySz .vbfly x y z)
  | 3 => fields (Dec.aVxVySz .vbcast x y z)
  | 4 => fields (Dec.aSxVySz .vextr x y z)
  | 5 => fields (Dec.aVxSySz .vins x y z)
  | 6 => fields (Dec.aVxVy .vprefix x y z)
  | 7 => fields (Dec.aSxVy .vredadd x y z)
  | 8 => fields (Dec.aSxVy .vredmin x y z)
  | 9 => fields (Dec.aSxVy .vredmax x y z)
  | 10 => fields (Dec.aSxVy .vredminu x y z)
  | 11 => fields (Dec.aSxVy .vredmaxu x y z)
  | 12 => fields (Dec.aSxVy .vredfadd x y z)
  | 13 => fields (Dec.aVxVyVz .vmerge x y z)
  | 14 => fields (Dec.aVx .vlaneid x y z)
  | 15 => fields (Dec.aVxVy .vmov x y z)
  | 16 => fields (Dec.aVxSy .vmovs x y z)
  | 17 => fields (Dec.aSx .vactmask x y z)
  | 18 => fields (Dec.aVxVySz .vpackb x y z)
  | 19 => fields (Dec.aVxVySz .vunpkb x y z)
  | 20 => fields (Dec.aVxVySz .vpackh x y z)
  | 21 => fields (Dec.aVxVySz .vunpkh x y z)
  | _ => .error .badMinor
/-- Major 0x1a (R70). -/
def dec1A (k x y z : Nat) : Except DecodeErr Instr :=
  match k with
  | 0 => fields (Dec.aVx .vrand x y z)
  | 1 => fields (Dec.aVx .vrandf x y z)
  | _ => .error .badMinor
/-- Major 0x1b, minor 4: by the z field. -/
def Dec.dec1B_4 (z : Nat) (x y : Nat) : Except DecodeErr Instr :=
  match z with
  | 0 => fields (Dec.aSxSy2 .xrdS x y)
  | 1 => fields (Dec.aSxSy2 .xrdD x y)
  | _ => .error .badField
/-- Major 0x1b (R70). -/
def dec1B (k x y z : Nat) : Except DecodeErr Instr :=
  match k with
  | 0 => fields (Dec.aSy .xclr x y z)
  | 1 => fields (Dec.aSyVz .xadd x y z)
  | 2 => fields (Dec.aSyVz .xaddh x y z)
  | 3 => fields (Dec.aSySz .xmerge x y z)
  | 4 => Dec.dec1B_4 z x y
  | _ => .error .badMinor
/-- Major 0x20 (R70). -/
def dec20 (k x y c o z : Nat) : Except DecodeErr Instr :=
  match k with
  | 0 => fields (Dec.mSxSyCOZz .ld x y c o z)
  | 1 => fields (Dec.mSxSyCOZz .lds x y c o z)
  | 2 => fields (Dec.mSxSyCOZz .st x y c o z)
  | 3 => fields (Dec.mSxSyCO .ldfe x y c o z)
  | 4 => fields (Dec.mSxSyCO .stfe x y c o z)
  | 5 => fields (Dec.mSxSyCO .ldf x y c o z)
  | 6 => fields (Dec.mSxSyCO .stf x y c o z)
  | 7 => fields (Dec.mSyCO .feset x y c o z)
  | 8 => fields (Dec.mSyCO .feclr x y c o z)
  | 9 => fields (Dec.mSxSyCO .feget x y c o z)
  | 10 => fields (Dec.mSxSyCOZz .waiteq x y c o z)
  | 11 => fields (Dec.mSxSyCOZz .waitne x y c o z)
  | 12 => fields (Dec.mSy .pref x y c o z)
  | _ => .error .badMinor
/-- Major 0x21: by the i field. -/
def Dec.dec21_ (i : Nat) (x y c o z : Nat) : Except DecodeErr Instr :=
  match i with
  | 0 => fields (Dec.vVxSyCOZz .vld x y c o z)
  | 1 => fields (Dec.vVxSyCO .vldFe x y c o z)
  | 2 => fields (Dec.vVxSyCO .vldF x y c o z)
  | _ => .error .badField
/-- Major 0x21 (R70). -/
def dec21 (x y i c o z : Nat) : Except DecodeErr Instr :=
  Dec.dec21_ i x y c o z
/-- Major 0x22: by the i field. -/
def Dec.dec22_ (i : Nat) (x y c o z : Nat) : Except DecodeErr Instr :=
  match i with
  | 0 => fields (Dec.vVxSyCOZz .vst x y c o z)
  | 1 => fields (Dec.vVxSyCO .vstFe x y c o z)
  | 2 => fields (Dec.vVxSyCO .vstF x y c o z)
  | _ => .error .badField
/-- Major 0x22 (R70). -/
def dec22 (x y i c o z : Nat) : Except DecodeErr Instr :=
  Dec.dec22_ i x y c o z
/-- Major 0x23 (R70). -/
def dec23 (x y i c o z : Nat) : Except DecodeErr Instr :=
  fields (Dec.vVxSyViCOZz .vgath x y i c o z)
/-- Major 0x24 (R70). -/
def dec24 (x y i c o z : Nat) : Except DecodeErr Instr :=
  fields (Dec.vVxSyViCOZz .vscat x y i c o z)
/-- Major 0x25 (R70). -/
def dec25 (x y i c o z : Nat) : Except DecodeErr Instr :=
  fields (Dec.vVxSySCOZz .vldk x y i c o z)
/-- Major 0x26 (R70). -/
def dec26 (x y i c o z : Nat) : Except DecodeErr Instr :=
  fields (Dec.vVxSySCOZz .vstk x y i c o z)
/-- Major 0x27 (R70). -/
def dec27 (k x y c o z : Nat) : Except DecodeErr Instr :=
  match k with
  | 0 => fields (Dec.mSxSyCOZz .aadd x y c o z)
  | 1 => fields (Dec.mSxSyCOZz .aand x y c o z)
  | 2 => fields (Dec.mSxSyCOZz .aor x y c o z)
  | 3 => fields (Dec.mSxSyCOZz .axor x y c o z)
  | 4 => fields (Dec.mSxSyCOZz .amin x y c o z)
  | 5 => fields (Dec.mSxSyCOZz .amax x y c o z)
  | 6 => fields (Dec.mSxSyCOZz .aminu x y c o z)
  | 7 => fields (Dec.mSxSyCOZz .amaxu x y c o z)
  | 8 => fields (Dec.mSxSyCOZz .aswap x y c o z)
  | 9 => fields (Dec.mSxSyCOZz .acas x y c o z)
  | 10 => fields (Dec.mSxSyCO .afadd x y c o z)
  | 11 => fields (Dec.mSxSyCO .afmax x y c o z)
  | _ => .error .badMinor
/-- Major 0x28 (R70). -/
def dec28 (k x y i o r : Nat) : Except DecodeErr Instr :=
  match k with
  | 0 => fields (Dec.vaVxSyViO .vaadd x y i o r)
  | 1 => fields (Dec.vaVxSyViO .vaand x y i o r)
  | 2 => fields (Dec.vaVxSyViO .vaor x y i o r)
  | 3 => fields (Dec.vaVxSyViO .vaxor x y i o r)
  | 4 => fields (Dec.vaVxSyViO .vamin x y i o r)
  | 5 => fields (Dec.vaVxSyViO .vamax x y i o r)
  | 6 => fields (Dec.vaVxSyViO .vaminu x y i o r)
  | 7 => fields (Dec.vaVxSyViO .vamaxu x y i o r)
  | 8 => fields (Dec.vaVxSyViO .vaswap x y i o r)
  | 9 => fields (Dec.vaVxSyViO .vafadd x y i o r)
  | _ => .error .badMinor
/-- Major 0x29 (R70). -/
def dec29 (k x y c o z : Nat) : Except DecodeErr Instr :=
  match k with
  | 0 => fields (Dec.mCO .fence x y c o z)
  | 1 => fields (Dec.mC .fenceSc x y c o z)
  | 2 => fields (Dec.m .fenceSv x y c o z)
  | _ => .error .badMinor
/-- Major 0x2a (R70). -/
def dec2A (k x y z : Nat) : Except DecodeErr Instr :=
  match k with
  | 0 => fields (Dec.xSxSy .barinit x y z)
  | 1 => fields (Dec.xSy .bararr x y z)
  | 2 => fields (Dec.xSy .barwait x y z)
  | 3 => fields (Dec.xSy .bararw x y z)
  | 4 => fields (Dec.xSxSy .barlead x y z)
  | 5 => fields (Dec.xSxSy .barq x y z)
  | 6 => fields (Dec.xSxSyLz .tlwait x y z)
  | 7 => fields (Dec.xSxLz .tlget x y z)
  | 8 => fields (Dec.xSxSy .nclaim x y z)
  | 9 => fields (Dec.xSxSyT .nunpack x y z)
  | 10 => fields (Dec.xSx .park x y z)
  | 11 => fields (Dec.xSy .wake x y z)
  | _ => .error .badMinor
/-- Major 0x2c (R70). -/
def dec2C (k x y z : Nat) : Except DecodeErr Instr :=
  match k with
  | 0 => fields (Dec.xSxSyFZ .sdef x y z)
  | 1 => fields (Dec.xSxSyBz .sdim x y z)
  | 2 => fields (Dec.xVxSy .sbind x y z)
  | 3 => fields (Dec.xVx .sunbind x y z)
  | 4 => fields (Dec.xSy .sgo x y z)
  | 5 => fields (Dec.xSy .sstop x y z)
  | 6 => fields (Dec.xSxSy .sstat x y z)
  | 7 => fields (Dec.xSy .sdrain x y z)
  | _ => .error .badMinor
/-- Major 0x2d (R70). -/
def dec2D (k x y z : Nat) : Except DecodeErr Instr :=
  match k with
  | 0 => fields (Dec.xSyBz .cpset x y z)
  | 1 => fields (Dec.xSxBz .cpget x y z)
  | 2 => fields (Dec.xSxT .cpgo x y z)
  | 3 => fields (Dec.xSxT .cpstat x y z)
  | 4 => fields (Dec.xSyT .cpresume x y z)
  | _ => .error .badMinor
/-- Major 0x2e (R70). -/
def dec2E (k x y z : Nat) : Except DecodeErr Instr :=
  match k with
  | 0 => fields (Dec.xSyR .obres x y z)
  | 1 => fields (Dec.xR .obfree x y z)
  | 2 => fields (Dec.xSyR .bsres x y z)
  | 3 => fields (Dec.xR .bsfree x y z)
  | 4 => fields (Dec.xSxSyKT .mma x y z)
  | 5 => fields (Dec.xSxSyKT .mmaz x y z)
  | 6 => fields (Dec.xT .accz x y z)
  | 7 => fields (Dec.xVxSyT .accrd x y z)
  | 8 => fields (Dec.xVxSyT .accwr x y z)
  | 9 => fields (Dec.xSyT .accst x y z)
  | 10 => fields (Dec.xSxSy .mrot x y z)
  | _ => .error .badMinor
/-- Major 0x2f (R70). -/
def dec2F (k x y z : Nat) : Except DecodeErr Instr :=
  match k with
  | 0 => fields (Dec.xSy .publish x y z)
  | 1 => fields (Dec.x .unpublish x y z)
  | 2 => fields (Dec.xSy .subscribe x y z)
  | 3 => fields (Dec.xCxSyBz .depart x y z)
  | 4 => fields (Dec.xSy .rejoin x y z)
  | 5 => fields (Dec.xSxSy .chstat x y z)
  | _ => .error .badMinor
/-- Major 0x30 (R70). -/
def dec30 (k x y z : Nat) : Except DecodeErr Instr :=
  match k with
  | 0 => fields (Dec.xVxSyF .ralloc x y z)
  | 1 => fields (Dec.xVxSyF .rallocw x y z)
  | 2 => fields (Dec.xVxSyF .rcommit x y z)
  | 3 => fields (Dec.x .rdone x y z)
  | 4 => fields (Dec.xSxSy .rdepth x y z)
  | 5 => fields (Dec.xSxSyBz .rinfo x y z)
  | _ => .error .badMinor
/-- Major 0x31, minor 6: by the z field. -/
def Dec.dec31_6 (z : Nat) (x y : Nat) : Except DecodeErr Instr :=
  match z with
  | 0 => fields (Dec.xSxSy2 .slotctlState x y)
  | 1 => fields (Dec.xSxSy2 .slotctlRdsr x y)
  | 2 => fields (Dec.xSxSy2 .slotctlWrsr x y)
  | 3 => fields (Dec.xSxSy2 .slotctlRds x y)
  | 4 => fields (Dec.xSxSy2 .slotctlWrs x y)
  | 5 => fields (Dec.xSxSy2 .slotctlRdv x y)
  | 6 => fields (Dec.xSxSy2 .slotctlWrv x y)
  | 7 => fields (Dec.xSxSy2 .slotctlRdctx x y)
  | 8 => fields (Dec.xSxSy2 .slotctlWrctx x y)
  | 9 => fields (Dec.xSxSy2 .slotctlResume x y)
  | 10 => fields (Dec.xSxSy2 .slotctlKill x y)
  | 11 => fields (Dec.xSxSy2 .slotctlSpill x y)
  | _ => .error .badField
/-- Major 0x31 (R70). -/
def dec31 (k x y z : Nat) : Except DecodeErr Instr :=
  match k with
  | 0 => fields (Dec.xSxSy .slotstart x y z)
  | 1 => fields (Dec.xSxSy .slotreap x y z)
  | 2 => fields (Dec.x .slotexit x y z)
  | 3 => fields (Dec.xSxSy .regclaim x y z)
  | 4 => fields (Dec.xSxSy .regyield x y z)
  | 5 => fields (Dec.xBxFFF .regmode x y z)
  | 6 => Dec.dec31_6 z x y
  | _ => .error .badMinor
/-- Major 0x32 (R70). -/
def dec32 (k x y z : Nat) : Except DecodeErr Instr :=
  match k with
  | 0 => fields (Dec.xSxPz .getsr x y z)
  | 1 => fields (Dec.xSyPz .setsr x y z)
  | 2 => fields (Dec.xSyBz .trap x y z)
  | 3 => fields (Dec.xBz .brkpt x y z)
  | 4 => fields (Dec.xSxSy .locality x y z)
  | 5 => fields (Dec.x .icinv x y z)
  | 6 => fields (Dec.x .nop x y z)
  | 7 => fields (Dec.xSy .idle x y z)
  | _ => .error .badMinor
/-- The majors of format A (R69). -/
def decodeA (m k x y z : Nat) : Except DecodeErr Instr :=
  match m with
  | 1 => dec01 k x y z
  | 8 => dec08 k x y z
  | 14 => dec0E k x y z
  | 17 => dec11 k x y z
  | 18 => dec12 k x y z
  | 19 => dec13 k x y z
  | 20 => dec14 k x y z
  | 21 => dec15 k x y z
  | 22 => dec16 k x y z
  | 23 => dec17 k x y z
  | 24 => dec18 k x y z
  | 25 => dec19 k x y z
  | 26 => dec1A k x y z
  | 27 => dec1B k x y z
  | _ => .error .badMajor
/-- The majors of format B (R69). -/
def decodeB (m x y z : Nat) : Except DecodeErr Instr :=
  match m with
  | 2 => dec02 x y z
  | 3 => dec03 x y z
  | 4 => dec04 x y z
  | 5 => dec05 x y z
  | 6 => dec06 x y z
  | 7 => dec07 x y z
  | 13 => dec0D x y z
  | 16 => dec10 x y z
  | _ => .error .badMajor
/-- The majors of format C (R69). -/
def decodeC (m x y : Nat) : Except DecodeErr Instr :=
  match m with
  | 9 => dec09 x y
  | 10 => dec0A x y
  | 12 => dec0C x y
  | 15 => dec0F x y
  | _ => .error .badMajor
/-- The majors of format M (R69). -/
def decodeM (m k x y c o z : Nat) : Except DecodeErr Instr :=
  match m with
  | 32 => dec20 k x y c o z
  | 39 => dec27 k x y c o z
  | 41 => dec29 k x y c o z
  | _ => .error .badMajor
/-- The majors of format X (R69). -/
def decodeX (m k x y z : Nat) : Except DecodeErr Instr :=
  match m with
  | 42 => dec2A k x y z
  | 44 => dec2C k x y z
  | 45 => dec2D k x y z
  | 46 => dec2E k x y z
  | 47 => dec2F k x y z
  | 48 => dec30 k x y z
  | 49 => dec31 k x y z
  | 50 => dec32 k x y z
  | _ => .error .badMajor
/-- The majors of format V (R69). -/
def decodeV (m x y i c o z : Nat) : Except DecodeErr Instr :=
  match m with
  | 33 => dec21 x y i c o z
  | 34 => dec22 x y i c o z
  | 35 => dec23 x y i c o z
  | 36 => dec24 x y i c o z
  | 37 => dec25 x y i c o z
  | 38 => dec26 x y i c o z
  | _ => .error .badMajor
/-- The majors of format VA (R69). -/
def decodeVA (m k x y i o r : Nat) : Except DecodeErr Instr :=
  match m with
  | 40 => dec28 k x y i o r
  | _ => .error .badMajor
/-- The format that a major fixes (R69). -/
inductive Fmt where | A | B | C | M | X | V | VA | take | lit | header | none
  deriving DecidableEq, Repr, Inhabited

/-- The format of each major (R69). -/
def fmtOf (m : Nat) : Fmt :=
  match m with
  | 1 => .A
  | 2 => .B
  | 3 => .B
  | 4 => .B
  | 5 => .B
  | 6 => .B
  | 7 => .B
  | 8 => .A
  | 9 => .C
  | 10 => .C
  | 11 => .lit
  | 12 => .C
  | 13 => .B
  | 14 => .A
  | 15 => .C
  | 16 => .B
  | 17 => .A
  | 18 => .A
  | 19 => .A
  | 20 => .A
  | 21 => .A
  | 22 => .A
  | 23 => .A
  | 24 => .A
  | 25 => .A
  | 26 => .A
  | 27 => .A
  | 32 => .M
  | 33 => .V
  | 34 => .V
  | 35 => .V
  | 36 => .V
  | 37 => .V
  | 38 => .V
  | 39 => .M
  | 40 => .VA
  | 41 => .M
  | 42 => .X
  | 44 => .X
  | 45 => .X
  | 46 => .X
  | 47 => .X
  | 48 => .X
  | 49 => .X
  | 50 => .X
  | 51 => .take
  | 62 => .header
  | _ => .none

/-- Decodes one word that needs no literal, by its format. -/
def decodeFmt (f : Fmt) (w : BitVec 32) : Except DecodeErr Instr :=
  match f with
  | .A => decodeA (major w) (fld w 0 5) (fld w 19 7) (fld w 12 7) (fld w 5 7)
  | .B => decodeB (major w) (fld w 19 7) (fld w 12 7) (fld w 0 12)
  | .C => decodeC (major w) (fld w 19 7) (fld w 0 19)
  | .M => decodeM (major w) (fld w 7 5) (fld w 19 7) (fld w 12 7) (fld w 4 3) (fld w 2 2) (fld w 0 2)
  | .X => decodeX (major w) (fld w 7 5) (fld w 19 7) (fld w 12 7) (fld w 0 7)
  | .V => decodeV (major w) (fld w 19 7) (fld w 14 5) (fld w 7 7) (fld w 4 3) (fld w 2 2) (fld w 0 2)
  | .VA => decodeVA (major w) (fld w 3 4) (fld w 19 7) (fld w 14 5) (fld w 7 7) (fld w 1 2) (fld w 0 1)
  | .take => if fld w 0 24 = 0 then .ok (.take (fld w 25 1 == 1) (fld w 24 1 == 1)) else .error .badField
  | .lit => .error .noLiteral
  | .header => .error .header
  | .none => .error .badMajor

/-- A LIT with its literal word (R68). -/
def decodeLit (w lit : BitVec 32) : Except DecodeErr Instr :=
  match sreg (fld w 19 7), fld w 0 19 with
  | some d, 0 => .ok (.movl d lit)
  | some d, 1 => .ok (.movlz d lit)
  | some d, 2 => .ok (.movlh d lit)
  | _, _ => .error .badField

/-- Refuses what `Instr.wf` refuses. -/
def checked (r : Except DecodeErr Instr) : Except DecodeErr Instr :=
  match r with
  | .ok i => if i.wf then .ok i else .error .badField
  | .error e => .error e

/-- Decodes the instruction at the head of a list of words and gives the words after it. -/
def decode : List (BitVec 32) → Except DecodeErr (Instr × List (BitVec 32))
  | [] => .error .noWord
  | w :: ws =>
    if fmtOf (major w) = .lit then
      match ws with
      | [] => .error .noLiteral
      | lit :: rest => (checked (decodeLit w lit)).map fun i => (i, rest)
    else (checked (decodeFmt (fmtOf (major w)) w)).map fun i => (i, ws)

/-- The word of four little-endian bytes. -/
def wordOfBytes (a b c d : Byte) : BitVec 32 :=
  BitVec.ofNat 32 (a.toNat + b.toNat * 256 + c.toNat * 65536 + d.toNat * 16777216)

/-- The little-endian words of a list of bytes; bytes that do not fill a word are left over. -/
def wordsOfBytes : List Byte → List (BitVec 32)
  | a :: b :: c :: d :: t => wordOfBytes a b c d :: wordsOfBytes t
  | _ => []

/-- `n` little-endian bytes of a number. -/
def bytesOfNat : Nat → Nat → List Byte
  | 0, _ => []
  | n + 1, x => BitVec.ofNat 8 x :: bytesOfNat n (x / 256)

/-- The host's view of the decoder: the instruction whose first `nbits` bits are `w`, every bit above them zero. -/
def decodeTableWord (nbits w : Nat) : Option Instr :=
  match decode (wordsOfBytes (bytesOfNat (Nat.max 8 (nbits / 8 + 4)) (w % 2 ^ nbits))) with
  | .ok (i, _) => some i
  | .error _ => none

/-! ## The encoder -/

/-- Packs the fields of format A (R57). -/
def packA (m k x y z : Nat) : BitVec 32 :=
  BitVec.ofNat 32 (m * 67108864 + k + x * 524288 + y * 4096 + z * 32)
/-- Packs the fields of format B (R57). -/
def packB (m x y z : Nat) : BitVec 32 :=
  BitVec.ofNat 32 (m * 67108864 + x * 524288 + y * 4096 + z)
/-- Packs the fields of format C (R57). -/
def packC (m x y : Nat) : BitVec 32 :=
  BitVec.ofNat 32 (m * 67108864 + x * 524288 + y)
/-- Packs the fields of format M (R57). -/
def packM (m k x y c o z : Nat) : BitVec 32 :=
  BitVec.ofNat 32 (m * 67108864 + k * 128 + x * 524288 + y * 4096 + c * 16 + o * 4 + z)
/-- Packs the fields of format X (R57). -/
def packX (m k x y z : Nat) : BitVec 32 :=
  BitVec.ofNat 32 (m * 67108864 + k * 128 + x * 524288 + y * 4096 + z)
/-- Packs the fields of format V (R57). -/
def packV (m x y i c o z : Nat) : BitVec 32 :=
  BitVec.ofNat 32 (m * 67108864 + x * 524288 + y * 16384 + i * 128 + c * 16 + o * 4 + z)
/-- Packs the fields of format VA (R57). -/
def packVA (m k x y i o r : Nat) : BitVec 32 :=
  BitVec.ofNat 32 (m * 67108864 + k * 8 + x * 524288 + y * 16384 + i * 128 + o * 2 + r)

/-- The words of an instruction, none for a row without an encoding. -/
def encode (i : Instr) : List (BitVec 32) :=
  match i with
  | .add d a b => [packA 1 0 d.toNat a.toNat b.toNat]
  | .sub d a b => [packA 1 1 d.toNat a.toNat b.toNat]
  | .and d a b => [packA 1 2 d.toNat a.toNat b.toNat]
  | .or d a b => [packA 1 3 d.toNat a.toNat b.toNat]
  | .xor d a b => [packA 1 4 d.toNat a.toNat b.toNat]
  | .andn d a b => [packA 1 5 d.toNat a.toNat b.toNat]
  | .shl d a b => [packA 1 6 d.toNat a.toNat b.toNat]
  | .shr d a b => [packA 1 7 d.toNat a.toNat b.toNat]
  | .sar d a b => [packA 1 8 d.toNat a.toNat b.toNat]
  | .ror d a b => [packA 1 9 d.toNat a.toNat b.toNat]
  | .mul d a b => [packA 1 10 d.toNat a.toNat b.toNat]
  | .mulh d a b => [packA 1 11 d.toNat a.toNat b.toNat]
  | .mulhu d a b => [packA 1 12 d.toNat a.toNat b.toNat]
  | .div d a b => [packA 1 13 d.toNat a.toNat b.toNat]
  | .divu d a b => [packA 1 14 d.toNat a.toNat b.toNat]
  | .rem d a b => [packA 1 15 d.toNat a.toNat b.toNat]
  | .remu d a b => [packA 1 16 d.toNat a.toNat b.toNat]
  | .min d a b => [packA 1 17 d.toNat a.toNat b.toNat]
  | .max d a b => [packA 1 18 d.toNat a.toNat b.toNat]
  | .minu d a b => [packA 1 19 d.toNat a.toNat b.toNat]
  | .maxu d a b => [packA 1 20 d.toNat a.toNat b.toNat]
  | .seq d a b => [packA 1 21 d.toNat a.toNat b.toNat]
  | .sne d a b => [packA 1 22 d.toNat a.toNat b.toNat]
  | .slt d a b => [packA 1 23 d.toNat a.toNat b.toNat]
  | .sltu d a b => [packA 1 24 d.toNat a.toNat b.toNat]
  | .sle d a b => [packA 1 25 d.toNat a.toNat b.toNat]
  | .sleu d a b => [packA 1 26 d.toNat a.toNat b.toNat]
  | .clz d a => [packA 1 27 d.toNat a.toNat 0]
  | .popc d a => [packA 1 28 d.toNat a.toNat 0]
  | .brev d a => [packA 1 29 d.toNat a.toNat 0]
  | .addw d a b => [packA 1 30 d.toNat a.toNat b.toNat]
  | .subw d a b => [packA 1 31 d.toNat a.toNat b.toNat]
  | .addi d a i => [packB 2 d.toNat a.toNat i.toNat]
  | .andi d a i => [packB 3 d.toNat a.toNat i.toNat]
  | .ori d a i => [packB 4 d.toNat a.toNat i.toNat]
  | .xori d a i => [packB 5 d.toNat a.toNat i.toNat]
  | .slti d a i => [packB 6 d.toNat a.toNat i.toNat]
  | .sltiu d a i => [packB 7 d.toNat a.toNat i.toNat]
  | .shli d a n => [packA 8 0 d.toNat a.toNat n.toNat]
  | .shri d a n => [packA 8 1 d.toNat a.toNat n.toNat]
  | .sari d a n => [packA 8 2 d.toNat a.toNat n.toNat]
  | .rori d a n => [packA 8 3 d.toNat a.toNat n.toNat]
  | .lui d i => [packC 9 d.toNat i.toNat]
  | .addpc d i => [packC 10 d.toNat i.toNat]
  | .movl d lit => [packC 11 d.toNat 0, lit]
  | .movlz d lit => [packC 11 d.toNat 1, lit]
  | .movlh d lit => [packC 11 d.toNat 2, lit]
  | .take ta tb => [BitVec.ofNat 32 (3422552064 + ta.toNat * 33554432 + tb.toNat * 16777216)]
  | .br i => [packC 12 0 i.toNat]
  | .bc c a i => [packB 13 c.code a.toNat i.toNat]
  | .jr a => [packA 14 0 0 a.toNat 0]
  | .jalr d a => [packA 14 1 d.toNat a.toNat 0]
  | .bal d i => [packC 15 d.toNat i.toNat]
  | .loop a i => [packB 16 0 a.toNat i.toNat]
  | .vif c => [packA 17 0 0 c.toNat 0]
  | .vifz c => [packA 17 1 0 c.toNat 0]
  | .velse => [packA 17 2 0 0 0]
  | .vendif => [packA 17 3 0 0 0]
  | .vendifLx => [packA 17 3 0 0 1]
  | .vloopb => [packA 17 4 0 0 0]
  | .vbrk c n => [packA 17 5 0 c.toNat n.toNat]
  | .vcont c n => [packA 17 6 0 c.toNat n.toNat]
  | .vloope d c => [packA 17 7 d.toNat c.toNat 0]
  | .vgetnc d => [packA 17 8 d.toNat 0 0]
  | .vsetnc s => [packA 17 9 0 s.toNat 0]
  | .vadd d a b => [packA 18 0 d.toNat a.toNat b.toNat]
  | .vsub d a b => [packA 18 1 d.toNat a.toNat b.toNat]
  | .vmul d a b => [packA 18 2 d.toNat a.toNat b.toNat]
  | .vmulh d a b => [packA 18 3 d.toNat a.toNat b.toNat]
  | .vmulhu d a b => [packA 18 4 d.toNat a.toNat b.toNat]
  | .vand d a b => [packA 18 5 d.toNat a.toNat b.toNat]
  | .vor d a b => [packA 18 6 d.toNat a.toNat b.toNat]
  | .vxor d a b => [packA 18 7 d.toNat a.toNat b.toNat]
  | .vandn d a b => [packA 18 8 d.toNat a.toNat b.toNat]
  | .vshl d a b => [packA 18 9 d.toNat a.toNat b.toNat]
  | .vshr d a b => [packA 18 10 d.toNat a.toNat b.toNat]
  | .vsar d a b => [packA 18 11 d.toNat a.toNat b.toNat]
  | .vmin d a b => [packA 18 12 d.toNat a.toNat b.toNat]
  | .vmax d a b => [packA 18 13 d.toNat a.toNat b.toNat]
  | .vminu d a b => [packA 18 14 d.toNat a.toNat b.toNat]
  | .vmaxu d a b => [packA 18 15 d.toNat a.toNat b.toNat]
  | .vabs d a => [packA 18 16 d.toNat a.toNat 0]
  | .vneg d a => [packA 18 17 d.toNat a.toNat 0]
  | .vseq d a b => [packA 18 18 d.toNat a.toNat b.toNat]
  | .vsne d a b => [packA 18 19 d.toNat a.toNat b.toNat]
  | .vslt d a b => [packA 18 20 d.toNat a.toNat b.toNat]
  | .vsltu d a b => [packA 18 21 d.toNat a.toNat b.toNat]
  | .vsle d a b => [packA 18 22 d.toNat a.toNat b.toNat]
  | .vsleu d a b => [packA 18 23 d.toNat a.toNat b.toNat]
  | .vclz d a => [packA 18 24 d.toNat a.toNat 0]
  | .vpopc d a => [packA 18 25 d.toNat a.toNat 0]
  | .vaddsat d a b => [packA 18 26 d.toNat a.toNat b.toNat]
  | .vsubsat d a b => [packA 18 27 d.toNat a.toNat b.toNat]
  | .vaddsatu d a b => [packA 18 28 d.toNat a.toNat b.toNat]
  | .vsubsatu d a b => [packA 18 29 d.toNat a.toNat b.toNat]
  | .vdot4 d a b => [packA 18 30 d.toNat a.toNat b.toNat]
  | .vdot4u d a b => [packA 18 31 d.toNat a.toNat b.toNat]
  | .vaddScalar d a b => [packA 19 0 d.toNat a.toNat b.toNat]
  | .vsubScalar d a b => [packA 19 1 d.toNat a.toNat b.toNat]
  | .vmulScalar d a b => [packA 19 2 d.toNat a.toNat b.toNat]
  | .vmulhScalar d a b => [packA 19 3 d.toNat a.toNat b.toNat]
  | .vmulhuScalar d a b => [packA 19 4 d.toNat a.toNat b.toNat]
  | .vandScalar d a b => [packA 19 5 d.toNat a.toNat b.toNat]
  | .vorScalar d a b => [packA 19 6 d.toNat a.toNat b.toNat]
  | .vxorScalar d a b => [packA 19 7 d.toNat a.toNat b.toNat]
  | .vandnScalar d a b => [packA 19 8 d.toNat a.toNat b.toNat]
  | .vshlScalar d a b => [packA 19 9 d.toNat a.toNat b.toNat]
  | .vshrScalar d a b => [packA 19 10 d.toNat a.toNat b.toNat]
  | .vsarScalar d a b => [packA 19 11 d.toNat a.toNat b.toNat]
  | .vminScalar d a b => [packA 19 12 d.toNat a.toNat b.toNat]
  | .vmaxScalar d a b => [packA 19 13 d.toNat a.toNat b.toNat]
  | .vminuScalar d a b => [packA 19 14 d.toNat a.toNat b.toNat]
  | .vmaxuScalar d a b => [packA 19 15 d.toNat a.toNat b.toNat]
  | .vseqScalar d a b => [packA 19 18 d.toNat a.toNat b.toNat]
  | .vsneScalar d a b => [packA 19 19 d.toNat a.toNat b.toNat]
  | .vsltScalar d a b => [packA 19 20 d.toNat a.toNat b.toNat]
  | .vsltuScalar d a b => [packA 19 21 d.toNat a.toNat b.toNat]
  | .vsleScalar d a b => [packA 19 22 d.toNat a.toNat b.toNat]
  | .vsleuScalar d a b => [packA 19 23 d.toNat a.toNat b.toNat]
  | .vaddsatScalar d a b => [packA 19 26 d.toNat a.toNat b.toNat]
  | .vsubsatScalar d a b => [packA 19 27 d.toNat a.toNat b.toNat]
  | .vaddsatuScalar d a b => [packA 19 28 d.toNat a.toNat b.toNat]
  | .vsubsatuScalar d a b => [packA 19 29 d.toNat a.toNat b.toNat]
  | .vdot4Scalar d a b => [packA 19 30 d.toNat a.toNat b.toNat]
  | .vdot4uScalar d a b => [packA 19 31 d.toNat a.toNat b.toNat]
  | .vaddH d a b => [packA 20 0 d.toNat a.toNat b.toNat]
  | .vsubH d a b => [packA 20 1 d.toNat a.toNat b.toNat]
  | .vmulH d a b => [packA 20 2 d.toNat a.toNat b.toNat]
  | .vmulhH d a b => [packA 20 3 d.toNat a.toNat b.toNat]
  | .vminH d a b => [packA 20 4 d.toNat a.toNat b.toNat]
  | .vmaxH d a b => [packA 20 5 d.toNat a.toNat b.toNat]
  | .vminuH d a b => [packA 20 6 d.toNat a.toNat b.toNat]
  | .vmaxuH d a b => [packA 20 7 d.toNat a.toNat b.toNat]
  | .vaddsatH d a b => [packA 20 8 d.toNat a.toNat b.toNat]
  | .vsubsatH d a b => [packA 20 9 d.toNat a.toNat b.toNat]
  | .vaddsatuH d a b => [packA 20 10 d.toNat a.toNat b.toNat]
  | .vsubsatuH d a b => [packA 20 11 d.toNat a.toNat b.toNat]
  | .vseqH d a b => [packA 20 12 d.toNat a.toNat b.toNat]
  | .vsltH d a b => [packA 20 13 d.toNat a.toNat b.toNat]
  | .vshlH d a b => [packA 20 14 d.toNat a.toNat b.toNat]
  | .vshrH d a b => [packA 20 15 d.toNat a.toNat b.toNat]
  | .vsarH d a b => [packA 20 16 d.toNat a.toNat b.toNat]
  | .vabsH d a => [packA 20 17 d.toNat a.toNat 0]
  | .vfadd d a b => [packA 21 0 d.toNat a.toNat b.toNat]
  | .vfsub d a b => [packA 21 1 d.toNat a.toNat b.toNat]
  | .vfmul d a b => [packA 21 2 d.toNat a.toNat b.toNat]
  | .vfma d a b => [packA 21 3 d.toNat a.toNat b.toNat]
  | .vfms d a b => [packA 21 4 d.toNat a.toNat b.toNat]
  | .vfnma d a b => [packA 21 5 d.toNat a.toNat b.toNat]
  | .vfmin d a b => [packA 21 6 d.toNat a.toNat b.toNat]
  | .vfmax d a b => [packA 21 7 d.toNat a.toNat b.toNat]
  | .vfminnum d a b => [packA 21 8 d.toNat a.toNat b.toNat]
  | .vfmaxnum d a b => [packA 21 9 d.toNat a.toNat b.toNat]
  | .vfabs d a => [packA 21 10 d.toNat a.toNat 0]
  | .vfneg d a => [packA 21 11 d.toNat a.toNat 0]
  | .vfceq d a b => [packA 21 12 d.toNat a.toNat b.toNat]
  | .vfclt d a b => [packA 21 13 d.toNat a.toNat b.toNat]
  | .vfcle d a b => [packA 21 14 d.toNat a.toNat b.toNat]
  | .vfcun d a b => [packA 21 15 d.toNat a.toNat b.toNat]
  | .vfdiv d a b => [packA 21 16 d.toNat a.toNat b.toNat]
  | .vfsqrt d a => [packA 21 17 d.toNat a.toNat 0]
  | .vfrcp d a => [packA 21 18 d.toNat a.toNat 0]
  | .vfrsq d a => [packA 21 19 d.toNat a.toNat 0]
  | .vfexp2 d a => [packA 21 20 d.toNat a.toNat 0]
  | .vflog2 d a => [packA 21 21 d.toNat a.toNat 0]
  | .vfrint d a => [packA 21 22 d.toNat a.toNat 0]
  | .vfclass d a => [packA 21 23 d.toNat a.toNat 0]
  | .vfcopysign d a b => [packA 21 24 d.toNat a.toNat b.toNat]
  | .vfaddScalar d a b => [packA 22 0 d.toNat a.toNat b.toNat]
  | .vfsubScalar d a b => [packA 22 1 d.toNat a.toNat b.toNat]
  | .vfmulScalar d a b => [packA 22 2 d.toNat a.toNat b.toNat]
  | .vfmaScalar d a b => [packA 22 3 d.toNat a.toNat b.toNat]
  | .vfmsScalar d a b => [packA 22 4 d.toNat a.toNat b.toNat]
  | .vfnmaScalar d a b => [packA 22 5 d.toNat a.toNat b.toNat]
  | .vfminScalar d a b => [packA 22 6 d.toNat a.toNat b.toNat]
  | .vfmaxScalar d a b => [packA 22 7 d.toNat a.toNat b.toNat]
  | .vfminnumScalar d a b => [packA 22 8 d.toNat a.toNat b.toNat]
  | .vfmaxnumScalar d a b => [packA 22 9 d.toNat a.toNat b.toNat]
  | .vfceqScalar d a b => [packA 22 12 d.toNat a.toNat b.toNat]
  | .vfcltScalar d a b => [packA 22 13 d.toNat a.toNat b.toNat]
  | .vfcleScalar d a b => [packA 22 14 d.toNat a.toNat b.toNat]
  | .vfcunScalar d a b => [packA 22 15 d.toNat a.toNat b.toNat]
  | .vfdivScalar d a b => [packA 22 16 d.toNat a.toNat b.toNat]
  | .vfcopysignScalar d a b => [packA 22 24 d.toNat a.toNat b.toNat]
  | .vhadd d a b => [packA 23 0 d.toNat a.toNat b.toNat]
  | .vhsub d a b => [packA 23 1 d.toNat a.toNat b.toNat]
  | .vhmul d a b => [packA 23 2 d.toNat a.toNat b.toNat]
  | .vhfma d a b => [packA 23 3 d.toNat a.toNat b.toNat]
  | .vhmin d a b => [packA 23 4 d.toNat a.toNat b.toNat]
  | .vhmax d a b => [packA 23 5 d.toNat a.toNat b.toNat]
  | .vhceq d a b => [packA 23 6 d.toNat a.toNat b.toNat]
  | .vhclt d a b => [packA 23 7 d.toNat a.toNat b.toNat]
  | .vhcle d a b => [packA 23 8 d.toNat a.toNat b.toNat]
  | .vhcun d a b => [packA 23 9 d.toNat a.toNat b.toNat]
  | .vhaddBf d a b => [packA 23 16 d.toNat a.toNat b.toNat]
  | .vhsubBf d a b => [packA 23 17 d.toNat a.toNat b.toNat]
  | .vhmulBf d a b => [packA 23 18 d.toNat a.toNat b.toNat]
  | .vhfmaBf d a b => [packA 23 19 d.toNat a.toNat b.toNat]
  | .vhminBf d a b => [packA 23 20 d.toNat a.toNat b.toNat]
  | .vhmaxBf d a b => [packA 23 21 d.toNat a.toNat b.toNat]
  | .vhceqBf d a b => [packA 23 22 d.toNat a.toNat b.toNat]
  | .vhcltBf d a b => [packA 23 23 d.toNat a.toNat b.toNat]
  | .vhcleBf d a b => [packA 23 24 d.toNat a.toNat b.toNat]
  | .vhcunBf d a b => [packA 23 25 d.toNat a.toNat b.toNat]
  | .vcvt d a f r s k => [packA 24 (r.toNat * 16 + s.toNat * 8 + k.toNat) d.toNat a.toNat f.toNat]
  | .vshuf d a i => [packA 25 0 d.toNat a.toNat i.toNat]
  | .vrotl d a k => [packA 25 1 d.toNat a.toNat k.toNat]
  | .vbfly d a k => [packA 25 2 d.toNat a.toNat k.toNat]
  | .vbcast d a k => [packA 25 3 d.toNat a.toNat k.toNat]
  | .vextr d a k => [packA 25 4 d.toNat a.toNat k.toNat]
  | .vins d a k => [packA 25 5 d.toNat a.toNat k.toNat]
  | .vprefix d a => [packA 25 6 d.toNat a.toNat 0]
  | .vredadd d a => [packA 25 7 d.toNat a.toNat 0]
  | .vredmin d a => [packA 25 8 d.toNat a.toNat 0]
  | .vredmax d a => [packA 25 9 d.toNat a.toNat 0]
  | .vredminu d a => [packA 25 10 d.toNat a.toNat 0]
  | .vredmaxu d a => [packA 25 11 d.toNat a.toNat 0]
  | .vredfadd d a => [packA 25 12 d.toNat a.toNat 0]
  | .vmerge d a b => [packA 25 13 d.toNat a.toNat b.toNat]
  | .vlaneid d => [packA 25 14 d.toNat 0 0]
  | .vmov d a => [packA 25 15 d.toNat a.toNat 0]
  | .vmovs d a => [packA 25 16 d.toNat a.toNat 0]
  | .vactmask d => [packA 25 17 d.toNat 0 0]
  | .vpackb d a q => [packA 25 18 d.toNat a.toNat q.toNat]
  | .vunpkb d a q => [packA 25 19 d.toNat a.toNat q.toNat]
  | .vpackh d a q => [packA 25 20 d.toNat a.toNat q.toNat]
  | .vunpkh d a q => [packA 25 21 d.toNat a.toNat q.toNat]
  | .vrand d => [packA 26 0 d.toNat 0 0]
  | .vrandf d => [packA 26 1 d.toNat 0 0]
  | .xclr a => [packA 27 0 0 a.toNat 0]
  | .xadd a b => [packA 27 1 0 a.toNat b.toNat]
  | .xaddh a b => [packA 27 2 0 a.toNat b.toNat]
  | .xmerge a b => [packA 27 3 0 a.toNat b.toNat]
  | .xrdS d a => [packA 27 4 d.toNat a.toNat 0]
  | .xrdD d a => [packA 27 4 d.toNat a.toNat 1]
  | .ld d b c o z => [packM 32 0 d.toNat b.toNat c.code o.code z.code]
  | .lds d b c o z => [packM 32 1 d.toNat b.toNat c.code o.code z.code]
  | .st d b c o z => [packM 32 2 d.toNat b.toNat c.code o.code z.code]
  | .ldfe d b c o => [packM 32 3 d.toNat b.toNat c.code o.code 2]
  | .stfe d b c o => [packM 32 4 d.toNat b.toNat c.code o.code 2]
  | .ldf d b c o => [packM 32 5 d.toNat b.toNat c.code o.code 2]
  | .stf d b c o => [packM 32 6 d.toNat b.toNat c.code o.code 2]
  | .feset b c o => [packM 32 7 0 b.toNat c.code o.code 2]
  | .feclr b c o => [packM 32 8 0 b.toNat c.code o.code 2]
  | .feget d b c o => [packM 32 9 d.toNat b.toNat c.code o.code 2]
  | .waiteq d b c o z => [packM 32 10 d.toNat b.toNat c.code o.code z.code]
  | .waitne d b c o z => [packM 32 11 d.toNat b.toNat c.code o.code z.code]
  | .pref b => [packM 32 12 0 b.toNat 0 0 0]
  | .vld d b c o z => [packV 33 d.toNat b.toNat 0 c.code o.code z.code]
  | .vldFe d b c o => [packV 33 d.toNat b.toNat 1 c.code o.code 2]
  | .vldF d b c o => [packV 33 d.toNat b.toNat 2 c.code o.code 2]
  | .vst d b c o z => [packV 34 d.toNat b.toNat 0 c.code o.code z.code]
  | .vstFe d b c o => [packV 34 d.toNat b.toNat 1 c.code o.code 2]
  | .vstF d b c o => [packV 34 d.toNat b.toNat 2 c.code o.code 2]
  | .vgath d b i c o z => [packV 35 d.toNat b.toNat i.toNat c.code o.code z.code]
  | .vscat d b i c o z => [packV 36 d.toNat b.toNat i.toNat c.code o.code z.code]
  | .vldk d b k c o z => [packV 37 d.toNat b.toNat k.toNat c.code o.code z.code]
  | .vstk d b k c o z => [packV 38 d.toNat b.toNat k.toNat c.code o.code z.code]
  | .aadd d b c o z => [packM 39 0 d.toNat b.toNat c.code o.code z.code]
  | .aand d b c o z => [packM 39 1 d.toNat b.toNat c.code o.code z.code]
  | .aor d b c o z => [packM 39 2 d.toNat b.toNat c.code o.code z.code]
  | .axor d b c o z => [packM 39 3 d.toNat b.toNat c.code o.code z.code]
  | .amin d b c o z => [packM 39 4 d.toNat b.toNat c.code o.code z.code]
  | .amax d b c o z => [packM 39 5 d.toNat b.toNat c.code o.code z.code]
  | .aminu d b c o z => [packM 39 6 d.toNat b.toNat c.code o.code z.code]
  | .amaxu d b c o z => [packM 39 7 d.toNat b.toNat c.code o.code z.code]
  | .aswap d b c o z => [packM 39 8 d.toNat b.toNat c.code o.code z.code]
  | .acas d b c o z => [packM 39 9 d.toNat b.toNat c.code o.code z.code]
  | .afadd d b c o => [packM 39 10 d.toNat b.toNat c.code o.code 2]
  | .afmax d b c o => [packM 39 11 d.toNat b.toNat c.code o.code 2]
  | .vaadd d b i o => [packVA 40 0 d.toNat b.toNat i.toNat o.code 0]
  | .vaand d b i o => [packVA 40 1 d.toNat b.toNat i.toNat o.code 0]
  | .vaor d b i o => [packVA 40 2 d.toNat b.toNat i.toNat o.code 0]
  | .vaxor d b i o => [packVA 40 3 d.toNat b.toNat i.toNat o.code 0]
  | .vamin d b i o => [packVA 40 4 d.toNat b.toNat i.toNat o.code 0]
  | .vamax d b i o => [packVA 40 5 d.toNat b.toNat i.toNat o.code 0]
  | .vaminu d b i o => [packVA 40 6 d.toNat b.toNat i.toNat o.code 0]
  | .vamaxu d b i o => [packVA 40 7 d.toNat b.toNat i.toNat o.code 0]
  | .vaswap d b i o => [packVA 40 8 d.toNat b.toNat i.toNat o.code 0]
  | .vafadd d b i o => [packVA 40 9 d.toNat b.toNat i.toNat o.code 0]
  | .fence c o => [packM 41 0 0 0 c.code o.code 0]
  | .fenceSc c => [packM 41 1 0 0 c.code 0 0]
  | .fenceSv => [packM 41 2 0 0 0 0 0]
  | .barinit n c => [packX 42 0 n.toNat c.toNat 0]
  | .bararr n => [packX 42 1 0 n.toNat 0]
  | .barwait n => [packX 42 2 0 n.toNat 0]
  | .bararw n => [packX 42 3 0 n.toNat 0]
  | .barlead d n => [packX 42 4 d.toNat n.toNat 0]
  | .barq d n => [packX 42 5 d.toNat n.toNat 0]
  | .tlwait d v t => [packX 42 6 d.toNat v.toNat t.code]
  | .tlget d t => [packX 42 7 d.toNat 0 t.code]
  | .nclaim d b => [packX 42 8 d.toNat b.toNat 0]
  | .nunpack d i n => [packX 42 9 d.toNat i.toNat n.toNat]
  | .park d => [packX 42 10 d.toNat 0 0]
  | .wake g => [packX 42 11 0 g.toNat 0]
  | .sdef n b x z => [packX 44 0 n.toNat b.toNat (x.toNat * 4 + z.code)]
  | .sdim n v j => [packX 44 1 n.toNat v.toNat j.toNat]
  | .sbind d n => [packX 44 2 d.toNat n.toNat 0]
  | .sunbind d => [packX 44 3 d.toNat 0 0]
  | .sgo n => [packX 44 4 0 n.toNat 0]
  | .sstop n => [packX 44 5 0 n.toNat 0]
  | .sstat d n => [packX 44 6 d.toNat n.toNat 0]
  | .sdrain n => [packX 44 7 0 n.toNat 0]
  | .cpset s n => [packX 45 0 0 s.toNat n.toNat]
  | .cpget d n => [packX 45 1 d.toNat 0 n.toNat]
  | .cpgo d t => [packX 45 2 d.toNat 0 t.toNat]
  | .cpstat d t => [packX 45 3 d.toNat 0 t.toNat]
  | .cpresume n t => [packX 45 4 0 n.toNat t.toNat]
  | .obres v n => [packX 46 0 0 v.toNat n.toNat]
  | .obfree n => [packX 46 1 0 0 n.toNat]
  | .bsres v n => [packX 46 2 0 v.toNat n.toNat]
  | .bsfree n => [packX 46 3 0 0 n.toNat]
  | .mma a b k t => [packX 46 4 a.toNat b.toNat (k.toNat * 4 + t.toNat)]
  | .mmaz a b k t => [packX 46 5 a.toNat b.toNat (k.toNat * 4 + t.toNat)]
  | .accz t => [packX 46 6 0 0 t.toNat]
  | .accrd d c t => [packX 46 7 d.toNat c.toNat t.toNat]
  | .accwr s c t => [packX 46 8 s.toNat c.toNat t.toNat]
  | .accst b t => [packX 46 9 0 b.toNat t.toNat]
  | .mrot l h => [packX 46 10 l.toNat h.toNat 0]
  | .publish c => [packX 47 0 0 c.toNat 0]
  | .unpublish => [packX 47 1 0 0 0]
  | .subscribe c => [packX 47 2 0 c.toNat 0]
  | .depart k a i => [packX 47 3 k.code a.toNat i.toNat]
  | .rejoin c => [packX 47 4 0 c.toNat 0]
  | .chstat d c => [packX 47 5 d.toNat c.toNat 0]
  | .ralloc d n t => [packX 48 0 d.toNat n.toNat t.toNat]
  | .rallocw d n t => [packX 48 1 d.toNat n.toNat t.toNat]
  | .rcommit d n v => [packX 48 2 d.toNat n.toNat v.toNat]
  | .rdone => [packX 48 3 0 0 0]
  | .rdepth d n => [packX 48 4 d.toNat n.toNat 0]
  | .rinfo d n k => [packX 48 5 d.toNat n.toNat k.toNat]
  | .slotstart c e => [packX 49 0 c.toNat e.toNat 0]
  | .slotreap d t => [packX 49 1 d.toNat t.toNat 0]
  | .slotexit => [packX 49 2 0 0 0]
  | .regclaim d n => [packX 49 3 d.toNat n.toNat 0]
  | .regyield d n => [packX 49 4 d.toNat n.toNat 0]
  | .regmode r l v m => [packX 49 5 r.toNat 0 (l.toNat * 4 + v.toNat * 2 + m.toNat)]
  | .slotctlState v g => [packX 49 6 v.toNat g.toNat 0]
  | .slotctlRdsr v g => [packX 49 6 v.toNat g.toNat 1]
  | .slotctlWrsr v g => [packX 49 6 v.toNat g.toNat 2]
  | .slotctlRds v g => [packX 49 6 v.toNat g.toNat 3]
  | .slotctlWrs v g => [packX 49 6 v.toNat g.toNat 4]
  | .slotctlRdv v g => [packX 49 6 v.toNat g.toNat 5]
  | .slotctlWrv v g => [packX 49 6 v.toNat g.toNat 6]
  | .slotctlRdctx v g => [packX 49 6 v.toNat g.toNat 7]
  | .slotctlWrctx v g => [packX 49 6 v.toNat g.toNat 8]
  | .slotctlResume v g => [packX 49 6 v.toNat g.toNat 9]
  | .slotctlKill v g => [packX 49 6 v.toNat g.toNat 10]
  | .slotctlSpill v g => [packX 49 6 v.toNat g.toNat 11]
  | .getsr d n => [packX 50 0 d.toNat 0 n.code]
  | .setsr s n => [packX 50 1 0 s.toNat n.code]
  | .trap s c => [packX 50 2 0 s.toNat c.toNat]
  | .brkpt c => [packX 50 3 0 0 c.toNat]
  | .locality d s => [packX 50 4 d.toNat s.toNat 0]
  | .icinv => [packX 50 5 0 0 0]
  | .nop => [packX 50 6 0 0 0]
  | .idle s => [packX 50 7 0 s.toNat 0]
  | .idleDelayEnd _ => []
  | .waitqSatisfied _ => []
  | .instructionCacheRefill _ => []
  | .icinvComplete _ => []
  | .producerValueWrite _ _ => []
  | .postedAcknowledgement _ _ => []
  | .activeMessage _ _ => []
  | .waiterResend _ _ => []
  | .fewaitExpiry _ => []
  | .cancelAnswer _ => []
  | .barrierArrival _ _ => []
  | .wakeArrival _ _ => []
  | .parkTimeout _ => []
  | .streamElementRead _ _ _ => []
  | .streamElementWrite _ _ _ => []
  | .copyLaunchAccept _ _ _ => []
  | .copyPayload _ _ _ => []
  | .copyCompletion _ _ _ => []
  | .copyWaitrecResume _ _ _ => []
  | .matrixStep _ => []
  | .stepAccumulation _ _ => []
  | .rotationTableEffect _ _ => []
  | .powerCapEffect _ => []
  | .channelRegistry _ => []
  | .publishedInstruction _ => []
  | .endMark _ => []
  | .channelStop _ => []
  | .joinWaitExpiry _ => []
  | .shawmRecordOperation _ _ => []
  | .rallocwServed _ => []
  | .rallocwWaitExpiry _ => []
  | .coalescingTimer _ _ _ => []
  | .placementReservation _ _ => []
  | .placementRetry _ _ => []
  | .groupCommit _ _ => []
  | .groupStart _ => []
  | .slotStartFirstIssue _ => []
  | .groupSlotReturn _ => []
  | .groupEnd _ _ _ => []
  | .hostRecordAppend _ _ => []
  | .graphLoadComplete _ _ => []
  | .graphTeardownComplete _ _ => []
  | .spillComplete _ => []
  | .resumeRestore _ => []
  | .resumedSlotFirstIssue _ => []
  | .faultRecordPost _ _ => []
  | .mailboxPoll _ _ => []
  | .mboxSlotctlState _ _ => []
  | .mboxSlotctlRdsr _ _ => []
  | .mboxSlotctlWrsr _ _ => []
  | .mboxSlotctlRds _ _ => []
  | .mboxSlotctlWrs _ _ => []
  | .mboxSlotctlRdv _ _ => []
  | .mboxSlotctlWrv _ _ => []
  | .mboxSlotctlRdctx _ _ => []
  | .mboxSlotctlWrctx _ _ => []
  | .mboxSlotctlResume _ _ => []
  | .mboxSlotctlKill _ _ => []
  | .mboxSlotctlSpill _ _ => []
  | .graphload _ _ => []
  | .graphtear _ _ => []
  | .inval _ _ => []
  | .invalidationComplete _ _ => []
  | .mboxFence _ _ => []
  | .unfence _ _ => []
  | .reset _ _ => []
  | .partitionResetComplete _ _ => []
  | .switch _ _ => []
  | .switchDrainComplete _ _ => []
  | .switchDeadline _ _ => []
  | .partOpen _ _ => []
  | .close _ _ => []
  | .resetpkg _ => []
  | .twinHashArrival _ _ => []
  | .twinHashTimeout _ => []
  | .enable _ => []
  | .protectionInitComplete _ => []
  | .disable _ => []
  | .declare _ _ => []
  | .rebuild _ => []
  | .parityDelta _ _ => []
  | .deltaForward _ _ => []
  | .deltaAcknowledgement _ _ => []
  | .parityAcknowledgement _ _ => []
  | .deltaSilence _ _ => []
  | .quiesceDrainComplete _ => []
  | .stripeRebuild _ _ => []
  | .sectorReconstruction _ _ => []
  | .patrolScrub _ _ _ => []
  | .hostWrite _ _ _ => []
  | .hostRead _ _ _ => []
  | .svfence _ => []
  | .mailboxDoorbell _ _ => []
  | .intstat _ _ => []
  | .mevent _ _ => []
  | .fusepkg _ _ => []
  | .timectlStep _ _ => []
  | .pwrcap _ _ => []
  | .produceReport _ => []
  | .reportComplete _ => []
  | .registerWrite _ _ _ => []
  | .flitReplay _ _ => []
  | .portUp _ _ _ _ => []
  | .portFailure _ _ => []
  | .routeUnreachable _ _ => []
  | .timeSync _ => []
  | .referenceLoss _ => []
  | .referenceReturn _ => []
  | .droopTrip _ _ => []
  | .stretchEnd _ => []
  | .powerAlert _ => []
  | .thermalTrip _ => []
  | .packageReset _ => []
  | .bringupStageComplete _ _ => []
  | .memoryEdgeRequest _ _ => []
  | .xaccHoldEnd _ => []
  | .illegalEncoding _ => []

end

end Sys2Proof
end

