-- ==== Sys2Proof/Config.lean ====
section
/-! DEFINITION. What an implementation fixes, and the free values: constants without a body, so that nothing proved
about the machine can rest on what they are. -/

namespace Sys2Proof.Config

/-- Which of the events that may take place now takes place next, or none (R269, R275, R313). Free value, log 6. -/
opaque pick : Nat → Nat
/-- Whether a cached translation or instruction line that no longer agrees with memory is still used (R134, R335).
Free value, log 7. -/
opaque useStale : Nat → Bool
/-- Whether a request in flight had passed a partition's boundary when the partition began to refuse (R374).
Free value, log 6. -/
opaque hadPassed : Nat → Bool
/-- Whether the translation fault of a long-latency producer is found only when its answer arrives (R23, R426).
Free value, log 19. -/
opaque lateTranslation : Nat → Bool
/-- Whether a flit that is replayed is the one that was replayed last (R388). Free value, log 6. -/
opaque sameFlit : Nat → Bool
/-- Whether a page of an inconsistent contiguous block translates by its own entry (R334). Free value, log 7. -/
opaque ownEntry : Nat → Bool
/-- The rate correction of %TIME in parts per million, before it is held to the bound of R393 or R394.
Free value, log 8. -/
opaque slew : Nat → Int
/-- The estimated error of %TIME that remains after an exchange of sync flits, in nanoseconds (R394). Free value, log 8. -/
opaque timeError : Nat → Nat
/-- SM3 digests (R404, R405): the function is an external standard; uninterpreted. Free value, log 9. -/
opaque sm3 : List Byte → List Byte
/-- SM2 signatures of the management processor (R405); uninterpreted. Free value, log 9. -/
opaque sm2Sign : List Byte → List Byte
/-- The identity public key derived at bring-up (R405), from the firmware's security version. Free value, log 9. -/
opaque identityKey : Nat → List Byte
/-- The ROM and the firmware image whose digests a report holds (R405). Free values, log 9. -/
opaque romImage : List Byte
opaque firmwareImage : List Byte
/-- The signer public key and the signature of the firmware image, and the fused digest of the key that it is held to
(R404). Free values, log 9. -/
opaque signerKey : List Byte
opaque firmwareSignature : List Byte
opaque keyDigest : List Byte
/-- Whether an SM2 signature verifies over a digest with a public key (R404); uninterpreted. Free value, log 9. -/
opaque sm2Verify : List Byte → List Byte → List Byte → Bool
/-- The minimum security version that the firmware asks for when it runs, if it raises it (R404). Free value, log 9. -/
opaque askedVersion : Nat → Nat
/-- The fuse set, from the FUSEPKG fuses and the minimum security version (R404, R405). Free value, log 9. -/
opaque fuseSet : Word → Nat → List Byte

/-- The firmware's security version (R404). Free value, log 9. -/
opaque securityVersion : Nat
/-- The replay-list image of the save area, whose layout belongs to the device (R309): one byte of an entry.
Free value, log 10. -/
opaque replayByte : Nat → Byte

/-- How an ECC record names the tile and the row of a poisoned accumulator unit (R339 gives no layout). Free value,
log 12. -/
opaque accSector : Nat → Nat → BitVec 64

/-- A value that the spec leaves open: what a supervisor reads of a register that is bound to a stream (R27, R266).
Free value, log 13. -/
opaque freeWord : Nat → Word

/-- Bytes of DDR-5 installed on the module (R325: 512 GiB to 4 TiB, or absent). DESIGN CHOICE, log 3. -/
def ddrBytes : Nat := 512 * 2 ^ 30
/-- Bytes of HBM4 of a package: physical addresses 0 to 0xBF_FFFF_FFFF (R324). -/
def hbmBytes : Nat := 0xC000000000

end Sys2Proof.Config
end

