-- ==== Sys2Proof/Machine/Table.lean ====
section
/-! DEFINITION. Sparse tables: lists of (key, value) pairs with strictly rising keys. Every register file, memory and
array of the machine is one, so that a state is plain data and equal contents are equal lists. -/

namespace Sys2Proof.Machine

/-- A sparse table: keys strictly rising (`Table.ok`). -/
abbrev Table (α : Type) := List (Nat × α)

namespace Table

/-- The entry at `k`, if one is listed. -/
def find {α : Type} : Table α → Nat → Option α
  | [], _ => none
  | (k', v) :: t, k => if k = k' then some v else find t k

/-- The value at `k`, with `d` where nothing is listed. -/
def get {α : Type} (d : α) (t : Table α) (k : Nat) : α := (find t k).getD d

/-- Lists `v` at `k`, in place of what stood there. -/
def put {α : Type} : Table α → Nat → α → Table α
  | [], k, v => [(k, v)]
  | (k', v') :: t, k, v =>
    if k = k' then (k, v) :: t else if k < k' then (k, v) :: (k', v') :: t else (k', v') :: put t k v

/-- Removes what is listed at `k`. -/
def del {α : Type} : Table α → Nat → Table α
  | [], _ => []
  | (k', v') :: t, k => if k = k' then del t k else (k', v') :: del t k

/-- Writes `v` at `k`, listing nothing where `v` is the default. -/
def set {α : Type} [DecidableEq α] (d : α) (t : Table α) (k : Nat) (v : α) : Table α :=
  if v = d then del t k else put t k v

/-- Every key is above `b` and the keys rise strictly. -/
def okFrom {α : Type} : Nat → Table α → Bool
  | _, [] => true
  | b, (k, _) :: t => decide (b ≤ k) && okFrom (k + 1) t

/-- The keys rise strictly. -/
def ok {α : Type} (t : Table α) : Bool := okFrom 0 t

/-- No entry equals the default. -/
def noDefault {α : Type} [DecidableEq α] (d : α) (t : Table α) : Bool := t.all fun e => decide (e.2 ≠ d)

/-- The listed keys. -/
def keys {α : Type} (t : Table α) : List Nat := t.map (·.1)

end Table

/-- A set of numbers as a strictly rising list. -/
abbrev NumSet := List Nat

namespace NumSet

/-- Adds `k`. -/
def insert : NumSet → Nat → NumSet
  | [], k => [k]
  | x :: t, k => if k = x then x :: t else if k < x then k :: x :: t else x :: insert t k

/-- Removes `k`. -/
def erase (t : NumSet) (k : Nat) : NumSet := t.filter (· != k)

/-- Whether `k` is in the set. -/
def has (t : NumSet) (k : Nat) : Bool := t.any (· == k)

/-- Whether the elements rise strictly from `b`. -/
def okFrom : Nat → NumSet → Bool
  | _, [] => true
  | b, k :: t => decide (b ≤ k) && okFrom (k + 1) t

end NumSet

end Sys2Proof.Machine
end

