-- ==== Sys2Proof/Machine/State.lean ====
section
/-! DEFINITION. The state of the machine: a load-store domain of packages, each with its cells, slots, engines,
memories and hub, as plain data; and its value right after reset. INVENTORY.md lists each field with its rule. -/

namespace Sys2Proof.Machine

/-! ## Why a step can stop -/

/-- The reasons a step ends in a fault of the model (not a trap of the device: those are next states). -/
inductive Fault where
  /-- Raised by every instruction and by `step` when the slot whose turn it is lies in a package that is not present
  (never present, or without power, R396): there is no machine to execute on. Safe: nothing is claimed of it. -/
  | noPackage
  deriving DecidableEq, Repr, Inhabited

/-- The reasons a step is refused. -/
inductive Refusal where
  /-- Raised by the dispatcher for an instruction the model gives no meaning to yet. Safe. -/
  | notModelled (mnemonic : String)
  deriving DecidableEq, Repr, Inhabited

/-! ## Names -/

/-- The slot states of R12. -/
inductive SlotMode where
  | idle | run | parked | subscribed | trapped | spilled | exited
  deriving DecidableEq, Repr, Inhabited

/-- The fault kinds of R360. -/
inductive Kind where
  | illegal | clause | regrange | align | page | prot | waitlimit | ncovf | recdepth | ecc | scalepar | channel
  | redundancy | recwait | trap | breakpoint | priv | fenced | streamerr | obres | copyfault | preempted
  deriving DecidableEq, Repr, Inhabited

/-- A fault with its sector address and auxiliary word (R359, R360). -/
structure FaultInfo where
  kind : Kind
  sector : Word := 0
  aux : Word := 0
  deriving DecidableEq, Repr, Inhabited

/-- The full/empty state of a register: empty is either pending or taken (R19). -/
inductive RegFe where | full | pending | taken
  deriving DecidableEq, Repr, Inhabited

/-- A register of a slot. -/
inductive RegRef where
  | s (r : SReg)
  | v (r : VRegNo)
  deriving DecidableEq, Repr, Inhabited

/-- The 32 lanes of a vector register, lane 0 first (R18). -/
abbrev VReg := List Lane

/-- A vector register of zeros. -/
def VReg.zero : VReg := List.replicate 32 0

/-- A clause header (R47). -/
structure Header where
  mark : BitVec 8
  wm : Bool
  wc : Bool
  wr : Bool
  wl : Bool
  uni : Bool
  cls : BitVec 3
  count : BitVec 4
  deriving DecidableEq, Repr, Inhabited

/-- A fetched clause: its header and the words at positions 1 to COUNT (R46). -/
structure Clause where
  hdr : Header
  words : List (BitVec 32)
  deriving DecidableEq, Repr, Inhabited

/-- A loop stack entry (R121). -/
structure LoopEntry where
  start : Word := 0
  last : Word := 0
  after : Word := 0
  remaining : Word := 0
  deriving DecidableEq, Repr, Inhabited

/-- The loop stack: four entries, the lowest first, of which `depth` are live (R124, R267). -/
structure LoopStack where
  depth : Nat := 0
  entries : List LoopEntry := [{}, {}, {}, {}]
  deriving DecidableEq, Repr, Inhabited

/-! ## Operations in flight -/

/-- The functions of the atomics (R181). -/
inductive AtomOp where
  | add | and | or | xor | min | max | minu | maxu | swap | cas | fadd | fmax
  deriving DecidableEq, Repr, Inhabited

/-- The full/empty operations (R173). -/
inductive FeOp where
  | ldfe | stfe | ldf | stf | feset | feclr | feget
  deriving DecidableEq, Repr, Inhabited

/-- A value read at the hub on a slot's behalf (R191, R248, R258). -/
inductive Query where
  | graphTimeline (t : BitVec 6)
  | channel (c : BitVec 12)
  | node (graph : BitVec 6) (n : BitVec 12) (item : BitVec 7)
  deriving DecidableEq, Repr, Inhabited

/-- A record operation sent to the Shawm (R252-R257). -/
inductive RecOp where
  | alloc (graph : BitVec 6) (n : BitVec 12) (t : Bool) (wait : Bool)
  | commit (graph : BitVec 6) (n : BitVec 12) (void : Bool)
  | done
  deriving DecidableEq, Repr, Inhabited

/-- What an exact-sum instruction does with its images (R161). -/
inductive XaccOp where
  /-- XADD and XADDH: the status bits and the 576-bit sum that the active lanes add. -/
  | add (status sum : Nat)
  | merge
  /-- XRD to FP32, or to FP64. -/
  | read (double : Bool)
  deriving DecidableEq, Repr, Inhabited

/-- What an operation in flight does where it is performed. -/
inductive Act where
  | load (signed : Bool)
  | store
  | atom (f : AtomOp)
  | fe (f : FeOp)
  | monitor (ne : Bool)
  | nclaim
  | arrive (barrier : BitVec 9)
  | barq (barrier : BitVec 9)
  | wake (target : GRef)
  | query (q : Query)
  | record (r : RecOp)
  | value          -- the value is known; only its delivery is outstanding (CPSTAT, ACCRD, SLOTCTL reads)
  | xacc (x : XaccOp)        -- an exact-sum instruction at the slot port (R163)
  | launch (ctx : BitVec 2)  -- CPGO: awaits acceptance
  | resume (ctx : BitVec 2) (abort : Bool)  -- CPRESUME of another cell
  deriving DecidableEq, Repr, Inhabited

/-- The storages an access can reach (R42, R323). -/
inductive Store where | spad | bstore | opbuf | control | hbm | ddr
  deriving DecidableEq, Repr, Inhabited

/-- Where a byte range lies: its storage, package and cell, and the offset or physical address; for device memory also
whether the translating entry has PROT, and its level (R333, R345). -/
structure Loc where
  store : Store
  pkg : PkgId
  cell : CellId := 0
  off : Nat
  prot : Bool := false
  level : Nat := 0
  deriving DecidableEq, Repr, Inhabited

/-- One element of an access: the lane it serves, its address as named and its place, its size in bytes, and its
operands. -/
structure Elt where
  lane : Nat
  addr : Word
  n : Nat
  val : Word := 0
  val2 : Word := 0
  loc : Loc
  deriving DecidableEq, Repr, Inhabited

/-- The path of an access (R166), or the hub. -/
inductive Path where | local | remote | edge | hub
  deriving DecidableEq, Repr, Inhabited

/-- An atomicity unit of an access (R279): its path, its elements in lane order, and whether it has been performed. -/
structure OpUnit where
  path : Path
  elts : List Elt
  done : Bool := false
  fault : Option FaultInfo := none
  deriving DecidableEq, Repr, Inhabited

/-- Where the answer of an operation is written. -/
inductive Dest where
  | none
  | scalar (r : SReg)
  | pair (r : SReg)
  | vector (r : VRegNo)
  | vpair (r : VRegNo)
  deriving DecidableEq, Repr, Inhabited

/-- An operation that a slot has issued and that has not been answered (R167, R426). -/
structure Op where
  id : Nat
  head : Word          -- the clause header of its instruction (R49)
  pos : Nat            -- its clause position
  loops : LoopStack    -- the loop stack when it issued
  act : Act
  path : Path          -- `remote` for an operation of the hub or another cell, else the path of its units
  dst : Dest := .none
  mask : BitVec 32 := 0
  units : List OpUnit := []       -- its atomicity units (R279)
  got : List (Nat × Word) := []   -- values read, by lane
  fault : Option FaultInfo := none
  posted : Bool := false
  acq : Bool := false
  performed : Bool := false
  waiting : Bool := false         -- in the waiter list of the owning cell (R174)
  resend : Bool := false          -- returned by a full waiter table (R174)
  cancelled : Bool := false       -- a cancel has been sent (R175)
  pid : BitVec 16 := 0
  colour : BitVec 4 := 0
  num : Option (Nat × BitVec 32) := none  -- number and hash in a redundant group (R378)
  held : Bool := false            -- the primary's router awaits the twin's hash (R379)
  since : Nat := 0                -- the cycle at which it was issued (R359, R379)
  shadow : Bool := false          -- a twin's operation: the primary's result serves it (R303)
  took : List RegRef := []        -- registers that its TAKE prefix took (R126)
  prevFe : List (RegRef × RegFe) := []  -- the full/empty state of its destinations before issue (R23)
  inTransit : Bool := false       -- it was sent when no partition refused it (R374)
  orphan : Bool := false          -- its slot has exited since: it completes without a report (R263, R425)
  launch : Option (BitVec 6 × Nat) := none  -- the group its slot was in: graph and launch number (R306)
  wide : Bool := false            -- a vector store at an aligned base, which may clear the poison of device memory (R337)
  deriving DecidableEq, Repr, Inhabited

/-! ## Slots -/

/-- What a waiting slot waits for (R12, R196). -/
inductive WaitFor where
  | reg (r : RegRef)
  | answer (op : Nat)                       -- a full/empty or monitor operation
  | barrier (b : BitVec 9) (lead : Option SReg)   -- BARWAIT, or BARLEAD with its destination
  | phase (b : BitVec 9)                          -- BARARW after its arrival
  | timeline (t : Timeline) (v : Word) (d : SReg)
  | wake (d : SReg)
  | rallocw (op : Nat)
  | join (c : BitVec 12) (marker : BitVec 8)
  | queue (r : VRegNo)                      -- a full output queue (R27)
  | drain (d : BitVec 5) (unbind : Bool)    -- SDRAIN, or SUNBIND, of an output stream
  deriving DecidableEq, Repr, Inhabited

/-- A wait, with the cycle from which %FEWAIT counts (R175). -/
structure Wait where
  what : WaitFor
  since : Nat
  deriving DecidableEq, Repr, Inhabited

/-- Why a slot does not issue before a given cycle. -/
inductive HoldWhy where | idle | xacc | start | resume | group | mma | leave
  deriving DecidableEq, Repr, Inhabited

/-- A hold: the slot issues no earlier than `until` (R136, R162, R229, R262, R305, R367). -/
structure Hold where
  why : HoldWhy
  till : Nat
  deriving DecidableEq, Repr, Inhabited

/-- What reaches a subscriber from its publisher (R240, R242, R246). -/
inductive PubItem where
  /-- A published instruction's word, with its literal, and its TAKE bits; the clause it stands in, and where the
  publisher goes next. -/
  | instr (words : List (BitVec 32)) (take : Option (Bool × Bool)) (head : Word) (pos : Nat) (clause : Clause)
      (startLoops : LoopStack) (nextHead : Word) (nextPos : Nat) (nextLoops : LoopStack)
  /-- The end mark of UNPUBLISH, with where the publisher goes next. -/
  | endMark (head : Word) (pos : Nat) (loops : LoopStack)
  /-- The publisher trapped or was killed at an instruction. -/
  | stop (kind : Byte) (publisher : Word) (head : Word) (pos : Nat)
  deriving DecidableEq, Repr, Inhabited

/-- An item on its way to a subscriber, due at a cycle of its own turns (R242). -/
structure Published where
  due : Nat
  chan : BitVec 12
  item : PubItem
  deriving DecidableEq, Repr, Inhabited

/-- What a publisher has sent: the channel, its slot, the cycle, the marker of the clause where it is a clause's first instruction, and the
item (R241, R242). -/
structure Sent where
  chan : BitVec 12
  src : GRef
  at_ : Nat
  first : Option (BitVec 8)
  item : PubItem
  deriving DecidableEq, Repr, Inhabited

/-- A slot's place in a group (R302-R304, R378). -/
structure Member where
  graph : BitVec 6
  node : BitVec 12
  seq : BitVec 32
  launch : Nat
  index : Nat
  twin : Bool
  partner : Option GRef
  recs : List (BitVec 32)     -- sequence numbers of the records delivered to lanes 0, 1, …
  opNum : Nat                 -- operations compared so far (R378)
  deriving DecidableEq, Repr, Inhabited

/-- What a refused posted operation was, as the instructions that wait for its acknowledgement distinguish it (R425). -/
inductive RefusedKind where
  /-- A store, a full/empty update or ACCST. -/
  | store
  /-- A barrier arrival or a WAKE. -/
  | arrival
  /-- An element of an output stream. -/
  | element
  deriving DecidableEq, Repr, Inhabited

/-- A refused posted operation that has not been reported (R425). -/
structure RefusedOp where
  kind : RefusedKind
  addr : Word
  deriving DecidableEq, Repr, Inhabited

/-- Who asked for a SLOTCTL operation that takes time. -/
inductive Asker where
  | slot (g : GRef) (op : Nat)
  | mailbox (q : BitVec 3)
  /-- A slot whose instruction has no result and stands until it is answered. -/
  | engaged (g : GRef)
  deriving DecidableEq, Repr, Inhabited

/-- The reading operations of SLOTCTL (R266). -/
inductive CtlGet where | state | rdsr | rds | rdv | rdctx
  deriving DecidableEq, Repr, Inhabited
/-- The writing operations of SLOTCTL (R266). -/
inductive CtlSet where | wrsr | wrs | wrv | wrctx
  deriving DecidableEq, Repr, Inhabited

/-- An operation of SLOTCTL, with its item and lane (R266). -/
inductive CtlAct where
  | resume | kill | spill
  | get (f : CtlGet) (item lane : Nat)
  | set (f : CtlSet) (item lane : Nat) (v : Word)
  deriving DecidableEq, Repr, Inhabited

/-- A SPILL or RESUME under way (R310, R311). -/
inductive Evict where
  | none
  | spilling (by_ : Asker) (was : SlotMode)
  | restoring (by_ : Asker)
  deriving DecidableEq, Repr, Inhabited

/-- The state of one slot. -/
structure Slot where
  mode : SlotMode := .idle
  sregs : Table Word := []
  sFe : Table RegFe := []
  sTrap : NumSet := []
  vFe : Table RegFe := []
  vTrap : NumSet := []
  nest : Table (BitVec 6) := []
  head : Word := 0
  pos : Nat := 0
  clause : Option Clause := none
  waitqDone : Bool := false
  mmaStep : BitVec 5 := 0
  loops : LoopStack := {}
  clauseLoops : LoopStack := {}       -- the loop stack at the start of the current clause (R241)
  wakePending : Bool := false
  binds : Table (BitVec 5) := []      -- vector register → stream descriptor (R27)
  launchRegs : Table Word := []
  regBase : BitVec 11 := 0
  regLim : BitVec 8 := 0
  priv : Bool := false
  pid : BitVec 16 := 0
  gang : Word := 0
  node : Word := 0xFFFFFFFFFFFFFFFF
  group : Word := 0
  recCnt : Word := 0
  depth : Word := 0
  groupLead : Bool := false
  rm : BitVec 2 := 0
  fpFlags : BitVec 5 := 0
  statDz : Bool := false
  statRw : Bool := false
  rngKey : Word := 0
  rngCtr : Word := 0
  cvtSrc : BitVec 7 := 0
  feWait : BitVec 32 := 0x00010000
  publishing : Option (BitVec 12) := none
  subscribed : Option (BitVec 12) := none
  fkind : Byte := 0
  joinPoint : Option (BitVec 12 × BitVec 8) := none
  take : Option (Bool × Bool) := none
  wait : Option Wait := none
  waitNext : Option (Word × Nat × LoopStack) := none   -- where the slot goes when an issued instruction's wait ends
  hold : Option Hold := none
  ops : List Op := []
  nextOp : Nat := 0
  lastOp : Option Nat := none         -- the producer that is the slot's latest issued instruction (R23)
  lateFault : Bool := false           -- a late fault is being taken: the slot issues nothing (R426)
  phaseWait : Option (BitVec 9 × Bool) := none -- BARARW has arrived; whether its phase has completed (R189, R196)
  replay : List Op := []
  refused : Table RefusedOp := []     -- refused posted operations not yet reported, by operation (R425)
  parityOut : Nat := 0                -- outstanding parity acknowledgements (R350)
  parityLost : Option Word := none    -- a protected write whose parity acknowledgement failed (R355)
  member : Option Member := none
  inbox : List Published := []
  pendingPub : Option Published := none   -- the published instruction the subscriber waits in or is held in
  registering : Option (BitVec 12) := none -- a PUBLISH on its way to the registry (R240)
  exitSent : Bool := false            -- the SLOTEXIT at hand has been published (R246)
  stopping : Option FaultInfo := none      -- a loss or a stop of its channel that the instruction at hand outlasts (R244)
  evict : Evict := .none
  ctl : Option (CtlAct × Asker × Nat) := none   -- an operation that arrived in a cycle, at whose end it acts (R368)
  dying : Bool := false               -- killed: EXITED once its producers have written (R366)
  killer : Option Asker := none       -- who waits for the answer of its KILL
  took : List RegRef := []            -- registers that the instruction it waits or is held in has taken (R67, R126)
  refill : Option (Word × Option FaultInfo) := none   -- a clause fetch under way, or its fault (R340)
  icinv : Bool := false                    -- an ICINV of this slot is in progress (R133)
  sPoison : NumSet := []                   -- poisoned scalar registers (R339)
  savedLim : BitVec 8 := 0                 -- %REGLIM of a spilled slot (R266, R311)
  deriving DecidableEq, Repr, Inhabited

/-! ## Cells -/

/-- Elements of an output stream up to a position, as something waits for them: the descriptor, its definition, the
position (R209, R214). -/
structure OutMark where
  desc : Nat
  epoch : Nat
  upTo : Nat
  deriving DecidableEq, Repr, Inhabited

/-- A fault record before posting (R359). -/
structure Record where
  kind : Byte
  late : Bool := false
  twin : Bool := false
  grp : Bool := false
  sub : Bool := false
  pub : Bool := false
  pos : Nat := 0
  gslot : Word := 0
  pc : Word := 0
  minnz : BitVec 6 := 0
  maxnc : BitVec 6 := 0
  mask : BitVec 32 := 0
  sector : Word := 0
  aux : Word := 0
  time : Word := 0
  cycle : BitVec 32 := 0
  pid : BitVec 16 := 0
  deriving DecidableEq, Repr, Inhabited

/-- A copy launch (R211, R214). -/
structure Launch where
  regs : Table Word
  id : Word
  slot : SlotId
  head : Word
  pos : Nat
  pid : BitVec 16
  colour : BitVec 4
  origin : Option (BitVec 12)     -- the launching slot's node, none outside a group
  opId : Nat                      -- the CPGO operation of the launching slot
  mustAck : List Nat              -- the slot's stores and atomics that acceptance waits for
  mustOut : List OutMark          -- the slot's stream elements that acceptance waits for
  template : Record               -- what a COPYFAULT record says of the launching CPGO (R220)
  deriving DecidableEq, Repr, Inhabited

/-- States of a copy context (R219). -/
inductive CtxMode where | idle | busy | faulted | waitrec
  deriving DecidableEq, Repr, Inhabited

/-- A copy context (R219). -/
structure CopyCtx where
  mode : CtxMode := .idle
  cur : Option Launch := none
  row : Nat := 0
  off : Nat := 0
  sdone : Bool := false
  rdone : Bool := false
  bdone : Bool := false
  desc : Bool := false
  owner : SlotId := 0
  fkind : Byte := 0
  faddr : Word := 0
  curId : Word := 0
  lastId : Word := 0
  queue : List Launch := []
  unaccepted : List Launch := []
  parityOut : Nat := 0
  recordDue : Bool := false        -- its COPYFAULT record still waits in the cell (R221, R363)
  deriving DecidableEq, Repr, Inhabited

/-- States of a stream descriptor (R200). -/
inductive StreamMode where | free | defined | running | paused | done | error
  deriving DecidableEq, Repr, Inhabited

/-- A queued element of a stream (R207, R140): its lanes, the lane mask of the appending instruction, and its number among
the operations of the slot, whose program order its writes keep (R168, R209, R270). -/
structure StreamElt where
  lanes : VReg
  mask : BitVec 32
  id : Nat := 0
  deriving DecidableEq, Repr, Inhabited

/-- An element of a stream that is under way: its units, checked and on their way (R207, R208, R279). -/
structure StreamFlight where
  units : List OpUnit := []
  part : List (Nat × Lane) := []     -- the lanes of an input element that have been read
  twin : Option GRef := none         -- the slot whose stream takes the same element (R303)
  shadow : Bool := false             -- a twin's element, which the engine of its primary reads (R303)
  pid : BitVec 16 := 0               -- the process and the colour under which it was sent (R335, R376)
  colour : BitVec 4 := 0
  inTransit : Bool := false          -- it was sent when no partition refused it (R374)
  deriving DecidableEq, Repr, Inhabited

/-- A stream descriptor and its queue (R199, R27). -/
structure Stream where
  mode : StreamMode := .free
  base : Word := 0
  dims : Table Word := []            -- words at offset 8 + 8j: STRIDEj in 63:16, COUNTj in 15:0
  lstride : BitVec 32 := 0
  esize : VSize := .bu
  output : Bool := false
  owner : SlotId := 0
  vreg : Option VRegNo := none
  pos : Word := 0
  err : Byte := 0
  faddr : Word := 0
  gen : Nat := 0                     -- elements read into the queue (input) or written (output)
  queue : List StreamElt := []
  flight : List StreamFlight := []   -- the elements after `gen` that are under way, in ascending order (R207)
  mustAck : List Nat := []           -- stores and atomics that the first read waits for (R209)
  mustOut : List OutMark := []       -- appended elements of other streams that it waits for (R209)
  epoch : Nat := 0                   -- definitions of this descriptor so far
  wasRunning : Bool := false         -- paused by a spill (R210)
  refused : NumSet := []             -- its refused elements, by the number they have in `Slot.refused` (R425)
  deriving DecidableEq, Repr, Inhabited

/-- An MMA or MMAZ whose steps have not all been read (R228). -/
structure MmaJob where
  slot : SlotId
  tile : BitVec 2
  aNo : Nat                          -- numbers of the two records
  bNo : Nat
  arec : Word
  brec : Word
  ao : Nat
  bo : Nat
  k : Nat
  j : Nat
  zero : Bool
  mask : BitVec 32
  issued : Nat
  deriving DecidableEq, Repr, Inhabited

/-- A step that has read its operands and not yet written its rows (R229). -/
structure StepRun where
  slot : SlotId
  tile : BitVec 2
  zero : Bool
  mask : BitVec 32
  aNo : Nat
  bNo : Nat
  afmt : Nat
  bfmt : Nat
  ablk : List Byte
  bblk : List Byte
  ascale : Option (List Byte)
  bscale : Option (List Byte)
  window : Nat                       -- the first cycle of its window
  j : Nat := 0                       -- its number, and whether it is the last step of its MMA or MMAZ (R230, R339)
  last : Bool := true
  deriving DecidableEq, Repr, Inhabited

/-- An instruction-cache line of 64 bytes (R340). -/
structure IcLine where
  pid : BitVec 16
  line : Word                        -- virtual line address
  bytes : List Byte
  moments : NumSet := [0]            -- the refills of the cell at which it was what memory held (R134)
  deriving DecidableEq, Repr, Inhabited

/-- An access at the slot port of a cell: the operation, its units that have not been performed, and the cycles that it
occupies the port (R316). -/
structure PortJob where
  slot : SlotId
  op : Nat
  left : List Nat
  start : Nat
  till : Nat
  deriving DecidableEq, Repr, Inhabited

/-- A record waiting in a cell, with the ring it goes to (R361, R363). -/
structure Waiting where
  ring : Ring
  cell : CellId
  slot : Option SlotId               -- none for a fault of the hub's own accesses
  ctx : Option (BitVec 2)            -- the copy context of a COPYFAULT record
  record : Record
  deriving DecidableEq, Repr, Inhabited

/-- The state of one cell. -/
structure Cell where
  active : Bool := false             -- released from reset by an OPEN (R370)
  spad : List Host.Cell := []
  spadEmpty : NumSet := []           -- indices of empty 4-byte words (R172)
  spadPoison : NumSet := []          -- indices of poisoned 8-byte units (R337)
  bstore : List Host.Cell := []
  bPoison : NumSet := []
  opbuf : List Host.Cell := []
  opBad : NumSet := []               -- operand-buffer bytes whose parity fails (R336)
  vregs : Table VReg := []
  vPoison : NumSet := []             -- physical register · 16 + 64-bit unit (R339)
  acc : Table Lane := []             -- tile · 4096 + row · 64 + column (R36)
  accPoison : NumSet := []           -- tile · 2048 + row · 32 + 64-bit unit (R339)
  tlCount : Table Word := []
  tlMark : NumSet := []
  barriers : Table Word := []
  obres : Table Word := []
  bsres : Table Word := []
  rotation : Table Byte := []
  rotationNext : List (Nat × Table Byte) := []   -- tables that take effect at a cycle to come (R41)
  streams : Table Stream := []
  ctxs : Table CopyCtx := []
  mma : List MmaJob := []
  steps : List StepRun := []
  icache : List IcLine := []
  fills : Nat := 0                   -- refills so far
  port : List PortJob := []          -- accesses at the slot port, in issue order (R316)
  portFree : Nat := 0                -- the first cycle after those that have been accepted (R316)
  serving : Option (GRef × Nat × Nat) := none -- the message its service context performs: operation and sector (R321)
  waiters : List (GRef × Nat) := []  -- waiting full/empty and monitor operations, in order (R174)
  slots : Table Slot := []
  deriving DecidableEq, Repr, Inhabited

/-! ## The hub -/

/-- States of a record (R291, R292). -/
inductive RecMode where | uncommitted | committed | void | retired
  deriving DecidableEq, Repr, Inhabited

/-- The Shawm's view of one record of a queue. -/
structure QRec where
  seq : BitVec 32
  mode : RecMode
  delivered : Bool := false
  depth : Nat := 0
  origin : BitVec 12 := 0xFFF
  host : Bool := false
  copy : Bool := false
  ext : Bool := false
  arriving : Bool := false           -- its body is still being written (R305)
  owner : Option GRef := none        -- the slot that allocated it
  since : Option Nat := none         -- %TIME at which it became launchable (R292)
  deriving DecidableEq, Repr, Inhabited

/-- Request states of a node (R293). -/
inductive ReqMode where | quiet | waiting | ready | placing
  deriving DecidableEq, Repr, Inhabited

/-- A node of a resident graph (R251, R289, R293). -/
structure Node where
  desc : List Word                   -- the snapshot of its descriptor
  alloc : BitVec 32 := 0
  retire : BitVec 32 := 0
  recs : List QRec := []             -- records RETIRE to ALLOC - 1
  waiters : List (GRef × Nat) := []  -- RALLOCW operations in the order they began to wait
  req : ReqMode := .quiet
  readyAt : Nat := 0
  groupSeq : BitVec 32 := 0
  deriving DecidableEq, Repr, Inhabited

/-- States of a graph entry (R287). -/
inductive GraphMode where | free | loading | resident | tearing
  deriving DecidableEq, Repr, Inhabited

/-- A group that has not ended (R306). -/
structure Group where
  launch : Nat
  node : BitVec 12
  slots : List GRef
  chans : List (BitVec 12)
  deriving DecidableEq, Repr, Inhabited

/-- A graph table entry (R287) with the state of its nodes and groups. -/
structure Graph where
  mode : GraphMode := .free
  nodeBase : Word := 0
  pid : BitVec 16 := 0
  chCount : BitVec 12 := 0
  chBase : BitVec 12 := 0
  nodesM1 : BitVec 12 := 0
  h : BitVec 7 := 0
  w : BitVec 7 := 0
  y0 : BitVec 6 := 0
  x0 : BitVec 6 := 0
  rnode : BitVec 12 := 0
  rcode : Byte := 0
  nodes : List Node := []
  nextLaunch : Nat := 1
  ended : NumSet := []
  groups : List Group := []
  loadPart : BitVec 3 := 0           -- the partition whose mailbox carried the GRAPHLOAD
  deriving DecidableEq, Repr, Inhabited

/-- A host record ring (R400). -/
structure HostRing where
  base : Word := 0
  err : Bool := false
  log : BitVec 5 := 0
  prod : Word := 0
  cons : Word := 0
  deriving DecidableEq, Repr, Inhabited

/-- A channel (R240). -/
structure Chan where
  publisher : Option GRef := none
  since : Nat := 0                   -- the cycle in which the registry made it the publisher (R240)
  held : Bool := false               -- held by a group (R296)
  deriving DecidableEq, Repr, Inhabited

/-- A placement in progress (R293-R301). -/
structure Placement where
  graph : BitVec 6
  node : BitVec 12
  placed : List (GRef × BitVec 11 × BitVec 8)  -- reserved slots with their windows, primaries first
  chans : List (BitVec 12)
  nextAt : Nat
  deriving DecidableEq, Repr, Inhabited

/-- A command read from a command ring and not completed (R372). -/
structure Cmd where
  op : Byte
  arg : Byte
  opnds : List Word
  malformed : Bool
  begun : Bool := false              -- it has been begun and goes on
  finish : Option (Word × Byte) := none   -- RESULT and STATUS, where the block cannot be written yet
  deriving DecidableEq, Repr, Inhabited

/-- A resource of a partition that is in use: a slot, a block of eight registers of a cell, a channel (R296, R299). -/
inductive Busy where
  | slot (g : GRef)
  | block (c : CellId) (n : Nat)
  | chan (c : BitVec 12)
  deriving DecidableEq, Repr, Inhabited

/-- States of a partition (R373). -/
inductive PartMode where | free | active | fenced | resetting | switching
  deriving DecidableEq, Repr, Inhabited

/-- A partition entry (R370) with its mailbox unit and placement. -/
structure Part where
  mode : PartMode := .free
  words : Table Word := []           -- the RW fields, word w at offset 8w
  colour : BitVec 4 := 0
  dirty : BitVec 16 := 0
  retired : BitVec 16 := 0
  postStopped : Bool := false        -- a mailbox write faulted (R363)
  cmd : Option Cmd := none
  doorbell : Bool := false
  polled : Nat := 0                  -- %TIME of the last poll (R372)
  place : Option Placement := none
  stuck : Option (BitVec 6 × BitVec 12) := none  -- the request that found no resources: graph and node (R299)
  seen : List Busy := []             -- what was in use when that placement failed or was last looked at (R299)
  newColour : BitVec 4 := 0
  forced : Bool := false             -- the drain of the reset under way has been forced (R375)
  switchAt : Nat := 0
  opening : Bool := false            -- the reset under way is that of OPEN
  deriving DecidableEq, Repr, Inhabited

/-- States of a protection group (R343). -/
inductive ProtMode where | off | init | normal | quiescing | degraded | rebuilding | failed
  deriving DecidableEq, Repr, Inhabited

/-- A protection group record (R342). -/
structure ProtGroup where
  mode : ProtMode := .off
  words : Table Word := []           -- the RW fields, word w at offset 8w
  lost : BitVec 16 := 0
  cursor : BitVec 32 := 0
  rebuilt : NumSet := []
  result : Byte := 0
  silent : NumSet := []              -- packages reported silent (R353)
  spares : Table PkgId := []         -- the spare of each lost member in a rebuild (R356)
  deriving DecidableEq, Repr, Inhabited

/-- Who issued a protected write (R349), a copy with the number of its launch, and in which colour (R376). -/
inductive Issuer where
  | slot (g : GRef) (colour : BitVec 4)
  | copy (p : PkgId) (c : CellId) (x : BitVec 2) (launch : Word) (colour : BitVec 4)
  | host (n : Nat)
  | hub
  deriving DecidableEq, Repr, Inhabited

/-- A write of a hub unit or of the host that a protection controller has not yet performed (R347, R348). -/
structure HubWrite where
  loc : Loc
  addr : Word
  bytes : List Byte
  issuer : Issuer := .hub
  poison : Bool := false             -- its sector is poisoned with it (R339)
  signal : Option (BitVec 3 × Nat) := none   -- the partition whose supervisor is signalled, and the bit of INTSTAT
  launch : Option (BitVec 6 × BitVec 12 × BitVec 32) := none   -- the record whose body has then been written (R305)
  deriving DecidableEq, Repr, Inhabited

/-- Stages of a delta (R347): on its way to P; forwarded by the P holder, which awaits Q; on its way straight to Q, P
being lost (R354); acknowledged; no longer outstanding, its parity acknowledgement on the way. -/
inductive DeltaStage where | toP | forwarded | toQ | ack | parityAck
  deriving DecidableEq, Repr, Inhabited

/-- A delta that a member has sent and that is outstanding, or whose parity acknowledgement is on its way (R347). -/
structure Delta where
  id : Nat
  frame : Nat
  sector : Nat
  phase : Bool
  bytes : List Byte
  stage : DeltaStage
  issuer : Issuer
  addr : Word
  since : Nat
  orphan : Bool := false             -- its slot has exited since (R350)
  deriving DecidableEq, Repr, Inhabited

/-- A forward that a P holder has sent to the Q holder and that is unacknowledged (R347): the data member and its delta,
the member's index, and what the delta holds. -/
structure Forward where
  id : Nat
  member : PkgId
  delta : Nat
  index : Nat
  frame : Nat
  sector : Nat
  phase : Bool
  bytes : List Byte
  since : Nat
  deriving DecidableEq, Repr, Inhabited

/-- A cached page-table entry of a level, table or leaf (R327, R334, R335). -/
structure PageEntry where
  pid : BitVec 16
  level : Nat
  index : Nat                -- the virtual address above the bits that a leaf of this level maps
  entry : Nat
  deriving DecidableEq, Repr, Inhabited

/-- A cached process entry, item 0, or range entry, item `r + 1` (R327-R329, R335). -/
structure ProcEntry where
  pid : BitVec 16
  index : Nat
  words : List Nat
  deriving DecidableEq, Repr, Inhabited

/-- A translation station (R327). -/
structure Station where
  pages : List PageEntry := []
  procs : List ProcEntry := []
  deriving DecidableEq, Repr, Inhabited

/-- Bring-up states (R403). -/
inductive BringUp where | reset | auth | init | link | ready | halt
  deriving DecidableEq, Repr, Inhabited

/-- A package. -/
structure Pkg where
  id : PkgId := 0
  domain : BitVec 8 := 0
  fused : Bool := false                -- FUSEPKG has been programmed (R387)
  lost : Bool := false                 -- declared a lost member of its group (R355)
  bringUp : BringUp := .reset
  fwerr : Byte := 0
  ddrBad : Bool := false
  cycle : Nat := 0
  phase : Nat := 0                     -- fifths of stretched cycles that have passed; 4 where a cycle is drawn out (R391)
  time : Nat := 0
  timeFrac : Nat := 0
  slewPpm : Int := 0                   -- the rate correction of the time base (R394)
  driftPpm : Int := 0                  -- the deviation of the rates without a reference, and until the PLL has relocked (R392)
  refLost : Bool := false
  timeUnc : Bool := false
  tripped : NumSet := []
  stretchTill : Option Nat := none
  stretches : Nat := 0
  mresult : Byte := 0
  mevent : Word := 0
  timectl : Word := 0
  pwrcap : BitVec 4 := 0
  capNow : BitVec 4 := 0
  capNext : List (Nat × BitVec 4) := []   -- caps that take effect at a cycle to come (R396)
  wbase : Word := 0
  wpid : Word := 0
  procbase : Word := 0
  parts : Table Part := []
  prot : ProtGroup := {}
  ports : Table Word := []
  routes : Table (BitVec 32) := []
  unreachable : NumSet := []
  replays : Table Nat := []            -- how often the flit at hand of a port has been replayed (R388)
  noPort : Table Nat := []             -- packages whose route mask holds no UP port, with the %TIME since when (R388)
  syncAt : Nat := 1000000              -- %TIME of the next exchange of sync flits (R394)
  hostFpidx : Word := 0
  hostFcidx : Word := 0
  hostRecords : Table (List Byte) := []
  waiting : List Waiting := []
  rings : Table HostRing := []
  hostWrites : Nat := 0
  svCaptured : List Nat := []
  svdone : Byte := 1
  intstat : Word := 0
  intmask : Word := 0
  lastRead : Word := 0                 -- data returned to the host by its last BAR2 read
  nonce : List Byte := List.replicate 32 0
  reporting : Bool := false
  report : List Byte := List.replicate 256 0
  minVersion : Nat := 0
  graphs : Table Graph := []
  tgCount : Table Word := []
  tgMark : NumSet := []
  chans : Table Chan := []
  sent : List Sent := []             -- what publishers sent lately, for a slot that joins while it is on its way (R241)
  cells : Table Cell := []
  hbm : List Host.Cell := []
  hbmPoison : NumSet := []
  ddr : List Host.Cell := []
  ddrPoison : NumSet := []
  stations : Table Station := []
  deltas : List Delta := []
  forwards : List Forward := []
  nextDelta : Nat := 0
  hubWrites : List HubWrite := []
  asked : Table Nat := []              -- sectors whose reconstruction waits, with the %TIME of its request (R353)
  deriving DecidableEq, Repr, Inhabited

/-- The whole machine: the packages of a load-store domain that are present, and the model's own fields. -/
structure State where
  pkgs : Table Pkg
  /-- The slot whose turn it is, or whose instruction is executed. -/
  cur : GRef
  /-- Inputs of the host and the environment that have not been taken, the oldest first. -/
  agenda : List Instr
  /-- Protected writes whose package has lost its power before their parity acknowledgement went out (R355). -/
  gone : List (PkgId × Delta)
  /-- Draws the next free value. -/
  free : Nat
  deriving DecidableEq, Repr, Inhabited

/-- A package right after power-on reset: bring-up in RESET, every cell zero and held in reset (R403). -/
def Pkg.reset : Pkg := {}

/-- The machine right after reset: one package, unfused, in bring-up state RESET (R387, R403), no program anywhere. -/
def State.reset : State where
  pkgs := [(0, Pkg.reset)]
  cur := { pkg := 0, cell := 0, slot := 0 }
  agenda := []
  gone := []
  free := 0

end Sys2Proof.Machine
end

