-- ==== Sys2Proof/Machine/Ops.lean ====
section
/-! DEFINITION. The named operations over the state: access to packages, cells and slots; registers with their
full/empty bits; byte stores; the course through the clauses; publishing on a channel; taking a fault and resuming. -/

namespace Sys2Proof.Machine

/-! ## Parts of the machine -/

/-- Whether a package is present. -/
def State.hasPkg (s : State) (p : PkgId) : Bool := (Table.find s.pkgs p.toNat).isSome

/-- A package, or a package in reset where none is present. -/
def State.pkgAt (s : State) (p : PkgId) : Pkg := Table.get {} s.pkgs p.toNat

/-- Changes a package that is present. -/
def State.mapPkg (s : State) (p : PkgId) (f : Pkg → Pkg) : State :=
  match Table.find s.pkgs p.toNat with
  | some k => { s with pkgs := Table.put s.pkgs p.toNat (f k) }
  | none => s

/-- A cell of a package. -/
def Pkg.cellAt (k : Pkg) (c : CellId) : Cell := Table.get {} k.cells c.toNat
/-- Changes a cell of a package. -/
def Pkg.mapCell (k : Pkg) (c : CellId) (f : Cell → Cell) : Pkg :=
  { k with cells := Table.put k.cells c.toNat (f (k.cellAt c)) }
/-- A slot of a cell. -/
def Cell.slotAt (t : Cell) (k : SlotId) : Slot := Table.get {} t.slots k.toNat
/-- Changes a slot of a cell. -/
def Cell.mapSlot (t : Cell) (k : SlotId) (f : Slot → Slot) : Cell :=
  { t with slots := Table.put t.slots k.toNat (f (t.slotAt k)) }

/-- A cell. -/
def State.cellAt (s : State) (p : PkgId) (c : CellId) : Cell := (s.pkgAt p).cellAt c
/-- Changes a cell. -/
def State.mapCell (s : State) (p : PkgId) (c : CellId) (f : Cell → Cell) : State := s.mapPkg p fun k => k.mapCell c f
/-- A slot. -/
def State.slotAt (s : State) (g : GRef) : Slot := (s.cellAt g.pkg g.cell).slotAt g.slot
/-- Changes a slot. -/
def State.mapSlot (s : State) (g : GRef) (f : Slot → Slot) : State := s.mapCell g.pkg g.cell fun t => t.mapSlot g.slot f

/-- %CYCLE of a package (R30). -/
def State.cycleAt (s : State) (p : PkgId) : Nat := (s.pkgAt p).cycle

/-- Draws a number that no earlier draw has used, for a free value. -/
def State.draw (s : State) : State := { s with free := s.free + 1 }

/-- The %GSLOT layout of a slot of a domain (R28). -/
def gslotWord (domain : BitVec 8) (g : GRef) : Word :=
  BitVec.ofNat 64 (g.slot.toNat + g.cell.toNat * 16 + g.pkg.toNat * 2 ^ 16 + domain.toNat * 2 ^ 28)
/-- The 28-bit identity of a slot (R35). -/
def GRef.id28 (g : GRef) : Nat := g.slot.toNat + g.cell.toNat * 16 + g.pkg.toNat * 2 ^ 16
/-- The slot that a %GSLOT word names. -/
def GRef.ofWord (w : Word) : GRef :=
  { pkg := w.extractLsb' 16 12, cell := w.extractLsb' 4 12, slot := w.extractLsb' 0 4 }
/-- The package-local slot number (R240). -/
def GRef.local16 (g : GRef) : Nat := g.cell.toNat * 16 + g.slot.toNat

/-- Applies a change to every listed slot of a package. -/
def Pkg.mapSlots (k : Pkg) (f : CellId → SlotId → Slot → Slot) : Pkg :=
  { k with cells := k.cells.map fun ce =>
      (ce.1, { ce.2 with slots := ce.2.slots.map fun se => (se.1, f (BitVec.ofNat 12 ce.1) (BitVec.ofNat 4 se.1) se.2) }) }

/-- Every listed slot of a package with its place. -/
def Pkg.allSlots (p : PkgId) (k : Pkg) : List (GRef × Slot) :=
  k.cells.flatMap fun ce => ce.2.slots.map fun se =>
    ({ pkg := p, cell := BitVec.ofNat 12 ce.1, slot := BitVec.ofNat 4 se.1 }, se.2)

/-- Every listed slot of the machine with its place. -/
def State.allSlots (s : State) : List (GRef × Slot) := s.pkgs.flatMap fun e => e.2.allSlots (BitVec.ofNat 12 e.1)

/-- The compute die of a logical cell: 32 columns by 16 rows each, two dies a row (R3). -/
def dieOf (c : CellId) : Nat := cellX c / 32 + 2 * (cellY c / 16)

/-! ## Bytes -/

/-- The number of a little-endian list of bytes (R4). -/
def leNat : List Byte → Nat
  | [] => 0
  | b :: t => b.toNat + 256 * leNat t

/-- `n` little-endian bytes of a number (R4). -/
def leBytes (n x : Nat) : List Byte := bytesOfNat n x

/-- Reads `n` bytes of a byte store whose unlisted bytes are zero. -/
def cellsRead (m : List Host.Cell) (a n : Nat) : List Byte := (List.range n).map fun i => Table.get 0 m (a + i)

/-- Writes bytes from an address; a zero byte is not listed. -/
def cellsWrite (m : List Host.Cell) (a : Nat) : List Byte → List Host.Cell
  | [] => m
  | b :: t => cellsWrite (Table.set 0 m a b) (a + 1) t

/-- The canonical form of a byte store: addresses strictly rising, no entry zero. -/
def Memory.wf (m : List Host.Cell) : Bool := Table.ok m && Table.noDefault 0 m

/-- The numbers of the aligned units of `u` bytes that a range touches. -/
def unitsOf (a n u : Nat) : List Nat := (List.range ((a + n - 1) / u - a / u + 1)).map (a / u + ·)

/-- The first poisoned unit of `u` bytes in a range. -/
def poisonIn (set : NumSet) (a n u : Nat) : Option Nat := (unitsOf a n u).find? set.has

/-- Clears the poison of the units that a range covers whole (R337). -/
def clearPoison (set : NumSet) (a n u : Nat) : NumSet :=
  set.filter fun k => !(decide (a ≤ k * u) && decide (k * u + u ≤ a + n))

/-- Bytes of the scratchpad. -/
def Cell.spadBytes (t : Cell) (a n : Nat) : List Byte := cellsRead t.spad a n
/-- The first poisoned 8-byte unit of a scratchpad range. -/
def Cell.spadPoisonIn (t : Cell) (a n : Nat) : Option Nat := poisonIn t.spadPoison a n 8

/-- Writes the scratchpad: a write that covers a poisoned 8-byte unit clears its poison and fills both its words
(R337). -/
def Cell.putSpad (t : Cell) (a : Nat) (bs : List Byte) : Cell :=
  let cleared := t.spadPoison.filter fun k => decide (a ≤ k * 8) && decide (k * 8 + 8 ≤ a + bs.length)
  { t with spad := cellsWrite t.spad a bs
           spadPoison := clearPoison t.spadPoison a bs.length 8
           spadEmpty := t.spadEmpty.filter fun w => !(cleared.any (· == w / 2)) }

/-- An address aligned down to its 32-byte sector (R338). -/
def sectorOf (a : Word) : Word := BitVec.ofNat 64 (a.toNat / 32 * 32)

/-- The auxiliary word of R333 without a PID: `kind` of access, `cause` and `level`. -/
def xlatWord (pid : BitVec 16) (kind cause level : Nat) : Word :=
  BitVec.ofNat 64 (level + kind * 16 + cause * 256 + pid.toNat * 4096)

/-! ## Registers -/

/-- A scalar register; s0 reads as zero (R15). -/
def Slot.sreg (t : Slot) (r : SReg) : Word := if r = 0 then 0 else Table.get 0 t.sregs r.toNat

/-- The full/empty state of a register; s0 is always full (R15, R19). -/
def Slot.fe (t : Slot) (r : RegRef) : RegFe :=
  match r with
  | .s r => if r = 0 then .full else Table.get .full t.sFe r.toNat
  | .v r => Table.get .full t.vFe r.toNat

/-- Sets the full/empty state of a register; that of s0 does not change. -/
def Slot.setFe (t : Slot) (r : RegRef) (x : RegFe) : Slot :=
  match r with
  | .s r => if r = 0 then t else { t with sFe := Table.set .full t.sFe r.toNat x }
  | .v r => { t with vFe := Table.set .full t.vFe r.toNat x }

/-- Whether a register is in trap mode (R20). -/
def Slot.trapMode (t : Slot) (r : RegRef) : Bool :=
  match r with
  | .s r => t.sTrap.has r.toNat
  | .v r => t.vTrap.has r.toNat

/-- The register's number as the auxiliary word of WAITLIMIT holds it (R20). -/
def RegRef.code : RegRef → Nat
  | .s r => r.toNat
  | .v r => 128 + r.toNat

/-- A lane's nesting counter (R24). -/
def Slot.count (t : Slot) (l : Nat) : BitVec 6 := Table.get 0 t.nest l
/-- Whether a lane is active (R24). -/
def Slot.isActive (t : Slot) (l : Nat) : Bool := t.count l == 0
/-- The mask of the active lanes. -/
def Slot.active (t : Slot) : BitVec 32 :=
  BitVec.ofNat 32 (((List.range 32).map fun l => if t.isActive l then 2 ^ l else 0).foldl (· + ·) 0)
/-- Whether any lane is active. -/
def Slot.anyActive (t : Slot) : Bool := (List.range 32).any t.isActive

/-- The nesting counters of the 32 lanes, listed from lane 0 on. -/
def nestOf (n : List Nat) : Table (BitVec 6) :=
  (n.zipIdx.filter fun p => p.1 % 64 != 0).map fun p => (p.2, BitVec.ofNat 6 p.1)

/-- A lane of a register. -/
def lane (v : VReg) (l : Nat) : Lane := v.getD l 0

/-- The physical register of a slot's vector register (R16). -/
def Slot.phys (t : Slot) (r : VRegNo) : Nat := t.regBase.toNat + r.toNat

/-- The contents of a slot's vector register. -/
def State.vregAt (s : State) (g : GRef) (r : VRegNo) : VReg :=
  Table.get VReg.zero (s.cellAt g.pkg g.cell).vregs ((s.slotAt g).phys r)

/-- A slot that waits on a register leaves PARKED when the register is full (R20). -/
def Slot.wakeReg (t : Slot) (r : RegRef) : Slot :=
  match t.wait with
  | some { what := .reg q, .. } =>
    if q = r then { t with wait := none, mode := if t.mode = .parked then .run else t.mode } else t
  | _ => t

/-- Marks a register full. -/
def Slot.fill (t : Slot) (r : RegRef) : Slot := (t.setFe r .full).wakeReg r

/-- Writes a scalar register, which becomes full; a write to s0 is discarded (R15, R19). -/
def Slot.putS (t : Slot) (r : SReg) (v : Word) : Slot :=
  if r = 0 then t
  else ({ t with sregs := Table.set 0 t.sregs r.toNat v, sPoison := t.sPoison.erase r.toNat } : Slot).fill (.s r)

/-- Writes a scalar register of a slot. -/
def State.setS (s : State) (g : GRef) (r : SReg) (v : Word) : State := s.mapSlot g fun t => t.putS r v

/-- Writes the lanes of a mask of a vector register, which becomes full. A 64-bit unit written whole loses its
poison (R339). -/
def State.setLanes (s : State) (g : GRef) (r : VRegNo) (mask : BitVec 32) (f : Nat → Lane) : State :=
  let q := (s.slotAt g).phys r
  let old := s.vregAt g r
  let new := (List.range 32).map fun l => if mask.getLsbD l then f l else lane old l
  let s' := s.mapCell g.pkg g.cell fun t =>
    { t with vregs := Table.set VReg.zero t.vregs q new
             vPoison := t.vPoison.filter fun u =>
               !(u / 16 == q && mask.getLsbD (2 * (u % 16)) && mask.getLsbD (2 * (u % 16) + 1)) }
  s'.mapSlot g fun t => t.fill (.v r)

/-! ## The course through the clauses -/

/-- The loop stack with its top entry popped and cleared (R267). -/
def LoopStack.pop (l : LoopStack) : LoopStack :=
  { depth := l.depth - 1, entries := l.entries.set (l.depth - 1) {} }

/-- The top live entry. -/
def LoopStack.top (l : LoopStack) : Option LoopEntry := if l.depth = 0 then none else l.entries[l.depth - 1]?

/-- The stack with a new entry pushed. -/
def LoopStack.push (l : LoopStack) (e : LoopEntry) : LoopStack :=
  { depth := l.depth + 1, entries := l.entries.set l.depth e }

/-- Control passes out of the clause at `h` toward `next`: the back edge of the top entry whose last clause this is,
repeated while entries share the clause (R122). -/
def LoopStack.passOut : Nat → LoopStack → Word → Word → LoopStack × Word
  | 0, l, _, next => (l, next)
  | n + 1, l, h, next =>
    match l.top with
    | none => (l, next)
    | some e =>
      if e.last = h then
        let r := e.remaining - 1
        if r = 0 then l.pop.passOut n h e.after
        else ({ l with entries := l.entries.set (l.depth - 1) { e with remaining := r } }, e.start)
      else (l, next)

/-- Whether an address lies in the body [S, Z) of an entry. -/
def LoopEntry.holds (e : LoopEntry) (a : Word) : Bool := e.start.ule a && a.ult e.after

/-- The pops of a transfer from `a` to `target` (R123). -/
def LoopStack.leave : Nat → LoopStack → Word → Word → LoopStack
  | 0, l, _, _ => l
  | n + 1, l, a, target =>
    match l.top with
    | none => l
    | some e => if e.holds a && !e.holds target then l.pop.leave n a target else l

/-- COUNT of the slot's clause. -/
def Slot.clauseLen (t : Slot) : Nat := match t.clause with | some c => c.hdr.count.toNat | none => 0

/-- The address of the clause that follows in memory (R119). -/
def Slot.nextClause (t : Slot) : Word := t.head + BitVec.ofNat 64 (4 * (1 + t.clauseLen))

/-- Words of the instruction at hand: a TAKE prefix adds one (R49). -/
def Slot.width (t : Slot) (words : Nat) : Nat := words + (if t.take.isSome then 1 else 0)

/-- Where sequential execution goes after an instruction of `n` words: the header address, the clause position and
the loop stack (R46, R122). -/
def Slot.after (t : Slot) (n : Nat) : Word × Nat × LoopStack :=
  if t.pos + n ≤ t.clauseLen then (t.head, t.pos + n, t.loops)
  else
    let r := t.loops.passOut 5 t.head t.nextClause
    (r.2, 0, r.1)

/-- The slot stands at a place. A header due (position 0) is fetched afresh, and its clause starts with the loop stack
as it is then. -/
def Slot.goTo (t : Slot) (at_ : Word × Nat × LoopStack) : Slot :=
  let t : Slot := { t with loops := at_.2.2, take := none }
  if at_.2.1 = 0 then
    { t with head := at_.1, pos := 0, clause := none, waitqDone := false, mmaStep := 0, clauseLoops := at_.2.2 }
  else if at_.1 = t.head then { t with pos := at_.2.1, mmaStep := 0 }
  else { t with head := at_.1, pos := at_.2.1, clause := none, waitqDone := true, mmaStep := 0 }

/-! ## Channels: what a publisher sends -/

/-- The skew of a subscriber in slot `q` of cell `b` behind a publisher in slot `p` of cell `a` (R242). -/
def skew (a : CellId) (p : SlotId) (b : CellId) (q : SlotId) : Nat :=
  16 * (if dieOf a = dieOf b then 2 else 3) + (q.toNat + 16 - p.toNat) % 16

/-- Whether a slot receives an item of channel `c`: it is subscribed, or on its way to joining, or it joins at this
item (R241). `first` is the marker of the clause when the item is that clause's first instruction. -/
def receives (t : Slot) (c : BitVec 12) (first : Option (BitVec 8)) (due : Nat) : Bool :=
  t.subscribed == some c || t.inbox.any (·.chan == c) ||
    match t.wait, first with
    | some { what := .join c' m, since }, some mark => c' == c && (m == 0 || m == mark) && decide (since < due)
    | _, _ => false

/-- Whether the slot executes an instruction that its publisher sent (R243), also when the channel has ended meanwhile
(R240). -/
def Slot.following (t : Slot) : Bool := t.mode == .subscribed || t.pendingPub.isSome

/-- Sends an item down a channel from its publisher, in the turn it would have (R240, R242). -/
def sendItem (s : State) (g : GRef) (c : BitVec 12) (first : Option (BitVec 8)) (item : PubItem) : State :=
  let now := s.cycleAt g.pkg
  let at_ := now + (g.slot.toNat + 16 - now % 16) % 16
  let s := s.mapPkg g.pkg fun k => k.mapSlots fun cell slot t =>
    let due := at_ + skew g.cell g.slot cell slot
    if receives t c first due then { t with inbox := t.inbox ++ [{ due := due, chan := c, item := item }] } else t
  s.mapPkg g.pkg fun k =>
    { k with sent := (k.sent.filter fun e => decide (now < e.at_ + 64)) ++
        [{ chan := c, src := g, at_ := at_, first := first, item := item }] }

/-- A slot registers as a joiner of channel `c` at marker `m`: a clause that qualifies and whose first instruction is on its way
to the slot reaches it, with all that follows (R241). -/
def State.joinChannel (s : State) (g : GRef) (c : BitVec 12) (m : BitVec 8) : State :=
  let now := s.cycleAt g.pkg
  let due (e : Sent) : Nat := e.at_ + skew e.src.cell e.src.slot g.cell g.slot
  let left := (s.pkgAt g.pkg).sent.filter fun e => e.chan == c && decide (now < due e)
  let mine := left.dropWhile fun e => match e.first with | some mark => m != 0 && m != mark | none => true
  s.mapSlot g fun t => { t with inbox := t.inbox ++ mine.map fun e => { due := due e, chan := c, item := e.item } }

/-- The word of the instruction at hand with its literal. -/
def Slot.curWords (t : Slot) (words : Nat) : List (BitVec 32) :=
  match t.clause with
  | some c => (c.words.drop (t.pos + (if t.take.isSome then 1 else 0) - 1)).take words
  | none => []

/-- Publishes the instruction that slot `g` issues in `s`, whose next place is `next` (R240). -/
def publish (s : State) (g : GRef) (words : Nat) (next : Word × Nat × LoopStack) (s' : State) : State :=
  let t := s.slotAt g
  match t.publishing, t.clause with
  | some c, some cl =>
    sendItem s' g c (if t.pos = 1 then some cl.hdr.mark else none)
      (.instr (t.curWords words) t.take t.head t.pos cl t.clauseLoops next.1 next.2.1 next.2.2)
  | _, _ => s'

/-! ## Taking a fault -/

/-- The codes of the fault kinds (R360). -/
def Kind.code : Kind → Byte
  | .illegal => 0x01 | .clause => 0x02 | .regrange => 0x03 | .align => 0x04 | .page => 0x05 | .prot => 0x06
  | .waitlimit => 0x07 | .ncovf => 0x08 | .recdepth => 0x09 | .ecc => 0x0A | .scalepar => 0x0B | .channel => 0x0D
  | .redundancy => 0x0E | .recwait => 0x0F | .trap => 0x10 | .breakpoint => 0x11 | .priv => 0x12 | .fenced => 0x13
  | .streamerr => 0x14 | .obres => 0x15 | .copyfault => 0x16 | .preempted => 0x17

/-- Fields of a partition word. -/
def Part.field (q : Part) (w lo n : Nat) : Nat := (Table.get 0 q.words w).toNat / 2 ^ lo % 2 ^ n

/-- Whether a cell lies in a partition's rectangle (R370). -/
def Part.hasCell (q : Part) (c : CellId) : Bool :=
  decide (q.field 0 0 6 ≤ cellX c) && decide (cellX c < q.field 0 0 6 + q.field 0 16 7) &&
  decide (q.field 0 8 6 ≤ cellY c) && decide (cellY c < q.field 0 8 6 + q.field 0 24 7)

/-- The partitions that are not FREE, with their numbers. -/
def Pkg.openParts (k : Pkg) : List (Nat × Part) := k.parts.filter fun e => e.2.mode != .free

/-- The open partition that holds a cell. -/
def Pkg.partOf (k : Pkg) (c : CellId) : Option (Nat × Part) := k.openParts.find? fun e => e.2.hasCell c

/-- The colour that is current in the partition of a slot's cell (R376). -/
def State.colourOf (s : State) (g : GRef) : BitVec 4 := (((s.pkgAt g.pkg).partOf g.cell).map (·.2.colour)).getD 0

/-- Whether a slot is the SUPER slot of a partition of package `k` (R14, R371). -/
def Part.superIs (q : Part) (g : GRef) : Bool := q.field 0 31 1 == 0 && GRef.ofWord (Table.get 0 q.words 1) == g

/-- Whether a slot is the SUPER slot of an open partition of any package of the domain (R14). -/
def State.isSuper (s : State) (g : GRef) : Bool :=
  s.pkgs.any fun e => e.2.openParts.any fun q => q.2.superIs g

/-- The ring of the supervisor of a cell's partition; the host's outside every partition (R361). -/
def State.partRing (s : State) (g : GRef) : Ring :=
  match (s.pkgAt g.pkg).partOf g.cell with
  | some e => .part (BitVec.ofNat 3 e.1)
  | none => .host

/-- The ring that the record of a slot's fault goes to: the host for a supervisor slot, else the mailbox of the cell's partition
(R361). -/
def State.ringOf (s : State) (g : GRef) : Ring :=
  if s.isSuper g then .host else s.partRing g

/-- The smallest non-zero and the largest nesting counter (R359). -/
def Slot.nestRange (t : Slot) : BitVec 6 × BitVec 6 :=
  let n := (List.range 32).map fun l => (t.count l).toNat
  let z := n.filter (· != 0)
  (BitVec.ofNat 6 (z.foldl Nat.min (z.headD 0)), BitVec.ofNat 6 (n.foldl Nat.max 0))

/-- The record of a stop of slot `g` at clause position `pos` of header `head` (R359). -/
def makeRecord (s : State) (g : GRef) (kind : Byte) (f : FaultInfo) (head : Word) (pos : Nat) (late : Bool)
    (mask : BitVec 32) : Record :=
  let k := s.pkgAt g.pkg
  let t := s.slotAt g
  let n := t.nestRange
  { kind := kind, late := late, twin := (t.member.map (·.twin)).getD false, grp := t.member.isSome
    sub := t.mode == .subscribed, pub := t.publishing.isSome, pos := pos, gslot := gslotWord k.domain g
    pc := head + BitVec.ofNat 64 (4 * pos), minnz := n.1, maxnc := n.2, mask := mask, sector := f.sector, aux := f.aux
    time := BitVec.ofNat 64 k.time, cycle := BitVec.ofNat 32 k.cycle, pid := t.pid }

/-- Puts a record among those waiting in its cell (R363). -/
def queueRecord (s : State) (g : GRef) (ctx : Option (BitVec 2)) (ring : Ring) (r : Record) : State :=
  s.mapPkg g.pkg fun k =>
    { k with waiting := k.waiting ++ [{ ring := ring, cell := g.cell, slot := some g.slot, ctx := ctx, record := r }] }

/-- The slot's channel, if it publishes, stops at the instruction at hand: its subscribers are told at the skew of
R242, and the channel is freed (R246). DESIGN CHOICE: where the publisher's fault is a late one (R426), they stop at its resume
point, since they have executed its producer already (log 43). -/
def stopChannel (s : State) (g : GRef) (kind : Byte) : State :=
  let t := s.slotAt g
  match t.publishing with
  | none => s
  | some c =>
    let s := sendItem s g c none (.stop kind (gslotWord (s.pkgAt g.pkg).domain g) t.head t.pos)
    let s := s.mapPkg g.pkg fun k =>
      { k with chans := Table.put k.chans c.toNat { Table.get {} k.chans c.toNat with publisher := none } }
    s.mapSlot g fun t => { t with publishing := none }

/-- A slot when refused operations have been reported to it (R425). -/
def Slot.reported (t : Slot) (ops : Table RefusedOp) : Slot :=
  { t with refused := t.refused.filter fun e => !ops.any (·.1 == e.1) }

/-- The cycle of the issue that a fault of a slot is charged to: that of the instruction it waits in, or this cycle
(R359). -/
def Slot.issuedAt (t : Slot) (now : Nat) : Nat :=
  match t.wait with
  | some { what := .reg _, .. } | some { what := .queue _, .. } => now
  | some w => w.since
  | none => now

/-- Registers that the instruction at hand has taken are full again: it is to be issued afresh (R67, R126). -/
def Slot.untake (t : Slot) : Slot :=
  { t.took.foldl (fun t r => if t.fe r = .taken then t.setFe r .full else t) t with took := [] }

/-- TAKING A FAULT, the one operation by which a slot stops (R365): the record is built from the state at detection
and queued, the channel the slot publishes is stopped (R246), the slot leaves a channel it is subscribed to (R245), its
wait ends (R196), what its instruction took is put back (R67), and it enters TRAPPED with its resume point where it stands and FKIND the kind. `resume` is the
resume point, `head`, `pos` and `cycle` the instruction that the record names and its issue. -/
def takeFault (s : State) (g : GRef) (f : FaultInfo) (head : Word) (pos : Nat) (resume : Word × Nat × LoopStack)
    (late : Bool := false) (mask : Option (BitVec 32) := none) (cycle : Option Nat := none) : State :=
  let r := { makeRecord s g f.kind.code f head pos late (mask.getD (s.slotAt g).active) with
    cycle := BitVec.ofNat 32 (cycle.getD ((s.slotAt g).issuedAt (s.cycleAt g.pkg))) }
  let s := queueRecord s g none (s.ringOf g) r
  let s := stopChannel s g f.kind.code
  s.mapSlot g fun t =>
    let t := t.untake.goTo resume
    { t with mode := .trapped, fkind := f.kind.code, subscribed := none, pendingPub := none, inbox := []
             wait := none, waitNext := none, hold := none, clause := none, registering := none, exitSent := false
             stopping := none }

/-- A fault of the instruction at hand, which is its own resume point (R49, R365). -/
def faultHere (s : State) (g : GRef) (f : FaultInfo) : State :=
  let t := s.slotAt g
  takeFault s g f t.head t.pos (t.head, t.pos, t.loops)

/-- RETURNING FROM A FAULT: a TRAPPED slot is put in RUN at its resume point, which it fetches afresh, and issues no
earlier than its first turn at least 64 cycles later (R367). A slot stopped before it joined registers again. -/
def resumeSlot (s : State) (g : GRef) : State :=
  let now := s.cycleAt g.pkg
  match (s.slotAt g).joinPoint with
  | some (c, m) => (s.joinChannel g c m).mapSlot g fun t => { t with mode := .parked, wait := some { what := .join c m, since := now } }
  | none => s.mapSlot g fun t =>
      { t with mode := .run, clause := none, waitqDone := decide (2 ≤ t.pos), wait := none, waitNext := none
               hold := some { why := .resume, till := now + 64 }, refill := none }

end Sys2Proof.Machine
end

