-- ==== Sys2Proof/Machine/Operands.lean ====
section
/-! DEFINITION. How an instruction meets its operands (R13-R23, R72, R126, R137-R140): the checks of steps 5 to 7 of R72,
the waits on empty sources and pending destinations, the synchronised reads of TAKE and the pops of bound streams; and
`run`, the one way from a meaning's body to an outcome. -/

namespace Sys2Proof.Machine

/-- The privilege an instruction needs (R13, R14); `never` for a write of a read-only register (R29). -/
inductive Needs where | nothing | lead | super | never
  deriving DecidableEq, Repr, Inhabited

/-- What an instruction names. -/
structure Opnds where
  /-- Registers that its fields read (R72 step 7). -/
  srcs : List RegRef := []
  /-- Registers that it writes. -/
  dsts : List RegRef := []
  /-- Vector fields, checked against %REGLIM (R16). -/
  named : List VRegNo := []
  /-- Vector fields that act whatever the counters hold, or of a memory instruction: bound registers trap (R140, R178). -/
  whole : List VRegNo := []
  /-- Destinations whose old value it reads (R115, R157): their poison counts (R339). -/
  prior : List RegRef := []
  /-- Lanes of vector sources that the instruction reads, where they are not the active ones (R339). -/
  reads : List (VRegNo × List Nat) := []
  /-- A register pair that reaches beyond v127 (R16). -/
  beyond : Bool := false
  /-- The registers that TA and TB of a TAKE prefix name (R66). -/
  ta : Option RegRef := none
  tb : Option RegRef := none
  needs : Needs := .nothing
  /-- Instruction words: 2 with a literal. -/
  words : Nat := 1
  /-- Whether a publisher publishes it (R240). -/
  pub : Bool := true
  deriving DecidableEq, Repr, Inhabited

namespace Opnds
/-- dst, srcA and srcB scalar. -/
def sss (d a b : SReg) : Opnds :=
  { srcs := [.s a, .s b], dsts := [.s d], ta := some (.s a), tb := some (.s b) }
/-- dst and srcA scalar. -/
def ss (d a : SReg) : Opnds := { srcs := [.s a], dsts := [.s d], ta := some (.s a) }
/-- A scalar dst alone. -/
def d (d : SReg) : Opnds := { dsts := [.s d] }
/-- A scalar srcA alone. -/
def a (a : SReg) : Opnds := { srcs := [.s a], ta := some (.s a) }
/-- Scalar srcA and srcB. -/
def ab (a b : SReg) : Opnds := { srcs := [.s a, .s b], ta := some (.s a), tb := some (.s b) }
/-- dst, srcA and srcB vectors. -/
def vvv (d a b : VRegNo) : Opnds :=
  { srcs := [.v a, .v b], dsts := [.v d], named := [d, a, b], ta := some (.v a), tb := some (.v b) }
/-- dst and srcA vectors, srcB scalar. -/
def vvs (d a : VRegNo) (b : SReg) : Opnds :=
  { srcs := [.v a, .s b], dsts := [.v d], named := [d, a], ta := some (.v a), tb := some (.s b) }
/-- dst and srcA vectors. -/
def vv (d a : VRegNo) : Opnds := { srcs := [.v a], dsts := [.v d], named := [d, a], ta := some (.v a) }
/-- dst, srcA and srcB vectors, dst read as well (R71). -/
def vvvAcc (d a b : VRegNo) : Opnds := { vvv d a b with srcs := [.v a, .v b, .v d] }
/-- dst and srcA vectors, srcB scalar, dst read as well (R71). -/
def vvsAcc (d a : VRegNo) (b : SReg) : Opnds := { vvs d a b with srcs := [.v a, .s b, .v d] }
/-- A vector srcA alone. -/
def va (a : VRegNo) : Opnds := { srcs := [.v a], named := [a], ta := some (.v a) }
/-- A vector dst alone. -/
def vd (d : VRegNo) : Opnds := { dsts := [.v d], named := [d] }
/-- A scalar dst and a vector srcA. -/
def sv (d : SReg) (a : VRegNo) : Opnds := { srcs := [.v a], dsts := [.s d], named := [a], ta := some (.v a) }
/-- A scalar dst, a vector srcA and a scalar srcB. -/
def svs (d : SReg) (a : VRegNo) (k : SReg) : Opnds :=
  { srcs := [.v a, .s k], dsts := [.s d], named := [a], ta := some (.v a), tb := some (.s k) }
/-- A vector dst and two scalar sources. -/
def vss (d : VRegNo) (a k : SReg) : Opnds :=
  { srcs := [.s a, .s k], dsts := [.v d], named := [d], ta := some (.s a), tb := some (.s k) }
/-- A vector dst and a scalar srcA. -/
def vs (d : VRegNo) (a : SReg) : Opnds := { srcs := [.s a], dsts := [.v d], named := [d], ta := some (.s a) }
/-- An image address and a vector srcB (R159). -/
def image (a : SReg) (b : VRegNo) : Opnds :=
  { srcs := [.s a, .v b], named := [b], ta := some (.s a), tb := some (.v b) }
end Opnds

/-- A body's view: the state with the takes and pops made, and the elements popped. -/
structure Ctx where
  s : State
  g : GRef
  pops : List (VRegNo × VReg) := []
  took : List RegRef := []
  deriving DecidableEq, Repr, Inhabited

namespace Ctx
/-- The executing slot. -/
def slot (c : Ctx) : Slot := c.s.slotAt c.g
/-- The executing slot's cell. -/
def cell (c : Ctx) : Cell := c.s.cellAt c.g.pkg c.g.cell
/-- The executing slot's package. -/
def pkg (c : Ctx) : Pkg := c.s.pkgAt c.g.pkg
/-- %CYCLE. -/
def cycle (c : Ctx) : Nat := c.s.cycleAt c.g.pkg
/-- A scalar operand. -/
def sreg (c : Ctx) (r : SReg) : Word := c.slot.sreg r
/-- A vector operand: the element popped where the register is bound to an input stream (R140). -/
def vreg (c : Ctx) (r : VRegNo) : VReg :=
  match c.pops.find? (·.1 == r) with
  | some p => p.2
  | none => c.s.vregAt c.g r
/-- %FPMODE.RM as a rounding mode. -/
def rm (c : Ctx) : Rm := Rm.ofMode c.slot.rm
/-- Whether the slot executes a published instruction. -/
def sub (c : Ctx) : Bool := c.slot.following
/-- Changes the executing slot. -/
def mapSlot (c : Ctx) (f : Slot → Slot) : Ctx := { c with s := c.s.mapSlot c.g f }
/-- Raises floating-point flags (R32). -/
def raise (c : Ctx) (f : FpFlags) : Ctx := c.mapSlot fun t => { t with fpFlags := t.fpFlags ||| f }
/-- Writes a scalar destination. -/
def setS (c : Ctx) (r : SReg) (v : Word) : State := c.s.setS c.g r v
/-- The Philox word of a lane of the executing slot (R104). -/
def philox (c : Ctx) (l : Nat) : Nat :=
  philoxLane c.slot.rngCtr c.slot.rngKey c.g.slot.toNat c.g.cell.toNat
    (c.g.pkg.toNat + (c.pkg.domain.toNat) * 4096) l
/-- The stream descriptor that a vector register is bound to (R27). -/
def boundTo (c : Ctx) (r : VRegNo) : Option Nat := (Table.find c.slot.binds r.toNat).map (·.toNat)
/-- Writes the lanes of a vector destination that are active: an output binding appends one element, whose inactive
lanes are zero, and nothing with no lane active (R137, R140). -/
def setV (c : Ctx) (d : VRegNo) (f : Nat → Lane) : State :=
  let t := c.slot
  match c.boundTo d with
  | some n =>
    if t.anyActive then
      let e : StreamElt :=
        { lanes := (List.range 32).map fun l => if t.isActive l then f l else 0, mask := t.active, id := t.nextOp }
      (c.s.mapCell c.g.pkg c.g.cell fun x =>
        let q := Table.get {} x.streams n
        { x with streams := Table.put x.streams n { q with queue := q.queue ++ [e], pos := q.pos + 1 } }).mapSlot c.g fun t =>
        { t with nextOp := t.nextOp + 1 }
    else c.s
  | none => c.s.setLanes c.g d t.active f
/-- Writes all 32 lanes of a vector destination (R137). -/
def setVAll (c : Ctx) (d : VRegNo) (f : Nat → Lane) : State := c.s.setLanes c.g d (BitVec.allOnes 32) f
/-- Writes a vector destination and gathers the flags of the active lanes (R32, R141). -/
def setVF (c : Ctx) (d : VRegNo) (f : Nat → Lane × FpFlags) : State :=
  let fl := ((List.range 32).filter c.slot.isActive).foldl (fun a l => a ||| (f l).2) 0
  (c.raise fl).setV d fun l => (f l).1
end Ctx

/-- %RNGCTR advances by one; a wrap to zero sets %STAT.RW (R158). -/
def advanceRng (g : GRef) (s : State) : State :=
  s.mapSlot g fun t => { t with rngCtr := t.rngCtr + 1, statRw := t.statRw || t.rngCtr + 1 == 0 }

/-- How a body ends. -/
inductive Issue where
  /-- The instruction is complete and sequential execution goes on. -/
  | done (s : State)
  /-- A transfer of control to a checked target, with the loop stack as it then is. -/
  | jump (s : State) (target : Word)
  /-- Control goes to a target that is no taken transfer's: the place is given. -/
  | place (s : State) (at_ : Word × Nat × LoopStack)
  /-- The turn stays empty: the instruction has not been performed and is tried again (R169, R184). -/
  | hold
  /-- The operand wait of the instruction parks the slot; it issues afresh when the wait ends (R20, R21). -/
  | retry (w : WaitFor)
  /-- The instruction has issued and waits for its answer (R12). -/
  | park (s : State) (w : WaitFor)
  /-- The instruction traps with no effect (R23, R365). -/
  | trap (f : FaultInfo)
  /-- The turn stays empty while the clause at a target is fetched, in the state that the look for it left (R116). -/
  | fetching (s : State)
  /-- The instruction traps FENCED for the refused posted operations that it waits for, and at `.sv` for a lost parity
  acknowledgement: they are then no longer outstanding, and the record names the oldest (R355, R425). -/
  | fenced (ops : Table RefusedOp) (sv : Bool)
  /-- The instruction has issued and holds the slot, which stays in its state, until its engine lets it go (R229). -/
  | engage (s : State)
  /-- The instruction completes and the slot stops after it (R131); what a TAKE prefix names is not taken (log 29). -/
  | stopAfter (f : FaultInfo)
  /-- The instruction leaves the slot as its body says. -/
  | final (s : State)
  deriving Repr, Inhabited

/-- The element count N of a descriptor (R201). -/
def Stream.total (q : Stream) : Nat :=
  (List.range 4).foldl (fun n j =>
    let c := (Table.get 0 q.dims j).toNat % 65536
    n * (if c = 0 then 65536 else c)) 1

/-- The stream a register of the slot is bound to, with its number. -/
def State.binding (s : State) (g : GRef) (r : VRegNo) : Option (Nat × Stream) :=
  (Table.find (s.slotAt g).binds r.toNat).map fun n => (n.toNat, Table.get {} (s.cellAt g.pkg g.cell).streams n.toNat)

/-- Whether a source is empty: a bound input register is, when its queue is, and then only for an instruction with an
active lane (R27, R140). -/
def srcEmpty (s : State) (g : GRef) (r : RegRef) : Bool :=
  let t := s.slotAt g
  match r with
  | .s _ => t.fe r != .full
  | .v q =>
    match s.binding g q with
    | some (_, b) => !b.output && t.anyActive && b.queue.isEmpty && (b.mode != .error || !b.flight.isEmpty) && b.mode != .done
    | none => t.fe r != .full

/-- The STREAMERR of a bound register where it may not stand (R140, R67, R178), or of a stream in ERROR (R208). -/
def bindFault (s : State) (g : GRef) (o : Opnds) : Option FaultInfo :=
  let t := s.slotAt g
  let bad := { kind := .streamerr : FaultInfo }
  let taken := match t.take with
    | some (a, b) => (if a then o.ta.toList else []) ++ (if b then o.tb.toList else [])
    | none => []
  if o.whole.any (fun r => (s.binding g r).isSome) then some bad
  else if taken.any (fun r => match r with | .v q => (s.binding g q).isSome | .s _ => false) then some bad
  else if o.srcs.any (fun r => match r with
      | .v q => ((s.binding g q).map fun b => b.2.output).getD false | .s _ => false) then some bad
  else if o.dsts.any (fun r => match r with
      | .v q => ((s.binding g q).map fun b => !b.2.output).getD false | .s _ => false) then some bad
  else if !t.anyActive then none
  else
    -- a pop beyond the last element, or an append beyond it (R207)
    let beyondEnd (out : Bool) (r : RegRef) : Bool := match r with
      | .s _ => false
      | .v q => match s.binding g q with
        | some (_, b) => b.output == out && (if out then decide (b.total ≤ b.pos.toNat) else b.mode == .done && b.queue.isEmpty)
        | none => false
    if o.srcs.any (beyondEnd false) then some bad
    else
    -- an element at fault: the pop that would receive it, or the next append (R208)
    let err (out : Bool) (r : RegRef) : Option FaultInfo := match r with
      | .s _ => none
      | .v q => match s.binding g q with
        | some (n, b) =>
          if b.mode = .error ∧ b.output = out ∧ (out ∨ (b.queue.isEmpty ∧ b.flight.isEmpty)) then
            some { kind := .streamerr, sector := b.faddr
                   aux := BitVec.ofNat 64 (b.err.toNat + n * 256 + if out then 8192 else 0) }
          else none
        | none => none
    match o.srcs.findSome? (err false) with
    | some f => some f
    | none =>
      match o.dsts.findSome? (err true) with
      | some f => some f
      | none => if o.dsts.any (beyondEnd true) then some bad else none

/-- Whether an instruction reads a lane of a vector source. -/
def Opnds.readsLane (o : Opnds) (t : Slot) (q : VRegNo) (l : Nat) : Bool :=
  match o.reads.filter (·.1 == q) with
  | [] => t.isActive l
  | rs => rs.any fun e => e.2.contains l

/-- The ECC trap of a poisoned source register, of which a unit counts in whose lanes the instruction reads (R339); one
that is bound to a stream is not read (R140). -/
def regPoison (s : State) (g : GRef) (o : Opnds) (r : RegRef) : Option FaultInfo :=
  let t := s.slotAt g
  match r with
  | .s q =>
    if t.sPoison.has q.toNat then some { kind := .ecc, sector := BitVec.ofNat 64 q.toNat, aux := 4 } else none
  | .v q =>
    let c := s.cellAt g.pkg g.cell
    if (Table.find t.binds q.toNat).isNone &&
        c.vPoison.any (fun u => u / 16 == t.phys q && (o.readsLane t q (2 * (u % 16)) || o.readsLane t q (2 * (u % 16) + 1))) then
      some { kind := .ecc, sector := BitVec.ofNat 64 q.toNat, aux := 5 }
    else none

/-- The value that an instruction reads of a vector source: the head element of a bound input stream, else the register
(R140). -/
def State.srcV (s : State) (g : GRef) (r : VRegNo) : VReg :=
  match s.binding g r with
  | some (_, b) => (b.queue.head?.map (·.lanes)).getD VReg.zero
  | none => s.vregAt g r

/-- A write of only some lanes of a vector register leaves poison in the units that it does not cover whole: those of
`before` whose lanes are not both in `mask` (R339). -/
def State.keepPoison (s before : State) (g : GRef) (r : VRegNo) (mask : BitVec 32) : State :=
  let q := (before.slotAt g).phys r
  let old := (before.cellAt g.pkg g.cell).vPoison.filter fun u =>
    u / 16 == q && !(mask.getLsbD (2 * (u % 16)) && mask.getLsbD (2 * (u % 16) + 1))
  s.mapCell g.pkg g.cell fun t => { t with vPoison := old.foldl NumSet.insert t.vPoison }

/-- The registers that the latched TAKE prefix takes, s0 apart (R126, R67). -/
def takenRegs (t : Slot) (o : Opnds) : List RegRef :=
  match t.take with
  | some (a, b) =>
    ((if a then o.ta.toList else []) ++ (if b then o.tb.toList else [])).filter fun r => r != .s 0
  | none => []

/-- The input registers that the instruction pops: each once (R140). -/
def popList (s : State) (g : GRef) (o : Opnds) : List (VRegNo × Nat) :=
  if !(s.slotAt g).anyActive then []
  else (o.srcs.filterMap fun r => match r with
    | .v q => (s.binding g q).bind fun b => if b.2.output then none else some (q, b.1)
    | .s _ => none).eraseDups

/-- Pops one element from each listed stream. -/
def popAll (s : State) (g : GRef) : List (VRegNo × Nat) → State × List (VRegNo × VReg)
  | [] => (s, [])
  | (r, n) :: t =>
    let q := Table.get {} (s.cellAt g.pkg g.cell).streams n
    let e := (q.queue.head?.map (·.lanes)).getD VReg.zero
    let s' := s.mapCell g.pkg g.cell fun x =>
      { x with streams := Table.put x.streams n { q with queue := q.queue.tail, pos := q.pos + 1 } }
    let rest := popAll s' g t
    (rest.1, (r, e) :: rest.2)

/-- Steps 5 to 7 of R72: privilege, register range, operand waits, stream and poison faults; then the takes and pops. -/
def prepare (s : State) (g : GRef) (o : Opnds) : Except Issue Ctx :=
  let t := s.slotAt g
  let privBad := match o.needs with
    | .nothing => false
    | .lead => g.slot != 0
    | .super => !t.priv
    | .never => true
  if privBad then .error (.trap { kind := .priv })
  else if o.beyond || o.named.any (fun r => decide (t.regLim.toNat ≤ r.toNat)) then .error (.trap { kind := .regrange })
  else
    let empty := o.srcs.filter (srcEmpty s g)
    match empty.find? t.trapMode, empty with
    | some r, _ => .error (.trap { kind := .waitlimit, aux := BitVec.ofNat 64 (r.code + 256) })
    | none, r :: _ => .error (.retry (.reg r))
    | none, [] =>
      match o.dsts.find? fun r => t.fe r == .pending with
      | some r => .error (.retry (.reg r))
      | none =>
        match bindFault s g o with
        | some f => .error (.trap f)
        | none =>
          match o.dsts.findSome? fun r => match r with
              | .v q => (s.binding g q).bind fun b => if b.2.output && t.anyActive && decide (8 ≤ b.2.queue.length) then some q else none
              | .s _ => none with
          | some q => .error (.retry (.queue q))
          | none =>
            match (o.srcs ++ o.prior).findSome? (regPoison s g o) with
            | some f => .error (.trap f)
            | none =>
              let p := popAll s g (popList s g o)
              let taken := takenRegs t o
              .ok { s := p.1.mapSlot g fun t => { taken.foldl (fun t r => t.setFe r .taken) t with lastOp := none }
                    g := g, pops := p.2, took := taken }

/-- Where a completed instruction leaves its slot: a subscriber stands where its publisher goes (R243, R240). -/
def State.nextPlace (s : State) (g : GRef) (words : Nat) : Word × Nat × LoopStack :=
  let t := s.slotAt g
  match t.pendingPub with
  | some { item := .instr _ _ _ _ _ _ h p l, .. } => (h, p, l)
  | _ => t.after (t.width words)

/-- The instruction at hand has ended: no wait is left of it. A slot whose subscription has ended meanwhile fetches for itself
from now on (R240). -/
def Slot.clear (t : Slot) : Slot :=
  let left := t.pendingPub.isSome && t.subscribed.isNone
  { t with wait := none, waitNext := none, pendingPub := none, take := none, took := []
           clause := if left then none else t.clause, waitqDone := left || t.waitqDone }

/-- The state after a body's end. `s` is the state before the instruction, in which a trapping instruction has done
nothing (R23). -/
def conclude (s : State) (g : GRef) (o : Opnds) (r : Issue) : State :=
  let now := s.cycleAt g.pkg
  let pub (next : Word × Nat × LoopStack) (s' : State) : State := if o.pub then publish s g o.words next s' else s'
  match r with
  | .done s' =>
    let next := s.nextPlace g o.words
    pub next (s'.mapSlot g fun t => t.clear.goTo next)
  | .jump s' target =>
    let next := (target, 0, (s'.slotAt g).loops)
    pub next (s'.mapSlot g fun t => t.clear.goTo next)
  | .place s' next => pub next (s'.mapSlot g fun t => t.clear.goTo next)
  | .hold => s.mapSlot g fun t => { t with take := none }
  | .retry w =>
    s.mapSlot g fun t =>
      { t with wait := some { what := w, since := now }, take := none
               mode := if t.mode = .run then .parked else t.mode }
  | .park s' w =>
    let next := s.nextPlace g o.words
    pub next (s'.mapSlot g fun t =>
      { t with wait := some { what := w, since := now }, waitNext := some next, take := none
               took := takenRegs (s.slotAt g) o, mode := if t.mode = .run then .parked else t.mode })
  | .engage s' =>
    let next := s.nextPlace g o.words
    pub next (s'.mapSlot g fun t => { t with waitNext := some next, take := none, took := takenRegs (s.slotAt g) o })
  | .trap f => faultHere s g f
  | .fetching s' => (s.mapSlot g fun t => { t with take := none, refill := (s'.slotAt g).refill }).mapCell g.pkg g.cell
      fun t => { t with icache := (s'.cellAt g.pkg g.cell).icache }
  | .fenced ops sv =>
    let lost := (s.slotAt g).parityLost.getD 0
    faultHere (s.mapSlot g fun t => { t.reported ops with parityLost := if sv then none else t.parityLost }) g
      { kind := .fenced, sector := (ops.head?.map (·.2.addr)).getD lost }
  | .stopAfter f =>
    let t := s.slotAt g
    takeFault s g f t.head t.pos (s.nextPlace g o.words)
  | .final s' => s'.mapSlot g fun t => { t with take := none }

/-- Executes an instruction with operands `o` and body `body` in the slot at hand. -/
def run (s : State) (o : Opnds) (body : Ctx → Issue) : Host.Outcome State Fault Refusal :=
  if s.hasPkg s.cur.pkg then
    match prepare s s.cur o with
    | .error r => .next (conclude s s.cur o r)
    | .ok c => .next (conclude s s.cur o (body c))
  else .fault .noPackage

/-- The wait of an issued instruction has ended: the slot goes on after it, in RUN, or still subscribed (R12, R170). -/
def Slot.endWait (t : Slot) : Slot :=
  match t.waitNext with
  | some next =>
    { t.clear.goTo next with mode := if t.mode = .parked then .run else t.mode }
  | none => { t with wait := none, mode := if t.mode = .parked then .run else t.mode }

end Sys2Proof.Machine
end

