-- ==== Sys2Proof/Machine/Memory.lean ====
section
/-! DEFINITION. Places and their bytes: the windows (R42-R44), partition boundaries (R374), translation (R327-R335), the
cell control page, poison (R336-R338) and protected sectors (R341-R350). -/

namespace Sys2Proof.Machine

/-! ## Kinds of access -/

/-- The kinds of access that the checks of R165 and R333 tell apart. -/
inductive Acc where | load | store | atomic | fe | monitor | nclaim | fetch | engRead | engWrite | strRead | strWrite
  deriving DecidableEq, Repr, Inhabited

/-- KIND of R333. -/
def Acc.kind : Acc → Nat
  | .load | .monitor => 0
  | .store => 1
  | .atomic | .fe | .nclaim => 2
  | .fetch => 3
  | .engRead | .strRead => 4
  | .engWrite | .strWrite => 5

/-- The permissions an access needs: 1 for R, 2 for W, 4 for X (R333). -/
def Acc.needs : Acc → Nat
  | .load | .monitor | .engRead | .strRead => 1
  | .store | .engWrite | .strWrite => 2
  | .atomic | .fe | .nclaim => 3
  | .fetch => 4

/-- Whether a permission set holds what is needed. -/
def grants (perm need : Nat) : Bool := perm &&& need == need

/-- The storage at an offset of the cell layout, with the offset in it (R42). -/
def regionOf (off : Nat) : Option (Store × Nat) :=
  if off < 0x200000 then some (.spad, off)
  else if 0x400000 ≤ off ∧ off < 0x500000 then some (.bstore, off - 0x400000)
  else if 0x600000 ≤ off ∧ off < 0x640000 then some (.opbuf, off - 0x600000)
  else if 0x700000 ≤ off ∧ off < 0x710000 then some (.control, off - 0x700000)
  else none

/-- Whether the layout of R42 lets an access of this kind at a storage: the operand buffer is reached only by copies
(R215, R208), and the control page only by loads. -/
def Acc.reaches : Acc → Store → Bool
  | .engRead, .opbuf | .engWrite, .opbuf => true
  | _, .opbuf => false
  | .load, .control => true
  | _, .control => false
  | _, _ => true

/-- Whether the access kind itself allows a storage (R165 step 2): full/empty, monitor, NCLAIM and cell atomics act on
scratchpads (R172, R176, R181, R192). -/
def Acc.allows : Acc → Store → Bool
  | .fe, x | .monitor, x | .nclaim, x => x == .spad
  | .atomic, x => x == .spad || x == .hbm || x == .ddr
  | _, _ => true

/-! ## Presence and boundaries -/

/-- Whether package `q` answers requests of package `p`: the same package, or one that is present in the same domain,
both of them programmed (R387), and that `p` can reach: its route mask is not empty, and some port of it has not been down
for long (R42, R387, R388). -/
def State.reaches (s : State) (p q : PkgId) : Bool :=
  p == q || (s.hasPkg q && (s.pkgAt p).fused && (s.pkgAt q).fused && (s.pkgAt p).domain == (s.pkgAt q).domain &&
    Table.get 0 (s.pkgAt p).routes q.toNat != 0 && !((s.pkgAt p).unreachable.has q.toNat))

/-- Whether requests of package `p` to package `q` complete with FENCED: `q` is out of reach (R42), or another package that
has been declared a lost member (R355). -/
def State.shut (s : State) (p q : PkgId) : Bool := !s.reaches p q || (p != q && (s.pkgAt q).lost)

/-- The ports of a route mask. -/
def maskPorts (m : BitVec 32) : List Nat := (List.range 32).filter m.getLsbD
/-- Whether a port is UP. -/
def Pkg.portUp (k : Pkg) (x : Nat) : Bool := (Table.get 0 k.ports x).toNat % 4 == 2
/-- The link partner of a port (R388). -/
def Pkg.peerOf (k : Pkg) (x : Nat) : PkgId := (Table.get 0 k.ports x).extractLsb' 24 12
/-- Whether a port is UP and no domain link, so that it carries requests (R386). -/
def Pkg.carries (k : Pkg) (x : Nat) : Bool := k.portUp x && !((Table.get 0 k.ports x).getLsbD 3)

/-- Whether traffic of package `p` gets to package `q` over at most `n` links: by an UP port of the mask of `q` to a package that
has been programmed, which is `q` or forwards it by its own route table (R386-R388). -/
def State.leads (s : State) (q : PkgId) : Nat → PkgId → Bool
  | 0, p => p == q
  | n + 1, p => p == q || (maskPorts (Table.get 0 (s.pkgAt p).routes q.toNat)).any fun x =>
      let k := s.pkgAt p
      k.fused && k.carries x && s.hasPkg (k.peerOf x) && (s.pkgAt (k.peerOf x)).fused && s.leads q n (k.peerOf x)

/-- Whether requests of package `p` get to package `q` now and its answers come back (R386-R388). -/
def State.linked (s : State) (p q : PkgId) : Bool :=
  p == q || (s.leads q s.pkgs.length p && s.leads p s.pkgs.length q)

/-- Whether a request of package `p` gets an answer from package `q` now: over a port that is up, or because the package
is out of reach or lost (R388, R355). -/
def State.passes (s : State) (p q : PkgId) : Bool := s.linked p q || s.shut p q

/-- Word `w` of a protection group record (R342). -/
def ProtGroup.word (q : ProtGroup) (w : Nat) : Word := Table.get 0 q.words w
/-- A field of a protection group record. -/
def ProtGroup.field (q : ProtGroup) (w lo n : Nat) : Nat := (q.word w).toNat / 2 ^ lo % 2 ^ n
/-- K of a group (R341). -/
def ProtGroup.members (q : ProtGroup) : Nat := q.field 0 36 4 + 1
/-- This package's member index. -/
def ProtGroup.me (q : ProtGroup) : Nat := q.field 0 44 4
/-- Whether the scheme is PQ. -/
def ProtGroup.isPq (q : ProtGroup) : Bool := q.field 0 32 1 == 1
/-- NFRAMES. -/
def ProtGroup.frames (q : ProtGroup) : Nat := q.field 0 0 32
/-- The physical address of frame 0 (R344). -/
def ProtGroup.base (q : ProtGroup) : Nat := q.field 1 12 28 * 4096
/-- The package of member `m`. -/
def ProtGroup.member (q : ProtGroup) (m : Nat) : PkgId := BitVec.ofNat 12 (q.field (2 + m / 4) (16 * (m % 4)) 12)
/-- The start of the tag region (R344). -/
def ProtGroup.tags (q : ProtGroup) : Nat := q.base + 4096 * q.frames
/-- Whether a physical address lies in the protected area: the frames and their tags (R344). -/
def ProtGroup.inArea (q : ProtGroup) (pa : Nat) : Bool := decide (q.base ≤ pa) && decide (pa < q.tags + 256 * q.frames)
/-- Whether member `m` is declared lost. -/
def ProtGroup.isLost (q : ProtGroup) (m : Nat) : Bool := q.lost.getLsbD m

/-- The roles of a frame (R344). -/
inductive Role where | p | q | data
  deriving DecidableEq, Repr, Inhabited

/-- The role of member `i`'s frame `n` (R344). -/
def ProtGroup.role (g : ProtGroup) (n i : Nat) : Role :=
  if n % g.members = i then .p
  else if g.isPq ∧ (n + 1) % g.members = i then .q
  else .data

/-- Whether the boundary routers of a partition refuse (R373). -/
def Part.refuses (q : Part) : Bool := q.mode == .fenced || q.mode == .resetting || q.mode == .switching

/-- The cell at a column and a row. -/
def cellAtXY (x y : Nat) : CellId := BitVec.ofNat 12 (y * 64 + x)

/-- Whether every cell between two coordinates can be reached along a minimal route through `free` cells: the row of
reachable columns, one row after another. -/
def rowReach (free : Nat → Bool) (dx : Nat) (prev : List Bool) : List Bool :=
  ((List.range (dx + 1)).foldl (fun acc i =>
    let r := free i && (prev.getD i false || (acc.headD false))
    r :: acc) []).reverse

/-- Whether some minimal route from `a` to `b` enters no cell that `bad` names (R374). -/
def hasRoute (bad : CellId → Bool) (a b : CellId) : Bool :=
  let ax := cellX a; let ay := cellY a; let bx := cellX b; let by_ := cellY b
  let dx := if ax ≤ bx then bx - ax else ax - bx
  let dy := if ay ≤ by_ then by_ - ay else ay - by_
  let col (i : Nat) : Nat := if ax ≤ bx then ax + i else ax - i
  let row (j : Nat) : Nat := if ay ≤ by_ then ay + j else ay - j
  let first := (true :: List.replicate dx false)
  let last := (List.range (dy + 1)).foldl (fun prev j => rowReach (fun i => !bad (cellAtXY (col i) (row j))) dx prev) first
  last.getD dx false

/-- Whether a request from cell `a` to cell `b` of a package is refused at a boundary (R374). -/
def Pkg.legRefused (k : Pkg) (a b : CellId) : Bool :=
  let rs := (k.openParts.map (·.2)).filter Part.refuses
  if rs.isEmpty then false
  else if rs.any fun r => r.hasCell a != r.hasCell b then true
  else if rs.any fun r => r.hasCell a then false
  else !hasRoute (fun c => rs.any fun r => r.hasCell c) a b

/-- The attachment router of a cell's translation station (R385). -/
def attachOf (c : CellId) : CellId :=
  let d := dieOf c
  cellAtXY (32 * (d % 2) + (if 16 ≤ cellX c % 32 then 24 else 8)) (16 * (d / 2) + 8)

/-- Whether a cell lies in a partition that refuses. -/
def Pkg.cellRefuses (k : Pkg) (c : CellId) : Bool := k.openParts.any fun e => e.2.refuses && e.2.hasCell c

/-- Whether the engines of a cell issue nothing, because its partition is SWITCHING (R377). -/
def Pkg.stalled (k : Pkg) (c : CellId) : Bool := k.openParts.any fun e => e.2.mode == .switching && e.2.hasCell c

/-- Whether a request of cell `c` to the hub die or another package is refused (R374). -/
def Pkg.outRefused (k : Pkg) (c : CellId) : Bool := k.cellRefuses c || k.legRefused c (attachOf c)

/-- Whether a request that enters the package from outside is refused on its way to cell `d`: the cell lies in a rectangle
that refuses, or every route to it enters one (R374). -/
def Pkg.inRefused (k : Pkg) (d : CellId) : Bool := k.cellRefuses d || k.legRefused (attachOf d) d

/-- Whether a window-1 request of cell `c` of package `p` to cell `d` of package `q` is refused (R374). -/
def State.remoteRefused (s : State) (p : PkgId) (c : CellId) (q : PkgId) (d : CellId) : Bool :=
  if p = q then (s.pkgAt p).legRefused c d
  else (s.pkgAt p).outRefused c || (s.pkgAt q).inRefused d

/-- Whether a request to a place is refused at a boundary now (R374). -/
def State.boundaryRefuses (s : State) (p : PkgId) (c : CellId) (l : Loc) : Bool :=
  match l.store with
  | .hbm | .ddr => (s.pkgAt p).outRefused c
  | _ => s.remoteRefused p c l.pkg l.cell

/-- Whether a request of the hub die of package `p` to a place is refused at a boundary now: one to a cell enters its
rectangle from outside (R374). -/
def State.hubRefuses (s : State) (l : Loc) : Bool :=
  match l.store with
  | .hbm | .ddr => false
  | _ => (s.pkgAt l.pkg).inRefused l.cell

/-! ## Protected sectors -/

/-- Product of two bytes in GF(2^8) with polynomial 0x11D (R346). -/
def gfMulFrom : Nat → Nat → Nat → Nat → Nat
  | 0, _, _, r => r
  | n + 1, a, b, r =>
    let r := if b % 2 = 1 then r ^^^ a else r
    let a := if 128 ≤ a then (2 * a) ^^^ 0x11D else 2 * a
    gfMulFrom n a (b / 2) r
/-- Product in GF(2^8). -/
def gfMul (a b : Nat) : Nat := gfMulFrom 8 a b 0
/-- Power in GF(2^8). -/
def gfPow (a : Nat) : Nat → Nat
  | 0 => 1
  | n + 1 => gfMul a (gfPow a n)
/-- The inverse, a^254. -/
def gfInv (a : Nat) : Nat := gfPow a 254
/-- Scales a sector. -/
def gfScale (c : Nat) (b : List Byte) : List Byte := b.map fun x => BitVec.ofNat 8 (gfMul c x.toNat)
/-- Adds two sectors. -/
def xorBytes (a b : List Byte) : List Byte := List.zipWith (· ^^^ ·) a b
/-- A sector of zeros. -/
def zeroSector : List Byte := List.replicate 32 0

/-- The bytes of sector `s` of frame `n` of a member. -/
def Pkg.protSector (k : Pkg) (n s : Nat) : List Byte := cellsRead k.hbm (k.prot.base + 4096 * n + 32 * s) 32
/-- Writes it, clearing its poison. -/
def Pkg.putProtSector (k : Pkg) (n s : Nat) (b : List Byte) : Pkg :=
  let a := k.prot.base + 4096 * n + 32 * s
  { k with hbm := cellsWrite k.hbm a b, hbmPoison := k.hbmPoison.erase (a / 32) }
/-- Whether it is poisoned. -/
def Pkg.protPoisoned (k : Pkg) (n s : Nat) : Bool := k.hbmPoison.has ((k.prot.base + 4096 * n + 32 * s) / 32)
/-- The tag of a sector (R344). -/
def Pkg.tag (k : Pkg) (n s : Nat) : Nat := leNat (cellsRead k.hbm (k.prot.tags + 256 * n + 2 * s) 2)
/-- Writes a tag. -/
def Pkg.putTag (k : Pkg) (n s v : Nat) : Pkg := { k with hbm := cellsWrite k.hbm (k.prot.tags + 256 * n + 2 * s) (leBytes 2 v) }
/-- Sets bit `i` of a number. -/
def putBit (x i : Nat) (b : Bool) : Nat := if x.testBit i = b then x else x ^^^ 2 ^ i

/-- The P and Q holders of a stripe, as member indices (R347). -/
def ProtGroup.holderP (g : ProtGroup) (n : Nat) : Nat := n % g.members
/-- The Q holder under PQ. -/
def ProtGroup.holderQ (g : ProtGroup) (n : Nat) : Option Nat := if g.isPq then some ((n + 1) % g.members) else none
/-- The data members of a stripe. -/
def ProtGroup.dataOf (g : ProtGroup) (n : Nat) : List Nat := (List.range g.members).filter fun i => g.role n i = .data

/-- Whether requests of the controller of package `p` reach that of package `q` and are answered. -/
def State.answers (s : State) (p q : PkgId) : Bool := p == q || (s.reaches p q && s.linked p q)

/-- Sector `sec` of frame `n` of member `m`, where package `c` can read it now. -/
def State.protRead (s : State) (c : PkgId) (g : ProtGroup) (m n sec : Nat) : Option (List Byte) :=
  let q := g.member m
  if g.isLost m || !s.hasPkg q || !s.answers c q || (s.pkgAt q).prot.mode == .off || (s.pkgAt q).protPoisoned n sec then none
  else some ((s.pkgAt q).protSector n sec)

/-- Whether a sector is there to be read once its member answers: the member has not been declared lost, and the sector is not
known to be uncorrectable (R352). -/
def State.mayRead (s : State) (g : ProtGroup) (n sec m : Nat) : Bool :=
  !g.isLost m && !(s.hasPkg (g.member m) && (s.pkgAt (g.member m)).protPoisoned n sec)

/-- Whether the frames that are there determine the whole of a stripe offset (R352, R356): one missing data sector with P or Q,
two with both. -/
def State.solvable (s : State) (g : ProtGroup) (n sec : Nat) : Bool :=
  let p := s.mayRead g n sec (g.holderP n)
  let q := match g.holderQ n with | some h => s.mayRead g n sec h | none => false
  match ((g.dataOf n).filter fun i => !s.mayRead g n sec i).length with
  | 0 => true
  | 1 => p || q
  | 2 => p && q
  | _ => false

/-- Solves a stripe offset for the data sectors in `missing` by what package `c` can read (R352, R356): each with its bytes; none
where that does not suffice. -/
def solveData (s : State) (c : PkgId) (g : ProtGroup) (n sec : Nat) (missing : List Nat) : Option (List (Nat × List Byte)) := do
  let have_ ← ((g.dataOf n).filter fun i => !missing.contains i).mapM fun i => (s.protRead c g i n sec).map (i, ·)
  let p := s.protRead c g (g.holderP n) n sec
  let q := (g.holderQ n).bind fun h => s.protRead c g h n sec
  let p' := p.map fun p => have_.foldl (fun acc e => xorBytes acc e.2) p
  let q' := q.map fun q => have_.foldl (fun acc e => xorBytes acc (gfScale (gfPow 2 e.1) e.2)) q
  match missing with
  | [] => some []
  | [a] => match p', q' with
    | some p, _ => some [(a, p)]
    | none, some q => some [(a, gfScale (gfInv (gfPow 2 a)) q)]
    | none, none => none
  | [a, b] => match p', q' with
    | some p, some q =>
      let d := gfScale (gfInv (gfPow 2 a ^^^ gfPow 2 b)) (xorBytes q (gfScale (gfPow 2 a) p))
      some [(a, xorBytes p d), (b, d)]
    | _, _ => none
  | _ => none

/-- The data members of a stripe offset whose sectors package `c` cannot read. -/
def unreadable (s : State) (c : PkgId) (g : ProtGroup) (n sec : Nat) : List Nat :=
  (g.dataOf n).filter fun i => (s.protRead c g i n sec).isNone

/-- The frame and the sector of a protected sector of a package, by its physical number. -/
def ProtGroup.place (g : ProtGroup) (sector : Nat) : Nat × Nat :=
  ((32 * sector - g.base) / 4096, (32 * sector - g.base) % 4096 / 32)

/-- Whether a poisoned sector of a package is a protected sector that the rest of its stripe determines, once the members that
have not been declared lost answer (R352, R353). -/
def State.canReconstruct (s : State) (p : PkgId) (sector : Nat) : Bool :=
  let k := s.pkgAt p
  let g := k.prot
  let pa := 32 * sector
  k.hbmPoison.has sector && g.inArea pa && decide (pa < g.tags) && g.mode != .off && g.mode != .init && g.mode != .failed &&
    (let n := (g.place sector).1
     let sec := (g.place sector).2
     if g.role n g.me = .data then s.solvable g n sec else (g.dataOf n).all (s.mayRead g n sec))

/-- Bit `i` of a tag of a member's sector. -/
def State.tagBit (s : State) (g : ProtGroup) (m n sec i : Nat) : Bool := ((s.pkgAt (g.member m)).tag n sec).testBit i

/-- The phase bits of the data members of a stripe offset, as a redundant sector's tag holds them (R352). -/
def State.phases (s : State) (g : ProtGroup) (n sec : Nat) : Nat :=
  (g.dataOf n).foldl (fun t i => putBit t i (s.tagBit g i n sec 0)) 0

/-- P of a stripe offset, or Q (R346), from the data as it stands. -/
def State.paritySum (s : State) (g : ProtGroup) (n sec : Nat) (q : Bool) : List Byte :=
  (g.dataOf n).foldl (fun acc i =>
    let b := (s.pkgAt (g.member i)).protSector n sec
    xorBytes acc (if q then gfScale (gfPow 2 i) b else b)) zeroSector

/-- Holder `h` recomputes its redundant sector of a stripe offset, with the phases of the data members (R352). Where it cannot
read a data sector now, its own is poisoned, and is recomputed once it can (log 25). -/
def recomputeAt (s : State) (g : ProtGroup) (n sec h : Nat) : State :=
  if g.isLost h then s
  else
    let sum := s.paritySum g n sec (g.role n h == .q)
    let tag := s.phases g n sec
    let whole := (unreadable s (g.member h) g n sec).isEmpty
    s.mapPkg (g.member h) fun k =>
      if whole then (k.putProtSector n sec sum).putTag n sec tag
      else { k with hbmPoison := k.hbmPoison.insert ((k.prot.base + 4096 * n + 32 * sec) / 32) }

/-- The holders recompute their sectors of a stripe offset (R352). -/
def recompute (s : State) (g : ProtGroup) (n sec : Nat) : State :=
  let s := recomputeAt s g n sec (g.holderP n)
  match g.holderQ n with
  | some h => recomputeAt s g n sec h
  | none => s

/-- Whether a delta of a protected sector is outstanding (R348). -/
def Pkg.deltaOut (k : Pkg) (n s : Nat) : Bool := k.deltas.any fun d => d.frame == n && d.sector == s && d.stage != .parityAck

/-- The holder from which a data sector is solved: P's, or Q's where P is not there or its sector is uncorrectable (R352,
R356). -/
def State.solver (s : State) (g : ProtGroup) (n sec : Nat) : Nat :=
  if s.mayRead g n sec (g.holderP n) && s.hasPkg (g.member (g.holderP n)) then g.holderP n else (g.holderQ n).getD (g.holderP n)

/-- The package that coordinates the reconstruction of a sector of package `p`: for a data sector that of the holder from which
it is solved, else `p` itself (R352). -/
def State.coordinator (s : State) (p : PkgId) (sector : Nat) : PkgId :=
  let g := (s.pkgAt p).prot
  let n := (g.place sector).1
  if g.role n g.me = .data then g.member (s.solver g n (g.place sector).2) else p

/-- RECONSTRUCTS a sector of a protected area from the rest of its stripe (R352): a data sector with its phase from the
holder it was solved from, a redundant sector with the phases of the data members. A sector that the stripe does not
determine stays as it is. -/
def reconstruct (s : State) (p : PkgId) (sector : Nat) : State :=
  let g := (s.pkgAt p).prot
  let n := (g.place sector).1
  let sec := (g.place sector).2
  let c := s.coordinator p sector
  match g.role n g.me with
  | .data =>
    (match (solveData s c g n sec (unreadable s c g n sec)).bind (·.find? (·.1 == g.me)) with
    | some e => s.mapPkg p fun k =>
        (k.putProtSector n sec e.2).putTag n sec (putBit (k.tag n sec) 0 (s.tagBit g (s.solver g n sec) n sec g.me))
    | none => s)
  | r =>
    if (unreadable s c g n sec).isEmpty then
      s.mapPkg p fun k => (k.putProtSector n sec (s.paritySum g n sec (r == .q))).putTag n sec (s.phases g n sec)
    else s

/-- The members whose sectors the holder that coordinates a reconstruction reads (R352): the other data members, and for a data
sector the holder from which it is solved, with both where two data sectors are missing. -/
def State.helpers (s : State) (g : ProtGroup) (n sec me : Nat) : List Nat :=
  let two := decide (2 ≤ ((g.dataOf n).filter fun i => !s.mayRead g n sec i).length)
  let holders := if g.role n me ≠ .data then [] else if two then g.holderP n :: (g.holderQ n).toList else [s.solver g n sec]
  (holders ++ g.dataOf n).filter fun i => i != me && s.mayRead g n sec i

/-- The deltas of a stripe offset that a reconstruction waits for (R352): for a data sector all that a holder has not
applied (one that is only being acknowledged bars every other write of its sector, so that nothing differs), for Q those
that P has not applied, since Q never holds more of a member's writes than P (R348), and for P none, since it takes in the
writes whose deltas it has not applied. -/
def State.stripeStill (s : State) (g : ProtGroup) (n sec me : Nat) : Bool :=
  (List.range g.members).all fun m => g.isLost m || !((s.pkgAt (g.member m)).deltas.any fun d =>
    d.frame == n && d.sector == sec && (match g.role n me with
      | .p => false
      | .q => d.stage == .toP
      | .data => d.stage == .toP || d.stage == .forwarded || d.stage == .toQ))

/-- Whether a sector is poisoned and its reconstruction can take place now: the deltas that it waits for are gone, and the
members that take part answer (R352, R353). -/
def State.reconstructs (s : State) (p : PkgId) (sector : Nat) : Bool :=
  let g := (s.pkgAt p).prot
  let n := (g.place sector).1
  let sec := (g.place sector).2
  let c := s.coordinator p sector
  s.canReconstruct p sector && s.stripeStill g n sec g.me && s.answers p c &&
    (s.helpers g n sec g.me).all fun i => (s.protRead c g i n sec).isSome

/-! ## The delta protocol -/

/-- A delta of a package. -/
def Pkg.deltaAt (k : Pkg) (x : Nat) : Option Delta := k.deltas.find? (·.id == x)
/-- Moves a delta to a stage. -/
def State.stageDelta (s : State) (p : PkgId) (x : Nat) (t : DeltaStage) : State :=
  s.mapPkg p fun k => { k with deltas := k.deltas.map fun d => if d.id = x then { d with stage := t } else d }
/-- A forward that a package has sent. -/
def Pkg.forwardAt (k : Pkg) (x : Nat) : Option Forward := k.forwards.find? (·.id == x)

/-- What a delta or a forward holds for member `i`'s sector is applied to the redundant sector of a holder, unless its tag
says that it has been (R347); a sector whose code fails is recomputed first, which takes it in (R351). None while that is
not possible. -/
def applyDelta (s : State) (g : ProtGroup) (holder i n sec : Nat) (ph : Bool) (bytes : List Byte) : Option State :=
  let h := g.member holder
  let x := ((s.pkgAt h).prot.base + 4096 * n + 32 * sec) / 32
  let s := if (s.pkgAt h).protPoisoned n sec && s.reconstructs h x then reconstruct s h x else s
  let k := s.pkgAt h
  if k.protPoisoned n sec then none
  else if (k.tag n sec).testBit i = ph then some s
  else
    let b := if g.role n holder = .q then gfScale (gfPow 2 i) bytes else bytes
    some (s.mapPkg h fun k =>
      (k.putProtSector n sec (xorBytes (k.protSector n sec) b)).putTag n sec (putBit (k.tag n sec) i ph))

/-- Whether a holder of a group can be reached from a member, and keeps its frames. -/
def State.holderUp (s : State) (g : ProtGroup) (p : PkgId) (holder : Nat) : Bool :=
  let m := (s.pkgAt (g.member holder)).prot.mode
  !g.isLost holder && s.answers p (g.member holder) && m != .off && m != .init

/-- A delta arrives at the P holder, which applies it and acknowledges it, or under PQ forwards it to the Q holder (R347). -/
def arriveAtP (s : State) (p : PkgId) (d : Delta) : State :=
  let g := (s.pkgAt p).prot
  let h := g.holderP d.frame
  if s.holderUp g p h then
    match applyDelta s g h g.me d.frame d.sector d.phase d.bytes with
    | none => s
    | some s =>
      let toQ := match g.holderQ d.frame with | some q => !g.isLost q | none => false
      if toQ then
        (s.stageDelta p d.id .forwarded).mapPkg (g.member h) fun k =>
          { k with nextDelta := k.nextDelta + 1
                   forwards := k.forwards ++ [{ id := k.nextDelta, member := p, delta := d.id, index := g.me, frame := d.frame
                                                sector := d.sector, phase := d.phase, bytes := d.bytes, since := k.time }] }
      else s.stageDelta p d.id .ack
  else s

/-- A forward arrives at the Q holder, which applies it; its acknowledgement lets the P holder acknowledge the delta (R347). -/
def arriveAtQ (s : State) (p : PkgId) (x : Forward) : State :=
  let g := (s.pkgAt p).prot
  match g.holderQ x.frame with
  | none => s
  | some h =>
    if s.holderUp g p h then
      match applyDelta s g h x.index x.frame x.sector x.phase x.bytes with
      | none => s
      | some s =>
        (s.stageDelta x.member x.delta .ack).mapPkg p fun k => { k with forwards := k.forwards.filter (·.id != x.id) }
    else s

/-- A delta that goes straight to the Q holder, P being lost, arrives there (R354). -/
def arriveStraight (s : State) (p : PkgId) (d : Delta) : State :=
  let g := (s.pkgAt p).prot
  match g.holderQ d.frame with
  | none => s
  | some h =>
    if s.holderUp g p h then
      match applyDelta s g h g.me d.frame d.sector d.phase d.bytes with
      | none => s
      | some s => s.stageDelta p d.id .ack
    else s

/-- The deltas and forwards of a stripe offset travel as far as they go: what a unit of the hub waits for before it uses a
sector that is being reconstructed (R352). -/
def driveStripe (s : State) (g : ProtGroup) (n sec : Nat) : State :=
  let ms := ((List.range g.members).filter fun m => !g.isLost m).map g.member
  let here (f k : Nat) : Bool := f == n && k == sec
  let s := ms.foldl (fun (s : State) p => ((s.pkgAt p).deltas.filter fun d => here d.frame d.sector).foldl (fun s d =>
    match d.stage with | .toP => arriveAtP s p d | .toQ => arriveStraight s p d | _ => s) s) s
  ms.foldl (fun (s : State) p => ((s.pkgAt p).forwards.filter fun d => here d.frame d.sector).foldl (fun s d =>
    arriveAtQ s p d) s) s

/-- Reconstructs a poisoned sector before a unit that cannot wait uses it: what the stripe still has on its way arrives
first (R352, log 25). -/
def mendSector (s : State) (p : PkgId) (sector : Nat) : State :=
  if s.canReconstruct p sector then
    let g := (s.pkgAt p).prot
    let s := driveStripe s g (g.place sector).1 (g.place sector).2
    if s.reconstructs p sector then reconstruct s p sector else s
  else s

/-- Reconstructs the poisoned sector of device memory at which a unit that cannot wait reads or writes (R352). -/
def State.mendPlace (s : State) (l : Loc) : State := if l.store = .hbm then mendSector s l.pkg (l.off / 32) else s

/-- Reconstructs every poisoned sector of a package that can be, before a unit of the hub reads (R352). -/
def State.mended (s : State) (p : PkgId) : State := (s.pkgAt p).hbmPoison.foldl (fun s x => mendSector s p x) s

/-! ## Device memory and translation -/

/-- The bytes installed in a tier of a package (R324, R325). -/
def Pkg.capacity (k : Pkg) (ddr : Bool) : Nat := if ddr then (if k.ddrBad then 0 else Config.ddrBytes) else Config.hbmBytes

/-- A word of device memory that the hub reads at a physical address; else the CAUSE of R333. -/
def Pkg.physWord (k : Pkg) (ddr : Bool) (a : Nat) : Except Nat Nat :=
  if k.capacity ddr < a + 8 then .error 3
  else if (if ddr then k.ddrPoison else k.hbmPoison).has (a / 32) then .error 4
  else .ok (leNat (cellsRead (if ddr then k.ddr else k.hbm) a 8))

/-- Bits `lo` to `lo + n - 1` of a number. -/
def bits (x lo n : Nat) : Nat := x / 2 ^ lo % 2 ^ n

/-- What a translation gives before its last checks: physical address, tier, package, permissions, PROT, level, and the
end of the physical range it maps. -/
structure Leaf where
  pa : Nat
  tier : Nat
  peer : Nat
  perm : Nat
  prot : Bool
  level : Nat
  top : Nat
  deriving DecidableEq, Repr, Inhabited

/-- The words of item `i` of a process in device memory: its process entry, item 0 (R328), or range entry `i - 1` (R329). -/
def Pkg.procItem (k : Pkg) (pid : BitVec 16) (i : Nat) : Except Nat (List Nat) :=
  let at_ := k.procbase.toNat + 2048 * pid.toNat
  match i with
  | 0 => [at_, at_ + 8].mapM (k.physWord false)
  | r + 1 => ((List.range 3).map fun j => at_ + 64 + 24 * r + 8 * j).mapM (k.physWord false)

/-- Whether PKG and PROT break a rule of R332 for a tier. -/
def badAttr (tier peer : Nat) (prot : Bool) : Bool := (peer != 0 && decide (tier < 2)) || (prot && tier % 2 == 1)

/-- What a range entry gives for a virtual address that it hits (R329). -/
def rangeOf (va : Nat) (ws : List Nat) : Option (Except (Nat × Nat) Leaf) :=
  let w0 := ws.getD 0 0
  let w1 := ws.getD 1 0
  let w2 := ws.getD 2 0
  let vb := bits w0 12 45 * 4096
  let vl := bits w1 12 45 * 4096
  if w0 % 2 = 1 ∧ vb ≤ va ∧ va < vl then
    let tier := bits w1 6 2
    let peer := bits w2 48 12
    let prot := bits w1 5 1 == 1
    let base := bits w2 12 36 * 4096
    if bits w0 57 7 ≠ 0 ∨ bits w0 1 11 ≠ 0 ∨ bits w1 57 7 ≠ 0 ∨ bits w1 8 4 ≠ 0 ∨ bits w1 0 2 ≠ 0 ∨
        bits w2 60 4 ≠ 0 ∨ bits w2 0 12 ≠ 0 ∨ 2 ^ 40 < vl - vb ∨ badAttr tier peer prot then
      some (.error (1, 6))
    else some (.ok { pa := base + (va - vb), tier := tier, peer := peer, perm := bits w1 2 3, prot := prot, level := 6
                     top := base + (vl - vb) })
  else none

/-- Whether a page-table entry with V = 1 at level `lv` is malformed (R332). -/
def badEntry (lv e : Nat) : Bool :=
  let leaf := bits e 1 1 == 1
  let size := 2 ^ (48 - 9 * lv)
  bits e 60 4 != 0 || bits e 9 3 != 0 ||
  (!leaf && (lv == 4 || bits e 2 7 != 0 || bits e 48 12 != 0)) ||
  (leaf && (decide (lv < 2) || (bits e 12 36 * 4096) % size != 0)) ||
  (bits e 8 1 == 1 && lv != 4) || badAttr (bits e 6 2) (bits e 48 12) (bits e 5 1 == 1)

/-- The leaf of an entry for a virtual address. -/
def leafOf (lv e va : Nat) : Leaf :=
  let size := 2 ^ (48 - 9 * lv)
  let base := bits e 12 36 * 4096
  { pa := base + va % size, tier := bits e 6 2, peer := bits e 48 12, perm := bits e 2 3, prot := bits e 5 1 == 1
    level := lv, top := base + size }

/-- The station that serves a cell (R327). -/
def stationOf (c : CellId) : Nat := 2 * dieOf c + (if 16 ≤ cellX c % 32 then 1 else 0)

/-- A station of a package. -/
def Pkg.station (k : Pkg) (n : Nat) : Station := Table.get {} k.stations n

/-- Changes a station. -/
def State.mapStation (s : State) (p : PkgId) (n : Nat) (f : Station → Station) : State :=
  s.mapPkg p fun k => { k with stations := Table.put k.stations n (f (k.station n)) }

/-- A translation under way: the number of the next free value, and the station's caches as it leaves them. -/
structure Walk where
  free : Nat
  st : Station
  /-- One choice for the whole of a request that is a single read (R340). -/
  fixed : Option Bool := none
  deriving DecidableEq, Repr, Inhabited

/-- Which version of an entry a request uses: one of the cached ones that differ from memory, by a free choice, or what
memory holds (R335). The answer begins with the next free value. -/
def useCached {α : Type} [DecidableEq α] (fixed : Option Bool) : Nat → List α → Except Nat α → Nat × Except Nat α
  | n, [], f => (n, f)
  | n, x :: t, f =>
    if (match f with | .ok y => decide (y = x) | .error _ => false) then useCached fixed n t f
    else if fixed.getD (Config.useStale n) then (n + 1, .ok x)
    else useCached fixed (n + 1) t f

/-- An item of a process as a request uses it; one with V = 1 that is read from memory is cached (R335). -/
def Walk.item (q : Walk) (k : Pkg) (pid : BitVec 16) (i : Nat) : Walk × Except Nat (List Nat) :=
  let old := (q.st.procs.filter fun e => e.pid == pid && e.index == i).map (·.words)
  let r := useCached q.fixed q.free old (k.procItem pid i)
  let st := match r.2 with
    | .ok w => if w.headD 0 % 2 = 1 ∧ !old.contains w then { q.st with procs := { pid := pid, index := i, words := w } :: q.st.procs } else q.st
    | .error _ => q.st
  ({ q with free := r.1, st := st }, r.2)

/-- The page-table entry of level `lv` for the entry index `x` of the whole address space, in the table at `table`, as a
request uses it; a well-formed one with V = 1 that is read from memory is cached (R335). -/
def Walk.entry (q : Walk) (k : Pkg) (pid : BitVec 16) (ddr : Bool) (lv x table : Nat) : Walk × Except Nat Nat :=
  let old := (q.st.pages.filter fun e => e.pid == pid && e.level == lv && e.index == x).map (·.entry)
  let r := useCached q.fixed q.free old (k.physWord ddr (table + 8 * (x % 512)))
  let st := match r.2 with
    | .ok e =>
      if e % 2 = 1 ∧ !badEntry lv e ∧ !old.contains e then
        { q.st with pages := { pid := pid, level := lv, index := x, entry := e } :: q.st.pages }
      else q.st
    | .error _ => q.st
  ({ q with free := r.1, st := st }, r.2)

/-- The other translation of page `i` of a contiguous block, by entry 16m applied at offset 4,096i (R334): it is used, by a
free choice, where it differs from that of the page's own entry. -/
def Walk.block (q : Walk) (k : Pkg) (pid : BitVec 16) (ddr : Bool) (table va : Nat) (own : Except (Nat × Nat) Leaf) :
    Walk × Except (Nat × Nat) Leaf :=
  let x := va / 4096
  let i := x % 16
  if i = 0 then (q, own)
  else
    let r := q.entry k pid ddr 4 (x - i) table
    match r.2 with
    | .error _ => (r.1, own)
    | .ok e =>
      if e % 2 = 0 ∨ bits e 1 1 = 0 ∨ bits e 8 1 = 0 ∨ badEntry 4 e then (r.1, own)
      else
        let l := leafOf 4 e va
        let l := { l with pa := l.pa + 4096 * i, top := l.top + 4096 * i }
        if (match own with | .ok o => o == l | .error _ => false) then (r.1, own)
        else ({ r.1 with free := r.1.free + 1 }, if r.1.fixed.getD (Config.ownEntry r.1.free) then own else .ok l)

/-- The walk of the page table from level `lv` (R330, R332). -/
def Walk.walk (k : Pkg) (pid : BitVec 16) (ddr : Bool) (va : Nat) : Nat → Nat → Nat → Walk → Walk × Except (Nat × Nat) Leaf
  | 0, lv, _, q => (q, .error (1, lv))
  | n + 1, lv, table, q =>
    let r := q.entry k pid ddr lv (va / 2 ^ (48 - 9 * lv)) table
    let own (x : Except (Nat × Nat) Leaf) : Walk × Except (Nat × Nat) Leaf :=
      if lv = 4 then r.1.block k pid ddr table va x else (r.1, x)
    match r.2 with
    | .error c => own (.error (c, lv))
    | .ok e =>
      if e % 2 = 0 then own (.error (0, lv))
      else if badEntry lv e then own (.error (1, lv))
      else if bits e 1 1 = 1 then own (.ok (leafOf lv e va))
      else Walk.walk k pid ddr va n (lv + 1) (bits e 12 36 * 4096) r.1

/-- The translation by the range entries from number `r` on, the first hit of the lowest number (R329). -/
def Walk.ranges (k : Pkg) (pid : BitVec 16) (va : Nat) : Nat → Nat → Walk → Walk × Option (Except (Nat × Nat) Leaf)
  | 0, _, q => (q, none)
  | n + 1, r, q =>
    let x := q.item k pid (r + 1)
    match x.2 with
    | .error c => (x.1, some (.error (c, 6)))
    | .ok w =>
      match rangeOf va w with
      | some l => (x.1, some l)
      | none => Walk.ranges k pid va n (r + 1) x.1

/-- Whether a walk under a process entry faults at once: its table tier is 2 or 3, or a reserved bit is set (R328). -/
def badRoot (w0 w1 : Nat) : Bool :=
  bits w0 48 16 != 0 || bits w0 8 4 != 0 || bits w0 1 5 != 0 || decide (2 ≤ bits w0 6 2) || bits w1 7 57 != 0

/-- What the tables of a process give for a virtual address, or CAUSE and LEVEL of R333 (R327-R335). -/
def Walk.leaf (q : Walk) (k : Pkg) (pid : BitVec 16) (va : Nat) : Walk × Except (Nat × Nat) Leaf :=
  let u := q.item k pid 0
  match u.2 with
  | .error c => (u.1, .error (c, 5))
  | .ok ws =>
    let w0 := ws.getD 0 0
    let w1 := ws.getD 1 0
    if w0 % 2 = 0 then (u.1, .error (5, 5))
    else
      let r := Walk.ranges k pid va (Nat.min (bits w1 0 7) 64) 0 u.1
      match r.2 with
      | some l => (r.1, l)
      | none =>
        if badRoot w0 w1 then (r.1, .error (1, 5))
        else Walk.walk k pid (bits w0 6 2 == 1) va 5 0 (bits w0 12 36 * 4096) r.1

/-- The check of a protected area by the holding controller (R345): whether it accepts, refuses, or refuses with
FENCED; one that has been declared lost refuses with FENCED (R355). -/
def Pkg.protCheck (k : Pkg) (pa : Nat) (prot : Bool) : Except Bool Unit :=
  let g := k.prot
  if g.inArea pa then
    if g.mode = .off ∨ g.mode = .init ∨ g.mode = .failed ∨ k.lost then .error true
    else
      let n := (pa - g.base) / 4096
      if prot ∧ pa < g.tags ∧ g.role n g.me = .data then .ok () else .error false
  else if prot then .error false
  else .ok ()

/-- The PAGE fault of R333. -/
def pageFault (pid : BitVec 16) (a : Word) (k cause level : Nat) : FaultInfo :=
  { kind := .page, sector := a, aux := xlatWord pid k cause level }

/-- Whether the place of a request of package `p` accepts it when it arrives, whatever the boundaries: its package is in
reach and not lost (R42, R355, R388), and its controller lets it at a protected area (R345). -/
def State.placeCheck (s : State) (p : PkgId) (l : Loc) : Except Bool Unit :=
  if s.shut p l.pkg then .error true
  else if l.store = .hbm then (s.pkgAt l.pkg).protCheck l.off l.prot
  else .ok ()

/-- Whether the place of a request refuses it whatever its boundary. -/
def State.refusesPlace (s : State) (p : PkgId) (l : Loc) : Bool := !(s.placeCheck p l).isOk

/-- The fault of a refused request: FENCED, or PAGE of the entry that translated it (R345). -/
def refusal (pid : BitVec 16) (kind : Nat) (a : Word) (l : Loc) (fenced : Bool) : FaultInfo :=
  if fenced then { kind := .fenced, sector := a } else pageFault pid a kind 1 l.level

/-- The last checks on a translation: the package's presence (R42, R355), the tier's capacity (R332), the permissions (R333)
and the protected area (R345). -/
def State.allowLeaf (s : State) (p : PkgId) (pid : BitVec 16) (a : Word) (k : Acc) (l : Leaf) : Except FaultInfo Loc :=
  let ddr := l.tier % 2 == 1
  let q : PkgId := if l.tier < 2 then p else BitVec.ofNat 12 l.peer
  if s.shut p q then .error { kind := .fenced, sector := a }
  else
    let kq := s.pkgAt q
    if kq.capacity ddr < l.top then .error (pageFault pid a k.kind 3 l.level)
    else if !grants l.perm k.needs then .error { kind := .prot, sector := a, aux := xlatWord pid k.kind 2 l.level }
    else
      let loc : Loc := { store := if ddr then .ddr else .hbm, pkg := q, off := l.pa, prot := l.prot, level := l.level }
      if ddr then .ok loc
      else match kq.protCheck l.pa l.prot with
        | .ok () => .ok loc
        | .error true => .error { kind := .fenced, sector := a }
        | .error false => .error (pageFault pid a k.kind 1 l.level)

/-- TRANSLATION of a window-2 address of a cell of package `p` (R327-R335, R345): the place, or PAGE, PROT or FENCED. -/
def translate (s : State) (p : PkgId) (c : CellId) (pid : BitVec 16) (a : Word) (k : Acc) (fixed : Option Bool := none) :
    State × Except FaultInfo Loc :=
  let n := stationOf c
  let s := s.mended p
  let w := Walk.leaf { free := s.free, st := (s.pkgAt p).station n, fixed := fixed } (s.pkgAt p) pid (a.toNat % 2 ^ 57)
  let s := { s.mapStation p n fun _ => w.1.st with free := w.1.free }
  match w.2 with
  | .error e => (s, .error (pageFault pid a k.kind e.1 e.2))
  | .ok l => (s, s.allowLeaf p pid a k l)

/-- The checks of R165 steps 1 to 3 on an address of `n` bytes accessed from cell `c` of package `p`: the place in a
cell, or none for a window-2 address, which is still to be translated. -/
def locate (s : State) (p : PkgId) (c : CellId) (pid : BitVec 16) (a : Word) (n : Nat) (k : Acc) :
    Except FaultInfo (Option Loc) :=
  let w := a.toNat / 2 ^ 60
  let prot : Except FaultInfo (Option Loc) := .error { kind := .prot, sector := a, aux := xlatWord pid k.kind 2 7 }
  let aligned (r : Option Loc) : Except FaultInfo (Option Loc) :=
    if a.toNat % n ≠ 0 then .error { kind := .align, sector := a } else .ok r
  let inCell (q : PkgId) (d : CellId) (off : Nat) : Except FaultInfo (Option Loc) :=
    match regionOf off with
    | none => prot
    | some (x, o) =>
      if !k.reaches x then prot
      else if s.shut p q then .error { kind := .fenced, sector := a }
      else if x = .control ∧ n < 4 then .error { kind := .align, sector := a }
      else if !k.allows x then prot
      else aligned (some { store := x, pkg := q, cell := d, off := o })
  if w = 0 then inCell p c (bits a.toNat 0 60)
  else if w = 1 then
    if bits a.toNat 52 8 ≠ 0 then prot
    else inCell (BitVec.ofNat 12 (bits a.toNat 40 12)) (BitVec.ofNat 12 (bits a.toNat 28 12)) (bits a.toNat 0 28)
  else if w = 2 then
    if bits a.toNat 57 3 ≠ 0 then prot
    else if !k.allows .hbm then prot
    else aligned none
  else prot

/-- The whole check of one address: its place, or the fault of R165. -/
def resolve (s : State) (p : PkgId) (c : CellId) (pid : BitVec 16) (a : Word) (n : Nat) (k : Acc) :
    State × Except FaultInfo Loc :=
  match locate s p c pid a n k with
  | .error f => (s, .error f)
  | .ok (some l) => (s, .ok l)
  | .ok none => translate s p c pid a k

/-! ## The cell control page -/

/-- Codes of the slot states (R12). -/
def SlotMode.code : SlotMode → Nat
  | .idle => 0 | .run => 1 | .parked => 2 | .subscribed => 3 | .trapped => 4 | .spilled => 5 | .exited => 6

/-- The slot state word (R44). -/
def Slot.stateWord (t : Slot) : Nat :=
  let w := if t.mode = .spilled then (0, 0) else (t.regLim.toNat, t.regBase.toNat)
  t.mode.code + t.fkind.toNat * 2 ^ 8 + w.2 * 2 ^ 16 + w.1 * 2 ^ 32

/-- Codes of the copy context states (R219). -/
def CtxMode.code : CtxMode → Nat | .idle => 0 | .busy => 1 | .faulted => 2 | .waitrec => 3

/-- A flag as a number. -/
def flag (b : Bool) : Nat := if b then 1 else 0

/-- The word at offset 0 of a copy context's status block (R219). -/
def CopyCtx.word0 (x : CopyCtx) : Nat :=
  x.mode.code + x.queue.length * 2 ^ 8 + x.fkind.toNat * 2 ^ 16 + x.owner.toNat * 2 ^ 24 + flag x.desc * 2 ^ 28 +
  flag x.sdone * 2 ^ 32 + flag x.rdone * 2 ^ 33 + flag x.bdone * 2 ^ 34

/-- A word of a copy context's status block (R219). -/
def CopyCtx.word (x : CopyCtx) : Nat → Nat
  | 0 => x.word0
  | 1 => x.curId.toNat
  | 2 => x.row
  | 3 => x.off
  | 4 => x.faddr.toNat
  | 5 => x.lastId.toNat
  | _ => 0

/-- Codes of the stream states (R200). -/
def StreamMode.code : StreamMode → Nat
  | .free => 0 | .defined => 1 | .running => 2 | .paused => 3 | .done => 4 | .error => 5

/-- The word at offset 40 of a stream descriptor (R199). -/
def Stream.word5 (x : Stream) : Nat :=
  x.lstride.toNat + x.esize.code * 2 ^ 32 + flag x.output * 2 ^ 34 + x.mode.code * 2 ^ 36 + flag x.vreg.isSome * 2 ^ 39 +
  (x.vreg.getD 0).toNat * 2 ^ 40 + x.owner.toNat * 2 ^ 48 + x.queue.length * 2 ^ 52 + x.err.toNat * 2 ^ 56

/-- A word of a stream descriptor (R199). -/
def Stream.word (x : Stream) : Nat → Nat
  | 0 => x.base.toNat
  | 5 => x.word5
  | 6 => x.pos.toNat
  | 7 => x.faddr.toNat
  | j => (Table.get 0 x.dims (j - 1)).toNat

/-- The aligned word at offset 8w of the control page (R44). -/
def Cell.controlWord (t : Cell) (w : Nat) : Nat :=
  if w < 16 then (t.slotAt (BitVec.ofNat 4 w)).stateWord
  else if 32 ≤ w ∧ w < 34 then leNat ((List.range 8).map fun i => Table.get 0 t.rotation (8 * (w - 32) + i))
  else if 64 ≤ w ∧ w < 80 then (Table.get 0 t.obres (w - 64)).toNat
  else if 96 ≤ w ∧ w < 112 then (Table.get 0 t.bsres (w - 96)).toNat
  else if 128 ≤ w ∧ w < 160 then (Table.get ({} : CopyCtx) t.ctxs ((w - 128) / 8)).word ((w - 128) % 8)
  else if 256 ≤ w ∧ w < 260 then (Table.get 0 t.tlCount (w - 256)).toNat
  else if w = 260 then (t.tlMark.map fun i => 2 ^ i).foldl (· + ·) 0
  else if 512 ≤ w ∧ w < 1024 then (Table.get 0 t.barriers (w - 512)).toNat
  else if 1024 ≤ w ∧ w < 1280 then (Table.get ({} : Stream) t.streams ((w - 1024) / 8)).word ((w - 1024) % 8)
  else 0

/-- Bytes of the control page within one aligned word. -/
def Cell.controlBytes (t : Cell) (off n : Nat) : List Byte := ((leBytes 8 (t.controlWord (off / 8))).drop (off % 8)).take n

/-! ## Reading and writing a place -/

/-- The storage code of an ECC record (R338). -/
def Store.eccCode : Store → Nat
  | .spad | .control => 0 | .bstore => 1 | .opbuf => 2 | .hbm => 6 | .ddr => 7

/-- The ECC fault of an address (R338). -/
def eccFault (a : Word) (l : Loc) : FaultInfo :=
  { kind := .ecc, sector := sectorOf a, aux := BitVec.ofNat 64 l.store.eccCode }

/-- Reads `n` bytes of a place; none where a poisoned unit stands among them (R338). -/
def State.peek (s : State) (l : Loc) (n : Nat) : Option (List Byte) :=
  let k := s.pkgAt l.pkg
  let t := k.cellAt l.cell
  match l.store with
  | .spad => if (poisonIn t.spadPoison l.off n 8).isSome then none else some (cellsRead t.spad l.off n)
  | .bstore => if (poisonIn t.bPoison l.off n 8).isSome then none else some (cellsRead t.bstore l.off n)
  | .opbuf => if t.opBad.any fun i => decide (l.off ≤ i) && decide (i < l.off + n) then none else some (cellsRead t.opbuf l.off n)
  | .control => some (t.controlBytes l.off n)
  | .hbm => if (poisonIn k.hbmPoison l.off n 32).isSome then none else some (cellsRead k.hbm l.off n)
  | .ddr => if (poisonIn k.ddrPoison l.off n 32).isSome then none else some (cellsRead k.ddr l.off n)

/-- Writes bytes at a place; a write that covers a poisoned unit clears its poison (R337). -/
def State.poke (s : State) (l : Loc) (bs : List Byte) : State :=
  match l.store with
  | .spad => s.mapCell l.pkg l.cell fun t => t.putSpad l.off bs
  | .bstore => s.mapCell l.pkg l.cell fun t =>
      { t with bstore := cellsWrite t.bstore l.off bs, bPoison := clearPoison t.bPoison l.off bs.length 8 }
  | .opbuf => s.mapCell l.pkg l.cell fun t =>
      { t with opbuf := cellsWrite t.opbuf l.off bs
               opBad := t.opBad.filter fun i => !(decide (l.off ≤ i) && decide (i < l.off + bs.length)) }
  | .control => s
  | .hbm => s.mapPkg l.pkg fun k =>
      { k with hbm := cellsWrite k.hbm l.off bs, hbmPoison := clearPoison k.hbmPoison l.off bs.length 32 }
  | .ddr => s.mapPkg l.pkg fun k =>
      { k with ddr := cellsWrite k.ddr l.off bs, ddrPoison := clearPoison k.ddrPoison l.off bs.length 32 }

/-! ## Protected writes -/


/-- Whether the controller performs a protected write now: in NORMAL, with no delta of the sector outstanding (R343,
R347). -/
def Pkg.protReady (k : Pkg) (pa : Nat) : Bool :=
  let g := k.prot
  g.mode == .normal && !k.deltaOut ((pa - g.base) / 4096) ((pa - g.base) % 4096 / 32)

/-- Whether a place lets a read be performed now: no sector that can be reconstructed awaits it (R352). -/
def State.readReady (s : State) (l : Loc) : Bool := !(l.store == .hbm && s.canReconstruct l.pkg (l.off / 32))

/-- Counts a protected write whose parity acknowledgement is outstanding at its issuer (R350). -/
def State.countParity (s : State) : Issuer → State
  | .slot g _ => s.mapSlot g fun t => { t with parityOut := t.parityOut + 1 }
  | .copy p c x _ _ => s.mapCell p c fun t =>
      { t with ctxs := Table.put t.ctxs x.toNat { Table.get {} t.ctxs x.toNat with
          parityOut := (Table.get ({} : CopyCtx) t.ctxs x.toNat).parityOut + 1 } }
  | .host _ | .hub => s

/-- Whether a slot has issued a write. -/
def Issuer.isSlot (i : Issuer) (g : GRef) : Bool := match i with | .slot h _ => h == g | _ => false

/-- The package whose host function issued a write, of the number that it bears (R401). -/
def hostPkg (n : Nat) : PkgId := BitVec.ofNat 12 n

/-- A captured write of the host is survivable; with the last of them SVDONE reads 1 (R401). -/
def Pkg.released (k : Pkg) (n : Nat) : Pkg :=
  let c := k.svCaptured.filter (· != n)
  { k with svCaptured := c, svdone := if k.svdone = 0 ∧ c = [] then 1 else k.svdone }

/-- A write that produces no delta leaves nothing for SVDONE to wait for. -/
def State.noParity (s : State) : Issuer → State
  | .host n => s.mapPkg (hostPkg n) fun k => k.released n
  | _ => s

/-- A PROTECTED WRITE of bytes of one sector (R347): the sector and its phase change at once, and its delta sets out. A
write to a sector that stays poisoned follows R352 and R337. -/
def protWrite (s : State) (l : Loc) (addr : Word) (new : List (Nat × Byte)) (i : Issuer) : State :=
  let k := s.pkgAt l.pkg
  let g := k.prot
  let n := (l.off - g.base) / 4096
  let sec := (l.off - g.base) % 4096 / 32
  let a := g.base + 4096 * n + 32 * sec
  let old := k.protSector n sec
  let upd := (List.range 32).map fun j => match new.find? (·.1 == a + j) with | some e => e.2 | none => old.getD j 0
  let cover := (List.range 32).all fun j => new.any (·.1 == a + j)
  let ph := k.tag n sec % 2 == 0
  if k.protPoisoned n sec then
    let s := s.noParity i
    if cover then
      recompute (s.mapPkg l.pkg fun k => (k.putProtSector n sec upd).putTag n sec (putBit (k.tag n sec) 0 ph)) g n sec
    else s.mapPkg l.pkg fun k => { k with hbm := cellsWrite k.hbm a upd }
  else
    let s := s.mapPkg l.pkg fun k =>
      let k := (k.putProtSector n sec upd).putTag n sec (putBit (k.tag n sec) 0 ph)
      { k with nextDelta := k.nextDelta + 1
               deltas := k.deltas ++ [{ id := k.nextDelta, frame := n, sector := sec, phase := ph
                                        bytes := xorBytes old upd, stage := .toP, issuer := i, addr := addr
                                        since := k.time }] }
    s.countParity i

/-- Writes the bytes of one sector's part of a write: a protected write, or a plain one. -/
def State.storeBytes (s : State) (l : Loc) (addr : Word) (bs : List Byte) (i : Issuer) : State :=
  if l.prot then protWrite s l addr (bs.zipIdx.map fun e => (l.off + e.2, e.1)) i else s.poke l bs

/-- Marks the sector of a place in device memory poisoned (R337). -/
def State.poisonPlace (s : State) (l : Loc) : State :=
  s.mapPkg l.pkg fun k => match l.store with
    | .ddr => { k with ddrPoison := k.ddrPoison.insert (l.off / 32) }
    | _ => { k with hbmPoison := k.hbmPoison.insert (l.off / 32) }

/-- Whether a write to a place is performed now, as far as protection goes: it reads the old value first (R347, R352). -/
def State.storeReady (s : State) (l : Loc) : Bool := !l.prot || ((s.pkgAt l.pkg).protReady l.off && s.readReady l)

end Sys2Proof.Machine
end

