-- ==== Sys2Proof/Machine/Access.lean ====
section
/-! DEFINITION. How accesses are performed and issued (R165-R184, R279-R281, R378, R426): the effect of each kind of
operation at its owner, the waiter table of a cell, and the one way in which an instruction issues an access. -/

namespace Sys2Proof.Machine

/-! ## Operations of a slot -/

/-- The operation of a slot with an identifier. -/
def State.opOf (s : State) (g : GRef) (id : Nat) : Option Op := (s.slotAt g).ops.find? (·.id == id)
/-- Changes an operation of a slot. -/
def State.mapOp (s : State) (g : GRef) (id : Nat) (f : Op → Op) : State :=
  s.mapSlot g fun t => { t with ops := t.ops.map fun o => if o.id = id then f o else o }
/-- Removes an operation of a slot. -/
def State.dropOp (s : State) (g : GRef) (id : Nat) : State :=
  s.mapSlot g fun t => { t with ops := t.ops.filter (·.id != id) }

/-- Whether an operation goes to another cell or to device memory through window 1 or 2 (R166). -/
def Op.leaves (o : Op) : Bool := o.path == .remote || o.path == .edge || o.units.any fun u => u.path != .local
/-- Whether an operation accesses the own cell through window 0. -/
def Op.atHome (o : Op) : Bool := o.units.any fun u => u.path == .local

/-- Whether a release waits for an operation: a store, an atomic, a remote operation, an arrival or a WAKE, and a load of the
own cell that has not been performed (R169, R276, R425). -/
def Op.beforeRelease (o : Op) : Bool :=
  match o.act with
  | .load _ => o.leaves || !o.performed
  | .store | .xacc _ | .atom _ | .fe _ | .monitor _ | .nclaim | .arrive _ | .wake _ => true
  | .barq _ => o.leaves
  | .resume _ _ => true
  | .query _ | .record _ | .value | .launch _ => false

/-- Whether an acquire fence waits for an operation: a load, a value-returning atomic or a full/empty read (R184). -/
def Op.beforeAcquire (o : Op) : Bool :=
  match o.act with
  | .load _ | .atom _ | .fe _ | .nclaim | .barq _ => !o.posted
  | _ => false

/-- Whether an acquire whose value has not been written holds the slot's memory accesses (R169). -/
def Slot.acquiring (t : Slot) : Bool := t.ops.any fun o => o.acq && !o.orphan
/-- Whether a release of the slot must wait (R169); at `.sv` for the parity acknowledgements too (R350). -/
def Slot.releaseWaits (t : Slot) (sv : Bool) : Bool :=
  t.ops.any (fun o => o.beforeRelease && !o.orphan) || (sv && t.parityOut != 0)
/-- The stop of an instruction that waits for the refused operations `f` selects, and at `.sv` for parity acknowledgements,
when there is something to report to it (R355, R425). -/
def Slot.toReport (t : Slot) (sv : Bool) (f : RefusedOp → Bool) : Option Issue :=
  let ops := t.refused.filter fun e => f e.2
  if !ops.isEmpty || (sv && t.parityLost.isSome) then some (.fenced ops sv) else none

/-- Whether an order holds later accesses back, or makes the access wait, at a scope (R169). -/
def acquires (c : Scope) (o : Order) : Bool := c != .sl && (o == .acq || o == .ar)
/-- Whether an order is a release at a scope. -/
def releases (c : Scope) (o : Order) : Bool := c != .sl && (o == .rel || o == .ar)

/-! ## What an operation does at its owner -/

/-- The new value of an atomic (R181, R182). -/
def AtomOp.apply (f : AtomOp) (n : Nat) (old b new : Word) : Word :=
  let w := 8 * n
  let o : BitVec (8 * n) := old.setWidth w
  let b' : BitVec (8 * n) := b.setWidth w
  match f with
  | .add => (o + b').setWidth 64
  | .and => (o &&& b').setWidth 64
  | .or => (o ||| b').setWidth 64
  | .xor => (o ^^^ b').setWidth 64
  | .min => (minS o b').setWidth 64
  | .max => (maxS o b').setWidth 64
  | .minu => (minU o b').setWidth 64
  | .maxu => (maxU o b').setWidth 64
  | .swap => b'.setWidth 64
  | .cas => if o = b' then (new.setWidth w : BitVec (8 * n)).setWidth 64 else o.setWidth 64
  | .fadd => BitVec.ofNat 64 (fp32.addV .near (fp32.unpack o.toNat) (fp32.unpack b'.toNat)).1
  | .fmax => BitVec.ofNat 64 (fp32.minmax true o.toNat b'.toNat).1

/-- Zero- or sign-extends `n` bytes (R171). -/
def extend (signed : Bool) (n x : Nat) : Word :=
  if signed then BitVec.ofInt 64 (BitVec.ofNat (8 * n) x).toInt else BitVec.ofNat 64 x

/-- The bytes an element stores. -/
def Elt.bytes (e : Elt) : List Byte := leBytes e.n e.val.toNat

/-- Reads elements, or names the first poisoned one. -/
def readElts (s : State) (signed : Bool) : List Elt → Except FaultInfo (List (Nat × Word))
  | [] => .ok []
  | e :: t =>
    match s.peek e.loc e.n with
    | none => .error (eccFault e.addr e.loc)
    | some b => (readElts s signed t).map fun r => (e.lane, extend signed e.n (leNat b)) :: r

/-- Performs the atomics of elements in lane order. DESIGN CHOICE: an ACAS that fails on a protected sector writes the old value
back, a protected write with a delta of zero (R349), where R182 could make it a load (log 42). -/
def atomElts (f : AtomOp) (i : Issuer) : State → List Elt → State × List (Nat × Word)
  | s, [] => (s, [])
  | s, e :: t =>
    let old := BitVec.ofNat 64 (leNat ((s.peek e.loc e.n).getD []))
    let s := s.storeBytes e.loc e.addr (leBytes e.n (f.apply e.n old e.val e.val2).toNat) i
    let r := atomElts f i s t
    (r.1, (e.lane, old) :: r.2)

/-- Whether a poisoned unit stands among the bytes of the elements. -/
def poisonOf (s : State) (es : List Elt) : Option FaultInfo :=
  (es.find? fun e => (s.peek e.loc e.n).isNone).map fun e => eccFault e.addr e.loc

/-- Writes the elements in ascending lane order, so that the highest lane's bytes stay (R179); a protected sector's
part is one protected write (R349). -/
def storeElts (s : State) (i : Issuer) (es : List Elt) : State :=
  match es with
  | [] => s
  | e :: _ =>
    if e.loc.prot then
      protWrite s e.loc e.addr (es.reverse.flatMap fun e => e.bytes.zipIdx.map fun b => (e.loc.off + b.2, b.1)) i
    else es.foldl (fun s e => s.poke e.loc e.bytes) s

/-- NCLAIM on the 16 bytes of a nest counter (R192). -/
def nclaimStep (s : State) (e : Elt) : State × List (Nat × Word) :=
  let b := (s.peek e.loc 16).getD []
  let next := leNat (b.take 8)
  let w := leNat (b.drop 8)
  let last := w % 2 ^ 48
  let div := if w / 2 ^ 48 = 0 then 1 else w / 2 ^ 48
  let rem := last - next
  let c := if rem = 0 then 0 else Nat.min rem (Nat.max 1 ((rem + div - 1) / div))
  (s.poke e.loc (leBytes 8 (next + c)), [(0, BitVec.ofNat 64 next), (1, BitVec.ofNat 64 c)])

/-- The index of the 4-byte word of an element. -/
def Elt.word (e : Elt) : Nat := e.loc.off / 4
/-- Whether the word of an element is full (R172). -/
def State.wordFull (s : State) (e : Elt) : Bool := !((s.cellAt e.loc.pkg e.loc.cell).spadEmpty.has e.word)
/-- Sets the full/empty bit of the word of an element. -/
def State.setWord (s : State) (full : Bool) (e : Elt) : State :=
  s.mapCell e.loc.pkg e.loc.cell fun t =>
    { t with spadEmpty := if full then t.spadEmpty.erase e.word else t.spadEmpty.insert e.word }

/-- Whether every word is in the state a full/empty operation waits for (R173, R180). -/
def feReady (s : State) (f : FeOp) (es : List Elt) : Bool :=
  match f with
  | .ldfe | .ldf | .stf => es.all s.wordFull
  | .stfe => es.all fun e => !s.wordFull e
  | .feset | .feclr | .feget => true

/-- A full/empty operation on its words, all in one step (R173, R180): its effect, or the ECC fault of a poisoned
word. -/
def feStep (s : State) (f : FeOp) (es : List Elt) : Except FaultInfo (State × List (Nat × Word)) :=
  match poisonOf s es with
  | some x => .error x
  | none =>
    let vals : List (Nat × Word) := match readElts s false es with | .ok v => v | .error _ => []
    match f with
    | .feset => .ok (es.foldl (fun s e => s.setWord true e) s, [])
    | .feclr => .ok (es.foldl (fun s e => s.setWord false e) s, [])
    | .ldfe => .ok (es.foldl (fun s e => s.setWord false e) s, vals)
    | .ldf => .ok (s, vals)
    | .stfe => .ok (es.foldl (fun s e => (s.poke e.loc e.bytes).setWord true e) s, [])
    | .stf => .ok (es.foldl (fun s e => s.poke e.loc e.bytes) s, [])
    | .feget => .ok (s, es.map fun e => (e.lane, if s.wordFull e then 1 else 0))

/-- Whether a full/empty or monitor operation can proceed, and what it then does; none where it must wait. -/
def waitStep (s : State) (a : Act) (es : List Elt) : Option (Except FaultInfo (State × List (Nat × Word))) :=
  match a with
  | .fe f =>
    match poisonOf s es with
    | some x => some (.error x)
    | none => if feReady s f es then some (feStep s f es) else none
  | .monitor ne =>
    match es with
    | [] => some (.ok (s, []))
    | e :: _ =>
      match s.peek e.loc e.n with
      | none => some (.error (eccFault e.addr e.loc))
      | some b =>
        let eq := leNat b == e.val.toNat % 2 ^ (8 * e.n)
        if eq != ne then some (.ok (s, [])) else none
  | _ => none

/-- An operation has been performed: its result reaches a twin's operation of the same number too (R379). -/
def finishOp (s : State) (g : GRef) (id : Nat) : State :=
  match s.opOf g id with
  | none => s
  | some o =>
    match o.num, (s.slotAt g).member with
    | some (n, _), some m =>
      match m.partner with
      | some w =>
        if m.twin then s
        else
          let give (x : Op) : Op :=
            if x.shadow && (x.num.map (·.1)) == some n then { x with performed := true, got := o.got, fault := o.fault } else x
          s.mapSlot w fun t => { t with ops := t.ops.map give, replay := t.replay.map give }
      | none => s
    | _, _ => s

/-- Whether two elements share bytes of one place. -/
def Elt.overlaps (a b : Elt) : Bool :=
  a.loc.store == b.loc.store && a.loc.pkg == b.loc.pkg && a.loc.cell == b.loc.cell &&
    decide (a.loc.off < b.loc.off + b.n) && decide (b.loc.off < a.loc.off + a.n)

/-- Whether an operation is WAITEQ or WAITNE. -/
def Act.monitors : Act → Bool
  | .monitor _ => true
  | _ => false

/-- The first waiter that can proceed among those `pick` selects, with what it does (R174). An operation of the own cell that
is still queued at the slot port keeps its place: it is not tried there, and nothing after it takes its words from it. -/
def firstReady (s : State) (pick : Act → Bool) : List Elt → List (GRef × Nat) →
    Option ((GRef × Nat) × Except FaultInfo (State × List (Nat × Word)))
  | _, [] => none
  | ahead, w :: t =>
    match s.opOf w.1 w.2 with
    | none => firstReady s pick ahead t
    | some o =>
      let es := o.units.flatMap (·.elts)
      if pick o.act && o.waiting && !(!o.act.monitors && es.any fun a => ahead.any a.overlaps) then
        match waitStep s o.act es with
        | some res => some (w, res)
        | none => firstReady s pick ahead t
      else firstReady s pick (if o.act.monitors || o.waiting then ahead else es ++ ahead) t

/-- Takes an operation out of the waiters of a cell. -/
def State.leaveWaiters (s : State) (p : PkgId) (c : CellId) (w : GRef × Nat) : State :=
  s.mapCell p c fun t => { t with waiters := t.waiters.filter (· != w) }

/-- Tries the waiters of a cell until none can proceed: WAITEQ and WAITNE first, since every write is tested by all of them
(R176), then the full/empty operations, from the one that has waited longest (R174). Each one that is performed may write
or change a bit, after which they are tried afresh. -/
def settleFrom : Nat → State → PkgId → CellId → State
  | 0, s, _, _ => s
  | n + 1, s, p, c =>
    let l := (s.cellAt p c).waiters
    match (firstReady s Act.monitors [] l).orElse fun _ => firstReady s (fun a => !a.monitors) [] l with
    | none => s
    | some (w, res) =>
      let s := match res with
        | .ok (s', got) => s'.mapOp w.1 w.2 fun o => { o with performed := true, waiting := false, got := got }
        | .error f => s.mapOp w.1 w.2 fun o => { o with performed := true, waiting := false, fault := some f }
      settleFrom n ((finishOp s w.1 w.2).leaveWaiters p c w) p c

/-- The waiters of a cell are tried after a write or a change of a full/empty bit. -/
def State.settle (s : State) (p : PkgId) (c : CellId) : State :=
  match (s.cellAt p c).waiters with
  | [] => s
  | w => settleFrom w.length s p c

/-- Clears the poison of the units of a place that the performed stores of an operation cover together; in unprotected device
memory only those of a vector store at an aligned base do (R337, log 40). -/
def clearCovered (s : State) (o : Op) (e : Elt) : State :=
  let size := match e.loc.store with | .hbm | .ddr => 32 | _ => 8
  let done := (o.units.filter (·.done)).flatMap (·.elts)
  let same (x : Elt) : Bool := x.loc.store == e.loc.store && x.loc.pkg == e.loc.pkg && x.loc.cell == e.loc.cell
  let covered (u : Nat) : Bool := (List.range size).all fun j =>
    done.any fun x => same x && decide (x.loc.off ≤ u * size + j) && decide (u * size + j < x.loc.off + x.n)
  let us := unitsOf e.loc.off e.n size
  match e.loc.store with
  | .spad => s.mapCell e.loc.pkg e.loc.cell fun t =>
      let gone := t.spadPoison.filter fun u => us.contains u && covered u
      { t with spadPoison := t.spadPoison.filter fun u => !gone.contains u
               spadEmpty := t.spadEmpty.filter fun w => !gone.contains (w / 2) }
  | .bstore => s.mapCell e.loc.pkg e.loc.cell fun t =>
      { t with bPoison := t.bPoison.filter fun u => !(us.contains u && covered u) }
  | .hbm => if e.loc.prot || !o.wide then s else s.mapPkg e.loc.pkg fun k =>
      { k with hbmPoison := k.hbmPoison.filter fun u => !(us.contains u && covered u) }
  | .ddr => if !o.wide then s else s.mapPkg e.loc.pkg fun k =>
      { k with ddrPoison := k.ddrPoison.filter fun u => !(us.contains u && covered u) }
  | _ => s

/-- The units of an operation that are performed with unit `u`: a store to a protected sector takes all units of the
operation in that sector as one write (R349). -/
def Op.together (o : Op) (u : Nat) : List Nat :=
  match o.units[u]? with
  | none => []
  | some x =>
    match o.act, x.elts.head? with
    | .store, some e =>
      if e.loc.prot then
        (List.range o.units.length).filter fun j => match o.units[j]? with
          | some y => !y.done && (y.elts.head?.map fun f => f.loc.pkg == e.loc.pkg && f.loc.off / 32 == e.loc.off / 32) == some true
          | none => false
      else [u]
    | _, _ => [u]

/-- What an operation does on a set of its elements at their owner. A waiting operation answers none where it must
wait. -/
def Act.effect (a : Act) (s : State) (i : Issuer) (es : List Elt) : Option (Except FaultInfo (State × List (Nat × Word))) :=
  match a with
  | .load sg => some ((readElts s sg es).map fun v => (s, v))
  | .store => some (.ok (storeElts s i es, []))
  | .atom f => some (match poisonOf s es with | some x => .error x | none => .ok (atomElts f i s es))
  | .nclaim => some (match es with
      | [] => .ok (s, [])
      | e :: _ => match s.peek e.loc 16 with | none => .error (eccFault e.addr e.loc) | some _ => .ok (nclaimStep s e))
  | .fe _ | .monitor _ => waitStep s a es
  | .barq _ => some ((readElts s false es).map fun v => (s, v))
  | _ => some (.ok (s, []))

/-- Whether an operation may be sent or performed: it has not been performed, it does not wait for a comparison, nor
for a resend (R174, R379). -/
def Op.live (o : Op) : Bool := !o.performed && !o.held && !o.shadow && !o.waiting && !o.resend

/-- Whether an atomic has performed some of its units: it is then never issued again as a whole (log 37). -/
def Op.begun (o : Op) : Bool :=
  match o.act with
  | .atom _ => o.units.any fun u => u.done && u.fault.isNone
  | _ => false

/-- The fault that a unit of an atomic finds in a unit of the operation that has not been performed: a faulting instruction
performs no access, so all are looked at before one is performed (R23, R284). -/
def Op.atomPoison (o : Op) (s : State) : Option FaultInfo :=
  match o.act with
  | .atom _ => poisonOf s ((o.units.filter fun u => !u.done).flatMap (·.elts))
  | _ => none

/-- Marks units of an operation done, with what they read or the fault they met. -/
def Op.note (o : Op) (us : List Nat) (got : List (Nat × Word)) (f : Option FaultInfo) : Op :=
  let units := o.units.zipIdx.map fun p => if us.contains p.2 then { p.1 with done := true, fault := f } else p.1
  { o with units := units, got := o.got ++ got, fault := (units.findSome? (·.fault)).orElse fun _ => o.fault
           performed := units.all (·.done) }

/-- The units of an operation that have not been performed. -/
def Op.undone (o : Op) : List Nat :=
  (List.range o.units.length).filter fun j => !((o.units[j]?.map (·.done)).getD true)

/-- An operation that has been tried at its owner and must wait there: it joins the cell's waiters, unless it stands among
them since its issue, or is returned when 64 remote ones wait (R174). -/
def State.beginWait (s : State) (g : GRef) (o : Op) (p : PkgId) (c : CellId) : State :=
  let t := s.cellAt p c
  let away := t.waiters.filter fun w => w.1.pkg != p || w.1.cell != c || ((s.opOf w.1 w.2).map Op.leaves).getD false
  if o.leaves && decide (64 ≤ away.length) then s.mapOp g o.id fun o => { o with resend := true }
  else
    let s := s.mapCell p c fun t => { t with waiters := if t.waiters.contains (g, o.id) then t.waiters else t.waiters ++ [(g, o.id)] }
    (s.mapOp g o.id fun o => { o with waiting := true }).settle p c

/-- PERFORMS a unit of an operation at its owner (R166, R321), or makes it wait there (R174). -/
def performUnit (s : State) (g : GRef) (id u : Nat) : State :=
  match s.opOf g id with
  | none => s
  | some o =>
    let us := o.together u
    let es := us.flatMap fun j => (o.units[j]?.map (·.elts)).getD []
    match es.head?, o.atomPoison s with
    | none, _ => s
    | some _, some f => finishOp (s.mapOp g id fun o => o.note o.undone [] (some f)) g id
    | some e, none =>
      match o.act.effect s (if o.orphan then .hub else .slot g o.colour) es with
      | none => s.beginWait g o e.loc.pkg e.loc.cell
      | some (.error f) =>
        finishOp ((s.mapOp g id fun o => o.note us [] (some f)).leaveWaiters e.loc.pkg e.loc.cell (g, id)) g id
      | some (.ok (s', got)) =>
        let s' := (s'.mapOp g id fun o => o.note us got none).leaveWaiters e.loc.pkg e.loc.cell (g, id)
        let s' := match o.act, s'.opOf g id with
          | .store, some o' => es.foldl (fun s e => clearCovered s o' e) s'
          | _, _ => s'
        let s' := finishOp s' g id
        match e.loc.store with
        | .spad => s'.settle e.loc.pkg e.loc.cell
        | _ => s'

/-! ## Issuing an access -/

/-- How an access splits into atomicity units (R279). -/
inductive Grouping where | each | quads | whole
  deriving DecidableEq, Repr, Inhabited

/-- An element before its address is resolved: lane, address, size, operands. -/
abbrev RawElt := Nat × Word × Nat × Word × Word

/-- What a memory instruction asks for. -/
structure MemReq where
  act : Act
  acc : Acc
  scope : Scope := .sl
  order : Order := .rlx
  raw : List RawElt
  group : Grouping := .each
  dst : Dest := .none
  mask : BitVec 32 := 0
  posted : Bool := false
  waits : Bool := false
  wide : Bool := false
  deriving DecidableEq, Repr, Inhabited

/-- The registers of a destination. -/
def Dest.regs : Dest → List RegRef
  | .none => []
  | .scalar r => [.s r]
  | .pair r => [.s r, .s (r + 1)]
  | .vector r => [.v r]
  | .vpair r => [.v r, .v (r + 1)]

/-- The path of a place as accessed from a window (R166). -/
def pathOf (a : Word) : Path :=
  let w := a.toNat / 2 ^ 60
  if w = 0 then .local else if w = 1 then .remote else .edge

/-- Checks 1 to 3 of R165 on every element, the lowest lane first. They come before the translation of any: a vector access
with a PAGE fault in a lower lane and an ALIGN or PROT fault of these checks in a higher one takes the latter (R165 fixes
the order for one address only). DEDUCED, log 27. -/
def locateAll (s : State) (g : GRef) (pid : BitVec 16) (k : Acc) : List RawElt → Except FaultInfo (List (RawElt × Option Loc))
  | [] => .ok []
  | e :: t =>
    match locate s g.pkg g.cell pid e.2.1 e.2.2.1 k with
    | .error f => .error f
    | .ok l => (locateAll s g pid k t).map fun r => (e, l) :: r

/-- Translates the window-2 elements, the lowest lane first. -/
def translateAll (g : GRef) (pid : BitVec 16) (k : Acc) : State → List (RawElt × Option Loc) → State × Except FaultInfo (List Elt)
  | s, [] => (s, .ok [])
  | s, (e, some l) :: t =>
    let r := translateAll g pid k s t
    (r.1, r.2.map fun es => { lane := e.1, addr := e.2.1, n := e.2.2.1, val := e.2.2.2.1, val2 := e.2.2.2.2, loc := l } :: es)
  | s, (e, none) :: t =>
    let x := translate s g.pkg g.cell pid e.2.1 k
    match x.2 with
    | .error f => (x.1, .error f)
    | .ok l =>
      let r := translateAll g pid k x.1 t
      (r.1, r.2.map fun es => { lane := e.1, addr := e.2.1, n := e.2.2.1, val := e.2.2.2.1, val2 := e.2.2.2.2, loc := l } :: es)

/-- Every check of R165 on the elements of an access. -/
def checkElts (s : State) (g : GRef) (pid : BitVec 16) (k : Acc) (raw : List RawElt) : State × Except FaultInfo (List Elt) :=
  match locateAll s g pid k raw with
  | .error f => (s, .error f)
  | .ok ls => translateAll g pid k s ls

/-- Splits elements into units (R279): four consecutive lanes from a multiple of four, all present, form one unit of an
access whose base is a multiple of 16. -/
def groupElts (gr : Grouping) (es : List Elt) : List OpUnit :=
  let one (e : Elt) : OpUnit := { path := pathOf e.addr, elts := [e] }
  match gr with
  | .each => es.map one
  | .whole => match es with | [] => [] | e :: _ => [{ path := pathOf e.addr, elts := es }]
  | .quads => (List.range 8).flatMap fun q =>
      let part := es.filter fun e => e.lane / 4 == q
      if part.length = 4 then (match part with | [] => [] | e :: _ => [{ path := pathOf e.addr, elts := part }])
      else part.map one

/-- One step of CRC-32C, reflected (R378). -/
def crcBits : Nat → Nat → Nat
  | 0, c => c
  | n + 1, c => crcBits n (if c % 2 = 1 then (c / 2) ^^^ 0x82F63B78 else c / 2)
/-- CRC-32C of bytes: polynomial 0x1EDC6F41, initial value and final complement of ones (R378). -/
def crc32c (b : List Byte) : BitVec 32 :=
  BitVec.ofNat 32 ((b.foldl (fun c x => crcBits 8 (c ^^^ x.toNat)) 0xFFFFFFFF) ^^^ 0xFFFFFFFF)

/-- The major, minor, size, scope and order of an instruction word, without its register fields (R57, R378). -/
def imageTag (w : BitVec 32) : Nat :=
  let m := major w
  if m = 0x20 ∨ m = 0x27 ∨ m = 0x29 ∨ 0x2A ≤ m then m * 4096 + fld w 7 5 * 128 + (if m < 0x2A then fld w 0 7 else 0)
  else if m = 0x21 ∨ m = 0x22 then m * 4096 + fld w 0 14
  else m * 4096 + fld w 0 7

/-- The data bytes that an operation sends with an element: a load sends none, ACAS two values (R182, R378). -/
def Act.sends (a : Act) (e : Elt) : List Byte :=
  match a with
  | .load _ | .fe .ldfe | .fe .ldf | .fe .feset | .fe .feclr | .fe .feget => []
  | .atom .cas => e.bytes ++ leBytes e.n e.val2.toNat
  | _ => e.bytes

/-- The hash of an operation's request image (R378). -/
def requestHash (w : BitVec 32) (mask : BitVec 32) (addrs : List Word) (data : List Byte) : BitVec 32 :=
  crc32c (leBytes 4 (imageTag w) ++ leBytes 4 mask.toNat ++ addrs.flatMap (fun a => leBytes 8 a.toNat) ++ data)

/-- Numbers an operation that leaves the cell of a redundant group's slot: the primary's is held until the twin's hash
arrives, the twin's is never sent (R303, R378, R379). -/
def State.enrol (s : State) (g : GRef) (o : Op) (addrs : List Word) (data : List Byte) : State × Op :=
  let t := s.slotAt g
  match t.member with
  | some m =>
    if m.partner.isSome then
      let h := requestHash ((t.curWords 1).headD 0) o.mask addrs data
      let o := { o with num := some (m.opNum, h), held := !m.twin, shadow := m.twin }
      (s.mapSlot g fun t => { t with member := some { m with opNum := m.opNum + 1 } }, o)
    else (s, o)
  | none => (s, o)

/-- Whether the slot awaits an operation's answer to be precise about its fault: one with a result, or FESET or FECLR, whose
words may be poisoned (R23, R338). -/
def Op.precise (o : Op) : Bool :=
  !o.posted || (match o.act with | .fe _ => true | _ => false)

/-- Puts an operation among those the slot has issued, its destination pending (R19). -/
def State.addOp (s : State) (g : GRef) (o : Op) : State :=
  s.mapSlot g fun t =>
    let t := if o.posted then t else o.dst.regs.foldl (fun t r => t.setFe r .pending) t
    { t with ops := t.ops ++ [o], nextOp := t.nextOp + 1, lastOp := if o.precise then some o.id else none }

/-- A new operation of a slot, as its instruction at hand issues it. -/
def Ctx.newOp (c : Ctx) (a : Act) (p : Path) (dst : Dest) : Op :=
  let t := c.slot
  { id := t.nextOp, head := t.head, pos := t.pos, loops := t.loops, act := a, path := p, dst := dst
    mask := t.active, pid := t.pid, since := c.s.cycleAt c.g.pkg, took := c.took, launch := t.member.map fun m => (m.graph, m.launch)
    prevFe := dst.regs.map fun r => (r, if c.took.contains r then .full else t.fe r)
    colour := c.s.colourOf c.g }

/-- The operations that the slot has issued and that have not been performed, those that faulted or were refused among
them (R426). -/
def Slot.unperformed (t : Slot) : Nat := (t.ops.filter fun o => (!o.performed || o.fault.isSome) && !o.orphan).length

/-- Whether a stream of the slot holds elements that it has appended and that have not been written (R209). -/
def State.streamsOut (s : State) (g : GRef) : Bool :=
  (s.cellAt g.pkg g.cell).streams.any fun e => e.2.output && e.2.mode != .free && e.2.owner == g.slot && !e.2.queue.isEmpty

/-- Whether a release of the slot at hand must wait (R169, R209, R350). -/
def Ctx.releaseWaits (c : Ctx) (sv : Bool) : Bool := c.slot.releaseWaits sv || c.s.streamsOut c.g

/-- Why a release may not be performed in this turn: earlier operations (R169), or a refused one to report (R425). -/
def Ctx.releaseHold (c : Ctx) (sv : Bool) : Option Issue :=
  if c.releaseWaits sv then some .hold else c.slot.toReport sv fun _ => true

/-- Why an access may not issue in this turn: an acquire or its own release holds it (R169), or a refused operation is
reported to it (R425). -/
def Ctx.orderHold (c : Ctx) (k : Scope) (o : Order) : Option Issue :=
  if c.slot.acquiring then some .hold else if releases k o then c.releaseHold (k == .sv) else none

/-- The REDUNDANCY fault of an operation (R379). -/
def redundancyFault (code n : Nat) : FaultInfo := { kind := .redundancy, aux := BitVec.ofNat 64 (code + n * 2 ^ 32) }

/-- Whether the twin of a primary is TRAPPED or EXITED, or gone since (R379 code 3). -/
def State.twinLost (s : State) (m : Member) (w : GRef) : Bool :=
  let t := s.slotAt w
  let there := match t.member with | some n => n.graph == m.graph && n.launch == m.launch | none => false
  !there || t.mode == .trapped || t.mode == .exited

/-- The REDUNDANCY trap of a primary whose twin is TRAPPED or EXITED, or gone since (R379 code 3). -/
def Ctx.twinGone (c : Ctx) : Option Issue :=
  match c.slot.member with
  | some m =>
    match m.partner with
    | some w =>
      if !m.twin && c.s.twinLost m w then some (.trap (redundancyFault 3 m.opNum)) else none
    | none => none
  | none => none

/-- Issues an operation whose answer, or acknowledgement, comes later: a seventeenth waits (R426). -/
def Ctx.issueOp (c : Ctx) (o : Op) (addrs : List Word) (data : List Byte) : Issue :=
  if 16 ≤ c.slot.unperformed then .hold
  else match c.twinGone with
  | some i => i
  | none =>
    let n := c.s.enrol c.g o addrs data
    .done (n.1.addOp c.g n.2)

/-- Issues an operation that the routers of a redundant group do not compare (R378). -/
def Ctx.issueAlone (c : Ctx) (o : Op) : Issue := if 16 ≤ c.slot.unperformed then .hold else .done (c.s.addOp c.g o)

/-- The largest number of distinct 8-byte words of some elements that fall in one bank, at least 1 (R315, R316). DESIGN CHOICE: the
B-store, for which R315 gives no banks, has 16 of its own by the same offset bits (log 42). -/
def bankLoad (es : List Elt) : Nat :=
  let words := (es.flatMap fun e => (unitsOf e.loc.off e.n 8).map fun w => (e.loc.store == .spad, w)).eraseDups
  (List.range 32).foldl (fun m b => Nat.max m ((words.filter fun w => w.2 % 16 + (if w.1 then 0 else 16) == b).length)) 1

/-- The cycles for which an access occupies the slot port (R162, R316). -/
def portCycles (a : Act) (es : List Elt) : Nat :=
  match a with
  | .xacc (.add _ _) => 20
  | .xacc .merge => 30
  | .xacc (.read _) => 10
  | .atom _ | .nclaim => 2 * bankLoad es
  | _ => bankLoad es

/-- An access joins the queue of the slot port: it starts when it has issued and the accesses before it have ended, and is
performed, unit by unit, while it occupies the port (R316). With a bound, the hold of an exact sum, it and the accesses
before it have been performed by then, whatever other slots do (R162, log 24). -/
def State.atPort (s : State) (g : GRef) (id : Nat) (home : List Nat) (cycles : Nat) (bound : Option Nat := none) : State :=
  if home.isEmpty then s
  else
    let now := s.cycleAt g.pkg
    let cap (x : Nat) : Nat := match bound with | some n => Nat.min x (now + n) | none => x
    s.mapCell g.pkg g.cell fun t =>
      let start := Nat.max now t.portFree
      let job : PortJob := { slot := g.slot, op := id, left := home, start := start, till := start + cycles }
      { t with port := (t.port ++ [job]).map fun j => { j with start := cap j.start, till := cap j.till }
               portFree := cap (start + cycles) }

/-- A full/empty or monitor operation on the own cell begins to wait in its issue cycle (R174): it takes its place among the
waiters then, and is tried when the slot port serves it. -/
def State.listWaiter (s : State) (g : GRef) (id : Nat) : State :=
  s.mapCell g.pkg g.cell fun t => { t with waiters := t.waiters ++ [(g, id)] }

/-- Whether the fault of a translation is found only when the answer of a long-latency producer arrives (R23, R426): a free
choice, where every check before the translation has passed, the slot has room for the operation, and no twin takes part
(log 19). -/
def findsLate (s : State) (g : GRef) (r : MemReq) : Bool :=
  let t := s.slotAt g
  !r.posted && !r.waits && r.dst != .none && decide (t.unperformed < 16) && (t.member.bind (·.partner)).isNone &&
    (locateAll s g t.pid r.acc r.raw).isOk && Config.lateTranslation s.free

/-- The units of an operation whose translation faulted: none is performed (R165), and an element without a place stands
under its own address, past the end of device memory. -/
def faultedUnits (s : State) (g : GRef) (r : MemReq) (f : FaultInfo) : List OpUnit :=
  let whole := match locateAll s g (s.slotAt g).pid r.acc r.raw with | .ok l => l | .error _ => []
  let es : List Elt := whole.map fun e =>
    { lane := e.1.1, addr := e.1.2.1, n := e.1.2.2.1, val := e.1.2.2.2.1, val2 := e.1.2.2.2.2
      loc := e.2.getD { store := .hbm, pkg := g.pkg, off := 2 ^ 64 + e.1.2.1.toNat } }
  (groupElts r.group es).map fun u => { u with done := true, fault := some f }

/-- Issues a producer whose translation fault is found when its answer arrives (R426). -/
def Ctx.issueFaulted (c : Ctx) (s : State) (r : MemReq) (f : FaultInfo) : State :=
  let o := { c.newOp r.act .edge r.dst with
    units := faultedUnits s c.g r f, acq := acquires r.scope r.order, mask := r.mask, fault := some f, performed := true }
  s.draw.addOp c.g o

/-- ISSUES A MEMORY ACCESS (R165-R170): its order, its checks, the limit of R426, and the operation that carries its units,
those of the own cell to the slot port (R316). With no element nothing happens (R24). -/
def memIssue (c : Ctx) (r : MemReq) : Issue :=
  let t := c.slot
  if r.raw.isEmpty then .done c.s
  else match c.orderHold r.scope r.order with
  | some i => i
  | none =>
    let x := checkElts c.s c.g t.pid r.acc r.raw
    match x.2 with
    | .error f => if findsLate x.1 c.g r then .done (c.issueFaulted x.1 r f) else .trap f
    | .ok es =>
      let units := groupElts r.group es
      let away := units.any fun u => u.path != .local
      let path : Path := if units.any fun u => u.path == .remote then .remote else if away then .edge else .local
      if 16 ≤ t.unperformed then .hold
      else match (if away then c.twinGone else none) with
      | some i => i
      | none =>
        let home := (List.range units.length).filter fun j => ((units[j]?).map (·.path)) == some .local
        let blind := home.flatMap fun j => ((units[j]?).map (·.elts)).getD []
        let o := { c.newOp r.act path r.dst with
          units := units, posted := r.posted, acq := acquires r.scope r.order, mask := r.mask, wide := r.wide
          inTransit := es.all fun e => pathOf e.addr == .local || !x.1.boundaryRefuses c.g.pkg c.g.cell e.loc }
        let n := if away then x.1.enrol c.g o (es.map (·.addr)) (es.flatMap r.act.sends) else (x.1, o)
        let s := (n.1.addOp c.g n.2).atPort c.g o.id home (portCycles r.act blind)
        if r.waits then .park (if home.isEmpty then s else s.listWaiter c.g o.id) (.answer o.id) else .done s

end Sys2Proof.Machine
end

