-- ==== Sys2Proof/Machine/Fetch.lean ====
section
/-! DEFINITION. Fetching clauses and checking their words: headers (R47, R48), the instruction cache (R133, R134, R340),
the checks of steps 1 to 4 of R72, WAITQ (R53), and the check of a transfer's target (R55, R56). -/

namespace Sys2Proof.Machine

/-! ## Headers and words -/

/-- The fields of a header word (R47). -/
def headerOf (w : BitVec 32) : Header :=
  { mark := w.extractLsb' 16 8, wm := w.getLsbD 11, wc := w.getLsbD 10, wr := w.getLsbD 9, wl := w.getLsbD 8
    uni := w.getLsbD 7, cls := w.extractLsb' 4 3, count := w.extractLsb' 0 4 }

/-- The check of a word that stands where a header is due (R48). -/
def headerFault (w : BitVec 32) : Option Kind :=
  if major w ≠ 0x3E then some .clause
  else if w.extractLsb' 0 4 = 0 ∨ w.extractLsb' 4 3 = 7 then some .clause
  else if w.extractLsb' 12 4 ≠ 0 ∨ w.extractLsb' 24 2 ≠ 0 then some .illegal
  else none

/-- The class of a major (R51); 7 for a major of none. -/
def classOf (m : Nat) : Nat :=
  if (1 ≤ m ∧ m ≤ 0x0B) ∨ (0x12 ≤ m ∧ m ≤ 0x1B) then 0
  else if 0x20 ≤ m ∧ m ≤ 0x28 then 1
  else if m = 0x29 ∨ m = 0x2A then 2
  else if m = 0x2C ∨ m = 0x2D ∨ m = 0x2E ∨ m = 0x30 then 3
  else if (0x0C ≤ m ∧ m ≤ 0x11) ∨ m = 0x2F then 4
  else if m = 0x31 ∨ m = 0x32 then 5
  else 7

/-- The scalar majors that a clause with UNI = 1 may hold (R52). -/
def uniMajor (m : Nat) : Bool :=
  (decide (1 ≤ m) && decide (m ≤ 0x10)) || [0x20, 0x27, 0x29, 0x2A, 0x2D, 0x2F, 0x31, 0x32].contains m

/-- Whether an instruction must stand at position COUNT (R55). -/
def endsClause (w : BitVec 32) : Bool :=
  let m := major w
  let k := fld w 7 5
  m == 0x0C || m == 0x0D || (m == 0x0E && decide (fld w 0 5 < 2)) || m == 0x0F || m == 0x10 ||
  (m == 0x2F && (k == 2 || k == 3 || k == 4)) || (m == 0x31 && k == 2)

/-- Step 3 of R72 for the word at a clause position: class, UNI and placement (R51, R52, R55, R67, R68). -/
def misplaced (h : Header) (p : Nat) (w : BitVec 32) : Bool :=
  let m := major w
  let last := p == h.count.toNat
  if m = 0x33 then last
  else (h.cls != 6 && classOf m != h.cls.toNat) || (h.uni && !uniMajor m) || (endsClause w && !last) || (m == 0x0B && last)

/-- The source fields that an instruction word reads and a TAKE prefix may name: TA, TB (R66). -/
def takeable (w : BitVec 32) : Bool × Bool :=
  let m := major w
  let k := fld w 0 5
  let x := fld w 7 5
  let has (l : List Nat) (v : Nat) : Bool := l.contains v
  if m = 0x01 then (true, !has [27, 28, 29] k)
  else if 0x02 ≤ m ∧ m ≤ 0x08 then (true, false)
  else if m = 0x0D then (decide (fld w 19 7 < 6), false)
  else if m = 0x0E ∨ m = 0x10 then (true, false)
  else if m = 0x11 then (has [0, 1, 5, 6, 7, 9] k, false)
  else if m = 0x12 then (true, !has [16, 17, 24, 25] k)
  else if m = 0x13 ∨ m = 0x16 ∨ m = 0x17 then (true, true)
  else if m = 0x14 then (true, k != 17)
  else if m = 0x15 then (true, !has [10, 11, 17, 18, 19, 20, 21, 22, 23] k)
  else if m = 0x18 then (true, false)
  else if m = 0x19 then (!has [14, 17] k, has [0, 1, 2, 3, 4, 5, 13, 18, 19, 20, 21] k)
  else if m = 0x1B then (true, has [1, 2, 3] k)
  else if m = 0x20 then (has [2, 4, 6, 10, 11] x, true)
  else if m = 0x21 ∨ m = 0x23 ∨ m = 0x25 then (false, true)
  else if m = 0x22 ∨ m = 0x24 ∨ m = 0x26 ∨ m = 0x27 ∨ m = 0x28 then (true, true)
  else if m = 0x2A then (x == 0, has [0, 1, 2, 3, 4, 5, 6, 8, 9, 11] x)
  else if m = 0x2C then (has [0, 1] x, has [0, 1, 2, 4, 5, 6, 7] x)
  else if m = 0x2D then (false, has [0, 4] x)
  else if m = 0x2E then (has [4, 5, 8, 10] x, has [0, 2, 4, 5, 7, 8, 9, 10] x)
  else if m = 0x2F then (false, has [0, 2, 4, 5] x || (x == 3 && decide (fld w 19 7 < 6)))
  else if m = 0x30 then (x == 0 || x == 1 || x == 2, has [0, 1, 2, 4, 5] x)
  else if m = 0x31 then (x == 0 || (x == 6 && has [2, 4, 6, 8] (fld w 0 7)), has [0, 1, 3, 4, 6] x)
  else if m = 0x32 then (false, has [1, 2, 4, 7] x)
  else (false, false)

/-- Step 4 of R72 for a TAKE before a word (R66, R67). -/
def takeBad (w v : BitVec 32) : Bool :=
  let ta := w.getLsbD 25
  let tb := w.getLsbD 24
  (!ta && !tb) || fld w 0 24 != 0 || major v == 0x33 || major v == 0x0B ||
  (ta && !(takeable v).1) || (tb && !(takeable v).2)

/-- The words from a clause position on. -/
def Clause.from_ (c : Clause) (p : Nat) : List (BitVec 32) := c.words.drop (p - 1)

/-- Steps 1 to 4 of R72 for the words that stand at position `p` of a clause, a TAKE with the word it prefixes: the
fault, if one of them fails before the decoder's own checks. Where no word stands there, at a resume position above COUNT that
a supervisor has written (R267), the slot traps CLAUSE: R49 does not say. DESIGN CHOICE, log 28. -/
def wordFault (h : Header) (p : Nat) : List (BitVec 32) → Option Kind
  | [] => some .clause
  | w :: rest =>
    if major w = 0x3E then some .clause
    else if fmtOf (major w) = .none then some .illegal
    else if major w = 0x33 then
      match rest with
      | [] => some .clause
      | v :: _ =>
        if major v = 0x3E then some .clause
        else if fmtOf (major v) = .none then some .illegal
        else if misplaced h p w || misplaced h (p + 1) v then some .clause
        else if takeBad w v then some .illegal
        else none
    else if misplaced h p w then some .clause
    else none

/-- The words that the decoder must accept at a position: for a TAKE, those it prefixes too. -/
def mustDecode : List (BitVec 32) → List (List (BitVec 32))
  | [] => []
  | w :: rest => if major w = 0x33 then [w :: rest, rest] else [w :: rest]

/-- The instruction at position `p` of a clause, or the fault of steps 1 to 4 of R72. -/
noncomputable def decodeAt (c : Clause) (p : Nat) : Except Kind Instr :=
  let ws := c.from_ p
  match wordFault c.hdr p ws with
  | some k => .error k
  | none =>
    if (mustDecode ws).all fun l => match decode l with | .ok _ => true | .error _ => false then
      match decode ws with
      | .ok r => .ok r.1
      | .error _ => .error .illegal
    else .error .illegal

/-! ## The instruction cache -/

/-- The addresses of the 64-byte lines that `n` bytes from an address touch (R340). -/
def linesOf (h : Word) (n : Nat) : List Word :=
  (unitsOf h.toNat n 64).map fun u => BitVec.ofNat 64 (64 * u)

/-- The cached line at an address for a process. -/
def Cell.lineAt (t : Cell) (pid : BitVec 16) (a : Word) : Option IcLine := t.icache.find? fun l => l.pid == pid && l.line == a

/-- The window check of a code address (R56). -/
def codeWindow (a : Word) : Bool := a.toNat / 2 ^ 57 == 16

/-- The PROT of a code address outside window 2 (R56). -/
def codeProt (pid : BitVec 16) (a : Word) : FaultInfo := { kind := .prot, sector := a, aux := xlatWord pid 3 2 7 }

/-- Whether cached lines were memory's contents at one moment, that of some refill (R134, R340). -/
def oneMoment : List IcLine → Bool
  | [] => true
  | x :: t => x.moments.any fun n => t.all fun y => y.moments.has n

/-- Bytes of code from cached lines of one version; none where a line is missing, or where they are a mix of two. -/
def Cell.cachedBytes (t : Cell) (pid : BitVec 16) (h : Word) (n : Nat) : Option (List Byte) := do
  let ls ← (linesOf h n).mapM fun a => t.lineAt pid a
  if oneMoment ls then some (((ls.map (·.bytes)).flatten.drop (h.toNat % 64)).take n) else none

/-- The header word and clause words at an address, as the cache holds them; none on a miss. A word that is no header
stands alone. -/
def Cell.cachedClause (t : Cell) (pid : BitVec 16) (h : Word) : Option (BitVec 32 × List (BitVec 32)) := do
  let b ← t.cachedBytes pid h 4
  let w := (wordsOfBytes b).headD 0
  if major w = 0x3E then
    let n := fld w 0 4
    let ws ← t.cachedBytes pid h (4 * (1 + n))
    some (w, (wordsOfBytes ws).tail)
  else some (w, [])

/-- The bytes of the line of an address from memory under X (R340, R338). A fault is reported at that address: the header's
in the clause's first line, the start of a further line in that (R333). DEDUCED, log 28. -/
def readLine (s : State) (g : GRef) (pid : BitVec 16) (stale : Bool) (a : Word) : State × Except FaultInfo (List Byte) :=
  let s := s.mended g.pkg
  let r := translate s g.pkg g.cell pid a .fetch (some stale)
  match r.2 with
  | .error f => (r.1, .error f)
  | .ok l =>
    let l := { l with off := l.off - a.toNat % 64 }
    let start := a - BitVec.ofNat 64 (a.toNat % 64)
    let s := r.1.mended l.pkg
    match s.peek l 32, s.peek { l with off := l.off + 32 } 32 with
    | some x, some y => (s, .ok (x ++ y))
    | none, _ => (s, .error (eccFault start l))
    | some _, none => (s, .error (eccFault (start + 32) l))

/-- The address at which a refill for a header at `h` fetches a line. -/
def fetchAt (h line : Word) : Word := if line.toNat ≤ h.toNat then h else line

/-- Reads the lines of a clause into the cache at one moment, the cell's refill `n`, and stops at the first that faults
(R340). -/
def readLines (s : State) (g : GRef) (pid : BitVec 16) (stale : Bool) (n : Nat) (h : Word) : List Word → State × Option FaultInfo
  | [] => (s, none)
  | a :: t =>
    let r := readLine s g pid stale (fetchAt h a)
    match r.2 with
    | .error f => (r.1, some f)
    | .ok b =>
      let s := r.1.mapCell g.pkg g.cell fun c =>
        { c with icache := { pid := pid, line := a, bytes := b, moments := [n] } ::
                   c.icache.filter fun l => !(l.pid == pid && l.line == a) }
      readLines s g pid stale n h t

/-- Notes of the lines beside one that a refill has read whether they are what memory holds at that moment (R134). -/
def renewBeside (s : State) (g : GRef) (pid : BitVec 16) (stale : Bool) (n : Nat) (a : Word) : State :=
  [a - 64, a + 64].foldl (fun s b =>
    match (s.cellAt g.pkg g.cell).lineAt pid b with
    | none => s
    | some l => match (readLine s g pid stale b).2 with
      | .ok x =>
        if x = l.bytes then s.mapCell g.pkg g.cell fun c =>
          { c with icache := c.icache.map fun y => if y = l then { y with moments := y.moments.insert n } else y }
        else s
      | .error _ => s) s

/-- A REFILL of every line that the clause at `h` spans, as one read at a single moment (R340), or the fault that stops it. A
fault in a further line is found before the header is checked, where R48 leaves the order open. DESIGN CHOICE, log 28. -/
def refillClause (s : State) (g : GRef) (pid : BitVec 16) (h : Word) : State × Option FaultInfo :=
  if !codeWindow h then (s, some (codeProt pid h))
  else
    let stale := Config.useStale s.free
    let n := (s.cellAt g.pkg g.cell).fills + 1
    let s := s.draw.mapCell g.pkg g.cell fun c => { c with fills := n }
    let r := readLines s g pid stale n h (linesOf h 4)
    match r.2 with
    | some f => (r.1, some f)
    | none =>
      let w := match ((linesOf h 4).mapM fun a => ((r.1.cellAt g.pkg g.cell).lineAt pid a).map (·.bytes)) with
        | some b => (wordsOfBytes ((b.flatten.drop (h.toNat % 64)).take 4)).headD 0
        | none => 0
      let ls := if major w = 0x3E then linesOf h (4 * (1 + fld w 0 4)) else linesOf h 4
      let r := readLines r.1 g pid stale n h ls
      match r.2 with
      | some f => (r.1, some f)
      | none => (ls.foldl (fun s a => renewBeside s g pid stale n a) r.1, none)

/-- Whether the memory that holds the line of code at an address answers a refill now: its package can be reached, and no sector
that can be reconstructed awaits it (R352, R386, R388). -/
def lineReady (s : State) (g : GRef) (pid : BitVec 16) (a : Word) : Bool :=
  match (translate s g.pkg g.cell pid a .fetch).2 with
  | .ok l =>
    let l := { l with off := l.off - a.toNat % 64 }
    s.linked g.pkg l.pkg && s.readReady l && s.readReady { l with off := l.off + 32 }
  | .error _ => true

/-- Whether every line that the clause at an address spans answers a refill now. -/
def refillReady (s : State) (g : GRef) (pid : BitVec 16) (h : Word) : Bool :=
  lineReady s g pid h && (match (readLine s g pid (Config.useStale s.free) h).2 with
    | .ok b =>
      let w := (wordsOfBytes ((b.drop (h.toNat % 64)).take 4)).headD 0
      (linesOf h (4 * (1 + fld w 0 4))).all fun a => lineReady s g pid (fetchAt h a)
    | .error _ => true)

/-- What the slot finds when it looks for code. -/
inductive Found where
  | code (s : State) (w : BitVec 32) (ws : List (BitVec 32))
  | fault (s : State) (f : FaultInfo)
  /-- The lines are being fetched: the turn stays empty. -/
  | miss (s : State)
  deriving Repr, Inhabited

/-- The FENCED of a refill that the boundary of the cell's partition refuses: it is a request of the cell through window 2, which
leaves the rectangle (R327, R374). Its translation comes first. DEDUCED, log 45. -/
def refillRefused (s : State) (g : GRef) (h : Word) : Option FaultInfo :=
  if (s.pkgAt g.pkg).outRefused g.cell then
    match (translate s g.pkg g.cell (s.slotAt g).pid h .fetch).2 with
    | .ok _ => some { kind := .fenced, sector := h }
    | .error f => some f
  else none

/-- Starts a refill for a slot, which a boundary may refuse at once. -/
def startRefill (s : State) (g : GRef) (h : Word) : State :=
  s.mapSlot g fun t => { t with refill := some (h, refillRefused s g h) }

/-- Looks for the clause at `h`: in the cache, where a line that no longer agrees with memory may have been given up
(R134, R340); else a refill is begun, or its fault is met. -/
def lookClause (s : State) (g : GRef) (h : Word) : Found :=
  let t := s.slotAt g
  let c := s.cellAt g.pkg g.cell
  let missed (s : State) : Found :=
    match t.refill with
    | some (a, some f) => if a = h then .fault s f else .miss (startRefill s g h)
    | some (a, none) => if a = h then .miss s else .miss (startRefill s g h)
    | none => .miss (startRefill s g h)
  if t.icinv then .miss s
  else match c.cachedClause t.pid h with
  | none => missed s
  | some (w, ws) =>
    let fresh := ((refillClause s g t.pid h).1.cellAt g.pkg g.cell).cachedClause t.pid h
    let ok := (refillClause s g t.pid h).2 == none && fresh == some (w, ws)
    if ok then .code s w ws
    else if Config.useStale s.free then .code s.draw w ws
    else
      let s' := s.draw.mapCell g.pkg g.cell fun c =>
        { c with icache := c.icache.filter fun l => !(l.pid == t.pid && (linesOf h (4 * (1 + ws.length))).contains l.line) }
      .miss (startRefill s' g h)

/-- Ends a refill that the slot has used. -/
def endRefill (s : State) (g : GRef) : State := s.mapSlot g fun t => { t with refill := none }

/-- A fault met where a header is due, at an address and clause position 0 (R48, R56). -/
def fetchFault (s : State) (g : GRef) (f : FaultInfo) (a : Word) : State :=
  let t := s.slotAt g
  takeFault (endRefill s g) g f a 0 (t.head, t.pos, t.loops)

/-- The slot fetches the clause it stands at: its header is checked before any part of it issues (R48). An entry or resume
address outside the code window is reported as it is (R56); a misaligned one traps CLAUSE at clause position 0 with auxiliary
word 0, where R55 speaks of the targets of transfers only (DEDUCED, log 28). The answer says whether the slot may go on in
this turn. -/
def fetchClause (s : State) (g : GRef) : State × Bool :=
  let t := s.slotAt g
  let at_ := t.head + BitVec.ofNat 64 (4 * t.pos)
  let fail (s : State) (f : FaultInfo) : State × Bool := (fetchFault s g f t.head, false)
  if !codeWindow at_ then (fetchFault s g (codeProt t.pid at_) at_, false)
  else if !codeWindow t.head then fail s (codeProt t.pid t.head)
  else if t.head.toNat % 4 ≠ 0 then fail s { kind := .clause }
  else match lookClause s g t.head with
  | .miss s => (s, false)
  | .fault s f => fail s f
  | .code s w ws =>
    match headerFault w with
    | some k => fail s { kind := k }
    | none => ((endRefill s g).mapSlot g fun t =>
        { t with clause := some { hdr := headerOf w, words := ws }, pos := if t.pos = 0 then 1 else t.pos }, true)

/-! ## WAITQ -/

/-- Whether the operations that a header's WAITQ selects have reached the state that R47 names. -/
def waitqMet (s : State) (g : GRef) (h : Header) : Bool :=
  let t := s.slotAt g
  let c := s.cellAt g.pkg g.cell
  !(h.wm && (c.mma.any (·.slot == g.slot) || c.steps.any (·.slot == g.slot))) &&
  !(h.wc && t.ops.any fun o => match o.act with | .launch _ => true | _ => false) &&
  !(h.wr && t.ops.any Op.leaves) &&
  !(h.wl && t.ops.any fun o => o.atHome && !o.posted)

/-- The wait of a clause header before its first instruction (R53): whether it is over. A refused operation that WR
waits for is reported at clause position 1 (R425). -/
def passWaitq (s : State) (g : GRef) (h : Header) : State × Bool :=
  let t := s.slotAt g
  if t.waitqDone then (s, true)
  else if !waitqMet s g h then (s, false)
  else
    match t.refused.filter fun e => h.wr && e.2.kind != .element with
    | e :: ops => (faultHere (s.mapSlot g fun t => t.reported (e :: ops)) g { kind := .fenced, sector := e.2.addr }, false)
    | [] => (s.mapSlot g fun t => { t with waitqDone := true }, true)

/-! ## Targets of control transfers -/

/-- What the check of a transfer's target answers. -/
inductive Target where
  | ok (w : BitVec 32)
  | bad (f : FaultInfo)
  | wait
  deriving Repr, Inhabited

/-- THE CHECK OF A TARGET (R55, R56, R116): its window, its alignment, its fetch, and that a header stands there. The
state is that after the look into the cache. -/
def checkTarget (s : State) (g : GRef) (a : Word) : State × Target :=
  let t := s.slotAt g
  if !codeWindow a then (s, .bad (codeProt t.pid a))
  else if a.toNat % 4 ≠ 0 then (s, .bad { kind := .clause, aux := a })
  else match lookClause s g a with
  | .miss s => (s, .wait)
  | .fault s f => (s, .bad f)
  | .code s w _ => if major w = 0x3E then (endRefill s g, .ok w) else (endRefill s g, .bad { kind := .clause, aux := a })

end Sys2Proof.Machine
end

