-- ==== Sys2Proof/Machine/ScalarMem.lean ====
section
/-! DEFINITION. Scalar loads and stores, full/empty and monitor operations, prefetch, scalar atomics and NCLAIM: majors
0x20 and 0x27, and minor 8 of 0x2A (R171-R177, R181, R182, R192). -/

namespace Sys2Proof.Machine

/-- The bytes of a size code (R60). -/
def sizeBytes : Size → Nat | .b => 1 | .h => 2 | .w => 4 | .d => 8

/-- Operands of an access that writes `d` and takes its address from `b` (R165). -/
def loadOpnds (d b : SReg) : Opnds := { srcs := [.s b], dsts := [.s d], tb := some (.s b) }
/-- Operands of an access that reads its data from `d`. -/
def storeOpnds (d b : SReg) : Opnds := { srcs := [.s d, .s b], ta := some (.s d), tb := some (.s b) }
/-- Operands of an access that names only its address. -/
def addrOpnds (b : SReg) : Opnds := { srcs := [.s b], tb := some (.s b) }
/-- Operands of an atomic: `d` gives the operand and takes the old value (R181). -/
def atomOpnds (d b : SReg) : Opnds :=
  { srcs := [.s d, .s b], dsts := [.s d], ta := some (.s d), tb := some (.s b) }

/-- A scalar load of `n` bytes (R171). -/
def scalarLoad (sg : Bool) (d b : SReg) (c : Scope) (o : Order) (z : Size) (s : State) : Host.Outcome State Fault Refusal :=
  run s (loadOpnds d b) fun x => memIssue x
    { act := .load sg, acc := .load, scope := c, order := o, raw := [(0, x.sreg b, sizeBytes z, 0, 0)], dst := .scalar d
      mask := x.slot.active }

/-- A full/empty operation on one word (R173). -/
def feAccess (f : FeOp) (o : Opnds) (val : Option SReg) (dst : Dest) (posted waits : Bool) (b : SReg) (c : Scope) (r : Order)
    (s : State) : Host.Outcome State Fault Refusal :=
  run s o fun x => memIssue x
    { act := .fe f, acc := .fe, scope := c, order := r
      raw := [(0, x.sreg b, 4, ((val.map x.sreg).getD 0), 0)], dst := dst, mask := x.slot.active, posted := posted
      waits := waits }

/-- A monitor wait (R176). -/
def monitorWait (ne : Bool) (d b : SReg) (c : Scope) (o : Order) (z : Size) (s : State) : Host.Outcome State Fault Refusal :=
  run s (storeOpnds d b) fun x => memIssue x
    { act := .monitor ne, acc := .monitor, scope := c, order := o, raw := [(0, x.sreg b, sizeBytes z, x.sreg d, 0)]
      mask := x.slot.active, waits := true }

/-- A scalar atomic (R181). -/
def scalarAtom (f : AtomOp) (n : Nat) (d b : SReg) (c : Scope) (o : Order) (s : State) : Host.Outcome State Fault Refusal :=
  run s (atomOpnds d b) fun x => memIssue x
    { act := .atom f, acc := .atomic, scope := c, order := o, raw := [(0, x.sreg b, n, x.sreg d, 0)], dst := .scalar d
      mask := x.slot.active }

/-- LD (R171). -/
def execLd (d b : SReg) (c : Scope) (o : Order) (z : Size) (s : State) : Host.Outcome State Fault Refusal := scalarLoad false d b c o z s
/-- LDS (R171). -/
def execLds (d b : SReg) (c : Scope) (o : Order) (z : Size) (s : State) : Host.Outcome State Fault Refusal := scalarLoad true d b c o z s
/-- ST (R171). -/
def execSt (d b : SReg) (c : Scope) (o : Order) (z : Size) (s : State) : Host.Outcome State Fault Refusal :=
  run s (storeOpnds d b) fun x => memIssue x
    { act := .store, acc := .store, scope := c, order := o, raw := [(0, x.sreg b, sizeBytes z, x.sreg d, 0)]
      mask := x.slot.active, posted := true }
/-- LDFE (R173). -/
def execLdfe (d b : SReg) (c : Scope) (o : Order) (s : State) : Host.Outcome State Fault Refusal :=
  feAccess .ldfe (loadOpnds d b) none (.scalar d) false true b c o s
/-- STFE (R173). -/
def execStfe (d b : SReg) (c : Scope) (o : Order) (s : State) : Host.Outcome State Fault Refusal :=
  feAccess .stfe (storeOpnds d b) (some d) .none false true b c o s
/-- LDF (R173). -/
def execLdf (d b : SReg) (c : Scope) (o : Order) (s : State) : Host.Outcome State Fault Refusal :=
  feAccess .ldf (loadOpnds d b) none (.scalar d) false true b c o s
/-- STF (R173). -/
def execStf (d b : SReg) (c : Scope) (o : Order) (s : State) : Host.Outcome State Fault Refusal :=
  feAccess .stf (storeOpnds d b) (some d) .none false true b c o s
/-- FESET (R173). -/
def execFeset (b : SReg) (c : Scope) (o : Order) (s : State) : Host.Outcome State Fault Refusal :=
  feAccess .feset (addrOpnds b) none .none true false b c o s
/-- FECLR (R173). -/
def execFeclr (b : SReg) (c : Scope) (o : Order) (s : State) : Host.Outcome State Fault Refusal :=
  feAccess .feclr (addrOpnds b) none .none true false b c o s
/-- FEGET (R173). -/
def execFeget (d b : SReg) (c : Scope) (o : Order) (s : State) : Host.Outcome State Fault Refusal :=
  feAccess .feget (loadOpnds d b) none (.scalar d) false false b c o s
/-- WAITEQ (R176). -/
def execWaiteq (d b : SReg) (c : Scope) (o : Order) (z : Size) (s : State) : Host.Outcome State Fault Refusal := monitorWait false d b c o z s
/-- WAITNE (R176). -/
def execWaitne (d b : SReg) (c : Scope) (o : Order) (z : Size) (s : State) : Host.Outcome State Fault Refusal := monitorWait true d b c o z s
/-- PREF: loads a translation into the station's cache and never faults (R177). -/
def execPref (b : SReg) (s : State) : Host.Outcome State Fault Refusal :=
  run s (addrOpnds b) fun x =>
    let a := x.sreg b
    .done (if a.toNat / 2 ^ 57 == 16 then (translate x.s x.g.pkg x.g.cell x.slot.pid a .load).1 else x.s)
/-- AADD (R181). -/
def execAadd (d b : SReg) (c : Scope) (o : Order) (z : Size) (s : State) : Host.Outcome State Fault Refusal := scalarAtom .add (sizeBytes z) d b c o s
/-- AAND (R181). -/
def execAand (d b : SReg) (c : Scope) (o : Order) (z : Size) (s : State) : Host.Outcome State Fault Refusal := scalarAtom .and (sizeBytes z) d b c o s
/-- AOR (R181). -/
def execAor (d b : SReg) (c : Scope) (o : Order) (z : Size) (s : State) : Host.Outcome State Fault Refusal := scalarAtom .or (sizeBytes z) d b c o s
/-- AXOR (R181). -/
def execAxor (d b : SReg) (c : Scope) (o : Order) (z : Size) (s : State) : Host.Outcome State Fault Refusal := scalarAtom .xor (sizeBytes z) d b c o s
/-- AMIN (R181). -/
def execAmin (d b : SReg) (c : Scope) (o : Order) (z : Size) (s : State) : Host.Outcome State Fault Refusal := scalarAtom .min (sizeBytes z) d b c o s
/-- AMAX (R181). -/
def execAmax (d b : SReg) (c : Scope) (o : Order) (z : Size) (s : State) : Host.Outcome State Fault Refusal := scalarAtom .max (sizeBytes z) d b c o s
/-- AMINU (R181). -/
def execAminu (d b : SReg) (c : Scope) (o : Order) (z : Size) (s : State) : Host.Outcome State Fault Refusal := scalarAtom .minu (sizeBytes z) d b c o s
/-- AMAXU (R181). -/
def execAmaxu (d b : SReg) (c : Scope) (o : Order) (z : Size) (s : State) : Host.Outcome State Fault Refusal := scalarAtom .maxu (sizeBytes z) d b c o s
/-- ASWAP (R181). -/
def execAswap (d b : SReg) (c : Scope) (o : Order) (z : Size) (s : State) : Host.Outcome State Fault Refusal := scalarAtom .swap (sizeBytes z) d b c o s
/-- ACAS: the even register holds the expected value and takes the old one, the odd one the new value (R182). -/
def execAcas (d b : SReg) (c : Scope) (o : Order) (z : Size) (s : State) : Host.Outcome State Fault Refusal :=
  run s { atomOpnds d b with srcs := [.s d, .s (d + 1), .s b] } fun x => memIssue x
    { act := .atom .cas, acc := .atomic, scope := c, order := o
      raw := [(0, x.sreg b, sizeBytes z, x.sreg d, x.sreg (d + 1))], dst := .scalar d, mask := x.slot.active }
/-- AFADD (R181). -/
def execAfadd (d b : SReg) (c : Scope) (o : Order) (s : State) : Host.Outcome State Fault Refusal := scalarAtom .fadd 4 d b c o s
/-- AFMAX (R181). -/
def execAfmax (d b : SReg) (c : Scope) (o : Order) (s : State) : Host.Outcome State Fault Refusal := scalarAtom .fmax 4 d b c o s
/-- NCLAIM (R192). -/
def execNclaim (d b : SReg) (s : State) : Host.Outcome State Fault Refusal :=
  run s { loadOpnds d b with dsts := [.s d, .s (d + 1)] } fun x => memIssue x
    { act := .nclaim, acc := .nclaim, raw := [(0, x.sreg b, 16, 0, 0)], dst := .pair d, mask := x.slot.active }

end Sys2Proof.Machine
end

