-- ==== Sys2Proof/Machine/Sync.lean ====
section
/-! DEFINITION. Fences and synchronisation: majors 0x29 and 0x2A but NCLAIM (R184-R195). -/

namespace Sys2Proof.Machine

/-! ## Fences -/

/-- Whether a parity delta of an SV copy that the slot has launched is unacknowledged (R184, R218). -/
def Ctx.svCopies (c : Ctx) : Bool :=
  c.cell.ctxs.any fun e => e.2.parityOut != 0 && (match e.2.cur with
    | some l => l.slot == c.g.slot && (Table.get 0 l.regs 9).getLsbD 4
    | none => false)

/-- A fence holds the slot in its turn until what it names is over (R184). -/
def fenceBody (c : Ctx) (acq rel sv : Bool) : Issue :=
  if acq && c.slot.ops.any Op.beforeAcquire || sv && c.svCopies then .hold
  else if rel then (match c.releaseHold sv with | some i => i | none => .done c.s)
  else .done c.s

/-- FENCE: a NOP at scope `.sl` (R184). -/
def execFence (k : Scope) (o : Order) (s : State) : Host.Outcome State Fault Refusal :=
  run s {} fun c => fenceBody c (acquires k o) (releases k o) false
/-- FENCE.SC: as `.ar`; its place in the order of R274 is the step it completes in. -/
def execFenceSc (k : Scope) (s : State) : Host.Outcome State Fault Refusal :=
  run s {} fun c => fenceBody c (k != .sl) (k != .sl) false
/-- FENCE.SV: as `.ar`, and the parity deltas of earlier stores, atomics and SV copies too. -/
def execFenceSv (s : State) : Host.Outcome State Fault Refusal := run s {} fun c => fenceBody c true true true

/-! ## Named barriers -/

/-- What a barrier name names (R186). -/
inductive BarName where
  | own (b : BitVec 9)
  | other (p : PkgId) (c : CellId) (b : BitVec 9)
  | bad
  deriving DecidableEq, Repr, Inhabited

/-- Reads a barrier name (R186). -/
def barName (n : Word) : BarName :=
  if bits n.toNat 9 55 = 0 then .own (n.extractLsb' 0 9)
  else if bits n.toNat 60 4 = 1 ∧ bits n.toNat 52 8 = 0 ∧ bits n.toNat 9 19 = 0 then
    .other (n.extractLsb' 40 12) (n.extractLsb' 28 12) (n.extractLsb' 0 9)
  else .bad

/-- A barrier word of a cell (R35). -/
def Cell.barrier (t : Cell) (b : BitVec 9) : Word := Table.get 0 t.barriers b.toNat
/-- EXPECT. -/
def barExpect (w : Word) : Nat := bits w.toNat 0 16
/-- ARRIVED. -/
def barArrived (w : Word) : Nat := bits w.toNat 16 16
/-- LOW. -/
def barLow (w : Word) : Nat := bits w.toNat 32 28
/-- DONE. -/
def barDone (w : Word) : Bool := w.getLsbD 60
/-- A barrier word from its fields. -/
def barWord (expect arrived low : Nat) (done : Bool) : Word :=
  BitVec.ofNat 64 (expect + arrived * 2 ^ 16 + low * 2 ^ 32 + flag done * 2 ^ 60)

/-- One arrival of an identity at a barrier (R188). -/
def arriveWord (w : Word) (id : Nat) : Word :=
  let e := barExpect w
  if e = 0 then w
  else
    let arrived := if barDone w then 0 else barArrived w
    let low := if barDone w ∨ arrived = 0 ∨ id < barLow w then id else barLow w
    barWord e (arrived + 1) low (arrived + 1 == e)

/-- What the completion of a phase does to a slot: it releases the phase's waiters, and is noted where a wait for it was
given up (R189, R196). -/
def Slot.phaseOver (t : Slot) (b : BitVec 9) (low id : Nat) : Slot :=
  let t := match t.phaseWait with
    | some (x, _) => if x = b then { t with phaseWait := some (b, true) } else t
    | none => t
  match t.wait with
  | some { what := .barrier x lead, .. } =>
    if x = b then
      (match lead with | some d => t.putS d (BitVec.ofNat 64 (flag (low == id))) | none => t).endWait
    else t
  | some { what := .phase x, .. } => if x = b then { t.endWait with phaseWait := none } else t
  | _ => t

/-- AN ARRIVAL is applied at the owning cell (R188); the arrival that completes a phase releases its waiters. -/
def State.arrive (s : State) (p : PkgId) (c : CellId) (b : BitVec 9) (id : Nat) : State :=
  let w := (s.cellAt p c).barrier b
  let w' := arriveWord w id
  let s := s.mapCell p c fun t => { t with barriers := Table.set 0 t.barriers b.toNat w' }
  if barExpect w ≠ 0 ∧ barDone w' then
    s.mapCell p c fun t => { t with slots := t.slots.map fun e =>
      (e.1, e.2.phaseOver b (barLow w') (GRef.id28 { pkg := p, cell := c, slot := BitVec.ofNat 4 e.1 })) }
  else s

/-- The fault of a barrier name that the instruction does not accept (R186). -/
def barProt : Issue := .trap { kind := .prot }

/-- Operands of a barrier instruction: regB the name. -/
def barOpnds (n : SReg) : Opnds := { srcs := [.s n], tb := some (.s n) }

/-- A body that acts on a barrier of its own cell. -/
def ownBarrier (c : Ctx) (n : SReg) (body : BitVec 9 → Issue) : Issue :=
  match barName (c.sreg n) with
  | .own b => body b
  | _ => barProt

/-- Why an arrival may not be made in this turn: it is a memory access and a release (R169, R188). -/
def Ctx.arrivalHold (c : Ctx) : Option Issue := if c.slot.acquiring then some .hold else c.releaseHold false

/-- BARINIT (R187). -/
def execBarinit (n k : SReg) (s : State) : Host.Outcome State Fault Refusal :=
  run s (Opnds.ab n k) fun c =>
    ownBarrier c n fun b =>
      let x := c.sreg k
      if x = 0 ∨ 65535 < x.toNat then .trap { kind := .illegal, aux := x }
      else .done (c.s.mapCell c.g.pkg c.g.cell fun t =>
        { t with barriers := Table.set 0 t.barriers b.toNat (barWord x.toNat 0 0 false) })

/-- An arrival at a barrier of the own cell, or the refusal of one that is not initialised (R188). -/
def arriveOwn (c : Ctx) (n : SReg) (b : BitVec 9) (after : State → Issue) : Issue :=
  match c.arrivalHold with
  | some i => i
  | none =>
    if barExpect (c.cell.barrier b) = 0 then .trap { kind := .illegal, aux := c.sreg n }
    else after (c.s.arrive c.g.pkg c.g.cell b (GRef.id28 c.g))

/-- The unit of an operation on the barrier word of another cell. -/
def barUnit (n : Word) (p : PkgId) (d : CellId) (b : BitVec 9) : OpUnit :=
  { path := .remote
    elts := [{ lane := 0, addr := n, n := 8, loc := { store := .control, pkg := p, cell := d, off := 0x1000 + 8 * b.toNat } }] }

/-- An operation on the barrier word of another cell. -/
def barOp (c : Ctx) (a : Act) (dst : Dest) (posted : Bool) (n : Word) (p : PkgId) (d : CellId) (b : BitVec 9) : Op :=
  { c.newOp a .remote dst with
    units := [barUnit n p d b], posted := posted, inTransit := !c.s.remoteRefused c.g.pkg c.g.cell p d }

/-- BARARR: an arrival; at another cell's barrier it is posted (R188). -/
def execBararr (n : SReg) (s : State) : Host.Outcome State Fault Refusal :=
  run s (barOpnds n) fun c =>
    match barName (c.sreg n) with
    | .bad => barProt
    | .own b => arriveOwn c n b fun s => .done s
    | .other p d b =>
      if c.s.shut c.g.pkg p then .trap { kind := .fenced, sector := c.sreg n }
      else match c.arrivalHold with
        | some i => i
        | none => c.issueOp (barOp c (.arrive b) .none true (c.sreg n) p d b) [c.sreg n] []

/-- BARWAIT: bound to no phase (R189). -/
def execBarwait (n : SReg) (s : State) : Host.Outcome State Fault Refusal :=
  run s (barOpnds n) fun c =>
    ownBarrier c n fun b =>
      if barDone (c.cell.barrier b) then .done c.s else .park c.s (.barrier b none)

/-- BARARW: arrives, then waits for the phase it arrived in; reissued after a wait given up it arrives no second time
(R189, R196). -/
def execBararw (n : SReg) (s : State) : Host.Outcome State Fault Refusal :=
  run s (barOpnds n) fun c =>
    ownBarrier c n fun b =>
      let free (s : State) : State := s.mapSlot c.g fun t => { t with phaseWait := none }
      if c.slot.phaseWait = some (b, true) then .done (free c.s)
      else if c.slot.phaseWait = some (b, false) then .park c.s (.phase b)
      else arriveOwn c n b fun s =>
        if barDone ((s.cellAt c.g.pkg c.g.cell).barrier b) then .done (free s)
        else .park (s.mapSlot c.g fun t => { t with phaseWait := some (b, false) }) (.phase b)

/-- BARLEAD: 1 to the lowest arriver (R189). -/
def execBarlead (d n : SReg) (s : State) : Host.Outcome State Fault Refusal :=
  run s { barOpnds n with dsts := [.s d] } fun c =>
    ownBarrier c n fun b =>
      let w := c.cell.barrier b
      if barDone w then .done (c.setS d (BitVec.ofNat 64 (flag (barLow w == (GRef.id28 c.g)))))
      else .park c.s (.barrier b (some d))

/-- An operation whose value is known and is delivered later (R19). -/
def Ctx.valueOp (c : Ctx) (dst : Dest) (got : List (Nat × Word)) : Op :=
  { c.newOp .value .local dst with got := got, performed := true }

/-- BARQ: reads a barrier word (R189). -/
def execBarq (d n : SReg) (s : State) : Host.Outcome State Fault Refusal :=
  run s { barOpnds n with dsts := [.s d] } fun c =>
    if c.slot.acquiring then .hold
    else match barName (c.sreg n) with
      | .bad => barProt
      | .own b => c.issueAlone { c.valueOp (.scalar d) [(0, c.cell.barrier b)] with act := .barq b }
      | .other p q b =>
        if c.s.shut c.g.pkg p then .trap { kind := .fenced, sector := c.sreg n }
        else c.issueOp (barOp c (.barq b) (.scalar d) false (c.sreg n) p q b) [c.sreg n] []

/-! ## Timelines -/

/-- The count and the error mark of a timeline as a cell of the package sees it (R34). -/
def Pkg.timeline (k : Pkg) (c : CellId) : Timeline → Word × Bool
  | .copy t => (Table.get 0 (k.cellAt c).tlCount t.toNat, (k.cellAt c).tlMark.has t.toNat)
  | .graph t => (Table.get 0 k.tgCount t.toNat, k.tgMark.has t.toNat)

/-- The status with which a wait for value `v` of a timeline ends, if it ends (R190). -/
def tlStatus (x : Word × Bool) (v : Word) : Option Word :=
  if x.2 then some 1 else if v.ule x.1 then some 0 else none

/-- Ends the timeline waits of a package that are over. -/
def State.wakeTimelines (s : State) (p : PkgId) : State :=
  s.mapPkg p fun k => k.mapSlots fun c _ t =>
    match t.wait with
    | some { what := .timeline tl v d, .. } =>
      match tlStatus (k.timeline c tl) v with
      | some r => (t.putS d r).endWait
      | none => t
    | _ => t

/-- TLWAIT (R190). -/
def execTlwait (d v : SReg) (t : Timeline) (s : State) : Host.Outcome State Fault Refusal :=
  run s { srcs := [.s v], dsts := [.s d], tb := some (.s v) } fun c =>
    match tlStatus (c.pkg.timeline c.g.cell t) (c.sreg v) with
    | some r => .done (c.setS d r)
    | none => .park c.s (.timeline t (c.sreg v) d)

/-- TLGET: the count; that of a graph timeline is read at the hub when its answer is made (R191). -/
def execTlget (d : SReg) (t : Timeline) (s : State) : Host.Outcome State Fault Refusal :=
  run s (Opnds.d d) fun c =>
    match t with
    | .copy _ => c.issueAlone (c.valueOp (.scalar d) [(0, (c.pkg.timeline c.g.cell t).1)])
    | .graph x => c.issueAlone (c.newOp (.query (.graphTimeline x)) .hub (.scalar d))

/-! ## NUNPACK, PARK and WAKE -/

/-- The indices of NUNPACK, the innermost first (R193). -/
def unpackFrom : Nat → Nat → Nat → List Nat
  | 0, q, _ => [q]
  | n + 1, q, e =>
    let x := if e % 65536 = 0 then 65536 else e % 65536
    q % x :: unpackFrom n (q / x) (e / 65536)

/-- NUNPACK (R193). -/
def execNunpack (d i : SReg) (n : BitVec 2) (s : State) : Host.Outcome State Fault Refusal :=
  run s { srcs := [.s i, .s (i + 1)], dsts := (List.range (n.toNat + 1)).map fun j => .s (d + BitVec.ofNat 5 j)
          tb := some (.s i) } fun c =>
    let r := unpackFrom n.toNat (c.sreg i).toNat (c.sreg (i + 1)).toNat
    .done (r.zipIdx.foldl (fun s e => s.setS c.g (d + BitVec.ofNat 5 e.2) (BitVec.ofNat 64 e.1)) c.s)

/-- PARK (R194). -/
def execPark (d : SReg) (s : State) : Host.Outcome State Fault Refusal :=
  run s (Opnds.d d) fun c =>
    if c.slot.wakePending then .done ((c.s.mapSlot c.g fun t => { t with wakePending := false }).setS c.g d 0)
    else .park c.s (.wake d)

/-- A WAKE reaches a slot (R194, R195). -/
def Slot.woken (t : Slot) : Slot :=
  match t.wait with
  | some { what := .wake d, .. } => (t.putS d 0).endWait
  | _ => { t with wakePending := true }

/-- WAKE: posted, and a release (R195); that of a slot of a redundant pair is compared whichever cell it names (R303,
R378). -/
def execWake (r : SReg) (s : State) : Host.Outcome State Fault Refusal :=
  run s { srcs := [.s r], tb := some (.s r) } fun c =>
    match c.arrivalHold with
    | some i => i
    | none =>
      let w := c.sreg r
      let g := GRef.ofWord w
      if w.extractLsb' 28 8 != c.pkg.domain || c.s.shut c.g.pkg g.pkg then .trap { kind := .fenced, sector := w }
      else if g.pkg = c.g.pkg ∧ g.cell = c.g.cell ∧ (c.slot.member.bind (·.partner)).isNone then .done (c.s.mapSlot g Slot.woken)
      else c.issueOp { c.newOp (.wake g) .remote .none with
        posted := true, got := [(0, w)], inTransit := !c.s.remoteRefused c.g.pkg c.g.cell g.pkg g.cell } [w] []

end Sys2Proof.Machine
end

