-- ==== Sys2Proof/Machine/Nodes.lean ====
section
/-! DEFINITION. The nodes of resident graphs and their records as the Shawm sees them (R251, R287-R293). -/

namespace Sys2Proof.Machine

/-! ## Descriptors (R290) -/

/-- A word of a node's descriptor. -/
def Node.word (n : Node) (i : Nat) : Nat := (n.desc.getD i 0).toNat
/-- MAXDEPTH. -/
def Node.maxDepth (n : Node) : Nat := bits (n.word 2) 56 8
/-- RANK. -/
def Node.rank (n : Node) : Nat := bits (n.word 2) 48 8
/-- REGS. -/
def Node.regs (n : Node) : Nat := bits (n.word 2) 40 8
/-- PRIO. -/
def Node.prio (n : Node) : Nat := bits (n.word 2) 36 3
/-- LOCKSTEP. -/
def Node.lockstep (n : Node) : Bool := bits (n.word 2) 35 1 == 1
/-- REDUNDANT. -/
def Node.redundant (n : Node) : Bool := bits (n.word 2) 34 1 == 1
/-- PINNED. -/
def Node.pinned (n : Node) : Bool := bits (n.word 2) 33 1 == 1
/-- QCAP. -/
def Node.qcap (n : Node) : Nat := 2 ^ bits (n.word 2) 28 5
/-- SLOTS. -/
def Node.slots (n : Node) : Nat := bits (n.word 2) 21 7
/-- RECSIZE in bytes. -/
def Node.recSize (n : Node) : Nat := 16 * bits (n.word 2) 14 7
/-- TIMER in nanoseconds. -/
def Node.timer (n : Node) : Nat := bits (n.word 3) 32 32
/-- THRESH. -/
def Node.thresh (n : Node) : Nat := bits (n.word 3) 0 12
/-- QBASE. -/
def Node.qbase (n : Node) : Word := n.desc.getD 1 0
/-- Channels that one group needs (R296). -/
def Node.channels (n : Node) : Nat := if n.lockstep then 1 else if n.redundant then n.slots else 0

/-! ## Graphs -/

/-- A graph table entry. -/
def Pkg.graphAt (k : Pkg) (x : BitVec 6) : Graph := Table.get {} k.graphs x.toNat
/-- A node of a resident graph; none for an invalid node (R252). -/
def Pkg.nodeAt (k : Pkg) (x : BitVec 6) (n : BitVec 12) : Option Node :=
  if (k.graphAt x).mode = .resident then (k.graphAt x).nodes[n.toNat]? else none
/-- A node as the Shawm keeps it: also of a graph that is being torn down, until its records are discarded (R312). -/
def Pkg.keptNode (k : Pkg) (x : BitVec 6) (n : BitVec 12) : Option Node :=
  let m := (k.graphAt x).mode
  if m = .resident ∨ m = .tearing then (k.graphAt x).nodes[n.toNat]? else none
/-- Changes a graph. -/
def State.mapGraph (s : State) (p : PkgId) (x : BitVec 6) (f : Graph → Graph) : State :=
  s.mapPkg p fun k => { k with graphs := Table.put k.graphs x.toNat (f (k.graphAt x)) }
/-- Changes a node. -/
def State.mapNode (s : State) (p : PkgId) (x : BitVec 6) (n : BitVec 12) (f : Node → Node) : State :=
  s.mapGraph p x fun e => { e with nodes := e.nodes.modify n.toNat f }

/-! ## Records -/

/-- Free records F (R251). -/
def Node.free (n : Node) : Nat := n.qcap - n.recs.length

/-- Whether a record holds back itself and those after it: it is uncommitted (R256), or its body is still being written, which
a start must see (R305). -/
def QRec.unready (r : QRec) : Bool := r.mode == .uncommitted || r.arriving

/-- The launchable records not yet delivered: committed, with no uncommitted record before them (R292). -/
def Node.launchable (n : Node) : List QRec :=
  (n.recs.takeWhile fun r => !r.unready).filter fun r => r.mode == .committed && !r.delivered

/-- The age A of the oldest launchable record, in nanoseconds (R293). -/
def Node.age (n : Node) (now : Nat) : Nat :=
  match n.launchable with
  | [] => 0
  | r :: t => now - (t.foldl (fun m r => Nat.min m (r.since.getD now)) (r.since.getD now))

/-- The code of a record's state (R291). -/
def RecMode.code : RecMode → Nat | .uncommitted => 0 | .committed => 1 | .void => 2 | .retired => 3

/-- A record's header (R291). -/
def QRec.header (r : QRec) : Word :=
  BitVec.ofNat 64 (r.seq.toNat + r.depth % 256 * 2 ^ 32 + r.origin.toNat * 2 ^ 40 + r.mode.code * 2 ^ 52 +
    flag r.delivered * 2 ^ 54 + flag r.copy * 2 ^ 55 + flag r.host * 2 ^ 56 + flag r.ext * 2 ^ 57)

/-- Where a record lies in its queue, as a byte offset (R251). -/
def Node.offsetOf (n : Node) (seq : BitVec 32) : Nat := seq.toNat % n.qcap * n.recSize

/-- Item `k` of RINFO (R258). DESIGN CHOICE: with no undelivered record, item 10 is ALLOC, the number that the next record will
have (log 44). -/
def Pkg.nodeInfo (k : Pkg) (x : BitVec 6) (n : BitVec 12) (i : Nat) : Word :=
  match k.nodeAt x n with
  | none => BitVec.allOnes 64
  | some d =>
    if i < 8 then d.desc.getD i 0
    else if i = 8 then d.alloc.setWidth 64
    else if i = 9 then d.retire.setWidth 64
    else if i = 10 then
      match d.recs.find? fun r => !r.delivered && (r.mode == .committed || r.mode == .uncommitted) with
      | some r => r.seq.setWidth 64
      | none => d.alloc.setWidth 64
    else BitVec.ofNat 64 d.launchable.length

end Sys2Proof.Machine
end

