-- ==== Sys2Proof/Machine/Answers.lean ====
section
/-! DEFINITION. The answers and arrivals of operations in flight: active messages and memory-edge requests, their values
and acknowledgements, late faults (R426), the cancels of R175, and the ends of waits and holds. -/

namespace Sys2Proof.Machine

/-! ## Choosing -/

/-- Takes one of several possibilities, by a free value where there is a choice. -/
def State.choose {α : Type} (s : State) (l : List α) : State × Option α :=
  match l with
  | [] => (s, none)
  | [x] => (s, some x)
  | _ => (s.draw, l[Config.pick s.free % l.length]?)

/-- An event that has no place in a state leaves it as it is. -/
def occur (s : State) : Host.Outcome State Fault Refusal := .next s

/-! ## The end of an operation -/

/-- The value of a lane among those read. -/
def lookup (got : List (Nat × Word)) (l : Nat) : Word := ((got.find? (·.1 == l)).map (·.2)).getD 0

/-- Writes the answer of an operation into its destination, which becomes full (R19, R22). -/
def writeAnswer (s : State) (g : GRef) (o : Op) : State :=
  match o.dst with
  | .none => s
  | .scalar r => s.setS g r (lookup o.got 0)
  | .pair r => (s.setS g r (lookup o.got 0)).setS g (r + 1) (lookup o.got 1)
  | .vector r => s.setLanes g r o.mask fun l => (lookup o.got l).setWidth 32
  | .vpair r =>
    (s.setLanes g r o.mask fun l => (lookup o.got l).setWidth 32).setLanes g (r + 1) o.mask fun l =>
      (lookup o.got l).extractLsb' 32 32

/-- Whether the slot waits for an operation that it has issued. -/
def Slot.awaits (t : Slot) (id : Nat) : Bool :=
  match t.wait with
  | some { what := .answer x, .. } | some { what := .rallocw x, .. } => x == id
  | _ => false

/-- Whether the slot is held in the instruction that issued an operation (R256, R257). -/
def Slot.engagedIn (t : Slot) (id : Nat) : Bool := t.waitNext.isSome && t.wait.isNone && t.lastOp == some id

/-- Removes an operation from the waiter list of the cell that keeps it, whose other waiters may then proceed. -/
def State.unwait (s : State) (g : GRef) (o : Op) : State :=
  match (o.units.flatMap (·.elts)).head? with
  | some e => (s.leaveWaiters e.loc.pkg e.loc.cell (g, o.id)).settle e.loc.pkg e.loc.cell
  | none => s

/-- The destinations of an operation that did not complete stand as they did before it (R23, R126). -/
def Slot.restore (t : Slot) (o : Op) : Slot :=
  let t := o.prevFe.foldl (fun t p => t.setFe p.1 p.2) t
  o.took.foldl (fun t r => if t.fe r = .taken then t.setFe r .full else t) t

/-- The number of an operation that is issued afresh is that of its next issue (R367, R378). -/
def Slot.renumber (t : Slot) (o : Op) : Slot :=
  match o.num, t.member with
  | some (n, _), some m => { t with member := some { m with opNum := n } }
  | _, _ => t

/-- Whether two elements lie in one 32-byte sector (R168): of one place, or of the addresses that name them. -/
def Elt.sameSector (a b : Elt) : Bool :=
  (a.loc.store == b.loc.store && a.loc.pkg == b.loc.pkg && a.loc.cell == b.loc.cell && a.loc.off / 32 == b.loc.off / 32) ||
    a.addr.toNat / 32 == b.addr.toNat / 32

/-- Whether a later operation is ordered after a faulted one of its slot by R168 or R270: to its sector through its window,
or both through window 0 to the slot's own cell (R426). -/
def Op.follows (x o : Op) : Bool :=
  (x.atHome && o.atHome) || x.units.any fun u => o.units.any fun w => u.path == w.path && u.path != .local &&
    u.elts.any fun a => w.elts.any fun b => a.sameSector b

/-- Puts an operation into a replay list, in issue order (R426). -/
def replayInsert (l : List Op) (o : Op) : List Op := l.filter (decide <| ·.id < o.id) ++ o :: l.filter (decide <| o.id < ·.id)

/-- The operations of a slot that R168 and R270 order after a faulted one or after one that is held with it: none of them is
performed before it is reissued (R426). -/
def Slot.heldBehind (t : Slot) (o : Op) : List Op :=
  t.ops.foldl (fun held x =>
    if o.id < x.id && !x.performed && (o :: t.replay ++ held).any fun y => decide (y.id < x.id) && x.follows y then held ++ [x]
    else held) []

/-- Steps 1 to 3 of R426: the faulted producer and the operations ordered after it go to the replay list. -/
def toReplay (s : State) (g : GRef) (o : Op) (f : FaultInfo) : State :=
  let held := (s.slotAt g).heldBehind o
  let s := held.foldl (fun s x => s.unwait g x) (s.unwait g o)
  let s := s.mapCell g.pkg g.cell fun t =>
    { t with port := t.port.filter fun j => !(j.slot == g.slot && (o :: held).any (·.id == j.op)) }
  s.mapSlot g fun t =>
    let t := t.restore o
    let list := held.foldl (fun l x => replayInsert l { x with waiting := false, resend := false, cancelled := false })
      (replayInsert t.replay { o with fault := some f, performed := true, waiting := false, cancelled := false })
    let t := { t with ops := t.ops.filter fun x => x.id != o.id && !held.any (·.id == x.id), replay := list }
    if (o :: held).any fun x => t.awaits x.id then t.endWait else t

/-- Step 4 of R426: with no operation left in flight, the slot traps for the oldest faulted producer. -/
def takeLate (s : State) (g : GRef) : State :=
  let t := s.slotAt g
  if t.lateFault && t.ops.all (·.orphan) then
    match t.replay.find? (·.fault.isSome) with
    | some o =>
      let s := takeFault s g (o.fault.getD { kind := .ecc }) o.head o.pos (t.head, t.pos, t.loops) true (some o.mask) (some o.since)
      s.mapSlot g fun t => { t with lateFault := false }
    | none => s.mapSlot g fun t => { t with lateFault := false }
  else s

/-- A FAULT OF AN OPERATION found when its answer arrives (R23, R426): precise while the slot has issued nothing younger
that counts, else late. An atomic some of whose lanes have been performed is reissued from the replay list, which keeps
those lanes, so that none is applied twice (log 37). That of a slot which is being killed is not taken (R366). -/
def faultOp (s : State) (g : GRef) (o : Op) (f : FaultInfo) : State :=
  let t := s.slotAt g
  if t.dying then (s.unwait g o).dropOp g o.id
  else match t.mode with
  | .idle | .exited => (s.unwait g o).dropOp g o.id
  | .trapped | .spilled => toReplay s g o f
  | .run | .parked | .subscribed =>
    if !t.lateFault && !o.begun && (t.awaits o.id || t.lastOp == some o.id) then
      let s := ((s.unwait g o).dropOp g o.id).mapSlot g fun t => (t.restore o).renumber o
      takeFault s g f o.head o.pos (o.head, o.pos, o.loops) false (some o.mask) (some o.since)
    else
      let s := (toReplay s g o f).mapSlot g fun t =>
        { t with lateFault := true }
      takeLate s g

/-- AN OPERATION IS ANSWERED: its destination is written, a wait for it ends, or its fault is taken. -/
def answerOp (s : State) (g : GRef) (o : Op) : State :=
  if o.orphan then s.dropOp g o.id else
  match o.fault with
  | some f => faultOp s g o f
  | none =>
    let s := (writeAnswer s g o).dropOp g o.id
    let s := s.mapSlot g fun t =>
      let ended := t.awaits o.id || t.engagedIn o.id
      let t := if t.lastOp = some o.id then { t with lastOp := none } else t
      if ended then t.endWait else t
    takeLate s g

/-- What a posted operation is when it is refused. -/
def Op.refusedKind (o : Op) : RefusedKind :=
  match o.act with
  | .arrive _ | .wake _ => .arrival
  | _ => .store

/-- A POSTED OPERATION IS ACKNOWLEDGED; one that was refused is kept for report (R425). -/
def acknowledge (s : State) (g : GRef) (o : Op) : State :=
  if o.orphan then s.dropOp g o.id else
  match o.fault with
  | none => takeLate ((s.dropOp g o.id).mapSlot g fun t => { t with lastOp := if t.lastOp = some o.id then none else t.lastOp }) g
  | some f =>
    if f.kind = .fenced then
      takeLate ((s.dropOp g o.id).mapSlot g fun t => { t with refused := Table.put t.refused o.id { kind := o.refusedKind, addr := f.sector } }) g
    else faultOp s g o f

/-! ## Where an operation is performed -/

/-- Whether an operation accesses the sector of an element through a window (R168). -/
def Op.touches (o : Op) (w : Path) (e : Elt) : Bool := o.units.any fun u => u.path == w && u.elts.any (Elt.sameSector e)

/-- Whether unit `j` of an operation may be performed as far as program order goes: it is not done, no earlier operation
of the slot to its sector through its window is unacknowledged (R168), and no earlier unit of its own shares bytes with
it (R179, R183). -/
def unitFree (t : Slot) (o : Op) (w : Path) (j : Nat) : Bool :=
  match o.units[j]? with
  | none => false
  | some u =>
    u.path == w && !u.done &&
    !(t.ops.any fun x => decide (x.id < o.id) && u.elts.any fun e => x.touches w e) &&
    !((o.units.take j).any fun v => !v.done && v.elts.any fun a => u.elts.any fun b => a.overlaps b)

/-- The first element of a unit. -/
def Op.eltOf (o : Op) (j : Nat) : Option Elt := (o.units[j]?).bind (·.elts.head?)

/-- Whether the service context of the named cell is free for this unit: it performs each message whole before it begins the
next (R321, log 26). -/
def serviceFree (s : State) (g : GRef) (o : Op) (e : Elt) : Bool :=
  match (s.cellAt e.loc.pkg e.loc.cell).serving with
  | none => true
  | some (g', id', sec) =>
    if g' = g ∧ id' = o.id ∧ sec = e.loc.off / 32 then true
    else match s.opOf g' id' with
      | none => true
      | some x => !x.live || !(x.units.any fun u => !u.done && u.path == .remote &&
          u.elts.any fun d => d.loc.pkg == e.loc.pkg && d.loc.cell == e.loc.cell && d.loc.off / 32 == sec)

/-- Whether an operation's request goes to a service context as a message of ACTIVE_MESSAGE. -/
def Act.isMessage : Act → Bool
  | .load _ | .store | .atom _ | .fe _ | .monitor _ | .nclaim | .barq _ | .resume _ _ => true
  | _ => false

/-- KIND of R333 of an operation. -/
def Act.kind : Act → Nat
  | .store => 1
  | .atom _ | .fe _ | .nclaim => 2
  | _ => 0

/-- The units of an operation that its owner may perform now through window 1. -/
def messageUnits (s : State) (g : GRef) (o : Op) : List Nat :=
  if o.live && o.act.isMessage then
    (List.range o.units.length).filter fun j =>
      unitFree (s.slotAt g) o .remote j && (match o.eltOf j with
        | some e => serviceFree s g o e && s.passes g.pkg e.loc.pkg
        | none => false)
  else []

/-- Whether a protected or poisoned place lets a unit be performed now (R343, R347, R352). -/
def edgeReady (s : State) (g : GRef) (o : Op) (e : Elt) : Bool :=
  let writes := match o.act with | .store | .atom _ => true | _ => false
  s.refusesPlace g.pkg e.loc ||
    (s.linked g.pkg e.loc.pkg && (!writes || s.storeReady e.loc) && s.readReady e.loc)

/-- The units of an operation that a memory controller may perform now. -/
def edgeUnits (s : State) (g : GRef) (o : Op) : List Nat :=
  if o.live then
    (List.range o.units.length).filter fun j =>
      unitFree (s.slotAt g) o .edge j && (o.together j).all fun i =>
        unitFree (s.slotAt g) o .edge i && (match o.eltOf i with | some e => edgeReady s g o e | none => false)
  else []

/-- How a request that reaches its place is refused there, if it is: its package is out of reach (R388) or lost (R355), its
protected area does not accept it (R345), or a partition boundary refuses it and it had not passed (R374). -/
def refusedNow (s : State) (g : GRef) (o : Op) (a : Word) (l : Loc) : State × Option FaultInfo :=
  match s.placeCheck g.pkg l with
  | .error fenced => (s, some (refusal o.pid o.act.kind a l fenced))
  | .ok () =>
    let fenced : FaultInfo := { kind := .fenced, sector := a }
    if s.boundaryRefuses g.pkg g.cell l then
      if o.inTransit then (s.draw, if Config.hadPassed s.free then none else some fenced) else (s, some fenced)
    else (s, none)

/-- Notes units of an operation as refused. -/
def refuseUnits (s : State) (g : GRef) (o : Op) (us : List Nat) (f : FaultInfo) : State :=
  finishOp (s.mapOp g o.id fun o => o.note us [] (some f)) g o.id

/-- The refusal that another unit of an atomic of which none has been performed is sure to meet: a faulting instruction
performs no access (R23, R284). -/
def atomRefusal (s : State) (g : GRef) (o : Op) : Option FaultInfo :=
  match o.act with
  | .atom _ =>
    if o.units.any (·.done) then none
    else (o.units.flatMap (·.elts)).findSome? fun e => match s.placeCheck g.pkg e.loc with
      | .error fenced => some (refusal o.pid o.act.kind e.addr e.loc fenced)
      | .ok () =>
        if pathOf e.addr != .local && s.boundaryRefuses g.pkg g.cell e.loc && !o.inTransit then
          some { kind := .fenced, sector := e.addr } else none
  | _ => none

/-- A unit reaches its place and is performed there, or refused. -/
def arriveUnit (s : State) (g : GRef) (o : Op) (j : Nat) : State :=
  match o.eltOf j, atomRefusal s g o with
  | none, _ => s
  | some _, some f => refuseUnits s g o (List.range o.units.length) f
  | some e, none =>
    let r := refusedNow s g o e.addr e.loc
    match r.2 with
    | some f => refuseUnits r.1 g o (o.together j) f
    | none => performUnit r.1 g o.id j

/-- After a unit, the service context goes on with the rest of its message, or with the next one (R321). -/
def setServing (s : State) (g : GRef) (id : Nat) (e : Elt) : State :=
  let more : Bool := match s.opOf g id with
    | some o => o.live && o.units.any fun u => !u.done && u.path == .remote && u.elts.any (Elt.sameSector e)
    | none => false
  s.mapCell e.loc.pkg e.loc.cell fun t => { t with serving := if more then some (g, id, e.loc.off / 32) else none }

/-- MEMORY_EDGE_REQUEST: a memory controller performs one unit of an operation (R166, R320). -/
def execMemoryEdgeRequest (g : GRef) (op : Nat) (s : State) : Host.Outcome State Fault Refusal :=
  occur <| match s.opOf g op with
  | none => s
  | some o =>
    match s.choose (edgeUnits s g o) with
    | (s, some j) => arriveUnit s g o j
    | (_, none) => s

/-- Whether an operation's answer may be delivered. -/
def Op.answerReady (o : Op) : Bool :=
  !o.posted && (match o.act with
    | .query _ => !o.held && !o.shadow || o.performed
    | .launch _ => o.shadow && o.performed
    | _ => o.performed)

/-- The value of a query at the hub when its answer is made (R191, R248). -/
def queryValue (s : State) (g : GRef) (q : Query) : Word :=
  let k := s.pkgAt g.pkg
  match q with
  | .graphTimeline t => Table.get 0 k.tgCount t.toNat
  | .channel c =>
    let slots := (k.allSlots g.pkg).map (·.2)
    let subs := slots.countP fun t => t.subscribed == some c
    let joins := slots.countP fun t => match t.wait with
      | some { what := .join x _, .. } => x == c
      | _ => false
    let who := match (Table.get ({} : Chan) k.chans c.toNat).publisher with
      | some p => 2 ^ 63 + GRef.local16 p * 2 ^ 44
      | none => 0
    BitVec.ofNat 64 (who + subs * 2 ^ 24 + joins)
  | .node x n i => k.nodeInfo x n i.toNat

/-- PRODUCER_VALUE_WRITE: the answer of an operation arrives (R19, R167). -/
def execProducerValueWrite (g : GRef) (op : Nat) (s : State) : Host.Outcome State Fault Refusal :=
  occur <| match s.opOf g op with
  | none => s
  | some o =>
    if !o.answerReady then s
    else match o.act, o.performed with
      | .query q, false =>
        let s := finishOp (s.mapOp g op fun o => { o with performed := true, got := [(0, queryValue s g q)] }) g op
        (match s.opOf g op with | some o => answerOp s g o | none => s)
      | _, _ => answerOp s g o

/-- POSTED_ACKNOWLEDGEMENT: the acknowledgement of a posted operation returns to its slot (R167, R425). -/
def execPostedAcknowledgement (g : GRef) (op : Nat) (s : State) : Host.Outcome State Fault Refusal :=
  occur <| match s.opOf g op with
  | none => s
  | some o => if o.posted && o.performed then acknowledge s g o else s

/-- WAITER_RESEND: an operation that a full waiter table returned is sent again (R174). -/
def execWaiterResend (g : GRef) (op : Nat) (s : State) : Host.Outcome State Fault Refusal :=
  occur <| s.mapOp g op fun o => { o with resend := false }

/-! ## Cancels -/

/-- The full/empty or monitor operation that a slot waits for. -/
def Slot.waitedOp (t : Slot) : Option (Op × Nat) :=
  match t.wait with
  | some { what := .answer id, since } =>
    (t.ops.find? fun o => o.id == id).bind fun o =>
      match o.act with | .fe _ | .monitor _ => some (o, since) | _ => none
  | _ => none

/-- Whether the bound of a wait is reached in this cycle: %FEWAIT rotations after its issue (R175). -/
def Slot.expired (t : Slot) (since now : Nat) : Bool := t.feWait != 0 && now == since + 16 * t.feWait.toNat

/-- FEWAIT_EXPIRY: the cell asks the owner to cancel the operation (R175). -/
def execFewaitExpiry (g : GRef) (s : State) : Host.Outcome State Fault Refusal :=
  occur <| match (s.slotAt g).waitedOp with
  | some (o, since) =>
    if (s.slotAt g).expired since (s.cycleAt g.pkg) && !o.performed then
      s.mapOp g o.id fun o => { o with cancelled := true }
    else s
  | none => s

/-- The WAITLIMIT of a cancelled operation: bit 9 of the auxiliary word, and the lowest active lane's address (R175). -/
def cancelFault (o : Op) : FaultInfo :=
  { kind := .waitlimit, aux := 0x200, sector := (((o.units.flatMap (·.elts)).head?).map (·.addr)).getD 0 }

/-- CANCEL_ANSWER: the owner answers a cancel; an operation that it has not performed never will be (R175). -/
def execCancelAnswer (g : GRef) (s : State) : Host.Outcome State Fault Refusal :=
  occur <| match (s.slotAt g).waitedOp with
  | some (o, _) =>
    if o.cancelled then
      if o.performed then s.mapOp g o.id fun o => { o with cancelled := false }
      else faultOp s g o (cancelFault o)
    else s
  | none => s

/-! ## Arrivals -/

/-- BARRIER_ARRIVAL: an arrival reaches the cell that owns the barrier (R188). -/
def execBarrierArrival (g : GRef) (op : Nat) (s : State) : Host.Outcome State Fault Refusal :=
  occur <| match s.opOf g op with
  | none => s
  | some o =>
    match o.act, o.eltOf 0 with
    | .arrive b, some e =>
      if o.live && serviceFree s g o e && s.passes g.pkg e.loc.pkg && unitFree (s.slotAt g) o .remote 0 then
        let r := refusedNow s g o e.addr e.loc
        match r.2 with
        | some f => refuseUnits r.1 g o [0] f
        | none =>
          let s := r.1.arrive e.loc.pkg e.loc.cell b (GRef.id28 g)
          finishOp (s.mapOp g op fun o => o.note [0] [] none) g op
      else s
    | _, _ => s

/-- WAKE_ARRIVAL: a WAKE reaches its slot (R195). -/
def execWakeArrival (g : GRef) (op : Nat) (s : State) : Host.Outcome State Fault Refusal :=
  occur <| match s.opOf g op with
  | none => s
  | some o =>
    match o.act with
    | .wake w =>
      if o.live && s.passes g.pkg w.pkg then
        let r := refusedNow s g o (lookup o.got 0) { store := .control, pkg := w.pkg, cell := w.cell, off := 0 }
        let s := if r.2.isSome then r.1 else r.1.mapSlot w Slot.woken
        finishOp (s.mapOp g op fun o => { o with performed := true, fault := r.2 }) g op
      else s
    | _ => s

/-- PARK_TIMEOUT: the bound of a PARK is reached, which then writes 1 (R194). -/
def execParkTimeout (g : GRef) (s : State) : Host.Outcome State Fault Refusal :=
  occur <| s.mapSlot g fun t =>
    match t.wait with
    | some { what := .wake d, since } => if t.expired since (s.cycleAt g.pkg) then (t.putS d 1).endWait else t
    | _ => t

/-! ## Ends of holds, and the instruction cache -/

/-- A hold of a slot for one reason ends once its cycle has come. -/
def endHold (w : HoldWhy) (g : GRef) (s : State) : Host.Outcome State Fault Refusal :=
  occur <| s.mapSlot g fun t =>
    match t.hold with
    | some h => if h.why = w ∧ h.till ≤ s.cycleAt g.pkg then { t with hold := none } else t
    | none => t

/-- IDLE_DELAY_END (R136). -/
def execIdleDelayEnd (g : GRef) (s : State) : Host.Outcome State Fault Refusal := endHold .idle g s
/-- XACC_HOLD_END (R162). -/
def execXaccHoldEnd (g : GRef) (s : State) : Host.Outcome State Fault Refusal := endHold .xacc g s
/-- SLOT_START_FIRST_ISSUE: a started slot may issue (R262). -/
def execSlotStartFirstIssue (g : GRef) (s : State) : Host.Outcome State Fault Refusal := endHold .start g s
/-- RESUMED_SLOT_FIRST_ISSUE: a resumed slot may issue (R367). -/
def execResumedSlotFirstIssue (g : GRef) (s : State) : Host.Outcome State Fault Refusal := endHold .resume g s
/-- GROUP_START: a slot of a committed group may issue its first instruction, an acquire of what made its records
launchable (R305, R278). -/
def execGroupStart (g : GRef) (s : State) : Host.Outcome State Fault Refusal := endHold .group g s

/-- WAITQ_SATISFIED: the wait of a clause header is over (R53). -/
def execWaitqSatisfied (g : GRef) (s : State) : Host.Outcome State Fault Refusal :=
  occur <| match (s.slotAt g).clause with
  | some c => (passWaitq s g c.hdr).1
  | none => s

/-- INSTRUCTION_CACHE_REFILL: the lines that a slot waits for are read, or a fault is found for it (R340). Where the boundary of
its partition refuses by now, the request had passed it or not (R374). -/
def execInstructionCacheRefill (g : GRef) (s : State) : Host.Outcome State Fault Refusal :=
  occur <| match (s.slotAt g).refill with
  | some (h, none) =>
    if !refillReady s g (s.slotAt g).pid h then s
    else if (refillRefused s g h).isSome && !Config.hadPassed s.free then
      s.draw.mapSlot g fun t => { t with refill := some (h, refillRefused s g h) }
    else
      let r := refillClause s g (s.slotAt g).pid h
      r.1.mapSlot g fun t => { t with refill := r.2.map fun f => (h, some f) }
  | _ => s

/-- ICINV_COMPLETE: the lines of the cell's cache are gone, and the slot fetches again (R133). -/
def execIcinvComplete (g : GRef) (s : State) : Host.Outcome State Fault Refusal :=
  occur <| if (s.slotAt g).icinv then
    (s.mapCell g.pkg g.cell fun t => { t with icache := [] }).mapSlot g fun t => { t with icinv := false }
  else s

/-- ILLEGAL_ENCODING: the word at the slot's place is no instruction, and the slot traps CLAUSE or ILLEGAL (R69, R70,
R72). -/
def execIllegalEncoding (clause : Bool) (s : State) : Host.Outcome State Fault Refusal :=
  if s.hasPkg s.cur.pkg then .next (faultHere s s.cur { kind := if clause then .clause else .illegal })
  else .fault .noPackage

end Sys2Proof.Machine
end

