-- ==== Sys2Proof/Machine/Control.lean ====
section
/-! DEFINITION. Control transfer, loops, TAKE, special registers, traps and the system instructions: majors 0x0C-0x10,
0x33, REGMODE and 0x32 (R116-R136). -/

namespace Sys2Proof.Machine

/-- Whether the slot at hand executes a published instruction (R109). -/
def State.atSub (s : State) : Bool := (s.slotAt s.cur).following

/-- The operands of a branch: in a subscriber its sources are not read and a TAKE prefix takes nothing (R109). So for LOOP
and IDLE, of whose prefix R109 does not speak. DEDUCED, log 29. -/
def branchOpnds (s : State) (o : Opnds) : Opnds := if s.atSub then { dsts := o.dsts, words := o.words } else o

/-- The address of the instruction at hand. -/
def Slot.instrAddr (t : Slot) : Word := t.head + BitVec.ofNat 64 (4 * t.pos)

/-- A branch offset in words from the clause header (R55). -/
def offsetBy {w : Nat} (h : Word) (i : BitVec w) : Word := h + i.signExtend 64 * 4

/-- A TRANSFER OF CONTROL to a target that is checked first (R116); `pops` says whether R123 applies, `link` the
register that takes the link value. -/
def transfer (c : Ctx) (target : Word) (pops : Bool) (link : Option SReg) : Issue :=
  let t := c.slot
  match checkTarget c.s c.g target with
  | (s, .wait) => .fetching s
  | (_, .bad f) => .trap f
  | (s, .ok _) =>
    let s := match link with
      | some d => s.setS c.g d t.nextClause
      | none => s
    .jump (if pops then s.mapSlot c.g fun t => { t with loops := t.loops.leave 5 t.instrAddr target } else s) target

/-- In a subscriber a transfer only writes the publisher's link value (R109). -/
def linkOnly (c : Ctx) (link : Option SReg) : Issue :=
  match link with
  | some d => .done (c.setS d c.slot.nextClause)
  | none => .done c.s

/-- A condition of BC and DEPART (R63, R118). -/
def condHolds (k : Cond) (x : Word) (t : Slot) : Bool :=
  match k with
  | .eqz => x == 0
  | .nez => x != 0
  | .ltz => x.msb
  | .gez => !x.msb
  | .gtz => !x.msb && x != 0
  | .lez => x.msb || x == 0
  | .any => t.anyActive
  | .none => !t.anyActive
  | .all => (List.range 32).all t.isActive

/-- The sources of a conditional branch: none for a lane condition (R118). -/
def condOpnds (k : Cond) (a : SReg) : Opnds := if k.lane then {} else Opnds.a a

/-- BR (R117). -/
def execBr (i : BitVec 19) (s : State) : Host.Outcome State Fault Refusal :=
  run s (branchOpnds s {}) fun c => if c.sub then linkOnly c none else transfer c (offsetBy c.slot.head i) true none

/-- BC (R118). -/
def execBc (k : Cond) (a : SReg) (i : BitVec 12) (s : State) : Host.Outcome State Fault Refusal :=
  run s (branchOpnds s (condOpnds k a)) fun c =>
    if c.sub then linkOnly c none
    else if condHolds k (c.sreg a) c.slot then transfer c (offsetBy c.slot.head i) true none
    else .done c.s

/-- JR (R119). -/
def execJr (a : SReg) (s : State) : Host.Outcome State Fault Refusal :=
  run s (branchOpnds s (Opnds.a a)) fun c => if c.sub then linkOnly c none else transfer c (c.sreg a) true none

/-- JALR: the target is read before the link is written, and no loop entry is popped (R119, R123). -/
def execJalr (d a : SReg) (s : State) : Host.Outcome State Fault Refusal :=
  run s (branchOpnds s (Opnds.ss d a)) fun c =>
    if c.sub then linkOnly c (some d) else transfer c (c.sreg a) false (some d)

/-- BAL (R120). -/
def execBal (d : SReg) (i : BitVec 19) (s : State) : Host.Outcome State Fault Refusal :=
  run s (branchOpnds s (Opnds.d d)) fun c =>
    if c.sub then linkOnly c (some d) else transfer c (offsetBy c.slot.head i) false (some d)

/-- The LOOP of a slot that fetches for itself (R121, R124). It checks the clause E, and then the one to which it transfers
control: Z, or with `n ≠ 0` S, the clause that follows (R55, R56, R116, R122). -/
def loopBody (c : Ctx) (n : Word) (i : BitVec 12) : Issue :=
  let t := c.slot
  let e := offsetBy t.head i
  if i.toInt < 1 + (t.clauseLen : Int) then .trap { kind := .clause, aux := e }
  else match checkTarget c.s c.g e with
  | (s, .wait) => .fetching s
  | (_, .bad f) => .trap f
  | (s, .ok w) =>
    let z := e + BitVec.ofNat 64 (4 * (1 + fld w 0 4))
    if n = 0 then
      match checkTarget s c.g z with
      | (s, .wait) => .fetching s
      | (_, .bad f) => .trap f
      | (s, .ok _) => .jump (s.mapSlot c.g fun t => { t with loops := t.loops.leave 5 t.instrAddr z }) z
    else
      let start := t.nextClause
      let l := t.loops.leave 5 t.instrAddr start
      if l.depth = 4 then .trap { kind := .clause, aux := BitVec.allOnes 64 }
      else match checkTarget s c.g start with
      | (s, .wait) => .fetching s
      | (_, .bad f) => .trap f
      | (s, .ok _) => .jump (s.mapSlot c.g fun t =>
        { t with loops := l.push { start := start, last := e, after := z, remaining := n } }) start

/-- LOOP (R121). -/
def execLoop (a : SReg) (i : BitVec 12) (s : State) : Host.Outcome State Fault Refusal :=
  run s (branchOpnds s (Opnds.a a)) fun c => if c.sub then linkOnly c none else loopBody c (c.sreg a) i

/-- TAKE latches its prefix; the instruction it prefixes executes in the same turn (R50, R66, R126). -/
def execTake (ta tb : Bool) (s : State) : Host.Outcome State Fault Refusal :=
  if s.hasPkg s.cur.pkg then .next (s.mapSlot s.cur fun t => { t with take := some (ta, tb) })
  else .fault .noPackage

/-! ## REGMODE -/

/-- Sets the mode bits of registers (R128). -/
def setModes (set : NumSet) (rs : List Nat) (trap : Bool) : NumSet :=
  rs.foldl (fun m r => if trap then m.insert r else m.erase r) set

/-- REGMODE: `l` for every register of the file, `v` for the vector file, `m` the mode (R128). -/
def execRegmode (r : BitVec 7) (l v m : Bool) (s : State) : Host.Outcome State Fault Refusal :=
  run s { named := if v && !l then [r] else [] } fun c =>
    .done (c.s.mapSlot c.g fun t =>
      let rs := if l then List.range (if v then t.regLim.toNat else 32) else [r.toNat]
      if v then { t with vTrap := setModes t.vTrap rs m } else { t with sTrap := setModes t.sTrap rs m })

/-! ## Special registers -/

/-- %MWIN: the window of this cycle, the windows that the power cap withholds, the windows of this slot (R33, R308). -/
def mwinOf (k : Pkg) (t : Cell) (n : SlotId) : Nat :=
  let h := k.capNow.toNat
  let own := (List.range 16).foldl (fun acc w =>
    let e := Table.get 0 t.rotation w
    if e.getLsbD 7 && e.extractLsb' 0 4 == n then acc + 2 ^ w else acc) 0
  own + (2 ^ 16 - 2 ^ (16 - h)) * 2 ^ 16 + (k.cycle / 16 % 16) * 2 ^ 32

/-- %CHAN (R33). -/
def Slot.chanWord (t : Slot) : Nat :=
  (match t.publishing with | some c => 2 ^ 12 + c.toNat | none => 0) +
  (match t.subscribed with | some c => 2 ^ 28 + c.toNat * 2 ^ 16 | none => 0)

/-- The value of a special register of a slot (R28-R33). -/
def State.readSr (s : State) (g : GRef) (r : SpecReg) : Word :=
  let k := s.pkgAt g.pkg
  let c := k.cellAt g.cell
  let t := c.slotAt g.slot
  match r with
  | .slot => g.slot.setWidth 64
  | .cell => g.cell.setWidth 64
  | .pkg => BitVec.ofNat 64 (g.pkg.toNat + k.domain.toNat * 2 ^ 12)
  | .gang => t.gang
  | .gslot => gslotWord k.domain g
  | .node => t.node
  | .group => t.group
  | .reccnt => t.recCnt
  | .time => BitVec.ofNat 64 k.time
  | .cycle => BitVec.ofNat 64 k.cycle
  | .fpmode => t.rm.setWidth 64
  | .fpflags => t.fpFlags.setWidth 64
  | .rngkey => t.rngKey
  | .rngctr => t.rngCtr
  | .stat => BitVec.ofNat 64 (flag t.statDz + 2 * flag t.statRw + 4 * flag (k.timeUnc || k.refLost))
  | .fewait => t.feWait.setWidth 64
  | .pid => t.pid.setWidth 64
  | .regbase => t.regBase.setWidth 64
  | .reglim => t.regLim.setWidth 64
  | .priv => BitVec.ofNat 64 (flag t.priv)
  | .cvtsrc => t.cvtSrc.setWidth 64
  | .mwin => BitVec.ofNat 64 (mwinOf k c g.slot)
  | .chan => BitVec.ofNat 64 t.chanWord
  | .depth => t.depth
  | .lead => BitVec.ofNat 64 (flag (g.slot == 0) + 2 * flag t.groupLead)

/-- Whether a slot may write a special register: RW by all, RP with the privilege bit, RO never (R28, R29). -/
def srNeeds : SpecReg → Needs
  | .fpmode | .fpflags | .rngkey | .rngctr | .stat | .fewait | .cvtsrc => .nothing
  | .pid => .super
  | _ => .never

/-- Writes the fields of a special register; reserved bits ignore the value (R29, R32). -/
def Slot.writeSr (t : Slot) (r : SpecReg) (v : Word) : Slot :=
  match r with
  | .fpmode => { t with rm := v.extractLsb' 0 2 }
  | .fpflags => { t with fpFlags := v.extractLsb' 0 5 }
  | .rngkey => { t with rngKey := v }
  | .rngctr => { t with rngCtr := v }
  | .stat => { t with statDz := v.getLsbD 0, statRw := v.getLsbD 1 }
  | .fewait => { t with feWait := v.extractLsb' 0 32 }
  | .cvtsrc => { t with cvtSrc := v.extractLsb' 0 7 }
  | .pid => { t with pid := v.extractLsb' 0 16 }
  | _ => t

/-- GETSR (R129). -/
def execGetsr (d : SReg) (n : SpecReg) (s : State) : Host.Outcome State Fault Refusal :=
  run s (Opnds.d d) fun c => .done (c.setS d (c.s.readSr c.g n))

/-- SETSR (R29, R129). -/
def execSetsr (a : SReg) (n : SpecReg) (s : State) : Host.Outcome State Fault Refusal :=
  run s { srcs := [.s a], tb := some (.s a), needs := srNeeds n } fun c =>
    .done (c.s.mapSlot c.g fun t => t.writeSr n (c.sreg a))

/-! ## Traps, LOCALITY, ICINV, NOP, IDLE -/

/-- TRAP: completes, and the slot stops after it (R131). Under a TAKE prefix it takes nothing, as an instruction that faults
(R67). DESIGN CHOICE, log 29. -/
def execTrap (a : SReg) (k : BitVec 7) (s : State) : Host.Outcome State Fault Refusal :=
  run s { srcs := [.s a], tb := some (.s a), pub := false } fun c =>
    .stopAfter { kind := .trap, aux := (c.sreg a) <<< 8 ||| k.setWidth 64 }

/-- BRKPT (R131). -/
def execBrkpt (k : BitVec 7) (s : State) : Host.Outcome State Fault Refusal :=
  run s { pub := false } fun _ => .stopAfter { kind := .breakpoint, aux := k.setWidth 64 }

/-- The distance of two numbers. -/
def absDiff (a b : Nat) : Nat := if a ≤ b then b - a else a - b

/-- LOCALITY's result for two cells (R132). -/
def localityOf (a b : CellId) : Nat :=
  flag (dieOf a == dieOf b) + 2 * flag (a == b) +
    (absDiff (cellX a) (cellX b) + absDiff (cellY a) (cellY b)) * 2 ^ 8

/-- LOCALITY (R132). -/
def execLocality (d a : SReg) (s : State) : Host.Outcome State Fault Refusal :=
  run s { srcs := [.s a], dsts := [.s d], tb := some (.s a) } fun c =>
    let x := c.sreg a
    .done (c.setS d (BitVec.ofNat 64 (localityOf (x.extractLsb' 0 12) (x.extractLsb' 16 12))))

/-- Whether ICINV must wait for an operation: a store or an atomic into device memory, or a copy launch (R133). -/
def Op.beforeIcinv (o : Op) : Bool :=
  match o.act with
  | .store | .atom _ => o.units.any fun u => u.path == .edge
  | .launch _ => true
  | _ => false

/-- Whether ICINV waits for a refused operation: a store into device memory (R133, R425). -/
def RefusedOp.beforeIcinv (o : RefusedOp) : Bool := o.kind == .store && bits o.addr.toNat 60 4 == 2

/-- ICINV: waits, then begins the invalidation that ICINV_COMPLETE ends (R133). -/
def execIcinv (s : State) : Host.Outcome State Fault Refusal :=
  run s {} fun c =>
    if c.slot.ops.any Op.beforeIcinv then .hold
    else (c.slot.toReport false RefusedOp.beforeIcinv).getD (.done (c.s.mapSlot c.g fun t => { t with icinv := true }))

/-- NOP (R135). -/
def execNop (s : State) : Host.Outcome State Fault Refusal := run s {} fun c => .done c.s

/-- IDLE: the next instruction issues no earlier than 16 · (1 + n) cycles later (R136); a subscriber reads nothing and
is not delayed (R109). -/
def execIdle (a : SReg) (s : State) : Host.Outcome State Fault Refusal :=
  run s (branchOpnds s { srcs := [.s a], tb := some (.s a) }) fun c =>
    if c.sub then .done c.s
    else
      let n := (c.sreg a).toNat % 2 ^ 32
      .done (if n = 0 then c.s
        else c.s.mapSlot c.g fun t => { t with hold := some { why := .idle, till := c.cycle + 16 * (1 + n) } })

end Sys2Proof.Machine
end

