-- ==== Sys2Proof/Machine/Channel.lean ====
section
/-! DEFINITION. Channels: major 0x2F (R238-R249), the registry, and what reaches a subscriber. -/

namespace Sys2Proof.Machine

/-- A CHANNEL trap (R239). -/
def chanTrap (code : Nat) : Issue := .trap { kind := .channel, aux := BitVec.ofNat 64 code }

/-- Whether a channel operand has a bit outside its channel number and its marker (R238). -/
def badChan (w : Word) : Bool := bits w.toNat 12 4 != 0 || bits w.toNat 24 40 != 0

/-- Operands of an instruction that names a channel. -/
def chanOpnds (a : SReg) : Opnds := { srcs := [.s a], tb := some (.s a) }

/-- PUBLISH sets out for the registry; the slot goes on with its answer (R240). DESIGN CHOICE: a slot that publishes already and names
a malformed operand traps with code 2, since R239 gives no order of its codes (log 43). -/
def execPublish (a : SReg) (s : State) : Host.Outcome State Fault Refusal :=
  run s { chanOpnds a with pub := false } fun c =>
    if c.slot.publishing.isSome then chanTrap 2
    else if badChan (c.sreg a) then chanTrap 3
    else .engage (c.s.mapSlot c.g fun t => { t with registering := some ((c.sreg a).extractLsb' 0 12) })

/-- Sets the publisher of a channel. -/
def State.setPublisher (s : State) (p : PkgId) (c : BitVec 12) (w : Option GRef) : State :=
  s.mapPkg p fun k => { k with chans := Table.put k.chans c.toNat { Table.get {} k.chans c.toNat with publisher := w } }

/-- Whether a PUBLISH cannot arrive in this cycle any more: one of a higher package-local slot number has in this cycle, and of
two that arrive in one cycle the lower number's is the first (R240). -/
def Chan.tooLate (x : Chan) (g : GRef) (now : Nat) : Bool :=
  match x.publisher with
  | some w => x.since == now && decide (GRef.local16 g < GRef.local16 w)
  | none => false

/-- CHANNEL_REGISTRY: a PUBLISH arrives at the registry; the first for a channel succeeds (R240). -/
def execChannelRegistry (g : GRef) (s : State) : Host.Outcome State Fault Refusal :=
  occur <| match (s.slotAt g).registering with
  | none => s
  | some c =>
    let now := s.cycleAt g.pkg
    let x := Table.get ({} : Chan) (s.pkgAt g.pkg).chans c.toNat
    let s' := s.mapSlot g fun t => { t with registering := none }
    if x.tooLate g now then s
    else match x.publisher with
    | some _ => faultHere (s'.mapSlot g fun t => { t with waitNext := none }) g { kind := .channel, aux := 1 }
    | none =>
      let s := s'.mapPkg g.pkg fun k => { k with chans := Table.put k.chans c.toNat { x with publisher := some g, since := now } }
      s.mapSlot g fun t => { t with publishing := some c }.endWait

/-- UNPUBLISH frees the channel and sends the end mark down it (R240). -/
def execUnpublish (s : State) : Host.Outcome State Fault Refusal :=
  run s { pub := false } fun c =>
    match c.slot.publishing with
    | none => chanTrap 4
    | some ch =>
      let next := c.s.nextPlace c.g 1
      let s := sendItem c.s c.g ch none (.endMark next.1 next.2.1 next.2.2)
      .done ((s.setPublisher c.g.pkg ch none).mapSlot c.g fun t => { t with publishing := none })

/-- SUBSCRIBE: the slot is a joiner from this cycle on (R241). -/
def execSubscribe (a : SReg) (s : State) : Host.Outcome State Fault Refusal :=
  run s (chanOpnds a) fun c =>
    if c.slot.publishing.isSome then chanTrap 2
    else if badChan (c.sreg a) then chanTrap 3
    else
      let ch := (c.sreg a).extractLsb' 0 12
      .park (c.s.joinChannel c.g ch 0) (.join ch 0)

/-- REJOIN: a joiner at a marker (R241). -/
def execRejoin (a : SReg) (s : State) : Host.Outcome State Fault Refusal :=
  run s (chanOpnds a) fun c =>
    let w := c.sreg a
    if c.slot.publishing.isSome then chanTrap 2
    else if badChan w || w.extractLsb' 16 8 == 0 then chanTrap 3
    else
      let ch := w.extractLsb' 0 12
      let m := w.extractLsb' 16 8
      .park (c.s.joinChannel c.g ch m) (.join ch m)

/-- Whether the slot at hand is SUBSCRIBED. -/
def State.inChannel (s : State) : Bool := (s.slotAt s.cur).mode == .subscribed

/-- DEPART: only a slot that is SUBSCRIBED may leave, on its own condition; in any other it reads nothing (R247). DESIGN CHOICE: while
the check fetches a target that is not cached the slot stays subscribed, and the next published instruction stops it (log 43). -/
def execDepart (k : Cond) (a : SReg) (i : BitVec 7) (s : State) : Host.Outcome State Fault Refusal :=
  run s (if s.inChannel then (if k.lane then {} else chanOpnds a) else {}) fun c =>
    if s.inChannel && condHolds k (c.sreg a) c.slot then
      let target := offsetBy c.slot.head i
      match checkTarget c.s c.g target with
      | (s, .wait) => .fetching s
      | (_, .bad f) => .trap f
      | (s, .ok _) => .jump (s.mapSlot c.g fun t =>
          { t with mode := if t.mode = .subscribed then .run else t.mode, subscribed := none, inbox := [] }) target
    else .done c.s

/-- CHSTAT: a snapshot of a channel, made at the hub (R248). -/
def execChstat (d a : SReg) (s : State) : Host.Outcome State Fault Refusal :=
  run s { chanOpnds a with dsts := [.s d] } fun c =>
    if badChan (c.sreg a) then chanTrap 3
    else c.issueAlone (c.newOp (.query (.channel ((c.sreg a).extractLsb' 0 12))) .hub (.scalar d))

/-! ## Giving up a wait -/

/-- Withdraws a record request that waits on a node (R196, R254). -/
def State.withdraw (s : State) (g : GRef) (id : Nat) : State :=
  s.mapPkg g.pkg fun k =>
    { k with graphs := k.graphs.map fun e =>
        (e.1, { e.2 with nodes := e.2.nodes.map fun n => { n with waiters := n.waiters.filter (· != (g, id)) } }) }

/-- THE WAIT OF A SLOT IS GIVEN UP (R196): an operation that has been performed completes first, one that has not never
will be; every other wait is simply over. The slot then stands at the earliest instruction that it has not executed. -/
def abandonWait (s : State) (g : GRef) : State :=
  let ended (s : State) : State := s.mapSlot g fun t => { t with wait := none, waitNext := none }
  match (s.slotAt g).wait with
  | some { what := .answer id, .. } | some { what := .rallocw id, .. } =>
    match s.opOf g id with
    | some o =>
      if o.performed then answerOp s g o
      else ended ((((s.unwait g o).withdraw g id).dropOp g id).mapSlot g fun t => t.restore o)
    | none => ended s
  | some _ => ended s
  | none => s

/-- Whether a slot's MMA or MMAZ has steps that have not been read (R229). -/
def Cell.inMma (t : Cell) (n : SlotId) : Bool := t.mma.any (·.slot == n)

/-- A subscriber stops as its channel made it: its wait is given up, and it traps where it stands (R244, R246). -/
def stopNow (s : State) (g : GRef) (f : FaultInfo) : State :=
  let s := abandonWait (s.mapSlot g fun t => { t with stopping := none }) g
  if (s.slotAt g).mode = .trapped then s else faultHere s g f

/-- Whether a slot is still held in an MMA, MMAZ or exact sum (R162, R229, R310). -/
def Slot.inLong (t : Slot) (now : Nat) : Bool :=
  match t.hold with
  | some h => (h.why == .xacc || h.why == .mma) && decide (now < h.till)
  | none => false

/-- Whether an instruction that holds a slot has not completed: an MMA, an exact sum, or one that its engine lets go with an
answer (R162, R229, R240, R256, R257). -/
def State.engaged (s : State) (g : GRef) : Bool :=
  let t := s.slotAt g
  (s.cellAt g.pkg g.cell).inMma g.slot || t.inLong (s.cycleAt g.pkg) || (t.waitNext.isSome && t.wait.isNone) ||
  t.ops.any fun o => match o.act with | .xacc _ => true | _ => false

/-- The stop that the instruction at hand of a subscriber has outlasted, taken once no instruction holds the slot (R244). -/
def settleStop (s : State) (g : GRef) : State :=
  match (s.slotAt g).stopping with
  | some f => if s.engaged g then s else stopNow s g f
  | none => s

/-- A slot that has outlasted its stop: nothing is left that it waits on or is held in (R244). -/
def stopDue (s : State) : Option GRef :=
  (s.allSlots.find? fun e => e.2.stopping.isSome && e.2.pendingPub.isNone && e.2.wait.isNone && !s.engaged e.1).map (·.1)

/-- A subscriber leaves its channel with a stop to come, which it takes at once where it waits, and after its turn where it
might issue in it (R244, R246). -/
def stopLater (s : State) (g : GRef) (f : FaultInfo) : State :=
  let t := s.slotAt g
  let s := s.mapSlot g fun t => { t with inbox := [], subscribed := none, stopping := some f }
  if t.wait.isSome || t.pendingPub.isNone then settleStop s g else s

/-! ## What reaches a subscriber -/

/-- Whether a slot is held in this cycle. -/
def Slot.heldAt (t : Slot) (now : Nat) : Bool := match t.hold with | some h => decide (now < h.till) | none => false

/-- The oldest item that is due to a slot in this cycle. -/
def State.dueItem (s : State) (g : GRef) : Option Published :=
  ((s.slotAt g).inbox.head?).bind fun e => if e.due ≤ s.cycleAt g.pkg then some e else none

/-- Takes the oldest item out of a slot's inbox. -/
def State.takeItem (s : State) (g : GRef) : State := s.mapSlot g fun t => { t with inbox := t.inbox.tail }

/-- The code-6 fault of R244. -/
def overrun : FaultInfo := { kind := .channel, aux := 6 }

/-- A published instruction reaches a slot (R242-R244): a joiner joins, a subscriber receives it, and one that still
waits or is held loses it. -/
def receive (s : State) (g : GRef) (e : Published) (c : BitVec 12) : State :=
  let t := s.slotAt g
  let cell := s.cellAt g.pkg g.cell
  match e.item with
  | .instr _ _ head pos clause start _ _ _ =>
    let put (t : Slot) : Slot :=
      { t with head := head, pos := pos, clause := some clause, pendingPub := some e, take := none
               waitqDone := if pos = 1 then false else t.waitqDone, mmaStep := 0 }
    let joins : Bool := match t.wait with | some { what := .join x _, .. } => x == c | _ => false
    if t.mode = .parked ∧ joins then
      s.mapSlot g fun t =>
        put { t with mode := .subscribed, subscribed := some c, wait := none, waitNext := none, joinPoint := none
                     loops := start, clauseLoops := start }
    else if t.mode = .subscribed then
      if t.pendingPub.isSome || t.wait.isSome || t.heldAt (s.cycleAt g.pkg) || cell.inMma g.slot then stopLater s g overrun
      else s.mapSlot g put
    else s
  | _ => s

/-- PUBLISHED_INSTRUCTION (R242). -/
def execPublishedInstruction (g : GRef) (s : State) : Host.Outcome State Fault Refusal :=
  occur <| match s.dueItem g with
  | some e => match e.item with
    | .instr .. => receive (s.takeItem g) g e e.chan
    | _ => s
  | none => s

/-- END_MARK: the subscriber leaves the channel; an instruction that it still waits on or is held in it completes first,
and then it goes on where the publisher does (R240). -/
def execEndMark (g : GRef) (s : State) : Host.Outcome State Fault Refusal :=
  occur <| match s.dueItem g with
  | some e => match e.item with
    | .endMark head pos loops =>
      (s.takeItem g).mapSlot g fun t =>
        if t.mode != .subscribed then t
        else
          let t := { t with subscribed := none, inbox := [] }
          match t.pendingPub, t.pendingPub.map Published.item with
          | some i, some (PubItem.instr w k h p cl st _ _ _) =>
            { t with mode := if t.wait.isSome then .parked else .run
                     pendingPub := some { i with item := .instr w k h p cl st head pos loops }
                     waitNext := t.waitNext.map fun _ => (head, pos, loops) }
          | _, _ =>
            let t := t.goTo (head, pos, loops)
            { t with mode := .run, clause := none, waitqDone := decide (pos ≠ 0)
                     hold := if t.heldAt (s.cycleAt g.pkg) then t.hold else some { why := .leave, till := s.cycleAt g.pkg + 1 } }
    | _ => s
  | none => s

/-- CHANNEL_STOP: the publisher stopped at an instruction, at which the subscriber stops too (R246). -/
def execChannelStop (g : GRef) (s : State) : Host.Outcome State Fault Refusal :=
  occur <| match s.dueItem g with
  | some e => match e.item with
    | .stop kind who head pos =>
      let s := s.takeItem g
      let t := s.slotAt g
      let f : FaultInfo := { kind := .channel, aux := BitVec.ofNat 64 (5 + kind.toNat * 2 ^ 8 + who.toNat * 2 ^ 16) }
      if t.mode != .subscribed then s
      else if t.pendingPub.isSome then stopLater s g f
      else faultHere (s.mapSlot g fun t => t.goTo (head, pos, t.loops)) g f
    | _ => s
  | none => s

/-- JOIN_WAIT_EXPIRY: the bound of a join wait is reached (R241). -/
def execJoinWaitExpiry (g : GRef) (s : State) : Host.Outcome State Fault Refusal :=
  occur <|
    let t := s.slotAt g
    match t.wait with
    | some { what := .join _ _, since } =>
      if t.expired since (s.cycleAt g.pkg) then
        match t.joinPoint with
        | some (c, m) => takeFault s g
            { kind := .waitlimit, aux := BitVec.ofNat 64 (2 ^ 10 + c.toNat * 2 ^ 16 + m.toNat * 2 ^ 32) } 0 0 (0, 0, t.loops)
        | none => faultHere s g { kind := .waitlimit, aux := 0x400 }
      else s
    | _ => s

end Sys2Proof.Machine
end

