-- ==== Sys2Proof/Machine/Shawm.lean ====
section
/-! DEFINITION. The Shawm (R251-R259, R285-R306): writes to a node's queue, the life of a record, requests, placement and
group commit, the end of a group's slot, and what starts a slot. -/

namespace Sys2Proof.Machine

/-! ## Device-memory accesses of the hub -/

/-- The cell whose translation station serves the hub's own accesses. DESIGN CHOICE, log 11. -/
def hubCell : CellId := 0

/-- A fault of the hub's own access is reported to the host, through the host fault ring (R363, R398, R402). -/
def reportFault (s : State) (p : PkgId) (pid : BitVec 16) (f : FaultInfo) : State :=
  s.mapPkg p fun k =>
    { k with waiting := k.waiting ++ [{ ring := .host, cell := hubCell, slot := none, ctx := none
                                        record := { kind := f.kind.code, sector := f.sector, aux := f.aux
                                                    time := BitVec.ofNat 64 k.time, cycle := BitVec.ofNat 32 k.cycle
                                                    pid := pid } }] }

/-- A write of the host that can no longer be acknowledged: where it was captured, SVDONE reads 2 (R401). -/
def Pkg.lostWrite (k : Pkg) (n : Nat) : Pkg :=
  { k with svdone := if k.svCaptured.contains n then 2 else k.svdone, svCaptured := k.svCaptured.filter (· != n) }

/-- How a write of the hub or the host of package `p` is refused at its place, if it is (R42, R345, R355, R374, R388). -/
def State.hubRefusal (s : State) (p : PkgId) (pid : BitVec 16) (a : Word) (l : Loc) (k : Acc) : Option FaultInfo :=
  match s.placeCheck p l with
  | .error fenced => some (refusal pid k.kind a l fenced)
  | .ok () => if s.hubRefuses l then some { kind := .fenced, sector := a } else none

/-- Whether a waiting entry of the hub is a write, and no mark of what comes after it. -/
def HubWrite.isWrite (w : HubWrite) : Bool := w.signal.isNone && w.launch.isNone

/-- A refused write of the host is reported like a translation fault (R398). -/
def refuseWrite (s : State) (p : PkgId) (w : HubWrite) (f : FaultInfo) : State :=
  match w.issuer with
  | .host n => reportFault (s.mapPkg (hostPkg n) fun k => k.lostWrite n) p (BitVec.ofNat 16 (s.pkgAt p).wpid.toNat) f
  | _ => s

/-- Performs a write of the hub or the host at its place, unless it is refused there. -/
def placeWrite (s : State) (p : PkgId) (w : HubWrite) : State :=
  match s.hubRefusal p (BitVec.ofNat 16 (s.pkgAt p).wpid.toNat) w.addr w.loc .strWrite with
  | some f => refuseWrite s p w f
  | none =>
    let s := s.storeBytes w.loc w.addr w.bytes w.issuer
    let s := if w.poison then s.poisonPlace w.loc else s
    match w.loc.store with | .spad => s.settle w.loc.pkg w.loc.cell | _ => s

/-- Whether the place of a write of the hub or the host answers now (R347, R352, R386). -/
def State.writeAnswers (s : State) (p : PkgId) (l : Loc) : Bool :=
  (s.hubRefusal p 0 0 l .strWrite).isSome || (s.linked p l.pkg && s.storeReady l)

/-- Writes bytes of one sector for a hub unit or the host; a protected sector that is not ready, or a package whose ports
are down, keeps them waiting (R347, R348, R386). -/
def issueStore (i : Issuer) (s : State) (p : PkgId) (l : Loc) (a : Word) (bs : List Byte) (poison : Bool := false) : State :=
  let s := s.mendPlace l
  let w : HubWrite := { loc := l, addr := a, bytes := bs, issuer := i, poison := poison }
  if s.writeAnswers p l && (s.pkgAt p).hubWrites.isEmpty then placeWrite s p w
  else s.mapPkg p fun k => { k with hubWrites := k.hubWrites ++ [w] }

/-- Writes bytes of one sector for a hub unit. -/
def hubStore (s : State) (p : PkgId) (l : Loc) (a : Word) (bs : List Byte) : State := issueStore .hub s p l a bs

/-- The slot that supervises a partition, if none of the host does. -/
def State.superSlot (s : State) (p : PkgId) (q : BitVec 3) : Option GRef :=
  let e : Part := Table.get {} (s.pkgAt p).parts q.toNat
  if e.field 0 31 1 = 1 then none else some (GRef.ofWord (Table.get 0 e.words 1))

/-- Whether a signal gets to its supervisor now, or can no longer get to it (R386, R388). -/
def State.signalPasses (s : State) (p : PkgId) (x : BitVec 3 × Nat) : Bool :=
  match s.superSlot p x.1 with
  | some g => s.passes p g.pkg
  | none => true

/-- A supervisor is signalled: the host by a bit of INTSTAT, a slot by a WAKE at `.dm`, which is lost where its package is out of
reach (R363, R372, R388, R399). -/
def signalSuper (s : State) (p : PkgId) (x : BitVec 3 × Nat) : State :=
  match s.superSlot p x.1 with
  | some g => if s.shut p g.pkg then s else s.mapSlot g Slot.woken
  | none => s.mapPkg p fun k => { k with intstat := k.intstat ||| BitVec.ofNat 64 (2 ^ x.2) }

/-- An entry of the hub's queue that marks what comes after the writes before it. -/
def hubMark (p : PkgId) : HubWrite := { loc := { store := .hbm, pkg := p, off := 0 }, addr := 0, bytes := [] }

/-- Signals a supervisor once every earlier write of the hub has been performed and it can be reached. -/
def hubSignal (s : State) (p : PkgId) (x : BitVec 3 × Nat) : State :=
  if (s.pkgAt p).hubWrites.isEmpty && s.signalPasses p x then signalSuper s p x
  else s.mapPkg p fun k => { k with hubWrites := k.hubWrites ++ [{ hubMark p with signal := some x }] }

/-- A hub write of aligned bytes of one sector at a virtual address; the answer is the fault that it meets on its way, at a
boundary too (R374). -/
def hubWrite (s : State) (p : PkgId) (pid : BitVec 16) (a : Word) (bs : List Byte) : State × Option FaultInfo :=
  let r := resolve s p hubCell pid a bs.length .strWrite
  match r.2 with
  | .ok l =>
    if r.1.hubRefuses l then (r.1, some { kind := .fenced, sector := a }) else (hubStore r.1 p l a bs, none)
  | .error f => (r.1, some f)

/-- Writes a run of 8-byte words, stopping at a fault. -/
def hubWrites (p : PkgId) (pid : BitVec 16) : State → Word → List (List Byte) → State × Option FaultInfo
  | s, _, [] => (s, none)
  | s, a, w :: t =>
    match hubWrite s p pid a w with
    | (s, some f) => (s, some f)
    | (s, none) => hubWrites p pid s (a + 8) t

/-- Cuts bytes into groups of eight. -/
def chunks8 (n : Nat) (bs : List Byte) : List (List Byte) := (List.range n).map fun i => (bs.drop (8 * i)).take 8

/-- What a read of the hub gives: what it reads, the fault that it meets, or nothing yet: it waits for a port (R386), or for
a reconstruction (R352). -/
abbrev HubAnswer (α : Type) := Except (Option FaultInfo) α

/-- Reads a place for a unit of the hub or the host of package `p`. -/
def placeRead (s : State) (p : PkgId) (a : Word) (l : Loc) (n : Nat) : State × HubAnswer (List Byte) :=
  let s := s.mendPlace l
  if s.hubRefuses l then (s, .error (some { kind := .fenced, sector := a }))
  else if !s.linked p l.pkg || !s.readReady l then (s, .error none)
  else (s, match s.peek l n with | some b => .ok b | none => .error (some (eccFault a l)))

/-- A hub read of at most 8 aligned bytes at a virtual address. -/
def hubRead (s : State) (p : PkgId) (pid : BitVec 16) (a : Word) (n : Nat) : State × HubAnswer (List Byte) :=
  let r := resolve s p hubCell pid a n .strRead
  match r.2 with
  | .ok l => placeRead r.1 p a l n
  | .error f => (r.1, .error (some f))

/-- Reads a run of `n` 8-byte words. -/
def hubReads (p : PkgId) (pid : BitVec 16) : Nat → State → Word → State × HubAnswer (List Word)
  | 0, s, _ => (s, .ok [])
  | n + 1, s, a =>
    match hubRead s p pid a 8 with
    | (s, .error f) => (s, .error f)
    | (s, .ok b) =>
      let r := hubReads p pid n s (a + 8)
      (r.1, r.2.map fun t => BitVec.ofNat 64 (leNat b) :: t)

/-! ## Records -/

/-- Writes the header of a record of a node (R291). -/
def writeHeader (s : State) (p : PkgId) (x : BitVec 6) (n : BitVec 12) (r : QRec) : State :=
  match (s.pkgAt p).keptNode x n with
  | some d => (hubWrite s p ((s.pkgAt p).graphAt x).pid (d.qbase + BitVec.ofNat 64 (d.offsetOf r.seq)) (leBytes 8 r.header.toNat)).1
  | none => s

/-- Writes the headers of records. -/
def writeHeaders (s : State) (p : PkgId) (x : BitVec 6) (n : BitVec 12) (rs : List QRec) : State :=
  rs.foldl (fun s r => writeHeader s p x n r) s

/-- Allocates `k` records after those of the node, all alike but for their numbers, with their headers (R251). -/
def allocate (s : State) (p : PkgId) (x : BitVec 6) (n : BitVec 12) (k : Nat) (like : QRec) : State :=
  match (s.pkgAt p).nodeAt x n with
  | none => s
  | some d =>
    let rs := (List.range k).map fun i => { like with seq := d.alloc + BitVec.ofNat 32 i }
    let s := s.mapNode p x n fun d => { d with alloc := d.alloc + BitVec.ofNat 32 k, recs := d.recs ++ rs }
    writeHeaders s p x n rs

/-- Changes the records of a node that a test picks, and writes the headers of those (R291). -/
def changeRecords (s : State) (p : PkgId) (x : BitVec 6) (n : BitVec 12) (pick : QRec → Bool) (f : QRec → QRec) : State :=
  match (s.pkgAt p).keptNode x n with
  | none => s
  | some d =>
    let s := s.mapNode p x n fun d => { d with recs := d.recs.map fun r => if pick r then f r else r }
    writeHeaders s p x n ((d.recs.filter pick).map f)

/-- A record as a slot allocates it (R251, R291). -/
def slotRecord (t : Slot) (g : GRef) : QRec :=
  { seq := 0, mode := .uncommitted, depth := t.depth.toNat + 1, origin := (t.member.map (·.node)).getD 0xFFF
    ext := t.member.isNone, owner := some g }

/-! ## Requests and placement -/

/-- Registers and slots that the Shawm has reserved (R301). -/
def Pkg.reserved (k : Pkg) : List (GRef × BitVec 11 × BitVec 8) :=
  k.parts.flatMap fun e => match e.2.place with | some pl => pl.placed | none => []

/-- Whether two windows share a register. -/
def windowsMeet (b l b' l' : Nat) : Bool := decide (b < b' + l') && decide (b' < b + l)

/-- Whether the registers from `base` on belong to no slot that is not IDLE, but `own`, and to no reservation (R17,
R296). -/
def Pkg.windowFree (k : Pkg) (c : CellId) (own : Option SlotId) (base lim : Nat) : Bool :=
  !((k.cellAt c).slots.any fun e => e.2.mode != .idle && own != some (BitVec.ofNat 4 e.1) &&
      windowsMeet base lim e.2.regBase.toNat e.2.regLim.toNat) &&
  !(k.reserved.any fun e => e.1.cell == c && windowsMeet base lim e.2.1.toNat e.2.2.toNat)

/-- The lowest base at which a window of `regs` registers fits in a cell (R296). -/
def Pkg.fitWindow (k : Pkg) (c : CellId) (regs : Nat) : Option Nat :=
  ((List.range 256).map (8 * ·)).find? fun b => decide (b + regs ≤ 2048) && k.windowFree c none b regs

/-- Whether the Shawm has reserved a slot. -/
def Pkg.isReserved (k : Pkg) (c : CellId) (n : SlotId) : Bool := k.reserved.any fun e => e.1.cell == c && e.1.slot == n

/-- Whether a slot may be placed in: numbered 1 to 15, IDLE, not reserved (R296). -/
def Pkg.slotFree (k : Pkg) (c : CellId) (n : SlotId) : Bool :=
  n != 0 && ((k.cellAt c).slotAt n).mode == .idle && !k.isReserved c n

/-- The cells of a partition in ascending number (R370). -/
def Part.cells (q : Part) : List CellId :=
  (List.range (q.field 0 24 7)).flatMap fun j => (List.range (q.field 0 16 7)).map fun i =>
    cellAtXY (q.field 0 0 6 + i) (q.field 0 8 6 + j)

/-- Hops between two cells (R132). -/
def hops (a b : CellId) : Nat := absDiff (cellX a) (cellX b) + absDiff (cellY a) (cellY b)

/-- The first slot, in ascending cell and slot number, that fits a window (R297). -/
def Pkg.firstFit (k : Pkg) (cells : List CellId) (regs : Nat) : Option (CellId × SlotId × Nat) :=
  cells.findSome? fun c =>
    match k.fitWindow c regs with
    | none => none
    | some b => (((List.range 15).map fun i => BitVec.ofNat 4 (i + 1)).find? fun n => k.slotFree c n).map fun n => (c, n, b)

/-- The cell with a partition-relative index (R300). -/
def Part.cellOf (q : Part) (i : Nat) : CellId :=
  cellAtXY (q.field 0 0 6 + i % q.field 0 16 7) (q.field 0 8 6 + i / q.field 0 16 7)

/-- The place of a pinned group slot, or of its twin (R300); `cells` is W · H. -/
def pinnedAt (cells node slots seq s : Nat) (twin : Bool) : Nat × Nat :=
  let j := seq * slots + s
  let i := j % cells
  let k := 1 + (node + j / cells) % 15
  if twin then ((i + cells / 2) % cells, 1 + (k - 1 + 7) % 15) else (i, k)

/-- The place of the next slot of a placement: primaries first, then twins (R297, R300, R301). -/
def Pkg.nextSpot (k : Pkg) (q : Part) (d : Node) (pl : Placement) : Option (CellId × SlotId × Nat) :=
  let j := pl.placed.length
  let twin := decide (d.slots ≤ j)
  let s := if twin then j - d.slots else j
  if d.pinned then
    let at_ := pinnedAt (q.field 0 16 7 * q.field 0 24 7) pl.node.toNat d.slots d.groupSeq.toNat s twin
    let c := q.cellOf at_.1
    let n := BitVec.ofNat 4 at_.2
    if k.slotFree c n then (k.fitWindow c d.regs).map fun b => (c, n, b) else none
  else
    let cells := if twin then
        match pl.placed[s]? with
        | some e => q.cells.filter fun c => 2 ≤ hops c e.1.cell
        | none => []
      else q.cells
    k.firstFit cells d.regs

/-- Whether a pool channel is free (R296). -/
def Pkg.chanFree (k : Pkg) (c : BitVec 12) : Bool :=
  let ch := Table.get ({} : Chan) k.chans c.toNat
  ch.publisher.isNone && !ch.held &&
  !(k.parts.any fun e => match e.2.place with | some pl => pl.chans.contains c | none => false) &&
  !((k.allSlots 0).any fun e => e.2.subscribed == some c ||
      (match e.2.wait with | some { what := .join x _, .. } => x == c | _ => false) || e.2.registering == some c)

/-- The lowest `n` free channels of a graph's pool; none when there are fewer (R296). -/
def Pkg.takeChans (k : Pkg) (e : Graph) (n : Nat) : Option (List (BitVec 12)) :=
  if n = 0 then some []
  else
    let free := ((List.range e.chCount.toNat).map fun i => e.chBase + BitVec.ofNat 12 i).filter k.chanFree
    if free.length < n then none else some (free.take n)

/-- The slots and twins that a group of a node has. -/
def Node.total (d : Node) : Nat := if d.redundant then 2 * d.slots else d.slots

/-- The order of R294 between two requests: PRIO, READY cycle, graph, node. -/
def requestBefore (a b : Node × Nat × Nat) : Bool :=
  if a.1.prio ≠ b.1.prio then decide (b.1.prio < a.1.prio)
  else if a.1.readyAt ≠ b.1.readyAt then decide (a.1.readyAt < b.1.readyAt)
  else if a.2.1 ≠ b.2.1 then decide (a.2.1 < b.2.1) else decide (a.2.2 < b.2.2)

/-- The READY requests of a partition: each node with its graph and index. -/
def Pkg.requests (k : Pkg) (q : BitVec 3) : List (Node × Nat × Nat) :=
  k.graphs.flatMap fun e =>
    if e.2.mode = .resident ∧ e.2.loadPart = q then
      (e.2.nodes.zipIdx.filter fun n => n.1.req == .ready).map fun n => (n.1, e.1, n.2)
    else []

/-- The first request of a partition (R294). -/
def Pkg.firstRequest (k : Pkg) (q : BitVec 3) : Option (Node × Nat × Nat) :=
  match k.requests q with
  | [] => none
  | r :: t => some (t.foldl (fun a b => if requestBefore b a then b else a) r)

/-- A partition entry. -/
def Pkg.part (k : Pkg) (q : BitVec 3) : Part := Table.get {} k.parts q.toNat
/-- Changes a partition entry. -/
def State.mapPart (s : State) (p : PkgId) (q : BitVec 3) (f : Part → Part) : State :=
  s.mapPkg p fun k => { k with parts := Table.put k.parts q.toNat (f (k.part q)) }

/-- Starts the placement of the first request of a partition, where none is in progress (R293, R294); one that found no
resources waits for a retry (R299). -/
def startPlacement (s : State) (p : PkgId) (q : BitVec 3) (retry : Bool) : State :=
  let k := s.pkgAt p
  if (k.part q).place.isSome || (k.part q).mode != .active then s
  else match k.firstRequest q with
  | none => s
  | some (_, x, n) =>
    let x := BitVec.ofNat 6 x
    let n := BitVec.ofNat 12 n
    if (k.part q).stuck = some (x, n) ∧ !retry then s
    else
      (s.mapNode p x n fun d => { d with req := .placing }).mapPart p q fun q =>
        { q with place := some { graph := x, node := n, placed := [], chans := []
                                 nextAt := k.cycle + 8 + (if retry then 1 else 0) }
                 stuck := if q.stuck = some (x, n) then none else q.stuck }

/-- Releases a placement in progress, whose request is READY again with its key unchanged (R298, R299). -/
def abortPlacement (s : State) (p : PkgId) (q : BitVec 3) (failed : Bool) : State :=
  match ((s.pkgAt p).part q).place with
  | none => s
  | some pl =>
    (s.mapNode p pl.graph pl.node fun d => { d with req := if d.req = .placing then .ready else d.req }).mapPart p q fun q =>
      { q with place := none, stuck := if failed then some (pl.graph, pl.node) else q.stuck }

/-- Whether a placement is committed in this cycle: nothing aborts it any more (R298). -/
def Placement.committing (pl : Placement) (d : Node) (now : Nat) : Bool := decide (d.total ≤ pl.placed.length) && decide (pl.nextAt ≤ now)

/-- A request has become READY: one of strictly higher PRIO aborts the placement in progress, but in its commit cycle (R298),
and the first request is placed. -/
def requestReady (s : State) (p : PkgId) (x : BitVec 6) (n : BitVec 12) : State :=
  let k := s.pkgAt p
  let q := (k.graphAt x).loadPart
  match k.nodeAt x n with
  | none => s
  | some d =>
    let s := match (k.part q).place with
      | some pl =>
        (match k.nodeAt pl.graph pl.node with
        | some e => if e.prio < d.prio && !pl.committing e k.cycle then abortPlacement s p q false else s
        | none => s)
      | none => s
    startPlacement s p q false

/-- Notes the moment from which records are launchable (R292). -/
def stampRecords (now : Nat) : List QRec → List QRec
  | [] => []
  | r :: t =>
    if r.unready then r :: t
    else (if r.mode = .committed ∧ !r.delivered ∧ r.since.isNone then { r with since := some now } else r) :: stampRecords now t

/-- A node with its retired prefix freed (R257), its records stamped and its request state as U and A give (R293). -/
def Node.refresh (d : Node) (time cycle : Nat) : Node :=
  let gone := (d.recs.takeWhile fun r => r.mode == .void || r.mode == .retired).length
  let d := { d with retire := d.retire + BitVec.ofNat 32 gone, recs := stampRecords time (d.recs.drop gone) }
  let u := d.launchable.length
  match d.req with
  | .placing => d
  | .ready => if u = 0 then { d with req := .quiet } else d
  | .quiet | .waiting =>
    if u = 0 then { d with req := .quiet }
    else if d.thresh ≤ u ∨ d.timer ≤ d.age time then { d with req := .ready, readyAt := cycle }
    else { d with req := .waiting }

/-! ## Waiting allocations -/

/-- The requests of the lanes of an allocation. -/
def Op.requests (o : Op) : List (Nat × Nat) := o.got.map fun e => (e.1, e.2.toNat)

/-- The word of a lane's answer: its offset in the low half, its count and status in the high half (R252). -/
def laneAnswer (off n status : Nat) : Word := BitVec.ofNat 64 (off + (n * 65536 + status) * 2 ^ 32)

/-- Serves the lanes of an allocation in ascending order from `free` records (R253): the answers and the sum. -/
def serveLanes (d : Node) (free : Nat) : Nat → Bool → List (Nat × Nat) → List (Nat × Word) × Nat
  | sum, _, [] => ([], sum)
  | sum, failed, (l, n) :: t =>
    if !failed && decide (sum + n ≤ free) then
      let r := serveLanes d free (sum + n) false t
      ((l, laneAnswer ((d.alloc.toNat + sum) % d.qcap * d.recSize) n 0) :: r.1, r.2)
    else
      let r := serveLanes d free sum true t
      ((l, laneAnswer 0 n 1) :: r.1, r.2)

/-- The answer of an operation at the Shawm is ready. -/
def answerRecord (s : State) (g : GRef) (id : Nat) (got : List (Nat × Word)) (f : Option FaultInfo) : State :=
  finishOp (s.mapOp g id fun o => { o with performed := true, waiting := false, got := got, fault := f }) g id

/-- Allocates for the lanes of an operation of a slot and answers it (R253); what a slot that has been killed meanwhile
gets is void (R256). -/
def serveAlloc (s : State) (p : PkgId) (x : BitVec 6) (n : BitVec 12) (d : Node) (free : Nat) (g : GRef) (o : Op) : State :=
  let r := serveLanes d free 0 false o.requests
  let like := slotRecord (s.slotAt g) g
  let s := allocate s p x n r.2 (if o.orphan then { like with mode := .void, owner := none } else like)
  answerRecord s g o.id r.1 none

/-- Serves the RALLOCW that wait on a node, in order, as far as they fit (R254). -/
def serveWaiters : Nat → State → PkgId → BitVec 6 → BitVec 12 → State
  | 0, s, _, _, _ => s
  | k + 1, s, p, x, n =>
    match (s.pkgAt p).nodeAt x n with
    | none => s
    | some d =>
      match d.waiters with
      | [] => s
      | (g, id) :: t =>
        match s.opOf g id with
        | none => serveWaiters k (s.mapNode p x n fun d => { d with waiters := t }) p x n
        | some o =>
          if (o.requests.map (·.2)).sum ≤ d.free then
            serveWaiters k (serveAlloc (s.mapNode p x n fun d => { d with waiters := t }) p x n d d.free g o) p x n
          else s

/-- Whether the oldest RALLOCW that waits on a node fits, or is gone. -/
def headFits (s : State) (d : Node) : Bool :=
  match d.waiters with
  | [] => false
  | (g, id) :: _ => match s.opOf g id with | none => true | some o => decide ((o.requests.map (·.2)).sum ≤ d.free)

/-- After a change of a node's records: its retired prefix is freed and its request state follows (R257, R293). -/
def updateNode (s : State) (p : PkgId) (x : BitVec 6) (n : BitVec 12) : State :=
  match (s.pkgAt p).keptNode x n with
  | none => s
  | some d =>
    let k := s.pkgAt p
    let d' := d.refresh k.time k.cycle
    let s := s.mapNode p x n fun _ => d'
    if d.req != .ready && d'.req == .ready then requestReady s p x n else s

/-- Updates every node of a graph. -/
def updateNodes (s : State) (p : PkgId) (x : BitVec 6) : State :=
  (List.range ((s.pkgAt p).graphAt x).nodes.length).foldl (fun s n => updateNode s p x (BitVec.ofNat 12 n)) s

/-- The body of a record has been written: it no longer holds back itself and those after it (R305). -/
def bodyWritten (s : State) (p : PkgId) (x : BitVec 6) (n : BitVec 12) (seq : BitVec 32) : State :=
  updateNode (s.mapNode p x n fun d => { d with recs := d.recs.map fun r => if r.seq = seq then { r with arriving := false } else r }) p x n

/-- Whether the oldest entry that waits in a hub's queue may be taken: its place answers, or its supervisor can be reached. -/
def State.headReady (s : State) (p : PkgId) (w : HubWrite) : Bool :=
  match w.signal, w.launch with
  | some x, _ => s.signalPasses p x
  | none, some _ => true
  | none, none => s.writeAnswers p w.loc

/-- Takes the oldest entry of a hub's queue, if it may be taken: performs its write, or does what comes after the writes before
it. -/
def drainHub (s : State) (p : PkgId) : State :=
  match (s.pkgAt p).hubWrites with
  | [] => s
  | w :: t =>
    if !s.headReady p w then s
    else
      let s' := s.mapPkg p fun k => { k with hubWrites := t }
      match w.signal, w.launch with
      | some x, _ => signalSuper s' p x
      | none, some (x, i, seq) => bodyWritten s' p x i seq
      | none, none => placeWrite s' p w

/-! ## Operations of slots -/

/-- Why a RALLOCW may not wait or can never fit (R254). -/
def recwait (k : Pkg) (t : Slot) (x : BitVec 6) (d : Node) (sum : Nat) : Option FaultInfo :=
  let ranked : Bool := match t.member with
    | none => true
    | some m => m.graph == x && (match k.nodeAt m.graph m.node with | some own => decide (own.rank < d.rank) | none => false)
  if !ranked then some { kind := .recwait, aux := 1 }
  else if d.qcap < sum then some { kind := .recwait, aux := 2 }
  else none

/-- An allocation arrives at the Shawm (R252-R254). -/
def shawmAlloc (s : State) (g : GRef) (o : Op) (x : BitVec 6) (n : BitVec 12) (trap wait : Bool) : State :=
  let t := s.slotAt g
  let all (status : Nat) : State := answerRecord s g o.id (o.requests.map fun e => (e.1, laneAnswer 0 e.2 status)) none
  let fail (f : FaultInfo) : State := answerRecord s g o.id o.got (some f)
  match (s.pkgAt g.pkg).nodeAt x n with
  | none => all 3
  | some d =>
    let dep := t.depth.toNat + 1
    if d.maxDepth < dep then
      if trap then fail { kind := .recdepth, aux := BitVec.ofNat 64 (dep + d.maxDepth * 2 ^ 16) } else all 2
    else if wait then
      match recwait (s.pkgAt g.pkg) t x d (o.requests.map (·.2)).sum with
      | some f => fail f
      | none =>
        if d.waiters.isEmpty && decide ((o.requests.map (·.2)).sum ≤ d.free) then
          updateNode (serveAlloc s g.pkg x n d d.free g o) g.pkg x n
        else (s.mapNode g.pkg x n fun d => { d with waiters := d.waiters ++ [(g, o.id)] }).mapOp g o.id fun o =>
          { o with waiting := true }
    else updateNode (serveAlloc s g.pkg x n d (if d.waiters.isEmpty then d.free else 0) g o) g.pkg x n

/-- The records that a lane of RCOMMIT names: offset, count and status as vD and v(D + 1) hold them (R256). -/
def laneRecords (d : Node) (w : Word) : List (Option QRec) :=
  let off := bits w.toNat 0 32
  let n := bits w.toNat 48 16
  if bits w.toNat 32 2 ≠ 0 ∨ n = 0 then []
  else (List.range n).map fun i =>
    if off % d.recSize = 0 ∧ off / d.recSize < d.qcap then
      d.recs.find? fun r => r.seq.toNat % d.qcap == (off / d.recSize + i) % d.qcap
    else none

/-- RCOMMIT arrives at the Shawm (R256). -/
def shawmCommit (s : State) (g : GRef) (o : Op) (x : BitVec 6) (n : BitVec 12) (void : Bool) : State :=
  match (s.pkgAt g.pkg).nodeAt x n with
  | none => answerRecord s g o.id o.got none
  | some d =>
    let good (r : Option QRec) : Bool := match r with
      | some r => r.mode == .uncommitted && r.owner == some g
      | none => false
    match o.got.find? fun e => !(laneRecords d e.2).all good with
    | some e => answerRecord s g o.id o.got (some { kind := .illegal, aux := BitVec.ofNat 64 (7 + e.1 * 2 ^ 8) })
    | none =>
      let seqs := (o.got.flatMap fun e => laneRecords d e.2).filterMap fun r => r.map (·.seq)
      let s := changeRecords s g.pkg x n (fun r => seqs.contains r.seq)
        fun r => { r with mode := if void then .void else .committed }
      answerRecord (updateNode s g.pkg x n) g o.id o.got none

/-- Retires delivered records of a group slot (R257). -/
def retireRecords (s : State) (p : PkgId) (m : Member) (seqs : List (BitVec 32)) : State :=
  let s := changeRecords s p m.graph m.node (fun r => seqs.contains r.seq && r.delivered && r.mode == .committed)
    fun r => { r with mode := .retired }
  updateNode s p m.graph m.node

/-- RDONE arrives at the Shawm (R257). -/
def shawmDone (s : State) (g : GRef) (o : Op) : State :=
  let s := match (s.slotAt g).member with
    | some m => retireRecords s g.pkg m ((m.recs.zipIdx.filter fun e => o.mask.getLsbD e.2).map (·.1))
    | none => s
  answerRecord s g o.id o.got none

/-- SHAWM_RECORD_OPERATION: the Shawm performs one operation of a slot (R259). -/
def execShawmRecordOperation (g : GRef) (op : Nat) (s : State) : Host.Outcome State Fault Refusal :=
  occur <| match s.opOf g op with
  | none => s
  | some o =>
    if !o.live then s
    else match o.act with
      | .record (.alloc x n t w) => shawmAlloc s g o x n t w
      | .record (.commit x n v) => shawmCommit s g o x n v
      | .record .done => shawmDone s g o
      | _ => s

/-- The node that a RALLOCW of a slot waits on. -/
def Slot.rallocNode (t : Slot) : Option (Op × BitVec 6 × BitVec 12) :=
  match t.wait with
  | some { what := .rallocw id, .. } =>
    (t.ops.find? fun o => o.id == id).bind fun o =>
      match o.act with | .record (.alloc x n _ _) => some (o, x, n) | _ => none
  | _ => none

/-- RALLOCW_SERVED: the RALLOCW that waits first on its node is served once it fits (R254, R307). -/
def execRallocwServed (g : GRef) (s : State) : Host.Outcome State Fault Refusal :=
  occur <| match (s.slotAt g).rallocNode with
  | some (_, x, n) =>
    match (s.pkgAt g.pkg).nodeAt x n with
    | some d => updateNode (serveWaiters d.waiters.length s g.pkg x n) g.pkg x n
    | none => s
  | none => s

/-- RALLOCW_WAIT_EXPIRY: the bound of the wait is reached, and the request is withdrawn (R254). -/
def execRallocwWaitExpiry (g : GRef) (s : State) : Host.Outcome State Fault Refusal :=
  occur <|
    let t := s.slotAt g
    match t.wait, t.rallocNode with
    | some w, some (o, _, _) =>
      if t.expired w.since (s.cycleAt g.pkg) && !o.performed then
        faultOp (s.withdraw g o.id) g o { kind := .waitlimit, aux := 0x800 }
      else s
    | _, _ => s

/-- COALESCING_TIMER: the oldest launchable record's age has reached TIMER (R293). -/
def execCoalescingTimer (p : PkgId) (x : BitVec 6) (n : BitVec 12) (s : State) : Host.Outcome State Fault Refusal :=
  occur (updateNode s p x n)

/-! ## Starting a slot -/

/-- The state of R45 for a slot in the place of `t`: what earlier programs of the slot have sent goes on without it. -/
def Slot.started (t : Slot) (base : BitVec 11) (lim : BitVec 8) : Slot :=
  { ops := t.ops, nextOp := t.nextOp, parityOut := t.parityOut, ctl := t.ctl, regBase := base, regLim := lim }

/-- Clears the registers of a window. -/
def Cell.clearWindow (t : Cell) (base lim : Nat) : Cell :=
  let outside (q : Nat) : Bool := decide (q < base) || decide (base + lim ≤ q)
  { t with vregs := t.vregs.filter fun e => outside e.1, vPoison := t.vPoison.filter fun u => outside (u / 16) }

/-- STARTS A SLOT with a window and the state of R45, changed as its start asks. -/
def startSlot (s : State) (g : GRef) (base : BitVec 11) (lim : BitVec 8) (f : Slot → Slot) : State :=
  (s.mapCell g.pkg g.cell fun t => t.clearWindow base.toNat lim.toNat).mapSlot g fun t => f (t.started base lim)

/-! ## Ending a slot -/

/-- What is left of an element that has been sent to memory completes without its stream (R210): what lies in the cell at
once, the rest as a posted store without a report, of the colour and the process it was sent with (R376). -/
def sendFlight (s : State) (g : GRef) (id : Nat) (f : StreamFlight) : State :=
  let left := f.units.filter fun u => !u.done
  let here := left.filter fun u => u.path == .local
  let away := left.filter fun u => u.path != .local
  let s := here.foldl (fun s u => (storeElts s (.slot g f.colour) u.elts).settle g.pkg g.cell) s
  if away.isEmpty then s
  else s.mapSlot g fun t => { t with ops := t.ops ++ [
    { id := id, head := t.head, pos := t.pos, loops := {}, act := .store, path := .edge, units := away, posted := true, pid := f.pid
      colour := f.colour, inTransit := f.inTransit, since := s.cycleAt g.pkg, orphan := true
      launch := t.member.map fun m => (m.graph, m.launch) }] }

/-- What is left of the elements of an output stream that have been sent completes (R210). -/
def sendRest (s : State) (g : GRef) (q : Stream) : State :=
  q.flight.foldl (fun s f => sendFlight s g ((q.queue.head?.map (·.id)).getD (s.slotAt g).nextOp) f) s

/-- The elements that the output streams of a slot have begun to write complete (R210). -/
def sendElements (s : State) (g : GRef) : State :=
  (s.cellAt g.pkg g.cell).streams.foldl (fun s (e : Nat × Stream) =>
    if e.2.mode != .free && e.2.owner == g.slot && e.2.output then sendRest s g e.2 else s) s

/-- Frees the streams that a slot owns: what is queued is discarded (R210, R263). -/
def Cell.freeStreams (t : Cell) (n : SlotId) : Cell :=
  { t with streams := t.streams.map fun e =>
      (e.1, if e.2.mode != .free && e.2.owner == n then { epoch := e.2.epoch } else e.2) }

/-- Voids the records that a slot has allocated and not committed (R256). -/
def voidRecords (s : State) (g : GRef) : State :=
  (s.pkgAt g.pkg).graphs.foldl (fun s e =>
    let x := BitVec.ofNat 6 e.1
    (e.2.nodes.zipIdx.filter fun n => n.1.recs.any fun r => r.mode == .uncommitted && r.owner == some g).foldl
      (fun s n =>
        let i := BitVec.ofNat 12 n.2
        updateNode (changeRecords s g.pkg x i (fun r => r.mode == .uncommitted && r.owner == some g)
          fun r => { r with mode := .void }) g.pkg x i) s) s

/-- Whether a slot still runs in a group. -/
def Slot.inGroup (t : Slot) (x : BitVec 6) (launch : Nat) : Bool :=
  t.mode != .exited && (match t.member with | some m => m.graph == x && m.launch == launch | none => false)

/-- Returns the channels of groups whose last user has exited (R302). -/
def freeGroupChans (s : State) (p : PkgId) (x : BitVec 6) : State :=
  ((s.pkgAt p).graphAt x).groups.foldl (fun s gr =>
    if !gr.chans.isEmpty && !(gr.slots.any fun g => (s.slotAt g).inGroup x gr.launch) then
      let s := s.mapPkg p fun k =>
        { k with chans := gr.chans.foldl (fun t c => Table.put t c.toNat { Table.get {} t c.toNat with held := false }) k.chans }
      s.mapGraph p x fun e => { e with groups := e.groups.map fun y => if y.launch = gr.launch then { y with chans := [] } else y }
    else s) s

/-- What the issuers that a test picks have written under protection goes on without them (R350). -/
def State.orphanDeltas (s : State) (pick : Issuer → Bool) : State :=
  let mark (d : Delta) : Delta := if pick d.issuer then { d with orphan := true } else d
  { s with pkgs := s.pkgs.map fun (e : Nat × Pkg) => (e.1, { e.2 with deltas := e.2.deltas.map mark })
           gone := s.gone.map fun e => (e.1, mark e.2) }

/-- ENDS A SLOT: steps 2 to 4 of R263. What it has sent goes on without it. -/
def exitSlot (s : State) (g : GRef) : State :=
  let t := s.slotAt g
  let s := (sendElements s g).mapCell g.pkg g.cell fun c => c.freeStreams g.slot
  let s := voidRecords s g
  let s := match t.member with
    | some m => if m.twin then s else retireRecords s g.pkg m m.recs
    | none => s
  let s := match t.publishing with
    | some c => s.setPublisher g.pkg c none
    | none => s
  let s := s.orphanDeltas (·.isSlot g)
  let s := s.mapSlot g fun t =>
    { t with mode := .exited, dying := false, exitSent := false, took := [], icinv := false
             binds := [], parityOut := 0, ops := t.ops.map fun o => { o with orphan := true }
             publishing := none, subscribed := none, inbox := [], pendingPub := none, wait := none, waitNext := none
             hold := none, lateFault := false, replay := [], refused := [], parityLost := none, stopping := none
             registering := none, refill := none, joinPoint := none, take := none, lastOp := none, phaseWait := none }
  match t.member with
  | some m => freeGroupChans s g.pkg m.graph
  | none => s

/-- Whether a killed slot still waits for an operation to write its destination (R366): a twin's is waited for where its
primary performs it. -/
def State.stillProducing (s : State) (g : GRef) : Bool :=
  let t := s.slotAt g
  let across (o : Op) : Bool := match o.num, t.member.bind (·.partner) with
    | some (n, _), some w => (s.slotAt w).ops.any fun x => (x.num.map (·.1)) == some n
    | _, _ => false
  t.ops.any fun o => !o.posted && !o.orphan && (!o.shadow || o.performed || across o)

/-- A slot that is being killed, all of whose producers have written, exits (R366). -/
def settleKill (s : State) (g : GRef) : State :=
  if (s.slotAt g).dying && !s.stillProducing g then exitSlot s g else s

/-- KILLS A SLOT (R366): its channel is stopped (R246), with the last fault kind of the slot where code 5 names the publisher's
(DESIGN CHOICE, log 43), its waits are ended as R196 gives, steps of an MMA that have not begun
to read are discarded (R237), and it is EXITED, with the effects of R263 step 2, once its producers in flight have
written. -/
def killSlot (s : State) (g : GRef) (by_ : Option Asker := none) : State :=
  let t := s.slotAt g
  if t.dying then s
  else
    let s := stopChannel s g t.fkind
    let s := match t.wait with
      | some { what := .answer id, .. } | some { what := .rallocw id, .. } =>
        (match s.opOf g id with
        | some o => if o.performed then s else ((s.unwait g o).withdraw g id).dropOp g id
        | none => s)
      | _ => s
    let lost := t.replay.map (·.id)
    let s := s.mapCell g.pkg g.cell fun c =>
      { c with mma := c.mma.filter fun j => j.slot != g.slot
               ctxs := c.ctxs.map fun (e : Nat × CopyCtx) =>
                 (e.1, { e.2 with unaccepted := e.2.unaccepted.filter fun l => !(l.slot == g.slot && lost.contains l.opId) }) }
    settleKill (s.mapSlot g fun t =>
      { t with dying := true, killer := by_, wait := none, waitNext := none, hold := none, lateFault := false, stopping := none
               subscribed := none, inbox := [], pendingPub := none, replay := [], registering := none, refill := none, take := none
               took := [] }) g

/-- Kills every listed slot that has not exited. -/
def killSlots (s : State) (gs : List GRef) : State :=
  gs.foldl (fun s g => if (s.slotAt g).mode = .idle ∨ (s.slotAt g).mode = .exited then s else killSlot s g) s

/-- Frees the window and the reservation records of a slot, which becomes IDLE (R264, R39). -/
def reclaimSlot (s : State) (g : GRef) : State :=
  let drop (t : Table Word) : Table Word := t.filter fun e => bits e.2.toNat 56 4 != g.slot.toNat
  (s.mapCell g.pkg g.cell fun c => { c with obres := drop c.obres, bsres := drop c.bsres }).mapSlot g fun t =>
    { t with mode := .idle, regBase := 0, regLim := 0, fkind := 0, member := none }

/-! ## Placement events -/

/-- What is in use of the resources of a partition that a graph's groups are placed in (R296): the slots that are not IDLE,
the register blocks of windows, the channels of the pool. -/
def Pkg.busy (k : Pkg) (p : PkgId) (q : Part) (x : BitVec 6) : List Busy :=
  let e := k.graphAt x
  let cells := k.cells.filter fun c => q.hasCell (BitVec.ofNat 12 c.1)
  (cells.flatMap fun c => c.2.slots.flatMap fun t =>
    if t.2.mode = .idle then []
    else
      let cell : CellId := BitVec.ofNat 12 c.1
      .slot { pkg := p, cell := cell, slot := BitVec.ofNat 4 t.1 } ::
        (List.range (t.2.regLim.toNat / 8)).map fun i => .block cell (t.2.regBase.toNat / 8 + i)) ++
  ((List.range e.chCount.toNat).filterMap fun i =>
    let c := e.chBase + BitVec.ofNat 12 i
    if k.chanFree c then none else some (.chan c))

/-- PLACEMENT_RESERVATION: the next slot of a placement is reserved, or the placement fails (R297, R299, R301). -/
def execPlacementReservation (p : PkgId) (q : BitVec 3) (s : State) : Host.Outcome State Fault Refusal :=
  occur <|
    let k := s.pkgAt p
    match (k.part q).place with
    | none => s
    | some pl =>
      match k.nodeAt pl.graph pl.node with
      | none => s
      | some d =>
        if k.cycle < pl.nextAt ∨ d.total ≤ pl.placed.length then s
        else
          let chans := if pl.placed.isEmpty then k.takeChans (k.graphAt pl.graph) d.channels else some pl.chans
          match chans, k.nextSpot (k.part q) d pl with
          | some cs, some (c, n, b) =>
            s.mapPart p q fun part =>
              { part with place := some { pl with
                  chans := cs, nextAt := pl.nextAt + 8
                  placed := pl.placed ++ [({ pkg := p, cell := c, slot := n }, BitVec.ofNat 11 b, BitVec.ofNat 8 d.regs)] } }
          | _, _ =>
            let s := abortPlacement s p q true
            startPlacement (s.mapPart p q fun x => { x with seen := (s.pkgAt p).busy p x pl.graph }) p q false

/-- The request that a partition's placement failed for, where it is the first one and none is being placed (R299). -/
def Pkg.stuckFirst (k : Pkg) (q : BitVec 3) : Option (BitVec 6) :=
  match (k.part q).place, (k.part q).stuck with
  | none, some (x, n) =>
    if (k.part q).mode == .active && (k.firstRequest q).map (fun r => (r.2.1, r.2.2)) == some (x.toNat, n.toNat) then some x else none
  | _, _ => none

/-- PLACEMENT_RETRY: the request that found no resources is tried again in the cycle after any slot of its partition has
become IDLE, or any window or channel has been freed, whether it fits or not (R299). -/
def execPlacementRetry (p : PkgId) (q : BitVec 3) (s : State) : Host.Outcome State Fault Refusal :=
  occur <| match (s.pkgAt p).stuckFirst q with
  | none => s
  | some x =>
    let part := (s.pkgAt p).part q
    let now := (s.pkgAt p).busy p part x
    if part.seen.any fun b => !now.contains b then startPlacement s p q true
    else s.mapPart p q fun part => { part with seen := now }

/-- The start of a group slot (R302-R305): `i` its place among slots and twins. %PRIV is 0, as
R304 has it, also where R14 and R371 would have the SUPER slot privileged. DEDUCED, log 31. -/
def startGroupSlot (s : State) (pl : Placement) (x : Graph) (d : Node) (recs : List QRec) (launch : Nat) (i : Nat)
    (e : GRef × BitVec 11 × BitVec 8) : State :=
  let g := e.1
  let twin := decide (d.slots ≤ i)
  let j := if twin then i - d.slots else i
  let mine := (recs.drop (32 * j)).take 32
  let depth := recs.foldl (fun m r => Nat.max m r.depth) 0
  let node : Word := BitVec.ofNat 64 (pl.node.toNat + pl.graph.toNat * 2 ^ 12)
  let lead : Option (BitVec 12) := if d.lockstep then pl.chans.head? else pl.chans[j]?
  let subscriber := twin || (d.lockstep && j != 0)
  let publisher := !subscriber && !pl.chans.isEmpty
  let partner : Option GRef := if d.redundant then (pl.placed[if twin then j else j + d.slots]?).map (·.1) else none
  let now := s.cycleAt g.pkg
  let s := startSlot s g e.2.1 e.2.2 fun t =>
    { t with
      mode := if subscriber then .subscribed else .run
      head := d.desc.getD 0 0
      sregs := [(1, node), (2, BitVec.ofNat 64 mine.length), (3, d.groupSeq.setWidth 64), (4, d.qbase),
        (5, BitVec.ofNat 64 d.recSize)].filter fun e => e.2 != 0
      nest := nestOf ((List.range 32).map fun l => if l < mine.length then 0 else 1)
      pid := x.pid, priv := false
      gang := BitVec.ofNat 64 (j + (d.slots - 1) * 2 ^ 8)
      node := node, group := d.groupSeq.setWidth 64, recCnt := BitVec.ofNat 64 recs.length
      depth := BitVec.ofNat 64 depth, groupLead := j == 0
      publishing := if publisher then lead else none
      subscribed := if subscriber then lead else none
      hold := some { why := .group, till := now + 64 }
      member := some { graph := pl.graph, node := pl.node, seq := d.groupSeq, launch := launch, index := j, twin := twin
                       partner := partner, recs := mine.map (·.seq), opNum := 0 } }
  let v0 : VReg := (List.range 32).map fun l => match mine[l]? with | some r => BitVec.ofNat 32 (d.offsetOf r.seq) | none => 0
  let s := s.mapCell g.pkg g.cell fun t => { t with vregs := Table.set VReg.zero t.vregs e.2.1.toNat v0 }
  match publisher, lead with
  | true, some c => s.setPublisher g.pkg c (some g)
  | _, _ => s

/-- GROUP_COMMIT: a fully reserved placement becomes a group (R295, R302-R306). -/
def execGroupCommit (p : PkgId) (q : BitVec 3) (s : State) : Host.Outcome State Fault Refusal :=
  occur <|
    let k := s.pkgAt p
    match (k.part q).place with
    | none => s
    | some pl =>
      match k.nodeAt pl.graph pl.node with
      | none => s
      | some d =>
        if k.cycle < pl.nextAt ∨ pl.placed.length < d.total then s
        else
          let x := k.graphAt pl.graph
          let recs := d.launchable.take (32 * d.slots)
          let launch := x.nextLaunch
          let s := changeRecords s p pl.graph pl.node (fun r => recs.any (·.seq == r.seq)) fun r => { r with delivered := true }
          let s := pl.placed.zipIdx.foldl (fun s e => startGroupSlot s pl x d recs launch e.2 e.1) s
          let s := s.mapPkg p fun k =>
            { k with chans := pl.chans.foldl (fun t c => Table.put t c.toNat { Table.get {} t c.toNat with held := true }) k.chans }
          let s := s.mapGraph p pl.graph fun e =>
            { e with nextLaunch := launch + 1
                     groups := e.groups ++ [{ launch := launch, node := pl.node, slots := pl.placed.map (·.1), chans := pl.chans }] }
          let s := s.mapNode p pl.graph pl.node fun d => { d with groupSeq := d.groupSeq + 1, req := .quiet }
          let s := s.mapPart p q fun part => { part with place := none }
          startPlacement (updateNode s p pl.graph pl.node) p q false

/-- Whether a slot of a redundant group still has an operation to be compared (R379). -/
def State.compares (s : State) (g : GRef) : Bool :=
  let t := s.slotAt g
  let across (n : Nat) : Bool := match t.member.bind (·.partner) with
    | some w => (s.slotAt w).ops.any fun x => x.held && (x.num.map (·.1)) == some n
    | none => false
  t.ops.any fun o => o.held || (o.shadow && !o.performed && match o.num with | some (n, _) => across n | none => false)

/-- GROUP_SLOT_RETURN: the Shawm returns an exited group slot to IDLE (R306). -/
def execGroupSlotReturn (g : GRef) (s : State) : Host.Outcome State Fault Refusal :=
  occur <|
    let t := s.slotAt g
    if t.mode = .exited ∧ t.member.isSome ∧ t.evict = .none ∧ !s.compares g then reclaimSlot s g else s

/-- Whether every slot of a group has exited and what they posted has been acknowledged (R306). -/
def groupOver (s : State) (x : BitVec 6) (gr : Group) : Bool :=
  gr.slots.all fun g =>
    let t := s.slotAt g
    !t.inGroup x gr.launch && !(t.ops.any fun o => o.launch == some (x, gr.launch) && o.beforeRelease)

/-- The largest number up to which every number from 1 on is in a set. -/
def runTo (set : NumSet) : Nat → Nat → Nat
  | 0, n => n
  | k + 1, n => if set.has (n + 1) then runTo set k (n + 1) else n

/-- GROUP_END: a group ends, and the graph's timeline advances over the groups that have (R306). -/
def execGroupEnd (p : PkgId) (x : BitVec 6) (launch : Nat) (s : State) : Host.Outcome State Fault Refusal :=
  occur <|
    let e := (s.pkgAt p).graphAt x
    match e.groups.find? (·.launch == launch) with
    | none => s
    | some gr =>
      if !groupOver s x gr then s
      else
        let ended := e.ended.insert launch
        let s := s.mapGraph p x fun e => { e with ended := ended, groups := e.groups.filter (·.launch != launch) }
        let s := if e.mode = .resident then
            s.mapPkg p fun k => { k with tgCount := Table.set 0 k.tgCount x.toNat (BitVec.ofNat 64 (runTo ended ended.length 0)) }
          else s
        s.wakeTimelines p

end Sys2Proof.Machine
end

