-- ==== Sys2Proof/Machine/Record.lean ====
section
/-! DEFINITION. Record instructions: major 0x30 (R250-R259); records that copies and the host append (R217, R400); and
the residence of graphs: their load and their teardown (R287-R290, R312). -/

namespace Sys2Proof.Machine

/-! ## Operands -/

/-- The graph of a node operand (R250). -/
def nodeGraph (w : Word) : BitVec 6 := w.extractLsb' 12 6
/-- The index of a node operand. -/
def nodeIndex (w : Word) : BitVec 12 := w.extractLsb' 0 12

/-- Operands of an allocation: a pair of vector registers, of which the first holds the requests (R252). -/
def allocOpnds (d : VRegNo) (n : SReg) : Opnds :=
  { srcs := [.v d, .s n], dsts := [.v d, .v (d + 1)], named := [d, d + 1], whole := [d, d + 1]
    beyond := d == 127, ta := some (.v d), tb := some (.s n) }

/-- The active lanes of a slot, in ascending order. -/
def Slot.activeLanes (t : Slot) : List Nat := (List.range 32).filter t.isActive

/-! ## RALLOC, RALLOCW, RCOMMIT, RDONE, RDEPTH, RINFO -/

/-- An allocation of the active lanes' requests (R252). -/
def allocOp (c : Ctx) (d : VRegNo) (n : SReg) (trap wait : Bool) : Op :=
  let w := c.sreg n
  { c.newOp (.record (.alloc (nodeGraph w) (nodeIndex w) trap wait)) .hub (.vpair d) with
    got := c.slot.activeLanes.map fun l => (l, BitVec.ofNat 64 ((lane (c.vreg d) l).toNat % 65536)) }

/-- The data of a record operation as the routers of a redundant group compare it (R378). -/
def Op.recordBytes (o : Op) : List Byte := o.got.flatMap fun e => leBytes 8 e.2.toNat

/-- RALLOC: with no active lane nothing is sent (R252, R253). -/
def execRalloc (d : VRegNo) (n : SReg) (t : Bool) (s : State) : Host.Outcome State Fault Refusal :=
  run s (allocOpnds d n) fun c =>
    if !c.slot.anyActive then .done c.s
    else
      let o := allocOp c d n t false
      c.issueOp o [c.sreg n] o.recordBytes

/-- RALLOCW: the slot waits until its whole request fits (R254). -/
def execRallocw (d : VRegNo) (n : SReg) (t : Bool) (s : State) : Host.Outcome State Fault Refusal :=
  run s (allocOpnds d n) fun c =>
    if !c.slot.anyActive then .done c.s
    else
      let o := allocOp c d n t true
      match c.issueOp o [c.sreg n] o.recordBytes with
      | .done s => .park s (.rallocw o.id)
      | i => i

/-- RCOMMIT: a release at `.pk`; the slot goes on with the Shawm's answer (R256). -/
def execRcommit (d : VRegNo) (n : SReg) (v : Bool) (s : State) : Host.Outcome State Fault Refusal :=
  run s { srcs := [.v d, .v (d + 1), .s n], named := [d, d + 1], whole := [d, d + 1], beyond := d == 127
          ta := some (.v d), tb := some (.s n) } fun c =>
    match c.releaseHold false with
    | some i => i
    | none =>
      if !c.slot.anyActive then .done c.s
      else
        let w := c.sreg n
        let o := { c.newOp (.record (.commit (nodeGraph w) (nodeIndex w) v)) .hub .none with
          got := c.slot.activeLanes.map fun l =>
            (l, BitVec.ofNat 64 ((lane (c.vreg d) l).toNat + (lane (c.vreg (d + 1)) l).toNat * 2 ^ 32)) }
        match c.issueOp o [w] o.recordBytes with
        | .done s => .engage s
        | i => i

/-- Whether RDONE waits for an operation: a load whose value is not written (R257), or what a release waits for, since RDONE
is one at `.pk` (R270, R278). -/
def Op.beforeRdone (o : Op) : Bool :=
  !o.orphan && (o.beforeRelease || (match o.act with | .load _ => true | _ => false))

/-- RDONE: retires the input records of the active lanes (R257). -/
def execRdone (s : State) : Host.Outcome State Fault Refusal :=
  run s {} fun c =>
    if c.slot.ops.any Op.beforeRdone then .hold
    else if let some i := c.releaseHold false then i
    else if c.slot.member.isNone || !c.slot.anyActive then .done c.s
    else match c.issueOp (c.newOp (.record .done) .hub .none) [] [] with
      | .done s => .engage s
      | i => i

/-- RDEPTH (R255). -/
def execRdepth (d n : SReg) (s : State) : Host.Outcome State Fault Refusal :=
  run s { srcs := [.s n], dsts := [.s d], tb := some (.s n) } fun c =>
    let w := c.sreg n
    .done (c.setS d (match c.pkg.nodeAt (nodeGraph w) (nodeIndex w) with
      | none => BitVec.ofNat 64 (2 ^ 25)
      | some x =>
        let dep := c.slot.depth.toNat + 1
        BitVec.ofNat 64 (dep + x.maxDepth * 2 ^ 16 + flag (decide (x.maxDepth < dep)) * 2 ^ 24)))

/-- RINFO: a snapshot made at the hub (R258). -/
def execRinfo (d n : SReg) (k : BitVec 7) (s : State) : Host.Outcome State Fault Refusal :=
  run s { srcs := [.s n], dsts := [.s d], tb := some (.s n) } fun c =>
    let w := c.sreg n
    c.issueOp (c.newOp (.query (.node (nodeGraph w) (nodeIndex w) k)) .hub (.scalar d)) [w] []

/-! ## Records of copies and of the host -/

/-- Appends one committed record of depth 0 to a node with a free record; `body` are its bytes from byte 8 on, cut or
filled with zeros to the record's size (R217, R291, R400). -/
def appendRecord (s : State) (p : PkgId) (x : BitVec 6) (n : BitVec 12) (like : QRec) (body : List Byte) : State :=
  match (s.pkgAt p).nodeAt x n with
  | none => s
  | some d =>
    let words := chunks8 (d.recSize / 8 - 1) (body ++ List.replicate d.recSize 0)
    let at_ := d.qbase + BitVec.ofNat 64 (d.offsetOf d.alloc + 8)
    let s := (hubWrites p ((s.pkgAt p).graphAt x).pid s at_ words).1
    let wait := !(s.pkgAt p).hubWrites.isEmpty
    let s := allocate s p x n 1 { like with mode := .committed, arriving := wait }
    if wait then s.mapPkg p fun k => { k with hubWrites := k.hubWrites ++ [{ hubMark p with launch := some (x, n, d.alloc) }] }
    else updateNode s p x n

/-- Whether a node takes a record now (R254: an append by a copy or the host is no RALLOC). -/
def Node.takes (d : Node) : Bool := decide (0 < d.free)

/-! ## Loading a graph -/

/-- The limits of a node's descriptor (R290). -/
def Node.inLimits (d : Node) : Bool :=
  let entry := d.desc.getD 0 0
  let q := d.qbase
  let qEnd := bits q.toNat 0 28 + d.qcap * d.recSize
  codeWindow entry && entry.toNat % 4 == 0 &&
  (codeWindow q || (bits q.toNat 60 4 == 1 && bits q.toNat 52 8 == 0 && decide (qEnd ≤ 0x200000))) && q.toNat % 16 == 0 &&
  decide (8 ≤ d.regs) && decide (d.regs ≤ 128) && d.regs % 8 == 0 && bits (d.word 2) 39 1 == 0 &&
  decide (1 ≤ bits (d.word 2) 28 5) && decide (bits (d.word 2) 28 5 ≤ 22) && decide (1 ≤ d.slots) && decide (d.slots ≤ 64) &&
  decide (16 ≤ d.recSize) && decide (d.recSize ≤ 1024) && bits (d.word 2) 0 14 == 0 && bits (d.word 3) 12 20 == 0 &&
  decide (1 ≤ d.thresh) && decide (d.thresh ≤ Nat.min (32 * d.slots) d.qcap)

/-- Whether no entry stands twice in a list. -/
def allDistinct {α : Type} [BEq α] : List α → Bool
  | [] => true
  | x :: t => !t.contains x && allDistinct t

/-- The places of the slots and twins of a pinned node's group (R300). -/
def pinnedGroup (cells node seq : Nat) (d : Node) : List (Nat × Nat) :=
  let at_ (twin : Bool) : List (Nat × Nat) := (List.range d.slots).map fun s => pinnedAt cells node d.slots seq s twin
  if d.redundant then at_ false ++ at_ true else at_ false

/-- Whether a node can be placed in the empty partition (R288, code 5). -/
def Node.fits (d : Node) (q : Part) (node : Nat) : Bool :=
  let cells := q.field 0 16 7 * q.field 0 24 7
  decide (d.total ≤ 15 * cells) &&
  (!d.pinned || (List.range (15 * cells)).all fun seq =>
    allDistinct (pinnedGroup cells node seq d) &&
    (!d.redundant || (List.range d.slots).all fun s =>
      decide (2 ≤ hops (q.cellOf (pinnedAt cells node d.slots seq s false).1) (q.cellOf (pinnedAt cells node d.slots seq s true).1))))

/-- Reads the descriptors of a graph in node order, with the checks of R288 after each: the nodes, or the code with the
node at which the load failed; code 0 where a read still waits. -/
def loadNodes (p : PkgId) (e : Graph) (q : Part) : List Nat → State → State × Except (Byte × Nat) (List Node)
  | [], s => (s, .ok [])
  | n :: t, s =>
    match hubReads p e.pid 8 s (e.nodeBase + BitVec.ofNat 64 (64 * n)) with
    | (s, .error e) => (s, .error (if e.isNone then 0 else 2, n))
    | (s, .ok ws) =>
      let d : Node := { desc := ws }
      if !d.inLimits then (s, .error (3, n))
      else if !d.fits q n then (s, .error (5, n))
      else if e.chCount.toNat < d.channels then (s, .error (6, n))
      else
        let r := loadNodes p e q t s
        (r.1, r.2.map fun ds => d :: ds)

/-- Word 24 of a graph entry (R287). -/
def Graph.resultWord (e : Graph) : Word := BitVec.ofNat 64 (e.rcode.toNat + e.rnode.toNat * 2 ^ 12)

/-- LOADS a graph of a partition (R288), all of it at one moment. -/
def loadGraph (s : State) (p : PkgId) (x : BitVec 6) : State :=
  let k := s.pkgAt p
  let e := k.graphAt x
  let q := k.part e.loadPart
  let fail (s : State) (c : Byte) (n : Nat) : State :=
    s.mapGraph p x fun e => { e with mode := .free, rcode := c, rnode := BitVec.ofNat 12 n }
  if !(codeWindow e.nodeBase && e.nodeBase.toNat % 64 == 0) then fail s 1 0
  else if !(e.x0.toNat == q.field 0 0 6 && e.y0.toNat == q.field 0 8 6 && e.w.toNat == q.field 0 16 7 &&
      e.h.toNat == q.field 0 24 7) then fail s 4 0
  else match loadNodes p e q (List.range (e.nodesM1.toNat + 1)) s with
    | (s', .error (c, n)) => if c = 0 then s else fail s' c n
    | (s, .ok ds) =>
      let s := s.mapGraph p x fun e =>
        { e with mode := .resident, rcode := 0, rnode := 0, nodes := ds, nextLaunch := 1, ended := [], groups := [] }
      s.mapPkg p fun k => { k with tgCount := Table.del k.tgCount x.toNat, tgMark := k.tgMark.erase x.toNat }

/-! ## Teardown -/

/-- The slots that hold a place in a group of a graph. -/
def State.groupSlots (s : State) (p : PkgId) (x : BitVec 6) : List GRef :=
  (((s.pkgAt p).allSlots p).filter fun e => match e.2.member with | some m => m.graph == x | none => false).map (·.1)

/-- The RALLOCW that wait on the nodes of a graph. -/
def Graph.waiters (e : Graph) : List (GRef × Nat) := e.nodes.flatMap (·.waiters)

/-- Step 3 to 5 of a teardown (R312), once every slot that was killed has exited: the records are discarded, the waiting
RALLOCW get NONODE, the channels are free, and the timeline is marked. -/
def tearOn (s : State) (p : PkgId) (x : BitVec 6) : State :=
  let e := (s.pkgAt p).graphAt x
  if e.mode ≠ .tearing ∨ e.nodes.isEmpty ∨ (s.groupSlots p x).any (fun g => (s.slotAt g).dying) then s
  else
    let s := e.waiters.foldl (fun s w =>
      match s.opOf w.1 w.2 with
      | some o => answerRecord s w.1 w.2 (o.requests.map fun r => (r.1, laneAnswer 0 r.2 3)) none
      | none => s) s
    let chans := e.groups.flatMap (·.chans)
    let s := s.mapPkg p fun k =>
      let k := k.mapSlots fun _ _ t => { t with ops := t.ops.map fun o =>
        { o with launch := if (o.launch.map (·.1)) = some x then none else o.launch } }
      { k with chans := chans.foldl (fun t c => Table.put t c.toNat { Table.get {} t c.toNat with held := false }) k.chans
               tgMark := k.tgMark.insert x.toNat
               hubWrites := k.hubWrites.filter fun w => match w.launch with | some (y, _, _) => y != x | none => true }
    let s := s.mapGraph p x fun e => { e with nodes := [], groups := [], ended := [] }
    startPlacement (s.wakeTimelines p) p e.loadPart false

/-- TEARS DOWN a graph (R312): step 1 and step 2 at once, the others when the killed slots have exited. The last is over when
those are IDLE. -/
def tearGraph (s : State) (p : PkgId) (x : BitVec 6) : State :=
  let e := (s.pkgAt p).graphAt x
  let s := s.mapGraph p x fun e => { e with mode := .tearing }
  let s := match ((s.pkgAt p).part e.loadPart).place with
    | some pl => if pl.graph = x then abortPlacement s p e.loadPart false else s
    | none => s
  let s := s.mapPart p e.loadPart fun q =>
    { q with stuck := match q.stuck with | some (y, n) => if y = x then none else some (y, n) | none => none }
  tearOn (startPlacement (killSlots s (s.groupSlots p x)) p e.loadPart false) p x

/-- Whether the teardown of a graph is over (R312). -/
def State.tornDown (s : State) (p : PkgId) (x : BitVec 6) : Bool :=
  ((s.pkgAt p).graphAt x).mode == .tearing && ((s.pkgAt p).graphAt x).nodes.isEmpty && (s.groupSlots p x).isEmpty

/-- The entry of a graph that has been torn down returns to FREE. -/
def freeGraph (s : State) (p : PkgId) (x : BitVec 6) : State :=
  s.mapGraph p x fun e => { e with mode := .free, rcode := 0, rnode := 0 }

end Sys2Proof.Machine
end

