-- ==== Sys2Proof/Machine/VectorMem.lean ====
section
/-! DEFINITION. Vector loads, stores, gathers, scatters, strided accesses and vector atomics: majors 0x21-0x26 and 0x28
(R178-R180, R183). -/

namespace Sys2Proof.Machine

/-- The bytes of a vector element size (R60). -/
def vsizeBytes : VSize → Nat | .bu => 1 | .hu => 2 | .w => 4 | .hs => 2

/-- The active lanes, lowest first. -/
def Ctx.lanes (x : Ctx) : List Nat := (List.range 32).filter x.slot.isActive

/-- The elements of the active lanes, at the addresses `at_` and with the data `val` of each lane (R178). -/
def laneElts (x : Ctx) (n : Nat) (at_ : Nat → Word) (val : Nat → Word) : List RawElt :=
  x.lanes.map fun l => (l, at_ l, n, val l, 0)

/-- The atomicity units of a unit-stride access (R279). -/
def unitGroup (z : VSize) (a : Word) : Grouping := if z = .w ∧ a.toNat % 16 = 0 then .quads else .each

/-- The address of lane `l` at a byte distance in an index register (R178). -/
def indexAt (x : Ctx) (a : Word) (i : VRegNo) (l : Nat) : Word := a + (lane (x.vreg i) l).signExtend 64
/-- The address of lane `l` at multiples of a distance. -/
def strideAt (a k : Word) (l : Nat) : Word := a + k * BitVec.ofNat 64 l
/-- The data of a lane of a vector register. -/
def laneData (x : Ctx) (d : VRegNo) (l : Nat) : Word := (lane (x.vreg d) l).setWidth 64

/-- A vector load from the addresses of its lanes (R178). -/
def vectorLoad (o : Opnds) (d : VRegNo) (c : Scope) (r : Order) (z : VSize) (at_ : Ctx → Nat → Word) (gr : Ctx → Grouping)
    (s : State) : Host.Outcome State Fault Refusal :=
  run s o fun x => memIssue x
    { act := .load (z == .hs), acc := .load, scope := c, order := r, raw := laneElts x (vsizeBytes z) (at_ x) fun _ => 0
      group := gr x, dst := .vector d, mask := x.slot.active }

/-- A vector store to the addresses of its lanes (R178). -/
def vectorStore (o : Opnds) (d : VRegNo) (c : Scope) (r : Order) (z : VSize) (at_ : Ctx → Nat → Word) (gr : Ctx → Grouping)
    (wide : Ctx → Bool) (s : State) : Host.Outcome State Fault Refusal :=
  run s o fun x => memIssue x
    { act := .store, acc := .store, scope := c, order := r, raw := laneElts x (vsizeBytes z) (at_ x) (laneData x d)
      group := gr x, mask := x.slot.active, posted := true, wide := wide x }

/-- A vector full/empty access, all active lanes in one step (R180). -/
def vectorFe (f : FeOp) (o : Opnds) (d : VRegNo) (b : SReg) (dst : Dest) (c : Scope) (r : Order) (s : State) :
    Host.Outcome State Fault Refusal :=
  run s o fun x => memIssue x
    { act := .fe f, acc := .fe, scope := c, order := r
      raw := laneElts x 4 (fun l => x.sreg b + BitVec.ofNat 64 (4 * l)) (laneData x d)
      group := .whole, dst := dst, mask := x.slot.active, waits := true }

/-- Operands of a vector load. -/
def vloadOpnds (d : VRegNo) (b : SReg) : Opnds :=
  { srcs := [.s b], dsts := [.v d], named := [d], whole := [d], tb := some (.s b) }
/-- Operands of a vector store. -/
def vstoreOpnds (d : VRegNo) (b : SReg) : Opnds :=
  { srcs := [.v d, .s b], named := [d], whole := [d], ta := some (.v d), tb := some (.s b) }
/-- With an index register. -/
def withIndex (o : Opnds) (i : VRegNo) : Opnds :=
  { o with srcs := o.srcs ++ [.v i], named := o.named ++ [i], whole := o.whole ++ [i] }
/-- With a stride register. -/
def withStride (o : Opnds) (k : SReg) : Opnds := { o with srcs := o.srcs ++ [.s k] }

/-- VLD (R178). -/
def execVld (d : VRegNo) (b : SReg) (c : Scope) (o : Order) (z : VSize) (s : State) : Host.Outcome State Fault Refusal :=
  vectorLoad (vloadOpnds d b) d c o z (fun x l => x.sreg b + BitVec.ofNat 64 (l * vsizeBytes z)) (fun x => unitGroup z (x.sreg b)) s
/-- VLD.fe (R180). -/
def execVldFe (d : VRegNo) (b : SReg) (c : Scope) (o : Order) (s : State) : Host.Outcome State Fault Refusal :=
  vectorFe .ldfe (vloadOpnds d b) d b (.vector d) c o s
/-- VLD.f (R180). -/
def execVldF (d : VRegNo) (b : SReg) (c : Scope) (o : Order) (s : State) : Host.Outcome State Fault Refusal :=
  vectorFe .ldf (vloadOpnds d b) d b (.vector d) c o s
/-- VST (R178). An aligned one, whose base is a multiple of 16, may clear the poison of device memory (R337, log 40). -/
def execVst (d : VRegNo) (b : SReg) (c : Scope) (o : Order) (z : VSize) (s : State) : Host.Outcome State Fault Refusal :=
  vectorStore (vstoreOpnds d b) d c o z (fun x l => x.sreg b + BitVec.ofNat 64 (l * vsizeBytes z)) (fun x => unitGroup z (x.sreg b))
    (fun x => decide ((x.sreg b).toNat % 16 = 0)) s
/-- VST.fe (R180). -/
def execVstFe (d : VRegNo) (b : SReg) (c : Scope) (o : Order) (s : State) : Host.Outcome State Fault Refusal :=
  vectorFe .stfe (vstoreOpnds d b) d b .none c o s
/-- VST.f (R180). -/
def execVstF (d : VRegNo) (b : SReg) (c : Scope) (o : Order) (s : State) : Host.Outcome State Fault Refusal :=
  vectorFe .stf (vstoreOpnds d b) d b .none c o s
/-- VGATH (R178). -/
def execVgath (d : VRegNo) (b : SReg) (i : VRegNo) (c : Scope) (o : Order) (z : VSize) (s : State) : Host.Outcome State Fault Refusal :=
  vectorLoad (withIndex (vloadOpnds d b) i) d c o z (fun x => indexAt x (x.sreg b) i) (fun _ => .each) s
/-- VSCAT (R178). -/
def execVscat (d : VRegNo) (b : SReg) (i : VRegNo) (c : Scope) (o : Order) (z : VSize) (s : State) : Host.Outcome State Fault Refusal :=
  vectorStore (withIndex (vstoreOpnds d b) i) d c o z (fun x => indexAt x (x.sreg b) i) (fun _ => .each) (fun _ => false) s
/-- VLDK (R178). -/
def execVldk (d : VRegNo) (b k : SReg) (c : Scope) (o : Order) (z : VSize) (s : State) : Host.Outcome State Fault Refusal :=
  vectorLoad (withStride (vloadOpnds d b) k) d c o z (fun x => strideAt (x.sreg b) (x.sreg k)) (fun _ => .each) s
/-- VSTK (R178). -/
def execVstk (d : VRegNo) (b k : SReg) (c : Scope) (o : Order) (z : VSize) (s : State) : Host.Outcome State Fault Refusal :=
  vectorStore (withStride (vstoreOpnds d b) k) d c o z (fun x => strideAt (x.sreg b) (x.sreg k)) (fun _ => .each) (fun _ => false) s

/-- A vector atomic at package scope, a 4-byte atomic for each active lane (R183). -/
def vectorAtom (f : AtomOp) (d : VRegNo) (b : SReg) (i : VRegNo) (o : Order) (s : State) : Host.Outcome State Fault Refusal :=
  run s { withIndex (vstoreOpnds d b) i with dsts := [.v d] } fun x => memIssue x
    { act := .atom f, acc := .atomic, scope := .pk, order := o
      raw := laneElts x 4 (indexAt x (x.sreg b) i) (laneData x d), dst := .vector d, mask := x.slot.active }

/-- VAADD (R183). -/
def execVaadd (d : VRegNo) (b : SReg) (i : VRegNo) (o : Order) (s : State) : Host.Outcome State Fault Refusal := vectorAtom .add d b i o s
/-- VAAND (R183). -/
def execVaand (d : VRegNo) (b : SReg) (i : VRegNo) (o : Order) (s : State) : Host.Outcome State Fault Refusal := vectorAtom .and d b i o s
/-- VAOR (R183). -/
def execVaor (d : VRegNo) (b : SReg) (i : VRegNo) (o : Order) (s : State) : Host.Outcome State Fault Refusal := vectorAtom .or d b i o s
/-- VAXOR (R183). -/
def execVaxor (d : VRegNo) (b : SReg) (i : VRegNo) (o : Order) (s : State) : Host.Outcome State Fault Refusal := vectorAtom .xor d b i o s
/-- VAMIN (R183). -/
def execVamin (d : VRegNo) (b : SReg) (i : VRegNo) (o : Order) (s : State) : Host.Outcome State Fault Refusal := vectorAtom .min d b i o s
/-- VAMAX (R183). -/
def execVamax (d : VRegNo) (b : SReg) (i : VRegNo) (o : Order) (s : State) : Host.Outcome State Fault Refusal := vectorAtom .max d b i o s
/-- VAMINU (R183). -/
def execVaminu (d : VRegNo) (b : SReg) (i : VRegNo) (o : Order) (s : State) : Host.Outcome State Fault Refusal := vectorAtom .minu d b i o s
/-- VAMAXU (R183). -/
def execVamaxu (d : VRegNo) (b : SReg) (i : VRegNo) (o : Order) (s : State) : Host.Outcome State Fault Refusal := vectorAtom .maxu d b i o s
/-- VASWAP (R183). -/
def execVaswap (d : VRegNo) (b : SReg) (i : VRegNo) (o : Order) (s : State) : Host.Outcome State Fault Refusal := vectorAtom .swap d b i o s
/-- VAFADD (R183). -/
def execVafadd (d : VRegNo) (b : SReg) (i : VRegNo) (o : Order) (s : State) : Host.Outcome State Fault Refusal := vectorAtom .fadd d b i o s

end Sys2Proof.Machine
end

