-- ==== Sys2Proof/Machine/Stream.lean ====
section
/-! DEFINITION. Streams: major 0x2C (R199-R210) and the stream address engine's element reads and writes. -/

namespace Sys2Proof.Machine

/-! ## Descriptors -/

/-- The STREAMERR of an instruction that does not fit its descriptor's state (R202-R205). -/
def badStream : Issue := .trap { kind := .streamerr }

/-- A stream descriptor of a cell. -/
def Cell.streamAt (t : Cell) (n : Nat) : Stream := Table.get {} t.streams n
/-- Changes a stream descriptor of a cell. -/
def State.mapStream (s : State) (p : PkgId) (c : CellId) (n : Nat) (f : Stream → Stream) : State :=
  s.mapCell p c fun t => { t with streams := Table.put t.streams n (f (t.streamAt n)) }

/-- The descriptor number in a register (R202). -/
def streamNo (w : Word) : Nat := bits w.toNat 0 5

/-- Whether an instruction of a slot may act on a descriptor (R202). -/
def Stream.ownedBy (q : Stream) (n : SlotId) : Bool := q.mode != .free && q.owner == n

/-- A body that acts on a descriptor of the executing slot. -/
def ownStream (c : Ctx) (w : Word) (body : Nat → Stream → Issue) : Issue :=
  let q := c.cell.streamAt (streamNo w)
  if q.ownedBy c.g.slot then body (streamNo w) q else badStream

/-- Changes a descriptor of the executing slot's cell. -/
def Ctx.putStream (c : Ctx) (n : Nat) (f : Stream → Stream) : State := c.s.mapStream c.g.pkg c.g.cell n f

/-- Operands of an instruction that names a descriptor in regB. -/
def streamOpnds (n : SReg) : Opnds := { srcs := [.s n], tb := some (.s n) }

/-- SDEF (R203). -/
def execSdef (n b : SReg) (x : Bool) (z : VSize) (s : State) : Host.Outcome State Fault Refusal :=
  run s (Opnds.ab n b) fun c =>
    let i := streamNo (c.sreg n)
    let q := c.cell.streamAt i
    if q.mode = .free ∨ (q.owner = c.g.slot ∧ q.vreg.isNone) then
      .done (c.putStream i fun q =>
        { mode := .defined, base := c.sreg b, dims := (List.range 4).map fun j => (j, 1)
          lstride := BitVec.ofNat 32 (vsizeBytes z), esize := z, output := x, owner := c.g.slot, epoch := q.epoch + 1 })
    else badStream

/-- SDIM (R203). -/
def execSdim (n v : SReg) (j : BitVec 7) (s : State) : Host.Outcome State Fault Refusal :=
  run s (Opnds.ab n v) fun c =>
    ownStream c (c.sreg n) fun i q =>
      if q.mode ≠ .defined then badStream
      else if j = 4 then .done (c.putStream i fun q => { q with lstride := (c.sreg v).extractLsb' 0 32 })
      else .done (c.putStream i fun q => { q with dims := Table.put q.dims j.toNat (c.sreg v) })

/-- SBIND (R204). -/
def execSbind (d : VRegNo) (n : SReg) (s : State) : Host.Outcome State Fault Refusal :=
  run s { srcs := [.s n], dsts := [.v d], named := [d], whole := [d], tb := some (.s n) } fun c =>
    ownStream c (c.sreg n) fun i q =>
      if q.vreg.isSome || !(q.mode == .defined || q.mode == .paused) || decide (8 ≤ c.slot.binds.length) then badStream
      else .done ((c.putStream i fun q => { q with vreg := some d }).mapSlot c.g fun t =>
        { t.setFe (.v d) .full with binds := Table.put t.binds d.toNat (BitVec.ofNat 5 i) })

/-- The STREAMERR of the element at fault of an output stream (R208). -/
def outFault (n : Nat) (q : Stream) : FaultInfo :=
  { kind := .streamerr, sector := q.faddr, aux := BitVec.ofNat 64 (q.err.toNat + n * 2 ^ 8 + flag q.output * 2 ^ 13) }

/-- What ends with SUNBIND: the descriptor is free, and the register holds zeros and is full (R204). -/
def unbindStream (s : State) (g : GRef) (n : Nat) : State :=
  match ((s.cellAt g.pkg g.cell).streamAt n).vreg with
  | none => s
  | some d =>
    let s := s.mapStream g.pkg g.cell n fun q => { epoch := q.epoch }
    let s := s.mapSlot g fun t => { t with binds := Table.del t.binds d.toNat }
    s.setLanes g d (BitVec.allOnes 32) fun _ => 0

/-- The refused elements of a stream that have not been reported (R425). -/
def Stream.toReport (q : Stream) (t : Slot) : Table RefusedOp := t.refused.filter fun e => q.refused.has e.1

/-- An instruction that waits for an output stream's elements, none of which is queued any more (R425). -/
def drained (c : Ctx) (q : Stream) (s : State) : Issue :=
  match q.toReport c.slot with
  | [] => .done s
  | ops => .fenced ops false

/-- SUNBIND: an input's queue is discarded, an output is first drained (R204, R425). -/
def execSunbind (d : VRegNo) (s : State) : Host.Outcome State Fault Refusal :=
  run s { named := [d] } fun c =>
    match c.boundTo d with
    | none => badStream
    | some n =>
      let q := c.cell.streamAt n
      if !q.output then .done (unbindStream c.s c.g n)
      else if q.mode = .error then .trap (outFault n q)
      else if !q.queue.isEmpty then .park c.s (.drain (BitVec.ofNat 5 n) true)
      else drained c q (unbindStream c.s c.g n)

/-- The operations that a release of the slot would wait for, by number (R209, R214). -/
def Slot.releaseOps (t : Slot) : List Nat := (t.ops.filter fun o => o.beforeRelease && !o.orphan).map (·.id)

/-- The stores and atomics that the slot has issued and that have not been acknowledged, exact sums among them, whose words
are stores at `.ce` (R163, R209, R214, R277). -/
def Slot.storeOps (t : Slot) : List Nat :=
  (t.ops.filter fun o => !o.orphan && (match o.act with
    | .store | .xacc _ | .atom _ | .fe _ | .nclaim => true
    | _ => false)).map (·.id)

/-- The elements that a slot has appended to its output streams, but one, and that have not been written (R209). -/
def Cell.outMarks (t : Cell) (n : SlotId) (but : Option Nat) : List OutMark :=
  (t.streams.filter fun e => e.2.output && e.2.ownedBy n && !e.2.queue.isEmpty && but != some e.1).map fun e =>
    { desc := e.1, epoch := e.2.epoch, upTo := e.2.pos.toNat }

/-- Whether the elements of a mark have been written, or are gone with their stream. -/
def Cell.outDone (t : Cell) (m : OutMark) : Bool :=
  let q := t.streamAt m.desc
  q.epoch != m.epoch || q.mode == .free || decide (m.upTo ≤ q.gen)

/-- Whether operations of a slot have been acknowledged. -/
def Slot.acked (t : Slot) (ids : List Nat) : Bool := !(t.ops.any fun o => ids.contains o.id)

/-- SGO: an earlier acquire holds it; the engine's first element follows the slot's earlier stores and atomics (R205,
R209). -/
def execSgo (n : SReg) (s : State) : Host.Outcome State Fault Refusal :=
  run s (streamOpnds n) fun c =>
    if c.slot.acquiring then .hold
    else ownStream c (c.sreg n) fun i q =>
      if q.vreg.isNone || q.mode == .done then badStream
      else if q.mode = .running then .done c.s
      else .done (c.putStream i fun q =>
        { q with mode := .running, err := 0, faddr := 0, mustAck := c.slot.storeOps
                 mustOut := c.cell.outMarks c.g.slot (some i) })

/-- SSTOP (R205). -/
def execSstop (n : SReg) (s : State) : Host.Outcome State Fault Refusal :=
  run s (streamOpnds n) fun c =>
    ownStream c (c.sreg n) fun i q =>
      if q.mode = .running then .done (c.putStream i fun q => { q with mode := .paused }) else .done c.s

/-- The summary of a descriptor (R206). -/
def Stream.summary (q : Stream) : Nat :=
  q.mode.code + q.queue.length * 2 ^ 3 + flag q.vreg.isSome * 2 ^ 7 + q.err.toNat * 2 ^ 8 + bits q.pos.toNat 0 48 * 2 ^ 16

/-- SSTAT reads any descriptor (R206). -/
def execSstat (d n : SReg) (s : State) : Host.Outcome State Fault Refusal :=
  run s { streamOpnds n with dsts := [.s d] } fun c =>
    .done (c.setS d (BitVec.ofNat 64 (c.cell.streamAt (streamNo (c.sreg n))).summary))

/-- SDRAIN of an input descriptor (R205). -/
def Stream.rewind (q : Stream) : Stream :=
  if q.mode = .done ∧ q.queue = [] then q
  else { q with queue := [], flight := [], err := 0, faddr := 0, gen := q.pos.toNat, mode := .paused }

/-- SDRAIN (R205, R208, R425). -/
def execSdrain (n : SReg) (s : State) : Host.Outcome State Fault Refusal :=
  run s (streamOpnds n) fun c =>
    ownStream c (c.sreg n) fun i q =>
      if !q.output then .done (c.putStream i Stream.rewind)
      else if q.mode = .error then .trap (outFault i q)
      else if !q.queue.isEmpty then .park c.s (.drain (BitVec.ofNat 5 i) false)
      else drained c q c.s

/-! ## The engine -/

/-- COUNTj (R199). -/
def Stream.extent (q : Stream) (j : Nat) : Nat :=
  let c := (Table.get 0 q.dims j).toNat % 65536
  if c = 0 then 65536 else c

/-- The address of lane `l` of element `n` (R201). -/
def Stream.address (q : Stream) (n l : Nat) : Word :=
  let stride (j : Nat) : Int := ((Table.get 0 q.dims j).extractLsb' 16 48).toInt
  let i0 := n % q.extent 0
  let n1 := n / q.extent 0
  let i1 := n1 % q.extent 1
  let n2 := n1 / q.extent 1
  let i2 := n2 % q.extent 2
  let i3 := n2 / q.extent 2 % q.extent 3
  q.base + BitVec.ofInt 64 (i0 * stride 0 + i1 * stride 1 + i2 * stride 2 + i3 * stride 3 + l * q.lstride.toInt)

/-- The lanes of element `n` as the checks of R165 take them. -/
def Stream.raw (q : Stream) (n : Nat) (mask : BitVec 32) (val : Nat → Lane) : List RawElt :=
  ((List.range 32).filter mask.getLsbD).map fun l => (l, q.address n l, vsizeBytes q.esize, (val l).setWidth 64, 0)

/-- Whether the engine may begin an element of a stream: it runs, and what SGO follows has been acknowledged (R209). For a slot
that is being spilled it reads nothing more, and writes every output queue (R210, R310). -/
def streamReady (s : State) (p : PkgId) (c : CellId) (q : Stream) : Bool :=
  let t := s.cellAt p c
  let spilling := match (t.slotAt q.owner).evict with | .spilling _ _ => true | _ => false
  (if spilling then q.output && (q.mode == .running || q.mode == .paused || q.mode == .defined) else q.mode == .running) &&
    !(s.pkgAt p).stalled c && (t.slotAt q.owner).acked q.mustAck && q.mustOut.all t.outDone

/-- The number of the element that an input engine reads next (R207). -/
def Stream.nextRead (q : Stream) : Nat := q.gen + q.flight.length

/-- Whether an input queue has an entry that no element holds or awaits (R207). -/
def Stream.hasRoom (q : Stream) : Bool := decide (q.queue.length + q.flight.length < 8)

/-- The state of a stream of which `n` elements have been read into the queue or written: DONE comes from RUNNING alone
(R200). -/
def Stream.after (q : Stream) (n : Nat) : StreamMode := if q.mode = .running ∧ n = q.total then .done else q.mode

/-- Whether a stream runs and has nothing left to do, as after an SGO that found its last element done (R200). -/
def Stream.ended (q : Stream) : Bool := q.mode == .running && q.flight.isEmpty && decide (q.gen = q.total)

/-- The slot that owns a stream. -/
def Stream.ownerRef (q : Stream) (p : PkgId) (c : CellId) : GRef := { pkg := p, cell := c, slot := q.owner }

/-- A slot that waits on a stream looks again (R20, R27). -/
def Slot.wakeBound (t : Slot) (r : VRegNo) : Slot :=
  match t.wait with
  | some { what := .reg (.v q), .. } | some { what := .queue q, .. } => if q = r then t.endWait else t
  | _ => t

/-- The owner of a stream looks again. -/
def wakeOwner (s : State) (p : PkgId) (c : CellId) (n : Nat) : State :=
  let q := (s.cellAt p c).streamAt n
  match q.vreg with
  | some r => s.mapSlot (q.ownerRef p c) fun t => t.wakeBound r
  | none => s

/-- An SDRAIN or SUNBIND that waits for an output stream ends, or takes what it must report (R205, R208, R425). -/
def endDrain (s : State) (p : PkgId) (c : CellId) (n : Nat) : State :=
  let q := (s.cellAt p c).streamAt n
  let g := q.ownerRef p c
  match (s.slotAt g).wait with
  | some { what := .drain d unbind, .. } =>
    if d.toNat ≠ n then s
    else if q.mode = .error then faultHere s g (outFault n q)
    else if !q.queue.isEmpty then s
    else match q.toReport (s.slotAt g) with
      | e :: ops => faultHere (s.mapSlot g fun t => t.reported (e :: ops)) g { kind := .fenced, sector := e.2.addr }
      | [] => (if unbind then unbindStream s g n else s).mapSlot g Slot.endWait
  | _ => s

/-- A stream stops at an element at fault, with the fault's kind and the lowest faulting lane's address; the elements before it
go on (R208). One that has been paused since stays so, and reads the element again when it runs (R200, log 39). -/
def streamError (s : State) (p : PkgId) (c : CellId) (n i : Nat) (k : Kind) (a : Word) : State :=
  let s := s.mapStream p c n fun q =>
    let q := { q with flight := q.flight.take i }
    if q.mode = .running ∨ q.mode = .error then { q with mode := .error, err := k.code, faddr := a } else q
  endDrain (wakeOwner s p c n) p c n

/-- The bytes of one lane of an element as its slot receives them (R201). -/
def Stream.laneOf (q : Stream) (e : Elt) (b : List Byte) : Lane :=
  (extend (q.esize == .hs) e.n (leNat b)).setWidth 32

/-- How an element splits into atomicity units: as a vector access of its size where its lanes lie side by side (R279). -/
def Stream.grouping (q : Stream) (n : Nat) : Grouping :=
  if q.lstride.toNat = vsizeBytes q.esize then unitGroup q.esize (q.address n 0) else .each

/-- An element under way, as an operation of its units. -/
def StreamFlight.asOp (f : StreamFlight) (output : Bool) : Op :=
  { id := 0, head := 0, pos := 0, loops := {}, act := if output then .store else .load false, path := .local, units := f.units }

/-- Whether the place of an element of a stream answers now (R352, R386). -/
def streamPlace (s : State) (p : PkgId) (output : Bool) (e : Elt) : Bool :=
  s.refusesPlace p e.loc || (s.linked p e.loc.pkg && (if output then s.storeReady e.loc else s.readReady e.loc))

/-- The units of an element under way that may be performed next: not done, sharing no byte with an earlier one that is not
(R179), and with places that answer. -/
def flightUnits (s : State) (p : PkgId) (output : Bool) (f : StreamFlight) : List Nat :=
  (List.range f.units.length).filter fun j =>
    ((f.asOp output).together j).all fun i => match f.units[i]? with
      | none => false
      | some u => !u.done && u.elts.all (streamPlace s p output) &&
        !((f.units.take i).any fun v => !v.done && v.elts.any fun a => u.elts.any fun b => a.overlaps b)

/-- The units of a stream that may be performed next, each as its element's place among those under way and its own in it:
elements are read in any order (R207). -/
def streamUnits (s : State) (p : PkgId) (q : Stream) : List (Nat × Nat) :=
  q.flight.zipIdx.flatMap fun f => (flightUnits s p q.output f.1).map fun j => (f.2, j)

/-- Marks units of an element under way done. -/
def StreamFlight.passed (f : StreamFlight) (us : List Nat) : StreamFlight :=
  { f with units := f.units.zipIdx.map fun u => if us.contains u.2 then { u.1 with done := true } else u.1 }

/-- The elements of some units of an element under way. -/
def StreamFlight.eltsOf (f : StreamFlight) (us : List Nat) : List Elt := us.flatMap fun j => ((f.units[j]?).map (·.elts)).getD []

/-- What is left of an element under way, by ascending lane. -/
def StreamFlight.left (f : StreamFlight) : List Elt :=
  let es := (f.units.filter fun u => !u.done).flatMap (·.elts)
  (List.range 32).flatMap fun l => es.filter (·.lane == l)

/-- Whether an element under way is done: all its units are, or, of a twin's, its primary's has been read. -/
def StreamFlight.landed (f : StreamFlight) : Bool := if f.shadow then !f.part.isEmpty else f.units.all (·.done)

/-- The lanes of an input element that has been read. -/
def StreamFlight.lanes (f : StreamFlight) : VReg :=
  (List.range 32).map fun l => ((f.part.find? (·.1 == l)).map (·.2)).getD 0

/-- Changes one of the elements under way. -/
def Stream.mapFlight (q : Stream) (i : Nat) (f : StreamFlight → StreamFlight) : Stream :=
  { q with flight := q.flight.zipIdx.map fun x => if x.2 = i then f x.1 else x.1 }

/-- Whether a unit's way crosses a boundary that refuses now (R374). -/
def crossesShut (s : State) (p : PkgId) (c : CellId) (e : Elt) : Bool := pathOf e.addr != .local && s.boundaryRefuses p c e.loc

/-- Where a unit of a stream is refused when it reaches its place: by the place, or, unless it had passed, at a boundary (R345,
R355, R374). -/
def streamRefusal (s : State) (p : PkgId) (c : CellId) (passed : Bool) (e : Elt) : Option Kind :=
  match s.placeCheck p e.loc with
  | .error fenced => some (if fenced then .fenced else .page)
  | .ok () => if !passed && crossesShut s p c e then some .fenced else none

/-- Whether elements that reach their places had passed the boundaries that refuse now: those sent before may have (R374). -/
def hadPassedNow (s : State) (p : PkgId) (c : CellId) (f : StreamFlight) (es : List Elt) : State × Bool :=
  if f.inTransit && es.any (crossesShut s p c) then (s.draw, Config.hadPassed s.free) else (s, f.inTransit)

/-- The lowest lane of what is left of an element that is refused, with the kind of its refusal (R208). -/
def lowestRefusal (s : State) (p : PkgId) (c : CellId) (passed : Bool) (f : StreamFlight) : Option (Kind × Word) :=
  f.left.findSome? fun e => (streamRefusal s p c passed e).map fun k => (k, e.addr)

/-- An element that a slot's engine sends now. -/
def newFlight (s : State) (g : GRef) (us : List OpUnit) (twin : Option GRef) : StreamFlight :=
  { units := us, twin := twin, pid := (s.slotAt g).pid, colour := s.colourOf g
    inTransit := (us.flatMap (·.elts)).all fun e => !crossesShut s g.pkg g.cell e }

/-! ### Streams of redundant groups -/

/-- Whether an element leaves the cell (R303, R378). -/
def offCell (raw : List RawElt) : Bool := raw.any fun e => pathOf e.2.1 != .local

/-- How a stream of a slot of a redundant pair goes on with an element that leaves the cell (R303, R379). -/
inductive Paired where
  /-- The slot is in no pair, or the element stays in its cell. -/
  | alone
  /-- The twin's: it is not performed. -/
  | shadow
  /-- The primary's, with the twin's stream, whose element is the same. -/
  | both (w : GRef)
  /-- The primary's, whose twin has not come to it. -/
  | notYet
  /-- The primary's, whose twin's element differs, or whose twin is lost: the code of R379, and the twin. -/
  | broken (code : Nat) (w : GRef) (n : Nat)
  deriving DecidableEq, Repr, Inhabited

/-- The pairing of the next element of stream `n` of a slot. DESIGN CHOICE: stream elements are compared with the twin's of
the same number, outside the numbering of the slot's operations (log 30). -/
def paired (s : State) (g : GRef) (n : Nat) (q : Stream) (raw : Stream → List RawElt) : Paired :=
  match (s.slotAt g).member with
  | none => .alone
  | some m =>
    match m.partner with
    | none => .alone
    | some w =>
      if !offCell (raw q) then .alone
      else if m.twin then .shadow
      else if s.twinLost m w then .broken 3 w m.opNum
      else
        let x := (s.cellAt w.pkg w.cell).streamAt n
        let there := x.ownedBy w.slot && x.output == q.output &&
          (if x.output then x.gen == q.gen && !x.queue.isEmpty
            else x.mode == .running && x.nextRead == q.nextRead && x.hasRoom)
        if !there then .notYet else if raw x = raw q then .both w else .broken 1 w m.opNum

/-- Whether the next element of a stream may be begun as far as its pairing goes. -/
def Paired.may : Paired → Bool
  | .shadow | .notYet => false
  | .alone | .both _ | .broken _ _ _ => true

/-- A primary, and where the elements differ its twin too, traps REDUNDANCY; the stream stops (R379). -/
def breakPair (s : State) (g : GRef) (n code : Nat) (w : GRef) (k : Nat) : State :=
  let stop (s : State) (h : GRef) : State :=
    let s := s.mapStream h.pkg h.cell n fun q => { q with mode := .error, err := Kind.redundancy.code }
    match (s.slotAt h).mode with
    | .run | .parked | .subscribed => faultHere s h (redundancyFault code k)
    | _ => s
  if code = 1 then stop (stop s g) w else stop s g

/-! ### Input elements -/

/-- The elements under way that have been read join the queue, in ascending order (R207). -/
def Stream.collect (q : Stream) : List StreamFlight → Stream
  | [] => { q with flight := [] }
  | f :: rest =>
    if f.landed then
      Stream.collect { q with queue := q.queue ++ [{ lanes := f.lanes, mask := BitVec.allOnes 32 }], gen := q.gen + 1
                              mode := q.after (q.gen + 1) } rest
    else { q with flight := f :: rest }

/-- Elements that have been read reach the slot's queue. -/
def collectReads (s : State) (p : PkgId) (c : CellId) (n : Nat) : State :=
  wakeOwner (s.mapStream p c n fun q => q.collect q.flight) p c n

/-- The lanes of the next element of an input stream. -/
def Stream.inputRaw (q : Stream) : List RawElt := q.raw q.nextRead (BitVec.allOnes 32) fun _ => 0

/-- Whether the next element of an input stream may be begun now (R207, R303). -/
def beginsRead (s : State) (p : PkgId) (c : CellId) (n : Nat) (q : Stream) : Bool :=
  streamReady s p c q && !q.output && q.hasRoom && decide (q.nextRead < q.total) &&
    (paired s (q.ownerRef p c) n q Stream.inputRaw).may

/-- Whether the engine has something to do for an input stream: reads that have been issued complete whatever becomes of the
stream's state (R205, R207, R210). -/
def readReady (s : State) (p : PkgId) (c : CellId) (n : Nat) (q : Stream) : Bool :=
  !q.output && (q.ended || beginsRead s p c n q || !(streamUnits s p q).isEmpty)

/-- Begins an element of an input stream: every lane is checked before one is read (R208). The element of a primary is its
twin's too (R303). -/
def beginRead (s : State) (p : PkgId) (c : CellId) (n : Nat) : State :=
  let q := (s.cellAt p c).streamAt n
  let g := q.ownerRef p c
  let go (twin : Option GRef) : State :=
    let x := checkElts s g (s.slotAt g).pid .strRead q.inputRaw
    match x.2 with
    | .error f => streamError x.1 p c n q.flight.length f.kind f.sector
    | .ok es =>
      let s := x.1.mapStream p c n fun q =>
        { q with flight := q.flight ++ [newFlight x.1 g (groupElts (q.grouping q.nextRead) es) twin] }
      match twin with
      | some w => s.mapStream w.pkg w.cell n fun q => { q with flight := q.flight ++ [{ shadow := true }] }
      | none => s
  match paired s g n q Stream.inputRaw with
  | .shadow | .notYet => s
  | .broken code w k => breakPair s g n code w k
  | .alone => go none
  | .both w => go (some w)

/-- The twin's stream receives the element numbered `k` that its primary's engine has read (R303). -/
def readForTwin (s : State) (w : GRef) (n k : Nat) (part : List (Nat × Lane)) : State :=
  collectReads (s.mapStream w.pkg w.cell n fun q =>
    if q.gen ≤ k then q.mapFlight (k - q.gen) fun f => if f.shadow then { f with part := part } else f else q) w.pkg w.cell n

/-- Reads one unit of an element of an input stream (R207, R208, R279). -/
def readUnit (s : State) (p : PkgId) (c : CellId) (n i j : Nat) : State :=
  let q := (s.cellAt p c).streamAt n
  match q.flight[i]? with
  | none => s
  | some f =>
    let es := f.eltsOf [j]
    let (s, passed) := hadPassedNow s p c f es
    if es.any fun e => (streamRefusal s p c passed e).isSome then
      match lowestRefusal s p c passed f with
      | some (k, a) => streamError s p c n i k a
      | none => s
    else match f.left.find? fun e => (s.peek e.loc e.n).isNone && s.readReady e.loc with
      | some e => streamError s p c n i .ecc e.addr
      | none =>
        let f := { f.passed [j] with part := f.part ++ es.map fun e => (e.lane, q.laneOf e ((s.peek e.loc e.n).getD [])) }
        let s := s.mapStream p c n fun q => q.mapFlight i fun _ => f
        if f.landed then
          let s := match f.twin with | some w => readForTwin s w n (q.gen + i) f.part | none => s
          collectReads s p c n
        else s

/-- A stream with nothing left to do is DONE (R200). -/
def endStream (s : State) (p : PkgId) (c : CellId) (n : Nat) : State :=
  wakeOwner (s.mapStream p c n fun q => { q with mode := .done }) p c n

/-- STREAM_ELEMENT_READ: the engine begins an element, or reads one unit of one that is under way (R207). -/
def execStreamElementRead (p : PkgId) (c : CellId) (x : BitVec 5) (s : State) : Host.Outcome State Fault Refusal :=
  occur <|
    let q := (s.cellAt p c).streamAt x.toNat
    if q.output then s
    else if q.ended then endStream s p c x.toNat
    else match s.choose ((if beginsRead s p c x.toNat q then [none] else []) ++ (streamUnits s p q).map some) with
      | (s, some none) => beginRead s p c x.toNat
      | (s, some (some u)) => readUnit s p c x.toNat u.1 u.2
      | (_, none) => s

/-! ### Output elements -/

/-- Writes elements of an access to their places: the parts of one protected sector as one write (R349). -/
def storeAll (s : State) (i : Issuer) (es : List Elt) : State :=
  let s := storeElts s i (es.filter fun e => !e.loc.prot)
  let sectors := ((es.filter fun e => e.loc.prot).map fun e => (e.loc.pkg, e.loc.off / 32)).eraseDups
  sectors.foldl (fun s k => storeElts s i (es.filter fun e => e.loc.prot && e.loc.pkg == k.1 && e.loc.off / 32 == k.2)) s

/-- Clears the poison that the performed units of an access cover together (R337), and tries the waiters of the scratchpads
that the last of them wrote (R174, R176). -/
def afterStores (s : State) (o : Op) (es : List Elt) : State :=
  let s := es.foldl (fun s e => clearCovered s o e) s
  ((es.filter fun e => e.loc.store == .spad).map fun e => (e.loc.pkg, e.loc.cell)).eraseDups.foldl
    (fun s k => s.settle k.1 k.2) s

/-- The head element of an output stream is done. -/
def popElement (s : State) (p : PkgId) (c : CellId) (n : Nat) : State :=
  let s := s.mapStream p c n fun q =>
    { q with queue := q.queue.tail, gen := q.gen + 1, flight := [], mode := q.after (q.gen + 1) }
  endDrain (wakeOwner s p c n) p c n

/-- The masked lanes of the head element of an output stream (R207). -/
def Stream.outputRaw (q : Stream) : List RawElt :=
  match q.queue with
  | [] => []
  | e :: _ => q.raw q.gen e.mask fun l => lane e.lanes l

/-- Whether the head element of an output stream may be begun now (R205, R303). -/
def beginsWrite (s : State) (p : PkgId) (c : CellId) (n : Nat) (q : Stream) : Bool :=
  streamReady s p c q && q.output && !q.queue.isEmpty && (paired s (q.ownerRef p c) n q Stream.outputRaw).may

/-- Whether the engine has something to do for an output stream: what has been sent is performed whatever becomes of the
stream's state (R205, R210). -/
def writeReady (s : State) (p : PkgId) (c : CellId) (n : Nat) (q : Stream) : Bool :=
  q.output && (q.ended || if q.flight.isEmpty then beginsWrite s p c n q else !(streamUnits s p q).isEmpty)

/-- The addresses of the elements that a slot has appended to its other output streams before operation number `id`. -/
def Cell.earlierElements (t : Cell) (g : SlotId) (n id : Nat) : List Word :=
  t.streams.flatMap fun (e : Nat × Stream) =>
    if e.1 == n || !(e.2.output && e.2.ownedBy g) then []
    else e.2.queue.zipIdx.flatMap fun x =>
      if x.1.id < id then (e.2.raw (e.2.gen + x.2) x.1.mask fun _ => 0).map (·.2.1) else []

/-- Whether the element numbered `id` among the operations of its slot may be written as far as program order goes: every
acquire before it has its value, and every operation and element before it on one of its sectors, through the same window,
has been acknowledged (R168, R169, R209, R270); one of the replay list has not (R426). -/
def elementFree (s : State) (g : GRef) (n id : Nat) (es : List Elt) : Bool :=
  let t := s.slotAt g
  !((t.ops ++ t.replay).any fun o => decide (o.id < id) && !o.orphan && (o.acq || es.any fun e => o.touches (pathOf e.addr) e)) &&
  !(((s.cellAt g.pkg g.cell).earlierElements g.slot n id).any fun a => es.any fun e => e.addr.toNat / 32 == a.toNat / 32)

/-- Begins the head element of an output stream: every masked lane is checked before one is written (R208). -/
def beginWrite (s : State) (p : PkgId) (c : CellId) (n : Nat) : State :=
  let q := (s.cellAt p c).streamAt n
  let g := q.ownerRef p c
  let go (twin : Option GRef) : State :=
    let x := checkElts s g (s.slotAt g).pid .strWrite q.outputRaw
    match x.2 with
    | .error f => streamError x.1 p c n 0 f.kind f.sector
    | .ok es =>
      if elementFree x.1 g n ((q.queue.head?.map (·.id)).getD 0) es then
        x.1.mapStream p c n fun q => { q with flight := [newFlight x.1 g (groupElts (q.grouping q.gen) es) twin] }
      else s
  match paired s g n q Stream.outputRaw with
  | .shadow | .notYet => s
  | .broken code w k => breakPair s g n code w k
  | .alone => go none
  | .both w => go (some w)

/-- A refused unit of an element is reported to its slot as R425 gives. -/
def refuseElement (s : State) (p : PkgId) (c : CellId) (n : Nat) (a : Word) : State :=
  let q := (s.cellAt p c).streamAt n
  let id := (q.queue.head?.map (·.id)).getD 0
  (s.mapStream p c n fun q => { q with refused := q.refused.insert id }).mapSlot (q.ownerRef p c) fun t =>
    if (Table.find t.refused id).isSome then t else { t with refused := Table.put t.refused id { kind := .element, addr := a } }

/-- Units of the head element of an output stream are done; with the last of them the element is, and its twin's (R303). -/
def writtenUnits (s : State) (p : PkgId) (c : CellId) (n : Nat) (us : List Nat) : State :=
  let s := s.mapStream p c n fun q => q.mapFlight 0 fun f => f.passed us
  match ((s.cellAt p c).streamAt n).flight with
  | f :: _ =>
    if f.landed then
      let s := popElement s p c n
      match f.twin with
      | some w =>
        let x := (s.cellAt w.pkg w.cell).streamAt n
        if x.ownedBy w.slot && x.output && !x.queue.isEmpty then popElement s w.pkg w.cell n else s
      | none => s
    else s
  | [] => s

/-- Writes one unit of the head element of an output stream: only the lanes that were active reach memory (R207, R279); a
protected sector's units are one write (R349). -/
def writeUnit (s : State) (p : PkgId) (c : CellId) (n j : Nat) : State :=
  let q := (s.cellAt p c).streamAt n
  let g := q.ownerRef p c
  match q.flight with
  | [] => s
  | f :: _ =>
    let us := (f.asOp true).together j
    let es := f.eltsOf us
    let (s, passed) := hadPassedNow s p c f es
    match es.findSome? fun e => (streamRefusal s p c passed e).map fun k => (k, e.addr) with
    | some (.fenced, a) => writtenUnits (refuseElement s p c n a) p c n us
    | some (k, a) =>
      let f := (lowestRefusal s p c passed f).getD (k, a)
      streamError s p c n 0 f.1 f.2
    | none => writtenUnits (afterStores (storeElts s (.slot g f.colour) es) ((f.passed us).asOp true) es) p c n us

/-- STREAM_ELEMENT_WRITE: the engine begins the head element of an output queue, or writes one unit of it (R207). An element
without a masked lane writes nothing. -/
def execStreamElementWrite (p : PkgId) (c : CellId) (x : BitVec 5) (s : State) : Host.Outcome State Fault Refusal :=
  occur <|
    let q := (s.cellAt p c).streamAt x.toNat
    if !q.output then s
    else if q.ended then endStream s p c x.toNat
    else if q.flight.isEmpty then
      if !beginsWrite s p c x.toNat q then s
      else if q.outputRaw.isEmpty then popElement s p c x.toNat else beginWrite s p c x.toNat
    else match s.choose (streamUnits s p q) with
      | (s, some u) => writeUnit s p c x.toNat u.2
      | (_, none) => s

/-- What is left of an element under way of a colour whose packets are discarded: an input stops at it, an output reports it;
whether a write had been performed before is open (R374, R377). -/
def discardElement (s : State) (p : PkgId) (c : CellId) (n i : Nat) : State :=
  let q := (s.cellAt p c).streamAt n
  match q.flight[i]? with
  | none => s
  | some f =>
    let us := (List.range f.units.length).filter fun j => match f.units[j]? with
      | some u => !u.done && u.path != .local
      | none => false
    let es := f.eltsOf us
    let a := (es.head?.map (·.addr)).getD 0
    if !q.output then streamError s p c n i .fenced a
    else
      let passed := Config.hadPassed s.free
      let s := s.draw
      let s := if passed then storeAll s (.slot (q.ownerRef p c) f.colour) (es.filter fun e => s.storeReady e.loc) else s
      writtenUnits (refuseElement s p c n a) p c n us

end Sys2Proof.Machine
end

