-- ==== Sys2Proof/Machine/Copy.lean ====
section
/-! DEFINITION. Copies: major 0x2D (R211-R222), the copy contexts, and the messages that other cells perform. -/

namespace Sys2Proof.Machine

/-! ## Contexts and launch registers -/

/-- A copy context of a cell. -/
def Cell.ctxAt (t : Cell) (x : BitVec 2) : CopyCtx := Table.get {} t.ctxs x.toNat
/-- Changes a copy context of a cell. -/
def State.mapCtx (s : State) (p : PkgId) (c : CellId) (x : BitVec 2) (f : CopyCtx → CopyCtx) : State :=
  s.mapCell p c fun t => { t with ctxs := Table.put t.ctxs x.toNat (f (t.ctxAt x)) }

/-- A launch register (R211). -/
def launchReg (t : Table Word) (n : Nat) : Word := Table.get 0 t n

/-- CPSET (R213). -/
def execCpset (r : SReg) (n : BitVec 7) (s : State) : Host.Outcome State Fault Refusal :=
  run s { srcs := [.s r], tb := some (.s r) } fun c =>
    .done (c.s.mapSlot c.g fun t => { t with launchRegs := Table.set 0 t.launchRegs n.toNat (c.sreg r) })

/-- What is read of a launch register: the reserved bits 63:8 of FLAGS read as zero, although CPGO looks at what was written
there (R5, R212, R214). DEDUCED, log 38. -/
def launchRead (t : Table Word) (n : Nat) : Word := if n = 9 then launchReg t n &&& 0xFF else launchReg t n

/-- CPGET (R213). -/
def execCpget (d : SReg) (n : BitVec 7) (s : State) : Host.Outcome State Fault Refusal :=
  run s (Opnds.d d) fun c => .done (c.setS d (launchRead c.slot.launchRegs n.toNat))

/-- SRC of a launch. -/
def Launch.src (l : Launch) : Word := launchReg l.regs 0
/-- DST. -/
def Launch.dst (l : Launch) : Word := launchReg l.regs 1
/-- LEN. -/
def Launch.len (l : Launch) : Nat := (launchReg l.regs 2).toNat
/-- ROWS. -/
def Launch.rows (l : Launch) : Nat := (launchReg l.regs 5).toNat
/-- A bit of FLAGS (R212). -/
def Launch.flagBit (l : Launch) (i : Nat) : Bool := (launchReg l.regs 9).getLsbD i

/-! ## CPGO -/

/-- Whether an address is one at which SIGFULL may set a full/empty bit (R214, reason 7). -/
def isSpadAddress (a : Word) : Bool :=
  let w := bits a.toNat 60 4
  if w = 0 then decide (bits a.toNat 0 60 < 0x200000)
  else w == 1 && bits a.toNat 52 8 == 0 && decide (bits a.toNat 0 28 < 0x200000)

/-- The first check of R214 that the launch registers fail. -/
def launchReason (r : Table Word) (mark : Bool) : Option Nat :=
  let len := (launchReg r 2).toNat
  let rows := (launchReg r 5).toNat
  let f := (launchReg r 9).toNat
  let sig := bits f 0 1 == 1
  let sig8 := bits f 1 1 == 1
  let full := bits f 2 1 == 1
  let at_ := launchReg r 6
  if len = 0 ∨ 2 ^ 32 ≤ len then some 1
  else if rows = 0 ∨ 2 ^ 32 ≤ rows then some 2
  else if bits f 8 56 ≠ 0 ∨ bits f 5 2 = 3 ∨ (full = true ∧ (sig = false ∨ sig8 = true)) then some 3
  else if bits f 3 1 = 1 ∧ bits (launchReg r 8).toNat 18 46 ≠ 0 then some 4
  else if bits f 7 1 = 1 ∧ barName (launchReg r 10) = .bad then some 5
  else if mark then some 6
  else if (sig = true ∧ at_.toNat % (if sig8 then 8 else 4) ≠ 0) ∨ (full = true ∧ isSpadAddress at_ = false) then some 7
  else none

/-- The launches of a slot that await acceptance (R214). -/
def Slot.unaccepted (t : Slot) : Nat :=
  (t.ops.filter fun o => !o.performed && !o.orphan && (match o.act with | .launch _ => true | _ => false)).length

/-- CPGO: the launch takes its identifier at once and is accepted later (R214). A twin launches nothing: its primary's
identifier reaches it (R303). -/
def execCpgo (d : SReg) (x : BitVec 2) (s : State) : Host.Outcome State Fault Refusal :=
  run s (Opnds.d d) fun c =>
    let t := c.slot
    let regs := t.launchRegs
    match launchReason regs (c.cell.tlMark.has x.toNat) with
    | some r => .trap { kind := .copyfault, aux := BitVec.ofNat 64 (r * 2 ^ 16 + x.toNat * 2 ^ 8) }
    | none =>
      if t.acquiring || decide (4 ≤ t.unaccepted) then .hold
      else
        let o := c.newOp (.launch x) .local (.scalar d)
        let data := (List.range 11).flatMap fun i => leBytes 8 (launchReg regs i).toNat
        match c.issueOp o [] data with
        | .done s =>
          if (t.member.map (·.twin)) == some true && (t.member.bind (·.partner)).isSome then .done s
          else
            let v := (c.cell.ctxAt x).lastId + 1
            let l : Launch :=
              { regs := regs, id := v, slot := c.g.slot, head := t.head, pos := t.pos, pid := t.pid, colour := o.colour
                origin := t.member.map (·.node), opId := o.id, mustAck := t.storeOps
                mustOut := c.cell.outMarks c.g.slot none
                template := makeRecord c.s c.g Kind.copyfault.code { kind := .copyfault } t.head t.pos false t.active }
            .done (s.mapCtx c.g.pkg c.g.cell x fun q => { q with lastId := v, unaccepted := q.unaccepted ++ [l] })
        | i => i

/-- CPSTAT (R219). -/
def execCpstat (d : SReg) (x : BitVec 2) (s : State) : Host.Outcome State Fault Refusal :=
  run s (Opnds.d d) fun c =>
    c.issueAlone (c.valueOp (.scalar d) [(0, BitVec.ofNat 64 (c.cell.ctxAt x).word0)])

/-- Whether the first launch that awaits acceptance is accepted now (R214, R379). -/
def acceptReady (s : State) (p : PkgId) (c : CellId) (x : BitVec 2) : Bool :=
  let t := s.cellAt p c
  let q := t.ctxAt x
  match q.unaccepted with
  | [] => false
  | l :: _ =>
    let sent := match s.opOf { pkg := p, cell := c, slot := l.slot } l.opId with | some o => !o.held | none => false
    !(s.pkgAt p).stalled c && decide (q.queue.length < 16) && (t.slotAt l.slot).acked l.mustAck && l.mustOut.all t.outDone && sent

/-- The CPGO of a launch gets its identifier (R214, R221). -/
def answerLaunch (s : State) (p : PkgId) (c : CellId) (l : Launch) : State :=
  let g : GRef := { pkg := p, cell := c, slot := l.slot }
  let s := finishOp (s.mapOp g l.opId fun o => { o with performed := true, held := false, got := [(0, l.id)] }) g l.opId
  match s.opOf g l.opId with
  | some o => answerOp s g o
  | none => s

/-- COPY_LAUNCH_ACCEPT (R214). -/
def execCopyLaunchAccept (p : PkgId) (c : CellId) (x : BitVec 2) (s : State) : Host.Outcome State Fault Refusal :=
  occur <| if acceptReady s p c x then
    match ((s.cellAt p c).ctxAt x).unaccepted with
    | [] => s
    | l :: rest => answerLaunch (s.mapCtx p c x fun q => { q with unaccepted := rest, queue := q.queue ++ [l] }) p c l
  else s

/-! ## Faults of a context -/

/-- The ring of a copy context's record (R361). -/
def Pkg.ringOfCell (k : Pkg) (c : CellId) : Ring :=
  match k.partOf c with
  | some e => .part (BitVec.ofNat 3 e.1)
  | none => .host

/-- A context stops in FAULTED and its record is queued (R220). -/
def faultCtx (s : State) (p : PkgId) (c : CellId) (x : BitVec 2) (k : Kind) (a : Word) : State :=
  let pk := s.pkgAt p
  match ((pk.cellAt c).ctxAt x).cur with
  | none => s
  | some l =>
    let r := { l.template with
      sector := a, aux := BitVec.ofNat 64 (k.code.toNat + x.toNat * 2 ^ 8 + 2 ^ 20)
      time := BitVec.ofNat 64 pk.time, cycle := BitVec.ofNat 32 pk.cycle }
    let s := s.mapCtx p c x fun q => { q with mode := .faulted, fkind := k.code, faddr := a, recordDue := true }
    queueRecord s { pkg := p, cell := c, slot := l.slot } (some x) (pk.ringOfCell c) r

/-! ## Payload -/

/-- The scratchpad that a window-0 or window-1 address names, and the offset in it. -/
def spadOf (p : PkgId) (c : CellId) (a : Word) : Option (PkgId × CellId × Nat) :=
  if isSpadAddress a then
    if bits a.toNat 60 4 = 0 then some (p, c, bits a.toNat 0 60)
    else some (BitVec.ofNat 12 (bits a.toNat 40 12), BitVec.ofNat 12 (bits a.toNat 28 12), bits a.toNat 0 28)
  else none

/-- Whether two ranges of `n` bytes share a byte. -/
def rangesMeet (a b n : Nat) : Bool := decide (a < b + n) && decide (b < a + n)

/-- Whether a row is performed in descending order (R216). -/
def rowDescends (p : PkgId) (c : CellId) (src dst : Word) (n : Nat) : Bool :=
  match spadOf p c src, spadOf p c dst with
  | some (p1, c1, a), some (p2, c2, b) => p1 == p2 && c1 == c2 && rangesMeet a b n && decide (a < b)
  | _, _ =>
    bits src.toNat 60 4 == 2 && bits dst.toNat 60 4 == 2 && rangesMeet src.toNat dst.toNat n &&
      decide (src.toNat < dst.toNat)

/-- The source address of a row. -/
def Launch.rowSrc (l : Launch) (r : Nat) : Word := l.src + BitVec.ofNat 64 r * launchReg l.regs 3
/-- The destination address of a row. -/
def Launch.rowDst (l : Launch) (r : Nat) : Word := l.dst + BitVec.ofNat 64 r * launchReg l.regs 4

/-- A context that is idle starts the next launch of its queue (R215). -/
def startCopy (s : State) (p : PkgId) (c : CellId) (x : BitVec 2) : State :=
  s.mapCtx p c x fun q =>
    match q.mode, q.queue with
    | .idle, l :: rest =>
      { q with mode := .busy, cur := some l, queue := rest, row := 0, off := 0, sdone := false, rdone := false
               bdone := false, owner := l.slot, curId := l.id
               desc := rowDescends p c (l.rowSrc 0) (l.rowDst 0) l.len }
    | _, _ => q

/-- The bytes of the next unit of a row, by their index in it, and whether they lie in one protected sector: a protected
sector's part (R349), an aligned 8-byte word that source and destination share, or one byte (R215). -/
def unitBytes (d s0 : Word) (len off : Nat) (desc prot : Bool) : List Nat :=
  let b := if desc then len - 1 - off else off
  let at_ := (d + BitVec.ofNat 64 b).toNat
  let from_ := (s0 + BitVec.ofNat 64 b).toNat
  let n : Nat :=
    if prot then (if desc then Nat.min (at_ % 32 + 1) (len - off) else Nat.min (32 - at_ % 32) (len - off))
    else
      let aligned := if desc then at_ % 8 == 7 && from_ % 8 == 7 else at_ % 8 == 0 && from_ % 8 == 0
      if aligned && decide (8 ≤ len - off) then 8 else 1
  if desc then (List.range n).map fun i => b + 1 - n + i else (List.range n).map (b + ·)

/-- The check that a place in an operand buffer lies in a reservation in use (R215). -/
def inReservation (t : Cell) (off : Nat) : Bool :=
  t.obres.any fun e => e.2.getLsbD 63 && decide (256 * bits e.2.toNat 0 11 ≤ off) &&
    decide (off < 256 * (bits e.2.toNat 0 11 + bits e.2.toNat 11 11))

/-- The place of one byte that a copy reads or writes (R215, R220), as it is refused at a boundary too (R374). -/
def copyPlace (s : State) (p : PkgId) (c : CellId) (pid : BitVec 16) (a : Word) (k : Acc) :
    State × Except FaultInfo Loc :=
  let x := resolve s p c pid a 1 k
  match x.2 with
  | .error f => x.map id fun _ => .error { f with sector := a }
  | .ok l =>
    if l.store = .opbuf ∧ !inReservation (x.1.cellAt l.pkg l.cell) l.off then
      (x.1, .error { kind := .prot, sector := a })
    else if pathOf a != .local && x.1.boundaryRefuses p c l then (x.1, .error { kind := .fenced, sector := a })
    else x

/-- The places of the bytes of a unit. -/
def copyPlaces (p : PkgId) (c : CellId) (pid : BitVec 16) (base : Word) (k : Acc) :
    State → List Nat → State × Except FaultInfo (List Loc)
  | s, [] => (s, .ok [])
  | s, b :: t =>
    match copyPlace s p c pid (base + BitVec.ofNat 64 b) k with
    | (s, .error f) => (s, .error f)
    | (s, .ok l) =>
      let r := copyPlaces p c pid base k s t
      (r.1, r.2.map fun ls => l :: ls)

/-- Clears the poison of the units that a row has now covered (R337): `d` is the row's destination, `bs` the bytes just
written by index, `l` the place of the first of them. -/
def clearRow (s : State) (d : Word) (len : Nat) (desc : Bool) (bs : List Nat) (l : Loc) : State :=
  let lo := bs.headD 0
  let hi := lo + bs.length
  let size := match l.store with | .hbm | .ddr => 32 | _ => 8
  let base := (d + BitVec.ofNat 64 lo).toNat
  let done (u : Nat) : Bool :=
    let start := u * size
    let first := d.toNat
    decide (first ≤ start) && decide (start + size ≤ first + len) &&
      (if desc then decide (base ≤ start) else decide (start + size ≤ first + hi))
  let cleared := (unitsOf base bs.length size).filter done
  let whole : List Elt := cleared.map fun u =>
    { lane := 0, addr := d, n := size, loc := { l with off := (l.off / size + u - base / size) * size } }
  let o : Op := { id := 0, head := 0, pos := 0, loops := {}, act := .store, path := .local
                  units := [{ path := .local, elts := whole, done := true }] }
  if l.prot then s else afterStores s o whole

/-- One unit of a copy's payload (R215, R216, R220); it waits for ports that are down (R386), and for a reconstruction
(R352). -/
def copyUnit (s : State) (p : PkgId) (c : CellId) (x : BitVec 2) (q : CopyCtx) (l : Launch) : State :=
  let src := l.rowSrc q.row
  let dst := l.rowDst q.row
  let first := if q.desc then l.len - 1 - q.off else q.off
  let prot := match (resolve s p c l.pid (dst + BitVec.ofNat 64 first) 1 .engWrite).2 with | .ok a => a.prot | .error _ => false
  let bs := unitBytes dst src l.len q.off q.desc prot
  match copyPlaces p c l.pid src .engRead s bs with
  | (s, .error f) => faultCtx s p c x f.kind f.sector
  | (s, .ok from_) =>
    match copyPlaces p c l.pid dst .engWrite s bs with
    | (s, .error f) => faultCtx s p c x f.kind f.sector
    | (s, .ok to_) =>
      if from_.any (fun a => !s.linked p a.pkg || !s.readReady a) || to_.any (fun a => !s.linked p a.pkg || !s.storeReady a) then s
      else match (from_.zip bs).find? fun e => (s.peek e.1 1).isNone with
      | some e => faultCtx s p c x .ecc (src + BitVec.ofNat 64 e.2)
      | none =>
        match to_ with
        | [] => s
        | a :: _ =>
          let bytes := from_.map fun e => ((s.peek e 1).getD []).headD 0
          let s := if a.prot then s.storeBytes a (dst + BitVec.ofNat 64 (bs.headD 0)) bytes (.copy p c x l.id l.colour)
            else (to_.zip bytes).foldl (fun s e => s.poke e.1 [e.2]) s
          let s := clearRow s dst l.len q.desc bs a
          let s := match a.store with | .spad => s.settle a.pkg a.cell | _ => s
          s.mapCtx p c x fun q =>
            let off := q.off + bs.length
            if off = l.len then
              { q with row := q.row + 1, off := 0
                       desc := if q.row + 1 < l.rows then rowDescends p c (l.rowSrc (q.row + 1)) (l.rowDst (q.row + 1)) l.len
                         else q.desc }
            else { q with off := off }

/-- Whether a context has payload to transfer: of its current copy, or of a launch that it may start. -/
def CopyCtx.hasPayload (q : CopyCtx) : Bool :=
  match q.mode, q.cur with
  | .idle, _ => !q.queue.isEmpty
  | .busy, some l => decide (q.row < l.rows)
  | _, _ => false

/-- COPY_PAYLOAD: a context transfers one unit of its current copy, which it starts if need be (R215). -/
def execCopyPayload (p : PkgId) (c : CellId) (x : BitVec 2) (s : State) : Host.Outcome State Fault Refusal :=
  occur <| if ((s.cellAt p c).ctxAt x).hasPayload && !(s.pkgAt p).stalled c then
    let s := startCopy s p c x
    let q := (s.cellAt p c).ctxAt x
    match q.cur with
    | some l => copyUnit s p c x q l
    | none => s
  else s

/-! ## Completion -/

/-- The last completion action (R217 step 5). -/
def endCopy (s : State) (p : PkgId) (c : CellId) (x : BitVec 2) (l : Launch) : State :=
  let s := s.mapCtx p c x fun q => { q with mode := .idle, cur := none }
  (s.mapCell p c fun t => { t with tlCount := Table.set 0 t.tlCount x.toNat l.id }).wakeTimelines p

/-- Sets the error mark of a copy timeline. -/
def State.markCopy (s : State) (p : PkgId) (c : CellId) (x : BitVec 2) : State :=
  s.mapCell p c fun t => { t with tlMark := t.tlMark.insert x.toNat }

/-- The signal write (R217 step 2). -/
def signalStep (s : State) (p : PkgId) (c : CellId) (x : BitVec 2) (l : Launch) : State :=
  let a := launchReg l.regs 6
  let n := if l.flagBit 1 then 8 else 4
  let r := resolve s p c l.pid a n .strWrite
  match r.2 with
  | .error f => faultCtx r.1 p c x f.kind a
  | .ok w =>
    let s := r.1
    if pathOf a != .local && s.boundaryRefuses p c w then faultCtx s p c x .fenced a
    else if !s.linked p w.pkg || !s.storeReady w then s
    else
      let s := s.storeBytes w a (leBytes n (launchReg l.regs 7).toNat) (.copy p c x l.id l.colour)
      let s := if l.flagBit 2 then s.setWord true { lane := 0, addr := a, n := 4, loc := w } else s
      let s := match w.store with | .spad => s.settle w.pkg w.cell | _ => s
      s.mapCtx p c x fun q => { q with sdone := true }

/-- The completion record (R217 step 3). -/
def recordStep (s : State) (p : PkgId) (c : CellId) (x : BitVec 2) (l : Launch) : State :=
  let w := launchReg l.regs 8
  match (s.pkgAt p).nodeAt (nodeGraph w) (nodeIndex w) with
  | none => endCopy (s.markCopy p c x) p c x l
  | some d =>
    if !d.takes then s.mapCtx p c x fun q => { q with mode := .waitrec }
    else
      let like : QRec := { seq := 0, mode := .committed, copy := true, origin := l.origin.getD 0xFFF, ext := l.origin.isNone }
      let s := appendRecord s p (nodeGraph w) (nodeIndex w) like
        (leBytes 8 l.id.toNat ++ leBytes 8 (launchReg l.regs 7).toNat)
      s.mapCtx p c x fun q => { q with rdone := true, mode := .busy }

/-- The barrier arrival (R217 step 4). -/
def barrierStep (s : State) (p : PkgId) (c : CellId) (x : BitVec 2) (l : Launch) : State :=
  let id := GRef.id28 { pkg := p, cell := c, slot := l.slot }
  let a := launchReg l.regs 10
  let done (s : State) : State := s.mapCtx p c x fun q => { q with bdone := true }
  match barName a with
  | .own b => done (s.arrive p c b id)
  | .other p' c' b =>
    if s.shut p p' || s.remoteRefused p c p' c' then faultCtx s p c x .fenced a
    else if !s.linked p p' then s
    else done (s.arrive p' c' b id)
  | .bad => faultCtx s p c x .prot a

/-- The next completion action of a copy whose payload is complete, one at a time (R217). -/
def completionStep (s : State) (p : PkgId) (c : CellId) (x : BitVec 2) : State :=
  let q := (s.cellAt p c).ctxAt x
  match q.cur with
  | none => s
  | some l =>
    if q.row < l.rows then s
    else if l.flagBit 4 && q.parityOut != 0 then s
    else if l.flagBit 0 && !q.sdone then signalStep s p c x l
    else if l.flagBit 3 && !q.rdone then recordStep s p c x l
    else if l.flagBit 7 && !q.bdone then barrierStep s p c x l
    else endCopy s p c x l

/-- COPY_COMPLETION (R217). -/
def execCopyCompletion (p : PkgId) (c : CellId) (x : BitVec 2) (s : State) : Host.Outcome State Fault Refusal :=
  occur <| if ((s.cellAt p c).ctxAt x).mode = .busy ∧ !(s.pkgAt p).stalled c then completionStep s p c x else s

/-- Whether what a context in WAITREC waits for has come: room in the queue, or the end of its graph (R217). -/
def waitrecOver (s : State) (p : PkgId) (c : CellId) (x : BitVec 2) : Bool :=
  let q := (s.cellAt p c).ctxAt x
  q.mode == .waitrec && !(s.pkgAt p).stalled c && (match q.cur with
    | some l => match (s.pkgAt p).nodeAt (nodeGraph (launchReg l.regs 8)) (nodeIndex (launchReg l.regs 8)) with
      | some d => d.takes
      | none => true
    | none => false)

/-- COPY_WAITREC_RESUME (R217). -/
def execCopyWaitrecResume (p : PkgId) (c : CellId) (x : BitVec 2) (s : State) : Host.Outcome State Fault Refusal :=
  occur <| if waitrecOver s p c x then completionStep s p c x else s

/-! ## CPRESUME -/

/-- Discards all work of a context (R221): each CPGO that has not been accepted gets its identifier. -/
def abortCtx (s : State) (p : PkgId) (c : CellId) (x : BitVec 2) : State :=
  let q := (s.cellAt p c).ctxAt x
  let s := (s.markCopy p c x).mapCtx p c x fun q =>
    { q with mode := .idle, cur := none, queue := [], unaccepted := [], fkind := 0, faddr := 0 }
  let s := s.mapCell p c fun t => { t with tlCount := Table.set 0 t.tlCount x.toNat q.lastId }
  (q.unaccepted.foldl (fun s l => answerLaunch s p c l) s).wakeTimelines p

/-- A CPRESUME acts on a context that is FAULTED and whose record has been posted (R221). -/
def resumeCtx (s : State) (p : PkgId) (c : CellId) (x : BitVec 2) (abort : Bool) : State :=
  let q := (s.cellAt p c).ctxAt x
  if q.mode ≠ .faulted ∨ q.recordDue = true then s
  else if abort then abortCtx s p c x
  else
    let colour := s.colourOf { pkg := p, cell := c, slot := 0 }
    s.mapCtx p c x fun q =>
      { q with mode := .busy, fkind := 0, faddr := 0, cur := q.cur.map fun l => { l with colour := colour } }

/-- CPRESUME (R221). -/
def execCpresume (n : SReg) (x : BitVec 2) (s : State) : Host.Outcome State Fault Refusal :=
  run s { srcs := [.s n], tb := some (.s n) } fun c =>
    let w := c.sreg n
    if bits w.toNat 1 8 ≠ 0 then .trap { kind := .illegal }
    else match barName (w &&& ~~~(511 : Word)) with
      | .bad => barProt
      | .own _ => .done (resumeCtx c.s c.g.pkg c.g.cell x (w.getLsbD 0))
      | .other p d _ =>
        if c.s.shut c.g.pkg p then .trap { kind := .fenced, sector := w }
        else if !c.slot.priv then .trap { kind := .priv }
        else
          let e : Elt := { lane := 0, addr := w, n := 8, loc := { store := .control, pkg := p, cell := d, off := 0x400 + 64 * x.toNat } }
          c.issueOp { c.newOp (.resume x (w.getLsbD 0)) .remote .none with
            posted := true, units := [{ path := .remote, elts := [e] }]
            inTransit := !c.s.remoteRefused c.g.pkg c.g.cell p d } [w] []

/-! ## Messages -/

/-- A CPRESUME of another cell arrives (R221). -/
def arriveResume (s : State) (g : GRef) (o : Op) (e : Elt) (x : BitVec 2) (abort : Bool) : State :=
  let r := refusedNow s g o e.addr e.loc
  match r.2 with
  | some f => refuseUnits r.1 g o [0] f
  | none =>
    let s := resumeCtx r.1 e.loc.pkg e.loc.cell x abort
    finishOp (s.mapOp g o.id fun o => o.note [0] [] none) g o.id

/-- ACTIVE_MESSAGE: the service context of a cell performs one unit of a remote operation (R166, R321). -/
def execActiveMessage (g : GRef) (op : Nat) (s : State) : Host.Outcome State Fault Refusal :=
  occur <| match s.opOf g op with
  | none => s
  | some o =>
    match s.choose (messageUnits s g o) with
    | (s, some j) =>
      (match o.eltOf j with
      | none => s
      | some e =>
        let s := match o.act with
          | .resume x abort => arriveResume s g o e x abort
          | _ => arriveUnit s g o j
        setServing s g op e)
    | (_, none) => s

end Sys2Proof.Machine
end

