-- ==== Sys2Proof/Machine/Matrix.lean ====
section
/-! DEFINITION. The matrix engine: major 0x2E (R223-R237), the rotation table and the power cap (R40, R41, R308, R396). -/

namespace Sys2Proof.Machine

/-! ## Reservations -/

/-- BASE, LEN, FMT, BLK and SCOFF of a record word of either kind (R37, R38). -/
structure Reservation where
  base : Nat
  len : Nat
  fmt : Nat
  blk : Nat
  scoff : Nat
  deriving DecidableEq, Repr, Inhabited

/-- Reads an operand-buffer record (R37). -/
def obRecord (w : Word) : Reservation :=
  { base := bits w.toNat 0 11, len := bits w.toNat 11 11, fmt := bits w.toNat 22 7, blk := bits w.toNat 32 3
    scoff := bits w.toNat 40 14 }
/-- Reads a B-store record (R38). -/
def bsRecord (w : Word) : Reservation :=
  { base := bits w.toNat 0 8, len := bits w.toNat 8 9, fmt := bits w.toNat 22 7, blk := bits w.toNat 32 3
    scoff := bits w.toNat 40 14 }

/-- Whether a record word is in use. -/
def inUse (w : Word) : Bool := w.getLsbD 63

/-- The first check of R224 that fails: a code, with the other record's number for code 3. `gran` is the unit of BASE and
LEN, `limit` the number of units. DESIGN CHOICE: of several records that the range overlaps, code 3 names the lowest-numbered, where R224
says not which (log 12). -/
def reserveCode (t : Table Word) (read : Word → Reservation) (n : Nat) (v : Word) (gran limit : Nat) (resv : Bool) : Option Nat :=
  let r := read v
  if resv then some 7
  else if inUse (Table.get 0 t n) then some 1
  else if r.len = 0 ∨ limit < r.base + r.len then some 2
  else match t.find? fun e => inUse e.2 && windowsMeet r.base r.len (read e.2).base (read e.2).len with
  | some e => some (3 + e.1 * 2 ^ 8)
  | none =>
    if r.fmt = 0x20 ∨ r.fmt = 0x25 ∨ r.fmt = 0x26 ∨ r.fmt = 0x27 then some 4
    else if 2 ≤ r.blk ∨ (r.blk = 1 ∧ isB8 r.fmt = false) then some 5
    else if (r.blk = 1 ∧ gran * r.len ≤ 16 * r.scoff) ∨ (r.blk = 0 ∧ r.scoff ≠ 0) then some 6
    else none

/-- The bits of both layouts that are reserved (R37, R38), V and OWNER apart. -/
def reservedBits (w : Word) : Bool :=
  bits w.toNat 60 3 != 0 || bits w.toNat 54 2 != 0 || bits w.toNat 35 5 != 0 || bits w.toNat 29 3 != 0

/-- The record word that a slot makes (R224). -/
def recordWord (v : Word) (n : SlotId) : Word :=
  BitVec.ofNat 64 (bits v.toNat 0 56 + n.toNat * 2 ^ 56 + 2 ^ 63)

/-- An OBRES trap (R224, R227). -/
def obresTrap (code : Nat) : Issue := .trap { kind := .obres, aux := BitVec.ofNat 64 code }

/-- OBRES (R224). -/
def execObres (v : SReg) (n : BitVec 4) (s : State) : Host.Outcome State Fault Refusal :=
  run s { srcs := [.s v], tb := some (.s v) } fun c =>
    let w := c.sreg v
    if !validFormat (w.extractLsb' 22 7) then .trap { kind := .illegal }
    else match reserveCode c.cell.obres obRecord n.toNat w 256 1024 (reservedBits w) with
    | some e => obresTrap e
    | none => .done (c.s.mapCell c.g.pkg c.g.cell fun t => { t with obres := Table.set 0 t.obres n.toNat (recordWord w c.g.slot) })

/-- BSRES (R224). -/
def execBsres (v : SReg) (n : BitVec 4) (s : State) : Host.Outcome State Fault Refusal :=
  run s { srcs := [.s v], tb := some (.s v) } fun c =>
    let w := c.sreg v
    if !validFormat (w.extractLsb' 22 7) then .trap { kind := .illegal }
    else match reserveCode c.cell.bsres bsRecord n.toNat w 64 256 (reservedBits w || bits w.toNat 17 5 != 0) with
    | some e => obresTrap e
    | none => .done (c.s.mapCell c.g.pkg c.g.cell fun t => { t with bsres := Table.set 0 t.bsres n.toNat (recordWord w c.g.slot) })

/-- Whether a record is in use by a slot. -/
def heldBy (w : Word) (n : SlotId) : Bool := inUse w && bits w.toNat 56 4 == n.toNat

/-- OBFREE: waits for the slot's own steps that use the record (R225). -/
def execObfree (n : BitVec 4) (s : State) : Host.Outcome State Fault Refusal :=
  run s {} fun c =>
    if !heldBy (Table.get 0 c.cell.obres n.toNat) c.g.slot then obresTrap 12
    else if c.cell.steps.any fun r => r.slot == c.g.slot && r.aNo == n.toNat then .hold
    else .done (c.s.mapCell c.g.pkg c.g.cell fun t => { t with obres := Table.del t.obres n.toNat })

/-- BSFREE (R225). -/
def execBsfree (n : BitVec 4) (s : State) : Host.Outcome State Fault Refusal :=
  run s {} fun c =>
    if !heldBy (Table.get 0 c.cell.bsres n.toNat) c.g.slot then obresTrap 12
    else if c.cell.steps.any fun r => r.slot == c.g.slot && r.bNo == n.toNat then .hold
    else .done (c.s.mapCell c.g.pkg c.g.cell fun t => { t with bsres := Table.del t.bsres n.toNat })

/-! ## MMA and MMAZ -/

/-- Whether the elements of a format are 16 bits wide (R226). -/
def isWide (f : Nat) : Bool := matrixRow f == some 2
/-- K_step (R94). -/
def kStep (f : Nat) : Nat := if isWide f then 4 else 16
/-- The size of an A step block (R226). -/
def aBlock (f : Nat) : Nat := if isWide f then 512 else 1024
/-- The size of a B step block in one slice (R226). -/
def bBlock (f : Nat) : Nat := if isWide f then 8 else 16

/-- The first check of R227 that fails. -/
def mmaCode (t : Cell) (a b : Word) (k : Nat) : Option Nat :=
  let ao := bits a.toNat 8 20
  let bo := bits b.toNat 8 14
  let aw := Table.get 0 t.obres (bits a.toNat 0 4)
  let bw := Table.get 0 t.bsres (bits b.toNat 0 4)
  let ra := obRecord aw
  let rb := bsRecord bw
  let last (o blk f : Nat) : Nat := ((o / blk + (k - 1)) * kStep f) / 32
  if bits a.toNat 4 4 ≠ 0 ∨ bits a.toNat 28 36 ≠ 0 ∨ bits b.toNat 4 4 ≠ 0 ∨ bits b.toNat 22 42 ≠ 0 then some 7
  else if !inUse aw || !inUse bw then some 8
  else if ao % aBlock ra.fmt ≠ 0 ∨ bo % bBlock rb.fmt ≠ 0 ∨ 256 * ra.len < ao + k * aBlock ra.fmt ∨
      64 * rb.len < bo + k * bBlock rb.fmt then some 9
  else if matrixRow ra.fmt = none ∨ matrixRow ra.fmt ≠ matrixRow rb.fmt then some 10
  else if (ra.blk = 1 ∧ 256 * ra.len < 16 * ra.scoff + 64 * last ao (aBlock ra.fmt) ra.fmt + 64) ∨
      (rb.blk = 1 ∧ 64 * rb.len < 16 * rb.scoff + last bo (bBlock rb.fmt) rb.fmt + 1) then some 11
  else none

/-- The body of MMA and MMAZ: the steps are queued, and the slot is held until the last has read (R228, R229). -/
def mmaBody (a b : SReg) (k : BitVec 5) (tile : BitVec 2) (zero : Bool) (c : Ctx) : Issue :=
  let wa := c.sreg a
  let wb := c.sreg b
  let n := k.toNat + 1
  match mmaCode c.cell wa wb n with
  | some e => obresTrap e
  | none =>
    let t := c.slot
    if n ≤ t.mmaStep.toNat then .done c.s
    else
      let aNo := bits wa.toNat 0 4
      let bNo := bits wb.toNat 0 4
      let job : MmaJob :=
        { slot := c.g.slot, tile := tile, aNo := aNo, bNo := bNo, arec := Table.get 0 c.cell.obres aNo
          brec := Table.get 0 c.cell.bsres bNo, ao := bits wa.toNat 8 20, bo := bits wb.toNat 8 14, k := n
          j := t.mmaStep.toNat, zero := zero, mask := t.active, issued := c.cycle }
      .engage (c.s.mapCell c.g.pkg c.g.cell fun x => { x with mma := x.mma ++ [job] })

/-- MMA (R228). -/
def execMma (a b : SReg) (k : BitVec 5) (t : BitVec 2) (s : State) : Host.Outcome State Fault Refusal :=
  run s (Opnds.ab a b) (mmaBody a b k t false)
/-- MMAZ (R228). -/
def execMmaz (a b : SReg) (k : BitVec 5) (t : BitVec 2) (s : State) : Host.Outcome State Fault Refusal :=
  run s (Opnds.ab a b) (mmaBody a b k t true)

/-- Whether the window of a cycle belongs to a slot in its cell, as the rotation table and the power cap give (R40, R41,
R308). -/
def ownsWindow (k : Pkg) (t : Cell) (n : SlotId) : Bool :=
  let w := k.cycle / 16 % 16
  let e := Table.get 0 t.rotation w
  decide (w < 16 - k.capNow.toNat) && e.getLsbD 7 && e.extractLsb' 0 4 == n

/-- Whether a slot has a plain store to its cell's B-store that has not been performed (R231). -/
def Slot.storesB (t : Slot) (p : PkgId) (c : CellId) : Bool :=
  t.ops.any fun o => o.act == .store && o.units.any fun u => !u.done && u.elts.any fun e =>
    e.loc.store == .bstore && e.loc.pkg == p && e.loc.cell == c

/-- The job of a slot whose next step may read in this cycle: in a window of the slot (R229), after the slot's earlier plain stores
to the B-store, which a step waits for (R231, log 12). -/
def stepJob (k : Pkg) (t : Cell) (g : GRef) : Option MmaJob :=
  (t.mma.find? (·.slot == g.slot)).bind fun j =>
    if ownsWindow k t g.slot && decide (j.issued + 16 ≤ k.cycle / 16 * 16) && !(t.slotAt g.slot).storesB g.pkg g.cell then some j
    else none

/-- The bytes that a step reads of the operand buffer or of the slices of the B-store, by offset in that storage: the
block's elements and its scales. -/
structure StepBytes where
  elems : List Nat
  scales : List Nat
  deriving DecidableEq, Repr, Inhabited

/-- What step `j` of a job reads in the operand buffer (R226). -/
def aBytes (m : MmaJob) : StepBytes :=
  let r := obRecord m.arec
  let blk := aBlock r.fmt
  let o := m.ao + m.j * blk
  { elems := (List.range blk).map fun i => 256 * r.base + o + i
    scales := if r.blk = 1 then
        (List.range 64).map fun i => 256 * r.base + 16 * r.scoff + 64 * (o / blk * kStep r.fmt / 32) + i
      else [] }

/-- What step `j` of a job reads in the B-store: slice after slice (R226, R38). -/
def bBytes (m : MmaJob) : StepBytes :=
  let r := bsRecord m.brec
  let blk := bBlock r.fmt
  let o := m.bo + m.j * blk
  { elems := (List.range 64).flatMap fun c => (List.range blk).map fun i => 16384 * c + 64 * r.base + o + i
    scales := if r.blk = 1 then
        (List.range 64).map fun c => 16384 * c + 64 * r.base + 16 * r.scoff + o / blk * kStep r.fmt / 32
      else [] }

/-- The place of an accumulator element in a cell's tiles (R36). -/
def accKey (tile : BitVec 2) (row col : Nat) : Nat := tile.toNat * 4096 + row * 64 + col
/-- The 64-bit unit of an accumulator element (R339). -/
def accUnit (tile : BitVec 2) (row col : Nat) : Nat := tile.toNat * 2048 + row * 32 + col / 2

/-- The rows of the lanes of a mask (R36). -/
def maskRows (mask : BitVec 32) : List Nat :=
  ((List.range 32).filter mask.getLsbD).flatMap fun l => [2 * l, 2 * l + 1]

/-- The first row of a step whose prior values are poisoned and are not written anew by a step before it (R228, R339). -/
def poisonedRow (t : Cell) (m : MmaJob) : Option Nat :=
  if m.zero && m.j == 0 then none
  else (maskRows m.mask).find? fun r =>
    ((List.range 32).any fun u => t.accPoison.has (m.tile.toNat * 2048 + r * 32 + u)) &&
      !(t.steps.any fun x => x.tile == m.tile && (maskRows x.mask).contains r)

/-- The first error that a step meets in its operands (R230), scales first, A before B, and then in its tile (R339). DESIGN CHOICE:
the order among several errors of one step is open (log 12). -/
def stepFault (t : Cell) (m : MmaJob) : Option FaultInfo :=
  let a := aBytes m
  let b := bBytes m
  let aux (code : Nat) : Word := BitVec.ofNat 64 (code + m.j * 2 ^ 8)
  let badA (i : Nat) : Bool := t.opBad.has i
  let badB (i : Nat) : Bool := t.bPoison.has (i / 8)
  match a.scales.find? badA with
  | some i => some { kind := .scalepar, sector := BitVec.ofNat 64 (0x600000 + i), aux := aux 2 }
  | none =>
    match b.scales.find? badB with
    | some i => some { kind := .scalepar, sector := BitVec.ofNat 64 (0x400000 + i), aux := aux 1 }
    | none =>
      match a.elems.find? badA with
      | some i => some { kind := .ecc, sector := sectorOf (BitVec.ofNat 64 (0x600000 + i)), aux := aux 2 }
      | none =>
        match b.elems.find? badB with
        | some i => some { kind := .ecc, sector := sectorOf (BitVec.ofNat 64 (0x400000 + i)), aux := aux 1 }
        | none => (poisonedRow t m).map fun r => { kind := .ecc, sector := Config.accSector m.tile.toNat r, aux := aux 3 }

/-- The operands that a step has read. -/
def readStep (t : Cell) (m : MmaJob) (window : Nat) : StepRun :=
  let a := aBytes m
  let b := bBytes m
  let ob (i : Nat) : Byte := Table.get 0 t.opbuf i
  let bs (i : Nat) : Byte := Table.get 0 t.bstore i
  { slot := m.slot, tile := m.tile, zero := m.zero && m.j == 0, mask := m.mask, aNo := m.aNo, bNo := m.bNo
    afmt := (obRecord m.arec).fmt, bfmt := (bsRecord m.brec).fmt, ablk := a.elems.map ob, bblk := b.elems.map bs
    ascale := if a.scales.isEmpty then none else some (a.scales.map ob)
    bscale := if b.scales.isEmpty then none else some (b.scales.map bs), window := window, j := m.j
    last := decide (m.k ≤ m.j + 1) }

/-- MATRIX_STEP: the next step of a slot's MMA or MMAZ reads its operands in a window of the slot, or traps; the last
read lets the slot go at the end of the window (R229, R230). DESIGN CHOICE: all of the step's operands are read at one moment, the
first cycle of the window in which it may read, so that a byte written later in the window is not seen; R231 leaves it open
(log 12). -/
def execMatrixStep (g : GRef) (s : State) : Host.Outcome State Fault Refusal :=
  occur <|
    let k := s.pkgAt g.pkg
    let t := k.cellAt g.cell
    match stepJob k t g with
    | none => s
    | some m =>
      let window := k.cycle / 16 * 16
      let drop (s : State) : State := s.mapCell g.pkg g.cell fun t => { t with mma := t.mma.filter (·.slot != g.slot) }
      match stepFault t m with
      | some f => (faultHere (drop s) g f).mapSlot g fun t => { t with mmaStep := BitVec.ofNat 5 m.j }
      | none =>
        let s := s.mapCell g.pkg g.cell fun t => { t with steps := t.steps ++ [readStep t m window] }
        if m.j + 1 < m.k then
          s.mapCell g.pkg g.cell fun t =>
            { t with mma := t.mma.map fun x => if x.slot = g.slot then { x with j := m.j + 1, issued := window } else x }
        else
          settleStop ((drop s).mapSlot g fun t =>
            { t.endWait with hold := some { why := .mma, till := window + 16 } }) g

/-! ## Tiles -/

/-- The step's element (r, c) over the prior value (R95, R96, R228). -/
def StepRun.element (x : StepRun) (r c : Nat) (prior : Lane) : Lane :=
  let n := kStep x.afmt
  let take (blk : List Byte) (at_ : Nat) (wide : Bool) : List Nat := (List.range n).map fun q =>
    if wide then leNat ((blk.drop (at_ + 2 * q)).take 2) else (blk.getD (at_ + q) 0).toNat
  let a := take x.ablk (if isWide x.afmt then 8 * r else 16 * r) (isWide x.afmt)
  let b := take x.bblk (if isWide x.bfmt then 8 * c else 16 * c) (isWide x.bfmt)
  stepElement x.afmt x.bfmt (x.ascale.map fun l => (l.getD r 0).toNat) (x.bscale.map fun l => (l.getD c 0).toNat) a b prior

/-- Writes the rows of a step (R228, R229); a unit that it writes without having read its prior value loses its poison
(R339). -/
def accumulate (t : Cell) (x : StepRun) : Cell :=
  let put (acc : Table Lane) (r c : Nat) : Table Lane :=
    let key := accKey x.tile r c
    Table.set 0 acc key (x.element r c (if x.zero then 0 else Table.get 0 t.acc key))
  { t with acc := (maskRows x.mask).foldl (fun acc r => (List.range 64).foldl (fun acc c => put acc r c) acc) t.acc
           accPoison := if x.zero then
               t.accPoison.filter fun u => !(u / 2048 == x.tile.toNat && (maskRows x.mask).contains (u / 32 % 64))
             else t.accPoison }

/-- The first row of a step with a poisoned unit, whose prior value the step reads (R229, R339). -/
def StepRun.poisonedRow (x : StepRun) (t : Cell) : Option Nat :=
  if x.zero then none
  else (maskRows x.mask).find? fun r => (List.range 32).any fun u => t.accPoison.has (x.tile.toNat * 2048 + r * 32 + u)

/-- A step whose tile has been poisoned since it read its operands (R339): an MMA or MMAZ that still runs traps at that step, which
writes nothing; of one that has ended, the slot traps where it stands, and the poisoned units stay so. DESIGN CHOICE, log 12. -/
def stepPoisoned (s : State) (g : GRef) (x : StepRun) (rest : List StepRun) (row : Nat) : State :=
  let f : FaultInfo := { kind := .ecc, sector := Config.accSector x.tile.toNat row, aux := 3 }
  let alive := match (s.slotAt g).mode with | .run | .parked | .subscribed => !(s.slotAt g).dying | _ => false
  if !x.last && alive && (s.cellAt g.pkg g.cell).mma.any (·.slot == g.slot) then
    let s := s.mapCell g.pkg g.cell fun t =>
      { t with steps := rest.filter (·.slot != g.slot), mma := t.mma.filter (·.slot != g.slot) }
    (faultHere s g { f with aux := BitVec.ofNat 64 (3 + x.j * 2 ^ 8) }).mapSlot g fun t => { t with mmaStep := BitVec.ofNat 5 x.j }
  else
    let s := s.mapCell g.pkg g.cell fun t => { accumulate t x with steps := rest }
    if alive then faultHere s g f else s

/-- STEP_ACCUMULATION: the oldest step whose accumulation phase has ended, with cycle 47 of its window's count, writes its rows
(R229). -/
def execStepAccumulation (p : PkgId) (c : CellId) (s : State) : Host.Outcome State Fault Refusal :=
  occur <| match (s.cellAt p c).steps with
  | [] => s
  | x :: rest =>
    if x.window + 48 ≤ s.cycleAt p then
      match x.poisonedRow (s.cellAt p c) with
      | some r => stepPoisoned s { pkg := p, cell := c, slot := x.slot } x rest r
      | none => s.mapCell p c fun t => { accumulate t x with steps := rest }
    else s

/-- Whether an access to a tile waits for a step: one of the own slot, or one of another slot that runs (R36, R234). -/
def Ctx.tileBusy (c : Ctx) (t : BitVec 2) : Bool := c.cell.steps.any (·.tile == t)

/-- The ECC fault of a poisoned unit of a tile (R339). -/
def accFault (tile : BitVec 2) (row : Nat) : FaultInfo :=
  { kind := .ecc, sector := Config.accSector tile.toNat row, aux := 3 }

/-- ACCZ (R232). -/
def execAccz (t : BitVec 2) (s : State) : Host.Outcome State Fault Refusal :=
  run s {} fun c =>
    if c.tileBusy t then .hold
    else
      let rows := maskRows c.slot.active
      let gone (r : Nat) : Bool := rows.contains r
      .done (c.s.mapCell c.g.pkg c.g.cell fun x =>
        { x with acc := x.acc.filter fun e => !(e.1 / 4096 == t.toNat && gone (e.1 / 64 % 64))
                 accPoison := x.accPoison.filter fun u => !(u / 2048 == t.toNat && gone (u / 32 % 64)) })

/-- The column of a selector (R232). -/
def selCol (w : Word) : Nat := bits w.toNat 0 6
/-- The row of lane `l` under a selector (R232). -/
def selRow (w : Word) (l : Nat) : Nat := 2 * l + bits w.toNat 6 1

/-- ACCRD: a long-latency producer; an output stream takes its element at once (R22, R140, R232). -/
def execAccrd (d : VRegNo) (k : SReg) (t : BitVec 2) (s : State) : Host.Outcome State Fault Refusal :=
  run s { srcs := [.s k], dsts := [.v d], named := [d], tb := some (.s k) } fun c =>
    if c.tileBusy t then .hold
    else
      let w := c.sreg k
      let value (l : Nat) : Lane := Table.get 0 c.cell.acc (accKey t (selRow w l) (selCol w))
      match c.slot.activeLanes.find? fun l => c.cell.accPoison.has (accUnit t (selRow w l) (selCol w)) with
      | some l => .trap (accFault t (selRow w l))
      | none =>
        if (c.boundTo d).isSome then .done (c.setV d value)
        else if !c.slot.anyActive then .done c.s
        else c.issueAlone (c.valueOp (.vector d) (c.slot.activeLanes.map fun l => (l, (value l).setWidth 64)))

/-- ACCWR (R232). -/
def execAccwr (v : VRegNo) (k : SReg) (t : BitVec 2) (s : State) : Host.Outcome State Fault Refusal :=
  run s { srcs := [.v v, .s k], named := [v], ta := some (.v v), tb := some (.s k) } fun c =>
    if c.tileBusy t then .hold
    else
      let w := c.sreg k
      let x := c.vreg v
      .done (c.s.mapCell c.g.pkg c.g.cell fun y =>
        { y with acc := c.slot.activeLanes.foldl
                   (fun acc l => Table.set 0 acc (accKey t (selRow w l) (selCol w)) (lane x l)) y.acc })

/-- ACCST: the rows of the active lanes, as posted relaxed stores of 4-byte words (R233). -/
def execAccst (b : SReg) (t : BitVec 2) (s : State) : Host.Outcome State Fault Refusal :=
  run s { srcs := [.s b], tb := some (.s b) } fun c =>
    if c.tileBusy t then .hold
    else
      let a := c.sreg b
      let rows := maskRows c.slot.active
      match rows with
      | [] => if a.toNat % 16 ≠ 0 then .trap { kind := .align, sector := a } else .done c.s
      | r0 :: _ =>
        match locate c.s c.g.pkg c.g.cell c.slot.pid (a + BitVec.ofNat 64 (256 * r0)) 16 .store with
        | .error f => .trap f
        | .ok _ =>
          match rows.find? fun r => (List.range 64).any fun col => c.cell.accPoison.has (accUnit t r col) with
          | some r => .trap (accFault t r)
          | none =>
            let raw : List RawElt := rows.flatMap fun r => (List.range 64).map fun col =>
              (r / 2, a + BitVec.ofNat 64 (256 * r + 4 * col), 4, (Table.get 0 c.cell.acc (accKey t r col)).setWidth 64, 0)
            memIssue c { act := .store, acc := .store, raw := raw, posted := true, mask := c.slot.active }

/-! ## The rotation table and the power cap -/

/-- The sixteen entries of MROT's operands (R235). -/
def rotationEntries (l h : Word) : List Byte := (List.range 8).map (fun i => l.extractLsb' (8 * i) 8) ++
  (List.range 8).map fun i => h.extractLsb' (8 * i) 8

/-- The first frame boundary that is at least 16 cycles after a cycle (R41). -/
def nextFrame (now : Nat) : Nat := (now + 16 + 255) / 256 * 256

/-- MROT (R235, R41). -/
def execMrot (l h : SReg) (s : State) : Host.Outcome State Fault Refusal :=
  run s { Opnds.ab l h with needs := .lead } fun c =>
    let es := rotationEntries (c.sreg l) (c.sreg h)
    if es.any fun e => e.extractLsb' 4 3 != 0 then .trap { kind := .illegal }
    else
      let at_ := nextFrame c.cycle
      let table : Table Byte := es.zipIdx.foldl (fun t e => Table.set 0 t e.2 e.1) []
      .done (c.s.mapCell c.g.pkg c.g.cell fun t =>
        { t with rotationNext := t.rotationNext.filter (·.1 != at_) ++ [(at_, table)] })

/-- ROTATION_TABLE_EFFECT: a table written by MROT takes effect (R41). -/
def execRotationTableEffect (p : PkgId) (c : CellId) (s : State) : Host.Outcome State Fault Refusal :=
  occur <| match (s.cellAt p c).rotationNext with
  | [] => s
  | (at_, table) :: rest =>
    if at_ ≤ s.cycleAt p then s.mapCell p c fun t => { t with rotation := table, rotationNext := rest } else s

/-- POWER_CAP_EFFECT: a new power cap takes effect at its frame boundary (R308, R396). -/
def execPowerCapEffect (p : PkgId) (s : State) : Host.Outcome State Fault Refusal :=
  occur <| s.mapPkg p fun k =>
    match k.capNext with
    | (at_, h) :: rest => if at_ ≤ k.cycle then { k with capNow := h, capNext := rest } else k
    | [] => k

end Sys2Proof.Machine
end

