-- ==== Sys2Proof/Machine/Mailbox.lean ====
section
/-! DEFINITION. The supervisor mailbox (R359, R362-R364, R372): the posting of fault records, the management events of the
host, and how a command is fetched and completed. -/

namespace Sys2Proof.Machine

/-! ## The host's notices -/

/-- A management event of the host: bits of MEVENT, and INTSTAT bit 0 (R399, R402). -/
def Pkg.notice (k : Pkg) (bits : Nat) : Pkg :=
  { k with mevent := k.mevent ||| BitVec.ofNat 64 bits, intstat := k.intstat ||| 1 }

/-! ## The mailbox of a partition -/

/-- A 64-bit word of a partition entry (R370). -/
def Part.word (q : Part) (w : Nat) : Word := Table.get 0 q.words w
/-- PID of a partition entry. -/
def Part.pid (q : Part) : BitVec 16 := BitVec.ofNat 16 (q.field 0 32 16)
/-- MBBASE. -/
def Part.mailbox (q : Part) : Word := q.word 3
/-- C, the records that the fault ring holds (R362). -/
def Part.ringSize (q : Part) : Nat := 2 ^ q.field 4 0 5
/-- HOSTSUP. -/
def Part.hostSup (q : Part) : Bool := q.field 0 31 1 == 1
/-- The slot that SUPER names. -/
def Part.super (q : Part) : GRef := GRef.ofWord (q.word 1)
/-- The address of record `n` of the fault ring. -/
def Part.recordAt (q : Part) (n : Nat) : Word := q.mailbox + BitVec.ofNat 64 (0x40 + 64 * (n % q.ringSize))
/-- The address of command `n` of the command ring. -/
def Part.commandAt (q : Part) (n : Nat) : Word := q.mailbox + BitVec.ofNat 64 (0x40 + 64 * q.ringSize + 64 * (n % 16))

/-- The eight words of a record posted at position `n` (R359). -/
def Record.words (r : Record) (n : Nat) : List Nat :=
  [ r.kind.toNat + r.pos * 2 ^ 8 + flag r.pub * 2 ^ 12 + flag r.sub * 2 ^ 13 + flag r.grp * 2 ^ 14 + flag r.twin * 2 ^ 15 +
      flag r.late * 2 ^ 16 + n % 2 ^ 32 * 2 ^ 32,
    r.gslot.toNat, r.pc.toNat, r.mask.toNat + r.maxnc.toNat * 2 ^ 32 + r.minnz.toNat * 2 ^ 40, r.sector.toNat, r.aux.toNat,
    r.time.toNat, r.pid.toNat + r.cycle.toNat * 2 ^ 32 ]

/-- The 64 bytes of a record. -/
def Record.bytes (r : Record) (n : Nat) : List Byte := (r.words n).flatMap (leBytes 8)

/-! ## Posting a record -/

/-- The oldest record of each cell among some: the records of one cell reach the mailbox unit in order (R363). -/
def firstPerCell : List Waiting → List CellId → List Waiting
  | [], _ => []
  | w :: t, seen => if seen.contains w.cell then firstPerCell t seen else w :: firstPerCell t (w.cell :: seen)

/-- The next record for a ring; of several cells' records any may be the one that arrived first. A record still waits in its cell in
the cycle of its fault (R366, R368). -/
def nextRecord (s : State) (p : PkgId) (r : Ring) : State × Option Waiting :=
  s.choose ((firstPerCell ((s.pkgAt p).waiting.filter (·.ring == r)) []).filter fun w =>
    w.record.cycle != BitVec.ofNat 32 (s.cycleAt p))

/-- A record that has been posted leaves its cell. -/
def leaveCell (s : State) (p : PkgId) (w : Waiting) : State :=
  let s := s.mapPkg p fun k => { k with waiting := k.waiting.erase w }
  match w.ctx with
  | some x => s.mapCell p w.cell fun t =>
      { t with ctxs := Table.put t.ctxs x.toNat { Table.get {} t.ctxs x.toNat with recordDue := false } }
  | none => s

/-- Whether a ring takes a record: FPIDX - FCIDX lies from 0 to C - 1 (R363, R364). -/
def ringOpen (fpidx fcidx : Word) (c : Nat) : Bool := decide ((fpidx - fcidx).toNat < c)

/-- A fault of a mailbox write stops the posting of the partition, and the host is told (R363). -/
def stopPosting (s : State) (p : PkgId) (q : BitVec 3) (f : FaultInfo) : State :=
  reportFault (s.mapPart p q fun part => { part with postStopped := true }) p ((s.pkgAt p).part q).pid f

/-- What a run of hub writes comes to: a fault of one of them, all of them performed, or nothing yet, where one would have to wait
at its place (R348, R386). -/
inductive HubRun where
  | fault (s : State) (f : FaultInfo)
  | done (s : State)
  | waits

/-- Performs hub writes one after another, all of them or, where one would wait, none. -/
def hubRun (s : State) (p : PkgId) (pid : BitVec 16) : List (Word × List Byte) → HubRun
  | [] => .done s
  | (a, b) :: t =>
    match hubWrite s p pid a b with
    | (s, some f) => .fault s f
    | (s, none) => if (s.pkgAt p).hubWrites.isEmpty then hubRun s p pid t else .waits

/-- Posts the next record of a partition (R363): its two sectors and then FPIDX are written, when all can be, and the record leaves
its cell, so that none is lost. -/
def postPart (s : State) (p : PkgId) (q : BitVec 3) : State :=
  let before := s
  let k := s.pkgAt p
  let part := k.part q
  if part.mode = .free ∨ part.postStopped ∨ !k.hubWrites.isEmpty ∨ !(k.waiting.any (·.ring == .part q)) then s
  else match hubReads p part.pid 2 s part.mailbox with
  | (s', .ok [fp, fc]) =>
    if !ringOpen fp fc part.ringSize then s
    else match nextRecord s' p (.part q) with
    | (_, none) => s
    | (s, some w) =>
      let b := w.record.bytes fp.toNat
      let a := part.recordAt fp.toNat
      match hubRun s p part.pid [(a, b.take 32), (a + 32, b.drop 32), (part.mailbox, leBytes 8 (fp + 1).toNat)] with
      | .fault s f => stopPosting s p q f
      | .done s => hubSignal (leaveCell s p w) p (q, 1 + q.toNat)
      | .waits => before
  | (s', .error (some f)) => stopPosting s' p q f
  | _ => s

/-- Posts the next record of the host fault ring (R402). -/
def postHost (s : State) (p : PkgId) : State :=
  let k := s.pkgAt p
  if !ringOpen k.hostFpidx k.hostFcidx 32 then s
  else match nextRecord s p .host with
  | (s, none) => s
  | (s, some w) => (leaveCell s p w).mapPkg p fun k =>
      { k with hostRecords := Table.put k.hostRecords (k.hostFpidx.toNat % 32) (w.record.bytes k.hostFpidx.toNat)
               hostFpidx := k.hostFpidx + 1 }.notice (2 ^ 5)

/-- FAULT_RECORD_POST: the mailbox unit posts one record (R363). -/
def execFaultRecordPost (p : PkgId) (ring : Ring) (s : State) : Host.Outcome State Fault Refusal :=
  occur <| match ring with
  | .part q => postPart s p q
  | .host => postHost s p

/-! ## Commands -/

/-- Whether a slot supervisor of a partition lies outside its rectangle. -/
def Part.superOutside (q : Part) (p : PkgId) : Bool := !(q.super.pkg == p && q.hasCell q.super.cell)

/-- The STATUS at which a command is turned away when it is read: a reserved bit or an operand outside its limits (2), an
unknown OP (3), or one that is not permitted to the supervisor (4) (R372). -/
def Cmd.refusal (c : Cmd) (q : Part) (p : PkgId) : Option Byte :=
  let op := c.op.toNat
  if c.malformed then some 2
  else if op = 0 ∨ 8 < op then some 3
  else if (op = 3 ∧ !q.hostSup) ∨ ((op = 7 ∨ op = 8) ∧ !q.hostSup ∧ !q.superOutside p) then some 4
  else if (op = 1 ∧ 11 < (c.opnds.getD 1 0).toNat) ∨ ((op = 2 ∨ op = 3) ∧ 64 ≤ c.arg.toNat) ∨ (op = 8 ∧ 16 ≤ c.arg.toNat) then some 2
  else none

/-- COMPLETES the command of a mailbox with its RESULT and STATUS: the block, then CMDC as a release at `.dm`, then the
signal (R372). Where CMDC cannot be read or written yet the command waits with them. -/
def completeCmd (s : State) (p : PkgId) (q : BitVec 3) (result : Word) (status : Byte) : State :=
  let part := (s.pkgAt p).part q
  let free (s : State) : State := s.mapPart p q fun part => { part with cmd := none }
  let later := s.mapPart p q fun part => { part with cmd := part.cmd.map fun c => { c with finish := some (result, status) } }
  if !(s.pkgAt p).hubWrites.isEmpty then later
  else match hubRead s p part.pid (part.mailbox + 0x18) 8 with
  | (_, .error none) => later
  | (s, .error (some f)) => reportFault (free s) p part.pid f
  | (s, .ok b) =>
    let n := leNat b
    let block := leBytes 8 result.toNat ++ leBytes 8 (status.toNat + n % 2 ^ 32 * 2 ^ 32)
    match hubRun s p part.pid [(part.commandAt n + 0x30, block), (part.mailbox + 0x18, leBytes 8 (n + 1))] with
    | .fault s f => reportFault (free s) p part.pid f
    | .done s => hubSignal (free s) p (q, 9)
    | .waits => later

/-- A command that has waited for its completion completes, if it can now. -/
def finishCmd (s : State) (p : PkgId) (q : BitVec 3) : State :=
  match ((s.pkgAt p).part q).cmd.bind (·.finish) with
  | some r => completeCmd s p q r.1 r.2
  | none => s

/-- The command in a block of words (R372). -/
def Cmd.ofWords (ws : List Word) : Cmd :=
  let w := (ws.headD 0).toNat
  { op := BitVec.ofNat 8 w, arg := BitVec.ofNat 8 (w / 2 ^ 16), opnds := (ws.drop 1).take 5
    malformed := bits w 24 40 != 0 || bits w 8 8 != 0 }

/-- The mailbox unit reads CMDP and fetches the next command, if it has none; one that it must refuse completes at once
(R372). -/
def pollMailbox (s : State) (p : PkgId) (q : BitVec 3) : State :=
  let k := s.pkgAt p
  let part := k.part q
  let s := (finishCmd s p q).mapPart p q fun part => { part with polled := k.time, doorbell := part.cmd.isSome && part.doorbell }
  if part.mode = .free ∨ part.cmd.isSome ∨ !k.hubWrites.isEmpty then s
  else match hubReads p part.pid 2 s (part.mailbox + 0x10) with
  | (s, .ok [cmdp, cmdc]) =>
    if cmdp = cmdc then s
    else match hubReads p part.pid 6 s (part.commandAt cmdc.toNat) with
      | (s, .ok ws) =>
        let c := Cmd.ofWords ws
        let s := s.mapPart p q fun part => { part with cmd := some c }
        match c.refusal part p with
        | some st => completeCmd s p q 0 st
        | none => s
      | (s, .error _) => s
  | (s, _) => s

/-- MAILBOX_POLL (R372). -/
def execMailboxPoll (p : PkgId) (q : BitVec 3) (s : State) : Host.Outcome State Fault Refusal :=
  occur (pollMailbox s p q)

/-- MAILBOX_DOORBELL: the host makes the unit read CMDP at once (R372, R399); a unit that performs a command reads it
after that. -/
def execMailboxDoorbell (p : PkgId) (q : BitVec 3) (s : State) : Host.Outcome State Fault Refusal :=
  occur (pollMailbox (s.mapPart p q fun part => { part with doorbell := true }) p q)

/-- Begins the command that a mailbox has read, where it is of the kind `op`. -/
def beginCmd (s : State) (p : PkgId) (q : BitVec 3) (op : Nat) (f : State → Cmd → State) : State :=
  match ((s.pkgAt p).part q).cmd with
  | some c =>
    if c.op.toNat = op ∧ !c.begun ∧ c.finish.isNone then f (s.mapPart p q fun part => { part with cmd := some { c with begun := true } }) c else s
  | none => s

/-- A SLOTCTL command of operation `op` (R372). -/
def beginSlotctl (s : State) (p : PkgId) (q : BitVec 3) (op : Nat) (f : State → Cmd → State) : State :=
  match ((s.pkgAt p).part q).cmd with
  | some c => if (c.opnds.getD 1 0).toNat = op then beginCmd s p q 1 f else s
  | none => s

end Sys2Proof.Machine
end

