-- ==== Sys2Proof/Machine/Slots.lean ====
section
/-! DEFINITION. Slot instructions: SLOTSTART, SLOTREAP, SLOTEXIT, REGCLAIM and REGYIELD (R260-R265). -/

namespace Sys2Proof.Machine

/-- An ILLEGAL trap with a code (R261, R265, R266). -/
def illegal (code : Nat) : Issue := .trap { kind := .illegal, aux := BitVec.ofNat 64 code }

/-! ## SLOTSTART and SLOTREAP -/

/-- A slot of the executing slot's cell. -/
def Ctx.sibling (c : Ctx) (n : SlotId) : GRef := { c.g with slot := n }

/-- Whether a number may be the size of a window (R16). -/
def goodLim (n : Nat) : Bool := decide (8 ≤ n) && decide (n ≤ 128) && n % 8 == 0

/-- The first check of R261 that fails, for a control word and the entry, which a joining start does not have. -/
def startCode (k : Pkg) (c : CellId) (w : Nat) (entry : Option Word) : Option Nat :=
  let n : SlotId := BitVec.ofNat 4 w
  let lim := bits w 24 8
  let base := bits w 8 11
  if ((k.cellAt c).slotAt n).mode ≠ .idle ∨ k.isReserved c n then some 1
  else if !goodLim lim || base % 8 != 0 || decide (2048 < base + lim) then some 2
  else if !k.windowFree c none base lim then some 3
  else if bits w 60 4 ≠ 0 ∨ bits w 34 6 ≠ 0 ∨ bits w 19 5 ≠ 0 ∨ bits w 4 4 ≠ 0 ∨ (w.testBit 33 ∧ bits w 40 8 = 0) then some 4
  else match entry with
    | some e => if e.toNat % 4 ≠ 0 then some 5 else none
    | none => none

/-- Operands of SLOTSTART: a control word with JOIN = 1 reads no entry (R262). -/
def startOpnds (s : State) (c e : SReg) : Opnds :=
  let t := s.slotAt s.cur
  if t.fe (.s c) = .full ∧ !(t.sreg c).getLsbD 33 then { Opnds.ab c e with needs := .lead }
  else { Opnds.a c with needs := .lead }

/-- SLOTSTART (R261, R262): a release, made after the starter's earlier stores and atomics have been acknowledged (R278).
INH = 1 hands on the starter's %PID and %PRIV (R45, R261, R262); else %PID is the partition's, and %PRIV is 1 for a SUPER slot alone
(R14, R371). DEDUCED, log 31. -/
def execSlotstart (c e : SReg) (s : State) : Host.Outcome State Fault Refusal :=
  run s (startOpnds s c e) fun x =>
    match x.releaseHold false with
    | some i => i
    | none =>
    let w := (x.sreg c).toNat
    let join := w.testBit 33
    match startCode x.pkg x.g.cell w (if join then none else some (x.sreg e)) with
    | some code => illegal (code + bits w 0 4 * 2 ^ 8)
    | none =>
      let g := x.sibling (BitVec.ofNat 4 w)
      let own := x.slot
      let inh := w.testBit 32
      let pid := if inh then own.pid else ((x.pkg.partOf g.cell).map (·.2.pid)).getD 0
      let ch : BitVec 12 × BitVec 8 := (BitVec.ofNat 12 (bits w 48 12), BitVec.ofNat 8 (bits w 40 8))
      let started := startSlot x.s g (BitVec.ofNat 11 (bits w 8 11)) (BitVec.ofNat 8 (bits w 24 8)) fun t =>
        let t := { t with pid := pid, priv := if inh then own.priv else x.s.isSuper g }
        if join then
          { t with mode := .parked, joinPoint := some ch, wait := some { what := .join ch.1 ch.2, since := x.cycle } }
        else { t with mode := .run, head := x.sreg e, hold := some { why := .start, till := x.cycle + 16 } }
      .done (if join then started.joinChannel g ch.1 ch.2 else started)

/-- SLOTREAP (R264). -/
def execSlotreap (d t : SReg) (s : State) : Host.Outcome State Fault Refusal :=
  run s { Opnds.ss d t with ta := none, tb := some (.s t), needs := .lead } fun c =>
    let g := c.sibling ((c.sreg t).extractLsb' 0 4)
    let x := c.s.slotAt g
    let s := if x.mode = .exited ∧ x.member.isNone then reclaimSlot c.s g else c.s
    .done (s.setS c.g d (BitVec.ofNat 64 x.stateWord))

/-! ## SLOTEXIT -/

/-- The slot's output bindings, which SLOTEXIT drains (R263). -/
def Ctx.outputs (c : Ctx) : List (Nat × Stream) :=
  c.slot.binds.filterMap fun b =>
    let q := c.cell.streamAt b.2.toNat
    if q.output then some (b.2.toNat, q) else none

/-- Whether the slot has a long-latency producer in flight (R263). -/
def Slot.producing (t : Slot) : Bool := t.ops.any fun o => !o.posted && !o.orphan

/-- SLOTEXIT (R263): its wait leaves the turn empty; a publisher's SLOTEXIT is published as it issues, as every instruction of
a publisher is (R240, R246, R412), and its channel is freed after the waits. DEDUCED, log 32. -/
def execSlotexit (s : State) : Host.Outcome State Fault Refusal :=
  run s {} fun c =>
    match c.outputs.find? (·.2.mode == .error) with
    | some e => .trap (outFault e.1 e.2)
    | none =>
      let sent := if c.slot.exitSent then c.s else publish c.s c.g 1 (c.s.nextPlace c.g 1) c.s
      if c.slot.producing || c.outputs.any fun e => !e.2.queue.isEmpty then
        if c.slot.exitSent then .hold else .final (sent.mapSlot c.g fun t => { t with exitSent := true })
      else .final (exitSlot sent c.g)

/-! ## REGCLAIM and REGYIELD -/

/-- Whether a number of registers may be claimed or yielded (R265). -/
def goodCount (n : Nat) : Bool := n % 8 == 0 && decide (n ≤ 120)

/-- The entries of a register table below a number. -/
def below {α : Type} (t : Table α) (n : Nat) : Table α := t.filter fun e => decide (e.1 < n)

/-- REGCLAIM (R265). -/
def execRegclaim (d n : SReg) (s : State) : Host.Outcome State Fault Refusal :=
  run s { srcs := [.s n], dsts := [.s d], tb := some (.s n) } fun c =>
    let k := (c.sreg n).toNat
    if !goodCount k then illegal 8
    else
      let t := c.slot
      let top := t.regBase.toNat + t.regLim.toNat
      let ok := decide (t.regLim.toNat + k ≤ 128) && decide (top + k ≤ 2048) &&
        (k == 0 || c.pkg.windowFree c.g.cell (some c.g.slot) top k)
      let s := if ok then (c.s.mapCell c.g.pkg c.g.cell fun x => x.clearWindow top k).mapSlot c.g fun t =>
          { t with regLim := t.regLim + BitVec.ofNat 8 k, vFe := below t.vFe t.regLim.toNat
                   vTrap := t.vTrap.filter fun r => decide (r < t.regLim.toNat) } else c.s
      .done (s.setS c.g d ((s.slotAt c.g).regLim.setWidth 64))

/-- REGYIELD (R265). -/
def execRegyield (d n : SReg) (s : State) : Host.Outcome State Fault Refusal :=
  run s { srcs := [.s n], dsts := [.s d], tb := some (.s n) } fun c =>
    let k := (c.sreg n).toNat
    let t := c.slot
    if !goodCount k || decide (t.regLim.toNat < k + 8) then illegal 8
    else
      let lim := t.regLim.toNat - k
      let gone (r : Nat) : Bool := decide (lim ≤ r) && decide (r < t.regLim.toNat)
      if t.binds.any fun b => gone b.1 then badStream
      else match t.vFe.find? fun e => gone e.1 && e.2 == .pending with
        | some e => .retry (.reg (.v (BitVec.ofNat 7 e.1)))
        | none =>
          let s := (c.s.mapCell c.g.pkg c.g.cell fun x => x.clearWindow (t.regBase.toNat + lim) k).mapSlot c.g fun t =>
            { t with regLim := BitVec.ofNat 8 lim, vFe := below t.vFe lim, vTrap := t.vTrap.filter fun r => decide (r < lim) }
          .done (s.setS c.g d (BitVec.ofNat 64 lim))

end Sys2Proof.Machine
end

