-- ==== Sys2Proof/Machine/Slotctl.lean ====
section
/-! DEFINITION. What a supervisor does to a slot: SLOTCTL and the same operations as mailbox commands (R266, R267, R366-R368,
R372), the context of a slot, its save area, spill and resume (R309-R311, R426). -/

namespace Sys2Proof.Machine

/-- Why a SLOTCTL operation is not performed. -/
inductive CtlStop where
  | badState
  | badItem
  | fault (f : FaultInfo)
  | wait           -- not yet: the save area cannot be reached (R352, R386)
  deriving DecidableEq, Repr, Inhabited

/-! ## The context items -/

/-- A Boolean of each of `n` registers as a number, the lowest first. -/
def bitsOf (n : Nat) (f : Nat → Bool) : Nat := (List.range n).foldl (fun acc i => acc + if f i then 2 ^ i else 0) 0

/-- The loop stack entry `i`. -/
def LoopStack.entry (l : LoopStack) (i : Nat) : LoopEntry := l.entries.getD i {}

/-- A word of a loop stack entry: S, E, Z, remaining (R267). -/
def LoopEntry.word (e : LoopEntry) : Nat → Word
  | 0 => e.start
  | 1 => e.last
  | 2 => e.after
  | _ => e.remaining

/-- Changes a word of a loop stack entry. -/
def LoopEntry.putWord (e : LoopEntry) (j : Nat) (v : Word) : LoopEntry :=
  match j with
  | 0 => { e with start := v }
  | 1 => { e with last := v }
  | 2 => { e with after := v }
  | _ => { e with remaining := v }

/-- The stack with one entry changed. -/
def LoopStack.putEntry (l : LoopStack) (i : Nat) (f : LoopEntry → LoopEntry) : LoopStack :=
  { l with entries := (List.range 4).map fun k => if k = i then f (l.entry k) else l.entry k }

/-- The address of the resume point. -/
def Slot.resumeAddr (t : Slot) : Word := t.head + BitVec.ofNat 64 (4 * t.pos)

/-- Context item 1 (R267). -/
def Slot.item1 (t : Slot) : Nat :=
  t.pos + t.mmaStep.toNat * 2 ^ 4 + flag t.wakePending * 2 ^ 9 +
  match t.joinPoint with
  | some (c, m) => 2 ^ 10 + m.toNat * 2 ^ 16 + c.toNat * 2 ^ 24
  | none => 0

/-- A context item (R267). -/
def Slot.item (t : Slot) (i : Nat) : Word :=
  if i = 0 then t.resumeAddr
  else if i = 1 then BitVec.ofNat 64 t.item1
  else if i < 6 then BitVec.ofNat 64 ((List.range 8).foldl (fun acc k => acc + (t.count (8 * (i - 2) + k)).toNat * 2 ^ (6 * k)) 0)
  else if i = 6 then
    BitVec.ofNat 64 (bitsOf 32 (fun r => t.fe (.s (BitVec.ofNat 5 r)) == .full) + bitsOf 32 t.sTrap.has * 2 ^ 32)
  else if i < 9 then BitVec.ofNat 64 (bitsOf 64 fun r => t.fe (.v (BitVec.ofNat 7 (64 * (i - 7) + r))) == .full)
  else if i < 11 then BitVec.ofNat 64 (bitsOf 64 fun r => t.vTrap.has (64 * (i - 9) + r))
  else if i < 27 then (t.loops.entry ((i - 11) / 4)).word ((i - 11) % 4)
  else if i = 27 then BitVec.ofNat 64 t.loops.depth
  else launchReg t.launchRegs (i - 28)

/-- Whether a value may not be written to a context item (R267). -/
def badItemValue (i : Nat) (v : Word) : Bool :=
  (i == 27 && decide (4 < v.toNat)) ||
  (i == 1 && (bits v.toNat 36 28 != 0 || bits v.toNat 11 5 != 0 || (v.getLsbD 10 && bits v.toNat 16 8 == 0)))

/-- The full/empty state of a register after its bit has been written: an empty one stays pending where it was. -/
def Slot.putFeBit (t : Slot) (r : RegRef) (full : Bool) : Slot :=
  if full then t.setFe r .full else if t.fe r = .full then t.setFe r .taken else t

/-- A set of numbers with the membership of `n` of them from `lo` on given by bits. -/
def putSet (set : NumSet) (lo n : Nat) (f : Nat → Bool) : NumSet :=
  (List.range n).foldl (fun set i => if f i then set.insert (lo + i) else set.erase (lo + i)) set

/-- The stack with another depth: the entries that a lower one frees are cleared (R267). -/
def LoopStack.setDepth (l : LoopStack) (d : Nat) : LoopStack :=
  { depth := d, entries := l.entries.zipIdx.map fun e => if d ≤ e.2 ∧ e.2 < l.depth then {} else e.1 }

/-- Writes a context item (R267). -/
def Slot.putItem (t : Slot) (i : Nat) (v : Word) : Slot :=
  if i = 0 then { t with head := v - BitVec.ofNat 64 (4 * t.pos), clause := none }
  else if i = 1 then
    let pos := bits v.toNat 0 4
    { t with head := t.resumeAddr - BitVec.ofNat 64 (4 * pos), pos := pos, clause := none
             mmaStep := v.extractLsb' 4 5, wakePending := v.getLsbD 9
             joinPoint := if v.getLsbD 10 then some (v.extractLsb' 24 12, v.extractLsb' 16 8) else none }
  else if i < 6 then
    { t with nest := (List.range 8).foldl (fun n k => Table.set 0 n (8 * (i - 2) + k) (v.extractLsb' (6 * k) 6)) t.nest }
  else if i = 6 then
    let t := (List.range 32).foldl (fun t r => t.putFeBit (.s (BitVec.ofNat 5 r)) (v.getLsbD r)) t
    { t with sTrap := putSet t.sTrap 0 32 fun r => v.getLsbD (32 + r) }
  else if i < 9 then
    (List.range 64).foldl (fun t r => t.putFeBit (.v (BitVec.ofNat 7 (64 * (i - 7) + r))) (v.getLsbD r)) t
  else if i < 11 then { t with vTrap := putSet t.vTrap (64 * (i - 9)) 64 v.getLsbD }
  else if i < 27 then { t with loops := t.loops.putEntry ((i - 11) / 4) fun e => e.putWord ((i - 11) % 4) v }
  else if i = 27 then { t with loops := t.loops.setDepth (Nat.min 4 v.toNat) }
  else { t with launchRegs := Table.set 0 t.launchRegs (i - 28) v }

/-! ## The save area -/

/-- The process and the address of a slot's save area: that of its partition (R309). -/
def State.saveArea (s : State) (g : GRef) : BitVec 16 × Word :=
  match (s.pkgAt g.pkg).partOf g.cell with
  | some (_, q) =>
    let i := (cellY g.cell - q.field 0 8 6) * q.field 0 16 7 + (cellX g.cell - q.field 0 0 6)
    (q.pid, q.word 2 + BitVec.ofNat 64 ((16 * i + g.slot.toNat) * 2 ^ 15))
  | none => (0, 0)

/-- The place of `n` bytes of a save area, as the spill engine of the slot's cell reaches it (R309, R374). -/
def areaPlace (s : State) (g : GRef) (off n : Nat) (k : Acc) : State × Except FaultInfo Loc :=
  let a := s.saveArea g
  let at_ := a.2 + BitVec.ofNat 64 off
  let r := resolve s g.pkg g.cell a.1 at_ n k
  match r.2 with
  | .ok l => if r.1.boundaryRefuses g.pkg g.cell l then (r.1, .error { kind := .fenced, sector := at_ }) else (r.1, .ok l)
  | .error f => (r.1, .error f)

/-- Reads `n` aligned bytes of a save area. -/
def areaRead (s : State) (g : GRef) (off n : Nat) : State × HubAnswer Nat :=
  let r := areaPlace s g off n .engRead
  match r.2 with
  | .ok l =>
    let x := placeRead r.1 g.pkg ((s.saveArea g).2 + BitVec.ofNat 64 off) l n
    (x.1, x.2.map leNat)
  | .error f => (r.1, .error (some f))

/-- Writes aligned bytes of a save area; `poison` marks their sector poisoned (R339). -/
def areaWrite (s : State) (g : GRef) (off : Nat) (b : List Byte) (poison : Bool) : State × Option FaultInfo :=
  let r := areaPlace s g off b.length .engWrite
  match r.2 with
  | .ok l => (issueStore .hub r.1 g.pkg l ((s.saveArea g).2 + BitVec.ofNat 64 off) b poison, none)
  | .error f => (r.1, some f)

/-- One sector of a save image: its offset, its bytes, and whether it is poisoned. -/
abbrev SaveSector := Nat × List Byte × Bool

/-- Writes the sectors of a save image, stopping at a fault. -/
def areaWrites (g : GRef) : State → List SaveSector → State × Option FaultInfo
  | s, [] => (s, none)
  | s, e :: t =>
    match areaWrite s g e.1 e.2.1 e.2.2 with
    | (s, some f) => (s, some f)
    | (s, none) => areaWrites g s t

/-- Reads 8-byte words of a save area from `off` on: none for a poisoned one; any other fault stops. -/
def areaWords (g : GRef) : Nat → State → Nat → State × HubAnswer (List (Option Nat))
  | 0, s, _ => (s, .ok [])
  | n + 1, s, off =>
    let r := areaRead s g off 8
    let rest (v : Option Nat) : State × HubAnswer (List (Option Nat)) :=
      let x := areaWords g n r.1 (off + 8)
      (x.1, x.2.map fun t => v :: t)
    match r.2 with
    | .ok v => rest (some v)
    | .error f => if f.map (·.kind) = some .ecc then rest none else (r.1, .error f)

/-- The offset of a special register in the save area, for those that it holds (R309). -/
def srOffset : SpecReg → Option Nat
  | .fpmode => some 0x140 | .fpflags => some 0x148 | .stat => some 0x150 | .rngkey => some 0x158
  | .rngctr => some 0x160 | .cvtsrc => some 0x168 | .fewait => some 0x170 | .pid => some 0x178
  | .gang => some 0x1C0 | .node => some 0x1C8 | .group => some 0x1D0 | .reccnt => some 0x1D8
  | .depth => some 0x1E0 | .lead => some 0x1E8 | .priv => some 0x1F0
  | _ => none

/-- The special registers that the save area holds and that a supervisor may write, in its order. -/
def savedSrs : List SpecReg := [.fpmode, .fpflags, .stat, .rngkey, .rngctr, .cvtsrc, .fewait, .pid]

/-- The unbound vector registers of a window of `lim` registers, in ascending number. -/
def Slot.unbound (t : Slot) (lim : Nat) : List Nat := (List.range lim).filter fun r => (Table.find t.binds r).isNone

/-- The offset in the save area of an unbound vector register (R309). -/
def Slot.areaVector (t : Slot) (r : Nat) : Nat := 0x300 + 128 * (t.unbound r).length

/-- The first 96 words of a save image (R309); `was` is the state at the spill. -/
def saveWords (s : State) (g : GRef) (was : SlotMode) : List Nat :=
  let t := s.slotAt g
  let c := s.cellAt g.pkg g.cell
  let binding (b : Nat) : Nat := match t.binds[b]? with
    | some (r, d) =>
      let q := c.streamAt d.toNat
      r + d.toNat * 2 ^ 8 + flag q.output * 2 ^ 16 + q.queue.length * 2 ^ 20
    | none => 0
  let slotWord := was.code + t.fkind.toNat * 2 ^ 8 + t.regLim.toNat * 2 ^ 16 + t.binds.length * 2 ^ 24 +
    (match t.publishing with | some x => 2 ^ 28 + x.toNat * 2 ^ 32 | none => 0) + t.replay.length * 2 ^ 48
  (List.range 39).map (fun i => (t.item i).toNat) ++ [slotWord] ++ savedSrs.map (fun r => (s.readSr g r).toNat) ++
  (List.range 8).map binding ++ [.gang, .node, .group, .reccnt, .depth, .lead, .priv].map (fun r => (s.readSr g r).toNat) ++
  [0] ++ (List.range 32).map fun r => (t.sreg (BitVec.ofNat 5 r)).toNat

/-- Cuts bytes into sectors from an offset on. -/
def sectorsFrom (off : Nat) (bs : List Byte) (poison : Nat → Bool) : List SaveSector :=
  (List.range (bs.length / 32)).map fun i => (off + 32 * i, (bs.drop (32 * i)).take 32, poison i)

/-- The bytes of a vector register. -/
def VReg.bytes (v : VReg) : List Byte := v.flatMap fun l => leBytes 4 l.toNat

/-- The save image of a slot (R309, R339). -/
def saveImage (s : State) (g : GRef) (was : SlotMode) : List SaveSector :=
  let t := s.slotAt g
  let c := s.cellAt g.pkg g.cell
  let lim := t.regLim.toNat
  let words := (saveWords s g was).flatMap (leBytes 8)
  let vecs := (t.unbound lim).flatMap fun r =>
    sectorsFrom (t.areaVector r) (s.vregAt g (BitVec.ofNat 7 r)).bytes fun i =>
      (List.range 4).any fun u => c.vPoison.has (16 * (t.regBase.toNat + r) + 4 * i + u)
  let queues := t.binds.zipIdx.flatMap fun b =>
    let q := c.streamAt b.1.2.toNat
    if q.output then [] else sectorsFrom (t.areaVector lim + 1024 * b.2) (q.queue.flatMap (·.lanes.bytes)) fun _ => false
  let replay := sectorsFrom 0x5F00 ((List.range (512 * t.replay.length)).map fun i => Config.replayByte (8192 * s.free + i)) fun _ => false
  sectorsFrom 0 words (fun i => decide (16 ≤ i) && (List.range 4).any fun r => t.sPoison.has (4 * (i - 16) + r)) ++ vecs ++ queues ++ replay

/-! ## The state that a SLOTCTL acts on -/

/-- A reading operation of SLOTCTL on a target: its item and lane. -/
abbrev CtlRead := State → GRef → Nat → Nat → State × Except CtlStop Word
/-- A writing operation. -/
abbrev CtlWrite := State → GRef → Nat → Nat → Word → State × Option CtlStop

/-- Why a read of the save area gives nothing. -/
def CtlStop.ofRead : Option FaultInfo → CtlStop
  | some f => .fault f
  | none => .wait

/-- A word of a spilled slot's save area as a SLOTCTL reads it. -/
def readArea (s : State) (g : GRef) (off n : Nat) : State × Except CtlStop Word :=
  let r := areaRead s g off n
  (r.1, (r.2.map (BitVec.ofNat 64)).mapError CtlStop.ofRead)

/-- Writes bytes of a spilled slot's save area for a SLOTCTL. -/
def writeArea (s : State) (g : GRef) (off n : Nat) (v : Nat) : State × Option CtlStop :=
  let r := areaWrite s g off (leBytes n v) false
  (r.1, r.2.map .fault)

/-- Sets a full/empty bit in a spilled slot's save area. -/
def fillArea (r : State × Option CtlStop) (g : GRef) (i bit : Nat) : State × Option CtlStop :=
  match r with
  | (s, some e) => (s, some e)
  | (s, none) =>
    match readArea s g (8 * i) 8 with
    | (s, .error e) => (s, some e)
    | (s, .ok v) => writeArea s g (8 * i) 8 (v ||| BitVec.ofNat 64 (2 ^ bit)).toNat

/-- STATE: any state (R266). -/
def ctlState : CtlRead := fun s g _ _ => (s, .ok (BitVec.ofNat 64 (s.slotAt g).stateWord))

/-- RDSR (R266). -/
def ctlRdsr : CtlRead := fun s g i _ =>
  match SpecReg.ofCode i, (s.slotAt g).mode with
  | none, _ => (s, .error .badItem)
  | some r, .trapped => (s, .ok (s.readSr g r))
  | some .regbase, .spilled => (s, .ok 0)
  | some .reglim, .spilled => (s, .ok ((s.slotAt g).savedLim.setWidth 64))
  | some r, .spilled => match srOffset r with
    | some off => readArea s g off 8
    | none => (s, .ok (s.readSr g r))
  | _, _ => (s, .error .badState)

/-- The bits of a special register that are not reserved (R29, R32). -/
def srWidth : SpecReg → Nat
  | .fpmode => 2 | .fpflags => 5 | .stat => 2 | .cvtsrc => 7 | .fewait => 32 | .pid => 16 | _ => 64

/-- WRSR: an item that is RW or RP (R266). -/
def ctlWrsr : CtlWrite := fun s g i _ v =>
  match SpecReg.ofCode i, (s.slotAt g).mode with
  | none, _ => (s, some .badItem)
  | some r, m =>
    if srNeeds r = .never then (s, some .badItem)
    else match m with
    | .trapped => (s.mapSlot g fun t => t.writeSr r v, none)
    | .spilled => match srOffset r with
      | some off => writeArea s g off 8 (bits v.toNat 0 (srWidth r))
      | none => (s, some .badItem)
    | _ => (s, some .badState)

/-- RDS (R266). -/
def ctlRds : CtlRead := fun s g i _ =>
  if 32 ≤ i then (s, .error .badItem)
  else
    let r : SReg := BitVec.ofNat 5 i
    match (s.slotAt g).mode with
    | .trapped => (s, match regPoison s g {} (.s r) with | some f => .error (.fault f) | none => .ok ((s.slotAt g).sreg r))
    | .spilled => readArea s g (0x200 + 8 * i) 8
    | _ => (s, .error .badState)

/-- WRS: the register becomes full; s0 stays zero (R266, R15). -/
def ctlWrs : CtlWrite := fun s g i _ v =>
  if 32 ≤ i then (s, some .badItem)
  else match (s.slotAt g).mode with
  | .trapped => (s.setS g (BitVec.ofNat 5 i) v, none)
  | .spilled => if i = 0 then (s, none) else fillArea (writeArea s g (0x200 + 8 * i) 8 v.toNat) g 6 i
  | _ => (s, some .badState)

/-- The size of a stopped slot's window. -/
def Slot.heldLim (t : Slot) : Nat := if t.mode = .spilled then t.savedLim.toNat else t.regLim.toNat

/-- RDV: a lane; what a register that is bound to a stream reads as is open (R266, R27). -/
def ctlRdv : CtlRead := fun s g i l =>
  let t := s.slotAt g
  if t.mode ≠ .trapped ∧ t.mode ≠ .spilled then (s, .error .badState)
  else if t.heldLim ≤ i then (s, .error .badItem)
  else if (Table.find t.binds i).isSome then (s.draw, .ok ((Config.freeWord s.free).setWidth 32 |>.setWidth 64))
  else if t.mode = .trapped then
    let u := 16 * (t.regBase.toNat + i) + l / 2
    if (s.cellAt g.pkg g.cell).vPoison.has u then
      (s, .error (.fault { kind := .ecc, sector := BitVec.ofNat 64 i, aux := 5 }))
    else (s, .ok ((lane (s.vregAt g (BitVec.ofNat 7 i)) l).setWidth 64))
  else readArea s g (t.areaVector i + 4 * l) 4

/-- WRV: a lane; the register becomes full. A register that is bound to a stream keeps no lanes (R266). -/
def ctlWrv : CtlWrite := fun s g i l v =>
  let t := s.slotAt g
  if t.mode ≠ .trapped ∧ t.mode ≠ .spilled then (s, some .badState)
  else if t.heldLim ≤ i then (s, some .badItem)
  else if (Table.find t.binds i).isSome then (s, none)
  else if t.mode = .trapped then
    (s.setLanes g (BitVec.ofNat 7 i) (BitVec.ofNat 32 (2 ^ l)) fun _ => v.setWidth 32, none)
  else fillArea (writeArea s g (t.areaVector i + 4 * l) 4 (v.toNat % 2 ^ 32)) g (7 + i / 64) (i % 64)

/-- What a supervisor reads of a context item: as `launchRead` for FLAGS, item 37 (R5, R212, R267). -/
def shownItem (i : Nat) (w : Word) : Word := if i = 37 then w &&& 0xFF else w

/-- RDCTX (R267). -/
def ctlRdctx : CtlRead := fun s g i _ =>
  if 39 ≤ i then (s, .error .badItem)
  else match (s.slotAt g).mode with
  | .trapped => (s, .ok (shownItem i ((s.slotAt g).item i)))
  | .spilled =>
    let r := readArea s g (8 * i) 8
    (r.1, r.2.map (shownItem i))
  | _ => (s, .error .badState)

/-- Clears words of a spilled slot's save area. -/
def clearArea (g : GRef) : State → List Nat → State × Option CtlStop
  | s, [] => (s, none)
  | s, i :: t =>
    match writeArea s g (8 * i) 8 0 with
    | (s, some e) => (s, some e)
    | (s, none) => clearArea g s t

/-- Writes the loop stack depth of a spilled slot: the entries that a lower one frees are cleared (R267). -/
def writeDepth (s : State) (g : GRef) (d : Nat) : State × Option CtlStop :=
  match readArea s g (8 * 27) 8 with
  | (s, .error e) => (s, some e)
  | (s, .ok old) =>
    match clearArea g s ((List.range (4 * (old.toNat - d))).map (11 + 4 * d + ·)) with
    | (s, some e) => (s, some e)
    | (s, none) => writeArea s g (8 * 27) 8 d

/-- WRCTX (R267). -/
def ctlWrctx : CtlWrite := fun s g i _ v =>
  if 39 ≤ i ∨ badItemValue i v then (s, some .badItem)
  else match (s.slotAt g).mode with
  | .trapped => (s.mapSlot g fun t => t.putItem i v, none)
  | .spilled => if i = 27 then writeDepth s g v.toNat else writeArea s g (8 * i) 8 v.toNat
  | _ => (s, some .badState)

/-! ## RESUME -/

/-- Whether a record of the slot still waits in its cell (R363, R366). -/
def State.owesRecord (s : State) (g : GRef) : Bool :=
  (s.pkgAt g.pkg).waiting.any fun w => w.cell == g.cell && w.slot == some g.slot && w.ctx.isNone

/-- The kind of access that an operation makes. -/
def Act.acc : Act → Acc
  | .store => .store
  | .atom _ => .atomic
  | .fe _ => .fe
  | .monitor _ => .monitor
  | .nclaim => .nclaim
  | _ => .load

/-- Resolves the elements of a unit once more. -/
def redoElts (g : GRef) (pid : BitVec 16) (k : Acc) : State → List Elt → State × Except FaultInfo (List Elt)
  | s, [] => (s, .ok [])
  | s, e :: t =>
    match resolve s g.pkg g.cell pid e.addr e.n k with
    | (s, .error f) => (s, .error f)
    | (s, .ok l) =>
      let r := redoElts g pid k s t
      (r.1, r.2.map fun es => { e with loc := l } :: es)

/-- The units of an operation that is reissued: those that it completed stay so, the others are resolved anew (R426). -/
def redoUnits (g : GRef) (o : Op) : State → List OpUnit → State × List OpUnit
  | s, [] => (s, [])
  | s, u :: t =>
    if u.done && u.fault.isNone then
      let r := redoUnits g o s t
      (r.1, u :: r.2)
    else
      let x := redoElts g o.pid o.act.acc s u.elts
      let u : OpUnit := match x.2 with
        | .ok es => { u with elts := es, done := false, fault := none }
        | .error f => { u with done := true, fault := some f }
      let r := redoUnits g o x.1 t
      (r.1, u :: r.2)

/-- How a slot waits for an operation, if its instruction does. -/
def Op.waitsFor (o : Op) : Option WaitFor :=
  match o.act with
  | .fe .feget => none
  | .fe _ => if o.posted then none else some (.answer o.id)
  | .monitor _ => some (.answer o.id)
  | .record (.alloc _ _ _ true) => some (.rallocw o.id)
  | _ => none

/-- Reissues one operation of a replay list, with the addresses and data it took at issue (R426): where a lane faults
again, none of its outstanding units is performed (R165); its packets carry the colour that is current then (R376). -/
def reissue (s : State) (g : GRef) (o : Op) : State :=
  let x := redoUnits g o s o.units
  let s := x.1
  let us : List OpUnit := match x.2.findSome? OpUnit.fault with
    | none => x.2
    | some f => o.units.map fun u => if u.done && u.fault.isNone then u else { u with done := true, fault := some f }
  let had := o.shadow && o.performed && o.fault.isNone
  let o : Op := { o with units := us, fault := us.findSome? OpUnit.fault, since := s.cycleAt g.pkg, colour := s.colourOf g
                         performed := had || (!us.isEmpty && us.all (·.done))
                         inTransit := us.all fun (u : OpUnit) => u.elts.all fun e =>
                           pathOf e.addr == .local || !s.boundaryRefuses g.pkg g.cell e.loc }
  let now := s.cycleAt g.pkg
  let s := s.mapSlot g fun t =>
    let t := if o.posted then t else o.dst.regs.foldl (fun t r => t.setFe r .pending) t
    let t := { t with ops := replayInsert t.ops o }
    match o.waitsFor with
    | some w => { t with mode := .parked, wait := some { what := w, since := now }, waitNext := some (t.head, t.pos, t.loops) }
    | none => t
  let home := (List.range us.length).filter fun j => match us[j]? with | some u => u.path == .local && !u.done | none => false
  let s := s.atPort g o.id home (portCycles o.act (home.flatMap fun j => ((us[j]?).map (·.elts)).getD []))
  match o.waitsFor with
  | some (.answer _) => if home.isEmpty then s else s.listWaiter g o.id
  | _ => s

/-- Puts a stopped slot on its way: its streams at fault run again from the element at fault (R208), it stands at its
resume point (R367), and its replay list is reissued (R426). -/
def setGoing (s : State) (g : GRef) : State :=
  let s := s.mapCell g.pkg g.cell fun t =>
    { t with streams := t.streams.map fun e =>
        (e.1, if e.2.ownedBy g.slot && e.2.mode == .error then { e.2 with mode := .running, err := 0, faddr := 0 } else e.2) }
  let list := (s.slotAt g).replay
  list.foldl (fun s o => reissue s g o) (resumeSlot (s.mapSlot g fun t => { t with replay := [] }) g)

/-- RESUME (R366, R367, R311): whether it is performed, or nothing yet where the save area must be read back first. -/
def ctlResume (s : State) (g : GRef) (a : Asker) : State × Option Bool :=
  let t := s.slotAt g
  match t.mode with
  | .trapped => if s.owesRecord g then (s, some false) else (setGoing s g, some true)
  | .spilled => if s.owesRecord g then (s, some false)
    else (s.mapSlot g fun t => { t with evict := .restoring a }, none)
  | _ => (s, some false)

/-! ## KILL and SPILL -/

/-- KILL (R366): whether it is performed, or nothing yet where the target's producers have still to write. -/
def ctlKill (s : State) (g : GRef) (a : Asker) : State × Option Bool :=
  match (s.slotAt g).mode with
  | .idle | .exited => (s, some false)
  | _ =>
    let s := killSlot s g (some a)
    if (s.slotAt g).dying then (s, none) else (s.mapSlot g fun t => { t with killer := none }, some true)

/-- Whether the slot belongs to a redundant group, or is a twin (R366). -/
def Slot.redundant (t : Slot) : Bool := match t.member with | some m => m.twin || m.partner.isSome | none => false

/-- SPILL begins: the slot issues nothing further, its waits end, a subscriber leaves its channel, and what the instruction
that it waited in had taken is put back (R310, R196, R249, R67). It shows the state that it had until it is SPILLED (R286). -/
def ctlSpill (s : State) (g : GRef) (a : Asker) : State × Option Bool :=
  let t := s.slotAt g
  if (t.mode = .run ∨ t.mode = .parked ∨ t.mode = .subscribed ∨ t.mode = .trapped) ∧ !t.redundant then
    let s := s.mapSlot g fun x => { x with evict := .spilling a t.mode }
    let s := if t.waitNext.isSome && t.wait.isNone then s else (abandonWait s g).mapSlot g Slot.untake
    (s.mapSlot g fun x =>
      { x with subscribed := none, inbox := [], take := none
               pendingPub := if x.waitNext.isSome then x.pendingPub else none
               clause := if x.waitNext.isSome then x.clause else none }, none)
  else (s, some false)

/-- The result of an operation that took time reaches who asked for it (R266, R372). -/
def giveAsker (s : State) (p : PkgId) (a : Asker) (v : Word) : State :=
  match a with
  | .slot g id => s.mapOp g id fun o => { o with got := [(0, v)], performed := true }
  | .mailbox q => completeCmd s p q v 0
  | .engaged g => s.mapSlot g fun t => if t.waitNext.isSome then t.endWait else t

/-- An operation that changes its target has been performed, or not (R266). -/
def answerAsker (s : State) (p : PkgId) (a : Asker) (ok : Bool) : State := giveAsker s p a (if ok then 0 else 1)

/-- Whether everything that a spill waits for has come about (R310 steps 1 to 3). -/
def spillReady (s : State) (g : GRef) : Bool :=
  let t := s.slotAt g
  let c := s.cellAt g.pkg g.cell
  !c.inMma g.slot && t.wait.isNone && t.waitNext.isNone && t.registering.isNone && t.stopping.isNone && !t.lateFault &&
  !t.producing && !t.icinv && !t.dying && !t.inLong (s.cycleAt g.pkg) && (s.pkgAt g.pkg).hubWrites.isEmpty &&
  c.streams.all fun e => !(e.2.ownedBy g.slot) ||
    (e.2.flight.isEmpty && (!e.2.output || e.2.mode == .error || e.2.queue.isEmpty))

/-- Pauses the running streams of a slot (R210). -/
def Cell.pauseStreams (t : Cell) (n : SlotId) : Cell :=
  { t with streams := t.streams.map fun e =>
      (e.1, if e.2.ownedBy n && e.2.mode == .running then { e.2 with mode := .paused, wasRunning := true } else e.2) }

/-- The streams that a spill paused run again (R210, R310, R311). -/
def Cell.rerunStreams (t : Cell) (n : SlotId) : Cell :=
  { t with streams := t.streams.map fun e =>
      (e.1, if e.2.ownedBy n && e.2.wasRunning then { e.2 with mode := .running, wasRunning := false } else e.2) }

/-- A spill whose save-area write faulted: the slot goes on in the state it had (R310). -/
def spillFailed (s : State) (g : GRef) : State :=
  let now := s.cycleAt g.pkg
  (s.mapCell g.pkg g.cell fun t => t.rerunStreams g.slot).mapSlot g fun t =>
    let t := { t with evict := .none }
    match t.mode, t.joinPoint with
    | .trapped, _ => t
    | _, some (c, m) => { t with mode := .parked, wait := some { what := .join c m, since := now } }
    | _, none => { t with mode := .run, clause := none, waitqDone := decide (2 ≤ t.pos) }

/-- The slot has been saved: its window is free, and its PREEMPTED record waits (R310, R359). -/
def spillDone (s : State) (g : GRef) (was : SlotMode) : State :=
  let t := s.slotAt g
  let r := { makeRecord s g Kind.preempted.code { kind := .preempted } t.head t.pos false t.active with sub := was == .subscribed }
  let s := queueRecord s g none (s.partRing g) r
  let s := s.mapCell g.pkg g.cell fun c =>
    { c with streams := c.streams.map fun e =>
        (e.1, if e.2.ownedBy g.slot && !e.2.output && e.2.vreg.isSome then { e.2 with queue := [] } else e.2) }
  s.mapSlot g fun t =>
    { t with mode := .spilled, savedLim := t.regLim, regBase := 0, regLim := 0, hold := none, refill := none, clause := none
             evict := .none }

/-- SPILL_COMPLETE: the save area is written, and the slot enters SPILLED; or the spill fails (R310). It comes about when all of
the area can be written. -/
def execSpillComplete (g : GRef) (s : State) : Host.Outcome State Fault Refusal :=
  occur <|
    let before := s
    let t := s.slotAt g
    match t.evict with
    | .spilling a was =>
      if t.mode = .exited ∨ t.mode = .idle then answerAsker (s.mapSlot g fun t => { t with evict := .none }) g.pkg a false
      else if !spillReady s g then s
      else
        let was := if t.mode = .trapped then .trapped else was
        let s := s.mapCell g.pkg g.cell fun c => c.pauseStreams g.slot
        (match areaWrites g s (saveImage s g was) with
        | (s, some _) => answerAsker (spillFailed s g) g.pkg a false
        | (s', none) => if (s'.pkgAt g.pkg).hubWrites.isEmpty then answerAsker (spillDone s'.draw g was) g.pkg a true else before)
    | _ => s

/-! ## The restore -/

/-- The context of a save area: items, special registers, group registers and scalar registers, of which a poisoned
one stays poisoned; a WAKE that has come meanwhile stays pending (R195, R309, R339). -/
def restoreContext (t : Slot) (ws : List (Option Nat)) : Slot :=
  let w (i : Nat) : Word := BitVec.ofNat 64 ((ws.getD i none).getD 0)
  let pending := t.wakePending
  let t := (List.range 39).foldl (fun t i => t.putItem i (w i)) ({ t with loops := {} } : Slot)
  let t := savedSrs.zipIdx.foldl (fun t r => t.writeSr r.1 (w (40 + r.2))) t
  let regs := (List.range 31).map (· + 1)
  { t with wakePending := t.wakePending || pending, gang := w 56, node := w 57, group := w 58, recCnt := w 59, depth := w 60
           sregs := regs.foldl (fun m r => Table.set 0 m r (w (64 + r))) []
           sPoison := regs.filter fun r => (ws.getD (64 + r) none).isNone }

/-- Reads the unbound registers of a window back: the contents and the poisoned units of each. -/
def readVectors (g : GRef) (t : Slot) : List Nat → State → State × HubAnswer (List (Nat × List (Option Nat)))
  | [], s => (s, .ok [])
  | r :: rs, s =>
    match areaWords g 16 s (t.areaVector r) with
    | (s, .error f) => (s, .error f)
    | (s, .ok ws) =>
      let x := readVectors g t rs s
      (x.1, x.2.map fun l => (r, ws) :: l)

/-- A vector register from sixteen words. -/
def VReg.ofWords (ws : List (Option Nat)) : VReg :=
  ws.flatMap fun w => [BitVec.ofNat 32 (w.getD 0), BitVec.ofNat 32 (w.getD 0 / 2 ^ 32)]

/-- Reads the elements of the input queues back: the descriptor and the words of each binding. -/
def readQueues (g : GRef) (base : Nat) (ws : List (Option Nat)) : List (Nat × BitVec 5) → Nat → State →
    State × HubAnswer (List (Nat × List (Option Nat)))
  | [], _, s => (s, .ok [])
  | b :: bs, i, s =>
    let e := (ws.getD (48 + i) none).getD 0
    let n := if e.testBit 16 then 0 else Nat.min 8 (bits e 20 4)
    match areaWords g (16 * n) s (base + 1024 * i) with
    | (s, .error f) => (s, .error f)
    | (s, .ok q) =>
      let x := readQueues g base ws bs (i + 1) s
      (x.1, x.2.map fun l => (b.2.toNat, q) :: l)

/-- Cuts words into stream elements. -/
def queueOf (ws : List (Option Nat)) : List StreamElt :=
  (List.range (ws.length / 16)).map fun i =>
    { lanes := VReg.ofWords ((ws.drop (16 * i)).take 16), mask := BitVec.allOnes 32 }

/-- What a save area holds. -/
structure Saved where
  words : List (Option Nat)
  vectors : List (Nat × List (Option Nat))
  queues : List (Nat × List (Option Nat))
  deriving DecidableEq, Repr, Inhabited

/-- Reads a save area back; poison anywhere but in a register is a fault. -/
def readSaved (s : State) (g : GRef) : State × HubAnswer Saved :=
  let t := s.slotAt g
  let lim := t.savedLim.toNat
  let ecc : Option FaultInfo := some { kind := .ecc }
  match areaWords g 96 s 0 with
  | (s, .error f) => (s, .error f)
  | (s, .ok ws) =>
    if (ws.take 64).any Option.isNone then (s, .error ecc)
    else match readVectors g t (t.unbound lim) s with
    | (s, .error f) => (s, .error f)
    | (s, .ok vs) =>
      match readQueues g (t.areaVector lim) ws t.binds 0 s with
      | (s, .error f) => (s, .error f)
      | (s, .ok qs) =>
        if qs.any fun q => q.2.any Option.isNone then (s, .error ecc) else (s, .ok { words := ws, vectors := vs, queues := qs })

/-- Puts a spilled slot back into a window at `base` with what its save area held (R311). -/
def restoreSlot (s : State) (g : GRef) (base : Nat) (x : Saved) : State :=
  let lim := (s.slotAt g).savedLim
  let s := s.mapCell g.pkg g.cell fun c =>
    let c := (c.clearWindow base lim.toNat).rerunStreams g.slot
    let c := x.vectors.foldl (fun (c : Cell) v =>
      { c with vregs := Table.set VReg.zero c.vregs (base + v.1) (VReg.ofWords v.2)
               vPoison := (List.range 16).foldl (fun p u => if (v.2.getD u none).isNone then p.insert (16 * (base + v.1) + u) else p) c.vPoison }) c
    { c with streams := x.queues.foldl (fun t q =>
        let d := Table.get ({} : Stream) t q.1
        if d.output then t else Table.put t q.1 { d with queue := queueOf q.2 }) c.streams }
  let s := s.mapSlot g fun t =>
    { restoreContext t x.words with regBase := BitVec.ofNat 11 base, regLim := lim, evict := .none, mode := .trapped }
  setGoing s g

/-- RESUME_RESTORE: a spilled slot gets a window and its save area back, or the RESUME changes nothing (R311). -/
def execResumeRestore (g : GRef) (s : State) : Host.Outcome State Fault Refusal :=
  occur <|
    let t := s.slotAt g
    match t.evict with
    | .restoring a =>
      if !(s.pkgAt g.pkg).hubWrites.isEmpty then s
      else
        let fail (s : State) : State := answerAsker (s.mapSlot g fun t => { t with evict := .none }) g.pkg a false
        if t.mode ≠ .spilled then fail s
        else match (s.pkgAt g.pkg).fitWindow g.cell t.savedLim.toNat with
          | none => fail s
          | some b =>
            match readSaved s g with
            | (_, .error none) => s
            | (s, .error (some _)) => fail s
            | (s, .ok x) => answerAsker (restoreSlot s g b x) g.pkg a true
    | _ => s

/-! ## SLOTCTL -/

/-- Whether a target word has a bit set that must be zero (R266). -/
def badTarget (w : Word) : Bool := bits w.toNat 36 4 != 0 || bits w.toNat 47 1 != 0 || bits w.toNat 53 11 != 0

/-- Whether the operations on a target wait for another one that is under way (R368), or for its save area. -/
def State.ctlBusy (s : State) (g : GRef) : Bool :=
  let t := s.slotAt g
  t.evict != .none || t.ctl.isSome || t.dying || t.killer.isSome || (t.mode == .spilled && !(s.pkgAt g.pkg).hubWrites.isEmpty)

/-- Whether a slot supervises the cell of another (R14, R266). -/
def State.supervises (s : State) (own g : GRef) : Bool :=
  own != g && match Table.find s.pkgs g.pkg.toNat with
    | some k => k.openParts.any fun q => q.2.superIs own && q.2.hasCell g.cell
    | none => false

/-- A body of SLOTCTL on its target, the item and the lane, once the target has passed its checks. To a package out of reach it
completes with FENCED, and while no link leads there it waits (R386, R388). -/
def onTarget (c : Ctx) (r : SReg) (body : GRef → Nat → Nat → Issue) : Issue :=
  let w := c.sreg r
  let g := GRef.ofWord w
  if badTarget w then illegal 9
  else if bits w.toNat 28 8 ≠ c.pkg.domain.toNat ∨ !c.s.supervises c.g g then .trap { kind := .prot }
  else if c.s.shut c.g.pkg g.pkg then .trap { kind := .fenced, sector := w }
  else if c.s.ctlBusy g || !c.s.linked c.g.pkg g.pkg then .hold
  else body g (bits w.toNat 40 7) (bits w.toNat 48 5)

/-- The fault of a SLOTCTL that is not performed (R266). -/
def CtlStop.info : CtlStop → FaultInfo
  | .badState | .badItem | .wait => { kind := .illegal, aux := 9 }
  | .fault f => f

/-- The trap of a SLOTCTL that is not performed (R266). -/
def CtlStop.issue : CtlStop → Issue
  | .wait => .hold
  | e => .trap e.info

/-- The STATUS of a SLOTCTL command that is not performed. -/
def CtlStop.status : CtlStop → Byte
  | .badState | .fault _ | .wait => 1
  | .badItem => 2

/-- What a reading operation gives. -/
def CtlGet.run : CtlGet → CtlRead
  | .state => ctlState
  | .rdsr => ctlRdsr
  | .rds => ctlRds
  | .rdv => ctlRdv
  | .rdctx => ctlRdctx
/-- What a writing operation does. -/
def CtlSet.run : CtlSet → CtlWrite
  | .wrsr => ctlWrsr
  | .wrs => ctlWrs
  | .wrv => ctlWrv
  | .wrctx => ctlWrctx

/-- Whether a slot may take a fault in this cycle still: an operation on it then acts after the cycle's faults (R368). -/
def Slot.mayFault (t : Slot) : Bool := t.mode == .run || t.mode == .parked || t.mode == .subscribed

/-- An operation has arrived at its target, and acts once the faults of this cycle have been taken (R368). -/
def State.arriveCtl (s : State) (g : GRef) (act : CtlAct) (a : Asker) : State :=
  s.mapSlot g fun t => { t with ctl := some (act, a, s.cycleAt g.pkg) }

/-- A SLOTCTL that reads: a long-latency producer (R266). -/
def slotctlRead (f : CtlGet) (v g : SReg) (s : State) : Host.Outcome State Fault Refusal :=
  run s { srcs := [.s g], dsts := [.s v], tb := some (.s g), needs := .super } fun c =>
    onTarget c g fun t i l =>
      let o := c.newOp .value .hub (.scalar v)
      if (c.s.slotAt t).mayFault then
        match c.issueAlone o with
        | .done s => .done (s.arriveCtl t (.get f i l) (.slot c.g o.id))
        | i => i
      else match f.run c.s t i l with
      | (_, .error e) => e.issue
      | (s, .ok x) => ({ c with s := s } : Ctx).issueAlone { o with got := [(0, x)], performed := true }

/-- A SLOTCTL that writes. -/
def slotctlWrite (f : CtlSet) (v g : SReg) (s : State) : Host.Outcome State Fault Refusal :=
  run s { srcs := [.s v, .s g], ta := some (.s v), tb := some (.s g), needs := .super } fun c =>
    onTarget c g fun t i l =>
      if (c.s.slotAt t).mayFault then .engage (c.s.arriveCtl t (.set f i l (c.sreg v)) (.engaged c.g))
      else match f.run c.s t i l (c.sreg v) with
      | (_, some e) => e.issue
      | (s, none) => .done s

/-- An operation is not performed: who asked for it takes its fault, or its STATUS (R266, R372). -/
def failAsker (s : State) (p : PkgId) (a : Asker) (e : CtlStop) : State :=
  match a with
  | .slot g id => match s.opOf g id with
    | some o => faultOp s g o e.info
    | none => s
  | .mailbox q => completeCmd s p q 0 e.status
  | .engaged g => if (s.slotAt g).waitNext.isSome then faultHere (s.mapSlot g fun t => { t with waitNext := none }) g e.info else s

/-- An operation that has arrived at its target acts there, and is answered unless it takes time (R366, R368). -/
def performCtl (s : State) (g : GRef) : State :=
  match (s.slotAt g).ctl with
  | none => s
  | some (act, a, _) =>
    let s := s.mapSlot g fun t => { t with ctl := none }
    let answer (r : State × Option Bool) : State := match r.2 with
      | some ok => answerAsker r.1 g.pkg a ok
      | none => r.1
    match act with
    | .resume => answer (ctlResume s g a)
    | .kill => answer (ctlKill s g a)
    | .spill => answer (ctlSpill s g a)
    | .get f i l => match f.run s g i l with
      | (_, .error .wait) => s.arriveCtl g act a
      | (_, .error e) => failAsker s g.pkg a e
      | (s, .ok x) => giveAsker s g.pkg a x
    | .set f i l v => match f.run s g i l v with
      | (_, some .wait) => s.arriveCtl g act a
      | (_, some e) => failAsker s g.pkg a e
      | (s, none) => giveAsker s g.pkg a 0

/-- A KILL, SPILL or RESUME arrives at its target. A RESUME acts in the cycle of its arrival, in which a fault of a running slot
would have it write 1 as well (R368). -/
def arriveAct (s : State) (g : GRef) (act : CtlAct) (a : Asker) : State :=
  let s := s.arriveCtl g act a
  if act = .resume then performCtl s g else s

/-- A SLOTCTL that changes the target's state, 0 when it is performed, 1 when it is not allowed (R266, R368). -/
def slotctlAct (act : CtlAct) (v g : SReg) (s : State) : Host.Outcome State Fault Refusal :=
  run s { srcs := [.s g], dsts := [.s v], tb := some (.s g), needs := .super } fun c =>
    onTarget c g fun t _ _ =>
      let o := c.newOp .value .hub (.scalar v)
      match c.issueAlone o with
      | .done s => .done (arriveAct s t act (.slot c.g o.id))
      | i => i

/-- A killed slot whose producers have written exits, the KILL is answered, and a teardown of its graph goes on (R312,
R366). -/
def finishKill (s : State) (g : GRef) : State :=
  let s := settleKill s g
  let t := s.slotAt g
  if t.dying then s
  else
    let s := match t.killer with
      | some a => answerAsker (s.mapSlot g fun t => { t with killer := none }) g.pkg a true
      | none => s
    match t.member with
    | some m => tearOn s g.pkg m.graph
    | none => s

/-- A slot at which an operation that arrived in an earlier cycle has still to act (R368). -/
def ctlDue (s : State) : Option GRef :=
  (s.allSlots.find? fun e => match e.2.ctl with
    | some (_, _, at_) => decide (at_ < s.cycleAt e.1.pkg)
    | none => false).map (·.1)

/-- A slot whose kill can now end (R366). -/
def killDue (s : State) : Option GRef :=
  (s.allSlots.find? fun e => if e.2.dying then !s.stillProducing e.1 else e.2.killer.isSome).map (·.1)

/-- SLOTCTL STATE (R266). -/
def execSlotctlState (v g : SReg) (s : State) : Host.Outcome State Fault Refusal := slotctlRead .state v g s
/-- SLOTCTL RDSR (R266). -/
def execSlotctlRdsr (v g : SReg) (s : State) : Host.Outcome State Fault Refusal := slotctlRead .rdsr v g s
/-- SLOTCTL WRSR (R266). -/
def execSlotctlWrsr (v g : SReg) (s : State) : Host.Outcome State Fault Refusal := slotctlWrite .wrsr v g s
/-- SLOTCTL RDS (R266). -/
def execSlotctlRds (v g : SReg) (s : State) : Host.Outcome State Fault Refusal := slotctlRead .rds v g s
/-- SLOTCTL WRS (R266). -/
def execSlotctlWrs (v g : SReg) (s : State) : Host.Outcome State Fault Refusal := slotctlWrite .wrs v g s
/-- SLOTCTL RDV (R266). -/
def execSlotctlRdv (v g : SReg) (s : State) : Host.Outcome State Fault Refusal := slotctlRead .rdv v g s
/-- SLOTCTL WRV (R266). -/
def execSlotctlWrv (v g : SReg) (s : State) : Host.Outcome State Fault Refusal := slotctlWrite .wrv v g s
/-- SLOTCTL RDCTX (R267). -/
def execSlotctlRdctx (v g : SReg) (s : State) : Host.Outcome State Fault Refusal := slotctlRead .rdctx v g s
/-- SLOTCTL WRCTX (R267). -/
def execSlotctlWrctx (v g : SReg) (s : State) : Host.Outcome State Fault Refusal := slotctlWrite .wrctx v g s
/-- SLOTCTL RESUME (R367, R311). -/
def execSlotctlResume (v g : SReg) (s : State) : Host.Outcome State Fault Refusal := slotctlAct .resume v g s
/-- SLOTCTL KILL (R366). -/
def execSlotctlKill (v g : SReg) (s : State) : Host.Outcome State Fault Refusal := slotctlAct .kill v g s
/-- SLOTCTL SPILL (R310). -/
def execSlotctlSpill (v g : SReg) (s : State) : Host.Outcome State Fault Refusal := slotctlAct .spill v g s

/-! ## SLOTCTL through the mailbox -/

/-- Performs a SLOTCTL command on its target (R372): a malformed target word gives STATUS 2, one outside the partition
STATUS 4. -/
def mboxTarget (p : PkgId) (q : BitVec 3) (op : Nat) (s : State) (body : State → GRef → Nat → Nat → Word → State) : State :=
  let part := (s.pkgAt p).part q
  match part.cmd with
  | none => s
  | some c =>
    let w := c.opnds.headD 0
    let g := GRef.ofWord w
    if s.ctlBusy g then s
    else beginSlotctl s p q op fun s _ =>
      if badTarget w then completeCmd s p q 0 2
      else if bits w.toNat 28 8 ≠ (s.pkgAt p).domain.toNat ∨ g.pkg ≠ p ∨ !part.hasCell g.cell ∨ (!part.hostSup ∧ part.super = g) then
        completeCmd s p q 0 4
      else body s g (bits w.toNat 40 7) (bits w.toNat 48 5) (c.opnds.getD 2 0)

/-- A command that cannot be performed yet is begun afresh. -/
def unbegun (s : State) (p : PkgId) (q : BitVec 3) : State :=
  s.mapPart p q fun part => { part with cmd := part.cmd.map fun c => { c with begun := false } }

/-- A SLOTCTL command that reads. -/
def mboxRead (f : CtlGet) (op : Nat) (p : PkgId) (q : BitVec 3) (s : State) : Host.Outcome State Fault Refusal :=
  occur <| mboxTarget p q op s fun s g i l _ =>
    if (s.slotAt g).mayFault then s.arriveCtl g (.get f i l) (.mailbox q)
    else match f.run s g i l with
    | (_, .error .wait) => unbegun s p q
    | (_, .error e) => completeCmd s p q 0 e.status
    | (s, .ok x) => completeCmd s p q x 0

/-- A SLOTCTL command that writes. -/
def mboxWrite (f : CtlSet) (op : Nat) (p : PkgId) (q : BitVec 3) (s : State) : Host.Outcome State Fault Refusal :=
  occur <| mboxTarget p q op s fun s g i l v =>
    if (s.slotAt g).mayFault then s.arriveCtl g (.set f i l v) (.mailbox q)
    else match f.run s g i l v with
    | (_, some .wait) => unbegun s p q
    | (_, some e) => completeCmd s p q 0 e.status
    | (s, none) => completeCmd s p q 0 0

/-- A SLOTCTL command that changes the target's state: it has arrived there (R368). -/
def mboxAct (act : CtlAct) (op : Nat) (p : PkgId) (q : BitVec 3) (s : State) : Host.Outcome State Fault Refusal :=
  occur <| mboxTarget p q op s fun s g _ _ _ => arriveAct s g act (.mailbox q)

/-- MBOX_SLOTCTL_STATE (R372). -/
def execMboxSlotctlState (p : PkgId) (q : BitVec 3) (s : State) : Host.Outcome State Fault Refusal := mboxRead .state 0 p q s
/-- MBOX_SLOTCTL_RDSR (R372). -/
def execMboxSlotctlRdsr (p : PkgId) (q : BitVec 3) (s : State) : Host.Outcome State Fault Refusal := mboxRead .rdsr 1 p q s
/-- MBOX_SLOTCTL_WRSR (R372). -/
def execMboxSlotctlWrsr (p : PkgId) (q : BitVec 3) (s : State) : Host.Outcome State Fault Refusal := mboxWrite .wrsr 2 p q s
/-- MBOX_SLOTCTL_RDS (R372). -/
def execMboxSlotctlRds (p : PkgId) (q : BitVec 3) (s : State) : Host.Outcome State Fault Refusal := mboxRead .rds 3 p q s
/-- MBOX_SLOTCTL_WRS (R372). -/
def execMboxSlotctlWrs (p : PkgId) (q : BitVec 3) (s : State) : Host.Outcome State Fault Refusal := mboxWrite .wrs 4 p q s
/-- MBOX_SLOTCTL_RDV (R372). -/
def execMboxSlotctlRdv (p : PkgId) (q : BitVec 3) (s : State) : Host.Outcome State Fault Refusal := mboxRead .rdv 5 p q s
/-- MBOX_SLOTCTL_WRV (R372). -/
def execMboxSlotctlWrv (p : PkgId) (q : BitVec 3) (s : State) : Host.Outcome State Fault Refusal := mboxWrite .wrv 6 p q s
/-- MBOX_SLOTCTL_RDCTX (R372). -/
def execMboxSlotctlRdctx (p : PkgId) (q : BitVec 3) (s : State) : Host.Outcome State Fault Refusal := mboxRead .rdctx 7 p q s
/-- MBOX_SLOTCTL_WRCTX (R372). -/
def execMboxSlotctlWrctx (p : PkgId) (q : BitVec 3) (s : State) : Host.Outcome State Fault Refusal := mboxWrite .wrctx 8 p q s
/-- MBOX_SLOTCTL_RESUME (R372). -/
def execMboxSlotctlResume (p : PkgId) (q : BitVec 3) (s : State) : Host.Outcome State Fault Refusal := mboxAct .resume 9 p q s
/-- MBOX_SLOTCTL_KILL (R372). -/
def execMboxSlotctlKill (p : PkgId) (q : BitVec 3) (s : State) : Host.Outcome State Fault Refusal := mboxAct .kill 10 p q s
/-- MBOX_SLOTCTL_SPILL (R372). -/
def execMboxSlotctlSpill (p : PkgId) (q : BitVec 3) (s : State) : Host.Outcome State Fault Refusal := mboxAct .spill 11 p q s

end Sys2Proof.Machine
end

