-- ==== Sys2Proof/Machine/Partition.lean ====
section
/-! DEFINITION. Commands of the partitions: graph loads and teardowns (R288, R312), invalidations (R335), fences, resets,
switches, OPEN and CLOSE (R370-R377), and the start of the lead programs (R371). -/

namespace Sys2Proof.Machine

/-! ## GRAPHLOAD and GRAPHTEAR -/

/-- A host record ring (R400). -/
def Pkg.ring (k : Pkg) (x : BitVec 6) : HostRing := Table.get {} k.rings x.toNat
/-- Changes a host record ring. -/
def State.mapRing (s : State) (p : PkgId) (x : BitVec 6) (f : HostRing → HostRing) : State :=
  s.mapPkg p fun k => { k with rings := Table.put k.rings x.toNat (f (k.ring x)) }

/-- The graph that a command names. -/
def Cmd.graph (c : Cmd) : BitVec 6 := c.arg.setWidth 6

/-- Whether a word of the operands of GRAPHLOAD has a reserved bit set or a field outside its limits (R287, R372). -/
def badGraphload (w8 w16 : Nat) : Bool :=
  bits w8 0 12 != 0 || decide (4096 < bits w8 24 12 + bits w8 36 12) ||
  bits w16 31 31 != 0 || bits w16 23 1 != 0 || bits w16 14 2 != 0 || bits w16 6 2 != 0 ||
  [16, 24].any fun lo => bits w16 lo 7 == 0 || decide (64 < bits w16 lo 7)

/-- GRAPHLOAD: the entry is written and enters LOADING (R287, R288, R372, R400). -/
def execGraphload (p : PkgId) (q : BitVec 3) (s : State) : Host.Outcome State Fault Refusal :=
  occur <| beginCmd s p q 2 fun s c =>
    let x := c.graph
    let w8 := (c.opnds.getD 1 0).toNat
    let w16 := (c.opnds.getD 2 0).toNat
    if badGraphload w8 w16 then completeCmd s p q 0 2
    else if ((s.pkgAt p).graphAt x).mode ≠ .free then completeCmd s p q 0 1
    else
      let s := s.mapGraph p x fun e =>
        { e with mode := .loading, nodeBase := c.opnds.getD 0 0, pid := BitVec.ofNat 16 (bits w8 48 16)
                 chCount := BitVec.ofNat 12 (bits w8 36 12), chBase := BitVec.ofNat 12 (bits w8 24 12)
                 nodesM1 := BitVec.ofNat 12 (bits w8 12 12), h := BitVec.ofNat 7 (bits w16 24 7)
                 w := BitVec.ofNat 7 (bits w16 16 7), y0 := BitVec.ofNat 6 (bits w16 8 6), x0 := BitVec.ofNat 6 w16
                 rnode := 0, rcode := 0, loadPart := q }
      s.mapRing p x fun r => { r with prod := 0, cons := 0, err := false }

/-- Whether the command that a mailbox performs is of kind `op` and has begun and not ended. -/
def Part.performs (q : Part) (op : Nat) : Bool := match q.cmd with | some c => c.op.toNat == op && c.begun && c.finish.isNone | none => false

/-- GRAPH_LOAD_COMPLETE: the load is made, or fails; the command's RESULT is word 24 of the entry (R288, R372). A load whose
reads wait goes on later. -/
def execGraphLoadComplete (p : PkgId) (x : BitVec 6) (s : State) : Host.Outcome State Fault Refusal :=
  occur <|
    let e := (s.pkgAt p).graphAt x
    if e.mode ≠ .loading then s
    else
      let s := loadGraph s p x
      if ((s.pkgAt p).graphAt x).mode = .loading then s
      else if ((s.pkgAt p).part e.loadPart).performs 2 then completeCmd s p e.loadPart ((s.pkgAt p).graphAt x).resultWord 0 else s

/-- Tears down a graph; the entries of its host ring that have not been taken are discarded (R312, R400). -/
def teardown (s : State) (p : PkgId) (x : BitVec 6) : State :=
  (tearGraph s p x).mapRing p x fun r => { r with cons := r.prod }

/-- GRAPHTEAR (R312, R372). -/
def execGraphtear (p : PkgId) (q : BitVec 3) (s : State) : Host.Outcome State Fault Refusal :=
  occur <| beginCmd s p q 3 fun s c =>
    let e := (s.pkgAt p).graphAt c.graph
    if e.mode ≠ .resident then completeCmd s p q 0 1
    else if e.loadPart ≠ q then completeCmd s p q 0 4
    else teardown s p c.graph

/-- GRAPH_TEARDOWN_COMPLETE: every killed slot is IDLE, and the entry returns to FREE (R312). -/
def execGraphTeardownComplete (p : PkgId) (x : BitVec 6) (s : State) : Host.Outcome State Fault Refusal :=
  occur <|
    if s.tornDown p x then
      let e := (s.pkgAt p).graphAt x
      let s := freeGraph s p x
      match ((s.pkgAt p).part e.loadPart).cmd with
      | some c => if c.op.toNat = 3 ∧ c.begun ∧ c.finish.isNone ∧ c.graph = x then completeCmd s p e.loadPart 0 0 else s
      | none => s
    else s

/-! ## INVAL -/

/-- Whether a command block of INVAL has a reserved bit set, or a length that is no multiple of 4 KiB or zero (R335). -/
def badInval (w0 w1 w2 : Nat) : Bool :=
  bits w0 32 32 != 0 || bits w0 2 14 != 0 || bits w1 57 7 != 0 || bits w1 0 12 != 0 || bits w2 57 7 != 0 || bits w2 0 12 != 0 ||
  (w0 % 4 == 2 && w2 == 0)

/-- An INVAL command: OP, PID and the range (R335). -/
structure Inval where
  op : Nat
  pid : Nat
  start : Nat
  len : Nat
  deriving DecidableEq, Repr, Inhabited

/-- The command in its three operands. -/
def Cmd.inval (c : Cmd) : Inval :=
  let w (i : Nat) : Nat := (c.opnds.getD i 0).toNat
  { op := w 0 % 4, pid := bits (w 0) 16 16, start := w 1, len := w 2 }

/-- Whether an invalidation covers what serves the virtual addresses from `lo` up to `hi` of a process (R335). -/
def Inval.covers (v : Inval) (pid : BitVec 16) (lo hi : Nat) : Bool :=
  v.op == 0 || (pid.toNat == v.pid && (v.op != 2 || (decide (lo < v.start + v.len) && decide (v.start < hi))))

/-- The virtual addresses that a cached page-table entry serves, at whatever level; entry 16m of a contiguous block serves the
block (R334). -/
def PageEntry.span (e : PageEntry) : Nat × Nat :=
  let size := 2 ^ (48 - 9 * e.level)
  let n := if e.level = 4 ∧ e.index % 16 = 0 ∧ bits e.entry 1 1 = 1 ∧ bits e.entry 8 1 = 1 then 16 else 1
  (e.index * size, (e.index + n) * size)

/-- The virtual addresses that a cached range entry serves (R329). -/
def ProcEntry.span (e : ProcEntry) : Nat × Nat := (bits (e.words.getD 0 0) 12 45 * 4096, bits (e.words.getD 1 0) 12 45 * 4096)

/-- Whether an invalidation drops a cached page-table entry: one that covers the range (R335). -/
def Inval.page (v : Inval) (e : PageEntry) : Bool := v.covers e.pid e.span.1 e.span.2

/-- Whether an invalidation drops a cached item of a process: a range entry that covers the range, or, but for OP 2, the
process entry (R335). -/
def Inval.item (v : Inval) (e : ProcEntry) : Bool :=
  if e.index = 0 then v.op != 2 && v.covers e.pid 0 1 else v.covers e.pid e.span.1 e.span.2

/-- Whether a station holds what an invalidation drops for the virtual addresses from `lo` up to `hi` of a process: an entry may
serve more than the range of the command (R335). -/
def Inval.drops (v : Inval) (x : Station) (pid : BitVec 16) (lo hi : Nat) : Bool :=
  let meets (e : Nat × Nat) : Bool := decide (lo < e.2) && decide (e.1 < hi)
  v.covers pid lo hi || (x.pages.any fun e => e.pid == pid && v.page e && meets e.span) ||
    x.procs.any fun e => e.pid == pid && e.index != 0 && v.item e && meets e.span

/-- INVAL (R335): it is refused at once, or begins. -/
def execInval (p : PkgId) (q : BitVec 3) (s : State) : Host.Outcome State Fault Refusal :=
  occur <| beginCmd s p q 4 fun s c =>
    if badInval (c.opnds.getD 0 0).toNat (c.opnds.getD 1 0).toNat (c.opnds.getD 2 0).toNat then completeCmd s p q 0 2 else s

/-- Whether an access under an invalidated translation is still to be performed: of a slot, of a stream, or of the hub and the
host, whichever process and station it was translated with (R335). -/
def invalPending (s : State) (p : PkgId) (v : Inval) : Bool :=
  let k := s.pkgAt p
  let left (c : CellId) (pid : BitVec 16) (us : List OpUnit) : Bool :=
    us.any fun u => u.path == .edge && !u.done && u.elts.any fun x =>
      v.drops (Table.get {} k.stations (stationOf c)) pid (x.addr.toNat % 2 ^ 57) (x.addr.toNat % 2 ^ 57 + x.n)
  ((k.allSlots p).any fun e => e.2.ops.any fun o => left e.1.cell o.pid o.units) ||
  (k.cells.any fun e => e.2.streams.any fun x => x.2.flight.any fun f => left (BitVec.ofNat 12 e.1) f.pid f.units) ||
  k.hubWrites.any fun w => w.isWrite && (({} : Station) :: k.stations.map (·.2)).any fun x =>
    v.drops x (BitVec.ofNat 16 v.pid) (w.addr.toNat % 2 ^ 57) (w.addr.toNat % 2 ^ 57 + w.bytes.length)

/-- A station without what an invalidation drops. -/
def Station.drop (x : Station) (v : Inval) : Station :=
  { pages := x.pages.filter fun e => !v.page e, procs := x.procs.filter fun e => !v.item e }

/-- INVALIDATION_COMPLETE: every station has dropped the entries, and what was translated with them has been performed
(R335). -/
def execInvalidationComplete (p : PkgId) (q : BitVec 3) (s : State) : Host.Outcome State Fault Refusal :=
  occur <| match ((s.pkgAt p).part q).cmd with
  | some c =>
    if c.op.toNat = 4 ∧ c.begun ∧ c.finish.isNone ∧ !invalPending s p c.inval then
      completeCmd (s.mapPkg p fun k => { k with stations := k.stations.map fun e => (e.1, e.2.drop c.inval) }) p q 0 0
    else s
  | none => s

/-! ## FENCE and UNFENCE -/

/-- MBOX_FENCE (R373). -/
def execMboxFence (p : PkgId) (q : BitVec 3) (s : State) : Host.Outcome State Fault Refusal :=
  occur <| beginCmd s p q 5 fun s _ =>
    if ((s.pkgAt p).part q).mode = .active then
      completeCmd ((abortPlacement s p q false).mapPart p q fun x => { x with mode := .fenced }) p q 0 0
    else completeCmd s p q 0 1

/-- UNFENCE (R373). -/
def execUnfence (p : PkgId) (q : BitVec 3) (s : State) : Host.Outcome State Fault Refusal :=
  occur <| beginCmd s p q 6 fun s _ =>
    if ((s.pkgAt p).part q).mode = .fenced then
      completeCmd (startPlacement (s.mapPart p q fun x => { x with mode := .active }) p q false) p q 0 0
    else completeCmd s p q 0 1

/-! ## The parity acknowledgement -/

/-- A parity acknowledgement reaches its issuer (R350). -/
def acknowledgeParity (s : State) (d : Delta) : State :=
  match d.issuer with
  | .slot g _ => if d.orphan then s else s.mapSlot g fun t => { t with parityOut := t.parityOut - 1 }
  | .copy p c x _ _ => if d.orphan then s else s.mapCell p c fun t =>
      { t with ctxs := Table.put t.ctxs x.toNat { Table.get {} t.ctxs x.toNat with
          parityOut := (Table.get ({} : CopyCtx) t.ctxs x.toNat).parityOut - 1 } }
  | .host n => s.mapPkg (hostPkg n) fun k => k.released n
  | .hub => s

/-- A parity acknowledgement can no longer arrive (R355): the slot's next release at `.sv` reports it, a copy that waits
for it stops, and SVDONE reads 2 (R401). -/
def loseParity (s : State) (d : Delta) : State :=
  match d.issuer with
  | .slot g _ =>
    if d.orphan then s
    else s.mapSlot g fun t => { t with parityOut := t.parityOut - 1, parityLost := t.parityLost.orElse fun _ => some d.addr }
  | .copy p c x launch _ =>
    if d.orphan then s
    else
    let s := acknowledgeParity s d
    let q := (s.cellAt p c).ctxAt x
    (match q.mode, q.cur with
    | .busy, some l => if l.flagBit 4 && l.id == launch then faultCtx s p c x .fenced d.addr else s
    | _, _ => s)
  | .host n => s.mapPkg (hostPkg n) fun k => k.lostWrite n
  | .hub => s

/-! ## Draining a colour -/

/-- The listed slots of a partition's rectangle. -/
def State.partSlots (s : State) (p : PkgId) (q : Part) : List (GRef × Slot) :=
  ((s.pkgAt p).allSlots p).filter fun e => q.hasCell e.1.cell

/-- Whether a delta's issuer lies in a rectangle. -/
def Issuer.inside (i : Issuer) (p : PkgId) (q : Part) : Bool :=
  match i with
  | .slot g _ => g.pkg == p && q.hasCell g.cell
  | .copy p' c _ _ _ => p' == p && q.hasCell c
  | _ => false

/-- The colour of a write (R376). -/
def Issuer.colour (i : Issuer) : Option (BitVec 4) :=
  match i with
  | .slot _ c => some c
  | .copy _ _ _ _ c => some c
  | _ => none

/-- Whether an operation counts for its colour: it is on the networks (R376). -/
def Op.counts (o : Op) (c : BitVec 4) : Bool := o.colour == c && match o.act with | .value | .launch _ => false | _ => true

/-- Whether a copy context counts for a colour: it has accepted a copy of it, and stands in no fault (R376). -/
def CopyCtx.counts (x : CopyCtx) (c : BitVec 4) : Bool :=
  x.mode != .faulted && ((x.cur.toList ++ x.queue).any fun l => l.colour == c)

/-- Whether a delta counts for a colour in a rectangle: its issuer still awaits the parity acknowledgement (R376). -/
def Delta.counts (d : Delta) (p : PkgId) (q : Part) (c : BitVec 4) : Bool :=
  !d.orphan && d.issuer.inside p q && d.issuer.colour == some c

/-- Whether an element of a stream counts for a colour: some of it is on the networks (R376). -/
def StreamFlight.counts (f : StreamFlight) (c : BitVec 4) : Bool :=
  f.colour == c && f.units.any fun u => !u.done && u.path != .local

/-- The cells of a rectangle that have issued what a delta stands for. -/
def Issuer.cell (i : Issuer) : Option CellId :=
  match i with
  | .slot g _ => some g.cell
  | .copy _ c _ _ _ => some c
  | _ => none

/-- The cells of a partition with operations, copies, stream elements or protected writes of a colour under way: their routers do not read zero
for it (R376). -/
def busyCells (s : State) (p : PkgId) (q : Part) (c : BitVec 4) : List CellId :=
  (((s.partSlots p q).filter fun e => e.2.ops.any fun o => o.counts c).map (·.1.cell) ++
    ((s.pkgAt p).cells.filter fun e => q.hasCell (BitVec.ofNat 12 e.1) &&
      ((e.2.ctxs.any fun x => x.2.counts c) || e.2.streams.any fun x => x.2.flight.any fun f => f.counts c)).map
      (fun e => BitVec.ofNat 12 e.1) ++
    s.pkgs.flatMap fun k => (k.2.deltas.filter fun d => d.counts p q c).filterMap (·.issuer.cell)).eraseDups

/-- Whether every router of a partition reads zero for a colour (R376). -/
def colourDrained (s : State) (p : PkgId) (q : Part) (c : BitVec 4) : Bool := (busyCells s p q c).isEmpty

/-- An operation whose packets are discarded completes with FENCED; whether its request had been performed before is open
(R377). -/
def discardOp (s : State) (g : GRef) (o : Op) : State :=
  let a := (((o.units.head?).bind (·.elts.head?)).map (·.addr)).getD (lookup o.got 0)
  let passed := Config.hadPassed s.free
  let s := s.draw
  let s := if passed && o.live then
      (List.range o.units.length).foldl (fun s j => match s.opOf g o.id with
        | some o' => if o'.live && ((o'.units[j]?).map (·.done)) == some false then performUnit s g o.id j else s
        | none => s) s
    else s
  (s.unwait g o).mapOp g o.id fun o =>
    { o with performed := true, waiting := false, resend := false, held := false, shadow := false
             fault := some { kind := .fenced, sector := a } }

/-- The parity acknowledgements of a colour will no longer reach the cells of a rectangle: who waits for one gets FENCED (R377,
R355). The deltas themselves are not refused (R374). -/
def discardParity (s : State) (p : PkgId) (q : Part) (c : BitVec 4) : State :=
  let lost := s.pkgs.flatMap fun k => k.2.deltas.filter fun d => d.counts p q c
  (lost.foldl loseParity s).orphanDeltas fun i => i.inside p q && i.colour == some c

/-- Discards what is left of a colour in a partition (R377 step 3): operations complete with FENCED, copies stop. DIRTY counts
the routers that do not read zero: those of the cells that have something of the colour under way, and any others that hold
one of its packets, which is open (log 13). -/
def forceDrain (s : State) (p : PkgId) (q : BitVec 3) (c : BitVec 4) : State :=
  let part := (s.pkgAt p).part q
  let busy := (busyCells s p part c).length
  let s := (s.partSlots p part).foldl (fun s e =>
    (e.2.ops.filter fun o => o.counts c).foldl (fun s o => discardOp s e.1 o) s) s
  let s := (s.pkgAt p).cells.foldl (fun s e =>
    if part.hasCell (BitVec.ofNat 12 e.1) then
      e.2.ctxs.foldl (fun s x =>
        if x.2.counts c then
          let n : BitVec 2 := BitVec.ofNat 2 x.1
          faultCtx (startCopy s p (BitVec.ofNat 12 e.1) n) p (BitVec.ofNat 12 e.1) n .fenced 0
        else s) s
    else s) s
  let s := (s.pkgAt p).cells.foldl (fun s e =>
    if part.hasCell (BitVec.ofNat 12 e.1) then
      e.2.streams.foldl (fun s x => match x.2.flight.findIdx? fun f => f.counts c with
        | some i => discardElement s p (BitVec.ofNat 12 e.1) x.1 i
        | none => s) s
    else s) s
  let s := discardParity s p part c
  let others := (Config.freeWord s.free).toNat % (part.cells.length - busy + 1)
  s.draw.mapPart p q fun x =>
    { x with retired := x.retired ||| BitVec.ofNat 16 (2 ^ c.toNat), dirty := BitVec.ofNat 16 (busy + others) }

/-- The deadline of a drain: 100 µs of %TIME (R377). -/
def drainLimit : Nat := 100000

/-! ## RESET -/

/-- The channels that slots of a rectangle publish or have joined (R375). -/
def joinedChans (s : State) (p : PkgId) (q : Part) : List (BitVec 12) :=
  (s.partSlots p q).flatMap fun e =>
    e.2.publishing.toList ++ e.2.subscribed.toList ++ e.2.inbox.map (·.chan) ++
      (match e.2.wait with | some { what := .join c _, .. } => [c] | _ => [])

/-- Frees channels (R375): whoever still publishes on one does so no longer. -/
def freeChans (s : State) (p : PkgId) (cs : List (BitVec 12)) : State :=
  s.mapPkg p fun k =>
    { k.mapSlots fun _ _ t => { t with publishing := t.publishing.filter fun c => !cs.contains c } with
      chans := k.chans.filter fun e => !cs.any fun c => c.toNat == e.1 }

/-- Steps 1 to 4 of R375. Records that wait in the cells are posted all the same (R363). -/
def beginReset (s : State) (p : PkgId) (q : BitVec 3) (opening : Bool) : State :=
  let part := (s.pkgAt p).part q
  let chans := joinedChans s p part
  let s := (abortPlacement s p q false).mapPart p q fun x =>
    { x with mode := .resetting, opening := opening, switchAt := (s.pkgAt p).time, stuck := none, forced := false }
  let s := (s.pkgAt p).graphs.foldl (fun s e =>
    if e.2.mode = .resident ∧ e.2.loadPart = q then teardown s p (BitVec.ofNat 6 e.1) else s) s
  let s := killSlots s ((s.partSlots p part).map (·.1))
  let s := (s.pkgAt p).cells.foldl (fun s e =>
    if part.hasCell (BitVec.ofNat 12 e.1) then
      e.2.ctxs.foldl (fun s x => abortCtx s p (BitVec.ofNat 12 e.1) (BitVec.ofNat 2 x.1)) s
    else s) s
  freeChans s p chans

/-- A cell after its reset (R375 step 6). What its slots had sent goes on without them; requests of other cells that wait at the
cell, and operations that have arrived for its slots, stay. -/
def Cell.wiped (t : Cell) (active : Bool) : Cell :=
  { active := active, waiters := t.waiters
    slots := t.slots.map fun e => (e.1, { ops := e.2.ops, nextOp := e.2.nextOp, ctl := e.2.ctl }) }

/-- Resets the cells of a rectangle. -/
def wipeCells (s : State) (p : PkgId) (q : Part) (active : Bool) : State :=
  let cs := q.cells
  let s := (s.orphanDeltas fun i => i.inside p q).mapPkg p fun k => cs.foldl (fun (k : Pkg) c => k.mapCell c fun t => t.wiped active) k
  cs.foldl (fun s c => s.settle p c) s

/-- Starts a slot of a partition at an entry (R371). -/
def startAt (s : State) (q : Part) (g : GRef) (base lim : Nat) (entry : Word) (priv : Bool) : State :=
  let now := s.cycleAt g.pkg
  startSlot s g (BitVec.ofNat 11 base) (BitVec.ofNat 8 lim) fun t =>
    { t with mode := .run, head := entry, pid := q.pid, priv := priv, hold := some { why := .start, till := now + 64 } }

/-- LEAD PROGRAMS AND SUPERVISOR of a partition start (R371). -/
def startLeads (s : State) (p : PkgId) (q : BitVec 3) : State :=
  let part := (s.pkgAt p).part q
  let lead := part.word 6
  let inside := !part.hostSup && !part.superOutside p
  let s := if lead = 0 then s
    else part.cells.foldl (fun s c =>
      let g : GRef := { pkg := p, cell := c, slot := 0 }
      if inside && part.super == g then s else startAt s part g 0 (part.field 4 8 8) lead (s.isSuper g)) s
  if part.hostSup then s
  else if inside then
    let base := if part.super.slot = 0 ∨ lead = 0 then 0 else part.field 4 8 8
    startAt s part part.super base (part.field 4 16 8) (part.word 7) true
  else s.mapSlot part.super fun t => { t with priv := true }

/-- RESET (R375). -/
def execReset (p : PkgId) (q : BitVec 3) (s : State) : Host.Outcome State Fault Refusal :=
  occur <| beginCmd s p q 7 fun s _ =>
    let m := ((s.pkgAt p).part q).mode
    if m = .active ∨ m = .fenced then beginReset s p q false else completeCmd s p q 0 1

/-- Whether the reset of a partition waits for an operation on one of its slots that must be answered first, for a killed slot
that has not exited (R366), or for a graph that is not yet FREE (R312). -/
def resetBusy (s : State) (p : PkgId) (q : BitVec 3) : Bool :=
  ((s.partSlots p ((s.pkgAt p).part q)).any fun e =>
    e.2.evict != .none || e.2.ctl.isSome || e.2.dying || e.2.killer.isSome) ||
  (s.pkgAt p).graphs.any fun e => e.2.loadPart == q && e.2.mode == .tearing

/-- PARTITION_RESET_COMPLETE: the colour has drained, which the deadline forces; the cells are reset and the lead programs start
(R375, R371, R373). -/
def execPartitionResetComplete (p : PkgId) (q : BitVec 3) (s : State) : Host.Outcome State Fault Refusal :=
  occur <|
    let k := s.pkgAt p
    let part := k.part q
    if part.mode ≠ .resetting then s
    else if resetBusy s p q || !colourDrained s p part part.colour then
      if !part.forced && decide (part.switchAt + drainLimit ≤ k.time) then
        (forceDrain s p q part.colour).mapPart p q fun x => { x with forced := true }
      else s
    else
      let s := wipeCells s p part true
      let s := s.mapPart p q fun x => { x with mode := if part.opening then .active else .fenced, opening := false }
      let s := startLeads s p q
      if part.opening then s else completeCmd s p q 0 (if part.forced then 5 else 0)

/-! ## SWITCH -/

/-- Whether another open entry holds a colour, as current or retired (R370, R377). -/
def Pkg.colourTaken (k : Pkg) (q : BitVec 3) (c : BitVec 4) : Bool :=
  k.openParts.any fun e => e.1 != q.toNat && (e.2.colour == c || e.2.retired.getLsbD c.toNat)

/-- SWITCH (R377). -/
def execSwitch (p : PkgId) (q : BitVec 3) (s : State) : Host.Outcome State Fault Refusal :=
  occur <| beginCmd s p q 8 fun s c =>
    let k := s.pkgAt p
    let part := k.part q
    let still (t : Slot) : Bool := t.mode == .idle || t.mode == .exited || t.mode == .trapped || t.mode == .spilled
    let new : BitVec 4 := c.arg.setWidth 4
    if (part.mode ≠ .active ∧ part.mode ≠ .fenced) ∨ !((s.partSlots p part).all fun e => still e.2) then
      completeCmd s p q 0 1
    else if k.colourTaken q new then completeCmd s p q 0 2
    else (abortPlacement s p q false).mapPart p q fun x => { x with mode := .switching, newColour := new, switchAt := k.time }

/-- Ends a switch in a state, with its STATUS. -/
def endSwitch (s : State) (p : PkgId) (q : BitVec 3) (m : PartMode) (status : Byte) : State :=
  let s := s.mapPart p q fun x => { x with mode := m, colour := x.newColour }
  completeCmd (startPlacement s p q false) p q 0 status

/-- SWITCH_DRAIN_COMPLETE (R377 step 2). -/
def execSwitchDrainComplete (p : PkgId) (q : BitVec 3) (s : State) : Host.Outcome State Fault Refusal :=
  occur <|
    let part := (s.pkgAt p).part q
    if part.mode = .switching ∧ colourDrained s p part part.colour then endSwitch s p q .active 0 else s

/-- SWITCH_DEADLINE: the switch is forced (R377 step 3). -/
def execSwitchDeadline (p : PkgId) (q : BitVec 3) (s : State) : Host.Outcome State Fault Refusal :=
  occur <|
    let k := s.pkgAt p
    let part := k.part q
    if part.mode = .switching ∧ part.switchAt + drainLimit ≤ k.time ∧ !colourDrained s p part part.colour then
      endSwitch (forceDrain s p q part.colour) p q .fenced 5
    else s

/-! ## OPEN and CLOSE -/

/-- The result of a command of the management window (R402). -/
def State.result (s : State) (p : PkgId) (r : Byte) : State := s.mapPkg p fun k => { k with mresult := r }

/-- Whether two rectangles share a cell. -/
def Part.meets (a b : Part) : Bool :=
  windowsMeet (a.field 0 0 6) (a.field 0 16 7) (b.field 0 0 6) (b.field 0 16 7) &&
  windowsMeet (a.field 0 8 6) (a.field 0 24 7) (b.field 0 8 6) (b.field 0 24 7)

/-- Whether a limit and an entry of a program to start are malformed (R370). -/
def badStart (lim : Nat) (entry : Word) : Bool := !goodLim lim || !codeWindow entry || entry.toNat % 4 != 0

/-- The checks of OPEN that refuse an entry (R370). -/
def Pkg.openRefused (k : Pkg) (p : PkgId) (q : BitVec 3) : Bool :=
  let x := k.part q
  decide (64 < x.field 0 0 6 + x.field 0 16 7) || decide (64 < x.field 0 8 6 + x.field 0 24 7) ||
  (k.openParts.any fun e => e.1 != q.toNat && e.2.meets x) || k.colourTaken q x.colour ||
  (x.word 2).toNat % 2 ^ 15 != 0 || (x.word 3).toNat % 4096 != 0 ||
  (!x.hostSup && x.field 1 28 8 != k.domain.toNat) ||
  (x.word 6 != 0 && badStart (x.field 4 8 8) (x.word 6)) ||
  (!x.hostSup && !x.superOutside p && badStart (x.field 4 16 8) (x.word 7))

/-- OPEN (R370, R375): the entry is checked, and its cells are reset. -/
def execPartOpen (p : PkgId) (q : BitVec 3) (s : State) : Host.Outcome State Fault Refusal :=
  occur <|
    let k := s.pkgAt p
    if k.bringUp ≠ .ready then s
    else if (k.part q).mode ≠ .free then s.result p 1
    else if k.openRefused p q then s.result p 2
    else
      let s := s.mapPart p q fun x =>
        { x with retired := 0, postStopped := false, cmd := none, doorbell := false, polled := k.time, place := none, stuck := none }
      (beginReset s p q true).result p 0

/-- Whether a partition may be closed: every slot IDLE, every graph FREE (R373). -/
def closable (s : State) (p : PkgId) (q : BitVec 3) : Bool :=
  let k := s.pkgAt p
  let x := k.part q
  (x.mode == .active || x.mode == .fenced) && ((s.partSlots p x).all fun e => e.2.mode == .idle) &&
  !(k.graphs.any fun e => e.2.loadPart == q && e.2.mode != .free)

/-- A slot outside the rectangle loses the privilege bit when its partition is no longer open, unless it is the SUPER slot of
another (R14, R371). -/
def State.dropSuper (s : State) (x : Part) : State :=
  if x.hostSup || s.isSuper x.super then s else s.mapSlot x.super fun t => { t with priv := false }

/-- CLOSE (R371, R373). -/
def execClose (p : PkgId) (q : BitVec 3) (s : State) : Host.Outcome State Fault Refusal :=
  occur <|
    let k := s.pkgAt p
    let x := k.part q
    if k.bringUp ≠ .ready then s
    else if !closable s p q then s.result p 1
    else
      let s := wipeCells s p x false
      let s := s.mapPart p q fun x => { x with mode := .free, retired := 0, cmd := none }
      (s.dropSuper x).result p 0

end Sys2Proof.Machine
end

