-- ==== Sys2Proof/Machine/Redundancy.lean ====
section
/-! DEFINITION. Redundant groups (R378, R379): the comparison of a primary's operations with its twin's. -/

namespace Sys2Proof.Machine

/-- An operation is not performed, and its slot traps REDUNDANCY. A launch that its CPGO will make again is dropped. -/
def failCompare (s : State) (g : GRef) (o : Op) (code n : Nat) : State :=
  let s := faultOp s g o (redundancyFault code n)
  match o.act with
  | .launch _ =>
    if (s.slotAt g).replay.any (·.id == o.id) then s
    else s.mapCell g.pkg g.cell fun c =>
      { c with ctxs := c.ctxs.map fun (e : Nat × CopyCtx) =>
          (e.1, { e.2 with unaccepted := e.2.unaccepted.filter fun l => !(l.slot == g.slot && l.opId == o.id) }) }
  | _ => s

/-- The operation of a primary that is held under a number. -/
def State.heldOp (s : State) (g : GRef) (n : Nat) : Option Op :=
  (s.slotAt g).ops.find? fun x => x.held && (x.num.map (·.1)) == some n

/-- TWIN_HASH_ARRIVAL: the hash of a twin's operation reaches the primary's router, which compares (R379). -/
def execTwinHashArrival (g : GRef) (op : Nat) (s : State) : Host.Outcome State Fault Refusal :=
  occur <| match s.opOf g op, (s.slotAt g).member with
  | some o, some m =>
    if m.twin && o.shadow && !o.performed then
      match m.partner, o.num with
      | some w, some (n, h) =>
        match s.heldOp w n with
        | none => s
        | some x =>
          if (x.num.map (·.2)) = some h then s.mapOp w x.id fun x => { x with held := false }
          else failCompare (failCompare s w x 1 n) g o 1 n
      | _, _ => s
    else s
  | _, _ => s

/-- The cycles within which a twin's hash must arrive (R379). -/
def hashLimit : Nat := 4096

/-- TWIN_HASH_TIMEOUT: no hash has arrived for a primary's operation in time (R379 code 2). -/
def execTwinHashTimeout (g : GRef) (s : State) : Host.Outcome State Fault Refusal :=
  occur <|
    match (s.slotAt g).ops.find? fun x => x.held && decide (x.since + hashLimit ≤ s.cycleAt g.pkg) with
    | some x => failCompare s g x 2 ((x.num.map (·.1)).getD 0)
    | none => s

end Sys2Proof.Machine
end

