-- ==== Sys2Proof/Machine/Protection.lean ====
section
/-! DEFINITION. Protection groups (R341-R358): the commands of the group record, the delta protocol, reconstruction,
scrubbing, the loss of a member and the rebuild. -/

namespace Sys2Proof.Machine

/-! ## Commands -/

/-- Changes a protection group record. -/
def State.mapProt (s : State) (p : PkgId) (f : ProtGroup → ProtGroup) : State := s.mapPkg p fun k => { k with prot := f k.prot }

/-- Sets RESULT of a group record. -/
def State.protResult (s : State) (p : PkgId) (r : Byte) : State := s.mapProt p fun g => { g with result := r }

/-- The member field as it stands in the record, its reserved bits included. -/
def ProtGroup.memberField (g : ProtGroup) (m : Nat) : Nat := g.field (2 + m / 4) (16 * (m % 4)) 16

/-- Whether the group record of a package is malformed (R342). -/
def State.protMalformed (s : State) (p : PkgId) : Bool :=
  let g := (s.pkgAt p).prot
  let k := g.members
  let ms := List.range k
  decide (k < 2) || (g.isPq && decide (k < 3)) || decide (g.frames < k) || decide (Config.hbmBytes < g.tags + 256 * g.frames) ||
  (ms.any fun m => decide (4096 ≤ g.memberField m)) || !allDistinct (ms.map g.memberField) || decide (k ≤ g.me) ||
  g.member g.me != p || ms.any fun m => !(s.hasPkg (g.member m) && (s.pkgAt (g.member m)).domain == (s.pkgAt p).domain)

/-- A command of the group record: the management window takes it in READY (R342, R402). -/
def protCommand (p : PkgId) (s : State) (body : State → State) : Host.Outcome State Fault Refusal :=
  occur (if (s.pkgAt p).bringUp = .ready then body s else s)

/-- ENABLE (R343). -/
def execEnable (p : PkgId) (s : State) : Host.Outcome State Fault Refusal :=
  protCommand p s fun s =>
    if (s.pkgAt p).prot.mode ≠ .off then s.protResult p 1
    else if s.protMalformed p then s.protResult p 2
    else
      let s := s.mapProt p fun g => { g with mode := .init, lost := 0, cursor := 0, rebuilt := [], silent := [], spares := [] }
      (s.mapPkg p fun k => { k with lost := false }).protResult p 0

/-- PROTECTION_INIT_COMPLETE: every frame and tag has been zeroed (R343). -/
def execProtectionInitComplete (p : PkgId) (s : State) : Host.Outcome State Fault Refusal :=
  occur <|
    let g := (s.pkgAt p).prot
    if g.mode = .init then
      (s.mapPkg p fun k =>
        { k with hbm := k.hbm.filter fun e => !g.inArea e.1, hbmPoison := k.hbmPoison.filter fun x => !g.inArea (32 * x) }).mapProt p
        fun g => { g with mode := .normal }
    else s

/-- DISABLE (R343). -/
def execDisable (p : PkgId) (s : State) : Host.Outcome State Fault Refusal :=
  protCommand p s fun s =>
    let m := (s.pkgAt p).prot.mode
    if m = .normal ∨ m = .failed then (s.mapProt p fun g => { g with mode := .off, lost := 0, cursor := 0 }).protResult p 0
    else s.protResult p 1

/-- The surviving members of a group, as packages: those that have not been declared lost (R343, R353). -/
def ProtGroup.survivors (g : ProtGroup) : List PkgId := ((List.range g.members).filter fun m => !g.isLost m).map g.member

/-- The members that take a command written to a record of package `p`, and go with it from state to state: every survivor,
unless `p` itself has been declared lost, whose record then stands alone (R343). -/
def State.party (s : State) (p : PkgId) (g : ProtGroup) : List PkgId := if (s.pkgAt p).lost then [p] else g.survivors

/-- Changes the records of packages. -/
def State.mapProts (s : State) (ps : List PkgId) (f : ProtGroup → ProtGroup) : State := ps.foldl (fun s p => s.mapProt p f) s

/-- Discards the waiting hub writes that a test picks: they are not performed, and those of the host are reported like a
translation fault (R398). -/
def dropHubWrites (s : State) (pick : PkgId → HubWrite → Bool) : State :=
  let gone := s.pkgs.flatMap fun (e : Nat × Pkg) =>
    let p : PkgId := BitVec.ofNat 12 e.1
    (e.2.hubWrites.filter fun w => w.isWrite && pick p w).map fun w => (p, w)
  let s := gone.foldl (fun (s : State) (e : PkgId × HubWrite) => refuseWrite s e.1 e.2 { kind := .fenced, sector := e.2.addr }) s
  { s with pkgs := s.pkgs.map fun (e : Nat × Pkg) =>
    (e.1, { e.2 with hubWrites := e.2.hubWrites.filter fun w => !(w.isWrite && pick (BitVec.ofNat 12 e.1) w) }) }

/-! ## The loss of a member -/

/-- Whether an operation addresses a package (R355, R388). -/
def Op.goesTo (o : Op) (m : PkgId) : Bool :=
  (match o.act with | .wake w => w.pkg == m | _ => false) || o.units.any fun u => u.elts.any fun e => e.loc.pkg == m

/-- The operations that slots of a package have sent to another one, which has not answered them, complete with FENCED (R355,
R388). -/
def fenceOps (m : PkgId) (s : State) (p : PkgId) : State :=
  ((s.pkgAt p).allSlots p).foldl (fun (s : State) (e : GRef × Slot) =>
    (e.2.ops.filter fun o => o.goesTo m).foldl (fun s o => discardOp s e.1 o) s) s

/-- Where a delta stands once a member has been declared lost: it is sent again to the holder that is left, and counts as
acknowledged where none is, as does a forward to a lost holder (R354). -/
def ProtGroup.restage (g : ProtGroup) (now : Nat) (d : Delta) : Delta :=
  let p := !g.isLost (g.holderP d.frame)
  let q := match g.holderQ d.frame with | some h => !g.isLost h | none => false
  let again : Delta := if q then { d with stage := .toQ, since := now } else { d with stage := .parityAck }
  match d.stage with
  | .toP | .ack => if p then d else again
  | .forwarded => if !p then again else if q then d else { d with stage := .ack }
  | .toQ => if q then d else { d with stage := .parityAck }
  | .parityAck => d

/-- What a survivor still sends once a member has been declared lost (R354): its deltas, and as P holder its forwards, also
those for a lost member, unless the Q holder is lost. -/
def ProtGroup.resend (g : ProtGroup) (k : Pkg) : Pkg :=
  { k with deltas := k.deltas.map (g.restage k.time)
           forwards := k.forwards.filter fun x => match g.holderQ x.frame with | some h => !g.isLost h | none => false }

/-- A surviving member takes a command that another one was given, where the table of R343 lists it for its state. -/
def State.carry (s : State) (ps : List PkgId) (ok : ProtMode → Bool) (f : PkgId → State → State) : State :=
  ps.foldl (fun s p => if ok (s.pkgAt p).prot.mode then f p (s.protResult p 0) else s.protResult p 1) s

/-- What a member's loss ends (R354, R355): its protected writes have no parity acknowledgement to come, what waited on it
completes with FENCED, and nothing reaches it any more. -/
def loseMember (s : State) (lost : PkgId) : State :=
  let out := ((s.gone.filter fun e => e.1 == lost).map (·.2)) ++ (s.pkgAt lost).deltas
  let s := out.foldl loseParity s
  let s := ({ s with gone := s.gone.filter fun e => e.1 != lost } : State).mapPkg lost fun k =>
    { k with deltas := [], forwards := [], lost := true }
  let s := (s.pkgs.filter fun e => e.1 != lost.toNat).foldl (fun s e => fenceOps lost s (BitVec.ofNat 12 e.1)) s
  dropHubWrites s fun q w => w.loc.pkg == lost && q != lost

/-- DECLARE: every survivor enters QUIESCING and sends again what is unacknowledged; what waited on the lost member is
settled (R343, R354, R355). Written to a member that is itself lost it reaches no other. -/
def execDeclare (p : PkgId) (m : BitVec 4) (s : State) : Host.Outcome State Fault Refusal :=
  protCommand p s fun s =>
    let g := (s.pkgAt p).prot
    let listed (x : ProtMode) : Bool := x == .normal || x == .degraded || x == .rebuilding
    if listed g.mode = false then s.protResult p 1
    else if g.members ≤ m.toNat ∨ g.isLost m.toNat then s.protResult p 5
    else
      let alone := (s.pkgAt p).lost
      let g' := { g with lost := g.lost ||| BitVec.ofNat 16 (2 ^ m.toNat) }
      let s := s.carry (s.party p g') listed fun p s =>
        (s.mapProt p fun x => { x with mode := .quiescing, lost := g'.lost, cursor := 0, rebuilt := [], spares := [] }).mapPkg p g'.resend
      (if alone then s else loseMember s (g.member m.toNat)).protResult p 0

/-- Whether the drain of a group is complete: none of its members has a delta or a forward outstanding (R354). -/
def State.quiet (s : State) (ps : List PkgId) : Bool :=
  ps.all fun p => (s.pkgAt p).forwards.isEmpty && (s.pkgAt p).deltas.all fun d => d.stage == .parityAck

/-- The losses that a scheme survives (R341). -/
def ProtGroup.survives (g : ProtGroup) : Nat := if g.isPq then 2 else 1

/-- The number of members declared lost. -/
def ProtGroup.losses (g : ProtGroup) : Nat := ((List.range g.members).filter g.isLost).length

/-- QUIESCE_DRAIN_COMPLETE: the group enters DEGRADED, or FAILED (R354, R358). -/
def execQuiesceDrainComplete (p : PkgId) (s : State) : Host.Outcome State Fault Refusal :=
  occur <|
    let g := (s.pkgAt p).prot
    let ps := (s.party p g).filter fun x => (s.pkgAt x).prot.mode == .quiescing
    if g.mode = .quiescing ∧ s.quiet ps then
      let failed := decide (g.survives < g.losses)
      let s := s.mapProts ps fun x => { x with mode := if failed then .failed else .degraded }
      if failed then dropHubWrites s fun _ w => w.loc.prot && ps.contains w.loc.pkg else s
    else s

/-! ## The delta protocol -/

/-- PARITY_DELTA: a delta arrives at the P holder (R347). -/
def execParityDelta (p : PkgId) (x : Nat) (s : State) : Host.Outcome State Fault Refusal :=
  occur <| match (s.pkgAt p).deltaAt x with
  | some d => if d.stage = .toP then arriveAtP s p d else s
  | none => s

/-- DELTA_FORWARD: a forward of a P holder arrives at the Q holder (R347), or a delta whose P holder is lost (R354). -/
def execDeltaForward (p : PkgId) (x : Nat) (s : State) : Host.Outcome State Fault Refusal :=
  occur <| match (s.pkgAt p).forwardAt x, (s.pkgAt p).deltaAt x with
  | some f, _ => arriveAtQ s p f
  | none, some d => if d.stage = .toQ then arriveStraight s p d else s
  | none, none => s

/-- The holder that acknowledges a delta: P's, or Q's where P is lost (R347, R354). -/
def ProtGroup.acknowledger (g : ProtGroup) (d : Delta) : Nat :=
  if g.isLost (g.holderP d.frame) then (g.holderQ d.frame).getD (g.holderP d.frame) else g.holderP d.frame

/-- DELTA_ACKNOWLEDGEMENT: the delta is no longer outstanding, and the parity acknowledgement sets out (R347). -/
def execDeltaAcknowledgement (p : PkgId) (x : Nat) (s : State) : Host.Outcome State Fault Refusal :=
  occur <| match (s.pkgAt p).deltaAt x with
  | some d =>
    let g := (s.pkgAt p).prot
    if d.stage = .ack ∧ s.answers (g.member (g.acknowledger d)) p then s.stageDelta p x .parityAck else s
  | none => s

/-- The package of the issuer of a write. -/
def Issuer.pkg (i : Issuer) : Option PkgId :=
  match i with
  | .slot g _ => some g.pkg
  | .copy p _ _ _ _ => some p
  | .host n => some (hostPkg n)
  | .hub => none

/-- Whether a parity acknowledgement of package `p` reaches the issuer, or has none to reach (R386). -/
def State.toIssuer (s : State) (p : PkgId) (i : Issuer) : Bool :=
  match i.pkg with
  | some q => s.answers p q || !s.hasPkg q
  | none => true

/-- PARITY_ACKNOWLEDGEMENT: it reaches the issuer (R347, R350). -/
def execParityAcknowledgement (p : PkgId) (x : Nat) (s : State) : Host.Outcome State Fault Refusal :=
  occur <| match (s.pkgAt p).deltaAt x with
  | some d =>
    if d.stage = .parityAck ∧ s.toIssuer p d.issuer then
      acknowledgeParity (s.mapPkg p fun k => { k with deltas := k.deltas.filter (·.id != x) }) d
    else s
  | none => s

/-- The time after which an unanswered member counts as silent: 1 ms (R353). -/
def silenceLimit : Nat := 1000000

/-- Whether a reconstruction that package `q` has asked for waits on package `m` for an answer to `p`: `q` on the holder that
coordinates it, that holder on the members that it reads (R352, R353). -/
def State.asksOf (s : State) (q : PkgId) (sector : Nat) (p m : PkgId) : Bool :=
  let g := (s.pkgAt q).prot
  let c := s.coordinator q sector
  s.canReconstruct q sector &&
    ((p == q && m == c && c != q) ||
      (p == c && (!s.answers c m || (s.pkgAt m).prot.mode == .off) && (s.helpers g (g.place sector).1 (g.place sector).2 g.me).any fun i => g.member i == m))

/-- Whether package `p` waits on package `m` for an answer for too long: to a delta that it sent, to a forward that it sent as
P holder, or to a request of a reconstruction (R353). -/
def State.waitsOn (s : State) (p m : PkgId) : Bool :=
  let k := s.pkgAt p
  let g := k.prot
  let late (since now : Nat) : Bool := decide (since + silenceLimit ≤ now)
  (k.deltas.any fun d => late d.since k.time && d.stage != .parityAck && g.member (g.acknowledger d) == m) ||
  (k.forwards.any fun x => late x.since k.time && (g.holderQ x.frame).map g.member == some m) ||
  s.pkgs.any fun e => e.2.asked.any fun a => late a.2 e.2.time && s.asksOf (BitVec.ofNat 12 e.1) a.1 p m

/-- DELTA_SILENCE: a silent member is reported to the host, and once more when it has answered and falls silent again (R353,
R402). -/
def execDeltaSilence (p : PkgId) (m : PkgId) (s : State) : Host.Outcome State Fault Refusal :=
  occur <|
    if s.waitsOn p m && !(s.pkgAt p).prot.silent.has m.toNat then
      s.mapPkg p fun k =>
        let k := { k with prot := { k.prot with silent := k.prot.silent.insert m.toNat }
                          mevent := k.mevent &&& ~~~(0xFFF0000 : Word) }
        k.notice (2 + m.toNat * 2 ^ 16)
    else if s.waitsOn p m then s
    else s.mapProt p fun g => { g with silent := g.silent.erase m.toNat }

/-! ## Reconstruction and scrubbing -/

/-- SECTOR_RECONSTRUCTION: a poisoned sector is reconstructed (R352), or its request waits for the members that it needs
(R353). -/
def execSectorReconstruction (p : PkgId) (sector : Nat) (s : State) : Host.Outcome State Fault Refusal :=
  occur <|
    if s.reconstructs p sector then
      (reconstruct s p sector).mapPkg p fun k => { k with asked := Table.del k.asked sector }
    else if s.canReconstruct p sector && (Table.find (s.pkgAt p).asked sector).isNone then
      s.mapPkg p fun k => { k with asked := Table.put k.asked sector k.time }
    else s

/-- PATROL_SCRUB: a unit is read; one with an error that cannot be corrected is marked poisoned (R336, R337, R339). -/
def execPatrolScrub (p : PkgId) (u : ScrubUnit) (bad : Bool) (s : State) : Host.Outcome State Fault Refusal :=
  occur <|
    if !bad then s
    else match u with
    | .spad c n => if n < 0x40000 then s.mapCell p c fun t => { t with spadPoison := t.spadPoison.insert n } else s
    | .bstore c n => if n < 0x20000 then s.mapCell p c fun t => { t with bPoison := t.bPoison.insert n } else s
    | .sreg g r => if g.pkg = p ∧ r ≠ 0 then s.mapSlot g fun t => { t with sPoison := t.sPoison.insert r.toNat } else s
    | .vreg c n => if n < 0x8000 then s.mapCell p c fun t => { t with vPoison := t.vPoison.insert n } else s
    | .acc c n => if n < 0x2000 then s.mapCell p c fun t => { t with accPoison := t.accPoison.insert n } else s
    | .opbuf c n => if n < 0x40000 then s.mapCell p c fun t => { t with opBad := t.opBad.insert n } else s
    | .hbm n => s.mapPkg p fun k => if 32 * n < k.capacity false then { k with hbmPoison := k.hbmPoison.insert n } else k
    | .ddr n => s.mapPkg p fun k => if 32 * n < k.capacity true then { k with ddrPoison := k.ddrPoison.insert n } else k

/-! ## The rebuild -/

/-- The lost members of a group, in ascending number. -/
def ProtGroup.lostMembers (g : ProtGroup) : List Nat := (List.range g.members).filter g.isLost

/-- SPARE0 and SPARE1 (R342). -/
def ProtGroup.spare (g : ProtGroup) (i : Nat) : PkgId := BitVec.ofNat 12 (g.field 6 (24 + 12 * i) 12)

/-- Whether a package is a suitable spare for a lost member (R356). -/
def State.suitable (s : State) (p : PkgId) (g : ProtGroup) (m : Nat) (x : PkgId) : Bool :=
  let r := (s.pkgAt x).prot
  s.hasPkg x && (s.pkgAt x).domain == (s.pkgAt p).domain && !((List.range g.members).any fun i => g.member i == x) &&
  r.mode == .off && r.members == g.members && r.isPq == g.isPq && r.frames == g.frames && r.base == g.base &&
  ((List.range 16).all fun i => r.memberField i == g.memberField i) && r.me == m

/-- REBUILD (R356). -/
def execRebuild (p : PkgId) (s : State) : Host.Outcome State Fault Refusal :=
  protCommand p s fun s =>
    let g := (s.pkgAt p).prot
    let pairs := g.lostMembers.zipIdx.map fun e => (e.1, g.spare e.2)
    if g.mode ≠ .degraded then s.protResult p 1
    else if !(pairs.all fun e => s.suitable p g e.1 e.2) || !allDistinct (pairs.map (·.2)) then s.protResult p 4
    else s.carry (s.party p g) (· == .degraded) fun p s =>
      s.mapProt p fun x => { x with mode := .rebuilding, cursor := 0, rebuilt := [], spares := pairs }

/-- The phase of a data member's sector: its own, or for a lost member the one that the holder it is solved from keeps
(R356). -/
def State.phaseOf (s : State) (g : ProtGroup) (n sec i : Nat) : Bool :=
  if g.isLost i then s.tagBit g (s.solver g n sec) n sec i else s.tagBit g i n sec 0

/-- Sector `sec` of frame `n` of the lost member `m`, with its tag, as the engine of package `c` computes it from what it can
read (R356). -/
def State.rebuilt (s : State) (c : PkgId) (g : ProtGroup) (n sec m : Nat) : Option (List Byte × Nat) :=
  let solved := solveData s c g n sec (unreadable s c g n sec)
  let dat (i : Nat) : Option (List Byte) := match s.protRead c g i n sec with
    | some b => some b
    | none => solved.bind fun ds => (ds.find? (·.1 == i)).map (·.2)
  match g.role n m with
  | .data => (dat m).map fun b => (b, flag (s.phaseOf g n sec m))
  | r =>
    let ds := g.dataOf n
    ((ds.mapM dat).map fun bs =>
      ((ds.zip bs).foldl (fun acc x => xorBytes acc (if r = .p then x.2 else gfScale (gfPow 2 x.1) x.2)) zeroSector,
        ds.foldl (fun t i => putBit t i (s.phaseOf g n sec i)) 0))

/-- Whether the engine of package `c` can rebuild stripe `n` now: every spare answers it, and it can read what each sector that
the stripe determines needs (R353, R356). -/
def State.rebuildReady (s : State) (c : PkgId) (g : ProtGroup) (n : Nat) : Bool :=
  (g.spares.all fun e => s.hasPkg e.2 && s.answers c e.2) &&
  (List.range 128).all fun sec => !s.solvable g n sec || g.spares.all fun e => (s.rebuilt c g n sec e.1).isSome

/-- The engine of package `c` rebuilds one sector of a stripe on the spares of the lost members; where the stripe does not
determine it, the spare's sector is poisoned (R352, R356). -/
def rebuildSector (c : PkgId) (g : ProtGroup) (n : Nat) (s : State) (sec : Nat) : State :=
  g.spares.foldl (fun st e =>
    st.mapPkg e.2 fun k => match s.rebuilt c g n sec e.1 with
      | some (b, t) => (k.putProtSector n sec b).putTag n sec t
      | none => { k with hbmPoison := k.hbmPoison.insert ((k.prot.base + 4096 * n + 32 * sec) / 32) }) s

/-- A field of a record with a member replaced. -/
def ProtGroup.setMember (g : ProtGroup) (m : Nat) (x : PkgId) : ProtGroup :=
  let w := (g.word (2 + m / 4)).toNat
  let sh := 2 ^ (16 * (m % 4))
  { g with words := Table.put g.words (2 + m / 4) (BitVec.ofNat 64 (w - w / sh % 2 ^ 12 * sh + x.toNat * sh)) }

/-- The group is whole again: the spares take the places of the lost members, and held writes may be performed (R357). -/
def endRebuild (s : State) (g : ProtGroup) : State :=
  let ps := g.survivors ++ g.spares.map (·.2)
  let s := s.mapProts ps fun x =>
    let y := g.spares.foldl (fun (x : ProtGroup) e => x.setMember e.1 e.2) x
    { y with mode := .normal, lost := 0, cursor := 0, rebuilt := [], spares := [], silent := [] }
  g.spares.foldl (fun s e => s.mapPkg e.2 fun k => { k with lost := false }) s

/-- Whether package `p` rebuilds stripe `n` now: it is the survivor whose engine does, it is not itself lost, and those that it
needs answer (R353, R356). -/
def State.rebuilds (s : State) (p : PkgId) (n : Nat) : Bool :=
  let g := (s.pkgAt p).prot
  let ps := g.survivors
  g.mode == .rebuilding && !(s.pkgAt p).lost && decide (n < g.frames) && !g.rebuilt.has n && ps[n % ps.length]? == some p &&
    s.rebuildReady p g n

/-- STRIPE_REBUILD: the engine whose turn the stripe is rebuilds it (R356, R357). -/
def execStripeRebuild (p : PkgId) (stripe : Nat) (s : State) : Host.Outcome State Fault Refusal :=
  occur <|
    let g := (s.pkgAt p).prot
    if s.rebuilds p stripe then
      let s := (List.range 128).foldl (rebuildSector p g stripe) s
      let s := s.mapProts g.survivors fun x => { x with cursor := x.cursor + 1, rebuilt := x.rebuilt.insert stripe }
      if (s.pkgAt p).prot.rebuilt.length = g.frames then endRebuild s g else s
    else s

end Sys2Proof.Machine
end

