-- ==== Sys2Proof/Machine/Host.lean ====
section
/-! DEFINITION. The host link (R397-R402, R405): accesses through BAR2, the survivable fence, the registers of the
management window and of the doorbell page, host records and attestation. -/

namespace Sys2Proof.Machine

/-! ## Accesses through BAR2 -/

/-- Bytes of BAR2: 256 GiB (R397). -/
def bar2Bytes : Nat := 2 ^ 38

/-- The window-2 address of an offset of BAR2 (R398); bits 63:60 of WBASE are not looked at. -/
def Pkg.bar2 (k : Pkg) (off : Word) : Word :=
  BitVec.ofNat 64 ((k.wbase.toNat + off.toNat) % 2 ^ 60 + 2 * 2 ^ 60)

/-- WPID as a process identifier. -/
def Pkg.hostPid (k : Pkg) : BitVec 16 := k.wpid.setWidth 16

/-- Whether the host may make a read of `n` bytes at an offset (R398). -/
def hostReadOk (off : Word) (n : Nat) : Bool :=
  (n == 1 || n == 2 || n == 4 || n == 8) && off.toNat % n == 0 && decide (off.toNat + n ≤ bar2Bytes)

/-- Whether the host may make a write of `n` bytes at an offset (R398). -/
def hostWriteOk (off : Word) (n : Nat) : Bool :=
  hostReadOk off n || (decide (16 ≤ n) && decide (n ≤ 256) && decide (off.toNat + n ≤ bar2Bytes))

/-- The parts of a run of bytes in its 32-byte sectors, with their addresses (R281); `room` bytes are left in the first
sector. -/
def sectorParts : Nat → Word → Nat → List Byte → List (Word × List Byte)
  | 0, _, _, _ => []
  | _, _, _, [] => []
  | n + 1, a, room, bs => (a, bs.take room) :: sectorParts n (a + BitVec.ofNat 64 room) 32 (bs.drop room)

/-- Translates an access of the host: bits 59:57 of its address must be zero (R42). -/
def hostTranslate (s : State) (p : PkgId) (a : Word) (k : Acc) : State × Except FaultInfo Loc :=
  let pid := (s.pkgAt p).hostPid
  if bits a.toNat 57 3 ≠ 0 then (s, .error { kind := .prot, sector := a, aux := xlatWord pid k.kind 2 7 })
  else translate s p hubCell pid a k

/-- Performs one sector's part of a host write; a fault drops it and is reported (R398). A protected write bears a number
that names the package of the function. -/
def hostPart (p : PkgId) (s : State) (e : Word × List Byte) : State :=
  match hostTranslate s p e.1 .strWrite with
  | (s, .error f) => reportFault s p (s.pkgAt p).hostPid f
  | (s, .ok l) =>
    let n := (s.pkgAt p).hostWrites * 4096 + p.toNat
    issueStore (.host n) (s.mapPkg p fun k => { k with hostWrites := k.hostWrites + 1 }) p l e.1 e.2

/-- HOST_WRITE (R398, R399). -/
def execHostWrite (p : PkgId) (off : Word) (bytes : List Byte) (s : State) : Host.Outcome State Fault Refusal :=
  occur <|
    let k := s.pkgAt p
    if k.bringUp ≠ .ready ∨ !hostWriteOk off bytes.length then s
    else
      let a := k.bar2 off
      (sectorParts 10 a (32 - a.toNat % 32) bytes).foldl (hostPart p) s

/-- A read of the host at an address, or nothing yet (R352, R386). -/
def hostReadAt (s : State) (p : PkgId) (a : Word) (n : Nat) : State × HubAnswer (List Byte) :=
  match hostTranslate s p a .strRead with
  | (s, .error f) => (s, .error (some f))
  | (s, .ok l) => placeRead s p a l n

/-- HOST_READ: it is performed once every earlier write of the host has been (R399); a fault completes it with all-ones
(R398). -/
def execHostRead (p : PkgId) (off : Word) (n : Nat) (s : State) : Host.Outcome State Fault Refusal :=
  occur <|
    let k := s.pkgAt p
    let give (s : State) (w : Word) : State := s.mapPkg p fun k => { k with lastRead := w }
    if k.bringUp ≠ .ready ∨ !hostReadOk off n ∨ !k.hubWrites.isEmpty then s
    else match hostReadAt s p (k.bar2 off) n with
      | (s, .ok b) => give s (BitVec.ofNat 64 (leNat b))
      | (s, .error (some f)) => give (reportFault s p (s.pkgAt p).hostPid f) (BitVec.ofNat 64 (2 ^ (8 * n) - 1))
      | (_, .error none) => s

/-! ## The survivable fence -/

/-- The numbers of the host's protected writes through the function of package `p` that have no parity acknowledgement. -/
def State.hostOut (s : State) (p : PkgId) : List Nat :=
  let ofHost (i : Issuer) : Option Nat := match i with | .host n => if hostPkg n = p then some n else none | _ => none
  (s.pkgs.flatMap fun (e : Nat × Pkg) => e.2.deltas.filterMap fun d => ofHost d.issuer) ++
  (s.gone.filterMap fun e => ofHost e.2.issuer) ++
  ((s.pkgAt p).hubWrites.filterMap fun w => if w.loc.prot then ofHost w.issuer else none)

/-- SVFENCE: it captures the protected writes that are outstanding, and replaces an earlier fence (R401). -/
def execSvfence (p : PkgId) (s : State) : Host.Outcome State Fault Refusal :=
  occur <|
    if (s.pkgAt p).bringUp ≠ .ready then s
    else
      let c := s.hostOut p
      s.mapPkg p fun k => { k with svCaptured := c, svdone := if c.isEmpty then 1 else 0 }

/-! ## Registers with a behaviour of their own -/

/-- Changes a package that takes writes of its windows: one in READY (R402). -/
def State.window (s : State) (p : PkgId) (f : Pkg → Pkg) : State :=
  s.mapPkg p fun k => if k.bringUp = .ready then f k else k

/-- INTSTAT: write 1 to clear (R399). -/
def execIntstat (p : PkgId) (v : Word) (s : State) : Host.Outcome State Fault Refusal :=
  occur <| s.window p fun k => { k with intstat := k.intstat &&& ~~~v }

/-- MEVENT: write 1 to clear (R402). -/
def execMevent (p : PkgId) (v : Word) (s : State) : Host.Outcome State Fault Refusal :=
  occur <| s.window p fun k => { k with mevent := k.mevent &&& ~~~v }

/-- The word that FUSEPKG reads (R402). -/
def Pkg.fuses (k : Pkg) : Word := BitVec.ofNat 64 (k.id.toNat + k.domain.toNat * 2 ^ 12)

/-- FUSEPKG: programs identifier and domain, once, while both are zero (R387, R402). A package that is already present
keeps its identifier for itself. -/
def execFusepkg (p : PkgId) (v : Word) (s : State) : Host.Outcome State Fault Refusal :=
  occur <| match Table.find s.pkgs p.toNat with
  | none => s
  | some k =>
    let id : PkgId := v.extractLsb' 0 12
    if k.fused = true ∨ (id ≠ p ∧ s.hasPkg id = true) then s
    else
      let k' := { k with id := id, domain := v.extractLsb' 12 8, fused := true }
      { s with pkgs := Table.put (Table.del s.pkgs p.toNat) id.toNat k'
               cur := if s.cur.pkg = p then { s.cur with pkg := id } else s.cur }

/-- The RW bits of TIMECTL (R395). -/
def timectlMask : Word := 0x3F81

/-- %TIME after a step, a count of 64 bits, and the moments that the package has noted in it, which lie as long ago as before:
the next exchange of sync flits stays a millisecond after the last (R353, R388, R394). -/
def Pkg.stepTime (k : Pkg) (d : Int) : Pkg :=
  let now : Nat := (((k.time : Int) + d) % 2 ^ 64).toNat
  let moved (t : Nat) : Nat := ((t : Int) + (now : Int) - (k.time : Int)).toNat
  { k with time := now, syncAt := moved k.syncAt, noPort := k.noPort.map fun (e : Nat × Nat) => (e.1, moved e.2)
           deltas := k.deltas.map fun d => { d with since := moved d.since }
           forwards := k.forwards.map fun x => { x with since := moved x.since }
           asked := k.asked.map fun (e : Nat × Nat) => (e.1, moved e.2) }

/-- TIMECTL_STEP: the host's step of %TIME, accepted while no partition is open; the RW fields are written with it (R394,
R395). -/
def execTimectlStep (p : PkgId) (v : Word) (s : State) : Host.Outcome State Fault Refusal :=
  occur <| s.window p fun k =>
    let k : Pkg := { k with timectl := v &&& timectlMask }
    if k.openParts.isEmpty then k.stepTime (v.extractLsb' 32 32).toInt else k

/-- PWRCAP: H takes effect at the first frame boundary at least 16 cycles later (R396). -/
def execPwrcap (p : PkgId) (v : Word) (s : State) : Host.Outcome State Fault Refusal :=
  occur <| s.window p fun k =>
    let at_ := nextFrame k.cycle
    { k with pwrcap := v.setWidth 4, capNext := k.capNext.filter (·.1 != at_) ++ [(at_, v.setWidth 4)] }

/-! ## What the registers read -/

/-- Codes of R343. -/
def ProtMode.code : ProtMode → Nat
  | .off => 0 | .init => 1 | .normal => 2 | .quiescing => 3 | .degraded => 4 | .rebuilding => 5 | .failed => 6
/-- Codes of R373. -/
def PartMode.code : PartMode → Nat | .free => 0 | .active => 1 | .fenced => 2 | .resetting => 3 | .switching => 4
/-- Codes of R403. -/
def BringUp.code : BringUp → Nat | .reset => 0 | .auth => 1 | .init => 2 | .link => 3 | .ready => 4 | .halt => 5

/-- MSTAT (R395). -/
def Pkg.mstat (k : Pkg) : Word :=
  BitVec.ofNat 64 (k.bringUp.code + flag k.ddrBad * 2 ^ 6 + flag k.refLost * 2 ^ 7 + k.fwerr.toNat * 2 ^ 8)

/-- Word `w` of a partition entry (R370). -/
def Part.readWord (q : Part) (w : Nat) : Word :=
  if w = 0 then q.word 0 ||| BitVec.ofNat 64 (q.colour.toNat * 2 ^ 56 + q.mode.code * 2 ^ 60)
  else if w = 5 then BitVec.ofNat 64 (q.retired.toNat + q.dirty.toNat * 2 ^ 16)
  else q.word w

/-- Word `w` of a protection group record (R342); the command word is write-only. -/
def ProtGroup.readWord (g : ProtGroup) (w : Nat) : Word :=
  match w with
  | 0 => g.word 0 ||| BitVec.ofNat 64 (g.mode.code * 2 ^ 60)
  | 6 => g.word 6 ||| BitVec.ofNat 64 (g.lost.toNat * 2 ^ 48)
  | 7 => BitVec.ofNat 64 g.cursor.toNat
  | 8 => 0
  | 9 => BitVec.ofNat 64 g.result.toNat
  | 2 | 3 | 4 | 5 => g.word w &&& 0x0FFF0FFF0FFF0FFF
  | _ => g.word w

/-- A list of bytes of a given length. -/
def fitBytes (n : Nat) (b : List Byte) : List Byte := (b ++ List.replicate n 0).take n

/-- The attestation block (R405). -/
def Pkg.attestation (k : Pkg) : List Byte :=
  fitBytes 64 (Config.identityKey Config.securityVersion) ++ fitBytes 32 k.nonce ++ [0, BitVec.ofNat 8 (flag k.reporting)] ++
    List.replicate 158 0 ++ fitBytes 256 k.report

/-- Word at an 8-byte offset of a list of bytes. -/
def wordAt (b : List Byte) (off : Nat) : Word := BitVec.ofNat 64 (leNat ((b.drop off).take 8))

/-- What the host reads at an 8-byte offset of the management window (R402); in HALT only MSTAT, FUSEPKG and the identity
block are readable (R403). -/
def Pkg.windowWord (k : Pkg) (off : Nat) : Word :=
  let halted := k.bringUp == .halt
  if off = 0 then k.mstat
  else if off = 0x48 then k.fuses
  else if 0x400 ≤ off ∧ off < 0x600 then wordAt k.attestation (off - 0x400)
  else if halted then 0
  else if off = 0x10 then k.mresult.setWidth 64
  else if off = 0x18 then k.mevent
  else if off = 0x20 then k.timectl
  else if off = 0x28 then k.pwrcap.setWidth 64
  else if off = 0x30 then k.wbase
  else if off = 0x38 then k.wpid
  else if off = 0x40 then k.procbase
  else if 0x1000 ≤ off ∧ off < 0x1200 then (k.part (BitVec.ofNat 3 ((off - 0x1000) / 64))).readWord ((off - 0x1000) % 64 / 8)
  else if 0x2000 ≤ off ∧ off < 0x2050 then k.prot.readWord ((off - 0x2000) / 8)
  else if 0x3000 ≤ off ∧ off < 0x3100 then Table.get 0 k.ports ((off - 0x3000) / 8)
  else if 0x4000 ≤ off ∧ off < 0x8000 then
    BitVec.ofNat 64 ((Table.get 0 k.routes ((off - 0x4000) / 4)).toNat + (Table.get 0 k.routes ((off - 0x4000) / 4 + 1)).toNat * 2 ^ 32)
  else if off = 0x8000 then k.hostFpidx
  else if off = 0x8008 then k.hostFcidx
  else if 0x8040 ≤ off ∧ off < 0x8840 then wordAt (Table.get [] k.hostRecords ((off - 0x8040) / 64)) ((off - 0x8040) % 64)
  else 0

/-- What the host reads at an 8-byte offset of the doorbell page (R399, R400); nothing of it is readable in HALT (R403). -/
def Pkg.doorbellWord (k : Pkg) (off : Nat) : Word :=
  if k.bringUp = .halt then 0
  else if off < 0x800 then
    let r := k.ring (BitVec.ofNat 6 (off / 32))
    match off % 32 / 8 with
    | 0 => r.base
    | 1 => BitVec.ofNat 64 (r.log.toNat + flag r.err * 2 ^ 5)
    | 2 => r.prod
    | _ => r.cons
  else if off = 0x848 then k.svdone.setWidth 64
  else if off = 0x880 then k.intstat
  else if off = 0x888 then k.intmask
  else 0

/-- The MSI-X vectors that are raised, one bit each (R399). -/
def Pkg.vectors (k : Pkg) : Word := k.intstat &&& k.intmask

/-! ## Attestation -/

/-- PRODUCE_REPORT: the block is busy (R405). -/
def execProduceReport (p : PkgId) (s : State) : Host.Outcome State Fault Refusal :=
  occur <| s.window p fun k => { k with reporting := true }

/-- Bytes 0x00 to 0xBF of a report (R405). -/
def Pkg.reportBody (k : Pkg) : List Byte :=
  let entries := (List.range 8).flatMap fun q => (List.range 8).flatMap fun w => leBytes 8 ((k.part (BitVec.ofNat 3 q)).readWord w).toNat
  let group := (List.range 10).flatMap fun w => leBytes 8 (k.prot.readWord w).toNat
  leBytes 4 1 ++ leBytes 4 k.fuses.toNat ++ fitBytes 32 k.nonce ++ fitBytes 32 (Config.sm3 Config.romImage) ++
    fitBytes 32 (Config.sm3 Config.firmwareImage) ++ fitBytes 32 (Config.sm3 (Config.fuseSet k.fuses k.minVersion)) ++
    fitBytes 32 (Config.sm3 (entries ++ group)) ++ leBytes 8 Config.securityVersion ++ leBytes 8 k.time ++ leBytes 8 k.mstat.toNat

/-- REPORT_COMPLETE: the report of this moment is there, and the block is ready (R405). -/
def execReportComplete (p : PkgId) (s : State) : Host.Outcome State Fault Refusal :=
  occur <| s.mapPkg p fun k =>
    if k.reporting then
      { k with reporting := false
               report := k.reportBody ++ fitBytes 64 (Config.sm2Sign (Config.sm3 k.reportBody)) }
    else k

/-! ## Other registers -/

/-- The RW bits of word `w` of a partition entry, COLOUR apart (R370). -/
def partMask : Nat → Word
  | 0 => 0x0000FFFFFF7F3F3F
  | 1 => 0xFFFFFFFFF
  | 4 => 0xFFFF1F
  | 5 => 0
  | _ => 0xFFFFFFFFFFFFFFFF

/-- The RW bits of word `w` of a protection group record (R342). MEMBERS keeps the reserved bits that are written to it, at
which ENABLE looks. -/
def groupMask : Nat → Word
  | 0 => 0x0000F0F1FFFFFFFF
  | 1 => 0xFFFFFFF000
  | 6 => 0xFFFFFF000000
  | 2 | 3 | 4 | 5 => 0xFFFFFFFFFFFFFFFF
  | _ => 0

/-- Brings the record of packages without an UP port in their mask up to date, and ends the unreachability of those that
have one again (R388). -/
def Pkg.reroute (k : Pkg) : Pkg :=
  let dead (m : BitVec 32) : Bool := !((maskPorts m).any k.portUp)
  let none_ := k.routes.filter fun (e : Nat × BitVec 32) => e.2 != 0 && dead e.2
  { k with noPort := none_.map fun (e : Nat × BitVec 32) => (e.1, Table.get k.time k.noPort e.1)
           unreachable := k.unreachable.filter fun q => dead (Table.get 0 k.routes q) }

/-- Writes bits 3:2 of a port's status word; a DOWN port that may train begins to (R388). -/
def Pkg.putPort (k : Pkg) (x : Nat) (v : Word) : Pkg :=
  let old := Table.get 0 k.ports x
  let w := (old &&& ~~~(0xC : Word)) ||| (v &&& 0xC)
  { k with ports := Table.put k.ports x (if w.getLsbD 2 && w.toNat % 4 == 0 then w + 1 else w) }

/-- A register write of a package in READY (R342, R370, R388, R395, R399, R400, R402, R405). -/
def Pkg.writeReg (k : Pkg) (r : HostReg) (v : Word) : Pkg :=
  match r with
  | .timectl => { k with timectl := v &&& timectlMask }
  | .wbase => { k with wbase := v }
  | .wpid => { k with wpid := v &&& 0xFFFF }
  | .procbase => { k with procbase := v }
  | .partWord q w =>
    let e := k.part q
    if e.mode ≠ .free then k
    else { k with parts := Table.put k.parts q.toNat
                    { e with words := Table.put e.words w.toNat (v &&& partMask w.toNat)
                             colour := if w = 0 then v.extractLsb' 56 4 else e.colour } }
  | .groupWord w =>
    if k.prot.mode ≠ .off then k
    else { k with prot := { k.prot with words := Table.put k.prot.words w.toNat (v &&& groupMask w.toNat) } }
  | .port x => (k.putPort x.toNat v).reroute
  | .route q => ({ k with routes := Table.put k.routes q.toNat (v.setWidth 32) } : Pkg).reroute
  | .hostFcidx => { k with hostFcidx := v }
  | .ringWord g w =>
    let e := k.ring g
    let free := (k.graphAt g).mode == .free
    let put (e : HostRing) : Pkg := { k with rings := Table.put k.rings g.toNat e }
    match w.toNat with
    | 0 => if free then put { e with base := v } else k
    | 1 => if free then put { e with log := v.setWidth 5 } else k
    | 2 => put { e with prod := v }
    | _ => k
  | .intmask => { k with intmask := v &&& 0x3FF }
  | .nonce w =>
    if k.reporting then k
    else { k with nonce := (k.nonce.take (8 * w.toNat)) ++ leBytes 8 v.toNat ++ k.nonce.drop (8 * w.toNat + 8) }
  | .mcmd => if v.toNat % 256 = 0 ∨ 3 < v.toNat % 256 then { k with mresult := 3 } else k
  | .groupCmd => if v.toNat % 256 = 0 ∨ 4 < v.toNat % 256 then { k with prot := { k.prot with result := 3 } } else k

/-- REGISTER_WRITE (R402). The commands that MCMD and the group record take have events of their own; here only one that
they do not know is answered. -/
def execRegisterWrite (p : PkgId) (r : HostReg) (v : Word) (s : State) : Host.Outcome State Fault Refusal :=
  occur <| s.window p fun k => k.writeReg r v

/-! ## Records of the host -/

/-- Whether the Shawm takes or refuses an entry of a host record ring now (R400). -/
def Pkg.ringDue (k : Pkg) (x : BitVec 6) : Bool :=
  let r := k.ring x
  (k.graphAt x).mode == .resident && !r.err && decide (r.cons.toNat < r.prod.toNat) && k.hubWrites.isEmpty &&
    (decide (2 ^ r.log.toNat < r.prod.toNat - r.cons.toNat) || (match k.nodeAt x 0 with | some d => d.takes | none => false))

/-- HOST_RECORD_APPEND: the Shawm takes one entry of a host record ring into node 0; an overrun ring, or one whose entry
cannot be read, stops (R400). -/
def execHostRecordAppend (p : PkgId) (x : BitVec 6) (s : State) : Host.Outcome State Fault Refusal :=
  occur <|
    let k := s.pkgAt p
    let r := k.ring x
    let stop (s : State) : State := s.mapRing p x fun r => { r with err := true }
    if !k.ringDue x then s
    else if 2 ^ r.log.toNat < r.prod.toNat - r.cons.toNat then stop s
    else match k.nodeAt x 0 with
      | none => s
      | some d =>
        let pid := (k.graphAt x).pid
        let at_ := r.base + BitVec.ofNat 64 (d.recSize * (r.cons.toNat % 2 ^ r.log.toNat) + 8)
        match hubReads p pid (d.recSize / 8 - 1) s at_ with
        | (_, .error none) => s
        | (s, .error (some f)) => stop (reportFault s p pid f)
        | (s, .ok ws) =>
          let s := s.mapRing p x fun r => { r with cons := r.cons + 1 }
          appendRecord s p x 0 { seq := 0, mode := .committed, host := true, ext := true, origin := 0xFFF }
            (ws.flatMap fun w => leBytes 8 w.toNat)

end Sys2Proof.Machine
end

