-- ==== Sys2Proof/Machine/Fabric.lean ====
section
/-! DEFINITION. What reaches a package from outside its programs: the ports of the fabric (R386-R388), the clocks and the
time base (R391-R394), power (R396), and reset with bring-up (R403, R404). -/

namespace Sys2Proof.Machine

/-! ## Ports -/

/-- The status word of a port with its STATE (R388). -/
def portState (w : Word) (st : Nat) : Word := (w &&& ~~~(3 : Word)) ||| BitVec.ofNat 64 st

/-- PORT_UP: a port that trains enters UP, with its link partner (R388). -/
def execPortUp (p : PkgId) (x : BitVec 5) (peer : PkgId) (pdom : BitVec 8) (s : State) : Host.Outcome State Fault Refusal :=
  occur <| s.mapPkg p fun k =>
    let w := Table.get 0 k.ports x.toNat
    if w.toNat % 4 = 1 then
      let w := portState w 2 &&& 0xF ||| BitVec.ofNat 64 (pdom.toNat * 2 ^ 16 + peer.toNat * 2 ^ 24)
      ({ k with ports := Table.put k.ports x.toNat w } : Pkg).reroute
    else k

/-- A port enters FAILED, and the host is told (R388, R402). -/
def Pkg.failPort (k : Pkg) (x : Nat) : Pkg :=
  let w := Table.get 0 k.ports x
  if w.toNat % 4 = 1 ∨ w.toNat % 4 = 2 then
    let k := ({ k with ports := Table.put k.ports x (portState w 3), replays := Table.del k.replays x
                       mevent := k.mevent &&& ~~~(BitVec.ofNat 64 (63 * 2 ^ 32)) } : Pkg).reroute
    k.notice (2 ^ 3 + x * 2 ^ 32)
  else k

/-- PORT_FAILURE: the lanes of a port lose lock (R388). -/
def execPortFailure (p : PkgId) (x : BitVec 5) (s : State) : Host.Outcome State Fault Refusal :=
  occur <| s.mapPkg p fun k => k.failPort x.toNat

/-- The replays of one flit after which a port enters FAILED (R388). -/
def replayLimit : Nat := 16

/-- FLIT_REPLAY: a flit is sent again; programs see a longer latency and nothing else (R386), but for the sixteenth replay of one
flit, at which the port enters FAILED (R388). Whether it is the flit that was replayed last is open (log 6). -/
def execFlitReplay (p : PkgId) (x : BitVec 5) (s : State) : Host.Outcome State Fault Refusal :=
  occur <|
    if (s.pkgAt p).portUp x.toNat then
      let n := if Config.sameFlit s.free then Table.get 0 (s.pkgAt p).replays x.toNat + 1 else 1
      s.draw.mapPkg p fun k =>
        if replayLimit ≤ n then k.failPort x.toNat else { k with replays := Table.put k.replays x.toNat n }
    else s

/-- The time for which a route mask holds no UP port before its package counts as out of reach: 1 ms (R388). -/
def routeLimit : Nat := 1000000

/-- Whether a package has just gone out of reach (R388). -/
def Pkg.routeDead (k : Pkg) (m : PkgId) : Bool :=
  !k.unreachable.has m.toNat && (match Table.find k.noPort m.toNat with
    | some t => decide (t + routeLimit ≤ k.time)
    | none => false)

/-- ROUTE_UNREACHABLE: every operation to the package that has not been answered completes with FENCED (R388). -/
def execRouteUnreachable (p : PkgId) (m : PkgId) (s : State) : Host.Outcome State Fault Refusal :=
  occur <|
    if m ≠ p ∧ (s.pkgAt p).routeDead m = true then
      let s := s.mapPkg p fun k => { k with unreachable := k.unreachable.insert m.toNat }
      dropHubWrites (fenceOps m s p) fun q w => q == p && w.loc.pkg == m
    else s

/-! ## Time and clocks -/

/-- A rate correction held to a bound in parts per million. -/
def clampPpm (b x : Int) : Int := if x < -b then -b else if b < x then b else x

/-- The time between two exchanges of sync flits: 1 ms (R394). -/
def syncPeriod : Nat := 1000000

/-- Whether a package is the time master (R395). -/
def Pkg.timeMaster (k : Pkg) : Bool := k.timectl.getLsbD 0
/-- Whether a package takes its time from a partner: as a member from any UP port, as a master from the port that UPSTRM
names (R394). -/
def Pkg.follows (k : Pkg) : Bool :=
  if k.timeMaster then k.timectl.getLsbD 7 && decide (bits k.timectl.toNat 8 6 < 32) && k.portUp (bits k.timectl.toNat 8 6)
  else (List.range 32).any k.portUp

/-- One nanosecond in the unit of `timeFrac`: a cycle is 20/17 ns, and a slew works in parts per million (R390, R393). -/
def nsUnit : Nat := 17000000

/-- The time of a package in that unit. -/
def Pkg.ticks (k : Pkg) : Int := ((k.time * nsUnit + k.timeFrac : Nat) : Int)

/-- The time master of a package's domain (R394). -/
def State.masterOf (s : State) (k : Pkg) : Option Pkg :=
  (s.pkgs.find? fun (e : Nat × Pkg) => e.2.timeMaster && e.2.domain == k.domain).map (·.2)

/-- The bound, in nanoseconds, of what an estimate of the offset is out by: with it a package whose references are present stays
within 20 ns of the master (R394, log 8). -/
def estimateBound : Int := 16

/-- A package sets its slew so that its time is the master's after one period: over a millisecond one part per million is one
nanosecond. It judges its error by the offset that it estimates (R394). -/
def Pkg.slewTo (k m : Pkg) (n : Nat) : Pkg :=
  let off := m.ticks - k.ticks + clampPpm estimateBound (Config.slew n) * nsUnit
  { k with slewPpm := clampPpm 500 (m.slewPpm + off / nsUnit), timeUnc := k.refLost || decide (20 * nsUnit < off.natAbs) }

/-- TIME_SYNC: a package corrects its time by a slew of at most 500 ppm, and judges its error: a member toward the master of its
domain, a master, or a member that finds none, toward what lies outside the machine, which is open (R394, log 8). -/
def execTimeSync (p : PkgId) (s : State) : Host.Outcome State Fault Refusal :=
  occur <|
    let k := s.pkgAt p
    if k.time < k.syncAt then s
    else
      let n := s.free
      let s := s.mapPkg p fun k => { k with syncAt := k.syncAt + syncPeriod }
      if k.follows then
        match (if k.timeMaster then none else s.masterOf k) with
        | some m => s.draw.mapPkg p fun k => k.slewTo m n
        | none => s.draw.mapPkg p fun k =>
          { k with slewPpm := clampPpm 500 (Config.slew n), timeUnc := k.refLost || decide (20 < Config.timeError n) }
      else if k.timeMaster then
        s.mapPkg p fun k => { k with slewPpm := 0, timeUnc := k.refLost }
      else s

/-- REFERENCE_LOSS: the time base runs from its local oscillator within 50 ppm, the clock within 200 ppm; %STAT.TU reads 1
and the host is told (R392, R393). -/
def execReferenceLoss (p : PkgId) (s : State) : Host.Outcome State Fault Refusal :=
  occur <|
    if (s.pkgAt p).refLost then s
    else
      let n := s.free
      s.draw.mapPkg p fun k =>
        { k with refLost := true, timeUnc := true, driftPpm := clampPpm 251 (Config.slew n) }.notice 1

/-- REFERENCE_RETURN: MSTAT.REFLOST reads 0 again, and the PLL slews its frequency back (`Pkg.relock`); %STAT.TU stays 1 until the
time base is aligned (R392, R394). -/
def execReferenceReturn (p : PkgId) (s : State) : Host.Outcome State Fault Refusal :=
  occur <| s.mapPkg p fun k => { k with refLost := false }

/-- With its reference present the PLL slews its frequency toward the exact one, without a step: one part per million a cycle
(R392, log 8). -/
def Pkg.relock (k : Pkg) : Pkg :=
  if k.refLost then k else { k with driftPpm := k.driftPpm - k.driftPpm.sign }

/-- DROOP_TRIP: every cycle is lengthened, and the stretch is counted (R391). -/
def execDroopTrip (p : PkgId) (die : BitVec 3) (s : State) : Host.Outcome State Fault Refusal :=
  occur <| s.mapPkg p fun k =>
    { k with tripped := k.tripped.insert die.toNat, stretchTill := some (k.cycle + 256)
             stretches := if k.stretchTill.isSome then k.stretches else k.stretches + 1 }

/-- STRETCH_END: 256 cycles after the last detector has cleared at the earliest (R391). -/
def execStretchEnd (p : PkgId) (s : State) : Host.Outcome State Fault Refusal :=
  occur <| s.mapPkg p fun k => match k.stretchTill with
    | some c => if c ≤ k.cycle then { k with tripped := [], stretchTill := none } else k
    | none => k

/-! ## Power -/

/-- POWER_ALERT: the host is told, and nothing else changes (R396). -/
def execPowerAlert (p : PkgId) (s : State) : Host.Outcome State Fault Refusal :=
  occur <| s.mapPkg p fun k => k.notice (2 ^ 2)

/-- Whether a write was issued by a cell of a package. -/
def Issuer.atCellOf (i : Issuer) (p : PkgId) : Bool := match i with | .slot g _ => g.pkg == p | .copy q _ _ _ _ => q == p | _ => false

/-- A parity acknowledgement that was on its way when its package lost power may have got through or not. -/
def powerLost (p : PkgId) (s : State) (d : Delta) : State :=
  if d.stage = .parityAck then
    let got := Config.hadPassed s.free
    let s := s.draw
    if got then acknowledgeParity s d else { s with gone := s.gone ++ [(p, d)] }
  else { s with gone := s.gone ++ [(p, d)] }

/-- What a package that stops leaves behind: slots of other packages lose the privilege that its partitions gave them (R14), and
its own protected writes without a parity acknowledgement stay so (R355); those of its own cells have no issuer left (R350). -/
def leaveBehind (p : PkgId) (was : Pkg) (s : State) : State :=
  let s := was.openParts.foldl (fun s (e : Nat × Part) => s.dropSuper e.2) s
  (was.deltas.map fun d => { d with orphan := d.orphan || d.issuer.atCellOf p }).foldl (powerLost p) s

/-- THERMAL_TRIP: the package loses its power and leaves the domain (R396). -/
def execThermalTrip (p : PkgId) (s : State) : Host.Outcome State Fault Refusal :=
  occur <|
    if s.hasPkg p then leaveBehind p (s.pkgAt p) { s with pkgs := Table.del s.pkgs p.toNat }
    else s

/-! ## Reset and bring-up -/

/-- The cells of a package, all zero (R375 step 6, R403); requests of other packages that wait at a cell stay with it. -/
def Pkg.zeroCells (k : Pkg) : Table Cell :=
  k.cells.map fun (e : Nat × Cell) =>
    (e.1, { waiters := e.2.waiters.filter fun w => w.1.pkg != k.id
            slots := e.2.slots.map fun (t : Nat × Slot) => (t.1, { nextOp := t.2.nextOp }) })

/-- A package as a package reset leaves it: fuses and the time base keep what they hold (R387, R393); so does device memory,
for which the spec gives no value; and a package that was declared lost stays so (R355, log 33). -/
def Pkg.afterReset (k : Pkg) : Pkg :=
  { id := k.id, domain := k.domain, cycle := k.cycle, phase := k.phase, time := k.time, timeFrac := k.timeFrac, slewPpm := k.slewPpm
    fused := k.fused, lost := k.lost, driftPpm := k.driftPpm, refLost := k.refLost, timeUnc := k.timeUnc, tripped := k.tripped
    stretchTill := k.stretchTill, stretches := k.stretches
    minVersion := k.minVersion, syncAt := k.syncAt, hostWrites := k.hostWrites, nextDelta := k.nextDelta
    hbm := k.hbm, hbmPoison := k.hbmPoison, ddr := k.ddr, ddrPoison := k.ddrPoison
    cells := k.zeroCells }

/-- The waiters of every cell of a package are tried. -/
def settleCells (p : PkgId) (s : State) : State :=
  (s.pkgAt p).cells.foldl (fun (s : State) (e : Nat × Cell) => s.settle p (BitVec.ofNat 12 e.1)) s

/-- Resets a package; what its cells have written under protection goes on without them (R350). -/
def resetPackage (p : PkgId) (s : State) : State :=
  leaveBehind p (s.pkgAt p) (settleCells p ((s.orphanDeltas fun i => i.atCellOf p).mapPkg p Pkg.afterReset))

/-- PACKAGE_RESET: the reset input (R403). -/
def execPackageReset (p : PkgId) (s : State) : Host.Outcome State Fault Refusal := occur (resetPackage p s)

/-- RESETPKG: the command of the management window, which takes writes in READY (R402, R403). -/
def execResetpkg (p : PkgId) (s : State) : Host.Outcome State Fault Refusal :=
  occur (if (s.pkgAt p).bringUp = .ready then resetPackage p s else s)

/-- The end of INIT: every cell is zero (R375 step 6), and %CYCLE is 0 (R403). -/
def Pkg.initialised (k : Pkg) (ddrBad : Bool) : Pkg :=
  let k : Pkg := { k with bringUp := .link, cells := k.zeroCells, cycle := 0, ddrBad := ddrBad, stretchTill := k.stretchTill.map fun _ => 256
                          ports := k.ports.map fun (e : Nat × Word) => (e.1, if e.2.getLsbD 2 && e.2.toNat % 4 == 0 then e.2 + 1 else e.2) }
  if ddrBad then k.notice (2 ^ 4) else k

/-- FWERR of the first check of the firmware image that fails, in the order of R404; 0 where all pass. -/
def Pkg.authCode (k : Pkg) : Byte :=
  if Config.sm3 Config.signerKey ≠ Config.keyDigest then 1
  else if Config.sm2Verify Config.signerKey (Config.sm3 Config.firmwareImage) Config.firmwareSignature = false then 2
  else if Config.securityVersion < k.minVersion then 3
  else 0

/-- A bring-up state ends, with a code: 0 for success; in AUTH the image itself gives the outcome; in INIT 0x10 to 0x14 for the
failed stage, and 0x20 for success with a refused DDR-5 population (R403, R404). -/
def Pkg.stage (k : Pkg) (code : Byte) : Pkg :=
  match k.bringUp with
  | .reset => if code = 0 then { k with bringUp := .auth, fwerr := 0 } else k
  | .auth => if k.authCode = 0 then { k with bringUp := .init } else { k with bringUp := .halt, fwerr := k.authCode }
  | .init =>
    if code = 0 then k.initialised false
    else if code = 0x20 then k.initialised true
    else if 0x10 ≤ code.toNat ∧ code.toNat ≤ 0x14 then { k with bringUp := .halt, fwerr := code }
    else k
  | .link => if code = 0 then { k with bringUp := .ready } else k
  | .ready => k
  | .halt => k

/-- BRINGUP_STAGE_COMPLETE (R403, R404). In READY the firmware runs, and may raise the fused minimum security version. -/
def execBringupStageComplete (p : PkgId) (code : Byte) (s : State) : Host.Outcome State Fault Refusal :=
  occur <|
    let was := (s.pkgAt p).bringUp
    let t := s.mapPkg p fun k => k.stage code
    match was, (t.pkgAt p).bringUp with
    | .link, .ready => t.draw.mapPkg p fun k => { k with minVersion := Nat.max k.minVersion (Config.askedVersion s.free) }
    | .init, .link => settleCells p t
    | _, _ => t

end Sys2Proof.Machine
end

