-- ==== Sys2Proof/Machine/LaneControl.lean ====
section
/-! DEFINITION. Lane control: major 0x11 (R143-R146). -/

namespace Sys2Proof.Machine

/-- The lanes whose new counter would pass 63. -/
def overLanes (n : List Nat) : BitVec 32 :=
  BitVec.ofNat 32 ((n.zipIdx.map fun p => if 63 < p.1 then 2 ^ p.2 else 0).foldl (· + ·) 0)

/-- New counters for all lanes at one moment, or NCOVF with the lanes that would overflow (R144). -/
def setNest (c : Ctx) (n : List Nat) (k : State → State) : Issue :=
  if n.any (fun x => decide (63 < x)) then .trap { kind := .ncovf, aux := (overLanes n).setWidth 64 }
  else .done (k (c.mapSlot fun t => { t with nest := nestOf n }).s)

/-- A transition of R144 over all lanes. `f` takes a lane's counter, and its condition, which is read only where the
counter is zero. -/
def flow (o : Opnds) (cond : Ctx → Nat → Bool) (f : Nat → Bool → Nat) (k : State → State) (s : State) :
    Host.Outcome State Fault Refusal :=
  run s o fun c =>
    setNest c ((List.range 32).map fun l =>
      let n := (c.slot.count l).toNat
      f n (n == 0 && cond c l)) k

/-- The condition of a lane is true when its value is non-zero (R144). -/
def condOf (v : VRegNo) (c : Ctx) (l : Nat) : Bool := lane (c.vreg v) l != 0

/-- VIF and VIFZ (R144). -/
def vifNext (z : Bool) (n : Nat) (t : Bool) : Nat := if n = 0 then (if t = z then 1 else 0) else n + 1
/-- VELSE (R144). -/
def velseNext (n : Nat) (_ : Bool) : Nat := if n = 0 then 1 else if n = 1 then 0 else n
/-- VENDIF (R144). -/
def vendifNext (n : Nat) (_ : Bool) : Nat := n - 1
/-- VENDIF.LX (R144). -/
def vendifLxNext (n : Nat) (_ : Bool) : Nat := n - 2
/-- VLOOPB (R144). -/
def vloopbNext (n : Nat) (_ : Bool) : Nat := if n = 0 then 0 else n + 2
/-- VBRK and VCONT: a true condition raises the counter to `k` (R144). -/
def vbrkNext (k : Nat) (n : Nat) (t : Bool) : Nat := if n = 0 then (if t then k else 0) else n
/-- VLOOPE (R144). -/
def vloopeNext (n : Nat) (t : Bool) : Nat := if n = 0 then (if t then 0 else 2) else if n = 1 then 0 else n

/-- VIF (R144). -/
def execVif (c : VRegNo) (s : State) : Host.Outcome State Fault Refusal := flow (Opnds.va c) (condOf c) (vifNext false) id s
/-- VIFZ (R144). -/
def execVifz (c : VRegNo) (s : State) : Host.Outcome State Fault Refusal := flow (Opnds.va c) (condOf c) (vifNext true) id s
/-- VELSE (R144). -/
def execVelse (s : State) : Host.Outcome State Fault Refusal := flow {} (fun _ _ => false) velseNext id s
/-- VENDIF (R144). -/
def execVendif (s : State) : Host.Outcome State Fault Refusal := flow {} (fun _ _ => false) vendifNext id s
/-- VENDIF.LX (R144). -/
def execVendifLx (s : State) : Host.Outcome State Fault Refusal := flow {} (fun _ _ => false) vendifLxNext id s
/-- VLOOPB (R144). -/
def execVloopb (s : State) : Host.Outcome State Fault Refusal := flow {} (fun _ _ => false) vloopbNext id s
/-- VBRK (R144). -/
def execVbrk (c : VRegNo) (n : BitVec 7) (s : State) : Host.Outcome State Fault Refusal :=
  flow (Opnds.va c) (condOf c) (vbrkNext (n.toNat + 2)) id s
/-- VCONT (R144). -/
def execVcont (c : VRegNo) (n : BitVec 7) (s : State) : Host.Outcome State Fault Refusal :=
  flow (Opnds.va c) (condOf c) (vbrkNext (n.toNat + 1)) id s
/-- VLOOPE: sD becomes 1 when a lane of the slot has a zero counter after the update (R144). -/
def execVloope (d : SReg) (c : VRegNo) (s : State) : Host.Outcome State Fault Refusal :=
  flow (Opnds.sv d c) (condOf c) vloopeNext
    (fun t => t.setS t.cur d (bit ((t.slotAt t.cur).active != 0))) s
/-- VGETNC: every lane of the destination (R146). -/
def execVgetnc (d : VRegNo) (s : State) : Host.Outcome State Fault Refusal :=
  run s { Opnds.vd d with whole := [d] } fun c =>
    .done (c.setVAll d fun l => ((c.slot.count l).setWidth 32))
/-- VSETNC: reads every lane; bits above 5 trap NCOVF (R146). -/
def execVsetnc (v : VRegNo) (s : State) : Host.Outcome State Fault Refusal :=
  run s { Opnds.va v with whole := [v], reads := [(v, List.range 32)] } fun c =>
    setNest c ((List.range 32).map fun l => (lane (c.vreg v) l).toNat) id

end Sys2Proof.Machine
end

