-- ==== Sys2Proof/Machine/Perm.lean ====
section
/-! DEFINITION. Cross-lane movement, reduction, packing and random numbers: majors 0x19 and 0x1A (R155-R158). -/

namespace Sys2Proof.Machine

/-- A permutation under a scalar selector: active lane l takes the lane of srcA that `f` names (R155). -/
def permS (d a : VRegNo) (k : SReg) (f : Nat → Nat → Nat) (s : State) : Host.Outcome State Fault Refusal :=
  let t := s.slotAt s.cur
  run s { Opnds.vvs d a k with whole := [a], reads := [(a, ((List.range 32).filter t.isActive).map (f ((t.sreg k).toNat % 32)))] } fun c =>
    .done (c.setV d fun l => lane (c.vreg a) (f ((c.sreg k).toNat % 32) l))

/-- VSHUF (R155). -/
def execVshuf (d a i : VRegNo) (s : State) : Host.Outcome State Fault Refusal :=
  let t := s.slotAt s.cur
  let from_ := ((List.range 32).filter t.isActive).map fun l => (lane (s.srcV s.cur i) l).toNat % 32
  run s { Opnds.vvv d a i with whole := [a], reads := (a, from_) :: if a = i then [(a, (List.range 32).filter t.isActive)] else [] } fun c =>
    .done (c.setV d fun l => lane (c.vreg a) ((lane (c.vreg i) l).toNat % 32))
/-- VROTL (R155). -/
def execVrotl (d a : VRegNo) (k : SReg) (s : State) : Host.Outcome State Fault Refusal := permS d a k (fun q l => (l + q) % 32) s
/-- VBFLY (R155). -/
def execVbfly (d a : VRegNo) (k : SReg) (s : State) : Host.Outcome State Fault Refusal := permS d a k (fun q l => l ^^^ q) s
/-- VBCAST (R155). -/
def execVbcast (d a : VRegNo) (k : SReg) (s : State) : Host.Outcome State Fault Refusal := permS d a k (fun q _ => q) s
/-- VEXTR: acts whatever the counters hold (R155). -/
def execVextr (d : SReg) (a : VRegNo) (k : SReg) (s : State) : Host.Outcome State Fault Refusal :=
  run s { Opnds.svs d a k with whole := [a], reads := [(a, [((s.slotAt s.cur).sreg k).toNat % 32])] } fun c =>
    .done (c.setS d ((lane (c.vreg a) ((c.sreg k).toNat % 32)).setWidth 64))
/-- VINS: writes the one lane that the scalar index names (R155, R137). -/
def execVins (d : VRegNo) (a k : SReg) (s : State) : Host.Outcome State Fault Refusal :=
  run s { Opnds.vss d a k with whole := [d] } fun c =>
    let q := (c.sreg k).toNat % 32
    .done (c.s.setLanes c.g d (BitVec.ofNat 32 (2 ^ q)) fun _ => (c.sreg a).setWidth 32)
/-- VPREFIX: the running sum over the active lanes (R155). -/
def execVprefix (d a : VRegNo) (s : State) : Host.Outcome State Fault Refusal :=
  run s (Opnds.vv d a) fun c =>
    .done (c.setV d fun l =>
      ((List.range (l + 1)).map fun j => if c.slot.isActive j then lane (c.vreg a) j else 0).foldl (· + ·) 0)

/-- A reduction over the active lanes from its value with none (R156). -/
def reduce (d : SReg) (a : VRegNo) (z : Lane) (f : Lane → Lane → Lane) (s : State) : Host.Outcome State Fault Refusal :=
  run s (Opnds.sv d a) fun c =>
    .done (c.setS d ((((List.range 32).filter c.slot.isActive).map fun l => lane (c.vreg a) l).foldl f z |>.signExtend 64))

/-- VREDADD (R156). -/
def execVredadd (d : SReg) (a : VRegNo) (s : State) : Host.Outcome State Fault Refusal := reduce d a 0 (· + ·) s
/-- VREDMIN (R156). -/
def execVredmin (d : SReg) (a : VRegNo) (s : State) : Host.Outcome State Fault Refusal := reduce d a 0x7FFFFFFF minS s
/-- VREDMAX (R156). -/
def execVredmax (d : SReg) (a : VRegNo) (s : State) : Host.Outcome State Fault Refusal := reduce d a 0x80000000 maxS s
/-- VREDMINU (R156). -/
def execVredminu (d : SReg) (a : VRegNo) (s : State) : Host.Outcome State Fault Refusal := reduce d a 0xFFFFFFFF minU s
/-- VREDMAXU (R156). -/
def execVredmaxu (d : SReg) (a : VRegNo) (s : State) : Host.Outcome State Fault Refusal := reduce d a 0 maxU s

/-- One level of the pairwise tree: an absent partner passes a value up unrounded (R156). -/
def treeLevel (rm : Rm) : List (Option Nat) → List (Option Nat) × FpFlags
  | x :: y :: t =>
    let r := treeLevel rm t
    match x, y with
    | none, y => (y :: r.1, r.2)
    | some a, none => (some a :: r.1, r.2)
    | some a, some b => let p := fp32.op rm .add a b; (some p.1 :: r.1, p.2 ||| r.2)
  | t => (t, 0)

/-- `n` levels of the tree. -/
def treeSum (rm : Rm) : Nat → List (Option Nat) → FpFlags → List (Option Nat) × FpFlags
  | 0, p, fl => (p, fl)
  | n + 1, p, fl => let r := treeLevel rm p; treeSum rm n r.1 (fl ||| r.2)

/-- VREDFADD (R156). -/
def execVredfadd (d : SReg) (a : VRegNo) (s : State) : Host.Outcome State Fault Refusal :=
  run s (Opnds.sv d a) fun c =>
    let p := (List.range 32).map fun l => if c.slot.isActive l then some (lane (c.vreg a) l).toNat else none
    let r := treeSum c.rm 5 p 0
    .done ((c.raise r.2).setS d (BitVec.ofNat 64 ((r.1.getD 0 none).getD 0)))
/-- VMERGE: every lane, of both sources and of the destination (R137, R155). -/
def execVmerge (d a b : VRegNo) (s : State) : Host.Outcome State Fault Refusal :=
  run s { Opnds.vvv d a b with whole := [d, a, b], reads := [(a, List.range 32), (b, List.range 32)] } fun c =>
    .done (c.setVAll d fun l => if c.slot.isActive l then lane (c.vreg a) l else lane (c.vreg b) l)
/-- VLANEID (R155). -/
def execVlaneid (d : VRegNo) (s : State) : Host.Outcome State Fault Refusal := run s (Opnds.vd d) fun c => .done (c.setV d fun l => BitVec.ofNat 32 l)
/-- VMOV (R155). -/
def execVmov (d a : VRegNo) (s : State) : Host.Outcome State Fault Refusal := run s (Opnds.vv d a) fun c => .done (c.setV d fun l => lane (c.vreg a) l)
/-- VMOVS (R155). -/
def execVmovs (d : VRegNo) (a : SReg) (s : State) : Host.Outcome State Fault Refusal :=
  run s (Opnds.vs d a) fun c => .done (c.setV d fun _ => (c.sreg a).setWidth 32)
/-- VACTMASK (R155). -/
def execVactmask (d : SReg) (s : State) : Host.Outcome State Fault Refusal := run s (Opnds.d d) fun c => .done (c.setS d (c.slot.active.setWidth 64))

/-- The packed element of `w` bits at index `e` of a register (R18). -/
def element (v : VReg) (w e : Nat) : Nat := (lane v (e * w / 32)).toNat / 2 ^ (e * w % 32) % 2 ^ w

/-- A register with its element `e` of `w` bits replaced. -/
def putElement (v : VReg) (w e x : Nat) : VReg :=
  let l := e * w / 32
  let o := (lane v l).toNat
  let sh := e * w % 32
  v.set l (BitVec.ofNat 32 (o - o / 2 ^ sh % 2 ^ w * 2 ^ sh + x % 2 ^ w * 2 ^ sh))

/-- VPACKB and VPACKH: the low `w` bits of each active lane l into element 32q + l; vD is read before it is written, and the rest
keeps its value (R157, R339). A taken vD is a destination and no source. DEDUCED, log 21. -/
def pack (w n : Nat) (d a : VRegNo) (q : SReg) (s : State) : Host.Outcome State Fault Refusal :=
  run s { Opnds.vvs d a q with whole := [d], prior := [.v d], reads := [(d, List.range 32)] } fun c =>
    let q := (c.sreg q).toNat % n
    let v := ((List.range 32).filter c.slot.isActive).foldl
      (fun v l => putElement v w (32 * q + l) (lane (c.vreg a) l).toNat) (c.vreg d)
    .done (c.setVAll d fun l => lane v l)

/-- VUNPKB and VUNPKH (R157). -/
def unpack (w n : Nat) (d a : VRegNo) (q : SReg) (s : State) : Host.Outcome State Fault Refusal :=
  let t := s.slotAt s.cur
  let from_ := ((List.range 32).filter t.isActive).map fun l => (32 * ((t.sreg q).toNat % n) + l) * w / 32
  run s { Opnds.vvs d a q with whole := [a], reads := [(a, from_)] } fun c =>
    let q := (c.sreg q).toNat % n
    .done (c.setV d fun l => BitVec.ofNat 32 (element (c.vreg a) w (32 * q + l)))

/-- VPACKB (R157). -/
def execVpackb (d a : VRegNo) (q : SReg) (s : State) : Host.Outcome State Fault Refusal := pack 8 4 d a q s
/-- VUNPKB (R157). -/
def execVunpkb (d a : VRegNo) (q : SReg) (s : State) : Host.Outcome State Fault Refusal := unpack 8 4 d a q s
/-- VPACKH (R157). -/
def execVpackh (d a : VRegNo) (q : SReg) (s : State) : Host.Outcome State Fault Refusal := pack 16 2 d a q s
/-- VUNPKH (R157). -/
def execVunpkh (d a : VRegNo) (q : SReg) (s : State) : Host.Outcome State Fault Refusal := unpack 16 2 d a q s

/-- VRAND (R158). -/
def execVrand (d : VRegNo) (s : State) : Host.Outcome State Fault Refusal :=
  run s (Opnds.vd d) fun c => .done (advanceRng c.g (c.setV d fun l => BitVec.ofNat 32 (c.philox l)))
/-- VRANDF: (w >> 8) · 2^−24, exact (R158). -/
def execVrandf (d : VRegNo) (s : State) : Host.Outcome State Fault Refusal :=
  run s (Opnds.vd d) fun c =>
    .done (advanceRng c.g (c.setV d fun l => BitVec.ofNat 32 (fp32.deliver .near false ((c.philox l / 256 : Nat) : Int) (-24)).1))

end Sys2Proof.Machine
end

