-- ==== Sys2Proof/Machine/Scalar.lean ====
section
/-! DEFINITION. Scalar arithmetic, immediates and constants: majors 0x01-0x0B (R108-R115). -/

namespace Sys2Proof.Machine

/-- An operation on two scalar registers (R110). -/
def scalar3 (d a b : SReg) (f : Word → Word → Word) (s : State) : Host.Outcome State Fault Refusal :=
  run s (Opnds.sss d a b) fun c => .done (c.setS d (f (c.sreg a) (c.sreg b)))

/-- An operation on one scalar register (R110). -/
def scalar2 (d a : SReg) (f : Word → Word) (s : State) : Host.Outcome State Fault Refusal :=
  run s (Opnds.ss d a) fun c => .done (c.setS d (f (c.sreg a)))

/-- A division or remainder: a zero divisor sets %STAT.DZ (R82, R32). -/
def scalarDiv (d a b : SReg) (f : Word → Word → Word) (s : State) : Host.Outcome State Fault Refusal :=
  run s (Opnds.sss d a b) fun c =>
    .done ((c.mapSlot fun t => { t with statDz := t.statDz || c.sreg b == 0 }).setS d (f (c.sreg a) (c.sreg b)))

/-- An operation on a scalar register and the sign-extended imm12 (R111). -/
def scalarImm (d a : SReg) (i : BitVec 12) (f : Word → Word → Word) (s : State) : Host.Outcome State Fault Refusal :=
  scalar2 d a (fun x => f x (i.signExtend 64)) s

/-- The low six bits of a shift count (R110). -/
def shamt (b : Word) : Nat := b.toNat % 64

/-- The sign-extended low word (ADDW, SUBW). -/
def sextW (x : Word) : Word := (x.setWidth 32).signExtend 64

/-- ADD (R110). -/
def execAdd (d a b : SReg) (s : State) : Host.Outcome State Fault Refusal := scalar3 d a b (fun x y => x + y) s
/-- SUB (R110). -/
def execSub (d a b : SReg) (s : State) : Host.Outcome State Fault Refusal := scalar3 d a b (fun x y => x - y) s
/-- AND (R110). -/
def execAnd (d a b : SReg) (s : State) : Host.Outcome State Fault Refusal := scalar3 d a b (fun x y => x &&& y) s
/-- OR (R110). -/
def execOr (d a b : SReg) (s : State) : Host.Outcome State Fault Refusal := scalar3 d a b (fun x y => x ||| y) s
/-- XOR (R110). -/
def execXor (d a b : SReg) (s : State) : Host.Outcome State Fault Refusal := scalar3 d a b (fun x y => x ^^^ y) s
/-- ANDN (R110). -/
def execAndn (d a b : SReg) (s : State) : Host.Outcome State Fault Refusal := scalar3 d a b (fun x y => x &&& ~~~y) s
/-- SHL (R110). -/
def execShl (d a b : SReg) (s : State) : Host.Outcome State Fault Refusal := scalar3 d a b (fun x y => x <<< shamt y) s
/-- SHR (R110). -/
def execShr (d a b : SReg) (s : State) : Host.Outcome State Fault Refusal := scalar3 d a b (fun x y => x >>> shamt y) s
/-- SAR (R110). -/
def execSar (d a b : SReg) (s : State) : Host.Outcome State Fault Refusal := scalar3 d a b (fun x y => x.sshiftRight (shamt y)) s
/-- ROR (R110). -/
def execRor (d a b : SReg) (s : State) : Host.Outcome State Fault Refusal := scalar3 d a b (fun x y => x.rotateRight (shamt y)) s
/-- MUL (R110). -/
def execMul (d a b : SReg) (s : State) : Host.Outcome State Fault Refusal := scalar3 d a b (fun x y => x * y) s
/-- MULH (R110). -/
def execMulh (d a b : SReg) (s : State) : Host.Outcome State Fault Refusal := scalar3 d a b (fun x y => mulHigh x y) s
/-- MULHU (R110). -/
def execMulhu (d a b : SReg) (s : State) : Host.Outcome State Fault Refusal := scalar3 d a b (fun x y => mulHighU x y) s
/-- DIV (R82). -/
def execDiv (d a b : SReg) (s : State) : Host.Outcome State Fault Refusal := scalarDiv d a b divS s
/-- DIVU (R82). -/
def execDivu (d a b : SReg) (s : State) : Host.Outcome State Fault Refusal := scalarDiv d a b divU s
/-- REM (R82). -/
def execRem (d a b : SReg) (s : State) : Host.Outcome State Fault Refusal := scalarDiv d a b remS s
/-- REMU (R82). -/
def execRemu (d a b : SReg) (s : State) : Host.Outcome State Fault Refusal := scalarDiv d a b remU s
/-- MIN (R110). -/
def execMin (d a b : SReg) (s : State) : Host.Outcome State Fault Refusal := scalar3 d a b (fun x y => minS x y) s
/-- MAX (R110). -/
def execMax (d a b : SReg) (s : State) : Host.Outcome State Fault Refusal := scalar3 d a b (fun x y => maxS x y) s
/-- MINU (R110). -/
def execMinu (d a b : SReg) (s : State) : Host.Outcome State Fault Refusal := scalar3 d a b (fun x y => minU x y) s
/-- MAXU (R110). -/
def execMaxu (d a b : SReg) (s : State) : Host.Outcome State Fault Refusal := scalar3 d a b (fun x y => maxU x y) s
/-- SEQ (R110). -/
def execSeq (d a b : SReg) (s : State) : Host.Outcome State Fault Refusal := scalar3 d a b (fun x y => bit (x == y)) s
/-- SNE (R110). -/
def execSne (d a b : SReg) (s : State) : Host.Outcome State Fault Refusal := scalar3 d a b (fun x y => bit (x != y)) s
/-- SLT (R110). -/
def execSlt (d a b : SReg) (s : State) : Host.Outcome State Fault Refusal := scalar3 d a b (fun x y => bit (x.slt y)) s
/-- SLTU (R110). -/
def execSltu (d a b : SReg) (s : State) : Host.Outcome State Fault Refusal := scalar3 d a b (fun x y => bit (x.ult y)) s
/-- SLE (R110). -/
def execSle (d a b : SReg) (s : State) : Host.Outcome State Fault Refusal := scalar3 d a b (fun x y => bit (x.sle y)) s
/-- SLEU (R110). -/
def execSleu (d a b : SReg) (s : State) : Host.Outcome State Fault Refusal := scalar3 d a b (fun x y => bit (x.ule y)) s
/-- CLZ (R110). -/
def execClz (d a : SReg) (s : State) : Host.Outcome State Fault Refusal := scalar2 d a clz s
/-- POPC (R110). -/
def execPopc (d a : SReg) (s : State) : Host.Outcome State Fault Refusal := scalar2 d a popc s
/-- BREV (R110). -/
def execBrev (d a : SReg) (s : State) : Host.Outcome State Fault Refusal := scalar2 d a brev s
/-- ADDW (R110). -/
def execAddw (d a b : SReg) (s : State) : Host.Outcome State Fault Refusal := scalar3 d a b (fun x y => sextW (x + y)) s
/-- SUBW (R110). -/
def execSubw (d a b : SReg) (s : State) : Host.Outcome State Fault Refusal := scalar3 d a b (fun x y => sextW (x - y)) s
/-- ADDI (R111). -/
def execAddi (d a : SReg) (i : BitVec 12) (s : State) : Host.Outcome State Fault Refusal := scalarImm d a i (fun x y => x + y) s
/-- ANDI (R111). -/
def execAndi (d a : SReg) (i : BitVec 12) (s : State) : Host.Outcome State Fault Refusal := scalarImm d a i (fun x y => x &&& y) s
/-- ORI (R111). -/
def execOri (d a : SReg) (i : BitVec 12) (s : State) : Host.Outcome State Fault Refusal := scalarImm d a i (fun x y => x ||| y) s
/-- XORI (R111). -/
def execXori (d a : SReg) (i : BitVec 12) (s : State) : Host.Outcome State Fault Refusal := scalarImm d a i (fun x y => x ^^^ y) s
/-- SLTI (R111). -/
def execSlti (d a : SReg) (i : BitVec 12) (s : State) : Host.Outcome State Fault Refusal := scalarImm d a i (fun x y => bit (x.slt y)) s
/-- SLTIU (R111). -/
def execSltiu (d a : SReg) (i : BitVec 12) (s : State) : Host.Outcome State Fault Refusal := scalarImm d a i (fun x y => bit (x.ult y)) s
/-- SHLI (R112). -/
def execShli (d a : SReg) (n : BitVec 6) (s : State) : Host.Outcome State Fault Refusal := scalar2 d a (fun x => x <<< n.toNat) s
/-- SHRI (R112). -/
def execShri (d a : SReg) (n : BitVec 6) (s : State) : Host.Outcome State Fault Refusal := scalar2 d a (fun x => x >>> n.toNat) s
/-- SARI (R112). -/
def execSari (d a : SReg) (n : BitVec 6) (s : State) : Host.Outcome State Fault Refusal := scalar2 d a (fun x => x.sshiftRight n.toNat) s
/-- RORI (R112). -/
def execRori (d a : SReg) (n : BitVec 6) (s : State) : Host.Outcome State Fault Refusal := scalar2 d a (fun x => x.rotateRight n.toNat) s
/-- LUI: the sign-extended imm19 shifted left by 13 (R113). -/
def execLui (d : SReg) (i : BitVec 19) (s : State) : Host.Outcome State Fault Refusal :=
  run s (Opnds.d d) fun c => .done (c.setS d (i.signExtend 64 <<< 13))
/-- ADDPC: relative to the header of the clause that holds it (R114). -/
def execAddpc (d : SReg) (i : BitVec 19) (s : State) : Host.Outcome State Fault Refusal :=
  run s (Opnds.d d) fun c => .done (c.setS d (c.slot.head + i.signExtend 64 * 4))
/-- MOVL: the sign-extended literal (R68). -/
def execMovl (d : SReg) (lit : BitVec 32) (s : State) : Host.Outcome State Fault Refusal :=
  run s { Opnds.d d with words := 2 } fun c => .done (c.setS d (lit.signExtend 64))
/-- MOVLZ: the zero-extended literal (R68). -/
def execMovlz (d : SReg) (lit : BitVec 32) (s : State) : Host.Outcome State Fault Refusal :=
  run s { Opnds.d d with words := 2 } fun c => .done (c.setS d (lit.setWidth 64))
/-- MOVLH: the literal over the register's low half, which it reads; a pending register is waited for and a taken one merged
(R115, R339). -/
def execMovlh (d : SReg) (lit : BitVec 32) (s : State) : Host.Outcome State Fault Refusal :=
  run s { Opnds.d d with words := 2, prior := [.s d] } fun c => .done (c.setS d (lit ++ (c.sreg d).setWidth 32))

end Sys2Proof.Machine
end

