-- ==== Sys2Proof/Machine/VectorFp.lean ====
section
/-! DEFINITION. Floating-point lane arithmetic and conversion: majors 0x15-0x18 (R150-R154). -/

namespace Sys2Proof.Machine

/-- A result of Nat patterns as a lane. -/
def fpLane (r : Nat × FpFlags) : Lane × FpFlags := (BitVec.ofNat 32 r.1, r.2)

/-- A floating-point lane operation of two vector registers: the flags of the active lanes are gathered (R141). -/
def fpLanes3 (d a b : VRegNo) (f : Rm → Nat → Nat → Nat × FpFlags) (s : State) : Host.Outcome State Fault Refusal :=
  run s (Opnds.vvv d a b) fun c =>
    .done (c.setVF d fun l => fpLane (f c.rm (lane (c.vreg a) l).toNat (lane (c.vreg b) l).toNat))

/-- With a broadcast scalar srcB (R150). -/
def fpLanesS (d a : VRegNo) (b : SReg) (f : Rm → Nat → Nat → Nat × FpFlags) (s : State) :
    Host.Outcome State Fault Refusal :=
  run s (Opnds.vvs d a b) fun c =>
    .done (c.setVF d fun l => fpLane (f c.rm (lane (c.vreg a) l).toNat ((c.sreg b).toNat % 2 ^ 32)))

/-- A unary floating-point lane operation. -/
def fpLanes2 (d a : VRegNo) (f : Rm → Nat → Nat × FpFlags) (s : State) : Host.Outcome State Fault Refusal :=
  run s (Opnds.vv d a) fun c => .done (c.setVF d fun l => fpLane (f c.rm (lane (c.vreg a) l).toNat))

/-- A fused multiply-add: the destination is also the addend (R71). -/
def fpFma3 (d a b : VRegNo) (np nd : Bool) (s : State) : Host.Outcome State Fault Refusal :=
  run s (Opnds.vvvAcc d a b) fun c =>
    .done (c.setVF d fun l => fpLane
      (fp32.fma c.rm np nd (lane (c.vreg a) l).toNat (lane (c.vreg b) l).toNat (lane (c.vreg d) l).toNat))

/-- A fused multiply-add with a broadcast scalar srcB. -/
def fpFmaS (d a : VRegNo) (b : SReg) (np nd : Bool) (s : State) : Host.Outcome State Fault Refusal :=
  run s (Opnds.vvsAcc d a b) fun c =>
    .done (c.setVF d fun l => fpLane
      (fp32.fma c.rm np nd (lane (c.vreg a) l).toNat ((c.sreg b).toNat % 2 ^ 32) (lane (c.vreg d) l).toNat))

/-- A bit operation on patterns, which raises no flag (R84). -/
def fpBits (f : Nat → Nat → Nat) : Rm → Nat → Nat → Nat × FpFlags := fun _ x y => (f x y, 0)

/-- A comparison's 1 or 0 in the lane (R150). -/
def fpCmp (k : FpCmp) : Rm → Nat → Nat → Nat × FpFlags := fun _ x y => fp32.compare k x y

/-- The sign bit of a binary32 pattern. -/
def sign32 (x : Nat) : Nat := x / 2 ^ 31 * 2 ^ 31

/-- VFADD (R150). -/
def execVfadd (d a b : VRegNo) (s : State) : Host.Outcome State Fault Refusal := fpLanes3 d a b (fun rm => fp32.op rm .add) s
/-- VFADD with a scalar srcB (R150). -/
def execVfaddScalar (d a : VRegNo) (b : SReg) (s : State) : Host.Outcome State Fault Refusal := fpLanesS d a b (fun rm => fp32.op rm .add) s
/-- VFSUB (R150). -/
def execVfsub (d a b : VRegNo) (s : State) : Host.Outcome State Fault Refusal := fpLanes3 d a b (fun rm => fp32.op rm .sub) s
/-- VFSUB with a scalar srcB (R150). -/
def execVfsubScalar (d a : VRegNo) (b : SReg) (s : State) : Host.Outcome State Fault Refusal := fpLanesS d a b (fun rm => fp32.op rm .sub) s
/-- VFMUL (R150). -/
def execVfmul (d a b : VRegNo) (s : State) : Host.Outcome State Fault Refusal := fpLanes3 d a b (fun rm => fp32.op rm .mul) s
/-- VFMUL with a scalar srcB (R150). -/
def execVfmulScalar (d a : VRegNo) (b : SReg) (s : State) : Host.Outcome State Fault Refusal := fpLanesS d a b (fun rm => fp32.op rm .mul) s
/-- VFMIN (R150). -/
def execVfmin (d a b : VRegNo) (s : State) : Host.Outcome State Fault Refusal := fpLanes3 d a b (fun _ => fp32.minmax false) s
/-- VFMIN with a scalar srcB (R150). -/
def execVfminScalar (d a : VRegNo) (b : SReg) (s : State) : Host.Outcome State Fault Refusal := fpLanesS d a b (fun _ => fp32.minmax false) s
/-- VFMAX (R150). -/
def execVfmax (d a b : VRegNo) (s : State) : Host.Outcome State Fault Refusal := fpLanes3 d a b (fun _ => fp32.minmax true) s
/-- VFMAX with a scalar srcB (R150). -/
def execVfmaxScalar (d a : VRegNo) (b : SReg) (s : State) : Host.Outcome State Fault Refusal := fpLanesS d a b (fun _ => fp32.minmax true) s
/-- VFMINNUM (R150). -/
def execVfminnum (d a b : VRegNo) (s : State) : Host.Outcome State Fault Refusal := fpLanes3 d a b (fun _ => fp32.minmaxNum false) s
/-- VFMINNUM with a scalar srcB (R150). -/
def execVfminnumScalar (d a : VRegNo) (b : SReg) (s : State) : Host.Outcome State Fault Refusal := fpLanesS d a b (fun _ => fp32.minmaxNum false) s
/-- VFMAXNUM (R150). -/
def execVfmaxnum (d a b : VRegNo) (s : State) : Host.Outcome State Fault Refusal := fpLanes3 d a b (fun _ => fp32.minmaxNum true) s
/-- VFMAXNUM with a scalar srcB (R150). -/
def execVfmaxnumScalar (d a : VRegNo) (b : SReg) (s : State) : Host.Outcome State Fault Refusal := fpLanesS d a b (fun _ => fp32.minmaxNum true) s
/-- VFCEQ (R150). -/
def execVfceq (d a b : VRegNo) (s : State) : Host.Outcome State Fault Refusal := fpLanes3 d a b (fpCmp .eq) s
/-- VFCEQ with a scalar srcB (R150). -/
def execVfceqScalar (d a : VRegNo) (b : SReg) (s : State) : Host.Outcome State Fault Refusal := fpLanesS d a b (fpCmp .eq) s
/-- VFCLT (R150). -/
def execVfclt (d a b : VRegNo) (s : State) : Host.Outcome State Fault Refusal := fpLanes3 d a b (fpCmp .lt) s
/-- VFCLT with a scalar srcB (R150). -/
def execVfcltScalar (d a : VRegNo) (b : SReg) (s : State) : Host.Outcome State Fault Refusal := fpLanesS d a b (fpCmp .lt) s
/-- VFCLE (R150). -/
def execVfcle (d a b : VRegNo) (s : State) : Host.Outcome State Fault Refusal := fpLanes3 d a b (fpCmp .le) s
/-- VFCLE with a scalar srcB (R150). -/
def execVfcleScalar (d a : VRegNo) (b : SReg) (s : State) : Host.Outcome State Fault Refusal := fpLanesS d a b (fpCmp .le) s
/-- VFCUN (R150). -/
def execVfcun (d a b : VRegNo) (s : State) : Host.Outcome State Fault Refusal := fpLanes3 d a b (fpCmp .un) s
/-- VFCUN with a scalar srcB (R150). -/
def execVfcunScalar (d a : VRegNo) (b : SReg) (s : State) : Host.Outcome State Fault Refusal := fpLanesS d a b (fpCmp .un) s
/-- VFDIV (R150). -/
def execVfdiv (d a b : VRegNo) (s : State) : Host.Outcome State Fault Refusal := fpLanes3 d a b (fun rm => fp32.op rm .div) s
/-- VFDIV with a scalar srcB (R150). -/
def execVfdivScalar (d a : VRegNo) (b : SReg) (s : State) : Host.Outcome State Fault Refusal := fpLanesS d a b (fun rm => fp32.op rm .div) s
/-- VFCOPYSIGN (R150). -/
def execVfcopysign (d a b : VRegNo) (s : State) : Host.Outcome State Fault Refusal := fpLanes3 d a b (fpBits fun x y => x % 2 ^ 31 + sign32 y) s
/-- VFCOPYSIGN with a scalar srcB (R150). -/
def execVfcopysignScalar (d a : VRegNo) (b : SReg) (s : State) : Host.Outcome State Fault Refusal := fpLanesS d a b (fpBits fun x y => x % 2 ^ 31 + sign32 y) s
/-- VFABS (R150). -/
def execVfabs (d a : VRegNo) (s : State) : Host.Outcome State Fault Refusal := fpLanes2 d a (fun _ x => (x % 2 ^ 31, 0)) s
/-- VFNEG (R150). -/
def execVfneg (d a : VRegNo) (s : State) : Host.Outcome State Fault Refusal := fpLanes2 d a (fun _ x => (x % 2 ^ 31 + (2 ^ 31 - sign32 x), 0)) s
/-- VFSQRT (R150). -/
def execVfsqrt (d a : VRegNo) (s : State) : Host.Outcome State Fault Refusal := fpLanes2 d a (fun rm x => fp32.sqrtV rm (fp32.unpack x)) s
/-- VFRCP (R150). -/
def execVfrcp (d a : VRegNo) (s : State) : Host.Outcome State Fault Refusal := fpLanes2 d a (fun rm x => fp32.divV rm (.num false 1 0) (fp32.unpack x)) s
/-- VFRSQ (R150). -/
def execVfrsq (d a : VRegNo) (s : State) : Host.Outcome State Fault Refusal := fpLanes2 d a (fun rm x => fp32.rsqrtV rm (fp32.unpack x)) s
/-- VFEXP2 (R150). -/
def execVfexp2 (d a : VRegNo) (s : State) : Host.Outcome State Fault Refusal := fpLanes2 d a (fun rm x => fp32.exp2V rm (fp32.unpack x)) s
/-- VFLOG2 (R150). -/
def execVflog2 (d a : VRegNo) (s : State) : Host.Outcome State Fault Refusal := fpLanes2 d a (fun rm x => fp32.log2V rm (fp32.unpack x)) s
/-- VFRINT (R150). -/
def execVfrint (d a : VRegNo) (s : State) : Host.Outcome State Fault Refusal := fpLanes2 d a (fun rm x => fp32.rintV rm (fp32.unpack x)) s
/-- VFCLASS (R150). -/
def execVfclass (d a : VRegNo) (s : State) : Host.Outcome State Fault Refusal := fpLanes2 d a (fun _ x => (fp32.classOf x, 0)) s
/-- VFMA (R150). -/
def execVfma (d a b : VRegNo) (s : State) : Host.Outcome State Fault Refusal := fpFma3 d a b false false s
/-- VFMA with a scalar srcB (R150). -/
def execVfmaScalar (d a : VRegNo) (b : SReg) (s : State) : Host.Outcome State Fault Refusal := fpFmaS d a b false false s
/-- VFMS (R150). -/
def execVfms (d a b : VRegNo) (s : State) : Host.Outcome State Fault Refusal := fpFma3 d a b false true s
/-- VFMS with a scalar srcB (R150). -/
def execVfmsScalar (d a : VRegNo) (b : SReg) (s : State) : Host.Outcome State Fault Refusal := fpFmaS d a b false true s
/-- VFNMA (R150). -/
def execVfnma (d a b : VRegNo) (s : State) : Host.Outcome State Fault Refusal := fpFma3 d a b true false s
/-- VFNMA with a scalar srcB (R150). -/
def execVfnmaScalar (d a : VRegNo) (b : SReg) (s : State) : Host.Outcome State Fault Refusal := fpFmaS d a b true false s

/-- Results for the two 16-bit elements of a lane, their flags gathered (R152). -/
def halvesF (f : Nat → Nat → Nat × FpFlags) (x y : Nat) : Nat × FpFlags :=
  let lo := f (x % 65536) (y % 65536)
  let hi := f (x / 65536) (y / 65536)
  (hi.1 * 65536 + lo.1, lo.2 ||| hi.2)

/-- A VHFOP operation (R152). -/
def fpHalves (d a b : VRegNo) (f : Rm → Nat → Nat → Nat × FpFlags) (s : State) : Host.Outcome State Fault Refusal :=
  fpLanes3 d a b (fun rm => halvesF (f rm)) s

/-- VHFMA (R152). -/
def fpHalvesFma (t : FpFmt) (d a b : VRegNo) (s : State) : Host.Outcome State Fault Refusal :=
  run s (Opnds.vvvAcc d a b) fun c =>
    .done (c.setVF d fun l =>
      let x := (lane (c.vreg a) l).toNat
      let y := (lane (c.vreg b) l).toNat
      let z := (lane (c.vreg d) l).toNat
      let lo := t.fma c.rm false false (x % 65536) (y % 65536) (z % 65536)
      let hi := t.fma c.rm false false (x / 65536) (y / 65536) (z / 65536)
      (BitVec.ofNat 32 (hi.1 * 65536 + lo.1), lo.2 ||| hi.2))

/-- VHADD (R152). -/
def execVhadd (d a b : VRegNo) (s : State) : Host.Outcome State Fault Refusal := fpHalves d a b (fun rm => fp16.op rm .add) s
/-- VHSUB (R152). -/
def execVhsub (d a b : VRegNo) (s : State) : Host.Outcome State Fault Refusal := fpHalves d a b (fun rm => fp16.op rm .sub) s
/-- VHMUL (R152). -/
def execVhmul (d a b : VRegNo) (s : State) : Host.Outcome State Fault Refusal := fpHalves d a b (fun rm => fp16.op rm .mul) s
/-- VHMIN (R152). -/
def execVhmin (d a b : VRegNo) (s : State) : Host.Outcome State Fault Refusal := fpHalves d a b (fun _ => fp16.minmax false) s
/-- VHMAX (R152). -/
def execVhmax (d a b : VRegNo) (s : State) : Host.Outcome State Fault Refusal := fpHalves d a b (fun _ => fp16.minmax true) s
/-- VHCEQ (R152). -/
def execVhceq (d a b : VRegNo) (s : State) : Host.Outcome State Fault Refusal := fpHalves d a b (fun _ => fp16.compare .eq) s
/-- VHCLT (R152). -/
def execVhclt (d a b : VRegNo) (s : State) : Host.Outcome State Fault Refusal := fpHalves d a b (fun _ => fp16.compare .lt) s
/-- VHCLE (R152). -/
def execVhcle (d a b : VRegNo) (s : State) : Host.Outcome State Fault Refusal := fpHalves d a b (fun _ => fp16.compare .le) s
/-- VHCUN (R152). -/
def execVhcun (d a b : VRegNo) (s : State) : Host.Outcome State Fault Refusal := fpHalves d a b (fun _ => fp16.compare .un) s
/-- VHFMA (R152). -/
def execVhfma (d a b : VRegNo) (s : State) : Host.Outcome State Fault Refusal := fpHalvesFma fp16 d a b s
/-- VHADD.BF (R152). -/
def execVhaddBf (d a b : VRegNo) (s : State) : Host.Outcome State Fault Refusal := fpHalves d a b (fun rm => bf16.op rm .add) s
/-- VHSUB.BF (R152). -/
def execVhsubBf (d a b : VRegNo) (s : State) : Host.Outcome State Fault Refusal := fpHalves d a b (fun rm => bf16.op rm .sub) s
/-- VHMUL.BF (R152). -/
def execVhmulBf (d a b : VRegNo) (s : State) : Host.Outcome State Fault Refusal := fpHalves d a b (fun rm => bf16.op rm .mul) s
/-- VHMIN.BF (R152). -/
def execVhminBf (d a b : VRegNo) (s : State) : Host.Outcome State Fault Refusal := fpHalves d a b (fun _ => bf16.minmax false) s
/-- VHMAX.BF (R152). -/
def execVhmaxBf (d a b : VRegNo) (s : State) : Host.Outcome State Fault Refusal := fpHalves d a b (fun _ => bf16.minmax true) s
/-- VHCEQ.BF (R152). -/
def execVhceqBf (d a b : VRegNo) (s : State) : Host.Outcome State Fault Refusal := fpHalves d a b (fun _ => bf16.compare .eq) s
/-- VHCLT.BF (R152). -/
def execVhcltBf (d a b : VRegNo) (s : State) : Host.Outcome State Fault Refusal := fpHalves d a b (fun _ => bf16.compare .lt) s
/-- VHCLE.BF (R152). -/
def execVhcleBf (d a b : VRegNo) (s : State) : Host.Outcome State Fault Refusal := fpHalves d a b (fun _ => bf16.compare .le) s
/-- VHCUN.BF (R152). -/
def execVhcunBf (d a b : VRegNo) (s : State) : Host.Outcome State Fault Refusal := fpHalves d a b (fun _ => bf16.compare .un) s
/-- VHFMA.BF (R152). -/
def execVhfmaBf (d a b : VRegNo) (s : State) : Host.Outcome State Fault Refusal := fpHalvesFma bf16 d a b s

/-- VCVT (R153, R154): `st` selects stochastic rounding, `sat` saturation, `k` the source kind. %CVTSRC is checked at
execution. -/
def execVcvt (d a : VRegNo) (f : BitVec 7) (st sat : Bool) (k : BitVec 3) (s : State) : Host.Outcome State Fault Refusal :=
  run s (Opnds.vv d a) fun c =>
    let src := c.slot.cvtSrc.toNat
    if k = 6 ∧ ¬ isCvtSrc src then .trap { kind := .illegal }
    else
      let c' := c.setVF d fun l =>
        let rm := if st then .stoch (c.philox l / 65536) else c.rm
        fpLane (cvtLane f.toNat rm sat (cvtSource k src (lane (c.vreg a) l)))
      .done (if st then advanceRng c.g c' else c')

end Sys2Proof.Machine
end

