-- ==== Sys2Proof/Machine/VectorInt.lean ====
section
/-! DEFINITION. Integer lane arithmetic: majors 0x12-0x14 (R148, R149). -/

namespace Sys2Proof.Machine

/-- A lane operation of two vector registers (R148). -/
def lanes3 (d a b : VRegNo) (f : Lane → Lane → Lane) (s : State) : Host.Outcome State Fault Refusal :=
  run s (Opnds.vvv d a b) fun c => .done (c.setV d fun l => f (lane (c.vreg a) l) (lane (c.vreg b) l))

/-- A lane operation of a vector register and a broadcast scalar's low word (R148). -/
def lanesS (d a : VRegNo) (b : SReg) (f : Lane → Lane → Lane) (s : State) : Host.Outcome State Fault Refusal :=
  run s (Opnds.vvs d a b) fun c => .done (c.setV d fun l => f (lane (c.vreg a) l) ((c.sreg b).setWidth 32))

/-- A lane operation of one vector register. -/
def lanes2 (d a : VRegNo) (f : Lane → Lane) (s : State) : Host.Outcome State Fault Refusal :=
  run s (Opnds.vv d a) fun c => .done (c.setV d fun l => f (lane (c.vreg a) l))

/-- VADD (R148). -/
def execVadd (d a b : VRegNo) (s : State) : Host.Outcome State Fault Refusal := lanes3 d a b (fun x y => x + y) s
/-- VSUB (R148). -/
def execVsub (d a b : VRegNo) (s : State) : Host.Outcome State Fault Refusal := lanes3 d a b (fun x y => x - y) s
/-- VMUL (R148). -/
def execVmul (d a b : VRegNo) (s : State) : Host.Outcome State Fault Refusal := lanes3 d a b (fun x y => x * y) s
/-- VMULH (R148). -/
def execVmulh (d a b : VRegNo) (s : State) : Host.Outcome State Fault Refusal := lanes3 d a b (fun x y => mulHigh x y) s
/-- VMULHU (R148). -/
def execVmulhu (d a b : VRegNo) (s : State) : Host.Outcome State Fault Refusal := lanes3 d a b (fun x y => mulHighU x y) s
/-- VAND (R148). -/
def execVand (d a b : VRegNo) (s : State) : Host.Outcome State Fault Refusal := lanes3 d a b (fun x y => x &&& y) s
/-- VOR (R148). -/
def execVor (d a b : VRegNo) (s : State) : Host.Outcome State Fault Refusal := lanes3 d a b (fun x y => x ||| y) s
/-- VXOR (R148). -/
def execVxor (d a b : VRegNo) (s : State) : Host.Outcome State Fault Refusal := lanes3 d a b (fun x y => x ^^^ y) s
/-- VANDN (R148). -/
def execVandn (d a b : VRegNo) (s : State) : Host.Outcome State Fault Refusal := lanes3 d a b (fun x y => x &&& ~~~y) s
/-- VSHL (R148). -/
def execVshl (d a b : VRegNo) (s : State) : Host.Outcome State Fault Refusal := lanes3 d a b (fun x y => x <<< (y.toNat % 32)) s
/-- VSHR (R148). -/
def execVshr (d a b : VRegNo) (s : State) : Host.Outcome State Fault Refusal := lanes3 d a b (fun x y => x >>> (y.toNat % 32)) s
/-- VSAR (R148). -/
def execVsar (d a b : VRegNo) (s : State) : Host.Outcome State Fault Refusal := lanes3 d a b (fun x y => x.sshiftRight (y.toNat % 32)) s
/-- VMIN (R148). -/
def execVmin (d a b : VRegNo) (s : State) : Host.Outcome State Fault Refusal := lanes3 d a b (fun x y => minS x y) s
/-- VMAX (R148). -/
def execVmax (d a b : VRegNo) (s : State) : Host.Outcome State Fault Refusal := lanes3 d a b (fun x y => maxS x y) s
/-- VMINU (R148). -/
def execVminu (d a b : VRegNo) (s : State) : Host.Outcome State Fault Refusal := lanes3 d a b (fun x y => minU x y) s
/-- VMAXU (R148). -/
def execVmaxu (d a b : VRegNo) (s : State) : Host.Outcome State Fault Refusal := lanes3 d a b (fun x y => maxU x y) s
/-- VABS (R148). -/
def execVabs (d a : VRegNo) (s : State) : Host.Outcome State Fault Refusal := lanes2 d a absS s
/-- VNEG (R148). -/
def execVneg (d a : VRegNo) (s : State) : Host.Outcome State Fault Refusal := lanes2 d a (0 - ·) s
/-- VSEQ (R148). -/
def execVseq (d a b : VRegNo) (s : State) : Host.Outcome State Fault Refusal := lanes3 d a b (fun x y => bit (x == y)) s
/-- VSNE (R148). -/
def execVsne (d a b : VRegNo) (s : State) : Host.Outcome State Fault Refusal := lanes3 d a b (fun x y => bit (x != y)) s
/-- VSLT (R148). -/
def execVslt (d a b : VRegNo) (s : State) : Host.Outcome State Fault Refusal := lanes3 d a b (fun x y => bit (x.slt y)) s
/-- VSLTU (R148). -/
def execVsltu (d a b : VRegNo) (s : State) : Host.Outcome State Fault Refusal := lanes3 d a b (fun x y => bit (x.ult y)) s
/-- VSLE (R148). -/
def execVsle (d a b : VRegNo) (s : State) : Host.Outcome State Fault Refusal := lanes3 d a b (fun x y => bit (x.sle y)) s
/-- VSLEU (R148). -/
def execVsleu (d a b : VRegNo) (s : State) : Host.Outcome State Fault Refusal := lanes3 d a b (fun x y => bit (x.ule y)) s
/-- VCLZ (R148). -/
def execVclz (d a : VRegNo) (s : State) : Host.Outcome State Fault Refusal := lanes2 d a clz s
/-- VPOPC (R148). -/
def execVpopc (d a : VRegNo) (s : State) : Host.Outcome State Fault Refusal := lanes2 d a popc s
/-- VADDSAT (R148). -/
def execVaddsat (d a b : VRegNo) (s : State) : Host.Outcome State Fault Refusal := lanes3 d a b (fun x y => clampS 32 (x.toInt + y.toInt)) s
/-- VSUBSAT (R148). -/
def execVsubsat (d a b : VRegNo) (s : State) : Host.Outcome State Fault Refusal := lanes3 d a b (fun x y => clampS 32 (x.toInt - y.toInt)) s
/-- VADDSATU (R148). -/
def execVaddsatu (d a b : VRegNo) (s : State) : Host.Outcome State Fault Refusal := lanes3 d a b (fun x y => clampU 32 ((x.toNat : Int) + y.toNat)) s
/-- VSUBSATU (R148). -/
def execVsubsatu (d a b : VRegNo) (s : State) : Host.Outcome State Fault Refusal := lanes3 d a b (fun x y => clampU 32 ((x.toNat : Int) - y.toNat)) s
/-- VDOT4 (R148). -/
def execVdot4 (d a b : VRegNo) (s : State) : Host.Outcome State Fault Refusal := lanes3 d a b (fun x y => dot4 x y) s
/-- VDOT4U (R148). -/
def execVdot4u (d a b : VRegNo) (s : State) : Host.Outcome State Fault Refusal := lanes3 d a b (fun x y => dot4u x y) s
/-- VADD with a scalar srcB (R148). -/
def execVaddScalar (d a : VRegNo) (b : SReg) (s : State) : Host.Outcome State Fault Refusal := lanesS d a b (fun x y => x + y) s
/-- VSUB with a scalar srcB (R148). -/
def execVsubScalar (d a : VRegNo) (b : SReg) (s : State) : Host.Outcome State Fault Refusal := lanesS d a b (fun x y => x - y) s
/-- VMUL with a scalar srcB (R148). -/
def execVmulScalar (d a : VRegNo) (b : SReg) (s : State) : Host.Outcome State Fault Refusal := lanesS d a b (fun x y => x * y) s
/-- VMULH with a scalar srcB (R148). -/
def execVmulhScalar (d a : VRegNo) (b : SReg) (s : State) : Host.Outcome State Fault Refusal := lanesS d a b (fun x y => mulHigh x y) s
/-- VMULHU with a scalar srcB (R148). -/
def execVmulhuScalar (d a : VRegNo) (b : SReg) (s : State) : Host.Outcome State Fault Refusal := lanesS d a b (fun x y => mulHighU x y) s
/-- VAND with a scalar srcB (R148). -/
def execVandScalar (d a : VRegNo) (b : SReg) (s : State) : Host.Outcome State Fault Refusal := lanesS d a b (fun x y => x &&& y) s
/-- VOR with a scalar srcB (R148). -/
def execVorScalar (d a : VRegNo) (b : SReg) (s : State) : Host.Outcome State Fault Refusal := lanesS d a b (fun x y => x ||| y) s
/-- VXOR with a scalar srcB (R148). -/
def execVxorScalar (d a : VRegNo) (b : SReg) (s : State) : Host.Outcome State Fault Refusal := lanesS d a b (fun x y => x ^^^ y) s
/-- VANDN with a scalar srcB (R148). -/
def execVandnScalar (d a : VRegNo) (b : SReg) (s : State) : Host.Outcome State Fault Refusal := lanesS d a b (fun x y => x &&& ~~~y) s
/-- VSHL with a scalar srcB (R148). -/
def execVshlScalar (d a : VRegNo) (b : SReg) (s : State) : Host.Outcome State Fault Refusal := lanesS d a b (fun x y => x <<< (y.toNat % 32)) s
/-- VSHR with a scalar srcB (R148). -/
def execVshrScalar (d a : VRegNo) (b : SReg) (s : State) : Host.Outcome State Fault Refusal := lanesS d a b (fun x y => x >>> (y.toNat % 32)) s
/-- VSAR with a scalar srcB (R148). -/
def execVsarScalar (d a : VRegNo) (b : SReg) (s : State) : Host.Outcome State Fault Refusal := lanesS d a b (fun x y => x.sshiftRight (y.toNat % 32)) s
/-- VMIN with a scalar srcB (R148). -/
def execVminScalar (d a : VRegNo) (b : SReg) (s : State) : Host.Outcome State Fault Refusal := lanesS d a b (fun x y => minS x y) s
/-- VMAX with a scalar srcB (R148). -/
def execVmaxScalar (d a : VRegNo) (b : SReg) (s : State) : Host.Outcome State Fault Refusal := lanesS d a b (fun x y => maxS x y) s
/-- VMINU with a scalar srcB (R148). -/
def execVminuScalar (d a : VRegNo) (b : SReg) (s : State) : Host.Outcome State Fault Refusal := lanesS d a b (fun x y => minU x y) s
/-- VMAXU with a scalar srcB (R148). -/
def execVmaxuScalar (d a : VRegNo) (b : SReg) (s : State) : Host.Outcome State Fault Refusal := lanesS d a b (fun x y => maxU x y) s
/-- VSEQ with a scalar srcB (R148). -/
def execVseqScalar (d a : VRegNo) (b : SReg) (s : State) : Host.Outcome State Fault Refusal := lanesS d a b (fun x y => bit (x == y)) s
/-- VSNE with a scalar srcB (R148). -/
def execVsneScalar (d a : VRegNo) (b : SReg) (s : State) : Host.Outcome State Fault Refusal := lanesS d a b (fun x y => bit (x != y)) s
/-- VSLT with a scalar srcB (R148). -/
def execVsltScalar (d a : VRegNo) (b : SReg) (s : State) : Host.Outcome State Fault Refusal := lanesS d a b (fun x y => bit (x.slt y)) s
/-- VSLTU with a scalar srcB (R148). -/
def execVsltuScalar (d a : VRegNo) (b : SReg) (s : State) : Host.Outcome State Fault Refusal := lanesS d a b (fun x y => bit (x.ult y)) s
/-- VSLE with a scalar srcB (R148). -/
def execVsleScalar (d a : VRegNo) (b : SReg) (s : State) : Host.Outcome State Fault Refusal := lanesS d a b (fun x y => bit (x.sle y)) s
/-- VSLEU with a scalar srcB (R148). -/
def execVsleuScalar (d a : VRegNo) (b : SReg) (s : State) : Host.Outcome State Fault Refusal := lanesS d a b (fun x y => bit (x.ule y)) s
/-- VADDSAT with a scalar srcB (R148). -/
def execVaddsatScalar (d a : VRegNo) (b : SReg) (s : State) : Host.Outcome State Fault Refusal := lanesS d a b (fun x y => clampS 32 (x.toInt + y.toInt)) s
/-- VSUBSAT with a scalar srcB (R148). -/
def execVsubsatScalar (d a : VRegNo) (b : SReg) (s : State) : Host.Outcome State Fault Refusal := lanesS d a b (fun x y => clampS 32 (x.toInt - y.toInt)) s
/-- VADDSATU with a scalar srcB (R148). -/
def execVaddsatuScalar (d a : VRegNo) (b : SReg) (s : State) : Host.Outcome State Fault Refusal := lanesS d a b (fun x y => clampU 32 ((x.toNat : Int) + y.toNat)) s
/-- VSUBSATU with a scalar srcB (R148). -/
def execVsubsatuScalar (d a : VRegNo) (b : SReg) (s : State) : Host.Outcome State Fault Refusal := lanesS d a b (fun x y => clampU 32 ((x.toNat : Int) - y.toNat)) s
/-- VDOT4 with a scalar srcB (R148). -/
def execVdot4Scalar (d a : VRegNo) (b : SReg) (s : State) : Host.Outcome State Fault Refusal := lanesS d a b (fun x y => dot4 x y) s
/-- VDOT4U with a scalar srcB (R148). -/
def execVdot4uScalar (d a : VRegNo) (b : SReg) (s : State) : Host.Outcome State Fault Refusal := lanesS d a b (fun x y => dot4u x y) s
/-- VADD.H (R149). -/
def execVaddH (d a b : VRegNo) (s : State) : Host.Outcome State Fault Refusal := lanes3 d a b (halves fun x y => x + y) s
/-- VSUB.H (R149). -/
def execVsubH (d a b : VRegNo) (s : State) : Host.Outcome State Fault Refusal := lanes3 d a b (halves fun x y => x - y) s
/-- VMUL.H (R149). -/
def execVmulH (d a b : VRegNo) (s : State) : Host.Outcome State Fault Refusal := lanes3 d a b (halves fun x y => x * y) s
/-- VMULH.H (R149). -/
def execVmulhH (d a b : VRegNo) (s : State) : Host.Outcome State Fault Refusal := lanes3 d a b (halves fun x y => mulHigh x y) s
/-- VMIN.H (R149). -/
def execVminH (d a b : VRegNo) (s : State) : Host.Outcome State Fault Refusal := lanes3 d a b (halves fun x y => minS x y) s
/-- VMAX.H (R149). -/
def execVmaxH (d a b : VRegNo) (s : State) : Host.Outcome State Fault Refusal := lanes3 d a b (halves fun x y => maxS x y) s
/-- VMINU.H (R149). -/
def execVminuH (d a b : VRegNo) (s : State) : Host.Outcome State Fault Refusal := lanes3 d a b (halves fun x y => minU x y) s
/-- VMAXU.H (R149). -/
def execVmaxuH (d a b : VRegNo) (s : State) : Host.Outcome State Fault Refusal := lanes3 d a b (halves fun x y => maxU x y) s
/-- VADDSAT.H (R149). -/
def execVaddsatH (d a b : VRegNo) (s : State) : Host.Outcome State Fault Refusal := lanes3 d a b (halves fun x y => clampS 16 (x.toInt + y.toInt)) s
/-- VSUBSAT.H (R149). -/
def execVsubsatH (d a b : VRegNo) (s : State) : Host.Outcome State Fault Refusal := lanes3 d a b (halves fun x y => clampS 16 (x.toInt - y.toInt)) s
/-- VADDSATU.H (R149). -/
def execVaddsatuH (d a b : VRegNo) (s : State) : Host.Outcome State Fault Refusal := lanes3 d a b (halves fun x y => clampU 16 ((x.toNat : Int) + y.toNat)) s
/-- VSUBSATU.H (R149). -/
def execVsubsatuH (d a b : VRegNo) (s : State) : Host.Outcome State Fault Refusal := lanes3 d a b (halves fun x y => clampU 16 ((x.toNat : Int) - y.toNat)) s
/-- VSEQ.H (R149). -/
def execVseqH (d a b : VRegNo) (s : State) : Host.Outcome State Fault Refusal := lanes3 d a b (halves fun x y => bit (x == y)) s
/-- VSLT.H (R149). -/
def execVsltH (d a b : VRegNo) (s : State) : Host.Outcome State Fault Refusal := lanes3 d a b (halves fun x y => bit (x.slt y)) s
/-- VSHL.H (R149). -/
def execVshlH (d a b : VRegNo) (s : State) : Host.Outcome State Fault Refusal := lanes3 d a b (halves fun x y => x <<< (y.toNat % 16)) s
/-- VSHR.H (R149). -/
def execVshrH (d a b : VRegNo) (s : State) : Host.Outcome State Fault Refusal := lanes3 d a b (halves fun x y => x >>> (y.toNat % 16)) s
/-- VSAR.H (R149). -/
def execVsarH (d a b : VRegNo) (s : State) : Host.Outcome State Fault Refusal := lanes3 d a b (halves fun x y => x.sshiftRight (y.toNat % 16)) s
/-- VABS.H (R149). -/
def execVabsH (d a : VRegNo) (s : State) : Host.Outcome State Fault Refusal := lanes2 d a (fun x => halves (fun y _ => absS y) x x) s

end Sys2Proof.Machine
end

