-- ==== Sys2Proof/Machine/Xacc.lean ====
section
/-! DEFINITION. Exact sums: major 0x1B (R159-R164). -/

namespace Sys2Proof.Machine

/-- The check of an image address (R160): `k` is the access KIND of the PROT word of R333. -/
def imageFault (pid : BitVec 16) (a : Word) (k : Nat) : Option FaultInfo :=
  if a.toNat / 2 ^ 60 ≠ 0 ∨ 0x200000 < a.toNat + 80 then
    some { kind := .prot, sector := a, aux := xlatWord pid k 2 7 }
  else if a.toNat % 16 ≠ 0 then some { kind := .align, sector := a }
  else none

/-- The 8-byte words of an image in the executing slot's own cell, the units of an access to it (R105, R279). -/
def imageUnits (g : GRef) (a : Word) : List OpUnit :=
  (List.range 10).map fun k =>
    { path := .local, elts := [{ lane := k, addr := a + BitVec.ofNat 64 (8 * k), n := 8
                                 loc := { store := .spad, pkg := g.pkg, cell := g.cell, off := a.toNat + 8 * k } }] }

/-- Runs an exact-sum instruction, which an outstanding acquire holds (R163, R169). -/
def runXacc (s : State) (o : Opnds) (body : Ctx → Issue) : Host.Outcome State Fault Refusal :=
  run s o fun c => if c.slot.acquiring then .hold else body c

/-- Issues an exact-sum access to the slot port, whose word updates are performed one after another (R163, R316); the slot
issues again only after the turns that R162 gives, by whose end the access has been performed whatever other slots do. -/
def issueXacc (c : Ctx) (a : Act) (dst : Dest) (units : List OpUnit) (turns : Nat) : Issue :=
  if 16 ≤ c.slot.unperformed then .hold
  else
    let o := { c.newOp a .local dst with units := units, posted := a == .store }
    let s := (c.s.addOp c.g o).atPort c.g o.id (List.range units.length) (portCycles a (units.flatMap (·.elts)))
      (some (16 * turns))
    .done (s.mapSlot c.g fun t => { t with hold := if turns ≤ 1 then t.hold else some { why := .xacc, till := c.cycle + 16 * turns } })

/-- Adds values to the image that a register names (R161). -/
def addImage (a : SReg) (b : VRegNo) (vals : Lane → List FpVal) (s : State) : Host.Outcome State Fault Refusal :=
  runXacc s (Opnds.image a b) fun c =>
    let addr := c.sreg a
    match imageFault c.slot.pid addr 2 with
    | some f => .trap f
    | none =>
      let vs := ((List.range 32).filter c.slot.isActive).flatMap fun l => vals (lane (c.vreg b) l)
      let i := vs.foldl Image.add (Image.ofNat 0)
      issueXacc c (.xacc (.add (i.toNat % 8) i.f)) .none (imageUnits c.g addr) 4

/-- XCLR: ten stores of zeros (R161). -/
def execXclr (a : SReg) (s : State) : Host.Outcome State Fault Refusal :=
  runXacc s (Opnds.a a) fun c =>
    let addr := c.sreg a
    match imageFault c.slot.pid addr 1 with
    | some f => .trap f
    | none => issueXacc c .store .none (imageUnits c.g addr) 1
/-- XADD (R161). -/
def execXadd (a : SReg) (b : VRegNo) (s : State) : Host.Outcome State Fault Refusal := addImage a b (fun x => [fp32.unpack x.toNat]) s
/-- XADDH: both FP16 elements of each active lane (R161). -/
def execXaddh (a : SReg) (b : VRegNo) (s : State) : Host.Outcome State Fault Refusal :=
  addImage a b (fun x => [fp16.unpack (x.toNat % 65536), fp16.unpack (x.toNat / 65536)]) s
/-- XMERGE: the whole source is read before a byte of the destination is written (R161). -/
def execXmerge (a b : SReg) (s : State) : Host.Outcome State Fault Refusal :=
  runXacc s (Opnds.ab a b) fun c =>
    match imageFault c.slot.pid (c.sreg a) 2, imageFault c.slot.pid (c.sreg b) 0 with
    | some f, _ => .trap f
    | none, some f => .trap f
    | none, none => issueXacc c (.xacc .merge) .none (imageUnits c.g (c.sreg b) ++ imageUnits c.g (c.sreg a)) 3

/-- XRD to a format (R161, R107). -/
def readOut (d a : SReg) (double : Bool) (s : State) : Host.Outcome State Fault Refusal :=
  runXacc s (Opnds.ss d a) fun c =>
    let addr := c.sreg a
    match imageFault c.slot.pid addr 0 with
    | some f => .trap f
    | none => issueXacc c (.xacc (.read double)) (.scalar d) (imageUnits c.g addr) 2

/-- XRD.S (R161). -/
def execXrdS (d a : SReg) (s : State) : Host.Outcome State Fault Refusal := readOut d a false s
/-- XRD.D (R161). -/
def execXrdD (d a : SReg) (s : State) : Host.Outcome State Fault Refusal := readOut d a true s

/-! ## At the slot port -/

/-- The value kept among those an operation has read. -/
def Op.kept (o : Op) (k : Nat) : Nat := ((o.got.find? (·.1 == k)).map (·.2.toNat)).getD 0

/-- One word of an image with a word of a sum added to it: the status word takes the status bits, bits 63:3 zero; a word of
F takes the sum's digit and the carry, and gives a carry (R106, R161). -/
def addWord (k w digit carry : Nat) : Nat × Nat :=
  if k = 0 then ((w ||| digit) % 8, 0) else ((w + digit + carry) % 2 ^ 64, (w + digit + carry) / 2 ^ 64)

/-- Digit `k` of what XADD adds: the status bits, then the words of the sum. -/
def sumDigit (status sum k : Nat) : Nat := if k = 0 then status else sum / 2 ^ (64 * (k - 1)) % 2 ^ 64

/-- What an exact-sum access does at its unit `j`, a word `w` of an image (R161, R163): the word it writes, if any, and what
it keeps for its later words: the words read, and under number 100 the carry. -/
def XaccOp.word (x : XaccOp) (o : Op) (j w : Nat) : Option Nat × List (Nat × Word) :=
  let update (k digit : Nat) : Option Nat × List (Nat × Word) :=
    let r := addWord k w digit (o.kept 100)
    (some r.1, (100, BitVec.ofNat 64 r.2) :: o.got.filter (·.1 != 100))
  match x with
  | .add st sum => update j (sumDigit st sum j)
  | .merge => if j < 10 then (none, o.got ++ [(j, BitVec.ofNat 64 w)]) else update (j - 10) (o.kept (j - 10))
  | .read _ => (none, o.got ++ [(j, BitVec.ofNat 64 w)])

/-- The image that an access has read. -/
def Op.image (o : Op) : Image := Image.ofNat ((List.range 10).foldl (fun x k => x + o.kept k * 2 ^ (64 * k)) 0)

/-- The bytes of a scratchpad word as they are stored, poisoned or not. -/
def State.storedWord (s : State) (l : Loc) : Nat := leNat (cellsRead (s.cellAt l.pkg l.cell).spad l.off 8)

/-- PERFORMS the next word of an exact-sum access (R163). Before the first, every word that it reads is looked at: a poisoned
one, the source's before the destination's, makes it trap with the image unchanged (R161, R164). From then on a word is
taken as it is stored: poison that comes upon it then comes after the access has looked at it. -/
def performXacc (s : State) (g : GRef) (o : Op) (x : XaccOp) (j : Nat) : State :=
  match o.units[j]?.bind (·.elts.head?) with
  | none => s
  | some e =>
    match (if o.units.any (·.done) then none else poisonOf s (o.units.flatMap (·.elts))) with
    | some f => s.mapOp g o.id fun o => o.note (List.range o.units.length) [] (some f)
    | none =>
      let r := x.word o j (s.storedWord e.loc)
      let s := s.mapOp g o.id fun o => { o.note [j] [] none with got := r.2 }
      match r.1 with
      | some w => (s.poke e.loc (leBytes 8 w)).settle e.loc.pkg e.loc.cell
      | none => s

/-- An exact-sum access that has been performed: XRD gives its result and raises its flags (R107, R161). -/
def finishXacc (s : State) (g : GRef) (o : Op) (x : XaccOp) : State × Op :=
  match x with
  | .read double =>
    let t := s.slotAt g
    let r := o.image.read (if double then fp64 else fp32) (Rm.ofMode t.rm)
    (s.mapSlot g fun t => { t with fpFlags := t.fpFlags ||| r.2 }, { o with got := [(0, BitVec.ofNat 64 r.1)] })
  | _ => (s, o)

end Sys2Proof.Machine
end

