-- ==== Sys2Proof/Machine/Dispatch.lean ====
section
/-! DEFINITION. The dispatcher: one arm per constructor, each one call of its meaning. -/

namespace Sys2Proof.Machine

/-- The effect of an instruction, or an event, on the machine. -/
def exec (i : Instr) (s : State) : Host.Outcome State Fault Refusal :=
  match i with
  | .add d a b => Sys2Proof.Machine.execAdd d a b s
  | .sub d a b => Sys2Proof.Machine.execSub d a b s
  | .and d a b => Sys2Proof.Machine.execAnd d a b s
  | .or d a b => Sys2Proof.Machine.execOr d a b s
  | .xor d a b => Sys2Proof.Machine.execXor d a b s
  | .andn d a b => Sys2Proof.Machine.execAndn d a b s
  | .shl d a b => Sys2Proof.Machine.execShl d a b s
  | .shr d a b => Sys2Proof.Machine.execShr d a b s
  | .sar d a b => Sys2Proof.Machine.execSar d a b s
  | .ror d a b => Sys2Proof.Machine.execRor d a b s
  | .mul d a b => Sys2Proof.Machine.execMul d a b s
  | .mulh d a b => Sys2Proof.Machine.execMulh d a b s
  | .mulhu d a b => Sys2Proof.Machine.execMulhu d a b s
  | .div d a b => Sys2Proof.Machine.execDiv d a b s
  | .divu d a b => Sys2Proof.Machine.execDivu d a b s
  | .rem d a b => Sys2Proof.Machine.execRem d a b s
  | .remu d a b => Sys2Proof.Machine.execRemu d a b s
  | .min d a b => Sys2Proof.Machine.execMin d a b s
  | .max d a b => Sys2Proof.Machine.execMax d a b s
  | .minu d a b => Sys2Proof.Machine.execMinu d a b s
  | .maxu d a b => Sys2Proof.Machine.execMaxu d a b s
  | .seq d a b => Sys2Proof.Machine.execSeq d a b s
  | .sne d a b => Sys2Proof.Machine.execSne d a b s
  | .slt d a b => Sys2Proof.Machine.execSlt d a b s
  | .sltu d a b => Sys2Proof.Machine.execSltu d a b s
  | .sle d a b => Sys2Proof.Machine.execSle d a b s
  | .sleu d a b => Sys2Proof.Machine.execSleu d a b s
  | .clz d a => Sys2Proof.Machine.execClz d a s
  | .popc d a => Sys2Proof.Machine.execPopc d a s
  | .brev d a => Sys2Proof.Machine.execBrev d a s
  | .addw d a b => Sys2Proof.Machine.execAddw d a b s
  | .subw d a b => Sys2Proof.Machine.execSubw d a b s
  | .addi d a x1 => Sys2Proof.Machine.execAddi d a x1 s
  | .andi d a x1 => Sys2Proof.Machine.execAndi d a x1 s
  | .ori d a x1 => Sys2Proof.Machine.execOri d a x1 s
  | .xori d a x1 => Sys2Proof.Machine.execXori d a x1 s
  | .slti d a x1 => Sys2Proof.Machine.execSlti d a x1 s
  | .sltiu d a x1 => Sys2Proof.Machine.execSltiu d a x1 s
  | .shli d a n => Sys2Proof.Machine.execShli d a n s
  | .shri d a n => Sys2Proof.Machine.execShri d a n s
  | .sari d a n => Sys2Proof.Machine.execSari d a n s
  | .rori d a n => Sys2Proof.Machine.execRori d a n s
  | .lui d x1 => Sys2Proof.Machine.execLui d x1 s
  | .addpc d x1 => Sys2Proof.Machine.execAddpc d x1 s
  | .movl d lit => Sys2Proof.Machine.execMovl d lit s
  | .movlz d lit => Sys2Proof.Machine.execMovlz d lit s
  | .movlh d lit => Sys2Proof.Machine.execMovlh d lit s
  | .take ta tb => Sys2Proof.Machine.execTake ta tb s
  | .br x1 => Sys2Proof.Machine.execBr x1 s
  | .bc c a x1 => Sys2Proof.Machine.execBc c a x1 s
  | .jr a => Sys2Proof.Machine.execJr a s
  | .jalr d a => Sys2Proof.Machine.execJalr d a s
  | .bal d x1 => Sys2Proof.Machine.execBal d x1 s
  | .loop a x1 => Sys2Proof.Machine.execLoop a x1 s
  | .vif c => Sys2Proof.Machine.execVif c s
  | .vifz c => Sys2Proof.Machine.execVifz c s
  | .velse => Sys2Proof.Machine.execVelse s
  | .vendif => Sys2Proof.Machine.execVendif s
  | .vendifLx => Sys2Proof.Machine.execVendifLx s
  | .vloopb => Sys2Proof.Machine.execVloopb s
  | .vbrk c n => Sys2Proof.Machine.execVbrk c n s
  | .vcont c n => Sys2Proof.Machine.execVcont c n s
  | .vloope d c => Sys2Proof.Machine.execVloope d c s
  | .vgetnc d => Sys2Proof.Machine.execVgetnc d s
  | .vsetnc x0 => Sys2Proof.Machine.execVsetnc x0 s
  | .vadd d a b => Sys2Proof.Machine.execVadd d a b s
  | .vsub d a b => Sys2Proof.Machine.execVsub d a b s
  | .vmul d a b => Sys2Proof.Machine.execVmul d a b s
  | .vmulh d a b => Sys2Proof.Machine.execVmulh d a b s
  | .vmulhu d a b => Sys2Proof.Machine.execVmulhu d a b s
  | .vand d a b => Sys2Proof.Machine.execVand d a b s
  | .vor d a b => Sys2Proof.Machine.execVor d a b s
  | .vxor d a b => Sys2Proof.Machine.execVxor d a b s
  | .vandn d a b => Sys2Proof.Machine.execVandn d a b s
  | .vshl d a b => Sys2Proof.Machine.execVshl d a b s
  | .vshr d a b => Sys2Proof.Machine.execVshr d a b s
  | .vsar d a b => Sys2Proof.Machine.execVsar d a b s
  | .vmin d a b => Sys2Proof.Machine.execVmin d a b s
  | .vmax d a b => Sys2Proof.Machine.execVmax d a b s
  | .vminu d a b => Sys2Proof.Machine.execVminu d a b s
  | .vmaxu d a b => Sys2Proof.Machine.execVmaxu d a b s
  | .vabs d a => Sys2Proof.Machine.execVabs d a s
  | .vneg d a => Sys2Proof.Machine.execVneg d a s
  | .vseq d a b => Sys2Proof.Machine.execVseq d a b s
  | .vsne d a b => Sys2Proof.Machine.execVsne d a b s
  | .vslt d a b => Sys2Proof.Machine.execVslt d a b s
  | .vsltu d a b => Sys2Proof.Machine.execVsltu d a b s
  | .vsle d a b => Sys2Proof.Machine.execVsle d a b s
  | .vsleu d a b => Sys2Proof.Machine.execVsleu d a b s
  | .vclz d a => Sys2Proof.Machine.execVclz d a s
  | .vpopc d a => Sys2Proof.Machine.execVpopc d a s
  | .vaddsat d a b => Sys2Proof.Machine.execVaddsat d a b s
  | .vsubsat d a b => Sys2Proof.Machine.execVsubsat d a b s
  | .vaddsatu d a b => Sys2Proof.Machine.execVaddsatu d a b s
  | .vsubsatu d a b => Sys2Proof.Machine.execVsubsatu d a b s
  | .vdot4 d a b => Sys2Proof.Machine.execVdot4 d a b s
  | .vdot4u d a b => Sys2Proof.Machine.execVdot4u d a b s
  | .vaddScalar d a b => Sys2Proof.Machine.execVaddScalar d a b s
  | .vsubScalar d a b => Sys2Proof.Machine.execVsubScalar d a b s
  | .vmulScalar d a b => Sys2Proof.Machine.execVmulScalar d a b s
  | .vmulhScalar d a b => Sys2Proof.Machine.execVmulhScalar d a b s
  | .vmulhuScalar d a b => Sys2Proof.Machine.execVmulhuScalar d a b s
  | .vandScalar d a b => Sys2Proof.Machine.execVandScalar d a b s
  | .vorScalar d a b => Sys2Proof.Machine.execVorScalar d a b s
  | .vxorScalar d a b => Sys2Proof.Machine.execVxorScalar d a b s
  | .vandnScalar d a b => Sys2Proof.Machine.execVandnScalar d a b s
  | .vshlScalar d a b => Sys2Proof.Machine.execVshlScalar d a b s
  | .vshrScalar d a b => Sys2Proof.Machine.execVshrScalar d a b s
  | .vsarScalar d a b => Sys2Proof.Machine.execVsarScalar d a b s
  | .vminScalar d a b => Sys2Proof.Machine.execVminScalar d a b s
  | .vmaxScalar d a b => Sys2Proof.Machine.execVmaxScalar d a b s
  | .vminuScalar d a b => Sys2Proof.Machine.execVminuScalar d a b s
  | .vmaxuScalar d a b => Sys2Proof.Machine.execVmaxuScalar d a b s
  | .vseqScalar d a b => Sys2Proof.Machine.execVseqScalar d a b s
  | .vsneScalar d a b => Sys2Proof.Machine.execVsneScalar d a b s
  | .vsltScalar d a b => Sys2Proof.Machine.execVsltScalar d a b s
  | .vsltuScalar d a b => Sys2Proof.Machine.execVsltuScalar d a b s
  | .vsleScalar d a b => Sys2Proof.Machine.execVsleScalar d a b s
  | .vsleuScalar d a b => Sys2Proof.Machine.execVsleuScalar d a b s
  | .vaddsatScalar d a b => Sys2Proof.Machine.execVaddsatScalar d a b s
  | .vsubsatScalar d a b => Sys2Proof.Machine.execVsubsatScalar d a b s
  | .vaddsatuScalar d a b => Sys2Proof.Machine.execVaddsatuScalar d a b s
  | .vsubsatuScalar d a b => Sys2Proof.Machine.execVsubsatuScalar d a b s
  | .vdot4Scalar d a b => Sys2Proof.Machine.execVdot4Scalar d a b s
  | .vdot4uScalar d a b => Sys2Proof.Machine.execVdot4uScalar d a b s
  | .vaddH d a b => Sys2Proof.Machine.execVaddH d a b s
  | .vsubH d a b => Sys2Proof.Machine.execVsubH d a b s
  | .vmulH d a b => Sys2Proof.Machine.execVmulH d a b s
  | .vmulhH d a b => Sys2Proof.Machine.execVmulhH d a b s
  | .vminH d a b => Sys2Proof.Machine.execVminH d a b s
  | .vmaxH d a b => Sys2Proof.Machine.execVmaxH d a b s
  | .vminuH d a b => Sys2Proof.Machine.execVminuH d a b s
  | .vmaxuH d a b => Sys2Proof.Machine.execVmaxuH d a b s
  | .vaddsatH d a b => Sys2Proof.Machine.execVaddsatH d a b s
  | .vsubsatH d a b => Sys2Proof.Machine.execVsubsatH d a b s
  | .vaddsatuH d a b => Sys2Proof.Machine.execVaddsatuH d a b s
  | .vsubsatuH d a b => Sys2Proof.Machine.execVsubsatuH d a b s
  | .vseqH d a b => Sys2Proof.Machine.execVseqH d a b s
  | .vsltH d a b => Sys2Proof.Machine.execVsltH d a b s
  | .vshlH d a b => Sys2Proof.Machine.execVshlH d a b s
  | .vshrH d a b => Sys2Proof.Machine.execVshrH d a b s
  | .vsarH d a b => Sys2Proof.Machine.execVsarH d a b s
  | .vabsH d a => Sys2Proof.Machine.execVabsH d a s
  | .vfadd d a b => Sys2Proof.Machine.execVfadd d a b s
  | .vfsub d a b => Sys2Proof.Machine.execVfsub d a b s
  | .vfmul d a b => Sys2Proof.Machine.execVfmul d a b s
  | .vfma d a b => Sys2Proof.Machine.execVfma d a b s
  | .vfms d a b => Sys2Proof.Machine.execVfms d a b s
  | .vfnma d a b => Sys2Proof.Machine.execVfnma d a b s
  | .vfmin d a b => Sys2Proof.Machine.execVfmin d a b s
  | .vfmax d a b => Sys2Proof.Machine.execVfmax d a b s
  | .vfminnum d a b => Sys2Proof.Machine.execVfminnum d a b s
  | .vfmaxnum d a b => Sys2Proof.Machine.execVfmaxnum d a b s
  | .vfabs d a => Sys2Proof.Machine.execVfabs d a s
  | .vfneg d a => Sys2Proof.Machine.execVfneg d a s
  | .vfceq d a b => Sys2Proof.Machine.execVfceq d a b s
  | .vfclt d a b => Sys2Proof.Machine.execVfclt d a b s
  | .vfcle d a b => Sys2Proof.Machine.execVfcle d a b s
  | .vfcun d a b => Sys2Proof.Machine.execVfcun d a b s
  | .vfdiv d a b => Sys2Proof.Machine.execVfdiv d a b s
  | .vfsqrt d a => Sys2Proof.Machine.execVfsqrt d a s
  | .vfrcp d a => Sys2Proof.Machine.execVfrcp d a s
  | .vfrsq d a => Sys2Proof.Machine.execVfrsq d a s
  | .vfexp2 d a => Sys2Proof.Machine.execVfexp2 d a s
  | .vflog2 d a => Sys2Proof.Machine.execVflog2 d a s
  | .vfrint d a => Sys2Proof.Machine.execVfrint d a s
  | .vfclass d a => Sys2Proof.Machine.execVfclass d a s
  | .vfcopysign d a b => Sys2Proof.Machine.execVfcopysign d a b s
  | .vfaddScalar d a b => Sys2Proof.Machine.execVfaddScalar d a b s
  | .vfsubScalar d a b => Sys2Proof.Machine.execVfsubScalar d a b s
  | .vfmulScalar d a b => Sys2Proof.Machine.execVfmulScalar d a b s
  | .vfmaScalar d a b => Sys2Proof.Machine.execVfmaScalar d a b s
  | .vfmsScalar d a b => Sys2Proof.Machine.execVfmsScalar d a b s
  | .vfnmaScalar d a b => Sys2Proof.Machine.execVfnmaScalar d a b s
  | .vfminScalar d a b => Sys2Proof.Machine.execVfminScalar d a b s
  | .vfmaxScalar d a b => Sys2Proof.Machine.execVfmaxScalar d a b s
  | .vfminnumScalar d a b => Sys2Proof.Machine.execVfminnumScalar d a b s
  | .vfmaxnumScalar d a b => Sys2Proof.Machine.execVfmaxnumScalar d a b s
  | .vfceqScalar d a b => Sys2Proof.Machine.execVfceqScalar d a b s
  | .vfcltScalar d a b => Sys2Proof.Machine.execVfcltScalar d a b s
  | .vfcleScalar d a b => Sys2Proof.Machine.execVfcleScalar d a b s
  | .vfcunScalar d a b => Sys2Proof.Machine.execVfcunScalar d a b s
  | .vfdivScalar d a b => Sys2Proof.Machine.execVfdivScalar d a b s
  | .vfcopysignScalar d a b => Sys2Proof.Machine.execVfcopysignScalar d a b s
  | .vhadd d a b => Sys2Proof.Machine.execVhadd d a b s
  | .vhsub d a b => Sys2Proof.Machine.execVhsub d a b s
  | .vhmul d a b => Sys2Proof.Machine.execVhmul d a b s
  | .vhfma d a b => Sys2Proof.Machine.execVhfma d a b s
  | .vhmin d a b => Sys2Proof.Machine.execVhmin d a b s
  | .vhmax d a b => Sys2Proof.Machine.execVhmax d a b s
  | .vhceq d a b => Sys2Proof.Machine.execVhceq d a b s
  | .vhclt d a b => Sys2Proof.Machine.execVhclt d a b s
  | .vhcle d a b => Sys2Proof.Machine.execVhcle d a b s
  | .vhcun d a b => Sys2Proof.Machine.execVhcun d a b s
  | .vhaddBf d a b => Sys2Proof.Machine.execVhaddBf d a b s
  | .vhsubBf d a b => Sys2Proof.Machine.execVhsubBf d a b s
  | .vhmulBf d a b => Sys2Proof.Machine.execVhmulBf d a b s
  | .vhfmaBf d a b => Sys2Proof.Machine.execVhfmaBf d a b s
  | .vhminBf d a b => Sys2Proof.Machine.execVhminBf d a b s
  | .vhmaxBf d a b => Sys2Proof.Machine.execVhmaxBf d a b s
  | .vhceqBf d a b => Sys2Proof.Machine.execVhceqBf d a b s
  | .vhcltBf d a b => Sys2Proof.Machine.execVhcltBf d a b s
  | .vhcleBf d a b => Sys2Proof.Machine.execVhcleBf d a b s
  | .vhcunBf d a b => Sys2Proof.Machine.execVhcunBf d a b s
  | .vcvt d a f r x0 k => Sys2Proof.Machine.execVcvt d a f r x0 k s
  | .vshuf d a x1 => Sys2Proof.Machine.execVshuf d a x1 s
  | .vrotl d a k => Sys2Proof.Machine.execVrotl d a k s
  | .vbfly d a k => Sys2Proof.Machine.execVbfly d a k s
  | .vbcast d a k => Sys2Proof.Machine.execVbcast d a k s
  | .vextr d a k => Sys2Proof.Machine.execVextr d a k s
  | .vins d a k => Sys2Proof.Machine.execVins d a k s
  | .vprefix d a => Sys2Proof.Machine.execVprefix d a s
  | .vredadd d a => Sys2Proof.Machine.execVredadd d a s
  | .vredmin d a => Sys2Proof.Machine.execVredmin d a s
  | .vredmax d a => Sys2Proof.Machine.execVredmax d a s
  | .vredminu d a => Sys2Proof.Machine.execVredminu d a s
  | .vredmaxu d a => Sys2Proof.Machine.execVredmaxu d a s
  | .vredfadd d a => Sys2Proof.Machine.execVredfadd d a s
  | .vmerge d a b => Sys2Proof.Machine.execVmerge d a b s
  | .vlaneid d => Sys2Proof.Machine.execVlaneid d s
  | .vmov d a => Sys2Proof.Machine.execVmov d a s
  | .vmovs d a => Sys2Proof.Machine.execVmovs d a s
  | .vactmask d => Sys2Proof.Machine.execVactmask d s
  | .vpackb d a q => Sys2Proof.Machine.execVpackb d a q s
  | .vunpkb d a q => Sys2Proof.Machine.execVunpkb d a q s
  | .vpackh d a q => Sys2Proof.Machine.execVpackh d a q s
  | .vunpkh d a q => Sys2Proof.Machine.execVunpkh d a q s
  | .vrand d => Sys2Proof.Machine.execVrand d s
  | .vrandf d => Sys2Proof.Machine.execVrandf d s
  | .xclr a => Sys2Proof.Machine.execXclr a s
  | .xadd a b => Sys2Proof.Machine.execXadd a b s
  | .xaddh a b => Sys2Proof.Machine.execXaddh a b s
  | .xmerge a b => Sys2Proof.Machine.execXmerge a b s
  | .xrdS d a => Sys2Proof.Machine.execXrdS d a s
  | .xrdD d a => Sys2Proof.Machine.execXrdD d a s
  | .ld d b c o z => Sys2Proof.Machine.execLd d b c o z s
  | .lds d b c o z => Sys2Proof.Machine.execLds d b c o z s
  | .st d b c o z => Sys2Proof.Machine.execSt d b c o z s
  | .ldfe d b c o => Sys2Proof.Machine.execLdfe d b c o s
  | .stfe d b c o => Sys2Proof.Machine.execStfe d b c o s
  | .ldf d b c o => Sys2Proof.Machine.execLdf d b c o s
  | .stf d b c o => Sys2Proof.Machine.execStf d b c o s
  | .feset b c o => Sys2Proof.Machine.execFeset b c o s
  | .feclr b c o => Sys2Proof.Machine.execFeclr b c o s
  | .feget d b c o => Sys2Proof.Machine.execFeget d b c o s
  | .waiteq d b c o z => Sys2Proof.Machine.execWaiteq d b c o z s
  | .waitne d b c o z => Sys2Proof.Machine.execWaitne d b c o z s
  | .pref b => Sys2Proof.Machine.execPref b s
  | .vld d b c o z => Sys2Proof.Machine.execVld d b c o z s
  | .vldFe d b c o => Sys2Proof.Machine.execVldFe d b c o s
  | .vldF d b c o => Sys2Proof.Machine.execVldF d b c o s
  | .vst d b c o z => Sys2Proof.Machine.execVst d b c o z s
  | .vstFe d b c o => Sys2Proof.Machine.execVstFe d b c o s
  | .vstF d b c o => Sys2Proof.Machine.execVstF d b c o s
  | .vgath d b x1 c o z => Sys2Proof.Machine.execVgath d b x1 c o z s
  | .vscat d b x1 c o z => Sys2Proof.Machine.execVscat d b x1 c o z s
  | .vldk d b k c o z => Sys2Proof.Machine.execVldk d b k c o z s
  | .vstk d b k c o z => Sys2Proof.Machine.execVstk d b k c o z s
  | .aadd d b c o z => Sys2Proof.Machine.execAadd d b c o z s
  | .aand d b c o z => Sys2Proof.Machine.execAand d b c o z s
  | .aor d b c o z => Sys2Proof.Machine.execAor d b c o z s
  | .axor d b c o z => Sys2Proof.Machine.execAxor d b c o z s
  | .amin d b c o z => Sys2Proof.Machine.execAmin d b c o z s
  | .amax d b c o z => Sys2Proof.Machine.execAmax d b c o z s
  | .aminu d b c o z => Sys2Proof.Machine.execAminu d b c o z s
  | .amaxu d b c o z => Sys2Proof.Machine.execAmaxu d b c o z s
  | .aswap d b c o z => Sys2Proof.Machine.execAswap d b c o z s
  | .acas d b c o z => Sys2Proof.Machine.execAcas d b c o z s
  | .afadd d b c o => Sys2Proof.Machine.execAfadd d b c o s
  | .afmax d b c o => Sys2Proof.Machine.execAfmax d b c o s
  | .vaadd d b x1 o => Sys2Proof.Machine.execVaadd d b x1 o s
  | .vaand d b x1 o => Sys2Proof.Machine.execVaand d b x1 o s
  | .vaor d b x1 o => Sys2Proof.Machine.execVaor d b x1 o s
  | .vaxor d b x1 o => Sys2Proof.Machine.execVaxor d b x1 o s
  | .vamin d b x1 o => Sys2Proof.Machine.execVamin d b x1 o s
  | .vamax d b x1 o => Sys2Proof.Machine.execVamax d b x1 o s
  | .vaminu d b x1 o => Sys2Proof.Machine.execVaminu d b x1 o s
  | .vamaxu d b x1 o => Sys2Proof.Machine.execVamaxu d b x1 o s
  | .vaswap d b x1 o => Sys2Proof.Machine.execVaswap d b x1 o s
  | .vafadd d b x1 o => Sys2Proof.Machine.execVafadd d b x1 o s
  | .fence c o => Sys2Proof.Machine.execFence c o s
  | .fenceSc c => Sys2Proof.Machine.execFenceSc c s
  | .fenceSv => Sys2Proof.Machine.execFenceSv s
  | .barinit n c => Sys2Proof.Machine.execBarinit n c s
  | .bararr n => Sys2Proof.Machine.execBararr n s
  | .barwait n => Sys2Proof.Machine.execBarwait n s
  | .bararw n => Sys2Proof.Machine.execBararw n s
  | .barlead d n => Sys2Proof.Machine.execBarlead d n s
  | .barq d n => Sys2Proof.Machine.execBarq d n s
  | .tlwait d v t => Sys2Proof.Machine.execTlwait d v t s
  | .tlget d t => Sys2Proof.Machine.execTlget d t s
  | .nclaim d b => Sys2Proof.Machine.execNclaim d b s
  | .nunpack d x1 n => Sys2Proof.Machine.execNunpack d x1 n s
  | .park d => Sys2Proof.Machine.execPark d s
  | .wake g => Sys2Proof.Machine.execWake g s
  | .sdef n b x z => Sys2Proof.Machine.execSdef n b x z s
  | .sdim n v j => Sys2Proof.Machine.execSdim n v j s
  | .sbind d n => Sys2Proof.Machine.execSbind d n s
  | .sunbind d => Sys2Proof.Machine.execSunbind d s
  | .sgo n => Sys2Proof.Machine.execSgo n s
  | .sstop n => Sys2Proof.Machine.execSstop n s
  | .sstat d n => Sys2Proof.Machine.execSstat d n s
  | .sdrain n => Sys2Proof.Machine.execSdrain n s
  | .cpset x0 n => Sys2Proof.Machine.execCpset x0 n s
  | .cpget d n => Sys2Proof.Machine.execCpget d n s
  | .cpgo d t => Sys2Proof.Machine.execCpgo d t s
  | .cpstat d t => Sys2Proof.Machine.execCpstat d t s
  | .cpresume n t => Sys2Proof.Machine.execCpresume n t s
  | .obres v n => Sys2Proof.Machine.execObres v n s
  | .obfree n => Sys2Proof.Machine.execObfree n s
  | .bsres v n => Sys2Proof.Machine.execBsres v n s
  | .bsfree n => Sys2Proof.Machine.execBsfree n s
  | .mma a b k t => Sys2Proof.Machine.execMma a b k t s
  | .mmaz a b k t => Sys2Proof.Machine.execMmaz a b k t s
  | .accz t => Sys2Proof.Machine.execAccz t s
  | .accrd d c t => Sys2Proof.Machine.execAccrd d c t s
  | .accwr x0 c t => Sys2Proof.Machine.execAccwr x0 c t s
  | .accst b t => Sys2Proof.Machine.execAccst b t s
  | .mrot l h => Sys2Proof.Machine.execMrot l h s
  | .publish c => Sys2Proof.Machine.execPublish c s
  | .unpublish => Sys2Proof.Machine.execUnpublish s
  | .subscribe c => Sys2Proof.Machine.execSubscribe c s
  | .depart k a x1 => Sys2Proof.Machine.execDepart k a x1 s
  | .rejoin c => Sys2Proof.Machine.execRejoin c s
  | .chstat d c => Sys2Proof.Machine.execChstat d c s
  | .ralloc d n t => Sys2Proof.Machine.execRalloc d n t s
  | .rallocw d n t => Sys2Proof.Machine.execRallocw d n t s
  | .rcommit d n v => Sys2Proof.Machine.execRcommit d n v s
  | .rdone => Sys2Proof.Machine.execRdone s
  | .rdepth d n => Sys2Proof.Machine.execRdepth d n s
  | .rinfo d n k => Sys2Proof.Machine.execRinfo d n k s
  | .slotstart c e => Sys2Proof.Machine.execSlotstart c e s
  | .slotreap d t => Sys2Proof.Machine.execSlotreap d t s
  | .slotexit => Sys2Proof.Machine.execSlotexit s
  | .regclaim d n => Sys2Proof.Machine.execRegclaim d n s
  | .regyield d n => Sys2Proof.Machine.execRegyield d n s
  | .regmode r l v m => Sys2Proof.Machine.execRegmode r l v m s
  | .slotctlState v g => Sys2Proof.Machine.execSlotctlState v g s
  | .slotctlRdsr v g => Sys2Proof.Machine.execSlotctlRdsr v g s
  | .slotctlWrsr v g => Sys2Proof.Machine.execSlotctlWrsr v g s
  | .slotctlRds v g => Sys2Proof.Machine.execSlotctlRds v g s
  | .slotctlWrs v g => Sys2Proof.Machine.execSlotctlWrs v g s
  | .slotctlRdv v g => Sys2Proof.Machine.execSlotctlRdv v g s
  | .slotctlWrv v g => Sys2Proof.Machine.execSlotctlWrv v g s
  | .slotctlRdctx v g => Sys2Proof.Machine.execSlotctlRdctx v g s
  | .slotctlWrctx v g => Sys2Proof.Machine.execSlotctlWrctx v g s
  | .slotctlResume v g => Sys2Proof.Machine.execSlotctlResume v g s
  | .slotctlKill v g => Sys2Proof.Machine.execSlotctlKill v g s
  | .slotctlSpill v g => Sys2Proof.Machine.execSlotctlSpill v g s
  | .getsr d n => Sys2Proof.Machine.execGetsr d n s
  | .setsr x0 n => Sys2Proof.Machine.execSetsr x0 n s
  | .trap x0 c => Sys2Proof.Machine.execTrap x0 c s
  | .brkpt c => Sys2Proof.Machine.execBrkpt c s
  | .locality d x0 => Sys2Proof.Machine.execLocality d x0 s
  | .icinv => Sys2Proof.Machine.execIcinv s
  | .nop => Sys2Proof.Machine.execNop s
  | .idle x0 => Sys2Proof.Machine.execIdle x0 s
  | .idleDelayEnd g => Sys2Proof.Machine.execIdleDelayEnd g s
  | .waitqSatisfied g => Sys2Proof.Machine.execWaitqSatisfied g s
  | .instructionCacheRefill g => Sys2Proof.Machine.execInstructionCacheRefill g s
  | .icinvComplete g => Sys2Proof.Machine.execIcinvComplete g s
  | .producerValueWrite g op => Sys2Proof.Machine.execProducerValueWrite g op s
  | .postedAcknowledgement g op => Sys2Proof.Machine.execPostedAcknowledgement g op s
  | .activeMessage g op => Sys2Proof.Machine.execActiveMessage g op s
  | .waiterResend g op => Sys2Proof.Machine.execWaiterResend g op s
  | .fewaitExpiry g => Sys2Proof.Machine.execFewaitExpiry g s
  | .cancelAnswer g => Sys2Proof.Machine.execCancelAnswer g s
  | .barrierArrival g op => Sys2Proof.Machine.execBarrierArrival g op s
  | .wakeArrival g op => Sys2Proof.Machine.execWakeArrival g op s
  | .parkTimeout g => Sys2Proof.Machine.execParkTimeout g s
  | .streamElementRead p c x => Sys2Proof.Machine.execStreamElementRead p c x s
  | .streamElementWrite p c x => Sys2Proof.Machine.execStreamElementWrite p c x s
  | .copyLaunchAccept p c x => Sys2Proof.Machine.execCopyLaunchAccept p c x s
  | .copyPayload p c x => Sys2Proof.Machine.execCopyPayload p c x s
  | .copyCompletion p c x => Sys2Proof.Machine.execCopyCompletion p c x s
  | .copyWaitrecResume p c x => Sys2Proof.Machine.execCopyWaitrecResume p c x s
  | .matrixStep g => Sys2Proof.Machine.execMatrixStep g s
  | .stepAccumulation p c => Sys2Proof.Machine.execStepAccumulation p c s
  | .rotationTableEffect p c => Sys2Proof.Machine.execRotationTableEffect p c s
  | .powerCapEffect p => Sys2Proof.Machine.execPowerCapEffect p s
  | .channelRegistry g => Sys2Proof.Machine.execChannelRegistry g s
  | .publishedInstruction g => Sys2Proof.Machine.execPublishedInstruction g s
  | .endMark g => Sys2Proof.Machine.execEndMark g s
  | .channelStop g => Sys2Proof.Machine.execChannelStop g s
  | .joinWaitExpiry g => Sys2Proof.Machine.execJoinWaitExpiry g s
  | .shawmRecordOperation g op => Sys2Proof.Machine.execShawmRecordOperation g op s
  | .rallocwServed g => Sys2Proof.Machine.execRallocwServed g s
  | .rallocwWaitExpiry g => Sys2Proof.Machine.execRallocwWaitExpiry g s
  | .coalescingTimer p x n => Sys2Proof.Machine.execCoalescingTimer p x n s
  | .placementReservation p q => Sys2Proof.Machine.execPlacementReservation p q s
  | .placementRetry p q => Sys2Proof.Machine.execPlacementRetry p q s
  | .groupCommit p q => Sys2Proof.Machine.execGroupCommit p q s
  | .groupStart g => Sys2Proof.Machine.execGroupStart g s
  | .slotStartFirstIssue g => Sys2Proof.Machine.execSlotStartFirstIssue g s
  | .groupSlotReturn g => Sys2Proof.Machine.execGroupSlotReturn g s
  | .groupEnd p x launch => Sys2Proof.Machine.execGroupEnd p x launch s
  | .hostRecordAppend p x => Sys2Proof.Machine.execHostRecordAppend p x s
  | .graphLoadComplete p x => Sys2Proof.Machine.execGraphLoadComplete p x s
  | .graphTeardownComplete p x => Sys2Proof.Machine.execGraphTeardownComplete p x s
  | .spillComplete g => Sys2Proof.Machine.execSpillComplete g s
  | .resumeRestore g => Sys2Proof.Machine.execResumeRestore g s
  | .resumedSlotFirstIssue g => Sys2Proof.Machine.execResumedSlotFirstIssue g s
  | .faultRecordPost p ring => Sys2Proof.Machine.execFaultRecordPost p ring s
  | .mailboxPoll p q => Sys2Proof.Machine.execMailboxPoll p q s
  | .mboxSlotctlState p q => Sys2Proof.Machine.execMboxSlotctlState p q s
  | .mboxSlotctlRdsr p q => Sys2Proof.Machine.execMboxSlotctlRdsr p q s
  | .mboxSlotctlWrsr p q => Sys2Proof.Machine.execMboxSlotctlWrsr p q s
  | .mboxSlotctlRds p q => Sys2Proof.Machine.execMboxSlotctlRds p q s
  | .mboxSlotctlWrs p q => Sys2Proof.Machine.execMboxSlotctlWrs p q s
  | .mboxSlotctlRdv p q => Sys2Proof.Machine.execMboxSlotctlRdv p q s
  | .mboxSlotctlWrv p q => Sys2Proof.Machine.execMboxSlotctlWrv p q s
  | .mboxSlotctlRdctx p q => Sys2Proof.Machine.execMboxSlotctlRdctx p q s
  | .mboxSlotctlWrctx p q => Sys2Proof.Machine.execMboxSlotctlWrctx p q s
  | .mboxSlotctlResume p q => Sys2Proof.Machine.execMboxSlotctlResume p q s
  | .mboxSlotctlKill p q => Sys2Proof.Machine.execMboxSlotctlKill p q s
  | .mboxSlotctlSpill p q => Sys2Proof.Machine.execMboxSlotctlSpill p q s
  | .graphload p q => Sys2Proof.Machine.execGraphload p q s
  | .graphtear p q => Sys2Proof.Machine.execGraphtear p q s
  | .inval p q => Sys2Proof.Machine.execInval p q s
  | .invalidationComplete p q => Sys2Proof.Machine.execInvalidationComplete p q s
  | .mboxFence p q => Sys2Proof.Machine.execMboxFence p q s
  | .unfence p q => Sys2Proof.Machine.execUnfence p q s
  | .reset p q => Sys2Proof.Machine.execReset p q s
  | .partitionResetComplete p q => Sys2Proof.Machine.execPartitionResetComplete p q s
  | .switch p q => Sys2Proof.Machine.execSwitch p q s
  | .switchDrainComplete p q => Sys2Proof.Machine.execSwitchDrainComplete p q s
  | .switchDeadline p q => Sys2Proof.Machine.execSwitchDeadline p q s
  | .partOpen p q => Sys2Proof.Machine.execPartOpen p q s
  | .close p q => Sys2Proof.Machine.execClose p q s
  | .resetpkg p => Sys2Proof.Machine.execResetpkg p s
  | .twinHashArrival g op => Sys2Proof.Machine.execTwinHashArrival g op s
  | .twinHashTimeout g => Sys2Proof.Machine.execTwinHashTimeout g s
  | .enable p => Sys2Proof.Machine.execEnable p s
  | .protectionInitComplete p => Sys2Proof.Machine.execProtectionInitComplete p s
  | .disable p => Sys2Proof.Machine.execDisable p s
  | .declare p m => Sys2Proof.Machine.execDeclare p m s
  | .rebuild p => Sys2Proof.Machine.execRebuild p s
  | .parityDelta p x => Sys2Proof.Machine.execParityDelta p x s
  | .deltaForward p x => Sys2Proof.Machine.execDeltaForward p x s
  | .deltaAcknowledgement p x => Sys2Proof.Machine.execDeltaAcknowledgement p x s
  | .parityAcknowledgement p x => Sys2Proof.Machine.execParityAcknowledgement p x s
  | .deltaSilence p m => Sys2Proof.Machine.execDeltaSilence p m s
  | .quiesceDrainComplete p => Sys2Proof.Machine.execQuiesceDrainComplete p s
  | .stripeRebuild p stripe => Sys2Proof.Machine.execStripeRebuild p stripe s
  | .sectorReconstruction p sector => Sys2Proof.Machine.execSectorReconstruction p sector s
  | .patrolScrub p u bad => Sys2Proof.Machine.execPatrolScrub p u bad s
  | .hostWrite p off bytes => Sys2Proof.Machine.execHostWrite p off bytes s
  | .hostRead p off n => Sys2Proof.Machine.execHostRead p off n s
  | .svfence p => Sys2Proof.Machine.execSvfence p s
  | .mailboxDoorbell p q => Sys2Proof.Machine.execMailboxDoorbell p q s
  | .intstat p v => Sys2Proof.Machine.execIntstat p v s
  | .mevent p v => Sys2Proof.Machine.execMevent p v s
  | .fusepkg p v => Sys2Proof.Machine.execFusepkg p v s
  | .timectlStep p v => Sys2Proof.Machine.execTimectlStep p v s
  | .pwrcap p v => Sys2Proof.Machine.execPwrcap p v s
  | .produceReport p => Sys2Proof.Machine.execProduceReport p s
  | .reportComplete p => Sys2Proof.Machine.execReportComplete p s
  | .registerWrite p r v => Sys2Proof.Machine.execRegisterWrite p r v s
  | .flitReplay p x => Sys2Proof.Machine.execFlitReplay p x s
  | .portUp p x peer pdom => Sys2Proof.Machine.execPortUp p x peer pdom s
  | .portFailure p x => Sys2Proof.Machine.execPortFailure p x s
  | .routeUnreachable p m => Sys2Proof.Machine.execRouteUnreachable p m s
  | .timeSync p => Sys2Proof.Machine.execTimeSync p s
  | .referenceLoss p => Sys2Proof.Machine.execReferenceLoss p s
  | .referenceReturn p => Sys2Proof.Machine.execReferenceReturn p s
  | .droopTrip p die => Sys2Proof.Machine.execDroopTrip p die s
  | .stretchEnd p => Sys2Proof.Machine.execStretchEnd p s
  | .powerAlert p => Sys2Proof.Machine.execPowerAlert p s
  | .thermalTrip p => Sys2Proof.Machine.execThermalTrip p s
  | .packageReset p => Sys2Proof.Machine.execPackageReset p s
  | .bringupStageComplete p code => Sys2Proof.Machine.execBringupStageComplete p code s
  | .memoryEdgeRequest g op => Sys2Proof.Machine.execMemoryEdgeRequest g op s
  | .xaccHoldEnd g => Sys2Proof.Machine.execXaccHoldEnd g s
  | .illegalEncoding clause => Sys2Proof.Machine.execIllegalEncoding clause s

end Sys2Proof.Machine
end

