-- ==== Sys2Proof/Machine/Port.lean ====
section
/-! DEFINITION. The slot port of a cell (R316): it performs the window-0 accesses of the cell's slots one at a time, in issue
order, each unit at a moment of its own within the access's occupancy. -/

namespace Sys2Proof.Machine

/-- The slot of an access at the port. -/
def PortJob.ref (j : PortJob) (p : PkgId) (c : CellId) : GRef := { pkg := p, cell := c, slot := j.slot }

/-- The units of the access at the head of the port that may be performed next: the words of an exact sum in their order
(R163), else any that shares no byte with an earlier one of the access (R179, R183). -/
def PortJob.next (j : PortJob) (o : Op) : List Nat :=
  let undone := j.left.filter fun u => !((o.units[u]?.map (·.done)).getD true)
  match o.act with
  | .xacc _ => undone.take 1
  | _ => undone.filter fun u => !(undone.any fun v => decide (v < u) &&
      ((o.units[v]?.map (·.elts)).getD []).any fun a => ((o.units[u]?.map (·.elts)).getD []).any fun b => a.overlaps b)

/-- The access at the head of the port is over. -/
def popPort (s : State) (p : PkgId) (c : CellId) : State := s.mapCell p c fun t => { t with port := t.port.tail }

/-- An operation that the port has performed: an exact sum is answered at once, a posted access of the own cell alone needs
no acknowledgement. -/
def portEnd (s : State) (g : GRef) (id : Nat) : State :=
  match s.opOf g id with
  | none => s
  | some o =>
    if !o.performed then s
    else match o.act with
      | .xacc x =>
        let r := if o.fault.isNone then finishXacc s g o x else (s, o)
        answerOp r.1 g r.2
      | _ => if o.posted && !o.leaves then acknowledge s g o else s

/-- Performs unit `u` of an access at the port. -/
def portUnit (s : State) (g : GRef) (o : Op) (u : Nat) : State :=
  match o.act with
  | .xacc x => performXacc s g o x u
  | _ => performUnit s g o.id u

/-- THE SLOT PORT performs one unit of the access at its head (R316), which leaves the port when none is left to perform. -/
def servePort (s : State) (p : PkgId) (c : CellId) : State :=
  match (s.cellAt p c).port with
  | [] => s
  | j :: _ =>
    let g := j.ref p c
    match s.opOf g j.op with
    | none => popPort s p c
    | some o =>
      if o.performed || o.waiting then popPort s p c
      else
        let r := s.choose (j.next o)
        match r.2 with
        | none => popPort s p c
        | some u =>
          let s := portUnit r.1 g o u
          let ended := match s.opOf g j.op with
            | some o => o.performed || o.waiting || (j.next o).isEmpty
            | none => true
          if ended then portEnd (popPort s p c) g j.op else s

/-- The cells of a package whose port has an access that fits: one that has started, or one whose occupancy is over. -/
def Pkg.portCells (k : Pkg) (fits : PortJob → Bool) : List CellId :=
  k.cells.filterMap fun e => match e.2.port with
    | j :: _ => if fits j then some (BitVec.ofNat 12 e.1) else none
    | [] => none

/-- The ports at which an access has started, so that a unit of it may be performed now (R316). -/
def portsReady (s : State) : List (PkgId × CellId) :=
  s.pkgs.flatMap fun e => (e.2.portCells fun j => decide (j.start ≤ e.2.cycle)).map fun c => (BitVec.ofNat 12 e.1, c)

/-- A port at which an access has been performed by now: its occupancy is over (R316). -/
def portDue (s : State) : Option (PkgId × CellId) :=
  s.pkgs.findSome? fun e => ((e.2.portCells fun j => decide (j.till ≤ e.2.cycle)).head?).map fun c => (BitVec.ofNat 12 e.1, c)

end Sys2Proof.Machine
end

