-- ==== Sys2Proof/Machine/Turn.lean ====
section
/-! DEFINITION. What happens when: turns of slots (R7-R12, R46, R50, R53, R313), the events that fall due at a cycle, those
that may take place at any time, the inputs from outside, and how the cycles of the packages pass (R5-R7, R390-R393). -/

namespace Sys2Proof.Machine

/-! ## Time -/

/-- The length of an unstretched cycle in that unit, as the slew of the time base gives it (R392-R394). -/
def Pkg.cycleLength (k : Pkg) : Nat := (20 * (1000000 + k.slewPpm + k.driftPpm)).toNat

/-- The time of one unstretched cycle passes, in all packages together. A package whose clock is stretched, so that its cycles
are 25 % longer, has four cycles in five of these (R391). -/
def Pkg.tick (k : Pkg) : Pkg :=
  let k := k.relock
  let f := k.timeFrac + k.cycleLength
  let phase := if k.stretchTill.isSome then (k.phase + 1) % 5 else 0
  { k with cycle := if phase = 4 then k.cycle else k.cycle + 1, phase := phase
           time := k.time + f / nsUnit, timeFrac := f % nsUnit }

/-- Whether a stretched package is within a cycle whose turns are over (R391). -/
def Pkg.pausing (k : Pkg) : Bool := k.phase == 4

/-! ## The order of turns -/

/-- The listed cells of the packages that are present, in the order of their turns within a cycle. -/
def State.places (s : State) : List (PkgId × CellId) :=
  s.pkgs.flatMap fun (e : Nat × Pkg) => e.2.cells.map fun (c : Nat × Cell) => (BitVec.ofNat 12 e.1, BitVec.ofNat 12 c.1)

/-- Whether a place comes after another. -/
def laterPlace (a b : PkgId × CellId) : Bool :=
  decide (a.1.toNat < b.1.toNat) || (a.1 == b.1 && decide (a.2.toNat < b.2.toNat))

/-- The slot of a place whose turn it is: slot `cycle mod 16` of its cell (R7). -/
def State.turnAt (s : State) (x : PkgId × CellId) : GRef :=
  { pkg := x.1, cell := x.2, slot := BitVec.ofNat 4 (s.cycleAt x.1) }

/-- THE TURN IS OVER: the next cell's slot has its turn, and after the last the time of a cycle passes in all packages.
DESIGN CHOICE, log 4. -/
def endTurn (s : State) : State :=
  match s.places.find? fun x => laterPlace (s.cur.pkg, s.cur.cell) x with
  | some x => { s with cur := s.turnAt x }
  | none =>
    let s : State := { s with pkgs := s.pkgs.map fun (e : Nat × Pkg) => (e.1, e.2.tick) }
    { s with cur := s.turnAt ((s.places.head?).getD (BitVec.ofNat 12 ((s.pkgs.head?).map (·.1) |>.getD 0), 0)) }

/-! ## The turn of a slot -/

/-- Whether a slot issues in its turn: its cell is released, it runs or executes what its publisher sent, and nothing holds
it (R12, R136, R162, R229, R243, R262, R366, R367, R370, R377), nor has it had its turn of this cycle (R391). -/
def canIssue (s : State) (g : GRef) : Bool :=
  let t := s.slotAt g
  let c := s.cellAt g.pkg g.cell
  c.active && (t.mode == .run || (t.mode == .subscribed && t.pendingPub.isSome)) && !t.heldAt (s.cycleAt g.pkg) &&
  t.wait.isNone && t.waitNext.isNone && !t.lateFault && t.registering.isNone && !c.inMma g.slot && t.evict == .none &&
  !t.dying && !(s.pkgAt g.pkg).stalled g.cell && !(s.pkgAt g.pkg).pausing

/-- Whether a header selects something to wait for (R47). -/
def Header.waits (h : Header) : Bool := h.wm || h.wc || h.wr || h.wl

/-- What a slot does in a turn in which it may issue. -/
inductive Turn where
  /-- It executes an instruction, or traps because the word is none, in a state in which it stands at it. -/
  | issue (s : State) (i : Instr)
  /-- It ends the wait of its clause header (R53). -/
  | passed (s : State)
  /-- The turn stays empty. -/
  | empty (s : State)
  deriving Repr, Inhabited

/-- The event that stands for a word which is no instruction (R72). -/
noncomputable def issued (r : Except Kind Instr) : Instr :=
  match r with
  | .ok i => i
  | .error k => .illegalEncoding (k == .clause)

/-- The instruction that a slot stands at, after the wait of its header: with a latched TAKE prefix the word after it (R66);
for a published instruction the words that were sent (R243). -/
noncomputable def standing (s : State) (g : GRef) : Turn :=
  let t := s.slotAt g
  match t.clause with
  | none => .empty s
  | some c =>
    if !t.waitqDone && c.hdr.waits then
      if waitqMet s g c.hdr then .passed s else .empty s
    else
      let s := if t.waitqDone then s else s.mapSlot g fun t => { t with waitqDone := true }
      match t.pendingPub with
      | some { item := .instr words take _ _ _ _ _ _ _, .. } =>
        .issue (s.mapSlot g fun t => { t with take := take })
          (issued (match decode words with | .ok r => .ok r.1 | .error _ => .error .illegal))
      | _ => .issue s (issued (decodeAt c (if t.take.isSome then t.pos + 1 else t.pos)))

/-- THE TURN OF A SLOT: it fetches its clause if need be, waits as the header says, and comes to its instruction (R46-R53,
R72). -/
noncomputable def turnOf (s : State) (g : GRef) : Turn :=
  if !canIssue s g then .empty s
  else if (s.slotAt g).clause.isSome then standing s g
  else match fetchClause s g with
    | (s, true) => standing s g
    | (s, false) => .empty s

/-- The state after an instruction: a TAKE prefix goes on with the word that it prefixes, in the same turn (R66). -/
def afterIssue (s : State) (g : GRef) : State :=
  if (s.slotAt g).take.isSome then s else endTurn (settleStop s g)

/-- The slot whose turn it is takes it. In a turn that it leaves empty, waiting as its header says, a stop that its channel has
made overtakes it (R244). -/
noncomputable def takeTurn (s : State) : Host.Outcome State Fault Refusal :=
  if !s.hasPkg s.cur.pkg then .next (endTurn s)
  else match turnOf s s.cur with
    | .empty s => .next (endTurn (settleStop s s.cur))
    | .passed s' => exec (.waitqSatisfied s.cur) s'
    | .issue s' i =>
      match exec i s' with
      | .next t => .next (afterIssue t s.cur)
      | .fault f => .fault f
      | .refused r => .refused r

/-! ## Events that fall due -/

/-- What may fall due for a slot. -/
noncomputable def dueSlot (g : GRef) (t : Slot) : List Instr :=
  (match t.hold with
    | some h => (match h.why with
      | .idle => [Instr.idleDelayEnd g]
      | .xacc => [Instr.xaccHoldEnd g]
      | .start => [Instr.slotStartFirstIssue g]
      | .resume => [Instr.resumedSlotFirstIssue g]
      | .group => [Instr.groupStart g]
      | .mma | .leave => [])
    | none => []) ++
  (match t.wait with
    | some w => (match w.what with
      | .answer _ => [Instr.fewaitExpiry g]
      | .wake _ => [Instr.parkTimeout g]
      | .join _ _ => [Instr.joinWaitExpiry g]
      | .rallocw _ => [Instr.rallocwServed g, Instr.rallocwWaitExpiry g]
      | _ => [])
    | none => []) ++
  (match t.inbox with
    | e :: _ => (match e.item with
      | .instr .. => [Instr.publishedInstruction g]
      | .endMark .. => [Instr.endMark g]
      | .stop .. => [Instr.channelStop g])
    | [] => []) ++
  (if t.ops.any (·.held) then [Instr.twinHashTimeout g] else [])

/-- What may fall due in a cell. -/
noncomputable def dueCell (p : PkgId) (c : CellId) (t : Cell) : List Instr :=
  (match t.rotationNext with | [] => [] | _ => [Instr.rotationTableEffect p c]) ++
  (match t.steps with | [] => [] | _ => [Instr.stepAccumulation p c]) ++
  (t.mma.map fun j => Instr.matrixStep { pkg := p, cell := c, slot := j.slot }) ++
  (t.ctxs.flatMap fun (e : Nat × CopyCtx) => if e.2.mode = .waitrec then [Instr.copyWaitrecResume p c (BitVec.ofNat 2 e.1)] else []) ++
  t.slots.flatMap fun (e : Nat × Slot) => dueSlot { pkg := p, cell := c, slot := BitVec.ofNat 4 e.1 } e.2

/-- The event that begins a command of a mailbox (R372). -/
noncomputable def beginEvent (p : PkgId) (q : BitVec 3) (c : Cmd) : List Instr :=
  match c.op.toNat with
  | 1 => (match (c.opnds.getD 1 0).toNat with
    | 0 => [Instr.mboxSlotctlState p q]
    | 1 => [Instr.mboxSlotctlRdsr p q]
    | 2 => [Instr.mboxSlotctlWrsr p q]
    | 3 => [Instr.mboxSlotctlRds p q]
    | 4 => [Instr.mboxSlotctlWrs p q]
    | 5 => [Instr.mboxSlotctlRdv p q]
    | 6 => [Instr.mboxSlotctlWrv p q]
    | 7 => [Instr.mboxSlotctlRdctx p q]
    | 8 => [Instr.mboxSlotctlWrctx p q]
    | 9 => [Instr.mboxSlotctlResume p q]
    | 10 => [Instr.mboxSlotctlKill p q]
    | _ => [Instr.mboxSlotctlSpill p q])
  | 2 => [Instr.graphload p q]
  | 3 => [Instr.graphtear p q]
  | 4 => [Instr.inval p q]
  | 5 => [Instr.mboxFence p q]
  | 6 => [Instr.unfence p q]
  | 7 => [Instr.reset p q]
  | _ => [Instr.switch p q]

/-- The time between two polls of a mailbox: 1 µs (R372). -/
def pollPeriod : Nat := 1000

/-- What may fall due for a partition. -/
noncomputable def duePart (p : PkgId) (k : Pkg) (q : BitVec 3) (e : Part) : List Instr :=
  (if e.place.isSome then [Instr.placementReservation p q, Instr.groupCommit p q] else []) ++
  (if e.stuck.isSome then [Instr.placementRetry p q] else []) ++
  (if e.mode = .switching then [Instr.switchDeadline p q] else []) ++
  (if e.mode = .free then []
    else match e.cmd with
      | some c => if c.finish.isSome then [Instr.mailboxPoll p q] else if c.begun then [] else beginEvent p q c
      | none => if e.doorbell || decide (e.polled + pollPeriod ≤ k.time) then [Instr.mailboxPoll p q] else [])

/-- What may fall due in a package. -/
noncomputable def duePkg (p : PkgId) (k : Pkg) : List Instr :=
  (if k.syncAt ≤ k.time then [Instr.timeSync p] else []) ++
  (match k.capNext with | [] => [] | _ => [Instr.powerCapEffect p]) ++
  (if k.prot.mode = .off then [] else (List.range k.prot.members).map fun m => Instr.deltaSilence p (k.prot.member m)) ++
  (k.noPort.map fun (e : Nat × Nat) => Instr.routeUnreachable p (BitVec.ofNat 12 e.1)) ++
  (k.graphs.flatMap fun (e : Nat × Graph) =>
    if e.2.mode = .resident then
      (List.range e.2.nodes.length).map fun n => Instr.coalescingTimer p (BitVec.ofNat 6 e.1) (BitVec.ofNat 12 n)
    else []) ++
  (k.parts.flatMap fun (e : Nat × Part) => duePart p k (BitVec.ofNat 3 e.1) e.2) ++
  if k.pausing then [] else k.cells.flatMap fun (e : Nat × Cell) => dueCell p (BitVec.ofNat 12 e.1) e.2

/-- What may fall due now. -/
noncomputable def dueEvents (s : State) : List Instr :=
  s.pkgs.flatMap fun (e : Nat × Pkg) => duePkg (BitVec.ofNat 12 e.1) e.2

/-- Whether an event does something in a state. -/
def takesPlace (s : State) (i : Instr) : Bool :=
  match exec i s with
  | .next t => decide (t ≠ s)
  | _ => true

/-- The event that falls due now, if any: of several the first. -/
noncomputable def dueNow (s : State) : Option Instr := (dueEvents s).find? (takesPlace s)

/-! ## Events that may take place -/

/-- What an operation of a slot may do next. -/
noncomputable def readyOp (s : State) (g : GRef) (o : Op) : List Instr :=
  (if o.answerReady then [Instr.producerValueWrite g o.id] else []) ++
  (if o.posted && o.performed then [Instr.postedAcknowledgement g o.id] else []) ++
  (if !(messageUnits s g o).isEmpty then [Instr.activeMessage g o.id] else []) ++
  (if !(edgeUnits s g o).isEmpty then [Instr.memoryEdgeRequest g o.id] else []) ++
  (if o.resend then [Instr.waiterResend g o.id] else []) ++
  (if o.shadow && !o.performed then [Instr.twinHashArrival g o.id] else []) ++
  (if o.live then (match o.act with
    | .arrive _ => [Instr.barrierArrival g o.id]
    | .wake _ => [Instr.wakeArrival g o.id]
    | .record _ => [Instr.shawmRecordOperation g o.id]
    | _ => []) else [])

/-- What may take place for a slot. -/
noncomputable def readySlot (s : State) (g : GRef) (t : Slot) : List Instr :=
  (if t.registering.isSome then [Instr.channelRegistry g] else []) ++
  (match t.refill with | some (_, none) => [Instr.instructionCacheRefill g] | _ => []) ++
  (if t.icinv then [Instr.icinvComplete g] else []) ++
  (match t.waitedOp with | some (o, _) => if o.cancelled then [Instr.cancelAnswer g] else [] | none => []) ++
  (match t.evict with | .spilling _ _ => [Instr.spillComplete g] | .restoring _ => [Instr.resumeRestore g] | .none => []) ++
  (if t.mode == .exited && t.member.isSome then [Instr.groupSlotReturn g] else []) ++
  t.ops.flatMap (readyOp s g)

/-- What may take place in a cell. -/
noncomputable def readyCell (s : State) (p : PkgId) (c : CellId) (t : Cell) : List Instr :=
  (t.streams.flatMap fun (e : Nat × Stream) =>
    (if readReady s p c e.1 e.2 then [Instr.streamElementRead p c (BitVec.ofNat 5 e.1)] else []) ++
    (if writeReady s p c e.1 e.2 then [Instr.streamElementWrite p c (BitVec.ofNat 5 e.1)] else [])) ++
  (t.ctxs.flatMap fun (e : Nat × CopyCtx) =>
    let x : BitVec 2 := BitVec.ofNat 2 e.1
    (if acceptReady s p c x then [Instr.copyLaunchAccept p c x] else []) ++
    (if e.2.hasPayload then [Instr.copyPayload p c x] else []) ++
    (match e.2.mode, e.2.cur with
      | .busy, some l => if l.rows ≤ e.2.row then [Instr.copyCompletion p c x] else []
      | _, _ => [])) ++
  t.slots.flatMap fun (e : Nat × Slot) => readySlot s { pkg := p, cell := c, slot := BitVec.ofNat 4 e.1 } e.2

/-- What may take place for a partition. -/
noncomputable def readyPart (p : PkgId) (q : BitVec 3) (e : Part) : List Instr :=
  (match e.mode with
    | .resetting => [Instr.partitionResetComplete p q]
    | .switching => [Instr.switchDrainComplete p q]
    | _ => []) ++
  (if e.performs 4 then [Instr.invalidationComplete p q] else [])

/-- What may take place for a delta. -/
noncomputable def readyDelta (p : PkgId) (d : Delta) : List Instr :=
  match d.stage with
  | .toP => [Instr.parityDelta p d.id]
  | .forwarded => []
  | .toQ => [Instr.deltaForward p d.id]
  | .ack => [Instr.deltaAcknowledgement p d.id]
  | .parityAck => [Instr.parityAcknowledgement p d.id]

/-- Whether a poisoned sector may be reconstructed now, or its reconstruction be asked for (R352, R353). -/
def State.maySolve (s : State) (p : PkgId) (n : Nat) : Bool :=
  s.reconstructs p n || (s.canReconstruct p n && (Table.find (s.pkgAt p).asked n).isNone)

/-- What may take place in a protection group (R343, R354, R356). -/
noncomputable def readyProt (s : State) (p : PkgId) (g : ProtGroup) : List Instr :=
  match g.mode with
  | .init => [Instr.protectionInitComplete p]
  | .quiescing => [Instr.quiesceDrainComplete p]
  | .rebuilding =>
    let ps := g.survivors
    (match (List.range g.frames).find? fun n => !g.rebuilt.has n && ps[n % ps.length]? == some p with
      | some n => if s.rebuilds p n then [Instr.stripeRebuild p n] else []
      | none => [])
  | _ => []

/-- What may take place in a package. -/
noncomputable def readyPkg (s : State) (p : PkgId) (k : Pkg) : List Instr :=
  (k.cells.flatMap fun (e : Nat × Cell) => readyCell s p (BitVec.ofNat 12 e.1) e.2) ++
  (k.parts.flatMap fun (e : Nat × Part) => readyPart p (BitVec.ofNat 3 e.1) e.2) ++
  (k.graphs.flatMap fun (e : Nat × Graph) =>
    let x : BitVec 6 := BitVec.ofNat 6 e.1
    (match e.2.mode with
      | .loading => [Instr.graphLoadComplete p x]
      | .tearing => [Instr.graphTeardownComplete p x]
      | _ => []) ++
    (if k.ringDue x then [Instr.hostRecordAppend p x] else []) ++
    e.2.groups.map fun (y : Group) => Instr.groupEnd p x y.launch) ++
  ((k.waiting.map (·.ring)).eraseDups.map fun r => Instr.faultRecordPost p r) ++
  (k.deltas.flatMap fun d => readyDelta p d) ++
  (k.forwards.map fun x => Instr.deltaForward p x.id) ++
  (k.hbmPoison.filterMap fun n => if s.maySolve p n then some (Instr.sectorReconstruction p n) else none) ++
  readyProt s p k.prot ++
  (if k.reporting then [Instr.reportComplete p] else []) ++
  (match k.stretchTill with | some c => if c ≤ k.cycle then [Instr.stretchEnd p] else [] | none => [])

/-- The events that may take place now, of which any may, or none (R269, R275, R313). -/
noncomputable def readyEvents (s : State) : List Instr :=
  s.pkgs.flatMap fun (e : Nat × Pkg) => readyPkg s (BitVec.ofNat 12 e.1) e.2

/-! ## Inputs -/

/-- The package at whose host function an access arrives (R399). -/
def Instr.atHost (i : Instr) : Option PkgId :=
  match i with
  | .hostWrite p _ _ | .hostRead p _ _ | .svfence p | .mailboxDoorbell p _ | .intstat p _ | .mevent p _ | .fusepkg p _
  | .timectlStep p _ | .pwrcap p _ | .produceReport p | .registerWrite p _ _ | .partOpen p _ | .close p _ | .resetpkg p
  | .enable p | .disable p | .declare p _ | .rebuild p => some p
  | _ => none

/-- Whether an event comes from the host or from the world around the packages. -/
def Instr.isInput (i : Instr) : Bool :=
  (Instr.atHost i).isSome ||
  match i with
  | .patrolScrub _ _ _ | .flitReplay _ _ | .portUp _ _ _ _ | .portFailure _ _ | .referenceLoss _ | .referenceReturn _
  | .droopTrip _ _ | .powerAlert _ | .thermalTrip _ | .packageReset _ | .bringupStageComplete _ _ => true
  | _ => false

/-- Whether the oldest input can be taken now: an access of the host waits until its earlier writes have been performed
(R399), and a read until what it reads answers (R352, R386). -/
def inputReady (s : State) (i : Instr) : Bool :=
  match Instr.atHost i with
  | some p => (s.pkgAt p).hubWrites.isEmpty && (match i with
    | .hostRead p off n =>
      !((s.pkgAt p).bringUp == .ready && hostReadOk off n) ||
        (match (hostReadAt s p ((s.pkgAt p).bar2 off) n).2 with | .error none => false | _ => true)
    | _ => true)
  | none => true

/-- The input that can be taken now, if any. -/
def nextInput (s : State) : List Instr :=
  match s.agenda with
  | i :: _ => if inputReady s i then [i] else []
  | [] => []

/-- Takes the oldest input; an entry that is none has no effect. -/
def takeInput (s : State) (i : Instr) : Host.Outcome State Fault Refusal :=
  let s : State := { s with agenda := s.agenda.tail }
  if Instr.isInput i then exec i s else .next s

/-! ## Moves of the machine that are no events of their own -/

/-- The packages whose oldest waiting write of the hub or the host can be performed (R348, R357, R386). -/
def hubsReady (s : State) : List PkgId :=
  (s.pkgs.filter fun e => match e.2.hubWrites with
    | w :: _ => s.headReady (BitVec.ofNat 12 e.1) w
    | [] => false).map fun e => BitVec.ofNat 12 e.1

/-- What the machine has to do before anything else: a port ends an access whose cycles are over (R316), an operation of SLOTCTL
that arrived in an earlier cycle acts (R368), a killed slot exits (R366), and a stop that a slot has outlasted is taken (R244). -/
def settled (s : State) : Option State :=
  ((portDue s).map fun x => servePort s x.1 x.2).or <|
  ((ctlDue s).map (performCtl s)).or <|
  ((killDue s).map (finishKill s)).or <|
  (stopDue s).map (settleStop s)

/-- The moves of the machine that may take place at any time and are no events of their own: a unit of an access at a slot port,
whose cycle within the access's occupancy is open (R316), and the oldest write that a hub keeps back, whose place among the
other writes of its controller is open (R348, R357). -/
def moves (s : State) : List State :=
  (portsReady s).map (fun x => servePort s.draw x.1 x.2) ++ (hubsReady s).map fun p => drainHub s.draw p

/-- One of what may take place now, or none of it, and then the slot whose turn it is takes it: an input, an event, or a move of the
machine. -/
noncomputable def choose (s : State) : Host.Outcome State Fault Refusal :=
  let ins := nextInput s
  let es := ins ++ readyEvents s
  let ms := moves s
  let n := Config.pick s.free % (es.length + ms.length + 1)
  if es.isEmpty && ms.isEmpty then takeTurn s
  else match es[n]?, ms[n - es.length]? with
    | some i, _ => if n < ins.length then takeInput s.draw i else exec i s.draw
    | none, some t => .next t
    | none, none => takeTurn s.draw

/-! ## Placing an instruction for the fetch -/

/-- The words of an instruction whose bits are numbered as the opcode table numbers them. -/
def tableWords (nbits w : Nat) : List (BitVec 32) := wordsOfBytes (bytesOfNat (Nat.max 8 (nbits / 8 + 4)) (w % 2 ^ nbits))

/-- The words that stand in a clause for it: its literal with it, and after a TAKE prefix an instruction to prefix, ADD of
zero registers (R66). -/
def clauseWords (ws : List (BitVec 32)) : List (BitVec 32) :=
  match ws with
  | w :: l :: _ =>
    if fmtOf (major w) = .lit then [w, l]
    else if major w = 0x33 then [w, packA 1 0 0 0 0]
    else [w]
  | _ => ws

/-- A header of class MIXED over `n` words (R47, R51). -/
def mixedHeader (n : Nat) : BitVec 32 := BitVec.ofNat 32 (0x3E * 2 ^ 26 + 6 * 2 ^ 4 + n)

/-- The virtual address at which an instruction is placed. -/
def placedHead : Word := 0x2000000000001000
/-- The physical address of virtual address 0 there. -/
def placedBase : Nat := 0x10000

/-- The process entry of PID 0 with one range of 64 KiB, readable, writable and executable (R328, R329). -/
def placedEntry : List Byte := leBytes 8 1 ++ leBytes 8 1

/-- The range of that entry. -/
def placedRange : List Byte := leBytes 8 1 ++ leBytes 8 (0x10000 + 7 * 4) ++ leBytes 8 placedBase

/-- A clause in device memory and in the instruction cache, where slot `n` of cell 0 stands and runs. -/
def Pkg.withClause (k : Pkg) (n : SlotId) (ws : List (BitVec 32)) : Pkg :=
  let bytes := (mixedHeader ws.length :: ws).flatMap fun w => leBytes 4 w.toNat
  let line := bytes ++ List.replicate (64 - bytes.length) 0
  let c := k.cellAt 0
  let k : Pkg := { k with
    bringUp := .ready, procbase := 0, prot := {}, stations := [], hbmPoison := []
    hbm := cellsWrite (cellsWrite (cellsWrite k.hbm 0 placedEntry) 64 placedRange) (placedBase + 0x1000) line }
  { k with cells := Table.put k.cells 0 { c with
      active := true, icache := [{ pid := 0, line := placedHead, bytes := line }], mma := []
      slots := Table.put c.slots n.toNat { mode := .run, head := placedHead, regLim := 128 } } }

end Sys2Proof.Machine
end

