-- ==== Sys2Proof/Machine/Step.lean ====
section
/-! DEFINITION. One step of the machine. -/

namespace Sys2Proof.Machine

/-- ONE STEP: the word after a TAKE prefix, in the same turn (R66); else what the machine has to do before anything else; else the
event that falls due now; else one of the inputs and events that may take place, or the turn of the slot whose turn it is. -/
noncomputable def step (s : State) : Host.Outcome State Fault Refusal :=
  if s.pkgs.isEmpty then .fault .noPackage
  else if (s.slotAt s.cur).take.isSome then takeTurn s
  else match settled s with
    | some t => .next t
    | none => match dueNow s with
      | some i => exec i s
      | none => choose s

/-- The machine with an instruction, as the opcode table numbers its bits, where the next step fetches it: alone in a
clause, in device memory and in the instruction cache of cell 0, at which the slot whose turn it is stands. -/
def State.withFetchWord (s : State) (nbits w : Nat) : State :=
  let p := (s.pkgs.head?.map (·.1)).getD 0
  let k : Pkg := Table.get {} s.pkgs p
  let n : SlotId := BitVec.ofNat 4 k.cycle
  { s with pkgs := Table.put s.pkgs p (k.withClause n (clauseWords (tableWords nbits w)))
           cur := { pkg := BitVec.ofNat 12 p, cell := 0, slot := n }
           agenda := [] }

end Sys2Proof.Machine
end

