-- ==== Sys2Proof/Safety.lean ====
section
/-! DEFINITION. What claims are stated in: the canonical form of every byte store, runs that are never refused, when an
instruction's operands are ready, and what an instruction leaves as it is. -/

namespace Sys2Proof.Machine

/-- The byte stores of a cell are in canonical form. -/
def Cell.memoryWf (t : Cell) : Bool := Memory.wf t.spad && Memory.wf t.bstore && Memory.wf t.opbuf

/-- The byte stores of a package and of its cells are in canonical form. -/
def Pkg.memoryWf (k : Pkg) : Bool :=
  Memory.wf k.hbm && Memory.wf k.ddr && k.cells.all fun (e : Nat × Cell) => e.2.memoryWf

/-- Every byte store of the machine is in canonical form: addresses strictly rising, no entry equal to what an unlisted
address reads as. -/
def State.memoryWf (s : State) : Bool := s.pkgs.all fun (e : Nat × Pkg) => e.2.memoryWf

/-- Whether an outcome is a refusal. -/
def isRefused : Host.Outcome State Fault Refusal → Bool
  | .refused _ => true
  | _ => false

/-- A state from which no number of steps ends in a refusal. -/
def SafeFrom (s : State) : Prop := ∀ n, isRefused (Host.Core.run Sys2Proof.core n s) = false

/-! ## When an instruction executes -/

/-- The privilege that an instruction needs is the slot's (R13, R14, R29). -/
def allowed (s : State) (n : Needs) : Bool :=
  match n with
  | .nothing => true
  | .lead => s.cur.slot == 0
  | .super => (s.slotAt s.cur).priv
  | .never => false

/-- No stream is bound to a register (R27). -/
def Slot.streamless (t : Slot) (r : RegRef) : Bool :=
  match r with
  | .s _ => true
  | .v q => (Table.find t.binds q.toNat).isNone

/-- THE OPERANDS ARE READY: the slot at hand is in a package that is present, it may execute the instruction, the vector
registers lie in its window (R16), every source is full (R20) and not poisoned (R339), no destination is pending (R21), no
stream is bound to an operand, and no TAKE prefix is latched. -/
def ready (s : State) (o : Opnds) : Bool :=
  let t := s.slotAt s.cur
  s.hasPkg s.cur.pkg && allowed s o.needs && !o.beyond && o.named.all (fun r => decide (r.toNat < t.regLim.toNat)) &&
  o.srcs.all (fun r => t.fe r == .full) && o.dsts.all (fun r => t.fe r != .pending) &&
  (o.srcs ++ o.dsts ++ o.whole.map RegRef.v).all t.streamless && (o.srcs ++ o.prior).all (fun r => (regPoison s s.cur o r).isNone) &&
  t.take.isNone

/-! ## What stays -/

/-- A slot without its place in the program and the state of the instruction at hand, which control flow changes, and
without what a publisher has sent it. -/
def Slot.bare (t : Slot) : Slot :=
  { t with head := 0, pos := 0, clause := none, waitqDone := false, mmaStep := 0, loops := {}, clauseLoops := {}
           take := none, wait := none, waitNext := none, pendingPub := none, lastOp := none, took := [], inbox := [] }
/-- A slot without what a publisher has sent it. -/
def Slot.quiet (t : Slot) : Slot := { t with inbox := [] }
/-- A cell without its slots. -/
def Cell.bare (t : Cell) : Cell := { t with slots := [] }
/-- A package without its cells and what publishers have sent lately. -/
def Pkg.bare (k : Pkg) : Pkg := { k with cells := [], sent := [] }

/-- TWO STATES AGREE FOR SLOT `g`: in everything but that slot's place in the program, its instruction at hand, and what
publishers have sent to slots. Memory, registers, accumulators, engines, other slots and packages are the same. -/
def Agree (g : GRef) (a b : State) : Prop :=
  (∀ p, b.hasPkg p = a.hasPkg p ∧ (b.pkgAt p).bare = (a.pkgAt p).bare) ∧
  (∀ p c, (b.cellAt p c).bare = (a.cellAt p c).bare) ∧
  (∀ h, h ≠ g → (b.slotAt h).quiet = (a.slotAt h).quiet) ∧
  (b.slotAt g).bare = (a.slotAt g).bare ∧
  b.cur = a.cur ∧ b.agenda = a.agenda ∧ b.gone = a.gone ∧ b.free = a.free

/-- Where a slot stands: the address of its clause header, its clause position and its loop stack (R46, R121). -/
def Slot.place (t : Slot) : Word × Nat × LoopStack := (t.head, t.pos, t.loops)

/-- AN INSTRUCTION OF THE SLOT AT HAND COMPLETES with the effect `u`: its outcome is a next state which agrees with `u`,
and in which the slot stands at `next`. -/
def CompletesAt (i : Instr) (s u : State) (next : Word × Nat × LoopStack) : Prop :=
  ∃ t, exec i s = .next t ∧ Agree s.cur u t ∧ (t.slotAt s.cur).place = next

/-- It completes, and the slot goes on with what follows: `words` is the instruction's size (R46). -/
def Completes (i : Instr) (s u : State) (words : Nat) : Prop := CompletesAt i s u (s.nextPlace s.cur words)

/-- A slot without what a fault changes of it: its place and the instruction at hand, its state and FKIND, its wait, its hold and
its channels; and without the full/empty states, of which a fault may put back what a TAKE prefix took. -/
def Slot.unstopped (t : Slot) : Slot :=
  { t.bare with mode := .idle, fkind := 0, sFe := [], vFe := [], hold := none, publishing := none, subscribed := none
                registering := none, exitSent := false, stopping := none }
/-- A package without its cells, its channels and the records that wait in it. -/
def Pkg.unfiled (k : Pkg) : Pkg := { k.bare with chans := [], waiting := [] }

/-- WHAT A FAULT OF SLOT `g` AT THE INSTRUCTION AT HAND DOES (R359, R365), and all that it does. The slot enters TRAPPED with the
fault's kind, and stands where it stood; a register that the instruction had taken is full again (R67); a channel that it
publishes is free (R246). A record that names the fault waits to be posted. Memory, registers, nesting counters, special
registers, engines and every other slot are as before, but for what a publisher that stops sends to its subscribers. -/
def Faulted (g : GRef) (f : FaultInfo) (s t : State) : Prop :=
  (t.slotAt g).mode = .trapped ∧ (t.slotAt g).fkind = f.kind.code ∧ (t.slotAt g).publishing = none ∧
  (t.slotAt g).place = (s.slotAt g).place ∧ (t.slotAt g).unstopped = (s.slotAt g).unstopped ∧
  (∀ q, (t.slotAt g).fe q = if q ∈ (s.slotAt g).took ∧ (s.slotAt g).fe q = .taken then .full else (s.slotAt g).fe q) ∧
  (∀ h, h ≠ g → (t.slotAt h).quiet = (s.slotAt h).quiet) ∧
  (∀ p c, (t.cellAt p c).bare = (s.cellAt p c).bare) ∧
  (∀ p, t.hasPkg p = s.hasPkg p ∧ (t.pkgAt p).unfiled = (s.pkgAt p).unfiled) ∧
  (∀ p, p ≠ g.pkg → (t.pkgAt p).chans = (s.pkgAt p).chans ∧ (t.pkgAt p).waiting = (s.pkgAt p).waiting) ∧
  (∀ c : BitVec 12, Table.get ({} : Chan) (t.pkgAt g.pkg).chans c.toNat =
    if (s.slotAt g).publishing = some c then { Table.get ({} : Chan) (s.pkgAt g.pkg).chans c.toNat with publisher := none }
    else Table.get {} (s.pkgAt g.pkg).chans c.toNat) ∧
  t.cur = s.cur ∧ t.agenda = s.agenda ∧ t.gone = s.gone ∧ t.free = s.free ∧
  ∃ r, (t.pkgAt g.pkg).waiting = (s.pkgAt g.pkg).waiting ++
      [{ ring := s.ringOf g, cell := g.cell, slot := some g.slot, ctx := none, record := r }] ∧
    r.kind = f.kind.code ∧ r.sector = f.sector ∧ r.aux = f.aux ∧
    r.pc = (s.slotAt g).head + BitVec.ofNat 64 (4 * (s.slotAt g).pos)

/-- THE INSTRUCTION TRAPS, and does nothing else (R23, R365). -/
def Traps (i : Instr) (s : State) (f : FaultInfo) : Prop := ∃ t, exec i s = .next t ∧ Faulted s.cur f s t

/-- Every byte of every memory and storage is the same: HBM, DDR, scratchpads, B-stores and operand buffers. -/
def SameMemory (s t : State) : Prop :=
  (∀ p, (t.pkgAt p).hbm = (s.pkgAt p).hbm ∧ (t.pkgAt p).ddr = (s.pkgAt p).ddr) ∧
  ∀ p c, (t.cellAt p c).spad = (s.cellAt p c).spad ∧ (t.cellAt p c).bstore = (s.cellAt p c).bstore ∧
    (t.cellAt p c).opbuf = (s.cellAt p c).opbuf

end Sys2Proof.Machine
end

