-- ==== Sys2Proof/Certificates/Slice0/Obligations.lean ====
section
/-! DEFINITION. The statements about the model, for the provers: one `Obligations.<Name>` each. OBLIGATIONS.json lists
them with the rules that they state. -/

namespace Sys2Proof.Claims

open Sys2Proof.Machine

/-- The slot at hand. -/
abbrev here (s : State) : Slot := s.slotAt s.cur
/-- The cell of the slot at hand. -/
abbrev home (s : State) : Cell := s.cellAt s.cur.pkg s.cur.cell
/-- The package of the slot at hand. -/
abbrev pack (s : State) : Pkg := s.pkgAt s.cur.pkg
/-- The slot at hand changed. -/
abbrev withHere (s : State) (f : Slot → Slot) : State := s.mapSlot s.cur f
/-- Its cell changed. -/
abbrev withHome (s : State) (f : Cell → Cell) : State := s.mapCell s.cur.pkg s.cur.cell f

/-- An instruction of `n` words completes and all that it does is to write scalar register `d`. -/
def gives (s : State) (d : SReg) (i : Instr) (v : Word) (n : Nat := 1) : Prop := Completes i s (s.setS s.cur d v) n

/-- An instruction completes and all that it does is to write the active lanes of vector register `d`. -/
def givesLanes (s : State) (d : VRegNo) (i : Instr) (f : Nat → Lane) : Prop :=
  Completes i s (s.setLanes s.cur d (here s).active f) 1

/-- An instruction completes and all that it does is to write all lanes of vector register `d`. -/
def givesAllLanes (s : State) (d : VRegNo) (i : Instr) (f : Nat → Lane) : Prop :=
  Completes i s (s.setLanes s.cur d (BitVec.allOnes 32) f) 1

/-- The slot at hand with floating-point flags raised: they are sticky (R32). -/
def raised (s : State) (f : FpFlags) : State := withHere s fun t => { t with fpFlags := t.fpFlags ||| f }

/-- The active lanes of the slot at hand, in rising order. -/
def activeLanes (s : State) : List Nat := (List.range 32).filter (here s).isActive

/-- An instruction completes, writes the active lanes of vector register `d`, and raises the flags of those lanes: all that
it does (R141). -/
def givesFloats (s : State) (d : VRegNo) (i : Instr) (f : Nat → Nat × FpFlags) : Prop :=
  Completes i s ((raised s (((activeLanes s).map fun l => (f l).2).foldl (· ||| ·) 0)).setLanes s.cur d (here s).active
    fun l => BitVec.ofNat 32 (f l).1) 1

/-- R104: one round of Philox4x32 on the counter words and the key words. -/
def philoxRound (x : List (BitVec 32)) : List (BitVec 32) :=
  let at_ (i : Nat) : BitVec 32 := x.getD i 0
  let a : BitVec 64 := 0xD2511F53 * (at_ 0).setWidth 64
  let b : BitVec 64 := 0xCD9E8D57 * (at_ 2).setWidth 64
  [b.extractLsb' 32 32 ^^^ at_ 1 ^^^ at_ 4, b.extractLsb' 0 32, a.extractLsb' 32 32 ^^^ at_ 3 ^^^ at_ 5, a.extractLsb' 0 32,
    at_ 4 + 0x9E3779B9, at_ 5 + 0xBB67AE85]

/-- R104, R28: the Philox word of lane `l` of the slot at hand, after ten rounds on %RNGCTR, the lane with %SLOT and %CELL,
%PKG and %RNGKEY. -/
def philoxAt (s : State) (l : Nat) : Nat :=
  let ctr := (here s).rngCtr
  let key := (here s).rngKey
  let start : List (BitVec 32) :=
    [ctr.extractLsb' 0 32, ctr.extractLsb' 32 32,
      BitVec.ofNat 32 (l + 2 ^ 5 * s.cur.slot.toNat + 2 ^ 9 * (s.cur.cell.toNat % 2 ^ 16)),
      BitVec.ofNat 32 (s.cur.pkg.toNat + 2 ^ 12 * (pack s).domain.toNat), key.extractLsb' 0 32, key.extractLsb' 32 32]
  ((philoxRound^[10] start).getD 0 0).toNat

/-- %RNGCTR advances; a wrap to zero sets %STAT.RW (R158). -/
def nextRandom (s : State) : State :=
  withHere s fun t => { t with rngCtr := t.rngCtr + 1, statRw := t.statRw || decide (t.rngCtr + 1 = 0) }

/-- 1 or 0. -/
def oneIf {w : Nat} (p : Prop) [Decidable p] : BitVec w := if p then 1 else 0

/-! ## Exact integer arithmetic (R81) -/

/-- Sum, difference and product of integers, modulo 2^w. -/
def Exact.add {w : Nat} (x y : BitVec w) : BitVec w := BitVec.ofNat w (x.toNat + y.toNat)
/-- Difference. -/
def Exact.sub {w : Nat} (x y : BitVec w) : BitVec w := BitVec.ofInt w (x.toInt - y.toInt)
/-- Product. -/
def Exact.mul {w : Nat} (x y : BitVec w) : BitVec w := BitVec.ofInt w (x.toInt * y.toInt)
/-- The high half of the signed product. -/
def Exact.mulh {w : Nat} (x y : BitVec w) : BitVec w := BitVec.ofInt w (x.toInt * y.toInt / (2 ^ w : Nat))
/-- The high half of the unsigned product. -/
def Exact.mulhu {w : Nat} (x y : BitVec w) : BitVec w := BitVec.ofNat w (x.toNat * y.toNat / 2 ^ w)
/-- Shifts take the count modulo the width. -/
def Exact.shl {w : Nat} (x y : BitVec w) : BitVec w := BitVec.ofNat w (x.toNat * 2 ^ (y.toNat % w))
/-- The shift right that fills with zeros. -/
def Exact.shr {w : Nat} (x y : BitVec w) : BitVec w := BitVec.ofNat w (x.toNat / 2 ^ (y.toNat % w))
/-- The shift right that fills with the sign. -/
def Exact.sar {w : Nat} (x y : BitVec w) : BitVec w := BitVec.ofInt w (x.toInt / (2 ^ (y.toNat % w) : Nat))
/-- Signed minimum. -/
def Exact.min {w : Nat} (x y : BitVec w) : BitVec w := BitVec.ofInt w (Min.min x.toInt y.toInt)
/-- Signed maximum. -/
def Exact.max {w : Nat} (x y : BitVec w) : BitVec w := BitVec.ofInt w (Max.max x.toInt y.toInt)
/-- Unsigned minimum. -/
def Exact.minu {w : Nat} (x y : BitVec w) : BitVec w := BitVec.ofNat w (Min.min x.toNat y.toNat)
/-- Unsigned maximum. -/
def Exact.maxu {w : Nat} (x y : BitVec w) : BitVec w := BitVec.ofNat w (Max.max x.toNat y.toNat)
/-- Comparisons give 1 or 0. -/
def Exact.seq {w : Nat} (x y : BitVec w) : BitVec w := oneIf (x = y)
/-- Different. -/
def Exact.sne {w : Nat} (x y : BitVec w) : BitVec w := oneIf (x ≠ y)
/-- Signed less. -/
def Exact.slt {w : Nat} (x y : BitVec w) : BitVec w := oneIf (x.toInt < y.toInt)
/-- Unsigned less. -/
def Exact.sltu {w : Nat} (x y : BitVec w) : BitVec w := oneIf (x.toNat < y.toNat)
/-- Signed less or equal. -/
def Exact.sle {w : Nat} (x y : BitVec w) : BitVec w := oneIf (x.toInt ≤ y.toInt)
/-- Unsigned less or equal. -/
def Exact.sleu {w : Nat} (x y : BitVec w) : BitVec w := oneIf (x.toNat ≤ y.toNat)
/-- An exact integer clamped to the signed range of the width. -/
def Exact.sat (w : Nat) (n : Int) : BitVec w :=
  BitVec.ofInt w (Max.max (-(2 ^ (w - 1) : Nat)) (Min.min ((2 ^ (w - 1) : Nat) - 1) n))
/-- An exact integer clamped to the unsigned range of the width. -/
def Exact.satu (w : Nat) (n : Int) : BitVec w := BitVec.ofInt w (Max.max 0 (Min.min ((2 ^ w : Nat) - 1) n))
/-- Saturating sum and difference, signed and unsigned. -/
def Exact.addsat {w : Nat} (x y : BitVec w) : BitVec w := Exact.sat w (x.toInt + y.toInt)
/-- Saturating signed difference. -/
def Exact.subsat {w : Nat} (x y : BitVec w) : BitVec w := Exact.sat w (x.toInt - y.toInt)
/-- Saturating unsigned sum. -/
def Exact.addsatu {w : Nat} (x y : BitVec w) : BitVec w := Exact.satu w ((x.toNat : Int) + y.toNat)
/-- Saturating unsigned difference. -/
def Exact.subsatu {w : Nat} (x y : BitVec w) : BitVec w := Exact.satu w ((x.toNat : Int) - y.toNat)
/-- The magnitude modulo 2^w. -/
def Exact.abs {w : Nat} (x : BitVec w) : BitVec w := BitVec.ofNat w x.toInt.natAbs
/-- The number of zero bits above the highest set bit: the width for zero. -/
def Exact.clz {w : Nat} (x : BitVec w) : BitVec w := BitVec.ofNat w ((List.range w).countP fun k => decide (x.toNat < 2 ^ k))
/-- The number of set bits. -/
def Exact.popc {w : Nat} (x : BitVec w) : BitVec w := BitVec.ofNat w ((List.range w).countP x.getLsbD)
/-- The sum of the products of the four signed bytes. -/
def Exact.dot4 (x y : Lane) : Lane :=
  let p (j : Nat) : Int := (x.extractLsb' (8 * j) 8).toInt * (y.extractLsb' (8 * j) 8).toInt
  BitVec.ofInt 32 (p 0 + p 1 + p 2 + p 3)
/-- The sum of the products of the four unsigned bytes. -/
def Exact.dot4u (x y : Lane) : Lane :=
  let p (j : Nat) : Nat := (x.extractLsb' (8 * j) 8).toNat * (y.extractLsb' (8 * j) 8).toNat
  BitVec.ofNat 32 (p 0 + p 1 + p 2 + p 3)

end Sys2Proof.Claims

open Sys2Proof Sys2Proof.Machine Sys2Proof.Claims

/-! ## Scalar instructions -/

/-- R110, R81: the results of major 0x01 on a = sreg(srcA) and b = sreg(srcB), in exact arithmetic that wraps; nothing but
the destination changes. -/
def Sys2Proof.Claims.ScalarAlu : Prop :=
  ∀ (s : State) (d a b : SReg), ready s (Opnds.sss d a b) = true →
    let x := (here s).sreg a
    let y := (here s).sreg b
    let n := y.toNat % 64
    gives s d (.add d a b) (Exact.add x y) ∧
    gives s d (.sub d a b) (Exact.sub x y) ∧
    gives s d (.and d a b) (x &&& y) ∧
    gives s d (.or d a b) (x ||| y) ∧
    gives s d (.xor d a b) (x ^^^ y) ∧
    gives s d (.andn d a b) (x &&& ~~~y) ∧
    gives s d (.shl d a b) (Exact.shl x y) ∧
    gives s d (.shr d a b) (Exact.shr x y) ∧
    gives s d (.sar d a b) (Exact.sar x y) ∧
    gives s d (.ror d a b) (BitVec.ofNat 64 (x.toNat / 2 ^ n + x.toNat * 2 ^ (64 - n))) ∧
    gives s d (.mul d a b) (Exact.mul x y) ∧
    gives s d (.mulh d a b) (Exact.mulh x y) ∧
    gives s d (.mulhu d a b) (Exact.mulhu x y) ∧
    gives s d (.min d a b) (Exact.min x y) ∧
    gives s d (.max d a b) (Exact.max x y) ∧
    gives s d (.minu d a b) (Exact.minu x y) ∧
    gives s d (.maxu d a b) (Exact.maxu x y) ∧
    gives s d (.seq d a b) (Exact.seq x y) ∧
    gives s d (.sne d a b) (Exact.sne x y) ∧
    gives s d (.slt d a b) (Exact.slt x y) ∧
    gives s d (.sltu d a b) (Exact.sltu x y) ∧
    gives s d (.sle d a b) (Exact.sle x y) ∧
    gives s d (.sleu d a b) (Exact.sleu x y) ∧
    gives s d (.addw d a b) ((BitVec.ofNat 32 (x.toNat + y.toNat)).signExtend 64) ∧
    gives s d (.subw d a b) ((BitVec.ofInt 32 (x.toInt - y.toInt)).signExtend 64)

/-- R110: CLZ, POPC and BREV: the count of the zero bits above the highest set one, 64 for 0; the count of the set bits;
the bits in reverse. -/
def Sys2Proof.Claims.ScalarBitCounts : Prop :=
  ∀ (s : State) (d a : SReg), ready s (Opnds.ss d a) = true →
    let x := (here s).sreg a
    gives s d (.clz d a) (Exact.clz x) ∧
    gives s d (.popc d a) (Exact.popc x) ∧
    ∃ r : Word, gives s d (.brev d a) r ∧ ∀ i < 64, r.getLsbD i = x.getLsbD (63 - i)

/-- R82, R32: DIV, DIVU, REM and REMU truncate toward zero, the remainder has the sign of the dividend, a zero divisor gives
0 and sets %STAT.DZ, and the most negative value by −1 gives itself and 0; %STAT.DZ is sticky. -/
def Sys2Proof.Claims.DivisionResults : Prop :=
  ∀ (s : State) (d a b : SReg), ready s (Opnds.sss d a b) = true →
    let x := (here s).sreg a
    let y := (here s).sreg b
    let marked := s.mapSlot s.cur fun t => { t with statDz := t.statDz || decide (y = 0) }
    let divides (i : Instr) (v : Word) : Prop := Completes i s (marked.setS s.cur d (if y = 0 then 0 else v)) 1
    divides (.div d a b) (BitVec.ofInt 64 (x.toInt.tdiv y.toInt)) ∧
    divides (.divu d a b) (BitVec.ofNat 64 (x.toNat / y.toNat)) ∧
    divides (.rem d a b) (BitVec.ofInt 64 (x.toInt.tmod y.toInt)) ∧
    divides (.remu d a b) (BitVec.ofNat 64 (x.toNat % y.toNat)) ∧
    (x = BitVec.intMin 64 → y = -1 → divides (.div d a b) x ∧ divides (.rem d a b) 0)

/-- R110, R81, R82, R32: EVERY RESULT OF MAJOR 0x01: arithmetic, logic, shifts, products and comparisons; the bit counts; and
division with its corners. Nothing but the destination changes, and %STAT.DZ for a zero divisor. -/
def Obligations.ScalarResults : Prop := ScalarAlu ∧ ScalarBitCounts ∧ DivisionResults

/-- R111, R112: the immediates take the sign-extended imm12, and the shifts by a constant the count n. -/
def Sys2Proof.Claims.ImmediateAlu : Prop :=
  ∀ (s : State) (d a : SReg), ready s (Opnds.ss d a) = true →
    let x := (here s).sreg a
    (∀ k : BitVec 12,
      let i : Word := k.signExtend 64
      gives s d (.addi d a k) (BitVec.ofInt 64 (x.toInt + k.toInt)) ∧
      gives s d (.andi d a k) (x &&& i) ∧
      gives s d (.ori d a k) (x ||| i) ∧
      gives s d (.xori d a k) (x ^^^ i) ∧
      gives s d (.slti d a k) (oneIf (x.toInt < k.toInt)) ∧
      gives s d (.sltiu d a k) (oneIf (x.toNat < i.toNat))) ∧
    ∀ n : BitVec 6,
      gives s d (.shli d a n) (BitVec.ofNat 64 (x.toNat * 2 ^ n.toNat)) ∧
      gives s d (.shri d a n) (BitVec.ofNat 64 (x.toNat / 2 ^ n.toNat)) ∧
      gives s d (.sari d a n) (BitVec.ofInt 64 (x.toInt / (2 ^ n.toNat : Nat))) ∧
      gives s d (.rori d a n) (BitVec.ofNat 64 (x.toNat / 2 ^ n.toNat + x.toNat * 2 ^ (64 - n.toNat)))

/-- R113, R114, R115, R68: LUI, ADDPC and the three LIT forms; ADDPC counts from the header of its clause, and a LIT is two
words long. MOVLH reads the low half of its register, which must not be poisoned (R339). -/
def Sys2Proof.Claims.ConstantResults : Prop :=
  ∀ (s : State) (d : SReg), ready s (Opnds.d d) = true →
    (∀ i : BitVec 19,
      gives s d (.lui d i) (BitVec.ofInt 64 (i.toInt * 2 ^ 13)) ∧
      gives s d (.addpc d i) (BitVec.ofInt 64 ((here s).head.toInt + i.toInt * 4))) ∧
    ∀ l : BitVec 32,
      gives s d (.movl d l) (BitVec.ofInt 64 l.toInt) 2 ∧
      gives s d (.movlz d l) (BitVec.ofNat 64 l.toNat) 2 ∧
      (ready s { Opnds.d d with prior := [.s d] } = true →
        gives s d (.movlh d l) (BitVec.ofNat 64 (l.toNat * 2 ^ 32 + ((here s).sreg d).toNat % 2 ^ 32)) 2)

/-- R111 to R115, R68: the immediates, the constants and the code address. -/
def Obligations.ImmediateResults : Prop := ImmediateAlu ∧ ConstantResults

/-! ## Integer lanes -/

/-- R148, R81: major 0x12 on lane l of srcA and srcB, in exact arithmetic that wraps or, where named, saturates; only the
active lanes of the destination change (R137). -/
def Sys2Proof.Claims.LaneAlu : Prop :=
  ∀ (s : State) (d a b : VRegNo), ready s (Opnds.vvv d a b) = true →
    let x := lane (s.vregAt s.cur a)
    let y := lane (s.vregAt s.cur b)
    let on (i : Instr) (f : Lane → Lane → Lane) : Prop := givesLanes s d i fun l => f (x l) (y l)
    on (.vadd d a b) Exact.add ∧
    on (.vsub d a b) Exact.sub ∧
    on (.vmul d a b) Exact.mul ∧
    on (.vmulh d a b) Exact.mulh ∧
    on (.vmulhu d a b) Exact.mulhu ∧
    on (.vand d a b) (· &&& ·) ∧
    on (.vor d a b) (· ||| ·) ∧
    on (.vxor d a b) (· ^^^ ·) ∧
    on (.vandn d a b) (fun x y => x &&& ~~~y) ∧
    on (.vshl d a b) Exact.shl ∧
    on (.vshr d a b) Exact.shr ∧
    on (.vsar d a b) Exact.sar ∧
    on (.vmin d a b) Exact.min ∧
    on (.vmax d a b) Exact.max ∧
    on (.vminu d a b) Exact.minu ∧
    on (.vmaxu d a b) Exact.maxu ∧
    on (.vseq d a b) Exact.seq ∧
    on (.vsne d a b) Exact.sne ∧
    on (.vslt d a b) Exact.slt ∧
    on (.vsltu d a b) Exact.sltu ∧
    on (.vsle d a b) Exact.sle ∧
    on (.vsleu d a b) Exact.sleu ∧
    on (.vaddsat d a b) Exact.addsat ∧
    on (.vsubsat d a b) Exact.subsat ∧
    on (.vaddsatu d a b) Exact.addsatu ∧
    on (.vsubsatu d a b) Exact.subsatu ∧
    on (.vdot4 d a b) Exact.dot4 ∧
    on (.vdot4u d a b) Exact.dot4u

/-- R148: the unary minors of major 0x12. -/
def Sys2Proof.Claims.UnaryLaneResults : Prop :=
  ∀ (s : State) (d a : VRegNo), ready s (Opnds.vv d a) = true →
    let x := lane (s.vregAt s.cur a)
    givesLanes s d (.vabs d a) (fun l => Exact.abs (x l)) ∧
    givesLanes s d (.vneg d a) (fun l => BitVec.ofInt 32 (-(x l).toInt)) ∧
    givesLanes s d (.vclz d a) (fun l => Exact.clz (x l)) ∧
    givesLanes s d (.vpopc d a) (fun l => Exact.popc (x l)) ∧
    givesLanes s d (.vabsH d a) (fun l => Exact.abs ((x l).extractLsb' 16 16) ++ Exact.abs ((x l).extractLsb' 0 16))

/-- R148: major 0x13, where b is the low word of a scalar register for every lane. -/
def Sys2Proof.Claims.LaneScalarResults : Prop :=
  ∀ (s : State) (d a : VRegNo) (b : SReg), ready s (Opnds.vvs d a b) = true →
    let x := lane (s.vregAt s.cur a)
    let y : Lane := BitVec.ofNat 32 ((here s).sreg b).toNat
    let on (i : Instr) (f : Lane → Lane → Lane) : Prop := givesLanes s d i fun l => f (x l) y
    on (.vaddScalar d a b) Exact.add ∧
    on (.vsubScalar d a b) Exact.sub ∧
    on (.vmulScalar d a b) Exact.mul ∧
    on (.vmulhScalar d a b) Exact.mulh ∧
    on (.vmulhuScalar d a b) Exact.mulhu ∧
    on (.vandScalar d a b) (· &&& ·) ∧
    on (.vorScalar d a b) (· ||| ·) ∧
    on (.vxorScalar d a b) (· ^^^ ·) ∧
    on (.vandnScalar d a b) (fun x y => x &&& ~~~y) ∧
    on (.vshlScalar d a b) Exact.shl ∧
    on (.vshrScalar d a b) Exact.shr ∧
    on (.vsarScalar d a b) Exact.sar ∧
    on (.vminScalar d a b) Exact.min ∧
    on (.vmaxScalar d a b) Exact.max ∧
    on (.vminuScalar d a b) Exact.minu ∧
    on (.vmaxuScalar d a b) Exact.maxu ∧
    on (.vseqScalar d a b) Exact.seq ∧
    on (.vsneScalar d a b) Exact.sne ∧
    on (.vsltScalar d a b) Exact.slt ∧
    on (.vsltuScalar d a b) Exact.sltu ∧
    on (.vsleScalar d a b) Exact.sle ∧
    on (.vsleuScalar d a b) Exact.sleu ∧
    on (.vaddsatScalar d a b) Exact.addsat ∧
    on (.vsubsatScalar d a b) Exact.subsat ∧
    on (.vaddsatuScalar d a b) Exact.addsatu ∧
    on (.vsubsatuScalar d a b) Exact.subsatu ∧
    on (.vdot4Scalar d a b) Exact.dot4 ∧
    on (.vdot4uScalar d a b) Exact.dot4u

/-- R149: VHOP acts on the two 16-bit elements of each active lane, with the same-numbered elements of its operands. -/
def Sys2Proof.Claims.HalfLaneResults : Prop :=
  ∀ (s : State) (d a b : VRegNo), ready s (Opnds.vvv d a b) = true →
    let x := lane (s.vregAt s.cur a)
    let y := lane (s.vregAt s.cur b)
    let on (i : Instr) (f : BitVec 16 → BitVec 16 → BitVec 16) : Prop := givesLanes s d i fun l =>
      f ((x l).extractLsb' 16 16) ((y l).extractLsb' 16 16) ++ f ((x l).extractLsb' 0 16) ((y l).extractLsb' 0 16)
    on (.vaddH d a b) Exact.add ∧
    on (.vsubH d a b) Exact.sub ∧
    on (.vmulH d a b) Exact.mul ∧
    on (.vmulhH d a b) Exact.mulh ∧
    on (.vminH d a b) Exact.min ∧
    on (.vmaxH d a b) Exact.max ∧
    on (.vminuH d a b) Exact.minu ∧
    on (.vmaxuH d a b) Exact.maxu ∧
    on (.vaddsatH d a b) Exact.addsat ∧
    on (.vsubsatH d a b) Exact.subsat ∧
    on (.vaddsatuH d a b) Exact.addsatu ∧
    on (.vsubsatuH d a b) Exact.subsatu ∧
    on (.vseqH d a b) Exact.seq ∧
    on (.vsltH d a b) Exact.slt ∧
    on (.vshlH d a b) Exact.shl ∧
    on (.vshrH d a b) Exact.shr ∧
    on (.vsarH d a b) Exact.sar

/-- R148, R149, R137, R81: EVERY INTEGER LANE RESULT: of two vectors, of one, of a vector and a scalar, and of 16-bit elements. -/
def Obligations.LaneResults : Prop := LaneAlu ∧ UnaryLaneResults ∧ LaneScalarResults ∧ HalfLaneResults

/-! ## Floating-point lanes -/

/-- R150: major 0x15 on FP32 lanes, with the rounding mode of %FPMODE, on patterns; the flags of the active lanes are
raised (R32, R141). FloatRounding, NanResults and MinMaxResults say what the operations on patterns give. -/
def Sys2Proof.Claims.FloatAlu : Prop :=
  ∀ (s : State) (d a b : VRegNo), ready s (Opnds.vvv d a b) = true →
    let x (l : Nat) : Nat := (lane (s.vregAt s.cur a) l).toNat
    let y (l : Nat) : Nat := (lane (s.vregAt s.cur b) l).toNat
    let rm := Rm.ofMode (here s).rm
    let on (i : Instr) (f : Nat → Nat → Nat × FpFlags) : Prop := givesFloats s d i fun l => f (x l) (y l)
    on (.vfadd d a b) (fp32.op rm .add) ∧
    on (.vfsub d a b) (fp32.op rm .sub) ∧
    on (.vfmul d a b) (fp32.op rm .mul) ∧
    on (.vfdiv d a b) (fp32.op rm .div) ∧
    on (.vfmin d a b) (fp32.minmax false) ∧
    on (.vfmax d a b) (fp32.minmax true) ∧
    on (.vfminnum d a b) (fp32.minmaxNum false) ∧
    on (.vfmaxnum d a b) (fp32.minmaxNum true) ∧
    on (.vfceq d a b) (fp32.compare .eq) ∧
    on (.vfclt d a b) (fp32.compare .lt) ∧
    on (.vfcle d a b) (fp32.compare .le) ∧
    on (.vfcun d a b) (fp32.compare .un) ∧
    on (.vfcopysign d a b) (fun x y => (x % 2 ^ 31 + y / 2 ^ 31 * 2 ^ 31, 0))

/-- R150: the same with a scalar srcB, which every lane reads as FP32. -/
def Sys2Proof.Claims.FloatScalarResults : Prop :=
  ∀ (s : State) (d a : VRegNo) (b : SReg), ready s (Opnds.vvs d a b) = true →
    let x (l : Nat) : Nat := (lane (s.vregAt s.cur a) l).toNat
    let y : Nat := ((here s).sreg b).toNat % 2 ^ 32
    let rm := Rm.ofMode (here s).rm
    let on (i : Instr) (f : Nat → Nat → Nat × FpFlags) : Prop := givesFloats s d i fun l => f (x l) y
    on (.vfaddScalar d a b) (fp32.op rm .add) ∧
    on (.vfsubScalar d a b) (fp32.op rm .sub) ∧
    on (.vfmulScalar d a b) (fp32.op rm .mul) ∧
    on (.vfdivScalar d a b) (fp32.op rm .div) ∧
    on (.vfminScalar d a b) (fp32.minmax false) ∧
    on (.vfmaxScalar d a b) (fp32.minmax true) ∧
    on (.vfminnumScalar d a b) (fp32.minmaxNum false) ∧
    on (.vfmaxnumScalar d a b) (fp32.minmaxNum true) ∧
    on (.vfceqScalar d a b) (fp32.compare .eq) ∧
    on (.vfcltScalar d a b) (fp32.compare .lt) ∧
    on (.vfcleScalar d a b) (fp32.compare .le) ∧
    on (.vfcunScalar d a b) (fp32.compare .un) ∧
    on (.vfcopysignScalar d a b) (fun x y => (x % 2 ^ 31 + y / 2 ^ 31 * 2 ^ 31, 0))

/-- R150, R71, R86: the fused multiply-adds read the destination as the addend c and round once: a·b + c, a·b − c and
c − a·b. -/
def Sys2Proof.Claims.FusedResults : Prop :=
  ∀ (s : State) (d a : VRegNo),
    let rm := Rm.ofMode (here s).rm
    let x (l : Nat) : Nat := (lane (s.vregAt s.cur a) l).toNat
    let z (l : Nat) : Nat := (lane (s.vregAt s.cur d) l).toNat
    (∀ b : VRegNo, ready s (Opnds.vvvAcc d a b) = true →
      let y (l : Nat) : Nat := (lane (s.vregAt s.cur b) l).toNat
      givesFloats s d (.vfma d a b) (fun l => fp32.fma rm false false (x l) (y l) (z l)) ∧
      givesFloats s d (.vfms d a b) (fun l => fp32.fma rm false true (x l) (y l) (z l)) ∧
      givesFloats s d (.vfnma d a b) (fun l => fp32.fma rm true false (x l) (y l) (z l)) ∧
      (∀ t ∈ [(Instr.vhfma d a b, fp16), (Instr.vhfmaBf d a b, bf16)], givesFloats s d t.1 fun l =>
        let lo := t.2.fma rm false false (x l % 2 ^ 16) (y l % 2 ^ 16) (z l % 2 ^ 16)
        let hi := t.2.fma rm false false (x l / 2 ^ 16) (y l / 2 ^ 16) (z l / 2 ^ 16)
        (hi.1 * 2 ^ 16 + lo.1, lo.2 ||| hi.2))) ∧
    ∀ b : SReg, ready s (Opnds.vvsAcc d a b) = true →
      let y : Nat := ((here s).sreg b).toNat % 2 ^ 32
      givesFloats s d (.vfmaScalar d a b) (fun l => fp32.fma rm false false (x l) y (z l)) ∧
      givesFloats s d (.vfmsScalar d a b) (fun l => fp32.fma rm false true (x l) y (z l)) ∧
      givesFloats s d (.vfnmaScalar d a b) (fun l => fp32.fma rm true false (x l) y (z l))

/-- R150, R86, R151: the unary FP32 minors. VFABS, VFNEG and VFCLASS raise no flag. -/
def Sys2Proof.Claims.UnaryFloatResults : Prop :=
  ∀ (s : State) (d a : VRegNo), ready s (Opnds.vv d a) = true →
    let x (l : Nat) : Nat := (lane (s.vregAt s.cur a) l).toNat
    let rm := Rm.ofMode (here s).rm
    let on (i : Instr) (f : Nat → Nat × FpFlags) : Prop := givesFloats s d i fun l => f (x l)
    on (.vfabs d a) (fun x => (x % 2 ^ 31, 0)) ∧
    on (.vfneg d a) (fun x => ((x + 2 ^ 31) % 2 ^ 32, 0)) ∧
    on (.vfsqrt d a) (fun x => fp32.sqrtV rm (fp32.unpack x)) ∧
    on (.vfrcp d a) (fun x => fp32.op rm .div 0x3F800000 x) ∧
    on (.vfrsq d a) (fun x => fp32.rsqrtV rm (fp32.unpack x)) ∧
    on (.vfexp2 d a) (fun x => fp32.exp2V rm (fp32.unpack x)) ∧
    on (.vflog2 d a) (fun x => fp32.log2V rm (fp32.unpack x)) ∧
    on (.vfrint d a) (fun x => fp32.rintV rm (fp32.unpack x)) ∧
    on (.vfclass d a) (fun x =>
      let neg := decide (2 ^ 31 ≤ x)
      let e := x / 2 ^ 23 % 2 ^ 8
      let f := x % 2 ^ 23
      let k : Nat :=
        if e = 255 then (if f = 0 then (if neg then 0 else 7) else if f < 2 ^ 22 then 8 else 9)
        else if e = 0 then (if f = 0 then (if neg then 3 else 4) else if neg then 2 else 5)
        else if neg then 1 else 6
      (2 ^ k, 0))

/-- R150, R151, R71, R86: EVERY FP32 LANE RESULT: of two vectors, of a vector and a scalar, fused, and of one vector. -/
def Obligations.FloatResults : Prop := FloatAlu ∧ FloatScalarResults ∧ FusedResults ∧ UnaryFloatResults

/-- R152: VHFOP on the two 16-bit elements of each active lane: FP16, or BF16 in the .bf forms. -/
def Obligations.FloatHalfResults : Prop :=
  ∀ (s : State) (d a b : VRegNo), ready s (Opnds.vvv d a b) = true →
    let x (l : Nat) : Nat := (lane (s.vregAt s.cur a) l).toNat
    let y (l : Nat) : Nat := (lane (s.vregAt s.cur b) l).toNat
    let rm := Rm.ofMode (here s).rm
    let on (i : Instr) (f : Nat → Nat → Nat × FpFlags) : Prop := givesFloats s d i fun l =>
      let lo := f (x l % 2 ^ 16) (y l % 2 ^ 16)
      let hi := f (x l / 2 ^ 16) (y l / 2 ^ 16)
      (hi.1 * 2 ^ 16 + lo.1, lo.2 ||| hi.2)
    on (.vhadd d a b) (fp16.op rm .add) ∧
    on (.vhsub d a b) (fp16.op rm .sub) ∧
    on (.vhmul d a b) (fp16.op rm .mul) ∧
    on (.vhmin d a b) (fp16.minmax false) ∧
    on (.vhmax d a b) (fp16.minmax true) ∧
    on (.vhceq d a b) (fp16.compare .eq) ∧
    on (.vhclt d a b) (fp16.compare .lt) ∧
    on (.vhcle d a b) (fp16.compare .le) ∧
    on (.vhcun d a b) (fp16.compare .un) ∧
    on (.vhaddBf d a b) (bf16.op rm .add) ∧
    on (.vhsubBf d a b) (bf16.op rm .sub) ∧
    on (.vhmulBf d a b) (bf16.op rm .mul) ∧
    on (.vhminBf d a b) (bf16.minmax false) ∧
    on (.vhmaxBf d a b) (bf16.minmax true) ∧
    on (.vhceqBf d a b) (bf16.compare .eq) ∧
    on (.vhcltBf d a b) (bf16.compare .lt) ∧
    on (.vhcleBf d a b) (bf16.compare .le) ∧
    on (.vhcunBf d a b) (bf16.compare .un)

/-! ## What floating-point operations give -/

/-- R83: the real number that a pattern of a format stands for; none for infinities and NaNs. -/
noncomputable def Sys2Proof.Claims.valueOf (f : FpFmt) (x : Nat) : Option ℝ :=
  let s : ℝ := if x / 2 ^ (f.ew + f.fw) % 2 = 1 then -1 else 1
  let e := x / 2 ^ f.fw % 2 ^ f.ew
  let m := x % 2 ^ f.fw
  let bias : Int := 2 ^ (f.ew - 1) - 1
  if e = 2 ^ f.ew - 1 then none
  else if e = 0 then some (s * m * (2 : ℝ) ^ (1 - bias - (f.fw : Int)))
  else some (s * (2 ^ f.fw + m) * (2 : ℝ) ^ ((e : Int) - bias - (f.fw : Int)))

/-- R83: a NaN's pattern. -/
abbrev Sys2Proof.Claims.isNanBits (f : FpFmt) (x : Nat) : Prop := x / 2 ^ f.fw % 2 ^ f.ew = 2 ^ f.ew - 1 ∧ x % 2 ^ f.fw ≠ 0
/-- R83: a NaN whose most significant fraction bit is zero is signalling. -/
abbrev Sys2Proof.Claims.isSigBits (f : FpFmt) (x : Nat) : Prop := isNanBits f x ∧ x % 2 ^ f.fw < 2 ^ (f.fw - 1)

/-- R86, R32: `r` is the pattern that the real number `z`, not zero, rounds to: the nearest value, the even one of two, or
an infinity from half a step above the largest finite value on; toward zero the value next below in magnitude; upward and
downward the next one above or below, and an infinity where there is none. A rounded zero keeps the sign of `z`. -/
def Sys2Proof.Claims.Rounds (f : FpFmt) (rm : Rm) (z : ℝ) (r : Nat) : Prop :=
  let sgn : Nat := 2 ^ (f.ew + f.fw)
  let inf : Nat := (2 ^ f.ew - 1) * 2 ^ f.fw
  let top : ℝ := (2 - (2 : ℝ) ^ (-(f.fw : Int))) * (2 : ℝ) ^ ((2 : Int) ^ (f.ew - 1) - 1)
  let step : ℝ := (2 : ℝ) ^ ((2 : Int) ^ (f.ew - 1) - 1 - (f.fw : Int))
  let finite (v : ℝ) (x : Nat) : Prop := x < 2 * sgn ∧ valueOf f x = some v
  let good (p : ℝ → Prop) : Prop := ∃ v, finite v r ∧ (r / sgn = 1 ↔ z < 0) ∧ p v
  match rm with
  | .near =>
    if top + step / 2 ≤ |z| then r = (if z < 0 then sgn else 0) + inf
    else good fun v => ∀ w y, finite w y → |v - z| ≤ |w - z| ∧ (|v - z| = |w - z| → w = v ∨ r % 2 = 0)
  | .zero => good fun v => |v| ≤ |z| ∧ ∀ w y, finite w y → |w| ≤ |z| → |w| ≤ |v|
  | .up => if top < z then r = inf else good fun v => z ≤ v ∧ ∀ w y, finite w y → z ≤ w → v ≤ w
  | .down => if z < -top then r = sgn + inf else good fun v => v ≤ z ∧ ∀ w y, finite w y → w ≤ z → w ≤ v
  | .stoch _ => True

/-- Which of NV, DV, OF, UF and NX an operation raises (R32). -/
def Sys2Proof.Claims.Flagged (x : FpFlags) (nv dv ov uf nx : Prop) : Prop :=
  (x.getLsbD 0 = true ↔ nv) ∧ (x.getLsbD 1 = true ↔ dv) ∧ (x.getLsbD 2 = true ↔ ov) ∧ (x.getLsbD 3 = true ↔ uf) ∧
  (x.getLsbD 4 = true ↔ nx)

/-- R87: rounding the real number `z` with unbounded exponent gives a magnitude above the largest finite value. -/
def Sys2Proof.Claims.Overflows (f : FpFmt) (rm : Rm) (z : ℝ) : Prop :=
  let step : ℝ := (2 : ℝ) ^ ((2 : Int) ^ (f.ew - 1) - 1 - (f.fw : Int))
  let top : ℝ := (2 : ℝ) ^ ((2 : Int) ^ (f.ew - 1)) - step
  match rm with
  | .near => top + step / 2 ≤ |z|
  | .zero => top + step ≤ |z|
  | .up => top < z ∨ z ≤ -(top + step)
  | .down => z < -top ∨ top + step ≤ z
  | .stoch _ => True

/-- R87: rounding the real number `z` with unbounded exponent gives a magnitude below the smallest normal value. -/
def Sys2Proof.Claims.Tiny (f : FpFmt) (rm : Rm) (z : ℝ) : Prop :=
  let least : ℝ := (2 : ℝ) ^ (2 - (2 : Int) ^ (f.ew - 1))
  let step : ℝ := (2 : ℝ) ^ (1 - (2 : Int) ^ (f.ew - 1) - (f.fw : Int))
  match rm with
  | .near => |z| < least - step / 2
  | .zero => |z| < least
  | .up => -least < z ∧ z ≤ least - step
  | .down => z < least ∧ -(least - step) ≤ z
  | .stoch _ => True

/-- R86, R85, R87, R150: sums, differences, products, quotients and fused multiply-adds of finite operands, subnormal ones
included, are the exact results rounded once, in FP32, FP16 and BF16, in every mode of %FPMODE.RM. OF is raised where the rounded
magnitude would exceed the largest finite value, UF where the result is tiny and inexact, and NX where the delivered value is
not the exact one. An exact zero raises nothing; it has the sign of a product or quotient, and a sum's has that of its terms
where both are zeros of one sign, and else − in RM = 3 and + in the others. -/
def Sys2Proof.Claims.ArithmeticRounding : Prop :=
  ∀ f ∈ [fp32, fp16, bf16], ∀ (m : BitVec 2) (x y : Nat) (a b : ℝ),
    x < 2 ^ (1 + f.ew + f.fw) → y < 2 ^ (1 + f.ew + f.fw) → valueOf f x = some a → valueOf f y = some b →
    let rm := Rm.ofMode m
    let sgn : Nat := 2 ^ (f.ew + f.fw)
    let minus (v : Nat) : Bool := decide (v / sgn = 1)
    let sumSign (p q : ℝ) (i j : Bool) : Bool := if p = 0 ∧ q = 0 ∧ i = j then i else decide (m = 3)
    let delivers (r : Nat × FpFlags) (z : ℝ) (neg : Bool) : Prop :=
      (z ≠ 0 → Rounds f rm z r.1 ∧
        Flagged r.2 False False (Overflows f rm z) (Tiny f rm z ∧ valueOf f r.1 ≠ some z) (valueOf f r.1 ≠ some z)) ∧
      (z = 0 → r = (if neg then sgn else 0, 0))
    delivers (f.op rm .add x y) (a + b) (sumSign a b (minus x) (minus y)) ∧
    delivers (f.op rm .sub x y) (a - b) (sumSign a b (minus x) (!minus y)) ∧
    delivers (f.op rm .mul x y) (a * b) (minus x != minus y) ∧
    (b ≠ 0 → delivers (f.op rm .div x y) (a / b) (minus x != minus y)) ∧
    ∀ (w : Nat) (c : ℝ), w < 2 ^ (1 + f.ew + f.fw) → valueOf f w = some c →
      let p := minus x != minus y
      delivers (f.fma rm false false x y w) (a * b + c) (sumSign (a * b) c p (minus w)) ∧
      delivers (f.fma rm false true x y w) (a * b - c) (sumSign (a * b) c p (!minus w)) ∧
      delivers (f.fma rm true false x y w) (c - a * b) (sumSign (a * b) c (!p) (minus w))

/-- R86, R87, R150: an infinity among the operands that makes no invalid operation gives an exact infinity or zero, with the sign
of the rule and no flag. -/
def Sys2Proof.Claims.InfinityResults : Prop :=
  ∀ f ∈ [fp32, fp16, bf16], ∀ (m : BitVec 2) (p q : Bool) (x : Nat) (a : ℝ), x < 2 ^ (1 + f.ew + f.fw) → valueOf f x = some a →
    let rm := Rm.ofMode m
    let sgn : Nat := 2 ^ (f.ew + f.fw)
    let with_ (s : Bool) (v : Nat) : Nat := if s then sgn + v else v
    let inf (s : Bool) : Nat := with_ s ((2 ^ f.ew - 1) * 2 ^ f.fw)
    let n := decide (x / sgn = 1)
    f.op rm .add (inf p) x = (inf p, 0) ∧ f.op rm .add x (inf p) = (inf p, 0) ∧ f.op rm .add (inf p) (inf p) = (inf p, 0) ∧
    f.op rm .sub (inf p) x = (inf p, 0) ∧ f.op rm .sub x (inf p) = (inf !p, 0) ∧ f.op rm .sub (inf p) (inf !p) = (inf p, 0) ∧
    f.op rm .mul (inf p) (inf q) = (inf (p != q), 0) ∧
    (a ≠ 0 → f.op rm .mul (inf p) x = (inf (p != n), 0) ∧ f.op rm .mul x (inf p) = (inf (p != n), 0)) ∧
    f.op rm .div (inf p) x = (inf (p != n), 0) ∧ f.op rm .div x (inf p) = (with_ (p != n) 0, 0)

/-- R86, R87, R150: the square root and the reciprocal square root of a positive FP32 operand round the exact root once, with NX
where it is not exact and no other flag. √±0 is that zero and 1/√±0 an infinity of its sign with DV; √+∞ = +∞ and 1/√+∞ = +0; of
another negative operand they are the canonical NaN with NV. -/
def Sys2Proof.Claims.RootRounding : Prop :=
  ∀ (m : BitVec 2) (x : Nat), x < 2 ^ 32 →
    let rm := Rm.ofMode m
    let q := fp32.sqrtV rm (fp32.unpack x)
    let r := fp32.rsqrtV rm (fp32.unpack x)
    let exact (y : Nat × FpFlags) (z : ℝ) : Prop :=
      Rounds fp32 rm z y.1 ∧ Flagged y.2 False False False False (valueOf fp32 y.1 ≠ some z)
    (∀ a : ℝ, valueOf fp32 x = some a → 0 < a → exact q (Real.sqrt a) ∧ exact r (1 / Real.sqrt a)) ∧
    (x % 2 ^ 31 = 0 → q = (x, 0) ∧ r = (x + 0x7F800000, 2)) ∧
    (x = 0x7F800000 → q = (x, 0) ∧ r = (0, 0)) ∧
    (0x80000000 < x → x ≤ 0xFF800000 → q = (0x7FC00000, 1) ∧ r = (0x7FC00000, 1))

/-- R98: `y` is the magnitude `m` rounded to a multiple of 2^`q`: to the nearest one, the even one of two; toward zero;
upward or downward, as the sign `neg` makes it; or, with the 16-bit fraction `r` of one quantum added, by truncation. -/
def Sys2Proof.Claims.RoundsTo (rm : Rm) (neg : Bool) (m : ℝ) (q : Int) (y : ℝ) : Prop :=
  let u : ℝ := m / (2 : ℝ) ^ q
  ∃ n : Nat, y = n * (2 : ℝ) ^ q ∧
    match rm with
    | .near => ∀ k : Nat, |n - u| ≤ |k - u| ∧ (|n - u| = |k - u| → k = n ∨ n % 2 = 0)
    | .zero => n = ⌊u⌋₊
    | .up => n = if neg then ⌊u⌋₊ else ⌈u⌉₊
    | .down => n = if neg then ⌈u⌉₊ else ⌊u⌋₊
    | .stoch r => n = ⌊u + r / (2 : ℝ) ^ 16⌋₊

/-- R150: VFRINT rounds to an integer in the mode of %FPMODE.RM, keeps the sign, and raises NX when the value changes;
infinities stay. -/
def Sys2Proof.Claims.IntegralResults : Prop :=
  ∀ (m : BitVec 2) (x : Nat), x < 2 ^ 32 →
    let rm := Rm.ofMode m
    let r := fp32.rintV rm (fp32.unpack x)
    (∀ a : ℝ, valueOf fp32 x = some a → ∃ y v : ℝ, RoundsTo rm (decide (2 ^ 31 ≤ x)) |a| 0 y ∧
      valueOf fp32 r.1 = some v ∧ |v| = y ∧ r.1 < 2 ^ 32 ∧ r.1 / 2 ^ 31 = x / 2 ^ 31 ∧
      Flagged r.2 False False False False (v ≠ a)) ∧
    (x % 2 ^ 31 = 0x7F800000 → r = (x, 0))

/-- R83, R85, R86, R87, R150: FLOATING-POINT RESULTS ARE THE EXACT ONES ROUNDED ONCE; VFRINT rounds to an integer. -/
def Obligations.FloatRounding : Prop := ArithmeticRounding ∧ InfinityResults ∧ RootRounding ∧ IntegralResults

/-- R86: what VFEXP2 and VFLOG2 deliver, and the special cases of VFRSQ. The delivered value is that of one rounding of a
number that differs from the exact result by less than one part in 2^100, which is the exact result rounded once unless that
lies so close to a boundary of rounding. Integers have exact powers of two, and powers of two exact logarithms, with no flag;
every other finite result is inexact. exp2(−∞) = +0, log2(±0) = −∞ with DV, the logarithm of a negative number is a NaN
with NV, and rSqrt(±0) = ±∞ with DV. -/
def Obligations.TranscendentalResults : Prop :=
  ∀ (m : BitVec 2) (x : Nat), x < 2 ^ 32 →
    let rm := Rm.ofMode m
    let e := fp32.exp2V rm (fp32.unpack x)
    let l := fp32.log2V rm (fp32.unpack x)
    let close (z : ℝ) (r : Nat) : Prop := ∃ y, |y - z| ≤ |z| / 2 ^ 100 ∧ Rounds fp32 rm y r
    (∀ a : ℝ, valueOf fp32 x = some a →
      close ((2 : ℝ) ^ a) e.1 ∧
      (∀ n : Int, a = n → -149 ≤ n → n ≤ 127 → valueOf fp32 e.1 = some ((2 : ℝ) ^ n) ∧ e.2 = 0) ∧
      ((∀ n : Int, a ≠ n) → e.2.getLsbD 4 = true) ∧
      (0 < a →
        (∀ n : Int, a = (2 : ℝ) ^ n → valueOf fp32 l.1 = some (n : ℝ) ∧ l.2 = 0) ∧
        ((∀ n : Int, a ≠ (2 : ℝ) ^ n) → close (Real.logb 2 a) l.1 ∧ l.2 = 16)) ∧
      (a = 0 → l = (0xFF800000, 2) ∧
        fp32.rsqrtV rm (fp32.unpack x) = (if x < 2 ^ 31 then 0x7F800000 else 0xFF800000, 2)) ∧
      (a < 0 → l = (0x7FC00000, 1))) ∧
    (x = 0x7F800000 → e = (x, 0) ∧ l = (x, 0)) ∧
    (x = 0xFF800000 → e = (0, 0) ∧ l = (0x7FC00000, 1))

/-! ## Conversions -/

/-- What a pattern stands for (R97): a NaN, which may be signalling; an infinity; or a real number, whose sign a zero has
too. -/
inductive Sys2Proof.Claims.Number where
  | nan (signalling : Bool)
  | inf (neg : Bool)
  | real (neg : Bool) (v : ℝ)

/-- R83: the number of a pattern of an IEEE format. -/
noncomputable def Sys2Proof.Claims.ieeeNumber (f : FpFmt) (x : Nat) : Number :=
  let neg := decide (x / 2 ^ (f.ew + f.fw) % 2 = 1)
  match valueOf f x with
  | some v => .real neg v
  | none => if x % 2 ^ f.fw = 0 then .inf neg else .nan (decide (x % 2 ^ f.fw < 2 ^ (f.fw - 1)))

/-- R89: the number of a code of a binary8 format. Its NaN is quiet (R97). -/
noncomputable def Sys2Proof.Claims.b8Number (c x : Nat) : Number :=
  let p := c % 8
  let u := c / 8 % 2
  let ext := c / 16 % 2
  let t := p - 1
  let neg := decide (u = 0 ∧ 128 ≤ x)
  let m := if u = 0 then x % 128 else x
  let bias : Int := if u = 0 then 2 ^ (7 - p) else 2 ^ (8 - p)
  if (u = 0 ∧ x = 0x80) ∨ (u = 1 ∧ x = 0xFF) then .nan false
  else if ext = 1 ∧ ((u = 0 ∧ m = 0x7F) ∨ (u = 1 ∧ m = 0xFE)) then .inf neg
  else
    let e := m / 2 ^ t
    let f := m % 2 ^ t
    let v : ℝ := if e = 0 then f * (2 : ℝ) ^ (1 - bias - (t : Int)) else (2 ^ t + f) * (2 : ℝ) ^ ((e : Int) - bias - t)
    .real neg (if neg then -v else v)

/-- R92: the number of a scale byte. -/
noncomputable def Sys2Proof.Claims.e8m0Number (x : Nat) : Number :=
  if x = 255 then .nan false else .real false ((2 : ℝ) ^ ((x : Int) - 127))

/-- R92: an integer. -/
def Sys2Proof.Claims.intNumber (x : Int) : Number := .real (decide (x < 0)) x

/-- R97, R153: what VCVT reads of a lane by its source kind, with %CVTSRC for kind 6. -/
noncomputable def Sys2Proof.Claims.sourceNumber (k c : Nat) (x : Lane) : Number :=
  let lo := x.extractLsb' 0 16
  let hi := x.extractLsb' 16 16
  let b := x.extractLsb' 0 8
  match k with
  | 0 => ieeeNumber fp32 x.toNat
  | 1 => ieeeNumber fp16 lo.toNat
  | 2 => ieeeNumber fp16 hi.toNat
  | 3 => ieeeNumber bf16 lo.toNat
  | 4 => ieeeNumber bf16 hi.toNat
  | 5 => intNumber x.toInt
  | 6 => if c = 0x23 then intNumber b.toInt else if c = 0x24 then intNumber b.toNat
         else if c = 0x27 then e8m0Number b.toNat else b8Number c b.toNat
  | _ => intNumber lo.toInt

/-- R98, R99, R102: what the conversion of a number to an IEEE format gives, `most` its largest finite value. -/
def Sys2Proof.Claims.ToIeee (f : FpFmt) (rm : Rm) (sat : Bool) (n : Number) (r : Nat × FpFlags) : Prop :=
  let sgn (neg : Bool) : Nat := if neg then 2 ^ (f.ew + f.fw) else 0
  let inf : Nat := (2 ^ f.ew - 1) * 2 ^ f.fw
  let most : ℝ := (2 - (2 : ℝ) ^ (-(f.fw : Int))) * (2 : ℝ) ^ ((2 : Int) ^ (f.ew - 1) - 1)
  let emin : Int := 2 - (2 : Int) ^ (f.ew - 1)
  match n with
  | .nan sig => r.1 = inf + 2 ^ (f.fw - 1) ∧ Flagged r.2 (sig = true) False False False False
  | .inf neg => r = (sgn neg + inf, 0)
  | .real neg v =>
    if v = 0 then r = (sgn neg, 0)
    else ∃ y w : ℝ, RoundsTo rm neg |v| (max (Int.log 2 |v|) emin - f.fw) y ∧ RoundsTo rm neg |v| (Int.log 2 |v| - f.fw) w ∧
      if most < y then
        r.1 = sgn neg + (if sat = false ∧ (rm ≠ .zero ∧ (rm = .up → neg = false) ∧ (rm = .down → neg = true)) then inf
          else inf - 1) ∧ Flagged r.2 False False True False True
      else r.1 < 2 * 2 ^ (f.ew + f.fw) ∧ ieeeNumber f r.1 = .real neg (if neg then -y else y) ∧
        Flagged r.2 False False False (y ≠ |v| ∧ w < (2 : ℝ) ^ emin) (y ≠ |v|)

/-- R98, R99, R91: what the conversion of a number to a binary8 format gives. -/
def Sys2Proof.Claims.ToBinary8 (c : Nat) (rm : Rm) (sat : Bool) (n : Number) (r : Nat × FpFlags) : Prop :=
  let uns : Prop := c / 8 % 2 = 1
  let ext : Prop := c / 16 % 2 = 1
  let nan : Nat := if uns then 0xFF else 0x80
  let t : Nat := c % 8 - 1
  let emin : Int := 1 - (if uns then 2 ^ (8 - c % 8) else 2 ^ (7 - c % 8))
  let top : Nat := if uns then 0xFE else 0x7F                             -- +∞, or the largest value of a finite domain
  let most : Nat := if ext then top - 1 else top
  let sgn (neg : Bool) : Nat := if neg then 0x80 else 0
  match n with
  | .nan sig => r.1 = nan ∧ Flagged r.2 (sig = true) False False False False
  | .inf neg =>
    if uns ∧ neg then r = (if sat then (0, 0) else (nan, 1))
    else if ext then r = (sgn neg + top, 0)
    else r = (if sat then (sgn neg + most, 0) else (nan, 1))
  | .real neg v =>
    if v = 0 then r = (0, 0)
    else if uns ∧ neg then r = (if sat then (0, 16) else (nan, 17))
    else ∃ y w : ℝ, RoundsTo rm neg |v| (max (Int.log 2 |v|) emin - t) y ∧ RoundsTo rm neg |v| (Int.log 2 |v| - t) w ∧
      ∃ b : ℝ, b8Number c most = .real false b ∧
      if b < y then r = (if sat then (sgn neg + most, 20) else if ext then (sgn neg + top, 20) else (nan, 21))
      else r.1 < 256 ∧ b8Number c r.1 = (if y = 0 then .real false 0 else .real neg (if neg then -y else y)) ∧
        Flagged r.2 False False False (y ≠ |v| ∧ w < (2 : ℝ) ^ emin) (y ≠ |v|)

/-- R100, R102: what the conversion of a number to an integer of `w` bits gives; `exact_` marks an integer source, which
raises no flag. -/
def Sys2Proof.Claims.ToInteger (w : Nat) (signed exact_ : Bool) (rm : Rm) (sat : Bool) (n : Number) (r : Nat × FpFlags) : Prop :=
  let lo : Int := if signed then -2 ^ (w - 1) else 0
  let hi : Int := if signed then 2 ^ (w - 1) - 1 else 2 ^ w - 1
  let bits (x : Int) : Nat := (x % 2 ^ w).toNat
  match n with
  | .nan _ => r = (0, 1)
  | .inf neg => r = (if sat then bits (if neg then lo else hi) else 0, 1)
  | .real neg v => ∃ (y : ℝ) (k : Int), RoundsTo rm neg |v| 0 y ∧ (k : ℝ) = (if neg then -y else y) ∧
    r.1 = bits (if sat then max lo (min hi k) else k) ∧
    Flagged r.2 ((k < lo ∨ hi < k) ∧ exact_ = false) False False False ((k : ℝ) ≠ v)

/-- R101: what the conversion of a number to a scale byte gives, whatever its sign and the rounding mode. -/
def Sys2Proof.Claims.ToScale (sat : Bool) (n : Number) (r : Nat × FpFlags) : Prop :=
  match n with
  | .nan sig => r.1 = 0xFF ∧ Flagged r.2 (sig = true) False False False False
  | .inf _ => r = (if sat then (0xFE, 0) else (0xFF, 1))
  | .real _ v =>
    if |v| < (2 : ℝ) ^ (-127 : Int) then r = (0, 24)
    else (r.1 : Int) = Int.log 2 |v| + 127 ∧ Flagged r.2 False False False False (∀ e : Int, |v| ≠ (2 : ℝ) ^ e)

/-- R97 to R102: what a conversion of a number to the format of code `d` gives. -/
def Sys2Proof.Claims.Converts (d : Nat) (exact_ : Bool) (rm : Rm) (sat : Bool) (n : Number) (r : Nat × FpFlags) : Prop :=
  if d < 32 then ToBinary8 d rm sat n r
  else match d with
    | 0x20 => ToIeee fp32 rm sat n r
    | 0x21 => ToIeee fp16 rm sat n r
    | 0x22 => ToIeee bf16 rm sat n r
    | 0x23 => ToInteger 8 true exact_ rm sat n r
    | 0x24 => ToInteger 8 false exact_ rm sat n r
    | 0x25 => ToInteger 16 true exact_ rm sat n r
    | 0x26 => ToInteger 32 true exact_ rm sat n r
    | _ => ToScale sat n r

/-- R97 to R104, R153, R154, R27: VCVT decodes every active lane by the source kind that its minor names, converts the number
to the format that it names, in the mode of %FPMODE.RM or stochastically with the upper half of the lane's Philox word, and
raises the flags of the active lanes; the random counter advances once when rounding is stochastic; a source that %CVTSRC does
not allow traps ILLEGAL. The formats are those of R90 and R92. -/
def Obligations.ConversionResults : Prop :=
  ∀ (s : State) (d a : VRegNo) (f : BitVec 7) (st sat : Bool) (k : BitVec 3), ready s (Opnds.vv d a) = true →
    (f.toNat < 32 ∧ f.toNat % 8 ≠ 0 ∨ 32 ≤ f.toNat ∧ f.toNat < 40) →
    let c := (here s).cvtSrc.toNat
    let byteFormat : Prop := c < 32 ∧ c % 8 ≠ 0 ∨ c ∈ [0x23, 0x24, 0x27]
    let exact_ := decide (k = 5 ∨ k = 7 ∨ k = 6 ∧ c ∈ [0x23, 0x24])
    if k = 6 ∧ ¬ byteFormat then Traps (.vcvt d a f st sat k) s { kind := .illegal }
    else ∃ out : Nat → Nat × FpFlags,
      (∀ l ∈ activeLanes s, Converts f.toNat exact_ (if st then .stoch (philoxAt s l / 2 ^ 16) else Rm.ofMode (here s).rm) sat
        (sourceNumber k.toNat c (lane (s.vregAt s.cur a) l)) (out l)) ∧
      let u := (raised s (((activeLanes s).map fun l => (out l).2).foldl (· ||| ·) 0)).setLanes s.cur d (here s).active
        fun l => BitVec.ofNat 32 (out l).1
      Completes (.vcvt d a f st sat k) s (if st then nextRandom u else u) 1

/-- R84, R87: an operation on a NaN delivers the canonical NaN of its format and raises NV exactly for a signalling one;
∞ − ∞, 0 · ∞, 0 / 0, ∞ / ∞ and the root of a negative number deliver it with NV; a division of a finite non-zero number by
zero raises DV alone and delivers an infinity. -/
def Sys2Proof.Claims.NanResults : Prop :=
  ∀ t ∈ [(fp32, 0x7FC00000), (fp16, 0x7E00), (bf16, 0x7FC0)], ∀ (m : BitVec 2) (x y : Nat),
    let f := t.1
    let rm := Rm.ofMode m
    let nan (i : Prop) (r : Nat × FpFlags) : Prop := r.1 = t.2 ∧ (i → r.2 = 1) ∧ (¬ i → r.2 = 0)
    let sgn : Nat := 2 ^ (f.ew + f.fw)
    let inf : Nat := (2 ^ f.ew - 1) * 2 ^ f.fw
    let minus (b : Bool) (v : Nat) : Nat := if b then sgn + v else v
    (isNanBits f x ∨ isNanBits f y → ∀ o : FpOp, nan (isSigBits f x ∨ isSigBits f y) (f.op rm o x y)) ∧
    (isNanBits f x → nan (isSigBits f x) (f.sqrtV rm (f.unpack x)) ∧ nan (isSigBits f x) (f.rsqrtV rm (f.unpack x)) ∧
      nan (isSigBits f x) (f.exp2V rm (f.unpack x)) ∧ nan (isSigBits f x) (f.log2V rm (f.unpack x)) ∧
      nan (isSigBits f x) (f.rintV rm (f.unpack x))) ∧
    (∀ (w : Nat) (p q : Bool), isNanBits f x ∨ isNanBits f y ∨ isNanBits f w → (f.fma rm p q x y w).1 = t.2) ∧
    (∀ p : Bool, nan True (f.op rm .add (minus p inf) (minus (!p) inf)) ∧ nan True (f.op rm .sub (minus p inf) (minus p inf))) ∧
    (∀ (p q : Bool) (w : Nat), nan True (f.op rm .mul (minus p 0) (minus q inf)) ∧
      nan True (f.op rm .mul (minus p inf) (minus q 0)) ∧ nan True (f.op rm .div (minus p 0) (minus q 0)) ∧
      nan True (f.op rm .div (minus p inf) (minus q inf)) ∧ nan True (f.fma rm false false (minus p 0) (minus q inf) w)) ∧
    (∀ v, 0 < v → v ≤ inf → nan True (f.sqrtV rm (f.unpack (sgn + v)))) ∧
    ∀ (p q : Bool) (v : Nat), 0 < v → v < inf →
      f.op rm .div (minus p v) (minus q 0) = (minus (p != q) inf, 2)

/-- R88: the NaN and zero rows of the minimum, maximum and comparison instructions, and their order of numbers. -/
def Sys2Proof.Claims.MinMaxResults : Prop :=
  ∀ t ∈ [(fp32, 0x7FC00000), (fp16, 0x7E00), (bf16, 0x7FC0)], ∀ (x y : Nat),
    let f := t.1
    let sgn : Nat := 2 ^ (f.ew + f.fw)
    let sig := isSigBits f x ∨ isSigBits f y
    let nv (i : Prop) (r : Nat × FpFlags) : Prop := (i → r.2 = 1) ∧ (¬ i → r.2 = 0)
    (isNanBits f x ∨ isNanBits f y →
      (∀ b, (f.minmax b x y).1 = t.2 ∧ nv sig (f.minmax b x y)) ∧
      (∀ b, (f.minmaxNum b x y).1 = (if isNanBits f x then (if isNanBits f y then t.2 else y) else x) ∧
        nv sig (f.minmaxNum b x y)) ∧
      (f.compare .eq x y).1 = 0 ∧ nv sig (f.compare .eq x y) ∧
      f.compare .lt x y = (0, 1) ∧ f.compare .le x y = (0, 1) ∧
      (f.compare .un x y).1 = 1 ∧ nv sig (f.compare .un x y)) ∧
    (∀ a b : ℝ, x < 2 * sgn → y < 2 * sgn → valueOf f x = some a → valueOf f y = some b →
      let first := a < b ∨ a = 0 ∧ b = 0 ∧ x = sgn
      (a ≠ b ∨ a = 0 → f.minmax false x y = (if first then x else y, 0) ∧ f.minmax true x y = (if first then y else x, 0)) ∧
      f.minmaxNum false x y = f.minmax false x y ∧ f.minmaxNum true x y = f.minmax true x y ∧
      f.compare .eq x y = (if a = b then 1 else 0, 0) ∧ f.compare .lt x y = (if a < b then 1 else 0, 0) ∧
      f.compare .le x y = (if a ≤ b then 1 else 0, 0) ∧ f.compare .un x y = (0, 0))

/-- R84, R87, R88: NaNs, invalid operations, divisions by zero; minimum, maximum and comparison. -/
def Obligations.SpecialFloatResults : Prop := NanResults ∧ MinMaxResults

/-! ## Cross-lane movement, reduction and random numbers -/

/-- R155: the permutations, with the low five bits of their selectors; and the moves. VEXTR, VINS and VMERGE act whatever
the counters hold. A source must not be poisoned in the lanes that are read (R339). -/
def Sys2Proof.Claims.MoveResults : Prop :=
  ∀ (s : State) (d a : VRegNo),
    let x := lane (s.vregAt s.cur a)
    (∀ i : VRegNo,
      let q (l : Nat) : Nat := (lane (s.srcV s.cur i) l).toNat % 32
      let both := if a = i then [(a, activeLanes s)] else []
      ready s { Opnds.vvv d a i with whole := [a], reads := (a, (activeLanes s).map q) :: both } = true →
      givesLanes s d (.vshuf d a i) fun l => x ((lane (s.vregAt s.cur i) l).toNat % 32)) ∧
    (∀ k : SReg,
      let q := ((here s).sreg k).toNat % 32
      ∀ t ∈ [(Instr.vrotl d a k, fun l => (l + q) % 32), (Instr.vbfly d a k, fun l => l ^^^ q), (Instr.vbcast d a k, fun _ => q)],
        ready s { Opnds.vvs d a k with whole := [a], reads := [(a, (activeLanes s).map t.2)] } = true →
        givesLanes s d t.1 fun l => x (t.2 l)) ∧
    (∀ (r k : SReg),
      let q := ((here s).sreg k).toNat % 32
      ready s { Opnds.svs r a k with whole := [a], reads := [(a, [q])] } = true →
      gives s r (.vextr r a k) (BitVec.ofNat 64 (x q).toNat)) ∧
    (∀ (v k : SReg), ready s { Opnds.vss d v k with whole := [d] } = true →
      Completes (.vins d v k) s (s.setLanes s.cur d (BitVec.ofNat 32 (2 ^ (((here s).sreg k).toNat % 32)))
        fun _ => BitVec.ofNat 32 ((here s).sreg v).toNat) 1) ∧
    (∀ b : VRegNo,
      ready s { Opnds.vvv d a b with whole := [d, a, b], reads := [(a, List.range 32), (b, List.range 32)] } = true →
      givesAllLanes s d (.vmerge d a b) fun l => if (here s).isActive l then x l else lane (s.vregAt s.cur b) l) ∧
    (ready s (Opnds.vv d a) = true → givesLanes s d (.vmov d a) x) ∧
    (ready s (Opnds.vd d) = true → givesLanes s d (.vlaneid d) fun l => BitVec.ofNat 32 l) ∧
    (∀ r : SReg, ready s (Opnds.vs d r) = true →
      givesLanes s d (.vmovs d r) fun _ => BitVec.ofNat 32 ((here s).sreg r).toNat) ∧
    ∀ r : SReg, ready s (Opnds.d r) = true →
      gives s r (.vactmask r) (BitVec.ofNat 64 (((activeLanes s).map (2 ^ ·)).sum))

/-- R156: the value and the flags of node `i` of the pairwise tree, `n` levels above the lanes `p`: a value beside an absent
one passes up as it is, and two are added by `f`. -/
def Sys2Proof.Claims.pairTree (f : Nat → Nat → Nat × FpFlags) (p : Nat → Option Nat) : Nat → Nat → Option Nat × FpFlags
  | 0, i => (p i, 0)
  | n + 1, i =>
    let x := pairTree f p n (2 * i)
    let y := pairTree f p n (2 * i + 1)
    match x.1, y.1 with
    | none, _ => (y.1, x.2 ||| y.2)
    | some _, none => (x.1, x.2 ||| y.2)
    | some a, some b => (some (f a b).1, x.2 ||| y.2 ||| (f a b).2)

/-- R155, R156: the running sum, and the reductions over the active lanes, with their values where no lane is active;
VREDFADD adds in the pairwise tree of R156 and raises its flags. -/
def Obligations.ReductionResults : Prop :=
  ∀ (s : State) (a : VRegNo),
    let x := lane (s.vregAt s.cur a)
    let on := (activeLanes s).map x
    (∀ d : VRegNo, ready s (Opnds.vv d a) = true → givesLanes s d (.vprefix d a) fun l =>
      BitVec.ofNat 32 (((activeLanes s).filter fun j => decide (j ≤ l)).map fun j => (x j).toNat).sum) ∧
    ∀ d : SReg, ready s (Opnds.sv d a) = true →
      gives s d (.vredadd d a) ((BitVec.ofNat 32 (on.map BitVec.toNat).sum).signExtend 64) ∧
      gives s d (.vredmin d a) (BitVec.ofInt 64 ((on.map BitVec.toInt).foldl Min.min (2 ^ 31 - 1))) ∧
      gives s d (.vredmax d a) (BitVec.ofInt 64 ((on.map BitVec.toInt).foldl Max.max (-2 ^ 31))) ∧
      gives s d (.vredminu d a)
        ((BitVec.ofNat 32 ((on.map BitVec.toNat).foldl Min.min (2 ^ 32 - 1))).signExtend 64) ∧
      gives s d (.vredmaxu d a) ((BitVec.ofNat 32 ((on.map BitVec.toNat).foldl Max.max 0)).signExtend 64) ∧
      let tree := pairTree (fp32.op (Rm.ofMode (here s).rm) .add)
        (fun l => if (here s).isActive l then some (x l).toNat else none) 5 0
      Completes (.vredfadd d a) s ((raised s tree.2).setS s.cur d (BitVec.ofNat 64 (tree.1.getD 0))) 1

/-- R157, R18: the packing minors move elements of 8 or 16 bits between the low bits of the lanes and a quarter or a half
of the dense order: byte e of a register is byte e mod 4 of lane ⌊e / 4⌋, and so for 16-bit elements. VPACKB and VPACKH read vD before they
write it, so that it must not be poisoned (R339). -/
def Sys2Proof.Claims.PackingResults : Prop :=
  ∀ (s : State) (d a : VRegNo) (k : SReg),
    let x := lane (s.vregAt s.cur a)
    let old := lane (s.vregAt s.cur d)
    let q8 := ((here s).sreg k).toNat % 4
    let q16 := ((here s).sreg k).toNat % 2
    (ready s { Opnds.vvs d a k with whole := [d], prior := [.v d], reads := [(d, List.range 32)] } = true →
      (∃ f : Nat → Lane,
        givesAllLanes s d (.vpackb d a k) f ∧ ∀ e < 128,
        (f (e / 4)).extractLsb' (8 * (e % 4)) 8 =
          if e / 32 = q8 ∧ (here s).isActive (e % 32) then (x (e % 32)).extractLsb' 0 8
          else (old (e / 4)).extractLsb' (8 * (e % 4)) 8) ∧
      ∃ f : Nat → Lane,
        givesAllLanes s d (.vpackh d a k) f ∧ ∀ e < 64,
        (f (e / 2)).extractLsb' (16 * (e % 2)) 16 =
          if e / 32 = q16 ∧ (here s).isActive (e % 32) then (x (e % 32)).extractLsb' 0 16
          else (old (e / 2)).extractLsb' (16 * (e % 2)) 16) ∧
    (ready s { Opnds.vvs d a k with
        whole := [a], reads := [(a, (activeLanes s).map fun l => (32 * q8 + l) * 8 / 32)] } = true →
      givesLanes s d (.vunpkb d a k) (fun l =>
        let e := 32 * q8 + l
        BitVec.ofNat 32 ((x (e / 4)).extractLsb' (8 * (e % 4)) 8).toNat)) ∧
    (ready s { Opnds.vvs d a k with
        whole := [a], reads := [(a, (activeLanes s).map fun l => (32 * q16 + l) * 16 / 32)] } = true →
      givesLanes s d (.vunpkh d a k) (fun l =>
        let e := 32 * q16 + l
        BitVec.ofNat 32 ((x (e / 2)).extractLsb' (16 * (e % 2)) 16).toNat))

/-- R155, R157, R18: cross-lane moves and packing. -/
def Obligations.PermutationResults : Prop := MoveResults ∧ PackingResults

/-- R158, R104: VRAND writes the Philox word of each active lane, VRANDF its top 24 bits as a fraction of one; both advance
%RNGCTR by one, and %STAT.RW is set when it wraps to zero. -/
def Obligations.RandomResults : Prop :=
  ∀ (s : State) (d : VRegNo), ready s (Opnds.vd d) = true →
    let gives (i : Instr) (f : Nat → Lane) : Prop := Completes i s (nextRandom (s.setLanes s.cur d (here s).active f)) 1
    gives (.vrand d) (fun l => BitVec.ofNat 32 (philoxAt s l)) ∧
    ∃ f : Nat → Lane, gives (.vrandf d) f ∧ ∀ l,
      valueOf fp32 (f l).toNat = some ((philoxAt s l / 2 ^ 8 : Nat) / (2 ^ 24 : ℝ))

/-! ## Lane control -/

/-- R144, R146: the transitions of the nesting counters, all lanes at one moment. A lane whose new counter would pass 63
makes the instruction trap NCOVF with the mask of those lanes, and nothing changes. VLOOPE also tells whether a lane is
active afterwards, VGETNC writes the counters to every lane, and VSETNC takes them from every lane. -/
def Obligations.NestingResults : Prop :=
  ∀ (s : State),
    let c (l : Nat) : Nat := ((here s).count l).toNat
    let counts (i : Instr) (f : Nat → Nat) (k : State → State) : Prop :=
      ((∀ l < 32, f l ≤ 63) → ∃ n : Table (BitVec 6), (∀ l < 32, Table.get 0 n l = BitVec.ofNat 6 (f l)) ∧
        Completes i s (k (withHere s fun t => { t with nest := n })) 1) ∧
      ((∃ l < 32, 63 < f l) → ∃ m : BitVec 32, (∀ l < 32, m.getLsbD l = decide (63 < f l)) ∧
        Traps i s { kind := .ncovf, aux := BitVec.ofNat 64 m.toNat })
    (∀ v : VRegNo, ready s (Opnds.va v) = true →
      let t (l : Nat) : Prop := lane (s.vregAt s.cur v) l ≠ 0
      counts (.vif v) (fun l => if c l = 0 then (if t l then 0 else 1) else c l + 1) id ∧
      counts (.vifz v) (fun l => if c l = 0 then (if t l then 1 else 0) else c l + 1) id ∧
      ∀ n : BitVec 7,
        counts (.vbrk v n) (fun l => if c l = 0 then (if t l then 2 + n.toNat else 0) else c l) id ∧
        counts (.vcont v n) (fun l => if c l = 0 then (if t l then 1 + n.toNat else 0) else c l) id) ∧
    (ready s {} = true →
      counts .velse (fun l => if c l = 0 then 1 else if c l = 1 then 0 else c l) id ∧
      counts .vendif (fun l => c l - 1) id ∧
      counts .vendifLx (fun l => c l - 2) id ∧
      counts .vloopb (fun l => if c l = 0 then 0 else c l + 2) id) ∧
    (∀ (d : SReg) (v : VRegNo), ready s (Opnds.sv d v) = true →
      let f (l : Nat) : Nat :=
        if c l = 0 then (if lane (s.vregAt s.cur v) l ≠ 0 then 0 else 2) else if c l = 1 then 0 else c l
      counts (.vloope d v) f fun u => u.setS s.cur d (if (List.range 32).any (fun l => f l == 0) then 1 else 0)) ∧
    (∀ d : VRegNo, ready s { Opnds.vd d with whole := [d] } = true →
      givesAllLanes s d (.vgetnc d) fun l => BitVec.ofNat 32 (c l)) ∧
    ∀ v : VRegNo, ready s { Opnds.va v with whole := [v], reads := [(v, List.range 32)] } = true →
      counts (.vsetnc v) (fun l => (lane (s.vregAt s.cur v) l).toNat) id

/-! ## Control transfer -/

/-- R55, R56, R116: the clause header word `w` stands at the code address `a`, and the cell's instruction cache holds its
clause as memory does, for a slot that has forgotten its latest producer and whatever refill it began. -/
def Sys2Proof.Claims.codeAt (s : State) (a : Word) (w : BitVec 32) : Prop :=
  a.toNat / 2 ^ 57 = 16 ∧ a.toNat % 4 = 0 ∧ w.toNat / 2 ^ 26 = 0x3E ∧
  ∃ ws, ∀ u ∈ [withHere s fun t => { t with lastOp := none }, withHere s fun t => { t with lastOp := none, refill := none }],
    lookClause u s.cur a = .code u w ws

/-- R118: whether a branch condition holds on a scalar and on the counters. -/
def Sys2Proof.Claims.branches (t : Slot) (k : Cond) (x : Word) : Prop :=
  match k with
  | .eqz => x.toInt = 0
  | .nez => x.toInt ≠ 0
  | .ltz => x.toInt < 0
  | .gez => 0 ≤ x.toInt
  | .gtz => 0 < x.toInt
  | .lez => x.toInt ≤ 0
  | .any => ∃ l < 32, t.count l = 0
  | .none => ∀ l < 32, t.count l ≠ 0
  | .all => ∀ l < 32, t.count l = 0

/-- R116 to R123: a slot that fetches for itself goes to a target whose clause is at hand, JALR and BAL with the link value
L = H + 4 · (1 + COUNT); BR, BC and JR pop the loop entries that they leave, JALR and BAL none; a BC that is not taken goes
on. LOOP starts its body, the clause that follows its own, or skips it for a count of 0. -/
def Sys2Proof.Claims.TakenTransfers : Prop :=
  ∀ (s : State), (here s).following = false →
    let t := here s
    let link := t.head + BitVec.ofNat 64 (4 * (1 + t.clauseLen))
    let own := t.head + BitVec.ofNat 64 (4 * t.pos)
    let there (i : Int) : Word := t.head + BitVec.ofInt 64 (4 * i)
    let settled := withHere s fun t => { t with refill := none }
    let goes (i : Instr) (a : Word) : Prop :=
      ∀ w, codeAt s a w → CompletesAt i s settled (a, 0, t.loops.leave 5 own a)
    (∀ i : BitVec 19, ready s {} = true → goes (.br i) (there i.toInt)) ∧
    (∀ (k : Cond) (a : SReg) (i : BitVec 12), ready s (condOpnds k a) = true →
      (branches t k (t.sreg a) → goes (.bc k a i) (there i.toInt)) ∧
      (¬ branches t k (t.sreg a) → Completes (.bc k a i) s s 1)) ∧
    (∀ a : SReg, ready s (Opnds.a a) = true → goes (.jr a) (t.sreg a)) ∧
    (∀ (d a : SReg), ready s (Opnds.ss d a) = true →
      ∀ w, codeAt s (t.sreg a) w → CompletesAt (.jalr d a) s (settled.setS s.cur d link) (t.sreg a, 0, t.loops)) ∧
    (∀ (d : SReg) (i : BitVec 19), ready s (Opnds.d d) = true →
      ∀ w, codeAt s (there i.toInt) w → CompletesAt (.bal d i) s (settled.setS s.cur d link) (there i.toInt, 0, t.loops)) ∧
    (∀ (a : SReg) (i : BitVec 12), ready s (Opnds.a a) = true → 1 + (t.clauseLen : Int) ≤ i.toInt →
      ∀ w, codeAt s (there i.toInt) w →
        let z := there i.toInt + BitVec.ofNat 64 (4 * (1 + w.toNat % 16))
        (t.sreg a = 0 → ∀ w', codeAt s z w' → CompletesAt (.loop a i) s settled (z, 0, t.loops.leave 5 own z)) ∧
        (t.sreg a ≠ 0 →
          let l := t.loops.leave 5 own link
          l.depth ≠ 4 → ∀ w', codeAt s link w' → CompletesAt (.loop a i) s settled
            (link, 0, l.push { start := link, last := there i.toInt, after := z, remaining := t.sreg a })))

/-- R116, R55, R56: a transfer whose target fails its check traps and has no other effect: PROT outside window 2's code
addresses, CLAUSE for a target that is no multiple of 4. LOOP traps CLAUSE for a last clause that does not follow its own,
with E, and for a fifth entry, with all ones; its targets are the last clause and then the one it goes to. -/
def Sys2Proof.Claims.TransferTraps : Prop :=
  ∀ (s : State), (here s).following = false →
    let t := here s
    let there (i : Int) : Word := t.head + BitVec.ofInt 64 (4 * i)
    let checked (i : Instr) (a : Word) : Prop :=
      (a.toNat / 2 ^ 57 ≠ 16 →
        Traps i s { kind := .prot, sector := a, aux := BitVec.ofNat 64 (7 + 3 * 2 ^ 4 + 2 * 2 ^ 8 + t.pid.toNat * 2 ^ 12) }) ∧
      (a.toNat / 2 ^ 57 = 16 → a.toNat % 4 ≠ 0 → Traps i s { kind := .clause, aux := a })
    (∀ i : BitVec 19, ready s {} = true → checked (.br i) (there i.toInt)) ∧
    (∀ (k : Cond) (a : SReg) (i : BitVec 12), ready s (condOpnds k a) = true → branches t k (t.sreg a) →
      checked (.bc k a i) (there i.toInt)) ∧
    (∀ a : SReg, ready s (Opnds.a a) = true → checked (.jr a) (t.sreg a)) ∧
    (∀ (d a : SReg), ready s (Opnds.ss d a) = true → checked (.jalr d a) (t.sreg a)) ∧
    (∀ (d : SReg) (i : BitVec 19), ready s (Opnds.d d) = true → checked (.bal d i) (there i.toInt)) ∧
    (∀ (a : SReg) (i : BitVec 12), ready s (Opnds.a a) = true →
      (i.toInt < 1 + (t.clauseLen : Int) → Traps (.loop a i) s { kind := .clause, aux := there i.toInt }) ∧
      (1 + (t.clauseLen : Int) ≤ i.toInt →
        checked (.loop a i) (there i.toInt) ∧
        ∀ w, codeAt s (there i.toInt) w →
          let start := t.head + BitVec.ofNat 64 (4 * (1 + t.clauseLen))
          let depth := (t.loops.leave 5 (t.head + BitVec.ofNat 64 (4 * t.pos)) start).depth
          (t.sreg a = 0 → checked (.loop a i) (there i.toInt + BitVec.ofNat 64 (4 * (1 + w.toNat % 16)))) ∧
          (t.sreg a ≠ 0 → depth = 4 → Traps (.loop a i) s { kind := .clause, aux := BitVec.allOnes 64 }) ∧
          (t.sreg a ≠ 0 → depth ≠ 4 → checked (.loop a i) start)))

/-- R109: in a subscriber a transfer reads no source and transfers nothing: it only writes the publisher's link value, and
the slot goes where its publisher goes. IDLE does not delay it. -/
def Sys2Proof.Claims.SubscriberTransfers : Prop :=
  ∀ (s : State), (here s).following = true →
    (ready s {} = true → ∀ (a : SReg),
      (∀ i : BitVec 19, Completes (.br i) s s 1) ∧ (∀ k (i : BitVec 12), Completes (.bc k a i) s s 1) ∧
      Completes (.jr a) s s 1 ∧ (∀ i : BitVec 12, Completes (.loop a i) s s 1) ∧ Completes (.idle a) s s 1) ∧
    ∀ d : SReg, ready s (Opnds.d d) = true →
      (∀ a : SReg, gives s d (.jalr d a) (here s).nextClause) ∧ ∀ i : BitVec 19, gives s d (.bal d i) (here s).nextClause

/-- R109, R116 to R123, R55, R56: CONTROL TRANSFER: where each goes, what makes it trap, and what it is in a subscriber. -/
def Obligations.TransferResults : Prop := TakenTransfers ∧ TransferTraps ∧ SubscriberTransfers

/-- R126, R128, R132, R133, R135, R136: TAKE latches its prefix, REGMODE sets mode bits, LOCALITY compares two cells, ICINV
begins once nothing that it waits for is left, NOP does nothing, and IDLE delays by 16 · (1 + n) cycles but for n = 0. -/
def Sys2Proof.Claims.PlainSystemResults : Prop :=
  ∀ (s : State),
    (s.hasPkg s.cur.pkg = true → ∀ a b, exec (.take a b) s = .next (withHere s fun t => { t with take := some (a, b) })) ∧
    (∀ (r : BitVec 7) (l v m : Bool), ready s { named := if v && !l then [r] else [] } = true →
      ∃ x y : NumSet, Completes (.regmode r l v m) s (withHere s fun t => { t with sTrap := x, vTrap := y }) 1 ∧
        (∀ q < 32, NumSet.has x q = if v = false ∧ (l = true ∨ q = r.toNat) then m else NumSet.has (here s).sTrap q) ∧
        ∀ q < 128, NumSet.has y q =
          if v = true ∧ (if l = true then q < (here s).regLim.toNat else q = r.toNat) then m
          else NumSet.has (here s).vTrap q) ∧
    (∀ (d a : SReg), ready s { srcs := [.s a], dsts := [.s d], tb := some (.s a) } = true →
      let p := ((here s).sreg a).toNat % 2 ^ 12
      let q := ((here s).sreg a).toNat / 2 ^ 16 % 2 ^ 12
      let hops := ((p % 64 : Nat) - (q % 64 : Nat) : Int).natAbs + ((p / 64 : Nat) - (q / 64 : Nat) : Int).natAbs
      gives s d (.locality d a) (BitVec.ofNat 64
        ((if dieOf (BitVec.ofNat 12 p) = dieOf (BitVec.ofNat 12 q) then 1 else 0) + (if p = q then 2 else 0) + hops * 2 ^ 8))) ∧
    (ready s {} = true →
      Completes .nop s s 1 ∧
      ((here s).ops.any Op.beforeIcinv = false → (here s).refused.any (fun e => e.2.beforeIcinv) = false →
        Completes .icinv s (withHere s fun t => { t with icinv := true }) 1)) ∧
    ∀ a : SReg, (here s).following = false → ready s { srcs := [.s a], tb := some (.s a) } = true →
      let n := ((here s).sreg a).toNat % 2 ^ 32
      (n = 0 → Completes (.idle a) s s 1) ∧
      (n ≠ 0 → Completes (.idle a) s
        (withHere s fun t => { t with hold := some { why := .idle, till := s.cycleAt s.cur.pkg + 16 * (1 + n) } }) 1)

/-- An instruction completes, and the slot stops after it, at what follows (R131). -/
def Sys2Proof.Claims.StopsAfter (i : Instr) (s : State) (f : FaultInfo) : Prop :=
  ∃ t, exec i s = .next t ∧ (t.slotAt s.cur).mode = .trapped ∧ (t.slotAt s.cur).fkind = f.kind.code ∧
    (t.slotAt s.cur).place = s.nextPlace s.cur 1 ∧ (∀ r, (t.slotAt s.cur).sreg r = (here s).sreg r) ∧ SameMemory s t ∧
    ∃ r, (t.pkgAt s.cur.pkg).waiting = (pack s).waiting ++
        [{ ring := s.ringOf s.cur, cell := s.cur.cell, slot := some s.cur.slot, ctx := none, record := r }] ∧
      r.kind = f.kind.code ∧ r.aux = f.aux ∧ r.pc = (here s).head + BitVec.ofNat 64 (4 * (here s).pos)

/-- R131: TRAP and BRKPT complete before the slot stops, with the source's low 56 bits above the code, and with the code. -/
def Sys2Proof.Claims.StopInstructions : Prop :=
  ∀ (s : State) (k : BitVec 7),
    (∀ a : SReg, ready s { srcs := [.s a], tb := some (.s a), pub := false } = true →
      StopsAfter (.trap a k) s
        { kind := .trap, aux := BitVec.ofNat 64 (((here s).sreg a).toNat % 2 ^ 56 * 2 ^ 8 + k.toNat) }) ∧
    (ready s { pub := false } = true → StopsAfter (.brkpt k) s { kind := .breakpoint, aux := BitVec.ofNat 64 k.toNat })

/-- R126, R128, R131 to R136: the system instructions that are no register access, TRAP and BRKPT among them. -/
def Obligations.SystemResults : Prop := PlainSystemResults ∧ StopInstructions

/-- R28 to R33, R129: GETSR writes the value that each special register has; SETSR writes the fields of a register that all
slots may write and ignores the other bits; %PID asks for the privilege bit, and a write of the others traps PRIV. -/
def Obligations.SpecialRegisters : Prop :=
  ∀ (s : State),
    (∀ (d : SReg) (n : SpecReg), ready s (Opnds.d d) = true →
      let t := here s
      let k := pack s
      let one (b : Bool) : Nat := if b then 1 else 0
      let mine (w : Nat) : Bool :=
        let e := (Table.get 0 (home s).rotation w).toNat
        decide (128 ≤ e) && e % 16 == s.cur.slot.toNat
      gives s d (.getsr d n) (match n with
        | .slot => BitVec.ofNat 64 s.cur.slot.toNat
        | .cell => BitVec.ofNat 64 s.cur.cell.toNat
        | .pkg => BitVec.ofNat 64 (s.cur.pkg.toNat + k.domain.toNat * 2 ^ 12)
        | .gang => t.gang
        | .gslot => BitVec.ofNat 64
            (s.cur.slot.toNat + s.cur.cell.toNat * 2 ^ 4 + s.cur.pkg.toNat * 2 ^ 16 + k.domain.toNat * 2 ^ 28)
        | .node => t.node
        | .group => t.group
        | .reccnt => t.recCnt
        | .time => BitVec.ofNat 64 k.time
        | .cycle => BitVec.ofNat 64 k.cycle
        | .fpmode => BitVec.ofNat 64 t.rm.toNat
        | .fpflags => BitVec.ofNat 64 t.fpFlags.toNat
        | .rngkey => t.rngKey
        | .rngctr => t.rngCtr
        | .stat => BitVec.ofNat 64 (one t.statDz + 2 * one t.statRw + 4 * one (k.timeUnc || k.refLost))
        | .fewait => BitVec.ofNat 64 t.feWait.toNat
        | .pid => BitVec.ofNat 64 t.pid.toNat
        | .regbase => BitVec.ofNat 64 t.regBase.toNat
        | .reglim => BitVec.ofNat 64 t.regLim.toNat
        | .priv => BitVec.ofNat 64 (one t.priv)
        | .cvtsrc => BitVec.ofNat 64 t.cvtSrc.toNat
        | .mwin => BitVec.ofNat 64
            (((List.range 16).map fun w => if mine w then 2 ^ w else 0).sum +
              ((List.range 16).map fun w => if 16 ≤ w + k.capNow.toNat then 2 ^ (16 + w) else 0).sum +
              k.cycle / 16 % 16 * 2 ^ 32)
        | .chan => BitVec.ofNat 64
            ((match t.publishing with | some c => 2 ^ 12 + c.toNat | none => 0) +
              2 ^ 16 * match t.subscribed with | some c => 2 ^ 12 + c.toNat | none => 0)
        | .depth => t.depth
        | .lead => BitVec.ofNat 64 (one (s.cur.slot == 0) + 2 * one t.groupLead))) ∧
    ∀ a : SReg,
      let v := (here s).sreg a
      let o (n : Needs) : Opnds := { srcs := [.s a], tb := some (.s a), needs := n }
      let sets (n : SpecReg) (f : Slot → Slot) : Prop := Completes (.setsr a n) s (withHere s f) 1
      (ready s (o .nothing) = true →
        sets .fpmode (fun t => { t with rm := BitVec.ofNat 2 v.toNat }) ∧
        sets .fpflags (fun t => { t with fpFlags := BitVec.ofNat 5 v.toNat }) ∧
        sets .rngkey (fun t => { t with rngKey := v }) ∧
        sets .rngctr (fun t => { t with rngCtr := v }) ∧
        sets .stat (fun t => { t with statDz := v.getLsbD 0, statRw := v.getLsbD 1 }) ∧
        sets .fewait (fun t => { t with feWait := BitVec.ofNat 32 v.toNat }) ∧
        sets .cvtsrc (fun t => { t with cvtSrc := BitVec.ofNat 7 v.toNat })) ∧
      (ready s (o .super) = true → sets .pid fun t => { t with pid := BitVec.ofNat 16 v.toNat }) ∧
      (s.hasPkg s.cur.pkg = true →
        ((here s).priv = false → Traps (.setsr a .pid) s { kind := .priv }) ∧
        ∀ n ∈ [SpecReg.slot, .cell, .pkg, .gang, .gslot, .node, .group, .reccnt, .time, .cycle, .regbase, .reglim, .priv,
          .mwin, .chan, .depth, .lead], Traps (.setsr a n) s { kind := .priv })

/-! ## Memory instructions -/

/-- The slot at hand once it has forgotten its latest producer. -/
abbrev Sys2Proof.Claims.fresh (s : State) : State := withHere s fun t => { t with lastOp := none }

/-- R426: the operations of the slot at hand are numbered below the number that its next one takes; NumbersStay says that
every step keeps this. -/
def Sys2Proof.Claims.numbered (t : Slot) : Prop := ∀ o ∈ t.ops ++ t.replay, o.id < t.nextOp

/-- R169, R350, R425: no release at a scope has anything to wait for or to report. -/
def Sys2Proof.Claims.released (s : State) (sv : Bool) : Prop :=
  (here s).releaseWaits sv = false ∧ s.streamsOut s.cur = false ∧ (here s).refused = [] ∧
    (sv = true → (here s).parityLost = none)

/-- R303: the slot is in no redundant group, whose routers compare what their slots send (R378). -/
def Sys2Proof.Claims.unpaired (t : Slot) : Prop := ∀ m, t.member = some m → m.partner = none

/-- R169: nothing holds an access of this scope and order back: no acquire is outstanding, and a release is free to go. -/
def Sys2Proof.Claims.unheld (s : State) (c : Scope) (o : Order) : Prop :=
  (here s).acquiring = false ∧ (releases c o = true → released s (c == .sv))

/-- The slot at hand goes on after `n` words, or, where the instruction waits, parks for `w` (R12). -/
def Sys2Proof.Claims.goesOn (i : Instr) (s u : State) (n : Nat) (w : Option WaitFor) : Prop :=
  match w with
  | none => Completes i s u n
  | some w => ∃ t, exec i s = .next t ∧
      Agree s.cur (withHere u fun x => { x with mode := if x.mode = .run then .parked else x.mode }) t ∧
      (t.slotAt s.cur).wait = some { what := w, since := s.cycleAt s.cur.pkg } ∧
      (t.slotAt s.cur).waitNext = some (s.nextPlace s.cur n)

/-- The units of an operation that lie in the own cell, by number (R166). -/
def Sys2Proof.Claims.ownUnits (o : Op) : List Nat :=
  (List.range o.units.length).filter fun j => (o.units[j]?.map (·.path)) == some .local
/-- The elements of those units. -/
def Sys2Proof.Claims.ownElts (o : Op) : List Elt := (ownUnits o).flatMap fun j => (o.units[j]?.map (·.elts)).getD []

/-- R19, R174, R316: the state with operation `o` of the slot at hand issued. It is the youngest of the slot, and its
destinations are pending unless it is posted. Its units in the own cell await the slot port, which serves them for `n` cycles once
it is free; an operation that may have to wait there stands among the waiters of the cell from then on. With a bound, the port has
served it and those before it by then (R162). -/
def Sys2Proof.Claims.issued (s : State) (o : Op) (n : Nat) (listed : Bool := false) (bound : Option Nat := none) : State :=
  let u := withHere s fun t =>
    let x := if o.posted then t else o.dst.regs.foldl (fun t r => t.setFe r .pending) t
    { x with ops := t.ops ++ [o], nextOp := t.nextOp + 1 }
  let now := s.cycleAt s.cur.pkg
  let start := Nat.max now (home s).portFree
  let by_ (x : Nat) : Nat := match bound with | none => x | some k => Min.min x (now + k)
  let mine : PortJob := { slot := s.cur.slot, op := o.id, left := ownUnits o, start := start, till := start + n }
  if ownUnits o = [] then u else withHome u fun t => { t with
    port := (t.port ++ [mine]).map fun j => { j with start := by_ j.start, till := by_ j.till }
    portFree := by_ (start + n)
    waiters := if listed then t.waiters ++ [(s.cur, o.id)] else t.waiters }

/-- R165 to R170, R316: THE ISSUE OF AN ACCESS. A fault of its checks traps with no effect, or, where the translation of a
long-latency producer faults late, the slot goes on and the operation bears the fault (R426). Which of the two it is, a free
value decides where no sixteen operations are outstanding and no twin takes part: that is the model's choice (log 19). Else the
operation with its units is issued, and the slot goes on, or parks where the access waits. With no active lane it completes with
no effect (R24). -/
def Sys2Proof.Claims.Issues (i : Instr) (s : State) (o : Opnds) (r : MemReq) : Prop :=
  ready s o = true → numbered (here s) →
    (r.raw = [] → Completes i s s o.words) ∧
    (r.raw ≠ [] → unheld s r.scope r.order →
      (∀ u f, checkElts (fresh s) s.cur (here s).pid r.acc r.raw = (u, .error f) →
        if findsLate u s.cur r then ∃ q : Op, q.id = (here s).nextOp ∧ q.act = r.act ∧ q.dst = r.dst ∧ q.mask = r.mask ∧
          q.posted = false ∧ q.fault = some f ∧ q.performed = true ∧
          Completes i s (withHere u.draw fun t => { r.dst.regs.foldl (fun t r => t.setFe r .pending) t with
            ops := t.ops ++ [q], nextOp := t.nextOp + 1 }) o.words
        else Traps i s f) ∧
      ∀ u es, checkElts (fresh s) s.cur (here s).pid r.acc r.raw = (u, .ok es) → (here s).unperformed < 16 →
        ((∃ e ∈ es, pathOf e.addr ≠ .local) → unpaired (here s)) →
        ∃ q : Op, q.id = (here s).nextOp ∧ q.act = r.act ∧ q.dst = r.dst ∧ q.mask = r.mask ∧ q.posted = r.posted ∧
          q.acq = acquires r.scope r.order ∧ q.performed = false ∧ q.fault = none ∧ q.units = groupElts r.group es ∧
          q.wide = r.wide ∧
          goesOn i s (issued u q (portCycles r.act (ownElts q)) r.waits) o.words (if r.waits then some (.answer q.id) else none))

/-- R171, R173, R176, R181, R182, R192: the accesses of the scalar memory instructions, and R177: PREF, which only looks a
translation up. Whether a fault of a translation is taken at issue or borne by the operation, where R426 allows both, is the
model's free choice (log 19). -/
def Obligations.ScalarRequests : Prop :=
  ∀ (s : State) (d b : SReg) (c : Scope) (o : Order),
    let a := (here s).sreg b
    let v := (here s).sreg d
    let m := (here s).active
    let el (n : Nat) (x : Word) : List RawElt := [(0, a, n, x, 0)]
    let old (i : Instr) (f : AtomOp) (n : Nat) : Prop := Issues i s (atomOpnds d b)
      { act := .atom f, acc := .atomic, scope := c, order := o, raw := el n v, dst := .scalar d, mask := m }
    let word (i : Instr) (f : FeOp) (p : Opnds) (x : Word) (r : Dest) (posted waits : Bool) : Prop := Issues i s p
      { act := .fe f, acc := .fe, scope := c, order := o, raw := el 4 x, dst := r, mask := m, posted := posted, waits := waits }
    (∀ z : Size, let n := sizeBytes z
      Issues (.ld d b c o z) s (loadOpnds d b)
        { act := .load false, acc := .load, scope := c, order := o, raw := el n 0, dst := .scalar d, mask := m } ∧
      Issues (.lds d b c o z) s (loadOpnds d b)
        { act := .load true, acc := .load, scope := c, order := o, raw := el n 0, dst := .scalar d, mask := m } ∧
      Issues (.st d b c o z) s (storeOpnds d b)
        { act := .store, acc := .store, scope := c, order := o, raw := el n v, mask := m, posted := true } ∧
      Issues (.waiteq d b c o z) s (storeOpnds d b)
        { act := .monitor false, acc := .monitor, scope := c, order := o, raw := el n v, mask := m, waits := true } ∧
      Issues (.waitne d b c o z) s (storeOpnds d b)
        { act := .monitor true, acc := .monitor, scope := c, order := o, raw := el n v, mask := m, waits := true } ∧
      old (.aadd d b c o z) .add n ∧ old (.aand d b c o z) .and n ∧ old (.aor d b c o z) .or n ∧
      old (.axor d b c o z) .xor n ∧ old (.amin d b c o z) .min n ∧ old (.amax d b c o z) .max n ∧
      old (.aminu d b c o z) .minu n ∧ old (.amaxu d b c o z) .maxu n ∧ old (.aswap d b c o z) .swap n ∧
      Issues (.acas d b c o z) s { atomOpnds d b with srcs := [.s d, .s (d + 1), .s b] }
        { act := .atom .cas, acc := .atomic, scope := c, order := o, raw := [(0, a, n, v, (here s).sreg (d + 1))]
          dst := .scalar d, mask := m }) ∧
    old (.afadd d b c o) .fadd 4 ∧ old (.afmax d b c o) .fmax 4 ∧
    word (.ldfe d b c o) .ldfe (loadOpnds d b) 0 (.scalar d) false true ∧
    word (.stfe d b c o) .stfe (storeOpnds d b) v .none false true ∧
    word (.ldf d b c o) .ldf (loadOpnds d b) 0 (.scalar d) false true ∧
    word (.stf d b c o) .stf (storeOpnds d b) v .none false true ∧
    word (.feset b c o) .feset (addrOpnds b) 0 .none true false ∧
    word (.feclr b c o) .feclr (addrOpnds b) 0 .none true false ∧
    word (.feget d b c o) .feget (loadOpnds d b) 0 (.scalar d) false false ∧
    Issues (.nclaim d b) s { loadOpnds d b with dsts := [.s d, .s (d + 1)] }
      { act := .nclaim, acc := .nclaim, raw := el 16 0, dst := .pair d, mask := m } ∧
    (ready s (addrOpnds b) = true →
      (a.toNat / 2 ^ 57 = 16 →
        Completes (.pref b) s (translate (fresh s) s.cur.pkg s.cur.cell (here s).pid a .load).1 1) ∧
      (a.toNat / 2 ^ 57 ≠ 16 → Completes (.pref b) s s 1))

/-- R178, R180, R183: the accesses of the vector memory instructions: active lane l at base + l · size, at base plus the
sign-extended index of the lane, or at base + l · stride. Whether a fault of a translation is taken at issue or borne by the
operation, where R426 allows both, is the model's free choice (log 19); that an aligned vector store, which may clear the poison
of a sector of device memory (R337), is a VST at a multiple of 16, is the model's reading (log 40). -/
def Obligations.VectorRequests : Prop :=
  ∀ (s : State) (d : VRegNo) (b : SReg) (c : Scope) (o : Order),
    let a := (here s).sreg b
    let m := (here s).active
    let data (l : Nat) : Word := BitVec.ofNat 64 (lane (s.vregAt s.cur d) l).toNat
    let els (n : Nat) (at_ : Nat → Word) (x : Nat → Word) : List RawElt :=
      (activeLanes s).map fun l => (l, at_ l, n, x l, 0)
    let loads (i : Instr) (p : Opnds) (z : VSize) (at_ : Nat → Word) (g : Grouping) : Prop := Issues i s p
      { act := .load (decide (z = .hs)), acc := .load, scope := c, order := o, raw := els (vsizeBytes z) at_ fun _ => 0
        group := g, dst := .vector d, mask := m }
    let stores (i : Instr) (p : Opnds) (z : VSize) (at_ : Nat → Word) (g : Grouping) (wide : Bool) : Prop := Issues i s p
      { act := .store, acc := .store, scope := c, order := o, raw := els (vsizeBytes z) at_ data, group := g, mask := m
        posted := true, wide := wide }
    let words (i : Instr) (f : FeOp) (p : Opnds) (r : Dest) : Prop := Issues i s p
      { act := .fe f, acc := .fe, scope := c, order := o, raw := els 4 (fun l => a + BitVec.ofNat 64 (4 * l)) data
        group := .whole, dst := r, mask := m, waits := true }
    (∀ z : VSize,
      let row (l : Nat) : Word := a + BitVec.ofNat 64 (l * vsizeBytes z)
      let g : Grouping := if z = .w ∧ a.toNat % 16 = 0 then .quads else .each
      loads (.vld d b c o z) (vloadOpnds d b) z row g ∧
      stores (.vst d b c o z) (vstoreOpnds d b) z row g (decide (a.toNat % 16 = 0)) ∧
      (∀ i : VRegNo,
        let at_ (l : Nat) : Word := a + (lane (s.vregAt s.cur i) l).signExtend 64
        loads (.vgath d b i c o z) (withIndex (vloadOpnds d b) i) z at_ .each ∧
        stores (.vscat d b i c o z) (withIndex (vstoreOpnds d b) i) z at_ .each false) ∧
      ∀ k : SReg,
        let at_ (l : Nat) : Word := a + (here s).sreg k * BitVec.ofNat 64 l
        loads (.vldk d b k c o z) (withStride (vloadOpnds d b) k) z at_ .each ∧
        stores (.vstk d b k c o z) (withStride (vstoreOpnds d b) k) z at_ .each false) ∧
    words (.vldFe d b c o) .ldfe (vloadOpnds d b) (.vector d) ∧
    words (.vldF d b c o) .ldf (vloadOpnds d b) (.vector d) ∧
    words (.vstFe d b c o) .stfe (vstoreOpnds d b) .none ∧
    words (.vstF d b c o) .stf (vstoreOpnds d b) .none ∧
    ∀ i : VRegNo,
      let old (n : Instr) (f : AtomOp) : Prop := Issues n s { withIndex (vstoreOpnds d b) i with dsts := [.v d] }
        { act := .atom f, acc := .atomic, scope := .pk, order := o
          raw := els 4 (fun l => a + (lane (s.vregAt s.cur i) l).signExtend 64) data, dst := .vector d, mask := m }
      old (.vaadd d b i o) .add ∧ old (.vaand d b i o) .and ∧ old (.vaor d b i o) .or ∧ old (.vaxor d b i o) .xor ∧
      old (.vamin d b i o) .min ∧ old (.vamax d b i o) .max ∧ old (.vaminu d b i o) .minu ∧ old (.vamaxu d b i o) .maxu ∧
      old (.vaswap d b i o) .swap ∧ old (.vafadd d b i o) .fadd

/-- R165, R42: the checks of one address of an access of `n` bytes, in the order of the rule: a window or an offset without
storage gives PROT, a cell control page that is not read by at least 4 bytes PROT or ALIGN, and a misaligned address ALIGN;
an own address that passes names the storage at its offset. -/
def Sys2Proof.Claims.PlaceChecks : Prop :=
  ∀ (s : State) (p : PkgId) (c : CellId) (pid : BitVec 16) (a : Word) (n : Nat) (k : Acc),
    k ∈ [Acc.load, .store, .atomic, .fe, .monitor, .nclaim] →
    let prot : FaultInfo := { kind := .prot, sector := a
                              aux := BitVec.ofNat 64 (7 + k.kind * 2 ^ 4 + 2 * 2 ^ 8 + pid.toNat * 2 ^ 12) }
    let off := a.toNat % 2 ^ 60
    (3 ≤ a.toNat / 2 ^ 60 → locate s p c pid a n k = .error prot) ∧
    (a.toNat / 2 ^ 60 = 2 → a.toNat / 2 ^ 57 ≠ 16 → locate s p c pid a n k = .error prot) ∧
    (a.toNat < 2 ^ 60 →
      (off < 0x200000 → locate s p c pid a n k =
        if off % n = 0 then .ok (some { store := .spad, pkg := p, cell := c, off := off })
        else .error { kind := .align, sector := a }) ∧
      (0x400000 ≤ off → off < 0x500000 → locate s p c pid a n k =
        if k ≠ .load ∧ k ≠ .store then .error prot
        else if off % n = 0 then .ok (some { store := .bstore, pkg := p, cell := c, off := off - 0x400000 })
        else .error { kind := .align, sector := a }) ∧
      (0x600000 ≤ off → off < 0x640000 → locate s p c pid a n k = .error prot) ∧
      (0x700000 ≤ off → off < 0x710000 → locate s p c pid a n k =
        if k ≠ .load then .error prot
        else if n < 4 ∨ off % n ≠ 0 then .error { kind := .align, sector := a }
        else .ok (some { store := .control, pkg := p, cell := c, off := off - 0x700000 })) ∧
      (0x200000 ≤ off → off < 0x400000 ∨ 0x500000 ≤ off ∧ off < 0x600000 ∨ 0x640000 ≤ off ∧ off < 0x700000 ∨
        0x710000 ≤ off → locate s p c pid a n k = .error prot))

/-- R279, R178: how an access splits into the units that are performed each at one moment. Every element is in one unit. A unit
is one element; but four consecutive lanes from a multiple of four of a unit-stride word access at a multiple of 16 bytes are one
when all are active, and the elements of a vector full/empty access are one. -/
def Sys2Proof.Claims.AtomicUnits : Prop :=
  ∀ (es : List Elt), (∀ e ∈ es, e.lane < 32) →
    (∀ g, (∀ e, e ∈ (groupElts g es).flatMap (·.elts) ↔ e ∈ es) ∧ ∀ u ∈ groupElts g es, u.done = false ∧ u.fault = none ∧
      ∃ e rest, u.elts = e :: rest ∧ u.path = pathOf e.addr) ∧
    (groupElts .each es).map (·.elts) = es.map (fun e => [e]) ∧
    (es ≠ [] → (groupElts .whole es).map (·.elts) = [es]) ∧
    ∀ u ∈ groupElts .quads es, (∃ e, u.elts = [e] ∧ (es.filter fun x => x.lane / 4 == e.lane / 4).length ≠ 4) ∨
      ∃ q, u.elts = es.filter (fun x => x.lane / 4 == q) ∧ u.elts.length = 4

/-- R315, R316: the cycles for which an access occupies the slot port: the largest number of distinct 8-byte words of it that one
bank serves, and at least 1; for an atomic twice that. -/
def Sys2Proof.Claims.PortOccupancy : Prop :=
  ∀ (a : Act) (es : List Elt), (∀ x, a ≠ .xacc x) → (∀ e ∈ es, 0 < e.n ∧ (e.loc.store = .spad ∨ e.loc.store = .bstore)) →
    let word (w : Bool × Nat) : Prop := ∃ e ∈ es, w.1 = (e.loc.store == .spad) ∧ e.loc.off / 8 ≤ w.2 ∧
      w.2 ≤ (e.loc.off + e.n - 1) / 8
    let row (bank : Bool × Nat) (ws : List (Bool × Nat)) : Prop := ws.Nodup ∧ ∀ w ∈ ws, word w ∧ (w.1, w.2 % 16) = bank
    let atomic := (∃ f, a = .atom f) ∨ a = .nclaim
    ∃ c, 1 ≤ c ∧ (∀ bank ws, row bank ws → ws.length ≤ c) ∧ (c = 1 ∨ ∃ bank ws, row bank ws ∧ ws.length = c) ∧
      (atomic → portCycles a es = 2 * c) ∧ (¬ atomic → portCycles a es = c)

/-- R42, R165, R178, R279, R315, R316: the checks of an address, the units of an access, and its time at the slot port. -/
def Obligations.AddressChecks : Prop := PlaceChecks ∧ AtomicUnits ∧ PortOccupancy

/-- R42: an aligned address in the own scratchpad. -/
def Sys2Proof.Claims.inSpad (a : Word) (n : Nat) : Prop := a.toNat < 0x200000 ∧ a.toNat % n = 0

/-- An element in the own scratchpad: its lane, its address, its size and its operands. -/
def Sys2Proof.Claims.spadElt (s : State) (l : Nat) (a : Word) (n : Nat) (v w : Word) : Elt :=
  { lane := l, addr := a, n := n, val := v, val2 := w
    loc := { store := .spad, pkg := s.cur.pkg, cell := s.cur.cell, off := a.toNat } }

/-- R19, R316: the instruction issues an operation with these units, all in the own cell, and the slot goes on, or waits for its
answer. -/
def Sys2Proof.Claims.Joins (i : Instr) (s : State) (act : Act) (dst : Dest) (posted waits : Bool) (units : List OpUnit) : Prop :=
  ∃ o : Op, o.id = (here s).nextOp ∧ o.act = act ∧ o.dst = dst ∧ o.posted = posted ∧ o.mask = (here s).active ∧
    o.performed = false ∧ o.units = units ∧
    goesOn i s (issued s o (portCycles act (units.flatMap (·.elts))) waits) 1 (if waits then some (.answer o.id) else none)

/-- R165 to R176, R181, R182, R192, R316: the scalar accesses of the own scratchpad: each issues its one element to the slot port,
whatever the port does at that moment. PortResults says what the port then does. -/
def Sys2Proof.Claims.ScratchpadScalars : Prop :=
  ∀ (s : State) (d b : SReg) (c : Scope) (o : Order),
    let a := (here s).sreg b
    let v := (here s).sreg d
    numbered (here s) → (here s).unperformed < 16 →
    let one (n : Nat) (v w : Word) : List OpUnit := [{ path := .local, elts := [spadElt s 0 a n v w] }]
    (unheld s c o →
      (∀ z : Size, inSpad a (sizeBytes z) →
        let n := sizeBytes z
        let old (i : Instr) (f : AtomOp) : Prop := Joins i s (.atom f) (.scalar d) false false (one n v 0)
        (ready s (loadOpnds d b) = true →
          Joins (.ld d b c o z) s (.load false) (.scalar d) false false (one n 0 0) ∧
          Joins (.lds d b c o z) s (.load true) (.scalar d) false false (one n 0 0)) ∧
        (ready s (storeOpnds d b) = true →
          Joins (.st d b c o z) s .store .none true false (one n v 0) ∧
          Joins (.waiteq d b c o z) s (.monitor false) .none false true (one n v 0) ∧
          Joins (.waitne d b c o z) s (.monitor true) .none false true (one n v 0)) ∧
        (ready s (atomOpnds d b) = true →
          old (.aadd d b c o z) .add ∧ old (.aand d b c o z) .and ∧ old (.aor d b c o z) .or ∧ old (.axor d b c o z) .xor ∧
          old (.amin d b c o z) .min ∧ old (.amax d b c o z) .max ∧ old (.aminu d b c o z) .minu ∧
          old (.amaxu d b c o z) .maxu ∧ old (.aswap d b c o z) .swap) ∧
        (ready s { atomOpnds d b with srcs := [.s d, .s (d + 1), .s b] } = true →
          Joins (.acas d b c o z) s (.atom .cas) (.scalar d) false false (one n v ((here s).sreg (d + 1))))) ∧
      (inSpad a 4 →
        (ready s (atomOpnds d b) = true →
          Joins (.afadd d b c o) s (.atom .fadd) (.scalar d) false false (one 4 v 0) ∧
          Joins (.afmax d b c o) s (.atom .fmax) (.scalar d) false false (one 4 v 0)) ∧
        (ready s (loadOpnds d b) = true →
          Joins (.ldfe d b c o) s (.fe .ldfe) (.scalar d) false true (one 4 0 0) ∧
          Joins (.ldf d b c o) s (.fe .ldf) (.scalar d) false true (one 4 0 0) ∧
          Joins (.feget d b c o) s (.fe .feget) (.scalar d) false false (one 4 0 0)) ∧
        (ready s (storeOpnds d b) = true →
          Joins (.stfe d b c o) s (.fe .stfe) .none false true (one 4 v 0) ∧
          Joins (.stf d b c o) s (.fe .stf) .none false true (one 4 v 0)) ∧
        (ready s (addrOpnds b) = true →
          Joins (.feset b c o) s (.fe .feset) .none true false (one 4 0 0) ∧
          Joins (.feclr b c o) s (.fe .feclr) .none true false (one 4 0 0)))) ∧
    ((here s).acquiring = false → ready s { loadOpnds d b with dsts := [.s d, .s (d + 1)] } = true → inSpad a 16 →
      Joins (.nclaim d b) s .nclaim (.pair d) false false (one 16 0 0))

/-! ### What the slot port does -/

/-- R4: the number that `n` bytes of a byte store hold, the lowest address lowest. -/
def Sys2Proof.Claims.numAt (m : List Host.Cell) (a n : Nat) : Nat :=
  ((List.range n).map fun j => (Table.get 0 m (a + j)).toNat * 256 ^ j).sum
/-- R18, R337: no poisoned unit of 8 bytes stands among `n` bytes. -/
def Sys2Proof.Claims.clean (poison : NumSet) (a n : Nat) : Prop :=
  ∀ u, NumSet.has poison u = true → 8 * u + 8 ≤ a ∨ a + n ≤ 8 * u
/-- A cell with `n` bytes of its scratchpad replaced by the low bytes of a number. -/
def Sys2Proof.Claims.putNum (t : Cell) (a n x : Nat) : Cell := { t with spad := cellsWrite t.spad a (leBytes n x) }
/-- R172: the full/empty bit of the word of an element. -/
def Sys2Proof.Claims.isFull (t : Cell) (e : Elt) : Prop := NumSet.has t.spadEmpty (e.loc.off / 4) = false
/-- A cell with that bit set or cleared. -/
def Sys2Proof.Claims.mark (t : Cell) (e : Elt) (full : Bool) : Cell :=
  { t with spadEmpty := if full then t.spadEmpty.erase (e.loc.off / 4) else t.spadEmpty.insert (e.loc.off / 4) }
/-- A cell with the bits of elements set or cleared. -/
def Sys2Proof.Claims.markAll (es : List Elt) (full : Bool) (t : Cell) : Cell := es.foldl (fun t e => mark t e full) t
/-- A cell with elements stored, the highest lane last (R179). -/
def Sys2Proof.Claims.putAll (es : List Elt) (t : Cell) : Cell := es.foldl (fun t e => putNum t e.loc.off e.n e.val.toNat) t
/-- What elements read, zero-extended. -/
def Sys2Proof.Claims.readAll (es : List Elt) (t : Cell) : List (Nat × Word) :=
  es.map fun e => (e.lane, BitVec.ofNat 64 (numAt t.spad e.loc.off e.n))
/-- R337: a store of the elements `es`, with the elements `done` that its operation has stored before them, clears the poison of
the units of 8 bytes that they cover, and makes both words of such a unit full. -/
def Sys2Proof.Claims.unpoison (done es : List Elt) (t : Cell) : Cell :=
  let touched (l : List Elt) (u j : Nat) : Bool := l.any fun e => decide (e.loc.off ≤ 8 * u + j ∧ 8 * u + j < e.loc.off + e.n)
  let gone := t.spadPoison.filter fun u => (List.range 8).all (touched (done ++ es) u) && (List.range 8).any (touched es u)
  { t with spadPoison := t.spadPoison.filter fun u => !gone.contains u
           spadEmpty := t.spadEmpty.filter fun w => !gone.contains (w / 2) }
/-- R338: the fault that elements of a scratchpad meet: that of the first among them that is poisoned. -/
def Sys2Proof.Claims.meets (t : Cell) (es : List Elt) (f : FaultInfo) : Prop :=
  ∃ l e r, es = l ++ e :: r ∧ (∀ x ∈ l, clean t.spadPoison x.loc.off x.n) ∧ ¬ clean t.spadPoison e.loc.off e.n ∧
    f = { kind := .ecc, sector := BitVec.ofNat 64 (e.addr.toNat / 32 * 32) }
/-- No element is poisoned. -/
def Sys2Proof.Claims.allClean (t : Cell) (es : List Elt) : Prop := ∀ e ∈ es, clean t.spadPoison e.loc.off e.n

/-- R173, R180: whether a full/empty operation may be performed on its words, what it does to the cell, and what it reads. -/
def Sys2Proof.Claims.feOpen (f : FeOp) (es : List Elt) (t : Cell) : Prop :=
  match f with
  | .ldfe | .ldf | .stf => ∀ e ∈ es, isFull t e
  | .stfe => ∀ e ∈ es, ¬ isFull t e
  | .feset | .feclr | .feget => True
/-- What it does. -/
def Sys2Proof.Claims.feDoes (f : FeOp) (es : List Elt) (t : Cell) : Cell :=
  match f with
  | .ldfe | .feclr => markAll es false t
  | .feset => markAll es true t
  | .stf => putAll es t
  | .stfe => markAll es true (putAll es t)
  | .ldf | .feget => t
/-- What it reads. -/
def Sys2Proof.Claims.feReads (f : FeOp) (es : List Elt) (t : Cell) : List (Nat × Word) :=
  match f with
  | .ldfe | .ldf => readAll es t
  | .feget => es.map fun e => (e.lane, if NumSet.has t.spadEmpty (e.loc.off / 4) then 0 else 1)
  | .feset | .feclr | .stf | .stfe => []
/-- R176: whether the comparison of WAITEQ, or of WAITNE, holds. -/
def Sys2Proof.Claims.monitorOpen (ne : Bool) (es : List Elt) (t : Cell) : Prop :=
  ∀ e ∈ es, (numAt t.spad e.loc.off e.n = e.val.toNat % 256 ^ e.n ↔ ne = false)

/-- The elements of an operation. -/
abbrev Sys2Proof.Claims.eltsOf (o : Op) : List Elt := o.units.flatMap (·.elts)

/-- Two states are the same but for one cell and for one slot, which are as given. A cell is compared without its slots. -/
def Sys2Proof.Claims.Changes (s t : State) (p : PkgId) (c : CellId) (cell : Cell) (g : GRef) (slot : Slot) : Prop :=
  (∀ q, t.hasPkg q = s.hasPkg q ∧ (t.pkgAt q).bare = (s.pkgAt q).bare) ∧
  (∀ q d, (q, d) ≠ (p, c) → (t.cellAt q d).bare = (s.cellAt q d).bare) ∧ (t.cellAt p c).bare = cell.bare ∧
  (∀ h, h ≠ g → t.slotAt h = s.slotAt h) ∧ t.slotAt g = slot ∧ t.cur = s.cur ∧ t.agenda = s.agenda ∧ t.gone = s.gone

/-- R174, R176, R338: whether the waiter `w` of a cell, which `before` precede in its list, may proceed: it is poisoned, its
comparison holds, or its words are in its state and no full/empty operation that precedes it and still queues at the slot port
names one of them. -/
def Sys2Proof.Claims.Proceeds (s : State) (p : PkgId) (c : CellId) (before : List (GRef × Nat)) (w : GRef × Nat) (o : Op) : Prop :=
  let t := s.cellAt p c
  s.opOf w.1 w.2 = some o ∧ o.waiting = true ∧
  (o.act.monitors = false → ∀ v ∈ before, ∀ x, s.opOf v.1 v.2 = some x → x.waiting = false → x.act.monitors = false →
    ∀ a ∈ eltsOf o, ∀ b ∈ eltsOf x, a.overlaps b = false) ∧
  ((∃ f, meets t (eltsOf o) f) ∨ (∃ ne, o.act = .monitor ne ∧ monitorOpen ne (eltsOf o) t) ∨
    ∃ f, o.act = .fe f ∧ feOpen f (eltsOf o) t)
/-- R174, R176: the waiter that goes next: the first monitor that may proceed, since every write is tested by all of them, else the
first full/empty operation that may. -/
def Sys2Proof.Claims.GoesNext (s : State) (p : PkgId) (c : CellId) (w : GRef × Nat) (o : Op) : Prop :=
  ∃ l r, (s.cellAt p c).waiters = l ++ w :: r ∧ Proceeds s p c l w o ∧
    (∀ l' v r' x, l = l' ++ v :: r' → Proceeds s p c l' v x → o.act.monitors = true ∧ x.act.monitors = false) ∧
    (o.act.monitors = false → ∀ l' v r' x, r = l' ++ v :: r' → Proceeds s p c (l ++ w :: l') v x → x.act.monitors = false)
/-- A waiter goes: it leaves the list, performed, or with the fault that its words meet. -/
def Sys2Proof.Claims.Goes (s : State) (p : PkgId) (c : CellId) (w : GRef × Nat) (o : Op) (t : State) : Prop :=
  let cell := s.cellAt p c
  let es := eltsOf o
  let ends (f : Cell → Cell) (h : Op → Op) : Prop := Changes s t p c { f cell with waiters := cell.waiters.filter (· != w) } w.1
    { s.slotAt w.1 with ops := (s.slotAt w.1).ops.map fun x =>
        if x.id = w.2 then { h x with performed := true, waiting := false } else x }
  (∀ f, meets cell es f → ends id fun x => { x with fault := some f }) ∧
  (allClean cell es → (∀ ne, o.act = .monitor ne → ends id fun x => { x with got := [] }) ∧
    ∀ f, o.act = .fe f → ends (feDoes f es) fun x => { x with got := feReads f es cell })
/-- R174, R176: THE WAITERS OF A CELL ARE TRIED, one at a time, each after the effect of the one before it, until none may proceed;
at most `n` of them go. -/
def Sys2Proof.Claims.Retries (p : PkgId) (c : CellId) : Nat → State → State → Prop
  | 0, s, t => t = s
  | n + 1, s, t => (∀ w o, ¬ GoesNext s p c w o) ∧ t = s ∨ ∃ w o u, GoesNext s p c w o ∧ Goes s p c w o u ∧ Retries p c n u t
/-- The waiters of a cell are what can wait there: full/empty operations on its scratchpad, and monitors of one element of it,
which no twin shares. -/
def Sys2Proof.Claims.WaitersFit (s : State) (p : PkgId) (c : CellId) : Prop :=
  ∀ w ∈ (s.cellAt p c).waiters, ∀ o, s.opOf w.1 w.2 = some o → o.num = none ∧
    ((∃ f, o.act = .fe f) ∨ ∃ ne, o.act = .monitor ne ∧ (eltsOf o).length = 1) ∧
    ∀ e ∈ eltsOf o, 0 < e.n ∧ e.loc = { store := .spad, pkg := p, cell := c, off := e.loc.off }

/-- R181, R182: the new value of an atomic of `n` bytes on `x` with the operands `y` and `z`, in exact arithmetic of which the
low bytes are stored. -/
def Sys2Proof.Claims.atomResult (f : AtomOp) (n x y z : Nat) : Nat :=
  let signed (k : Nat) : Int := if 2 * k < 256 ^ n then (k : Int) else (k : Int) - 256 ^ n
  match f with
  | .add => x + y
  | .and => x &&& y
  | .or => x ||| y
  | .xor => x ^^^ y
  | .min => if signed y < signed x then y else x
  | .max => if signed x < signed y then y else x
  | .minu => Min.min x y
  | .maxu => Max.max x y
  | .swap => y
  | .cas => if x = y then z else x
  | .fadd => (fp32.op .near .add x y).1
  | .fmax => (fp32.minmax true x y).1

/-- An operation of slot `g` is at the head of its cell's slot port, with all its units in that cell's scratchpad; no twin and no
late fault of the slot plays a part, and no two operations of the slot share an identifier. -/
def Sys2Proof.Claims.AtPort (s : State) (g : GRef) (o : Op) : Prop :=
  s.hasPkg g.pkg = true ∧ s.opOf g o.id = some o ∧ ((s.slotAt g).ops.map (·.id)).Nodup ∧ o.path = .local ∧ o.performed = false ∧
  o.waiting = false ∧ o.orphan = false ∧ o.num = none ∧ o.fault = o.units.findSome? (·.fault) ∧ (s.slotAt g).lateFault = false ∧
  WaitersFit s g.pkg g.cell ∧ (∃ x ∈ o.units, x.done = false) ∧
  (∀ x ∈ o.units, x.path = .local ∧ (x.done = false → x.fault = none) ∧ x.elts ≠ [] ∧ ∀ e ∈ x.elts, 0 < e.n ∧
    e.loc = { store := .spad, pkg := g.pkg, cell := g.cell, off := e.loc.off }) ∧
  ∃ j rest, (s.cellAt g.pkg g.cell).port = j :: rest ∧ j.slot = g.slot ∧ j.op = o.id ∧ j.left = List.range o.units.length

/-- An operation with the units that `us` names performed, with what they read or the fault they met; its fault is that of its
lowest unit that has one. -/
def Sys2Proof.Claims.noted (o : Op) (us : Nat → Bool) (got : List (Nat × Word)) (f : Option FaultInfo) : Op :=
  let units := o.units.zipIdx.map fun p => if us p.2 then { p.1 with done := true, fault := f } else p.1
  { o with units := units, got := o.got ++ got, fault := units.findSome? (·.fault), performed := units.all (·.done) }

/-- THE PORT PERFORMS the units `us` of the operation at its head: the cell becomes `cell`, and the operation notes what they read,
`got`, or met. Where `tried`, the waiters of the cell are then tried. After the last unit the operation leaves the port; a posted
one is then acknowledged, any other awaits the delivery of its answer. Nothing else changes. -/
def Sys2Proof.Claims.Performs (s : State) (g : GRef) (o : Op) (us : Nat → Bool) (cell : Cell) (got : List (Nat × Word))
    (f : Option FaultInfo) (tried : Bool) : Prop :=
  let t := servePort s g.pkg g.cell
  let o' := noted o us got f
  ∃ a b, Changes s a g.pkg g.cell cell g
      { s.slotAt g with ops := (s.slotAt g).ops.map fun x => if x.id = o.id then o' else x } ∧
    (if tried then Retries g.pkg g.cell cell.waiters.length a b else b = a) ∧
    Changes b t g.pkg g.cell { b.cellAt g.pkg g.cell with
        port := if o'.performed then (s.cellAt g.pkg g.cell).port.tail else (s.cellAt g.pkg g.cell).port } g
      (if o'.performed && o.posted then { b.slotAt g with
          ops := (b.slotAt g).ops.filter (·.id != o.id)
          lastOp := if (b.slotAt g).lastOp = some o.id then none else (b.slotAt g).lastOp }
        else b.slotAt g)

/-- A cell in which an operation does not wait any more. -/
def Sys2Proof.Claims.relieved (t : Cell) (g : GRef) (o : Op) : Cell := { t with waiters := t.waiters.filter (· != (g, o.id)) }

/-- The port performs unit `u`, which changes the cell by `f` and reads `got`; the waiters of the cell are then tried. -/
def Sys2Proof.Claims.Serves (s : State) (g : GRef) (o : Op) (u : Nat) (f : Cell → Cell) (got : List (Nat × Word)) : Prop :=
  Performs s g o (· == u) (relieved (f (s.cellAt g.pkg g.cell)) g o) got none true

/-- The port finds that the operation at its head must wait: it leaves the port, and waits in the cell (R174), among whose waiters
it may stand already. -/
def Sys2Proof.Claims.Defers (s : State) (g : GRef) (o : Op) : Prop :=
  let t := servePort s g.pkg g.cell
  let cell := s.cellAt g.pkg g.cell
  let listed := if cell.waiters.contains (g, o.id) then cell.waiters else cell.waiters ++ [(g, o.id)]
  ∃ a b, Changes s a g.pkg g.cell { cell with waiters := listed } g
      { s.slotAt g with ops := (s.slotAt g).ops.map fun x => if x.id = o.id then { x with waiting := true } else x } ∧
    Retries g.pkg g.cell listed.length a b ∧
    Changes b t g.pkg g.cell { b.cellAt g.pkg g.cell with port := cell.port.tail } g (b.slotAt g)

/-- R171, R173, R174, R176, R178 to R183, R192, R279, R316, R337, R338: THE SLOT PORT AT WORK. It performs the units of the
operation at its head one by one, in any order but that a unit follows the earlier ones whose bytes it shares. A load reads the
elements of its unit and a store writes them, which may clear poison; an atomic replaces an element by the result on the old
value, which it answers with; NCLAIM claims its share; a full/empty operation acts on all its words once they are in its state, a
monitor completes once its comparison holds, and where they do not they wait. An operation that reads finds the poison of its
unit, an atomic that of every unit which it has still to perform, and has the ECC fault. After each unit the waiters of the cell
are tried. -/
def Sys2Proof.Claims.PortResults : Prop :=
  ∀ (s : State) (g : GRef) (o : Op), AtPort s g o → ∃ u es,
    o.units[u]? = some { path := .local, elts := es } ∧
    (∀ v < u, ∀ x, o.units[v]? = some x → x.done = false → ∀ a ∈ x.elts, ∀ b ∈ es, a.overlaps b = false) ∧
    let t := s.cellAt g.pkg g.cell
    let x (e : Elt) : Nat := numAt t.spad e.loc.off e.n
    let left := (o.units.filter fun x => !x.done).flatMap (·.elts)
    let done := (o.units.filter (·.done)).flatMap (·.elts)
    let undone (v : Nat) : Bool := (o.units[v]?.map fun x => !x.done).getD false
    let fails (us : Nat → Bool) (cell : Cell) (f : FaultInfo) : Prop := Performs s g o us cell [] (some f) false
    (∀ signed, o.act = .load signed →
      (allClean t es → Serves s g o u id (es.map fun e => (e.lane, BitVec.ofInt 64
        (if signed ∧ 256 ^ e.n ≤ 2 * x e then (x e : Int) - 256 ^ e.n else (x e : Int))))) ∧
      (o.posted = false → ∀ f, meets t es f → fails (· == u) (relieved t g o) f)) ∧
    (o.act = .store → Serves s g o u (fun t => unpoison done es (putAll es t)) []) ∧
    (∀ e, es = [e] →
      (∀ f, o.act = .atom f → (e.n = 4 ∨ e.n = 8 ∧ f ≠ .fadd ∧ f ≠ .fmax) →
        (allClean t left → Serves s g o u
          (fun t => putNum t e.loc.off e.n (atomResult f e.n (x e) (e.val.toNat % 256 ^ e.n) e.val2.toNat)) (readAll es t)) ∧
        (o.posted = false → ∀ f, meets t left f → fails undone t f)) ∧
      (o.act = .nclaim → e.n = 16 →
        let next := numAt t.spad e.loc.off 8
        let last := numAt t.spad (e.loc.off + 8) 6
        let w := numAt t.spad (e.loc.off + 14) 2
        let div := if w = 0 then 1 else w
        let rem := last - next
        let n := if rem = 0 then 0 else Min.min rem (Max.max 1 ((rem + div - 1) / div))
        (allClean t es → Serves s g o u (fun t => putNum t e.loc.off 8 (next + n))
          [(0, BitVec.ofNat 64 next), (1, BitVec.ofNat 64 n)]) ∧
        (o.posted = false → ∀ f, meets t es f → fails (· == u) (relieved t g o) f)) ∧
      ∀ ne, o.act = .monitor ne → o.units.length = 1 →
        (allClean t es → monitorOpen ne es t → Serves s g o u id []) ∧
        (allClean t es → ¬ monitorOpen ne es t → Defers s g o) ∧
        (o.posted = false → ∀ f, meets t es f → fails (· == u) (relieved t g o) f)) ∧
    ∀ f, o.act = .fe f → o.units.length = 1 →
      (allClean t es → feOpen f es t → Serves s g o u (feDoes f es) (feReads f es t)) ∧
      (allClean t es → ¬ feOpen f es t → Defers s g o) ∧
      (o.posted = false → ∀ f, meets t es f → fails (· == u) (relieved t g o) f)

/-- R171, R173, R174, R176, R181, R182, R192, R316: scalar accesses of the own scratchpad, atomics among them, and the slot
port. -/
def Obligations.ScratchpadAccesses : Prop := ScratchpadScalars ∧ PortResults

/-- A port served `n` times. -/
def Sys2Proof.Claims.served (p : PkgId) (c : CellId) : Nat → State → State
  | 0, s => s
  | n + 1, s => served p c n (servePort s p c)

/-- R178 to R180, R183, R279, R316: vector accesses of the own scratchpad issue the elements of their active lanes to the slot
port, in the units of R279. -/
def Sys2Proof.Claims.VectorJoins : Prop :=
  ∀ (s : State) (d : VRegNo) (b : SReg) (c : Scope) (o : Order),
    let a := (here s).sreg b
    let data (l : Nat) : Word := BitVec.ofNat 64 (lane (s.vregAt s.cur d) l).toNat
    numbered (here s) → (here s).unperformed < 16 → unheld s c o → activeLanes s ≠ [] →
    let fits (n : Nat) (at_ : Nat → Word) : Prop := ∀ l ∈ activeLanes s, inSpad (at_ l) n
    let els (n : Nat) (at_ : Nat → Word) (x : Nat → Word) (g : Grouping) : List OpUnit :=
      groupElts g ((activeLanes s).map fun l => spadElt s l (at_ l) n (x l) 0)
    let loads (i : Instr) (p : Opnds) (z : VSize) (at_ : Nat → Word) (g : Grouping) : Prop :=
      ready s p = true → fits (vsizeBytes z) at_ →
        Joins i s (.load (decide (z = .hs))) (.vector d) false false (els (vsizeBytes z) at_ (fun _ => 0) g)
    let stores (i : Instr) (p : Opnds) (z : VSize) (at_ : Nat → Word) (g : Grouping) : Prop :=
      ready s p = true → fits (vsizeBytes z) at_ → Joins i s .store .none true false (els (vsizeBytes z) at_ data g)
    (∀ z : VSize,
      let row (l : Nat) : Word := a + BitVec.ofNat 64 (l * vsizeBytes z)
      let g : Grouping := if z = .w ∧ a.toNat % 16 = 0 then .quads else .each
      loads (.vld d b c o z) (vloadOpnds d b) z row g ∧ stores (.vst d b c o z) (vstoreOpnds d b) z row g ∧
      (∀ i : VRegNo,
        let at_ (l : Nat) : Word := a + (lane (s.vregAt s.cur i) l).signExtend 64
        loads (.vgath d b i c o z) (withIndex (vloadOpnds d b) i) z at_ .each ∧
        stores (.vscat d b i c o z) (withIndex (vstoreOpnds d b) i) z at_ .each) ∧
      ∀ k : SReg,
        let at_ (l : Nat) : Word := a + (here s).sreg k * BitVec.ofNat 64 l
        loads (.vldk d b k c o z) (withStride (vloadOpnds d b) k) z at_ .each ∧
        stores (.vstk d b k c o z) (withStride (vstoreOpnds d b) k) z at_ .each) ∧
    (let at_ (l : Nat) : Word := a + BitVec.ofNat 64 (4 * l)
     let words (i : Instr) (f : FeOp) (p : Opnds) (r : Dest) : Prop :=
       ready s p = true → fits 4 at_ → Joins i s (.fe f) r false true (els 4 at_ data .whole)
     words (.vldFe d b c o) .ldfe (vloadOpnds d b) (.vector d) ∧ words (.vldF d b c o) .ldf (vloadOpnds d b) (.vector d) ∧
     words (.vstFe d b c o) .stfe (vstoreOpnds d b) .none ∧ words (.vstF d b c o) .stf (vstoreOpnds d b) .none) ∧
    ∀ i : VRegNo, c = .pk → ready s { withIndex (vstoreOpnds d b) i with dsts := [.v d] } = true →
      let at_ (l : Nat) : Word := a + (lane (s.vregAt s.cur i) l).signExtend 64
      fits 4 at_ →
      let on (n : Instr) (f : AtomOp) : Prop := Joins n s (.atom f) (.vector d) false false (els 4 at_ data .each)
      on (.vaadd d b i o) .add ∧ on (.vaand d b i o) .and ∧ on (.vaor d b i o) .or ∧ on (.vaxor d b i o) .xor ∧
      on (.vamin d b i o) .min ∧ on (.vamax d b i o) .max ∧ on (.vaminu d b i o) .minu ∧ on (.vamaxu d b i o) .maxu ∧
      on (.vaswap d b i o) .swap ∧ on (.vafadd d b i o) .fadd

/-- R179, R316: WHEN THE PORT HAS PERFORMED A STORE, in whatever order it took the units, each byte holds that of the highest lane
that names it, and every other byte is as before; a load has read every element as it stood. No operation waits in the cell. -/
def Sys2Proof.Claims.VectorStoresEnd : Prop :=
  ∀ (s : State) (g : GRef) (o : Op), AtPort s g o → (∀ x ∈ o.units, x.done = false) →
    (s.cellAt g.pkg g.cell).waiters = [] →
    let es := o.units.flatMap (·.elts)
    let u := served g.pkg g.cell o.units.length s
    (o.act = .store → ∀ a, Table.get 0 (u.cellAt g.pkg g.cell).spad a =
      match es.reverse.find? (fun e => decide (e.loc.off ≤ a ∧ a < e.loc.off + e.n)) with
      | some e => BitVec.ofNat 8 (e.val.toNat / 256 ^ (a - e.loc.off))
      | none => Table.get 0 (s.cellAt g.pkg g.cell).spad a) ∧
    (o.act = .load false → allClean (s.cellAt g.pkg g.cell) es → (u.cellAt g.pkg g.cell).spad = (s.cellAt g.pkg g.cell).spad ∧
      ∃ o', u.opOf g o.id = some o' ∧ o'.performed = true ∧ ∀ e ∈ es,
        (e.lane, BitVec.ofNat 64 (numAt (s.cellAt g.pkg g.cell).spad e.loc.off e.n)) ∈ o'.got)

/-- R178 to R180, R183, R279, R316: vector accesses of the own scratchpad: their issue, and what the port leaves. -/
def Obligations.ScratchpadVectors : Prop := VectorJoins ∧ VectorStoresEnd

/-! ## Fences, barriers, timelines and wakes -/

/-- R19: the instruction goes on, with one more operation of the slot, whose value `got` is known and is delivered to its
destination later. -/
def Sys2Proof.Claims.Answered (i : Instr) (s : State) (act : Act) (dst : Dest) (got : List (Nat × Word)) : Prop :=
  ∃ o : Op, o.id = (here s).nextOp ∧ o.act = act ∧ o.dst = dst ∧ o.mask = (here s).active ∧ o.posted = false ∧
    o.performed = true ∧ o.fault = none ∧ o.got = got ∧ o.units = [] ∧ Completes i s (issued s o 0) 1

/-- The turn of the instruction stays empty: nothing changes, and it is tried again (R169, R184). -/
def Sys2Proof.Claims.Holds (i : Instr) (s : State) : Prop :=
  ∃ t, exec i s = .next t ∧ Agree s.cur s t ∧ (t.slotAt s.cur).place = (here s).place

/-- The instruction goes on with one more operation of the slot, which has been sent and not been performed; a posted one
leaves its registers alone, another makes its destinations pending (R19). -/
def Sys2Proof.Claims.Sends (i : Instr) (s : State) (act : Act) (dst : Dest) (posted : Bool) : Prop :=
  ∃ o : Op, o.id = (here s).nextOp ∧ o.act = act ∧ o.dst = dst ∧ o.posted = posted ∧ o.performed = false ∧
    Completes i s (withHere s fun t =>
      { (if posted then t else dst.regs.foldl (fun t r => t.setFe r .pending) t) with
        ops := t.ops ++ [o], nextOp := t.nextOp + 1 }) 1

/-- R184, R218: a fence at scope .sl does nothing; another lets the slot go on once no operation that it waits for is left, and
holds it until then. FENCE.SV waits for the parity deltas of the slot's SV copies too. -/
def Sys2Proof.Claims.FenceResults : Prop :=
  ∀ (s : State), ready s {} = true →
    let loads := (here s).ops.any Op.beforeAcquire
    let copies : Prop := ∃ e ∈ (home s).ctxs, e.2.parityOut ≠ 0 ∧ ∃ l, e.2.cur = some l ∧ l.slot = s.cur.slot ∧
      (Table.get 0 l.regs 9).getLsbD 4 = true
    let fence (i : Instr) (acq rel sv : Bool) : Prop :=
      ((acq = true → loads = false) → (sv = true → ¬ copies) → (rel = true → released s sv) → Completes i s s 1) ∧
      (acq = true → loads = true → Holds i s) ∧ (sv = true → copies → Holds i s) ∧
      ((acq = true → loads = false) → (sv = true → ¬ copies) → rel = true → (here s).releaseWaits sv = true ∨ s.streamsOut s.cur = true → Holds i s)
    (∀ (c : Scope) (o : Order),
      fence (.fence c o) (decide (c ≠ .sl ∧ (o = .acq ∨ o = .ar))) (decide (c ≠ .sl ∧ (o = .rel ∨ o = .ar))) false) ∧
    (∀ c : Scope, fence (.fenceSc c) (decide (c ≠ .sl)) (decide (c ≠ .sl)) false) ∧
    fence .fenceSv true true true

/-- R186 to R189: the named barriers of the own cell. BARINIT starts a phase; an arrival counts, remembers the lowest
arriver, and with the last one sets DONE and releases the slots that wait: BARLEAD with 1 for the lowest arriver and 0 for any
other, BARARW with its phase behind it. BARWAIT and BARLEAD park until then, BARARW until the phase it arrived in is over. A name
that is none, or of another cell where none may stand, traps PROT. In the word of an open phase fewer have arrived than it
expects: no run makes another. -/
def Obligations.BarrierResults : Prop :=
  ∀ (s : State) (d n k : SReg),
    let name := (here s).sreg n
    let b : BitVec 9 := BitVec.ofNat 9 name.toNat
    let me : Nat := s.cur.slot.toNat + s.cur.cell.toNat * 2 ^ 4 + s.cur.pkg.toNat * 2 ^ 16
    let word : Nat := (Table.get 0 (home s).barriers b.toNat).toNat
    let set (x : Nat) : State := withHome s fun t => { t with barriers := Table.set 0 t.barriers b.toNat (BitVec.ofNat 64 x) }
    let done : Prop := word / 2 ^ 60 % 2 = 1
    let low : Nat := word / 2 ^ 32 % 2 ^ 28
    let parks (i : Instr) (u : State) (w : WaitFor) : Prop := goesOn i s u 1 (some w)
    let lead : Opnds := { barOpnds n with dsts := [.s d] }
    (name.toNat < 512 →
      (ready s (Opnds.ab n k) = true →
        let c := ((here s).sreg k).toNat
        (1 ≤ c → c ≤ 65535 → Completes (.barinit n k) s (set c) 1) ∧
        (c = 0 ∨ 65535 < c → Traps (.barinit n k) s { kind := .illegal, aux := (here s).sreg k })) ∧
      (ready s (barOpnds n) = true →
        (done → Completes (.barwait n) s s 1) ∧ (¬ done → parks (.barwait n) s (.barrier b none)) ∧
        ((here s).phaseWait = some (b, true) →
          Completes (.bararw n) s (withHere s fun t => { t with phaseWait := none }) 1) ∧
        ((here s).phaseWait = some (b, false) → parks (.bararw n) s (.phase b)) ∧
        let first := (here s).phaseWait ≠ some (b, true) ∧ (here s).phaseWait ≠ some (b, false)
        ((here s).acquiring = false → released s false →
          let expect := word % 2 ^ 16
          let before := if done then 0 else word / 2 ^ 16 % 2 ^ 16
          let last := before + 1 = expect
          (expect = 0 → Traps (.bararr n) s { kind := .illegal, aux := name } ∧
            (first → Traps (.bararw n) s { kind := .illegal, aux := name })) ∧
          (expect ≠ 0 → before < expect →
            let u := s.arrive s.cur.pkg s.cur.cell b me
            let lowest := if done ∨ before = 0 ∨ me < low then me else low
            Completes (.bararr n) s u 1 ∧
            (u.cellAt s.cur.pkg s.cur.cell).barrier b =
              BitVec.ofNat 64 (expect + (before + 1) * 2 ^ 16 + lowest * 2 ^ 32 + if last then 2 ^ 60 else 0) ∧
            (∀ q : SlotId,
              let x := (home s).slotAt q
              let t := u.slotAt { s.cur with slot := q }
              let waits (w : WaitFor) : Prop := x.wait.map (·.what) = some w
              let goes : Prop := t.wait = none ∧ t.mode ≠ .parked
              (¬ last → t = x) ∧
              (last → (waits (.barrier b none) → goes) ∧
                (∀ r, waits (.barrier b (some r)) → goes ∧ t.fe (.s r) = .full ∧
                  t.sreg r = if r = 0 then 0 else oneIf (lowest = q.toNat + s.cur.cell.toNat * 2 ^ 4 + s.cur.pkg.toNat * 2 ^ 16)) ∧
                (waits (.phase b) → goes ∧ t.phaseWait = none) ∧
                (x.wait = none → ∀ o, x.phaseWait = some (b, o) → t.phaseWait = some (b, true)))) ∧
            (first →
              (last → Completes (.bararw n) s (withHere u fun t => { t with phaseWait := none }) 1) ∧
              (¬ last → parks (.bararw n) (withHere u fun t => { t with phaseWait := some (b, false) }) (.phase b)))))) ∧
      (ready s lead = true →
        (done → gives s d (.barlead d n) (oneIf (low = me))) ∧ (¬ done → parks (.barlead d n) s (.barrier b (some d))) ∧
        ((here s).acquiring = false → (here s).unperformed < 16 →
          Answered (.barq d n) s (.barq b) (.scalar d) [(0, BitVec.ofNat 64 word)]))) ∧
    (512 ≤ name.toNat →
      (ready s (Opnds.ab n k) = true → Traps (.barinit n k) s { kind := .prot }) ∧
      (ready s (barOpnds n) = true → Traps (.barwait n) s { kind := .prot } ∧ Traps (.bararw n) s { kind := .prot }) ∧
      (ready s lead = true → Traps (.barlead d n) s { kind := .prot }) ∧
      let other := name.toNat / 2 ^ 60 = 1 ∧ name.toNat / 2 ^ 52 % 2 ^ 8 = 0 ∧ name.toNat / 2 ^ 9 % 2 ^ 19 = 0
      let p : PkgId := BitVec.ofNat 12 (name.toNat / 2 ^ 40)
      (¬ other → (ready s (barOpnds n) = true → Traps (.bararr n) s { kind := .prot }) ∧
        (ready s lead = true → (here s).acquiring = false → Traps (.barq d n) s { kind := .prot })) ∧
      (other → (here s).acquiring = false → s.shut s.cur.pkg p = false → (here s).unperformed < 16 → unpaired (here s) →
        (ready s (barOpnds n) = true → released s false → Sends (.bararr n) s (.arrive b) .none true) ∧
        (ready s lead = true → Sends (.barq d n) s (.barq b) (.scalar d) false)) ∧
      (other → (here s).acquiring = false → s.shut s.cur.pkg p = true →
        (ready s (barOpnds n) = true → Traps (.bararr n) s { kind := .fenced, sector := name }) ∧
        (ready s lead = true → Traps (.barq d n) s { kind := .fenced, sector := name })))

/-- R190, R191, R193 to R195: TLWAIT ends with 0 at its value and with 1 under an error mark, TLGET answers with the count,
NUNPACK splits an index, PARK takes a pending wake or parks for one, and WAKE ends a PARK of its target or is kept for the
next. -/
def Sys2Proof.Claims.WakeResults : Prop :=
  ∀ (s : State) (d v : SReg),
    let x := (here s).sreg v
    (∀ t : Timeline, ready s { srcs := [.s v], dsts := [.s d], tb := some (.s v) } = true →
      let count : Word := match t with
        | .copy j => Table.get 0 (home s).tlCount j.toNat | .graph j => Table.get 0 (pack s).tgCount j.toNat
      let mark : Bool := match t with
        | .copy j => NumSet.has (home s).tlMark j.toNat | .graph j => NumSet.has (pack s).tgMark j.toNat
      (mark = true → gives s d (.tlwait d v t) 1) ∧
      (mark = false → x.toNat ≤ count.toNat → gives s d (.tlwait d v t) 0) ∧
      (mark = false → count.toNat < x.toNat → goesOn (.tlwait d v t) s s 1 (some (.timeline t x d)))) ∧
    (ready s (Opnds.d d) = true →
      (∀ j : BitVec 2, (here s).unperformed < 16 →
        Answered (.tlget d (.copy j)) s .value (.scalar d) [(0, Table.get 0 (home s).tlCount j.toNat)]) ∧
      (∀ j : BitVec 6, (here s).unperformed < 16 → Sends (.tlget d (.graph j)) s (.query (.graphTimeline j)) (.scalar d) false) ∧
      ((here s).wakePending = true →
        Completes (.park d) s ((withHere s fun t => { t with wakePending := false }).setS s.cur d 0) 1) ∧
      ((here s).wakePending = false → goesOn (.park d) s s 1 (some (.wake d)))) ∧
    (∀ n : BitVec 2, ready s { srcs := [.s v, .s (v + 1)], dsts := (List.range (n.toNat + 1)).map fun j => .s (d + BitVec.ofNat 5 j)
                               tb := some (.s v) } = true →
      let e (j : Nat) : Nat :=
        let y := ((here s).sreg (v + 1)).toNat / 2 ^ (16 * j) % 2 ^ 16
        if y = 0 then 65536 else y
      let q (j : Nat) : Nat := x.toNat / ((List.range j).map e).prod
      Completes (.nunpack d v n) s ((List.range (n.toNat + 1)).foldl (fun u j =>
        u.setS s.cur (d + BitVec.ofNat 5 j) (BitVec.ofNat 64 (if j = n.toNat then q j else q j % e j))) s) 1) ∧
    (ready s { srcs := [.s v], tb := some (.s v) } = true → (here s).acquiring = false → released s false →
      let g : GRef := { pkg := BitVec.ofNat 12 (x.toNat / 2 ^ 16), cell := BitVec.ofNat 12 (x.toNat / 2 ^ 4)
                        slot := BitVec.ofNat 4 x.toNat }
      (x.toNat / 2 ^ 28 % 2 ^ 8 ≠ (pack s).domain.toNat ∨ s.shut s.cur.pkg g.pkg = true →
        Traps (.wake v) s { kind := .fenced, sector := x }) ∧
      (x.toNat / 2 ^ 28 % 2 ^ 8 = (pack s).domain.toNat → s.shut s.cur.pkg g.pkg = false → unpaired (here s) →
        (g.pkg = s.cur.pkg ∧ g.cell = s.cur.cell → ∃ u, exec (.wake v) s = .next u ∧
          match (s.slotAt g).wait.map (·.what) with
          | some (WaitFor.wake r) => (u.slotAt g).wait = none ∧ (u.slotAt g).sreg r = 0
          | _ => (u.slotAt g).wakePending = true) ∧
        (¬ (g.pkg = s.cur.pkg ∧ g.cell = s.cur.cell) → (here s).unperformed < 16 → Sends (.wake v) s (.wake g) .none true)))

/-- R184, R190, R191, R193 to R195: fences, timelines, index splits, PARK and WAKE. -/
def Obligations.SynchronisationResults : Prop := FenceResults ∧ WakeResults

/-! ## Streams -/

/-- A stream descriptor of the own cell. -/
abbrev Sys2Proof.Claims.streamOf (s : State) (n : Nat) : Stream := Table.get {} (home s).streams n
/-- A stream descriptor of the own cell changed. -/
def Sys2Proof.Claims.withStream (s : State) (n : Nat) (f : Stream → Stream) : State :=
  withHome s fun t => { t with streams := Table.put t.streams n (f (Table.get {} t.streams n)) }

/-- R202 to R208, R27: the descriptor instructions, in each state of the descriptor that they accept; a descriptor of another
slot, or in a state that an instruction does not accept, and a register that is bound already, trap STREAMERR; an output queue is
waited for, and one whose stream is in ERROR traps with its error. -/
def Obligations.StreamInstructions : Prop :=
  ∀ (s : State) (n b : SReg),
    let i := ((here s).sreg n).toNat % 32
    let q := streamOf s i
    let own := q.mode ≠ .free ∧ q.owner = s.cur.slot
    let bad (x : Instr) : Prop := Traps x s { kind := .streamerr }
    (ready s (Opnds.ab n b) = true →
      (∀ (x : Bool) (z : VSize),
        (q.mode = .free ∨ q.owner = s.cur.slot ∧ q.vreg = none → Completes (.sdef n b x z) s (withStream s i fun _ =>
          { mode := .defined, base := (here s).sreg b, dims := [(0, 1), (1, 1), (2, 1), (3, 1)]
            lstride := BitVec.ofNat 32 (vsizeBytes z), esize := z, output := x, owner := s.cur.slot, epoch := q.epoch + 1 }) 1) ∧
        (¬ (q.mode = .free ∨ q.owner = s.cur.slot ∧ q.vreg = none) → bad (.sdef n b x z))) ∧
      ∀ j : BitVec 7,
        (own → q.mode = .defined → Completes (.sdim n b j) s (withStream s i fun q =>
          if j = 4 then { q with lstride := BitVec.ofNat 32 ((here s).sreg b).toNat }
          else { q with dims := Table.put q.dims j.toNat ((here s).sreg b) }) 1) ∧
        (¬ (own ∧ q.mode = .defined) → bad (.sdim n b j))) ∧
    (∀ d : VRegNo, ready s { srcs := [.s n], dsts := [.v d], named := [d], whole := [d], tb := some (.s n) } = true →
      let may := own ∧ q.vreg = none ∧ (q.mode = .defined ∨ q.mode = .paused) ∧ (here s).binds.length < 8
      (may → Completes (.sbind d n) s (withHere (withStream s i fun q => { q with vreg := some d }) fun t =>
        { t.setFe (.v d) .full with binds := Table.put t.binds d.toNat (BitVec.ofNat 5 i) }) 1) ∧
      (¬ may → bad (.sbind d n))) ∧
    (∀ d : VRegNo, ready s { srcs := [.s n], named := [d], tb := some (.s n) } = true → (here s).fe (.v d) ≠ .pending →
      (Table.find (here s).binds d.toNat).isSome = true → bad (.sbind d n)) ∧
    (ready s (streamOpnds n) = true →
      (¬ own → bad (.sstop n) ∧ bad (.sdrain n) ∧ ((here s).acquiring = false → bad (.sgo n))) ∧
      (own →
        (q.mode = .running → Completes (.sstop n) s (withStream s i fun q => { q with mode := .paused }) 1) ∧
        (q.mode ≠ .running → Completes (.sstop n) s s 1) ∧
        ((here s).acquiring = false →
          (q.vreg = none ∨ q.mode = .done → bad (.sgo n)) ∧
          (q.vreg ≠ none → q.mode = .running → Completes (.sgo n) s s 1) ∧
          (q.vreg ≠ none → q.mode ≠ .running → q.mode ≠ .done → Completes (.sgo n) s (withStream s i fun q =>
            { q with mode := .running, err := 0, faddr := 0, mustAck := (here s).storeOps
                     mustOut := (home s).outMarks s.cur.slot (some i) }) 1)) ∧
        (q.output = false → Completes (.sdrain n) s (withStream s i fun q =>
          if q.mode = .done ∧ q.queue = [] then q
          else { q with queue := [], flight := [], err := 0, faddr := 0, gen := q.pos.toNat, mode := .paused }) 1) ∧
        (q.output = true → q.mode = .error → 
          Traps (.sdrain n) s { kind := .streamerr, sector := q.faddr
                                aux := BitVec.ofNat 64 (q.err.toNat + i * 2 ^ 8 + 2 ^ 13) }) ∧
        (q.output = true → q.mode ≠ .error → q.queue ≠ [] → goesOn (.sdrain n) s s 1 (some (.drain (BitVec.ofNat 5 i) false))) ∧
        (q.output = true → q.mode ≠ .error → q.queue = [] → (here s).refused = [] → Completes (.sdrain n) s s 1))) ∧
    (∀ d : SReg, ready s { streamOpnds n with dsts := [.s d] } = true →
      gives s d (.sstat d n) (BitVec.ofNat 64 (q.mode.code + q.queue.length * 2 ^ 3 + (if q.vreg = none then 0 else 2 ^ 7) +
        q.err.toNat * 2 ^ 8 + q.pos.toNat % 2 ^ 48 * 2 ^ 16))) ∧
    ∀ d : VRegNo, ready s { named := [d] } = true →
      match Table.find (here s).binds d.toNat with
      | none => bad (.sunbind d)
      | some m =>
        let q := streamOf s m.toNat
        let freed (v : VRegNo) : State := (withHere (withStream s m.toNat fun q => { epoch := q.epoch }) fun t =>
          { t with binds := Table.del t.binds v.toNat }).setLanes s.cur v (BitVec.allOnes 32) fun _ => 0
        (q.output = false → ∀ v, q.vreg = some v → Completes (.sunbind d) s (freed v) 1) ∧
        (q.output = true → q.mode ≠ .error → q.queue = [] → (here s).refused = [] →
          ∀ v, q.vreg = some v → Completes (.sunbind d) s (freed v) 1) ∧
        (q.output = true → q.mode = .error → Traps (.sunbind d) s
          { kind := .streamerr, sector := q.faddr, aux := BitVec.ofNat 64 (q.err.toNat + m.toNat * 2 ^ 8 + 2 ^ 13) }) ∧
        (q.output = true → q.mode ≠ .error → q.queue ≠ [] → goesOn (.sunbind d) s s 1 (some (.drain m true)))

/-! ## Copies -/

/-- A copy context of a cell. -/
abbrev Sys2Proof.Claims.ctxOf (s : State) (p : PkgId) (c : CellId) (x : BitVec 2) : CopyCtx :=
  Table.get {} (s.cellAt p c).ctxs x.toNat
/-- A copy context changed. -/
def Sys2Proof.Claims.withCtx (s : State) (p : PkgId) (c : CellId) (x : BitVec 2) (f : CopyCtx → CopyCtx) : State :=
  s.mapCell p c fun t => { t with ctxs := Table.put t.ctxs x.toNat (f (Table.get {} t.ctxs x.toNat)) }

/-- R5, R211 to R214, R219, R221: CPSET and CPGET move launch registers; that the reserved bits of FLAGS read as zero while CPGO
checks what was written there is the model's reading (log 38). CPGO traps for the first check of its registers that
fails, and else puts its launch, with the context's next identifier, behind those that await acceptance. CPSTAT answers with
the context's status. CPRESUME of the own cell puts a FAULTED context, whose record has been posted, back to BUSY, or
discards its work, and does nothing in another state; of another cell it asks for the privilege bit and is sent. -/
def Obligations.CopyInstructions : Prop :=
  ∀ (s : State) (d : SReg) (x : BitVec 2),
    let p := s.cur.pkg
    let c := s.cur.cell
    let q := ctxOf s p c x
    (∀ n : BitVec 7,
      (ready s { srcs := [.s d], tb := some (.s d) } = true → Completes (.cpset d n) s
        (withHere s fun t => { t with launchRegs := Table.set 0 t.launchRegs n.toNat ((here s).sreg d) }) 1) ∧
      (ready s (Opnds.d d) = true → gives s d (.cpget d n)
        (let r := Table.get 0 (here s).launchRegs n.toNat
         if n = 9 then BitVec.ofNat 64 (r.toNat % 2 ^ 8) else r))) ∧
    (ready s (Opnds.d d) = true →
      let r (n : Nat) : Nat := (Table.get 0 (here s).launchRegs n).toNat
      let f (i : Nat) : Bool := (r 9).testBit i
      let reasons : List (Nat × Bool) := [
        (1, r 2 == 0 || decide (2 ^ 32 ≤ r 2)), (2, r 5 == 0 || decide (2 ^ 32 ≤ r 5)),
        (3, decide (2 ^ 8 ≤ r 9) || (f 5 && f 6) || (f 2 && (!f 0 || f 1))),
        (4, f 3 && decide (2 ^ 18 ≤ r 8)), (5, f 7 && decide (barName (BitVec.ofNat 64 (r 10)) = .bad)),
        (6, NumSet.has (home s).tlMark x.toNat),
        (7, (f 0 && r 6 % (if f 1 then 8 else 4) != 0) || (f 2 && !isSpadAddress (BitVec.ofNat 64 (r 6))))]
      match reasons.find? (·.2) with
      | some e => Traps (.cpgo d x) s { kind := .copyfault, aux := BitVec.ofNat 64 (e.1 * 2 ^ 16 + x.toNat * 2 ^ 8) }
      | none => (here s).acquiring = false → (here s).unaccepted < 4 → (here s).unperformed < 16 → unpaired (here s) →
        ∃ (o : Op) (l : Launch), o.id = (here s).nextOp ∧ o.act = .launch x ∧ o.dst = .scalar d ∧ o.performed = false ∧
          l.id = q.lastId + 1 ∧ l.slot = s.cur.slot ∧ l.regs = (here s).launchRegs ∧ l.opId = o.id ∧
          Completes (.cpgo d x) s (withCtx (withHere s fun t => { t.setFe (.s d) .pending with
            ops := t.ops ++ [o], nextOp := t.nextOp + 1 }) p c x fun q =>
              { q with lastId := q.lastId + 1, unaccepted := q.unaccepted ++ [l] }) 1) ∧
    (ready s (Opnds.d d) = true → (here s).unperformed < 16 → Answered (.cpstat d x) s .value (.scalar d) [(0, BitVec.ofNat 64 (
      q.mode.code + q.queue.length * 2 ^ 8 + q.fkind.toNat * 2 ^ 16 + q.owner.toNat * 2 ^ 24 + flag q.desc * 2 ^ 28 +
        flag q.sdone * 2 ^ 32 + flag q.rdone * 2 ^ 33 + flag q.bdone * 2 ^ 34))]) ∧
    (ready s { srcs := [.s d], tb := some (.s d) } = true →
      let w := (here s).sreg d
      (w.toNat / 2 % 2 ^ 8 ≠ 0 → Traps (.cpresume d x) s { kind := .illegal }) ∧
      (w.toNat < 2 →
        (q.mode ≠ .faulted ∨ q.recordDue = true → Completes (.cpresume d x) s s 1) ∧
        (q.mode = .faulted → q.recordDue = false → ∃ t, exec (.cpresume d x) s = .next t ∧
          let q' := ctxOf t p c x
          (w.toNat = 0 → q'.mode = .busy ∧ q'.fkind = 0 ∧ q'.row = q.row ∧ q'.off = q.off ∧ q'.queue = q.queue) ∧
          (w.toNat = 1 → q'.mode = .idle ∧ q'.cur = none ∧ q'.queue = [] ∧ q'.unaccepted = [] ∧
            NumSet.has (t.cellAt p c).tlMark x.toNat = true ∧ Table.get 0 (t.cellAt p c).tlCount x.toNat = q.lastId))) ∧
      (w.toNat / 2 ^ 60 = 1 → w.toNat / 2 ^ 52 % 2 ^ 8 = 0 → w.toNat / 2 % 2 ^ 27 = 0 →
        let p' : PkgId := BitVec.ofNat 12 (w.toNat / 2 ^ 40)
        (s.shut p p' = true → Traps (.cpresume d x) s { kind := .fenced, sector := w }) ∧
        (s.shut p p' = false → (here s).priv = false → Traps (.cpresume d x) s { kind := .priv }) ∧
        (s.shut p p' = false → (here s).priv = true → (here s).unperformed < 16 → unpaired (here s) →
          Sends (.cpresume d x) s (.resume x (w.getLsbD 0)) .none true)))

/-- R215, R216: the bytes of the next unit of a row of `n` bytes, of which `off` have moved: the first and the number. An
aligned word of eight bytes of both ranges that is left moves at once, else one byte; from the low end, or from the high end of a
row that descends. -/
def Sys2Proof.Claims.nextUnit (src dst n off : Nat) (down : Bool) : Nat × Nat :=
  if down then
    let last := n - 1 - off
    if (src + last) % 8 = 7 ∧ (dst + last) % 8 = 7 ∧ 8 ≤ n - off then (last - 7, 8) else (last, 1)
  else if (src + off) % 8 = 0 ∧ (dst + off) % 8 = 0 ∧ 8 ≤ n - off then (off, 8) else (off, 1)

/-- R220, R361: a context stops in FAULTED where it stands, with the fault's kind and address. A record of it waits in the cell,
which names the launching slot. Payload, timelines and slots are as before. -/
def Sys2Proof.Claims.CopyStops (i : Instr) (s : State) (p : PkgId) (c : CellId) (x : BitVec 2) (l : Launch) (at_ : Nat × Nat × Bool)
    (k : Kind) (a : Nat) : Prop :=
  ∃ t w, exec i s = .next t ∧
    (let q := ctxOf t p c x
     q.mode = .faulted ∧ q.fkind = k.code ∧ q.faddr = BitVec.ofNat 64 a ∧ q.recordDue = true ∧ q.cur = some l ∧
     (q.row, q.off, q.desc) = at_) ∧
    (t.cellAt p c).spad = (s.cellAt p c).spad ∧ (t.cellAt p c).tlCount = (s.cellAt p c).tlCount ∧
    (∀ h, t.slotAt h = s.slotAt h) ∧ (t.pkgAt p).waiting = (s.pkgAt p).waiting ++ [w] ∧
    w.cell = c ∧ w.slot = some l.slot ∧ w.ctx = some x ∧ w.record.sector = BitVec.ofNat 64 a ∧
    w.record.aux = BitVec.ofNat 64 (k.code.toNat + x.toNat * 2 ^ 8 + 2 ^ 20)

/-- R214 to R216, R220: the events of a copy context before its completion. The first launch that may be accepted joins the queue,
and its CPGO gets its identifier. A context that is idle starts its next launch. A unit of payload between ranges of the own
scratchpad copies its bytes as they all were before it, and the context goes on; a row descends where its source lies below its
destination and the two overlap. A unit whose source or destination lies where a copy may not reach, or whose source is poisoned,
stops the context. That one unit moves at a time, at one moment, is the model's choice (log 22). -/
def Sys2Proof.Claims.CopyTransfers : Prop :=
  ∀ (s : State) (p : PkgId) (c : CellId) (x : BitVec 2), s.hasPkg p = true → (s.pkgAt p).stalled c = false →
    let q := ctxOf s p c x
    let cell := s.cellAt p c
    (∀ l rest, q.unaccepted = l :: rest → q.queue.length < 16 → (cell.slotAt l.slot).acked l.mustAck = true →
      l.mustOut.all cell.outDone = true → ∀ o, s.opOf { pkg := p, cell := c, slot := l.slot } l.opId = some o →
        o.held = false → ∃ t, exec (.copyLaunchAccept p c x) s = .next t ∧
          (ctxOf t p c x).unaccepted = rest ∧ (ctxOf t p c x).queue = q.queue ++ [l] ∧ (t.cellAt p c).spad = cell.spad ∧
          ∀ d, o.dst = .scalar d → d ≠ 0 → o.orphan = false → o.fault = none → o.num = none →
            (cell.slotAt l.slot).lateFault = false → ((t.cellAt p c).slotAt l.slot).sreg d = l.id) ∧
    ∀ l row off down,
      (q.mode = .busy ∧ q.cur = some l ∧ (q.row, q.off, q.desc) = (row, off, down) ∨
        ∃ rest, q.mode = .idle ∧ q.queue = l :: rest ∧ row = 0 ∧ off = 0) → row < l.rows → off < l.len → l.len < 2 ^ 32 →
      let src (r : Nat) : Nat := l.src.toNat + r * (Table.get 0 l.regs 3).toNat
      let dst (r : Nat) : Nat := l.dst.toNat + r * (Table.get 0 l.regs 4).toNat
      let descends (r : Nat) : Bool := decide (src r < dst r ∧ dst r < src r + l.len)
      src row < 0x200000 → dst row < 0x200000 → (q.mode = .idle → down = descends 0) →
      let b := nextUnit (src row) (dst row) l.len off down
      let low := src row + b.1
      let dest := dst row + b.1
      let stops (k : Kind) (a : Nat) : Prop := CopyStops (.copyPayload p c x) s p c x l (row, off, down) k a
      let bad (j : Nat) : Prop := NumSet.has cell.spadPoison ((low + j) / 8) = true
      (0x200000 ≤ low → low < 0x400000 → stops .prot low) ∧
      (low + b.2 ≤ 0x200000 → 0x200000 ≤ dest → dest < 0x400000 → stops .prot dest) ∧
      (low + b.2 ≤ 0x200000 → dest + b.2 ≤ 0x200000 →
        (∀ j < b.2, bad j → (∀ i < j, ¬ bad i) → stops .ecc (low + j)) ∧
        (cell.spadPoison = [] → cell.waiters = [] → ∃ t, exec (.copyPayload p c x) s = .next t ∧
          (∀ y, Table.get 0 (t.cellAt p c).spad y =
            if dest ≤ y ∧ y < dest + b.2 then Table.get 0 cell.spad (low + (y - dest)) else Table.get 0 cell.spad y) ∧
          (ctxOf t p c x).mode = .busy ∧ (ctxOf t p c x).cur = some l ∧
          (off + b.2 < l.len → ((ctxOf t p c x).row, (ctxOf t p c x).off, (ctxOf t p c x).desc) = (row, off + b.2, down)) ∧
          (off + b.2 = l.len → ((ctxOf t p c x).row, (ctxOf t p c x).off) = (row + 1, 0) ∧
            (row + 1 < l.rows → src (row + 1) < 0x200000 → dst (row + 1) < 0x200000 →
              (ctxOf t p c x).desc = descends (row + 1)))))

/-- R35, R188, R217, R218, R220, R291: THE COMPLETION ACTIONS of a copy whose payload is complete, one at a time and in this order.
An SV copy waits for its parity acknowledgements. The signal write stores SIGVAL, and with SIGFULL makes the word full; one that
names no place stops the context. The record is appended to its node, committed, with depth 0, the identifier and SIGVAL; where the
node is full the context waits for room, and where there is none its timeline is marked and the copy ends. The barrier gets an
arrival of the launching slot. The last makes the timeline hold the identifier, and the context idle. -/
def Sys2Proof.Claims.CopyCompletions : Prop :=
  ∀ (s : State) (p : PkgId) (c : CellId) (x : BitVec 2), s.hasPkg p = true → (s.pkgAt p).stalled c = false →
    let q := ctxOf s p c x
    let cell := s.cellAt p c
    ∀ l, q.cur = some l → l.rows ≤ q.row →
      let r (n : Nat) : Nat := (Table.get 0 l.regs n).toNat
      let f (i : Nat) : Prop := (r 9).testBit i = true
      let g : GRef := { pkg := p, cell := c, slot := l.slot }
      let node := (s.pkgAt p).nodeAt (BitVec.ofNat 6 (r 8 / 2 ^ 12)) (BitVec.ofNat 12 (r 8))
      let ended (t : State) : Prop := (ctxOf t p c x).mode = .idle ∧ (ctxOf t p c x).cur = none ∧
        Table.get 0 (t.cellAt p c).tlCount x.toNat = l.id ∧ (t.cellAt p c).spad = cell.spad
      (q.mode = .busy →
        let next (h : State → Prop) : Prop := ∃ t, exec (.copyCompletion p c x) s = .next t ∧ h t
        (f 4 → q.parityOut ≠ 0 → next fun t => t = s) ∧
        ((f 4 → q.parityOut = 0) →
          (f 0 → q.sdone = false →
            let n := if (r 9).testBit 1 then 8 else 4
            (r 6 % n = 0 → r 6 + n ≤ 0x200000 → cell.spadPoison = [] → cell.waiters = [] → next fun t =>
              Changes s t p c (let u := { putNum cell (r 6) n (r 7) with
                ctxs := Table.put cell.ctxs x.toNat { q with sdone := true } }
                if (r 9).testBit 2 then { u with spadEmpty := u.spadEmpty.erase (r 6 / 4) } else u) g (s.slotAt g)) ∧
            (0x200000 ≤ r 6 → r 6 < 0x400000 →
              CopyStops (.copyCompletion p c x) s p c x l (q.row, q.off, q.desc) .prot (r 6))) ∧
          ((f 0 → q.sdone = true) →
            (f 3 → q.rdone = false →
              (node = none → next fun t => ended t ∧ NumSet.has (t.cellAt p c).tlMark x.toNat = true) ∧
              ∀ d, node = some d →
                (d.qcap ≤ d.recs.length → next fun t => (ctxOf t p c x).mode = .waitrec ∧ (ctxOf t p c x).rdone = false ∧
                  (t.cellAt p c).spad = cell.spad) ∧
                (d.recs.length < d.qcap → (s.pkgAt p).hubWrites = [] → ∀ (e : CellId) (off : Nat),
                  d.qbase = BitVec.ofNat 64 (2 ^ 60 + p.toNat * 2 ^ 40 + e.toNat * 2 ^ 28 + off) → off % 16 = 0 → 16 ≤ d.recSize →
                  let at_ := off + d.alloc.toNat % d.qcap * d.recSize
                  at_ + d.recSize ≤ 0x200000 → (s.cellAt p e).spadPoison = [] → (s.cellAt p e).waiters = [] →
                  (s.pkgAt p).inRefused e = false → next fun t =>
                    (ctxOf t p c x).rdone = true ∧ (ctxOf t p c x).mode = .busy ∧
                    numAt (t.cellAt p e).spad (at_ + 8) 8 = l.id.toNat ∧
                    (24 ≤ d.recSize → numAt (t.cellAt p e).spad (at_ + 16) 8 = r 7) ∧
                    ∃ d' w, (t.pkgAt p).nodeAt (BitVec.ofNat 6 (r 8 / 2 ^ 12)) (BitVec.ofNat 12 (r 8)) = some d' ∧
                      d'.alloc = d.alloc + 1 ∧ w ∈ d'.recs ∧ w.seq = d.alloc ∧ w.mode = .committed ∧ w.depth = 0 ∧
                      w.copy = true ∧ w.host = false ∧ w.origin = l.origin.getD 0xFFF)) ∧
            ((f 3 → q.rdone = true) →
              (f 7 → q.bdone = false → r 10 < 512 → exec (.copyCompletion p c x) s = .next (withCtx
                (s.arrive p c (BitVec.ofNat 9 (r 10)) (l.slot.toNat + c.toNat * 2 ^ 4 + p.toNat * 2 ^ 16)) p c x
                fun q => { q with bdone := true })) ∧
              ((f 7 → q.bdone = true) → next ended))))) ∧
      (q.mode = .waitrec → f 3 → q.rdone = false → (f 4 → q.parityOut = 0) → (f 0 → q.sdone = true) → node = none →
        ∃ t, exec (.copyWaitrecResume p c x) s = .next t ∧ ended t ∧ NumSet.has (t.cellAt p c).tlMark x.toNat = true)

/-- R214 to R218, R220: copies: their launches, their payload, their completion, and how they stop. -/
def Obligations.CopyEvents : Prop := CopyTransfers ∧ CopyCompletions

/-! ## The matrix engine -/

/-- R65, R224, R225, R227, R228, R235: reservations of the operand buffer and of the B-store are made for a free record, a range
that fits and meets no other, a format that a step accepts, binary8 ones among them with their scales in the range; the first
check that fails is reported with its code. Which record code 3 names of several that the range meets is open. They are freed by
their slot once its steps no longer use them. MMA and MMAZ queue their steps and hold the slot. MROT, of the lead slot, writes the table that takes
effect at the first frame boundary at least 16 cycles on. A check that fails traps OBRES with its code. -/
def Sys2Proof.Claims.MatrixCommands : Prop :=
  ∀ (s : State) (a b : SReg),
    let v := (here s).sreg a
    let code (i : Instr) (n : Nat) : Prop := Traps i s { kind := .obres, aux := BitVec.ofNat 64 n }
    let mine := BitVec.ofNat 64 (v.toNat % 2 ^ 56 + s.cur.slot.toNat * 2 ^ 56 + 2 ^ 63)
    let field (w : Word) (lo n : Nat) : Nat := w.toNat / 2 ^ lo % 2 ^ n
    let f := field v 22 7
    let b8 := f < 32 ∧ f % 8 ≠ 0
    -- the checks of one kind of record, by code: the fields of a word, the records, the number of units and the bytes of one
    let refuses (range : Word → Nat × Nat) (t : Table Word) (limit unit : Nat) (more : Prop) (n e : Nat) : Prop :=
      let at_ := range v
      match e with
      | 7 => field v 29 3 ≠ 0 ∨ field v 35 5 ≠ 0 ∨ field v 54 2 ≠ 0 ∨ field v 60 3 ≠ 0 ∨ more
      | 1 => (Table.get 0 t n).getLsbD 63 = true
      | 2 => at_.2 = 0 ∨ limit < at_.1 + at_.2
      | 3 => ∃ m ∈ t, m.2.getLsbD 63 = true ∧ at_.1 < (range m.2).1 + (range m.2).2 ∧ (range m.2).1 < at_.1 + at_.2
      | 4 => f ∈ [0x20, 0x25, 0x26, 0x27]
      | 5 => 2 ≤ field v 32 3 ∨ field v 32 3 = 1 ∧ ¬ b8
      | 6 => field v 32 3 = 1 ∧ unit * at_.2 ≤ 16 * field v 40 14 ∨ field v 32 3 = 0 ∧ field v 40 14 ≠ 0
      | _ => False
    let rank (e : Nat) : Nat := if e = 7 then 0 else e
    let reserves (i : Instr) (range : Word → Nat × Nat) (t : Table Word) (limit unit : Nat) (more : Prop) (n : BitVec 4)
        (u : State) : Prop :=
      let no := refuses range t limit unit more n.toNat
      (¬ (b8 ∨ 32 ≤ f ∧ f < 0x28) → Traps i s { kind := .illegal }) ∧
      (b8 ∨ 32 ≤ f ∧ f < 0x28 →
        (∀ e, no e → (∀ e', rank e' < rank e → ¬ no e') → (e ≠ 3 → code i e) ∧
          (e = 3 → ∃ m ∈ t, m.2.getLsbD 63 = true ∧ (range v).1 < (range m.2).1 + (range m.2).2 ∧
            (range m.2).1 < (range v).1 + (range v).2 ∧ code i (3 + m.1 * 2 ^ 8))) ∧
        ((∀ e, ¬ no e) → Completes i s u 1))
    (∀ n : BitVec 4, ready s { srcs := [.s a], tb := some (.s a) } = true →
      reserves (.obres a n) (fun w => (field w 0 11, field w 11 11)) (home s).obres 1024 256 False n
        (withHome s fun t => { t with obres := Table.set 0 t.obres n.toNat mine }) ∧
      reserves (.bsres a n) (fun w => (field w 0 8, field w 8 9)) (home s).bsres 256 64 (field v 17 5 ≠ 0) n
        (withHome s fun t => { t with bsres := Table.set 0 t.bsres n.toNat mine })) ∧
    (∀ n : BitVec 4, ready s {} = true →
      let holds (w : Word) : Prop := w.getLsbD 63 = true ∧ w.toNat / 2 ^ 56 % 2 ^ 4 = s.cur.slot.toNat
      (¬ holds (Table.get 0 (home s).obres n.toNat) → code (.obfree n) 12) ∧
      (¬ holds (Table.get 0 (home s).bsres n.toNat) → code (.bsfree n) 12) ∧
      (holds (Table.get 0 (home s).obres n.toNat) → (∀ r ∈ (home s).steps, r.slot = s.cur.slot → r.aNo ≠ n.toNat) →
        Completes (.obfree n) s (withHome s fun t => { t with obres := Table.del t.obres n.toNat }) 1) ∧
      (holds (Table.get 0 (home s).bsres n.toNat) → (∀ r ∈ (home s).steps, r.slot = s.cur.slot → r.bNo ≠ n.toNat) →
        Completes (.bsfree n) s (withHome s fun t => { t with bsres := Table.del t.bsres n.toNat }) 1)) ∧
    (∀ (k : BitVec 5) (tile : BitVec 2), ready s (Opnds.ab a b) = true →
      let w := (here s).sreg b
      let n := k.toNat + 1
      let aw := (Table.get 0 (home s).obres (v.toNat % 16)).toNat
      let bw := (Table.get 0 (home s).bsres (w.toNat % 16)).toNat
      let ao := v.toNat / 2 ^ 8 % 2 ^ 20
      let bo := w.toNat / 2 ^ 8 % 2 ^ 14
      let fmt (r : Nat) : Nat := r / 2 ^ 22 % 2 ^ 7
      let blk (r : Nat) : Prop := r / 2 ^ 32 % 2 ^ 3 = 1
      let scoff (r : Nat) : Nat := r / 2 ^ 40 % 2 ^ 14
      let wide (f : Nat) : Prop := f = 0x21 ∨ f = 0x22
      let kind (f : Nat) : Nat := if f < 32 ∧ f % 8 ≠ 0 then 0 else if f = 0x23 ∨ f = 0x24 then 1 else if wide f then 2 else 3
      let step (f : Nat) : Nat := if wide f then 4 else 16
      let ab := if wide (fmt aw) then 512 else 1024
      let bb := if wide (fmt bw) then 8 else 16
      let alen := 256 * (aw / 2 ^ 11 % 2 ^ 11)
      let blen := 64 * (bw / 2 ^ 8 % 2 ^ 9)
      let fails (e : Nat) : Prop := match e with
        | 7 => v.toNat / 2 ^ 4 % 2 ^ 4 ≠ 0 ∨ v.toNat / 2 ^ 28 ≠ 0 ∨ w.toNat / 2 ^ 4 % 2 ^ 4 ≠ 0 ∨ w.toNat / 2 ^ 22 ≠ 0
        | 8 => aw < 2 ^ 63 ∨ bw < 2 ^ 63
        | 9 => ao % ab ≠ 0 ∨ bo % bb ≠ 0 ∨ alen < ao + n * ab ∨ blen < bo + n * bb
        | 10 => kind (fmt aw) = 3 ∨ kind (fmt aw) ≠ kind (fmt bw)
        | 11 => (blk aw ∧ ∃ j < n, ∃ i < 64, alen ≤ 16 * scoff aw + 64 * ((ao / ab + j) * step (fmt aw) / 32) + i) ∨
            (blk bw ∧ ∃ j < n, blen ≤ 16 * scoff bw + (bo / bb + j) * step (fmt bw) / 32)
        | _ => False
      (∀ e, fails e → (∀ e' < e, ¬ fails e') → code (.mma a b k tile) e ∧ code (.mmaz a b k tile) e) ∧
      ((∀ e, ¬ fails e) → (here s).mmaStep.toNat ≤ k.toNat → ∀ z : Bool,
        let i : Instr := if z then .mmaz a b k tile else .mma a b k tile
        let job : MmaJob :=
          { slot := s.cur.slot, tile := tile, aNo := v.toNat % 16, bNo := w.toNat % 16
            arec := Table.get 0 (home s).obres (v.toNat % 16), brec := Table.get 0 (home s).bsres (w.toNat % 16)
            ao := v.toNat / 2 ^ 8 % 2 ^ 20, bo := w.toNat / 2 ^ 8 % 2 ^ 14, k := k.toNat + 1, j := (here s).mmaStep.toNat
            zero := z, mask := (here s).active, issued := s.cycleAt s.cur.pkg }
        ∃ t, exec i s = .next t ∧ Agree s.cur (withHome s fun t => { t with mma := t.mma ++ [job] }) t ∧
          (t.slotAt s.cur).waitNext = some (s.nextPlace s.cur 1) ∧ (t.slotAt s.cur).place = (here s).place)) ∧
    (s.hasPkg s.cur.pkg = true → s.cur.slot ≠ 0 → Traps (.mrot a b) s { kind := .priv }) ∧
    (ready s { Opnds.ab a b with needs := .lead } = true →
      let entry (i : Nat) : Byte :=
        if i < 8 then BitVec.ofNat 8 (v.toNat / 2 ^ (8 * i)) else BitVec.ofNat 8 (((here s).sreg b).toNat / 2 ^ (8 * (i - 8)))
      let at_ := (s.cycleAt s.cur.pkg + 16 + 255) / 256 * 256
      ((∃ i < 16, (entry i).toNat / 2 ^ 4 % 8 ≠ 0) → Traps (.mrot a b) s { kind := .illegal }) ∧
      ((∀ i < 16, (entry i).toNat / 2 ^ 4 % 8 = 0) → ∃ table : Table Byte, (∀ i < 16, Table.get 0 table i = entry i) ∧
        Completes (.mrot a b) s
          (withHome s fun t => { t with rotationNext := t.rotationNext.filter (·.1 != at_) ++ [(at_, table)] }) 1))

/-- R36, R232, R233: the accumulator tiles, once no step is under way in the tile: ACCZ clears the rows of the active lanes,
ACCRD answers with one element for each active lane, ACCWR writes it, and ACCST issues the rows as posted stores of words, the
row of number r at its base plus 256 · r; a base that is no multiple of 16 traps ALIGN. Lane l has rows 2l and 2l + 1. -/
def Sys2Proof.Claims.TileInstructions : Prop :=
  ∀ (s : State) (tile : BitVec 2), (∀ r ∈ (home s).steps, r.tile ≠ tile) →
    let key (row col : Nat) : Nat := tile.toNat * 4096 + row * 64 + col
    let on (l : Nat) : Prop := (here s).isActive l = true
    (ready s {} = true → ∃ (m : Table Lane) (u : NumSet),
      Completes (.accz tile) s (withHome s fun t => { t with acc := m, accPoison := u }) 1 ∧
      (∀ row < 64, ∀ col < 64, Table.get 0 m (key row col) = if on (row / 2) then 0 else Table.get 0 (home s).acc (key row col)) ∧
      (∀ j, j / 4096 ≠ tile.toNat → Table.get 0 m j = Table.get 0 (home s).acc j)) ∧
    ∀ k : SReg,
      let w := ((here s).sreg k).toNat
      let row (l : Nat) : Nat := 2 * l + w / 64 % 2
      let col := w % 64
      (∀ d : VRegNo, ready s { srcs := [.s k], dsts := [.v d], named := [d], tb := some (.s k) } = true →
        (∀ l ∈ activeLanes s, NumSet.has (home s).accPoison (tile.toNat * 2048 + row l * 32 + col / 2) = false) →
        activeLanes s ≠ [] → (here s).unperformed < 16 → Answered (.accrd d k tile) s .value (.vector d)
          ((activeLanes s).map fun l => (l, BitVec.ofNat 64 (Table.get 0 (home s).acc (key (row l) col)).toNat))) ∧
      (∀ v : VRegNo,
        ready s { srcs := [.v v, .s k], named := [v], ta := some (.v v), tb := some (.s k) } = true → ∃ m : Table Lane,
          Completes (.accwr v k tile) s (withHome s fun t => { t with acc := m }) 1 ∧
          (∀ l < 32, on l → Table.get 0 m (key (row l) col) = lane (s.vregAt s.cur v) l) ∧
          ∀ j, (∀ l < 32, on l → j ≠ key (row l) col) → Table.get 0 m j = Table.get 0 (home s).acc j) ∧
      (ready s { srcs := [.s k], tb := some (.s k) } = true →
        (activeLanes s = [] → w % 16 = 0 → Completes (.accst k tile) s s 1) ∧
        (activeLanes s = [] → w % 16 ≠ 0 → Traps (.accst k tile) s { kind := .align, sector := BitVec.ofNat 64 w }) ∧
        (w + 0x4000 ≤ 0x200000 →
          (∀ l rest, activeLanes s = l :: rest → w % 16 ≠ 0 →
            Traps (.accst k tile) s { kind := .align, sector := BitVec.ofNat 64 (w + 512 * l) }) ∧
          (activeLanes s ≠ [] → w % 16 = 0 → (home s).accPoison = [] → numbered (here s) → (here s).acquiring = false →
            (here s).unperformed < 16 →
            let words : List Elt := (activeLanes s).flatMap fun l => [2 * l, 2 * l + 1].flatMap fun r =>
              (List.range 64).map fun c => spadElt s l (BitVec.ofNat 64 (w + 256 * r + 4 * c)) 4
                (BitVec.ofNat 64 (Table.get 0 (home s).acc (key r c)).toNat) 0
            Joins (.accst k tile) s .store .none true false (words.map fun e => { path := .local, elts := [e] }))))

/-- R36, R224, R225, R227, R228, R232, R233, R235: the matrix instructions. -/
def Obligations.MatrixInstructions : Prop := MatrixCommands ∧ TileInstructions

/-- R93, R94, R226: the number of element `q` of row or column `i` of an operand of format `f`, scaled by its scale byte. -/
noncomputable def Sys2Proof.Claims.stepNumber (f : Nat) (scale : Option Nat) (blk : List Byte) (i q : Nat) : Number :=
  let byte (j : Nat) : Nat := (blk.getD j 0).toNat
  let half : Nat := byte (8 * i + 2 * q) + 256 * byte (8 * i + 2 * q + 1)
  let n : Number := if f < 32 then b8Number f (byte (16 * i + q)) else if f = 0x21 then ieeeNumber fp16 half else ieeeNumber bf16 half
  match scale, n with
  | none, n => n
  | some 255, _ => .nan false
  | some e, .real neg v => .real neg (v * (2 : ℝ) ^ ((e : Int) - 127))
  | some _, n => n

/-- R95: what a floating-point step of `n` products makes of an accumulator element: the canonical NaN, an infinity, or the
exact sum of the products and of the element, rounded once to nearest even. A sum of zero is −0 where the element is −0 and
every product is; a binary8 product of zero is +0. -/
def Sys2Proof.Claims.Accumulates (b8 : Prop) (n : Nat) (a b : Nat → Number) (acc r : Nat) : Prop :=
  let sign (x : Number) : Bool := match x with | .nan _ => false | .inf g => g | .real g _ => g
  let value (x : Number) : ℝ := match x with | .real _ v => v | _ => 0
  let isNan (x : Number) : Prop := ∃ g, x = .nan g
  let isInf (x : Number) : Prop := ∃ g, x = .inf g
  let isZero (x : Number) : Prop := ∃ g, x = .real g 0
  let infinite (g : Bool) : Prop := ∃ q < n, (isInf (a q) ∨ isInf (b q)) ∧ (sign (a q) != sign (b q)) = g
  let bad : Prop := (∃ q < n, isNan (a q) ∨ isNan (b q) ∨ isInf (a q) ∧ isZero (b q) ∨ isZero (a q) ∧ isInf (b q)) ∨
    isNanBits fp32 acc ∨ (infinite true ∧ infinite false) ∨ (infinite false ∧ acc = 0xFF800000) ∨ (infinite true ∧ acc = 0x7F800000)
  (bad → r = 0x7FC00000) ∧
  (¬ bad → ∀ g, infinite g → r = if g then 0xFF800000 else 0x7F800000) ∧
  (¬ bad → (∀ g, ¬ infinite g) → (acc % 2 ^ 31 = 0x7F800000 → r = acc) ∧
    ∀ v, valueOf fp32 acc = some v →
      let z := v + ((List.range n).map fun q => value (a q) * value (b q)).sum
      (z ≠ 0 → Rounds fp32 .near z r) ∧
      let minus : Prop := acc = 2 ^ 31 ∧ ¬ b8 ∧ ∀ q < n, value (a q) * value (b q) = 0 ∧ sign (a q) ≠ sign (b q)
      (z = 0 → (minus → r = 2 ^ 31) ∧ (¬ minus → r = 0)))

/-- R226: where a step of a job lies in the operand buffer or in a slice of the B-store: its elements, and its scales. -/
def Sys2Proof.Claims.stepPlace (record : Word) (unit o j block k scale : Nat) (mask : Nat) : Nat × Nat :=
  let r := record.toNat
  let base := unit * (r % mask)
  (base + o + j * block, base + 16 * (r / 2 ^ 40 % 2 ^ 14) + scale * ((o / block + j) * k / 32))

/-- R226, R229, R230: a step of a slot's job reads its blocks and their scales in a window of that slot and goes on to the
next, or lets the slot go after the last; the slot's earlier plain stores to the B-store have then been performed (R231). A scale that cannot be read traps SCALEPAR, an element that cannot ECC, with the
failing byte's address, its storage and the step. A poisoned row of the tile, which no step under way writes, traps ECC with
an address that is free: the model's choice (R339, log 12). -/
def Sys2Proof.Claims.StepReads : Prop :=
  ∀ (s : State) (g : GRef) (m : MmaJob), s.hasPkg g.pkg = true → stepJob (s.pkgAt g.pkg) (s.cellAt g.pkg g.cell) g = some m →
    let cell := s.cellAt g.pkg g.cell
    let window := s.cycleAt g.pkg / 16 * 16
    let fmt (w : Word) : Nat := w.toNat / 2 ^ 22 % 2 ^ 7
    let scaled (w : Word) : Prop := w.toNat / 2 ^ 32 % 2 ^ 3 = 1
    let wide (w : Word) : Prop := fmt w = 0x21 ∨ fmt w = 0x22
    let k (w : Word) : Nat := if wide w then 4 else 16
    let ab := if wide m.arec then 512 else 1024
    let bb := if wide m.brec then 8 else 16
    let a := stepPlace m.arec 256 m.ao m.j ab (k m.arec) 64 (2 ^ 11)
    let b := stepPlace m.brec 64 m.bo m.j bb (k m.brec) 1 (2 ^ 8)
    let opBad (i : Nat) : Prop := NumSet.has cell.opBad i = true
    let bBad (i : Nat) : Prop := NumSet.has cell.bPoison (i / 8) = true
    let operandFault (f : FaultInfo) : Prop :=
      (scaled m.arec ∧ ∃ i < 64, opBad (a.2 + i) ∧
        f = { kind := .scalepar, sector := BitVec.ofNat 64 (0x600000 + a.2 + i), aux := BitVec.ofNat 64 (2 + m.j * 2 ^ 8) }) ∨
      (scaled m.brec ∧ ∃ c < 64, bBad (16384 * c + b.2) ∧
        f = { kind := .scalepar, sector := BitVec.ofNat 64 (0x400000 + 16384 * c + b.2), aux := BitVec.ofNat 64 (1 + m.j * 2 ^ 8) }) ∨
      (∃ i < ab, opBad (a.1 + i) ∧
        f = { kind := .ecc, sector := BitVec.ofNat 64 ((0x600000 + a.1 + i) / 32 * 32), aux := BitVec.ofNat 64 (2 + m.j * 2 ^ 8) }) ∨
      ∃ c < 64, ∃ i < bb, bBad (16384 * c + b.1 + i) ∧
        f = { kind := .ecc, sector := BitVec.ofNat 64 ((0x400000 + 16384 * c + b.1 + i) / 32 * 32)
              aux := BitVec.ofNat 64 (1 + m.j * 2 ^ 8) }
    let rowBad (r : Nat) : Prop := (m.zero = false ∨ m.j ≠ 0) ∧ r < 64 ∧ m.mask.getLsbD (r / 2) = true ∧
      (∃ i < 32, NumSet.has cell.accPoison (m.tile.toNat * 2048 + r * 32 + i) = true) ∧
      ∀ x ∈ cell.steps, x.tile = m.tile → x.mask.getLsbD (r / 2) = false
    let stops (f : FaultInfo) : Prop := ∃ t r, exec (.matrixStep g) s = .next t ∧ (t.slotAt g).mode = .trapped ∧
      (t.slotAt g).fkind = f.kind.code ∧ (t.slotAt g).mmaStep = BitVec.ofNat 5 m.j ∧
      (t.cellAt g.pkg g.cell).mma = cell.mma.filter (·.slot != g.slot) ∧ (t.cellAt g.pkg g.cell).acc = cell.acc ∧
      (t.cellAt g.pkg g.cell).steps = cell.steps ∧
      (t.pkgAt g.pkg).waiting = (s.pkgAt g.pkg).waiting ++
        [{ ring := s.ringOf g, cell := g.cell, slot := some g.slot, ctx := none, record := r }] ∧
      r.sector = f.sector ∧ r.aux = f.aux
    (∀ o ∈ (s.slotAt g).ops, o.act = .store → ∀ u ∈ o.units, u.done = false → ∀ e ∈ u.elts,
      ¬ (e.loc.store = .bstore ∧ e.loc.pkg = g.pkg ∧ e.loc.cell = g.cell)) ∧
    ((∃ f, operandFault f) → ∃ f, operandFault f ∧ stops f) ∧
    ((∀ f, ¬ operandFault f) → (∃ r, rowBad r) → ∃ r, rowBad r ∧
      stops { kind := .ecc, sector := Config.accSector m.tile.toNat r, aux := BitVec.ofNat 64 (3 + m.j * 2 ^ 8) }) ∧
    ((∀ f, ¬ operandFault f) → (∀ r, ¬ rowBad r) → ∃ t x, exec (.matrixStep g) s = .next t ∧
      (t.cellAt g.pkg g.cell).steps = cell.steps ++ [x] ∧ (t.cellAt g.pkg g.cell).acc = cell.acc ∧
      x.slot = g.slot ∧ x.tile = m.tile ∧ x.j = m.j ∧ x.last = decide (m.k ≤ m.j + 1) ∧ x.mask = m.mask ∧ x.window = window ∧ x.zero = (m.zero && m.j == 0) ∧
      x.afmt = fmt m.arec ∧ x.bfmt = fmt m.brec ∧
      x.ablk = (List.range ab).map (fun i => Table.get 0 cell.opbuf (a.1 + i)) ∧
      x.bblk = (List.range (64 * bb)).map (fun i => Table.get 0 cell.bstore (16384 * (i / bb) + b.1 + i % bb)) ∧
      x.ascale = (if scaled m.arec then some ((List.range 64).map fun i => Table.get 0 cell.opbuf (a.2 + i)) else none) ∧
      x.bscale = (if scaled m.brec then some ((List.range 64).map fun c => Table.get 0 cell.bstore (16384 * c + b.2)) else none) ∧
      (m.j + 1 < m.k → (t.cellAt g.pkg g.cell).mma = cell.mma.map fun x =>
        if x.slot = g.slot then { x with j := m.j + 1, issued := window } else x) ∧
      (m.k ≤ m.j + 1 → (s.slotAt g).stopping = none → (t.cellAt g.pkg g.cell).mma = cell.mma.filter (·.slot != g.slot) ∧
        (t.slotAt g).wait = none ∧ (t.slotAt g).hold = some { why := .mma, till := window + 16 }))

/-- R228, R229, R95, R96: 48 cycles after the start of its window the oldest step writes the rows of its lanes, over the prior
values, or over zeros in the first step of MMAZ: integer steps add the sum of sixteen products modulo 2^32, floating-point
steps of 16 or 4 products accumulate exactly. Written over, a row's units lose their poison. A row that has been poisoned since
the step read its operands makes an MMA that still runs trap there, and nothing is written: the model's choice (R339, log 12). -/
def Sys2Proof.Claims.StepWrites : Prop :=
  ∀ (s : State) (p : PkgId) (c : CellId) (x : StepRun) (rest : List StepRun), s.hasPkg p = true →
    let cell := s.cellAt p c
    let g : GRef := { pkg := p, cell := c, slot := x.slot }
    let bad := x.zero = false ∧ ∃ row < 64, x.mask.getLsbD (row / 2) = true ∧
      ∃ i < 32, NumSet.has cell.accPoison (x.tile.toNat * 2048 + row * 32 + i) = true
    (cell.steps = x :: rest → x.window + 48 ≤ s.cycleAt p → bad → x.last = false →
      (s.slotAt g).mode ∈ [.run, .parked, .subscribed] → (s.slotAt g).dying = false → (∃ m ∈ cell.mma, m.slot = x.slot) →
      ∃ t, exec (.stepAccumulation p c) s = .next t ∧ (t.cellAt p c).acc = cell.acc ∧ (t.cellAt p c).accPoison = cell.accPoison ∧
        (t.slotAt g).mode = .trapped ∧ (t.slotAt g).fkind = Kind.ecc.code ∧ (t.slotAt g).mmaStep = BitVec.ofNat 5 x.j) ∧
    (cell.steps = x :: rest → x.window + 48 ≤ s.cycleAt p → ¬ bad → ∃ t, exec (.stepAccumulation p c) s = .next t ∧
      (t.cellAt p c).steps = rest ∧ (∀ d, d ≠ c → t.cellAt p d = s.cellAt p d) ∧
      (∀ j, j / 4096 ≠ x.tile.toNat → Table.get 0 (t.cellAt p c).acc j = Table.get 0 cell.acc j) ∧
      (∀ u, NumSet.has (t.cellAt p c).accPoison u = true ↔ NumSet.has cell.accPoison u = true ∧
        ¬ (x.zero = true ∧ u / 2048 = x.tile.toNat ∧ x.mask.getLsbD (u / 32 % 64 / 2) = true)) ∧
      ∀ row < 64, ∀ col < 64,
        let j := x.tile.toNat * 4096 + row * 64 + col
        let before : Lane := if x.zero then 0 else Table.get 0 cell.acc j
        let after := Table.get 0 (t.cellAt p c).acc j
        let integer (f : Nat) (blk : List Byte) (i q : Nat) : Int :=
          let y := blk.getD (16 * i + q) 0
          if f = 0x23 then y.toInt else y.toNat
        let a := stepNumber x.afmt (x.ascale.map fun l => (l.getD row 0).toNat) x.ablk row
        let b := stepNumber x.bfmt (x.bscale.map fun l => (l.getD col 0).toNat) x.bblk col
        let b8 (f : Nat) : Prop := f < 32 ∧ f % 8 ≠ 0
        (x.mask.getLsbD (row / 2) = false → after = Table.get 0 cell.acc j) ∧
        (x.mask.getLsbD (row / 2) = true →
          (x.afmt ∈ [0x23, 0x24] → x.bfmt ∈ [0x23, 0x24] → after = BitVec.ofInt 32 (before.toInt +
            ((List.range 16).map fun q => integer x.afmt x.ablk row q * integer x.bfmt x.bblk col q).sum)) ∧
          (b8 x.afmt → b8 x.bfmt → Accumulates True 16 a b before.toNat after.toNat) ∧
          (x.afmt ∈ [0x21, 0x22] → x.bfmt ∈ [0x21, 0x22] → Accumulates False 4 a b before.toNat after.toNat)))

/-- R41, R308: a new rotation table and a new power cap take effect at their frame boundaries. -/
def Sys2Proof.Claims.FrameEffects : Prop :=
  ∀ (s : State) (p : PkgId) (c : CellId), s.hasPkg p = true →
    (∀ n table rest, (s.cellAt p c).rotationNext = (n, table) :: rest → n ≤ s.cycleAt p → exec (.rotationTableEffect p c) s =
      .next (s.mapCell p c fun t => { t with rotation := table, rotationNext := rest })) ∧
    ∀ n h rest, (s.pkgAt p).capNext = (n, h) :: rest → n ≤ s.cycleAt p →
      exec (.powerCapEffect p) s = .next (s.mapPkg p fun k => { k with capNow := h, capNext := rest })

/-- R226, R228 to R230, R93 to R96, R41, R308: matrix steps read, and write their rows; tables and caps take effect. -/
def Obligations.MatrixEvents : Prop := StepReads ∧ StepWrites ∧ FrameEffects

/-! ## Answers and arrivals of operations in flight -/

/-- R19, R22, R167, R175, R425: an operation that has been performed answers: its destination holds what it read and is full,
the operation is gone, and a slot that waits for it goes on; a posted one is acknowledged, and one that was refused is kept
for report. A wait that reaches its bound asks for a cancel, which traps WAITLIMIT where the operation was not performed. -/
def Obligations.AnswerEvents : Prop :=
  ∀ (s : State) (g : GRef) (op : Nat) (o : Op), s.hasPkg g.pkg = true → s.opOf g op = some o →
    let t := s.slotAt g
    let got (l : Nat) : Word := ((o.got.find? (·.1 == l)).map (·.2)).getD 0
    let gone (u : State) : State := u.mapSlot g fun t => { t with ops := t.ops.filter (·.id != op) }
    (o.posted = false → o.performed = true → (∀ x, o.act ≠ .launch x) → o.orphan = false → o.fault = none →
      t.lateFault = false → ∃ u, exec (.producerValueWrite g op) s = .next u ∧
        let written := match o.dst with
          | .none => s
          | .scalar r => s.setS g r (got 0)
          | .pair r => (s.setS g r (got 0)).setS g (r + 1) (got 1)
          | .vector r => s.setLanes g r o.mask fun l => BitVec.ofNat 32 (got l).toNat
          | .vpair r => (s.setLanes g r o.mask fun l => BitVec.ofNat 32 (got l).toNat).setLanes g (r + 1) o.mask
              fun l => BitVec.ofNat 32 ((got l).toNat / 2 ^ 32)
        (t.wait = none → t.engagedIn op = false → Agree g (gone written) u ∧ (u.slotAt g).place = t.place) ∧
        (t.wait.map (·.what) = some (.answer op) → (u.slotAt g).wait = none ∧ (u.slotAt g).mode ≠ .parked ∧
          ∀ n, t.waitNext = some n → (u.slotAt g).place = n)) ∧
    (∀ x, o.act = .query x → o.posted = false → o.performed = false → o.held = false → o.shadow = false → o.num = none →
      o.orphan = false → o.fault = none → t.lateFault = false → ∀ r, o.dst = .scalar r → r ≠ 0 →
        ∃ u, exec (.producerValueWrite g op) s = .next u ∧ (u.slotAt g).sreg r = queryValue s g x ∧
          (u.slotAt g).fe (.s r) = .full) ∧
    (o.posted = true → o.performed = true → o.orphan = false → t.lateFault = false →
      (o.fault = none → exec (.postedAcknowledgement g op) s = .next (s.mapSlot g fun t =>
        { t with ops := t.ops.filter (·.id != op), lastOp := if t.lastOp = some op then none else t.lastOp })) ∧
      (∀ f, o.fault = some f → f.kind = .fenced → ∃ u, exec (.postedAcknowledgement g op) s = .next u ∧
        (u.slotAt g).ops = t.ops.filter (·.id != op) ∧ Table.find (u.slotAt g).refused o.id =
          some { kind := match o.act with | .arrive _ => .arrival | .wake _ => .arrival | _ => .store, addr := f.sector })) ∧
    exec (.waiterResend g op) s = .next (s.mapOp g op fun o => { o with resend := false }) ∧
    (∀ n, t.wait = some { what := .answer op, since := n } → (∃ f, o.act = .fe f) ∨ (∃ f, o.act = .monitor f) →
      (t.feWait ≠ 0 → s.cycleAt g.pkg = n + 16 * t.feWait.toNat → o.performed = false →
        exec (.fewaitExpiry g) s = .next (s.mapOp g op fun o => { o with cancelled := true })) ∧
      (o.cancelled = true → o.performed = true →
        exec (.cancelAnswer g) s = .next (s.mapOp g op fun o => { o with cancelled := false })) ∧
      (o.cancelled = true → o.performed = false → t.mode = .parked ∨ t.mode = .subscribed → t.lateFault = false → t.dying = false →
        ∃ u r, exec (.cancelAnswer g) s = .next u ∧ (u.slotAt g).mode = .trapped ∧
          (u.slotAt g).fkind = Kind.waitlimit.code ∧ (u.slotAt g).place = (o.head, o.pos, o.loops) ∧
          (u.pkgAt g.pkg).waiting = (s.pkgAt g.pkg).waiting ++
            [{ ring := s.ringOf g, cell := g.cell, slot := some g.slot, ctx := none, record := r }] ∧ r.aux = 0x200))

/-- R166, R171, R173, R174, R176, R181, R182, R188, R192, R195, R320, R321: requests arrive. A unit of an access of device memory,
or of another cell's scratchpad, is performed at its place: a load reads what stands there, a store writes its bytes, an atomic
replaces the element by its result and reads the old one. At another cell a full/empty operation acts on its word and a monitor
completes, or they wait there. An arrival is counted at its barrier, and a WAKE reaches its slot. -/
def Sys2Proof.Claims.Arrivals : Prop :=
  ∀ (s : State) (g : GRef) (op : Nat) (o : Op), s.hasPkg g.pkg = true → s.opOf g op = some o → o.id = op → o.num = none →
    o.fault = none → o.orphan = false →
    (∀ (e : Elt) (w : Path), o.units = [{ path := w, elts := [e] }] → o.live = true → s.hasPkg e.loc.pkg = true →
      pathOf e.addr = w → unitFree (s.slotAt g) o w 0 = true → s.refusesPlace g.pkg e.loc = false →
      s.boundaryRefuses g.pkg g.cell e.loc = false → e.loc.prot = false → (s.peek e.loc e.n).isSome = true →
      let away : Prop := w = .remote ∧ e.loc.store = .spad
      (w = .edge ∧ (e.loc.store = .hbm ∨ e.loc.store = .ddr) ∧ edgeReady s g o e = true ∨
        away ∧ serviceFree s g o e = true ∧ s.passes g.pkg e.loc.pkg = true ∧
          (s.cellAt e.loc.pkg e.loc.cell).waiters = []) →
      let i : Instr := if w = .edge then .memoryEdgeRequest g op else .activeMessage g op
      let store (u : State) : List Host.Cell := match e.loc.store with
        | .hbm => (u.pkgAt e.loc.pkg).hbm | .ddr => (u.pkgAt e.loc.pkg).ddr | _ => (u.cellAt e.loc.pkg e.loc.cell).spad
      let x := numAt (store s) e.loc.off e.n
      let y := e.val.toNat % 256 ^ e.n
      let old : List (Nat × Word) := [(e.lane, BitVec.ofNat 64 x)]
      let full (u : State) : Bool := !(NumSet.has (u.cellAt e.loc.pkg e.loc.cell).spadEmpty (e.loc.off / 4))
      let does (got : List (Nat × Word)) (new : Option (Nat × Nat)) (f : Bool) : Prop :=
        ∃ u o', exec i s = .next u ∧ u.opOf g op = some o' ∧ o'.performed = true ∧ o'.fault = none ∧ o'.got = o.got ++ got ∧
          (∀ j, Table.get 0 (store u) j = match new with
            | some (n, z) => if e.loc.off ≤ j ∧ j < e.loc.off + n then BitVec.ofNat 8 (z / 256 ^ (j - e.loc.off))
                else Table.get 0 (store s) j
            | none => Table.get 0 (store s) j) ∧ (away → full u = f)
      let waits : Prop := ∃ u o', exec i s = .next u ∧ SameMemory s u ∧ u.opOf g op = some o' ∧ o'.waiting = true ∧
        o'.performed = false ∧ (u.cellAt e.loc.pkg e.loc.cell).waiters = [(g, op)] ∧ full u = full s
      (o.act = .load false → does old none (full s)) ∧
      (o.act = .load true → does [(e.lane, BitVec.ofInt 64 (if 2 * x < 256 ^ e.n then (x : Int) else (x : Int) - 256 ^ e.n))] none
        (full s)) ∧
      (o.act = .store → does [] (some (e.n, e.val.toNat)) (full s)) ∧
      (∀ f, o.act = .atom f → (e.n = 4 ∨ e.n = 8 ∧ f ≠ .fadd ∧ f ≠ .fmax) →
        does old (some (e.n, atomResult f e.n x y e.val2.toNat)) (full s)) ∧
      (away →
        (o.act = .fe .ldfe → (full s = true → does old none false) ∧ (full s = false → waits)) ∧
        (o.act = .fe .ldf → (full s = true → does old none true) ∧ (full s = false → waits)) ∧
        (o.act = .fe .stf → (full s = true → does [] (some (e.n, e.val.toNat)) true) ∧ (full s = false → waits)) ∧
        (o.act = .fe .stfe → (full s = false → does [] (some (e.n, e.val.toNat)) true) ∧ (full s = true → waits)) ∧
        (o.act = .fe .feset → does [] none true) ∧ (o.act = .fe .feclr → does [] none false) ∧
        (o.act = .fe .feget → does [(e.lane, if full s then 1 else 0)] none (full s)) ∧
        (o.act = .nclaim → e.n = 16 →
          let next := numAt (store s) e.loc.off 8
          let last := numAt (store s) (e.loc.off + 8) 6
          let share := numAt (store s) (e.loc.off + 14) 2
          let n := if last ≤ next then 0 else
            Min.min (last - next) (Max.max 1 ((last - next + Max.max 1 share - 1) / Max.max 1 share))
          does [(0, BitVec.ofNat 64 next), (1, BitVec.ofNat 64 n)] (some (8, next + n)) (full s)) ∧
        ∀ ne, o.act = .monitor ne → ((x = y ↔ ne = false) → does [] none (full s)) ∧ (¬ (x = y ↔ ne = false) → waits))) ∧
    (∀ (e : Elt) (b : BitVec 9), o.act = .arrive b → o.units = [{ path := .remote, elts := [e] }] → o.live = true →
      serviceFree s g o e = true → s.passes g.pkg e.loc.pkg = true → unitFree (s.slotAt g) o .remote 0 = true →
      s.refusesPlace g.pkg e.loc = false → s.boundaryRefuses g.pkg g.cell e.loc = false → s.hasPkg e.loc.pkg = true →
        ∃ u, exec (.barrierArrival g op) s = .next u ∧ (u.cellAt e.loc.pkg e.loc.cell).barrier b =
          arriveWord ((s.cellAt e.loc.pkg e.loc.cell).barrier b)
            (g.slot.toNat + g.cell.toNat * 2 ^ 4 + g.pkg.toNat * 2 ^ 16)) ∧
    ∀ w : GRef, o.act = .wake w → o.live = true → s.passes g.pkg w.pkg = true → s.hasPkg w.pkg = true →
      let l : Loc := { store := .control, pkg := w.pkg, cell := w.cell, off := 0 }
      s.refusesPlace g.pkg l = false → s.boundaryRefuses g.pkg g.cell l = false →
        ∃ u, exec (.wakeArrival g op) s = .next u ∧
          match (s.slotAt w).wait.map (·.what) with
          | some (WaitFor.wake r) => (u.slotAt w).wait = none ∧ (u.slotAt w).sreg r = 0
          | _ => (u.slotAt w).wakePending = true

/-- R171, R173, R174, R176, R181, R182, R192, R337, R338: WHERE OPERATIONS WAIT at the cell that a request of one element
reaches. When the request has been performed, they are tried; one that must wait joins them, and they are tried too, but a
sixty-fifth that came from another cell is returned, to be sent again. A request that reads finds the poison of its bytes, and has
the ECC fault. -/
def Sys2Proof.Claims.ArrivalRetries : Prop :=
  ∀ (s : State) (g : GRef) (op : Nat) (o : Op) (e : Elt), s.hasPkg g.pkg = true → s.opOf g op = some o → o.num = none →
    o.fault = none → o.orphan = false → o.live = true → o.units = [{ path := .remote, elts := [e] }] →
    ((s.slotAt g).ops.map (·.id)).Nodup → s.hasPkg e.loc.pkg = true → pathOf e.addr = .remote → 0 < e.n →
    e.loc = { store := .spad, pkg := e.loc.pkg, cell := e.loc.cell, off := e.loc.off } →
    unitFree (s.slotAt g) o .remote 0 = true → s.refusesPlace g.pkg e.loc = false →
    s.boundaryRefuses g.pkg g.cell e.loc = false → serviceFree s g o e = true → s.passes g.pkg e.loc.pkg = true →
    WaitersFit s e.loc.pkg e.loc.cell →
    let p := e.loc.pkg
    let c := e.loc.cell
    let t := s.cellAt p c
    let slot (f : Op → Op) : Slot := { s.slotAt g with ops := (s.slotAt g).ops.map fun x => if x.id = op then f x else x }
    let x := numAt t.spad e.loc.off e.n
    let ends (a : State) (tried : Bool) : Prop := ∃ b u,
      (if tried then Retries p c (a.cellAt p c).waiters.length a b else b = a) ∧ exec (.activeMessage g op) s = .next u ∧
      Changes b u p c { b.cellAt p c with serving := none } g (b.slotAt g)
    let does (f : Cell → Cell) (got : List (Nat × Word)) : Prop :=
      ∃ a, Changes s a p c (relieved (f t) g o) g (slot fun _ => noted o (fun _ => true) got none) ∧ ends a true
    let fails (cell : Cell) : Prop := ∀ f, meets t [e] f →
      ∃ a, Changes s a p c cell g (slot fun _ => noted o (fun _ => true) [] (some f)) ∧ ends a false
    let away := t.waiters.filter fun w => decide (w.1.pkg ≠ p) || decide (w.1.cell ≠ c) || ((s.opOf w.1 w.2).map (·.leaves)).getD false
    let waits : Prop := if 64 ≤ away.length then ∃ a, Changes s a p c t g (slot fun y => { y with resend := true }) ∧ ends a false
      else ∃ a, Changes s a p c { t with waiters := if t.waiters.contains (g, op) then t.waiters else t.waiters ++ [(g, op)] } g
        (slot fun y => { y with waiting := true }) ∧ ends a true
    (∀ signed, o.act = .load signed → (allClean t [e] → does id [(e.lane, BitVec.ofInt 64
      (if signed ∧ 256 ^ e.n ≤ 2 * x then (x : Int) - 256 ^ e.n else (x : Int)))]) ∧ fails (relieved t g o)) ∧
    (o.act = .store → does (fun t => unpoison [] [e] (putAll [e] t)) []) ∧
    (∀ f, o.act = .atom f → (e.n = 4 ∨ e.n = 8 ∧ f ≠ .fadd ∧ f ≠ .fmax) →
      (allClean t [e] → does (fun t => putNum t e.loc.off e.n (atomResult f e.n x (e.val.toNat % 256 ^ e.n) e.val2.toNat))
        (readAll [e] t)) ∧ fails t) ∧
    (∀ f, o.act = .fe f → (allClean t [e] → (feOpen f [e] t → does (feDoes f [e]) (feReads f [e] t)) ∧
      (¬ feOpen f [e] t → waits)) ∧ fails (relieved t g o)) ∧
    ∀ ne, o.act = .monitor ne → (allClean t [e] → (monitorOpen ne [e] t → does id []) ∧ (¬ monitorOpen ne [e] t → waits)) ∧
      fails (relieved t g o)

/-- R166, R171, R173, R174, R176, R181, R182, R188, R192, R195, R320, R321: requests arrive, are performed or wait, and those that
wait are tried. -/
def Obligations.ArrivalEvents : Prop := Arrivals ∧ ArrivalRetries

/-- R136, R162, R262, R305, R367, R194, R47, R53, R133, R340, R72: the ends of holds and waits of a slot at their cycles; the
wait of a clause header ends when the operations that it selects have completed, or, for WR, left no request outstanding; a PARK
that reaches its bound writes 1; a refill fills the cell's cache; ICINV empties it; a word that is no instruction traps. -/
def Obligations.HoldEvents : Prop :=
  ∀ (s : State) (g : GRef), s.hasPkg g.pkg = true →
    let t := s.slotAt g
    let now := s.cycleAt g.pkg
    (∀ e ∈ [(Instr.idleDelayEnd g, HoldWhy.idle), (.xaccHoldEnd g, .xacc), (.slotStartFirstIssue g, .start),
        (.resumedSlotFirstIssue g, .resume), (.groupStart g, .group)],
      ∀ n, t.hold = some { why := e.2, till := n } → n ≤ now →
        exec e.1 s = .next (s.mapSlot g fun t => { t with hold := none })) ∧
    (∀ d n, t.wait = some { what := .wake d, since := n } → t.feWait ≠ 0 → now = n + 16 * t.feWait.toNat →
      exec (.parkTimeout g) s = .next (s.mapSlot g fun t => (t.putS d 1).endWait)) ∧
    (∀ x, t.clause = some x → t.refused = [] → t.waitqDone = false →
      let cell := s.cellAt g.pkg g.cell
      let met : Prop :=
        (x.hdr.wm = true → (∀ j ∈ cell.mma, j.slot ≠ g.slot) ∧ ∀ r ∈ cell.steps, r.slot ≠ g.slot) ∧
        (x.hdr.wc = true → ∀ o ∈ t.ops, ∀ k, o.act ≠ .launch k) ∧
        (x.hdr.wr = true → ∀ o ∈ t.ops, o.path ≠ .remote ∧ o.path ≠ .edge ∧ ∀ y ∈ o.units, y.path = .local) ∧
        (x.hdr.wl = true → ∀ o ∈ t.ops, (∃ y ∈ o.units, y.path = .local) → o.posted = true)
      (met → exec (.waitqSatisfied g) s = .next (s.mapSlot g fun t => { t with waitqDone := true })) ∧
      (¬ met → exec (.waitqSatisfied g) s = .next s)) ∧
    (t.icinv = true → exec (.icinvComplete g) s =
      .next ((s.mapCell g.pkg g.cell fun t => { t with icache := [] }).mapSlot g fun t => { t with icinv := false })) ∧
    (∀ a, t.refill = some (a, none) → refillReady s g t.pid a = true → ∃ u, exec (.instructionCacheRefill g) s = .next u ∧
      ((∃ f, (u.slotAt g).refill = some (a, some f)) ∨ (u.slotAt g).refill = none ∧
        ∃ b, (u.cellAt g.pkg g.cell).cachedBytes t.pid a 4 = some b)) ∧
    (g = s.cur → Traps (.illegalEncoding false) s { kind := .illegal } ∧ Traps (.illegalEncoding true) s { kind := .clause })

/-! ## Exact sums -/

/-- R105: the sum that an image holds: the signed number in bits 639:64 over 2^224. -/
noncomputable def Sys2Proof.Claims.imageSum (x : Nat) : ℝ :=
  ((BitVec.ofNat 576 (x / 2 ^ 64)).toInt : ℝ) / (2 : ℝ) ^ (224 : Nat)

/-- R160: an image address that passes its checks. -/
def Sys2Proof.Claims.imageAt (a : Word) : Prop := a.toNat + 80 ≤ 0x200000 ∧ a.toNat % 16 = 0

/-- R105, R163, R279: the ten words of an image in the own cell, each a unit. -/
def Sys2Proof.Claims.imageWords (g : GRef) (a : Word) : List OpUnit :=
  (List.range 10).map fun k =>
    { path := .local, elts := [{ lane := k, addr := a + BitVec.ofNat 64 (8 * k), n := 8
                                 loc := { store := .spad, pkg := g.pkg, cell := g.cell, off := a.toNat + 8 * k } }] }

/-- R105: the status bits for a NaN, +∞ and −∞. -/
def Sys2Proof.Claims.statusBits (nan pinf ninf : Bool) : Nat :=
  (if nan then 1 else 0) + (if pinf then 2 else 0) + if ninf then 4 else 0

/-- R159 to R164: the issue of the exact sums. Each joins the slot port with the words of its image, and holds the slot for its
turns. XCLR stores zeros; XADD and XADDH bring the exact sum of the values of the active lanes, and note NaNs and infinities;
XMERGE reads its source's words before its destination's; XRD reads. The port serves them for 1, 20, 30 and 10 cycles, and has
served them by the end of those turns, whatever other slots do: the numbers are the model's choice (log 24). A wrong address traps PROT or ALIGN. -/
def Sys2Proof.Claims.ExactSumIssue : Prop :=
  ∀ (s : State) (d a b : SReg) (v : VRegNo), (here s).acquiring = false →
    let x := (here s).sreg a
    let y := (here s).sreg b
    let w (l : Nat) : Nat := (lane (s.vregAt s.cur v) l).toNat
    let starts (i : Instr) (act : Act → Prop) (dst : Dest) (units : List OpUnit) (cycles turns : Nat) : Prop :=
      ∃ o : Op, o.id = (here s).nextOp ∧ act o.act ∧ o.dst = dst ∧ o.posted = decide (turns = 1) ∧ o.performed = false ∧
        o.fault = none ∧ o.got = [] ∧ o.units = units ∧
        Completes i s (withHere (issued s o cycles false (some (16 * turns))) fun t =>
          if turns = 1 then t else { t with hold := some { why := .xacc, till := s.cycleAt s.cur.pkg + 16 * turns } }) 1
    let adds (i : Instr) (f : FpFmt) (vals : List Nat) : Prop :=
      let inf : Nat := (2 ^ f.ew - 1) * 2 ^ f.fw
      starts i (fun k => ∃ (sum : Nat) (n : Int), (sum : Int) = n % 2 ^ 576 ∧
        (n : ℝ) = (vals.map fun z => (valueOf f z).getD 0).sum * (2 : ℝ) ^ (224 : Nat) ∧
        k = .xacc (.add (statusBits (vals.any fun z => decide (isNanBits f z)) (vals.any (· == inf))
          (vals.any (· == 2 ^ (f.ew + f.fw) + inf))) sum)) .none (imageWords s.cur x) 20 4
    ((here s).unperformed < 16 →
      (ready s (Opnds.a a) = true → imageAt x → starts (.xclr a) (· = .store) .none (imageWords s.cur x) 1 1) ∧
      (ready s (Opnds.image a v) = true → imageAt x →
        adds (.xadd a v) fp32 ((activeLanes s).map w) ∧
        adds (.xaddh a v) fp16 ((activeLanes s).flatMap fun l => [w l % 2 ^ 16, w l / 2 ^ 16])) ∧
      (ready s (Opnds.ab a b) = true → imageAt x → imageAt y →
        starts (.xmerge a b) (· = .xacc .merge) .none (imageWords s.cur y ++ imageWords s.cur x) 30 3) ∧
      (ready s (Opnds.ss d a) = true → imageAt x →
        starts (.xrdS d a) (· = .xacc (.read false)) (.scalar d) (imageWords s.cur x) 10 2 ∧
        starts (.xrdD d a) (· = .xacc (.read true)) (.scalar d) (imageWords s.cur x) 10 2)) ∧
    let checked (i : Instr) (a : Word) (k : Nat) : Prop :=
      (0x200000 < a.toNat + 80 → Traps i s { kind := .prot, sector := a
                                             aux := BitVec.ofNat 64 (7 + k * 2 ^ 4 + 2 * 2 ^ 8 + (here s).pid.toNat * 2 ^ 12) }) ∧
      (a.toNat + 80 ≤ 0x200000 → a.toNat % 16 ≠ 0 → Traps i s { kind := .align, sector := a })
    (ready s (Opnds.a a) = true → checked (.xclr a) x 1) ∧
    (ready s (Opnds.image a v) = true → checked (.xadd a v) x 2 ∧ checked (.xaddh a v) x 2) ∧
    (ready s (Opnds.ab a b) = true → checked (.xmerge a b) x 2 ∧
      (x.toNat + 80 ≤ 0x200000 → x.toNat % 16 = 0 → checked (.xmerge a b) y 0)) ∧
    (ready s (Opnds.ss d a) = true → checked (.xrdS d a) x 0 ∧ checked (.xrdD d a) x 0)

/-- R105 to R107, R161, R163, R164: what an exact sum has done when the port has performed its words one after another. An
addition adds its sum to F modulo 2^576 and its status bits to the image's; a merge adds the source image, as it stood, to the
destination; a read rounds the sum once, raising OF, UF and NX as that rounding does (R87), or gives the canonical NaN, an
infinity, or +0, and raises none. No other byte
changes, and the operation is gone. A poisoned word stops it with the image unchanged, and the slot traps ECC where it has
issued nothing since. -/
def Sys2Proof.Claims.ExactSumEnds : Prop :=
  ∀ (s : State) (g : GRef) (o : Op) (a : Word), o.got = [] → imageAt a → (∀ x ∈ o.units, x.done = false) →
    (s.cellAt g.pkg g.cell).waiters = [] →
    let image (a : Word) : Nat := numAt (s.cellAt g.pkg g.cell).spad a.toNat 80
    let old := image a
    let ends (n : Nat) (k : State → Prop) : Prop :=
      let u := served g.pkg g.cell n s
      k u ∧ (u.slotAt g).ops = (s.slotAt g).ops.filter (·.id != o.id)
    let stands (n x : Nat) : Prop := ends n fun u => ∀ j, Table.get 0 (u.cellAt g.pkg g.cell).spad j =
      if a.toNat ≤ j ∧ j < a.toNat + 80 then BitVec.ofNat 8 (x / 256 ^ (j - a.toNat)) else Table.get 0 (s.cellAt g.pkg g.cell).spad j
    let sum (x st f : Nat) : Nat := (x % 8 ||| st % 8) + (x / 2 ^ 64 + f) % 2 ^ 576 * 2 ^ 64
    let clean_ : Prop := allClean (s.cellAt g.pkg g.cell) (eltsOf o)
    (AtPort s g o → clean_ → o.units = imageWords g a →
      (∀ st f, o.act = .xacc (.add st f) → st < 8 → f < 2 ^ 576 → stands 10 (sum old st f)) ∧
      ∀ d : SReg, d ≠ 0 → o.dst = .scalar d → ∀ t ∈ [(false, fp32, 0x7FC00000), (true, fp64, 0x7FF8000000000000)],
        o.act = .xacc (.read t.1) →
        let f := t.2.1
        let inf : Nat := (2 ^ f.ew - 1) * 2 ^ f.fw
        let gives (r : Nat) (e : FpFlags) : Prop := ends 10 fun u => (u.slotAt g).sreg d = BitVec.ofNat 64 r ∧
          (u.slotAt g).fpFlags = (s.slotAt g).fpFlags ||| e ∧ SameMemory s u
        if old.testBit 0 || old.testBit 1 && old.testBit 2 then gives t.2.2 0
        else if old.testBit 1 then gives inf 0
        else if old.testBit 2 then gives (2 ^ (f.ew + f.fw) + inf) 0
        else if old / 2 ^ 64 % 2 ^ 576 = 0 then gives 0 0
        else ∃ r e, gives r e ∧ Rounds f (Rm.ofMode (s.slotAt g).rm) (imageSum old) r ∧
          let inexact := valueOf f r ≠ some (imageSum old)
          Flagged e False False (Overflows f (Rm.ofMode (s.slotAt g).rm) (imageSum old))
            (Tiny f (Rm.ofMode (s.slotAt g).rm) (imageSum old) ∧ inexact) inexact) ∧
    (∀ b, AtPort s g o → clean_ → imageAt b → o.units = imageWords g b ++ imageWords g a → o.act = .xacc .merge →
      stands 20 (sum old (image b) (image b / 2 ^ 64))) ∧
    ∀ x j rest, o.act = .xacc x → o.units = imageWords g a → s.hasPkg g.pkg = true → s.opOf g o.id = some o →
      o.performed = false → o.waiting = false → o.orphan = false → o.num = none → o.fault = none →
      (s.cellAt g.pkg g.cell).port = j :: rest → j.slot = g.slot → j.op = o.id → j.left = List.range 10 →
      ¬ clean (s.cellAt g.pkg g.cell).spadPoison a.toNat 80 →
        let u := servePort s g.pkg g.cell
        SameMemory s u ∧ ((s.slotAt g).mode = .run → (s.slotAt g).dying = false → (s.slotAt g).lateFault = false →
          (s.slotAt g).lastOp = some o.id →
          (u.slotAt g).mode = .trapped ∧ (u.slotAt g).fkind = Kind.ecc.code ∧ (u.slotAt g).place = (o.head, o.pos, o.loops))

/-- R159 to R164, R105 to R107, R316: THE EXACT SUMS: their issue, and what they have done when the port has performed them. -/
def Obligations.ExactSumResults : Prop := ExactSumIssue ∧ ExactSumEnds

/-! ## Channels -/

/-- A channel's publisher changed, in the package of a slot. -/
def Sys2Proof.Claims.withPublisher (s : State) (p : PkgId) (c : BitVec 12) (w : Option GRef) : State :=
  s.mapPkg p fun k => { k with chans := Table.put k.chans c.toNat { Table.get {} k.chans c.toNat with publisher := w } }

/-- R242: the cycle at which slot `h` executes what slot `g` issues at cycle `t`. -/
def Sys2Proof.Claims.reachesAt (t : Nat) (g h : GRef) : Nat :=
  t + 16 * (if cellX g.cell / 32 = cellX h.cell / 32 ∧ cellY g.cell / 16 = cellY h.cell / 16 then 2 else 3) +
    (h.slot.toNat + 16 - g.slot.toNat) % 16

/-- R238 to R241, R247, R248: the channel instructions. PUBLISH sets out for the registry and the slot goes on with its
answer; UNPUBLISH frees the channel and sends the end mark to every subscriber; SUBSCRIBE and REJOIN park a joiner; DEPART
leaves the channel for a target when its condition holds, and does nothing in a slot that is not SUBSCRIBED; CHSTAT asks the
hub, which answers with the publisher and the numbers of slots that are subscribed or parked to join. A refused one traps CHANNEL
with its code. -/
def Obligations.ChannelInstructions : Prop :=
  ∀ (s : State) (a : SReg),
    let w := ((here s).sreg a).toNat
    let c : BitVec 12 := BitVec.ofNat 12 w
    let m : BitVec 8 := BitVec.ofNat 8 (w / 2 ^ 16)
    let bad := w / 2 ^ 12 % 2 ^ 4 ≠ 0 ∨ 2 ^ 24 ≤ w
    let code (i : Instr) (n : Nat) : Prop := Traps i s { kind := .channel, aux := BitVec.ofNat 64 n }
    let o : Opnds := { srcs := [.s a], tb := some (.s a) }
    (ready s { o with pub := false } = true →
      ((here s).publishing ≠ none → code (.publish a) 2) ∧
      ((here s).publishing = none → bad → code (.publish a) 3) ∧
      ((here s).publishing = none → ¬ bad → ∃ t, exec (.publish a) s = .next t ∧
        Agree s.cur (withHere s fun t => { t with registering := some c }) t ∧ (t.slotAt s.cur).place = (here s).place ∧
        (t.slotAt s.cur).waitNext = some (s.nextPlace s.cur 1))) ∧
    (ready s { pub := false } = true →
      ((here s).publishing = none → code .unpublish 4) ∧
      ∀ c, (here s).publishing = some c → ∃ t, exec .unpublish s = .next t ∧
        Agree s.cur (withPublisher (withHere s fun t => { t with publishing := none }) s.cur.pkg c none) t ∧
        (t.slotAt s.cur).place = s.nextPlace s.cur 1 ∧
        ∀ h : GRef, h.pkg = s.cur.pkg → (s.slotAt h).subscribed = some c → s.cycleAt s.cur.pkg % 16 = s.cur.slot.toNat →
          ∃ e : Published, (t.slotAt h).inbox = (s.slotAt h).inbox ++ [e] ∧ e.chan = c ∧
            e.due = reachesAt (s.cycleAt s.cur.pkg) s.cur h ∧
            e.item = .endMark (s.nextPlace s.cur 1).1 (s.nextPlace s.cur 1).2.1 (s.nextPlace s.cur 1).2.2) ∧
    (ready s o = true →
      ((here s).publishing ≠ none → code (.subscribe a) 2 ∧ code (.rejoin a) 2) ∧
      ((here s).publishing = none → bad → code (.subscribe a) 3 ∧ code (.rejoin a) 3) ∧
      ((here s).publishing = none → ¬ bad → goesOn (.subscribe a) s s 1 (some (.join c 0)) ∧
        (m = 0 → code (.rejoin a) 3) ∧ (m ≠ 0 → goesOn (.rejoin a) s s 1 (some (.join c m))))) ∧
    (∀ d : SReg, ready s { o with dsts := [.s d] } = true →
      (bad → code (.chstat d a) 3) ∧
      (¬ bad → (here s).unperformed < 16 → Sends (.chstat d a) s (.query (.channel c)) (.scalar d) false)) ∧
    (∀ (g : GRef) (op : Nat) (o : Op) (c : BitVec 12) (r : SReg), s.hasPkg g.pkg = true → s.opOf g op = some o →
      o.act = .query (.channel c) → o.posted = false → o.performed = false → o.held = false → o.shadow = false → o.num = none →
      o.orphan = false → o.fault = none → (s.slotAt g).lateFault = false → o.dst = .scalar r → r ≠ 0 →
        let slots := (s.pkgAt g.pkg).allSlots g.pkg
        let joins (t : Slot) : Bool := match t.wait with
          | some { what := .join x _, .. } => decide (x = c)
          | _ => false
        ∃ u v, exec (.producerValueWrite g op) s = .next v ∧
          u = (match (Table.get ({} : Chan) (s.pkgAt g.pkg).chans c.toNat).publisher with
            | some w => 2 ^ 63 + (w.slot.toNat + 16 * w.cell.toNat) * 2 ^ 44
            | none => 0) ∧
          (v.slotAt g).sreg r = BitVec.ofNat 64 (u + (slots.countP fun e => decide (e.2.subscribed = some c)) * 2 ^ 24 +
            slots.countP fun e => joins e.2)) ∧
    ∀ (k : Cond) (i : BitVec 7),
      ((here s).mode ≠ .subscribed → ready s {} = true → Completes (.depart k a i) s s 1) ∧
      ((here s).mode = .subscribed → ready s (if k = .any ∨ k = .none ∨ k = .all then {} else o) = true →
        let target := (here s).head + BitVec.ofInt 64 (4 * i.toInt)
        (¬ branches (here s) k ((here s).sreg a) → Completes (.depart k a i) s s 1) ∧
        (branches (here s) k ((here s).sreg a) → ∀ x, codeAt s target x → CompletesAt (.depart k a i) s
          (withHere s fun t => { t with refill := none, mode := .run, subscribed := none }) (target, 0, (here s).loops)))

/-- R239 to R246: what happens on a channel. The first PUBLISH at the registry becomes the publisher, of two in one cycle that of
the lower slot; one for a channel that has a publisher traps. A published instruction makes a joiner a subscriber and reaches a
subscriber that is free for it; one that waits on a register loses it and traps. The end mark and the publisher's stop end a
subscription, and a join wait ends at its bound. What the instruction that stops had taken is full again (R67). -/
def Obligations.ChannelEvents : Prop :=
  ∀ (s : State) (g : GRef), s.hasPkg g.pkg = true →
    let t := s.slotAt g
    let now := s.cycleAt g.pkg
    let traps (i : Instr) (aux : Nat) (at_ : Word × Nat × LoopStack) : Prop :=
      ∃ u, exec i s = .next u ∧ (u.slotAt g).mode = .trapped ∧ (u.slotAt g).fkind = 0x0D ∧ (u.slotAt g).place = at_ ∧
        (u.slotAt g).subscribed = none ∧ SameMemory s u ∧
        (∀ q, (u.slotAt g).fe q = if q ∈ t.took ∧ t.fe q = .taken then .full else t.fe q) ∧
        ∃ r : Record, r.kind = 0x0D ∧ r.aux = BitVec.ofNat 64 aux ∧
          (u.pkgAt g.pkg).waiting = (s.pkgAt g.pkg).waiting ++
            [{ ring := s.ringOf g, cell := g.cell, slot := some g.slot, ctx := none, record := r }]
    (∀ c, t.registering = some c →
      let chan := Table.get ({} : Chan) (s.pkgAt g.pkg).chans c.toNat
      let owner := chan.publisher
      let number (h : GRef) : Nat := h.slot.toNat + 16 * h.cell.toNat
      (owner = none → ∃ u, exec (.channelRegistry g) s = .next u ∧ (u.slotAt g).publishing = some c ∧
        (u.slotAt g).registering = none ∧ (Table.get ({} : Chan) (u.pkgAt g.pkg).chans c.toNat).publisher = some g ∧
        ∀ n, t.waitNext = some n → (u.slotAt g).place = n) ∧
      ∀ w, owner = some w →
        (chan.since = now → number g < number w → exec (.channelRegistry g) s = .next s) ∧
        (chan.since ≠ now ∨ number w ≤ number g → t.publishing = none → traps (.channelRegistry g) 1 t.place)) ∧
    let waits := (∃ r n, t.wait = some { what := .reg r, since := n }) ∧ t.publishing = none ∧ t.hold = none ∧
      ∀ o ∈ t.ops, ∀ x, o.act ≠ .xacc x
    (∀ e rest, t.inbox = e :: rest → e.due ≤ now →
      (∀ w k head pos cl start h p l, e.item = .instr w k head pos cl start h p l →
        ((∃ m n, t.wait = some { what := .join e.chan m, since := n }) → t.mode = .parked →
          ∃ u, exec (.publishedInstruction g) s = .next u ∧ (u.slotAt g).mode = .subscribed ∧
            (u.slotAt g).subscribed = some e.chan ∧ (u.slotAt g).wait = none ∧ (u.slotAt g).joinPoint = none ∧
            (u.slotAt g).loops = start ∧
            (u.slotAt g).pendingPub = some e ∧ (u.slotAt g).clause = some cl ∧ (u.slotAt g).pos = pos ∧
            (u.slotAt g).nest = t.nest) ∧
        (t.mode = .subscribed → (s.cellAt g.pkg g.cell).mma = [] →
          (t.pendingPub = none → t.wait = none → t.hold = none → ∃ u, exec (.publishedInstruction g) s = .next u ∧
            (u.slotAt g).pendingPub = some e ∧ (u.slotAt g).clause = some cl ∧ (u.slotAt g).pos = pos ∧
            (u.slotAt g).inbox = rest ∧ (u.slotAt g).loops = t.loops) ∧
          (waits → traps (.publishedInstruction g) 6 t.place))) ∧
      (∀ head pos l, e.item = .endMark head pos l → t.mode = .subscribed →
        ∃ u, exec (.endMark g) s = .next u ∧ (u.slotAt g).subscribed = none ∧
          (t.pendingPub = none → (u.slotAt g).mode = .run ∧ (u.slotAt g).place = (head, pos, l) ∧
            (t.hold = none → (u.slotAt g).hold = some { why := .leave, till := now + 1 })) ∧
          (∀ i w k h p cl st a b c, t.pendingPub = some i → i.item = .instr w k h p cl st a b c →
            (u.slotAt g).mode = (if t.wait = none then .run else .parked) ∧ (u.slotAt g).place = t.place ∧
            u.nextPlace g 1 = (head, pos, l))) ∧
      (∀ kind who head pos, e.item = .stop kind who head pos → t.mode = .subscribed → t.publishing = none →
        let code := 5 + kind.toNat * 2 ^ 8 + who.toNat * 2 ^ 16
        (t.pendingPub = none → traps (.channelStop g) code (head, pos, t.loops)) ∧
        (t.pendingPub ≠ none → (s.cellAt g.pkg g.cell).mma = [] → waits → traps (.channelStop g) code t.place))) ∧
    ∀ c m n, t.wait = some { what := .join c m, since := n } → t.feWait ≠ 0 → now = n + 16 * t.feWait.toNat →
      ∃ u r, exec (.joinWaitExpiry g) s = .next u ∧ (u.slotAt g).mode = .trapped ∧ (u.slotAt g).fkind = Kind.waitlimit.code ∧
        r.kind = Kind.waitlimit.code ∧
        (u.pkgAt g.pkg).waiting = (s.pkgAt g.pkg).waiting ++
          [{ ring := s.ringOf g, cell := g.cell, slot := some g.slot, ctx := none, record := r }] ∧
        (∀ q, (u.slotAt g).fe q = if q ∈ t.took ∧ t.fe q = .taken then .full else t.fe q) ∧
        (t.joinPoint = none → r.aux = 0x400) ∧
        ∀ x y, t.joinPoint = some (x, y) → r.pc = 0 ∧ r.aux = BitVec.ofNat 64 (0x400 + x.toNat * 2 ^ 16 + y.toNat * 2 ^ 32)

/-! ## Records -/

/-- The instruction has issued with one more operation of the slot, which asks the Shawm, and the slot goes on only with the
answer (R256, R257). -/
def Sys2Proof.Claims.Engages (i : Instr) (s : State) (act : Act) (got : List (Nat × Word)) : Prop :=
  ∃ (o : Op) (t : State), o.id = (here s).nextOp ∧ o.act = act ∧ o.got = got ∧ o.performed = false ∧ exec i s = .next t ∧
    Agree s.cur (withHere s fun t => { t with ops := t.ops ++ [o], nextOp := t.nextOp + 1 }) t ∧
    (t.slotAt s.cur).place = (here s).place ∧ (t.slotAt s.cur).waitNext = some (s.nextPlace s.cur 1)

/-- R250 to R258: the record instructions: what each asks the Shawm for, from the active lanes; with no active lane nothing
is sent. RCOMMIT is a release, and so is RDONE, which waits for the slot's loads too; RDEPTH reads the node's depths at once. -/
def Obligations.RecordInstructions : Prop :=
  ∀ (s : State) (n : SReg), unpaired (here s) → (here s).unperformed < 16 →
    let w := ((here s).sreg n).toNat
    let x : BitVec 6 := BitVec.ofNat 6 (w / 2 ^ 12)
    let i : BitVec 12 := BitVec.ofNat 12 w
    (∀ d : VRegNo,
      let p : Opnds := { srcs := [.v d, .s n], dsts := [.v d, .v (d + 1)], named := [d, d + 1], whole := [d, d + 1]
                         beyond := d == 127, ta := some (.v d), tb := some (.s n) }
      let asks := (activeLanes s).map fun l => (l, BitVec.ofNat 64 ((lane (s.vregAt s.cur d) l).toNat % 2 ^ 16))
      let sent (wait : Bool) (t : Bool) (j : Instr) : Prop := ∃ o : Op, o.id = (here s).nextOp ∧
        o.act = .record (.alloc x i t wait) ∧ o.dst = .vpair d ∧ o.got = asks ∧ o.performed = false ∧
        goesOn j s (withHere s fun t => { (t.setFe (.v d) .pending).setFe (.v (d + 1)) .pending with
          ops := t.ops ++ [o], nextOp := t.nextOp + 1 }) 1 (if wait then some (.rallocw o.id) else none)
      (ready s p = true → ∀ t : Bool,
        (activeLanes s = [] → Completes (.ralloc d n t) s s 1 ∧ Completes (.rallocw d n t) s s 1) ∧
        (activeLanes s ≠ [] → sent false t (.ralloc d n t) ∧ sent true t (.rallocw d n t))) ∧
      (ready s { p with srcs := [.v d, .v (d + 1), .s n], dsts := [] } = true → released s false → ∀ v : Bool,
        (activeLanes s = [] → Completes (.rcommit d n v) s s 1) ∧
        (activeLanes s ≠ [] → Engages (.rcommit d n v) s (.record (.commit x i v)) ((activeLanes s).map fun l =>
          (l, BitVec.ofNat 64 ((lane (s.vregAt s.cur d) l).toNat + (lane (s.vregAt s.cur (d + 1)) l).toNat * 2 ^ 32)))))) ∧
    (ready s {} = true → released s false → (∀ o ∈ (here s).ops, o.orphan = false → ∀ g, o.act ≠ .load g) →
      ((here s).member = none ∨ activeLanes s = [] → Completes .rdone s s 1) ∧
      ((here s).member ≠ none → activeLanes s ≠ [] → Engages .rdone s (.record .done) [])) ∧
    ∀ d : SReg, ready s { srcs := [.s n], dsts := [.s d], tb := some (.s n) } = true →
      (∀ k : BitVec 7, Sends (.rinfo d n k) s (.query (.node x i k)) (.scalar d) false) ∧
      gives s d (.rdepth d n) (BitVec.ofNat 64 (match (pack s).nodeAt x i with
        | none => 2 ^ 25
        | some e =>
          let new := (here s).depth.toNat + 1
          new + e.maxDepth * 2 ^ 16 + if e.maxDepth < new then 2 ^ 24 else 0))

/-- R253, R254, R256, R257: what the Shawm does with an operation of a slot. A lane of an allocation is served when its
request and those before it fit into the free records; every other lane gets FULL, all get DEPTH or NONODE where those
apply. A RALLOCW that does not fit waits, is served in order, and traps at its bound. RCOMMIT changes the records that it
names, or none; RDONE retires those of its lanes. -/
def Obligations.RecordEvents : Prop :=
  ∀ (s : State) (g : GRef) (op : Nat) (o : Op), s.hasPkg g.pkg = true → s.opOf g op = some o →
    let t := s.slotAt g
    let k := s.pkgAt g.pkg
    let answer (off n status : Nat) : Word := BitVec.ofNat 64 (off + status * 2 ^ 32 + n * 2 ^ 48)
    let lanes := o.got.map fun e => (e.1, e.2.toNat)
    let sum := (lanes.map (·.2)).sum
    let before (j : Nat) : Nat := ((lanes.take j).map (·.2)).sum
    let ends (f : State → Op → Prop) : Prop := ∃ u o', exec (.shawmRecordOperation g op) s = .next u ∧
      u.opOf g op = some o' ∧ o'.performed = true ∧ f u o'
    (∀ x n trap wait, o.live = true → o.act = .record (.alloc x n trap wait) → o.fault = none →
      let all (status : Nat) : Prop := ends fun u o' => o'.fault = none ∧ SameMemory s u ∧
        o'.got = lanes.map fun e => (e.1, answer 0 e.2 status)
      (k.nodeAt x n = none → all 3) ∧
      ∀ d, k.nodeAt x n = some d →
        let new := t.depth.toNat + 1
        let serves (free : Nat) : Prop := ends fun u o' => o'.fault = none ∧
          (o'.got = lanes.zipIdx.map fun e =>
            if before e.2 + e.1.2 ≤ free then (e.1.1, answer ((d.alloc.toNat + before e.2) % d.qcap * d.recSize) e.1.2 0)
            else (e.1.1, answer 0 e.1.2 1)) ∧
          ∃ d', (u.pkgAt g.pkg).nodeAt x n = some d' ∧ d'.desc = d.desc ∧ d'.alloc = d.alloc + BitVec.ofNat 32
            ((lanes.zipIdx.filter fun e => decide (before e.2 + e.1.2 ≤ free)).map (·.1.2)).sum
        let fails (f : FaultInfo) : Prop := ends fun u o' => o'.fault = some f ∧ SameMemory s u
        let may := t.member = none ∨
          ∃ m own, t.member = some m ∧ m.graph = x ∧ k.nodeAt m.graph m.node = some own ∧ own.rank < d.rank
        (d.maxDepth < new → trap = false → all 2) ∧
        (d.maxDepth < new → trap = true → fails { kind := .recdepth, aux := BitVec.ofNat 64 (new + d.maxDepth * 2 ^ 16) }) ∧
        (new ≤ d.maxDepth →
          (wait = false → serves (if d.waiters = [] then d.free else 0)) ∧
          (wait = true → ¬ may → fails { kind := .recwait, aux := 1 }) ∧
          (wait = true → may → d.qcap < sum → fails { kind := .recwait, aux := 2 }) ∧
          (wait = true → may → sum ≤ d.qcap → d.waiters = [] → sum ≤ d.free → serves d.free) ∧
          (wait = true → may → sum ≤ d.qcap → d.waiters ≠ [] ∨ d.free < sum →
            ∃ u d' o', exec (.shawmRecordOperation g op) s = .next u ∧ SameMemory s u ∧ u.opOf g op = some o' ∧
              o'.waiting = true ∧ o'.performed = false ∧ (u.pkgAt g.pkg).nodeAt x n = some d' ∧
              d' = { d with waiters := d.waiters ++ [(g, op)] }))) ∧
    (∀ x n void, o.live = true → o.act = .record (.commit x n void) → o.fault = none →
      (k.nodeAt x n = none → ends fun u o' => o'.fault = none ∧ SameMemory s u) ∧
      ∀ d, k.nodeAt x n = some d →
        let named (q : QRec) : Prop := ∃ e ∈ o.got, some q ∈ laneRecords d e.2
        ((∀ e ∈ o.got, ∀ r ∈ laneRecords d e.2, ∃ q, r = some q ∧ q.mode = .uncommitted ∧ q.owner = some g) →
          ends fun u o' => o'.fault = none ∧ ∃ d', (u.pkgAt g.pkg).nodeAt x n = some d' ∧ ∀ q, named q →
            (∀ r ∈ d'.recs, r.seq = q.seq → r.mode = if void then .void else .committed) ∧
            (void = false → ∃ r ∈ d'.recs, r.seq = q.seq)) ∧
        (∀ e ∈ o.got, none ∈ laneRecords d e.2 → ends fun u o' => SameMemory s u ∧
          (u.pkgAt g.pkg).nodeAt x n = some d ∧ ∃ f, o'.fault = some f ∧ f.kind = .illegal ∧ f.aux.toNat % 2 ^ 8 = 7)) ∧
    (∀ m, o.live = true → o.act = .record .done → o.fault = none → t.member = some m → ∀ d, k.nodeAt m.graph m.node = some d →
      ends fun u o' => o'.fault = none ∧ ∃ d', (u.pkgAt g.pkg).nodeAt m.graph m.node = some d' ∧
        ∀ r ∈ d'.recs, ∀ j, m.recs[j]? = some r.seq → o.mask.getLsbD j = true → r.delivered = true → r.mode ≠ .committed) ∧
    (∀ since x n trap d rest, t.wait = some { what := .rallocw op, since := since } → o.act = .record (.alloc x n trap true) →
      k.nodeAt x n = some d →
      (d.waiters = (g, op) :: rest → sum ≤ d.free → o.fault = none → ∃ u o', exec (.rallocwServed g) s = .next u ∧
        u.opOf g op = some o' ∧ o'.performed = true ∧ o'.fault = none) ∧
      (o.performed = false → t.feWait ≠ 0 → s.cycleAt g.pkg = since + 16 * t.feWait.toNat → t.lateFault = false →
        t.dying = false →
        t.mode = .parked ∨ t.mode = .subscribed → ∃ u r, exec (.rallocwWaitExpiry g) s = .next u ∧
          (u.slotAt g).mode = .trapped ∧ (u.slotAt g).fkind = Kind.waitlimit.code ∧
          (u.slotAt g).place = (o.head, o.pos, o.loops) ∧ r.aux = 0x800 ∧
          (u.pkgAt g.pkg).waiting = (s.pkgAt g.pkg).waiting ++
            [{ ring := s.ringOf g, cell := g.cell, slot := some g.slot, ctx := none, record := r }])) ∧
    ∀ x n, (k.nodeAt x n = none → ∀ j, queryValue s g (.node x n j) = BitVec.allOnes 64) ∧
      ∀ d, k.nodeAt x n = some d → queryValue s g (.node x n 8) = BitVec.ofNat 64 d.alloc.toNat ∧
        queryValue s g (.node x n 9) = BitVec.ofNat 64 d.retire.toNat ∧
        ∀ j : BitVec 7, j.toNat < 8 → queryValue s g (.node x n j) = d.desc.getD j.toNat 0

/-! ## Slots -/

/-- R261 to R265: SLOTSTART, once what a release waits for has been acknowledged, makes its checks in order and puts its target
in RUN at the entry, or parks it as a joiner, with the window given and the state of R45: %PID and %PRIV are the starter's where
INH is set, else those of the partition, whose SUPER slot alone is privileged (R14); SLOTREAP answers with the state word, and
makes an EXITED slot of no group IDLE; SLOTEXIT waits for producers and output streams, and ends the slot, the channel of a
publisher with it; REGCLAIM and REGYIELD move the top of the window. The last clauses are the lead-slot check. -/
def Obligations.SlotInstructions : Prop :=
  ∀ (s : State) (d a b : SReg),
    let v := (here s).sreg b
    let zeroed (m m' : Table VReg) (lo n : Nat) : Prop :=
      ∀ q, Table.get VReg.zero m' q = if lo ≤ q ∧ q < lo + n then VReg.zero else Table.get VReg.zero m q
    (let w := ((here s).sreg a).toNat
     let join := w.testBit 33
     let k : SlotId := BitVec.ofNat 4 w
     let x := (home s).slotAt k
     let base := w / 2 ^ 8 % 2 ^ 11
     let lim := w / 2 ^ 24 % 2 ^ 8
     let checks : List (Nat × Bool) := [
       (1, x.mode != .idle || (pack s).isReserved s.cur.cell k),
       (2, decide (lim < 8) || decide (128 < lim) || lim % 8 != 0 || base % 8 != 0 || decide (2048 < base + lim)),
       (3, !(pack s).windowFree s.cur.cell none base lim),
       (4, w / 2 ^ 60 != 0 || w / 2 ^ 34 % 2 ^ 6 != 0 || w / 2 ^ 19 % 2 ^ 5 != 0 || w / 2 ^ 4 % 2 ^ 4 != 0 ||
         (join && w / 2 ^ 40 % 2 ^ 8 == 0)),
       (5, !join && v.toNat % 4 != 0)]
     ready s (if join then { Opnds.a a with needs := .lead } else { Opnds.ab a b with needs := .lead }) = true →
     released s false →
       match checks.find? (·.2) with
       | some e => Traps (.slotstart a b) s { kind := .illegal, aux := BitVec.ofNat 64 (e.1 + k.toNat * 2 ^ 8) }
       | none => ∃ (m : Table VReg) (p : NumSet),
           zeroed (home s).vregs m base lim ∧
           Completes (.slotstart a b) s ((withHome s fun t => { t with vregs := m, vPoison := p }).mapSlot
             { s.cur with slot := k } fun x =>
               let t : Slot := { ops := x.ops, nextOp := x.nextOp, parityOut := x.parityOut, ctl := x.ctl
                                 regBase := BitVec.ofNat 11 base, regLim := BitVec.ofNat 8 lim
                                 pid := if w.testBit 32 then (here s).pid
                                   else (((pack s).partOf s.cur.cell).map (·.2.pid)).getD 0
                                 priv := if w.testBit 32 then (here s).priv else s.isSuper { s.cur with slot := k } }
               if join then
                 let j : BitVec 12 × BitVec 8 := (BitVec.ofNat 12 (w / 2 ^ 48), BitVec.ofNat 8 (w / 2 ^ 40))
                 { t with mode := .parked, joinPoint := some j
                          wait := some { what := .join j.1 j.2, since := s.cycleAt s.cur.pkg } }
               else { t with mode := .run, head := v
                             hold := some { why := .start, till := s.cycleAt s.cur.pkg + 16 } }) 1) ∧
    (ready s { srcs := [.s b], dsts := [.s d], tb := some (.s b), needs := .lead } = true →
      let g : GRef := { s.cur with slot := BitVec.ofNat 4 v.toNat }
      let x := s.slotAt g
      let word := BitVec.ofNat 64 (x.mode.code + x.fkind.toNat * 2 ^ 8 +
        if x.mode = .spilled then 0 else x.regBase.toNat * 2 ^ 16 + x.regLim.toNat * 2 ^ 32)
      (x.mode ≠ .exited ∨ x.member ≠ none → gives s d (.slotreap d b) word) ∧
      (x.mode = .exited → x.member = none → ∃ o c : Table Word, Completes (.slotreap d b) s
          (((withHome s fun t => { t with obres := o, bsres := c }).mapSlot g fun t =>
            { t with mode := .idle, regBase := 0, regLim := 0, fkind := 0 }).setS s.cur d word) 1 ∧
        (∀ e ∈ o ++ c, e.2.toNat / 2 ^ 56 % 2 ^ 4 ≠ g.slot.toNat) ∧
        (∀ e ∈ (home s).obres, e.2.toNat / 2 ^ 56 % 2 ^ 4 ≠ g.slot.toNat → e ∈ o) ∧
        ∀ e ∈ (home s).bsres, e.2.toNat / 2 ^ 56 % 2 ^ 4 ≠ g.slot.toNat → e ∈ c)) ∧
    (ready s {} = true →
      let outputs := (here s).binds.filter fun e => (streamOf s e.2.toNat).output
      let producing := ∃ o ∈ (here s).ops, o.posted = false ∧ o.orphan = false
      ((∃ e ∈ outputs, (streamOf s e.2.toNat).mode = .error) → ∃ t, exec .slotexit s = .next t ∧
        (t.slotAt s.cur).mode = .trapped ∧ (t.slotAt s.cur).fkind = Kind.streamerr.code) ∧
      ((∀ e ∈ outputs, (streamOf s e.2.toNat).mode ≠ .error) →
        (producing ∨ (∃ e ∈ outputs, (streamOf s e.2.toNat).queue ≠ []) → ∃ t x, exec .slotexit s = .next t ∧
          Agree s.cur (withHere s fun t => { t with exitSent := x }) t ∧ (t.slotAt s.cur).place = (here s).place) ∧
        (¬ producing → (∀ e ∈ outputs, (streamOf s e.2.toNat).queue = []) → ∃ t, exec .slotexit s = .next t ∧
          let x := t.slotAt s.cur
          x.mode = .exited ∧ x.binds = [] ∧ x.publishing = none ∧ x.subscribed = none ∧ x.regBase = (here s).regBase ∧
          x.regLim = (here s).regLim ∧ (∀ r, x.sreg r = (here s).sreg r) ∧ x.member = (here s).member ∧
          (t.cellAt s.cur.pkg s.cur.cell).obres = (home s).obres ∧ (t.cellAt s.cur.pkg s.cur.cell).bsres = (home s).bsres ∧
          (∀ e ∈ (t.cellAt s.cur.pkg s.cur.cell).streams, e.2.mode = .free ∨ e.2.owner ≠ s.cur.slot) ∧
          ∀ c, (here s).publishing = some c →
            (Table.get ({} : Chan) (t.pkgAt s.cur.pkg).chans c.toNat).publisher = none))) ∧
    (ready s { srcs := [.s b], dsts := [.s d], tb := some (.s b) } = true →
      let n := v.toNat
      let lim := (here s).regLim.toNat
      let base := (here s).regBase.toNat
      let good := n % 8 = 0 ∧ n ≤ 120
      let code (i : Instr) : Prop := Traps i s { kind := .illegal, aux := 8 }
      (¬ good → code (.regclaim d b) ∧ code (.regyield d b)) ∧
      (good →
        let may := lim + n ≤ 128 ∧ base + lim + n ≤ 2048 ∧
          (n ≠ 0 → (pack s).windowFree s.cur.cell (some s.cur.slot) (base + lim) n = true)
        (¬ may → gives s d (.regclaim d b) (BitVec.ofNat 64 lim)) ∧
        (may → ∃ (m : Table VReg) (p : NumSet) (fe : Table RegFe) (tr : NumSet), zeroed (home s).vregs m (base + lim) n ∧
          (∀ q, lim ≤ q → Table.get .full fe q = .full ∧ NumSet.has tr q = false) ∧
          (∀ q, q < lim → Table.get .full fe q = Table.get .full (here s).vFe q ∧
            NumSet.has tr q = NumSet.has (here s).vTrap q) ∧
          Completes (.regclaim d b) s ((withHere (withHome s fun t => { t with vregs := m, vPoison := p }) fun t =>
            { t with regLim := BitVec.ofNat 8 (lim + n), vFe := fe, vTrap := tr }).setS s.cur d (BitVec.ofNat 64 (lim + n))) 1) ∧
        (lim < n + 8 → code (.regyield d b)) ∧
        (n + 8 ≤ lim → (∃ e ∈ (here s).binds, lim - n ≤ e.1 ∧ e.1 < lim) → Traps (.regyield d b) s { kind := .streamerr }) ∧
        (n + 8 ≤ lim → (∀ e ∈ (here s).binds, e.1 < lim - n ∨ lim ≤ e.1) →
          (∀ e ∈ (here s).vFe, lim - n ≤ e.1 → e.1 < lim → e.2 ≠ .pending) →
          ∃ (m : Table VReg) (p : NumSet) (fe : Table RegFe) (tr : NumSet), zeroed (home s).vregs m (base + lim - n) n ∧
            (∀ q, lim - n ≤ q → Table.get .full fe q = .full ∧ NumSet.has tr q = false) ∧
            (∀ q, q < lim - n → Table.get .full fe q = Table.get .full (here s).vFe q ∧
              NumSet.has tr q = NumSet.has (here s).vTrap q) ∧
            Completes (.regyield d b) s ((withHere (withHome s fun t => { t with vregs := m, vPoison := p }) fun t =>
              { t with regLim := BitVec.ofNat 8 (lim - n), vFe := fe, vTrap := tr }).setS s.cur d
                (BitVec.ofNat 64 (lim - n))) 1))) ∧
    (s.hasPkg s.cur.pkg = true → s.cur.slot ≠ 0 →
      Traps (.slotstart a b) s { kind := .priv } ∧ Traps (.slotreap d b) s { kind := .priv })

/-! ## Supervisors -/

/-- R266: a target word with no reserved bit set, of a slot of this domain whose cell lies in a partition that the slot at
hand supervises, for which no spill or restore is under way, and whose package can be reached (R386, R388). -/
def Sys2Proof.Claims.aims (s : State) (w : Word) : Prop :=
  w.toNat / 2 ^ 36 % 2 ^ 4 = 0 ∧ w.toNat / 2 ^ 47 % 2 = 0 ∧ w.toNat / 2 ^ 53 = 0 ∧
  w.toNat / 2 ^ 28 % 2 ^ 8 = (pack s).domain.toNat ∧ s.supervises s.cur (GRef.ofWord w) = true ∧
  s.ctlBusy (GRef.ofWord w) = false ∧ s.shut s.cur.pkg (GRef.ofWord w).pkg = false ∧
  s.linked s.cur.pkg (GRef.ofWord w).pkg = true

/-- R29, R32: a special register of a slot that software may write, set to a value without its reserved bits. -/
def Sys2Proof.Claims.withSpecial (r : SpecReg) (v : Word) (t : Slot) : Slot :=
  match r with
  | .fpmode => { t with rm := BitVec.ofNat 2 v.toNat }
  | .fpflags => { t with fpFlags := BitVec.ofNat 5 v.toNat }
  | .rngkey => { t with rngKey := v }
  | .rngctr => { t with rngCtr := v }
  | .stat => { t with statDz := v.getLsbD 0, statRw := v.getLsbD 1 }
  | .fewait => { t with feWait := BitVec.ofNat 32 v.toNat }
  | .cvtsrc => { t with cvtSrc := BitVec.ofNat 7 v.toNat }
  | .pid => { t with pid := BitVec.ofNat 16 v.toNat }
  | _ => t

/-- R28: the special registers that software may write. -/
abbrev Sys2Proof.Claims.writable : List SpecReg := [.fpmode, .fpflags, .rngkey, .rngctr, .stat, .fewait, .cvtsrc, .pid]

/-- R267: what some context items read as. -/
def Sys2Proof.Claims.itemReads (t : Slot) (i : Nat) (x : Word) : Prop :=
  (i = 0 → x = t.head + BitVec.ofNat 64 (4 * t.pos)) ∧
  (i = 1 → t.pos < 16 → x = BitVec.ofNat 64 (t.pos + t.mmaStep.toNat * 2 ^ 4 + (if t.wakePending then 2 ^ 9 else 0) +
    match t.joinPoint with | some (c, m) => 2 ^ 10 + m.toNat * 2 ^ 16 + c.toNat * 2 ^ 24 | none => 0)) ∧
  (2 ≤ i → i < 6 → ∀ k < 8, x.toNat / 2 ^ (6 * k) % 2 ^ 6 = (t.count (8 * (i - 2) + k)).toNat) ∧
  (i = 6 → ∀ r < 32, (r ≠ 0 → (x.getLsbD r = true ↔ t.fe (.s (BitVec.ofNat 5 r)) = .full)) ∧
    x.getLsbD (32 + r) = NumSet.has t.sTrap r) ∧
  (i = 7 ∨ i = 8 → ∀ r < 64, (x.getLsbD r = true ↔ t.fe (.v (BitVec.ofNat 7 (64 * (i - 7) + r))) = .full)) ∧
  (i = 9 ∨ i = 10 → ∀ r < 64, x.getLsbD r = NumSet.has t.vTrap (64 * (i - 9) + r)) ∧
  (11 ≤ i → i < 27 →
    let e := t.loops.entries.getD ((i - 11) / 4) {}
    x = match (i - 11) % 4 with | 0 => e.start | 1 => e.last | 2 => e.after | _ => e.remaining) ∧
  (i = 27 → x = BitVec.ofNat 64 t.loops.depth) ∧
  (28 ≤ i → x = Table.get 0 t.launchRegs (i - 28))

/-- R267: a value that may not be written to a context item. -/
def Sys2Proof.Claims.badItem (i : Nat) (x : Word) : Prop :=
  39 ≤ i ∨ (i = 27 ∧ 4 < x.toNat) ∨
  (i = 1 ∧ (2 ^ 36 ≤ x.toNat ∨ x.toNat / 2 ^ 11 % 2 ^ 5 ≠ 0 ∨ (x.getLsbD 10 = true ∧ x.toNat / 2 ^ 16 % 2 ^ 8 = 0)))

/-- A slot without its context items. -/
def Sys2Proof.Claims.itemless (t : Slot) : Slot :=
  { t with head := 0, pos := 0, clause := none, mmaStep := 0, wakePending := false, joinPoint := none, nest := [], sFe := []
           sTrap := [], vFe := [], vTrap := [], loops := {}, launchRegs := [] }

/-- R267: what a write of context item `i` makes of a slot: the item reads as the value written, without the join point that a
clear bit 10 makes void; every other item reads as before, only item 0 moving the resume point, and a lower depth clearing the
entries of the loop stack that it frees; and nothing else of the slot changes. -/
def Sys2Proof.Claims.itemWritten (t u : Slot) (i : Nat) (x : Word) : Prop :=
  (i ≠ 1 → itemReads u i x) ∧
  (i = 1 → u.pos = x.toNat % 2 ^ 4 ∧ u.mmaStep = BitVec.ofNat 5 (x.toNat / 2 ^ 4) ∧ u.wakePending = x.getLsbD 9 ∧
    u.joinPoint = if x.getLsbD 10 = true then some (BitVec.ofNat 12 (x.toNat / 2 ^ 24), BitVec.ofNat 8 (x.toNat / 2 ^ 16)) else none) ∧
  (∀ j < 39, j ≠ i → (i = 27 → 11 ≤ j → j < 27 → (j - 11) / 4 < x.toNat ∨ t.loops.depth ≤ (j - 11) / 4) →
    itemReads u j (t.item j)) ∧
  (i = 27 → ∀ j < 27, 11 ≤ j → x.toNat ≤ (j - 11) / 4 → (j - 11) / 4 < t.loops.depth → itemReads u j 0) ∧ itemless u = itemless t

/-- R309: byte `off` of the save area of a slot: the process of its partition, and the address. -/
def Sys2Proof.Claims.areaAddr (s : State) (g : GRef) (off : Nat) : BitVec 16 × Word :=
  match (s.pkgAt g.pkg).partOf g.cell with
  | some (_, q) =>
    let cell := (cellY g.cell - q.field 0 8 6) * q.field 0 16 7 + (cellX g.cell - q.field 0 0 6)
    (q.pid, q.word 2 + BitVec.ofNat 64 ((16 * cell + g.slot.toNat) * 2 ^ 15) + BitVec.ofNat 64 off)
  | none => (0, BitVec.ofNat 64 off)

/-- R309: `n` bytes of a save area are found at `l` by the spill engine of the slot's cell, and nothing refuses an access there or
keeps it waiting; the state is then `u`. -/
def Sys2Proof.Claims.AreaAt (s u : State) (g : GRef) (off n : Nat) (k : Acc) (l : Loc) : Prop :=
  resolve s g.pkg g.cell (areaAddr s g off).1 (areaAddr s g off).2 n k = (u, .ok l) ∧ u.boundaryRefuses g.pkg g.cell l = false ∧
  u.refusesPlace g.pkg l = false ∧ u.hubRefuses l = false ∧ u.linked g.pkg l.pkg = true ∧ u.mendPlace l = u ∧ l.prot = false ∧
  (l.store = .hbm ∨ l.store = .ddr)
/-- The save area of a slot holds `x` in those bytes. -/
def Sys2Proof.Claims.AreaReads (s : State) (g : GRef) (off n x : Nat) (u : State) : Prop :=
  ∃ l b, AreaAt s u g off n .engRead l ∧ u.readReady l = true ∧ u.peek l n = some b ∧ x = leNat b
/-- Bytes are written into it, one piece after another. -/
def Sys2Proof.Claims.AreaWrites (g : GRef) : State → List (Nat × List Byte) → State → Prop
  | s, [], t => t = s
  | s, (off, b) :: r, t => ∃ u l, AreaAt s u g off b.length .engWrite l ∧ (u.pkgAt g.pkg).hubWrites = [] ∧
      AreaWrites g (u.poke l b) r t

/-- R309: where the save area holds a special register. -/
abbrev Sys2Proof.Claims.savedAt : List (SpecReg × Nat) :=
  [(.fpmode, 0x140), (.fpflags, 0x148), (.stat, 0x150), (.rngkey, 0x158), (.rngctr, 0x160), (.cvtsrc, 0x168), (.fewait, 0x170),
    (.pid, 0x178), (.gang, 0x1C0), (.node, 0x1C8), (.group, 0x1D0), (.reccnt, 0x1D8), (.depth, 0x1E0), (.lead, 0x1E8), (.priv, 0x1F0)]
/-- R29, R32: the number of its bits that software may write. -/
abbrev Sys2Proof.Claims.savedBits : List (SpecReg × Nat) :=
  [(.fpmode, 2), (.fpflags, 5), (.stat, 2), (.rngkey, 64), (.rngctr, 64), (.cvtsrc, 7), (.fewait, 32), (.pid, 16)]

/-- R267, R212: context item 37, FLAGS, shows its bits 7:0; every other item is shown whole. -/
def Sys2Proof.Claims.shown (i : Nat) (x : Word) : Word := if i = 37 then BitVec.ofNat 64 (x.toNat % 2 ^ 8) else x

/-- R266, R267, R309, R366, R368, R386, R388: SLOTCTL at its target. Of a TRAPPED one a read answers with what it holds, and a write
changes that alone; of a SPILLED one the same with its save area. A lane of a register that is bound to a stream has an open value,
and takes none. An item out of range, or a target that is not stopped, traps ILLEGAL with code 9. Where the target may take a fault
in this cycle still, the operation acts after it. RESUME acts at once; KILL and SPILL set out for the target in any state, and their
answer comes later. Without the privilege bit each traps PRIV, with a target outside PROT, and with one whose package is out of
reach FENCED. -/
def Sys2Proof.Claims.SlotctlResults : Prop :=
  ∀ (s : State) (v b : SReg),
    let w := (here s).sreg b
    let x := (here s).sreg v
    let g := GRef.ofWord w
    let t := s.slotAt g
    let i := w.toNat / 2 ^ 40 % 2 ^ 7
    let l := w.toNat / 2 ^ 48 % 2 ^ 5
    let rd : Opnds := { srcs := [.s b], dsts := [.s v], tb := some (.s b), needs := .super }
    let wr : Opnds := { srcs := [.s v, .s b], ta := some (.s v), tb := some (.s b), needs := .super }
    let readsFrom (u : State) (j : Instr) (y : Word) : Prop := ∃ o : Op, o.id = (here s).nextOp ∧ o.act = .value ∧
      o.dst = .scalar v ∧ o.mask = (here s).active ∧ o.posted = false ∧ o.performed = true ∧ o.fault = none ∧ o.got = [(0, y)] ∧
      o.units = [] ∧ Completes j s (issued u o 0) 1
    let reads (j : Instr) (y : Word) : Prop := readsFrom s j y
    let code9 (j : Instr) : Prop := Traps j s { kind := .illegal, aux := 9 }
    let n : VRegNo := BitVec.ofNat 7 i
    let running := t.mode = .run ∨ t.mode = .parked ∨ t.mode = .subscribed
    let sent (act : CtlAct) (a : Asker) (u : State) : State := u.mapSlot g fun t => { t with ctl := some (act, a, s.cycleAt g.pkg) }
    let arrives (j : Instr) (act : CtlAct) (now : Bool) : Prop := ∃ o : Op, o.id = (here s).nextOp ∧ o.act = .value ∧
      o.dst = .scalar v ∧ o.posted = false ∧ o.performed = false ∧ o.units = [] ∧
      let u := sent act (.slot s.cur o.id) (issued s o 0)
      Completes j s (if now then performCtl u g else u) 1
    let engages (j : Instr) (f : CtlSet) : Prop := ∃ u, exec j s = .next u ∧
      Agree s.cur (sent (.set f i l x) (.engaged s.cur) s) u ∧ (u.slotAt s.cur).place = (here s).place ∧
      (u.slotAt s.cur).waitNext = some (s.nextPlace s.cur 1)
    let area (off n : Nat) (j : Instr) (show_ : Word → Word) : Prop :=
      ∀ y u, AreaReads (fresh s) g off n y u → readsFrom u j (show_ (BitVec.ofNat 64 y))
    let vectorAt : Nat := 0x300 + 128 * ((List.range i).countP fun r => (Table.find t.binds r).isNone)
    let word := BitVec.ofNat 64 (t.mode.code + t.fkind.toNat * 2 ^ 8 +
      if t.mode = .spilled then 0 else t.regBase.toNat * 2 ^ 16 + t.regLim.toNat * 2 ^ 32)
    (ready s rd = true → aims s w → (here s).unperformed < 16 →
      (¬ running → reads (.slotctlState v b) word) ∧
      (running → arrives (.slotctlState v b) (.get .state i l) false ∧ arrives (.slotctlRdsr v b) (.get .rdsr i l) false ∧
        arrives (.slotctlRds v b) (.get .rds i l) false ∧ arrives (.slotctlRdv v b) (.get .rdv i l) false ∧
        arrives (.slotctlRdctx v b) (.get .rdctx i l) false) ∧
      (t.mode = .trapped →
        (∀ r, SpecReg.ofCode i = some r → reads (.slotctlRdsr v b) (s.readSr g r)) ∧
        (i < 32 → NumSet.has t.sPoison i = false → reads (.slotctlRds v b) (t.sreg (BitVec.ofNat 5 i))) ∧
        (i < t.regLim.toNat → Table.find t.binds i = none →
          NumSet.has (s.cellAt g.pkg g.cell).vPoison (16 * (t.regBase.toNat + i) + l / 2) = false →
          reads (.slotctlRdv v b) (BitVec.ofNat 64 (lane (s.vregAt g n) l).toNat)) ∧
        (t.regLim.toNat ≤ i → code9 (.slotctlRdv v b)) ∧
        (i < 39 → ∃ y, reads (.slotctlRdctx v b) (shown i y) ∧ itemReads t i y)) ∧
      (t.mode = .spilled →
        (∀ r off, (r, off) ∈ savedAt → SpecReg.ofCode i = some r → area off 8 (.slotctlRdsr v b) id) ∧
        (SpecReg.ofCode i = some .regbase → reads (.slotctlRdsr v b) 0) ∧
        (SpecReg.ofCode i = some .reglim → reads (.slotctlRdsr v b) (BitVec.ofNat 64 t.savedLim.toNat)) ∧
        (∀ r, SpecReg.ofCode i = some r → r ≠ .regbase → r ≠ .reglim → (∀ off, (r, off) ∉ savedAt) →
          reads (.slotctlRdsr v b) (s.readSr g r)) ∧
        (i < 32 → area (0x200 + 8 * i) 8 (.slotctlRds v b) id) ∧
        (i < t.savedLim.toNat → Table.find t.binds i = none → area (vectorAt + 4 * l) 4 (.slotctlRdv v b) id) ∧
        (t.savedLim.toNat ≤ i → code9 (.slotctlRdv v b)) ∧
        (i < 39 → area (8 * i) 8 (.slotctlRdctx v b) (shown i))) ∧
      (t.mode = .trapped ∧ i < t.regLim.toNat ∨ t.mode = .spilled ∧ i < t.savedLim.toNat → Table.find t.binds i ≠ none →
        ∃ y : Word, y.toNat < 2 ^ 32 ∧ readsFrom s.draw (.slotctlRdv v b) y) ∧
      (¬ running → (SpecReg.ofCode i = none → code9 (.slotctlRdsr v b)) ∧ (32 ≤ i → code9 (.slotctlRds v b)) ∧
        (39 ≤ i → code9 (.slotctlRdctx v b))) ∧
      (t.mode = .idle ∨ t.mode = .exited →
        code9 (.slotctlRdsr v b) ∧ code9 (.slotctlRds v b) ∧ code9 (.slotctlRdv v b) ∧ code9 (.slotctlRdctx v b)) ∧
      arrives (.slotctlResume v b) .resume true ∧ arrives (.slotctlKill v b) .kill false ∧ arrives (.slotctlSpill v b) .spill false) ∧
    (ready s wr = true → aims s w →
      let full (reg : RegRef) (first : Nat × List Byte) (item bit : Nat) (j : Instr) : Prop := ∀ u₁ y u₂ u₃,
        AreaWrites g (fresh s) [first] u₁ → AreaReads u₁ g (8 * item) 8 y u₂ →
        AreaWrites g u₂ [(8 * item, leBytes 8 (y ||| 2 ^ bit))] u₃ → reg ≠ .s 0 → Completes j s u₃ 1
      (running → engages (.slotctlWrsr v b) .wrsr ∧ engages (.slotctlWrs v b) .wrs ∧ engages (.slotctlWrv v b) .wrv ∧
        engages (.slotctlWrctx v b) .wrctx) ∧
      (t.mode = .trapped →
        (∀ r ∈ writable, SpecReg.ofCode i = some r → Completes (.slotctlWrsr v b) s (s.mapSlot g (withSpecial r x)) 1) ∧
        (i < 32 → Completes (.slotctlWrs v b) s (s.setS g (BitVec.ofNat 5 i) x) 1) ∧
        (i < t.regLim.toNat → Table.find t.binds i = none → Completes (.slotctlWrv v b) s
          (s.setLanes g n (BitVec.ofNat 32 (2 ^ l)) fun _ => BitVec.ofNat 32 x.toNat) 1) ∧
        (t.regLim.toNat ≤ i → code9 (.slotctlWrv v b)) ∧
        (¬ badItem i x → ∃ u : Slot, Completes (.slotctlWrctx v b) s (s.mapSlot g fun _ => u) 1 ∧ itemWritten t u i x)) ∧
      (t.mode = .spilled →
        (∀ r off k u, (r, off) ∈ savedAt → (r, k) ∈ savedBits → SpecReg.ofCode i = some r →
          AreaWrites g (fresh s) [(off, leBytes 8 (x.toNat % 2 ^ k))] u → Completes (.slotctlWrsr v b) s u 1) ∧
        (i = 0 → Completes (.slotctlWrs v b) s s 1) ∧
        (i < 32 → full (.s (BitVec.ofNat 5 i)) (0x200 + 8 * i, leBytes 8 x.toNat) 6 i (.slotctlWrs v b)) ∧
        (i < t.savedLim.toNat → Table.find t.binds i = none →
          full (.v n) (vectorAt + 4 * l, leBytes 4 (x.toNat % 2 ^ 32)) (7 + i / 64) (i % 64) (.slotctlWrv v b)) ∧
        (t.savedLim.toNat ≤ i → code9 (.slotctlWrv v b)) ∧
        (¬ badItem i x → i ≠ 27 → ∀ u, AreaWrites g (fresh s) [(8 * i, leBytes 8 x.toNat)] u → Completes (.slotctlWrctx v b) s u 1) ∧
        (i = 27 → x.toNat ≤ 4 → ∀ y u₁ u₂, AreaReads (fresh s) g (8 * 27) 8 y u₁ →
          AreaWrites g u₁ (((List.range (4 * (y - x.toNat))).map fun k => (8 * (11 + 4 * x.toNat + k), leBytes 8 0)) ++
            [(8 * 27, leBytes 8 x.toNat)]) u₂ → Completes (.slotctlWrctx v b) s u₂ 1)) ∧
      (t.mode = .trapped ∧ i < t.regLim.toNat ∨ t.mode = .spilled ∧ i < t.savedLim.toNat → Table.find t.binds i ≠ none →
        Completes (.slotctlWrv v b) s s 1) ∧
      (¬ running →
        ((∀ r ∈ writable, SpecReg.ofCode i ≠ some r) → code9 (.slotctlWrsr v b)) ∧ (32 ≤ i → code9 (.slotctlWrs v b)) ∧
        (badItem i x → code9 (.slotctlWrctx v b))) ∧
      (t.mode = .idle ∨ t.mode = .exited →
        code9 (.slotctlWrsr v b) ∧ code9 (.slotctlWrs v b) ∧ code9 (.slotctlWrv v b) ∧ code9 (.slotctlWrctx v b))) ∧
    ((here s).priv = false → s.hasPkg s.cur.pkg = true →
      ∀ j ∈ [Instr.slotctlState v b, .slotctlRdsr v b, .slotctlWrsr v b, .slotctlRds v b, .slotctlWrs v b, .slotctlRdv v b,
        .slotctlWrv v b, .slotctlRdctx v b, .slotctlWrctx v b, .slotctlResume v b, .slotctlKill v b, .slotctlSpill v b],
        Traps j s { kind := .priv }) ∧
    (w.toNat / 2 ^ 36 % 2 ^ 4 = 0 → w.toNat / 2 ^ 47 % 2 = 0 → w.toNat / 2 ^ 53 = 0 →
      let stops (f : FaultInfo) : Prop :=
        (ready s rd = true → ∀ j ∈ [Instr.slotctlState v b, .slotctlRdsr v b, .slotctlRds v b, .slotctlRdv v b,
          .slotctlRdctx v b, .slotctlResume v b, .slotctlKill v b, .slotctlSpill v b], Traps j s f) ∧
        (ready s wr = true → ∀ j ∈ [Instr.slotctlWrsr v b, .slotctlWrs v b, .slotctlWrv v b, .slotctlWrctx v b], Traps j s f)
      (s.supervises s.cur g = true → w.toNat / 2 ^ 28 % 2 ^ 8 = (pack s).domain.toNat → s.shut s.cur.pkg g.pkg = false →
        s.linked s.cur.pkg g.pkg = false → ready s rd = true → ∀ j ∈ [Instr.slotctlState v b, .slotctlResume v b, .slotctlKill v b],
          Holds j s) ∧
      (s.supervises s.cur g = false → stops { kind := .prot }) ∧
      (s.supervises s.cur g = true → w.toNat / 2 ^ 28 % 2 ^ 8 = (pack s).domain.toNat → s.shut s.cur.pkg g.pkg = true →
        stops { kind := .fenced, sector := w }))

/-- R266, R366, R367, R310, R311: what the operations of SLOTCTL do at their target once its faults of that cycle have been taken
(R368). RESUME puts a TRAPPED target whose record has been posted back in RUN at its resume point, 64 cycles on, and begins the
restore of a SPILLED one; KILL makes the target EXITED once nothing is left that its producers have to write; SPILL begins to
evict it, and it shows the state that it had. 0 is the answer, or 1 where the target's state does not allow it, and nothing
changes then. A read answers with what the target holds and a write changes that alone; where the target's state does not allow
it, whoever asked has an ILLEGAL fault, or, at a mailbox, STATUS 1, which is the model's choice (log 18). -/
def Sys2Proof.Claims.SlotctlEffects : Prop :=
  ∀ (s : State) (g : GRef) (act : CtlAct) (a : Asker) (n : Nat),
    let t := s.slotAt g
    t.ctl = some (act, a, n) →
    let b := s.mapSlot g fun t => { t with ctl := none }
    let given (v : State) (y : Word) : State := match a with
      | .slot h id => v.mapOp h id fun o => { o with got := [(0, y)], performed := true }
      | .mailbox q => completeCmd v g.pkg q y 0
      | .engaged h => v.mapSlot h fun t => if t.waitNext = none then t else t.endWait
    let answers (ok : Bool) (f : State → Prop) : Prop := ∃ v, f v ∧ performCtl s g = given v (if ok then 0 else 1)
    let gives (y : Word) : Prop := performCtl s g = given b y
    let sets (v : State) : Prop := performCtl s g = given v 0
    let refused := answers false (· = b)
    let paired := ∃ m, t.member = some m ∧ (m.twin = true ∨ m.partner ≠ none)
    let stopped (h : GRef) (at_ : Word × Nat × LoopStack) : Prop :=
      let u := performCtl s g
      (u.slotAt h).mode = .trapped ∧ (u.slotAt h).fkind = Kind.illegal.code ∧ (u.slotAt h).place = at_ ∧
        (u.slotAt g).quiet = (b.slotAt g).quiet
    let fails : Prop :=
      (∀ q, a = .mailbox q → performCtl s g = completeCmd b g.pkg q 0 1) ∧
      (∀ h id o, a = .slot h id → h ≠ g → s.opOf h id = some o → o.act = .value → o.units = [] →
        (s.slotAt h).mode = .run → (s.slotAt h).lateFault = false → (s.slotAt h).dying = false → (s.slotAt h).lastOp = some id →
          stopped h (o.head, o.pos, o.loops)) ∧
      ∀ h, a = .engaged h → h ≠ g → (s.slotAt h).mode = .run → (s.slotAt h).waitNext ≠ none → stopped h (s.slotAt h).place
    (act = .resume →
      (t.mode ≠ .trapped → t.mode ≠ .spilled → refused) ∧
      (s.owesRecord g = true → refused) ∧
      (s.owesRecord g = false → t.mode = .spilled → performCtl s g = b.mapSlot g fun t => { t with evict := .restoring a }) ∧
      (s.owesRecord g = false → t.mode = .trapped → t.replay = [] → t.joinPoint = none → answers true fun v => SameMemory s v ∧
        (v.slotAt g).mode = .run ∧ (v.slotAt g).place = t.place ∧ (v.slotAt g).sregs = t.sregs ∧
        (v.slotAt g).hold = some { why := .resume, till := s.cycleAt g.pkg + 64 })) ∧
    (act = .kill →
      (t.mode = .idle ∨ t.mode = .exited → refused) ∧
      (t.mode ≠ .idle → t.mode ≠ .exited → t.dying = false → t.wait = none →
        ((∀ o ∈ t.ops, o.posted = true ∨ o.orphan = true) → answers true fun v =>
          (v.slotAt g).mode = .exited ∧ (v.slotAt g).regLim = t.regLim ∧ (v.slotAt g).publishing = none) ∧
        ((∃ o ∈ t.ops, o.posted = false ∧ o.orphan = false ∧ o.shadow = false) →
          let u := performCtl s g
          (u.slotAt g).mode = t.mode ∧ (u.slotAt g).dying = true ∧ (u.slotAt g).killer = some a ∧
          (u.slotAt g).ops = t.ops ∧ SameMemory s u))) ∧
    (act = .spill →
      (t.mode = .idle ∨ t.mode = .exited ∨ t.mode = .spilled ∨ paired → refused) ∧
      (t.mode = .run ∨ t.mode = .trapped → t.wait = none → t.waitNext = none → ¬ paired →
        let u := performCtl s g
        (u.slotAt g).evict = .spilling a t.mode ∧ (u.slotAt g).mode = t.mode ∧ (u.slotAt g).place = t.place ∧
        (u.slotAt g).hold = t.hold ∧ (u.slotAt g).sregs = t.sregs ∧ SameMemory s u)) ∧
    (∀ f i l, act = .get f i l →
      (f = .state → gives (BitVec.ofNat 64 (t.mode.code + t.fkind.toNat * 2 ^ 8 +
        if t.mode = .spilled then 0 else t.regBase.toNat * 2 ^ 16 + t.regLim.toNat * 2 ^ 32))) ∧
      (t.mode = .trapped →
        (f = .rdsr → ∀ r, SpecReg.ofCode i = some r → gives (b.readSr g r)) ∧
        (f = .rds → i < 32 → NumSet.has t.sPoison i = false → gives (t.sreg (BitVec.ofNat 5 i))) ∧
        (f = .rdv → i < t.regLim.toNat → Table.find t.binds i = none →
          NumSet.has (s.cellAt g.pkg g.cell).vPoison (16 * (t.regBase.toNat + i) + l / 2) = false →
            gives (BitVec.ofNat 64 (lane (s.vregAt g (BitVec.ofNat 7 i)) l).toNat)) ∧
        (f = .rdctx → i < 39 → ∃ y, gives (shown i y) ∧ itemReads t i y)) ∧
      (t.mode ≠ .trapped → t.mode ≠ .spilled → (f = .rdsr → SpecReg.ofCode i ≠ none) → (f = .rds → i < 32) → (f = .rdctx → i < 39) →
        f ≠ .state → fails)) ∧
    ∀ f i l x, act = .set f i l x →
      (t.mode = .trapped →
        (f = .wrsr → ∀ r ∈ writable, SpecReg.ofCode i = some r → sets (b.mapSlot g (withSpecial r x))) ∧
        (f = .wrs → i < 32 → sets (b.setS g (BitVec.ofNat 5 i) x)) ∧
        (f = .wrv → i < t.regLim.toNat → Table.find t.binds i = none →
          sets (b.setLanes g (BitVec.ofNat 7 i) (BitVec.ofNat 32 (2 ^ l)) fun _ => BitVec.ofNat 32 x.toNat)) ∧
        (f = .wrctx → ¬ badItem i x → ∃ u : Slot, sets (b.mapSlot g fun _ => u) ∧ itemWritten (b.slotAt g) u i x)) ∧
      (t.mode ≠ .trapped → t.mode ≠ .spilled → (f = .wrsr → ∃ r ∈ writable, SpecReg.ofCode i = some r) → (f = .wrs → i < 32) →
        (f = .wrctx → ¬ badItem i x) → fails)

/-- R266, R267, R310, R311, R366 to R368: SLOTCTL, and what its operations do at their target. -/
def Obligations.SupervisorInstructions : Prop := SlotctlResults ∧ SlotctlEffects

/-- R372: the SLOTCTL commands of a mailbox do to their target what the instructions do, and complete with the value read
as RESULT; a reserved bit of the target word gives STATUS 2, a target outside the partition, or its supervisor itself, 4. Where the
target may take a fault in this cycle still, a command acts after it. STATUS 1 for a read or a write in a state that does not allow it
is the model's choice (log 18). -/
def Obligations.SupervisorCommands : Prop :=
  ∀ (s : State) (p : PkgId) (q : BitVec 3) (c : Cmd), s.hasPkg p = true →
    let part := (s.pkgAt p).part q
    part.cmd = some c → c.op = 1 → c.begun = false → c.finish = none →
    let w := c.opnds.headD 0
    let op := (c.opnds.getD 1 0).toNat
    let x := c.opnds.getD 2 0
    let g := GRef.ofWord w
    let t := s.slotAt g
    let i := w.toNat / 2 ^ 40 % 2 ^ 7
    let l := w.toNat / 2 ^ 48 % 2 ^ 5
    let n : VRegNo := BitVec.ofNat 7 i
    let reserved := w.toNat / 2 ^ 36 % 2 ^ 4 ≠ 0 ∨ w.toNat / 2 ^ 47 % 2 ≠ 0 ∨ w.toNat / 2 ^ 53 ≠ 0
    let inside := w.toNat / 2 ^ 28 % 2 ^ 8 = (s.pkgAt p).domain.toNat ∧ g.pkg = p ∧ part.hasCell g.cell = true ∧
      (part.hostSup = true ∨ part.super ≠ g)
    let b := s.mapPart p q fun y => { y with cmd := some { c with begun := true } }
    let all : List Instr := [.mboxSlotctlState p q, .mboxSlotctlRdsr p q, .mboxSlotctlWrsr p q, .mboxSlotctlRds p q,
      .mboxSlotctlWrs p q, .mboxSlotctlRdv p q, .mboxSlotctlWrv p q, .mboxSlotctlRdctx p q, .mboxSlotctlWrctx p q,
      .mboxSlotctlResume p q, .mboxSlotctlKill p q, .mboxSlotctlSpill p q]
    let ends (j : Instr) (u : State) (result : Word) (status : Byte) : Prop := exec j s = .next (completeCmd u p q result status)
    let sent (act : CtlAct) : State := b.mapSlot g fun t => { t with ctl := some (act, .mailbox q, s.cycleAt p) }
    let arrives (j : Instr) (act : CtlAct) : Prop := exec j s = .next (sent act)
    let running := t.mode = .run ∨ t.mode = .parked ∨ t.mode = .subscribed
    s.ctlBusy g = false →
    (∀ j, all[op]? = some j → (reserved → ends j b 0 2) ∧ (¬ reserved → ¬ inside → ends j b 0 4)) ∧
    (¬ reserved → inside →
      (¬ running → op = 0 → ends (.mboxSlotctlState p q) b (BitVec.ofNat 64 (t.mode.code + t.fkind.toNat * 2 ^ 8 +
        if t.mode = .spilled then 0 else t.regBase.toNat * 2 ^ 16 + t.regLim.toNat * 2 ^ 32)) 0) ∧
      (running → ∀ e ∈ [(Instr.mboxSlotctlState p q, 0, CtlAct.get .state i l), (.mboxSlotctlRdsr p q, 1, .get .rdsr i l),
        (.mboxSlotctlWrsr p q, 2, .set .wrsr i l x), (.mboxSlotctlRds p q, 3, .get .rds i l), (.mboxSlotctlWrs p q, 4, .set .wrs i l x),
        (.mboxSlotctlRdv p q, 5, .get .rdv i l), (.mboxSlotctlWrv p q, 6, .set .wrv i l x),
        (.mboxSlotctlRdctx p q, 7, .get .rdctx i l), (.mboxSlotctlWrctx p q, 8, .set .wrctx i l x)],
        op = e.2.1 → arrives e.1 e.2.2) ∧
      (t.mode = .trapped →
        (op = 1 → ∀ r, SpecReg.ofCode i = some r → ends (.mboxSlotctlRdsr p q) b (b.readSr g r) 0) ∧
        (op = 2 → ∀ r ∈ writable, SpecReg.ofCode i = some r →
          ends (.mboxSlotctlWrsr p q) (b.mapSlot g (withSpecial r x)) 0 0) ∧
        (op = 3 → i < 32 → NumSet.has t.sPoison i = false →
          ends (.mboxSlotctlRds p q) b (t.sreg (BitVec.ofNat 5 i)) 0) ∧
        (op = 4 → i < 32 → ends (.mboxSlotctlWrs p q) (b.setS g (BitVec.ofNat 5 i) x) 0 0) ∧
        (op = 5 → i < t.regLim.toNat → Table.find t.binds i = none →
          NumSet.has (s.cellAt g.pkg g.cell).vPoison (16 * (t.regBase.toNat + i) + l / 2) = false →
          ends (.mboxSlotctlRdv p q) b (BitVec.ofNat 64 (lane (s.vregAt g n) l).toNat) 0) ∧
        (op = 6 → i < t.regLim.toNat → Table.find t.binds i = none → ends (.mboxSlotctlWrv p q)
          (b.setLanes g n (BitVec.ofNat 32 (2 ^ l)) fun _ => BitVec.ofNat 32 x.toNat) 0 0) ∧
        (op = 7 → i < 39 → ∃ y, ends (.mboxSlotctlRdctx p q) b (shown i y) 0 ∧ itemReads t i y) ∧
        (op = 8 → (badItem i x → ends (.mboxSlotctlWrctx p q) b 0 2) ∧
          (¬ badItem i x → ∃ u : Slot, ends (.mboxSlotctlWrctx p q) (b.mapSlot g fun _ => u) 0 0 ∧ itemWritten t u i x))) ∧
      (t.mode = .idle ∨ t.mode = .exited → ∀ j, all[op]? = some j → op ∈ [3, 5, 7, 4, 6] → i < 32 → i < t.regLim.toNat →
        i ≠ 27 → i ≠ 1 → ends j b 0 1) ∧
      (op = 9 → exec (.mboxSlotctlResume p q) s = .next (performCtl (sent .resume) g)) ∧ (op = 10 → arrives (.mboxSlotctlKill p q) .kill) ∧
      (op = 11 → arrives (.mboxSlotctlSpill p q) .spill))

/-- R359: the 64 bytes of a record that is posted at position `n` of a ring. -/
def Sys2Proof.Claims.recordBytes (r : Record) (n : Nat) : List Byte :=
  let bit (b : Bool) (i : Nat) : Nat := if b then 2 ^ i else 0
  [r.kind.toNat + r.pos * 2 ^ 8 + bit r.pub 12 + bit r.sub 13 + bit r.grp 14 + bit r.twin 15 + bit r.late 16 + n % 2 ^ 32 * 2 ^ 32,
    r.gslot.toNat, r.pc.toNat, r.mask.toNat + r.maxnc.toNat * 2 ^ 32 + r.minnz.toNat * 2 ^ 40, r.sector.toNat, r.aux.toNat,
    r.time.toNat, r.pid.toNat + r.cycle.toNat * 2 ^ 32].flatMap (leBytes 8)

/-- R363, R398: a unit of the hub writes bytes of device memory under a process, one piece after another: each passes its checks and
is performed. -/
def Sys2Proof.Claims.HubWrites (p : PkgId) (pid : BitVec 16) : State → List (Word × List Byte) → State → Prop
  | s, [], t => t = s
  | s, (a, b) :: r, t => ∃ u l, resolve s p hubCell pid a b.length .strWrite = (u, .ok l) ∧ u.refusesPlace p l = false ∧
      u.hubRefuses l = false ∧ u.linked p l.pkg = true ∧ u.mendPlace l = u ∧ l.prot = false ∧ (l.store = .hbm ∨ l.store = .ddr) ∧
      (u.pkgAt p).hubWrites = [] ∧ HubWrites p pid (u.poke l b) r t

/-- R309 to R311, R359, R363, R402: the ends of a spill and of a restore, and the posting of records. A slot whose save area
has been written is SPILLED without a window, and a PREEMPTED record waits for its partition's ring (R361); a write that faults
leaves it as it was, and one that must wait keeps the spill from ending. A restored slot has a window of its size again. A record
goes to a ring while that has room, once the cycle of its fault is over: its 64 bytes, with the position as SEQ, to the place that
FPIDX names, FPIDX advances, and the supervisor is told; none goes to a full ring, and one whose write faults stays, and stops the
posting. -/
def Obligations.EvictionEvents : Prop :=
  ∀ (s : State) (g h : GRef) (id : Nat), s.hasPkg g.pkg = true → h ≠ g →
    let t := s.slotAt g
    let k := s.pkgAt g.pkg
    (∀ was, t.evict = .spilling (.slot h id) was →
      (t.mode = .exited ∨ t.mode = .idle → ∃ u, exec (.spillComplete g) s = .next u ∧ (u.slotAt g).evict = .none ∧
        (u.slotAt g).mode = t.mode ∧ ∀ o, u.opOf h id = some o → o.performed = true ∧ o.got = [(0, 1)]) ∧
      (t.mode ≠ .exited → t.mode ≠ .idle → spillReady s g = true →
        let a := s.mapCell g.pkg g.cell fun c => c.pauseStreams g.slot
        let was := if t.mode = .trapped then .trapped else was
        (∀ v, areaWrites g a (saveImage a g was) = (v, none) → (v.pkgAt g.pkg).hubWrites ≠ [] →
          exec (.spillComplete g) s = .next s) ∧
        (∀ v, areaWrites g a (saveImage a g was) = (v, none) → (v.pkgAt g.pkg).hubWrites = [] → ∃ u r, exec (.spillComplete g) s = .next u ∧
          (u.slotAt g).mode = .spilled ∧ (u.slotAt g).savedLim = (v.slotAt g).regLim ∧ (u.slotAt g).regBase = 0 ∧
          (u.slotAt g).regLim = 0 ∧ (u.slotAt g).evict = .none ∧ r.kind = Kind.preempted.code ∧
          (u.pkgAt g.pkg).waiting = (v.pkgAt g.pkg).waiting ++
            [{ ring := match (v.pkgAt g.pkg).partOf g.cell with | some e => .part (BitVec.ofNat 3 e.1) | none => .host
               cell := g.cell, slot := some g.slot, ctx := none, record := r }]) ∧
        (∀ v f, areaWrites g a (saveImage a g was) = (v, some f) → (v.slotAt g).joinPoint = none → (v.slotAt g).mode = t.mode →
          ∃ u, exec (.spillComplete g) s = .next u ∧ (u.slotAt g).mode = (if t.mode = .trapped then .trapped else .run) ∧
            (u.slotAt g).evict = .none ∧ (u.slotAt g).regLim = (v.slotAt g).regLim ∧ (u.slotAt g).hold = (v.slotAt g).hold))) ∧
    (t.evict = .restoring (.slot h id) → k.hubWrites = [] → t.mode = .spilled →
      (k.fitWindow g.cell t.savedLim.toNat = none → ∃ u, exec (.resumeRestore g) s = .next u ∧
        (u.slotAt g).mode = .spilled ∧ (u.slotAt g).evict = .none ∧
        ∀ o, u.opOf h id = some o → o.performed = true ∧ o.got = [(0, 1)]) ∧
      (∀ b v x, k.fitWindow g.cell t.savedLim.toNat = some b → readSaved s g = (v, .ok x) → (v.slotAt g).replay = [] →
        ∃ u, exec (.resumeRestore g) s = .next u ∧ (u.slotAt g).regBase = BitVec.ofNat 11 b ∧
          (u.slotAt g).regLim = (v.slotAt g).savedLim ∧ (u.slotAt g).evict = .none ∧
          ((u.slotAt g).joinPoint = none → (u.slotAt g).mode = .run) ∧
          ∀ r : SReg, r ≠ 0 → (u.slotAt g).sreg r = BitVec.ofNat 64 ((x.words.getD (64 + r.toNat) none).getD 0))) ∧
    (∀ w : Waiting, k.waiting.filter (·.ring == .host) = [w] → w.ctx = none →
      (w.record.cycle = BitVec.ofNat 32 (s.cycleAt g.pkg) → exec (.faultRecordPost g.pkg .host) s = .next s) ∧
      (w.record.cycle ≠ BitVec.ofNat 32 (s.cycleAt g.pkg) →
      ((k.hostFpidx - k.hostFcidx).toNat < 32 → exec (.faultRecordPost g.pkg .host) s = .next (s.mapPkg g.pkg fun k =>
        { k with waiting := k.waiting.erase w, hostFpidx := k.hostFpidx + 1, mevent := k.mevent ||| 32
                 intstat := k.intstat ||| 1
                 hostRecords := Table.put k.hostRecords (k.hostFpidx.toNat % 32) (recordBytes w.record k.hostFpidx.toNat) }))) ∧
      (32 ≤ (k.hostFpidx - k.hostFcidx).toNat → exec (.faultRecordPost g.pkg .host) s = .next s)) ∧
    ∀ (q : BitVec 3) (w : Waiting) (v : State) (fp fc : Word),
      let part := k.part q
      part.mode ≠ .free → part.postStopped = false → k.hubWrites = [] → k.waiting.filter (·.ring == .part q) = [w] →
      w.ctx = none → hubReads g.pkg part.pid 2 s part.mailbox = (v, .ok [fp, fc]) →
      let size := 2 ^ (part.field 4 0 5)
      let a := part.mailbox + BitVec.ofNat 64 (0x40 + 64 * (fp.toNat % size))
      let bytes := recordBytes w.record fp.toNat
      ((fp - fc).toNat < size → w.record.cycle = BitVec.ofNat 32 (s.cycleAt g.pkg) →
        exec (.faultRecordPost g.pkg (.part q)) s = .next s) ∧
      ((fp - fc).toNat < size → w.record.cycle ≠ BitVec.ofNat 32 (s.cycleAt g.pkg) →
        (∀ x, HubWrites g.pkg part.pid v
            [(a, bytes.take 32), (a + 32, bytes.drop 32), (part.mailbox, leBytes 8 (fp.toNat + 1))] x →
          (x.pkgAt g.pkg).hubWrites = [] →
          let left := x.mapPkg g.pkg fun k => { k with waiting := k.waiting.erase w }
          let h := GRef.ofWord (part.word 1)
          (part.field 0 31 1 = 1 → exec (.faultRecordPost g.pkg (.part q)) s =
            .next (left.mapPkg g.pkg fun k => { k with intstat := k.intstat ||| BitVec.ofNat 64 (2 ^ (1 + q.toNat)) })) ∧
          (part.field 0 31 1 ≠ 1 → left.shut g.pkg h.pkg = false → left.linked g.pkg h.pkg = true →
            exec (.faultRecordPost g.pkg (.part q)) s = .next (left.mapSlot h Slot.woken))) ∧
        ∀ x f, resolve v g.pkg hubCell part.pid a 32 .strWrite = (x, .error f) → ∃ u r,
          exec (.faultRecordPost g.pkg (.part q)) s = .next u ∧ ((u.pkgAt g.pkg).part q).postStopped = true ∧
          w ∈ (u.pkgAt g.pkg).waiting ∧ r ∈ (u.pkgAt g.pkg).waiting ∧ r.ring = .host ∧ r.record.kind = f.kind.code ∧
          r.record.sector = f.sector ∧ r.record.aux = f.aux) ∧
      (size ≤ (fp - fc).toNat → exec (.faultRecordPost g.pkg (.part q)) s = .next s)

/-! ## What the stream engine and the Shawm do by themselves -/

/-- R200, R201, R207 to R209, R279, R337: the streams whose elements lie in the own scratchpad, of a slot that is in no redundant
pair. An element is begun when all its lanes have passed their checks, in the units of R279; an output element besides only after the
acquires before it, and the accesses before it to its sectors. An input engine has as many under way as the queue has entries free.
What is under way is read or written unit by unit, in any order but that a unit follows the earlier ones of its element whose bytes
it shares. Input elements reach the queue in their own order as soon as they and those before them have been read; the last unit of an
output element, of which only the active lanes are written, takes it out; the stream is DONE after its last element. An element at
fault stops the stream, at the address of its lowest faulting lane. -/
def Obligations.StreamEvents : Prop :=
  ∀ (s : State) (p : PkgId) (c : CellId) (n : BitVec 5), s.hasPkg p = true →
    let t := s.cellAt p c
    let q := Table.get ({} : Stream) t.streams n.toNat
    let g : GRef := { pkg := p, cell := c, slot := q.owner }
    let size := vsizeBytes q.esize
    let count (j : Nat) : Nat := let x := (Table.get 0 q.dims j).toNat % 2 ^ 16; if x = 0 then 2 ^ 16 else x
    let total := count 0 * count 1 * count 2 * count 3
    let stride (j : Nat) : Int := ((Table.get 0 q.dims j).extractLsb' 16 48).toInt
    let at_ (k l : Nat) : Word :=
      let i1 := k / count 0
      let i2 := i1 / count 1
      let i3 := i2 / count 2
      q.base + BitVec.ofInt 64 ((k % count 0 : Nat) * stride 0 + (i1 % count 1 : Nat) * stride 1 +
        (i2 % count 2 : Nat) * stride 2 + (i3 % count 3 : Nat) * stride 3 + l * q.lstride.toInt)
    let fits (k l : Nat) : Prop := (at_ k l).toNat < 0x200000 ∧ (at_ k l).toNat % size = 0
    let elt (k l : Nat) (x : Lane) : Elt :=
      { lane := l, addr := at_ k l, n := size, val := BitVec.ofNat 64 x.toNat
        loc := { store := .spad, pkg := p, cell := c, off := (at_ k l).toNat } }
    let sent (k : Nat) (es : List Elt) : StreamFlight :=
      { units := groupElts (if q.esize = .w ∧ q.lstride = 4 ∧ (at_ k 0).toNat % 16 = 0 then .quads else .each) es
        pid := (s.slotAt g).pid, colour := s.colourOf g, inTransit := true }
    let new (u : State) : Stream := Table.get ({} : Stream) (u.cellAt p c).streams n.toNat
    let put (y : Stream) : State := s.mapCell p c fun t => { t with streams := Table.put t.streams n.toNat y }
    let plain (f : StreamFlight) : Prop := f.twin = none ∧ f.shadow = false ∧ ∀ x ∈ f.units, x.path = .local ∧ x.elts ≠ [] ∧
      ∀ e ∈ x.elts, 0 < e.n ∧ e.lane < 32 ∧ e.addr.toNat / 2 ^ 60 = 0 ∧
        e.loc = { store := .spad, pkg := p, cell := c, off := e.loc.off }
    let left (f : StreamFlight) : List Elt := (f.units.filter fun x => !x.done).flatMap (·.elts)
    let next (f : StreamFlight) (j : Nat) (x : OpUnit) : Prop := f.units[j]? = some x ∧ x.done = false ∧
      ∀ v < j, ∀ y, f.units[v]? = some y → y.done = false → ∀ a ∈ y.elts, ∀ b ∈ x.elts, a.overlaps b = false
    let passed (f : StreamFlight) (j : Nat) : List OpUnit :=
      f.units.zipIdx.map fun y => if y.2 = j then { y.1 with done := true } else y.1
    let whole (f : StreamFlight) : Bool := f.units.all (·.done)
    (q.mode = .running → q.flight = [] → q.gen = total → ∃ u,
      exec (if q.output then .streamElementWrite p c n else .streamElementRead p c n) s = .next u ∧ new u = { q with mode := .done } ∧
        SameMemory s u) ∧
    (q.output = false → (q.mode = .running → q.flight = [] → q.gen ≠ total) → unpaired (s.slotAt g) →
      let k := q.gen + q.flight.length
      let begun : Stream := { q with flight := q.flight ++ [sent k ((List.range 32).map fun l => elt k l 0)] }
      (q.flight = [] → beginsRead s p c n.toNat q = true →
        ((∀ l < 32, fits k l) → exec (.streamElementRead p c n) s = .next (put begun)) ∧
        ∀ v f, checkElts s g (s.slotAt g).pid .strRead ((List.range 32).map fun l => (l, at_ k l, size, 0, 0)) = (v, .error f) →
          ∃ u, exec (.streamElementRead p c n) s = .next u ∧
            ((s.slotAt g).wait = none → (new u).mode = .error ∧ (new u).err = f.kind.code ∧ (new u).faddr = f.sector ∧
              (new u).queue = q.queue ∧ (new u).flight = [])) ∧
      ((∀ f ∈ q.flight, plain f) → (∃ f ∈ q.flight, left f ≠ []) → k ≤ total →
        (∀ f ∈ q.flight, ∀ e ∈ left f, clean t.spadPoison e.loc.off e.n) → (beginsRead s p c n.toNat q = true → ∀ l < 32, fits k l) →
        ∃ u, exec (.streamElementRead p c n) s = .next u ∧ SameMemory s u ∧
          (beginsRead s p c n.toNat q = true ∧ new u = begun ∨ ∃ i f j x, q.flight[i]? = some f ∧ next f j x ∧
            let value (e : Elt) : Lane :=
              let y := numAt t.spad e.loc.off e.n
              BitVec.ofInt 32 (if q.esize = .hs ∧ 2 * y ≥ 256 ^ e.n then (y : Int) - 256 ^ e.n else y)
            let f' : StreamFlight := { f with units := passed f j, part := f.part ++ x.elts.map fun e => (e.lane, value e) }
            let fs := q.flight.zipIdx.map fun y => if y.2 = i then f' else y.1
            let m := (fs.takeWhile whole).length
            (whole f' = false → new u = { q with flight := fs }) ∧
            (whole f' = true → new u = { q with
              gen := q.gen + m, flight := fs.drop m
              mode := if q.mode = .running ∧ q.gen + m = total then .done else q.mode
              queue := q.queue ++ (fs.take m).map fun y =>
                { lanes := (List.range 32).map fun l => ((y.part.find? (·.1 == l)).map (·.2)).getD 0
                  mask := BitVec.allOnes 32 } }))) ∧
      ∀ f, q.flight = [f] → plain f → beginsRead s p c n.toNat q = false → (s.slotAt g).wait = none →
        (∃ e ∈ left f, ¬ clean t.spadPoison e.loc.off e.n) →
        ∃ u e, exec (.streamElementRead p c n) s = .next u ∧ SameMemory s u ∧ e ∈ left f ∧ ¬ clean t.spadPoison e.loc.off e.n ∧
          (∀ d ∈ left f, ¬ clean t.spadPoison d.loc.off d.n → e.lane ≤ d.lane) ∧ (new u).queue = q.queue ∧ (new u).flight = [] ∧
          (q.mode = .running → (new u).mode = .error ∧ (new u).err = Kind.ecc.code ∧ (new u).faddr = e.addr) ∧
          (q.mode ≠ .running → q.mode ≠ .error → (new u).mode = q.mode)) ∧
    (q.output = true → (q.mode = .running → q.flight = [] → q.gen ≠ total) → unpaired (s.slotAt g) → t.waiters = [] → (s.slotAt g).wait = none → ∀ e rest,
      q.queue = e :: rest →
      let k := q.gen
      let lanes := (List.range 32).filter e.mask.getLsbD
      let popped : Stream := { q with queue := rest, gen := q.gen + 1, flight := []
                                      mode := if q.mode = .running ∧ q.gen + 1 = total then .done else q.mode }
      let held := (∃ o ∈ (s.slotAt g).ops ++ (s.slotAt g).replay, o.id < e.id ∧ o.orphan = false ∧
          (o.acq = true ∨ ∃ l ∈ lanes, o.touches .local (elt k l 0) = true)) ∨
        ∃ y ∈ t.streams, y.1 ≠ n.toNat ∧ y.2.output = true ∧ y.2.mode ≠ .free ∧ y.2.owner = q.owner ∧
          ∃ k' x l m, y.2.queue[k']? = some x ∧ x.id < e.id ∧ l ∈ lanes ∧ m < 32 ∧ x.mask.getLsbD m = true ∧
            (at_ k l).toNat / 32 = (y.2.address (y.2.gen + k') m).toNat / 32
      (q.flight = [] → beginsWrite s p c n.toNat q = true →
        (lanes = [] → ∃ u, exec (.streamElementWrite p c n) s = .next u ∧ SameMemory s u ∧ new u = popped) ∧
        (lanes ≠ [] → (∀ l ∈ lanes, fits k l) →
          (held → exec (.streamElementWrite p c n) s = .next s) ∧
          (¬ held → exec (.streamElementWrite p c n) s =
            .next (put { q with flight := [sent k (lanes.map fun l => elt k l (lane e.lanes l))] })))) ∧
      ∀ f, q.flight = [f] → plain f → left f ≠ [] →
        ∃ j x u, next f j x ∧ exec (.streamElementWrite p c n) s = .next u ∧
          (¬ (passed f j).all (·.done) → new u = { q with flight := [{ f with units := passed f j }] }) ∧
          ((passed f j).all (·.done) → new u = popped) ∧
          (let stored := unpoison ((f.units.filter (·.done)).flatMap (·.elts)) x.elts (putAll x.elts t)
           (u.cellAt p c).spad = stored.spad ∧ (u.cellAt p c).spadPoison = stored.spadPoison ∧
           (u.cellAt p c).spadEmpty = stored.spadEmpty) ∧
          SameMemory (s.mapCell p c fun t => { t with spad := [] }) (u.mapCell p c fun t => { t with spad := [] }))

/-- R293: a node's request when its timer is looked at. With no launchable record it is QUIET; it is queued for placement when
they reach its threshold or their age its timer, and WAITING before that. Only committed records may still be arriving, as in
every state that a run reaches. -/
def Sys2Proof.Claims.NodeRequests : Prop :=
  ∀ (s : State) (p : PkgId) (x : BitVec 6) (n : BitVec 12) (d : Node), s.hasPkg p = true → (s.pkgAt p).nodeAt x n = some d →
    (∀ r ∈ d.recs, r.arriving = true → r.mode = .committed) → d.req = .quiet ∨ d.req = .waiting →
    ∃ u d', exec (.coalescingTimer p x n) s = .next u ∧ SameMemory s u ∧ (u.pkgAt p).nodeAt x n = some d' ∧
      let m := d.launchable.length
      let age := d.age (s.pkgAt p).time
      (m = 0 → d'.req = .quiet) ∧
      (m ≠ 0 → d.thresh ≤ m ∨ d.timer ≤ age → d'.req = .ready ∨ d'.req = .placing) ∧
      (m ≠ 0 → m < d.thresh → age < d.timer → d'.req = .waiting)

/-- R296, R297, R299, R301: a placement reserves slot by slot, every 8 cycles, or fails; it is tried again when anything that was in
use has become free. -/
def Sys2Proof.Claims.PlacementSteps : Prop :=
  ∀ (s : State) (p : PkgId) (q : BitVec 3), s.hasPkg p = true →
    let k := s.pkgAt p
    let part := k.part q
    (∀ pl d, part.place = some pl → k.nodeAt pl.graph pl.node = some d → pl.nextAt ≤ k.cycle →
      let chans := if pl.placed = [] then k.takeChans (k.graphAt pl.graph) d.channels else some pl.chans
      pl.placed.length < d.total →
        (∀ cs c n b, chans = some cs → k.nextSpot part d pl = some (c, n, b) →
          exec (.placementReservation p q) s = .next (s.mapPart p q fun part => { part with place := some { pl with
            chans := cs, nextAt := pl.nextAt + 8
            placed := pl.placed ++ [({ pkg := p, cell := c, slot := n }, BitVec.ofNat 11 b, BitVec.ofNat 8 d.regs)] } })) ∧
        (chans = none ∨ k.nextSpot part d pl = none → ∃ u, exec (.placementReservation p q) s = .next u ∧ SameMemory s u ∧
          ((u.pkgAt p).part q).stuck = some (pl.graph, pl.node) ∧
          ∀ y, ((u.pkgAt p).part q).place = some y → (y.graph, y.node) ≠ (pl.graph, pl.node))) ∧
    ∀ x n d, part.place = none → part.stuck = some (x, n) → part.mode = .active →
      k.firstRequest q = some (d, x.toNat, n.toNat) →
      ((∃ b ∈ part.seen, b ∉ k.busy p part x) → ∃ u y,
        exec (.placementRetry p q) s = .next u ∧ SameMemory s u ∧ ((u.pkgAt p).part q).place = some y ∧ y.graph = x ∧
        y.node = n ∧ y.placed = [] ∧ y.nextAt = k.cycle + 9 ∧ ((u.pkgAt p).part q).stuck = none) ∧
      ((∀ b ∈ part.seen, b ∈ k.busy p part x) →
        exec (.placementRetry p q) s = .next (s.mapPart p q fun y => { y with seen := k.busy p part x }))

/-- R295, R302 to R305: slot or twin `i` of a group of node `d` that is committed in state `s` with the records `taken`, as it
stands in `u`. A twin takes the values of its primary, but its own lead bit. A subscriber of the group's channel starts
SUBSCRIBED; a publisher starts in RUN and the channel names it. -/
def Sys2Proof.Claims.GroupSlot (s u : State) (p : PkgId) (pl : Placement) (d : Node) (taken : List QRec) (i : Nat) (g : GRef)
    (base : BitVec 11) (lim : BitVec 8) : Prop :=
  let k := s.pkgAt p
  let e := k.graphAt pl.graph
  let twin := d.slots ≤ i
  let j := i % d.slots
  let mine := (taken.drop (32 * j)).take 32
  let c : Option (BitVec 12) := if d.lockstep then pl.chans.head? else pl.chans[j]?
  let follows := twin ∨ d.lockstep = true ∧ j ≠ 0
  let t := u.slotAt g
  let regs := (u.cellAt g.pkg g.cell).vregs
  (follows → t.mode = .subscribed ∧ t.subscribed = c ∧ t.publishing = none) ∧
  (¬ follows → t.mode = .run ∧ t.subscribed = none ∧ t.publishing = (if pl.chans = [] then none else c) ∧
    ∀ x, c = some x → (Table.get ({} : Chan) (u.pkgAt g.pkg).chans x.toNat).publisher = some g) ∧
  t.place = (d.desc.getD 0 0, 0, {}) ∧ t.regBase = base ∧ t.regLim = lim ∧ t.priv = false ∧ t.pid = e.pid ∧
  t.sreg 1 = BitVec.ofNat 64 (pl.node.toNat + pl.graph.toNat * 2 ^ 12) ∧ t.sreg 2 = BitVec.ofNat 64 mine.length ∧
  t.sreg 3 = BitVec.ofNat 64 d.groupSeq.toNat ∧ t.sreg 4 = d.desc.getD 1 0 ∧ t.sreg 5 = BitVec.ofNat 64 d.recSize ∧
  (∀ r : SReg, 5 < r.toNat → t.sreg r = 0) ∧ (∀ l < 32, t.count l = if l < mine.length then 0 else 1) ∧
  t.node = t.sreg 1 ∧ t.group = t.sreg 3 ∧ t.recCnt = BitVec.ofNat 64 taken.length ∧
  t.gang = BitVec.ofNat 64 (j + (d.slots - 1) * 2 ^ 8) ∧ t.groupLead = decide (j = 0) ∧
  (∃ m, t.depth = BitVec.ofNat 64 m ∧ (∀ r ∈ taken, r.depth ≤ m) ∧ (m = 0 ∨ ∃ r ∈ taken, r.depth = m)) ∧
  (∃ m, t.member = some m ∧ m.graph = pl.graph ∧ m.node = pl.node ∧ m.seq = d.groupSeq ∧ m.launch = e.nextLaunch ∧
    m.index = j ∧ (m.twin = true ↔ twin) ∧ m.recs = mine.map (·.seq) ∧ m.opNum = 0 ∧
    m.partner = (if d.redundant then (pl.placed[if twin then j else j + d.slots]?).map (·.1) else none)) ∧
  t.hold = some { why := .group, till := s.cycleAt g.pkg + 64 } ∧
  (∀ l < 32, (Table.get VReg.zero regs base.toNat).getD l 0 =
    match mine[l]? with | some r => BitVec.ofNat 32 (r.seq.toNat % d.qcap * d.recSize) | none => 0) ∧
  ∀ q, base.toNat < q → q < base.toNat + lim.toNat → Table.get VReg.zero regs q = VReg.zero

/-- R295, R302 to R306: a full placement whose 8 cycles have passed becomes a group with the next launch number. It takes the
oldest launchable records, which are delivered, holds its channels, and starts its slots and twins; the node's group sequence
advances. The places are of present packages and differ, and so do the channels, as in every state that a run reaches. -/
def Sys2Proof.Claims.GroupCommits : Prop :=
  ∀ (s : State) (p : PkgId) (q : BitVec 3) (pl : Placement) (d : Node), s.hasPkg p = true → ((s.pkgAt p).part q).place = some pl →
    (s.pkgAt p).nodeAt pl.graph pl.node = some d → pl.nextAt ≤ (s.pkgAt p).cycle → d.total ≤ pl.placed.length →
    let e := (s.pkgAt p).graphAt pl.graph
    let taken := d.launchable.take (32 * d.slots)
    ∃ u, exec (.groupCommit p q) s = .next u ∧
      let e' := (u.pkgAt p).graphAt pl.graph
      e'.nextLaunch = e.nextLaunch + 1 ∧ e'.groups = e.groups ++
        [{ launch := e.nextLaunch, node := pl.node, slots := pl.placed.map (·.1), chans := pl.chans }] ∧
      (∃ d', (u.pkgAt p).nodeAt pl.graph pl.node = some d' ∧ d'.groupSeq = d.groupSeq + 1 ∧
        ∀ r ∈ taken, ∃ r' ∈ d'.recs, r'.seq = r.seq ∧ r'.delivered = true) ∧
      (∀ c ∈ pl.chans, (Table.get ({} : Chan) (u.pkgAt p).chans c.toNat).held = true) ∧
      ∀ i g base lim, pl.placed[i]? = some (g, base, lim) → i < d.total → pl.chans.Nodup →
        (∀ y ∈ pl.placed, y.1.pkg = p ∧ 0 < y.2.2.toNat) →
        (∀ j y, pl.placed[j]? = some y → j ≠ i → y.1 ≠ g ∧ (y.1.cell = g.cell →
          y.2.1.toNat + y.2.2.toNat ≤ base.toNat ∨ base.toNat + lim.toNat ≤ y.2.1.toNat)) →
        GroupSlot s u p pl d taken i g base lim

/-- R306: an exited slot of a group becomes IDLE, with its window and its reservation records free; a group whose slots have
exited and whose posted stores have been acknowledged ends, and the graph's timeline advances. -/
def Sys2Proof.Claims.GroupEnds : Prop :=
  ∀ (s : State) (p : PkgId), s.hasPkg p = true →
    (∀ g : GRef, g.pkg = p → (s.slotAt g).mode = .exited → (s.slotAt g).member ≠ none → (s.slotAt g).evict = .none →
      s.compares g = false → ∃ u, exec (.groupSlotReturn g) s = .next u ∧ SameMemory s u ∧ (u.slotAt g).mode = .idle ∧
        (u.slotAt g).regBase = 0 ∧ (u.slotAt g).regLim = 0 ∧ (u.slotAt g).fkind = 0 ∧ (u.slotAt g).member = none ∧
        let owned (e : Nat × Word) : Prop := e.2.toNat / 2 ^ 56 % 2 ^ 4 = g.slot.toNat
        let t := s.cellAt p g.cell
        let t' := u.cellAt p g.cell
        (∀ e, e ∈ t'.obres ↔ e ∈ t.obres ∧ ¬ owned e) ∧ ∀ e, e ∈ t'.bsres ↔ e ∈ t.bsres ∧ ¬ owned e) ∧
    ∀ x launch gr, ((s.pkgAt p).graphAt x).mode = .resident →
      ((s.pkgAt p).graphAt x).groups.find? (·.launch == launch) = some gr →
      (∀ g ∈ gr.slots, (s.slotAt g).inGroup x gr.launch = false ∧
        ∀ o ∈ (s.slotAt g).ops, o.launch = some (x, gr.launch) → o.beforeRelease = false) →
      ∃ u, exec (.groupEnd p x launch) s = .next u ∧ SameMemory s u ∧
        ((u.pkgAt p).graphAt x).groups = ((s.pkgAt p).graphAt x).groups.filter (·.launch != launch) ∧
        let ended (n : Nat) : Prop := n = launch ∨ NumSet.has ((s.pkgAt p).graphAt x).ended n = true
        ∀ n < 2 ^ 64, (∀ i, 1 ≤ i → i ≤ n → ended i) → ¬ ended (n + 1) →
          Table.get 0 (u.pkgAt p).tgCount x.toNat = BitVec.ofNat 64 n

/-- R290: the limits of the fields of a descriptor. -/
def Sys2Proof.Claims.descriptorFits (ws : List Word) : Prop :=
  let w (i : Nat) : Nat := (ws.getD i 0).toNat
  let field (lo n : Nat) : Nat := w 2 / 2 ^ lo % 2 ^ n
  w 0 / 2 ^ 57 = 16 ∧ w 0 % 4 = 0 ∧ w 1 % 16 = 0 ∧
  (w 1 / 2 ^ 57 = 16 ∨
    w 1 / 2 ^ 52 = 2 ^ 8 ∧ w 1 % 2 ^ 28 + 2 ^ field 28 5 * (16 * field 14 7) ≤ 0x200000) ∧
  8 ≤ field 40 8 ∧ field 40 8 ≤ 128 ∧ field 40 8 % 8 = 0 ∧ field 39 1 = 0 ∧ 1 ≤ field 28 5 ∧ field 28 5 ≤ 22 ∧
  1 ≤ field 21 7 ∧ field 21 7 ≤ 64 ∧ 1 ≤ field 14 7 ∧ field 14 7 ≤ 64 ∧ field 0 14 = 0 ∧
  w 3 / 2 ^ 12 % 2 ^ 20 = 0 ∧ 1 ≤ w 3 % 2 ^ 12 ∧ w 3 % 2 ^ 12 ≤ Min.min (32 * field 21 7) (2 ^ field 28 5)

/-- R300: the partition-relative cell and the slot number of group slot `k`, or of its twin, of group sequence `seq` of node `n`,
among `m` cells. -/
def Sys2Proof.Claims.pinnedPlace (m n slots seq k : Nat) (twin : Bool) : Nat × Nat :=
  let j := seq * slots + k
  let slot := 1 + (n + j / m) % 15
  if twin then ((j % m + m / 2) % m, 1 + (slot - 1 + 7) % 15) else (j % m, slot)

/-- R288, code 5: a node that can be placed in an empty partition of `w` by `h` cells. The places of pinned groups repeat after
`15 * w * h` of them. -/
def Sys2Proof.Claims.placeable (ws : List Word) (w h n : Nat) : Prop :=
  let x := (ws.getD 2 0).toNat
  let slots := x / 2 ^ 21 % 2 ^ 7
  let twins := x.testBit 34
  let apart (a b : Nat) : Nat := (a % w - b % w) + (b % w - a % w) + ((a / w - b / w) + (b / w - a / w))
  slots * (1 + twins.toNat) ≤ 15 * (w * h) ∧
  (x.testBit 33 = true → ∀ seq < 15 * (w * h),
    let at_ := pinnedPlace (w * h) n slots seq
    (∀ a b : Nat × Bool, a.1 < slots → b.1 < slots → (twins = false → a.2 = false ∧ b.2 = false) → a ≠ b →
      at_ a.1 a.2 ≠ at_ b.1 b.2) ∧
    (twins = true → ∀ k < slots, 2 ≤ apart (at_ k false).1 (at_ k true).1))

/-- R288: what reading the descriptors of the listed nodes comes to: the nodes, or the first failure with its node, by code 2, 3, 5
and 6 in turn for each node; code 0 stands for a read that still waits. -/
def Sys2Proof.Claims.Loads (p : PkgId) (e : Graph) : List Nat → State → List Node → Option (Nat × Nat) → Prop
  | [], _, ds, r => ds = [] ∧ r = none
  | n :: rest, s, ds, r => ∃ v,
    (hubReads p e.pid 8 s (e.nodeBase + BitVec.ofNat 64 (64 * n)) = (v, .error none) ∧ r = some (0, n)) ∨
    (∃ f, hubReads p e.pid 8 s (e.nodeBase + BitVec.ofNat 64 (64 * n)) = (v, .error (some f)) ∧ r = some (2, n)) ∨
    ∃ ws, hubReads p e.pid 8 s (e.nodeBase + BitVec.ofNat 64 (64 * n)) = (v, .ok ws) ∧
      let x := (ws.getD 2 0).toNat
      let need := if x.testBit 35 then 1 else if x.testBit 34 then x / 2 ^ 21 % 2 ^ 7 else 0
      let good := descriptorFits ws ∧ placeable ws e.w.toNat e.h.toNat n ∧ need ≤ e.chCount.toNat
      (¬ descriptorFits ws → r = some (3, n)) ∧
      (descriptorFits ws → ¬ placeable ws e.w.toNat e.h.toNat n → r = some (5, n)) ∧
      (descriptorFits ws → placeable ws e.w.toNat e.h.toNat n → e.chCount.toNat < need → r = some (6, n)) ∧
      (good → ∃ more, ds = { desc := ws } :: more ∧ Loads p e rest v more r)

/-- R34, R251, R288, R290, R296, R300, R312: a graph that is LOADING fails with the code and the node of the first check that it does
not pass, or is RESIDENT with the descriptors as read, empty queues, and a timeline at 0 without its mark; it stays LOADING while a
read waits. A teardown ends at FREE. The rectangle of an open partition lies in the mesh. -/
def Sys2Proof.Claims.GraphLoads : Prop :=
  ∀ (s : State) (p : PkgId) (x : BitVec 6), s.hasPkg p = true →
    ((s.tornDown p x = true → ∃ u, exec (.graphTeardownComplete p x) s = .next u ∧ ((u.pkgAt p).graphAt x).mode = .free)) ∧
    (((s.pkgAt p).graphAt x).mode = .loading →
      let e := (s.pkgAt p).graphAt x
      let own := (s.pkgAt p).part e.loadPart
      let base := e.nodeBase.toNat / 2 ^ 57 = 16 ∧ e.nodeBase.toNat % 64 = 0
      let where_ := e.x0.toNat = own.field 0 0 6 ∧ e.y0.toNat = own.field 0 8 6 ∧ e.w.toNat = own.field 0 16 7 ∧
        e.h.toNat = own.field 0 24 7
      let ends (f : Pkg → Prop) : Prop := ∃ u, exec (.graphLoadComplete p x) s = .next u ∧ f (u.pkgAt p)
      let fails (code n : Nat) : Prop := ends fun k => (k.graphAt x).mode = .free ∧ (k.graphAt x).rcode = BitVec.ofNat 8 code ∧
        (k.graphAt x).rnode = BitVec.ofNat 12 n
      (¬ base → fails 1 0) ∧ (base → ¬ where_ → fails 4 0) ∧
      (base → where_ → e.x0.toNat + e.w.toNat ≤ 64 → e.y0.toNat + e.h.toNat ≤ 64 →
        ∀ ds r, Loads p e (List.range (e.nodesM1.toNat + 1)) s ds r →
          (r = none → ends fun k => (k.graphAt x).mode = .resident ∧ (k.graphAt x).rcode = 0 ∧ (k.graphAt x).rnode = 0 ∧
            (k.graphAt x).nodes = ds ∧ (k.graphAt x).nextLaunch = 1 ∧ (k.graphAt x).groups = [] ∧
            Table.get 0 k.tgCount x.toNat = 0 ∧ NumSet.has k.tgMark x.toNat = false) ∧
          (∀ n, r = some (0, n) → exec (.graphLoadComplete p x) s = .next s) ∧
          ∀ code n, r = some (code, n) → code ≠ 0 → fails code n))

/-- R292, R400: an entry of a host ring becomes a committed record of the root node, where the ring holds no more entries than its
size. -/
def Sys2Proof.Claims.HostAppends : Prop :=
  ∀ (s : State) (p : PkgId) (x : BitVec 6), s.hasPkg p = true → (s.pkgAt p).ringDue x = true →
    let k := s.pkgAt p
    let r := k.ring x
    (2 ^ r.log.toNat < r.prod.toNat - r.cons.toNat → exec (.hostRecordAppend p x) s =
      .next (s.mapPkg p fun k => { k with rings := Table.put k.rings x.toNat { r with err := true } })) ∧
    (r.prod.toNat - r.cons.toNat ≤ 2 ^ r.log.toNat → ∀ d v ws, k.nodeAt x 0 = some d →
      hubReads p (k.graphAt x).pid (d.recSize / 8 - 1) s
        (r.base + BitVec.ofNat 64 (d.recSize * (r.cons.toNat % 2 ^ r.log.toNat) + 8)) = (v, .ok ws) →
      ∃ u d', exec (.hostRecordAppend p x) s = .next u ∧ ((u.pkgAt p).ring x).cons = r.cons + 1 ∧
        (u.pkgAt p).nodeAt x 0 = some d' ∧ d'.alloc = d.alloc + 1)

/-- R288, R293 to R297, R299 to R306, R312, R400: the Shawm at work: requests, placements, the start and the end of groups, loads
and teardowns of graphs, and the entries of the host's rings. -/
def Obligations.ShawmEvents : Prop :=
  NodeRequests ∧ PlacementSteps ∧ GroupCommits ∧ GroupEnds ∧ GraphLoads ∧ HostAppends

/-! ## Partitions and their mailboxes -/

/-- R287, R288, R312, R335, R372, R373, R375, R377: the mailbox commands other than SLOTCTL. Each is turned away with its
STATUS where the state of the graph or of the partition does not allow it, and else takes effect: GRAPHLOAD and GRAPHTEAR
begin to load and to tear down, INVAL begins, FENCE and UNFENCE complete at once, RESET kills every slot of the rectangle
and SWITCH begins to drain the old colour. A killed slot is EXITED once its producers have written (R366). The mailbox unit reads
CMDP and fetches the next command. One with a reserved bit set completes with STATUS 2, one with an unknown OP with 3, GRAPHTEAR
of a slot supervisor and RESET or SWITCH of one inside its own rectangle with 4, and one with an operand beyond its limits with 2.
-/
def Obligations.MailboxCommands : Prop :=
  ∀ (s : State) (p : PkgId) (q : BitVec 3), s.hasPkg p = true →
    let k := s.pkgAt p
    let part := k.part q
    (∀ c : Cmd, part.cmd = some c → c.begun = false → c.finish = none →
      let b := s.mapPart p q fun y => { y with cmd := some { c with begun := true } }
      let w (i : Nat) : Nat := (c.opnds.getD i 0).toNat
      let turns (i : Instr) (status : Byte) : Prop := exec i s = .next (completeCmd b p q 0 status)
      let x : BitVec 6 := BitVec.ofNat 6 c.arg.toNat
      let g := k.graphAt x
      (c.op = 2 →
        let good := w 1 % 2 ^ 12 = 0 ∧ w 1 / 2 ^ 24 % 2 ^ 12 + w 1 / 2 ^ 36 % 2 ^ 12 ≤ 4096 ∧ w 2 / 2 ^ 31 % 2 ^ 31 = 0 ∧
          w 2 / 2 ^ 23 % 2 = 0 ∧ w 2 / 2 ^ 14 % 2 ^ 2 = 0 ∧ w 2 / 2 ^ 6 % 2 ^ 2 = 0 ∧
          ∀ lo ∈ [16, 24], 1 ≤ w 2 / 2 ^ lo % 2 ^ 7 ∧ w 2 / 2 ^ lo % 2 ^ 7 ≤ 64
        (¬ good → turns (.graphload p q) 2) ∧
        (good → g.mode ≠ .free → turns (.graphload p q) 1) ∧
        (good → g.mode = .free → ∃ u, exec (.graphload p q) s = .next u ∧
          let e := (u.pkgAt p).graphAt x
          SameMemory s u ∧ e.mode = .loading ∧ e.nodeBase = c.opnds.getD 0 0 ∧ e.pid.toNat = w 1 / 2 ^ 48 ∧
          e.chCount.toNat = w 1 / 2 ^ 36 % 2 ^ 12 ∧ e.chBase.toNat = w 1 / 2 ^ 24 % 2 ^ 12 ∧
          e.nodesM1.toNat = w 1 / 2 ^ 12 % 2 ^ 12 ∧ e.h.toNat = w 2 / 2 ^ 24 % 2 ^ 7 ∧ e.w.toNat = w 2 / 2 ^ 16 % 2 ^ 7 ∧
          e.y0.toNat = w 2 / 2 ^ 8 % 2 ^ 6 ∧ e.x0.toNat = w 2 % 2 ^ 6 ∧ e.loadPart = q)) ∧
      (c.op = 3 →
        (g.mode ≠ .resident → turns (.graphtear p q) 1) ∧
        (g.mode = .resident → g.loadPart ≠ q → turns (.graphtear p q) 4) ∧
        (g.mode = .resident → g.loadPart = q → ∃ u, exec (.graphtear p q) s = .next u ∧
          ((u.pkgAt p).graphAt x).mode = .tearing ∧ ((u.pkgAt p).ring x).cons = (k.ring x).prod ∧
          (∀ y, ((u.pkgAt p).part q).place = some y → y.graph ≠ x) ∧
          (∀ h ∈ s.groupSlots p x, (u.slotAt h).mode = .idle ∨ (u.slotAt h).mode = .exited ∨ (u.slotAt h).dying = true) ∧
          ((∀ h ∈ u.groupSlots p x, (u.slotAt h).dying = false) →
            ((u.pkgAt p).graphAt x).nodes = [] ∧ (g.nodes ≠ [] → NumSet.has (u.pkgAt p).tgMark x.toNat = true)))) ∧
      (c.op = 4 → (badInval (w 0) (w 1) (w 2) = true → turns (.inval p q) 2) ∧
        (badInval (w 0) (w 1) (w 2) = false → exec (.inval p q) s = .next b)) ∧
      (c.op = 5 → (part.mode ≠ .active → turns (.mboxFence p q) 1) ∧
        (part.mode = .active → ∃ u, exec (.mboxFence p q) s = .next (completeCmd u p q 0 0) ∧ SameMemory s u ∧
          ((u.pkgAt p).part q).mode = .fenced ∧ ((u.pkgAt p).part q).place = none)) ∧
      (c.op = 6 → (part.mode ≠ .fenced → turns (.unfence p q) 1) ∧
        (part.mode = .fenced → ∃ u, exec (.unfence p q) s = .next (completeCmd u p q 0 0) ∧ SameMemory s u ∧
          ((u.pkgAt p).part q).mode = .active)) ∧
      (c.op = 7 → (part.mode ≠ .active → part.mode ≠ .fenced → turns (.reset p q) 1) ∧
        (part.mode = .active ∨ part.mode = .fenced → ∃ u, exec (.reset p q) s = .next u ∧
          ((u.pkgAt p).part q).mode = .resetting ∧ ∀ g : GRef, g.pkg = p → part.hasCell g.cell = true →
            (u.slotAt g).mode = .idle ∨ (u.slotAt g).mode = .exited ∨ (u.slotAt g).dying = true)) ∧
      (c.op = 8 →
        let new : BitVec 4 := BitVec.ofNat 4 c.arg.toNat
        let still := ∀ e ∈ s.partSlots p part,
          e.2.mode = .idle ∨ e.2.mode = .exited ∨ e.2.mode = .trapped ∨ e.2.mode = .spilled
        let may := (part.mode = .active ∨ part.mode = .fenced) ∧ still
        (¬ may → turns (.switch p q) 1) ∧ (may → k.colourTaken q new = true → turns (.switch p q) 2) ∧
        (may → k.colourTaken q new = false → ∃ u, exec (.switch p q) s = .next u ∧ SameMemory s u ∧
          ((u.pkgAt p).part q).mode = .switching ∧ ((u.pkgAt p).part q).newColour = new ∧
          ((u.pkgAt p).part q).colour = part.colour))) ∧
    (let a := s.mapPart p q fun y => { y with polled := k.time, doorbell := false }
     part.cmd = none → exec (.mailboxDoorbell p q) s = exec (.mailboxPoll p q) s ∧
       (part.mode ≠ .free → k.hubWrites = [] → ∀ v cmdp cmdc,
         hubReads p part.pid 2 a (part.mailbox + 0x10) = (v, .ok [cmdp, cmdc]) →
         (cmdp = cmdc → exec (.mailboxPoll p q) s = .next v) ∧
         (cmdp ≠ cmdc → ∀ z ws, hubReads p part.pid 6 v (part.commandAt cmdc.toNat) = (z, .ok ws) →
           let c : Cmd := { op := BitVec.ofNat 8 (ws.headD 0).toNat, arg := BitVec.ofNat 8 ((ws.headD 0).toNat / 2 ^ 16)
                            opnds := (ws.drop 1).take 5
                            malformed := decide (2 ^ 24 ≤ (ws.headD 0).toNat) || (ws.headD 0).toNat / 2 ^ 8 % 2 ^ 8 != 0 }
           let u := z.mapPart p q fun y => { y with cmd := some c }
           (c.malformed = true → exec (.mailboxPoll p q) s = .next (completeCmd u p q 0 2)) ∧
           let own := part.hostSup = false ∧ part.super.pkg = p ∧ part.hasCell part.super.cell = true
           let barred := c.op = 3 ∧ part.hostSup = false ∨ (c.op = 7 ∨ c.op = 8) ∧ own
           let beyond := c.op = 1 ∧ 11 < (c.opnds.getD 1 0).toNat ∨ (c.op = 2 ∨ c.op = 3) ∧ 64 ≤ c.arg.toNat ∨
             c.op = 8 ∧ 16 ≤ c.arg.toNat
           let known := 1 ≤ c.op.toNat ∧ c.op.toNat ≤ 8
           (c.malformed = false → ¬ known → exec (.mailboxPoll p q) s = .next (completeCmd u p q 0 3)) ∧
           (c.malformed = false → known → barred → exec (.mailboxPoll p q) s = .next (completeCmd u p q 0 4)) ∧
           (c.malformed = false → known → ¬ barred → beyond → exec (.mailboxPoll p q) s = .next (completeCmd u p q 0 2)) ∧
           (c.malformed = false → known → ¬ barred → ¬ beyond → exec (.mailboxPoll p q) s = .next u)))) ∧
    ∀ c, part.cmd = some c → c.finish = none → exec (.mailboxDoorbell p q) s =
      .next (s.mapPart p q fun y => { y with polled := k.time, doorbell := true })

/-- R335, R370, R371, R373, R375 to R377: what ends a command, and OPEN and CLOSE. An invalidation, once no access translated
before through an entry that it drops is left, leaves no cached entry that it covers, at whatever level; a reset of either kind makes
the cells of the rectangle zero, with their scratchpads, B-stores and operand buffers, and IDLE, and starts the lead programs, and forces the drain it waits for at its deadline; a switch takes the new colour
when the old one has drained, or at its deadline, fenced and with the old one retired; OPEN resets the rectangle of an entry
that passes its checks; CLOSE frees a partition whose slots are IDLE and whose graphs are FREE. -/
def Obligations.PartitionEvents : Prop :=
  ∀ (s : State) (p : PkgId) (q : BitVec 3), s.hasPkg p = true →
    let k := s.pkgAt p
    let part := k.part q
    let ends (i : Instr) (status : Byte) (f : State → Prop) : Prop := ∃ u, exec i s = .next (completeCmd u p q 0 status) ∧ f u
    (∀ c, part.cmd = some c → c.op = 4 → c.begun = true → c.finish = none →
      let w (i : Nat) : Nat := (c.opnds.getD i 0).toNat
      let named : BitVec 16 := BitVec.ofNat 16 (w 0 / 2 ^ 16)
      let covers (pid : BitVec 16) (lo hi : Nat) : Prop :=
        w 0 % 4 = 0 ∨ pid = named ∧ (w 0 % 4 = 2 → lo < w 1 + w 2 ∧ w 1 < hi)
      let span (x : PageEntry) : Nat × Nat :=
        let size := 2 ^ (48 - 9 * x.level)
        let block := x.level = 4 ∧ x.index % 16 = 0 ∧ x.entry.testBit 1 = true ∧ x.entry.testBit 8 = true
        (x.index * size, (x.index + if block then 16 else 1) * size)
      let range (x : ProcEntry) : Nat × Nat := (x.words.getD 0 0 / 2 ^ 12 % 2 ^ 45 * 4096, x.words.getD 1 0 / 2 ^ 12 % 2 ^ 45 * 4096)
      let serves (pid' : BitVec 16) (e : Nat × Nat) (pid : BitVec 16) (lo hi : Nat) : Prop := pid' = pid ∧ lo < e.2 ∧ e.1 < hi
      let drops (e : Station) (pid : BitVec 16) (lo hi : Nat) : Prop := covers pid lo hi ∨
        (∃ x ∈ e.pages, covers x.pid (span x).1 (span x).2 ∧ serves x.pid (span x) pid lo hi) ∨
        ∃ x ∈ e.procs, x.index ≠ 0 ∧ covers x.pid (range x).1 (range x).2 ∧ serves x.pid (range x) pid lo hi
      let past (c : CellId) (pid : BitVec 16) (us : List OpUnit) : Prop := ∀ y ∈ us, y.path = .edge → y.done = false →
        ∀ x ∈ y.elts, ¬ drops (Table.get {} k.stations (stationOf c)) pid (x.addr.toNat % 2 ^ 57) (x.addr.toNat % 2 ^ 57 + x.n)
      let done := (∀ e ∈ k.allSlots p, ∀ o ∈ e.2.ops, past e.1.cell o.pid o.units) ∧
        (∀ e ∈ k.cells, ∀ x ∈ e.2.streams, ∀ f ∈ x.2.flight, past (BitVec.ofNat 12 e.1) f.pid f.units) ∧
        ∀ x ∈ k.hubWrites, x.signal = none → x.launch = none → ∀ e : Station, e = {} ∨ (∃ n, (n, e) ∈ k.stations) →
          ¬ drops e named (x.addr.toNat % 2 ^ 57) (x.addr.toNat % 2 ^ 57 + x.bytes.length)
      (¬ done → exec (.invalidationComplete p q) s = .next s) ∧
      (done → ends (.invalidationComplete p q) 0 fun u => SameMemory s u ∧ ∀ e ∈ (u.pkgAt p).stations,
        (∀ x ∈ e.2.pages, ¬ covers x.pid (span x).1 (span x).2) ∧
        ∀ x ∈ e.2.procs, (x.index = 0 → w 0 % 4 = 2 ∨ ¬ covers x.pid 0 1) ∧
          (x.index ≠ 0 → ¬ covers x.pid (range x).1 (range x).2))) ∧
    (part.mode = .resetting → part.forced = false → part.switchAt + 100000 ≤ k.time →
      resetBusy s p q = true ∨ colourDrained s p part part.colour = false → ∃ u, exec (.partitionResetComplete p q) s = .next u ∧
        ((u.pkgAt p).part q).mode = .resetting ∧ ((u.pkgAt p).part q).forced = true ∧
        ((u.pkgAt p).part q).retired.getLsbD part.colour.toNat = true) ∧
    (part.mode = .resetting → resetBusy s p q = false → colourDrained s p part part.colour = true →
      ∃ u, exec (.partitionResetComplete p q) s =
          .next (if part.opening then u else completeCmd u p q 0 (if part.forced then 5 else 0)) ∧
        ((u.pkgAt p).part q).mode = (if part.opening then .active else .fenced) ∧
        ∀ c, part.hasCell c = true → (s.cellAt p c).waiters = [] → part.hostSup = true →
          let t := u.cellAt p c
          t.spad = [] ∧ t.bstore = [] ∧ t.opbuf = [] ∧ t.spadEmpty = [] ∧ t.spadPoison = [] ∧ t.bPoison = [] ∧ t.opBad = [] ∧
          t.active = true ∧ t.acc = [] ∧ t.vregs = [] ∧ t.barriers = [] ∧ t.streams = [] ∧
          (∀ n : SlotId, n ≠ 0 ∨ part.word 6 = 0 → (t.slotAt n).mode = .idle ∧ (t.slotAt n).sregs = []) ∧
          (part.word 6 ≠ 0 → (t.slotAt 0).mode = .run ∧ (t.slotAt 0).place = (part.word 6, 0, {}) ∧ (t.slotAt 0).regBase = 0 ∧
            (t.slotAt 0).regLim = BitVec.ofNat 8 (part.field 4 8 8) ∧ (t.slotAt 0).pid = part.pid)) ∧
    (part.mode = .switching →
      let drained := colourDrained s p part part.colour
      (drained = true → ends (.switchDrainComplete p q) 0 fun u => SameMemory s u ∧ ((u.pkgAt p).part q).mode = .active ∧
        ((u.pkgAt p).part q).colour = part.newColour) ∧
      (drained = false → part.switchAt + 100000 ≤ k.time → ends (.switchDeadline p q) 5 fun u =>
        ((u.pkgAt p).part q).mode = .fenced ∧ ((u.pkgAt p).part q).colour = part.newColour ∧
        ((u.pkgAt p).part q).retired.getLsbD part.colour.toNat = true)) ∧
    (k.bringUp = .ready →
      (part.mode ≠ .free → exec (.partOpen p q) s = .next (s.mapPkg p fun k => { k with mresult := 1 })) ∧
      (part.mode = .free → k.openRefused p q = true →
        exec (.partOpen p q) s = .next (s.mapPkg p fun k => { k with mresult := 2 })) ∧
      (part.mode = .free → k.openRefused p q = false → ∃ u, exec (.partOpen p q) s = .next u ∧ (u.pkgAt p).mresult = 0 ∧
        ((u.pkgAt p).part q).mode = .resetting ∧ ((u.pkgAt p).part q).opening = true ∧ ((u.pkgAt p).part q).retired = 0) ∧
      let may := (part.mode = .active ∨ part.mode = .fenced) ∧ (∀ e ∈ s.partSlots p part, e.2.mode = .idle) ∧
        ∀ e ∈ k.graphs, e.2.loadPart = q → e.2.mode = .free
      (¬ may → exec (.close p q) s = .next (s.mapPkg p fun k => { k with mresult := 1 })) ∧
      (may → ∃ u, exec (.close p q) s = .next u ∧ (u.pkgAt p).mresult = 0 ∧ ((u.pkgAt p).part q).mode = .free ∧
        ∀ c, part.hasCell c = true → (u.cellAt p c).active = false))

/-! ## Protection groups and redundant groups -/

/-- R346: the sum over the data members of a stripe of one byte each, plain for P, times `2^i` in the field for Q. -/
def Sys2Proof.Claims.dataSum (g : ProtGroup) (n : Nat) (q : Bool) (b : Nat → Byte) : Byte :=
  (g.dataOf n).foldl (fun acc i => acc ^^^ (if q then BitVec.ofNat 8 (gfMul (gfPow 2 i) (b i).toNat) else b i)) 0

/-- Byte `j` of protected sector `sec` of frame `n` of a package. -/
def Sys2Proof.Claims.protByte (s : State) (p : PkgId) (n sec j : Nat) : Byte :=
  Table.get 0 (s.pkgAt p).hbm ((s.pkgAt p).prot.base + 4096 * n + 32 * sec + j)

/-- R354: where a survivor's delta stands after a DECLARE, when it stood at `a` before. -/
def Sys2Proof.Claims.Resent (g : ProtGroup) (a b : Delta) : Prop :=
  let left (h : Nat) : Prop := g.isLost h = false
  (b.id, b.frame, b.sector, b.phase, b.bytes, b.issuer) = (a.id, a.frame, a.sector, a.phase, a.bytes, a.issuer) ∧
  (a.stage = .parityAck → b.stage = .parityAck) ∧
  (left (g.holderP a.frame) → a.stage = .toP ∨ a.stage = .ack → b.stage = a.stage) ∧
  (¬ left (g.holderP a.frame) → (∃ h, g.holderQ a.frame = some h ∧ left h) → a.stage ≠ .parityAck → b.stage = .toQ) ∧
  (¬ left (g.holderP a.frame) → (∀ h, g.holderQ a.frame = some h → ¬ left h) → b.stage = .parityAck) ∧
  (left (g.holderP a.frame) → a.stage = .forwarded → (∀ h, g.holderQ a.frame = some h → ¬ left h) → b.stage = .ack)

/-- R342, R343, R354 to R358, R402: the commands of a group record and what ends its states. A package that is not READY
ignores them.
ENABLE, DISABLE, DECLARE and REBUILD are refused with their code in the wrong state, for a malformed record, a member that is lost
already, or an unsuitable spare; else the group enters INIT, OFF, QUIESCING or REBUILDING, at every member for whose state the
table lists the command; a survivor in another state answers 1 and stays. A command that is written to a member which has itself been
declared lost reaches no other. A group that is initialised holds zeros and is NORMAL; a
drained one is DEGRADED, or FAILED with more losses than its scheme survives, at every member that is QUIESCING and at no other. -/
def Sys2Proof.Claims.GroupCommands : Prop :=
  ∀ (s : State) (p : PkgId), s.hasPkg p = true →
    let g := (s.pkgAt p).prot
    let result (i : Instr) (r : Byte) : Prop :=
      exec i s = .next (s.mapPkg p fun k => { k with prot := { k.prot with result := r } })
    let enters (i : Instr) (f : ProtGroup → Prop) : Prop := ∃ u, exec i s = .next u ∧ f (u.pkgAt p).prot
    let listed (x : ProtMode) : Prop := x = .normal ∨ x = .degraded ∨ x = .rebuilding
    let alone : Prop := (s.pkgAt p).lost = true
    ((s.pkgAt p).bringUp ≠ .ready → ∀ m, ∀ i ∈ [Instr.enable p, .disable p, .declare p m, .rebuild p], exec i s = .next s) ∧
    ((s.pkgAt p).bringUp = .ready →
      (g.mode ≠ .off → result (.enable p) 1) ∧
      (g.mode = .off → s.protMalformed p = true → result (.enable p) 2) ∧
      (g.mode = .off → (∃ m < g.members, (g.word (2 + m / 4)).toNat / 2 ^ (16 * (m % 4) + 12) % 2 ^ 4 ≠ 0) → result (.enable p) 2) ∧
      (g.mode = .off → s.protMalformed p = false → (enters (.enable p) fun x =>
        x.mode = .init ∧ x.result = 0 ∧ x.lost = 0 ∧ x.words = g.words) ∧
        ∀ u, exec (.enable p) s = .next u → (u.pkgAt p).lost = false ∧ SameMemory s u) ∧
      (g.mode = .normal ∨ g.mode = .failed → enters (.disable p) fun x => x.mode = .off ∧ x.result = 0 ∧ x.lost = 0) ∧
      (g.mode ≠ .normal → g.mode ≠ .failed → result (.disable p) 1) ∧
      (∀ m : BitVec 4,
        let lost := g.member m.toNat
        let g' : ProtGroup := { g with lost := g.lost ||| BitVec.ofNat 16 (2 ^ m.toNat) }
        (¬ listed g.mode → result (.declare p m) 1) ∧
        (listed g.mode → g.members ≤ m.toNat ∨ g.isLost m.toNat = true → result (.declare p m) 5) ∧
        (listed g.mode → m.toNat < g.members → g.isLost m.toNat = false → ∃ u, exec (.declare p m) s = .next u ∧
          (u.pkgAt p).prot.result = 0 ∧
          (alone → ∀ x, x ≠ p → u.pkgAt x = s.pkgAt x) ∧
          let still := (∀ x, (s.pkgAt x).hubWrites = []) ∧ ∀ x, (s.slotAt x).ops = []
          (¬ alone → ((List.range g.members).map g.member).Nodup → (s.hasPkg lost = true → (u.pkgAt lost).lost = true ∧
              (still → (u.pkgAt lost).deltas = [] ∧ (u.pkgAt lost).forwards = [])) ∧
            ∀ i < g.members, i ≠ m.toNat → g.isLost i = false → s.hasPkg (g.member i) = true →
              let q := g.member i
              (¬ listed (s.pkgAt q).prot.mode → (u.pkgAt q).prot.mode = (s.pkgAt q).prot.mode ∧
                (q ≠ p → (u.pkgAt q).prot.result = 1)) ∧
              (listed (s.pkgAt q).prot.mode → (u.pkgAt q).prot.mode = .quiescing ∧ (u.pkgAt q).prot.lost = g'.lost ∧
                (q ≠ p → (u.pkgAt q).prot.result = 0) ∧
                (still →
                  List.Forall₂ (Resent g') (s.pkgAt q).deltas (u.pkgAt q).deltas ∧
                  ∀ x, x ∈ (u.pkgAt q).forwards ↔ x ∈ (s.pkgAt q).forwards ∧
                    ∃ h, g'.holderQ x.frame = some h ∧ g'.isLost h = false))))) ∧
      (let pairs := g.lostMembers.zipIdx.map fun e => (e.1, g.spare e.2)
       let fit := (∀ e ∈ pairs, s.suitable p g e.1 e.2 = true) ∧ (pairs.map (·.2)).Nodup
       (g.mode ≠ .degraded → result (.rebuild p) 1) ∧ (g.mode = .degraded → ¬ fit → result (.rebuild p) 4) ∧
       (g.mode = .degraded → fit → ∃ u, exec (.rebuild p) s = .next u ∧ SameMemory s u ∧
         (alone → ∀ x, x ≠ p → u.pkgAt x = s.pkgAt x) ∧
         (¬ alone → ((List.range g.members).map g.member).Nodup → ∀ i < g.members, g.isLost i = false →
           s.hasPkg (g.member i) = true →
           let x := (s.pkgAt (g.member i)).prot
           let y := (u.pkgAt (g.member i)).prot
           (x.mode = .degraded → y.mode = .rebuilding ∧ y.cursor = 0 ∧ y.rebuilt = [] ∧ y.spares = pairs ∧ y.result = 0) ∧
           (x.mode ≠ .degraded → y.mode = x.mode ∧ y.result = 1))))) ∧
    (g.mode = .init → ∃ u, exec (.protectionInitComplete p) s = .next u ∧ (u.pkgAt p).prot = { g with mode := .normal } ∧
      ∀ a, Table.get 0 (u.pkgAt p).hbm a = if g.base ≤ a ∧ a < g.base + 4352 * g.frames then 0
        else Table.get 0 (s.pkgAt p).hbm a) ∧
    (g.mode = .quiescing →
      let drains (x : PkgId) : Prop := (if (s.pkgAt p).lost then x = p else ∃ i < g.members, g.isLost i = false ∧ g.member i = x) ∧
        (s.pkgAt x).prot.mode = .quiescing
      let still := ∀ x, drains x → (s.pkgAt x).forwards = [] ∧ ∀ d ∈ (s.pkgAt x).deltas, d.stage = .parityAck
      (¬ still → exec (.quiesceDrainComplete p) s = .next s) ∧
      (still → ∃ u, exec (.quiesceDrainComplete p) s = .next u ∧ ∀ x, s.hasPkg x = true →
        (drains x → (u.pkgAt x).prot.mode = if (if g.isPq then 2 else 1) < g.losses then .failed else .degraded) ∧
        (¬ drains x → (u.pkgAt x).prot = (s.pkgAt x).prot)))

/-- R346, R352, R356, R357: A STRIPE IS REBUILT by the member whose turn it is. Every survivor counts it; after the last stripe
the
group is NORMAL with no member lost. It waits while a spare does not answer. Where the survivors' sectors can be read and no more
members are lost than the scheme survives, the spares hold what makes the stripe whole: with the data members' sectors, the rebuilt ones among them, P's sector is
their sum and Q's the sum of their multiples, wherever that equation was needed. A rebuilt data sector has the phase that the
holder keeps from which it was solved. Under P alone, with a survivor's data sector unreadable, nothing determines the rest, and
the spare's sector is poisoned. -/
def Sys2Proof.Claims.StripeRebuilt : Prop :=
  ∀ (s : State) (p : PkgId) (n : Nat), s.hasPkg p = true →
    let g := (s.pkgAt p).prot
    let ps := ((List.range g.members).filter fun i => !g.isLost i).map g.member
    let final := g.rebuilt.length + 1 = g.frames
    g.mode = .rebuilding → n < g.frames → NumSet.has g.rebuilt n = false → ps[n % ps.length]? = some p → ps.Nodup →
    (s.pkgAt p).lost = false →
    ((∃ e ∈ g.spares, s.hasPkg e.2 = false ∨ s.answers p e.2 = false) → exec (.stripeRebuild p n) s = .next s) ∧
    ((∀ e ∈ g.spares, s.hasPkg e.2 = true ∧ s.answers p e.2 = true) → g.spares.map (·.1) = g.lostMembers →
      (∀ i < g.members, g.isLost i = false →
        s.hasPkg (g.member i) = true ∧ s.answers p (g.member i) = true ∧ (s.pkgAt (g.member i)).prot.mode ≠ .off) →
    ∃ u, exec (.stripeRebuild p n) s = .next u ∧
      (¬ final → (u.pkgAt p).prot.mode = .rebuilding ∧ NumSet.has (u.pkgAt p).prot.rebuilt n = true ∧
        (u.pkgAt p).prot.cursor = g.cursor + 1) ∧
      (final → (u.pkgAt p).prot.mode = .normal ∧ (u.pkgAt p).prot.lost = 0 ∧ (u.pkgAt p).prot.cursor = 0) ∧
      let spareOf (i : Nat) : Option PkgId := (g.spares.find? (·.1 == i)).map (·.2)
      let whole (i : Nat) : PkgId := (spareOf i).getD (g.member i)
      let hp := g.holderP n
      let hq := g.holderQ n
      ((((List.range g.members).map g.member) ++ g.spares.map (·.2)).Nodup →
        (∀ i < g.members, s.hasPkg (whole i) = true ∧ (s.pkgAt (whole i)).prot.base = g.base ∧
          (s.pkgAt (whole i)).prot.frames = g.frames) → ∀ sec < 128,
        let poisoned (v : State) (i : Nat) : Prop := (v.pkgAt (whole i)).protPoisoned n sec = true
        let sums (q : Bool) (h : Nat) : Prop :=
          ∀ j < 32, protByte u (whole h) n sec j = dataSum g n q fun i => protByte u (whole i) n sec j
        let lostData := (g.dataOf n).filter g.isLost
        ((∀ i < g.members, g.isLost i = false → ¬ poisoned s i) →
          g.losses ≤ (if g.isPq then 2 else 1) →
          (∀ i < g.members, ¬ poisoned u i) ∧
          (lostData ≠ [] ∨ g.isLost hp = true → sums false hp) ∧
          (∀ h, hq = some h → 1 < g.members → lostData.length = 2 ∨ g.isLost h = true ∨ (lostData ≠ [] ∧ g.isLost hp = true) →
            sums true h) ∧
          ∀ i ∈ lostData, ((u.pkgAt (whole i)).tag n sec).testBit 0 =
            s.tagBit g (if g.isLost hp then hq.getD hp else hp) n sec i) ∧
        (g.isPq = false → (∃ i ∈ g.dataOf n, g.isLost i = false ∧ poisoned s i) →
          ∀ i < g.members, g.isLost i = true → poisoned u i)))

/-- R342, R343, R346, R352, R354 to R358, R402: the commands of protection groups and the rebuild of a stripe. -/
def Obligations.ProtectionCommands : Prop := GroupCommands ∧ StripeRebuilt

/-- R347: what a delta holds for member `i`'s sector has been applied at holder `h` of a group, with the bytes times the member's
coefficient at the Q holder, once for each phase; no other byte of that memory changed. -/
def Sys2Proof.Claims.Applied (s u : State) (g : ProtGroup) (holder i n sec : Nat) (ph q : Bool) (bytes : List Byte) : Prop :=
  let h := g.member holder
  let k := s.pkgAt h
  let at_ := k.prot.base + 4096 * n + 32 * sec
  let tag_ := k.prot.tags + 256 * n + 2 * sec
  ((k.tag n sec).testBit i = ph → SameMemory s u) ∧
  ((k.tag n sec).testBit i ≠ ph →
    (∀ j < 32, Table.get 0 (u.pkgAt h).hbm (at_ + j) = Table.get 0 k.hbm (at_ + j) ^^^
      (if q then BitVec.ofNat 8 (gfMul (gfPow 2 i) (bytes.getD j 0).toNat) else bytes.getD j 0)) ∧
    (i < 16 → ((u.pkgAt h).tag n sec).testBit i = ph) ∧
    (∀ a, (a < at_ ∨ at_ + 32 ≤ a) → (a < tag_ ∨ tag_ + 2 ≤ a) → Table.get 0 (u.pkgAt h).hbm a = Table.get 0 k.hbm a) ∧
    ∀ x, x ≠ h → (u.pkgAt x).hbm = (s.pkgAt x).hbm)

/-- R347, R350, R353, R354: THE DELTA PROTOCOL. The P holder applies a delta and acknowledges it, or under PQ forwards it to the Q
holder, which applies it in its turn; with P lost the delta goes to Q itself. The acknowledgement of the holder makes the
delta no longer outstanding; the parity acknowledgement reaches the issuer. A member that has not answered for 1 ms is
reported, once until it has answered. -/
def Sys2Proof.Claims.DeltaEvents : Prop :=
  ∀ (s : State) (p : PkgId), s.hasPkg p = true →
    let g := (s.pkgAt p).prot
    let fits (holder n sec : Nat) (bytes : List Byte) : Prop :=
      let k := s.pkgAt (g.member holder)
      s.holderUp g p holder = true ∧ n < k.prot.frames ∧ sec < 128 ∧ bytes.length = 32 ∧ k.protPoisoned n sec = false
    (∀ x d, (s.pkgAt p).deltaAt x = some d →
      let stands (u : State) (t : DeltaStage) : Prop := ((u.pkgAt p).deltaAt x).map (·.stage) = some t
      (d.stage = .toP → fits (g.holderP d.frame) d.frame d.sector d.bytes → ∃ u, exec (.parityDelta p x) s = .next u ∧
        Applied s u g (g.holderP d.frame) g.me d.frame d.sector d.phase false d.bytes ∧
        let h := g.member (g.holderP d.frame)
        ((∀ q, g.holderQ d.frame = some q → g.isLost q = true) → stands u .ack) ∧
        ∀ q, g.holderQ d.frame = some q → g.isLost q = false → stands u .forwarded ∧ (u.pkgAt h).forwards =
          (s.pkgAt h).forwards ++ [{ id := (s.pkgAt h).nextDelta, member := p, delta := d.id, index := g.me, frame := d.frame
                                     sector := d.sector, phase := d.phase, bytes := d.bytes, since := (s.pkgAt h).time }]) ∧
      (d.stage = .toQ → (s.pkgAt p).forwardAt x = none → ∀ q, g.holderQ d.frame = some q → 1 < g.members →
        fits q d.frame d.sector d.bytes → ∃ u, exec (.deltaForward p x) s = .next u ∧
          Applied s u g q g.me d.frame d.sector d.phase true d.bytes ∧ stands u .ack) ∧
      (d.stage = .ack → s.answers (g.member (g.acknowledger d)) p = true → ∃ u, exec (.deltaAcknowledgement p x) s = .next u ∧
        stands u .parityAck ∧ SameMemory s u) ∧
      (d.stage = .parityAck → d.orphan = false →
        let done := s.mapPkg p fun k => { k with deltas := k.deltas.filter (·.id != x) }
        (∀ i c, d.issuer = .slot i c → s.toIssuer p d.issuer = true → exec (.parityAcknowledgement p x) s =
          .next (done.mapSlot i fun t => { t with parityOut := t.parityOut - 1 })) ∧
        (d.issuer = .hub → exec (.parityAcknowledgement p x) s = .next done))) ∧
    (∀ x f, (s.pkgAt p).forwardAt x = some f → ∀ q, g.holderQ f.frame = some q → 1 < g.members →
      fits q f.frame f.sector f.bytes → ∃ u, exec (.deltaForward p x) s = .next u ∧
        Applied s u g q f.index f.frame f.sector f.phase true f.bytes ∧ (u.pkgAt p).forwardAt x = none ∧
        (((s.pkgAt f.member).deltaAt f.delta).isSome = true →
          ((u.pkgAt f.member).deltaAt f.delta).map (·.stage) = some .ack)) ∧
    ∀ m : PkgId,
      let asks (q : PkgId) (x : Nat) : Prop := s.canReconstruct q x = true ∧
        (p = q ∧ s.coordinator q x = m ∧ m ≠ q ∨
          s.coordinator q x = p ∧ (s.answers p m = false ∨ (s.pkgAt m).prot.mode = .off) ∧
            let g := (s.pkgAt q).prot
            ∃ i ∈ s.helpers g ((32 * x - g.base) / 4096) ((32 * x - g.base) % 4096 / 32) g.me, g.member i = m)
      let waits := (∃ d ∈ (s.pkgAt p).deltas, d.since + 1000000 ≤ (s.pkgAt p).time ∧ d.stage ≠ .parityAck ∧
          g.member (g.acknowledger d) = m) ∨
        (∃ x ∈ (s.pkgAt p).forwards, x.since + 1000000 ≤ (s.pkgAt p).time ∧ ∃ h, g.holderQ x.frame = some h ∧ g.member h = m) ∨
        ∃ e ∈ s.pkgs, ∃ a ∈ e.2.asked, a.2 + 1000000 ≤ e.2.time ∧ asks (BitVec.ofNat 12 e.1) a.1
      (¬ waits → exec (.deltaSilence p m) s = .next (s.mapPkg p fun k => { k with prot :=
        { k.prot with silent := NumSet.erase k.prot.silent m.toNat } })) ∧
      (waits → NumSet.has g.silent m.toNat = true → exec (.deltaSilence p m) s = .next s) ∧
      (waits → NumSet.has g.silent m.toNat = false → ∃ u, exec (.deltaSilence p m) s = .next u ∧
        SameMemory s u ∧ NumSet.has (u.pkgAt p).prot.silent m.toNat = true ∧ (u.pkgAt p).mevent.getLsbD 1 = true ∧
        (u.pkgAt p).mevent.toNat / 2 ^ 16 % 2 ^ 12 = m.toNat ∧ (u.pkgAt p).intstat.getLsbD 0 = true)

/-- R336, R337, R352, R353: A POISONED PROTECTED SECTOR IS RECONSTRUCTED from the rest of its stripe. A data sector gets the
bytes that
make P the sum of the data, or Q where P's sector cannot be read; with another data sector missing too, those with which both
equations hold. A redundant sector is computed from the data. The phases go with it, and no other byte changes. A
reconstruction that cannot take place yet has been asked for. A scrubbed unit with an error is poisoned. -/
def Sys2Proof.Claims.SectorEvents : Prop :=
  ∀ (s : State) (p : PkgId) (k : Pkg), Table.find s.pkgs p.toNat = some k →
    (∀ x, s.canReconstruct p x = true →
      let g := k.prot
      let n := (32 * x - g.base) / 4096
      let sec := (32 * x - g.base) % 4096 / 32
      let tag_ := g.tags + 256 * n + 2 * sec
      let c := s.coordinator p x
      (s.reconstructs p x = false → Table.find k.asked x = none → exec (.sectorReconstruction p x) s =
        .next (s.mapPkg p fun k => { k with asked := Table.put k.asked x k.time })) ∧
      (s.reconstructs p x = true → g.member g.me = p → g.me < g.members → g.isLost g.me = false →
        ∃ u, exec (.sectorReconstruction p x) s = .next u ∧ NumSet.has (u.pkgAt p).hbmPoison x = false ∧
        Table.find (u.pkgAt p).asked x = none ∧ (∀ q, q ≠ p → u.pkgAt q = s.pkgAt q) ∧ (u.pkgAt p).ddr = k.ddr ∧
        (u.pkgAt p).cells = k.cells ∧
        (∀ a, (a < 32 * x ∨ 32 * x + 32 ≤ a) → (a < tag_ ∨ tag_ + 2 ≤ a) → Table.get 0 (u.pkgAt p).hbm a = Table.get 0 k.hbm a) ∧
        let dat (b : Nat → Byte) (j i : Nat) : Byte := if i = g.me then Table.get 0 (u.pkgAt p).hbm (32 * x + j) else
          if i ∈ unreadable s c g n sec then b i else protByte s (g.member i) n sec j
        let red (h j : Nat) : Byte := protByte s (g.member h) n sec j
        let can (h : Nat) : Prop := (s.protRead c g h n sec).isSome = true
        (g.role n g.me = .data → ∀ j < 32,
          (unreadable s c g n sec = [g.me] → can (g.holderP n) → red (g.holderP n) j = dataSum g n false (dat 0 j)) ∧
          (unreadable s c g n sec = [g.me] → ¬ can (g.holderP n) → ∀ h, g.holderQ n = some h →
            red h j = dataSum g n true (dat 0 j)) ∧
          ((unreadable s c g n sec).length = 2 → ∀ h, g.holderQ n = some h → ∃ b : Nat → Byte,
            red (g.holderP n) j = dataSum g n false (dat b j) ∧ red h j = dataSum g n true (dat b j))) ∧
        (g.role n g.me = .data → ∀ h, (can (g.holderP n) ∧ h = g.holderP n) ∨ (¬ can (g.holderP n) ∧ g.holderQ n = some h) →
          ((u.pkgAt p).tag n sec).testBit 0 = s.tagBit g h n sec g.me) ∧
        (g.role n g.me ≠ .data → (∀ j < 32, Table.get 0 (u.pkgAt p).hbm (32 * x + j) =
            dataSum g n (g.role n g.me == .q) fun i => protByte s (g.member i) n sec j) ∧
          ∀ i ∈ g.dataOf n, ((u.pkgAt p).tag n sec).testBit i = s.tagBit g i n sec 0))) ∧
    (∀ u, exec (.patrolScrub p u false) s = .next s) ∧
    (∀ c n, n < 0x40000 → exec (.patrolScrub p (.spad c n) true) s =
      .next (s.mapCell p c fun t => { t with spadPoison := NumSet.insert t.spadPoison n })) ∧
    (∀ c n, n < 0x20000 → exec (.patrolScrub p (.bstore c n) true) s =
      .next (s.mapCell p c fun t => { t with bPoison := NumSet.insert t.bPoison n })) ∧
    (∀ g (r : SReg), g.pkg = p → r ≠ 0 → exec (.patrolScrub p (.sreg g r) true) s =
      .next (s.mapSlot g fun t => { t with sPoison := NumSet.insert t.sPoison r.toNat })) ∧
    (∀ c n, n < 0x8000 → exec (.patrolScrub p (.vreg c n) true) s =
      .next (s.mapCell p c fun t => { t with vPoison := NumSet.insert t.vPoison n })) ∧
    (∀ c n, n < 0x2000 → exec (.patrolScrub p (.acc c n) true) s =
      .next (s.mapCell p c fun t => { t with accPoison := NumSet.insert t.accPoison n })) ∧
    (∀ c n, n < 0x40000 → exec (.patrolScrub p (.opbuf c n) true) s =
      .next (s.mapCell p c fun t => { t with opBad := NumSet.insert t.opBad n })) ∧
    ∀ n, (32 * n < k.capacity false → exec (.patrolScrub p (.hbm n) true) s =
        .next (s.mapPkg p fun k => { k with hbmPoison := NumSet.insert k.hbmPoison n })) ∧
      (32 * n < k.capacity true → exec (.patrolScrub p (.ddr n) true) s =
        .next (s.mapPkg p fun k => { k with ddrPoison := NumSet.insert k.ddrPoison n }))

/-- R378, R379: THE COMPARISON OF REDUNDANT OPERATIONS. Equal hashes let the primary's operation go; different ones trap
REDUNDANCY
in both slots, and a hash that does not arrive within 4,096 cycles in the primary. -/
def Sys2Proof.Claims.TwinEvents : Prop :=
  ∀ (s : State) (a : GRef), s.hasPkg a.pkg = true →
    let t := s.slotAt a
    let stops (u : State) (a : GRef) : Prop := (u.slotAt a).mode = .trapped ∧ (u.slotAt a).fkind = Kind.redundancy.code
    let live (t : Slot) (o : Op) : Prop := (t.mode = .run ∨ t.mode = .parked ∨ t.mode = .subscribed) ∧ t.lateFault = false ∧
      t.dying = false ∧ t.lastOp = some o.id
    (∀ id o m w n h x, s.opOf a id = some o → t.member = some m → m.twin = true → m.partner = some w → o.shadow = true →
      o.performed = false → o.num = some (n, h) → s.heldOp w n = some x → s.hasPkg w.pkg = true →
      (x.num = some (n, h) → exec (.twinHashArrival a id) s = .next (s.mapOp w x.id fun x => { x with held := false })) ∧
      (∀ y, x.num = some (n, y) → y ≠ h → a ≠ w → live t o → live (s.slotAt w) x →
        ∃ u, exec (.twinHashArrival a id) s = .next u ∧ stops u a ∧ stops u w)) ∧
    ∀ x, t.ops.find? (fun x => x.held && decide (x.since + 4096 ≤ s.cycleAt a.pkg)) = some x → live t x →
      ∃ u, exec (.twinHashTimeout a) s = .next u ∧ stops u a

/-- R336, R337, R346, R347, R350, R352 to R354, R378, R379: the delta protocol, errors in memory, and the comparison of redundant
operations. -/
def Obligations.RedundancyEvents : Prop := DeltaEvents ∧ SectorEvents ∧ TwinEvents

/-! ## The host and the fabric -/

/-- R337, R345, R347, R352: bytes of one sector of device memory have been written at place `l`, for issuer `i`. A plain write changes
those bytes alone, and clears the poison of a sector that it covers. A protected one changes the sector and its phase, and its delta
sets out; of a poisoned sector that nothing reconstructs it changes the bytes, and only one that covers the sector clears the poison;
no delta sets out. -/
def Sys2Proof.Claims.SectorWritten (s u : State) (l : Loc) (bs : List Byte) (i : Issuer) : Prop :=
  let k := s.pkgAt l.pkg
  let k' := u.pkgAt l.pkg
  let byte (x : Nat) (old : Byte) : Byte := if l.off ≤ x ∧ x < l.off + bs.length then bs.getD (x - l.off) 0 else old
  let cleared (n : Nat) : Prop := l.off ≤ 32 * n ∧ 32 * n + 32 ≤ l.off + bs.length
  (l.store = .ddr → (∀ x, Table.get 0 k'.ddr x = byte x (Table.get 0 k.ddr x)) ∧ k'.hbm = k.hbm ∧ k'.deltas = k.deltas ∧
    ∀ n, NumSet.has k'.ddrPoison n = true ↔ NumSet.has k.ddrPoison n = true ∧ ¬ cleared n) ∧
  (l.store = .hbm → l.prot = false → (∀ x, Table.get 0 k'.hbm x = byte x (Table.get 0 k.hbm x)) ∧ k'.ddr = k.ddr ∧
    k'.deltas = k.deltas ∧ ∀ n, NumSet.has k'.hbmPoison n = true ↔ NumSet.has k.hbmPoison n = true ∧ ¬ cleared n) ∧
  (l.store = .hbm → l.prot = true → k.prot.base ≤ l.off → l.off < k.prot.tags →
    let g := k.prot
    let n := (l.off - g.base) / 4096
    let sec := (l.off - g.base) % 4096 / 32
    let at_ := g.base + 4096 * n + 32 * sec
    let tag_ := g.tags + 256 * n + 2 * sec
    (k.protPoisoned n sec = false →
      (∀ x, (x < tag_ ∨ tag_ + 2 ≤ x) → Table.get 0 k'.hbm x = byte x (Table.get 0 k.hbm x)) ∧
      (∀ b, (k'.tag n sec).testBit b = if b = 0 then !(k.tag n sec).testBit 0 else (k.tag n sec).testBit b) ∧
      ∃ d, k'.deltas = k.deltas ++ [d] ∧ (d.frame, d.sector, d.stage, d.issuer) = (n, sec, DeltaStage.toP, i) ∧
        d.phase = (k'.tag n sec).testBit 0 ∧ d.bytes.length = 32 ∧
        ∀ j < 32, d.bytes.getD j 0 = Table.get 0 k'.hbm (at_ + j) ^^^ Table.get 0 k.hbm (at_ + j)) ∧
    (k.protPoisoned n sec = true → k'.deltas = k.deltas ∧
      (bs.length < 32 → (∀ x, Table.get 0 k'.hbm x = byte x (Table.get 0 k.hbm x)) ∧ k'.hbmPoison = k.hbmPoison) ∧
      (l.off = at_ → bs.length = 32 → (∀ h < g.members, g.role n h ≠ .data → g.member h ≠ l.pkg) →
        (∀ x, (x < tag_ ∨ tag_ + 2 ≤ x) → Table.get 0 k'.hbm x = byte x (Table.get 0 k.hbm x)) ∧
        k'.protPoisoned n sec = false)))

/-- R281, R345, R347, R348, R386, R388, R398, R399: one sector's part of a write of the host. One that is not translated is dropped
and reported; one that its place refuses likewise. One whose place does not answer, or has a delta of the sector outstanding, waits
after the earlier ones, as does every later one; else it is performed, under a number of its own. -/
def Sys2Proof.Claims.HostPart (p : PkgId) (s : State) (e : Word × List Byte) (u : State) : Prop :=
  let pid : BitVec 16 := BitVec.ofNat 16 (s.pkgAt p).wpid.toNat
  (∀ v f, hostTranslate s p e.1 .strWrite = (v, .error f) → u = reportFault v p pid f) ∧
  ∀ v l, hostTranslate s p e.1 .strWrite = (v, .ok l) → l.store = .hbm ∨ l.store = .ddr →
    (l.store = .hbm → v.canReconstruct l.pkg (l.off / 32) = false) →
    let i : Issuer := .host ((v.pkgAt p).hostWrites * 4096 + p.toNat)
    let first := (v.pkgAt p).hubWrites = []
    let refused := v.hubRefusal p pid e.1 l .strWrite
    let answers := v.linked p l.pkg = true ∧ (l.prot = true → (v.pkgAt l.pkg).protReady l.off = true)
    (first → ∀ f, refused = some f → SameMemory v u ∧ (u.pkgAt p).waiting = ((reportFault v p pid f).pkgAt p).waiting) ∧
    (¬ first ∨ refused = none ∧ ¬ answers → SameMemory v u ∧ ∃ w, (u.pkgAt p).hubWrites = (v.pkgAt p).hubWrites ++ [w] ∧
      (w.loc, w.addr, w.bytes, w.issuer) = (l, e.1, e.2, i)) ∧
    (first → refused = none → answers → v.hasPkg l.pkg = true → SectorWritten v u l e.2 i)

/-- The parts of a write, one after another. -/
def Sys2Proof.Claims.HostParts (p : PkgId) : State → List (Word × List Byte) → State → Prop
  | s, [], u => u = s
  | s, e :: r, u => ∃ v, HostPart p s e v ∧ HostParts p v r u

/-- R281: the parts of a write in the sectors that it touches, in order. -/
def Sys2Proof.Claims.inSectors (a : Nat) (bs : List Byte) : List (Word × List Byte) :=
  (List.range 9).filterMap fun i =>
    let lo := Max.max a (a / 32 * 32 + 32 * i)
    let hi := Min.min (a + bs.length) (a / 32 * 32 + 32 * i + 32)
    if lo < hi then some (BitVec.ofNat 64 lo, (bs.drop (lo - a)).take (hi - lo)) else none

/-- R405: the bytes of a report that the package produces now. -/
def Sys2Proof.Claims.ReportHolds (k : Pkg) (r : List Byte) : Prop :=
  let at_ (off n : Nat) : List Byte := (r.drop off).take n
  let words (n : Nat) (f : Nat → Word) : List Byte := (List.range n).flatMap fun w => leBytes 8 (f w).toNat
  let fuses : Word := BitVec.ofNat 64 (k.id.toNat + k.domain.toNat * 2 ^ 12)
  at_ 0 4 = leBytes 4 1 ∧ at_ 4 4 = leBytes 4 (k.id.toNat + k.domain.toNat * 2 ^ 12) ∧ (k.nonce.length = 32 → at_ 8 32 = k.nonce) ∧
  at_ 0x28 32 = fitBytes 32 (Config.sm3 Config.romImage) ∧ at_ 0x48 32 = fitBytes 32 (Config.sm3 Config.firmwareImage) ∧
  at_ 0x68 32 = fitBytes 32 (Config.sm3 (Config.fuseSet fuses k.minVersion)) ∧
  at_ 0x88 32 = fitBytes 32 (Config.sm3 (((List.range 8).flatMap fun q => words 8 ((k.part (BitVec.ofNat 3 q)).readWord)) ++
    words 10 k.prot.readWord)) ∧
  at_ 0xA8 8 = leBytes 8 Config.securityVersion ∧ at_ 0xB0 8 = leBytes 8 k.time ∧ at_ 0xB8 8 = leBytes 8 k.mstat.toNat ∧
  at_ 0xC0 64 = fitBytes 64 (Config.sm2Sign (Config.sm3 (r.take 0xC0)))

/-- R342, R352, R387, R388, R394 to R403, R405: the host's accesses and registers. A write or read of BAR2 goes to the window-2
address WBASE plus the offset, under WPID, a write of up to 256 bytes sector by sector; one that is not translated, or refused at its
place, writes nothing, or reads all-ones, and is reported; one for which no port is up waits. SVFENCE
captures the protected writes that are outstanding; INTSTAT and MEVENT are cleared by ones; the fuses are programmed once;
the other registers take writes in READY. A report is produced and completes. -/
def Obligations.HostAccesses : Prop :=
  ∀ (s : State) (p : PkgId) (k : Pkg), Table.find s.pkgs p.toNat = some k →
    let put (f : Pkg → Pkg) : Host.Outcome State Fault Refusal := .next (s.mapPkg p f)
    let a (off : Word) : Word := BitVec.ofNat 64 ((k.wbase.toNat + off.toNat) % 2 ^ 60 + 2 * 2 ^ 60)
    let pid : BitVec 16 := BitVec.ofNat 16 k.wpid.toNat
    (k.bringUp = .ready →
      (∀ off bytes, off.toNat + bytes.length ≤ 2 ^ 38 →
        bytes.length ∈ [1, 2, 4, 8] ∧ off.toNat % bytes.length = 0 ∨ 16 ≤ bytes.length ∧ bytes.length ≤ 256 →
        ∃ u, exec (.hostWrite p off bytes) s = .next u ∧ HostParts p s (inSectors (a off).toNat bytes) u) ∧
      (∀ (off : Word), ∀ n ∈ [1, 2, 4, 8], off.toNat % n = 0 → off.toNat + n ≤ 2 ^ 38 → k.hubWrites = [] →
        (∀ v f, hostTranslate s p (a off) .strRead = (v, .error f) → ∃ u, exec (.hostRead p off n) s = .next u ∧
          (u.pkgAt p).lastRead = BitVec.ofNat 64 (2 ^ (8 * n) - 1) ∧
          (u.pkgAt p).waiting = ((reportFault v p pid f).pkgAt p).waiting) ∧
        ∀ v l, hostTranslate s p (a off) .strRead = (v, .ok l) → v.hubRefuses l = false →
          (l.store = .hbm → v.canReconstruct l.pkg (l.off / 32) = false) →
          (v.linked p l.pkg = false → exec (.hostRead p off n) s = .next s) ∧
          (v.linked p l.pkg = true → ∀ b, v.peek l n = some b →
            exec (.hostRead p off n) s = .next (v.mapPkg p fun k => { k with lastRead := BitVec.ofNat 64 (leNat b) })) ∧
          (v.linked p l.pkg = true → v.peek l n = none → ∃ u, exec (.hostRead p off n) s = .next u ∧
            (u.pkgAt p).lastRead = BitVec.ofNat 64 (2 ^ (8 * n) - 1) ∧
            (u.pkgAt p).waiting = ((reportFault v p pid (eccFault (a off) l)).pkgAt p).waiting)) ∧
      exec (.svfence p) s = put (fun k => { k with svCaptured := s.hostOut p, svdone := if s.hostOut p = [] then 1 else 0 }) ∧
      (∀ v : Word, exec (.intstat p v) s = put (fun k => { k with intstat := k.intstat &&& ~~~v }) ∧
        exec (.mevent p v) s = put (fun k => { k with mevent := k.mevent &&& ~~~v }) ∧
        (∃ n, k.cycle + 16 ≤ n ∧ n < k.cycle + 272 ∧ n % 256 = 0 ∧ exec (.pwrcap p v) s = put (fun k =>
          { k with pwrcap := BitVec.ofNat 4 v.toNat, capNext := k.capNext.filter (·.1 != n) ++ [(n, BitVec.ofNat 4 v.toNat)] })) ∧
        (∃ u, exec (.timectlStep p v) s = .next u ∧ (u.pkgAt p).timectl = v &&& 0x3F81 ∧
          (k.openParts = [] → 0 ≤ (k.time : Int) + (v.extractLsb' 32 32).toInt →
            (k.time : Int) + (v.extractLsb' 32 32).toInt < 2 ^ 64 →
            ((u.pkgAt p).time : Int) = (k.time : Int) + (v.extractLsb' 32 32).toInt ∧
            (k.time ≤ k.syncAt → (u.pkgAt p).syncAt - (u.pkgAt p).time = k.syncAt - k.time)) ∧
          (k.openParts ≠ [] → (u.pkgAt p).time = k.time)) ∧
        exec (.registerWrite p .wbase v) s = put (fun k => { k with wbase := v }) ∧
        exec (.registerWrite p .wpid v) s = put (fun k => { k with wpid := v &&& 0xFFFF }) ∧
        exec (.registerWrite p .procbase v) s = put (fun k => { k with procbase := v }) ∧
        exec (.registerWrite p .timectl v) s = put (fun k => { k with timectl := v &&& 0x3F81 }) ∧
        exec (.registerWrite p .hostFcidx v) s = put (fun k => { k with hostFcidx := v }) ∧
        exec (.registerWrite p .intmask v) s = put (fun k => { k with intmask := v &&& 0x3FF }) ∧
        (∀ q w, (k.part q).mode ≠ .free → exec (.registerWrite p (.partWord q w) v) s = .next s) ∧
        (∀ q, (k.part q).mode = .free → exec (.registerWrite p (.partWord q 3) v) s = put (fun k =>
          let d : Part := { k.part q with words := Table.put (k.part q).words 3 v }
          { k with parts := Table.put k.parts q.toNat d })) ∧
        (∀ w, k.prot.mode ≠ .off → exec (.registerWrite p (.groupWord w) v) s = .next s) ∧
        (∀ w, k.prot.mode = .off → 2 ≤ w.toNat → w.toNat ≤ 5 → exec (.registerWrite p (.groupWord w) v) s = put (fun k =>
          { k with prot := { k.prot with words := Table.put k.prot.words w.toNat v } })) ∧
        (∀ w : Nat, 2 ≤ w → w ≤ 5 → k.prot.readWord w = k.prot.word w &&& 0x0FFF0FFF0FFF0FFF) ∧
        (∀ g, (k.graphAt g).mode ≠ .free → exec (.registerWrite p (.ringWord g 0) v) s = .next s) ∧
        (∀ g, exec (.registerWrite p (.ringWord g 2) v) s = put (fun k =>
          let d : HostRing := { k.ring g with prod := v }
          { k with rings := Table.put k.rings g.toNat d }))) ∧
      exec (.produceReport p) s = put (fun k => { k with reporting := true })) ∧
    (k.reporting = true → ∃ u, exec (.reportComplete p) s = .next u ∧ (u.pkgAt p).reporting = false ∧
      ReportHolds k (u.pkgAt p).report) ∧
    (∀ v : Word, k.fused = false → s.hasPkg (BitVec.ofNat 12 v.toNat) = false ∨ BitVec.ofNat 12 v.toNat = p →
      ∃ u k', exec (.fusepkg p v) s = .next u ∧ Table.find u.pkgs (v.toNat % 2 ^ 12) = some k' ∧
        k' = { k with id := BitVec.ofNat 12 v.toNat, domain := BitVec.ofNat 8 (v.toNat / 2 ^ 12), fused := true }) ∧
    (∀ v : Word, k.fused = true → exec (.fusepkg p v) s = .next s) ∧
    (k.bringUp = .halt → ∀ off, k.doorbellWord off = 0 ∧ (off ≠ 0 → off ≠ 0x48 → (off < 0x400 ∨ 0x600 ≤ off) → k.windowWord off = 0)) ∧
    (k.bringUp ≠ .ready → ∀ (v off : Word) (b : List Byte) (n : Nat) (r : HostReg),
      ∀ i ∈ [Instr.hostWrite p off b, .hostRead p off n, .svfence p, .intstat p v, .mevent p v, .timectlStep p v, .pwrcap p v,
        .produceReport p, .registerWrite p r v], exec i s = .next s)

/-- R386, R388, R391 to R394, R396, R403, R404: ports, clocks, power and bring-up. Errors of a link cost time alone, but for the
sixteenth replay of one flit, which fails the port; a port that trains comes UP, one that fails is reported; a package without
an UP port for 1 ms is out of reach. A correction of the time base slews by at most 500 ppm, a member's toward its master;
without its reference it is uncertain. A thermal trip takes the package away; a reset leaves its memory, and whether it has been
declared lost, which is the model's reading (log 33); with either the SUPER slots of its partitions are no longer privileged. Bring-up goes
through its stages; in AUTH the checks of the firmware image are made in their order. The model's own choices (log 8): the rate
deviates by at most 251 ppm without its reference and comes back by one ppm a cycle, and a member knows its offset to the
master within 16 ns; that a replay is of the flit replayed last is open (log 6). -/
def Obligations.FabricEvents : Prop :=
  ∀ (s : State) (p : PkgId) (k : Pkg), Table.find s.pkgs p.toNat = some k →
    let put (f : Pkg → Pkg) : Host.Outcome State Fault Refusal := .next (s.mapPkg p f)
    let port (u : State) (x : BitVec 5) : Nat := (Table.get 0 (u.pkgAt p).ports x.toNat).toNat
    (∀ x, k.portUp x.toNat = false → exec (.flitReplay p x) s = .next s) ∧
    (∀ x, k.portUp x.toNat = true → ∃ u, exec (.flitReplay p x) s = .next u ∧ SameMemory s u ∧
      (port u x = port s x ∨ 15 ≤ Table.get 0 k.replays x.toNat ∧ port u x = port s x / 4 * 4 + 3 ∧
        (u.pkgAt p).mevent.getLsbD 3 = true)) ∧
    (∀ x peer dom, port s x % 4 = 1 → ∃ u, exec (.portUp p x peer dom) s = .next u ∧ SameMemory s u ∧
      port u x = port s x % 16 / 4 * 4 + 2 + dom.toNat * 2 ^ 16 + peer.toNat * 2 ^ 24) ∧
    (∀ x peer dom, port s x % 4 ≠ 1 → exec (.portUp p x peer dom) s = .next s) ∧
    (∀ x, port s x % 4 = 1 ∨ port s x % 4 = 2 → ∃ u, exec (.portFailure p x) s = .next u ∧ SameMemory s u ∧
      port u x = port s x / 4 * 4 + 3 ∧ (u.pkgAt p).mevent.getLsbD 3 = true ∧
      (u.pkgAt p).mevent.toNat / 2 ^ 32 % 2 ^ 6 = x.toNat ∧ (u.pkgAt p).intstat.getLsbD 0 = true) ∧
    (∀ m, m ≠ p → k.routeDead m = true → ∃ u, exec (.routeUnreachable p m) s = .next u ∧
      NumSet.has (u.pkgAt p).unreachable m.toNat = true) ∧
    (k.syncAt ≤ k.time → ∃ u, exec (.timeSync p) s = .next u ∧ (u.pkgAt p).syncAt = k.syncAt + 1000000 ∧
      (u.pkgAt p).time = k.time ∧
      (k.follows = true → -500 ≤ (u.pkgAt p).slewPpm ∧ (u.pkgAt p).slewPpm ≤ 500 ∧ (k.refLost = true → (u.pkgAt p).timeUnc = true)) ∧
      (k.follows = true → k.timectl.getLsbD 0 = false → ∀ m, s.masterOf k = some m → ∃ e : Int, -16 ≤ e ∧ e ≤ 16 ∧
        let off : Int := 17000000 * m.time + m.timeFrac - (17000000 * k.time + k.timeFrac) + 17000000 * e
        (u.pkgAt p).slewPpm = max (-500) (min 500 (m.slewPpm + off / 17000000)) ∧
        ((u.pkgAt p).timeUnc = true ↔ k.refLost = true ∨ 20 * 17000000 < off.natAbs)) ∧
      (k.follows = false → k.timectl.getLsbD 0 = true → (u.pkgAt p).timeUnc = k.refLost)) ∧
    (k.refLost = false → ∃ u, exec (.referenceLoss p) s = .next u ∧ (u.pkgAt p).refLost = true ∧ (u.pkgAt p).timeUnc = true ∧
      -251 ≤ (u.pkgAt p).driftPpm ∧ (u.pkgAt p).driftPpm ≤ 251 ∧ (u.pkgAt p).slewPpm = k.slewPpm ∧
      (u.pkgAt p).mevent.getLsbD 0 = true ∧ (u.pkgAt p).intstat.getLsbD 0 = true) ∧
    exec (.referenceReturn p) s = put (fun k => { k with refLost := false }) ∧
    (k.refLost = true → k.tick.driftPpm = k.driftPpm) ∧
    (k.refLost = false → (0 < k.driftPpm → k.tick.driftPpm = k.driftPpm - 1) ∧ (k.driftPpm < 0 → k.tick.driftPpm = k.driftPpm + 1) ∧
      (k.driftPpm = 0 → k.tick.driftPpm = 0)) ∧
    (∀ die, ∃ u, exec (.droopTrip p die) s = .next u ∧ NumSet.has (u.pkgAt p).tripped die.toNat = true ∧
      (u.pkgAt p).stretchTill = some (k.cycle + 256) ∧
      (u.pkgAt p).stretches = if k.stretchTill = none then k.stretches + 1 else k.stretches) ∧
    (∀ c, k.stretchTill = some c → c ≤ k.cycle →
      exec (.stretchEnd p) s = put (fun k => { k with tripped := [], stretchTill := none })) ∧
    exec (.powerAlert p) s = put (fun k => { k with mevent := k.mevent ||| 4, intstat := k.intstat ||| 1 }) ∧
    let left (u : State) : Prop := ∀ e ∈ k.openParts, e.2.hostSup = false → u.isSuper e.2.super = false →
      (u.slotAt e.2.super).priv = false
    (∃ u, exec (.thermalTrip p) s = .next u ∧ u.hasPkg p = false ∧ left u) ∧
    (∀ i, (i = .packageReset p ∨ i = .resetpkg p ∧ k.bringUp = .ready) → k.deltas = [] →
      (∀ e ∈ k.cells, ∀ w ∈ e.2.waiters, w.1.pkg = k.id) →
      ∃ u k', exec i s = .next u ∧ Table.find u.pkgs p.toNat = some k' ∧ k'.bringUp = .reset ∧ k'.id = k.id ∧
        k'.domain = k.domain ∧ k'.fused = k.fused ∧ k'.lost = k.lost ∧ left u ∧ k'.time = k.time ∧ k'.hbm = k.hbm ∧ k'.ddr = k.ddr ∧ k'.parts = [] ∧ k'.graphs = [] ∧
        k'.chans = [] ∧ k'.prot = {} ∧ k'.ports = [] ∧ k'.mresult = 0 ∧ k'.intstat = 0 ∧
        ∀ c, (k'.cellAt c).spad = [] ∧ (k'.cellAt c).active = false ∧ ∀ n, ((k'.cellAt c).slotAt n).mode = .idle) ∧
    (k.bringUp ≠ .ready → exec (.resetpkg p) s = .next s) ∧
    let stage (code : Byte) (f : Pkg → Prop) : Prop := ∃ u k', exec (.bringupStageComplete p code) s = .next u ∧
      Table.find u.pkgs p.toNat = some k' ∧ f k'
    (k.bringUp = .reset → stage 0 fun k' => k'.bringUp = .auth) ∧
    (k.bringUp = .auth →
      let known := Config.sm3 Config.signerKey = Config.keyDigest
      let signed := Config.sm2Verify Config.signerKey (Config.sm3 Config.firmwareImage) Config.firmwareSignature = true
      let old := Config.securityVersion < k.minVersion
      let halts (c : Byte) (k' : Pkg) : Prop := k'.bringUp = .halt ∧ k'.fwerr = c
      ∀ c, (¬ known → stage c (halts 1)) ∧ (known → ¬ signed → stage c (halts 2)) ∧ (known → signed → old → stage c (halts 3)) ∧
        (known → signed → ¬ old → stage c fun k' => k'.bringUp = .init)) ∧
    (k.bringUp = .init →
      ((∀ e ∈ k.cells, ∀ w ∈ e.2.waiters, w.1.pkg = k.id) → stage 0 fun k' => k'.bringUp = .link ∧ k'.cycle = 0 ∧
        k'.ddrBad = false ∧ k'.time = k.time ∧ ∀ c, (k'.cellAt c).spad = [] ∧ ∀ n, ((k'.cellAt c).slotAt n).mode = .idle) ∧
      stage 0x20 (fun k' => k'.bringUp = .link ∧ k'.ddrBad = true ∧ k'.mevent.getLsbD 4 = true) ∧
      ∀ c : Byte, 0x10 ≤ c.toNat → c.toNat ≤ 0x14 → stage c fun k' => k'.bringUp = .halt ∧ k'.fwerr = c) ∧
    (k.bringUp = .link → stage 0 fun k' => k'.bringUp = .ready ∧ k.minVersion ≤ k'.minVersion) ∧
    (k.bringUp = .halt → ∀ c, exec (.bringupStageComplete p c) s = .next s)

/-! ## Words and instructions -/

/-- R57 to R71: DECODING UNDOES ENCODING, for every well-formed instruction that has a word, whatever words follow it. -/
def Obligations.DecodeUndoesEncode : Prop :=
  ∀ (i : Instr) (rest : List (BitVec 32)), encode i ≠ [] → i.wf = true → decode (encode i ++ rest) = .ok (i, rest)

/-- R57 to R71: A WORD HAS ONE MEANING. What the decoder accepts is a well-formed instruction followed by the rest, and the
words read are those that encode it: no bit of a word is ignored. -/
def Obligations.WordsHaveOneMeaning : Prop :=
  ∀ (ws : List (BitVec 32)) (i : Instr) (rest : List (BitVec 32)), decode ws = .ok (i, rest) →
    i.wf = true ∧ ws = encode i ++ rest

/-- R70: whether a word holds a minor that the rule does not list for its major. -/
def Sys2Proof.Claims.unlistedMinor (w : BitVec 32) : Bool :=
  let low := w.toNat % 32
  let mid := w.toNat / 2 ^ 7 % 32
  match w.toNat / 2 ^ 26 with
  | 0x08 => decide (4 ≤ low)
  | 0x0E => decide (2 ≤ low)
  | 0x11 => decide (10 ≤ low)
  | 0x14 => decide (18 ≤ low)
  | 0x15 | 0x16 => decide (25 ≤ low)
  | 0x17 => decide (10 ≤ low ∧ low < 16 ∨ 26 ≤ low)
  | 0x19 => decide (22 ≤ low)
  | 0x1A => decide (2 ≤ low)
  | 0x1B => decide (5 ≤ low)
  | 0x20 => decide (13 ≤ mid)
  | 0x27 | 0x2A => decide (12 ≤ mid)
  | 0x28 => decide (10 ≤ w.toNat / 2 ^ 3 % 16)
  | 0x29 => decide (3 ≤ mid)
  | 0x2C | 0x32 => decide (8 ≤ mid)
  | 0x2D => decide (5 ≤ mid)
  | 0x2E => decide (11 ≤ mid)
  | 0x2F | 0x30 => decide (6 ≤ mid)
  | 0x31 => decide (7 ≤ mid)
  | _ => false

/-- R57, R58, R69, R70: words of the families decode to what their fields spell, among them those the spec prints; a major
that R69 does not assign, a clause header, and a minor that R70 does not list for its major, are refused. -/
def Obligations.DecodedWords : Prop :=
  (∀ rest : List (BitVec 32),
    decode (0x4C08108A#32 :: rest) = .ok (.vshrScalar 1 1 4, rest) ∧
    decode (0x4C40915E#32 :: rest) = .ok (.vdot4Scalar 8 9 10, rest) ∧
    decode (0x44002025#32 :: rest) = .ok (.vbrk 2 1, rest) ∧
    decode (0xC4280283#32 :: rest) = .ok (.regmode 5 false true true, rest) ∧
    decode (0xC8180009#32 :: rest) = .ok (.getsr 3 .cycle, rest) ∧
    decode (0xC800608A#32 :: rest) = .ok (.setsr 6 .fpmode, rest) ∧
    decode (0xC800912A#32 :: rest) = .ok (.trap 9 0x2A, rest) ∧
    decode (0x6440700C#32 :: rest) = .ok (.vredfadd 8 7, rest) ∧
    decode (0x6C002000#32 :: rest) = .ok (.xclr 2, rest) ∧
    decode (0x6C0020E1#32 :: rest) = .ok (.xadd 2 7, rest) ∧
    decode (0xCE000000#32 :: rest) = .ok (.take true false, rest)) ∧
  ∀ (w : BitVec 32) (rest : List (BitVec 32)),
    (w.toNat / 2 ^ 26 ∈ [0x00, 0x1C, 0x1D, 0x1E, 0x1F, 0x2B, 0x34, 0x35, 0x36, 0x37, 0x38, 0x39, 0x3A, 0x3B, 0x3C, 0x3D, 0x3F] →
      decode (w :: rest) = .error .badMajor) ∧
    (w.toNat / 2 ^ 26 = 0x3E → decode (w :: rest) = .error .header) ∧
    (unlistedMinor w = true → ∃ e, decode (w :: rest) = .error e)

/-! ## Steps -/

/-- R46, R48, R53, R66, R72, R243: A STEP RUNS THE INSTRUCTION THAT THE WORDS AT HAND DECODE TO. The slot whose turn it is may
issue, nothing falls due and nothing can take place beside it. The words at its clause position pass the checks of placement and
decode to `i`: the step is `exec i`, after which the turn is over; after a TAKE prefix the next step runs the word behind it.
Words
that are no instruction trap. A slot without a clause fetches it first; one whose header waits, waits. A subscriber runs the
words that its publisher sent. A slot that may not issue leaves its turn empty. The model's own choices: that what the machine
has to do, and then an event that falls due, comes before any turn, and in which order (log 23); and that of the inputs, events,
accesses at a slot port and writes that a hub keeps back which may take place one is chosen, or none and the turn is taken (log 6). -/
def Obligations.StepRunsDecoded : Prop :=
  ∀ (s : State), s.pkgs ≠ [] → s.hasPkg s.cur.pkg = true →
    let g := s.cur
    let t := here s
    let ends (u : State) : State := if (u.slotAt g).take.isSome then u else endTurn (settleStop u g)
    let runs (i : Instr) (v : State) : Prop := ∀ u, exec i v = .next u → step s = .next (ends u)
    let awake (v : State) : State := withHere v fun t => { t with waitqDone := true }
    (t.take = none →
      (∀ x, portDue s = some x → step s = .next (servePort s x.1 x.2)) ∧
      (portDue s = none → ∀ x, ctlDue s = some x → step s = .next (performCtl s x)) ∧
      (portDue s = none → ctlDue s = none → ∀ x, killDue s = some x → step s = .next (finishKill s x)) ∧
      (portDue s = none → ctlDue s = none → killDue s = none → ∀ x, stopDue s = some x → step s = .next (settleStop s x)) ∧
      (settled s = none → ∀ i, dueNow s = some i → step s = exec i s) ∧
      (settled s = none → dueNow s = none → nextInput s ≠ [] ∨ readyEvents s ≠ [] ∨ portsReady s ≠ [] ∨ hubsReady s ≠ [] →
        step s = takeTurn s.draw ∨ (∃ i ∈ nextInput s, step s = takeInput s.draw i) ∨ (∃ i ∈ readyEvents s, step s = exec i s.draw) ∨
          (∃ x ∈ portsReady s, step s = .next (servePort s.draw x.1 x.2)) ∨
          ∃ p ∈ hubsReady s, step s = .next (drainHub s.draw p))) ∧
    (t.take = none → settled s = none → dueNow s = none → nextInput s = [] → readyEvents s = [] → portsReady s = [] → hubsReady s = [] →
      (canIssue s g = false → step s = .next (endTurn (settleStop s g))) ∧
      (canIssue s g = true →
        (∀ c, t.clause = some c → c.hdr.waits = true → t.waitqDone = false →
          step s = if waitqMet s g c.hdr then exec (.waitqSatisfied g) s else .next (endTurn (settleStop s g))) ∧
        (t.pendingPub = none → ∀ c, t.clause = some c → t.waitqDone = true →
          (∀ w rest, c.words.drop (t.pos - 1) = w :: rest → major w ≠ 0x33 → misplaced c.hdr t.pos w = false →
            (∀ i tail, decode (w :: rest) = .ok (i, tail) → runs i s) ∧
            (major w ≠ 0x3E → ∀ e, decode (w :: rest) = .error e → runs (.illegalEncoding false) s)) ∧
          (∀ k, wordFault c.hdr t.pos (c.words.drop (t.pos - 1)) = some k → runs (.illegalEncoding (k == .clause)) s) ∧
          (∀ w v rest i tail r, c.words.drop (t.pos - 1) = w :: v :: rest → major w = 0x33 →
            wordFault c.hdr t.pos (w :: v :: rest) = none → decode (w :: v :: rest) = .ok (i, tail) →
            decode (v :: rest) = .ok r → runs i s)) ∧
        (t.pendingPub = none → t.clause = none → t.waitqDone = false → codeWindow (t.head + BitVec.ofNat 64 (4 * t.pos)) = true →
          codeWindow t.head = true → t.head.toNat % 4 = 0 →
          ∀ u w ws, lookClause s g t.head = .code u w ws → (home s).cachedClause t.pid t.head = some (w, ws) ∧
            let c : Clause := { hdr := headerOf w, words := ws }
            let p := if t.pos = 0 then 1 else t.pos
            (headerFault w = none → c.hdr.waits = false → (u.slotAt g).waitqDone = false → (u.slotAt g).pendingPub = none →
              (u.slotAt g).take = none →
              ∀ i, decodeAt c p = .ok i →
                runs i (awake ((endRefill u g).mapSlot g fun t => { t with clause := some c, pos := p })))) ∧
        ∀ d c words take h q cl ll h' q' l' i tail, t.clause.isSome = true → t.waitqDone = true →
          t.pendingPub = some { due := d, chan := c, item := .instr words take h q cl ll h' q' l' } →
          decode words = .ok (i, tail) → runs i (withHere s fun t => { t with take := take }))) ∧
    (t.take.isSome = true → canIssue s g = true → t.pendingPub = none → ∀ c i, t.clause = some c → t.waitqDone = true →
      decodeAt c (t.pos + 1) = .ok i → runs i s)

/-- R6, R7, R391 to R393: WHOSE TURN IS NEXT. The slot that has the next turn is slot `cycle mod 16` of its cell. While a later cell
has not had its turn in this cycle nothing but the turn changes; after the last, the time of one unstretched cycle passes in every
package: 20/17 ns at the exact rate, corrected by its slew and its drift. %CYCLE advances by one, but in a package whose clock is
stretched in four of five of these times; its rate may come back to the exact one (R392), and nothing else changes: no cell, no memory,
nothing of the hub. That cells have their turns in rising order, and that packages tick together, are the model's choices (log 4). -/
def Obligations.TurnsRotate : Prop :=
  ∀ (s : State), let u := endTurn s
    u.cur.slot = BitVec.ofNat 4 (u.cycleAt u.cur.pkg) ∧
    (s.places ≠ [] → (u.cur.pkg, u.cur.cell) ∈ s.places) ∧
    ((∃ x ∈ s.places, laterPlace (s.cur.pkg, s.cur.cell) x = true) →
      u = { s with cur := u.cur } ∧ laterPlace (s.cur.pkg, s.cur.cell) (u.cur.pkg, u.cur.cell) = true) ∧
    ((∀ x ∈ s.places, laterPlace (s.cur.pkg, s.cur.cell) x = false) → ∀ p,
      u.hasPkg p = s.hasPkg p ∧ (s.hasPkg p = true →
        let k := s.pkgAt p
        let k' := u.pkgAt p
        k'.phase = (if k.stretchTill = none then 0 else (k.phase + 1) % 5) ∧
        k'.cycle = (if k'.phase = 4 then k.cycle else k.cycle + 1) ∧ k'.timeFrac < 17000000 ∧
        (17000000 * k'.time + k'.timeFrac : Int) =
          17000000 * k.time + k.timeFrac + Max.max 0 (20 * (1000000 + k.slewPpm + k'.driftPpm)) ∧
        { k' with cycle := k.cycle, phase := k.phase, time := k.time, timeFrac := k.timeFrac, driftPpm := k.driftPpm } = k)) ∧
    SameMemory s u ∧ (u.agenda, u.gone, u.free) = (s.agenda, s.gone, s.free)

/-- NO STEP IS REFUSED, and one faults only in a machine that has no package. -/
def Obligations.StepAlwaysAnswers : Prop :=
  ∀ (s : State), (∀ r, step s ≠ .refused r) ∧ ((∃ f, step s = .fault f) ↔ s.pkgs = [])

/-- R15, R16, R45, R387, R403: RESET. One package is present, not fused, in bring-up state RESET, with every cell held in
reset, every slot IDLE and every register, accumulator, scratchpad, B-store, operand buffer, barrier, reservation, stream and copy context as
zeroing leaves it. Values that the spec does not give are
the model's: registers hold zero (log 1), unlisted memory reads as zero (log 2), one package is present (log 14). -/
def Sys2Proof.Claims.ResetState : Prop :=
  let s := State.reset
  let k := s.pkgAt 0
  (∀ p, s.hasPkg p = true ↔ p = 0) ∧ s.agenda = [] ∧ s.gone = [] ∧
  k.bringUp = .reset ∧ k.id = 0 ∧ k.domain = 0 ∧ k.fused = false ∧ k.lost = false ∧ k.fwerr = 0 ∧ k.cycle = 0 ∧ k.time = 0 ∧ k.intstat = 0 ∧ k.mevent = 0 ∧
  k.mresult = 0 ∧ k.prot.mode = .off ∧ (∀ q, (k.part q).mode = .free) ∧ (∀ x, (k.graphAt x).mode = .free) ∧
  k.deltas = [] ∧ k.forwards = [] ∧ k.hubWrites = [] ∧ k.waiting = [] ∧ k.stations = [] ∧ k.driftPpm = 0 ∧ k.slewPpm = 0 ∧
  (k.phase, k.stretchTill, k.asked, k.sent) = (0, none, [], []) ∧
  (∀ c, let t := k.cellAt c
    (∀ a, Table.get 0 t.acc a = 0 ∧ Table.get 0 t.bstore a = 0 ∧ Table.get 0 t.opbuf a = 0 ∧ NumSet.has t.spadEmpty a = false ∧
      NumSet.has t.spadPoison a = false ∧ NumSet.has t.bPoison a = false ∧ NumSet.has t.opBad a = false ∧
      NumSet.has t.vPoison a = false ∧ NumSet.has t.accPoison a = false ∧ Table.get 0 t.barriers a = 0 ∧ Table.get 0 t.obres a = 0 ∧
      Table.get 0 t.bsres a = 0 ∧ Table.get 0 t.tlCount a = 0 ∧ NumSet.has t.tlMark a = false ∧
      (Table.get ({} : Stream) t.streams a).mode = .free ∧ (Table.get ({} : CopyCtx) t.ctxs a).mode = .idle) ∧
    (k.cellAt c).active = false ∧ (k.cellAt c).icache = [] ∧ (k.cellAt c).mma = [] ∧ (k.cellAt c).waiters = [] ∧
    (k.cellAt c).port = [] ∧
    (∀ a, Table.get 0 (k.cellAt c).spad a = 0) ∧
    ∀ n, let t := (k.cellAt c).slotAt n
      t.mode = .idle ∧ (∀ r, t.sreg r = 0 ∧ t.fe (.s r) = .full ∧ t.trapMode (.s r) = false) ∧
      (∀ r, t.fe (.v r) = .full ∧ t.trapMode (.v r) = false ∧ ∀ l, lane (s.vregAt ⟨0, c, n⟩ r) l = 0) ∧
      (∀ l, t.isActive l = true) ∧ t.loops.depth = 0 ∧ t.binds = [] ∧ t.publishing = none ∧ t.subscribed = none ∧
      t.ops = [] ∧ t.member = none ∧ t.feWait = 0x00010000) ∧
  (∀ a, Table.get 0 k.hbm a = 0 ∧ Table.get 0 k.ddr a = 0)

/-! ## Invariants -/

/-- EVERY STEP KEEPS THE CANONICAL FORM OF MEMORY: in HBM, DDR, scratchpads, B-stores and operand buffers the addresses rise
strictly and no entry equals what an unlisted address reads as. -/
def Obligations.StepKeepsMemoryForm : Prop :=
  ∀ (s t : State), s.memoryWf = true → step s = .next t → t.memoryWf = true

/-- Every operation of every listed slot is numbered below the number that the slot's next one takes (R426). -/
def Sys2Proof.Claims.allNumbered (s : State) : Prop :=
  ∀ e ∈ s.pkgs, ∀ c ∈ e.2.cells, ∀ t ∈ c.2.slots, numbered t.2

/-- EVERY STEP KEEPS THE NUMBERING OF OPERATIONS, so that a slot's next operation takes a number that none of its outstanding
ones has (R426). -/
def Obligations.StepKeepsNumbers : Prop :=
  ∀ (s t : State), allNumbered s → step s = .next t → allNumbered t

/-- Both invariants hold after reset, and the numbering holds of the slot at hand. -/
def Sys2Proof.Claims.InvariantsAtReset : Prop :=
  State.reset.memoryWf = true ∧ allNumbered State.reset ∧ ∀ s, allNumbered s → numbered (here s)

/-- R15, R16, R45, R387, R403: the state after reset, in which the invariants hold. -/
def Obligations.ResetValues : Prop := ResetState ∧ InvariantsAtReset

/-! ## Registers and operands -/

/-- R15, R18, R19, R137: A REGISTER READS AS IT WAS LAST WRITTEN. A write of a scalar register changes that one and fills it;
s0 reads as zero and a write to it is discarded. A write of lanes of a vector register changes those lanes of that physical
register and fills it; every other lane and register keeps its value. -/
def Obligations.RegisterWrites : Prop :=
  ∀ (s : State) (g : GRef), s.hasPkg g.pkg = true →
    (∀ (r : SReg) (v : Word), let u := s.setS g r v
      (∀ q, (u.slotAt g).sreg q = if q = r ∧ r ≠ 0 then v else (s.slotAt g).sreg q) ∧
      (u.slotAt g).sreg 0 = 0 ∧ (u.slotAt g).fe (.s r) = .full ∧ (r = 0 → u.slotAt g = s.slotAt g) ∧
      (∀ q, q ≠ .s r → (u.slotAt g).fe q = (s.slotAt g).fe q) ∧
      (∀ h, h ≠ g → u.slotAt h = s.slotAt h) ∧ ∀ h q, u.vregAt h q = s.vregAt h q) ∧
    ∀ (r : VRegNo) (mask : BitVec 32) (f : Nat → Lane), let u := s.setLanes g r mask f
      (∀ l, l < 32 → lane (u.vregAt g r) l = if mask.getLsbD l then f l else lane (s.vregAt g r) l) ∧
      (∀ h q, h.pkg ≠ g.pkg ∨ h.cell ≠ g.cell ∨ (s.slotAt h).phys q ≠ (s.slotAt g).phys r → u.vregAt h q = s.vregAt h q) ∧
      (u.slotAt g).fe (.v r) = .full ∧ (∀ q, q ≠ .v r → (u.slotAt g).fe q = (s.slotAt g).fe q) ∧
      (∀ h q, (u.slotAt h).sreg q = (s.slotAt h).sreg q) ∧ ∀ h, h ≠ g → u.slotAt h = s.slotAt h

/-- The slot at hand parks until a register lets its instruction issue afresh (R20). -/
def Sys2Proof.Claims.waitsOn (i : Instr) (s : State) (r : RegRef) : Prop :=
  exec i s = .next (withHere s fun t =>
    { t with wait := some { what := .reg r, since := s.cycleAt s.cur.pkg }, take := none
             mode := if t.mode = .run then .parked else t.mode })

/-- R16, R20, R21, R72, R339: WHAT AN INSTRUCTION MEETS BEFORE IT EXECUTES, shown by ADD and VADD. A vector register outside
the window traps REGRANGE, whatever else holds. An empty source traps WAITLIMIT in trap mode; in park mode the slot waits on
it. A pending destination waits in either mode. A poisoned source traps ECC. With one prefix of TAKE it is the same; that a
register read both under the prefix and plainly is one source is the model's choice (log 21). -/
def Sys2Proof.Claims.OperandWaits : Prop :=
  ∀ (s : State), s.hasPkg s.cur.pkg = true →
    let t := here s
    let meets (i : Instr) (srcs : List RegRef) (d : RegRef) : Prop :=
      let empty := srcs.filter fun r => t.fe r != .full
      (∀ r, empty.find? t.trapMode = some r →
        Traps i s { kind := .waitlimit, aux := BitVec.ofNat 64 (r.code + 256) }) ∧
      (empty.find? t.trapMode = none → ∀ r, empty.head? = some r → waitsOn i s r) ∧
      (empty = [] → t.fe d = .pending → waitsOn i s d)
    (∀ d a b : SReg, meets (.add d a b) [.s a, .s b] (.s d) ∧
      (t.fe (.s a) = .full → t.fe (.s b) = .full → t.fe (.s d) ≠ .pending →
        (t.sPoison.has a.toNat = true → Traps (.add d a b) s { kind := .ecc, sector := BitVec.ofNat 64 a.toNat, aux := 4 }) ∧
        (t.sPoison.has a.toNat = false → t.sPoison.has b.toNat = true →
          Traps (.add d a b) s { kind := .ecc, sector := BitVec.ofNat 64 b.toNat, aux := 4 }))) ∧
    ∀ d a b : VRegNo,
      ((∃ r ∈ [d, a, b], t.regLim.toNat ≤ r.toNat) → Traps (.vadd d a b) s { kind := .regrange }) ∧
      ((∀ r ∈ [d, a, b], r.toNat < t.regLim.toNat ∧ t.streamless (.v r) = true) → meets (.vadd d a b) [.v a, .v b] (.v d) ∧
        (t.fe (.v a) = .full → t.fe (.v b) = .full → t.fe (.v d) ≠ .pending →
          (∃ u ∈ (home s).vPoison, u / 16 = t.phys a ∧ (t.isActive (2 * (u % 16)) = true ∨ t.isActive (2 * (u % 16) + 1) = true)) →
          t.take = none → Traps (.vadd d a b) s { kind := .ecc, sector := BitVec.ofNat 64 a.toNat, aux := 5 }))

/-- R66, R67, R126, R127: A TAKE PREFIX EMPTIES THE SOURCES IT NAMES, at one moment, after all of them are full and before the
destination is written: a destination that is a named source ends full with the new value. Taking s0 has no effect. Shown by
ADD; the slot goes on behind the prefixed word. That a register which both fields name, and the prefix in one, is read by both
and then empty is the model's choice (log 21). -/
def Sys2Proof.Claims.SynchronisedReads : Prop :=
  ∀ (s : State) (d a b : SReg) (ta tb : Bool), s.hasPkg s.cur.pkg = true →
    let t := here s
    t.fe (.s a) = .full → t.fe (.s b) = .full → t.fe (.s d) ≠ .pending → t.sPoison.has a.toNat = false →
    t.sPoison.has b.toNat = false → t.take = some (ta, tb) →
    ∃ u, exec (.add d a b) s = .next u ∧
      (∀ q, (u.slotAt s.cur).sreg q = if q = d ∧ d ≠ 0 then t.sreg a + t.sreg b else t.sreg q) ∧
      (∀ q : SReg, (u.slotAt s.cur).fe (.s q) =
        if q = d ∨ q = 0 then .full else if (ta = true ∧ q = a) ∨ (tb = true ∧ q = b) then .taken else t.fe (.s q)) ∧
      (∀ q, (u.slotAt s.cur).fe (.v q) = t.fe (.v q)) ∧ (∀ q, u.vregAt s.cur q = s.vregAt s.cur q) ∧
      (u.slotAt s.cur).take = none ∧ (u.slotAt s.cur).place = s.nextPlace s.cur 1 ∧
      (t.pendingPub = none → t.pos + 2 ≤ t.clauseLen → (u.slotAt s.cur).place = (t.head, t.pos + 2, t.loops)) ∧ SameMemory s u

/-- The instructions of two scalar sources and a scalar destination (R110, R82). -/
def Sys2Proof.Claims.scalarForms (d a b : SReg) : List Instr :=
  [.add d a b, .sub d a b, .and d a b, .or d a b, .xor d a b, .andn d a b, .shl d a b, .shr d a b, .sar d a b, .ror d a b,
   .mul d a b, .mulh d a b, .mulhu d a b, .min d a b, .max d a b, .minu d a b, .maxu d a b, .seq d a b, .sne d a b,
   .slt d a b, .sltu d a b, .sle d a b, .sleu d a b, .addw d a b, .subw d a b, .div d a b, .divu d a b, .rem d a b,
   .remu d a b]

/-- Those of one scalar source (R110 to R112). -/
def Sys2Proof.Claims.scalarUnaryForms (d a : SReg) (k : BitVec 12) (n : BitVec 6) : List Instr :=
  [.clz d a, .popc d a, .brev d a, .addi d a k, .andi d a k, .ori d a k, .xori d a k, .slti d a k, .sltiu d a k, .shli d a n,
   .shri d a n, .sari d a n, .rori d a n]

/-- The instructions that act lane by lane on two vector sources (R148 to R150, R152). -/
def Sys2Proof.Claims.laneForms (d a b : VRegNo) : List Instr :=
  [.vadd d a b, .vsub d a b, .vmul d a b, .vmulh d a b, .vmulhu d a b, .vand d a b, .vor d a b, .vxor d a b, .vandn d a b,
   .vshl d a b, .vshr d a b, .vsar d a b, .vmin d a b, .vmax d a b, .vminu d a b, .vmaxu d a b, .vseq d a b, .vsne d a b,
   .vslt d a b, .vsltu d a b, .vsle d a b, .vsleu d a b, .vaddsat d a b, .vsubsat d a b, .vaddsatu d a b, .vsubsatu d a b,
   .vdot4 d a b, .vdot4u d a b, .vaddH d a b, .vsubH d a b, .vmulH d a b, .vmulhH d a b, .vminH d a b, .vmaxH d a b,
   .vminuH d a b, .vmaxuH d a b, .vaddsatH d a b, .vsubsatH d a b, .vaddsatuH d a b, .vsubsatuH d a b, .vseqH d a b,
   .vsltH d a b, .vshlH d a b, .vshrH d a b, .vsarH d a b, .vfadd d a b, .vfsub d a b, .vfmul d a b, .vfdiv d a b,
   .vfmin d a b, .vfmax d a b, .vfminnum d a b, .vfmaxnum d a b, .vfceq d a b, .vfclt d a b, .vfcle d a b, .vfcun d a b,
   .vfcopysign d a b, .vhadd d a b, .vhsub d a b, .vhmul d a b, .vhmin d a b, .vhmax d a b, .vhceq d a b, .vhclt d a b,
   .vhcle d a b, .vhcun d a b, .vhaddBf d a b, .vhsubBf d a b, .vhmulBf d a b, .vhminBf d a b, .vhmaxBf d a b,
   .vhceqBf d a b, .vhcltBf d a b, .vhcleBf d a b, .vhcunBf d a b]

/-- Those on a vector and a scalar source (R148, R150). -/
def Sys2Proof.Claims.laneScalarForms (d a : VRegNo) (b : SReg) : List Instr :=
  [.vaddScalar d a b, .vsubScalar d a b, .vmulScalar d a b, .vmulhScalar d a b, .vmulhuScalar d a b, .vandScalar d a b,
   .vorScalar d a b, .vxorScalar d a b, .vandnScalar d a b, .vshlScalar d a b, .vshrScalar d a b, .vsarScalar d a b,
   .vminScalar d a b, .vmaxScalar d a b, .vminuScalar d a b, .vmaxuScalar d a b, .vseqScalar d a b, .vsneScalar d a b,
   .vsltScalar d a b, .vsltuScalar d a b, .vsleScalar d a b, .vsleuScalar d a b, .vaddsatScalar d a b, .vsubsatScalar d a b,
   .vaddsatuScalar d a b, .vsubsatuScalar d a b, .vdot4Scalar d a b, .vdot4uScalar d a b, .vfaddScalar d a b,
   .vfsubScalar d a b, .vfmulScalar d a b, .vfdivScalar d a b, .vfminScalar d a b, .vfmaxScalar d a b,
   .vfminnumScalar d a b, .vfmaxnumScalar d a b, .vfceqScalar d a b, .vfcltScalar d a b, .vfcleScalar d a b,
   .vfcunScalar d a b, .vfcopysignScalar d a b]

/-- Those on one vector source (R148, R150, R151). -/
def Sys2Proof.Claims.laneUnaryForms (d a : VRegNo) : List Instr :=
  [.vabs d a, .vneg d a, .vclz d a, .vpopc d a, .vabsH d a, .vfabs d a, .vfneg d a, .vfsqrt d a, .vfrcp d a, .vfrsq d a,
   .vfexp2 d a, .vflog2 d a, .vfrint d a, .vfclass d a]

/-- The scalar accesses to memory, each with what it names (R171, R173, R176, R181, R182). -/
noncomputable def Sys2Proof.Claims.accessForms (d b : SReg) (c : Scope) (o : Order) (z : Size) : List (Instr × Opnds) :=
  ([.ld d b c o z, .lds d b c o z, .ldfe d b c o, .ldf d b c o, .feget d b c o] : List Instr).map (·, loadOpnds d b) ++
  ([.st d b c o z, .stfe d b c o, .stf d b c o, .waiteq d b c o z, .waitne d b c o z] : List Instr).map (·, storeOpnds d b) ++
  ([.aadd d b c o z, .aand d b c o z, .aor d b c o z, .axor d b c o z, .amin d b c o z, .amax d b c o z, .aminu d b c o z,
    .amaxu d b c o z, .aswap d b c o z, .afadd d b c o, .afmax d b c o] : List Instr).map (·, atomOpnds d b) ++
  ([.feset b c o, .feclr b c o] : List Instr).map (·, addrOpnds b)

/-- The slot at hand without its latched prefix. -/
def Sys2Proof.Claims.unprefixed (s : State) : State := withHere s fun t => { t with take := none }

/-- R66, R67, R126, R127: `u` is what an instruction with operands `o` leaves under the latched TAKE prefix, `v` what it leaves
without. The sources that the prefix names, s0 apart, are empty, unless the instruction writes them; the slot stands behind the
prefixed word; an operation that was issued knows what it took. All else is the same. -/
def Sys2Proof.Claims.EmptiesAlone (s : State) (o : Opnds) (v u : State) : Prop :=
  let g := s.cur
  let named : List RegRef := (match (here s).take with
    | some (ta, tb) => (if ta then o.ta.toList else []) ++ (if tb then o.tb.toList else [])
    | none => []).filter (· != RegRef.s 0)
  let plain (x : Slot) : Slot := { x.bare with sFe := [], vFe := [], ops := x.ops.map fun o => { o with took := [], prevFe := [] } }
  (∀ q, (u.slotAt g).fe q = if q ∈ named ∧ q ∉ o.dsts then .taken else (v.slotAt g).fe q) ∧
  plain (u.slotAt g) = plain (v.slotAt g) ∧ (u.slotAt g).take = none ∧
  ((u.slotAt g).waitNext = none → (u.slotAt g).place = s.nextPlace g o.words) ∧
  (∀ p, u.hasPkg p = v.hasPkg p ∧ (u.pkgAt p).bare = (v.pkgAt p).bare) ∧ (∀ p c, (u.cellAt p c).bare = (v.cellAt p c).bare) ∧
  (∀ h, h ≠ g → (u.slotAt h).quiet = (v.slotAt h).quiet) ∧ (u.cur, u.agenda, u.gone, u.free) = (v.cur, v.agenda, v.gone, v.free)

/-- R66, R67, R126, R127: UNDER A TAKE PREFIX AN INSTRUCTION DOES WHAT IT DOES WITHOUT, and the sources that the prefix names
are then
empty: so every instruction of scalar registers, every one that acts lane by lane, and the scalar accesses to memory that
issue. -/
def Sys2Proof.Claims.PrefixedInstructions : Prop :=
  ∀ (s : State), (here s).take.isSome = true →
    let runs (i : Instr) (o : Opnds) : Prop := ready (unprefixed s) o = true →
      ∃ v u, exec i (unprefixed s) = .next v ∧ exec i s = .next u ∧ EmptiesAlone s o v u
    (∀ d a b : SReg, ∀ i ∈ scalarForms d a b, runs i (Opnds.sss d a b)) ∧
    (∀ (d a : SReg) k n, ∀ i ∈ scalarUnaryForms d a k n, runs i (Opnds.ss d a)) ∧
    (∀ d a b : VRegNo, ∀ i ∈ laneForms d a b, runs i (Opnds.vvv d a b)) ∧
    (∀ (d a : VRegNo) (b : SReg), ∀ i ∈ laneScalarForms d a b, runs i (Opnds.vvs d a b)) ∧
    (∀ d a : VRegNo, ∀ i ∈ laneUnaryForms d a, runs i (Opnds.vv d a)) ∧
    ∀ (d b : SReg) c o z, ∀ e ∈ accessForms d b c o z, ready (unprefixed s) e.2 = true → unpaired (here s) →
      ∀ v, exec e.1 (unprefixed s) = .next v → (v.slotAt s.cur).nextOp = (here s).nextOp + 1 →
        ∃ u, exec e.1 s = .next u ∧ EmptiesAlone s e.2 v u

/-- R16, R20, R21, R66, R67, R72, R126, R127, R339: what an instruction meets at its operands, and TAKE. -/
def Obligations.OperandChecks : Prop := OperandWaits ∧ SynchronisedReads ∧ PrefixedInstructions

/-- The state in which vector register `r` of the slot at hand, bound to a stream, is a plain full one that holds `v`. -/
def Sys2Proof.Claims.unbound (s : State) (r : VRegNo) (v : VReg) : State :=
  (withHere s fun t => { t with binds := Table.del t.binds r.toNat }).setLanes s.cur r (BitVec.allOnes 32) (lane v)

/-- `u` is what an instruction leaves that uses register `r`, bound to a stream, `v` what it leaves where `r` is a plain one: the
same but for that register, its binding, the streams of the cell, and the numbers of the slot's operations. -/
def Sys2Proof.Claims.StreamsAlone (s : State) (r : VRegNo) (v u : State) : Prop :=
  let g := s.cur
  let x := (here s).phys r
  let plain (t : Slot) : Slot := { t.bare with sFe := [], vFe := [], binds := [], nextOp := 0 }
  plain (u.slotAt g) = plain (v.slotAt g) ∧ (u.slotAt g).binds = (here s).binds ∧ (u.slotAt g).place = (v.slotAt g).place ∧
  (∀ q, (u.slotAt g).fe q = if q = .v r then (here s).fe q else (v.slotAt g).fe q) ∧
  (∀ h, h ≠ g → (u.slotAt h).quiet = (v.slotAt h).quiet) ∧
  (∀ p, u.hasPkg p = v.hasPkg p ∧ (u.pkgAt p).bare = (v.pkgAt p).bare) ∧
  (∀ p c, { (u.cellAt p c).bare with vregs := [], vPoison := [], streams := [] } =
    { (v.cellAt p c).bare with vregs := [], vPoison := [], streams := [] }) ∧
  (∀ h q, u.vregAt h q = if h.pkg = g.pkg ∧ h.cell = g.cell ∧ (s.slotAt h).phys q = x then s.vregAt h q else v.vregAt h q) ∧
  (u.cur, u.agenda, u.gone, u.free) = (v.cur, v.agenda, v.gone, v.free)

/-- R27, R140: STREAMS AS OPERANDS OF EVERY INSTRUCTION THAT ACTS LANE BY LANE. With a source bound to an input stream it does
what it
does on a register that holds the stream's first element, which is popped. With its destination bound to an output stream
it appends what it would write, with zeros in the inactive lanes. A register bound in the wrong direction traps STREAMERR, also
with no lane active: the latter is the model's reading (log 21). -/
def Sys2Proof.Claims.StreamForms : Prop :=
  ∀ (s : State) (n : BitVec 5), s.hasPkg s.cur.pkg = true →
    let t := here s
    let q := Table.get ({} : Stream) (home s).streams n.toNat
    let after (u : State) : Table Stream := (u.cellAt s.cur.pkg s.cur.cell).streams
    let pops (i : Instr) (o : Opnds) (d a : VRegNo) : Prop := Table.find t.binds a.toNat = some n → d ≠ a →
      (q.output = true → ready (unbound s a VReg.zero) o = true → Traps i s { kind := .streamerr }) ∧
      ∀ e rest, q.queue = e :: rest → q.output = false → t.anyActive = true → ready (unbound s a e.lanes) o = true →
        ∃ v u, exec i (unbound s a e.lanes) = .next v ∧ exec i s = .next u ∧ StreamsAlone s a v u ∧
          after u = Table.put (home s).streams n.toNat { q with queue := rest, pos := q.pos + 1 } ∧
          (u.slotAt s.cur).nextOp = (v.slotAt s.cur).nextOp
    let appends (i : Instr) (o : Opnds) (d : VRegNo) : Prop := Table.find t.binds d.toNat = some n → RegRef.v d ∉ o.srcs →
      t.fe (.v d) ≠ .pending → ready (unbound s d VReg.zero) o = true →
      (q.output = false → Traps i s { kind := .streamerr }) ∧
      (q.output = true → t.anyActive = true → q.mode ≠ .error → q.pos.toNat < q.total → q.queue.length < 8 →
        ∃ v u e, exec i (unbound s d VReg.zero) = .next v ∧ exec i s = .next u ∧ StreamsAlone s d v u ∧
          after u = Table.put (home s).streams n.toNat { q with queue := q.queue ++ [e], pos := q.pos + 1 } ∧
          e.mask = t.active ∧ e.id = t.nextOp ∧ (u.slotAt s.cur).nextOp = t.nextOp + 1 ∧
          ∀ l, l < 32 → lane e.lanes l = if t.isActive l then lane (v.vregAt s.cur d) l else 0)
    (∀ d a b : VRegNo, ∀ i ∈ laneForms d a b, pops i (Opnds.vvv d a b) d a ∧ pops i (Opnds.vvv d a b) d b ∧
      appends i (Opnds.vvv d a b) d) ∧
    (∀ (d a : VRegNo) (b : SReg), ∀ i ∈ laneScalarForms d a b, pops i (Opnds.vvs d a b) d a ∧ appends i (Opnds.vvs d a b) d) ∧
    ∀ d a : VRegNo, ∀ i ∈ laneUnaryForms d a, pops i (Opnds.vv d a) d a ∧ appends i (Opnds.vv d a) d

/-- R27, R140: STREAMS AS OPERANDS, shown whole by VADD. A source bound to an input stream pops one element, and every field that
names it reads that element; an empty one is an empty register; one bound to an output stream traps STREAMERR, as does a
destination bound to an input stream. A destination bound to an output stream appends one element whose inactive lanes are
zero. With no lane active nothing is popped or appended; that a register bound in the wrong direction traps even then is the
model's reading (log 21). -/
def Sys2Proof.Claims.StreamSums : Prop :=
  ∀ (s : State) (d a b : VRegNo), s.hasPkg s.cur.pkg = true →
    let t := here s
    let q (n : BitVec 5) : Stream := Table.get {} (home s).streams n.toNat
    let after (u : State) (n : BitVec 5) : Stream := Table.get {} (u.cellAt s.cur.pkg s.cur.cell).streams n.toNat
    let free (r : VRegNo) : Prop := t.streamless (.v r) = true ∧ t.fe (.v r) = .full ∧ regPoison s s.cur (Opnds.vvv d a b) (.v r) = none
    let bound (r : VRegNo) (n : BitVec 5) : Prop := Table.find t.binds r.toNat = some n
    (∀ r ∈ [d, a, b], r.toNat < t.regLim.toNat) → t.take = none →
    (∀ n, bound a n → (q n).output = false → (b = a ∨ free b) → t.streamless (.v d) = true → t.fe (.v d) ≠ .pending →
      t.anyActive = true →
      (∀ e rest, (q n).queue = e :: rest → ∃ u, exec (.vadd d a b) s = .next u ∧
        after u n = { q n with queue := rest, pos := (q n).pos + 1 } ∧ (u.slotAt s.cur).fe (.v d) = .full ∧
        ∀ l, l < 32 → lane (u.vregAt s.cur d) l =
          if t.isActive l then lane e.lanes l + (if b = a then lane e.lanes l else lane (s.vregAt s.cur b) l)
          else lane (s.vregAt s.cur d) l) ∧
      ((q n).queue = [] → (q n).mode ≠ .error → (q n).mode ≠ .done →
        (t.trapMode (.v a) = true → Traps (.vadd d a b) s { kind := .waitlimit, aux := BitVec.ofNat 64 (128 + a.toNat + 256) }) ∧
        (t.trapMode (.v a) = false → waitsOn (.vadd d a b) s (.v a)))) ∧
    (∀ n, bound a n → (q n).output = true → free b → free d → Traps (.vadd d a b) s { kind := .streamerr }) ∧
    (∀ n, bound d n → free a → free b → t.fe (.v d) ≠ .pending →
      ((q n).output = false → Traps (.vadd d a b) s { kind := .streamerr }) ∧
      ((q n).output = true → t.anyActive = true → (q n).mode ≠ .error → (q n).pos.toNat < (q n).total → (q n).queue.length < 8 →
        ∃ u, exec (.vadd d a b) s = .next u ∧ ∃ e, e.mask = t.active ∧ e.id = t.nextOp ∧ (u.slotAt s.cur).nextOp = t.nextOp + 1 ∧
          after u n = { q n with queue := (q n).queue ++ [e], pos := (q n).pos + 1 } ∧
          (∀ l, l < 32 → lane e.lanes l =
            if t.isActive l then lane (s.vregAt s.cur a) l + lane (s.vregAt s.cur b) l else 0) ∧
          ∀ r, u.vregAt s.cur r = s.vregAt s.cur r) ∧
      ((q n).output = true → t.anyActive = false → ∃ u, exec (.vadd d a b) s = .next u ∧ after u n = q n ∧
        (u.slotAt s.cur).place = s.nextPlace s.cur 1))

/-- R27, R140: streams as operands. -/
def Obligations.StreamOperands : Prop := StreamSums ∧ StreamForms
end

