-- ==== Sys2Proof/Laws/Arith.lean ====
section
/-! SUPPORT. The integer operations in exact arithmetic: each as a number that wraps, over bit vectors of any width. -/

namespace Sys2Proof.Machine

variable {w : Nat}

theorem add_exact (x y : BitVec w) : x + y = BitVec.ofNat w (x.toNat + y.toNat) := by
  apply BitVec.eq_of_toNat_eq; simp
theorem sub_exact (x y : BitVec w) : x - y = BitVec.ofInt w (x.toInt - y.toInt) := by
  apply BitVec.eq_of_toInt_eq; simp
theorem mul_exact (x y : BitVec w) : x * y = BitVec.ofInt w (x.toInt * y.toInt) := by
  apply BitVec.eq_of_toInt_eq; simp
theorem add_exactInt (x y : BitVec w) : x + y = BitVec.ofInt w (x.toInt + y.toInt) := by
  apply BitVec.eq_of_toInt_eq; simp
theorem shl_exact (x : BitVec w) (n : Nat) : x <<< n = BitVec.ofNat w (x.toNat * 2 ^ n) := by
  apply BitVec.eq_of_toNat_eq; simp [Nat.shiftLeft_eq]
theorem shr_exact (x : BitVec w) (n : Nat) : x >>> n = BitVec.ofNat w (x.toNat / 2 ^ n) := by
  apply BitVec.eq_of_toNat_eq
  simp only [BitVec.toNat_ushiftRight, Nat.shiftRight_eq_div_pow, BitVec.toNat_ofNat]
  exact (Nat.mod_eq_of_lt (lt_of_le_of_lt (Nat.div_le_self _ _) x.isLt)).symm
theorem sar_exact (x : BitVec w) (n : Nat) : x.sshiftRight n = BitVec.ofInt w (x.toInt / (2 ^ n : Nat)) := by
  apply BitVec.eq_of_toInt_eq
  rw [BitVec.toInt_sshiftRight, BitVec.toInt_ofInt, Int.shiftRight_eq_div_pow]
  have h : (x.toInt >>> n) = (x.sshiftRight n).toInt := (BitVec.toInt_sshiftRight).symm
  rw [Int.shiftRight_eq_div_pow] at h
  rw [h]; exact (BitVec.toInt_bmod_cancel _).symm

theorem ror_exact (x : BitVec w) (n : Nat) (h : n < w) :
    x.rotateRight n = BitVec.ofNat w (x.toNat / 2 ^ n + x.toNat * 2 ^ (w - n)) := by
  apply BitVec.eq_of_toNat_eq
  rw [BitVec.toNat_rotateRight, Nat.mod_eq_of_lt h, BitVec.toNat_ofNat, Nat.shiftRight_eq_div_pow, Nat.shiftLeft_eq]
  have hx := x.isLt
  have e : x.toNat * 2 ^ (w - n) % 2 ^ w = 2 ^ (w - n) * (x.toNat % 2 ^ n) := by
    have : (2 : Nat) ^ w = 2 ^ (w - n) * 2 ^ n := by rw [← pow_add]; congr 1; omega
    rw [this, mul_comm x.toNat, Nat.mul_mod_mul_left]
  have l1 : x.toNat / 2 ^ n < 2 ^ (w - n) := by
    apply Nat.div_lt_of_lt_mul
    have : (2 : Nat) ^ w = 2 ^ n * 2 ^ (w - n) := by rw [← pow_add]; congr 1; omega
    omega
  have l2 : x.toNat % 2 ^ n < 2 ^ n := Nat.mod_lt _ (by positivity)
  have l3 : 2 ^ (w - n) * (x.toNat % 2 ^ n) + x.toNat / 2 ^ n < 2 ^ w := by
    have : (2 : Nat) ^ w = 2 ^ (w - n) * 2 ^ n := by rw [← pow_add]; congr 1; omega
    rw [this]
    calc 2 ^ (w - n) * (x.toNat % 2 ^ n) + x.toNat / 2 ^ n < 2 ^ (w - n) * (x.toNat % 2 ^ n) + 2 ^ (w - n) := by omega
      _ = 2 ^ (w - n) * (x.toNat % 2 ^ n + 1) := by ring
      _ ≤ 2 ^ (w - n) * 2 ^ n := Nat.mul_le_mul_left _ l2
  rw [e, Nat.lor_comm, ← Nat.two_pow_add_eq_or_of_lt l1, Nat.add_comm (x.toNat / 2 ^ n), Nat.add_mod, e, Nat.mod_eq_of_lt
    (lt_of_le_of_lt (Nat.div_le_self _ _) hx), Nat.mod_eq_of_lt l3]

theorem minS_exact (x y : BitVec w) : minS x y = BitVec.ofInt w (min x.toInt y.toInt) := by
  unfold minS
  simp only [BitVec.slt_eq_decide, decide_eq_true_eq]
  split_ifs with h
  · rw [min_eq_right (by omega)]; simp
  · rw [min_eq_left (by omega)]; simp
theorem maxS_exact (x y : BitVec w) : maxS x y = BitVec.ofInt w (max x.toInt y.toInt) := by
  unfold maxS
  simp only [BitVec.slt_eq_decide, decide_eq_true_eq]
  split_ifs with h
  · rw [max_eq_right (by omega)]; simp
  · rw [max_eq_left (by omega)]; simp
theorem minU_exact (x y : BitVec w) : minU x y = BitVec.ofNat w (min x.toNat y.toNat) := by
  unfold minU
  simp only [BitVec.ult_eq_decide, decide_eq_true_eq]
  split_ifs with h
  · rw [min_eq_right (by omega)]; simp
  · rw [min_eq_left (by omega)]; simp
theorem maxU_exact (x y : BitVec w) : maxU x y = BitVec.ofNat w (max x.toNat y.toNat) := by
  unfold maxU
  simp only [BitVec.ult_eq_decide, decide_eq_true_eq]
  split_ifs with h
  · rw [max_eq_right (by omega)]; simp
  · rw [max_eq_left (by omega)]; simp

end Sys2Proof.Machine
end

