-- ==== Sys2Proof/Laws/Table.lean ====
section
/-! SUPPORT. What sparse tables and number sets satisfy: reading after writing, and the canonical form. -/

namespace Sys2Proof.Machine

namespace Table

variable {α : Type}

@[simp] theorem find_nil (k : Nat) : find ([] : Table α) k = none := rfl
@[simp] theorem get_nil (d : α) (k : Nat) : get d ([] : Table α) k = d := rfl

/-! ## Reading after writing -/

@[simp] theorem find_put_same (t : Table α) (k : Nat) (v : α) : find (put t k v) k = some v := by
  induction t with
  | nil => simp [put, find]
  | cons e t ih => obtain ⟨k', v'⟩ := e; simp only [put]; split_ifs <;> simp_all [find]

theorem find_put_ne (t : Table α) {k k' : Nat} (v : α) (h : k' ≠ k) : find (put t k v) k' = find t k' := by
  induction t with
  | nil => simp [put, find, h]
  | cons e t ih => obtain ⟨a, b⟩ := e; simp only [put]; split_ifs <;> simp_all [find]

theorem find_put (t : Table α) (k k' : Nat) (v : α) :
    find (put t k v) k' = if k' = k then some v else find t k' := by
  split_ifs with h
  · subst h; simp
  · exact find_put_ne t v h

@[simp] theorem get_put_same (d : α) (t : Table α) (k : Nat) (v : α) : get d (put t k v) k = v := by simp [get]

theorem get_put_ne (d : α) (t : Table α) {k k' : Nat} (v : α) (h : k' ≠ k) : get d (put t k v) k' = get d t k' := by
  simp [get, find_put_ne t v h]

theorem get_put (d : α) (t : Table α) (k k' : Nat) (v : α) :
    get d (put t k v) k' = if k' = k then v else get d t k' := by
  split_ifs with h
  · subst h; simp
  · exact get_put_ne d t v h

@[simp] theorem find_del_same (t : Table α) (k : Nat) : find (del t k) k = none := by
  induction t with
  | nil => rfl
  | cons e t ih => obtain ⟨a, b⟩ := e; simp only [del]; split_ifs <;> simp_all [find]

theorem find_del_ne (t : Table α) {k k' : Nat} (h : k' ≠ k) : find (del t k) k' = find t k' := by
  induction t with
  | nil => rfl
  | cons e t ih => obtain ⟨a, b⟩ := e; simp only [del]; split_ifs <;> simp_all [find]

theorem find_del (t : Table α) (k k' : Nat) : find (del t k) k' = if k' = k then none else find t k' := by
  split_ifs with h
  · subst h; simp
  · exact find_del_ne t h

theorem get_del (d : α) (t : Table α) (k k' : Nat) : get d (del t k) k' = if k' = k then d else get d t k' := by
  simp only [get, find_del]; split_ifs <;> rfl

theorem get_set [DecidableEq α] (d : α) (t : Table α) (k k' : Nat) (v : α) :
    get d (set d t k v) k' = if k' = k then v else get d t k' := by
  unfold set
  split_ifs with h1 h2 h2 <;> simp_all [get_del, get_put]

@[simp] theorem get_set_same [DecidableEq α] (d : α) (t : Table α) (k : Nat) (v : α) : get d (set d t k v) k = v := by
  simp [get_set]

theorem get_set_ne [DecidableEq α] (d : α) (t : Table α) {k k' : Nat} (v : α) (h : k' ≠ k) :
    get d (set d t k v) k' = get d t k' := by
  simp [get_set, h]

@[simp] theorem put_put (t : Table α) (k : Nat) (v w : α) : put (put t k v) k w = put t k w := by
  induction t with
  | nil => simp [put]
  | cons e t ih => obtain ⟨a, b⟩ := e; simp only [put]; split_ifs <;> simp_all [put]

/-- Writing back what stands there changes nothing. -/
theorem put_find (t : Table α) (k : Nat) (v : α) (h : find t k = some v) (hok : ok t = true) : put t k v = t := by
  suffices H : ∀ b, okFrom b t = true → put t k v = t from H 0 hok
  clear hok
  induction t with
  | nil => simp at h
  | cons e t ih =>
    intro b hb
    obtain ⟨a, c⟩ := e
    simp only [okFrom, Bool.and_eq_true, decide_eq_true_eq] at hb
    simp only [find] at h
    simp only [put]
    split_ifs at h ⊢ with h1 h2
    · simp_all
    · exfalso
      have : ∀ (t : Table α) (b : Nat), okFrom b t = true → k < b → find t k = none := by
        intro t
        induction t with
        | nil => intros; rfl
        | cons e t ih =>
          obtain ⟨x, y⟩ := e
          intro b hb hk
          simp only [okFrom, Bool.and_eq_true, decide_eq_true_eq] at hb
          simp only [find]
          rw [if_neg (by omega), ih _ hb.2 (by omega)]
      rw [this t (a + 1) hb.2 (by omega)] at h
      simp at h
    · rw [ih h _ hb.2]

/-! ## The canonical form -/

theorem okFrom_mono {t : Table α} {a b : Nat} (h : okFrom b t = true) (hab : a ≤ b) : okFrom a t = true := by
  cases t with
  | nil => rfl
  | cons e t => simp only [okFrom, Bool.and_eq_true, decide_eq_true_eq] at h ⊢; exact ⟨by omega, h.2⟩

theorem okFrom_put {t : Table α} {b : Nat} (h : okFrom b t = true) (k : Nat) (v : α) (hk : b ≤ k) :
    okFrom b (put t k v) = true := by
  induction t generalizing b with
  | nil => simp [put, okFrom, hk]
  | cons e t ih =>
    obtain ⟨a, c⟩ := e
    simp only [okFrom, Bool.and_eq_true, decide_eq_true_eq] at h
    simp only [put]
    split_ifs with h1 h2
    · subst h1; simp [okFrom, h]
    · simp only [okFrom, Bool.and_eq_true, decide_eq_true_eq]; exact ⟨hk, by omega, h.2⟩
    · simp only [okFrom, Bool.and_eq_true, decide_eq_true_eq]; exact ⟨h.1, ih h.2 (by omega)⟩

theorem okFrom_del {t : Table α} {b : Nat} (h : okFrom b t = true) (k : Nat) : okFrom b (del t k) = true := by
  induction t generalizing b with
  | nil => rfl
  | cons e t ih =>
    obtain ⟨a, c⟩ := e
    simp only [okFrom, Bool.and_eq_true, decide_eq_true_eq] at h
    simp only [del]
    split_ifs with h1
    · exact ih (okFrom_mono h.2 (by omega))
    · simp only [okFrom, Bool.and_eq_true, decide_eq_true_eq]; exact ⟨h.1, ih h.2⟩

theorem ok_put {t : Table α} (h : ok t = true) (k : Nat) (v : α) : ok (put t k v) = true :=
  okFrom_put h k v (Nat.zero_le k)

theorem ok_del {t : Table α} (h : ok t = true) (k : Nat) : ok (del t k) = true := okFrom_del h k

theorem ok_set [DecidableEq α] {d : α} {t : Table α} (h : ok t = true) (k : Nat) (v : α) : ok (set d t k v) = true := by
  unfold set; split_ifs
  · exact ok_del h k
  · exact ok_put h k v

theorem mem_put {t : Table α} {k : Nat} {v : α} {e : Nat × α} (h : e ∈ put t k v) : e = (k, v) ∨ e ∈ t := by
  induction t with
  | nil => simpa [put] using h
  | cons x t ih =>
    obtain ⟨a, c⟩ := x
    simp only [put] at h
    split_ifs at h <;> simp only [List.mem_cons] at h ⊢ <;> tauto

theorem mem_del {t : Table α} {k : Nat} {e : Nat × α} (h : e ∈ del t k) : e ∈ t := by
  induction t with
  | nil => simp [del] at h
  | cons x t ih =>
    obtain ⟨a, c⟩ := x
    simp only [del] at h
    split_ifs at h <;> simp only [List.mem_cons] at h ⊢ <;> tauto

theorem mem_find {t : Table α} {k : Nat} {v : α} (h : find t k = some v) : (k, v) ∈ t := by
  induction t with
  | nil => simp at h
  | cons x t ih =>
    obtain ⟨a, c⟩ := x
    simp only [find] at h
    split_ifs at h with h1
    · simp_all
    · exact List.mem_cons_of_mem _ (ih h)

theorem noDefault_put [DecidableEq α] {d : α} {t : Table α} (h : noDefault d t = true) (k : Nat) {v : α} (hv : v ≠ d) :
    noDefault d (put t k v) = true := by
  simp only [noDefault, List.all_eq_true, decide_eq_true_eq] at h ⊢
  intro e he
  rcases mem_put he with rfl | he
  · exact hv
  · exact h e he

theorem noDefault_del [DecidableEq α] {d : α} {t : Table α} (h : noDefault d t = true) (k : Nat) :
    noDefault d (del t k) = true := by
  simp only [noDefault, List.all_eq_true, decide_eq_true_eq] at h ⊢
  exact fun e he => h e (mem_del he)

theorem noDefault_set [DecidableEq α] {d : α} {t : Table α} (h : noDefault d t = true) (k : Nat) (v : α) :
    noDefault d (set d t k v) = true := by
  unfold set; split_ifs with hv
  · exact noDefault_del h k
  · exact noDefault_put h k hv

/-- What holds of every entry of a table, and of what is written, holds of every entry afterwards. -/
theorem all_put {t : Table α} {P : α → Bool} (h : t.all (fun e => P e.2) = true) (k : Nat) {v : α} (hv : P v = true) :
    (put t k v).all (fun e => P e.2) = true := by
  simp only [List.all_eq_true] at h ⊢
  intro e he
  rcases mem_put he with rfl | he
  · exact hv
  · exact h e he

theorem all_find {t : Table α} {P : α → Bool} (h : t.all (fun e => P e.2) = true) {k : Nat} {v : α}
    (hf : find t k = some v) : P v = true :=
  List.all_eq_true.1 h _ (mem_find hf)

theorem all_get {t : Table α} {P : α → Bool} (h : t.all (fun e => P e.2) = true) {d : α} (hd : P d = true) (k : Nat) :
    P (get d t k) = true := by
  unfold get
  cases hf : find t k with
  | none => simpa using hd
  | some v => simpa using all_find h hf

end Table

namespace NumSet

theorem mem_insert (t : NumSet) (k j : Nat) : j ∈ t.insert k ↔ j = k ∨ j ∈ t := by
  induction t with
  | nil => simp [insert]
  | cons x t ih =>
    simp only [insert]
    split_ifs with h1 h2
    · subst h1; simp
    · simp
    · simp only [List.mem_cons, ih]; tauto

theorem mem_erase (t : NumSet) (k j : Nat) : j ∈ NumSet.erase t k ↔ j ≠ k ∧ j ∈ t := by
  simp only [NumSet.erase, List.mem_filter, bne_iff_ne]; tauto

theorem has_iff (t : NumSet) (j : Nat) : t.has j = true ↔ j ∈ t := by
  simp [has]

theorem has_insert (t : NumSet) (k j : Nat) : (t.insert k).has j = (j == k || t.has j) := by
  rw [Bool.eq_iff_iff, has_iff, mem_insert, Bool.or_eq_true, has_iff, beq_iff_eq]

theorem has_erase (t : NumSet) (k j : Nat) : (NumSet.erase t k).has j = (j != k && t.has j) := by
  rw [Bool.eq_iff_iff, has_iff, mem_erase, Bool.and_eq_true, has_iff, bne_iff_ne]

end NumSet

end Sys2Proof.Machine
end

