-- ==== Sys2Proof/Laws/State.lean ====
section
/-! SUPPORT. Reading a part of the machine after another part has changed: one lemma for each accessor and each update,
so that no proof unfolds a record update. -/

namespace Sys2Proof.Machine

/-! ## Packages -/

@[simp] theorem State.cur_mapPkg (s : State) (p : PkgId) (f : Pkg → Pkg) : (s.mapPkg p f).cur = s.cur := by
  unfold State.mapPkg; split <;> rfl
@[simp] theorem State.agenda_mapPkg (s : State) (p : PkgId) (f : Pkg → Pkg) : (s.mapPkg p f).agenda = s.agenda := by
  unfold State.mapPkg; split <;> rfl
@[simp] theorem State.gone_mapPkg (s : State) (p : PkgId) (f : Pkg → Pkg) : (s.mapPkg p f).gone = s.gone := by
  unfold State.mapPkg; split <;> rfl
@[simp] theorem State.free_mapPkg (s : State) (p : PkgId) (f : Pkg → Pkg) : (s.mapPkg p f).free = s.free := by
  unfold State.mapPkg; split <;> rfl

theorem toNat_ne {w : Nat} {a b : BitVec w} (h : a ≠ b) : a.toNat ≠ b.toNat := fun e => h (BitVec.eq_of_toNat_eq e)

@[simp] theorem State.hasPkg_mapPkg (s : State) (p q : PkgId) (f : Pkg → Pkg) :
    (s.mapPkg p f).hasPkg q = s.hasPkg q := by
  unfold State.mapPkg State.hasPkg
  split
  · rename_i k hk
    simp only [Table.find_put]
    split_ifs with h
    · rw [h, hk]; rfl
    · rfl
  · rfl

theorem State.pkgAt_mapPkg_same {s : State} {p : PkgId} (h : s.hasPkg p = true) (f : Pkg → Pkg) :
    (s.mapPkg p f).pkgAt p = f (s.pkgAt p) := by
  unfold State.hasPkg at h
  unfold State.mapPkg State.pkgAt Table.get
  split
  · rename_i k hk; simp [hk]
  · rename_i hk; simp [hk] at h

theorem State.pkgAt_mapPkg_ne (s : State) {p q : PkgId} (h : q ≠ p) (f : Pkg → Pkg) :
    (s.mapPkg p f).pkgAt q = s.pkgAt q := by
  unfold State.mapPkg State.pkgAt
  split
  · simp [Table.get_put_ne _ _ _ (toNat_ne h)]
  · rfl

/-- A property of packages that a change keeps, of the package of any place. -/
theorem State.pkgAt_mapPkg (s : State) (p q : PkgId) (f : Pkg → Pkg) :
    (s.mapPkg p f).pkgAt q = if q = p ∧ s.hasPkg p = true then f (s.pkgAt p) else s.pkgAt q := by
  by_cases h : q = p
  · subst h
    by_cases hp : s.hasPkg q = true
    · simp [hp, State.pkgAt_mapPkg_same hp]
    · simp only [hp, and_false, if_false, Bool.false_eq_true]
      unfold State.mapPkg State.hasPkg at *
      split
      · rename_i k hk; simp [hk] at hp
      · rfl
  · simp [h, State.pkgAt_mapPkg_ne s h]

/-- What a change of packages keeps is the same in every package afterwards. -/
theorem State.pkgAt_mapPkg_keeps {α : Sort _} (P : Pkg → α) {f : Pkg → Pkg} (h : ∀ k, P (f k) = P k) (s : State)
    (p q : PkgId) : P ((s.mapPkg p f).pkgAt q) = P (s.pkgAt q) := by
  rw [State.pkgAt_mapPkg]; split_ifs with hq
  · rw [h, hq.1]
  · rfl

/-- A package that is absent is not changed. -/
theorem State.mapPkg_absent {s : State} {p : PkgId} (h : s.hasPkg p = false) (f : Pkg → Pkg) : s.mapPkg p f = s := by
  unfold State.mapPkg State.hasPkg at *
  split
  · rename_i k hk; simp [hk] at h
  · rfl

/-- Two changes of one package are one. -/
theorem State.mapPkg_mapPkg (s : State) (p : PkgId) (f g : Pkg → Pkg) :
    (s.mapPkg p f).mapPkg p g = s.mapPkg p (fun k => g (f k)) := by
  unfold State.mapPkg
  cases h : Table.find s.pkgs p.toNat with
  | none => simp [h]
  | some k => simp [Table.put_put]

/-! ## Cells -/

theorem Pkg.cellAt_mapCell_same (k : Pkg) (c : CellId) (f : Cell → Cell) : (k.mapCell c f).cellAt c = f (k.cellAt c) := by
  simp [Pkg.mapCell, Pkg.cellAt]
theorem Pkg.cellAt_mapCell_ne (k : Pkg) {c d : CellId} (h : d ≠ c) (f : Cell → Cell) :
    (k.mapCell c f).cellAt d = k.cellAt d := by
  simp [Pkg.mapCell, Pkg.cellAt, Table.get_put_ne _ _ _ (toNat_ne h)]
theorem Pkg.cellAt_mapCell (k : Pkg) (c d : CellId) (f : Cell → Cell) :
    (k.mapCell c f).cellAt d = if d = c then f (k.cellAt c) else k.cellAt d := by
  split_ifs with h
  · subst h; exact k.cellAt_mapCell_same d f
  · exact k.cellAt_mapCell_ne h f
theorem Pkg.mapCell_mapCell (k : Pkg) (c : CellId) (f g : Cell → Cell) :
    (k.mapCell c f).mapCell c g = k.mapCell c (fun t => g (f t)) := by
  simp [Pkg.mapCell, Pkg.cellAt]

theorem Cell.slotAt_mapSlot_same (t : Cell) (n : SlotId) (f : Slot → Slot) : (t.mapSlot n f).slotAt n = f (t.slotAt n) := by
  simp [Cell.mapSlot, Cell.slotAt]
theorem Cell.slotAt_mapSlot_ne (t : Cell) {n m : SlotId} (h : m ≠ n) (f : Slot → Slot) :
    (t.mapSlot n f).slotAt m = t.slotAt m := by
  simp [Cell.mapSlot, Cell.slotAt, Table.get_put_ne _ _ _ (toNat_ne h)]
theorem Cell.slotAt_mapSlot (t : Cell) (n m : SlotId) (f : Slot → Slot) :
    (t.mapSlot n f).slotAt m = if m = n then f (t.slotAt n) else t.slotAt m := by
  split_ifs with h
  · subst h; exact t.slotAt_mapSlot_same m f
  · exact t.slotAt_mapSlot_ne h f
theorem Cell.mapSlot_mapSlot (t : Cell) (n : SlotId) (f g : Slot → Slot) :
    (t.mapSlot n f).mapSlot n g = t.mapSlot n (fun x => g (f x)) := by
  simp [Cell.mapSlot, Cell.slotAt]

/-- A cell's other state is the same after a change of a slot. -/
theorem Cell.mapSlot_keeps {α : Sort _} (P : Cell → α) (h : ∀ (t : Cell) x, P { t with slots := x } = P t) (t : Cell)
    (n : SlotId) (f : Slot → Slot) : P (t.mapSlot n f) = P t := h t _

theorem State.cellAt_mapPkg_ne (s : State) {p q : PkgId} (h : q ≠ p) (f : Pkg → Pkg) (c : CellId) :
    (s.mapPkg p f).cellAt q c = s.cellAt q c := by
  simp [State.cellAt, State.pkgAt_mapPkg_ne s h]

/-- A change of packages that leaves their cells alone leaves every cell alone. -/
theorem State.cellAt_mapPkg_keeps {f : Pkg → Pkg} (h : ∀ k, (f k).cells = k.cells) (s : State) (p q : PkgId) (c : CellId) :
    (s.mapPkg p f).cellAt q c = s.cellAt q c := by
  unfold State.cellAt Pkg.cellAt
  rw [State.pkgAt_mapPkg_keeps (fun k => Table.get {} k.cells c.toNat) (fun k => by rw [h])]

@[simp] theorem State.cur_mapCell (s : State) (p : PkgId) (c : CellId) (f : Cell → Cell) : (s.mapCell p c f).cur = s.cur :=
  s.cur_mapPkg _ _
@[simp] theorem State.agenda_mapCell (s : State) (p : PkgId) (c : CellId) (f : Cell → Cell) :
    (s.mapCell p c f).agenda = s.agenda := s.agenda_mapPkg _ _
@[simp] theorem State.gone_mapCell (s : State) (p : PkgId) (c : CellId) (f : Cell → Cell) :
    (s.mapCell p c f).gone = s.gone := s.gone_mapPkg _ _
@[simp] theorem State.free_mapCell (s : State) (p : PkgId) (c : CellId) (f : Cell → Cell) :
    (s.mapCell p c f).free = s.free := s.free_mapPkg _ _
@[simp] theorem State.hasPkg_mapCell (s : State) (p q : PkgId) (c : CellId) (f : Cell → Cell) :
    (s.mapCell p c f).hasPkg q = s.hasPkg q := s.hasPkg_mapPkg _ _ _

theorem State.cellAt_mapCell_same {s : State} {p : PkgId} (h : s.hasPkg p = true) (c : CellId) (f : Cell → Cell) :
    (s.mapCell p c f).cellAt p c = f (s.cellAt p c) := by
  simp [State.cellAt, State.mapCell, State.pkgAt_mapPkg_same h, Pkg.cellAt_mapCell_same]

theorem State.cellAt_mapCell_ne (s : State) {p q : PkgId} {c d : CellId} (h : ¬(q = p ∧ d = c)) (f : Cell → Cell) :
    (s.mapCell p c f).cellAt q d = s.cellAt q d := by
  unfold State.cellAt State.mapCell
  rw [State.pkgAt_mapPkg]
  split_ifs with hq
  · obtain ⟨rfl, -⟩ := hq
    rw [Pkg.cellAt_mapCell_ne]; exact fun e => h ⟨rfl, e⟩
  · rfl

theorem State.cellAt_mapCell (s : State) (p q : PkgId) (c d : CellId) (f : Cell → Cell) :
    (s.mapCell p c f).cellAt q d = if (q = p ∧ d = c) ∧ s.hasPkg p = true then f (s.cellAt p c) else s.cellAt q d := by
  by_cases hp : s.hasPkg p = true
  · by_cases h : q = p ∧ d = c
    · obtain ⟨rfl, rfl⟩ := h; simp [hp, State.cellAt_mapCell_same hp]
    · rw [State.cellAt_mapCell_ne s h]; simp [h]
  · rw [State.mapCell, State.mapPkg_absent (by simpa using hp)]; simp [hp]

/-- What a change of cells keeps is the same in every cell afterwards. -/
theorem State.cellAt_mapCell_keeps {α : Sort _} (P : Cell → α) {f : Cell → Cell} (h : ∀ t, P (f t) = P t) (s : State)
    (p q : PkgId) (c d : CellId) : P ((s.mapCell p c f).cellAt q d) = P (s.cellAt q d) := by
  rw [State.cellAt_mapCell]; split_ifs with hq
  · obtain ⟨⟨rfl, rfl⟩, -⟩ := hq; exact h _
  · rfl

theorem State.mapCell_mapCell (s : State) (p : PkgId) (c : CellId) (f g : Cell → Cell) :
    (s.mapCell p c f).mapCell p c g = s.mapCell p c (fun t => g (f t)) := by
  simp [State.mapCell, State.mapPkg_mapPkg, Pkg.mapCell_mapCell]

/-- A package's other state is the same after a change of a cell. -/
theorem State.pkgAt_mapCell_keeps {α : Sort _} (P : Pkg → α) (h : ∀ (k : Pkg) x, P { k with cells := x } = P k) (s : State)
    (p q : PkgId) (c : CellId) (f : Cell → Cell) : P ((s.mapCell p c f).pkgAt q) = P (s.pkgAt q) :=
  State.pkgAt_mapPkg_keeps P (fun k => h k _) s p q

/-! ## Slots -/

@[simp] theorem State.cur_mapSlot (s : State) (g : GRef) (f : Slot → Slot) : (s.mapSlot g f).cur = s.cur := s.cur_mapCell _ _ _
@[simp] theorem State.agenda_mapSlot (s : State) (g : GRef) (f : Slot → Slot) : (s.mapSlot g f).agenda = s.agenda :=
  s.agenda_mapCell _ _ _
@[simp] theorem State.gone_mapSlot (s : State) (g : GRef) (f : Slot → Slot) : (s.mapSlot g f).gone = s.gone :=
  s.gone_mapCell _ _ _
@[simp] theorem State.free_mapSlot (s : State) (g : GRef) (f : Slot → Slot) : (s.mapSlot g f).free = s.free :=
  s.free_mapCell _ _ _
@[simp] theorem State.hasPkg_mapSlot (s : State) (g : GRef) (f : Slot → Slot) (q : PkgId) :
    (s.mapSlot g f).hasPkg q = s.hasPkg q := s.hasPkg_mapCell _ _ _ _

theorem State.slotAt_mapSlot_same {s : State} {g : GRef} (h : s.hasPkg g.pkg = true) (f : Slot → Slot) :
    (s.mapSlot g f).slotAt g = f (s.slotAt g) := by
  simp [State.slotAt, State.mapSlot, State.cellAt_mapCell_same h, Cell.slotAt_mapSlot_same]

theorem State.slotAt_mapSlot_ne (s : State) {g h : GRef} (e : h ≠ g) (f : Slot → Slot) :
    (s.mapSlot g f).slotAt h = s.slotAt h := by
  unfold State.slotAt State.mapSlot
  rw [State.cellAt_mapCell]
  split_ifs with hq
  · obtain ⟨⟨h1, h2⟩, -⟩ := hq
    rw [Cell.slotAt_mapSlot_ne, h1, h2]
    exact fun e' => e (by cases h; cases g; simp_all)
  · rfl

theorem State.slotAt_mapSlot (s : State) (g h : GRef) (f : Slot → Slot) :
    (s.mapSlot g f).slotAt h = if h = g ∧ s.hasPkg g.pkg = true then f (s.slotAt g) else s.slotAt h := by
  by_cases hp : s.hasPkg g.pkg = true
  · by_cases e : h = g
    · subst e; simp [hp, State.slotAt_mapSlot_same hp]
    · simp [e, State.slotAt_mapSlot_ne s e]
  · rw [State.mapSlot, State.mapCell, State.mapPkg_absent (by simpa using hp)]; simp [hp]

/-- What a change of slots keeps is the same in every slot afterwards. -/
theorem State.slotAt_mapSlot_keeps {α : Sort _} (P : Slot → α) {f : Slot → Slot} (h : ∀ t, P (f t) = P t) (s : State)
    (g q : GRef) : P ((s.mapSlot g f).slotAt q) = P (s.slotAt q) := by
  rw [State.slotAt_mapSlot]; split_ifs with hq
  · rw [h, hq.1]
  · rfl

theorem State.mapSlot_mapSlot (s : State) (g : GRef) (f h : Slot → Slot) :
    (s.mapSlot g f).mapSlot g h = s.mapSlot g (fun t => h (f t)) := by
  simp [State.mapSlot, State.mapCell_mapCell, Cell.mapSlot_mapSlot]

/-- A cell's other state is the same after a change of a slot. -/
theorem State.cellAt_mapSlot_keeps {α : Sort _} (P : Cell → α) (h : ∀ (t : Cell) x, P { t with slots := x } = P t)
    (s : State) (g : GRef) (f : Slot → Slot) (p : PkgId) (c : CellId) :
    P ((s.mapSlot g f).cellAt p c) = P (s.cellAt p c) :=
  State.cellAt_mapCell_keeps P (fun t => h t _) s _ _ _ _

/-- A package's other state is the same after a change of a slot. -/
theorem State.pkgAt_mapSlot_keeps {α : Sort _} (P : Pkg → α) (h : ∀ (k : Pkg) x, P { k with cells := x } = P k) (s : State)
    (g : GRef) (f : Slot → Slot) (q : PkgId) : P ((s.mapSlot g f).pkgAt q) = P (s.pkgAt q) :=
  State.pkgAt_mapCell_keeps P h s _ _ _ _

/-- A change of a cell that leaves its slots alone leaves every slot alone. -/
theorem State.slotAt_mapCell_keeps {f : Cell → Cell} (h : ∀ t, (f t).slots = t.slots) (s : State) (p : PkgId) (c : CellId)
    (g : GRef) : (s.mapCell p c f).slotAt g = s.slotAt g := by
  unfold State.slotAt Cell.slotAt
  rw [State.cellAt_mapCell_keeps (fun t => Table.get {} t.slots g.slot.toNat) (fun t => by rw [h])]

/-- A change of a package that leaves its cells alone leaves every slot alone. -/
theorem State.slotAt_mapPkg_keeps {f : Pkg → Pkg} (h : ∀ k, (f k).cells = k.cells) (s : State) (p : PkgId)
    (g : GRef) : (s.mapPkg p f).slotAt g = s.slotAt g := by
  unfold State.slotAt
  rw [State.cellAt_mapPkg_keeps h]

@[simp] theorem State.cycleAt_mapCell (s : State) (p q : PkgId) (c : CellId) (f : Cell → Cell) :
    (s.mapCell p c f).cycleAt q = s.cycleAt q := State.pkgAt_mapCell_keeps (·.cycle) (fun _ _ => rfl) s p q c f
@[simp] theorem State.cycleAt_mapSlot (s : State) (g : GRef) (q : PkgId) (f : Slot → Slot) :
    (s.mapSlot g f).cycleAt q = s.cycleAt q := State.pkgAt_mapSlot_keeps (·.cycle) (fun _ _ => rfl) s g f q

end Sys2Proof.Machine
end

