-- ==== Sys2Proof/Laws/Run.lean ====
section
/-! SUPPORT. What running an instruction does: an instruction whose operands are ready executes its body, and what each
end of a body leaves. -/

namespace Sys2Proof.Machine

/-! ## Operands -/

theorem any_neg {α : Type} {l : List α} {f : α → Bool} (h : ∀ x ∈ l, f x = false) : ¬ (l.any f = true) := by
  simp only [List.any_eq_true, not_exists, not_and, Bool.not_eq_true]; exact h

theorem findSome_none {α β : Type} {l : List α} {f : α → Option β} (h : ∀ x ∈ l, f x = none) : l.findSome? f = none :=
  List.findSome?_eq_none_iff.2 h

theorem filterMap_nil {α β : Type} {l : List α} {f : α → Option β} (h : ∀ x ∈ l, f x = none) : l.filterMap f = [] :=
  List.filterMap_eq_nil_iff.2 h

theorem ready_iff (s : State) (o : Opnds) : ready s o = true ↔
    s.hasPkg s.cur.pkg = true ∧ allowed s o.needs = true ∧ o.beyond = false ∧
    (∀ r ∈ o.named, r.toNat < (s.slotAt s.cur).regLim.toNat) ∧ (∀ r ∈ o.srcs, (s.slotAt s.cur).fe r = .full) ∧
    (∀ r ∈ o.dsts, (s.slotAt s.cur).fe r ≠ .pending) ∧
    (∀ r, r ∈ o.srcs ∨ r ∈ o.dsts ∨ (∃ q ∈ o.whole, RegRef.v q = r) → (s.slotAt s.cur).streamless r = true) ∧
    (∀ r, r ∈ o.srcs ∨ r ∈ o.prior → regPoison s s.cur o r = none) ∧ (s.slotAt s.cur).take = none := by
  simp only [ready, Bool.and_eq_true, Bool.not_eq_true', List.all_eq_true, decide_eq_true_eq, beq_iff_eq, bne_iff_ne,
    Option.isNone_iff_eq_none, List.mem_append, List.mem_map, or_assoc, and_assoc]

theorem binding_streamless {s : State} {g : GRef} {q : VRegNo} (h : (s.slotAt g).streamless (.v q) = true) :
    s.binding g q = none := by
  simp only [Slot.streamless, Option.isNone_iff_eq_none] at h
  simp [State.binding, h]

theorem boundTo_streamless {c : Ctx} {q : VRegNo} (h : c.slot.streamless (.v q) = true) : c.boundTo q = none := by
  simp only [Slot.streamless, Option.isNone_iff_eq_none] at h
  simp [Ctx.boundTo, h]

theorem srcEmpty_streamless {s : State} {g : GRef} {r : RegRef} (h : (s.slotAt g).streamless r = true) :
    srcEmpty s g r = ((s.slotAt g).fe r != .full) := by
  cases r with
  | s r => rfl
  | v q => simp [srcEmpty, binding_streamless h]

/-- The state in which the body of an instruction without takes and pops starts. -/
def started (s : State) : State := s.mapSlot s.cur fun t => { t with lastOp := none }

/-- With its operands ready an instruction comes to its body. -/
theorem prepare_ready {s : State} {o : Opnds} (h : ready s o = true) :
    prepare s s.cur o = .ok { s := started s, g := s.cur, pops := [], took := [] } := by
  obtain ⟨-, hn, hb, hw, hs, hd, hu, hp, ht⟩ := (ready_iff s o).1 h
  have hsrc : ∀ r ∈ o.srcs, (s.slotAt s.cur).streamless r = true := fun r hr => hu r (.inl hr)
  have hdst : ∀ r ∈ o.dsts, (s.slotAt s.cur).streamless r = true := fun r hr => hu r (.inr (.inl hr))
  have hwh : ∀ q ∈ o.whole, s.binding s.cur q = none := fun q hq =>
    binding_streamless (hu _ (.inr (.inr ⟨q, hq, rfl⟩)))
  have hbs : ∀ q, RegRef.v q ∈ o.srcs → s.binding s.cur q = none := fun q hq => binding_streamless (hsrc _ hq)
  have hbd : ∀ q, RegRef.v q ∈ o.dsts → s.binding s.cur q = none := fun q hq => binding_streamless (hdst _ hq)
  have hempty : o.srcs.filter (srcEmpty s s.cur) = [] := by
    rw [List.filter_eq_nil_iff]
    intro r hr
    simp [srcEmpty_streamless (hsrc r hr), hs r hr]
  have hrange : (o.beyond || o.named.any fun r => decide ((s.slotAt s.cur).regLim.toNat ≤ r.toNat)) = false := by
    simp only [hb, Bool.false_or, List.any_eq_false, decide_eq_true_eq]
    intro r hr; have := hw r hr; omega
  have hpend : (o.dsts.find? fun r => (s.slotAt s.cur).fe r == .pending) = none := by
    rw [List.find?_eq_none]; intro r hr; simpa using hd r hr
  have hbind : bindFault s s.cur o = none := by
    unfold bindFault
    simp only [ht]
    rw [if_neg (any_neg fun q hq => by simp [hwh q hq]), if_neg (by simp),
      if_neg (any_neg fun r hr => by cases r with | s r => rfl | v q => simp [hbs q hr]),
      if_neg (any_neg fun r hr => by cases r with | s r => rfl | v q => simp [hbd q hr])]
    split
    · rfl
    · rw [if_neg (any_neg fun r hr => by cases r with | s r => rfl | v q => simp [hbs q hr]),
        findSome_none fun r hr => by cases r with | s r => rfl | v q => simp [hbs q hr]]
      simp only
      rw [findSome_none fun r hr => by cases r with | s r => rfl | v q => simp [hbd q hr]]
      simp only
      rw [if_neg (any_neg fun r hr => by cases r with | s r => rfl | v q => simp [hbd q hr])]
  have hpoison : (o.srcs ++ o.prior).findSome? (regPoison s s.cur o) = none :=
    findSome_none fun r hr => hp r (List.mem_append.1 hr)
  have hpops : popList s s.cur o = [] := by
    unfold popList
    split
    · rfl
    · rw [filterMap_nil fun r hr => by cases r with | s r => rfl | v q => simp [hbs q hr]]; rfl
  have htaken : takenRegs (s.slotAt s.cur) o = [] := by simp [takenRegs, ht]
  unfold prepare
  simp only [hrange, hempty, hpend, hbind, hpoison, hpops, htaken]
  rw [findSome_none fun r hr => by cases r with | s r => rfl | v q => simp [hbd q hr]]
  rw [if_neg (by unfold allowed at hn; split at hn <;> simp_all)]
  rfl

/-- With its operands ready an instruction ends as its body says. -/
theorem run_ready {s : State} {o : Opnds} (h : ready s o = true) (body : Ctx → Issue) :
    run s o body = .next (conclude s s.cur o (body { s := started s, g := s.cur, pops := [], took := [] })) := by
  have hp : s.hasPkg s.cur.pkg = true := ((ready_iff s o).1 h).1
  simp [run, hp, prepare_ready h]

/-! ## What a publication leaves -/

/-- Entries that change under their keys are found as changed. -/
theorem Table.find_mapVal {α β : Type} (t : Table α) (f : Nat → α → β) (k : Nat) :
    Table.find (t.map fun e => (e.1, f e.1 e.2)) k = (Table.find t k).map (f k) := by
  induction t with
  | nil => rfl
  | cons e t ih =>
    obtain ⟨a, b⟩ := e
    simp only [List.map_cons, Table.find]
    split_ifs with h
    · subst h; rfl
    · exact ih

theorem Pkg.cellAt_mapSlots (k : Pkg) (f : CellId → SlotId → Slot → Slot) (c : CellId) :
    (k.mapSlots f).cellAt c =
      { k.cellAt c with slots := (k.cellAt c).slots.map fun e => (e.1, f (BitVec.ofNat 12 c.toNat) (BitVec.ofNat 4 e.1) e.2) } := by
  unfold Pkg.mapSlots Pkg.cellAt Table.get
  simp only
  have := Table.find_mapVal k.cells (fun n (t : Cell) =>
    ({ t with slots := t.slots.map fun e => (e.1, f (BitVec.ofNat 12 n) (BitVec.ofNat 4 e.1) e.2) } : Cell)) c.toNat
  rw [this]
  cases Table.find k.cells c.toNat <;> rfl

/-- What a change of a package's listed slots keeps is the same in every slot. -/
theorem Pkg.slotAt_mapSlots_keeps {α : Sort _} (P : Slot → α) {f : CellId → SlotId → Slot → Slot}
    (h : ∀ c n t, P (f c n t) = P t) (k : Pkg) (c : CellId) (n : SlotId) :
    P (((k.mapSlots f).cellAt c).slotAt n) = P ((k.cellAt c).slotAt n) := by
  rw [Pkg.cellAt_mapSlots]
  unfold Cell.slotAt Table.get
  rw [Table.find_mapVal (k.cellAt c).slots (fun m t => f (BitVec.ofNat 12 c.toNat) (BitVec.ofNat 4 m) t)]
  cases Table.find (k.cellAt c).slots n.toNat with
  | none => rfl
  | some t => exact h _ _ t

/-- A change that keeps everything but what publishers have sent. -/
def Still (a b : State) : Prop :=
  (∀ p, b.hasPkg p = a.hasPkg p ∧ (b.pkgAt p).bare = (a.pkgAt p).bare) ∧
  (∀ p c, (b.cellAt p c).bare = (a.cellAt p c).bare) ∧ (∀ h, (b.slotAt h).quiet = (a.slotAt h).quiet) ∧
  b.cur = a.cur ∧ b.agenda = a.agenda ∧ b.gone = a.gone ∧ b.free = a.free

theorem Still.refl (a : State) : Still a a := ⟨fun _ => ⟨rfl, rfl⟩, fun _ _ => rfl, fun _ => rfl, rfl, rfl, rfl, rfl⟩

theorem Still.sendItem (s : State) (g : GRef) (c : BitVec 12) (first : Option (BitVec 8)) (item : PubItem) :
    Still s (sendItem s g c first item) := by
  unfold Machine.sendItem; dsimp only
  refine ⟨fun p => ⟨by simp, ?_⟩, fun p q => ?_, fun h => ?_, by simp, by simp, by simp, by simp⟩
  · refine (State.pkgAt_mapPkg_keeps Pkg.bare ?_ _ _ _).trans (State.pkgAt_mapPkg_keeps Pkg.bare ?_ _ _ _) <;>
    exact fun _ => rfl
  · unfold State.cellAt
    refine (State.pkgAt_mapPkg_keeps (fun k => (k.cellAt q).bare) ?_ _ _ _).trans
      (State.pkgAt_mapPkg_keeps (fun k => (k.cellAt q).bare) (fun k => by simp only [Pkg.cellAt_mapSlots]; rfl) _ _ _)
    exact fun _ => rfl
  · unfold State.slotAt State.cellAt
    refine (State.pkgAt_mapPkg_keeps (fun k => ((k.cellAt h.cell).slotAt h.slot).quiet) ?_ _ _ _).trans
      (State.pkgAt_mapPkg_keeps (fun k => ((k.cellAt h.cell).slotAt h.slot).quiet)
        (fun k => Pkg.slotAt_mapSlots_keeps Slot.quiet (fun _ _ t => by split_ifs <;> rfl) k _ _) _ _ _)
    exact fun _ => rfl

theorem Still.publish (s : State) (g : GRef) (n : Nat) (next : Word × Nat × LoopStack) (s' : State) :
    Still s' (publish s g n next s') := by
  unfold Machine.publish; dsimp only
  split
  · exact Still.sendItem _ _ _ _ _
  · exact Still.refl _

theorem Slot.bare_of_quiet {a b : Slot} (h : a.quiet = b.quiet) : a.bare = b.bare := by
  have : a.quiet.bare = b.quiet.bare := by rw [h]
  exact this

/-- The course of the slot `g` and a publication are all that a completed instruction adds to its effect. -/
theorem Agree.finish {g : GRef} {u v : State} {f : Slot → Slot} (hp : u.hasPkg g.pkg = true)
    (hf : ∀ t, (f t).bare = t.bare) (h : Still (u.mapSlot g f) v) : Agree g u v := by
  obtain ⟨h1, h2, h3, h4, h5, h6, h7⟩ := h
  refine ⟨fun p => ⟨by simpa using (h1 p).1, ?_⟩, fun p c => ?_, fun q hq => ?_, ?_, by simpa using h4, by simpa using h5,
    by simpa using h6, by simpa using h7⟩
  · rw [(h1 p).2]; exact State.pkgAt_mapSlot_keeps Pkg.bare (fun _ _ => rfl) _ _ _ _
  · rw [h2]; exact State.cellAt_mapSlot_keeps Cell.bare (fun _ _ => rfl) _ _ _ _ _
  · rw [h3, State.slotAt_mapSlot_ne _ hq]
  · rw [Slot.bare_of_quiet (h3 g), State.slotAt_mapSlot_same hp, hf]

theorem Slot.bare_goTo (t : Slot) (x : Word × Nat × LoopStack) : (t.clear.goTo x).bare = t.bare := by
  unfold Slot.goTo Slot.clear Slot.bare
  simp only
  split_ifs <;> rfl

theorem Slot.place_goTo (t : Slot) (x : Word × Nat × LoopStack) : (t.goTo x).place = x := by
  unfold Slot.goTo Slot.place
  simp only
  split_ifs with h1 h2
  · rw [← h1]
  · rw [← h2]
  · rfl

theorem Slot.place_quiet {a b : Slot} (h : a.quiet = b.quiet) : a.place = b.place := by
  have : a.quiet.place = b.quiet.place := by rw [h]
  exact this

/-- A body that is done leaves its effect, and the slot at what follows. -/
theorem conclude_done {s u : State} {g : GRef} {o : Opnds} (hp : u.hasPkg g.pkg = true) :
    Agree g u (conclude s g o (.done u)) ∧ ((conclude s g o (.done u)).slotAt g).place = s.nextPlace g o.words := by
  have hs : Still (u.mapSlot g fun t => t.clear.goTo (s.nextPlace g o.words)) (conclude s g o (.done u)) := by
    unfold conclude; simp only; split
    · exact Still.publish _ _ _ _ _
    · exact Still.refl _
  refine ⟨Agree.finish hp (fun t => Slot.bare_goTo t _) hs, ?_⟩
  rw [Slot.place_quiet (hs.2.2.1 g), State.slotAt_mapSlot_same hp, Slot.place_goTo]

/-- A body that jumps leaves its effect, and the slot at the target. -/
theorem conclude_jump {s u : State} {g : GRef} {o : Opnds} {a : Word} (hp : u.hasPkg g.pkg = true) :
    Agree g u (conclude s g o (.jump u a)) ∧ ((conclude s g o (.jump u a)).slotAt g).place = (a, 0, (u.slotAt g).loops) := by
  have hs : Still (u.mapSlot g fun t => t.clear.goTo (a, 0, (u.slotAt g).loops)) (conclude s g o (.jump u a)) := by
    unfold conclude; simp only; split
    · exact Still.publish _ _ _ _ _
    · exact Still.refl _
  refine ⟨Agree.finish hp (fun t => Slot.bare_goTo t _) hs, ?_⟩
  rw [Slot.place_quiet (hs.2.2.1 g), State.slotAt_mapSlot_same hp, Slot.place_goTo]

/-- States that agree with one state agree with another that differs from it only in the slot's course. -/
theorem Agree.of_started {g : GRef} {a b c : State} (h : Agree g b c) (e : Agree g a b) : Agree g a c := by
  obtain ⟨a1, a2, a3, a4, a5, a6, a7, a8⟩ := e
  obtain ⟨b1, b2, b3, b4, b5, b6, b7, b8⟩ := h
  exact ⟨fun p => ⟨(b1 p).1.trans (a1 p).1, (b1 p).2.trans (a1 p).2⟩, fun p q => (b2 p q).trans (a2 p q),
    fun q hq => (b3 q hq).trans (a3 q hq), b4.trans a4, b5.trans a5, b6.trans a6, b7.trans a7, b8.trans a8⟩

theorem Agree.refl (g : GRef) (a : State) : Agree g a a :=
  ⟨fun _ => ⟨rfl, rfl⟩, fun _ _ => rfl, fun _ _ => rfl, rfl, rfl, rfl, rfl, rfl⟩

theorem Agree.trans {g : GRef} {a b c : State} (h : Agree g a b) (e : Agree g b c) : Agree g a c := e.of_started h

/-- A change of the slot's course alone. -/
theorem Agree.course {g : GRef} {a : State} (hp : a.hasPkg g.pkg = true) {f : Slot → Slot}
    (hf : ∀ t, (f t).bare = t.bare) : Agree g a (a.mapSlot g f) :=
  Agree.finish hp hf (Still.refl _)

theorem Agree.started {s : State} (hp : s.hasPkg s.cur.pkg = true) : Agree s.cur s (started s) :=
  Agree.course hp fun _ => rfl

/-! ## Taking a fault -/

/-- A package without its cells, its channels and what publishers have sent lately. -/
def Pkg.chanless (k : Pkg) : Pkg := { k with cells := [], chans := [], sent := [] }

/-- What taking a fault makes of its slot, besides ending its channel. -/
def Slot.stopped (t : Slot) (k : Kind) (resume : Word × Nat × LoopStack) : Slot :=
  { t.untake.goTo resume with
    mode := .trapped, fkind := k.code, subscribed := none, pendingPub := none, inbox := [], wait := none, waitNext := none
    hold := none, clause := none, registering := none, exitSent := false, stopping := none }

/-- The full/empty state of a register after that of one has been set. -/
theorem Slot.fe_setFe (t : Slot) (r q : RegRef) (x : RegFe) :
    (t.setFe r x).fe q = if q = r ∧ r ≠ .s 0 then x else t.fe q := by
  cases r with
  | s r =>
    by_cases hr : r = 0
    · subst hr
      rw [if_neg (by simp)]; rfl
    · have h0 : RegRef.s r ≠ .s 0 := fun e => hr (RegRef.s.inj e)
      have e : t.setFe (.s r) x = { t with sFe := Table.set .full t.sFe r.toNat x } := if_neg hr
      rw [e]
      cases q with
      | v q => rw [if_neg (fun h => by cases h.1)]; rfl
      | s q =>
        by_cases h : q = r
        · subst h
          rw [if_pos ⟨rfl, h0⟩]
          unfold Slot.fe
          dsimp only
          rw [if_neg hr, Table.get_set_same]
        · rw [if_neg (fun e => h (RegRef.s.inj e.1))]
          unfold Slot.fe
          dsimp only
          rw [Table.get_set_ne _ _ _ (toNat_ne h)]
  | v r =>
    have e : t.setFe (.v r) x = { t with vFe := Table.set .full t.vFe r.toNat x } := rfl
    rw [e]
    cases q with
    | s q => rw [if_neg (fun h => by cases h.1)]; rfl
    | v q =>
      by_cases h : q = r
      · subst h
        rw [if_pos ⟨rfl, fun e => by cases e⟩]
        unfold Slot.fe
        dsimp only
        rw [Table.get_set_same]
      · rw [if_neg (fun e => h (RegRef.v.inj e.1))]
        unfold Slot.fe
        dsimp only
        rw [Table.get_set_ne _ _ _ (toNat_ne h)]

/-- What setting a full/empty state keeps. -/
theorem Slot.setFe_keeps {α : Sort _} (P : Slot → α) (h : ∀ (t : Slot) a b, P { t with sFe := a, vFe := b } = P t) (t : Slot)
    (r : RegRef) (x : RegFe) : P (t.setFe r x) = P t := by
  unfold Slot.setFe
  cases r with
  | s r => dsimp only; split_ifs; exacts [rfl, h t _ t.vFe]
  | v r => exact h t t.sFe _

/-- Putting back what an instruction took. -/
def putBack (t : Slot) (rs : List RegRef) : Slot := rs.foldl (fun t r => if t.fe r = .taken then t.setFe r .full else t) t

theorem Slot.untake_eq (t : Slot) : t.untake = { putBack t t.took with took := [] } := rfl

theorem putBack_keeps {α : Sort _} (P : Slot → α) (h : ∀ (t : Slot) a b, P { t with sFe := a, vFe := b } = P t) (t : Slot)
    (rs : List RegRef) : P (putBack t rs) = P t := by
  induction rs generalizing t with
  | nil => rfl
  | cons r rs ih =>
    refine (ih _).trans ?_
    dsimp only
    split_ifs
    · exact Slot.setFe_keeps P h _ _ _
    · rfl

theorem putBack_cons (t : Slot) (r : RegRef) (rs : List RegRef) :
    putBack t (r :: rs) = putBack (if t.fe r = .taken then t.setFe r .full else t) rs := rfl

theorem fe_putBack (t : Slot) (rs : List RegRef) (q : RegRef) :
    (putBack t rs).fe q = if q ∈ rs ∧ t.fe q = .taken then .full else t.fe q := by
  induction rs generalizing t with
  | nil => simp [putBack]
  | cons r rs ih =>
    by_cases hr : t.fe r = .taken
    · have h0 : r ≠ .s 0 := by rintro rfl; simp [Slot.fe] at hr
      rw [putBack_cons, if_pos hr, ih]
      simp only [Slot.fe_setFe, List.mem_cons]
      by_cases hq : q = r
      · subst hq; simp [hr]; exact fun _ => h0
      · simp [hq]
    · rw [putBack_cons, if_neg hr, ih]
      by_cases hq : q = r
      · subst hq; simp [hr]
      · simp [hq]

theorem putBack_quiet (t : Slot) (rs : List RegRef) : (putBack t rs).quiet = putBack t.quiet rs := by
  induction rs generalizing t with
  | nil => rfl
  | cons r rs ih =>
    refine (ih _).trans ?_
    unfold putBack
    simp only [List.foldl_cons]
    congr 1
    have e : t.quiet.fe r = t.fe r := by cases r <;> rfl
    rw [e]
    split_ifs
    · unfold Slot.setFe Slot.quiet; cases r <;> dsimp only; split_ifs <;> rfl
    · rfl

theorem Slot.stopped_quiet (t : Slot) (k : Kind) (x : Word × Nat × LoopStack) : t.stopped k x = t.quiet.stopped k x := by
  unfold Slot.stopped
  rw [Slot.untake_eq, Slot.untake_eq, show t.quiet.took = t.took from rfl, ← putBack_quiet]
  unfold Slot.goTo Slot.quiet
  dsimp only
  split_ifs <;> rfl

/-- What stays of a slot that a fault stops. -/
theorem Slot.stopped_spec (t : Slot) (k : Kind) (x : Word × Nat × LoopStack) :
    (t.stopped k x).place = x ∧ (t.stopped k x).unstopped = t.unstopped ∧
    ∀ q, (t.stopped k x).fe q = if q ∈ t.took ∧ t.fe q = .taken then .full else t.fe q := by
  refine ⟨?_, ?_, fun q => ?_⟩
  · have h : (t.stopped k x).place = (t.untake.goTo x).place := rfl
    rw [h, Slot.place_goTo]
  · have h : (t.stopped k x).unstopped = (putBack t t.took).unstopped := by
      unfold Slot.stopped Slot.goTo Slot.untake Slot.unstopped Slot.bare putBack; dsimp only; split_ifs <;> rfl
    rw [h]
    exact putBack_keeps Slot.unstopped (fun _ _ _ => rfl) _ _
  · have h : ∀ q, (t.stopped k x).fe q = (putBack t t.took).fe q := by
      intro q; unfold Slot.stopped Slot.goTo Slot.untake putBack Slot.fe; dsimp only; split_ifs <;> cases q <;> rfl
    rw [h, fe_putBack]

/-- Stopping a channel changes what subscribers are sent, the channel table and the publisher's own mark. -/
theorem stopChannel_spec (s : State) (g : GRef) (k : Byte) (hp : s.hasPkg g.pkg = true) :
    (∀ p, (stopChannel s g k).hasPkg p = s.hasPkg p) ∧
    (∀ p, ((stopChannel s g k).pkgAt p).chanless = (s.pkgAt p).chanless) ∧
    (∀ p, p ≠ g.pkg → ((stopChannel s g k).pkgAt p).chans = (s.pkgAt p).chans) ∧
    (∀ c : BitVec 12, Table.get ({} : Chan) ((stopChannel s g k).pkgAt g.pkg).chans c.toNat =
      if (s.slotAt g).publishing = some c then { Table.get ({} : Chan) (s.pkgAt g.pkg).chans c.toNat with publisher := none }
      else Table.get {} (s.pkgAt g.pkg).chans c.toNat) ∧
    (∀ p c, ((stopChannel s g k).cellAt p c).bare = (s.cellAt p c).bare) ∧
    (∀ h, h ≠ g → ((stopChannel s g k).slotAt h).quiet = (s.slotAt h).quiet) ∧
    ((stopChannel s g k).slotAt g).quiet = ({ s.slotAt g with publishing := none } : Slot).quiet ∧
    (stopChannel s g k).cur = s.cur ∧ (stopChannel s g k).agenda = s.agenda ∧ (stopChannel s g k).gone = s.gone ∧
    (stopChannel s g k).free = s.free := by
  unfold stopChannel
  dsimp only
  split
  · rename_i hn
    refine ⟨fun _ => rfl, fun _ => rfl, fun _ _ => rfl, fun c => by simp [hn], fun _ _ => rfl, fun _ _ => rfl, ?_, rfl, rfl,
      rfl, rfl⟩
    have : s.slotAt g = { s.slotAt g with publishing := none } := by rw [← hn]
    rw [← this]
  · rename_i c hc
    generalize hu : sendItem s g c none (.stop k (gslotWord (s.pkgAt g.pkg).domain g) (s.slotAt g).head (s.slotAt g).pos) = u
    have hst : Still s u := hu ▸ Still.sendItem _ _ _ _ _
    obtain ⟨h1, h2, h3, h4, h5, h6, h7⟩ := hst
    have hpu : u.hasPkg g.pkg = true := by rw [(h1 _).1]; exact hp
    have hch : ∀ p, (u.pkgAt p).chans = (s.pkgAt p).chans := fun p => (congrArg Pkg.chans (h1 p).2 : (u.pkgAt p).bare.chans = (s.pkgAt p).bare.chans)
    refine ⟨fun p => by simp [(h1 p).1], fun p => ?_, fun p hne => ?_, fun d => ?_, fun p d => ?_, fun q hq => ?_, ?_,
      by simp [h4], by simp [h5], by simp [h6], by simp [h7]⟩
    · refine (State.pkgAt_mapSlot_keeps Pkg.chanless (fun _ _ => rfl) _ _ _ _).trans ?_
      refine Eq.trans (State.pkgAt_mapPkg_keeps Pkg.chanless ?_ _ _ _) ?_
      · exact fun _ => rfl
      · have e : (u.pkgAt p).bare.chanless = (s.pkgAt p).bare.chanless := congrArg _ (h1 p).2
        exact e
    · refine (State.pkgAt_mapSlot_keeps (·.chans) (fun _ _ => rfl) _ _ _ _).trans ?_
      rw [State.pkgAt_mapPkg_ne _ hne, hch]
    · refine (congrArg (fun t : Table Chan => Table.get ({} : Chan) t d.toNat)
        (State.pkgAt_mapSlot_keeps (·.chans) (fun _ _ => rfl) _ _ _ _)).trans ?_
      rw [State.pkgAt_mapPkg_same hpu]
      dsimp only
      rw [Table.get_put, hch]
      by_cases hd : d = c
      · subst hd; simp [hc]
      · rw [if_neg (toNat_ne hd), if_neg (by rw [hc]; exact fun e => hd (Option.some.inj e).symm)]
    · refine (State.cellAt_mapSlot_keeps Cell.bare (fun _ _ => rfl) _ _ _ _ _).trans ?_
      refine Eq.trans (congrArg Cell.bare (State.cellAt_mapPkg_keeps ?_ _ _ _ _)) (h2 p d)
      exact fun _ => rfl
    · refine (congrArg Slot.quiet (State.slotAt_mapSlot_ne _ hq _)).trans ?_
      refine Eq.trans (congrArg Slot.quiet (State.slotAt_mapPkg_keeps ?_ _ _ _)) (h3 q)
      exact fun _ => rfl
    · refine (congrArg Slot.quiet (State.slotAt_mapSlot_same (by simpa using hpu) _)).trans ?_
      rw [State.slotAt_mapPkg_keeps (by exact fun _ => rfl)]
      exact congrArg (fun t : Slot => ({ t with publishing := none } : Slot)) (h3 g)

/-- EVERYTHING THAT TAKING A FAULT DOES (R365). -/
theorem takeFault_spec (s : State) (g : GRef) (f : FaultInfo) (head : Word) (pos : Nat) (resume : Word × Nat × LoopStack)
    (late : Bool) (mask : Option (BitVec 32)) (cycle : Option Nat) (hp : s.hasPkg g.pkg = true) :
    let t := takeFault s g f head pos resume late mask cycle
    (∀ p, t.hasPkg p = s.hasPkg p) ∧ (∀ p, (t.pkgAt p).unfiled = (s.pkgAt p).unfiled) ∧
    (∀ p, p ≠ g.pkg → (t.pkgAt p).chans = (s.pkgAt p).chans ∧ (t.pkgAt p).waiting = (s.pkgAt p).waiting) ∧
    (∀ c : BitVec 12, Table.get ({} : Chan) (t.pkgAt g.pkg).chans c.toNat =
      if (s.slotAt g).publishing = some c then { Table.get ({} : Chan) (s.pkgAt g.pkg).chans c.toNat with publisher := none }
      else Table.get {} (s.pkgAt g.pkg).chans c.toNat) ∧
    (t.pkgAt g.pkg).waiting = (s.pkgAt g.pkg).waiting ++
      [{ ring := s.ringOf g, cell := g.cell, slot := some g.slot, ctx := none
         record := { makeRecord s g f.kind.code f head pos late (mask.getD (s.slotAt g).active) with
           cycle := BitVec.ofNat 32 (cycle.getD ((s.slotAt g).issuedAt (s.cycleAt g.pkg))) } }] ∧
    (∀ p c, (t.cellAt p c).bare = (s.cellAt p c).bare) ∧
    (∀ h, h ≠ g → (t.slotAt h).quiet = (s.slotAt h).quiet) ∧
    t.slotAt g = ({ s.slotAt g with publishing := none } : Slot).stopped f.kind resume ∧
    t.cur = s.cur ∧ t.agenda = s.agenda ∧ t.gone = s.gone ∧ t.free = s.free := by
  intro t
  have ht : t = takeFault s g f head pos resume late mask cycle := rfl
  unfold takeFault at ht
  dsimp only at ht
  generalize hr : ({ makeRecord s g f.kind.code f head pos late (mask.getD (s.slotAt g).active) with
      cycle := BitVec.ofNat 32 (cycle.getD ((s.slotAt g).issuedAt (s.cycleAt g.pkg))) } : Record) = r at ht ⊢
  generalize hq : queueRecord s g none (s.ringOf g) r = u at ht
  have qp : ∀ p, u.hasPkg p = s.hasPkg p := by intro p; rw [← hq]; simp [queueRecord]
  have qc : ∀ p c, u.cellAt p c = s.cellAt p c := by
    intro p c; rw [← hq]; refine State.cellAt_mapPkg_keeps ?_ _ _ _ _
    exact fun _ => rfl
  have qs : ∀ h, u.slotAt h = s.slotAt h := by
    intro h; rw [← hq]; refine State.slotAt_mapPkg_keeps ?_ _ _ _
    exact fun _ => rfl
  have qw : ∀ p, (u.pkgAt p).unfiled = (s.pkgAt p).unfiled := by
    intro p; rw [← hq]
    refine State.pkgAt_mapPkg_keeps Pkg.unfiled ?_ _ _ _
    exact fun _ => rfl
  have qk : ∀ p, (u.pkgAt p).chans = (s.pkgAt p).chans := by
    intro p; rw [← hq]
    refine State.pkgAt_mapPkg_keeps (·.chans) ?_ _ _ _
    exact fun _ => rfl
  have qm : (u.pkgAt g.pkg).waiting = (s.pkgAt g.pkg).waiting ++
      [{ ring := s.ringOf g, cell := g.cell, slot := some g.slot, ctx := none, record := r }] := by
    rw [← hq]; unfold queueRecord; rw [State.pkgAt_mapPkg_same hp]
  have qn : ∀ p, p ≠ g.pkg → (u.pkgAt p).waiting = (s.pkgAt p).waiting := by
    intro p h; rw [← hq]; unfold queueRecord; rw [State.pkgAt_mapPkg_ne _ h]
  have qx : u.cur = s.cur ∧ u.agenda = s.agenda ∧ u.gone = s.gone ∧ u.free = s.free := by
    rw [← hq]; simp [queueRecord]
  obtain ⟨k1, k2, kn, kc, k3, k4, k5, k6, k7, k8, k9⟩ := stopChannel_spec u g f.kind.code (by rw [qp]; exact hp)
  generalize stopChannel u g f.kind.code = v at ht k1 k2 kn kc k3 k4 k5 k6 k7 k8 k9
  have hv : v.hasPkg g.pkg = true := by rw [k1, qp]; exact hp
  have tk : ∀ {α : Type} (P : Pkg → α), (∀ (k : Pkg) x, P { k with cells := x } = P k) → ∀ p, P (t.pkgAt p) = P (v.pkgAt p) := by
    intro α P h p; rw [ht]; exact State.pkgAt_mapSlot_keeps P h _ _ _ _
  refine ⟨fun p => by rw [ht]; simp [k1, qp], fun p => ?_, fun p h => ⟨?_, ?_⟩, fun c => ?_, ?_, fun p c => ?_, fun h hh => ?_,
    ?_, by rw [ht]; simp [k6, qx], by rw [ht]; simp [k7, qx], by rw [ht]; simp [k8, qx], by rw [ht]; simp [k9, qx]⟩
  · refine (tk Pkg.unfiled (fun _ _ => rfl) p).trans ?_
    have e : (v.pkgAt p).chanless.unfiled = (u.pkgAt p).chanless.unfiled := congrArg _ (k2 p)
    exact Eq.trans e (qw p)
  · exact (tk (·.chans) (fun _ _ => rfl) p).trans ((kn p h).trans (qk p))
  · exact (tk (·.waiting) (fun _ _ => rfl) p).trans ((congrArg Pkg.waiting (k2 p)).trans (qn p h))
  · refine (congrArg (fun x : Table Chan => Table.get ({} : Chan) x c.toNat) (tk (·.chans) (fun _ _ => rfl) g.pkg)).trans ?_
    rw [kc, qs, qk]
  · exact (tk (·.waiting) (fun _ _ => rfl) g.pkg).trans ((congrArg Pkg.waiting (k2 g.pkg)).trans qm)
  · rw [ht]
    refine (State.cellAt_mapSlot_keeps Cell.bare (fun _ _ => rfl) _ _ _ _ _).trans ?_
    rw [k3, qc]
  · rw [ht, State.slotAt_mapSlot_ne _ hh, k4 h hh, qs]
  · rw [ht, State.slotAt_mapSlot_same hv]
    have e : (v.slotAt g).quiet = ({ s.slotAt g with publishing := none } : Slot).quiet := by rw [k5, qs]
    exact ((v.slotAt g).stopped_quiet f.kind resume).trans (by rw [e, ← Slot.stopped_quiet])

/-- A FAULT OF THE INSTRUCTION AT HAND. -/
theorem faultHere_spec (s : State) (g : GRef) (f : FaultInfo) (hp : s.hasPkg g.pkg = true) :
    Faulted g f s (faultHere s g f) := by
  obtain ⟨h1, h2, h3, hc, hw, h5, h6, hs, h8, h9, h10, h11⟩ := takeFault_spec s g f (s.slotAt g).head (s.slotAt g).pos
    ((s.slotAt g).head, (s.slotAt g).pos, (s.slotAt g).loops) false none none hp
  obtain ⟨e1, e2, e3⟩ := Slot.stopped_spec ({ s.slotAt g with publishing := none } : Slot) f.kind
    ((s.slotAt g).head, (s.slotAt g).pos, (s.slotAt g).loops)
  unfold faultHere
  dsimp only
  refine ⟨by rw [hs]; rfl, by rw [hs]; rfl, ?_, by rw [hs]; exact e1, by rw [hs]; exact e2, fun q => ?_, h6, h5,
    fun p => ⟨h1 p, h2 p⟩, h3, hc, h8, h9, h10, h11, _, hw, rfl, rfl, rfl, rfl⟩
  · rw [hs]
    have e := putBack_keeps (·.publishing) (fun _ _ _ => rfl) ({ s.slotAt g with publishing := none } : Slot) (s.slotAt g).took
    unfold Slot.stopped Slot.untake Slot.goTo
    dsimp only
    split_ifs <;> exact e
  · rw [hs, e3]; cases q <;> rfl

/-- A TRAP OF THE INSTRUCTION AT HAND. -/
theorem traps_of {i : Instr} {s : State} {f : FaultInfo} (hp : s.hasPkg s.cur.pkg = true)
    (h : exec i s = .next (faultHere s s.cur f)) : Traps i s f := ⟨_, h, faultHere_spec s s.cur f hp⟩

/-- An instruction whose operands are ready and whose body traps. -/
theorem conclude_trap (s : State) (g : GRef) (o : Opnds) (f : FaultInfo) : conclude s g o (.trap f) = faultHere s g f := rfl

end Sys2Proof.Machine
end

