-- ==== Sys2Proof/Laws/Effects.lean ====
section
/-! SUPPORT. The effects of instructions, seen through `Agree`: what a body reads in the state in which it starts, and that
its effect there is its effect in the state before it. -/

namespace Sys2Proof.Machine

/-! ## Effects on states that agree -/

/-- A change of the slot that its course does not show in. -/
theorem Agree.mapSlot {g : GRef} {a b : State} (h : Agree g a b) (hp : a.hasPkg g.pkg = true) {f f' : Slot → Slot}
    (hf : ∀ x y : Slot, x.bare = y.bare → (f x).bare = (f' y).bare) : Agree g (a.mapSlot g f) (b.mapSlot g f') := by
  obtain ⟨h1, h2, h3, h4, h5, h6, h7, h8⟩ := h
  have hb : b.hasPkg g.pkg = true := by rw [(h1 _).1]; exact hp
  refine ⟨fun p => ⟨by simp [(h1 p).1], ?_⟩, fun p c => ?_, fun q hq => ?_, ?_, by simp [h5], by simp [h6], by simp [h7],
    by simp [h8]⟩
  · refine (State.pkgAt_mapSlot_keeps Pkg.bare (fun _ _ => rfl) _ _ _ _).trans ?_
    exact (h1 p).2.trans (State.pkgAt_mapSlot_keeps Pkg.bare (fun _ _ => rfl) _ _ _ _).symm
  · refine (State.cellAt_mapSlot_keeps Cell.bare (fun _ _ => rfl) _ _ _ _ _).trans ?_
    exact (h2 p c).trans (State.cellAt_mapSlot_keeps Cell.bare (fun _ _ => rfl) _ _ _ _ _).symm
  · rw [State.slotAt_mapSlot_ne _ hq, State.slotAt_mapSlot_ne _ hq]; exact h3 q hq
  · rw [State.slotAt_mapSlot_same hp, State.slotAt_mapSlot_same hb]; exact (hf _ _ h4.symm).symm

/-- A change of the slot on one side that its course does not show in. -/
theorem Agree.course_right {g : GRef} {a b : State} (h : Agree g a b) (hp : a.hasPkg g.pkg = true) {f : Slot → Slot}
    (hf : ∀ t, (f t).bare = t.bare) : Agree g a (b.mapSlot g f) :=
  h.trans (Agree.course (by rw [(h.1 _).1]; exact hp) hf)

/-- A change of a cell's own state. -/
theorem Agree.mapCell {g : GRef} {a b : State} (h : Agree g a b) (p : PkgId) (c : CellId) {f f' : Cell → Cell}
    (hf : ∀ x y : Cell, x.bare = y.bare → (f x).bare = (f' y).bare) (hs : ∀ x, (f x).slots = x.slots)
    (hs' : ∀ x, (f' x).slots = x.slots) : Agree g (a.mapCell p c f) (b.mapCell p c f') := by
  obtain ⟨h1, h2, h3, h4, h5, h6, h7, h8⟩ := h
  refine ⟨fun q => ⟨by simp [(h1 q).1], ?_⟩, fun q d => ?_, fun q hq => ?_, ?_, by simp [h5], by simp [h6], by simp [h7],
    by simp [h8]⟩
  · refine (State.pkgAt_mapCell_keeps Pkg.bare (fun _ _ => rfl) _ _ _ _ _).trans ?_
    exact (h1 q).2.trans (State.pkgAt_mapCell_keeps Pkg.bare (fun _ _ => rfl) _ _ _ _ _).symm
  · rw [State.cellAt_mapCell, State.cellAt_mapCell, (h1 p).1]
    split_ifs
    · exact (hf _ _ (h2 p c).symm).symm
    · exact h2 q d
  · rw [State.slotAt_mapCell_keeps hs', State.slotAt_mapCell_keeps hs]; exact h3 q hq
  · rw [State.slotAt_mapCell_keeps hs', State.slotAt_mapCell_keeps hs]; exact h4

/-! ## Projections that agree -/

theorem Agree.cell {g : GRef} {a b : State} (h : Agree g a b) (p : PkgId) (c : CellId) :
    (b.cellAt p c).bare = (a.cellAt p c).bare := h.2.1 p c
theorem Agree.slot {g : GRef} {a b : State} (h : Agree g a b) : (b.slotAt g).bare = (a.slotAt g).bare := h.2.2.2.1
theorem Agree.has {g : GRef} {a b : State} (h : Agree g a b) (p : PkgId) : b.hasPkg p = a.hasPkg p := (h.1 p).1

/-! ## The state in which a body starts -/

/-- The slot forgets its latest producer. -/
def Slot.unlast (t : Slot) : Slot := { t with lastOp := none }

theorem started_eq (s : State) : started s = s.mapSlot s.cur Slot.unlast := rfl

@[simp] theorem started_cur (s : State) : (started s).cur = s.cur := by simp [started]
@[simp] theorem started_hasPkg (s : State) (p : PkgId) : (started s).hasPkg p = s.hasPkg p := by simp [started]
theorem started_slot {s : State} (hp : s.hasPkg s.cur.pkg = true) :
    (started s).slotAt s.cur = (s.slotAt s.cur).unlast := State.slotAt_mapSlot_same hp _
theorem started_slot_ne {s : State} {g : GRef} (h : g ≠ s.cur) : (started s).slotAt g = s.slotAt g :=
  State.slotAt_mapSlot_ne _ h _
theorem started_cell {α : Sort _} (P : Cell → α) (h : ∀ (t : Cell) x, P { t with slots := x } = P t) (s : State) (p : PkgId)
    (c : CellId) : P ((started s).cellAt p c) = P (s.cellAt p c) := State.cellAt_mapSlot_keeps P h _ _ _ _ _
theorem started_pkg {α : Sort _} (P : Pkg → α) (h : ∀ (k : Pkg) x, P { k with cells := x } = P k) (s : State) (p : PkgId) :
    P ((started s).pkgAt p) = P (s.pkgAt p) := State.pkgAt_mapSlot_keeps P h _ _ _ _

/-- What a slot holds besides its latest producer. -/
theorem started_slot_keeps {α : Sort _} (P : Slot → α) (h : ∀ t, P (Slot.unlast t) = P t) (s : State) (g : GRef) :
    P ((started s).slotAt g) = P (s.slotAt g) := State.slotAt_mapSlot_keeps P h _ _ _

theorem started_sreg (s : State) (g : GRef) (r : SReg) : ((started s).slotAt g).sreg r = (s.slotAt g).sreg r :=
  started_slot_keeps (·.sreg r) (fun _ => rfl) s g
theorem started_vreg (s : State) (g : GRef) (r : VRegNo) : (started s).vregAt g r = s.vregAt g r := by
  unfold State.vregAt
  rw [started_slot_keeps (·.phys r) (fun _ => rfl), started_cell (fun t => t.vregs) (fun _ _ => rfl)]

/-- A change of the slot that goes together with forgetting its latest producer. -/
theorem mapSlot_unlast (s : State) (g : GRef) {f : Slot → Slot} (h : ∀ t, f t.unlast = (f t).unlast) :
    (s.mapSlot g Slot.unlast).mapSlot g f = (s.mapSlot g f).mapSlot g Slot.unlast := by
  rw [State.mapSlot_mapSlot, State.mapSlot_mapSlot]; congr 1; funext t; exact h t

/-- A change of the slot's cell that goes together with a change of the slot. -/
theorem mapCell_mapSlot (s : State) (g : GRef) {f : Cell → Cell} {l : Slot → Slot}
    (h : ∀ t, f (t.mapSlot g.slot l) = (f t).mapSlot g.slot l) :
    (s.mapSlot g l).mapCell g.pkg g.cell f = (s.mapCell g.pkg g.cell f).mapSlot g l := by
  unfold State.mapSlot
  rw [State.mapCell_mapCell, State.mapCell_mapCell]; congr 1; funext t; exact h t

theorem Slot.putS_unlast (t : Slot) (r : SReg) (v : Word) : t.unlast.putS r v = (t.putS r v).unlast := by
  unfold Slot.putS
  split_ifs
  · rfl
  · unfold Slot.fill Slot.setFe Slot.wakeReg Slot.unlast
    dsimp only
    split_ifs <;> split <;> (try split_ifs) <;> first | rfl | simp_all

theorem Slot.fill_unlast (t : Slot) (r : RegRef) : t.unlast.fill r = (t.fill r).unlast := by
  unfold Slot.fill Slot.setFe Slot.wakeReg Slot.unlast
  dsimp only
  split <;> (try split_ifs) <;> split <;> (try split_ifs) <;> first | rfl | simp_all

/-- Writing a scalar register in the state in which the body starts. -/
theorem started_setS (s : State) (r : SReg) (v : Word) :
    (started s).setS s.cur r v = (s.setS s.cur r v).mapSlot s.cur Slot.unlast :=
  mapSlot_unlast s s.cur fun t => t.putS_unlast r v

/-- Writing lanes in the state in which the body starts. -/
theorem started_setLanes (s : State) (r : VRegNo) (m : BitVec 32) (f : Nat → Lane) :
    (started s).setLanes s.cur r m f = (s.setLanes s.cur r m f).mapSlot s.cur Slot.unlast := by
  unfold State.setLanes
  dsimp only
  rw [started_vreg, started_slot_keeps (·.phys r) (fun _ => rfl), started_eq, mapCell_mapSlot, mapSlot_unlast]
  · exact fun t => t.fill_unlast _
  · intro t; rfl

/-- Writing lanes of a register of the slot after a change of the slot that leaves its window and registers alone. -/
theorem setLanes_mapSlot (s : State) (g : GRef) (l : Slot → Slot) (r : VRegNo) (m : BitVec 32) (f : Nat → Lane)
    (hb : ∀ t, (l t).regBase = t.regBase) (hl : ∀ t, (l t).fill (.v r) = l (t.fill (.v r))) :
    (s.mapSlot g l).setLanes g r m f = (s.setLanes g r m f).mapSlot g l := by
  unfold State.setLanes State.vregAt
  dsimp only
  have h1 : ((s.mapSlot g l).slotAt g).phys r = (s.slotAt g).phys r :=
    State.slotAt_mapSlot_keeps (·.phys r) (fun t => by simp [Slot.phys, hb]) _ _ _
  rw [h1, State.cellAt_mapSlot_keeps (fun t => t.vregs) (fun _ _ => rfl), mapCell_mapSlot, State.mapSlot_mapSlot,
    State.mapSlot_mapSlot]
  · congr 1; funext t; exact hl t
  · intro t; rfl

/-! ## What a body reads -/

/-- The view of a body when nothing is taken and no stream is bound. -/
def start (s : State) : Ctx := { s := started s, g := s.cur, pops := [], took := [] }

@[simp] theorem start_g (s : State) : (start s).g = s.cur := rfl
@[simp] theorem start_s (s : State) : (start s).s = started s := rfl
@[simp] theorem start_took (s : State) : (start s).took = [] := rfl
@[simp] theorem start_sreg (s : State) (r : SReg) : (start s).sreg r = (s.slotAt s.cur).sreg r := started_sreg s _ r
@[simp] theorem start_vreg (s : State) (r : VRegNo) : (start s).vreg r = s.vregAt s.cur r := started_vreg s _ r
theorem start_slot_keeps {α : Sort _} (P : Slot → α) (h : ∀ t, P (Slot.unlast t) = P t) (s : State) :
    P (start s).slot = P (s.slotAt s.cur) := started_slot_keeps P h s _
@[simp] theorem start_isActive (s : State) (l : Nat) : (start s).slot.isActive l = (s.slotAt s.cur).isActive l :=
  start_slot_keeps (·.isActive l) (fun _ => rfl) s
@[simp] theorem start_count (s : State) (l : Nat) : (start s).slot.count l = (s.slotAt s.cur).count l :=
  start_slot_keeps (·.count l) (fun _ => rfl) s
@[simp] theorem start_active (s : State) : (start s).slot.active = (s.slotAt s.cur).active :=
  start_slot_keeps Slot.active (fun _ => rfl) s
@[simp] theorem start_rm (s : State) : (start s).rm = Rm.ofMode (s.slotAt s.cur).rm :=
  start_slot_keeps (fun t => Rm.ofMode t.rm) (fun _ => rfl) s
@[simp] theorem start_cycle (s : State) : (start s).cycle = s.cycleAt s.cur.pkg := by
  simp [Ctx.cycle, started]
@[simp] theorem start_sub (s : State) : (start s).sub = (s.slotAt s.cur).following :=
  start_slot_keeps Slot.following (fun _ => rfl) s
theorem start_cell {α : Sort _} (P : Cell → α) (h : ∀ (t : Cell) x, P { t with slots := x } = P t) (s : State) :
    P (start s).cell = P (s.cellAt s.cur.pkg s.cur.cell) := started_cell P h s _ _
theorem start_pkg {α : Sort _} (P : Pkg → α) (h : ∀ (k : Pkg) x, P { k with cells := x } = P k) (s : State) :
    P (start s).pkg = P (s.pkgAt s.cur.pkg) := started_pkg P h s _

theorem ready_streamless {s : State} {o : Opnds} (h : ready s o = true) {r : RegRef} (hr : r ∈ o.srcs ∨ r ∈ o.dsts) :
    (s.slotAt s.cur).streamless r = true :=
  ((ready_iff s o).1 h).2.2.2.2.2.2.1 r (hr.elim .inl fun x => .inr (.inl x))

theorem ready_streamless_whole {s : State} {o : Opnds} (h : ready s o = true) {r : VRegNo} (hr : r ∈ o.whole) :
    (s.slotAt s.cur).streamless (.v r) = true :=
  ((ready_iff s o).1 h).2.2.2.2.2.2.1 _ (.inr (.inr ⟨r, hr, rfl⟩))

theorem start_boundTo {s : State} {q : VRegNo} (h : (s.slotAt s.cur).streamless (.v q) = true) :
    (start s).boundTo q = none := by
  refine boundTo_streamless ?_
  rw [start_slot_keeps (·.streamless (.v q)) (fun _ => rfl)]; exact h

/-- A vector destination that no stream is bound to takes the active lanes. -/
theorem start_setV {s : State} {o : Opnds} (h : ready s o = true) {d : VRegNo} (hd : RegRef.v d ∈ o.dsts) (f : Nat → Lane) :
    (start s).setV d f = (started s).setLanes s.cur d (s.slotAt s.cur).active f := by
  unfold Ctx.setV
  simp only [start_boundTo (ready_streamless h (.inr hd)), start_active, start_s, start_g]

/-! ## Completion -/

/-- An instruction whose operands are ready and whose body is done, with an effect that is the given one but for the
slot's latest producer. -/
theorem completes_of {i : Instr} {s u : State} {o : Opnds} {body : Ctx → Issue} (h : ready s o = true)
    (he : exec i s = run s o body)
    (hb : body (start s) = .done (u.mapSlot s.cur Slot.unlast))
    (hu : u.hasPkg s.cur.pkg = true) : Completes i s u o.words := by
  have hc := conclude_done (s := s) (g := s.cur) (o := o) (u := u.mapSlot s.cur Slot.unlast) (by simpa using hu)
  refine ⟨_, by rw [he, run_ready h]; exact congrArg (fun r => Host.Outcome.next (conclude s s.cur o r)) hb, ?_, hc.2⟩
  exact Agree.trans (Agree.course (f := Slot.unlast) hu fun _ => rfl) hc.1

theorem setS_hasPkg (s : State) (g : GRef) (r : SReg) (v : Word) (p : PkgId) : (s.setS g r v).hasPkg p = s.hasPkg p := by
  simp [State.setS]
theorem setLanes_hasPkg (s : State) (g : GRef) (r : VRegNo) (m : BitVec 32) (f : Nat → Lane) (p : PkgId) :
    (s.setLanes g r m f).hasPkg p = s.hasPkg p := by
  simp [State.setLanes]
theorem ready_hasPkg {s : State} {o : Opnds} (h : ready s o = true) : s.hasPkg s.cur.pkg = true := ((ready_iff s o).1 h).1

/-- A body that writes one scalar register. -/
theorem completes_setS {i : Instr} {s : State} {o : Opnds} {body : Ctx → Issue} {d : SReg} {v : Word} (h : ready s o = true)
    (he : exec i s = run s o body)
    (hb : body (start s) = .done ((started s).setS s.cur d v)) :
    Completes i s (s.setS s.cur d v) o.words :=
  completes_of h he (hb.trans (by rw [started_setS])) (by rw [setS_hasPkg]; exact ready_hasPkg h)

/-- A body that writes lanes of one vector register. -/
theorem completes_setLanes {i : Instr} {s : State} {o : Opnds} {body : Ctx → Issue} {d : VRegNo} {m : BitVec 32}
    {f : Nat → Lane} (h : ready s o = true) (he : exec i s = run s o body)
    (hb : body (start s) = .done ((started s).setLanes s.cur d m f)) :
    Completes i s (s.setLanes s.cur d m f) o.words :=
  completes_of h he (hb.trans (by rw [started_setLanes])) (by rw [setLanes_hasPkg]; exact ready_hasPkg h)

/-! ## Completion, shape by shape -/

/-- A body that writes the active lanes of its destination. -/
theorem completes_setV {i : Instr} {s : State} {o : Opnds} {body : Ctx → Issue} {d : VRegNo} {f : Nat → Lane}
    (h : ready s o = true) (he : exec i s = run s o body) (hd : RegRef.v d ∈ o.dsts)
    (hb : body (start s) = .done ((start s).setV d f)) :
    Completes i s (s.setLanes s.cur d (s.slotAt s.cur).active f) o.words :=
  completes_setLanes h he (hb.trans (by rw [start_setV h hd]))

theorem scalar3_completes {i : Instr} {s : State} {d a b : SReg} {f : Word → Word → Word}
    (h : ready s (Opnds.sss d a b) = true) (he : exec i s = scalar3 d a b f s) :
    Completes i s (s.setS s.cur d (f ((s.slotAt s.cur).sreg a) ((s.slotAt s.cur).sreg b))) 1 :=
  completes_setS h (body := fun c => .done (c.setS d (f (c.sreg a) (c.sreg b)))) he
    (by simp [Ctx.setS])

theorem scalar2_completes {i : Instr} {s : State} {d a : SReg} {f : Word → Word}
    (h : ready s (Opnds.ss d a) = true) (he : exec i s = scalar2 d a f s) :
    Completes i s (s.setS s.cur d (f ((s.slotAt s.cur).sreg a))) 1 :=
  completes_setS h (body := fun c => .done (c.setS d (f (c.sreg a)))) he
    (by simp [Ctx.setS])

theorem lanes3_completes {i : Instr} {s : State} {d a b : VRegNo} {f : Lane → Lane → Lane}
    (h : ready s (Opnds.vvv d a b) = true) (he : exec i s = lanes3 d a b f s) :
    Completes i s (s.setLanes s.cur d (s.slotAt s.cur).active
      fun l => f (lane (s.vregAt s.cur a) l) (lane (s.vregAt s.cur b) l)) 1 :=
  completes_setV h (body := fun c => .done (c.setV d fun l => f (lane (c.vreg a) l) (lane (c.vreg b) l))) he
    (by simp [Opnds.vvv]) (by simp)

theorem lanesS_completes {i : Instr} {s : State} {d a : VRegNo} {b : SReg} {f : Lane → Lane → Lane}
    (h : ready s (Opnds.vvs d a b) = true) (he : exec i s = lanesS d a b f s) :
    Completes i s (s.setLanes s.cur d (s.slotAt s.cur).active
      fun l => f (lane (s.vregAt s.cur a) l) (((s.slotAt s.cur).sreg b).setWidth 32)) 1 :=
  completes_setV h (body := fun c => .done (c.setV d fun l => f (lane (c.vreg a) l) ((c.sreg b).setWidth 32))) he
    (by simp [Opnds.vvs]) (by simp)

theorem lanes2_completes {i : Instr} {s : State} {d a : VRegNo} {f : Lane → Lane}
    (h : ready s (Opnds.vv d a) = true) (he : exec i s = lanes2 d a f s) :
    Completes i s (s.setLanes s.cur d (s.slotAt s.cur).active fun l => f (lane (s.vregAt s.cur a) l)) 1 :=
  completes_setV h (body := fun c => .done (c.setV d fun l => f (lane (c.vreg a) l))) he
    (by simp [Opnds.vv]) (by simp)

end Sys2Proof.Machine
end

