-- ==== Sys2Proof/Laws/Exec.lean ====
section
/-! SUPPORT. What the dispatcher calls for each constructor, one lemma each, so that no proof unfolds its match. -/

namespace Sys2Proof.Machine

@[simp] theorem exec_add (d a b : _) (s : State) : exec (.add d a b) s = execAdd d a b s := rfl
@[simp] theorem exec_sub (d a b : _) (s : State) : exec (.sub d a b) s = execSub d a b s := rfl
@[simp] theorem exec_and (d a b : _) (s : State) : exec (.and d a b) s = execAnd d a b s := rfl
@[simp] theorem exec_or (d a b : _) (s : State) : exec (.or d a b) s = execOr d a b s := rfl
@[simp] theorem exec_xor (d a b : _) (s : State) : exec (.xor d a b) s = execXor d a b s := rfl
@[simp] theorem exec_andn (d a b : _) (s : State) : exec (.andn d a b) s = execAndn d a b s := rfl
@[simp] theorem exec_shl (d a b : _) (s : State) : exec (.shl d a b) s = execShl d a b s := rfl
@[simp] theorem exec_shr (d a b : _) (s : State) : exec (.shr d a b) s = execShr d a b s := rfl
@[simp] theorem exec_sar (d a b : _) (s : State) : exec (.sar d a b) s = execSar d a b s := rfl
@[simp] theorem exec_ror (d a b : _) (s : State) : exec (.ror d a b) s = execRor d a b s := rfl
@[simp] theorem exec_mul (d a b : _) (s : State) : exec (.mul d a b) s = execMul d a b s := rfl
@[simp] theorem exec_mulh (d a b : _) (s : State) : exec (.mulh d a b) s = execMulh d a b s := rfl
@[simp] theorem exec_mulhu (d a b : _) (s : State) : exec (.mulhu d a b) s = execMulhu d a b s := rfl
@[simp] theorem exec_div (d a b : _) (s : State) : exec (.div d a b) s = execDiv d a b s := rfl
@[simp] theorem exec_divu (d a b : _) (s : State) : exec (.divu d a b) s = execDivu d a b s := rfl
@[simp] theorem exec_rem (d a b : _) (s : State) : exec (.rem d a b) s = execRem d a b s := rfl
@[simp] theorem exec_remu (d a b : _) (s : State) : exec (.remu d a b) s = execRemu d a b s := rfl
@[simp] theorem exec_min (d a b : _) (s : State) : exec (.min d a b) s = execMin d a b s := rfl
@[simp] theorem exec_max (d a b : _) (s : State) : exec (.max d a b) s = execMax d a b s := rfl
@[simp] theorem exec_minu (d a b : _) (s : State) : exec (.minu d a b) s = execMinu d a b s := rfl
@[simp] theorem exec_maxu (d a b : _) (s : State) : exec (.maxu d a b) s = execMaxu d a b s := rfl
@[simp] theorem exec_seq (d a b : _) (s : State) : exec (.seq d a b) s = execSeq d a b s := rfl
@[simp] theorem exec_sne (d a b : _) (s : State) : exec (.sne d a b) s = execSne d a b s := rfl
@[simp] theorem exec_slt (d a b : _) (s : State) : exec (.slt d a b) s = execSlt d a b s := rfl
@[simp] theorem exec_sltu (d a b : _) (s : State) : exec (.sltu d a b) s = execSltu d a b s := rfl
@[simp] theorem exec_sle (d a b : _) (s : State) : exec (.sle d a b) s = execSle d a b s := rfl
@[simp] theorem exec_sleu (d a b : _) (s : State) : exec (.sleu d a b) s = execSleu d a b s := rfl
@[simp] theorem exec_clz (d a : _) (s : State) : exec (.clz d a) s = execClz d a s := rfl
@[simp] theorem exec_popc (d a : _) (s : State) : exec (.popc d a) s = execPopc d a s := rfl
@[simp] theorem exec_brev (d a : _) (s : State) : exec (.brev d a) s = execBrev d a s := rfl
@[simp] theorem exec_addw (d a b : _) (s : State) : exec (.addw d a b) s = execAddw d a b s := rfl
@[simp] theorem exec_subw (d a b : _) (s : State) : exec (.subw d a b) s = execSubw d a b s := rfl
@[simp] theorem exec_addi (d a x1 : _) (s : State) : exec (.addi d a x1) s = execAddi d a x1 s := rfl
@[simp] theorem exec_andi (d a x1 : _) (s : State) : exec (.andi d a x1) s = execAndi d a x1 s := rfl
@[simp] theorem exec_ori (d a x1 : _) (s : State) : exec (.ori d a x1) s = execOri d a x1 s := rfl
@[simp] theorem exec_xori (d a x1 : _) (s : State) : exec (.xori d a x1) s = execXori d a x1 s := rfl
@[simp] theorem exec_slti (d a x1 : _) (s : State) : exec (.slti d a x1) s = execSlti d a x1 s := rfl
@[simp] theorem exec_sltiu (d a x1 : _) (s : State) : exec (.sltiu d a x1) s = execSltiu d a x1 s := rfl
@[simp] theorem exec_shli (d a n : _) (s : State) : exec (.shli d a n) s = execShli d a n s := rfl
@[simp] theorem exec_shri (d a n : _) (s : State) : exec (.shri d a n) s = execShri d a n s := rfl
@[simp] theorem exec_sari (d a n : _) (s : State) : exec (.sari d a n) s = execSari d a n s := rfl
@[simp] theorem exec_rori (d a n : _) (s : State) : exec (.rori d a n) s = execRori d a n s := rfl
@[simp] theorem exec_lui (d x1 : _) (s : State) : exec (.lui d x1) s = execLui d x1 s := rfl
@[simp] theorem exec_addpc (d x1 : _) (s : State) : exec (.addpc d x1) s = execAddpc d x1 s := rfl
@[simp] theorem exec_movl (d lit : _) (s : State) : exec (.movl d lit) s = execMovl d lit s := rfl
@[simp] theorem exec_movlz (d lit : _) (s : State) : exec (.movlz d lit) s = execMovlz d lit s := rfl
@[simp] theorem exec_movlh (d lit : _) (s : State) : exec (.movlh d lit) s = execMovlh d lit s := rfl
@[simp] theorem exec_take (ta tb : _) (s : State) : exec (.take ta tb) s = execTake ta tb s := rfl
@[simp] theorem exec_br (x1 : _) (s : State) : exec (.br x1) s = execBr x1 s := rfl
@[simp] theorem exec_bc (c a x1 : _) (s : State) : exec (.bc c a x1) s = execBc c a x1 s := rfl
@[simp] theorem exec_jr (a : _) (s : State) : exec (.jr a) s = execJr a s := rfl
@[simp] theorem exec_jalr (d a : _) (s : State) : exec (.jalr d a) s = execJalr d a s := rfl
@[simp] theorem exec_bal (d x1 : _) (s : State) : exec (.bal d x1) s = execBal d x1 s := rfl
@[simp] theorem exec_loop (a x1 : _) (s : State) : exec (.loop a x1) s = execLoop a x1 s := rfl
@[simp] theorem exec_vif (c : _) (s : State) : exec (.vif c) s = execVif c s := rfl
@[simp] theorem exec_vifz (c : _) (s : State) : exec (.vifz c) s = execVifz c s := rfl
@[simp] theorem exec_velse (s : State) : exec (.velse) s = execVelse s := rfl
@[simp] theorem exec_vendif (s : State) : exec (.vendif) s = execVendif s := rfl
@[simp] theorem exec_vendifLx (s : State) : exec (.vendifLx) s = execVendifLx s := rfl
@[simp] theorem exec_vloopb (s : State) : exec (.vloopb) s = execVloopb s := rfl
@[simp] theorem exec_vbrk (c n : _) (s : State) : exec (.vbrk c n) s = execVbrk c n s := rfl
@[simp] theorem exec_vcont (c n : _) (s : State) : exec (.vcont c n) s = execVcont c n s := rfl
@[simp] theorem exec_vloope (d c : _) (s : State) : exec (.vloope d c) s = execVloope d c s := rfl
@[simp] theorem exec_vgetnc (d : _) (s : State) : exec (.vgetnc d) s = execVgetnc d s := rfl
@[simp] theorem exec_vsetnc (x0 : _) (s : State) : exec (.vsetnc x0) s = execVsetnc x0 s := rfl
@[simp] theorem exec_vadd (d a b : _) (s : State) : exec (.vadd d a b) s = execVadd d a b s := rfl
@[simp] theorem exec_vsub (d a b : _) (s : State) : exec (.vsub d a b) s = execVsub d a b s := rfl
@[simp] theorem exec_vmul (d a b : _) (s : State) : exec (.vmul d a b) s = execVmul d a b s := rfl
@[simp] theorem exec_vmulh (d a b : _) (s : State) : exec (.vmulh d a b) s = execVmulh d a b s := rfl
@[simp] theorem exec_vmulhu (d a b : _) (s : State) : exec (.vmulhu d a b) s = execVmulhu d a b s := rfl
@[simp] theorem exec_vand (d a b : _) (s : State) : exec (.vand d a b) s = execVand d a b s := rfl
@[simp] theorem exec_vor (d a b : _) (s : State) : exec (.vor d a b) s = execVor d a b s := rfl
@[simp] theorem exec_vxor (d a b : _) (s : State) : exec (.vxor d a b) s = execVxor d a b s := rfl
@[simp] theorem exec_vandn (d a b : _) (s : State) : exec (.vandn d a b) s = execVandn d a b s := rfl
@[simp] theorem exec_vshl (d a b : _) (s : State) : exec (.vshl d a b) s = execVshl d a b s := rfl
@[simp] theorem exec_vshr (d a b : _) (s : State) : exec (.vshr d a b) s = execVshr d a b s := rfl
@[simp] theorem exec_vsar (d a b : _) (s : State) : exec (.vsar d a b) s = execVsar d a b s := rfl
@[simp] theorem exec_vmin (d a b : _) (s : State) : exec (.vmin d a b) s = execVmin d a b s := rfl
@[simp] theorem exec_vmax (d a b : _) (s : State) : exec (.vmax d a b) s = execVmax d a b s := rfl
@[simp] theorem exec_vminu (d a b : _) (s : State) : exec (.vminu d a b) s = execVminu d a b s := rfl
@[simp] theorem exec_vmaxu (d a b : _) (s : State) : exec (.vmaxu d a b) s = execVmaxu d a b s := rfl
@[simp] theorem exec_vabs (d a : _) (s : State) : exec (.vabs d a) s = execVabs d a s := rfl
@[simp] theorem exec_vneg (d a : _) (s : State) : exec (.vneg d a) s = execVneg d a s := rfl
@[simp] theorem exec_vseq (d a b : _) (s : State) : exec (.vseq d a b) s = execVseq d a b s := rfl
@[simp] theorem exec_vsne (d a b : _) (s : State) : exec (.vsne d a b) s = execVsne d a b s := rfl
@[simp] theorem exec_vslt (d a b : _) (s : State) : exec (.vslt d a b) s = execVslt d a b s := rfl
@[simp] theorem exec_vsltu (d a b : _) (s : State) : exec (.vsltu d a b) s = execVsltu d a b s := rfl
@[simp] theorem exec_vsle (d a b : _) (s : State) : exec (.vsle d a b) s = execVsle d a b s := rfl
@[simp] theorem exec_vsleu (d a b : _) (s : State) : exec (.vsleu d a b) s = execVsleu d a b s := rfl
@[simp] theorem exec_vclz (d a : _) (s : State) : exec (.vclz d a) s = execVclz d a s := rfl
@[simp] theorem exec_vpopc (d a : _) (s : State) : exec (.vpopc d a) s = execVpopc d a s := rfl
@[simp] theorem exec_vaddsat (d a b : _) (s : State) : exec (.vaddsat d a b) s = execVaddsat d a b s := rfl
@[simp] theorem exec_vsubsat (d a b : _) (s : State) : exec (.vsubsat d a b) s = execVsubsat d a b s := rfl
@[simp] theorem exec_vaddsatu (d a b : _) (s : State) : exec (.vaddsatu d a b) s = execVaddsatu d a b s := rfl
@[simp] theorem exec_vsubsatu (d a b : _) (s : State) : exec (.vsubsatu d a b) s = execVsubsatu d a b s := rfl
@[simp] theorem exec_vdot4 (d a b : _) (s : State) : exec (.vdot4 d a b) s = execVdot4 d a b s := rfl
@[simp] theorem exec_vdot4u (d a b : _) (s : State) : exec (.vdot4u d a b) s = execVdot4u d a b s := rfl
@[simp] theorem exec_vaddScalar (d a b : _) (s : State) : exec (.vaddScalar d a b) s = execVaddScalar d a b s := rfl
@[simp] theorem exec_vsubScalar (d a b : _) (s : State) : exec (.vsubScalar d a b) s = execVsubScalar d a b s := rfl
@[simp] theorem exec_vmulScalar (d a b : _) (s : State) : exec (.vmulScalar d a b) s = execVmulScalar d a b s := rfl
@[simp] theorem exec_vmulhScalar (d a b : _) (s : State) : exec (.vmulhScalar d a b) s = execVmulhScalar d a b s := rfl
@[simp] theorem exec_vmulhuScalar (d a b : _) (s : State) : exec (.vmulhuScalar d a b) s = execVmulhuScalar d a b s := rfl
@[simp] theorem exec_vandScalar (d a b : _) (s : State) : exec (.vandScalar d a b) s = execVandScalar d a b s := rfl
@[simp] theorem exec_vorScalar (d a b : _) (s : State) : exec (.vorScalar d a b) s = execVorScalar d a b s := rfl
@[simp] theorem exec_vxorScalar (d a b : _) (s : State) : exec (.vxorScalar d a b) s = execVxorScalar d a b s := rfl
@[simp] theorem exec_vandnScalar (d a b : _) (s : State) : exec (.vandnScalar d a b) s = execVandnScalar d a b s := rfl
@[simp] theorem exec_vshlScalar (d a b : _) (s : State) : exec (.vshlScalar d a b) s = execVshlScalar d a b s := rfl
@[simp] theorem exec_vshrScalar (d a b : _) (s : State) : exec (.vshrScalar d a b) s = execVshrScalar d a b s := rfl
@[simp] theorem exec_vsarScalar (d a b : _) (s : State) : exec (.vsarScalar d a b) s = execVsarScalar d a b s := rfl
@[simp] theorem exec_vminScalar (d a b : _) (s : State) : exec (.vminScalar d a b) s = execVminScalar d a b s := rfl
@[simp] theorem exec_vmaxScalar (d a b : _) (s : State) : exec (.vmaxScalar d a b) s = execVmaxScalar d a b s := rfl
@[simp] theorem exec_vminuScalar (d a b : _) (s : State) : exec (.vminuScalar d a b) s = execVminuScalar d a b s := rfl
@[simp] theorem exec_vmaxuScalar (d a b : _) (s : State) : exec (.vmaxuScalar d a b) s = execVmaxuScalar d a b s := rfl
@[simp] theorem exec_vseqScalar (d a b : _) (s : State) : exec (.vseqScalar d a b) s = execVseqScalar d a b s := rfl
@[simp] theorem exec_vsneScalar (d a b : _) (s : State) : exec (.vsneScalar d a b) s = execVsneScalar d a b s := rfl
@[simp] theorem exec_vsltScalar (d a b : _) (s : State) : exec (.vsltScalar d a b) s = execVsltScalar d a b s := rfl
@[simp] theorem exec_vsltuScalar (d a b : _) (s : State) : exec (.vsltuScalar d a b) s = execVsltuScalar d a b s := rfl
@[simp] theorem exec_vsleScalar (d a b : _) (s : State) : exec (.vsleScalar d a b) s = execVsleScalar d a b s := rfl
@[simp] theorem exec_vsleuScalar (d a b : _) (s : State) : exec (.vsleuScalar d a b) s = execVsleuScalar d a b s := rfl
@[simp] theorem exec_vaddsatScalar (d a b : _) (s : State) : exec (.vaddsatScalar d a b) s = execVaddsatScalar d a b s := rfl
@[simp] theorem exec_vsubsatScalar (d a b : _) (s : State) : exec (.vsubsatScalar d a b) s = execVsubsatScalar d a b s := rfl
@[simp] theorem exec_vaddsatuScalar (d a b : _) (s : State) : exec (.vaddsatuScalar d a b) s = execVaddsatuScalar d a b s := rfl
@[simp] theorem exec_vsubsatuScalar (d a b : _) (s : State) : exec (.vsubsatuScalar d a b) s = execVsubsatuScalar d a b s := rfl
@[simp] theorem exec_vdot4Scalar (d a b : _) (s : State) : exec (.vdot4Scalar d a b) s = execVdot4Scalar d a b s := rfl
@[simp] theorem exec_vdot4uScalar (d a b : _) (s : State) : exec (.vdot4uScalar d a b) s = execVdot4uScalar d a b s := rfl
@[simp] theorem exec_vaddH (d a b : _) (s : State) : exec (.vaddH d a b) s = execVaddH d a b s := rfl
@[simp] theorem exec_vsubH (d a b : _) (s : State) : exec (.vsubH d a b) s = execVsubH d a b s := rfl
@[simp] theorem exec_vmulH (d a b : _) (s : State) : exec (.vmulH d a b) s = execVmulH d a b s := rfl
@[simp] theorem exec_vmulhH (d a b : _) (s : State) : exec (.vmulhH d a b) s = execVmulhH d a b s := rfl
@[simp] theorem exec_vminH (d a b : _) (s : State) : exec (.vminH d a b) s = execVminH d a b s := rfl
@[simp] theorem exec_vmaxH (d a b : _) (s : State) : exec (.vmaxH d a b) s = execVmaxH d a b s := rfl
@[simp] theorem exec_vminuH (d a b : _) (s : State) : exec (.vminuH d a b) s = execVminuH d a b s := rfl
@[simp] theorem exec_vmaxuH (d a b : _) (s : State) : exec (.vmaxuH d a b) s = execVmaxuH d a b s := rfl
@[simp] theorem exec_vaddsatH (d a b : _) (s : State) : exec (.vaddsatH d a b) s = execVaddsatH d a b s := rfl
@[simp] theorem exec_vsubsatH (d a b : _) (s : State) : exec (.vsubsatH d a b) s = execVsubsatH d a b s := rfl
@[simp] theorem exec_vaddsatuH (d a b : _) (s : State) : exec (.vaddsatuH d a b) s = execVaddsatuH d a b s := rfl
@[simp] theorem exec_vsubsatuH (d a b : _) (s : State) : exec (.vsubsatuH d a b) s = execVsubsatuH d a b s := rfl
@[simp] theorem exec_vseqH (d a b : _) (s : State) : exec (.vseqH d a b) s = execVseqH d a b s := rfl
@[simp] theorem exec_vsltH (d a b : _) (s : State) : exec (.vsltH d a b) s = execVsltH d a b s := rfl
@[simp] theorem exec_vshlH (d a b : _) (s : State) : exec (.vshlH d a b) s = execVshlH d a b s := rfl
@[simp] theorem exec_vshrH (d a b : _) (s : State) : exec (.vshrH d a b) s = execVshrH d a b s := rfl
@[simp] theorem exec_vsarH (d a b : _) (s : State) : exec (.vsarH d a b) s = execVsarH d a b s := rfl
@[simp] theorem exec_vabsH (d a : _) (s : State) : exec (.vabsH d a) s = execVabsH d a s := rfl
@[simp] theorem exec_vfadd (d a b : _) (s : State) : exec (.vfadd d a b) s = execVfadd d a b s := rfl
@[simp] theorem exec_vfsub (d a b : _) (s : State) : exec (.vfsub d a b) s = execVfsub d a b s := rfl
@[simp] theorem exec_vfmul (d a b : _) (s : State) : exec (.vfmul d a b) s = execVfmul d a b s := rfl
@[simp] theorem exec_vfma (d a b : _) (s : State) : exec (.vfma d a b) s = execVfma d a b s := rfl
@[simp] theorem exec_vfms (d a b : _) (s : State) : exec (.vfms d a b) s = execVfms d a b s := rfl
@[simp] theorem exec_vfnma (d a b : _) (s : State) : exec (.vfnma d a b) s = execVfnma d a b s := rfl
@[simp] theorem exec_vfmin (d a b : _) (s : State) : exec (.vfmin d a b) s = execVfmin d a b s := rfl
@[simp] theorem exec_vfmax (d a b : _) (s : State) : exec (.vfmax d a b) s = execVfmax d a b s := rfl
@[simp] theorem exec_vfminnum (d a b : _) (s : State) : exec (.vfminnum d a b) s = execVfminnum d a b s := rfl
@[simp] theorem exec_vfmaxnum (d a b : _) (s : State) : exec (.vfmaxnum d a b) s = execVfmaxnum d a b s := rfl
@[simp] theorem exec_vfabs (d a : _) (s : State) : exec (.vfabs d a) s = execVfabs d a s := rfl
@[simp] theorem exec_vfneg (d a : _) (s : State) : exec (.vfneg d a) s = execVfneg d a s := rfl
@[simp] theorem exec_vfceq (d a b : _) (s : State) : exec (.vfceq d a b) s = execVfceq d a b s := rfl
@[simp] theorem exec_vfclt (d a b : _) (s : State) : exec (.vfclt d a b) s = execVfclt d a b s := rfl
@[simp] theorem exec_vfcle (d a b : _) (s : State) : exec (.vfcle d a b) s = execVfcle d a b s := rfl
@[simp] theorem exec_vfcun (d a b : _) (s : State) : exec (.vfcun d a b) s = execVfcun d a b s := rfl
@[simp] theorem exec_vfdiv (d a b : _) (s : State) : exec (.vfdiv d a b) s = execVfdiv d a b s := rfl
@[simp] theorem exec_vfsqrt (d a : _) (s : State) : exec (.vfsqrt d a) s = execVfsqrt d a s := rfl
@[simp] theorem exec_vfrcp (d a : _) (s : State) : exec (.vfrcp d a) s = execVfrcp d a s := rfl
@[simp] theorem exec_vfrsq (d a : _) (s : State) : exec (.vfrsq d a) s = execVfrsq d a s := rfl
@[simp] theorem exec_vfexp2 (d a : _) (s : State) : exec (.vfexp2 d a) s = execVfexp2 d a s := rfl
@[simp] theorem exec_vflog2 (d a : _) (s : State) : exec (.vflog2 d a) s = execVflog2 d a s := rfl
@[simp] theorem exec_vfrint (d a : _) (s : State) : exec (.vfrint d a) s = execVfrint d a s := rfl
@[simp] theorem exec_vfclass (d a : _) (s : State) : exec (.vfclass d a) s = execVfclass d a s := rfl
@[simp] theorem exec_vfcopysign (d a b : _) (s : State) : exec (.vfcopysign d a b) s = execVfcopysign d a b s := rfl
@[simp] theorem exec_vfaddScalar (d a b : _) (s : State) : exec (.vfaddScalar d a b) s = execVfaddScalar d a b s := rfl
@[simp] theorem exec_vfsubScalar (d a b : _) (s : State) : exec (.vfsubScalar d a b) s = execVfsubScalar d a b s := rfl
@[simp] theorem exec_vfmulScalar (d a b : _) (s : State) : exec (.vfmulScalar d a b) s = execVfmulScalar d a b s := rfl
@[simp] theorem exec_vfmaScalar (d a b : _) (s : State) : exec (.vfmaScalar d a b) s = execVfmaScalar d a b s := rfl
@[simp] theorem exec_vfmsScalar (d a b : _) (s : State) : exec (.vfmsScalar d a b) s = execVfmsScalar d a b s := rfl
@[simp] theorem exec_vfnmaScalar (d a b : _) (s : State) : exec (.vfnmaScalar d a b) s = execVfnmaScalar d a b s := rfl
@[simp] theorem exec_vfminScalar (d a b : _) (s : State) : exec (.vfminScalar d a b) s = execVfminScalar d a b s := rfl
@[simp] theorem exec_vfmaxScalar (d a b : _) (s : State) : exec (.vfmaxScalar d a b) s = execVfmaxScalar d a b s := rfl
@[simp] theorem exec_vfminnumScalar (d a b : _) (s : State) : exec (.vfminnumScalar d a b) s = execVfminnumScalar d a b s := rfl
@[simp] theorem exec_vfmaxnumScalar (d a b : _) (s : State) : exec (.vfmaxnumScalar d a b) s = execVfmaxnumScalar d a b s := rfl
@[simp] theorem exec_vfceqScalar (d a b : _) (s : State) : exec (.vfceqScalar d a b) s = execVfceqScalar d a b s := rfl
@[simp] theorem exec_vfcltScalar (d a b : _) (s : State) : exec (.vfcltScalar d a b) s = execVfcltScalar d a b s := rfl
@[simp] theorem exec_vfcleScalar (d a b : _) (s : State) : exec (.vfcleScalar d a b) s = execVfcleScalar d a b s := rfl
@[simp] theorem exec_vfcunScalar (d a b : _) (s : State) : exec (.vfcunScalar d a b) s = execVfcunScalar d a b s := rfl
@[simp] theorem exec_vfdivScalar (d a b : _) (s : State) : exec (.vfdivScalar d a b) s = execVfdivScalar d a b s := rfl
@[simp] theorem exec_vfcopysignScalar (d a b : _) (s : State) : exec (.vfcopysignScalar d a b) s = execVfcopysignScalar d a b s := rfl
@[simp] theorem exec_vhadd (d a b : _) (s : State) : exec (.vhadd d a b) s = execVhadd d a b s := rfl
@[simp] theorem exec_vhsub (d a b : _) (s : State) : exec (.vhsub d a b) s = execVhsub d a b s := rfl
@[simp] theorem exec_vhmul (d a b : _) (s : State) : exec (.vhmul d a b) s = execVhmul d a b s := rfl
@[simp] theorem exec_vhfma (d a b : _) (s : State) : exec (.vhfma d a b) s = execVhfma d a b s := rfl
@[simp] theorem exec_vhmin (d a b : _) (s : State) : exec (.vhmin d a b) s = execVhmin d a b s := rfl
@[simp] theorem exec_vhmax (d a b : _) (s : State) : exec (.vhmax d a b) s = execVhmax d a b s := rfl
@[simp] theorem exec_vhceq (d a b : _) (s : State) : exec (.vhceq d a b) s = execVhceq d a b s := rfl
@[simp] theorem exec_vhclt (d a b : _) (s : State) : exec (.vhclt d a b) s = execVhclt d a b s := rfl
@[simp] theorem exec_vhcle (d a b : _) (s : State) : exec (.vhcle d a b) s = execVhcle d a b s := rfl
@[simp] theorem exec_vhcun (d a b : _) (s : State) : exec (.vhcun d a b) s = execVhcun d a b s := rfl
@[simp] theorem exec_vhaddBf (d a b : _) (s : State) : exec (.vhaddBf d a b) s = execVhaddBf d a b s := rfl
@[simp] theorem exec_vhsubBf (d a b : _) (s : State) : exec (.vhsubBf d a b) s = execVhsubBf d a b s := rfl
@[simp] theorem exec_vhmulBf (d a b : _) (s : State) : exec (.vhmulBf d a b) s = execVhmulBf d a b s := rfl
@[simp] theorem exec_vhfmaBf (d a b : _) (s : State) : exec (.vhfmaBf d a b) s = execVhfmaBf d a b s := rfl
@[simp] theorem exec_vhminBf (d a b : _) (s : State) : exec (.vhminBf d a b) s = execVhminBf d a b s := rfl
@[simp] theorem exec_vhmaxBf (d a b : _) (s : State) : exec (.vhmaxBf d a b) s = execVhmaxBf d a b s := rfl
@[simp] theorem exec_vhceqBf (d a b : _) (s : State) : exec (.vhceqBf d a b) s = execVhceqBf d a b s := rfl
@[simp] theorem exec_vhcltBf (d a b : _) (s : State) : exec (.vhcltBf d a b) s = execVhcltBf d a b s := rfl
@[simp] theorem exec_vhcleBf (d a b : _) (s : State) : exec (.vhcleBf d a b) s = execVhcleBf d a b s := rfl
@[simp] theorem exec_vhcunBf (d a b : _) (s : State) : exec (.vhcunBf d a b) s = execVhcunBf d a b s := rfl
@[simp] theorem exec_vcvt (d a f r x0 k : _) (s : State) : exec (.vcvt d a f r x0 k) s = execVcvt d a f r x0 k s := rfl
@[simp] theorem exec_vshuf (d a x1 : _) (s : State) : exec (.vshuf d a x1) s = execVshuf d a x1 s := rfl
@[simp] theorem exec_vrotl (d a k : _) (s : State) : exec (.vrotl d a k) s = execVrotl d a k s := rfl
@[simp] theorem exec_vbfly (d a k : _) (s : State) : exec (.vbfly d a k) s = execVbfly d a k s := rfl
@[simp] theorem exec_vbcast (d a k : _) (s : State) : exec (.vbcast d a k) s = execVbcast d a k s := rfl
@[simp] theorem exec_vextr (d a k : _) (s : State) : exec (.vextr d a k) s = execVextr d a k s := rfl
@[simp] theorem exec_vins (d a k : _) (s : State) : exec (.vins d a k) s = execVins d a k s := rfl
@[simp] theorem exec_vprefix (d a : _) (s : State) : exec (.vprefix d a) s = execVprefix d a s := rfl
@[simp] theorem exec_vredadd (d a : _) (s : State) : exec (.vredadd d a) s = execVredadd d a s := rfl
@[simp] theorem exec_vredmin (d a : _) (s : State) : exec (.vredmin d a) s = execVredmin d a s := rfl
@[simp] theorem exec_vredmax (d a : _) (s : State) : exec (.vredmax d a) s = execVredmax d a s := rfl
@[simp] theorem exec_vredminu (d a : _) (s : State) : exec (.vredminu d a) s = execVredminu d a s := rfl
@[simp] theorem exec_vredmaxu (d a : _) (s : State) : exec (.vredmaxu d a) s = execVredmaxu d a s := rfl
@[simp] theorem exec_vredfadd (d a : _) (s : State) : exec (.vredfadd d a) s = execVredfadd d a s := rfl
@[simp] theorem exec_vmerge (d a b : _) (s : State) : exec (.vmerge d a b) s = execVmerge d a b s := rfl
@[simp] theorem exec_vlaneid (d : _) (s : State) : exec (.vlaneid d) s = execVlaneid d s := rfl
@[simp] theorem exec_vmov (d a : _) (s : State) : exec (.vmov d a) s = execVmov d a s := rfl
@[simp] theorem exec_vmovs (d a : _) (s : State) : exec (.vmovs d a) s = execVmovs d a s := rfl
@[simp] theorem exec_vactmask (d : _) (s : State) : exec (.vactmask d) s = execVactmask d s := rfl
@[simp] theorem exec_vpackb (d a q : _) (s : State) : exec (.vpackb d a q) s = execVpackb d a q s := rfl
@[simp] theorem exec_vunpkb (d a q : _) (s : State) : exec (.vunpkb d a q) s = execVunpkb d a q s := rfl
@[simp] theorem exec_vpackh (d a q : _) (s : State) : exec (.vpackh d a q) s = execVpackh d a q s := rfl
@[simp] theorem exec_vunpkh (d a q : _) (s : State) : exec (.vunpkh d a q) s = execVunpkh d a q s := rfl
@[simp] theorem exec_vrand (d : _) (s : State) : exec (.vrand d) s = execVrand d s := rfl
@[simp] theorem exec_vrandf (d : _) (s : State) : exec (.vrandf d) s = execVrandf d s := rfl
@[simp] theorem exec_xclr (a : _) (s : State) : exec (.xclr a) s = execXclr a s := rfl
@[simp] theorem exec_xadd (a b : _) (s : State) : exec (.xadd a b) s = execXadd a b s := rfl
@[simp] theorem exec_xaddh (a b : _) (s : State) : exec (.xaddh a b) s = execXaddh a b s := rfl
@[simp] theorem exec_xmerge (a b : _) (s : State) : exec (.xmerge a b) s = execXmerge a b s := rfl
@[simp] theorem exec_xrdS (d a : _) (s : State) : exec (.xrdS d a) s = execXrdS d a s := rfl
@[simp] theorem exec_xrdD (d a : _) (s : State) : exec (.xrdD d a) s = execXrdD d a s := rfl
@[simp] theorem exec_ld (d b c o z : _) (s : State) : exec (.ld d b c o z) s = execLd d b c o z s := rfl
@[simp] theorem exec_lds (d b c o z : _) (s : State) : exec (.lds d b c o z) s = execLds d b c o z s := rfl
@[simp] theorem exec_st (d b c o z : _) (s : State) : exec (.st d b c o z) s = execSt d b c o z s := rfl
@[simp] theorem exec_ldfe (d b c o : _) (s : State) : exec (.ldfe d b c o) s = execLdfe d b c o s := rfl
@[simp] theorem exec_stfe (d b c o : _) (s : State) : exec (.stfe d b c o) s = execStfe d b c o s := rfl
@[simp] theorem exec_ldf (d b c o : _) (s : State) : exec (.ldf d b c o) s = execLdf d b c o s := rfl
@[simp] theorem exec_stf (d b c o : _) (s : State) : exec (.stf d b c o) s = execStf d b c o s := rfl
@[simp] theorem exec_feset (b c o : _) (s : State) : exec (.feset b c o) s = execFeset b c o s := rfl
@[simp] theorem exec_feclr (b c o : _) (s : State) : exec (.feclr b c o) s = execFeclr b c o s := rfl
@[simp] theorem exec_feget (d b c o : _) (s : State) : exec (.feget d b c o) s = execFeget d b c o s := rfl
@[simp] theorem exec_waiteq (d b c o z : _) (s : State) : exec (.waiteq d b c o z) s = execWaiteq d b c o z s := rfl
@[simp] theorem exec_waitne (d b c o z : _) (s : State) : exec (.waitne d b c o z) s = execWaitne d b c o z s := rfl
@[simp] theorem exec_pref (b : _) (s : State) : exec (.pref b) s = execPref b s := rfl
@[simp] theorem exec_vld (d b c o z : _) (s : State) : exec (.vld d b c o z) s = execVld d b c o z s := rfl
@[simp] theorem exec_vldFe (d b c o : _) (s : State) : exec (.vldFe d b c o) s = execVldFe d b c o s := rfl
@[simp] theorem exec_vldF (d b c o : _) (s : State) : exec (.vldF d b c o) s = execVldF d b c o s := rfl
@[simp] theorem exec_vst (d b c o z : _) (s : State) : exec (.vst d b c o z) s = execVst d b c o z s := rfl
@[simp] theorem exec_vstFe (d b c o : _) (s : State) : exec (.vstFe d b c o) s = execVstFe d b c o s := rfl
@[simp] theorem exec_vstF (d b c o : _) (s : State) : exec (.vstF d b c o) s = execVstF d b c o s := rfl
@[simp] theorem exec_vgath (d b x1 c o z : _) (s : State) : exec (.vgath d b x1 c o z) s = execVgath d b x1 c o z s := rfl
@[simp] theorem exec_vscat (d b x1 c o z : _) (s : State) : exec (.vscat d b x1 c o z) s = execVscat d b x1 c o z s := rfl
@[simp] theorem exec_vldk (d b k c o z : _) (s : State) : exec (.vldk d b k c o z) s = execVldk d b k c o z s := rfl
@[simp] theorem exec_vstk (d b k c o z : _) (s : State) : exec (.vstk d b k c o z) s = execVstk d b k c o z s := rfl
@[simp] theorem exec_aadd (d b c o z : _) (s : State) : exec (.aadd d b c o z) s = execAadd d b c o z s := rfl
@[simp] theorem exec_aand (d b c o z : _) (s : State) : exec (.aand d b c o z) s = execAand d b c o z s := rfl
@[simp] theorem exec_aor (d b c o z : _) (s : State) : exec (.aor d b c o z) s = execAor d b c o z s := rfl
@[simp] theorem exec_axor (d b c o z : _) (s : State) : exec (.axor d b c o z) s = execAxor d b c o z s := rfl
@[simp] theorem exec_amin (d b c o z : _) (s : State) : exec (.amin d b c o z) s = execAmin d b c o z s := rfl
@[simp] theorem exec_amax (d b c o z : _) (s : State) : exec (.amax d b c o z) s = execAmax d b c o z s := rfl
@[simp] theorem exec_aminu (d b c o z : _) (s : State) : exec (.aminu d b c o z) s = execAminu d b c o z s := rfl
@[simp] theorem exec_amaxu (d b c o z : _) (s : State) : exec (.amaxu d b c o z) s = execAmaxu d b c o z s := rfl
@[simp] theorem exec_aswap (d b c o z : _) (s : State) : exec (.aswap d b c o z) s = execAswap d b c o z s := rfl
@[simp] theorem exec_acas (d b c o z : _) (s : State) : exec (.acas d b c o z) s = execAcas d b c o z s := rfl
@[simp] theorem exec_afadd (d b c o : _) (s : State) : exec (.afadd d b c o) s = execAfadd d b c o s := rfl
@[simp] theorem exec_afmax (d b c o : _) (s : State) : exec (.afmax d b c o) s = execAfmax d b c o s := rfl
@[simp] theorem exec_vaadd (d b x1 o : _) (s : State) : exec (.vaadd d b x1 o) s = execVaadd d b x1 o s := rfl
@[simp] theorem exec_vaand (d b x1 o : _) (s : State) : exec (.vaand d b x1 o) s = execVaand d b x1 o s := rfl
@[simp] theorem exec_vaor (d b x1 o : _) (s : State) : exec (.vaor d b x1 o) s = execVaor d b x1 o s := rfl
@[simp] theorem exec_vaxor (d b x1 o : _) (s : State) : exec (.vaxor d b x1 o) s = execVaxor d b x1 o s := rfl
@[simp] theorem exec_vamin (d b x1 o : _) (s : State) : exec (.vamin d b x1 o) s = execVamin d b x1 o s := rfl
@[simp] theorem exec_vamax (d b x1 o : _) (s : State) : exec (.vamax d b x1 o) s = execVamax d b x1 o s := rfl
@[simp] theorem exec_vaminu (d b x1 o : _) (s : State) : exec (.vaminu d b x1 o) s = execVaminu d b x1 o s := rfl
@[simp] theorem exec_vamaxu (d b x1 o : _) (s : State) : exec (.vamaxu d b x1 o) s = execVamaxu d b x1 o s := rfl
@[simp] theorem exec_vaswap (d b x1 o : _) (s : State) : exec (.vaswap d b x1 o) s = execVaswap d b x1 o s := rfl
@[simp] theorem exec_vafadd (d b x1 o : _) (s : State) : exec (.vafadd d b x1 o) s = execVafadd d b x1 o s := rfl
@[simp] theorem exec_fence (c o : _) (s : State) : exec (.fence c o) s = execFence c o s := rfl
@[simp] theorem exec_fenceSc (c : _) (s : State) : exec (.fenceSc c) s = execFenceSc c s := rfl
@[simp] theorem exec_fenceSv (s : State) : exec (.fenceSv) s = execFenceSv s := rfl
@[simp] theorem exec_barinit (n c : _) (s : State) : exec (.barinit n c) s = execBarinit n c s := rfl
@[simp] theorem exec_bararr (n : _) (s : State) : exec (.bararr n) s = execBararr n s := rfl
@[simp] theorem exec_barwait (n : _) (s : State) : exec (.barwait n) s = execBarwait n s := rfl
@[simp] theorem exec_bararw (n : _) (s : State) : exec (.bararw n) s = execBararw n s := rfl
@[simp] theorem exec_barlead (d n : _) (s : State) : exec (.barlead d n) s = execBarlead d n s := rfl
@[simp] theorem exec_barq (d n : _) (s : State) : exec (.barq d n) s = execBarq d n s := rfl
@[simp] theorem exec_tlwait (d v t : _) (s : State) : exec (.tlwait d v t) s = execTlwait d v t s := rfl
@[simp] theorem exec_tlget (d t : _) (s : State) : exec (.tlget d t) s = execTlget d t s := rfl
@[simp] theorem exec_nclaim (d b : _) (s : State) : exec (.nclaim d b) s = execNclaim d b s := rfl
@[simp] theorem exec_nunpack (d x1 n : _) (s : State) : exec (.nunpack d x1 n) s = execNunpack d x1 n s := rfl
@[simp] theorem exec_park (d : _) (s : State) : exec (.park d) s = execPark d s := rfl
@[simp] theorem exec_wake (g : _) (s : State) : exec (.wake g) s = execWake g s := rfl
@[simp] theorem exec_sdef (n b x z : _) (s : State) : exec (.sdef n b x z) s = execSdef n b x z s := rfl
@[simp] theorem exec_sdim (n v j : _) (s : State) : exec (.sdim n v j) s = execSdim n v j s := rfl
@[simp] theorem exec_sbind (d n : _) (s : State) : exec (.sbind d n) s = execSbind d n s := rfl
@[simp] theorem exec_sunbind (d : _) (s : State) : exec (.sunbind d) s = execSunbind d s := rfl
@[simp] theorem exec_sgo (n : _) (s : State) : exec (.sgo n) s = execSgo n s := rfl
@[simp] theorem exec_sstop (n : _) (s : State) : exec (.sstop n) s = execSstop n s := rfl
@[simp] theorem exec_sstat (d n : _) (s : State) : exec (.sstat d n) s = execSstat d n s := rfl
@[simp] theorem exec_sdrain (n : _) (s : State) : exec (.sdrain n) s = execSdrain n s := rfl
@[simp] theorem exec_cpset (x0 n : _) (s : State) : exec (.cpset x0 n) s = execCpset x0 n s := rfl
@[simp] theorem exec_cpget (d n : _) (s : State) : exec (.cpget d n) s = execCpget d n s := rfl
@[simp] theorem exec_cpgo (d t : _) (s : State) : exec (.cpgo d t) s = execCpgo d t s := rfl
@[simp] theorem exec_cpstat (d t : _) (s : State) : exec (.cpstat d t) s = execCpstat d t s := rfl
@[simp] theorem exec_cpresume (n t : _) (s : State) : exec (.cpresume n t) s = execCpresume n t s := rfl
@[simp] theorem exec_obres (v n : _) (s : State) : exec (.obres v n) s = execObres v n s := rfl
@[simp] theorem exec_obfree (n : _) (s : State) : exec (.obfree n) s = execObfree n s := rfl
@[simp] theorem exec_bsres (v n : _) (s : State) : exec (.bsres v n) s = execBsres v n s := rfl
@[simp] theorem exec_bsfree (n : _) (s : State) : exec (.bsfree n) s = execBsfree n s := rfl
@[simp] theorem exec_mma (a b k t : _) (s : State) : exec (.mma a b k t) s = execMma a b k t s := rfl
@[simp] theorem exec_mmaz (a b k t : _) (s : State) : exec (.mmaz a b k t) s = execMmaz a b k t s := rfl
@[simp] theorem exec_accz (t : _) (s : State) : exec (.accz t) s = execAccz t s := rfl
@[simp] theorem exec_accrd (d c t : _) (s : State) : exec (.accrd d c t) s = execAccrd d c t s := rfl
@[simp] theorem exec_accwr (x0 c t : _) (s : State) : exec (.accwr x0 c t) s = execAccwr x0 c t s := rfl
@[simp] theorem exec_accst (b t : _) (s : State) : exec (.accst b t) s = execAccst b t s := rfl
@[simp] theorem exec_mrot (l h : _) (s : State) : exec (.mrot l h) s = execMrot l h s := rfl
@[simp] theorem exec_publish (c : _) (s : State) : exec (.publish c) s = execPublish c s := rfl
@[simp] theorem exec_unpublish (s : State) : exec (.unpublish) s = execUnpublish s := rfl
@[simp] theorem exec_subscribe (c : _) (s : State) : exec (.subscribe c) s = execSubscribe c s := rfl
@[simp] theorem exec_depart (k a x1 : _) (s : State) : exec (.depart k a x1) s = execDepart k a x1 s := rfl
@[simp] theorem exec_rejoin (c : _) (s : State) : exec (.rejoin c) s = execRejoin c s := rfl
@[simp] theorem exec_chstat (d c : _) (s : State) : exec (.chstat d c) s = execChstat d c s := rfl
@[simp] theorem exec_ralloc (d n t : _) (s : State) : exec (.ralloc d n t) s = execRalloc d n t s := rfl
@[simp] theorem exec_rallocw (d n t : _) (s : State) : exec (.rallocw d n t) s = execRallocw d n t s := rfl
@[simp] theorem exec_rcommit (d n v : _) (s : State) : exec (.rcommit d n v) s = execRcommit d n v s := rfl
@[simp] theorem exec_rdone (s : State) : exec (.rdone) s = execRdone s := rfl
@[simp] theorem exec_rdepth (d n : _) (s : State) : exec (.rdepth d n) s = execRdepth d n s := rfl
@[simp] theorem exec_rinfo (d n k : _) (s : State) : exec (.rinfo d n k) s = execRinfo d n k s := rfl
@[simp] theorem exec_slotstart (c e : _) (s : State) : exec (.slotstart c e) s = execSlotstart c e s := rfl
@[simp] theorem exec_slotreap (d t : _) (s : State) : exec (.slotreap d t) s = execSlotreap d t s := rfl
@[simp] theorem exec_slotexit (s : State) : exec (.slotexit) s = execSlotexit s := rfl
@[simp] theorem exec_regclaim (d n : _) (s : State) : exec (.regclaim d n) s = execRegclaim d n s := rfl
@[simp] theorem exec_regyield (d n : _) (s : State) : exec (.regyield d n) s = execRegyield d n s := rfl
@[simp] theorem exec_regmode (r l v m : _) (s : State) : exec (.regmode r l v m) s = execRegmode r l v m s := rfl
@[simp] theorem exec_slotctlState (v g : _) (s : State) : exec (.slotctlState v g) s = execSlotctlState v g s := rfl
@[simp] theorem exec_slotctlRdsr (v g : _) (s : State) : exec (.slotctlRdsr v g) s = execSlotctlRdsr v g s := rfl
@[simp] theorem exec_slotctlWrsr (v g : _) (s : State) : exec (.slotctlWrsr v g) s = execSlotctlWrsr v g s := rfl
@[simp] theorem exec_slotctlRds (v g : _) (s : State) : exec (.slotctlRds v g) s = execSlotctlRds v g s := rfl
@[simp] theorem exec_slotctlWrs (v g : _) (s : State) : exec (.slotctlWrs v g) s = execSlotctlWrs v g s := rfl
@[simp] theorem exec_slotctlRdv (v g : _) (s : State) : exec (.slotctlRdv v g) s = execSlotctlRdv v g s := rfl
@[simp] theorem exec_slotctlWrv (v g : _) (s : State) : exec (.slotctlWrv v g) s = execSlotctlWrv v g s := rfl
@[simp] theorem exec_slotctlRdctx (v g : _) (s : State) : exec (.slotctlRdctx v g) s = execSlotctlRdctx v g s := rfl
@[simp] theorem exec_slotctlWrctx (v g : _) (s : State) : exec (.slotctlWrctx v g) s = execSlotctlWrctx v g s := rfl
@[simp] theorem exec_slotctlResume (v g : _) (s : State) : exec (.slotctlResume v g) s = execSlotctlResume v g s := rfl
@[simp] theorem exec_slotctlKill (v g : _) (s : State) : exec (.slotctlKill v g) s = execSlotctlKill v g s := rfl
@[simp] theorem exec_slotctlSpill (v g : _) (s : State) : exec (.slotctlSpill v g) s = execSlotctlSpill v g s := rfl
@[simp] theorem exec_getsr (d n : _) (s : State) : exec (.getsr d n) s = execGetsr d n s := rfl
@[simp] theorem exec_setsr (x0 n : _) (s : State) : exec (.setsr x0 n) s = execSetsr x0 n s := rfl
@[simp] theorem exec_trap (x0 c : _) (s : State) : exec (.trap x0 c) s = execTrap x0 c s := rfl
@[simp] theorem exec_brkpt (c : _) (s : State) : exec (.brkpt c) s = execBrkpt c s := rfl
@[simp] theorem exec_locality (d x0 : _) (s : State) : exec (.locality d x0) s = execLocality d x0 s := rfl
@[simp] theorem exec_icinv (s : State) : exec (.icinv) s = execIcinv s := rfl
@[simp] theorem exec_nop (s : State) : exec (.nop) s = execNop s := rfl
@[simp] theorem exec_idle (x0 : _) (s : State) : exec (.idle x0) s = execIdle x0 s := rfl
@[simp] theorem exec_idleDelayEnd (g : _) (s : State) : exec (.idleDelayEnd g) s = execIdleDelayEnd g s := rfl
@[simp] theorem exec_waitqSatisfied (g : _) (s : State) : exec (.waitqSatisfied g) s = execWaitqSatisfied g s := rfl
@[simp] theorem exec_instructionCacheRefill (g : _) (s : State) : exec (.instructionCacheRefill g) s = execInstructionCacheRefill g s := rfl
@[simp] theorem exec_icinvComplete (g : _) (s : State) : exec (.icinvComplete g) s = execIcinvComplete g s := rfl
@[simp] theorem exec_producerValueWrite (g op : _) (s : State) : exec (.producerValueWrite g op) s = execProducerValueWrite g op s := rfl
@[simp] theorem exec_postedAcknowledgement (g op : _) (s : State) : exec (.postedAcknowledgement g op) s = execPostedAcknowledgement g op s := rfl
@[simp] theorem exec_activeMessage (g op : _) (s : State) : exec (.activeMessage g op) s = execActiveMessage g op s := rfl
@[simp] theorem exec_waiterResend (g op : _) (s : State) : exec (.waiterResend g op) s = execWaiterResend g op s := rfl
@[simp] theorem exec_fewaitExpiry (g : _) (s : State) : exec (.fewaitExpiry g) s = execFewaitExpiry g s := rfl
@[simp] theorem exec_cancelAnswer (g : _) (s : State) : exec (.cancelAnswer g) s = execCancelAnswer g s := rfl
@[simp] theorem exec_barrierArrival (g op : _) (s : State) : exec (.barrierArrival g op) s = execBarrierArrival g op s := rfl
@[simp] theorem exec_wakeArrival (g op : _) (s : State) : exec (.wakeArrival g op) s = execWakeArrival g op s := rfl
@[simp] theorem exec_parkTimeout (g : _) (s : State) : exec (.parkTimeout g) s = execParkTimeout g s := rfl
@[simp] theorem exec_streamElementRead (p c x : _) (s : State) : exec (.streamElementRead p c x) s = execStreamElementRead p c x s := rfl
@[simp] theorem exec_streamElementWrite (p c x : _) (s : State) : exec (.streamElementWrite p c x) s = execStreamElementWrite p c x s := rfl
@[simp] theorem exec_copyLaunchAccept (p c x : _) (s : State) : exec (.copyLaunchAccept p c x) s = execCopyLaunchAccept p c x s := rfl
@[simp] theorem exec_copyPayload (p c x : _) (s : State) : exec (.copyPayload p c x) s = execCopyPayload p c x s := rfl
@[simp] theorem exec_copyCompletion (p c x : _) (s : State) : exec (.copyCompletion p c x) s = execCopyCompletion p c x s := rfl
@[simp] theorem exec_copyWaitrecResume (p c x : _) (s : State) : exec (.copyWaitrecResume p c x) s = execCopyWaitrecResume p c x s := rfl
@[simp] theorem exec_matrixStep (g : _) (s : State) : exec (.matrixStep g) s = execMatrixStep g s := rfl
@[simp] theorem exec_stepAccumulation (p c : _) (s : State) : exec (.stepAccumulation p c) s = execStepAccumulation p c s := rfl
@[simp] theorem exec_rotationTableEffect (p c : _) (s : State) : exec (.rotationTableEffect p c) s = execRotationTableEffect p c s := rfl
@[simp] theorem exec_powerCapEffect (p : _) (s : State) : exec (.powerCapEffect p) s = execPowerCapEffect p s := rfl
@[simp] theorem exec_channelRegistry (g : _) (s : State) : exec (.channelRegistry g) s = execChannelRegistry g s := rfl
@[simp] theorem exec_publishedInstruction (g : _) (s : State) : exec (.publishedInstruction g) s = execPublishedInstruction g s := rfl
@[simp] theorem exec_endMark (g : _) (s : State) : exec (.endMark g) s = execEndMark g s := rfl
@[simp] theorem exec_channelStop (g : _) (s : State) : exec (.channelStop g) s = execChannelStop g s := rfl
@[simp] theorem exec_joinWaitExpiry (g : _) (s : State) : exec (.joinWaitExpiry g) s = execJoinWaitExpiry g s := rfl
@[simp] theorem exec_shawmRecordOperation (g op : _) (s : State) : exec (.shawmRecordOperation g op) s = execShawmRecordOperation g op s := rfl
@[simp] theorem exec_rallocwServed (g : _) (s : State) : exec (.rallocwServed g) s = execRallocwServed g s := rfl
@[simp] theorem exec_rallocwWaitExpiry (g : _) (s : State) : exec (.rallocwWaitExpiry g) s = execRallocwWaitExpiry g s := rfl
@[simp] theorem exec_coalescingTimer (p x n : _) (s : State) : exec (.coalescingTimer p x n) s = execCoalescingTimer p x n s := rfl
@[simp] theorem exec_placementReservation (p q : _) (s : State) : exec (.placementReservation p q) s = execPlacementReservation p q s := rfl
@[simp] theorem exec_placementRetry (p q : _) (s : State) : exec (.placementRetry p q) s = execPlacementRetry p q s := rfl
@[simp] theorem exec_groupCommit (p q : _) (s : State) : exec (.groupCommit p q) s = execGroupCommit p q s := rfl
@[simp] theorem exec_groupStart (g : _) (s : State) : exec (.groupStart g) s = execGroupStart g s := rfl
@[simp] theorem exec_slotStartFirstIssue (g : _) (s : State) : exec (.slotStartFirstIssue g) s = execSlotStartFirstIssue g s := rfl
@[simp] theorem exec_groupSlotReturn (g : _) (s : State) : exec (.groupSlotReturn g) s = execGroupSlotReturn g s := rfl
@[simp] theorem exec_groupEnd (p x launch : _) (s : State) : exec (.groupEnd p x launch) s = execGroupEnd p x launch s := rfl
@[simp] theorem exec_hostRecordAppend (p x : _) (s : State) : exec (.hostRecordAppend p x) s = execHostRecordAppend p x s := rfl
@[simp] theorem exec_graphLoadComplete (p x : _) (s : State) : exec (.graphLoadComplete p x) s = execGraphLoadComplete p x s := rfl
@[simp] theorem exec_graphTeardownComplete (p x : _) (s : State) : exec (.graphTeardownComplete p x) s = execGraphTeardownComplete p x s := rfl
@[simp] theorem exec_spillComplete (g : _) (s : State) : exec (.spillComplete g) s = execSpillComplete g s := rfl
@[simp] theorem exec_resumeRestore (g : _) (s : State) : exec (.resumeRestore g) s = execResumeRestore g s := rfl
@[simp] theorem exec_resumedSlotFirstIssue (g : _) (s : State) : exec (.resumedSlotFirstIssue g) s = execResumedSlotFirstIssue g s := rfl
@[simp] theorem exec_faultRecordPost (p ring : _) (s : State) : exec (.faultRecordPost p ring) s = execFaultRecordPost p ring s := rfl
@[simp] theorem exec_mailboxPoll (p q : _) (s : State) : exec (.mailboxPoll p q) s = execMailboxPoll p q s := rfl
@[simp] theorem exec_mboxSlotctlState (p q : _) (s : State) : exec (.mboxSlotctlState p q) s = execMboxSlotctlState p q s := rfl
@[simp] theorem exec_mboxSlotctlRdsr (p q : _) (s : State) : exec (.mboxSlotctlRdsr p q) s = execMboxSlotctlRdsr p q s := rfl
@[simp] theorem exec_mboxSlotctlWrsr (p q : _) (s : State) : exec (.mboxSlotctlWrsr p q) s = execMboxSlotctlWrsr p q s := rfl
@[simp] theorem exec_mboxSlotctlRds (p q : _) (s : State) : exec (.mboxSlotctlRds p q) s = execMboxSlotctlRds p q s := rfl
@[simp] theorem exec_mboxSlotctlWrs (p q : _) (s : State) : exec (.mboxSlotctlWrs p q) s = execMboxSlotctlWrs p q s := rfl
@[simp] theorem exec_mboxSlotctlRdv (p q : _) (s : State) : exec (.mboxSlotctlRdv p q) s = execMboxSlotctlRdv p q s := rfl
@[simp] theorem exec_mboxSlotctlWrv (p q : _) (s : State) : exec (.mboxSlotctlWrv p q) s = execMboxSlotctlWrv p q s := rfl
@[simp] theorem exec_mboxSlotctlRdctx (p q : _) (s : State) : exec (.mboxSlotctlRdctx p q) s = execMboxSlotctlRdctx p q s := rfl
@[simp] theorem exec_mboxSlotctlWrctx (p q : _) (s : State) : exec (.mboxSlotctlWrctx p q) s = execMboxSlotctlWrctx p q s := rfl
@[simp] theorem exec_mboxSlotctlResume (p q : _) (s : State) : exec (.mboxSlotctlResume p q) s = execMboxSlotctlResume p q s := rfl
@[simp] theorem exec_mboxSlotctlKill (p q : _) (s : State) : exec (.mboxSlotctlKill p q) s = execMboxSlotctlKill p q s := rfl
@[simp] theorem exec_mboxSlotctlSpill (p q : _) (s : State) : exec (.mboxSlotctlSpill p q) s = execMboxSlotctlSpill p q s := rfl
@[simp] theorem exec_graphload (p q : _) (s : State) : exec (.graphload p q) s = execGraphload p q s := rfl
@[simp] theorem exec_graphtear (p q : _) (s : State) : exec (.graphtear p q) s = execGraphtear p q s := rfl
@[simp] theorem exec_inval (p q : _) (s : State) : exec (.inval p q) s = execInval p q s := rfl
@[simp] theorem exec_invalidationComplete (p q : _) (s : State) : exec (.invalidationComplete p q) s = execInvalidationComplete p q s := rfl
@[simp] theorem exec_mboxFence (p q : _) (s : State) : exec (.mboxFence p q) s = execMboxFence p q s := rfl
@[simp] theorem exec_unfence (p q : _) (s : State) : exec (.unfence p q) s = execUnfence p q s := rfl
@[simp] theorem exec_reset (p q : _) (s : State) : exec (.reset p q) s = execReset p q s := rfl
@[simp] theorem exec_partitionResetComplete (p q : _) (s : State) : exec (.partitionResetComplete p q) s = execPartitionResetComplete p q s := rfl
@[simp] theorem exec_switch (p q : _) (s : State) : exec (.switch p q) s = execSwitch p q s := rfl
@[simp] theorem exec_switchDrainComplete (p q : _) (s : State) : exec (.switchDrainComplete p q) s = execSwitchDrainComplete p q s := rfl
@[simp] theorem exec_switchDeadline (p q : _) (s : State) : exec (.switchDeadline p q) s = execSwitchDeadline p q s := rfl
@[simp] theorem exec_partOpen (p q : _) (s : State) : exec (.partOpen p q) s = execPartOpen p q s := rfl
@[simp] theorem exec_close (p q : _) (s : State) : exec (.close p q) s = execClose p q s := rfl
@[simp] theorem exec_resetpkg (p : _) (s : State) : exec (.resetpkg p) s = execResetpkg p s := rfl
@[simp] theorem exec_twinHashArrival (g op : _) (s : State) : exec (.twinHashArrival g op) s = execTwinHashArrival g op s := rfl
@[simp] theorem exec_twinHashTimeout (g : _) (s : State) : exec (.twinHashTimeout g) s = execTwinHashTimeout g s := rfl
@[simp] theorem exec_enable (p : _) (s : State) : exec (.enable p) s = execEnable p s := rfl
@[simp] theorem exec_protectionInitComplete (p : _) (s : State) : exec (.protectionInitComplete p) s = execProtectionInitComplete p s := rfl
@[simp] theorem exec_disable (p : _) (s : State) : exec (.disable p) s = execDisable p s := rfl
@[simp] theorem exec_declare (p m : _) (s : State) : exec (.declare p m) s = execDeclare p m s := rfl
@[simp] theorem exec_rebuild (p : _) (s : State) : exec (.rebuild p) s = execRebuild p s := rfl
@[simp] theorem exec_parityDelta (p x : _) (s : State) : exec (.parityDelta p x) s = execParityDelta p x s := rfl
@[simp] theorem exec_deltaForward (p x : _) (s : State) : exec (.deltaForward p x) s = execDeltaForward p x s := rfl
@[simp] theorem exec_deltaAcknowledgement (p x : _) (s : State) : exec (.deltaAcknowledgement p x) s = execDeltaAcknowledgement p x s := rfl
@[simp] theorem exec_parityAcknowledgement (p x : _) (s : State) : exec (.parityAcknowledgement p x) s = execParityAcknowledgement p x s := rfl
@[simp] theorem exec_deltaSilence (p m : _) (s : State) : exec (.deltaSilence p m) s = execDeltaSilence p m s := rfl
@[simp] theorem exec_quiesceDrainComplete (p : _) (s : State) : exec (.quiesceDrainComplete p) s = execQuiesceDrainComplete p s := rfl
@[simp] theorem exec_stripeRebuild (p stripe : _) (s : State) : exec (.stripeRebuild p stripe) s = execStripeRebuild p stripe s := rfl
@[simp] theorem exec_sectorReconstruction (p sector : _) (s : State) : exec (.sectorReconstruction p sector) s = execSectorReconstruction p sector s := rfl
@[simp] theorem exec_patrolScrub (p u bad : _) (s : State) : exec (.patrolScrub p u bad) s = execPatrolScrub p u bad s := rfl
@[simp] theorem exec_hostWrite (p off bytes : _) (s : State) : exec (.hostWrite p off bytes) s = execHostWrite p off bytes s := rfl
@[simp] theorem exec_hostRead (p off n : _) (s : State) : exec (.hostRead p off n) s = execHostRead p off n s := rfl
@[simp] theorem exec_svfence (p : _) (s : State) : exec (.svfence p) s = execSvfence p s := rfl
@[simp] theorem exec_mailboxDoorbell (p q : _) (s : State) : exec (.mailboxDoorbell p q) s = execMailboxDoorbell p q s := rfl
@[simp] theorem exec_intstat (p v : _) (s : State) : exec (.intstat p v) s = execIntstat p v s := rfl
@[simp] theorem exec_mevent (p v : _) (s : State) : exec (.mevent p v) s = execMevent p v s := rfl
@[simp] theorem exec_fusepkg (p v : _) (s : State) : exec (.fusepkg p v) s = execFusepkg p v s := rfl
@[simp] theorem exec_timectlStep (p v : _) (s : State) : exec (.timectlStep p v) s = execTimectlStep p v s := rfl
@[simp] theorem exec_pwrcap (p v : _) (s : State) : exec (.pwrcap p v) s = execPwrcap p v s := rfl
@[simp] theorem exec_produceReport (p : _) (s : State) : exec (.produceReport p) s = execProduceReport p s := rfl
@[simp] theorem exec_reportComplete (p : _) (s : State) : exec (.reportComplete p) s = execReportComplete p s := rfl
@[simp] theorem exec_registerWrite (p r v : _) (s : State) : exec (.registerWrite p r v) s = execRegisterWrite p r v s := rfl
@[simp] theorem exec_flitReplay (p x : _) (s : State) : exec (.flitReplay p x) s = execFlitReplay p x s := rfl
@[simp] theorem exec_portUp (p x peer pdom : _) (s : State) : exec (.portUp p x peer pdom) s = execPortUp p x peer pdom s := rfl
@[simp] theorem exec_portFailure (p x : _) (s : State) : exec (.portFailure p x) s = execPortFailure p x s := rfl
@[simp] theorem exec_routeUnreachable (p m : _) (s : State) : exec (.routeUnreachable p m) s = execRouteUnreachable p m s := rfl
@[simp] theorem exec_timeSync (p : _) (s : State) : exec (.timeSync p) s = execTimeSync p s := rfl
@[simp] theorem exec_referenceLoss (p : _) (s : State) : exec (.referenceLoss p) s = execReferenceLoss p s := rfl
@[simp] theorem exec_referenceReturn (p : _) (s : State) : exec (.referenceReturn p) s = execReferenceReturn p s := rfl
@[simp] theorem exec_droopTrip (p die : _) (s : State) : exec (.droopTrip p die) s = execDroopTrip p die s := rfl
@[simp] theorem exec_stretchEnd (p : _) (s : State) : exec (.stretchEnd p) s = execStretchEnd p s := rfl
@[simp] theorem exec_powerAlert (p : _) (s : State) : exec (.powerAlert p) s = execPowerAlert p s := rfl
@[simp] theorem exec_thermalTrip (p : _) (s : State) : exec (.thermalTrip p) s = execThermalTrip p s := rfl
@[simp] theorem exec_packageReset (p : _) (s : State) : exec (.packageReset p) s = execPackageReset p s := rfl
@[simp] theorem exec_bringupStageComplete (p code : _) (s : State) : exec (.bringupStageComplete p code) s = execBringupStageComplete p code s := rfl
@[simp] theorem exec_memoryEdgeRequest (g op : _) (s : State) : exec (.memoryEdgeRequest g op) s = execMemoryEdgeRequest g op s := rfl
@[simp] theorem exec_xaccHoldEnd (g : _) (s : State) : exec (.xaccHoldEnd g) s = execXaccHoldEnd g s := rfl
@[simp] theorem exec_illegalEncoding (clause : _) (s : State) : exec (.illegalEncoding clause) s = execIllegalEncoding clause s := rfl

end Sys2Proof.Machine
end

