-- ==== Sys2Proof/Laws/Memory.lean ====
section
/-! SUPPORT. Byte stores: every operation keeps the canonical form, a read after a write gives what was written, and a write
leaves every other byte alone. -/

namespace Sys2Proof.Machine

/-! ## One store -/

theorem Memory.wf_iff (m : List Host.Cell) : Memory.wf m = true ↔ Table.ok m = true ∧ Table.noDefault 0 m = true := by
  unfold Memory.wf; exact Bool.and_eq_true_iff

@[simp] theorem Memory.wf_nil : Memory.wf [] = true := rfl

/-- Writing one byte keeps the canonical form. -/
theorem Memory.wf_set {m : List Host.Cell} (h : Memory.wf m = true) (a : Nat) (b : Byte) :
    Memory.wf (Table.set 0 m a b) = true := by
  obtain ⟨h1, h2⟩ := (Memory.wf_iff m).1 h
  exact (Memory.wf_iff _).2 ⟨Table.ok_set h1 a b, Table.noDefault_set h2 a b⟩

/-- Writing bytes keeps the canonical form. -/
theorem Memory.wf_cellsWrite {m : List Host.Cell} (h : Memory.wf m = true) (a : Nat) (bs : List Byte) :
    Memory.wf (cellsWrite m a bs) = true := by
  induction bs generalizing m a with
  | nil => exact h
  | cons b t ih => exact ih (Memory.wf_set h a b) (a + 1)

theorem Table.okFrom_filter {α : Type} {t : Table α} {b : Nat} (h : Table.okFrom b t = true) (p : Nat × α → Bool) :
    Table.okFrom b (t.filter p) = true := by
  induction t generalizing b with
  | nil => rfl
  | cons e t ih =>
    obtain ⟨k, v⟩ := e
    simp only [Table.okFrom, Bool.and_eq_true, decide_eq_true_eq] at h
    cases hp : p (k, v) with
    | true =>
      rw [List.filter_cons_of_pos hp]
      simp only [Table.okFrom, Bool.and_eq_true, decide_eq_true_eq]
      exact ⟨h.1, ih h.2⟩
    | false =>
      rw [List.filter_cons_of_neg (by simp [hp])]
      exact Table.okFrom_mono (ih h.2) (by omega)

/-- Dropping entries keeps the canonical form. -/
theorem Memory.wf_filter {m : List Host.Cell} (h : Memory.wf m = true) (p : Host.Cell → Bool) :
    Memory.wf (m.filter p) = true := by
  obtain ⟨h1, h2⟩ := (Memory.wf_iff m).1 h
  refine (Memory.wf_iff _).2 ⟨Table.okFrom_filter h1 p, ?_⟩
  unfold Table.noDefault at *
  rw [List.all_eq_true] at *
  exact fun e he => h2 e (List.mem_filter.1 he).1

/-- What stands at an address after a write of bytes. -/
theorem get_cellsWrite (m : List Host.Cell) (a : Nat) (bs : List Byte) (x : Nat) :
    Table.get 0 (cellsWrite m a bs) x = if a ≤ x ∧ x < a + bs.length then bs.getD (x - a) 0 else Table.get 0 m x := by
  induction bs generalizing m a with
  | nil => rw [cellsWrite, if_neg (by simp)]
  | cons b t ih =>
    rw [cellsWrite, ih, Table.get_set]
    simp only [List.length_cons]
    by_cases h1 : x = a
    · subst h1
      rw [if_neg (by omega), if_pos rfl, if_pos (by omega)]
      simp
    · by_cases h2 : a + 1 ≤ x ∧ x < a + 1 + t.length
      · rw [if_pos h2, if_pos (by omega)]
        obtain ⟨n, rfl⟩ : ∃ n, x = a + 1 + n := ⟨x - (a + 1), by omega⟩
        have e1 : a + 1 + n - (a + 1) = n := by omega
        have e2 : a + 1 + n - a = n + 1 := by omega
        rw [e1, e2, List.getD_cons_succ]
      · rw [if_neg h2, if_neg h1, if_neg (by omega)]

/-- A read of bytes that a write has just written gives them. -/
theorem cellsRead_cellsWrite (m : List Host.Cell) (a : Nat) (bs : List Byte) :
    cellsRead (cellsWrite m a bs) a bs.length = bs := by
  unfold cellsRead
  refine List.ext_getElem (by simp) fun i h1 h2 => ?_
  rw [List.getElem_map, List.getElem_range, get_cellsWrite, if_pos (by omega), Nat.add_sub_cancel_left,
    List.getD_eq_getElem _ _ h2]

/-- A read elsewhere gives what it gave before the write. -/
theorem cellsRead_cellsWrite_apart (m : List Host.Cell) (a : Nat) (bs : List Byte) {x n : Nat}
    (h : x + n ≤ a ∨ a + bs.length ≤ x) : cellsRead (cellsWrite m a bs) x n = cellsRead m x n := by
  unfold cellsRead
  refine List.map_congr_left fun i hi => ?_
  rw [List.mem_range] at hi
  rw [get_cellsWrite, if_neg (by omega)]

/-! ## The stores of the machine -/

theorem Cell.memoryWf_iff (t : Cell) :
    t.memoryWf = true ↔ Memory.wf t.spad = true ∧ Memory.wf t.bstore = true ∧ Memory.wf t.opbuf = true := by
  unfold Cell.memoryWf; simp only [Bool.and_eq_true, and_assoc]

theorem Pkg.memoryWf_iff (k : Pkg) : k.memoryWf = true ↔
    Memory.wf k.hbm = true ∧ Memory.wf k.ddr = true ∧ k.cells.all (fun (e : Nat × Cell) => e.2.memoryWf) = true := by
  unfold Pkg.memoryWf; simp only [Bool.and_eq_true, and_assoc]

/-- Writing the scratchpad keeps the canonical form of a cell's stores. -/
theorem Cell.memoryWf_putSpad {t : Cell} (h : t.memoryWf = true) (a : Nat) (bs : List Byte) :
    (t.putSpad a bs).memoryWf = true := by
  obtain ⟨h1, h2, h3⟩ := (Cell.memoryWf_iff t).1 h
  exact (Cell.memoryWf_iff _).2 ⟨Memory.wf_cellsWrite h1 a bs, h2, h3⟩

theorem Cell.memoryWf_default : ({} : Cell).memoryWf = true := rfl
theorem Pkg.memoryWf_default : ({} : Pkg).memoryWf = true := rfl

/-- A cell of a package in canonical form is. -/
theorem Pkg.memoryWf_cellAt {k : Pkg} (h : k.memoryWf = true) (c : CellId) : (k.cellAt c).memoryWf = true :=
  Table.all_get ((Pkg.memoryWf_iff k).1 h).2.2 Cell.memoryWf_default _

/-- A change of a cell that keeps its stores' form keeps the package's. -/
theorem Pkg.memoryWf_mapCell {k : Pkg} (h : k.memoryWf = true) (c : CellId) {f : Cell → Cell}
    (hf : ∀ t : Cell, t.memoryWf = true → (f t).memoryWf = true) : (k.mapCell c f).memoryWf = true := by
  obtain ⟨h1, h2, h3⟩ := (Pkg.memoryWf_iff k).1 h
  exact (Pkg.memoryWf_iff _).2 ⟨h1, h2, Table.all_put h3 _ (hf _ (Pkg.memoryWf_cellAt h c))⟩

/-- A change of a package that keeps its stores' form keeps the machine's. -/
theorem State.memoryWf_mapPkg {s : State} (h : s.memoryWf = true) (p : PkgId) {f : Pkg → Pkg}
    (hf : ∀ k : Pkg, k.memoryWf = true → (f k).memoryWf = true) : (s.mapPkg p f).memoryWf = true := by
  unfold State.mapPkg
  split
  · rename_i k hk
    exact Table.all_put h _ (hf k (Table.all_find h hk))
  · exact h

/-- A change of a cell that keeps its stores' form keeps the machine's. -/
theorem State.memoryWf_mapCell {s : State} (h : s.memoryWf = true) (p : PkgId) (c : CellId) {f : Cell → Cell}
    (hf : ∀ t : Cell, t.memoryWf = true → (f t).memoryWf = true) : (s.mapCell p c f).memoryWf = true :=
  State.memoryWf_mapPkg h p fun _ hk => Pkg.memoryWf_mapCell hk c hf

/-- A change of a slot keeps the form. -/
theorem State.memoryWf_mapSlot {s : State} (h : s.memoryWf = true) (g : GRef) (f : Slot → Slot) :
    (s.mapSlot g f).memoryWf = true :=
  State.memoryWf_mapCell h _ _ fun _ ht => ht

/-- A WRITE AT ANY PLACE KEEPS THE CANONICAL FORM. -/
theorem State.memoryWf_poke {s : State} (h : s.memoryWf = true) (l : Loc) (bs : List Byte) :
    (s.poke l bs).memoryWf = true := by
  unfold State.poke
  split
  · exact State.memoryWf_mapCell h _ _ fun _ ht => Cell.memoryWf_putSpad ht _ _
  · refine State.memoryWf_mapCell h _ _ fun t ht => ?_
    obtain ⟨h1, h2, h3⟩ := (Cell.memoryWf_iff t).1 ht
    exact (Cell.memoryWf_iff _).2 ⟨h1, Memory.wf_cellsWrite h2 _ _, h3⟩
  · refine State.memoryWf_mapCell h _ _ fun t ht => ?_
    obtain ⟨h1, h2, h3⟩ := (Cell.memoryWf_iff t).1 ht
    exact (Cell.memoryWf_iff _).2 ⟨h1, h2, Memory.wf_cellsWrite h3 _ _⟩
  · exact h
  · refine State.memoryWf_mapPkg h _ fun k hk => ?_
    obtain ⟨h1, h2, h3⟩ := (Pkg.memoryWf_iff k).1 hk
    exact (Pkg.memoryWf_iff _).2 ⟨Memory.wf_cellsWrite h1 _ _, h2, h3⟩
  · refine State.memoryWf_mapPkg h _ fun k hk => ?_
    obtain ⟨h1, h2, h3⟩ := (Pkg.memoryWf_iff k).1 hk
    exact (Pkg.memoryWf_iff _).2 ⟨h1, Memory.wf_cellsWrite h2 _ _, h3⟩

/-- Writing a sector of protected memory keeps the form. -/
theorem Pkg.memoryWf_putProtSector {k : Pkg} (h : k.memoryWf = true) (n x : Nat) (b : List Byte) :
    (k.putProtSector n x b).memoryWf = true := by
  obtain ⟨h1, h2, h3⟩ := (Pkg.memoryWf_iff k).1 h
  exact (Pkg.memoryWf_iff _).2 ⟨Memory.wf_cellsWrite h1 _ _, h2, h3⟩

/-- Writing a tag keeps the form. -/
theorem Pkg.memoryWf_putTag {k : Pkg} (h : k.memoryWf = true) (n x v : Nat) : (k.putTag n x v).memoryWf = true := by
  obtain ⟨h1, h2, h3⟩ := (Pkg.memoryWf_iff k).1 h
  exact (Pkg.memoryWf_iff _).2 ⟨Memory.wf_cellsWrite h1 _ _, h2, h3⟩

/-- Memory after reset is in canonical form. -/
theorem State.memoryWf_reset : State.reset.memoryWf = true := rfl

/-- A read of a place after a write there gives the bytes written, and no poison is left where they cover whole units. -/
theorem Cell.spad_putSpad (t : Cell) (a : Nat) (bs : List Byte) : (t.putSpad a bs).spadBytes a bs.length = bs :=
  cellsRead_cellsWrite _ _ _

end Sys2Proof.Machine
end

