-- ==== Sys2Proof/Laws/PerInstr.lean ====
section
/-! SUPPORT. Facts about every instruction as syntax, one lemma per constructor. RoundTrip: what the encoder writes, the
decoder reads. -/

set_option linter.unusedSimpArgs false

namespace Sys2Proof.Laws

/-! ## Fields of packed words -/

theorem fld_ofNat (n lo w : Nat) : fld (BitVec.ofNat 32 n) lo w = n % 4294967296 / 2 ^ lo % 2 ^ w := by
  unfold fld; rw [BitVec.toNat_ofNat]

theorem decode_plain {w : BitVec 32} {f : Fmt} (rest : List (BitVec 32)) (hf : fmtOf (major w) = f) (hl : f ≠ .lit) :
    decode (w :: rest) = (checked (decodeFmt f w)).map fun i => (i, rest) := by
  show (if fmtOf (major w) = .lit then _ else _) = _
  rw [hf, if_neg hl]

theorem decode_literal {w : BitVec 32} (lit : BitVec 32) (rest : List (BitVec 32)) (hf : fmtOf (major w) = .lit) :
    decode (w :: lit :: rest) = (checked (decodeLit w lit)).map fun i => (i, rest) := by
  show (if fmtOf (major w) = .lit then _ else _) = _
  rw [if_pos hf]

theorem decode_packA {m k x y z : Nat} (rest : List (BitVec 32)) (hf : fmtOf m = .A)
    (hm : m < 64) (hk : k < 32) (hx : x < 128) (hy : y < 128) (hz : z < 128) :
    decode (packA m k x y z :: rest) = (checked (decodeA m k x y z)).map fun i => (i, rest) := by
  have e : major (packA m k x y z) = m ∧ fld (packA m k x y z) 0 5 = k ∧ fld (packA m k x y z) 19 7 = x ∧ fld (packA m k x y z) 12 7 = y ∧ fld (packA m k x y z) 5 7 = z := by
    simp only [major, packA, fld_ofNat]
    refine ⟨?_, ?_, ?_, ?_, ?_⟩ <;> omega
  obtain ⟨e0, e1, e2, e3, e4⟩ := e
  rw [decode_plain rest (f := .A) (by rw [e0, hf]) (by decide)]
  unfold decodeFmt
  simp only [e0, e1, e2, e3, e4]

theorem decode_packB {m x y z : Nat} (rest : List (BitVec 32)) (hf : fmtOf m = .B)
    (hm : m < 64) (hx : x < 128) (hy : y < 128) (hz : z < 4096) :
    decode (packB m x y z :: rest) = (checked (decodeB m x y z)).map fun i => (i, rest) := by
  have e : major (packB m x y z) = m ∧ fld (packB m x y z) 19 7 = x ∧ fld (packB m x y z) 12 7 = y ∧ fld (packB m x y z) 0 12 = z := by
    simp only [major, packB, fld_ofNat]
    refine ⟨?_, ?_, ?_, ?_⟩ <;> omega
  obtain ⟨e0, e1, e2, e3⟩ := e
  rw [decode_plain rest (f := .B) (by rw [e0, hf]) (by decide)]
  unfold decodeFmt
  simp only [e0, e1, e2, e3]

theorem decode_packC {m x y : Nat} (rest : List (BitVec 32)) (hf : fmtOf m = .C)
    (hm : m < 64) (hx : x < 128) (hy : y < 524288) :
    decode (packC m x y :: rest) = (checked (decodeC m x y)).map fun i => (i, rest) := by
  have e : major (packC m x y) = m ∧ fld (packC m x y) 19 7 = x ∧ fld (packC m x y) 0 19 = y := by
    simp only [major, packC, fld_ofNat]
    refine ⟨?_, ?_, ?_⟩ <;> omega
  obtain ⟨e0, e1, e2⟩ := e
  rw [decode_plain rest (f := .C) (by rw [e0, hf]) (by decide)]
  unfold decodeFmt
  simp only [e0, e1, e2]

theorem decode_packM {m k x y c o z : Nat} (rest : List (BitVec 32)) (hf : fmtOf m = .M)
    (hm : m < 64) (hk : k < 32) (hx : x < 128) (hy : y < 128) (hc : c < 8) (ho : o < 4) (hz : z < 4) :
    decode (packM m k x y c o z :: rest) = (checked (decodeM m k x y c o z)).map fun i => (i, rest) := by
  have e : major (packM m k x y c o z) = m ∧ fld (packM m k x y c o z) 7 5 = k ∧ fld (packM m k x y c o z) 19 7 = x ∧ fld (packM m k x y c o z) 12 7 = y ∧ fld (packM m k x y c o z) 4 3 = c ∧ fld (packM m k x y c o z) 2 2 = o ∧ fld (packM m k x y c o z) 0 2 = z := by
    simp only [major, packM, fld_ofNat]
    refine ⟨?_, ?_, ?_, ?_, ?_, ?_, ?_⟩ <;> omega
  obtain ⟨e0, e1, e2, e3, e4, e5, e6⟩ := e
  rw [decode_plain rest (f := .M) (by rw [e0, hf]) (by decide)]
  unfold decodeFmt
  simp only [e0, e1, e2, e3, e4, e5, e6]

theorem decode_packX {m k x y z : Nat} (rest : List (BitVec 32)) (hf : fmtOf m = .X)
    (hm : m < 64) (hk : k < 32) (hx : x < 128) (hy : y < 128) (hz : z < 128) :
    decode (packX m k x y z :: rest) = (checked (decodeX m k x y z)).map fun i => (i, rest) := by
  have e : major (packX m k x y z) = m ∧ fld (packX m k x y z) 7 5 = k ∧ fld (packX m k x y z) 19 7 = x ∧ fld (packX m k x y z) 12 7 = y ∧ fld (packX m k x y z) 0 7 = z := by
    simp only [major, packX, fld_ofNat]
    refine ⟨?_, ?_, ?_, ?_, ?_⟩ <;> omega
  obtain ⟨e0, e1, e2, e3, e4⟩ := e
  rw [decode_plain rest (f := .X) (by rw [e0, hf]) (by decide)]
  unfold decodeFmt
  simp only [e0, e1, e2, e3, e4]

theorem decode_packV {m x y i c o z : Nat} (rest : List (BitVec 32)) (hf : fmtOf m = .V)
    (hm : m < 64) (hx : x < 128) (hy : y < 32) (hi : i < 128) (hc : c < 8) (ho : o < 4) (hz : z < 4) :
    decode (packV m x y i c o z :: rest) = (checked (decodeV m x y i c o z)).map fun i => (i, rest) := by
  have e : major (packV m x y i c o z) = m ∧ fld (packV m x y i c o z) 19 7 = x ∧ fld (packV m x y i c o z) 14 5 = y ∧ fld (packV m x y i c o z) 7 7 = i ∧ fld (packV m x y i c o z) 4 3 = c ∧ fld (packV m x y i c o z) 2 2 = o ∧ fld (packV m x y i c o z) 0 2 = z := by
    simp only [major, packV, fld_ofNat]
    refine ⟨?_, ?_, ?_, ?_, ?_, ?_, ?_⟩ <;> omega
  obtain ⟨e0, e1, e2, e3, e4, e5, e6⟩ := e
  rw [decode_plain rest (f := .V) (by rw [e0, hf]) (by decide)]
  unfold decodeFmt
  simp only [e0, e1, e2, e3, e4, e5, e6]

theorem decode_packVA {m k x y i o r : Nat} (rest : List (BitVec 32)) (hf : fmtOf m = .VA)
    (hm : m < 64) (hk : k < 16) (hx : x < 128) (hy : y < 32) (hi : i < 128) (ho : o < 4) (hr : r < 2) :
    decode (packVA m k x y i o r :: rest) = (checked (decodeVA m k x y i o r)).map fun i => (i, rest) := by
  have e : major (packVA m k x y i o r) = m ∧ fld (packVA m k x y i o r) 3 4 = k ∧ fld (packVA m k x y i o r) 19 7 = x ∧ fld (packVA m k x y i o r) 14 5 = y ∧ fld (packVA m k x y i o r) 7 7 = i ∧ fld (packVA m k x y i o r) 1 2 = o ∧ fld (packVA m k x y i o r) 0 1 = r := by
    simp only [major, packVA, fld_ofNat]
    refine ⟨?_, ?_, ?_, ?_, ?_, ?_, ?_⟩ <;> omega
  obtain ⟨e0, e1, e2, e3, e4, e5, e6⟩ := e
  rw [decode_plain rest (f := .VA) (by rw [e0, hf]) (by decide)]
  unfold decodeFmt
  simp only [e0, e1, e2, e3, e4, e5, e6]

theorem packC_fields {m x y : Nat} (hm : m < 64) (hx : x < 128) (hy : y < 524288) :
    major (packC m x y) = m ∧ fld (packC m x y) 19 7 = x ∧ fld (packC m x y) 0 19 = y := by
  simp only [major, packC, fld_ofNat]
  refine ⟨?_, ?_, ?_⟩ <;> omega

/-! ## Fields that name things -/

theorem sreg_toNat (r : SReg) : sreg r.toNat = some r := by
  unfold sreg; rw [if_pos r.isLt, BitVec.ofNat_toNat, BitVec.setWidth_eq]
theorem scope_code_lt (x : Scope) : x.code < 8 := by cases x <;> decide
theorem scope_ofCode (x : Scope) : Scope.ofCode x.code = some x := by cases x <;> rfl
theorem order_code_lt (x : Order) : x.code < 4 := by cases x <;> decide
theorem order_ofCode (x : Order) : Order.ofCode x.code = some x := by cases x <;> rfl
theorem size_code_lt (x : Size) : x.code < 4 := by cases x <;> decide
theorem size_ofCode (x : Size) : Size.ofCode x.code = some x := by cases x <;> rfl
theorem vsize_code_lt (x : VSize) : x.code < 4 := by cases x <;> decide
theorem vsize_ofCode (x : VSize) : VSize.ofCode x.code = some x := by cases x <;> rfl
theorem cond_code_lt (x : Cond) : x.code < 128 := by cases x <;> decide
theorem cond_ofCode (x : Cond) : Cond.ofCode x.code = some x := by cases x <;> rfl
theorem timeline_code_lt (x : Timeline) : x.code < 128 := by cases x <;> simp only [Timeline.code] <;> omega
theorem specreg_code_lt (x : SpecReg) : x.code < 128 := by cases x <;> decide
theorem specreg_ofCode (x : SpecReg) : SpecReg.ofCode x.code = some x := by cases x <;> rfl
theorem timeline_ofCode (x : Timeline) : Timeline.ofCode x.code = some x := by
  cases x with
  | copy t => 
    have : t.toNat < 4 := t.isLt
    simp only [Timeline.code, Timeline.ofCode, if_pos this, BitVec.ofNat_toNat, BitVec.setWidth_eq]
  | graph t =>
    have : t.toNat < 64 := t.isLt
    have h1 : ¬ t.toNat + 64 < 4 := by omega
    have h2 : 64 ≤ t.toNat + 64 ∧ t.toNat + 64 < 128 := by omega
    simp only [Timeline.code, Timeline.ofCode, if_neg h1, if_pos h2, Nat.add_sub_cancel, BitVec.ofNat_toNat, BitVec.setWidth_eq]

theorem ofNat_toNat {w : Nat} (x : BitVec w) : BitVec.ofNat w x.toNat = x := by
  rw [BitVec.ofNat_toNat, BitVec.setWidth_eq]
theorem div_small {a n : Nat} (h : a < n) : a / n = 0 := Nat.div_eq_of_lt h

theorem fields_some (i : Instr) : fields (some i) = .ok i := rfl

/-- An accepted word reads as its instruction. -/
theorem accepts {ws : List (BitVec 32)} {r : Except DecodeErr Instr} {i : Instr} {rest : List (BitVec 32)}
    (hd : decode ws = (checked r).map fun i => (i, rest)) (hr : r = .ok i) (h : i.wf = true) : decode ws = .ok (i, rest) := by
  rw [hd, hr]; unfold checked; simp only [h, if_true]; rfl

theorem bool_toNat (b : Bool) : (b.toNat == 1) = b := by cases b <;> rfl

/-! ## Shapes of operands -/

theorem aSxSySz_eq (f : SReg → SReg → SReg → Instr) (v0 : SReg) (v1 : SReg) (v2 : SReg) : Dec.aSxSySz f v0.toNat v1.toNat v2.toNat = some (f v0 v1 v2) := by
  simp only [Dec.aSxSySz, sreg_toNat, scope_ofCode, order_ofCode, size_ofCode, vsize_ofCode, cond_ofCode, timeline_ofCode, specreg_ofCode, ofNat_toNat, Option.bind_some, if_true, and_self, true_and]
theorem aSxSy_eq (f : SReg → SReg → Instr) (v0 : SReg) (v1 : SReg) : Dec.aSxSy f v0.toNat v1.toNat 0 = some (f v0 v1) := by
  simp only [Dec.aSxSy, sreg_toNat, scope_ofCode, order_ofCode, size_ofCode, vsize_ofCode, cond_ofCode, timeline_ofCode, specreg_ofCode, ofNat_toNat, Option.bind_some, if_true, and_self, true_and]
theorem bSxSyIz_eq (f : SReg → SReg → BitVec 12 → Instr) (v0 : SReg) (v1 : SReg) (v2 : BitVec 12) : Dec.bSxSyIz f v0.toNat v1.toNat v2.toNat = some (f v0 v1 v2) := by
  simp only [Dec.bSxSyIz, sreg_toNat, scope_ofCode, order_ofCode, size_ofCode, vsize_ofCode, cond_ofCode, timeline_ofCode, specreg_ofCode, ofNat_toNat, Option.bind_some, if_true, and_self, true_and]
theorem aSxSyN_eq (f : SReg → SReg → BitVec 6 → Instr) (v0 : SReg) (v1 : SReg) (v2 : BitVec 6) : Dec.aSxSyN f v0.toNat v1.toNat v2.toNat = some (f v0 v1 v2) := by
  have hv2 : v2.toNat < 64 := v2.isLt
  simp only [Dec.aSxSyN, sreg_toNat, scope_ofCode, order_ofCode, size_ofCode, vsize_ofCode, cond_ofCode, timeline_ofCode, specreg_ofCode, ofNat_toNat, Option.bind_some, if_true, and_self, true_and, Nat.div_eq_of_lt hv2, Nat.mod_eq_of_lt hv2]
theorem cSxIy_eq (f : SReg → BitVec 19 → Instr) (v0 : SReg) (v1 : BitVec 19) : Dec.cSxIy f v0.toNat v1.toNat = some (f v0 v1) := by
  simp only [Dec.cSxIy, sreg_toNat, scope_ofCode, order_ofCode, size_ofCode, vsize_ofCode, cond_ofCode, timeline_ofCode, specreg_ofCode, ofNat_toNat, Option.bind_some, if_true, and_self, true_and]
theorem cIy_eq (f : BitVec 19 → Instr) (v0 : BitVec 19) : Dec.cIy f 0 v0.toNat = some (f v0) := by
  simp only [Dec.cIy, sreg_toNat, scope_ofCode, order_ofCode, size_ofCode, vsize_ofCode, cond_ofCode, timeline_ofCode, specreg_ofCode, ofNat_toNat, Option.bind_some, if_true, and_self, true_and]
theorem bCxSyIz_eq (f : Cond → SReg → BitVec 12 → Instr) (v0 : Cond) (v1 : SReg) (v2 : BitVec 12) : Dec.bCxSyIz f v0.code v1.toNat v2.toNat = some (f v0 v1 v2) := by
  simp only [Dec.bCxSyIz, sreg_toNat, scope_ofCode, order_ofCode, size_ofCode, vsize_ofCode, cond_ofCode, timeline_ofCode, specreg_ofCode, ofNat_toNat, Option.bind_some, if_true, and_self, true_and]
theorem aSy_eq (f : SReg → Instr) (v0 : SReg) : Dec.aSy f 0 v0.toNat 0 = some (f v0) := by
  simp only [Dec.aSy, sreg_toNat, scope_ofCode, order_ofCode, size_ofCode, vsize_ofCode, cond_ofCode, timeline_ofCode, specreg_ofCode, ofNat_toNat, Option.bind_some, if_true, and_self, true_and]
theorem bSyIz_eq (f : SReg → BitVec 12 → Instr) (v0 : SReg) (v1 : BitVec 12) : Dec.bSyIz f 0 v0.toNat v1.toNat = some (f v0 v1) := by
  simp only [Dec.bSyIz, sreg_toNat, scope_ofCode, order_ofCode, size_ofCode, vsize_ofCode, cond_ofCode, timeline_ofCode, specreg_ofCode, ofNat_toNat, Option.bind_some, if_true, and_self, true_and]
theorem aVy_eq (f : VRegNo → Instr) (v0 : VRegNo) : Dec.aVy f 0 v0.toNat 0 = some (f v0) := by
  simp only [Dec.aVy, sreg_toNat, scope_ofCode, order_ofCode, size_ofCode, vsize_ofCode, cond_ofCode, timeline_ofCode, specreg_ofCode, ofNat_toNat, Option.bind_some, if_true, and_self, true_and]
theorem a_eq (f : Instr)  : Dec.a f 0 0 0 = some (f) := by
  simp only [Dec.a, sreg_toNat, scope_ofCode, order_ofCode, size_ofCode, vsize_ofCode, cond_ofCode, timeline_ofCode, specreg_ofCode, ofNat_toNat, Option.bind_some, if_true, and_self, true_and]
theorem a2_eq (f : Instr)  : Dec.a2 f 0 0 = some (f) := by
  simp only [Dec.a2, sreg_toNat, scope_ofCode, order_ofCode, size_ofCode, vsize_ofCode, cond_ofCode, timeline_ofCode, specreg_ofCode, ofNat_toNat, Option.bind_some, if_true, and_self, true_and]
theorem aVyBz_eq (f : VRegNo → BitVec 7 → Instr) (v0 : VRegNo) (v1 : BitVec 7) : Dec.aVyBz f 0 v0.toNat v1.toNat = some (f v0 v1) := by
  simp only [Dec.aVyBz, sreg_toNat, scope_ofCode, order_ofCode, size_ofCode, vsize_ofCode, cond_ofCode, timeline_ofCode, specreg_ofCode, ofNat_toNat, Option.bind_some, if_true, and_self, true_and]
theorem aSxVy_eq (f : SReg → VRegNo → Instr) (v0 : SReg) (v1 : VRegNo) : Dec.aSxVy f v0.toNat v1.toNat 0 = some (f v0 v1) := by
  simp only [Dec.aSxVy, sreg_toNat, scope_ofCode, order_ofCode, size_ofCode, vsize_ofCode, cond_ofCode, timeline_ofCode, specreg_ofCode, ofNat_toNat, Option.bind_some, if_true, and_self, true_and]
theorem aVx_eq (f : VRegNo → Instr) (v0 : VRegNo) : Dec.aVx f v0.toNat 0 0 = some (f v0) := by
  simp only [Dec.aVx, sreg_toNat, scope_ofCode, order_ofCode, size_ofCode, vsize_ofCode, cond_ofCode, timeline_ofCode, specreg_ofCode, ofNat_toNat, Option.bind_some, if_true, and_self, true_and]
theorem aVxVyVz_eq (f : VRegNo → VRegNo → VRegNo → Instr) (v0 : VRegNo) (v1 : VRegNo) (v2 : VRegNo) : Dec.aVxVyVz f v0.toNat v1.toNat v2.toNat = some (f v0 v1 v2) := by
  simp only [Dec.aVxVyVz, sreg_toNat, scope_ofCode, order_ofCode, size_ofCode, vsize_ofCode, cond_ofCode, timeline_ofCode, specreg_ofCode, ofNat_toNat, Option.bind_some, if_true, and_self, true_and]
theorem aVxVy_eq (f : VRegNo → VRegNo → Instr) (v0 : VRegNo) (v1 : VRegNo) : Dec.aVxVy f v0.toNat v1.toNat 0 = some (f v0 v1) := by
  simp only [Dec.aVxVy, sreg_toNat, scope_ofCode, order_ofCode, size_ofCode, vsize_ofCode, cond_ofCode, timeline_ofCode, specreg_ofCode, ofNat_toNat, Option.bind_some, if_true, and_self, true_and]
theorem aVxVySz_eq (f : VRegNo → VRegNo → SReg → Instr) (v0 : VRegNo) (v1 : VRegNo) (v2 : SReg) : Dec.aVxVySz f v0.toNat v1.toNat v2.toNat = some (f v0 v1 v2) := by
  simp only [Dec.aVxVySz, sreg_toNat, scope_ofCode, order_ofCode, size_ofCode, vsize_ofCode, cond_ofCode, timeline_ofCode, specreg_ofCode, ofNat_toNat, Option.bind_some, if_true, and_self, true_and]
theorem aVxVyFzFFK_eq (f : VRegNo → VRegNo → BitVec 7 → Bool → Bool → BitVec 3 → Instr) (v0 : VRegNo) (v1 : VRegNo) (v2 : BitVec 7) (v3 : Bool) (v4 : Bool) (v5 : BitVec 3) : Dec.aVxVyFzFFK f v0.toNat v1.toNat v2.toNat (v3.toNat * 16 + v4.toNat * 8 + v5.toNat) = some (f v0 v1 v2 v3 v4 v5) := by
  have := v5.isLt
  have := Bool.toNat_lt v3
  have := Bool.toNat_lt v4
  have e1 : (v3.toNat * 16 + v4.toNat * 8 + v5.toNat) / 16 = v3.toNat := by omega
  have e2 : (v3.toNat * 16 + v4.toNat * 8 + v5.toNat) / 8 % 2 = v4.toNat := by omega
  have e3 : (v3.toNat * 16 + v4.toNat * 8 + v5.toNat) % 8 = v5.toNat := by omega
  simp only [Dec.aVxVyFzFFK, sreg_toNat, scope_ofCode, order_ofCode, size_ofCode, vsize_ofCode, cond_ofCode, timeline_ofCode, specreg_ofCode, ofNat_toNat, Option.bind_some, if_true, and_self, true_and, e1, e2, e3, bool_toNat]
theorem aSxVySz_eq (f : SReg → VRegNo → SReg → Instr) (v0 : SReg) (v1 : VRegNo) (v2 : SReg) : Dec.aSxVySz f v0.toNat v1.toNat v2.toNat = some (f v0 v1 v2) := by
  simp only [Dec.aSxVySz, sreg_toNat, scope_ofCode, order_ofCode, size_ofCode, vsize_ofCode, cond_ofCode, timeline_ofCode, specreg_ofCode, ofNat_toNat, Option.bind_some, if_true, and_self, true_and]
theorem aVxSySz_eq (f : VRegNo → SReg → SReg → Instr) (v0 : VRegNo) (v1 : SReg) (v2 : SReg) : Dec.aVxSySz f v0.toNat v1.toNat v2.toNat = some (f v0 v1 v2) := by
  simp only [Dec.aVxSySz, sreg_toNat, scope_ofCode, order_ofCode, size_ofCode, vsize_ofCode, cond_ofCode, timeline_ofCode, specreg_ofCode, ofNat_toNat, Option.bind_some, if_true, and_self, true_and]
theorem aVxSy_eq (f : VRegNo → SReg → Instr) (v0 : VRegNo) (v1 : SReg) : Dec.aVxSy f v0.toNat v1.toNat 0 = some (f v0 v1) := by
  simp only [Dec.aVxSy, sreg_toNat, scope_ofCode, order_ofCode, size_ofCode, vsize_ofCode, cond_ofCode, timeline_ofCode, specreg_ofCode, ofNat_toNat, Option.bind_some, if_true, and_self, true_and]
theorem aSx_eq (f : SReg → Instr) (v0 : SReg) : Dec.aSx f v0.toNat 0 0 = some (f v0) := by
  simp only [Dec.aSx, sreg_toNat, scope_ofCode, order_ofCode, size_ofCode, vsize_ofCode, cond_ofCode, timeline_ofCode, specreg_ofCode, ofNat_toNat, Option.bind_some, if_true, and_self, true_and]
theorem aSyVz_eq (f : SReg → VRegNo → Instr) (v0 : SReg) (v1 : VRegNo) : Dec.aSyVz f 0 v0.toNat v1.toNat = some (f v0 v1) := by
  simp only [Dec.aSyVz, sreg_toNat, scope_ofCode, order_ofCode, size_ofCode, vsize_ofCode, cond_ofCode, timeline_ofCode, specreg_ofCode, ofNat_toNat, Option.bind_some, if_true, and_self, true_and]
theorem aSySz_eq (f : SReg → SReg → Instr) (v0 : SReg) (v1 : SReg) : Dec.aSySz f 0 v0.toNat v1.toNat = some (f v0 v1) := by
  simp only [Dec.aSySz, sreg_toNat, scope_ofCode, order_ofCode, size_ofCode, vsize_ofCode, cond_ofCode, timeline_ofCode, specreg_ofCode, ofNat_toNat, Option.bind_some, if_true, and_self, true_and]
theorem aSxSy2_eq (f : SReg → SReg → Instr) (v0 : SReg) (v1 : SReg) : Dec.aSxSy2 f v0.toNat v1.toNat = some (f v0 v1) := by
  simp only [Dec.aSxSy2, sreg_toNat, scope_ofCode, order_ofCode, size_ofCode, vsize_ofCode, cond_ofCode, timeline_ofCode, specreg_ofCode, ofNat_toNat, Option.bind_some, if_true, and_self, true_and]
theorem mSxSyCOZz_eq (f : SReg → SReg → Scope → Order → Size → Instr) (v0 : SReg) (v1 : SReg) (v2 : Scope) (v3 : Order) (v4 : Size) : Dec.mSxSyCOZz f v0.toNat v1.toNat v2.code v3.code v4.code = some (f v0 v1 v2 v3 v4) := by
  simp only [Dec.mSxSyCOZz, sreg_toNat, scope_ofCode, order_ofCode, size_ofCode, vsize_ofCode, cond_ofCode, timeline_ofCode, specreg_ofCode, ofNat_toNat, Option.bind_some, if_true, and_self, true_and]
theorem mSxSyCO_eq (f : SReg → SReg → Scope → Order → Instr) (v0 : SReg) (v1 : SReg) (v2 : Scope) (v3 : Order) : Dec.mSxSyCO f v0.toNat v1.toNat v2.code v3.code 2 = some (f v0 v1 v2 v3) := by
  simp only [Dec.mSxSyCO, sreg_toNat, scope_ofCode, order_ofCode, size_ofCode, vsize_ofCode, cond_ofCode, timeline_ofCode, specreg_ofCode, ofNat_toNat, Option.bind_some, if_true, and_self, true_and]
theorem mSyCO_eq (f : SReg → Scope → Order → Instr) (v0 : SReg) (v1 : Scope) (v2 : Order) : Dec.mSyCO f 0 v0.toNat v1.code v2.code 2 = some (f v0 v1 v2) := by
  simp only [Dec.mSyCO, sreg_toNat, scope_ofCode, order_ofCode, size_ofCode, vsize_ofCode, cond_ofCode, timeline_ofCode, specreg_ofCode, ofNat_toNat, Option.bind_some, if_true, and_self, true_and]
theorem mSy_eq (f : SReg → Instr) (v0 : SReg) : Dec.mSy f 0 v0.toNat 0 0 0 = some (f v0) := by
  simp only [Dec.mSy, sreg_toNat, scope_ofCode, order_ofCode, size_ofCode, vsize_ofCode, cond_ofCode, timeline_ofCode, specreg_ofCode, ofNat_toNat, Option.bind_some, if_true, and_self, true_and]
theorem vVxSyCOZz_eq (f : VRegNo → SReg → Scope → Order → VSize → Instr) (v0 : VRegNo) (v1 : SReg) (v2 : Scope) (v3 : Order) (v4 : VSize) : Dec.vVxSyCOZz f v0.toNat v1.toNat v2.code v3.code v4.code = some (f v0 v1 v2 v3 v4) := by
  simp only [Dec.vVxSyCOZz, sreg_toNat, scope_ofCode, order_ofCode, size_ofCode, vsize_ofCode, cond_ofCode, timeline_ofCode, specreg_ofCode, ofNat_toNat, Option.bind_some, if_true, and_self, true_and]
theorem vVxSyCO_eq (f : VRegNo → SReg → Scope → Order → Instr) (v0 : VRegNo) (v1 : SReg) (v2 : Scope) (v3 : Order) : Dec.vVxSyCO f v0.toNat v1.toNat v2.code v3.code 2 = some (f v0 v1 v2 v3) := by
  simp only [Dec.vVxSyCO, sreg_toNat, scope_ofCode, order_ofCode, size_ofCode, vsize_ofCode, cond_ofCode, timeline_ofCode, specreg_ofCode, ofNat_toNat, Option.bind_some, if_true, and_self, true_and]
theorem vVxSyViCOZz_eq (f : VRegNo → SReg → VRegNo → Scope → Order → VSize → Instr) (v0 : VRegNo) (v1 : SReg) (v2 : VRegNo) (v3 : Scope) (v4 : Order) (v5 : VSize) : Dec.vVxSyViCOZz f v0.toNat v1.toNat v2.toNat v3.code v4.code v5.code = some (f v0 v1 v2 v3 v4 v5) := by
  simp only [Dec.vVxSyViCOZz, sreg_toNat, scope_ofCode, order_ofCode, size_ofCode, vsize_ofCode, cond_ofCode, timeline_ofCode, specreg_ofCode, ofNat_toNat, Option.bind_some, if_true, and_self, true_and]
theorem vVxSySCOZz_eq (f : VRegNo → SReg → SReg → Scope → Order → VSize → Instr) (v0 : VRegNo) (v1 : SReg) (v2 : SReg) (v3 : Scope) (v4 : Order) (v5 : VSize) : Dec.vVxSySCOZz f v0.toNat v1.toNat v2.toNat v3.code v4.code v5.code = some (f v0 v1 v2 v3 v4 v5) := by
  have hv2 : v2.toNat < 32 := v2.isLt
  simp only [Dec.vVxSySCOZz, sreg_toNat, scope_ofCode, order_ofCode, size_ofCode, vsize_ofCode, cond_ofCode, timeline_ofCode, specreg_ofCode, ofNat_toNat, Option.bind_some, if_true, and_self, true_and, Nat.div_eq_of_lt hv2, Nat.mod_eq_of_lt hv2]
theorem vaVxSyViO_eq (f : VRegNo → SReg → VRegNo → Order → Instr) (v0 : VRegNo) (v1 : SReg) (v2 : VRegNo) (v3 : Order) : Dec.vaVxSyViO f v0.toNat v1.toNat v2.toNat v3.code 0 = some (f v0 v1 v2 v3) := by
  simp only [Dec.vaVxSyViO, sreg_toNat, scope_ofCode, order_ofCode, size_ofCode, vsize_ofCode, cond_ofCode, timeline_ofCode, specreg_ofCode, ofNat_toNat, Option.bind_some, if_true, and_self, true_and]
theorem mCO_eq (f : Scope → Order → Instr) (v0 : Scope) (v1 : Order) : Dec.mCO f 0 0 v0.code v1.code 0 = some (f v0 v1) := by
  simp only [Dec.mCO, sreg_toNat, scope_ofCode, order_ofCode, size_ofCode, vsize_ofCode, cond_ofCode, timeline_ofCode, specreg_ofCode, ofNat_toNat, Option.bind_some, if_true, and_self, true_and]
theorem mC_eq (f : Scope → Instr) (v0 : Scope) : Dec.mC f 0 0 v0.code 0 0 = some (f v0) := by
  simp only [Dec.mC, sreg_toNat, scope_ofCode, order_ofCode, size_ofCode, vsize_ofCode, cond_ofCode, timeline_ofCode, specreg_ofCode, ofNat_toNat, Option.bind_some, if_true, and_self, true_and]
theorem m_eq (f : Instr)  : Dec.m f 0 0 0 0 0 = some (f) := by
  simp only [Dec.m, sreg_toNat, scope_ofCode, order_ofCode, size_ofCode, vsize_ofCode, cond_ofCode, timeline_ofCode, specreg_ofCode, ofNat_toNat, Option.bind_some, if_true, and_self, true_and]
theorem xSxSy_eq (f : SReg → SReg → Instr) (v0 : SReg) (v1 : SReg) : Dec.xSxSy f v0.toNat v1.toNat 0 = some (f v0 v1) := by
  simp only [Dec.xSxSy, sreg_toNat, scope_ofCode, order_ofCode, size_ofCode, vsize_ofCode, cond_ofCode, timeline_ofCode, specreg_ofCode, ofNat_toNat, Option.bind_some, if_true, and_self, true_and]
theorem xSy_eq (f : SReg → Instr) (v0 : SReg) : Dec.xSy f 0 v0.toNat 0 = some (f v0) := by
  simp only [Dec.xSy, sreg_toNat, scope_ofCode, order_ofCode, size_ofCode, vsize_ofCode, cond_ofCode, timeline_ofCode, specreg_ofCode, ofNat_toNat, Option.bind_some, if_true, and_self, true_and]
theorem xSxSyLz_eq (f : SReg → SReg → Timeline → Instr) (v0 : SReg) (v1 : SReg) (v2 : Timeline) : Dec.xSxSyLz f v0.toNat v1.toNat v2.code = some (f v0 v1 v2) := by
  simp only [Dec.xSxSyLz, sreg_toNat, scope_ofCode, order_ofCode, size_ofCode, vsize_ofCode, cond_ofCode, timeline_ofCode, specreg_ofCode, ofNat_toNat, Option.bind_some, if_true, and_self, true_and]
theorem xSxLz_eq (f : SReg → Timeline → Instr) (v0 : SReg) (v1 : Timeline) : Dec.xSxLz f v0.toNat 0 v1.code = some (f v0 v1) := by
  simp only [Dec.xSxLz, sreg_toNat, scope_ofCode, order_ofCode, size_ofCode, vsize_ofCode, cond_ofCode, timeline_ofCode, specreg_ofCode, ofNat_toNat, Option.bind_some, if_true, and_self, true_and]
theorem xSxSyT_eq (f : SReg → SReg → BitVec 2 → Instr) (v0 : SReg) (v1 : SReg) (v2 : BitVec 2) : Dec.xSxSyT f v0.toNat v1.toNat v2.toNat = some (f v0 v1 v2) := by
  have hv2 : v2.toNat < 4 := v2.isLt
  simp only [Dec.xSxSyT, sreg_toNat, scope_ofCode, order_ofCode, size_ofCode, vsize_ofCode, cond_ofCode, timeline_ofCode, specreg_ofCode, ofNat_toNat, Option.bind_some, if_true, and_self, true_and, Nat.div_eq_of_lt hv2, Nat.mod_eq_of_lt hv2]
theorem xSx_eq (f : SReg → Instr) (v0 : SReg) : Dec.xSx f v0.toNat 0 0 = some (f v0) := by
  simp only [Dec.xSx, sreg_toNat, scope_ofCode, order_ofCode, size_ofCode, vsize_ofCode, cond_ofCode, timeline_ofCode, specreg_ofCode, ofNat_toNat, Option.bind_some, if_true, and_self, true_and]
theorem xSxSyFZ_eq (f : SReg → SReg → Bool → VSize → Instr) (v0 : SReg) (v1 : SReg) (v2 : Bool) (v3 : VSize) : Dec.xSxSyFZ f v0.toNat v1.toNat (v2.toNat * 4 + v3.code) = some (f v0 v1 v2 v3) := by
  have := vsize_code_lt v3
  have := Bool.toNat_lt v2
  have e1 : (v2.toNat * 4 + v3.code) / 8 = 0 := by omega
  have e2 : (v2.toNat * 4 + v3.code) / 4 % 2 = v2.toNat := by omega
  have e3 : (v2.toNat * 4 + v3.code) % 4 = v3.code := by omega
  simp only [Dec.xSxSyFZ, sreg_toNat, scope_ofCode, order_ofCode, size_ofCode, vsize_ofCode, cond_ofCode, timeline_ofCode, specreg_ofCode, ofNat_toNat, Option.bind_some, if_true, and_self, true_and, e1, e2, e3, bool_toNat]
theorem xSxSyBz_eq (f : SReg → SReg → BitVec 7 → Instr) (v0 : SReg) (v1 : SReg) (v2 : BitVec 7) : Dec.xSxSyBz f v0.toNat v1.toNat v2.toNat = some (f v0 v1 v2) := by
  simp only [Dec.xSxSyBz, sreg_toNat, scope_ofCode, order_ofCode, size_ofCode, vsize_ofCode, cond_ofCode, timeline_ofCode, specreg_ofCode, ofNat_toNat, Option.bind_some, if_true, and_self, true_and]
theorem xVxSy_eq (f : VRegNo → SReg → Instr) (v0 : VRegNo) (v1 : SReg) : Dec.xVxSy f v0.toNat v1.toNat 0 = some (f v0 v1) := by
  simp only [Dec.xVxSy, sreg_toNat, scope_ofCode, order_ofCode, size_ofCode, vsize_ofCode, cond_ofCode, timeline_ofCode, specreg_ofCode, ofNat_toNat, Option.bind_some, if_true, and_self, true_and]
theorem xVx_eq (f : VRegNo → Instr) (v0 : VRegNo) : Dec.xVx f v0.toNat 0 0 = some (f v0) := by
  simp only [Dec.xVx, sreg_toNat, scope_ofCode, order_ofCode, size_ofCode, vsize_ofCode, cond_ofCode, timeline_ofCode, specreg_ofCode, ofNat_toNat, Option.bind_some, if_true, and_self, true_and]
theorem xSyBz_eq (f : SReg → BitVec 7 → Instr) (v0 : SReg) (v1 : BitVec 7) : Dec.xSyBz f 0 v0.toNat v1.toNat = some (f v0 v1) := by
  simp only [Dec.xSyBz, sreg_toNat, scope_ofCode, order_ofCode, size_ofCode, vsize_ofCode, cond_ofCode, timeline_ofCode, specreg_ofCode, ofNat_toNat, Option.bind_some, if_true, and_self, true_and]
theorem xSxBz_eq (f : SReg → BitVec 7 → Instr) (v0 : SReg) (v1 : BitVec 7) : Dec.xSxBz f v0.toNat 0 v1.toNat = some (f v0 v1) := by
  simp only [Dec.xSxBz, sreg_toNat, scope_ofCode, order_ofCode, size_ofCode, vsize_ofCode, cond_ofCode, timeline_ofCode, specreg_ofCode, ofNat_toNat, Option.bind_some, if_true, and_self, true_and]
theorem xSxT_eq (f : SReg → BitVec 2 → Instr) (v0 : SReg) (v1 : BitVec 2) : Dec.xSxT f v0.toNat 0 v1.toNat = some (f v0 v1) := by
  have hv1 : v1.toNat < 4 := v1.isLt
  simp only [Dec.xSxT, sreg_toNat, scope_ofCode, order_ofCode, size_ofCode, vsize_ofCode, cond_ofCode, timeline_ofCode, specreg_ofCode, ofNat_toNat, Option.bind_some, if_true, and_self, true_and, Nat.div_eq_of_lt hv1, Nat.mod_eq_of_lt hv1]
theorem xSyT_eq (f : SReg → BitVec 2 → Instr) (v0 : SReg) (v1 : BitVec 2) : Dec.xSyT f 0 v0.toNat v1.toNat = some (f v0 v1) := by
  have hv1 : v1.toNat < 4 := v1.isLt
  simp only [Dec.xSyT, sreg_toNat, scope_ofCode, order_ofCode, size_ofCode, vsize_ofCode, cond_ofCode, timeline_ofCode, specreg_ofCode, ofNat_toNat, Option.bind_some, if_true, and_self, true_and, Nat.div_eq_of_lt hv1, Nat.mod_eq_of_lt hv1]
theorem xSyR_eq (f : SReg → BitVec 4 → Instr) (v0 : SReg) (v1 : BitVec 4) : Dec.xSyR f 0 v0.toNat v1.toNat = some (f v0 v1) := by
  have hv1 : v1.toNat < 16 := v1.isLt
  simp only [Dec.xSyR, sreg_toNat, scope_ofCode, order_ofCode, size_ofCode, vsize_ofCode, cond_ofCode, timeline_ofCode, specreg_ofCode, ofNat_toNat, Option.bind_some, if_true, and_self, true_and, Nat.div_eq_of_lt hv1, Nat.mod_eq_of_lt hv1]
theorem xR_eq (f : BitVec 4 → Instr) (v0 : BitVec 4) : Dec.xR f 0 0 v0.toNat = some (f v0) := by
  have hv0 : v0.toNat < 16 := v0.isLt
  simp only [Dec.xR, sreg_toNat, scope_ofCode, order_ofCode, size_ofCode, vsize_ofCode, cond_ofCode, timeline_ofCode, specreg_ofCode, ofNat_toNat, Option.bind_some, if_true, and_self, true_and, Nat.div_eq_of_lt hv0, Nat.mod_eq_of_lt hv0]
theorem xSxSyKT_eq (f : SReg → SReg → BitVec 5 → BitVec 2 → Instr) (v0 : SReg) (v1 : SReg) (v2 : BitVec 5) (v3 : BitVec 2) : Dec.xSxSyKT f v0.toNat v1.toNat (v2.toNat * 4 + v3.toNat) = some (f v0 v1 v2 v3) := by
  have e1 : (v2.toNat * 4 + v3.toNat) / 4 = v2.toNat := by omega
  have e2 : (v2.toNat * 4 + v3.toNat) % 4 = v3.toNat := by omega
  simp only [Dec.xSxSyKT, sreg_toNat, scope_ofCode, order_ofCode, size_ofCode, vsize_ofCode, cond_ofCode, timeline_ofCode, specreg_ofCode, ofNat_toNat, Option.bind_some, if_true, and_self, true_and, e1, e2]
theorem xT_eq (f : BitVec 2 → Instr) (v0 : BitVec 2) : Dec.xT f 0 0 v0.toNat = some (f v0) := by
  have hv0 : v0.toNat < 4 := v0.isLt
  simp only [Dec.xT, sreg_toNat, scope_ofCode, order_ofCode, size_ofCode, vsize_ofCode, cond_ofCode, timeline_ofCode, specreg_ofCode, ofNat_toNat, Option.bind_some, if_true, and_self, true_and, Nat.div_eq_of_lt hv0, Nat.mod_eq_of_lt hv0]
theorem xVxSyT_eq (f : VRegNo → SReg → BitVec 2 → Instr) (v0 : VRegNo) (v1 : SReg) (v2 : BitVec 2) : Dec.xVxSyT f v0.toNat v1.toNat v2.toNat = some (f v0 v1 v2) := by
  have hv2 : v2.toNat < 4 := v2.isLt
  simp only [Dec.xVxSyT, sreg_toNat, scope_ofCode, order_ofCode, size_ofCode, vsize_ofCode, cond_ofCode, timeline_ofCode, specreg_ofCode, ofNat_toNat, Option.bind_some, if_true, and_self, true_and, Nat.div_eq_of_lt hv2, Nat.mod_eq_of_lt hv2]
theorem x_eq (f : Instr)  : Dec.x f 0 0 0 = some (f) := by
  simp only [Dec.x, sreg_toNat, scope_ofCode, order_ofCode, size_ofCode, vsize_ofCode, cond_ofCode, timeline_ofCode, specreg_ofCode, ofNat_toNat, Option.bind_some, if_true, and_self, true_and]
theorem xCxSyBz_eq (f : Cond → SReg → BitVec 7 → Instr) (v0 : Cond) (v1 : SReg) (v2 : BitVec 7) : Dec.xCxSyBz f v0.code v1.toNat v2.toNat = some (f v0 v1 v2) := by
  simp only [Dec.xCxSyBz, sreg_toNat, scope_ofCode, order_ofCode, size_ofCode, vsize_ofCode, cond_ofCode, timeline_ofCode, specreg_ofCode, ofNat_toNat, Option.bind_some, if_true, and_self, true_and]
theorem xVxSyF_eq (f : VRegNo → SReg → Bool → Instr) (v0 : VRegNo) (v1 : SReg) (v2 : Bool) : Dec.xVxSyF f v0.toNat v1.toNat v2.toNat = some (f v0 v1 v2) := by
  have := Bool.toNat_lt v2
  have e1 : v2.toNat / 2 = 0 := by omega
  have e2 : v2.toNat % 2 = v2.toNat := by omega
  simp only [Dec.xVxSyF, sreg_toNat, scope_ofCode, order_ofCode, size_ofCode, vsize_ofCode, cond_ofCode, timeline_ofCode, specreg_ofCode, ofNat_toNat, Option.bind_some, if_true, and_self, true_and, e1, e2, bool_toNat]
theorem xBxFFF_eq (f : BitVec 7 → Bool → Bool → Bool → Instr) (v0 : BitVec 7) (v1 : Bool) (v2 : Bool) (v3 : Bool) : Dec.xBxFFF f v0.toNat 0 (v1.toNat * 4 + v2.toNat * 2 + v3.toNat) = some (f v0 v1 v2 v3) := by
  have := Bool.toNat_lt v1
  have := Bool.toNat_lt v2
  have := Bool.toNat_lt v3
  have e1 : (v1.toNat * 4 + v2.toNat * 2 + v3.toNat) / 8 = 0 := by omega
  have e2 : (v1.toNat * 4 + v2.toNat * 2 + v3.toNat) / 4 % 2 = v1.toNat := by omega
  have e3 : (v1.toNat * 4 + v2.toNat * 2 + v3.toNat) / 2 % 2 = v2.toNat := by omega
  have e4 : (v1.toNat * 4 + v2.toNat * 2 + v3.toNat) % 2 = v3.toNat := by omega
  simp only [Dec.xBxFFF, sreg_toNat, scope_ofCode, order_ofCode, size_ofCode, vsize_ofCode, cond_ofCode, timeline_ofCode, specreg_ofCode, ofNat_toNat, Option.bind_some, if_true, and_self, true_and, e1, e2, e3, e4, bool_toNat]
theorem xSxSy2_eq (f : SReg → SReg → Instr) (v0 : SReg) (v1 : SReg) : Dec.xSxSy2 f v0.toNat v1.toNat = some (f v0 v1) := by
  simp only [Dec.xSxSy2, sreg_toNat, scope_ofCode, order_ofCode, size_ofCode, vsize_ofCode, cond_ofCode, timeline_ofCode, specreg_ofCode, ofNat_toNat, Option.bind_some, if_true, and_self, true_and]
theorem xSxPz_eq (f : SReg → SpecReg → Instr) (v0 : SReg) (v1 : SpecReg) : Dec.xSxPz f v0.toNat 0 v1.code = some (f v0 v1) := by
  simp only [Dec.xSxPz, sreg_toNat, scope_ofCode, order_ofCode, size_ofCode, vsize_ofCode, cond_ofCode, timeline_ofCode, specreg_ofCode, ofNat_toNat, Option.bind_some, if_true, and_self, true_and]
theorem xSyPz_eq (f : SReg → SpecReg → Instr) (v0 : SReg) (v1 : SpecReg) : Dec.xSyPz f 0 v0.toNat v1.code = some (f v0 v1) := by
  simp only [Dec.xSyPz, sreg_toNat, scope_ofCode, order_ofCode, size_ofCode, vsize_ofCode, cond_ofCode, timeline_ofCode, specreg_ofCode, ofNat_toNat, Option.bind_some, if_true, and_self, true_and]
theorem xBz_eq (f : BitVec 7 → Instr) (v0 : BitVec 7) : Dec.xBz f 0 0 v0.toNat = some (f v0) := by
  simp only [Dec.xBz, sreg_toNat, scope_ofCode, order_ofCode, size_ofCode, vsize_ofCode, cond_ofCode, timeline_ofCode, specreg_ofCode, ofNat_toNat, Option.bind_some, if_true, and_self, true_and]

/-! ## The round trip -/

/-- The words of a well-formed instruction decode to it, whatever follows them. -/
def RoundTrip.Statement (i : Instr) : Prop :=
  encode i ≠ [] → i.wf = true → ∀ rest : List (BitVec 32), decode (encode i ++ rest) = .ok (i, rest)

theorem RoundTrip.add (d : SReg) (a : SReg) (b : SReg) : RoundTrip.Statement (.add d a b) := fun _ hwf rest =>
  accepts (decode_packA rest rfl (by decide) (by decide) (Nat.lt_of_lt_of_le d.isLt (by decide)) (Nat.lt_of_lt_of_le a.isLt (by decide)) (Nat.lt_of_lt_of_le b.isLt (by decide)))
    (congrArg fields (aSxSySz_eq .add d a b)) hwf
theorem RoundTrip.sub (d : SReg) (a : SReg) (b : SReg) : RoundTrip.Statement (.sub d a b) := fun _ hwf rest =>
  accepts (decode_packA rest rfl (by decide) (by decide) (Nat.lt_of_lt_of_le d.isLt (by decide)) (Nat.lt_of_lt_of_le a.isLt (by decide)) (Nat.lt_of_lt_of_le b.isLt (by decide)))
    (congrArg fields (aSxSySz_eq .sub d a b)) hwf
theorem RoundTrip.and (d : SReg) (a : SReg) (b : SReg) : RoundTrip.Statement (.and d a b) := fun _ hwf rest =>
  accepts (decode_packA rest rfl (by decide) (by decide) (Nat.lt_of_lt_of_le d.isLt (by decide)) (Nat.lt_of_lt_of_le a.isLt (by decide)) (Nat.lt_of_lt_of_le b.isLt (by decide)))
    (congrArg fields (aSxSySz_eq .and d a b)) hwf
theorem RoundTrip.or (d : SReg) (a : SReg) (b : SReg) : RoundTrip.Statement (.or d a b) := fun _ hwf rest =>
  accepts (decode_packA rest rfl (by decide) (by decide) (Nat.lt_of_lt_of_le d.isLt (by decide)) (Nat.lt_of_lt_of_le a.isLt (by decide)) (Nat.lt_of_lt_of_le b.isLt (by decide)))
    (congrArg fields (aSxSySz_eq .or d a b)) hwf
theorem RoundTrip.xor (d : SReg) (a : SReg) (b : SReg) : RoundTrip.Statement (.xor d a b) := fun _ hwf rest =>
  accepts (decode_packA rest rfl (by decide) (by decide) (Nat.lt_of_lt_of_le d.isLt (by decide)) (Nat.lt_of_lt_of_le a.isLt (by decide)) (Nat.lt_of_lt_of_le b.isLt (by decide)))
    (congrArg fields (aSxSySz_eq .xor d a b)) hwf
theorem RoundTrip.andn (d : SReg) (a : SReg) (b : SReg) : RoundTrip.Statement (.andn d a b) := fun _ hwf rest =>
  accepts (decode_packA rest rfl (by decide) (by decide) (Nat.lt_of_lt_of_le d.isLt (by decide)) (Nat.lt_of_lt_of_le a.isLt (by decide)) (Nat.lt_of_lt_of_le b.isLt (by decide)))
    (congrArg fields (aSxSySz_eq .andn d a b)) hwf
theorem RoundTrip.shl (d : SReg) (a : SReg) (b : SReg) : RoundTrip.Statement (.shl d a b) := fun _ hwf rest =>
  accepts (decode_packA rest rfl (by decide) (by decide) (Nat.lt_of_lt_of_le d.isLt (by decide)) (Nat.lt_of_lt_of_le a.isLt (by decide)) (Nat.lt_of_lt_of_le b.isLt (by decide)))
    (congrArg fields (aSxSySz_eq .shl d a b)) hwf
theorem RoundTrip.shr (d : SReg) (a : SReg) (b : SReg) : RoundTrip.Statement (.shr d a b) := fun _ hwf rest =>
  accepts (decode_packA rest rfl (by decide) (by decide) (Nat.lt_of_lt_of_le d.isLt (by decide)) (Nat.lt_of_lt_of_le a.isLt (by decide)) (Nat.lt_of_lt_of_le b.isLt (by decide)))
    (congrArg fields (aSxSySz_eq .shr d a b)) hwf
theorem RoundTrip.sar (d : SReg) (a : SReg) (b : SReg) : RoundTrip.Statement (.sar d a b) := fun _ hwf rest =>
  accepts (decode_packA rest rfl (by decide) (by decide) (Nat.lt_of_lt_of_le d.isLt (by decide)) (Nat.lt_of_lt_of_le a.isLt (by decide)) (Nat.lt_of_lt_of_le b.isLt (by decide)))
    (congrArg fields (aSxSySz_eq .sar d a b)) hwf
theorem RoundTrip.ror (d : SReg) (a : SReg) (b : SReg) : RoundTrip.Statement (.ror d a b) := fun _ hwf rest =>
  accepts (decode_packA rest rfl (by decide) (by decide) (Nat.lt_of_lt_of_le d.isLt (by decide)) (Nat.lt_of_lt_of_le a.isLt (by decide)) (Nat.lt_of_lt_of_le b.isLt (by decide)))
    (congrArg fields (aSxSySz_eq .ror d a b)) hwf
theorem RoundTrip.mul (d : SReg) (a : SReg) (b : SReg) : RoundTrip.Statement (.mul d a b) := fun _ hwf rest =>
  accepts (decode_packA rest rfl (by decide) (by decide) (Nat.lt_of_lt_of_le d.isLt (by decide)) (Nat.lt_of_lt_of_le a.isLt (by decide)) (Nat.lt_of_lt_of_le b.isLt (by decide)))
    (congrArg fields (aSxSySz_eq .mul d a b)) hwf
theorem RoundTrip.mulh (d : SReg) (a : SReg) (b : SReg) : RoundTrip.Statement (.mulh d a b) := fun _ hwf rest =>
  accepts (decode_packA rest rfl (by decide) (by decide) (Nat.lt_of_lt_of_le d.isLt (by decide)) (Nat.lt_of_lt_of_le a.isLt (by decide)) (Nat.lt_of_lt_of_le b.isLt (by decide)))
    (congrArg fields (aSxSySz_eq .mulh d a b)) hwf
theorem RoundTrip.mulhu (d : SReg) (a : SReg) (b : SReg) : RoundTrip.Statement (.mulhu d a b) := fun _ hwf rest =>
  accepts (decode_packA rest rfl (by decide) (by decide) (Nat.lt_of_lt_of_le d.isLt (by decide)) (Nat.lt_of_lt_of_le a.isLt (by decide)) (Nat.lt_of_lt_of_le b.isLt (by decide)))
    (congrArg fields (aSxSySz_eq .mulhu d a b)) hwf
theorem RoundTrip.div (d : SReg) (a : SReg) (b : SReg) : RoundTrip.Statement (.div d a b) := fun _ hwf rest =>
  accepts (decode_packA rest rfl (by decide) (by decide) (Nat.lt_of_lt_of_le d.isLt (by decide)) (Nat.lt_of_lt_of_le a.isLt (by decide)) (Nat.lt_of_lt_of_le b.isLt (by decide)))
    (congrArg fields (aSxSySz_eq .div d a b)) hwf
theorem RoundTrip.divu (d : SReg) (a : SReg) (b : SReg) : RoundTrip.Statement (.divu d a b) := fun _ hwf rest =>
  accepts (decode_packA rest rfl (by decide) (by decide) (Nat.lt_of_lt_of_le d.isLt (by decide)) (Nat.lt_of_lt_of_le a.isLt (by decide)) (Nat.lt_of_lt_of_le b.isLt (by decide)))
    (congrArg fields (aSxSySz_eq .divu d a b)) hwf
theorem RoundTrip.rem (d : SReg) (a : SReg) (b : SReg) : RoundTrip.Statement (.rem d a b) := fun _ hwf rest =>
  accepts (decode_packA rest rfl (by decide) (by decide) (Nat.lt_of_lt_of_le d.isLt (by decide)) (Nat.lt_of_lt_of_le a.isLt (by decide)) (Nat.lt_of_lt_of_le b.isLt (by decide)))
    (congrArg fields (aSxSySz_eq .rem d a b)) hwf
theorem RoundTrip.remu (d : SReg) (a : SReg) (b : SReg) : RoundTrip.Statement (.remu d a b) := fun _ hwf rest =>
  accepts (decode_packA rest rfl (by decide) (by decide) (Nat.lt_of_lt_of_le d.isLt (by decide)) (Nat.lt_of_lt_of_le a.isLt (by decide)) (Nat.lt_of_lt_of_le b.isLt (by decide)))
    (congrArg fields (aSxSySz_eq .remu d a b)) hwf
theorem RoundTrip.min (d : SReg) (a : SReg) (b : SReg) : RoundTrip.Statement (.min d a b) := fun _ hwf rest =>
  accepts (decode_packA rest rfl (by decide) (by decide) (Nat.lt_of_lt_of_le d.isLt (by decide)) (Nat.lt_of_lt_of_le a.isLt (by decide)) (Nat.lt_of_lt_of_le b.isLt (by decide)))
    (congrArg fields (aSxSySz_eq .min d a b)) hwf
theorem RoundTrip.max (d : SReg) (a : SReg) (b : SReg) : RoundTrip.Statement (.max d a b) := fun _ hwf rest =>
  accepts (decode_packA rest rfl (by decide) (by decide) (Nat.lt_of_lt_of_le d.isLt (by decide)) (Nat.lt_of_lt_of_le a.isLt (by decide)) (Nat.lt_of_lt_of_le b.isLt (by decide)))
    (congrArg fields (aSxSySz_eq .max d a b)) hwf
theorem RoundTrip.minu (d : SReg) (a : SReg) (b : SReg) : RoundTrip.Statement (.minu d a b) := fun _ hwf rest =>
  accepts (decode_packA rest rfl (by decide) (by decide) (Nat.lt_of_lt_of_le d.isLt (by decide)) (Nat.lt_of_lt_of_le a.isLt (by decide)) (Nat.lt_of_lt_of_le b.isLt (by decide)))
    (congrArg fields (aSxSySz_eq .minu d a b)) hwf
theorem RoundTrip.maxu (d : SReg) (a : SReg) (b : SReg) : RoundTrip.Statement (.maxu d a b) := fun _ hwf rest =>
  accepts (decode_packA rest rfl (by decide) (by decide) (Nat.lt_of_lt_of_le d.isLt (by decide)) (Nat.lt_of_lt_of_le a.isLt (by decide)) (Nat.lt_of_lt_of_le b.isLt (by decide)))
    (congrArg fields (aSxSySz_eq .maxu d a b)) hwf
theorem RoundTrip.seq (d : SReg) (a : SReg) (b : SReg) : RoundTrip.Statement (.seq d a b) := fun _ hwf rest =>
  accepts (decode_packA rest rfl (by decide) (by decide) (Nat.lt_of_lt_of_le d.isLt (by decide)) (Nat.lt_of_lt_of_le a.isLt (by decide)) (Nat.lt_of_lt_of_le b.isLt (by decide)))
    (congrArg fields (aSxSySz_eq .seq d a b)) hwf
theorem RoundTrip.sne (d : SReg) (a : SReg) (b : SReg) : RoundTrip.Statement (.sne d a b) := fun _ hwf rest =>
  accepts (decode_packA rest rfl (by decide) (by decide) (Nat.lt_of_lt_of_le d.isLt (by decide)) (Nat.lt_of_lt_of_le a.isLt (by decide)) (Nat.lt_of_lt_of_le b.isLt (by decide)))
    (congrArg fields (aSxSySz_eq .sne d a b)) hwf
theorem RoundTrip.slt (d : SReg) (a : SReg) (b : SReg) : RoundTrip.Statement (.slt d a b) := fun _ hwf rest =>
  accepts (decode_packA rest rfl (by decide) (by decide) (Nat.lt_of_lt_of_le d.isLt (by decide)) (Nat.lt_of_lt_of_le a.isLt (by decide)) (Nat.lt_of_lt_of_le b.isLt (by decide)))
    (congrArg fields (aSxSySz_eq .slt d a b)) hwf
theorem RoundTrip.sltu (d : SReg) (a : SReg) (b : SReg) : RoundTrip.Statement (.sltu d a b) := fun _ hwf rest =>
  accepts (decode_packA rest rfl (by decide) (by decide) (Nat.lt_of_lt_of_le d.isLt (by decide)) (Nat.lt_of_lt_of_le a.isLt (by decide)) (Nat.lt_of_lt_of_le b.isLt (by decide)))
    (congrArg fields (aSxSySz_eq .sltu d a b)) hwf
theorem RoundTrip.sle (d : SReg) (a : SReg) (b : SReg) : RoundTrip.Statement (.sle d a b) := fun _ hwf rest =>
  accepts (decode_packA rest rfl (by decide) (by decide) (Nat.lt_of_lt_of_le d.isLt (by decide)) (Nat.lt_of_lt_of_le a.isLt (by decide)) (Nat.lt_of_lt_of_le b.isLt (by decide)))
    (congrArg fields (aSxSySz_eq .sle d a b)) hwf
theorem RoundTrip.sleu (d : SReg) (a : SReg) (b : SReg) : RoundTrip.Statement (.sleu d a b) := fun _ hwf rest =>
  accepts (decode_packA rest rfl (by decide) (by decide) (Nat.lt_of_lt_of_le d.isLt (by decide)) (Nat.lt_of_lt_of_le a.isLt (by decide)) (Nat.lt_of_lt_of_le b.isLt (by decide)))
    (congrArg fields (aSxSySz_eq .sleu d a b)) hwf
theorem RoundTrip.clz (d : SReg) (a : SReg) : RoundTrip.Statement (.clz d a) := fun _ hwf rest =>
  accepts (decode_packA rest rfl (by decide) (by decide) (Nat.lt_of_lt_of_le d.isLt (by decide)) (Nat.lt_of_lt_of_le a.isLt (by decide)) (by decide))
    (congrArg fields (aSxSy_eq .clz d a)) hwf
theorem RoundTrip.popc (d : SReg) (a : SReg) : RoundTrip.Statement (.popc d a) := fun _ hwf rest =>
  accepts (decode_packA rest rfl (by decide) (by decide) (Nat.lt_of_lt_of_le d.isLt (by decide)) (Nat.lt_of_lt_of_le a.isLt (by decide)) (by decide))
    (congrArg fields (aSxSy_eq .popc d a)) hwf
theorem RoundTrip.brev (d : SReg) (a : SReg) : RoundTrip.Statement (.brev d a) := fun _ hwf rest =>
  accepts (decode_packA rest rfl (by decide) (by decide) (Nat.lt_of_lt_of_le d.isLt (by decide)) (Nat.lt_of_lt_of_le a.isLt (by decide)) (by decide))
    (congrArg fields (aSxSy_eq .brev d a)) hwf
theorem RoundTrip.addw (d : SReg) (a : SReg) (b : SReg) : RoundTrip.Statement (.addw d a b) := fun _ hwf rest =>
  accepts (decode_packA rest rfl (by decide) (by decide) (Nat.lt_of_lt_of_le d.isLt (by decide)) (Nat.lt_of_lt_of_le a.isLt (by decide)) (Nat.lt_of_lt_of_le b.isLt (by decide)))
    (congrArg fields (aSxSySz_eq .addw d a b)) hwf
theorem RoundTrip.subw (d : SReg) (a : SReg) (b : SReg) : RoundTrip.Statement (.subw d a b) := fun _ hwf rest =>
  accepts (decode_packA rest rfl (by decide) (by decide) (Nat.lt_of_lt_of_le d.isLt (by decide)) (Nat.lt_of_lt_of_le a.isLt (by decide)) (Nat.lt_of_lt_of_le b.isLt (by decide)))
    (congrArg fields (aSxSySz_eq .subw d a b)) hwf
theorem RoundTrip.addi (d : SReg) (a : SReg) (i : BitVec 12) : RoundTrip.Statement (.addi d a i) := fun _ hwf rest =>
  accepts (decode_packB rest rfl (by decide) (Nat.lt_of_lt_of_le d.isLt (by decide)) (Nat.lt_of_lt_of_le a.isLt (by decide)) i.isLt)
    (congrArg fields (bSxSyIz_eq .addi d a i)) hwf
theorem RoundTrip.andi (d : SReg) (a : SReg) (i : BitVec 12) : RoundTrip.Statement (.andi d a i) := fun _ hwf rest =>
  accepts (decode_packB rest rfl (by decide) (Nat.lt_of_lt_of_le d.isLt (by decide)) (Nat.lt_of_lt_of_le a.isLt (by decide)) i.isLt)
    (congrArg fields (bSxSyIz_eq .andi d a i)) hwf
theorem RoundTrip.ori (d : SReg) (a : SReg) (i : BitVec 12) : RoundTrip.Statement (.ori d a i) := fun _ hwf rest =>
  accepts (decode_packB rest rfl (by decide) (Nat.lt_of_lt_of_le d.isLt (by decide)) (Nat.lt_of_lt_of_le a.isLt (by decide)) i.isLt)
    (congrArg fields (bSxSyIz_eq .ori d a i)) hwf
theorem RoundTrip.xori (d : SReg) (a : SReg) (i : BitVec 12) : RoundTrip.Statement (.xori d a i) := fun _ hwf rest =>
  accepts (decode_packB rest rfl (by decide) (Nat.lt_of_lt_of_le d.isLt (by decide)) (Nat.lt_of_lt_of_le a.isLt (by decide)) i.isLt)
    (congrArg fields (bSxSyIz_eq .xori d a i)) hwf
theorem RoundTrip.slti (d : SReg) (a : SReg) (i : BitVec 12) : RoundTrip.Statement (.slti d a i) := fun _ hwf rest =>
  accepts (decode_packB rest rfl (by decide) (Nat.lt_of_lt_of_le d.isLt (by decide)) (Nat.lt_of_lt_of_le a.isLt (by decide)) i.isLt)
    (congrArg fields (bSxSyIz_eq .slti d a i)) hwf
theorem RoundTrip.sltiu (d : SReg) (a : SReg) (i : BitVec 12) : RoundTrip.Statement (.sltiu d a i) := fun _ hwf rest =>
  accepts (decode_packB rest rfl (by decide) (Nat.lt_of_lt_of_le d.isLt (by decide)) (Nat.lt_of_lt_of_le a.isLt (by decide)) i.isLt)
    (congrArg fields (bSxSyIz_eq .sltiu d a i)) hwf
theorem RoundTrip.shli (d : SReg) (a : SReg) (n : BitVec 6) : RoundTrip.Statement (.shli d a n) := fun _ hwf rest =>
  accepts (decode_packA rest rfl (by decide) (by decide) (Nat.lt_of_lt_of_le d.isLt (by decide)) (Nat.lt_of_lt_of_le a.isLt (by decide)) (Nat.lt_of_lt_of_le n.isLt (by decide)))
    (congrArg fields (aSxSyN_eq .shli d a n)) hwf
theorem RoundTrip.shri (d : SReg) (a : SReg) (n : BitVec 6) : RoundTrip.Statement (.shri d a n) := fun _ hwf rest =>
  accepts (decode_packA rest rfl (by decide) (by decide) (Nat.lt_of_lt_of_le d.isLt (by decide)) (Nat.lt_of_lt_of_le a.isLt (by decide)) (Nat.lt_of_lt_of_le n.isLt (by decide)))
    (congrArg fields (aSxSyN_eq .shri d a n)) hwf
theorem RoundTrip.sari (d : SReg) (a : SReg) (n : BitVec 6) : RoundTrip.Statement (.sari d a n) := fun _ hwf rest =>
  accepts (decode_packA rest rfl (by decide) (by decide) (Nat.lt_of_lt_of_le d.isLt (by decide)) (Nat.lt_of_lt_of_le a.isLt (by decide)) (Nat.lt_of_lt_of_le n.isLt (by decide)))
    (congrArg fields (aSxSyN_eq .sari d a n)) hwf
theorem RoundTrip.rori (d : SReg) (a : SReg) (n : BitVec 6) : RoundTrip.Statement (.rori d a n) := fun _ hwf rest =>
  accepts (decode_packA rest rfl (by decide) (by decide) (Nat.lt_of_lt_of_le d.isLt (by decide)) (Nat.lt_of_lt_of_le a.isLt (by decide)) (Nat.lt_of_lt_of_le n.isLt (by decide)))
    (congrArg fields (aSxSyN_eq .rori d a n)) hwf
theorem RoundTrip.lui (d : SReg) (i : BitVec 19) : RoundTrip.Statement (.lui d i) := fun _ hwf rest =>
  accepts (decode_packC rest rfl (by decide) (Nat.lt_of_lt_of_le d.isLt (by decide)) i.isLt)
    (congrArg fields (cSxIy_eq .lui d i)) hwf
theorem RoundTrip.addpc (d : SReg) (i : BitVec 19) : RoundTrip.Statement (.addpc d i) := fun _ hwf rest =>
  accepts (decode_packC rest rfl (by decide) (Nat.lt_of_lt_of_le d.isLt (by decide)) i.isLt)
    (congrArg fields (cSxIy_eq .addpc d i)) hwf
theorem decodeLit_movl {w : BitVec 32} {d : SReg} (lit : BitVec 32) (h1 : fld w 19 7 = d.toNat) (h2 : fld w 0 19 = 0) :
    decodeLit w lit = .ok (.movl d lit) := by
  unfold decodeLit; rw [h1, h2, sreg_toNat]; rfl

theorem word_movl (d : SReg) : fmtOf (major (packC 11 d.toNat 0)) = .lit ∧ fld (packC 11 d.toNat 0) 19 7 = d.toNat ∧
    fld (packC 11 d.toNat 0) 0 19 = 0 := by
  obtain ⟨e0, e1, e2⟩ := packC_fields (m := 11) (x := d.toNat) (y := 0) (by decide) (Nat.lt_of_lt_of_le d.isLt (by decide)) (by decide)
  rw [e0]; exact ⟨rfl, e1, e2⟩

theorem RoundTrip.movl (d : SReg) (lit : BitVec 32) : RoundTrip.Statement (.movl d lit) := fun _ hwf rest =>
  accepts (decode_literal lit rest (word_movl d).1) (decodeLit_movl lit (word_movl d).2.1 (word_movl d).2.2) hwf
theorem decodeLit_movlz {w : BitVec 32} {d : SReg} (lit : BitVec 32) (h1 : fld w 19 7 = d.toNat) (h2 : fld w 0 19 = 1) :
    decodeLit w lit = .ok (.movlz d lit) := by
  unfold decodeLit; rw [h1, h2, sreg_toNat]; rfl

theorem word_movlz (d : SReg) : fmtOf (major (packC 11 d.toNat 1)) = .lit ∧ fld (packC 11 d.toNat 1) 19 7 = d.toNat ∧
    fld (packC 11 d.toNat 1) 0 19 = 1 := by
  obtain ⟨e0, e1, e2⟩ := packC_fields (m := 11) (x := d.toNat) (y := 1) (by decide) (Nat.lt_of_lt_of_le d.isLt (by decide)) (by decide)
  rw [e0]; exact ⟨rfl, e1, e2⟩

theorem RoundTrip.movlz (d : SReg) (lit : BitVec 32) : RoundTrip.Statement (.movlz d lit) := fun _ hwf rest =>
  accepts (decode_literal lit rest (word_movlz d).1) (decodeLit_movlz lit (word_movlz d).2.1 (word_movlz d).2.2) hwf
theorem decodeLit_movlh {w : BitVec 32} {d : SReg} (lit : BitVec 32) (h1 : fld w 19 7 = d.toNat) (h2 : fld w 0 19 = 2) :
    decodeLit w lit = .ok (.movlh d lit) := by
  unfold decodeLit; rw [h1, h2, sreg_toNat]; rfl

theorem word_movlh (d : SReg) : fmtOf (major (packC 11 d.toNat 2)) = .lit ∧ fld (packC 11 d.toNat 2) 19 7 = d.toNat ∧
    fld (packC 11 d.toNat 2) 0 19 = 2 := by
  obtain ⟨e0, e1, e2⟩ := packC_fields (m := 11) (x := d.toNat) (y := 2) (by decide) (Nat.lt_of_lt_of_le d.isLt (by decide)) (by decide)
  rw [e0]; exact ⟨rfl, e1, e2⟩

theorem RoundTrip.movlh (d : SReg) (lit : BitVec 32) : RoundTrip.Statement (.movlh d lit) := fun _ hwf rest =>
  accepts (decode_literal lit rest (word_movlh d).1) (decodeLit_movlh lit (word_movlh d).2.1 (word_movlh d).2.2) hwf
theorem RoundTrip.take (ta tb : Bool) : RoundTrip.Statement (.take ta tb) := fun _ hwf rest =>
  accepts (decode_plain rest (f := .take) (by cases ta <;> cases tb <;> rfl) (by decide))
    (by cases ta <;> cases tb <;> rfl) hwf
theorem RoundTrip.br (i : BitVec 19) : RoundTrip.Statement (.br i) := fun _ hwf rest =>
  accepts (decode_packC rest rfl (by decide) (by decide) i.isLt)
    (congrArg fields (cIy_eq .br i)) hwf
theorem RoundTrip.bc (c : Cond) (a : SReg) (i : BitVec 12) : RoundTrip.Statement (.bc c a i) := fun _ hwf rest =>
  accepts (decode_packB rest rfl (by decide) (cond_code_lt c) (Nat.lt_of_lt_of_le a.isLt (by decide)) i.isLt)
    (congrArg fields (bCxSyIz_eq .bc c a i)) hwf
theorem RoundTrip.jr (a : SReg) : RoundTrip.Statement (.jr a) := fun _ hwf rest =>
  accepts (decode_packA rest rfl (by decide) (by decide) (by decide) (Nat.lt_of_lt_of_le a.isLt (by decide)) (by decide))
    (congrArg fields (aSy_eq .jr a)) hwf
theorem RoundTrip.jalr (d : SReg) (a : SReg) : RoundTrip.Statement (.jalr d a) := fun _ hwf rest =>
  accepts (decode_packA rest rfl (by decide) (by decide) (Nat.lt_of_lt_of_le d.isLt (by decide)) (Nat.lt_of_lt_of_le a.isLt (by decide)) (by decide))
    (congrArg fields (aSxSy_eq .jalr d a)) hwf
theorem RoundTrip.bal (d : SReg) (i : BitVec 19) : RoundTrip.Statement (.bal d i) := fun _ hwf rest =>
  accepts (decode_packC rest rfl (by decide) (Nat.lt_of_lt_of_le d.isLt (by decide)) i.isLt)
    (congrArg fields (cSxIy_eq .bal d i)) hwf
theorem RoundTrip.loop (a : SReg) (i : BitVec 12) : RoundTrip.Statement (.loop a i) := fun _ hwf rest =>
  accepts (decode_packB rest rfl (by decide) (by decide) (Nat.lt_of_lt_of_le a.isLt (by decide)) i.isLt)
    (congrArg fields (bSyIz_eq .loop a i)) hwf
theorem RoundTrip.vif (c : VRegNo) : RoundTrip.Statement (.vif c) := fun _ hwf rest =>
  accepts (decode_packA rest rfl (by decide) (by decide) (by decide) c.isLt (by decide))
    (congrArg fields (aVy_eq .vif c)) hwf
theorem RoundTrip.vifz (c : VRegNo) : RoundTrip.Statement (.vifz c) := fun _ hwf rest =>
  accepts (decode_packA rest rfl (by decide) (by decide) (by decide) c.isLt (by decide))
    (congrArg fields (aVy_eq .vifz c)) hwf
theorem RoundTrip.velse  : RoundTrip.Statement (.velse) := fun _ hwf rest =>
  accepts (decode_packA rest rfl (by decide) (by decide) (by decide) (by decide) (by decide))
    (congrArg fields (a_eq .velse )) hwf
theorem RoundTrip.vendif  : RoundTrip.Statement (.vendif) := fun _ hwf rest =>
  accepts (decode_packA rest rfl (by decide) (by decide) (by decide) (by decide) (by decide))
    (congrArg fields (a2_eq .vendif )) hwf
theorem RoundTrip.vendifLx  : RoundTrip.Statement (.vendifLx) := fun _ hwf rest =>
  accepts (decode_packA rest rfl (by decide) (by decide) (by decide) (by decide) (by decide))
    (congrArg fields (a2_eq .vendifLx )) hwf
theorem RoundTrip.vloopb  : RoundTrip.Statement (.vloopb) := fun _ hwf rest =>
  accepts (decode_packA rest rfl (by decide) (by decide) (by decide) (by decide) (by decide))
    (congrArg fields (a_eq .vloopb )) hwf
theorem RoundTrip.vbrk (c : VRegNo) (n : BitVec 7) : RoundTrip.Statement (.vbrk c n) := fun _ hwf rest =>
  accepts (decode_packA rest rfl (by decide) (by decide) (by decide) c.isLt n.isLt)
    (congrArg fields (aVyBz_eq .vbrk c n)) hwf
theorem RoundTrip.vcont (c : VRegNo) (n : BitVec 7) : RoundTrip.Statement (.vcont c n) := fun _ hwf rest =>
  accepts (decode_packA rest rfl (by decide) (by decide) (by decide) c.isLt n.isLt)
    (congrArg fields (aVyBz_eq .vcont c n)) hwf
theorem RoundTrip.vloope (d : SReg) (c : VRegNo) : RoundTrip.Statement (.vloope d c) := fun _ hwf rest =>
  accepts (decode_packA rest rfl (by decide) (by decide) (Nat.lt_of_lt_of_le d.isLt (by decide)) c.isLt (by decide))
    (congrArg fields (aSxVy_eq .vloope d c)) hwf
theorem RoundTrip.vgetnc (d : VRegNo) : RoundTrip.Statement (.vgetnc d) := fun _ hwf rest =>
  accepts (decode_packA rest rfl (by decide) (by decide) d.isLt (by decide) (by decide))
    (congrArg fields (aVx_eq .vgetnc d)) hwf
theorem RoundTrip.vsetnc (s : VRegNo) : RoundTrip.Statement (.vsetnc s) := fun _ hwf rest =>
  accepts (decode_packA rest rfl (by decide) (by decide) (by decide) s.isLt (by decide))
    (congrArg fields (aVy_eq .vsetnc s)) hwf
theorem RoundTrip.vadd (d : VRegNo) (a : VRegNo) (b : VRegNo) : RoundTrip.Statement (.vadd d a b) := fun _ hwf rest =>
  accepts (decode_packA rest rfl (by decide) (by decide) d.isLt a.isLt b.isLt)
    (congrArg fields (aVxVyVz_eq .vadd d a b)) hwf
theorem RoundTrip.vsub (d : VRegNo) (a : VRegNo) (b : VRegNo) : RoundTrip.Statement (.vsub d a b) := fun _ hwf rest =>
  accepts (decode_packA rest rfl (by decide) (by decide) d.isLt a.isLt b.isLt)
    (congrArg fields (aVxVyVz_eq .vsub d a b)) hwf
theorem RoundTrip.vmul (d : VRegNo) (a : VRegNo) (b : VRegNo) : RoundTrip.Statement (.vmul d a b) := fun _ hwf rest =>
  accepts (decode_packA rest rfl (by decide) (by decide) d.isLt a.isLt b.isLt)
    (congrArg fields (aVxVyVz_eq .vmul d a b)) hwf
theorem RoundTrip.vmulh (d : VRegNo) (a : VRegNo) (b : VRegNo) : RoundTrip.Statement (.vmulh d a b) := fun _ hwf rest =>
  accepts (decode_packA rest rfl (by decide) (by decide) d.isLt a.isLt b.isLt)
    (congrArg fields (aVxVyVz_eq .vmulh d a b)) hwf
theorem RoundTrip.vmulhu (d : VRegNo) (a : VRegNo) (b : VRegNo) : RoundTrip.Statement (.vmulhu d a b) := fun _ hwf rest =>
  accepts (decode_packA rest rfl (by decide) (by decide) d.isLt a.isLt b.isLt)
    (congrArg fields (aVxVyVz_eq .vmulhu d a b)) hwf
theorem RoundTrip.vand (d : VRegNo) (a : VRegNo) (b : VRegNo) : RoundTrip.Statement (.vand d a b) := fun _ hwf rest =>
  accepts (decode_packA rest rfl (by decide) (by decide) d.isLt a.isLt b.isLt)
    (congrArg fields (aVxVyVz_eq .vand d a b)) hwf
theorem RoundTrip.vor (d : VRegNo) (a : VRegNo) (b : VRegNo) : RoundTrip.Statement (.vor d a b) := fun _ hwf rest =>
  accepts (decode_packA rest rfl (by decide) (by decide) d.isLt a.isLt b.isLt)
    (congrArg fields (aVxVyVz_eq .vor d a b)) hwf
theorem RoundTrip.vxor (d : VRegNo) (a : VRegNo) (b : VRegNo) : RoundTrip.Statement (.vxor d a b) := fun _ hwf rest =>
  accepts (decode_packA rest rfl (by decide) (by decide) d.isLt a.isLt b.isLt)
    (congrArg fields (aVxVyVz_eq .vxor d a b)) hwf
theorem RoundTrip.vandn (d : VRegNo) (a : VRegNo) (b : VRegNo) : RoundTrip.Statement (.vandn d a b) := fun _ hwf rest =>
  accepts (decode_packA rest rfl (by decide) (by decide) d.isLt a.isLt b.isLt)
    (congrArg fields (aVxVyVz_eq .vandn d a b)) hwf
theorem RoundTrip.vshl (d : VRegNo) (a : VRegNo) (b : VRegNo) : RoundTrip.Statement (.vshl d a b) := fun _ hwf rest =>
  accepts (decode_packA rest rfl (by decide) (by decide) d.isLt a.isLt b.isLt)
    (congrArg fields (aVxVyVz_eq .vshl d a b)) hwf
theorem RoundTrip.vshr (d : VRegNo) (a : VRegNo) (b : VRegNo) : RoundTrip.Statement (.vshr d a b) := fun _ hwf rest =>
  accepts (decode_packA rest rfl (by decide) (by decide) d.isLt a.isLt b.isLt)
    (congrArg fields (aVxVyVz_eq .vshr d a b)) hwf
theorem RoundTrip.vsar (d : VRegNo) (a : VRegNo) (b : VRegNo) : RoundTrip.Statement (.vsar d a b) := fun _ hwf rest =>
  accepts (decode_packA rest rfl (by decide) (by decide) d.isLt a.isLt b.isLt)
    (congrArg fields (aVxVyVz_eq .vsar d a b)) hwf
theorem RoundTrip.vmin (d : VRegNo) (a : VRegNo) (b : VRegNo) : RoundTrip.Statement (.vmin d a b) := fun _ hwf rest =>
  accepts (decode_packA rest rfl (by decide) (by decide) d.isLt a.isLt b.isLt)
    (congrArg fields (aVxVyVz_eq .vmin d a b)) hwf
theorem RoundTrip.vmax (d : VRegNo) (a : VRegNo) (b : VRegNo) : RoundTrip.Statement (.vmax d a b) := fun _ hwf rest =>
  accepts (decode_packA rest rfl (by decide) (by decide) d.isLt a.isLt b.isLt)
    (congrArg fields (aVxVyVz_eq .vmax d a b)) hwf
theorem RoundTrip.vminu (d : VRegNo) (a : VRegNo) (b : VRegNo) : RoundTrip.Statement (.vminu d a b) := fun _ hwf rest =>
  accepts (decode_packA rest rfl (by decide) (by decide) d.isLt a.isLt b.isLt)
    (congrArg fields (aVxVyVz_eq .vminu d a b)) hwf
theorem RoundTrip.vmaxu (d : VRegNo) (a : VRegNo) (b : VRegNo) : RoundTrip.Statement (.vmaxu d a b) := fun _ hwf rest =>
  accepts (decode_packA rest rfl (by decide) (by decide) d.isLt a.isLt b.isLt)
    (congrArg fields (aVxVyVz_eq .vmaxu d a b)) hwf
theorem RoundTrip.vabs (d : VRegNo) (a : VRegNo) : RoundTrip.Statement (.vabs d a) := fun _ hwf rest =>
  accepts (decode_packA rest rfl (by decide) (by decide) d.isLt a.isLt (by decide))
    (congrArg fields (aVxVy_eq .vabs d a)) hwf
theorem RoundTrip.vneg (d : VRegNo) (a : VRegNo) : RoundTrip.Statement (.vneg d a) := fun _ hwf rest =>
  accepts (decode_packA rest rfl (by decide) (by decide) d.isLt a.isLt (by decide))
    (congrArg fields (aVxVy_eq .vneg d a)) hwf
theorem RoundTrip.vseq (d : VRegNo) (a : VRegNo) (b : VRegNo) : RoundTrip.Statement (.vseq d a b) := fun _ hwf rest =>
  accepts (decode_packA rest rfl (by decide) (by decide) d.isLt a.isLt b.isLt)
    (congrArg fields (aVxVyVz_eq .vseq d a b)) hwf
theorem RoundTrip.vsne (d : VRegNo) (a : VRegNo) (b : VRegNo) : RoundTrip.Statement (.vsne d a b) := fun _ hwf rest =>
  accepts (decode_packA rest rfl (by decide) (by decide) d.isLt a.isLt b.isLt)
    (congrArg fields (aVxVyVz_eq .vsne d a b)) hwf
theorem RoundTrip.vslt (d : VRegNo) (a : VRegNo) (b : VRegNo) : RoundTrip.Statement (.vslt d a b) := fun _ hwf rest =>
  accepts (decode_packA rest rfl (by decide) (by decide) d.isLt a.isLt b.isLt)
    (congrArg fields (aVxVyVz_eq .vslt d a b)) hwf
theorem RoundTrip.vsltu (d : VRegNo) (a : VRegNo) (b : VRegNo) : RoundTrip.Statement (.vsltu d a b) := fun _ hwf rest =>
  accepts (decode_packA rest rfl (by decide) (by decide) d.isLt a.isLt b.isLt)
    (congrArg fields (aVxVyVz_eq .vsltu d a b)) hwf
theorem RoundTrip.vsle (d : VRegNo) (a : VRegNo) (b : VRegNo) : RoundTrip.Statement (.vsle d a b) := fun _ hwf rest =>
  accepts (decode_packA rest rfl (by decide) (by decide) d.isLt a.isLt b.isLt)
    (congrArg fields (aVxVyVz_eq .vsle d a b)) hwf
theorem RoundTrip.vsleu (d : VRegNo) (a : VRegNo) (b : VRegNo) : RoundTrip.Statement (.vsleu d a b) := fun _ hwf rest =>
  accepts (decode_packA rest rfl (by decide) (by decide) d.isLt a.isLt b.isLt)
    (congrArg fields (aVxVyVz_eq .vsleu d a b)) hwf
theorem RoundTrip.vclz (d : VRegNo) (a : VRegNo) : RoundTrip.Statement (.vclz d a) := fun _ hwf rest =>
  accepts (decode_packA rest rfl (by decide) (by decide) d.isLt a.isLt (by decide))
    (congrArg fields (aVxVy_eq .vclz d a)) hwf
theorem RoundTrip.vpopc (d : VRegNo) (a : VRegNo) : RoundTrip.Statement (.vpopc d a) := fun _ hwf rest =>
  accepts (decode_packA rest rfl (by decide) (by decide) d.isLt a.isLt (by decide))
    (congrArg fields (aVxVy_eq .vpopc d a)) hwf
theorem RoundTrip.vaddsat (d : VRegNo) (a : VRegNo) (b : VRegNo) : RoundTrip.Statement (.vaddsat d a b) := fun _ hwf rest =>
  accepts (decode_packA rest rfl (by decide) (by decide) d.isLt a.isLt b.isLt)
    (congrArg fields (aVxVyVz_eq .vaddsat d a b)) hwf
theorem RoundTrip.vsubsat (d : VRegNo) (a : VRegNo) (b : VRegNo) : RoundTrip.Statement (.vsubsat d a b) := fun _ hwf rest =>
  accepts (decode_packA rest rfl (by decide) (by decide) d.isLt a.isLt b.isLt)
    (congrArg fields (aVxVyVz_eq .vsubsat d a b)) hwf
theorem RoundTrip.vaddsatu (d : VRegNo) (a : VRegNo) (b : VRegNo) : RoundTrip.Statement (.vaddsatu d a b) := fun _ hwf rest =>
  accepts (decode_packA rest rfl (by decide) (by decide) d.isLt a.isLt b.isLt)
    (congrArg fields (aVxVyVz_eq .vaddsatu d a b)) hwf
theorem RoundTrip.vsubsatu (d : VRegNo) (a : VRegNo) (b : VRegNo) : RoundTrip.Statement (.vsubsatu d a b) := fun _ hwf rest =>
  accepts (decode_packA rest rfl (by decide) (by decide) d.isLt a.isLt b.isLt)
    (congrArg fields (aVxVyVz_eq .vsubsatu d a b)) hwf
theorem RoundTrip.vdot4 (d : VRegNo) (a : VRegNo) (b : VRegNo) : RoundTrip.Statement (.vdot4 d a b) := fun _ hwf rest =>
  accepts (decode_packA rest rfl (by decide) (by decide) d.isLt a.isLt b.isLt)
    (congrArg fields (aVxVyVz_eq .vdot4 d a b)) hwf
theorem RoundTrip.vdot4u (d : VRegNo) (a : VRegNo) (b : VRegNo) : RoundTrip.Statement (.vdot4u d a b) := fun _ hwf rest =>
  accepts (decode_packA rest rfl (by decide) (by decide) d.isLt a.isLt b.isLt)
    (congrArg fields (aVxVyVz_eq .vdot4u d a b)) hwf
theorem RoundTrip.vaddScalar (d : VRegNo) (a : VRegNo) (b : SReg) : RoundTrip.Statement (.vaddScalar d a b) := fun _ hwf rest =>
  accepts (decode_packA rest rfl (by decide) (by decide) d.isLt a.isLt (Nat.lt_of_lt_of_le b.isLt (by decide)))
    (congrArg fields (aVxVySz_eq .vaddScalar d a b)) hwf
theorem RoundTrip.vsubScalar (d : VRegNo) (a : VRegNo) (b : SReg) : RoundTrip.Statement (.vsubScalar d a b) := fun _ hwf rest =>
  accepts (decode_packA rest rfl (by decide) (by decide) d.isLt a.isLt (Nat.lt_of_lt_of_le b.isLt (by decide)))
    (congrArg fields (aVxVySz_eq .vsubScalar d a b)) hwf
theorem RoundTrip.vmulScalar (d : VRegNo) (a : VRegNo) (b : SReg) : RoundTrip.Statement (.vmulScalar d a b) := fun _ hwf rest =>
  accepts (decode_packA rest rfl (by decide) (by decide) d.isLt a.isLt (Nat.lt_of_lt_of_le b.isLt (by decide)))
    (congrArg fields (aVxVySz_eq .vmulScalar d a b)) hwf
theorem RoundTrip.vmulhScalar (d : VRegNo) (a : VRegNo) (b : SReg) : RoundTrip.Statement (.vmulhScalar d a b) := fun _ hwf rest =>
  accepts (decode_packA rest rfl (by decide) (by decide) d.isLt a.isLt (Nat.lt_of_lt_of_le b.isLt (by decide)))
    (congrArg fields (aVxVySz_eq .vmulhScalar d a b)) hwf
theorem RoundTrip.vmulhuScalar (d : VRegNo) (a : VRegNo) (b : SReg) : RoundTrip.Statement (.vmulhuScalar d a b) := fun _ hwf rest =>
  accepts (decode_packA rest rfl (by decide) (by decide) d.isLt a.isLt (Nat.lt_of_lt_of_le b.isLt (by decide)))
    (congrArg fields (aVxVySz_eq .vmulhuScalar d a b)) hwf
theorem RoundTrip.vandScalar (d : VRegNo) (a : VRegNo) (b : SReg) : RoundTrip.Statement (.vandScalar d a b) := fun _ hwf rest =>
  accepts (decode_packA rest rfl (by decide) (by decide) d.isLt a.isLt (Nat.lt_of_lt_of_le b.isLt (by decide)))
    (congrArg fields (aVxVySz_eq .vandScalar d a b)) hwf
theorem RoundTrip.vorScalar (d : VRegNo) (a : VRegNo) (b : SReg) : RoundTrip.Statement (.vorScalar d a b) := fun _ hwf rest =>
  accepts (decode_packA rest rfl (by decide) (by decide) d.isLt a.isLt (Nat.lt_of_lt_of_le b.isLt (by decide)))
    (congrArg fields (aVxVySz_eq .vorScalar d a b)) hwf
theorem RoundTrip.vxorScalar (d : VRegNo) (a : VRegNo) (b : SReg) : RoundTrip.Statement (.vxorScalar d a b) := fun _ hwf rest =>
  accepts (decode_packA rest rfl (by decide) (by decide) d.isLt a.isLt (Nat.lt_of_lt_of_le b.isLt (by decide)))
    (congrArg fields (aVxVySz_eq .vxorScalar d a b)) hwf
theorem RoundTrip.vandnScalar (d : VRegNo) (a : VRegNo) (b : SReg) : RoundTrip.Statement (.vandnScalar d a b) := fun _ hwf rest =>
  accepts (decode_packA rest rfl (by decide) (by decide) d.isLt a.isLt (Nat.lt_of_lt_of_le b.isLt (by decide)))
    (congrArg fields (aVxVySz_eq .vandnScalar d a b)) hwf
theorem RoundTrip.vshlScalar (d : VRegNo) (a : VRegNo) (b : SReg) : RoundTrip.Statement (.vshlScalar d a b) := fun _ hwf rest =>
  accepts (decode_packA rest rfl (by decide) (by decide) d.isLt a.isLt (Nat.lt_of_lt_of_le b.isLt (by decide)))
    (congrArg fields (aVxVySz_eq .vshlScalar d a b)) hwf
theorem RoundTrip.vshrScalar (d : VRegNo) (a : VRegNo) (b : SReg) : RoundTrip.Statement (.vshrScalar d a b) := fun _ hwf rest =>
  accepts (decode_packA rest rfl (by decide) (by decide) d.isLt a.isLt (Nat.lt_of_lt_of_le b.isLt (by decide)))
    (congrArg fields (aVxVySz_eq .vshrScalar d a b)) hwf
theorem RoundTrip.vsarScalar (d : VRegNo) (a : VRegNo) (b : SReg) : RoundTrip.Statement (.vsarScalar d a b) := fun _ hwf rest =>
  accepts (decode_packA rest rfl (by decide) (by decide) d.isLt a.isLt (Nat.lt_of_lt_of_le b.isLt (by decide)))
    (congrArg fields (aVxVySz_eq .vsarScalar d a b)) hwf
theorem RoundTrip.vminScalar (d : VRegNo) (a : VRegNo) (b : SReg) : RoundTrip.Statement (.vminScalar d a b) := fun _ hwf rest =>
  accepts (decode_packA rest rfl (by decide) (by decide) d.isLt a.isLt (Nat.lt_of_lt_of_le b.isLt (by decide)))
    (congrArg fields (aVxVySz_eq .vminScalar d a b)) hwf
theorem RoundTrip.vmaxScalar (d : VRegNo) (a : VRegNo) (b : SReg) : RoundTrip.Statement (.vmaxScalar d a b) := fun _ hwf rest =>
  accepts (decode_packA rest rfl (by decide) (by decide) d.isLt a.isLt (Nat.lt_of_lt_of_le b.isLt (by decide)))
    (congrArg fields (aVxVySz_eq .vmaxScalar d a b)) hwf
theorem RoundTrip.vminuScalar (d : VRegNo) (a : VRegNo) (b : SReg) : RoundTrip.Statement (.vminuScalar d a b) := fun _ hwf rest =>
  accepts (decode_packA rest rfl (by decide) (by decide) d.isLt a.isLt (Nat.lt_of_lt_of_le b.isLt (by decide)))
    (congrArg fields (aVxVySz_eq .vminuScalar d a b)) hwf
theorem RoundTrip.vmaxuScalar (d : VRegNo) (a : VRegNo) (b : SReg) : RoundTrip.Statement (.vmaxuScalar d a b) := fun _ hwf rest =>
  accepts (decode_packA rest rfl (by decide) (by decide) d.isLt a.isLt (Nat.lt_of_lt_of_le b.isLt (by decide)))
    (congrArg fields (aVxVySz_eq .vmaxuScalar d a b)) hwf
theorem RoundTrip.vseqScalar (d : VRegNo) (a : VRegNo) (b : SReg) : RoundTrip.Statement (.vseqScalar d a b) := fun _ hwf rest =>
  accepts (decode_packA rest rfl (by decide) (by decide) d.isLt a.isLt (Nat.lt_of_lt_of_le b.isLt (by decide)))
    (congrArg fields (aVxVySz_eq .vseqScalar d a b)) hwf
theorem RoundTrip.vsneScalar (d : VRegNo) (a : VRegNo) (b : SReg) : RoundTrip.Statement (.vsneScalar d a b) := fun _ hwf rest =>
  accepts (decode_packA rest rfl (by decide) (by decide) d.isLt a.isLt (Nat.lt_of_lt_of_le b.isLt (by decide)))
    (congrArg fields (aVxVySz_eq .vsneScalar d a b)) hwf
theorem RoundTrip.vsltScalar (d : VRegNo) (a : VRegNo) (b : SReg) : RoundTrip.Statement (.vsltScalar d a b) := fun _ hwf rest =>
  accepts (decode_packA rest rfl (by decide) (by decide) d.isLt a.isLt (Nat.lt_of_lt_of_le b.isLt (by decide)))
    (congrArg fields (aVxVySz_eq .vsltScalar d a b)) hwf
theorem RoundTrip.vsltuScalar (d : VRegNo) (a : VRegNo) (b : SReg) : RoundTrip.Statement (.vsltuScalar d a b) := fun _ hwf rest =>
  accepts (decode_packA rest rfl (by decide) (by decide) d.isLt a.isLt (Nat.lt_of_lt_of_le b.isLt (by decide)))
    (congrArg fields (aVxVySz_eq .vsltuScalar d a b)) hwf
theorem RoundTrip.vsleScalar (d : VRegNo) (a : VRegNo) (b : SReg) : RoundTrip.Statement (.vsleScalar d a b) := fun _ hwf rest =>
  accepts (decode_packA rest rfl (by decide) (by decide) d.isLt a.isLt (Nat.lt_of_lt_of_le b.isLt (by decide)))
    (congrArg fields (aVxVySz_eq .vsleScalar d a b)) hwf
theorem RoundTrip.vsleuScalar (d : VRegNo) (a : VRegNo) (b : SReg) : RoundTrip.Statement (.vsleuScalar d a b) := fun _ hwf rest =>
  accepts (decode_packA rest rfl (by decide) (by decide) d.isLt a.isLt (Nat.lt_of_lt_of_le b.isLt (by decide)))
    (congrArg fields (aVxVySz_eq .vsleuScalar d a b)) hwf
theorem RoundTrip.vaddsatScalar (d : VRegNo) (a : VRegNo) (b : SReg) : RoundTrip.Statement (.vaddsatScalar d a b) := fun _ hwf rest =>
  accepts (decode_packA rest rfl (by decide) (by decide) d.isLt a.isLt (Nat.lt_of_lt_of_le b.isLt (by decide)))
    (congrArg fields (aVxVySz_eq .vaddsatScalar d a b)) hwf
theorem RoundTrip.vsubsatScalar (d : VRegNo) (a : VRegNo) (b : SReg) : RoundTrip.Statement (.vsubsatScalar d a b) := fun _ hwf rest =>
  accepts (decode_packA rest rfl (by decide) (by decide) d.isLt a.isLt (Nat.lt_of_lt_of_le b.isLt (by decide)))
    (congrArg fields (aVxVySz_eq .vsubsatScalar d a b)) hwf
theorem RoundTrip.vaddsatuScalar (d : VRegNo) (a : VRegNo) (b : SReg) : RoundTrip.Statement (.vaddsatuScalar d a b) := fun _ hwf rest =>
  accepts (decode_packA rest rfl (by decide) (by decide) d.isLt a.isLt (Nat.lt_of_lt_of_le b.isLt (by decide)))
    (congrArg fields (aVxVySz_eq .vaddsatuScalar d a b)) hwf
theorem RoundTrip.vsubsatuScalar (d : VRegNo) (a : VRegNo) (b : SReg) : RoundTrip.Statement (.vsubsatuScalar d a b) := fun _ hwf rest =>
  accepts (decode_packA rest rfl (by decide) (by decide) d.isLt a.isLt (Nat.lt_of_lt_of_le b.isLt (by decide)))
    (congrArg fields (aVxVySz_eq .vsubsatuScalar d a b)) hwf
theorem RoundTrip.vdot4Scalar (d : VRegNo) (a : VRegNo) (b : SReg) : RoundTrip.Statement (.vdot4Scalar d a b) := fun _ hwf rest =>
  accepts (decode_packA rest rfl (by decide) (by decide) d.isLt a.isLt (Nat.lt_of_lt_of_le b.isLt (by decide)))
    (congrArg fields (aVxVySz_eq .vdot4Scalar d a b)) hwf
theorem RoundTrip.vdot4uScalar (d : VRegNo) (a : VRegNo) (b : SReg) : RoundTrip.Statement (.vdot4uScalar d a b) := fun _ hwf rest =>
  accepts (decode_packA rest rfl (by decide) (by decide) d.isLt a.isLt (Nat.lt_of_lt_of_le b.isLt (by decide)))
    (congrArg fields (aVxVySz_eq .vdot4uScalar d a b)) hwf
theorem RoundTrip.vaddH (d : VRegNo) (a : VRegNo) (b : VRegNo) : RoundTrip.Statement (.vaddH d a b) := fun _ hwf rest =>
  accepts (decode_packA rest rfl (by decide) (by decide) d.isLt a.isLt b.isLt)
    (congrArg fields (aVxVyVz_eq .vaddH d a b)) hwf
theorem RoundTrip.vsubH (d : VRegNo) (a : VRegNo) (b : VRegNo) : RoundTrip.Statement (.vsubH d a b) := fun _ hwf rest =>
  accepts (decode_packA rest rfl (by decide) (by decide) d.isLt a.isLt b.isLt)
    (congrArg fields (aVxVyVz_eq .vsubH d a b)) hwf
theorem RoundTrip.vmulH (d : VRegNo) (a : VRegNo) (b : VRegNo) : RoundTrip.Statement (.vmulH d a b) := fun _ hwf rest =>
  accepts (decode_packA rest rfl (by decide) (by decide) d.isLt a.isLt b.isLt)
    (congrArg fields (aVxVyVz_eq .vmulH d a b)) hwf
theorem RoundTrip.vmulhH (d : VRegNo) (a : VRegNo) (b : VRegNo) : RoundTrip.Statement (.vmulhH d a b) := fun _ hwf rest =>
  accepts (decode_packA rest rfl (by decide) (by decide) d.isLt a.isLt b.isLt)
    (congrArg fields (aVxVyVz_eq .vmulhH d a b)) hwf
theorem RoundTrip.vminH (d : VRegNo) (a : VRegNo) (b : VRegNo) : RoundTrip.Statement (.vminH d a b) := fun _ hwf rest =>
  accepts (decode_packA rest rfl (by decide) (by decide) d.isLt a.isLt b.isLt)
    (congrArg fields (aVxVyVz_eq .vminH d a b)) hwf
theorem RoundTrip.vmaxH (d : VRegNo) (a : VRegNo) (b : VRegNo) : RoundTrip.Statement (.vmaxH d a b) := fun _ hwf rest =>
  accepts (decode_packA rest rfl (by decide) (by decide) d.isLt a.isLt b.isLt)
    (congrArg fields (aVxVyVz_eq .vmaxH d a b)) hwf
theorem RoundTrip.vminuH (d : VRegNo) (a : VRegNo) (b : VRegNo) : RoundTrip.Statement (.vminuH d a b) := fun _ hwf rest =>
  accepts (decode_packA rest rfl (by decide) (by decide) d.isLt a.isLt b.isLt)
    (congrArg fields (aVxVyVz_eq .vminuH d a b)) hwf
theorem RoundTrip.vmaxuH (d : VRegNo) (a : VRegNo) (b : VRegNo) : RoundTrip.Statement (.vmaxuH d a b) := fun _ hwf rest =>
  accepts (decode_packA rest rfl (by decide) (by decide) d.isLt a.isLt b.isLt)
    (congrArg fields (aVxVyVz_eq .vmaxuH d a b)) hwf
theorem RoundTrip.vaddsatH (d : VRegNo) (a : VRegNo) (b : VRegNo) : RoundTrip.Statement (.vaddsatH d a b) := fun _ hwf rest =>
  accepts (decode_packA rest rfl (by decide) (by decide) d.isLt a.isLt b.isLt)
    (congrArg fields (aVxVyVz_eq .vaddsatH d a b)) hwf
theorem RoundTrip.vsubsatH (d : VRegNo) (a : VRegNo) (b : VRegNo) : RoundTrip.Statement (.vsubsatH d a b) := fun _ hwf rest =>
  accepts (decode_packA rest rfl (by decide) (by decide) d.isLt a.isLt b.isLt)
    (congrArg fields (aVxVyVz_eq .vsubsatH d a b)) hwf
theorem RoundTrip.vaddsatuH (d : VRegNo) (a : VRegNo) (b : VRegNo) : RoundTrip.Statement (.vaddsatuH d a b) := fun _ hwf rest =>
  accepts (decode_packA rest rfl (by decide) (by decide) d.isLt a.isLt b.isLt)
    (congrArg fields (aVxVyVz_eq .vaddsatuH d a b)) hwf
theorem RoundTrip.vsubsatuH (d : VRegNo) (a : VRegNo) (b : VRegNo) : RoundTrip.Statement (.vsubsatuH d a b) := fun _ hwf rest =>
  accepts (decode_packA rest rfl (by decide) (by decide) d.isLt a.isLt b.isLt)
    (congrArg fields (aVxVyVz_eq .vsubsatuH d a b)) hwf
theorem RoundTrip.vseqH (d : VRegNo) (a : VRegNo) (b : VRegNo) : RoundTrip.Statement (.vseqH d a b) := fun _ hwf rest =>
  accepts (decode_packA rest rfl (by decide) (by decide) d.isLt a.isLt b.isLt)
    (congrArg fields (aVxVyVz_eq .vseqH d a b)) hwf
theorem RoundTrip.vsltH (d : VRegNo) (a : VRegNo) (b : VRegNo) : RoundTrip.Statement (.vsltH d a b) := fun _ hwf rest =>
  accepts (decode_packA rest rfl (by decide) (by decide) d.isLt a.isLt b.isLt)
    (congrArg fields (aVxVyVz_eq .vsltH d a b)) hwf
theorem RoundTrip.vshlH (d : VRegNo) (a : VRegNo) (b : VRegNo) : RoundTrip.Statement (.vshlH d a b) := fun _ hwf rest =>
  accepts (decode_packA rest rfl (by decide) (by decide) d.isLt a.isLt b.isLt)
    (congrArg fields (aVxVyVz_eq .vshlH d a b)) hwf
theorem RoundTrip.vshrH (d : VRegNo) (a : VRegNo) (b : VRegNo) : RoundTrip.Statement (.vshrH d a b) := fun _ hwf rest =>
  accepts (decode_packA rest rfl (by decide) (by decide) d.isLt a.isLt b.isLt)
    (congrArg fields (aVxVyVz_eq .vshrH d a b)) hwf
theorem RoundTrip.vsarH (d : VRegNo) (a : VRegNo) (b : VRegNo) : RoundTrip.Statement (.vsarH d a b) := fun _ hwf rest =>
  accepts (decode_packA rest rfl (by decide) (by decide) d.isLt a.isLt b.isLt)
    (congrArg fields (aVxVyVz_eq .vsarH d a b)) hwf
theorem RoundTrip.vabsH (d : VRegNo) (a : VRegNo) : RoundTrip.Statement (.vabsH d a) := fun _ hwf rest =>
  accepts (decode_packA rest rfl (by decide) (by decide) d.isLt a.isLt (by decide))
    (congrArg fields (aVxVy_eq .vabsH d a)) hwf
theorem RoundTrip.vfadd (d : VRegNo) (a : VRegNo) (b : VRegNo) : RoundTrip.Statement (.vfadd d a b) := fun _ hwf rest =>
  accepts (decode_packA rest rfl (by decide) (by decide) d.isLt a.isLt b.isLt)
    (congrArg fields (aVxVyVz_eq .vfadd d a b)) hwf
theorem RoundTrip.vfsub (d : VRegNo) (a : VRegNo) (b : VRegNo) : RoundTrip.Statement (.vfsub d a b) := fun _ hwf rest =>
  accepts (decode_packA rest rfl (by decide) (by decide) d.isLt a.isLt b.isLt)
    (congrArg fields (aVxVyVz_eq .vfsub d a b)) hwf
theorem RoundTrip.vfmul (d : VRegNo) (a : VRegNo) (b : VRegNo) : RoundTrip.Statement (.vfmul d a b) := fun _ hwf rest =>
  accepts (decode_packA rest rfl (by decide) (by decide) d.isLt a.isLt b.isLt)
    (congrArg fields (aVxVyVz_eq .vfmul d a b)) hwf
theorem RoundTrip.vfma (d : VRegNo) (a : VRegNo) (b : VRegNo) : RoundTrip.Statement (.vfma d a b) := fun _ hwf rest =>
  accepts (decode_packA rest rfl (by decide) (by decide) d.isLt a.isLt b.isLt)
    (congrArg fields (aVxVyVz_eq .vfma d a b)) hwf
theorem RoundTrip.vfms (d : VRegNo) (a : VRegNo) (b : VRegNo) : RoundTrip.Statement (.vfms d a b) := fun _ hwf rest =>
  accepts (decode_packA rest rfl (by decide) (by decide) d.isLt a.isLt b.isLt)
    (congrArg fields (aVxVyVz_eq .vfms d a b)) hwf
theorem RoundTrip.vfnma (d : VRegNo) (a : VRegNo) (b : VRegNo) : RoundTrip.Statement (.vfnma d a b) := fun _ hwf rest =>
  accepts (decode_packA rest rfl (by decide) (by decide) d.isLt a.isLt b.isLt)
    (congrArg fields (aVxVyVz_eq .vfnma d a b)) hwf
theorem RoundTrip.vfmin (d : VRegNo) (a : VRegNo) (b : VRegNo) : RoundTrip.Statement (.vfmin d a b) := fun _ hwf rest =>
  accepts (decode_packA rest rfl (by decide) (by decide) d.isLt a.isLt b.isLt)
    (congrArg fields (aVxVyVz_eq .vfmin d a b)) hwf
theorem RoundTrip.vfmax (d : VRegNo) (a : VRegNo) (b : VRegNo) : RoundTrip.Statement (.vfmax d a b) := fun _ hwf rest =>
  accepts (decode_packA rest rfl (by decide) (by decide) d.isLt a.isLt b.isLt)
    (congrArg fields (aVxVyVz_eq .vfmax d a b)) hwf
theorem RoundTrip.vfminnum (d : VRegNo) (a : VRegNo) (b : VRegNo) : RoundTrip.Statement (.vfminnum d a b) := fun _ hwf rest =>
  accepts (decode_packA rest rfl (by decide) (by decide) d.isLt a.isLt b.isLt)
    (congrArg fields (aVxVyVz_eq .vfminnum d a b)) hwf
theorem RoundTrip.vfmaxnum (d : VRegNo) (a : VRegNo) (b : VRegNo) : RoundTrip.Statement (.vfmaxnum d a b) := fun _ hwf rest =>
  accepts (decode_packA rest rfl (by decide) (by decide) d.isLt a.isLt b.isLt)
    (congrArg fields (aVxVyVz_eq .vfmaxnum d a b)) hwf
theorem RoundTrip.vfabs (d : VRegNo) (a : VRegNo) : RoundTrip.Statement (.vfabs d a) := fun _ hwf rest =>
  accepts (decode_packA rest rfl (by decide) (by decide) d.isLt a.isLt (by decide))
    (congrArg fields (aVxVy_eq .vfabs d a)) hwf
theorem RoundTrip.vfneg (d : VRegNo) (a : VRegNo) : RoundTrip.Statement (.vfneg d a) := fun _ hwf rest =>
  accepts (decode_packA rest rfl (by decide) (by decide) d.isLt a.isLt (by decide))
    (congrArg fields (aVxVy_eq .vfneg d a)) hwf
theorem RoundTrip.vfceq (d : VRegNo) (a : VRegNo) (b : VRegNo) : RoundTrip.Statement (.vfceq d a b) := fun _ hwf rest =>
  accepts (decode_packA rest rfl (by decide) (by decide) d.isLt a.isLt b.isLt)
    (congrArg fields (aVxVyVz_eq .vfceq d a b)) hwf
theorem RoundTrip.vfclt (d : VRegNo) (a : VRegNo) (b : VRegNo) : RoundTrip.Statement (.vfclt d a b) := fun _ hwf rest =>
  accepts (decode_packA rest rfl (by decide) (by decide) d.isLt a.isLt b.isLt)
    (congrArg fields (aVxVyVz_eq .vfclt d a b)) hwf
theorem RoundTrip.vfcle (d : VRegNo) (a : VRegNo) (b : VRegNo) : RoundTrip.Statement (.vfcle d a b) := fun _ hwf rest =>
  accepts (decode_packA rest rfl (by decide) (by decide) d.isLt a.isLt b.isLt)
    (congrArg fields (aVxVyVz_eq .vfcle d a b)) hwf
theorem RoundTrip.vfcun (d : VRegNo) (a : VRegNo) (b : VRegNo) : RoundTrip.Statement (.vfcun d a b) := fun _ hwf rest =>
  accepts (decode_packA rest rfl (by decide) (by decide) d.isLt a.isLt b.isLt)
    (congrArg fields (aVxVyVz_eq .vfcun d a b)) hwf
theorem RoundTrip.vfdiv (d : VRegNo) (a : VRegNo) (b : VRegNo) : RoundTrip.Statement (.vfdiv d a b) := fun _ hwf rest =>
  accepts (decode_packA rest rfl (by decide) (by decide) d.isLt a.isLt b.isLt)
    (congrArg fields (aVxVyVz_eq .vfdiv d a b)) hwf
theorem RoundTrip.vfsqrt (d : VRegNo) (a : VRegNo) : RoundTrip.Statement (.vfsqrt d a) := fun _ hwf rest =>
  accepts (decode_packA rest rfl (by decide) (by decide) d.isLt a.isLt (by decide))
    (congrArg fields (aVxVy_eq .vfsqrt d a)) hwf
theorem RoundTrip.vfrcp (d : VRegNo) (a : VRegNo) : RoundTrip.Statement (.vfrcp d a) := fun _ hwf rest =>
  accepts (decode_packA rest rfl (by decide) (by decide) d.isLt a.isLt (by decide))
    (congrArg fields (aVxVy_eq .vfrcp d a)) hwf
theorem RoundTrip.vfrsq (d : VRegNo) (a : VRegNo) : RoundTrip.Statement (.vfrsq d a) := fun _ hwf rest =>
  accepts (decode_packA rest rfl (by decide) (by decide) d.isLt a.isLt (by decide))
    (congrArg fields (aVxVy_eq .vfrsq d a)) hwf
theorem RoundTrip.vfexp2 (d : VRegNo) (a : VRegNo) : RoundTrip.Statement (.vfexp2 d a) := fun _ hwf rest =>
  accepts (decode_packA rest rfl (by decide) (by decide) d.isLt a.isLt (by decide))
    (congrArg fields (aVxVy_eq .vfexp2 d a)) hwf
theorem RoundTrip.vflog2 (d : VRegNo) (a : VRegNo) : RoundTrip.Statement (.vflog2 d a) := fun _ hwf rest =>
  accepts (decode_packA rest rfl (by decide) (by decide) d.isLt a.isLt (by decide))
    (congrArg fields (aVxVy_eq .vflog2 d a)) hwf
theorem RoundTrip.vfrint (d : VRegNo) (a : VRegNo) : RoundTrip.Statement (.vfrint d a) := fun _ hwf rest =>
  accepts (decode_packA rest rfl (by decide) (by decide) d.isLt a.isLt (by decide))
    (congrArg fields (aVxVy_eq .vfrint d a)) hwf
theorem RoundTrip.vfclass (d : VRegNo) (a : VRegNo) : RoundTrip.Statement (.vfclass d a) := fun _ hwf rest =>
  accepts (decode_packA rest rfl (by decide) (by decide) d.isLt a.isLt (by decide))
    (congrArg fields (aVxVy_eq .vfclass d a)) hwf
theorem RoundTrip.vfcopysign (d : VRegNo) (a : VRegNo) (b : VRegNo) : RoundTrip.Statement (.vfcopysign d a b) := fun _ hwf rest =>
  accepts (decode_packA rest rfl (by decide) (by decide) d.isLt a.isLt b.isLt)
    (congrArg fields (aVxVyVz_eq .vfcopysign d a b)) hwf
theorem RoundTrip.vfaddScalar (d : VRegNo) (a : VRegNo) (b : SReg) : RoundTrip.Statement (.vfaddScalar d a b) := fun _ hwf rest =>
  accepts (decode_packA rest rfl (by decide) (by decide) d.isLt a.isLt (Nat.lt_of_lt_of_le b.isLt (by decide)))
    (congrArg fields (aVxVySz_eq .vfaddScalar d a b)) hwf
theorem RoundTrip.vfsubScalar (d : VRegNo) (a : VRegNo) (b : SReg) : RoundTrip.Statement (.vfsubScalar d a b) := fun _ hwf rest =>
  accepts (decode_packA rest rfl (by decide) (by decide) d.isLt a.isLt (Nat.lt_of_lt_of_le b.isLt (by decide)))
    (congrArg fields (aVxVySz_eq .vfsubScalar d a b)) hwf
theorem RoundTrip.vfmulScalar (d : VRegNo) (a : VRegNo) (b : SReg) : RoundTrip.Statement (.vfmulScalar d a b) := fun _ hwf rest =>
  accepts (decode_packA rest rfl (by decide) (by decide) d.isLt a.isLt (Nat.lt_of_lt_of_le b.isLt (by decide)))
    (congrArg fields (aVxVySz_eq .vfmulScalar d a b)) hwf
theorem RoundTrip.vfmaScalar (d : VRegNo) (a : VRegNo) (b : SReg) : RoundTrip.Statement (.vfmaScalar d a b) := fun _ hwf rest =>
  accepts (decode_packA rest rfl (by decide) (by decide) d.isLt a.isLt (Nat.lt_of_lt_of_le b.isLt (by decide)))
    (congrArg fields (aVxVySz_eq .vfmaScalar d a b)) hwf
theorem RoundTrip.vfmsScalar (d : VRegNo) (a : VRegNo) (b : SReg) : RoundTrip.Statement (.vfmsScalar d a b) := fun _ hwf rest =>
  accepts (decode_packA rest rfl (by decide) (by decide) d.isLt a.isLt (Nat.lt_of_lt_of_le b.isLt (by decide)))
    (congrArg fields (aVxVySz_eq .vfmsScalar d a b)) hwf
theorem RoundTrip.vfnmaScalar (d : VRegNo) (a : VRegNo) (b : SReg) : RoundTrip.Statement (.vfnmaScalar d a b) := fun _ hwf rest =>
  accepts (decode_packA rest rfl (by decide) (by decide) d.isLt a.isLt (Nat.lt_of_lt_of_le b.isLt (by decide)))
    (congrArg fields (aVxVySz_eq .vfnmaScalar d a b)) hwf
theorem RoundTrip.vfminScalar (d : VRegNo) (a : VRegNo) (b : SReg) : RoundTrip.Statement (.vfminScalar d a b) := fun _ hwf rest =>
  accepts (decode_packA rest rfl (by decide) (by decide) d.isLt a.isLt (Nat.lt_of_lt_of_le b.isLt (by decide)))
    (congrArg fields (aVxVySz_eq .vfminScalar d a b)) hwf
theorem RoundTrip.vfmaxScalar (d : VRegNo) (a : VRegNo) (b : SReg) : RoundTrip.Statement (.vfmaxScalar d a b) := fun _ hwf rest =>
  accepts (decode_packA rest rfl (by decide) (by decide) d.isLt a.isLt (Nat.lt_of_lt_of_le b.isLt (by decide)))
    (congrArg fields (aVxVySz_eq .vfmaxScalar d a b)) hwf
theorem RoundTrip.vfminnumScalar (d : VRegNo) (a : VRegNo) (b : SReg) : RoundTrip.Statement (.vfminnumScalar d a b) := fun _ hwf rest =>
  accepts (decode_packA rest rfl (by decide) (by decide) d.isLt a.isLt (Nat.lt_of_lt_of_le b.isLt (by decide)))
    (congrArg fields (aVxVySz_eq .vfminnumScalar d a b)) hwf
theorem RoundTrip.vfmaxnumScalar (d : VRegNo) (a : VRegNo) (b : SReg) : RoundTrip.Statement (.vfmaxnumScalar d a b) := fun _ hwf rest =>
  accepts (decode_packA rest rfl (by decide) (by decide) d.isLt a.isLt (Nat.lt_of_lt_of_le b.isLt (by decide)))
    (congrArg fields (aVxVySz_eq .vfmaxnumScalar d a b)) hwf
theorem RoundTrip.vfceqScalar (d : VRegNo) (a : VRegNo) (b : SReg) : RoundTrip.Statement (.vfceqScalar d a b) := fun _ hwf rest =>
  accepts (decode_packA rest rfl (by decide) (by decide) d.isLt a.isLt (Nat.lt_of_lt_of_le b.isLt (by decide)))
    (congrArg fields (aVxVySz_eq .vfceqScalar d a b)) hwf
theorem RoundTrip.vfcltScalar (d : VRegNo) (a : VRegNo) (b : SReg) : RoundTrip.Statement (.vfcltScalar d a b) := fun _ hwf rest =>
  accepts (decode_packA rest rfl (by decide) (by decide) d.isLt a.isLt (Nat.lt_of_lt_of_le b.isLt (by decide)))
    (congrArg fields (aVxVySz_eq .vfcltScalar d a b)) hwf
theorem RoundTrip.vfcleScalar (d : VRegNo) (a : VRegNo) (b : SReg) : RoundTrip.Statement (.vfcleScalar d a b) := fun _ hwf rest =>
  accepts (decode_packA rest rfl (by decide) (by decide) d.isLt a.isLt (Nat.lt_of_lt_of_le b.isLt (by decide)))
    (congrArg fields (aVxVySz_eq .vfcleScalar d a b)) hwf
theorem RoundTrip.vfcunScalar (d : VRegNo) (a : VRegNo) (b : SReg) : RoundTrip.Statement (.vfcunScalar d a b) := fun _ hwf rest =>
  accepts (decode_packA rest rfl (by decide) (by decide) d.isLt a.isLt (Nat.lt_of_lt_of_le b.isLt (by decide)))
    (congrArg fields (aVxVySz_eq .vfcunScalar d a b)) hwf
theorem RoundTrip.vfdivScalar (d : VRegNo) (a : VRegNo) (b : SReg) : RoundTrip.Statement (.vfdivScalar d a b) := fun _ hwf rest =>
  accepts (decode_packA rest rfl (by decide) (by decide) d.isLt a.isLt (Nat.lt_of_lt_of_le b.isLt (by decide)))
    (congrArg fields (aVxVySz_eq .vfdivScalar d a b)) hwf
theorem RoundTrip.vfcopysignScalar (d : VRegNo) (a : VRegNo) (b : SReg) : RoundTrip.Statement (.vfcopysignScalar d a b) := fun _ hwf rest =>
  accepts (decode_packA rest rfl (by decide) (by decide) d.isLt a.isLt (Nat.lt_of_lt_of_le b.isLt (by decide)))
    (congrArg fields (aVxVySz_eq .vfcopysignScalar d a b)) hwf
theorem RoundTrip.vhadd (d : VRegNo) (a : VRegNo) (b : VRegNo) : RoundTrip.Statement (.vhadd d a b) := fun _ hwf rest =>
  accepts (decode_packA rest rfl (by decide) (by decide) d.isLt a.isLt b.isLt)
    (congrArg fields (aVxVyVz_eq .vhadd d a b)) hwf
theorem RoundTrip.vhsub (d : VRegNo) (a : VRegNo) (b : VRegNo) : RoundTrip.Statement (.vhsub d a b) := fun _ hwf rest =>
  accepts (decode_packA rest rfl (by decide) (by decide) d.isLt a.isLt b.isLt)
    (congrArg fields (aVxVyVz_eq .vhsub d a b)) hwf
theorem RoundTrip.vhmul (d : VRegNo) (a : VRegNo) (b : VRegNo) : RoundTrip.Statement (.vhmul d a b) := fun _ hwf rest =>
  accepts (decode_packA rest rfl (by decide) (by decide) d.isLt a.isLt b.isLt)
    (congrArg fields (aVxVyVz_eq .vhmul d a b)) hwf
theorem RoundTrip.vhfma (d : VRegNo) (a : VRegNo) (b : VRegNo) : RoundTrip.Statement (.vhfma d a b) := fun _ hwf rest =>
  accepts (decode_packA rest rfl (by decide) (by decide) d.isLt a.isLt b.isLt)
    (congrArg fields (aVxVyVz_eq .vhfma d a b)) hwf
theorem RoundTrip.vhmin (d : VRegNo) (a : VRegNo) (b : VRegNo) : RoundTrip.Statement (.vhmin d a b) := fun _ hwf rest =>
  accepts (decode_packA rest rfl (by decide) (by decide) d.isLt a.isLt b.isLt)
    (congrArg fields (aVxVyVz_eq .vhmin d a b)) hwf
theorem RoundTrip.vhmax (d : VRegNo) (a : VRegNo) (b : VRegNo) : RoundTrip.Statement (.vhmax d a b) := fun _ hwf rest =>
  accepts (decode_packA rest rfl (by decide) (by decide) d.isLt a.isLt b.isLt)
    (congrArg fields (aVxVyVz_eq .vhmax d a b)) hwf
theorem RoundTrip.vhceq (d : VRegNo) (a : VRegNo) (b : VRegNo) : RoundTrip.Statement (.vhceq d a b) := fun _ hwf rest =>
  accepts (decode_packA rest rfl (by decide) (by decide) d.isLt a.isLt b.isLt)
    (congrArg fields (aVxVyVz_eq .vhceq d a b)) hwf
theorem RoundTrip.vhclt (d : VRegNo) (a : VRegNo) (b : VRegNo) : RoundTrip.Statement (.vhclt d a b) := fun _ hwf rest =>
  accepts (decode_packA rest rfl (by decide) (by decide) d.isLt a.isLt b.isLt)
    (congrArg fields (aVxVyVz_eq .vhclt d a b)) hwf
theorem RoundTrip.vhcle (d : VRegNo) (a : VRegNo) (b : VRegNo) : RoundTrip.Statement (.vhcle d a b) := fun _ hwf rest =>
  accepts (decode_packA rest rfl (by decide) (by decide) d.isLt a.isLt b.isLt)
    (congrArg fields (aVxVyVz_eq .vhcle d a b)) hwf
theorem RoundTrip.vhcun (d : VRegNo) (a : VRegNo) (b : VRegNo) : RoundTrip.Statement (.vhcun d a b) := fun _ hwf rest =>
  accepts (decode_packA rest rfl (by decide) (by decide) d.isLt a.isLt b.isLt)
    (congrArg fields (aVxVyVz_eq .vhcun d a b)) hwf
theorem RoundTrip.vhaddBf (d : VRegNo) (a : VRegNo) (b : VRegNo) : RoundTrip.Statement (.vhaddBf d a b) := fun _ hwf rest =>
  accepts (decode_packA rest rfl (by decide) (by decide) d.isLt a.isLt b.isLt)
    (congrArg fields (aVxVyVz_eq .vhaddBf d a b)) hwf
theorem RoundTrip.vhsubBf (d : VRegNo) (a : VRegNo) (b : VRegNo) : RoundTrip.Statement (.vhsubBf d a b) := fun _ hwf rest =>
  accepts (decode_packA rest rfl (by decide) (by decide) d.isLt a.isLt b.isLt)
    (congrArg fields (aVxVyVz_eq .vhsubBf d a b)) hwf
theorem RoundTrip.vhmulBf (d : VRegNo) (a : VRegNo) (b : VRegNo) : RoundTrip.Statement (.vhmulBf d a b) := fun _ hwf rest =>
  accepts (decode_packA rest rfl (by decide) (by decide) d.isLt a.isLt b.isLt)
    (congrArg fields (aVxVyVz_eq .vhmulBf d a b)) hwf
theorem RoundTrip.vhfmaBf (d : VRegNo) (a : VRegNo) (b : VRegNo) : RoundTrip.Statement (.vhfmaBf d a b) := fun _ hwf rest =>
  accepts (decode_packA rest rfl (by decide) (by decide) d.isLt a.isLt b.isLt)
    (congrArg fields (aVxVyVz_eq .vhfmaBf d a b)) hwf
theorem RoundTrip.vhminBf (d : VRegNo) (a : VRegNo) (b : VRegNo) : RoundTrip.Statement (.vhminBf d a b) := fun _ hwf rest =>
  accepts (decode_packA rest rfl (by decide) (by decide) d.isLt a.isLt b.isLt)
    (congrArg fields (aVxVyVz_eq .vhminBf d a b)) hwf
theorem RoundTrip.vhmaxBf (d : VRegNo) (a : VRegNo) (b : VRegNo) : RoundTrip.Statement (.vhmaxBf d a b) := fun _ hwf rest =>
  accepts (decode_packA rest rfl (by decide) (by decide) d.isLt a.isLt b.isLt)
    (congrArg fields (aVxVyVz_eq .vhmaxBf d a b)) hwf
theorem RoundTrip.vhceqBf (d : VRegNo) (a : VRegNo) (b : VRegNo) : RoundTrip.Statement (.vhceqBf d a b) := fun _ hwf rest =>
  accepts (decode_packA rest rfl (by decide) (by decide) d.isLt a.isLt b.isLt)
    (congrArg fields (aVxVyVz_eq .vhceqBf d a b)) hwf
theorem RoundTrip.vhcltBf (d : VRegNo) (a : VRegNo) (b : VRegNo) : RoundTrip.Statement (.vhcltBf d a b) := fun _ hwf rest =>
  accepts (decode_packA rest rfl (by decide) (by decide) d.isLt a.isLt b.isLt)
    (congrArg fields (aVxVyVz_eq .vhcltBf d a b)) hwf
theorem RoundTrip.vhcleBf (d : VRegNo) (a : VRegNo) (b : VRegNo) : RoundTrip.Statement (.vhcleBf d a b) := fun _ hwf rest =>
  accepts (decode_packA rest rfl (by decide) (by decide) d.isLt a.isLt b.isLt)
    (congrArg fields (aVxVyVz_eq .vhcleBf d a b)) hwf
theorem RoundTrip.vhcunBf (d : VRegNo) (a : VRegNo) (b : VRegNo) : RoundTrip.Statement (.vhcunBf d a b) := fun _ hwf rest =>
  accepts (decode_packA rest rfl (by decide) (by decide) d.isLt a.isLt b.isLt)
    (congrArg fields (aVxVyVz_eq .vhcunBf d a b)) hwf
theorem RoundTrip.vcvt (d : VRegNo) (a : VRegNo) (f : BitVec 7) (r : Bool) (s : Bool) (k : BitVec 3) : RoundTrip.Statement (.vcvt d a f r s k) := fun _ hwf rest =>
  accepts (decode_packA rest rfl (by decide) (by have := Bool.toNat_lt r; have := Bool.toNat_lt s; omega) d.isLt a.isLt f.isLt)
    (congrArg fields (aVxVyFzFFK_eq .vcvt d a f r s k)) hwf
theorem RoundTrip.vshuf (d : VRegNo) (a : VRegNo) (i : VRegNo) : RoundTrip.Statement (.vshuf d a i) := fun _ hwf rest =>
  accepts (decode_packA rest rfl (by decide) (by decide) d.isLt a.isLt i.isLt)
    (congrArg fields (aVxVyVz_eq .vshuf d a i)) hwf
theorem RoundTrip.vrotl (d : VRegNo) (a : VRegNo) (k : SReg) : RoundTrip.Statement (.vrotl d a k) := fun _ hwf rest =>
  accepts (decode_packA rest rfl (by decide) (by decide) d.isLt a.isLt (Nat.lt_of_lt_of_le k.isLt (by decide)))
    (congrArg fields (aVxVySz_eq .vrotl d a k)) hwf
theorem RoundTrip.vbfly (d : VRegNo) (a : VRegNo) (k : SReg) : RoundTrip.Statement (.vbfly d a k) := fun _ hwf rest =>
  accepts (decode_packA rest rfl (by decide) (by decide) d.isLt a.isLt (Nat.lt_of_lt_of_le k.isLt (by decide)))
    (congrArg fields (aVxVySz_eq .vbfly d a k)) hwf
theorem RoundTrip.vbcast (d : VRegNo) (a : VRegNo) (k : SReg) : RoundTrip.Statement (.vbcast d a k) := fun _ hwf rest =>
  accepts (decode_packA rest rfl (by decide) (by decide) d.isLt a.isLt (Nat.lt_of_lt_of_le k.isLt (by decide)))
    (congrArg fields (aVxVySz_eq .vbcast d a k)) hwf
theorem RoundTrip.vextr (d : SReg) (a : VRegNo) (k : SReg) : RoundTrip.Statement (.vextr d a k) := fun _ hwf rest =>
  accepts (decode_packA rest rfl (by decide) (by decide) (Nat.lt_of_lt_of_le d.isLt (by decide)) a.isLt (Nat.lt_of_lt_of_le k.isLt (by decide)))
    (congrArg fields (aSxVySz_eq .vextr d a k)) hwf
theorem RoundTrip.vins (d : VRegNo) (a : SReg) (k : SReg) : RoundTrip.Statement (.vins d a k) := fun _ hwf rest =>
  accepts (decode_packA rest rfl (by decide) (by decide) d.isLt (Nat.lt_of_lt_of_le a.isLt (by decide)) (Nat.lt_of_lt_of_le k.isLt (by decide)))
    (congrArg fields (aVxSySz_eq .vins d a k)) hwf
theorem RoundTrip.vprefix (d : VRegNo) (a : VRegNo) : RoundTrip.Statement (.vprefix d a) := fun _ hwf rest =>
  accepts (decode_packA rest rfl (by decide) (by decide) d.isLt a.isLt (by decide))
    (congrArg fields (aVxVy_eq .vprefix d a)) hwf
theorem RoundTrip.vredadd (d : SReg) (a : VRegNo) : RoundTrip.Statement (.vredadd d a) := fun _ hwf rest =>
  accepts (decode_packA rest rfl (by decide) (by decide) (Nat.lt_of_lt_of_le d.isLt (by decide)) a.isLt (by decide))
    (congrArg fields (aSxVy_eq .vredadd d a)) hwf
theorem RoundTrip.vredmin (d : SReg) (a : VRegNo) : RoundTrip.Statement (.vredmin d a) := fun _ hwf rest =>
  accepts (decode_packA rest rfl (by decide) (by decide) (Nat.lt_of_lt_of_le d.isLt (by decide)) a.isLt (by decide))
    (congrArg fields (aSxVy_eq .vredmin d a)) hwf
theorem RoundTrip.vredmax (d : SReg) (a : VRegNo) : RoundTrip.Statement (.vredmax d a) := fun _ hwf rest =>
  accepts (decode_packA rest rfl (by decide) (by decide) (Nat.lt_of_lt_of_le d.isLt (by decide)) a.isLt (by decide))
    (congrArg fields (aSxVy_eq .vredmax d a)) hwf
theorem RoundTrip.vredminu (d : SReg) (a : VRegNo) : RoundTrip.Statement (.vredminu d a) := fun _ hwf rest =>
  accepts (decode_packA rest rfl (by decide) (by decide) (Nat.lt_of_lt_of_le d.isLt (by decide)) a.isLt (by decide))
    (congrArg fields (aSxVy_eq .vredminu d a)) hwf
theorem RoundTrip.vredmaxu (d : SReg) (a : VRegNo) : RoundTrip.Statement (.vredmaxu d a) := fun _ hwf rest =>
  accepts (decode_packA rest rfl (by decide) (by decide) (Nat.lt_of_lt_of_le d.isLt (by decide)) a.isLt (by decide))
    (congrArg fields (aSxVy_eq .vredmaxu d a)) hwf
theorem RoundTrip.vredfadd (d : SReg) (a : VRegNo) : RoundTrip.Statement (.vredfadd d a) := fun _ hwf rest =>
  accepts (decode_packA rest rfl (by decide) (by decide) (Nat.lt_of_lt_of_le d.isLt (by decide)) a.isLt (by decide))
    (congrArg fields (aSxVy_eq .vredfadd d a)) hwf
theorem RoundTrip.vmerge (d : VRegNo) (a : VRegNo) (b : VRegNo) : RoundTrip.Statement (.vmerge d a b) := fun _ hwf rest =>
  accepts (decode_packA rest rfl (by decide) (by decide) d.isLt a.isLt b.isLt)
    (congrArg fields (aVxVyVz_eq .vmerge d a b)) hwf
theorem RoundTrip.vlaneid (d : VRegNo) : RoundTrip.Statement (.vlaneid d) := fun _ hwf rest =>
  accepts (decode_packA rest rfl (by decide) (by decide) d.isLt (by decide) (by decide))
    (congrArg fields (aVx_eq .vlaneid d)) hwf
theorem RoundTrip.vmov (d : VRegNo) (a : VRegNo) : RoundTrip.Statement (.vmov d a) := fun _ hwf rest =>
  accepts (decode_packA rest rfl (by decide) (by decide) d.isLt a.isLt (by decide))
    (congrArg fields (aVxVy_eq .vmov d a)) hwf
theorem RoundTrip.vmovs (d : VRegNo) (a : SReg) : RoundTrip.Statement (.vmovs d a) := fun _ hwf rest =>
  accepts (decode_packA rest rfl (by decide) (by decide) d.isLt (Nat.lt_of_lt_of_le a.isLt (by decide)) (by decide))
    (congrArg fields (aVxSy_eq .vmovs d a)) hwf
theorem RoundTrip.vactmask (d : SReg) : RoundTrip.Statement (.vactmask d) := fun _ hwf rest =>
  accepts (decode_packA rest rfl (by decide) (by decide) (Nat.lt_of_lt_of_le d.isLt (by decide)) (by decide) (by decide))
    (congrArg fields (aSx_eq .vactmask d)) hwf
theorem RoundTrip.vpackb (d : VRegNo) (a : VRegNo) (q : SReg) : RoundTrip.Statement (.vpackb d a q) := fun _ hwf rest =>
  accepts (decode_packA rest rfl (by decide) (by decide) d.isLt a.isLt (Nat.lt_of_lt_of_le q.isLt (by decide)))
    (congrArg fields (aVxVySz_eq .vpackb d a q)) hwf
theorem RoundTrip.vunpkb (d : VRegNo) (a : VRegNo) (q : SReg) : RoundTrip.Statement (.vunpkb d a q) := fun _ hwf rest =>
  accepts (decode_packA rest rfl (by decide) (by decide) d.isLt a.isLt (Nat.lt_of_lt_of_le q.isLt (by decide)))
    (congrArg fields (aVxVySz_eq .vunpkb d a q)) hwf
theorem RoundTrip.vpackh (d : VRegNo) (a : VRegNo) (q : SReg) : RoundTrip.Statement (.vpackh d a q) := fun _ hwf rest =>
  accepts (decode_packA rest rfl (by decide) (by decide) d.isLt a.isLt (Nat.lt_of_lt_of_le q.isLt (by decide)))
    (congrArg fields (aVxVySz_eq .vpackh d a q)) hwf
theorem RoundTrip.vunpkh (d : VRegNo) (a : VRegNo) (q : SReg) : RoundTrip.Statement (.vunpkh d a q) := fun _ hwf rest =>
  accepts (decode_packA rest rfl (by decide) (by decide) d.isLt a.isLt (Nat.lt_of_lt_of_le q.isLt (by decide)))
    (congrArg fields (aVxVySz_eq .vunpkh d a q)) hwf
theorem RoundTrip.vrand (d : VRegNo) : RoundTrip.Statement (.vrand d) := fun _ hwf rest =>
  accepts (decode_packA rest rfl (by decide) (by decide) d.isLt (by decide) (by decide))
    (congrArg fields (aVx_eq .vrand d)) hwf
theorem RoundTrip.vrandf (d : VRegNo) : RoundTrip.Statement (.vrandf d) := fun _ hwf rest =>
  accepts (decode_packA rest rfl (by decide) (by decide) d.isLt (by decide) (by decide))
    (congrArg fields (aVx_eq .vrandf d)) hwf
theorem RoundTrip.xclr (a : SReg) : RoundTrip.Statement (.xclr a) := fun _ hwf rest =>
  accepts (decode_packA rest rfl (by decide) (by decide) (by decide) (Nat.lt_of_lt_of_le a.isLt (by decide)) (by decide))
    (congrArg fields (aSy_eq .xclr a)) hwf
theorem RoundTrip.xadd (a : SReg) (b : VRegNo) : RoundTrip.Statement (.xadd a b) := fun _ hwf rest =>
  accepts (decode_packA rest rfl (by decide) (by decide) (by decide) (Nat.lt_of_lt_of_le a.isLt (by decide)) b.isLt)
    (congrArg fields (aSyVz_eq .xadd a b)) hwf
theorem RoundTrip.xaddh (a : SReg) (b : VRegNo) : RoundTrip.Statement (.xaddh a b) := fun _ hwf rest =>
  accepts (decode_packA rest rfl (by decide) (by decide) (by decide) (Nat.lt_of_lt_of_le a.isLt (by decide)) b.isLt)
    (congrArg fields (aSyVz_eq .xaddh a b)) hwf
theorem RoundTrip.xmerge (a : SReg) (b : SReg) : RoundTrip.Statement (.xmerge a b) := fun _ hwf rest =>
  accepts (decode_packA rest rfl (by decide) (by decide) (by decide) (Nat.lt_of_lt_of_le a.isLt (by decide)) (Nat.lt_of_lt_of_le b.isLt (by decide)))
    (congrArg fields (aSySz_eq .xmerge a b)) hwf
theorem RoundTrip.xrdS (d : SReg) (a : SReg) : RoundTrip.Statement (.xrdS d a) := fun _ hwf rest =>
  accepts (decode_packA rest rfl (by decide) (by decide) (Nat.lt_of_lt_of_le d.isLt (by decide)) (Nat.lt_of_lt_of_le a.isLt (by decide)) (by decide))
    (congrArg fields (aSxSy2_eq .xrdS d a)) hwf
theorem RoundTrip.xrdD (d : SReg) (a : SReg) : RoundTrip.Statement (.xrdD d a) := fun _ hwf rest =>
  accepts (decode_packA rest rfl (by decide) (by decide) (Nat.lt_of_lt_of_le d.isLt (by decide)) (Nat.lt_of_lt_of_le a.isLt (by decide)) (by decide))
    (congrArg fields (aSxSy2_eq .xrdD d a)) hwf
theorem RoundTrip.ld (d : SReg) (b : SReg) (c : Scope) (o : Order) (z : Size) : RoundTrip.Statement (.ld d b c o z) := fun _ hwf rest =>
  accepts (decode_packM rest rfl (by decide) (by decide) (Nat.lt_of_lt_of_le d.isLt (by decide)) (Nat.lt_of_lt_of_le b.isLt (by decide)) (scope_code_lt c) (order_code_lt o) (size_code_lt z))
    (congrArg fields (mSxSyCOZz_eq .ld d b c o z)) hwf
theorem RoundTrip.lds (d : SReg) (b : SReg) (c : Scope) (o : Order) (z : Size) : RoundTrip.Statement (.lds d b c o z) := fun _ hwf rest =>
  accepts (decode_packM rest rfl (by decide) (by decide) (Nat.lt_of_lt_of_le d.isLt (by decide)) (Nat.lt_of_lt_of_le b.isLt (by decide)) (scope_code_lt c) (order_code_lt o) (size_code_lt z))
    (congrArg fields (mSxSyCOZz_eq .lds d b c o z)) hwf
theorem RoundTrip.st (d : SReg) (b : SReg) (c : Scope) (o : Order) (z : Size) : RoundTrip.Statement (.st d b c o z) := fun _ hwf rest =>
  accepts (decode_packM rest rfl (by decide) (by decide) (Nat.lt_of_lt_of_le d.isLt (by decide)) (Nat.lt_of_lt_of_le b.isLt (by decide)) (scope_code_lt c) (order_code_lt o) (size_code_lt z))
    (congrArg fields (mSxSyCOZz_eq .st d b c o z)) hwf
theorem RoundTrip.ldfe (d : SReg) (b : SReg) (c : Scope) (o : Order) : RoundTrip.Statement (.ldfe d b c o) := fun _ hwf rest =>
  accepts (decode_packM rest rfl (by decide) (by decide) (Nat.lt_of_lt_of_le d.isLt (by decide)) (Nat.lt_of_lt_of_le b.isLt (by decide)) (scope_code_lt c) (order_code_lt o) (by decide))
    (congrArg fields (mSxSyCO_eq .ldfe d b c o)) hwf
theorem RoundTrip.stfe (d : SReg) (b : SReg) (c : Scope) (o : Order) : RoundTrip.Statement (.stfe d b c o) := fun _ hwf rest =>
  accepts (decode_packM rest rfl (by decide) (by decide) (Nat.lt_of_lt_of_le d.isLt (by decide)) (Nat.lt_of_lt_of_le b.isLt (by decide)) (scope_code_lt c) (order_code_lt o) (by decide))
    (congrArg fields (mSxSyCO_eq .stfe d b c o)) hwf
theorem RoundTrip.ldf (d : SReg) (b : SReg) (c : Scope) (o : Order) : RoundTrip.Statement (.ldf d b c o) := fun _ hwf rest =>
  accepts (decode_packM rest rfl (by decide) (by decide) (Nat.lt_of_lt_of_le d.isLt (by decide)) (Nat.lt_of_lt_of_le b.isLt (by decide)) (scope_code_lt c) (order_code_lt o) (by decide))
    (congrArg fields (mSxSyCO_eq .ldf d b c o)) hwf
theorem RoundTrip.stf (d : SReg) (b : SReg) (c : Scope) (o : Order) : RoundTrip.Statement (.stf d b c o) := fun _ hwf rest =>
  accepts (decode_packM rest rfl (by decide) (by decide) (Nat.lt_of_lt_of_le d.isLt (by decide)) (Nat.lt_of_lt_of_le b.isLt (by decide)) (scope_code_lt c) (order_code_lt o) (by decide))
    (congrArg fields (mSxSyCO_eq .stf d b c o)) hwf
theorem RoundTrip.feset (b : SReg) (c : Scope) (o : Order) : RoundTrip.Statement (.feset b c o) := fun _ hwf rest =>
  accepts (decode_packM rest rfl (by decide) (by decide) (by decide) (Nat.lt_of_lt_of_le b.isLt (by decide)) (scope_code_lt c) (order_code_lt o) (by decide))
    (congrArg fields (mSyCO_eq .feset b c o)) hwf
theorem RoundTrip.feclr (b : SReg) (c : Scope) (o : Order) : RoundTrip.Statement (.feclr b c o) := fun _ hwf rest =>
  accepts (decode_packM rest rfl (by decide) (by decide) (by decide) (Nat.lt_of_lt_of_le b.isLt (by decide)) (scope_code_lt c) (order_code_lt o) (by decide))
    (congrArg fields (mSyCO_eq .feclr b c o)) hwf
theorem RoundTrip.feget (d : SReg) (b : SReg) (c : Scope) (o : Order) : RoundTrip.Statement (.feget d b c o) := fun _ hwf rest =>
  accepts (decode_packM rest rfl (by decide) (by decide) (Nat.lt_of_lt_of_le d.isLt (by decide)) (Nat.lt_of_lt_of_le b.isLt (by decide)) (scope_code_lt c) (order_code_lt o) (by decide))
    (congrArg fields (mSxSyCO_eq .feget d b c o)) hwf
theorem RoundTrip.waiteq (d : SReg) (b : SReg) (c : Scope) (o : Order) (z : Size) : RoundTrip.Statement (.waiteq d b c o z) := fun _ hwf rest =>
  accepts (decode_packM rest rfl (by decide) (by decide) (Nat.lt_of_lt_of_le d.isLt (by decide)) (Nat.lt_of_lt_of_le b.isLt (by decide)) (scope_code_lt c) (order_code_lt o) (size_code_lt z))
    (congrArg fields (mSxSyCOZz_eq .waiteq d b c o z)) hwf
theorem RoundTrip.waitne (d : SReg) (b : SReg) (c : Scope) (o : Order) (z : Size) : RoundTrip.Statement (.waitne d b c o z) := fun _ hwf rest =>
  accepts (decode_packM rest rfl (by decide) (by decide) (Nat.lt_of_lt_of_le d.isLt (by decide)) (Nat.lt_of_lt_of_le b.isLt (by decide)) (scope_code_lt c) (order_code_lt o) (size_code_lt z))
    (congrArg fields (mSxSyCOZz_eq .waitne d b c o z)) hwf
theorem RoundTrip.pref (b : SReg) : RoundTrip.Statement (.pref b) := fun _ hwf rest =>
  accepts (decode_packM rest rfl (by decide) (by decide) (by decide) (Nat.lt_of_lt_of_le b.isLt (by decide)) (by decide) (by decide) (by decide))
    (congrArg fields (mSy_eq .pref b)) hwf
theorem RoundTrip.vld (d : VRegNo) (b : SReg) (c : Scope) (o : Order) (z : VSize) : RoundTrip.Statement (.vld d b c o z) := fun _ hwf rest =>
  accepts (decode_packV rest rfl (by decide) d.isLt b.isLt (by decide) (scope_code_lt c) (order_code_lt o) (vsize_code_lt z))
    (congrArg fields (vVxSyCOZz_eq .vld d b c o z)) hwf
theorem RoundTrip.vldFe (d : VRegNo) (b : SReg) (c : Scope) (o : Order) : RoundTrip.Statement (.vldFe d b c o) := fun _ hwf rest =>
  accepts (decode_packV rest rfl (by decide) d.isLt b.isLt (by decide) (scope_code_lt c) (order_code_lt o) (by decide))
    (congrArg fields (vVxSyCO_eq .vldFe d b c o)) hwf
theorem RoundTrip.vldF (d : VRegNo) (b : SReg) (c : Scope) (o : Order) : RoundTrip.Statement (.vldF d b c o) := fun _ hwf rest =>
  accepts (decode_packV rest rfl (by decide) d.isLt b.isLt (by decide) (scope_code_lt c) (order_code_lt o) (by decide))
    (congrArg fields (vVxSyCO_eq .vldF d b c o)) hwf
theorem RoundTrip.vst (d : VRegNo) (b : SReg) (c : Scope) (o : Order) (z : VSize) : RoundTrip.Statement (.vst d b c o z) := fun _ hwf rest =>
  accepts (decode_packV rest rfl (by decide) d.isLt b.isLt (by decide) (scope_code_lt c) (order_code_lt o) (vsize_code_lt z))
    (congrArg fields (vVxSyCOZz_eq .vst d b c o z)) hwf
theorem RoundTrip.vstFe (d : VRegNo) (b : SReg) (c : Scope) (o : Order) : RoundTrip.Statement (.vstFe d b c o) := fun _ hwf rest =>
  accepts (decode_packV rest rfl (by decide) d.isLt b.isLt (by decide) (scope_code_lt c) (order_code_lt o) (by decide))
    (congrArg fields (vVxSyCO_eq .vstFe d b c o)) hwf
theorem RoundTrip.vstF (d : VRegNo) (b : SReg) (c : Scope) (o : Order) : RoundTrip.Statement (.vstF d b c o) := fun _ hwf rest =>
  accepts (decode_packV rest rfl (by decide) d.isLt b.isLt (by decide) (scope_code_lt c) (order_code_lt o) (by decide))
    (congrArg fields (vVxSyCO_eq .vstF d b c o)) hwf
theorem RoundTrip.vgath (d : VRegNo) (b : SReg) (i : VRegNo) (c : Scope) (o : Order) (z : VSize) : RoundTrip.Statement (.vgath d b i c o z) := fun _ hwf rest =>
  accepts (decode_packV rest rfl (by decide) d.isLt b.isLt i.isLt (scope_code_lt c) (order_code_lt o) (vsize_code_lt z))
    (congrArg fields (vVxSyViCOZz_eq .vgath d b i c o z)) hwf
theorem RoundTrip.vscat (d : VRegNo) (b : SReg) (i : VRegNo) (c : Scope) (o : Order) (z : VSize) : RoundTrip.Statement (.vscat d b i c o z) := fun _ hwf rest =>
  accepts (decode_packV rest rfl (by decide) d.isLt b.isLt i.isLt (scope_code_lt c) (order_code_lt o) (vsize_code_lt z))
    (congrArg fields (vVxSyViCOZz_eq .vscat d b i c o z)) hwf
theorem RoundTrip.vldk (d : VRegNo) (b : SReg) (k : SReg) (c : Scope) (o : Order) (z : VSize) : RoundTrip.Statement (.vldk d b k c o z) := fun _ hwf rest =>
  accepts (decode_packV rest rfl (by decide) d.isLt b.isLt (Nat.lt_of_lt_of_le k.isLt (by decide)) (scope_code_lt c) (order_code_lt o) (vsize_code_lt z))
    (congrArg fields (vVxSySCOZz_eq .vldk d b k c o z)) hwf
theorem RoundTrip.vstk (d : VRegNo) (b : SReg) (k : SReg) (c : Scope) (o : Order) (z : VSize) : RoundTrip.Statement (.vstk d b k c o z) := fun _ hwf rest =>
  accepts (decode_packV rest rfl (by decide) d.isLt b.isLt (Nat.lt_of_lt_of_le k.isLt (by decide)) (scope_code_lt c) (order_code_lt o) (vsize_code_lt z))
    (congrArg fields (vVxSySCOZz_eq .vstk d b k c o z)) hwf
theorem RoundTrip.aadd (d : SReg) (b : SReg) (c : Scope) (o : Order) (z : Size) : RoundTrip.Statement (.aadd d b c o z) := fun _ hwf rest =>
  accepts (decode_packM rest rfl (by decide) (by decide) (Nat.lt_of_lt_of_le d.isLt (by decide)) (Nat.lt_of_lt_of_le b.isLt (by decide)) (scope_code_lt c) (order_code_lt o) (size_code_lt z))
    (congrArg fields (mSxSyCOZz_eq .aadd d b c o z)) hwf
theorem RoundTrip.aand (d : SReg) (b : SReg) (c : Scope) (o : Order) (z : Size) : RoundTrip.Statement (.aand d b c o z) := fun _ hwf rest =>
  accepts (decode_packM rest rfl (by decide) (by decide) (Nat.lt_of_lt_of_le d.isLt (by decide)) (Nat.lt_of_lt_of_le b.isLt (by decide)) (scope_code_lt c) (order_code_lt o) (size_code_lt z))
    (congrArg fields (mSxSyCOZz_eq .aand d b c o z)) hwf
theorem RoundTrip.aor (d : SReg) (b : SReg) (c : Scope) (o : Order) (z : Size) : RoundTrip.Statement (.aor d b c o z) := fun _ hwf rest =>
  accepts (decode_packM rest rfl (by decide) (by decide) (Nat.lt_of_lt_of_le d.isLt (by decide)) (Nat.lt_of_lt_of_le b.isLt (by decide)) (scope_code_lt c) (order_code_lt o) (size_code_lt z))
    (congrArg fields (mSxSyCOZz_eq .aor d b c o z)) hwf
theorem RoundTrip.axor (d : SReg) (b : SReg) (c : Scope) (o : Order) (z : Size) : RoundTrip.Statement (.axor d b c o z) := fun _ hwf rest =>
  accepts (decode_packM rest rfl (by decide) (by decide) (Nat.lt_of_lt_of_le d.isLt (by decide)) (Nat.lt_of_lt_of_le b.isLt (by decide)) (scope_code_lt c) (order_code_lt o) (size_code_lt z))
    (congrArg fields (mSxSyCOZz_eq .axor d b c o z)) hwf
theorem RoundTrip.amin (d : SReg) (b : SReg) (c : Scope) (o : Order) (z : Size) : RoundTrip.Statement (.amin d b c o z) := fun _ hwf rest =>
  accepts (decode_packM rest rfl (by decide) (by decide) (Nat.lt_of_lt_of_le d.isLt (by decide)) (Nat.lt_of_lt_of_le b.isLt (by decide)) (scope_code_lt c) (order_code_lt o) (size_code_lt z))
    (congrArg fields (mSxSyCOZz_eq .amin d b c o z)) hwf
theorem RoundTrip.amax (d : SReg) (b : SReg) (c : Scope) (o : Order) (z : Size) : RoundTrip.Statement (.amax d b c o z) := fun _ hwf rest =>
  accepts (decode_packM rest rfl (by decide) (by decide) (Nat.lt_of_lt_of_le d.isLt (by decide)) (Nat.lt_of_lt_of_le b.isLt (by decide)) (scope_code_lt c) (order_code_lt o) (size_code_lt z))
    (congrArg fields (mSxSyCOZz_eq .amax d b c o z)) hwf
theorem RoundTrip.aminu (d : SReg) (b : SReg) (c : Scope) (o : Order) (z : Size) : RoundTrip.Statement (.aminu d b c o z) := fun _ hwf rest =>
  accepts (decode_packM rest rfl (by decide) (by decide) (Nat.lt_of_lt_of_le d.isLt (by decide)) (Nat.lt_of_lt_of_le b.isLt (by decide)) (scope_code_lt c) (order_code_lt o) (size_code_lt z))
    (congrArg fields (mSxSyCOZz_eq .aminu d b c o z)) hwf
theorem RoundTrip.amaxu (d : SReg) (b : SReg) (c : Scope) (o : Order) (z : Size) : RoundTrip.Statement (.amaxu d b c o z) := fun _ hwf rest =>
  accepts (decode_packM rest rfl (by decide) (by decide) (Nat.lt_of_lt_of_le d.isLt (by decide)) (Nat.lt_of_lt_of_le b.isLt (by decide)) (scope_code_lt c) (order_code_lt o) (size_code_lt z))
    (congrArg fields (mSxSyCOZz_eq .amaxu d b c o z)) hwf
theorem RoundTrip.aswap (d : SReg) (b : SReg) (c : Scope) (o : Order) (z : Size) : RoundTrip.Statement (.aswap d b c o z) := fun _ hwf rest =>
  accepts (decode_packM rest rfl (by decide) (by decide) (Nat.lt_of_lt_of_le d.isLt (by decide)) (Nat.lt_of_lt_of_le b.isLt (by decide)) (scope_code_lt c) (order_code_lt o) (size_code_lt z))
    (congrArg fields (mSxSyCOZz_eq .aswap d b c o z)) hwf
theorem RoundTrip.acas (d : SReg) (b : SReg) (c : Scope) (o : Order) (z : Size) : RoundTrip.Statement (.acas d b c o z) := fun _ hwf rest =>
  accepts (decode_packM rest rfl (by decide) (by decide) (Nat.lt_of_lt_of_le d.isLt (by decide)) (Nat.lt_of_lt_of_le b.isLt (by decide)) (scope_code_lt c) (order_code_lt o) (size_code_lt z))
    (congrArg fields (mSxSyCOZz_eq .acas d b c o z)) hwf
theorem RoundTrip.afadd (d : SReg) (b : SReg) (c : Scope) (o : Order) : RoundTrip.Statement (.afadd d b c o) := fun _ hwf rest =>
  accepts (decode_packM rest rfl (by decide) (by decide) (Nat.lt_of_lt_of_le d.isLt (by decide)) (Nat.lt_of_lt_of_le b.isLt (by decide)) (scope_code_lt c) (order_code_lt o) (by decide))
    (congrArg fields (mSxSyCO_eq .afadd d b c o)) hwf
theorem RoundTrip.afmax (d : SReg) (b : SReg) (c : Scope) (o : Order) : RoundTrip.Statement (.afmax d b c o) := fun _ hwf rest =>
  accepts (decode_packM rest rfl (by decide) (by decide) (Nat.lt_of_lt_of_le d.isLt (by decide)) (Nat.lt_of_lt_of_le b.isLt (by decide)) (scope_code_lt c) (order_code_lt o) (by decide))
    (congrArg fields (mSxSyCO_eq .afmax d b c o)) hwf
theorem RoundTrip.vaadd (d : VRegNo) (b : SReg) (i : VRegNo) (o : Order) : RoundTrip.Statement (.vaadd d b i o) := fun _ hwf rest =>
  accepts (decode_packVA rest rfl (by decide) (by decide) d.isLt b.isLt i.isLt (order_code_lt o) (by decide))
    (congrArg fields (vaVxSyViO_eq .vaadd d b i o)) hwf
theorem RoundTrip.vaand (d : VRegNo) (b : SReg) (i : VRegNo) (o : Order) : RoundTrip.Statement (.vaand d b i o) := fun _ hwf rest =>
  accepts (decode_packVA rest rfl (by decide) (by decide) d.isLt b.isLt i.isLt (order_code_lt o) (by decide))
    (congrArg fields (vaVxSyViO_eq .vaand d b i o)) hwf
theorem RoundTrip.vaor (d : VRegNo) (b : SReg) (i : VRegNo) (o : Order) : RoundTrip.Statement (.vaor d b i o) := fun _ hwf rest =>
  accepts (decode_packVA rest rfl (by decide) (by decide) d.isLt b.isLt i.isLt (order_code_lt o) (by decide))
    (congrArg fields (vaVxSyViO_eq .vaor d b i o)) hwf
theorem RoundTrip.vaxor (d : VRegNo) (b : SReg) (i : VRegNo) (o : Order) : RoundTrip.Statement (.vaxor d b i o) := fun _ hwf rest =>
  accepts (decode_packVA rest rfl (by decide) (by decide) d.isLt b.isLt i.isLt (order_code_lt o) (by decide))
    (congrArg fields (vaVxSyViO_eq .vaxor d b i o)) hwf
theorem RoundTrip.vamin (d : VRegNo) (b : SReg) (i : VRegNo) (o : Order) : RoundTrip.Statement (.vamin d b i o) := fun _ hwf rest =>
  accepts (decode_packVA rest rfl (by decide) (by decide) d.isLt b.isLt i.isLt (order_code_lt o) (by decide))
    (congrArg fields (vaVxSyViO_eq .vamin d b i o)) hwf
theorem RoundTrip.vamax (d : VRegNo) (b : SReg) (i : VRegNo) (o : Order) : RoundTrip.Statement (.vamax d b i o) := fun _ hwf rest =>
  accepts (decode_packVA rest rfl (by decide) (by decide) d.isLt b.isLt i.isLt (order_code_lt o) (by decide))
    (congrArg fields (vaVxSyViO_eq .vamax d b i o)) hwf
theorem RoundTrip.vaminu (d : VRegNo) (b : SReg) (i : VRegNo) (o : Order) : RoundTrip.Statement (.vaminu d b i o) := fun _ hwf rest =>
  accepts (decode_packVA rest rfl (by decide) (by decide) d.isLt b.isLt i.isLt (order_code_lt o) (by decide))
    (congrArg fields (vaVxSyViO_eq .vaminu d b i o)) hwf
theorem RoundTrip.vamaxu (d : VRegNo) (b : SReg) (i : VRegNo) (o : Order) : RoundTrip.Statement (.vamaxu d b i o) := fun _ hwf rest =>
  accepts (decode_packVA rest rfl (by decide) (by decide) d.isLt b.isLt i.isLt (order_code_lt o) (by decide))
    (congrArg fields (vaVxSyViO_eq .vamaxu d b i o)) hwf
theorem RoundTrip.vaswap (d : VRegNo) (b : SReg) (i : VRegNo) (o : Order) : RoundTrip.Statement (.vaswap d b i o) := fun _ hwf rest =>
  accepts (decode_packVA rest rfl (by decide) (by decide) d.isLt b.isLt i.isLt (order_code_lt o) (by decide))
    (congrArg fields (vaVxSyViO_eq .vaswap d b i o)) hwf
theorem RoundTrip.vafadd (d : VRegNo) (b : SReg) (i : VRegNo) (o : Order) : RoundTrip.Statement (.vafadd d b i o) := fun _ hwf rest =>
  accepts (decode_packVA rest rfl (by decide) (by decide) d.isLt b.isLt i.isLt (order_code_lt o) (by decide))
    (congrArg fields (vaVxSyViO_eq .vafadd d b i o)) hwf
theorem RoundTrip.fence (c : Scope) (o : Order) : RoundTrip.Statement (.fence c o) := fun _ hwf rest =>
  accepts (decode_packM rest rfl (by decide) (by decide) (by decide) (by decide) (scope_code_lt c) (order_code_lt o) (by decide))
    (congrArg fields (mCO_eq .fence c o)) hwf
theorem RoundTrip.fenceSc (c : Scope) : RoundTrip.Statement (.fenceSc c) := fun _ hwf rest =>
  accepts (decode_packM rest rfl (by decide) (by decide) (by decide) (by decide) (scope_code_lt c) (by decide) (by decide))
    (congrArg fields (mC_eq .fenceSc c)) hwf
theorem RoundTrip.fenceSv  : RoundTrip.Statement (.fenceSv) := fun _ hwf rest =>
  accepts (decode_packM rest rfl (by decide) (by decide) (by decide) (by decide) (by decide) (by decide) (by decide))
    (congrArg fields (m_eq .fenceSv )) hwf
theorem RoundTrip.barinit (n : SReg) (c : SReg) : RoundTrip.Statement (.barinit n c) := fun _ hwf rest =>
  accepts (decode_packX rest rfl (by decide) (by decide) (Nat.lt_of_lt_of_le n.isLt (by decide)) (Nat.lt_of_lt_of_le c.isLt (by decide)) (by decide))
    (congrArg fields (xSxSy_eq .barinit n c)) hwf
theorem RoundTrip.bararr (n : SReg) : RoundTrip.Statement (.bararr n) := fun _ hwf rest =>
  accepts (decode_packX rest rfl (by decide) (by decide) (by decide) (Nat.lt_of_lt_of_le n.isLt (by decide)) (by decide))
    (congrArg fields (xSy_eq .bararr n)) hwf
theorem RoundTrip.barwait (n : SReg) : RoundTrip.Statement (.barwait n) := fun _ hwf rest =>
  accepts (decode_packX rest rfl (by decide) (by decide) (by decide) (Nat.lt_of_lt_of_le n.isLt (by decide)) (by decide))
    (congrArg fields (xSy_eq .barwait n)) hwf
theorem RoundTrip.bararw (n : SReg) : RoundTrip.Statement (.bararw n) := fun _ hwf rest =>
  accepts (decode_packX rest rfl (by decide) (by decide) (by decide) (Nat.lt_of_lt_of_le n.isLt (by decide)) (by decide))
    (congrArg fields (xSy_eq .bararw n)) hwf
theorem RoundTrip.barlead (d : SReg) (n : SReg) : RoundTrip.Statement (.barlead d n) := fun _ hwf rest =>
  accepts (decode_packX rest rfl (by decide) (by decide) (Nat.lt_of_lt_of_le d.isLt (by decide)) (Nat.lt_of_lt_of_le n.isLt (by decide)) (by decide))
    (congrArg fields (xSxSy_eq .barlead d n)) hwf
theorem RoundTrip.barq (d : SReg) (n : SReg) : RoundTrip.Statement (.barq d n) := fun _ hwf rest =>
  accepts (decode_packX rest rfl (by decide) (by decide) (Nat.lt_of_lt_of_le d.isLt (by decide)) (Nat.lt_of_lt_of_le n.isLt (by decide)) (by decide))
    (congrArg fields (xSxSy_eq .barq d n)) hwf
theorem RoundTrip.tlwait (d : SReg) (v : SReg) (t : Timeline) : RoundTrip.Statement (.tlwait d v t) := fun _ hwf rest =>
  accepts (decode_packX rest rfl (by decide) (by decide) (Nat.lt_of_lt_of_le d.isLt (by decide)) (Nat.lt_of_lt_of_le v.isLt (by decide)) (timeline_code_lt t))
    (congrArg fields (xSxSyLz_eq .tlwait d v t)) hwf
theorem RoundTrip.tlget (d : SReg) (t : Timeline) : RoundTrip.Statement (.tlget d t) := fun _ hwf rest =>
  accepts (decode_packX rest rfl (by decide) (by decide) (Nat.lt_of_lt_of_le d.isLt (by decide)) (by decide) (timeline_code_lt t))
    (congrArg fields (xSxLz_eq .tlget d t)) hwf
theorem RoundTrip.nclaim (d : SReg) (b : SReg) : RoundTrip.Statement (.nclaim d b) := fun _ hwf rest =>
  accepts (decode_packX rest rfl (by decide) (by decide) (Nat.lt_of_lt_of_le d.isLt (by decide)) (Nat.lt_of_lt_of_le b.isLt (by decide)) (by decide))
    (congrArg fields (xSxSy_eq .nclaim d b)) hwf
theorem RoundTrip.nunpack (d : SReg) (i : SReg) (n : BitVec 2) : RoundTrip.Statement (.nunpack d i n) := fun _ hwf rest =>
  accepts (decode_packX rest rfl (by decide) (by decide) (Nat.lt_of_lt_of_le d.isLt (by decide)) (Nat.lt_of_lt_of_le i.isLt (by decide)) (Nat.lt_of_lt_of_le n.isLt (by decide)))
    (congrArg fields (xSxSyT_eq .nunpack d i n)) hwf
theorem RoundTrip.park (d : SReg) : RoundTrip.Statement (.park d) := fun _ hwf rest =>
  accepts (decode_packX rest rfl (by decide) (by decide) (Nat.lt_of_lt_of_le d.isLt (by decide)) (by decide) (by decide))
    (congrArg fields (xSx_eq .park d)) hwf
theorem RoundTrip.wake (g : SReg) : RoundTrip.Statement (.wake g) := fun _ hwf rest =>
  accepts (decode_packX rest rfl (by decide) (by decide) (by decide) (Nat.lt_of_lt_of_le g.isLt (by decide)) (by decide))
    (congrArg fields (xSy_eq .wake g)) hwf
theorem RoundTrip.sdef (n : SReg) (b : SReg) (x : Bool) (z : VSize) : RoundTrip.Statement (.sdef n b x z) := fun _ hwf rest =>
  accepts (decode_packX rest rfl (by decide) (by decide) (Nat.lt_of_lt_of_le n.isLt (by decide)) (Nat.lt_of_lt_of_le b.isLt (by decide)) (by have := Bool.toNat_lt x; have := vsize_code_lt z; omega))
    (congrArg fields (xSxSyFZ_eq .sdef n b x z)) hwf
theorem RoundTrip.sdim (n : SReg) (v : SReg) (j : BitVec 7) : RoundTrip.Statement (.sdim n v j) := fun _ hwf rest =>
  accepts (decode_packX rest rfl (by decide) (by decide) (Nat.lt_of_lt_of_le n.isLt (by decide)) (Nat.lt_of_lt_of_le v.isLt (by decide)) j.isLt)
    (congrArg fields (xSxSyBz_eq .sdim n v j)) hwf
theorem RoundTrip.sbind (d : VRegNo) (n : SReg) : RoundTrip.Statement (.sbind d n) := fun _ hwf rest =>
  accepts (decode_packX rest rfl (by decide) (by decide) d.isLt (Nat.lt_of_lt_of_le n.isLt (by decide)) (by decide))
    (congrArg fields (xVxSy_eq .sbind d n)) hwf
theorem RoundTrip.sunbind (d : VRegNo) : RoundTrip.Statement (.sunbind d) := fun _ hwf rest =>
  accepts (decode_packX rest rfl (by decide) (by decide) d.isLt (by decide) (by decide))
    (congrArg fields (xVx_eq .sunbind d)) hwf
theorem RoundTrip.sgo (n : SReg) : RoundTrip.Statement (.sgo n) := fun _ hwf rest =>
  accepts (decode_packX rest rfl (by decide) (by decide) (by decide) (Nat.lt_of_lt_of_le n.isLt (by decide)) (by decide))
    (congrArg fields (xSy_eq .sgo n)) hwf
theorem RoundTrip.sstop (n : SReg) : RoundTrip.Statement (.sstop n) := fun _ hwf rest =>
  accepts (decode_packX rest rfl (by decide) (by decide) (by decide) (Nat.lt_of_lt_of_le n.isLt (by decide)) (by decide))
    (congrArg fields (xSy_eq .sstop n)) hwf
theorem RoundTrip.sstat (d : SReg) (n : SReg) : RoundTrip.Statement (.sstat d n) := fun _ hwf rest =>
  accepts (decode_packX rest rfl (by decide) (by decide) (Nat.lt_of_lt_of_le d.isLt (by decide)) (Nat.lt_of_lt_of_le n.isLt (by decide)) (by decide))
    (congrArg fields (xSxSy_eq .sstat d n)) hwf
theorem RoundTrip.sdrain (n : SReg) : RoundTrip.Statement (.sdrain n) := fun _ hwf rest =>
  accepts (decode_packX rest rfl (by decide) (by decide) (by decide) (Nat.lt_of_lt_of_le n.isLt (by decide)) (by decide))
    (congrArg fields (xSy_eq .sdrain n)) hwf
theorem RoundTrip.cpset (s : SReg) (n : BitVec 7) : RoundTrip.Statement (.cpset s n) := fun _ hwf rest =>
  accepts (decode_packX rest rfl (by decide) (by decide) (by decide) (Nat.lt_of_lt_of_le s.isLt (by decide)) n.isLt)
    (congrArg fields (xSyBz_eq .cpset s n)) hwf
theorem RoundTrip.cpget (d : SReg) (n : BitVec 7) : RoundTrip.Statement (.cpget d n) := fun _ hwf rest =>
  accepts (decode_packX rest rfl (by decide) (by decide) (Nat.lt_of_lt_of_le d.isLt (by decide)) (by decide) n.isLt)
    (congrArg fields (xSxBz_eq .cpget d n)) hwf
theorem RoundTrip.cpgo (d : SReg) (t : BitVec 2) : RoundTrip.Statement (.cpgo d t) := fun _ hwf rest =>
  accepts (decode_packX rest rfl (by decide) (by decide) (Nat.lt_of_lt_of_le d.isLt (by decide)) (by decide) (Nat.lt_of_lt_of_le t.isLt (by decide)))
    (congrArg fields (xSxT_eq .cpgo d t)) hwf
theorem RoundTrip.cpstat (d : SReg) (t : BitVec 2) : RoundTrip.Statement (.cpstat d t) := fun _ hwf rest =>
  accepts (decode_packX rest rfl (by decide) (by decide) (Nat.lt_of_lt_of_le d.isLt (by decide)) (by decide) (Nat.lt_of_lt_of_le t.isLt (by decide)))
    (congrArg fields (xSxT_eq .cpstat d t)) hwf
theorem RoundTrip.cpresume (n : SReg) (t : BitVec 2) : RoundTrip.Statement (.cpresume n t) := fun _ hwf rest =>
  accepts (decode_packX rest rfl (by decide) (by decide) (by decide) (Nat.lt_of_lt_of_le n.isLt (by decide)) (Nat.lt_of_lt_of_le t.isLt (by decide)))
    (congrArg fields (xSyT_eq .cpresume n t)) hwf
theorem RoundTrip.obres (v : SReg) (n : BitVec 4) : RoundTrip.Statement (.obres v n) := fun _ hwf rest =>
  accepts (decode_packX rest rfl (by decide) (by decide) (by decide) (Nat.lt_of_lt_of_le v.isLt (by decide)) (Nat.lt_of_lt_of_le n.isLt (by decide)))
    (congrArg fields (xSyR_eq .obres v n)) hwf
theorem RoundTrip.obfree (n : BitVec 4) : RoundTrip.Statement (.obfree n) := fun _ hwf rest =>
  accepts (decode_packX rest rfl (by decide) (by decide) (by decide) (by decide) (Nat.lt_of_lt_of_le n.isLt (by decide)))
    (congrArg fields (xR_eq .obfree n)) hwf
theorem RoundTrip.bsres (v : SReg) (n : BitVec 4) : RoundTrip.Statement (.bsres v n) := fun _ hwf rest =>
  accepts (decode_packX rest rfl (by decide) (by decide) (by decide) (Nat.lt_of_lt_of_le v.isLt (by decide)) (Nat.lt_of_lt_of_le n.isLt (by decide)))
    (congrArg fields (xSyR_eq .bsres v n)) hwf
theorem RoundTrip.bsfree (n : BitVec 4) : RoundTrip.Statement (.bsfree n) := fun _ hwf rest =>
  accepts (decode_packX rest rfl (by decide) (by decide) (by decide) (by decide) (Nat.lt_of_lt_of_le n.isLt (by decide)))
    (congrArg fields (xR_eq .bsfree n)) hwf
theorem RoundTrip.mma (a : SReg) (b : SReg) (k : BitVec 5) (t : BitVec 2) : RoundTrip.Statement (.mma a b k t) := fun _ hwf rest =>
  accepts (decode_packX rest rfl (by decide) (by decide) (Nat.lt_of_lt_of_le a.isLt (by decide)) (Nat.lt_of_lt_of_le b.isLt (by decide)) (by omega))
    (congrArg fields (xSxSyKT_eq .mma a b k t)) hwf
theorem RoundTrip.mmaz (a : SReg) (b : SReg) (k : BitVec 5) (t : BitVec 2) : RoundTrip.Statement (.mmaz a b k t) := fun _ hwf rest =>
  accepts (decode_packX rest rfl (by decide) (by decide) (Nat.lt_of_lt_of_le a.isLt (by decide)) (Nat.lt_of_lt_of_le b.isLt (by decide)) (by omega))
    (congrArg fields (xSxSyKT_eq .mmaz a b k t)) hwf
theorem RoundTrip.accz (t : BitVec 2) : RoundTrip.Statement (.accz t) := fun _ hwf rest =>
  accepts (decode_packX rest rfl (by decide) (by decide) (by decide) (by decide) (Nat.lt_of_lt_of_le t.isLt (by decide)))
    (congrArg fields (xT_eq .accz t)) hwf
theorem RoundTrip.accrd (d : VRegNo) (c : SReg) (t : BitVec 2) : RoundTrip.Statement (.accrd d c t) := fun _ hwf rest =>
  accepts (decode_packX rest rfl (by decide) (by decide) d.isLt (Nat.lt_of_lt_of_le c.isLt (by decide)) (Nat.lt_of_lt_of_le t.isLt (by decide)))
    (congrArg fields (xVxSyT_eq .accrd d c t)) hwf
theorem RoundTrip.accwr (s : VRegNo) (c : SReg) (t : BitVec 2) : RoundTrip.Statement (.accwr s c t) := fun _ hwf rest =>
  accepts (decode_packX rest rfl (by decide) (by decide) s.isLt (Nat.lt_of_lt_of_le c.isLt (by decide)) (Nat.lt_of_lt_of_le t.isLt (by decide)))
    (congrArg fields (xVxSyT_eq .accwr s c t)) hwf
theorem RoundTrip.accst (b : SReg) (t : BitVec 2) : RoundTrip.Statement (.accst b t) := fun _ hwf rest =>
  accepts (decode_packX rest rfl (by decide) (by decide) (by decide) (Nat.lt_of_lt_of_le b.isLt (by decide)) (Nat.lt_of_lt_of_le t.isLt (by decide)))
    (congrArg fields (xSyT_eq .accst b t)) hwf
theorem RoundTrip.mrot (l : SReg) (h : SReg) : RoundTrip.Statement (.mrot l h) := fun _ hwf rest =>
  accepts (decode_packX rest rfl (by decide) (by decide) (Nat.lt_of_lt_of_le l.isLt (by decide)) (Nat.lt_of_lt_of_le h.isLt (by decide)) (by decide))
    (congrArg fields (xSxSy_eq .mrot l h)) hwf
theorem RoundTrip.publish (c : SReg) : RoundTrip.Statement (.publish c) := fun _ hwf rest =>
  accepts (decode_packX rest rfl (by decide) (by decide) (by decide) (Nat.lt_of_lt_of_le c.isLt (by decide)) (by decide))
    (congrArg fields (xSy_eq .publish c)) hwf
theorem RoundTrip.unpublish  : RoundTrip.Statement (.unpublish) := fun _ hwf rest =>
  accepts (decode_packX rest rfl (by decide) (by decide) (by decide) (by decide) (by decide))
    (congrArg fields (x_eq .unpublish )) hwf
theorem RoundTrip.subscribe (c : SReg) : RoundTrip.Statement (.subscribe c) := fun _ hwf rest =>
  accepts (decode_packX rest rfl (by decide) (by decide) (by decide) (Nat.lt_of_lt_of_le c.isLt (by decide)) (by decide))
    (congrArg fields (xSy_eq .subscribe c)) hwf
theorem RoundTrip.depart (k : Cond) (a : SReg) (i : BitVec 7) : RoundTrip.Statement (.depart k a i) := fun _ hwf rest =>
  accepts (decode_packX rest rfl (by decide) (by decide) (cond_code_lt k) (Nat.lt_of_lt_of_le a.isLt (by decide)) i.isLt)
    (congrArg fields (xCxSyBz_eq .depart k a i)) hwf
theorem RoundTrip.rejoin (c : SReg) : RoundTrip.Statement (.rejoin c) := fun _ hwf rest =>
  accepts (decode_packX rest rfl (by decide) (by decide) (by decide) (Nat.lt_of_lt_of_le c.isLt (by decide)) (by decide))
    (congrArg fields (xSy_eq .rejoin c)) hwf
theorem RoundTrip.chstat (d : SReg) (c : SReg) : RoundTrip.Statement (.chstat d c) := fun _ hwf rest =>
  accepts (decode_packX rest rfl (by decide) (by decide) (Nat.lt_of_lt_of_le d.isLt (by decide)) (Nat.lt_of_lt_of_le c.isLt (by decide)) (by decide))
    (congrArg fields (xSxSy_eq .chstat d c)) hwf
theorem RoundTrip.ralloc (d : VRegNo) (n : SReg) (t : Bool) : RoundTrip.Statement (.ralloc d n t) := fun _ hwf rest =>
  accepts (decode_packX rest rfl (by decide) (by decide) d.isLt (Nat.lt_of_lt_of_le n.isLt (by decide)) (by have := Bool.toNat_lt t; omega))
    (congrArg fields (xVxSyF_eq .ralloc d n t)) hwf
theorem RoundTrip.rallocw (d : VRegNo) (n : SReg) (t : Bool) : RoundTrip.Statement (.rallocw d n t) := fun _ hwf rest =>
  accepts (decode_packX rest rfl (by decide) (by decide) d.isLt (Nat.lt_of_lt_of_le n.isLt (by decide)) (by have := Bool.toNat_lt t; omega))
    (congrArg fields (xVxSyF_eq .rallocw d n t)) hwf
theorem RoundTrip.rcommit (d : VRegNo) (n : SReg) (v : Bool) : RoundTrip.Statement (.rcommit d n v) := fun _ hwf rest =>
  accepts (decode_packX rest rfl (by decide) (by decide) d.isLt (Nat.lt_of_lt_of_le n.isLt (by decide)) (by have := Bool.toNat_lt v; omega))
    (congrArg fields (xVxSyF_eq .rcommit d n v)) hwf
theorem RoundTrip.rdone  : RoundTrip.Statement (.rdone) := fun _ hwf rest =>
  accepts (decode_packX rest rfl (by decide) (by decide) (by decide) (by decide) (by decide))
    (congrArg fields (x_eq .rdone )) hwf
theorem RoundTrip.rdepth (d : SReg) (n : SReg) : RoundTrip.Statement (.rdepth d n) := fun _ hwf rest =>
  accepts (decode_packX rest rfl (by decide) (by decide) (Nat.lt_of_lt_of_le d.isLt (by decide)) (Nat.lt_of_lt_of_le n.isLt (by decide)) (by decide))
    (congrArg fields (xSxSy_eq .rdepth d n)) hwf
theorem RoundTrip.rinfo (d : SReg) (n : SReg) (k : BitVec 7) : RoundTrip.Statement (.rinfo d n k) := fun _ hwf rest =>
  accepts (decode_packX rest rfl (by decide) (by decide) (Nat.lt_of_lt_of_le d.isLt (by decide)) (Nat.lt_of_lt_of_le n.isLt (by decide)) k.isLt)
    (congrArg fields (xSxSyBz_eq .rinfo d n k)) hwf
theorem RoundTrip.slotstart (c : SReg) (e : SReg) : RoundTrip.Statement (.slotstart c e) := fun _ hwf rest =>
  accepts (decode_packX rest rfl (by decide) (by decide) (Nat.lt_of_lt_of_le c.isLt (by decide)) (Nat.lt_of_lt_of_le e.isLt (by decide)) (by decide))
    (congrArg fields (xSxSy_eq .slotstart c e)) hwf
theorem RoundTrip.slotreap (d : SReg) (t : SReg) : RoundTrip.Statement (.slotreap d t) := fun _ hwf rest =>
  accepts (decode_packX rest rfl (by decide) (by decide) (Nat.lt_of_lt_of_le d.isLt (by decide)) (Nat.lt_of_lt_of_le t.isLt (by decide)) (by decide))
    (congrArg fields (xSxSy_eq .slotreap d t)) hwf
theorem RoundTrip.slotexit  : RoundTrip.Statement (.slotexit) := fun _ hwf rest =>
  accepts (decode_packX rest rfl (by decide) (by decide) (by decide) (by decide) (by decide))
    (congrArg fields (x_eq .slotexit )) hwf
theorem RoundTrip.regclaim (d : SReg) (n : SReg) : RoundTrip.Statement (.regclaim d n) := fun _ hwf rest =>
  accepts (decode_packX rest rfl (by decide) (by decide) (Nat.lt_of_lt_of_le d.isLt (by decide)) (Nat.lt_of_lt_of_le n.isLt (by decide)) (by decide))
    (congrArg fields (xSxSy_eq .regclaim d n)) hwf
theorem RoundTrip.regyield (d : SReg) (n : SReg) : RoundTrip.Statement (.regyield d n) := fun _ hwf rest =>
  accepts (decode_packX rest rfl (by decide) (by decide) (Nat.lt_of_lt_of_le d.isLt (by decide)) (Nat.lt_of_lt_of_le n.isLt (by decide)) (by decide))
    (congrArg fields (xSxSy_eq .regyield d n)) hwf
theorem RoundTrip.regmode (r : BitVec 7) (l : Bool) (v : Bool) (m : Bool) : RoundTrip.Statement (.regmode r l v m) := fun _ hwf rest =>
  accepts (decode_packX rest rfl (by decide) (by decide) r.isLt (by decide) (by have := Bool.toNat_lt l; have := Bool.toNat_lt m; have := Bool.toNat_lt v; omega))
    (congrArg fields (xBxFFF_eq .regmode r l v m)) hwf
theorem RoundTrip.slotctlState (v : SReg) (g : SReg) : RoundTrip.Statement (.slotctlState v g) := fun _ hwf rest =>
  accepts (decode_packX rest rfl (by decide) (by decide) (Nat.lt_of_lt_of_le v.isLt (by decide)) (Nat.lt_of_lt_of_le g.isLt (by decide)) (by decide))
    (congrArg fields (xSxSy2_eq .slotctlState v g)) hwf
theorem RoundTrip.slotctlRdsr (v : SReg) (g : SReg) : RoundTrip.Statement (.slotctlRdsr v g) := fun _ hwf rest =>
  accepts (decode_packX rest rfl (by decide) (by decide) (Nat.lt_of_lt_of_le v.isLt (by decide)) (Nat.lt_of_lt_of_le g.isLt (by decide)) (by decide))
    (congrArg fields (xSxSy2_eq .slotctlRdsr v g)) hwf
theorem RoundTrip.slotctlWrsr (v : SReg) (g : SReg) : RoundTrip.Statement (.slotctlWrsr v g) := fun _ hwf rest =>
  accepts (decode_packX rest rfl (by decide) (by decide) (Nat.lt_of_lt_of_le v.isLt (by decide)) (Nat.lt_of_lt_of_le g.isLt (by decide)) (by decide))
    (congrArg fields (xSxSy2_eq .slotctlWrsr v g)) hwf
theorem RoundTrip.slotctlRds (v : SReg) (g : SReg) : RoundTrip.Statement (.slotctlRds v g) := fun _ hwf rest =>
  accepts (decode_packX rest rfl (by decide) (by decide) (Nat.lt_of_lt_of_le v.isLt (by decide)) (Nat.lt_of_lt_of_le g.isLt (by decide)) (by decide))
    (congrArg fields (xSxSy2_eq .slotctlRds v g)) hwf
theorem RoundTrip.slotctlWrs (v : SReg) (g : SReg) : RoundTrip.Statement (.slotctlWrs v g) := fun _ hwf rest =>
  accepts (decode_packX rest rfl (by decide) (by decide) (Nat.lt_of_lt_of_le v.isLt (by decide)) (Nat.lt_of_lt_of_le g.isLt (by decide)) (by decide))
    (congrArg fields (xSxSy2_eq .slotctlWrs v g)) hwf
theorem RoundTrip.slotctlRdv (v : SReg) (g : SReg) : RoundTrip.Statement (.slotctlRdv v g) := fun _ hwf rest =>
  accepts (decode_packX rest rfl (by decide) (by decide) (Nat.lt_of_lt_of_le v.isLt (by decide)) (Nat.lt_of_lt_of_le g.isLt (by decide)) (by decide))
    (congrArg fields (xSxSy2_eq .slotctlRdv v g)) hwf
theorem RoundTrip.slotctlWrv (v : SReg) (g : SReg) : RoundTrip.Statement (.slotctlWrv v g) := fun _ hwf rest =>
  accepts (decode_packX rest rfl (by decide) (by decide) (Nat.lt_of_lt_of_le v.isLt (by decide)) (Nat.lt_of_lt_of_le g.isLt (by decide)) (by decide))
    (congrArg fields (xSxSy2_eq .slotctlWrv v g)) hwf
theorem RoundTrip.slotctlRdctx (v : SReg) (g : SReg) : RoundTrip.Statement (.slotctlRdctx v g) := fun _ hwf rest =>
  accepts (decode_packX rest rfl (by decide) (by decide) (Nat.lt_of_lt_of_le v.isLt (by decide)) (Nat.lt_of_lt_of_le g.isLt (by decide)) (by decide))
    (congrArg fields (xSxSy2_eq .slotctlRdctx v g)) hwf
theorem RoundTrip.slotctlWrctx (v : SReg) (g : SReg) : RoundTrip.Statement (.slotctlWrctx v g) := fun _ hwf rest =>
  accepts (decode_packX rest rfl (by decide) (by decide) (Nat.lt_of_lt_of_le v.isLt (by decide)) (Nat.lt_of_lt_of_le g.isLt (by decide)) (by decide))
    (congrArg fields (xSxSy2_eq .slotctlWrctx v g)) hwf
theorem RoundTrip.slotctlResume (v : SReg) (g : SReg) : RoundTrip.Statement (.slotctlResume v g) := fun _ hwf rest =>
  accepts (decode_packX rest rfl (by decide) (by decide) (Nat.lt_of_lt_of_le v.isLt (by decide)) (Nat.lt_of_lt_of_le g.isLt (by decide)) (by decide))
    (congrArg fields (xSxSy2_eq .slotctlResume v g)) hwf
theorem RoundTrip.slotctlKill (v : SReg) (g : SReg) : RoundTrip.Statement (.slotctlKill v g) := fun _ hwf rest =>
  accepts (decode_packX rest rfl (by decide) (by decide) (Nat.lt_of_lt_of_le v.isLt (by decide)) (Nat.lt_of_lt_of_le g.isLt (by decide)) (by decide))
    (congrArg fields (xSxSy2_eq .slotctlKill v g)) hwf
theorem RoundTrip.slotctlSpill (v : SReg) (g : SReg) : RoundTrip.Statement (.slotctlSpill v g) := fun _ hwf rest =>
  accepts (decode_packX rest rfl (by decide) (by decide) (Nat.lt_of_lt_of_le v.isLt (by decide)) (Nat.lt_of_lt_of_le g.isLt (by decide)) (by decide))
    (congrArg fields (xSxSy2_eq .slotctlSpill v g)) hwf
theorem RoundTrip.getsr (d : SReg) (n : SpecReg) : RoundTrip.Statement (.getsr d n) := fun _ hwf rest =>
  accepts (decode_packX rest rfl (by decide) (by decide) (Nat.lt_of_lt_of_le d.isLt (by decide)) (by decide) (specreg_code_lt n))
    (congrArg fields (xSxPz_eq .getsr d n)) hwf
theorem RoundTrip.setsr (s : SReg) (n : SpecReg) : RoundTrip.Statement (.setsr s n) := fun _ hwf rest =>
  accepts (decode_packX rest rfl (by decide) (by decide) (by decide) (Nat.lt_of_lt_of_le s.isLt (by decide)) (specreg_code_lt n))
    (congrArg fields (xSyPz_eq .setsr s n)) hwf
theorem RoundTrip.trap (s : SReg) (c : BitVec 7) : RoundTrip.Statement (.trap s c) := fun _ hwf rest =>
  accepts (decode_packX rest rfl (by decide) (by decide) (by decide) (Nat.lt_of_lt_of_le s.isLt (by decide)) c.isLt)
    (congrArg fields (xSyBz_eq .trap s c)) hwf
theorem RoundTrip.brkpt (c : BitVec 7) : RoundTrip.Statement (.brkpt c) := fun _ hwf rest =>
  accepts (decode_packX rest rfl (by decide) (by decide) (by decide) (by decide) c.isLt)
    (congrArg fields (xBz_eq .brkpt c)) hwf
theorem RoundTrip.locality (d : SReg) (s : SReg) : RoundTrip.Statement (.locality d s) := fun _ hwf rest =>
  accepts (decode_packX rest rfl (by decide) (by decide) (Nat.lt_of_lt_of_le d.isLt (by decide)) (Nat.lt_of_lt_of_le s.isLt (by decide)) (by decide))
    (congrArg fields (xSxSy_eq .locality d s)) hwf
theorem RoundTrip.icinv  : RoundTrip.Statement (.icinv) := fun _ hwf rest =>
  accepts (decode_packX rest rfl (by decide) (by decide) (by decide) (by decide) (by decide))
    (congrArg fields (x_eq .icinv )) hwf
theorem RoundTrip.nop  : RoundTrip.Statement (.nop) := fun _ hwf rest =>
  accepts (decode_packX rest rfl (by decide) (by decide) (by decide) (by decide) (by decide))
    (congrArg fields (x_eq .nop )) hwf
theorem RoundTrip.idle (s : SReg) : RoundTrip.Statement (.idle s) := fun _ hwf rest =>
  accepts (decode_packX rest rfl (by decide) (by decide) (by decide) (Nat.lt_of_lt_of_le s.isLt (by decide)) (by decide))
    (congrArg fields (xSy_eq .idle s)) hwf
theorem RoundTrip.idleDelayEnd (g : GRef) : RoundTrip.Statement (.idleDelayEnd g) := fun h => absurd rfl h
theorem RoundTrip.waitqSatisfied (g : GRef) : RoundTrip.Statement (.waitqSatisfied g) := fun h => absurd rfl h
theorem RoundTrip.instructionCacheRefill (g : GRef) : RoundTrip.Statement (.instructionCacheRefill g) := fun h => absurd rfl h
theorem RoundTrip.icinvComplete (g : GRef) : RoundTrip.Statement (.icinvComplete g) := fun h => absurd rfl h
theorem RoundTrip.producerValueWrite (g : GRef) (op : Nat) : RoundTrip.Statement (.producerValueWrite g op) := fun h => absurd rfl h
theorem RoundTrip.postedAcknowledgement (g : GRef) (op : Nat) : RoundTrip.Statement (.postedAcknowledgement g op) := fun h => absurd rfl h
theorem RoundTrip.activeMessage (g : GRef) (op : Nat) : RoundTrip.Statement (.activeMessage g op) := fun h => absurd rfl h
theorem RoundTrip.waiterResend (g : GRef) (op : Nat) : RoundTrip.Statement (.waiterResend g op) := fun h => absurd rfl h
theorem RoundTrip.fewaitExpiry (g : GRef) : RoundTrip.Statement (.fewaitExpiry g) := fun h => absurd rfl h
theorem RoundTrip.cancelAnswer (g : GRef) : RoundTrip.Statement (.cancelAnswer g) := fun h => absurd rfl h
theorem RoundTrip.barrierArrival (g : GRef) (op : Nat) : RoundTrip.Statement (.barrierArrival g op) := fun h => absurd rfl h
theorem RoundTrip.wakeArrival (g : GRef) (op : Nat) : RoundTrip.Statement (.wakeArrival g op) := fun h => absurd rfl h
theorem RoundTrip.parkTimeout (g : GRef) : RoundTrip.Statement (.parkTimeout g) := fun h => absurd rfl h
theorem RoundTrip.streamElementRead (p : PkgId) (c : CellId) (x : BitVec 5) : RoundTrip.Statement (.streamElementRead p c x) := fun h => absurd rfl h
theorem RoundTrip.streamElementWrite (p : PkgId) (c : CellId) (x : BitVec 5) : RoundTrip.Statement (.streamElementWrite p c x) := fun h => absurd rfl h
theorem RoundTrip.copyLaunchAccept (p : PkgId) (c : CellId) (x : BitVec 2) : RoundTrip.Statement (.copyLaunchAccept p c x) := fun h => absurd rfl h
theorem RoundTrip.copyPayload (p : PkgId) (c : CellId) (x : BitVec 2) : RoundTrip.Statement (.copyPayload p c x) := fun h => absurd rfl h
theorem RoundTrip.copyCompletion (p : PkgId) (c : CellId) (x : BitVec 2) : RoundTrip.Statement (.copyCompletion p c x) := fun h => absurd rfl h
theorem RoundTrip.copyWaitrecResume (p : PkgId) (c : CellId) (x : BitVec 2) : RoundTrip.Statement (.copyWaitrecResume p c x) := fun h => absurd rfl h
theorem RoundTrip.matrixStep (g : GRef) : RoundTrip.Statement (.matrixStep g) := fun h => absurd rfl h
theorem RoundTrip.stepAccumulation (p : PkgId) (c : CellId) : RoundTrip.Statement (.stepAccumulation p c) := fun h => absurd rfl h
theorem RoundTrip.rotationTableEffect (p : PkgId) (c : CellId) : RoundTrip.Statement (.rotationTableEffect p c) := fun h => absurd rfl h
theorem RoundTrip.powerCapEffect (p : PkgId) : RoundTrip.Statement (.powerCapEffect p) := fun h => absurd rfl h
theorem RoundTrip.channelRegistry (g : GRef) : RoundTrip.Statement (.channelRegistry g) := fun h => absurd rfl h
theorem RoundTrip.publishedInstruction (g : GRef) : RoundTrip.Statement (.publishedInstruction g) := fun h => absurd rfl h
theorem RoundTrip.endMark (g : GRef) : RoundTrip.Statement (.endMark g) := fun h => absurd rfl h
theorem RoundTrip.channelStop (g : GRef) : RoundTrip.Statement (.channelStop g) := fun h => absurd rfl h
theorem RoundTrip.joinWaitExpiry (g : GRef) : RoundTrip.Statement (.joinWaitExpiry g) := fun h => absurd rfl h
theorem RoundTrip.shawmRecordOperation (g : GRef) (op : Nat) : RoundTrip.Statement (.shawmRecordOperation g op) := fun h => absurd rfl h
theorem RoundTrip.rallocwServed (g : GRef) : RoundTrip.Statement (.rallocwServed g) := fun h => absurd rfl h
theorem RoundTrip.rallocwWaitExpiry (g : GRef) : RoundTrip.Statement (.rallocwWaitExpiry g) := fun h => absurd rfl h
theorem RoundTrip.coalescingTimer (p : PkgId) (x : BitVec 6) (n : BitVec 12) : RoundTrip.Statement (.coalescingTimer p x n) := fun h => absurd rfl h
theorem RoundTrip.placementReservation (p : PkgId) (q : BitVec 3) : RoundTrip.Statement (.placementReservation p q) := fun h => absurd rfl h
theorem RoundTrip.placementRetry (p : PkgId) (q : BitVec 3) : RoundTrip.Statement (.placementRetry p q) := fun h => absurd rfl h
theorem RoundTrip.groupCommit (p : PkgId) (q : BitVec 3) : RoundTrip.Statement (.groupCommit p q) := fun h => absurd rfl h
theorem RoundTrip.groupStart (g : GRef) : RoundTrip.Statement (.groupStart g) := fun h => absurd rfl h
theorem RoundTrip.slotStartFirstIssue (g : GRef) : RoundTrip.Statement (.slotStartFirstIssue g) := fun h => absurd rfl h
theorem RoundTrip.groupSlotReturn (g : GRef) : RoundTrip.Statement (.groupSlotReturn g) := fun h => absurd rfl h
theorem RoundTrip.groupEnd (p : PkgId) (x : BitVec 6) (launch : Nat) : RoundTrip.Statement (.groupEnd p x launch) := fun h => absurd rfl h
theorem RoundTrip.hostRecordAppend (p : PkgId) (x : BitVec 6) : RoundTrip.Statement (.hostRecordAppend p x) := fun h => absurd rfl h
theorem RoundTrip.graphLoadComplete (p : PkgId) (x : BitVec 6) : RoundTrip.Statement (.graphLoadComplete p x) := fun h => absurd rfl h
theorem RoundTrip.graphTeardownComplete (p : PkgId) (x : BitVec 6) : RoundTrip.Statement (.graphTeardownComplete p x) := fun h => absurd rfl h
theorem RoundTrip.spillComplete (g : GRef) : RoundTrip.Statement (.spillComplete g) := fun h => absurd rfl h
theorem RoundTrip.resumeRestore (g : GRef) : RoundTrip.Statement (.resumeRestore g) := fun h => absurd rfl h
theorem RoundTrip.resumedSlotFirstIssue (g : GRef) : RoundTrip.Statement (.resumedSlotFirstIssue g) := fun h => absurd rfl h
theorem RoundTrip.faultRecordPost (p : PkgId) (ring : Ring) : RoundTrip.Statement (.faultRecordPost p ring) := fun h => absurd rfl h
theorem RoundTrip.mailboxPoll (p : PkgId) (q : BitVec 3) : RoundTrip.Statement (.mailboxPoll p q) := fun h => absurd rfl h
theorem RoundTrip.mboxSlotctlState (p : PkgId) (q : BitVec 3) : RoundTrip.Statement (.mboxSlotctlState p q) := fun h => absurd rfl h
theorem RoundTrip.mboxSlotctlRdsr (p : PkgId) (q : BitVec 3) : RoundTrip.Statement (.mboxSlotctlRdsr p q) := fun h => absurd rfl h
theorem RoundTrip.mboxSlotctlWrsr (p : PkgId) (q : BitVec 3) : RoundTrip.Statement (.mboxSlotctlWrsr p q) := fun h => absurd rfl h
theorem RoundTrip.mboxSlotctlRds (p : PkgId) (q : BitVec 3) : RoundTrip.Statement (.mboxSlotctlRds p q) := fun h => absurd rfl h
theorem RoundTrip.mboxSlotctlWrs (p : PkgId) (q : BitVec 3) : RoundTrip.Statement (.mboxSlotctlWrs p q) := fun h => absurd rfl h
theorem RoundTrip.mboxSlotctlRdv (p : PkgId) (q : BitVec 3) : RoundTrip.Statement (.mboxSlotctlRdv p q) := fun h => absurd rfl h
theorem RoundTrip.mboxSlotctlWrv (p : PkgId) (q : BitVec 3) : RoundTrip.Statement (.mboxSlotctlWrv p q) := fun h => absurd rfl h
theorem RoundTrip.mboxSlotctlRdctx (p : PkgId) (q : BitVec 3) : RoundTrip.Statement (.mboxSlotctlRdctx p q) := fun h => absurd rfl h
theorem RoundTrip.mboxSlotctlWrctx (p : PkgId) (q : BitVec 3) : RoundTrip.Statement (.mboxSlotctlWrctx p q) := fun h => absurd rfl h
theorem RoundTrip.mboxSlotctlResume (p : PkgId) (q : BitVec 3) : RoundTrip.Statement (.mboxSlotctlResume p q) := fun h => absurd rfl h
theorem RoundTrip.mboxSlotctlKill (p : PkgId) (q : BitVec 3) : RoundTrip.Statement (.mboxSlotctlKill p q) := fun h => absurd rfl h
theorem RoundTrip.mboxSlotctlSpill (p : PkgId) (q : BitVec 3) : RoundTrip.Statement (.mboxSlotctlSpill p q) := fun h => absurd rfl h
theorem RoundTrip.graphload (p : PkgId) (q : BitVec 3) : RoundTrip.Statement (.graphload p q) := fun h => absurd rfl h
theorem RoundTrip.graphtear (p : PkgId) (q : BitVec 3) : RoundTrip.Statement (.graphtear p q) := fun h => absurd rfl h
theorem RoundTrip.inval (p : PkgId) (q : BitVec 3) : RoundTrip.Statement (.inval p q) := fun h => absurd rfl h
theorem RoundTrip.invalidationComplete (p : PkgId) (q : BitVec 3) : RoundTrip.Statement (.invalidationComplete p q) := fun h => absurd rfl h
theorem RoundTrip.mboxFence (p : PkgId) (q : BitVec 3) : RoundTrip.Statement (.mboxFence p q) := fun h => absurd rfl h
theorem RoundTrip.unfence (p : PkgId) (q : BitVec 3) : RoundTrip.Statement (.unfence p q) := fun h => absurd rfl h
theorem RoundTrip.reset (p : PkgId) (q : BitVec 3) : RoundTrip.Statement (.reset p q) := fun h => absurd rfl h
theorem RoundTrip.partitionResetComplete (p : PkgId) (q : BitVec 3) : RoundTrip.Statement (.partitionResetComplete p q) := fun h => absurd rfl h
theorem RoundTrip.switch (p : PkgId) (q : BitVec 3) : RoundTrip.Statement (.switch p q) := fun h => absurd rfl h
theorem RoundTrip.switchDrainComplete (p : PkgId) (q : BitVec 3) : RoundTrip.Statement (.switchDrainComplete p q) := fun h => absurd rfl h
theorem RoundTrip.switchDeadline (p : PkgId) (q : BitVec 3) : RoundTrip.Statement (.switchDeadline p q) := fun h => absurd rfl h
theorem RoundTrip.partOpen (p : PkgId) (q : BitVec 3) : RoundTrip.Statement (.partOpen p q) := fun h => absurd rfl h
theorem RoundTrip.close (p : PkgId) (q : BitVec 3) : RoundTrip.Statement (.close p q) := fun h => absurd rfl h
theorem RoundTrip.resetpkg (p : PkgId) : RoundTrip.Statement (.resetpkg p) := fun h => absurd rfl h
theorem RoundTrip.twinHashArrival (g : GRef) (op : Nat) : RoundTrip.Statement (.twinHashArrival g op) := fun h => absurd rfl h
theorem RoundTrip.twinHashTimeout (g : GRef) : RoundTrip.Statement (.twinHashTimeout g) := fun h => absurd rfl h
theorem RoundTrip.enable (p : PkgId) : RoundTrip.Statement (.enable p) := fun h => absurd rfl h
theorem RoundTrip.protectionInitComplete (p : PkgId) : RoundTrip.Statement (.protectionInitComplete p) := fun h => absurd rfl h
theorem RoundTrip.disable (p : PkgId) : RoundTrip.Statement (.disable p) := fun h => absurd rfl h
theorem RoundTrip.declare (p : PkgId) (m : BitVec 4) : RoundTrip.Statement (.declare p m) := fun h => absurd rfl h
theorem RoundTrip.rebuild (p : PkgId) : RoundTrip.Statement (.rebuild p) := fun h => absurd rfl h
theorem RoundTrip.parityDelta (p : PkgId) (x : Nat) : RoundTrip.Statement (.parityDelta p x) := fun h => absurd rfl h
theorem RoundTrip.deltaForward (p : PkgId) (x : Nat) : RoundTrip.Statement (.deltaForward p x) := fun h => absurd rfl h
theorem RoundTrip.deltaAcknowledgement (p : PkgId) (x : Nat) : RoundTrip.Statement (.deltaAcknowledgement p x) := fun h => absurd rfl h
theorem RoundTrip.parityAcknowledgement (p : PkgId) (x : Nat) : RoundTrip.Statement (.parityAcknowledgement p x) := fun h => absurd rfl h
theorem RoundTrip.deltaSilence (p : PkgId) (m : PkgId) : RoundTrip.Statement (.deltaSilence p m) := fun h => absurd rfl h
theorem RoundTrip.quiesceDrainComplete (p : PkgId) : RoundTrip.Statement (.quiesceDrainComplete p) := fun h => absurd rfl h
theorem RoundTrip.stripeRebuild (p : PkgId) (stripe : Nat) : RoundTrip.Statement (.stripeRebuild p stripe) := fun h => absurd rfl h
theorem RoundTrip.sectorReconstruction (p : PkgId) (sector : Nat) : RoundTrip.Statement (.sectorReconstruction p sector) := fun h => absurd rfl h
theorem RoundTrip.patrolScrub (p : PkgId) (u : ScrubUnit) (bad : Bool) : RoundTrip.Statement (.patrolScrub p u bad) := fun h => absurd rfl h
theorem RoundTrip.hostWrite (p : PkgId) (off : Word) (bytes : List Byte) : RoundTrip.Statement (.hostWrite p off bytes) := fun h => absurd rfl h
theorem RoundTrip.hostRead (p : PkgId) (off : Word) (n : Nat) : RoundTrip.Statement (.hostRead p off n) := fun h => absurd rfl h
theorem RoundTrip.svfence (p : PkgId) : RoundTrip.Statement (.svfence p) := fun h => absurd rfl h
theorem RoundTrip.mailboxDoorbell (p : PkgId) (q : BitVec 3) : RoundTrip.Statement (.mailboxDoorbell p q) := fun h => absurd rfl h
theorem RoundTrip.intstat (p : PkgId) (v : Word) : RoundTrip.Statement (.intstat p v) := fun h => absurd rfl h
theorem RoundTrip.mevent (p : PkgId) (v : Word) : RoundTrip.Statement (.mevent p v) := fun h => absurd rfl h
theorem RoundTrip.fusepkg (p : PkgId) (v : Word) : RoundTrip.Statement (.fusepkg p v) := fun h => absurd rfl h
theorem RoundTrip.timectlStep (p : PkgId) (v : Word) : RoundTrip.Statement (.timectlStep p v) := fun h => absurd rfl h
theorem RoundTrip.pwrcap (p : PkgId) (v : Word) : RoundTrip.Statement (.pwrcap p v) := fun h => absurd rfl h
theorem RoundTrip.produceReport (p : PkgId) : RoundTrip.Statement (.produceReport p) := fun h => absurd rfl h
theorem RoundTrip.reportComplete (p : PkgId) : RoundTrip.Statement (.reportComplete p) := fun h => absurd rfl h
theorem RoundTrip.registerWrite (p : PkgId) (r : HostReg) (v : Word) : RoundTrip.Statement (.registerWrite p r v) := fun h => absurd rfl h
theorem RoundTrip.flitReplay (p : PkgId) (x : BitVec 5) : RoundTrip.Statement (.flitReplay p x) := fun h => absurd rfl h
theorem RoundTrip.portUp (p : PkgId) (x : BitVec 5) (peer : PkgId) (pdom : BitVec 8) : RoundTrip.Statement (.portUp p x peer pdom) := fun h => absurd rfl h
theorem RoundTrip.portFailure (p : PkgId) (x : BitVec 5) : RoundTrip.Statement (.portFailure p x) := fun h => absurd rfl h
theorem RoundTrip.routeUnreachable (p : PkgId) (m : PkgId) : RoundTrip.Statement (.routeUnreachable p m) := fun h => absurd rfl h
theorem RoundTrip.timeSync (p : PkgId) : RoundTrip.Statement (.timeSync p) := fun h => absurd rfl h
theorem RoundTrip.referenceLoss (p : PkgId) : RoundTrip.Statement (.referenceLoss p) := fun h => absurd rfl h
theorem RoundTrip.referenceReturn (p : PkgId) : RoundTrip.Statement (.referenceReturn p) := fun h => absurd rfl h
theorem RoundTrip.droopTrip (p : PkgId) (die : BitVec 3) : RoundTrip.Statement (.droopTrip p die) := fun h => absurd rfl h
theorem RoundTrip.stretchEnd (p : PkgId) : RoundTrip.Statement (.stretchEnd p) := fun h => absurd rfl h
theorem RoundTrip.powerAlert (p : PkgId) : RoundTrip.Statement (.powerAlert p) := fun h => absurd rfl h
theorem RoundTrip.thermalTrip (p : PkgId) : RoundTrip.Statement (.thermalTrip p) := fun h => absurd rfl h
theorem RoundTrip.packageReset (p : PkgId) : RoundTrip.Statement (.packageReset p) := fun h => absurd rfl h
theorem RoundTrip.bringupStageComplete (p : PkgId) (code : Byte) : RoundTrip.Statement (.bringupStageComplete p code) := fun h => absurd rfl h
theorem RoundTrip.memoryEdgeRequest (g : GRef) (op : Nat) : RoundTrip.Statement (.memoryEdgeRequest g op) := fun h => absurd rfl h
theorem RoundTrip.xaccHoldEnd (g : GRef) : RoundTrip.Statement (.xaccHoldEnd g) := fun h => absurd rfl h
theorem RoundTrip.illegalEncoding (clause : Bool) : RoundTrip.Statement (.illegalEncoding clause) := fun h => absurd rfl h

end Sys2Proof.Laws
end

