-- ==== Sys2Proof/Tests/Slice0.lean ====
section
/-! SUPPORT. Tests: words written out from the encodings of the spec, its worked examples, a term that each check of
well-formedness refuses, and for the statements states and operands that meet their hypotheses. -/

namespace Sys2Proof.Tests

-- One theorem after another: elaborated side by side, they keep a thread each.
set_option Elab.async false


open Sys2Proof.Machine Sys2Proof.Claims

/-! ## Small states -/

/-- Slot 1 of cell 0 of package 0. -/
def me : GRef := { pkg := 0, cell := 0, slot := 1 }

/-- The clause at hand: class MIXED, of seven words. -/
def clauseOf (ws : List (BitVec 32)) : Clause := { hdr := headerOf 0xF8000067, words := ws }

/-- A slot that runs, with a window of 32 vector registers. -/
def runner : Slot := { mode := .run, head := placedHead, pos := 1, regLim := 32, waitqDone := true, clause := some (clauseOf [0]) }

/-- One READY package with one active cell, where a slot has the turn. -/
def machine (t : Slot) (c : Cell := {}) (k : Pkg := {}) (g : GRef := me) (rest : Table Slot := []) : State :=
  { State.reset with
    cur := g
    pkgs := [(0, { k with bringUp := .ready, cells :=
      [(0, { c with active := true, slots := rest.foldl (fun m e => Table.put m e.1 e.2) [(g.slot.toNat, t)] })] })] }

/-- The state after an instruction. -/
noncomputable def after (i : Instr) (s : State) : State :=
  match exec i s with
  | .next t => t
  | _ => s

/-- A scalar register after an instruction. -/
noncomputable def scalarAfter (i : Instr) (s : State) (d : SReg) : Word := ((after i s).slotAt s.cur).sreg d

/-- A lane of a vector register after an instruction. -/
noncomputable def laneAfter (i : Instr) (s : State) (d : VRegNo) (l : Nat) : Lane := lane ((after i s).vregAt s.cur d) l

/-- The kind of the fault that an instruction takes, 0 with none, and its auxiliary word. -/
noncomputable def trapAfter (i : Instr) (s : State) : Byte × Word :=
  match ((after i s).pkgAt s.cur.pkg).waiting with
  | w :: _ => (w.record.kind, w.record.aux)
  | [] => (0, 0)

/-- What the latest operation of the slot has read. -/
def got (s : State) : List (Nat × Word) :=
  match (here s).ops.getLast? with
  | some o => o.got
  | none => []

/-- A slot with values in s1 to s4. -/
def withS (a b : Word) (c : Word := 0) (d : Word := 0) : State :=
  machine { runner with sregs := [(1, a), (2, b), (3, c), (4, d)] }

/-- A slot with lane 0 of v1, v2 and v3, every other lane of them zero. -/
def withV (a b : Lane) (c : Lane := 0) (t : Slot := runner) : State :=
  (((machine t).setLanes me 1 1 fun _ => a).setLanes me 2 1 fun _ => b).setLanes me 3 1 fun _ => c

/-! ## Decoding: one word for each family, from R57, R70 and the printed encodings -/

theorem test_decode_scalar : decode [0b000001_0000011_0000001_0000010_00001#32] = .ok (.sub 3 1 2, []) := by decide
theorem test_decode_addi : decode [0b000010_0000011_0000000_000000000010#32] = .ok (.addi 3 0 2, []) := by decide
theorem test_decode_shift : decode [0b001000_0000011_0000001_0111111_00010#32] = .ok (.sari 3 1 63, []) := by decide
theorem test_decode_lui : decode [0b001001_0000011_1111111111111111111#32] = .ok (.lui 3 0x7FFFF, []) := by decide
theorem test_decode_literal : decode [0b001011_0000011_0000000000000000010#32, 0xF8000000#32] = .ok (.movlh 3 0xF8000000, []) := by decide
theorem test_decode_bc : decode [0x34086000#32] = .ok (.bc .nez 6 0, []) := by decide
theorem test_decode_jalr : decode [0b001110_0000101_0000110_0000000_00001#32] = .ok (.jalr 5 6, []) := by decide
theorem test_decode_vflow : decode [0x44002025#32] = .ok (.vbrk 2 1, []) := by decide
theorem test_decode_vop : decode [0x4C40915E#32] = .ok (.vdot4Scalar 8 9 10, []) := by decide
theorem test_decode_vhop : decode [0b010100_0000011_0000001_0000010_10001#32] = .error .badField := by decide
theorem test_decode_vfop : decode [0b010101_0000011_0000001_0000010_00011#32] = .ok (.vfma 3 1 2, []) := by decide
theorem test_decode_vhfop : decode [0b010111_0000011_0000001_0000010_10011#32] = .ok (.vhfmaBf 3 1 2, []) := by decide
theorem test_decode_vcvt : decode [0x60284288#32] = .ok (.vcvt 5 4 0x14 false true 0, []) := by decide
theorem test_decode_vperm : decode [0x6440700C#32] = .ok (.vredfadd 8 7, []) := by decide
theorem test_decode_vrand : decode [0b011010_0000101_0000000_0000000_00001#32] = .ok (.vrandf 5, []) := by decide
theorem test_decode_xacc : decode [0x6C0020E1#32] = .ok (.xadd 2 7, []) := by decide
theorem test_decode_smem : decode [0b100000_0000100_0000111_00000_000_01_10#32] = .ok (.ld 4 7 .sl .acq .w, []) := by decide
theorem test_decode_vld : decode [0b100001_0000100_00010_0000000_000_00_11#32] = .ok (.vld 4 2 .sl .rlx .hs, []) := by decide
theorem test_decode_vscat : decode [0b100100_0000100_00010_0000101_011_10_01#32] = .ok (.vscat 4 2 5 .dm .rel .hu, []) := by decide
theorem test_decode_atom : decode [0b100111_0000100_0000010_01001_010_11_11#32] = .ok (.acas 4 2 .pk .ar .d, []) := by decide
theorem test_decode_vatom : decode [0b101000_0000100_00010_0000101_1001_01_0#32] = .ok (.vafadd 4 2 5 .acq, []) := by decide
theorem test_decode_fence : decode [0b101001_0000000_0000000_00000_011_11_00#32] = .ok (.fence .dm .ar, []) := by decide
theorem test_decode_sync : decode [0xA8386300#32] = .ok (.tlwait 7 6 (.copy 0), []) := by decide
theorem test_decode_stream : decode [0b101100_0000101_0000110_00001_0000100#32] = .ok (.sdim 5 6 4, []) := by decide
theorem test_decode_copy : decode [0xB4002009#32] = .ok (.cpset 2 9, []) := by decide
theorem test_decode_matrix : decode [0xB820528C#32] = .ok (.mmaz 4 5 3 0, []) := by decide
theorem test_decode_chan : decode [0b101111_0000110_0000000_00011_1111111#32] = .ok (.depart .any 0 127, []) := by decide
theorem test_decode_record : decode [0xC0403080#32] = .ok (.rallocw 8 3 false, []) := by decide
theorem test_decode_slot : decode [0xC4383303#32] = .ok (.slotctlRds 7 3, []) := by decide
theorem test_decode_system : decode [0xC800912A#32] = .ok (.trap 9 0x2A, []) := by decide
theorem test_decode_take : decode [0xCE000000#32] = .ok (.take true false, []) := by decide
theorem test_decode_header : decode [0xF8000064#32] = .error .header := by decide
theorem test_decode_unassigned : decode [0b110100_00000000000000000000000000#32] = .error .badMajor := by decide
theorem test_decode_minor : decode [0b001110_0000101_0000110_0000000_00010#32] = .error .badMinor := by decide
theorem test_header : headerOf 0xF8000064 = { mark := 0, wm := false, wc := false, wr := false, wl := false, uni := false, cls := 6, count := 4 } := by decide

/-! ## Each check of well-formedness refuses a term -/

theorem test_wf_take : (Instr.take false false).wf = false := by decide
theorem test_wf_condition : (Instr.bc .any 1 0).wf = false ∧ (Instr.depart .all 2 0).wf = false := by decide
theorem test_wf_depth : (Instr.vbrk 1 62).wf = false ∧ (Instr.vcont 1 63).wf = false := by decide
theorem test_wf_format : (Instr.vcvt 1 2 0x28 false false 0).wf = false ∧ (Instr.vcvt 1 2 8 false false 0).wf = false := by decide
theorem test_wf_load_order : (Instr.ld 1 2 .sl .rel .w).wf = false ∧ (Instr.lds 1 2 .sl .rlx .d).wf = false ∧
    (Instr.vld 1 2 .sl .rel .w).wf = false ∧ (Instr.vldFe 1 2 .sl .ar).wf = false ∧ (Instr.vldF 1 2 .sl .rel).wf = false ∧
    (Instr.vgath 1 2 3 .sl .rel .w).wf = false ∧ (Instr.vldk 1 2 3 .sl .rel .w).wf = false := by decide
theorem test_wf_store_order : (Instr.st 1 2 .sl .acq .w).wf = false ∧ (Instr.vst 1 2 .sl .rlx .hs).wf = false ∧
    (Instr.vstFe 1 2 .sl .acq).wf = false ∧ (Instr.vstF 1 2 .sl .ar).wf = false ∧ (Instr.vscat 1 2 3 .sl .rlx .hs).wf = false ∧
    (Instr.vstk 1 2 3 .sl .acq .w).wf = false := by decide
theorem test_wf_full_empty : (Instr.ldfe 1 2 .sl .rel).wf = false ∧ (Instr.stfe 1 2 .sl .acq).wf = false ∧
    (Instr.ldf 1 2 .sl .ar).wf = false ∧ (Instr.stf 1 2 .sl .acq).wf = false ∧ (Instr.feset 2 .sl .acq).wf = false ∧
    (Instr.feclr 2 .sl .ar).wf = false ∧ (Instr.feget 1 2 .sl .rel).wf = false := by decide
theorem test_wf_monitor : (Instr.waiteq 1 2 .sl .rlx .h).wf = false ∧ (Instr.waitne 1 2 .sl .rel .w).wf = false := by decide
theorem test_wf_atomic : (Instr.aadd 1 2 .sl .rlx .b).wf = false ∧ (Instr.aand 1 2 .sl .rlx .h).wf = false ∧
    (Instr.aor 1 2 .sl .rlx .b).wf = false ∧ (Instr.axor 1 2 .sl .rlx .b).wf = false ∧ (Instr.amin 1 2 .sl .rlx .b).wf = false ∧
    (Instr.amax 1 2 .sl .rlx .b).wf = false ∧ (Instr.aminu 1 2 .sl .rlx .b).wf = false ∧ (Instr.amaxu 1 2 .sl .rlx .b).wf = false ∧
    (Instr.aswap 1 2 .sl .rlx .b).wf = false ∧ (Instr.acas 1 2 .sl .rlx .d).wf = false := by decide
theorem test_wf_fence : (Instr.fence .sv .acq).wf = false ∧ (Instr.fence .pk .rlx).wf = false ∧ (Instr.fenceSc .sv).wf = false := by decide
theorem test_wf_pairs : (Instr.nclaim 31 2).wf = false ∧ (Instr.nunpack 1 3 0).wf = false ∧ (Instr.nunpack 30 2 2).wf = false := by decide
theorem test_wf_engines : (Instr.sdef 1 2 true .hs).wf = false ∧ (Instr.sdim 1 2 5).wf = false ∧ (Instr.cpset 1 11).wf = false ∧
    (Instr.cpget 1 11).wf = false ∧ (Instr.rinfo 1 2 12).wf = false := by decide
theorem test_wf_regmode : (Instr.regmode 1 true false false).wf = false ∧ (Instr.regmode 32 false false true).wf = false := by decide
theorem test_wf_good : (Instr.vcvt 5 4 0x14 false true 0).wf = true ∧ (Instr.nunpack 29 2 2).wf = true := by decide

/-! ## Numbers: the worked examples of the spec -/

/-- R82: DIV of the most negative value by -1. -/
theorem test_div_overflow : scalarAfter (.div 3 1 2) (withS 0x8000000000000000 0xFFFFFFFFFFFFFFFF) 3 = 0x8000000000000000 ∧
    scalarAfter (.rem 3 1 2) (withS 0x8000000000000000 0xFFFFFFFFFFFFFFFF) 3 = 0 := by decide
/-- R82: DIV and REM of -7 by 2. -/
theorem test_div_truncates : scalarAfter (.div 3 1 2) (withS (-7) 2) 3 = -3 ∧ scalarAfter (.rem 3 1 2) (withS (-7) 2) 3 = -1 := by decide
/-- R82: DIVU of 7 by 0 gives 0 and sets DZ. -/
theorem test_divu_zero : scalarAfter (.divu 3 1 2) (withS 7 0) 3 = 0 ∧
    ((after (.divu 3 1 2) (withS 7 0)).slotAt me).statDz = true := by decide
/-- R81: 16-bit saturation. -/
theorem test_saturation : laneAfter (.vaddsatH 4 1 2) (withV 0x7FF0 0x20) 4 0 = 0x7FFF ∧
    laneAfter (.vaddH 4 1 2) (withV 0x7FF0 0x20) 4 0 = 0x8010 ∧
    laneAfter (.vaddsatuH 4 1 2) (withV 0xFFF0 0x20) 4 0 = 0xFFFF := by decide
/-- R148: VDOT4 with a broadcast scalar. -/
theorem test_dot4 : laneAfter (.vdot4Scalar 4 1 2) ((withV 0x80FF0201 0).setS me 2 0x8001FF03) 4 0 = 0x4000 := by decide
/-- R87: the tiny product that rounds to the smallest normal number raises UF and NX. -/
theorem test_fmul_tiny : laneAfter (.vfmul 4 1 2) (withV 0x00800000 0x3F7FFFFF) 4 0 = 0x00800000 ∧
    ((after (.vfmul 4 1 2) (withV 0x00800000 0x3F7FFFFF)).slotAt me).fpFlags = 0b11000 := by decide
/-- R150: VFNMA of 2, 3 and 6 gives +0, and -0 under RM = 3. -/
theorem test_fnma_zero : laneAfter (.vfnma 3 1 2) (withV 0x40000000 0x40400000 0x40C00000) 3 0 = 0 ∧
    laneAfter (.vfnma 3 1 2) (withV 0x40000000 0x40400000 0x40C00000 { runner with rm := 3 }) 3 0 = 0x80000000 := by decide
/-- R99: 300.0 to signed binary8 with P = 4, extended and finite, with and without SAT. -/
theorem test_cvt_binary8 : laneAfter (.vcvt 4 1 0x14 false false 0) (withV 0x43960000 0) 4 0 = 0x7F ∧
    laneAfter (.vcvt 4 1 0x14 false true 0) (withV 0x43960000 0) 4 0 = 0x7E ∧
    laneAfter (.vcvt 4 1 0x04 false false 0) (withV 0x43960000 0) 4 0 = 0x80 ∧
    laneAfter (.vcvt 4 1 0x04 false true 0) (withV 0x43960000 0) 4 0 = 0x7F := by decide
/-- R154: code 0xC5 of format 0x14 is -1.625. -/
theorem test_cvt_from_binary8 : laneAfter (.vcvt 4 1 0x20 false false 6) (withV 0xC5 0 0 { runner with cvtSrc := 0x14 }) 4 0 = 0xBFD00000 := by decide
/-- R104, R158: the Philox word with key, counter and identities zero, and the fraction that it gives. -/
theorem test_random : philoxLane 0 0 0 0 0 0 = 0x6627E8D5 ∧
    laneAfter (.vrandf 4) (machine runner (g := ⟨0, 0, 0⟩)) 4 0 = 0x3ECC4FD0 := by decide
/-- R156: the pairwise tree over 1, 2^-24, 2^-24 and -1. -/
theorem test_redfadd : let s := (machine { runner with nest := (List.range 28).map fun l => (l + 4, 1) }).setLanes me 1 0xF fun l =>
      [0x3F800000, 0x33800000, 0x33800000, 0xBF800000].getD l 0
    scalarAfter (.vredfadd 3 1) s 3 = 0x33800000 ∧ ((after (.vredfadd 3 1) s).slotAt me).fpFlags = 0b10000 := by decide
/-- R132: 9 hops between cells 2,408 and 2,399, and 24 between 2,408 and 2,367. -/
theorem test_locality : scalarAfter (.locality 3 1) (withS 0x095F0968 0) 3 = 0x0900 ∧
    scalarAfter (.locality 3 1) (withS 0x093F0968 0) 3 = 0x1801 := by decide
/-- R193: 100 split by extents 7, 5 and 3. -/
theorem test_nunpack :
    let u := after (.nunpack 6 2 2) (withS 0 100 0x000300050007)
    (u.slotAt me).sreg 6 = 2 ∧ (u.slotAt me).sreg 7 = 4 ∧ (u.slotAt me).sreg 8 = 2 := by decide
/-- R192: the first claim with END = 40, DIV = 16 and NEXT = 0 is of 3. -/
theorem test_nclaim : let u := served 0 0 1 (after (.nclaim 6 2) (machine { runner with sregs := [(2, 0x100)] } { spad := [(0x108, 40), (0x10E, 16)] }))
    got u = [(0, 0), (1, 3)] ∧ (home u).spad = [(0x100, 3), (0x108, 40), (0x10E, 16)] := by decide
/-- R183: four lanes of VAADD at one word that holds 10 leave 20, and receive 10, 11, 13 and 16. -/
theorem test_vaadd : let s := (machine { runner with sregs := [(2, 0x100)], nest := (List.range 28).map fun l => (l + 4, 1) }
        { spad := [(0x100, 10)] }).setLanes me 4 0xF fun l => BitVec.ofNat 32 (l + 1)
    let u := served 0 0 4 (after (.vaadd 4 2 5 .rlx) s)
    got u = [(0, 10), (1, 11), (2, 13), (3, 16)] ∧ Table.get 0 (home u).spad 0x100 = 20 := by decide
/-- R119: JALR in a clause of four words at 0x2000_0000_0001_0040 links to 0x2000_0000_0001_0054. -/
theorem test_link : let t : Slot := { runner with head := 0x2000000000010040, clause := some { hdr := headerOf 0xF8000064, words := [0] } }
    t.head + BitVec.ofNat 64 (4 * (1 + t.clauseLen)) = 0x2000000000010054 := by decide
/-- R131: the auxiliary word of `trap s9, 0x2A` with s9 = 0x1234. -/
theorem test_trap : trapAfter (.trap 9 0x2A) (machine { runner with sregs := [(9, 0x1234)] }) = (0x10, 0x12342A) := by decide
/-- R127: a second read of a taken register in trap mode traps WAITLIMIT with 0x104. -/
theorem test_taken : trapAfter (.add 5 5 4) (machine { runner with sTrap := [4], sFe := [(4, .taken)] }) = (0x07, 0x104) := by decide
/-- R136: `idle s2` with s2 = 2 at cycle 1,031 in slot 7 delays to cycle 1,079. -/
theorem test_idle : ((after (.idle 2) (machine { runner with sregs := [(2, 2)] } {} { cycle := 1031 } ⟨0, 0, 7⟩)).slotAt ⟨0, 0, 7⟩).hold =
    some { why := .idle, till := 1079 } := by decide
/-- R41: an MROT at cycle 1,264 takes effect at 1,280, and one at 1,265 at 1,536. -/
theorem test_mrot : ((after (.mrot 2 3) (machine runner {} { cycle := 1264 } ⟨0, 0, 0⟩)).cellAt 0 0).rotationNext.map (·.1) = [1280] ∧
    ((after (.mrot 2 3) (machine runner {} { cycle := 1265 } ⟨0, 0, 0⟩)).cellAt 0 0).rotationNext.map (·.1) = [1536] := by decide


/-! ## States and operands that meet the hypotheses of the statements -/

theorem witness_ScalarResults : ready (withS (BitVec.intMin 64) (-1)) (Opnds.sss 31 1 2) = true ∧
    ready (withS 0 0) (Opnds.ss 0 0) = true := by decide
theorem witness_ScalarResults_division :
    (here (withS (BitVec.intMin 64) (-1))).sreg 1 = BitVec.intMin 64 ∧ (here (withS (BitVec.intMin 64) (-1))).sreg 2 = -1 := by decide
theorem witness_ImmediateResults : ready (withS 7 0) (Opnds.ss 31 1) = true ∧ ready (withS 7 0) (Opnds.d 0) = true := by decide
theorem witness_LaneResults : ready (withV 1 2) (Opnds.vvv 31 1 2) = true ∧ ready (withV 1 2) (Opnds.vv 31 1) = true ∧
    ready (withV 1 2) (Opnds.vvs 31 1 2) = true := by decide
theorem witness_FloatResults : ready (withV 1 2) (Opnds.vvvAcc 31 1 2) = true ∧ ready (withV 1 2) (Opnds.vvsAcc 31 1 2) = true ∧
    (Instr.vhfma 3 1 2, fp16) ∈ [(Instr.vhfma 3 1 2, fp16), (Instr.vhfmaBf 3 1 2, bf16)] := by decide
theorem witness_FloatHalfResults : ready (withV 0x7C00 0x8000) (Opnds.vvv 0 1 2) = true := by decide
/-- The formats at the ends of their ranges, and a %CVTSRC that kind 6 allows and one that it does not. -/
theorem witness_ConversionResults : ready (withV 1 2) (Opnds.vv 31 1) = true ∧
    (∀ f ∈ [(1 : BitVec 7), 31, 32, 39], f.toNat < 32 ∧ f.toNat % 8 ≠ 0 ∨ 32 ≤ f.toNat ∧ f.toNat < 40) ∧
    (here (withV 1 2)).cvtSrc.toNat = 0 ∧ (here (withV 1 2 0 { runner with cvtSrc := 0x27 })).cvtSrc.toNat = 0x27 := by decide
theorem witness_FloatRounding : valueOf fp32 0x3F800000 = some 1 ∧ (0 : ℝ) < 1 ∧ valueOf fp16 0x3C00 = some 1 ∧
    valueOf bf16 0x3F80 = some 1 ∧ 0xFF800000 % 2 ^ 31 = 0x7F800000 := by
  refine ⟨?_, one_pos, ?_, ?_, by norm_num⟩ <;> norm_num [valueOf, fp32, fp16, bf16]
/-- Zero, a negative number, an integer that is a power of two, and a number that is neither. -/
theorem witness_TranscendentalResults : valueOf fp32 0x80000000 = some 0 ∧ valueOf fp32 0xBF800000 = some (-1) ∧
    valueOf fp32 0x40000000 = some ((2 : ℝ) ^ (1 : Int)) ∧ valueOf fp32 0x40400000 = some 3 ∧ ((1 : Int) : ℝ) = 1 := by
  refine ⟨?_, ?_, ?_, ?_, ?_⟩ <;> norm_num [valueOf, fp32]
theorem witness_SpecialFloatResults : isNanBits fp32 0x7F800001 ∧ isSigBits fp32 0x7F800001 ∧ isNanBits fp16 0x7E00 ∧
    ¬ isSigBits fp16 0x7E00 ∧ 0 < 1 ∧ 1 ≤ (2 ^ fp32.ew - 1) * 2 ^ fp32.fw := by decide
theorem witness_SpecialFloatResults_numbers : valueOf fp32 0 = some 0 ∧ valueOf fp32 0x3F800000 = some 1 := by
  refine ⟨?_, ?_⟩ <;> norm_num [valueOf, fp32]
theorem witness_PermutationResults : let s := withV 1 2
    let q (l : Nat) : Nat := (lane (s.srcV s.cur 1) l).toNat % 32
    ready s { Opnds.vvv 31 1 1 with whole := [1], reads := [(1, (activeLanes s).map q), (1, activeLanes s)] } = true ∧
    ready s { Opnds.vvs 31 1 2 with whole := [1], reads := [(1, (activeLanes s).map fun l => (l + 1) % 32)] } = true ∧
    ready s { Opnds.svs 4 1 2 with whole := [1], reads := [(1, [0])] } = true ∧
    ready s { Opnds.vvv 3 1 2 with whole := [3, 1, 2], reads := [(1, activeLanes s), (2, [])] } = true := by decide +kernel
theorem witness_PermutationResults_moves : ready (withV 1 2) { Opnds.vss 3 4 5 with whole := [3] } = true ∧
    ready (withV 1 2) (Opnds.vd 31) = true ∧ ready (withV 1 2) (Opnds.vs 31 4) = true ∧ ready (withV 1 2) (Opnds.d 4) = true ∧
    ready (withV 1 2) { Opnds.vvs 3 1 4 with whole := [3] } = true := by decide
theorem witness_ReductionResults : ready (withV 1 2) (Opnds.vv 3 1) = true ∧ ready (withV 1 2) (Opnds.sv 4 1) = true := by decide
theorem witness_RandomResults : ready (withV 1 2) (Opnds.vd 0) = true := by decide
/-- Counters 61 in every lane: VLOOPB raises them to 63. Counters 62: it would pass 63. -/
theorem witness_NestingResults :
    let s (n : BitVec 6) : State := machine { runner with nest := (List.range 32).map fun l => (l, n) }
    ready (s 61) {} = true ∧ (∀ l < 32, ((here (s 61)).count l).toNat + 2 ≤ 63) ∧ (∃ l < 32, 63 < ((here (s 62)).count l).toNat + 2) ∧
    ready (s 0) (Opnds.va 31) = true ∧ ready (s 0) (Opnds.sv 4 31) = true ∧ ready (s 0) { Opnds.vd 31 with whole := [31] } = true ∧
    ready (s 0) { Opnds.va 31 with whole := [31], reads := [(31, List.range 32)] } = true := by decide

/-- A machine whose slot stands in a clause of one word in device memory, with that clause in its cache. -/
def placed (w : Nat) (f : Slot → Slot := id) : State :=
  let s := State.reset.withFetchWord 32 w
  s.mapSlot s.cur fun t => f { t with pos := 1, waitqDone := true, clause := some { hdr := headerOf 0xF8000061, words := [BitVec.ofNat 32 w] } }

/-- What was found where a clause was looked for. -/
def asCode : Found → Option (State × BitVec 32 × List (BitVec 32))
  | .code s w ws => some (s, w, ws)
  | _ => none

theorem of_asCode {f : Found} {s : State} {w : BitVec 32} {ws : List (BitVec 32)} (h : asCode f = some (s, w, ws)) :
    f = .code s w ws := by
  cases f <;> simp_all [asCode]

theorem placed_code : codeAt (placed 0) placedHead 0xF8000061 :=
  ⟨by decide, by decide, by decide, [0], by
    intro u hu
    simp only [List.mem_cons, List.not_mem_nil, or_false] at hu
    rcases hu with rfl | rfl <;> apply of_asCode <;> decide +kernel⟩
theorem witness_TransferResults : (here (placed 0)).following = false ∧ ready (placed 0) {} = true ∧
    ready (placed 0) (condOpnds .eqz 1) = true ∧ ready (placed 0) (Opnds.a 1) = true ∧ ready (placed 0) (Opnds.ss 5 6) = true ∧
    ready (placed 0) (Opnds.d 5) = true ∧ placedHead + BitVec.ofInt 64 (4 * (0 : Int)) = placedHead := by decide
theorem witness_TransferResults_conditions : branches (here (placed 0)) .eqz 0 ∧ ¬ branches (here (placed 0)) .nez 0 ∧
    branches (here (placed 0)) .all 0 ∧ ¬ branches (here (placed 0)) .none 0 := by
  refine ⟨?_, ?_, ?_, ?_⟩ <;> unfold branches <;> decide
/-- LOOP from a clause before the placed one, with an empty and with a full stack. -/
theorem witness_TransferResults_loop :
    let s (n : Nat) : State := placed 0 fun t => { t with
      head := placedHead - 8, loops := (List.range n).foldl (fun l _ => l.push { start := 0x2000000000000000, last := placedHead, after := 0x2000000000100000, remaining := 2 }) {} }
    (1 + ((here (s 0)).clauseLen : Int) ≤ 2) ∧ (here (s 0)).head + BitVec.ofInt 64 (4 * (2 : Int)) = placedHead ∧
    ((here (s 0)).loops.leave 5 (placedHead - 4) placedHead).depth ≠ 4 ∧ ((here (s 4)).loops.leave 5 (placedHead - 4) placedHead).depth = 4 := by decide
theorem witness_TransferResults_traps :
    let s := withS 0x1FFFFFFFFFFFFFFC 0x2000000000001002
    ((here s).sreg 1).toNat / 2 ^ 57 ≠ 16 ∧ ((here s).sreg 2).toNat / 2 ^ 57 = 16 ∧ ((here s).sreg 2).toNat % 4 ≠ 0 ∧
    ready s (Opnds.a 2) = true ∧ ((0 : Int) < 1 + ((here s).clauseLen : Int)) := by decide
theorem witness_TransferResults_subscriber : (here (machine { runner with mode := .subscribed, subscribed := some 3 })).following = true ∧
    ready (machine { runner with mode := .subscribed, subscribed := some 3 }) (Opnds.d 5) = true := by decide
theorem witness_SystemResults : ready (placed 0) { named := [127] } = true ∧
    ready (placed 0) { srcs := [.s 1], dsts := [.s 3], tb := some (.s 1) } = true ∧ (here (placed 0)).ops.any Op.beforeIcinv = false ∧
    (here (placed 0)).refused.any (fun e => e.2.beforeIcinv) = false ∧ ready (placed 0) { srcs := [.s 9], tb := some (.s 9), pub := false } = true ∧
    ready (placed 0) { pub := false } = true := by decide
theorem witness_SpecialRegisters : ready (withS 5 0) (Opnds.d 3) = true ∧ ready (withS 5 0) { srcs := [.s 1], tb := some (.s 1) } = true ∧
    ready (machine { runner with priv := true }) { srcs := [.s 1], tb := some (.s 1), needs := .super } = true ∧ (here (withS 5 0)).priv = false ∧
    (withS 5 0).hasPkg me.pkg = true := by decide


/-! ### Memory and synchronisation -/

/-- s2 holds an address, s1 a value; the own scratchpad holds 10 at 0x100, and word 0x104 is empty. -/
def loader (a : Word) (f : Slot → Slot := id) : State :=
  machine (f { runner with sregs := [(1, 5), (2, a)] }) { spad := [(0x100, 10)], spadEmpty := [0x41] }

theorem loader_numbered (a : Word) : numbered (here (loader a)) := fun _ h => nomatch h
theorem loader_unheld (a : Word) (c : Scope) (o : Order) : unheld (loader a) c o :=
  ⟨rfl, fun _ => by cases c <;> exact ⟨rfl, rfl, rfl, fun _ => rfl⟩⟩
theorem loader_unpaired (a : Word) : unpaired (here (loader a)) := fun _ h => nomatch h

theorem witness_ScalarRequests : ready (loader 0x100) (loadOpnds 1 2) = true ∧ ready (loader 0x100) (storeOpnds 1 2) = true ∧
    ready (loader 0x100) (atomOpnds 1 2) = true ∧ ready (loader 0x100) (addrOpnds 2) = true ∧
    ready (loader 0x100) { loadOpnds 30 2 with dsts := [.s 30, .s 31] } = true ∧
    ready (loader 0x100) { atomOpnds 30 2 with srcs := [.s 30, .s 31, .s 2] } = true ∧
    ((here (loader 0x2000000000001000)).sreg 2).toNat / 2 ^ 57 = 16 ∧ ((here (loader 0x100)).sreg 2).toNat / 2 ^ 57 ≠ 16 := by decide
/-- A misaligned word fails its checks; the last aligned one of the scratchpad passes them, and its byte can be read. -/
theorem witness_ScalarRequests_checks :
    ((checkElts (fresh (loader 0x102)) me 0 .load [(0, 0x102, 4, 0, 0)]).2 matches .error { kind := .align, .. }) = true ∧
    ((checkElts (fresh (loader 0x1FFFFC)) me 0 .load [(0, 0x1FFFFC, 4, 0, 0)]).2 matches .ok _) = true ∧
    ((loader 0x1FFFFC).peek { store := .spad, pkg := 0, cell := 0, off := 0x1FFFFC } 4).isSome = true ∧
    (here (loader 0x100)).unperformed < 16 := by decide
theorem witness_VectorRequests : ready (loader 0x100) (vloadOpnds 31 2) = true ∧ ready (loader 0x100) (vstoreOpnds 31 2) = true ∧
    ready (loader 0x100) (withIndex (vloadOpnds 4 2) 5) = true ∧ ready (loader 0x100) (withIndex (vstoreOpnds 4 2) 5) = true ∧
    ready (loader 0x100) (withStride (vloadOpnds 4 2) 1) = true ∧ ready (loader 0x100) (withStride (vstoreOpnds 4 2) 1) = true ∧
    ready (loader 0x100) { withIndex (vstoreOpnds 4 2) 5 with dsts := [.v 4] } = true ∧
    activeLanes (loader 0x100) ≠ [] := by decide
/-- The edges of the window map of R42. -/
theorem witness_AddressChecks : Acc.nclaim ∈ [Acc.load, .store, .atomic, .fe, .monitor, .nclaim] ∧
    3 ≤ (0x3000000000000000 : Word).toNat / 2 ^ 60 ∧ (0x2200000000000000 : Word).toNat / 2 ^ 60 = 2 ∧
    (0x2200000000000000 : Word).toNat / 2 ^ 57 ≠ 16 ∧ (0x70FFFF : Word).toNat % 2 ^ 60 < 0x710000 ∧
    (0x1FFFFF : Word).toNat < 0x200000 ∧ 0x4FFFFF < 0x500000 ∧ (0x63FFFF : Word).toNat % 2 ^ 60 < 0x640000 := by decide
/-- An operation of slot 1. -/
def op0 (a : Act) (p : Path := .edge) (d : Dest := .none) : Op := { id := 0, head := placedHead, pos := 1, loops := {}, act := a, path := p, dst := d }
/-- Slot 1 with that operation. -/
def inFlight (o : Op) (f : Slot → Slot := id) (c : Cell := {}) (k : Pkg := {}) : State :=
  machine (f { runner with ops := [o], nextOp := 1 }) c k

/-- That operation, in the own cell with these units, at the head of the slot port. -/
def atPort (a : Act) (us : List OpUnit) (c : Cell := {}) (d : Dest := .none) (m : Slot → Slot := id) : State :=
  inFlight { op0 a .local d with units := us } m { c with port := [{ slot := 1, op := 0, left := List.range us.length, start := 0, till := 1 }] }
/-- One element of `n` bytes of the own scratchpad at 0x100 + `a`, which holds 7. -/
def unit0 (n : Nat) (a : Nat := 0) (l : Nat := 0) : OpUnit :=
  { path := .local, elts := [{ lane := l, addr := BitVec.ofNat 64 (0x100 + a), n := n, val := 7, loc := { store := .spad, pkg := 0, cell := 0, off := 0x100 + a } }] }

theorem atPort_of (a : Act) (us : List OpUnit) (d : Dest) (c : Cell) (hw : c.waiters = []) (hne : ∃ x ∈ us, x.done = false)
    (h : ∀ x ∈ us, x.path = .local ∧ x.fault = none ∧ x.elts ≠ [] ∧ ∀ e ∈ x.elts, 0 < e.n ∧
      e.loc = { store := .spad, pkg := 0, cell := 0, off := e.loc.off }) :
    AtPort (atPort a us c d) me { op0 a .local d with units := us } := by
  refine ⟨rfl, rfl, List.nodup_singleton 0, rfl, rfl, rfl, rfl, rfl, (List.findSome?_eq_none_iff.2 fun x hx => (h x hx).2.1).symm, rfl,
    fun w hw' => ?_, hne, fun x hx => ?_, _, [], rfl, rfl, rfl, rfl⟩
  · change w ∈ c.waiters at hw'
    rw [hw] at hw'
    exact nomatch hw'
  · obtain ⟨h1, h2, h3, h4⟩ := h x hx
    exact ⟨h1, fun _ => h2, h3, h4⟩

theorem witness_ScratchpadAccesses : inSpad 0x1FFFF8 8 ∧ inSpad 0 16 ∧ inSpad 0x1FFFFF 1 ∧ (here (loader 0x100)).unperformed < 16 := by
  unfold inSpad; decide
/-- Every kind of operation can stand at the port: one element of 4, 8 or 16 bytes, over words that are full, empty, or one of each. -/
theorem witness_ScratchpadAccesses_port : ∀ (a : Act), ∀ n ∈ [4, 8, 16],
    AtPort (atPort a [unit0 n] { spad := [(0x100, 7)] }) me { op0 a .local with units := [unit0 n] } := by
  intro a n hn
  refine atPort_of a _ _ _ rfl ⟨_, List.mem_cons_self .., rfl⟩ ?_
  fin_cases hn <;> decide
theorem witness_ScratchpadAccesses_words : let e (a : Nat) : Elt := ((unit0 4 a).elts)[0]!
    isFull {} (e 0) ∧ ¬ isFull { spadEmpty := [0x40] } (e 0) ∧ isFull { spadEmpty := [0x40] } (e 4) ∧
    numAt [(0x100, 7)] (e 0).loc.off 4 = (e 0).val.toNat % 256 ^ 4 ∧ numAt [] (e 0).loc.off 4 ≠ (e 0).val.toNat % 256 ^ 4 := by
  unfold isFull; decide
theorem witness_ScratchpadVectors : activeLanes (loader 0x100) ≠ [] ∧ (here (loader 0x100)).unperformed < 16 ∧
    ∀ l ∈ activeLanes (loader 0x1FFF80), inSpad (0x1FFF80 + BitVec.ofNat 64 (l * vsizeBytes .w)) (vsizeBytes .w) := by
  unfold inSpad; decide
/-- Two lanes at one word, and one beside it. -/
theorem witness_ScratchpadVectors_port : ∀ (a : Act), AtPort (atPort a [unit0 4, unit0 4 0 1, unit0 4 4 2]) me
    { op0 a .local with units := [unit0 4, unit0 4 0 1, unit0 4 4 2] } :=
  fun a => atPort_of a _ _ _ rfl ⟨_, List.mem_cons_self .., rfl⟩ (by decide)
/-- R315, R316: the words at 0x100 and 0x180 stand in one bank; an atomic takes twice its cycles. -/
theorem test_port_cycles : portCycles .store ((unit0 8).elts ++ (unit0 8 0x80).elts) = 2 ∧
    portCycles .store ((unit0 8).elts ++ (unit0 8 8).elts) = 1 ∧ portCycles (.atom .add) (unit0 4).elts = 2 := by decide
/-- R171: a load of a word issues to the port, which reads it. -/
theorem test_ld : let u := after (.ld 5 2 .sl .rlx .w) (loader 0x100)
    ((here u).fe (.s 5)) = .pending ∧ got (served 0 0 1 u) = [(0, 10)] := by decide

/-- A slot with a load to s5 in flight. -/
def loading : State := loader 0x100 fun t =>
  { t with nextOp := 1, ops := [{ id := 0, head := 0, pos := 1, loops := {}, act := .load false, path := .edge, dst := .scalar 5 }] }
/-- A slot with a store in flight. -/
def storing : State := loader 0x100 fun t =>
  { t with nextOp := 1, ops := [{ id := 0, head := 0, pos := 1, loops := {}, act := .store, path := .edge, posted := true }] }

theorem witness_SynchronisationResults : ready loading {} = true ∧ (here loading).ops.any Op.beforeAcquire = true ∧
    (here storing).ops.any Op.beforeAcquire = false ∧ (here storing).releaseWaits false = true ∧
    (here (loader 0)).ops.any Op.beforeAcquire = false := by decide
theorem witness_SynchronisationResults_wakes :
    ready (withS 3 4) { srcs := [.s 1], dsts := [.s 5], tb := some (.s 1) } = true ∧ ready (withS 3 4) (Opnds.d 5) = true ∧
    (here (machine { runner with wakePending := true })).wakePending = true ∧ (here (withS 3 4)).wakePending = false ∧
    ready (withS 3 4) { srcs := [.s 2, .s 3], dsts := (List.range 4).map fun j => .s (28 + BitVec.ofNat 5 j), tb := some (.s 2) } = true ∧
    (withS 3 4).reaches 0 0 = true ∧ (withS 3 4).reaches 0 1 = false := by decide
theorem witness_SynchronisationResults_timelines :
    let s := machine { runner with sregs := [(1, 3)] } { tlCount := [(0, 3), (1, 2)], tlMark := [3] }
    NumSet.has (home s).tlMark 3 = true ∧ NumSet.has (home s).tlMark 0 = false ∧ ((here s).sreg 1).toNat ≤ (Table.get 0 (home s).tlCount 0).toNat ∧
    (Table.get 0 (home s).tlCount 1).toNat < ((here s).sreg 1).toNat := by decide

/-- Barrier 511, which expects two, with the given word; s1 names it, s2 holds a count. -/
def atBarrier (w : Word) (k : Word := 65535) (n : Word := 511) : State :=
  machine { runner with sregs := [(1, n), (2, k)] } { barriers := [(511, w)] }

theorem witness_BarrierResults : ready (atBarrier 2) (Opnds.ab 1 2) = true ∧ ready (atBarrier 2) (barOpnds 1) = true ∧
    ready (atBarrier 2) { barOpnds 1 with dsts := [.s 3] } = true ∧ ((here (atBarrier 2)).sreg 1).toNat < 512 ∧
    1 ≤ ((here (atBarrier 2)).sreg 2).toNat ∧ ((here (atBarrier 2)).sreg 2).toNat ≤ 65535 ∧
    65535 < ((here (atBarrier 2 65536)).sreg 2).toNat ∧ (2 ^ 60 + 2 : Word).toNat / 2 ^ 60 % 2 = 1 ∧
    (2 : Word).toNat % 2 ^ 16 ≠ 0 ∧ (0x10002 : Word).toNat / 2 ^ 16 % 2 ^ 16 + 1 = (0x10002 : Word).toNat % 2 ^ 16 ∧
    (here (machine { runner with phaseWait := some (511, true) })).phaseWait = some (511, true) := by decide +kernel
theorem witness_BarrierResults_released : released (atBarrier 2) false ∧ (here (atBarrier 2)).acquiring = false ∧
    unpaired (here (atBarrier 2)) := ⟨⟨rfl, rfl, rfl, fun h => nomatch h⟩, rfl, fun _ h => nomatch h⟩
theorem witness_BarrierResults_other : let n : Word := 0x10000000100001FF
    512 ≤ n.toNat ∧ n.toNat / 2 ^ 60 = 1 ∧ n.toNat / 2 ^ 52 % 2 ^ 8 = 0 ∧ n.toNat / 2 ^ 9 % 2 ^ 19 = 0 ∧
    (atBarrier 2 1 n).reaches 0 (BitVec.ofNat 12 (n.toNat / 2 ^ 40)) = true ∧
    (atBarrier 2 1 n).reaches 0 (BitVec.ofNat 12 ((0x10000100000001FF : Word).toNat / 2 ^ 40)) = false := by decide
/-- R35, R188: the last of two arrivals, by a slot below the lowest so far, sets DONE. -/
theorem test_bararr_last :
    ((after (.bararr 1) (atBarrier 0x0000000500010002)).cellAt 0 0).barrier 511 = 0x1000000100020002 := by decide

/-! ### Streams, copies and the matrix engine -/

/-- s1 names descriptor 5 of the cell, which the slot owns, bound to v3. -/
def streaming (q : Stream) (f : Slot → Slot := id) : State :=
  machine (f { runner with sregs := [(1, 5), (2, 0x1000)] }) { streams := [(5, q)] }
/-- A descriptor of slot 1. -/
def mine : Stream := { mode := .defined, owner := 1, dims := [(0, 4), (1, 1), (2, 1), (3, 1)], lstride := 4, esize := .w }

theorem witness_StreamInstructions : ready (streaming mine) (Opnds.ab 1 2) = true ∧ (streamOf (streaming mine) 5).mode = .defined ∧
    ready (streaming mine) { srcs := [.s 1], dsts := [.v 31], named := [31], whole := [31], tb := some (.s 1) } = true ∧
    ready (streaming mine) (streamOpnds 1) = true ∧ ready (streaming mine) { streamOpnds 1 with dsts := [.s 3] } = true ∧
    (here (streaming mine)).acquiring = false ∧ (streamOf (streaming mine) 5).owner = me.slot ∧ (here (streaming mine)).binds.length < 8 := by decide
theorem witness_StreamInstructions_bound :
    let s (q : Stream) : State := streaming q fun t => { t with binds := [(3, 5)] }
    ready (s { mine with mode := .running, vreg := some 3 }) { named := [3] } = true ∧
    Table.find (here (s { mine with vreg := some 3 })).binds 3 = some 5 ∧
    (streamOf (s { mine with vreg := some 3, output := true, mode := .error }) 5).mode = .error ∧
    (streamOf (s { mine with vreg := some 3, output := true, queue := [{ lanes := [], mask := 0 }] }) 5).queue ≠ [] ∧
    (here (s mine)).refused = [] := by decide

/-- A copy of 16 bytes from 0x100 to 0x104 by context 0, with CPGO's registers; s1 is the word of CPRESUME. -/
def copying (q : CopyCtx) (w : Word := 0) (f : Slot → Slot := id) : State :=
  machine (f { runner with sregs := [(1, w)], launchRegs := [(0, 0x100), (1, 0x104), (2, 16), (5, 1)] })
    { ctxs := [(0, q)], spad := [(0x100, 1), (0x10F, 2)] }
/-- The launch that those registers make. -/
def launch16 : Launch :=
  { regs := [(0, 0x100), (1, 0x104), (2, 16), (5, 1)], id := 7, slot := 1, head := 0, pos := 1, pid := 0, colour := 0, origin := none
    opId := 0, mustAck := [], mustOut := [], template := { kind := 0 } }
/-- The CPGO operation that awaits its acceptance. -/
def cpgo0 : Op := { id := 0, head := 0, pos := 1, loops := {}, act := .launch 0, path := .hub, dst := .scalar 5 }

theorem witness_CopyInstructions : ready (copying {}) { srcs := [.s 1], tb := some (.s 1) } = true ∧ ready (copying {}) (Opnds.d 1) = true ∧
    (here (copying {})).acquiring = false ∧ (here (copying {})).unaccepted < 4 ∧ (here (copying {})).unperformed < 16 ∧
    (ctxOf (copying { mode := .faulted }) 0 0 0).mode = .faulted ∧ ((here (copying {} 2)).sreg 1).toNat / 2 % 2 ^ 8 ≠ 0 ∧
    (let w : Word := 0x1000000010000001
     w.toNat / 2 ^ 60 = 1 ∧ w.toNat / 2 ^ 52 % 2 ^ 8 = 0 ∧ w.toNat / 2 % 2 ^ 27 = 0) := by decide
theorem witness_CopyEvents :
    let accept := copying { unaccepted := [launch16] } 0 fun t => { t with ops := [cpgo0], nextOp := 1 }
    let go := copying { mode := .busy, cur := some launch16 }
    accept.hasPkg 0 = true ∧ (accept.pkgAt 0).stalled 0 = false ∧ ((accept.cellAt 0 0).slotAt 1).acked launch16.mustAck = true ∧
    accept.opOf me 0 = some cpgo0 ∧ cpgo0.held = false ∧ (ctxOf go 0 0 0).off < launch16.len ∧ (ctxOf go 0 0 0).row < launch16.rows ∧
    (go.cellAt 0 0).spadPoison = [] ∧ (go.cellAt 0 0).waiters = [] ∧
    launch16.rows ≤ (ctxOf (copying { mode := .busy, cur := some launch16, row := 1 }) 0 0 0).row := by decide
/-- The first unit of a context that is idle with a launch queued, and the units at the ends of a row of 16 bytes. -/
theorem witness_CopyEvents_units : let s := copying { queue := [launch16] }
    (ctxOf s 0 0 0).mode = .idle ∧ (ctxOf s 0 0 0).queue = launch16 :: [] ∧ 0 < launch16.rows ∧ (s.pkgAt 0).stalled 0 = false ∧
    launch16.mustOut.all (s.cellAt 0 0).outDone = true ∧ launch16.dst.toNat + launch16.len ≤ 0x200000 ∧
    nextUnit 0x100 0x104 16 0 true = (15, 1) ∧ nextUnit 0x100 0x108 16 8 false = (8, 8) ∧ nextUnit 0x101 0x109 16 0 true = (15, 1) := by decide
theorem witness_CopyEvents_waitrec :
    let l : Launch := { launch16 with regs := [(0, 0x100), (1, 0x104), (2, 16), (5, 1), (8, 0x3001), (9, 8)] }
    let s := copying { mode := .waitrec, cur := some l, row := 1 }
    l.rows ≤ (ctxOf s 0 0 0).row ∧ (ctxOf s 0 0 0).rdone = false ∧ (ctxOf s 0 0 0).mode = .waitrec ∧ l.flagBit 3 = true ∧ l.flagBit 4 = false ∧ l.flagBit 0 = false ∧
    (s.pkgAt 0).nodeAt (nodeGraph 0x3001) (nodeIndex 0x3001) = none := by decide

/-- s1 is a record word: FP16, eight groups from 0; it stands as operand-buffer record 0 and B-store record 0 of slot 1. -/
def matrixState (w : Word) (c : Cell := {}) (g : GRef := me) : State :=
  machine { runner with sregs := [(1, w)] } c { cycle := 256 } g

theorem witness_MatrixInstructions : ready (matrixState 0x08404000) { srcs := [.s 1], tb := some (.s 1) } = true ∧
    (0x08404000 : Word).toNat / 2 ^ 22 % 2 ^ 7 = 0x21 ∧ (0x08404000 : Word).toNat / 2 ^ 11 % 2 ^ 11 = 8 ∧
    (0x08404000 : Word).toNat / 2 ^ 29 % 2 ^ 25 = 0 ∧ validFormat (BitVec.ofNat 7 ((0 : Word).toNat / 2 ^ 22 % 2 ^ 7)) = false ∧
    ready (matrixState 0) {} = true ∧ ready (matrixState 0) (Opnds.ab 1 1) = true ∧
    ready (matrixState 0 {} ⟨0, 0, 0⟩) { Opnds.ab 1 1 with needs := .lead } = true ∧ me.slot ≠ 0 := by decide
theorem witness_MatrixInstructions_mma :
    let s := matrixState 0 { obres := [(0, 0x8100000008404000)], bsres := [(0, 0x8100000008400100)] }
    mmaCode (home s) 0 0 4 = none ∧ (here s).mmaStep.toNat ≤ 3 ∧ mmaCode (home s) 0 0 5 ≠ none ∧
    (Table.get 0 (home s).obres 0).getLsbD 63 = true ∧ (Table.get 0 (home s).obres 0).toNat / 2 ^ 56 % 2 ^ 4 = me.slot.toNat := by decide
/-- Those records: FP16, 2,048 bytes and a slice of 64; four steps of 512 and of 8 bytes fit, five do not. -/
theorem witness_MatrixInstructions_fits : let a : Nat := 0x8100000008404000; let b : Nat := 0x8100000008400100
    a / 2 ^ 22 % 2 ^ 7 = 0x21 ∧ b / 2 ^ 22 % 2 ^ 7 = 0x21 ∧ 2 ^ 63 ≤ a ∧ 2 ^ 63 ≤ b ∧ a / 2 ^ 32 % 2 ^ 3 = 0 ∧ b / 2 ^ 32 % 2 ^ 3 = 0 ∧
    256 * (a / 2 ^ 11 % 2 ^ 11) = 0 + 4 * 512 ∧ 256 * (a / 2 ^ 11 % 2 ^ 11) < 0 + 5 * 512 ∧ 0 + 4 * 8 ≤ 64 * (b / 2 ^ 8 % 2 ^ 9) := by decide
theorem witness_MatrixInstructions_tiles :
    let s := machine { runner with sregs := [(1, 0x1FC000)] } { acc := [(0, 0x3F800000)] }
    (home s).steps = [] ∧ ready s { srcs := [.s 1], dsts := [.v 3], named := [3], tb := some (.s 1) } = true ∧
    ready s { srcs := [.v 3, .s 1], named := [3], ta := some (.v 3), tb := some (.s 1) } = true ∧
    ((here s).sreg 1).toNat % 16 = 0 ∧ ((here s).sreg 1).toNat + 0x4000 ≤ 0x200000 ∧ (here s).acquiring = false ∧ (home s).accPoison = [] ∧
    activeLanes s = 0 :: (List.range 31).map (· + 1) ∧ (here s).unperformed < 16 ∧
    activeLanes (machine { runner with nest := (List.range 32).map fun l => (l, 1) }) = [] := by decide
/-- A poisoned row of the tile, a scale byte and an element that cannot be read, and the last step of a job. -/
theorem witness_MatrixEvents_poison :
    let m : MmaJob := { slot := 1, tile := 3, aNo := 0, bNo := 0, arec := 0x8100000108404000, brec := 0x8100000008400100, ao := 0, bo := 0
                        k := 4, j := 3, zero := false, mask := 0xFFFFFFFF, issued := 240 }
    let s := machine runner { mma := [m], rotation := [(0, 0x81)], accPoison := [3 * 2048 + 63 * 32 + 31], opBad := [0, 63] } { cycle := 256 }
    stepJob (s.pkgAt 0) (s.cellAt 0 0) me = some m ∧ NumSet.has (home s).accPoison (m.tile.toNat * 2048 + 63 * 32 + 31) = true ∧
    m.mask.getLsbD (63 / 2) = true ∧ (home s).steps = [] ∧ m.k ≤ m.j + 1 ∧ m.arec.toNat / 2 ^ 32 % 2 ^ 3 = 1 ∧ NumSet.has (home s).opBad 63 = true := by decide +kernel
/-- A job of slot 1, which owns window 0, issued 16 cycles before that window; and an accumulation that is over. -/
theorem witness_MatrixEvents :
    let m : MmaJob := { slot := 1, tile := 0, aNo := 0, bNo := 0, arec := 0x8100000008404000, brec := 0x8100000008400100, ao := 0, bo := 0
                        k := 4, j := 0, zero := true, mask := 0xFFFFFFFF, issued := 240 }
    let s (bad : NumSet) : State := machine runner { mma := [m], rotation := [(0, 0x81)], opBad := bad } { cycle := 256 }
    stepJob ((s []).pkgAt 0) ((s []).cellAt 0 0) me = some m ∧ stepFault ((s []).cellAt 0 0) m = none ∧
    (stepFault ((s [3]).cellAt 0 0) m).isSome = true ∧ m.j + 1 < m.k := by decide +kernel
theorem witness_MatrixEvents_rows :
    let x : StepRun := { slot := 1, tile := 0, zero := true, mask := 1, aNo := 0, bNo := 0, afmt := 0x23, bfmt := 0x23, ascale := none
                         bscale := none, ablk := List.replicate 1024 2, bblk := List.replicate 1024 3, window := 0 }
    x.window + 48 ≤ 48 ∧ (0x14 < 32 ∧ 0x14 % 8 ≠ 0) ∧ x.ablk.length = 1024 ∧ x.mask.getLsbD (1 / 2) = true ∧ x.mask.getLsbD (63 / 2) = false ∧ x.element 0 0 0 = 96 := by decide +kernel


/-! ### Operations in flight, holds, exact sums -/

theorem witness_AnswerEvents :
    let a := { op0 (.load false) .edge (.scalar 5) with performed := true, got := [(0, 9)] }
    let b := { op0 .store with posted := true, performed := true }
    let c := { op0 .store with posted := true, performed := true, fault := some { kind := .fenced } }
    (inFlight a).opOf me 0 = some a ∧ (here (inFlight a)).lateFault = false ∧ (here (inFlight a)).wait = none ∧
    (here (inFlight a)).engagedIn 0 = false ∧ (inFlight b).opOf me 0 = some b ∧ (inFlight c).opOf me 0 = some c ∧
    (inFlight (op0 (.query (.graphTimeline 0)) .hub (.scalar 5))).opOf me 0 = some (op0 (.query (.graphTimeline 0)) .hub (.scalar 5)) := by decide
/-- R175: an LDFE issued at cycle 3 with %FEWAIT = 100 is cancelled at cycle 1,603. -/
theorem witness_AnswerEvents_bound :
    let s := inFlight (op0 (.fe .ldfe) .local (.scalar 5)) (fun t => { t with
      mode := .parked, feWait := 100, wait := some { what := .answer 0, since := 3 } }) {} { cycle := 1603 }
    (here s).wait = some { what := .answer 0, since := 3 } ∧ (here s).feWait ≠ 0 ∧ s.cycleAt 0 = 3 + 16 * (here s).feWait.toNat ∧
    (here s).mode = .parked ∧ (op0 (.fe .ldfe) .local (.scalar 5)).performed = false ∧ (here s).lateFault = false ∧ (here s).dying = false := by decide
/-- A load of one word of the own device memory, and a store to the scratchpad of cell 5. -/
theorem witness_ArrivalEvents :
    let e : Elt := { lane := 0, addr := 0x2000000000000100, n := 4, loc := { store := .hbm, pkg := 0, off := 0x100 } }
    let o := { op0 (.load false) .edge (.scalar 5) with units := [{ path := .edge, elts := [e] }] }
    let s := inFlight o
    s.opOf me 0 = some o ∧ o.live = true ∧ unitFree (s.slotAt me) o .edge 0 = true ∧ s.refusesPlace 0 e.loc = false ∧
    s.boundaryRefuses 0 0 e.loc = false ∧ edgeReady s me o e = true ∧ (s.peek e.loc e.n).isSome = true := by decide
theorem witness_ArrivalEvents_messages :
    let e : Elt := { lane := 0, addr := 0x1000000050000100, n := 4, val := 7, loc := { store := .spad, pkg := 0, cell := 5, off := 0x100 } }
    let o := { op0 .store .remote with units := [{ path := .remote, elts := [e] }], posted := true }
    let b := { op0 (.arrive 3) .remote with units := [{ path := .remote, elts := [e] }], posted := true }
    let s := inFlight o
    o.live = true ∧ unitFree (s.slotAt me) o .remote 0 = true ∧ serviceFree s me o e = true ∧ s.passes 0 0 = true ∧
    (s.cellAt 0 5).waiters = [] ∧ (s.peek e.loc e.n).isSome = true ∧ pathOf e.addr = .remote ∧ e.loc.prot = false ∧ b.live = true ∧ serviceFree (inFlight b) me b e = true ∧
    s.boundaryRefuses 0 0 { store := .control, pkg := 0, cell := 5, off := 0 } = false ∧
    s.refusesPlace 0 { store := .control, pkg := 0, cell := 5, off := 0 } = false ∧ (op0 (.wake ⟨0, 0, 2⟩) .remote).live = true := by decide
/-- A full and an empty word of that cell, and the operands at which a comparison holds and fails. -/
theorem witness_ArrivalEvents_words : NumSet.has [0x40] (0x100 / 4) = true ∧ NumSet.has [] (0x100 / 4) = false ∧
    numAt [(0x100, 7)] 0x100 4 = (7 : Word).toNat % 256 ^ 4 ∧ numAt [] 0x100 4 ≠ (7 : Word).toNat % 256 ^ 4 := by decide
theorem witness_HoldEvents :
    let s (w : HoldWhy) : State := machine { runner with hold := some { why := w, till := 0 } }
    (Instr.groupStart me, HoldWhy.group) ∈ [(Instr.idleDelayEnd me, HoldWhy.idle), (.xaccHoldEnd me, .xacc), (.slotStartFirstIssue me, .start),
        (.resumedSlotFirstIssue me, .resume), (.groupStart me, .group)] ∧ (here (s .group)).hold = some { why := .group, till := 0 } ∧
    0 ≤ (s .group).cycleAt 0 := by decide
theorem witness_HoldEvents_waits :
    let t : Slot := { runner with mode := .parked, feWait := 1, wait := some { what := .wake 5, since := 0 } }
    let s := machine t {} { cycle := 16 }
    (here s).wait = some { what := .wake 5, since := 0 } ∧ s.cycleAt 0 = 0 + 16 * (here s).feWait.toNat ∧
    waitqMet (machine runner) me (headerOf 0xF8000F61) = true ∧ (here (machine { runner with waitqDone := false })).waitqDone = false ∧
    (here (machine { runner with icinv := true })).icinv = true ∧
    (here (machine { runner with refill := some (placedHead, none) })).refill = some (placedHead, none) ∧
    refillReady (machine runner) me 0 placedHead = true := by decide
theorem witness_ExactSumResults : ready (withS 0x1FFFB0 0x100) (Opnds.a 1) = true ∧ ready (withS 0x1FFFB0 0x100) (Opnds.image 1 3) = true ∧
    ready (withS 0x1FFFB0 0x100) (Opnds.ab 1 2) = true ∧ ready (withS 0x1FFFB0 0x100) (Opnds.ss 3 1) = true ∧
    (here (withS 0x1FFFB0 0x100)).acquiring = false ∧ (home (withS 0x1FFFB0 0x100)).waiters = [] ∧
    0x200000 < (0x1FFFB1 : Word).toNat + 80 ∧ (0x1FFFA8 : Word).toNat + 80 ≤ 0x200000 ∧ (0x1FFFA8 : Word).toNat % 16 ≠ 0 := by decide
theorem witness_ExactSumResults_image : imageAt 0x1FFFB0 ∧ imageAt 0 ∧ (here (withS 0x1FFFB0 0x100)).unperformed < 16 := by
  unfold imageAt; decide
/-- Image additions, reads and merges at the port, and one that meets a poisoned word. -/
theorem witness_ExactSumResults_ends : ∀ (a : Act) (d : SReg),
    AtPort (atPort a (imageWords me 0x100) {} (.scalar d)) me { op0 a .local (.scalar d) with units := imageWords me 0x100 } ∧
    AtPort (atPort a (imageWords me 0x200 ++ imageWords me 0x100)) me { op0 a .local with units := imageWords me 0x200 ++ imageWords me 0x100 } :=
  fun a d => ⟨atPort_of a _ _ _ rfl ⟨_, List.mem_cons_self .., rfl⟩ (by decide),
    atPort_of a _ _ _ rfl ⟨_, List.mem_cons_self .., rfl⟩ (by decide)⟩
theorem witness_ExactSumResults_poison : let s := atPort (.xacc .merge) (imageWords me 0x100) { spadPoison := [0x29] } .none fun t => { t with lastOp := some 0 }
    ¬ clean (home s).spadPoison 0x100 80 ∧ (here s).lastOp = some 0 ∧ (here s).mode = .run ∧ (here s).lateFault = false :=
  ⟨fun h => absurd (h 0x29 (by decide)) (by decide), rfl, rfl, rfl⟩
/-- R164: adding 1, 2^-24 and -1 to a cleared image leaves 0x01 in its byte 33 alone, and XRD returns 2^-24. -/
theorem test_exact_sum : let s := ((machine { runner with sregs := [(1, 0x100)], nest := (List.range 29).map fun l => (l + 3, 1) }).setLanes me 3 7
      fun l => [0x3F800000, 0x33800000, 0xBF800000].getD l 0)
    (home (served 0 0 10 (after (.xadd 1 3) s))).spad = [(0x121, 1)] ∧
    (here (served 0 0 10 (after (.xrdS 5 1) (machine { runner with sregs := [(1, 0x100)] } { spad := [(0x121, 1)] })))).sreg 5 = 0x33800000 := by decide +kernel

/-! ### Channels, records, slots and supervisors -/

theorem witness_ChannelInstructions : ready (withS 0xFFF 0) { srcs := [.s 1], tb := some (.s 1), pub := false } = true ∧
    ready (withS 0xFFF 0) { pub := false } = true ∧ ready (withS 0xFFF 0) { srcs := [.s 1], dsts := [.s 5], tb := some (.s 1) } = true ∧
    (here (withS 0xFFF 0)).publishing = none ∧ (here (machine { runner with publishing := some 7 })).publishing = some 7 ∧
    (0x1000 : Word).toNat / 2 ^ 12 % 2 ^ 4 ≠ 0 ∧ 2 ^ 24 ≤ (0x1000000 : Word).toNat ∧ (here (withS 0xFFF 0)).unperformed < 16 := by decide
/-- Slot 2 subscribes to the channel on which slot 1 publishes, in the cycle of slot 1. -/
theorem witness_ChannelInstructions_end :
    let s := machine { runner with publishing := some 7 } {} { cycle := 1, chans := [(7, { publisher := some me })] } me
      [(2, { runner with mode := .subscribed, subscribed := some 7 })]
    (here s).publishing = some 7 ∧ (s.slotAt ⟨0, 0, 2⟩).subscribed = some 7 ∧ s.cycleAt 0 % 16 = me.slot.toNat := by decide
theorem witness_ChannelInstructions_depart :
    let s := placed 0 fun t => { t with mode := .subscribed, subscribed := some 7 }
    (here s).following = true ∧ ready s {} = true ∧ branches (here s) .any 0 ∧ (here s).head + BitVec.ofInt 64 (4 * (0 : Int)) = placedHead :=
  ⟨by decide, by decide, ⟨0, by decide, by decide⟩, by decide⟩

/-- An instruction as it reaches a subscriber of channel 7. -/
def published : Published :=
  { due := 0, chan := 7, item := .instr [0x04188002] none placedHead 1 (clauseOf [0x04188002]) {} placedHead 2 {} }

theorem witness_ChannelEvents :
    let s := machine { runner with registering := some 7 }
    let t : Slot := { runner with mode := .parked, wait := some { what := .join 7 0, since := 0 }, inbox := [published] }
    let u : Slot := { runner with mode := .subscribed, subscribed := some 7, inbox := [published] }
    (here s).registering = some 7 ∧ (Table.get ({} : Chan) (pack s).chans 7).publisher = none ∧
    (here (machine t)).inbox = published :: [] ∧ published.due ≤ (machine t).cycleAt 0 ∧ (here (machine t)).mode = .parked ∧
    (here (machine u)).mode = .subscribed ∧ (home (machine u)).mma = [] ∧ (here (machine u)).pendingPub = none ∧ (here (machine u)).hold = none := by decide
/-- Two slots at the registry for a channel that slot 2 has got in this cycle; a subscriber that waits on a register; a step that
its publisher ends while an instruction of its waits. -/
theorem witness_ChannelEvents_ties :
    let s (n : SlotId) : State := machine { runner with registering := some 7 } {} { chans := [(7, { publisher := some ⟨0, 0, n⟩ })] }
    let u (t : Slot) : State := machine { runner with mode := .subscribed, subscribed := some 7, wait := some { what := .reg (.s 1), since := 0 }, inbox := t.inbox }
    (Table.get ({} : Chan) (pack (s 2)).chans 7).since = (s 2).cycleAt 0 ∧ me.slot.toNat < (2 : SlotId).toNat ∧ (0 : SlotId).toNat ≤ me.slot.toNat ∧
    (here (u { inbox := [published] })).wait = some { what := .reg (.s 1), since := 0 } ∧ (here (u {})).hold = none ∧ (here (u {})).ops = [] ∧
    (here (machine { runner with mode := .subscribed, subscribed := some 7, pendingPub := some published })).pendingPub = some published := by decide
theorem witness_ChannelEvents_stops :
    let e (i : PubItem) : State := machine { runner with mode := .subscribed, subscribed := some 7, inbox := [{ due := 0, chan := 7, item := i }] }
    let w := machine { runner with mode := .parked, feWait := 1, wait := some { what := .join 7 0, since := 0 } } {} { cycle := 16 }
    (here (e (.endMark placedHead 1 {}))).inbox = [{ due := 0, chan := 7, item := .endMark placedHead 1 {} }] ∧
    (here (e (.stop 0x10 1 placedHead 1))).publishing = none ∧ (here w).feWait ≠ 0 ∧ w.cycleAt 0 = 0 + 16 * (here w).feWait.toNat ∧
    (here (machine { runner with registering := some 7 } {} { chans := [(7, { publisher := some ⟨0, 0, 2⟩ })] })).publishing = none := by decide

/-- A node: 16-byte records, a queue of 8, one slot of 32 registers, MAXDEPTH 3, TIMER 5, THRESH 2. -/
def node0 : Node :=
  { desc := [0x2000000000001000, 0x2000000000700000, BitVec.ofNat 64 (3 * 2 ^ 56 + 32 * 2 ^ 40 + 3 * 2 ^ 28 + 1 * 2 ^ 21 + 1 * 2 ^ 14),
      BitVec.ofNat 64 (5 * 2 ^ 32 + 2), 0, 0, 0, 0] }
/-- Graph 3 with that node alone. -/
def graph3 (d : Node) : Graph := { mode := .resident, nodes := [d] }
/-- Slot 1 names node 0 of graph 3 in s1. -/
def graphState (d : Node := node0) (f : Slot → Slot := id) (k : Pkg := {}) : State :=
  machine (f { runner with sregs := [(1, 0x3000)] }) {} { k with graphs := [(3, graph3 d)] }

theorem witness_RecordInstructions :
    let p : Opnds := { srcs := [.v 30, .s 1], dsts := [.v 30, .v 31], named := [30, 31], whole := [30, 31], beyond := (30 : VRegNo) == 127
                       ta := some (.v 30), tb := some (.s 1) }
    ready (graphState) p = true ∧ ready (graphState) { p with srcs := [.v 30, .v 31, .s 1], dsts := [] } = true ∧
    ready (graphState) {} = true ∧ ready (graphState) { srcs := [.s 1], dsts := [.s 5], tb := some (.s 1) } = true ∧
    activeLanes graphState ≠ [] ∧ activeLanes (graphState node0 fun t => { t with nest := (List.range 32).map fun l => (l, 1) }) = [] ∧
    (here graphState).member = none ∧ (here graphState).ops.any Op.beforeRdone = false ∧ (here graphState).unperformed < 16 := by decide
theorem witness_RecordInstructions_released : released graphState false ∧ unpaired (here graphState) :=
  ⟨⟨rfl, rfl, rfl, fun h => nomatch h⟩, fun _ h => nomatch h⟩
/-- Two lanes that ask for 3 and 6 records of 8: the first is served, the second not. -/
theorem witness_RecordEvents :
    let o := { op0 (.record (.alloc 3 0 false false)) .hub (.vpair 30) with got := [(0, 3), (1, 6)] }
    let s := graphState node0 fun t => { t with ops := [o], nextOp := 1 }
    s.opOf me 0 = some o ∧ o.live = true ∧ (pack s).nodeAt 3 0 = some node0 ∧ (here s).depth.toNat + 1 ≤ node0.maxDepth ∧
    node0.maxDepth < (here (graphState node0 fun t => { t with depth := 3 })).depth.toNat + 1 ∧ node0.waiters = [] ∧
    3 ≤ node0.free ∧ node0.free < 3 + 6 ∧ node0.qcap < 3 + 6 ∧ (pack s).nodeAt 3 1 = none := by decide
theorem witness_RecordEvents_commit :
    let d : Node := { node0 with alloc := 1, recs := [{ seq := 0, mode := .uncommitted, owner := some me }] }
    let o := { op0 (.record (.commit 3 0 false)) .hub with got := [(0, BitVec.ofNat 64 (1 * 2 ^ 48))] }
    let s := graphState d fun t => { t with ops := [o], nextOp := 1 }
    s.opOf me 0 = some o ∧ (pack s).nodeAt 3 0 = some d ∧ (∀ e ∈ o.got, ∀ r ∈ laneRecords d e.2, r = some { seq := 0, mode := .uncommitted, owner := some me }) ∧
    (∀ e ∈ o.got, laneRecords d e.2 ≠ []) ∧ none ∈ laneRecords d (BitVec.ofNat 64 (2 * 2 ^ 48)) := by decide
theorem witness_RecordEvents_done :
    let m : Member := { graph := 3, node := 0, seq := 0, launch := 1, index := 0, twin := false, partner := none, recs := [0], opNum := 0 }
    let o := { op0 (.record .done) .hub with mask := 1 }
    let s := graphState node0 fun t => { t with ops := [o], nextOp := 1, member := some m }
    s.opOf me 0 = some o ∧ (here s).member = some m ∧ (pack s).nodeAt m.graph m.node = some node0 := by decide
theorem witness_RecordEvents_waits :
    let o := { op0 (.record (.alloc 3 0 false true)) .hub (.vpair 30) with got := [(0, 3)], waiting := true }
    let d : Node := { node0 with waiters := [(me, 0)] }
    let s := graphState d (fun t => { t with ops := [o], nextOp := 1, mode := .parked, feWait := 1, wait := some { what := .rallocw 0, since := 0 } }) { cycle := 16 }
    s.opOf me 0 = some o ∧ (pack s).nodeAt 3 0 = some d ∧ 3 ≤ d.free ∧ s.cycleAt 0 = 0 + 16 * (here s).feWait.toNat := by decide

theorem witness_SlotInstructions : let w : Word := BitVec.ofNat 64 (2 + 32 * 2 ^ 8 + 8 * 2 ^ 24)
    let s := machine { runner with sregs := [(1, w), (2, placedHead)] } {} {} ⟨0, 0, 0⟩
    ready s { Opnds.ab 1 2 with needs := .lead } = true ∧ ready s { Opnds.a 1 with needs := .lead } = true ∧
    released s false ∧ ((here s).sreg 1).toNat.testBit 33 = false ∧
    ((home s).slotAt 2).mode = .idle ∧ (pack s).isReserved 0 2 = false ∧ (pack s).windowFree 0 none 32 8 = true ∧
    (pack s).windowFree 0 none 31 8 = false ∧ s.isSuper ⟨0, 0, 2⟩ = false ∧ ready s { srcs := [.s 2], dsts := [.s 5], tb := some (.s 2), needs := .lead } = true := by
  unfold released; decide
theorem witness_SlotInstructions_reap :
    let s := machine { runner with sregs := [(2, 3)] } {} {} ⟨0, 0, 0⟩ [(3, { mode := .exited })]
    (s.slotAt ⟨0, 0, BitVec.ofNat 4 ((here s).sreg 2).toNat⟩).mode = .exited ∧ (s.slotAt ⟨0, 0, 3⟩).member = none ∧
    (s.slotAt ⟨0, 0, 4⟩).mode ≠ .exited := by decide
theorem witness_SlotInstructions_exit :
    let s (q : Stream) : State := streaming q fun t => { t with binds := [(3, 5)] }
    ready (s mine) {} = true ∧ (here (s mine)).binds.filter (fun e => (streamOf (s mine) e.2.toNat).output) = [] ∧ (here (s mine)).ops = [] ∧
    (3, 5) ∈ (here (s { mine with output := true, mode := .error })).binds.filter (fun e => (streamOf (s { mine with output := true, mode := .error }) e.2.toNat).output) ∧
    (here loading).ops ≠ [] := by decide
theorem witness_SlotInstructions_windows : let s := machine { runner with sregs := [(2, 96)] }
    ready s { srcs := [.s 2], dsts := [.s 5], tb := some (.s 2) } = true ∧ ((here s).sreg 2).toNat % 8 = 0 ∧ ((here s).sreg 2).toNat ≤ 120 ∧
    (here s).regLim.toNat + 96 ≤ 128 ∧ (pack s).windowFree 0 (some 1) 32 96 = true ∧ 120 < (128 : Word).toNat ∧ me.slot ≠ 0 := by decide

/-- Partition 0 holds cells 0 and 1; slot 1 of cell 0 supervises it; s2 names slot 2, item 3. -/
def part0 : Part := { mode := .active, words := [(0, BitVec.ofNat 64 (2 * 2 ^ 16 + 1 * 2 ^ 24)), (1, 1)] }
/-- The supervisor with its target. -/
def supervisor (t : Slot) (i : Nat := 3) (p : Bool := true) : State :=
  machine { runner with priv := p, sregs := [(1, 9), (2, BitVec.ofNat 64 (2 + i * 2 ^ 40))] } {} { parts := [(0, part0)] } me
    [(2, { t with sregs := [(3, 77)], head := placedHead, regBase := 32, regLim := 8 })]

theorem witness_SupervisorInstructions : let s := supervisor { mode := .trapped }
    let w := (here s).sreg 2
    ready s { srcs := [.s 2], dsts := [.s 1], tb := some (.s 2), needs := .super } = true ∧
    ready s { srcs := [.s 1, .s 2], ta := some (.s 1), tb := some (.s 2), needs := .super } = true ∧
    w.toNat / 2 ^ 36 % 2 ^ 4 = 0 ∧ w.toNat / 2 ^ 47 % 2 = 0 ∧ w.toNat / 2 ^ 53 = 0 ∧ w.toNat / 2 ^ 28 % 2 ^ 8 = (pack s).domain.toNat ∧
    s.supervises s.cur (GRef.ofWord w) = true ∧ s.ctlBusy (GRef.ofWord w) = false ∧ (s.slotAt (GRef.ofWord w)).mode = .trapped ∧
    s.owesRecord (GRef.ofWord w) = false ∧ SpecReg.ofCode 3 = some .gang ∧ SpecReg.ofCode 25 = none := by decide
/-- RESUME, KILL and SPILL that have arrived at slot 2, in each state that they act on; and the values of items that may not stand. -/
theorem witness_SupervisorInstructions_effects :
    let s (a : CtlAct) (t : Slot) : State := supervisor { t with ctl := some (a, .slot me 0, 0) }
    let u (a : CtlAct) (t : Slot) : Slot := (s a t).slotAt ⟨0, 0, 2⟩
    (u .resume { mode := .trapped }).ctl = some (.resume, .slot me 0, 0) ∧ (u .resume { mode := .trapped }).replay = [] ∧
    (u .resume { mode := .trapped }).joinPoint = none ∧ (s .resume { mode := .trapped }).owesRecord ⟨0, 0, 2⟩ = false ∧
    (s .resume { mode := .spilled }).owesRecord ⟨0, 0, 2⟩ = false ∧ (u .kill { mode := .run }).wait = none ∧ (u .kill { mode := .run }).dying = false ∧
    (u .kill { mode := .run }).ops = [] ∧ (u .kill { mode := .run, ops := [op0 (.load false)] }).ops.any (fun o => !o.posted && !o.orphan && !o.shadow) = true ∧
    (u .spill { mode := .run }).waitNext = none ∧ (u .spill { mode := .run }).member = none := by decide
theorem witness_SupervisorInstructions_items : badItem 39 0 ∧ badItem 27 5 ∧ badItem 1 0x400 ∧ ¬ badItem 27 4 ∧ ¬ badItem 38 0 ∧
    ¬ badItem 1 0x10400 ∧ ¬ badItem 11 (BitVec.allOnes 64) ∧ ¬ badItem 26 0 := by
  unfold badItem
  refine ⟨?_, ?_, ?_, ?_, ?_, ?_, ?_, ?_⟩ <;> decide
theorem witness_SupervisorInstructions_states : (here (supervisor { mode := .trapped } 3 false)).priv = false ∧
    ((supervisor { mode := .idle }).slotAt ⟨0, 0, 2⟩).mode = .idle ∧ ((supervisor { mode := .spilled }).slotAt ⟨0, 0, 2⟩).mode = .spilled ∧
    ((supervisor { mode := .run }).slotAt ⟨0, 0, 2⟩).wait = none ∧
    (machine { runner with priv := true, sregs := [(2, 2)] }).supervises me ⟨0, 0, 2⟩ = false ∧
    2 ^ 36 * 5 / 2 ^ 36 % 2 ^ 4 ≠ 0 := by decide
theorem test_slotctl_rds : got (after (.slotctlRds 1 2) (supervisor { mode := .trapped })) = [(0, 77)] := by decide
/-- SLOTCTL commands of the mailbox of partition 0, which the host supervises. -/
theorem witness_SupervisorCommands :
    let c (o : List Word) : Cmd := { op := 1, arg := 0, opnds := o, malformed := false, begun := false }
    let q (o : List Word) : Part := { part0 with cmd := some (c o), words := [(0, BitVec.ofNat 64 (2 * 2 ^ 16 + 1 * 2 ^ 24 + 2 ^ 31))] }
    let s (o : List Word) : State := machine runner {} { parts := [(0, q o)] } me [(2, { mode := .trapped, regLim := 8 })]
    ((s [2, 9]).pkgAt 0).part 0 = q [2, 9] ∧ (q [2, 9]).cmd = some (c [2, 9]) ∧ (s [2, 9]).ctlBusy ⟨0, 0, 2⟩ = false ∧
    (q [2, 9]).hasCell 0 = true ∧ (q [2, 9]).hostSup = true ∧ (q [2, 9]).hasCell 2 = false ∧ ((s [2, 9]).slotAt ⟨0, 0, 2⟩).mode = .trapped := by decide
theorem witness_EvictionEvents :
    let t : Slot := { runner with evict := .spilling (.slot ⟨0, 0, 2⟩ 0) .run }
    let s := machine t {} { parts := [(0, part0)] } me [(2, { runner with ops := [op0 .value] })]
    (here s).evict = .spilling (.slot ⟨0, 0, 2⟩ 0) .run ∧ (here s).mode = .run ∧ spillReady s me = true ∧ s.hasPkg 0 = true := by decide
theorem witness_EvictionEvents_restore :
    let t : Slot := { mode := .spilled, evict := .restoring (.slot ⟨0, 0, 2⟩ 0), savedLim := 32 }
    let s := machine t {} {} me [(2, { runner with regLim := 8, ops := [op0 .value] })]
    let full := machine { t with savedLim := 128 } {} {} me
      ((List.range 15).map fun i => (if i = 0 then 0 else i + 1, { runner with regBase := BitVec.ofNat 11 (136 * i), regLim := 128 }))
    (here s).evict = .restoring (.slot ⟨0, 0, 2⟩ 0) ∧ (pack s).hubWrites = [] ∧ (pack s).fitWindow 0 32 = some 8 ∧
    (pack full).fitWindow 0 128 = none := by decide
theorem witness_EvictionEvents_records :
    let w : Waiting := { ring := .host, cell := 0, slot := some 1, ctx := none, record := { kind := 1 } }
    let s (n : Word) : State := machine runner {} { waiting := [w], hostFpidx := n }
    (pack (s 31)).waiting.filter (·.ring == .host) = [w] ∧ ((pack (s 31)).hostFpidx - (pack (s 31)).hostFcidx).toNat < 32 ∧
    32 ≤ ((pack (s 32)).hostFpidx - (pack (s 32)).hostFcidx).toNat := by decide

/-- A save area that is mapped can be written, and one that is not cannot. -/
theorem witness_EvictionEvents_area :
    let s (base : Word) : State := (placed 0).mapPkg 0 fun k =>
      { k with parts := [(0, { part0 with words := [(0, BitVec.ofNat 64 (2 * 2 ^ 16 + 1 * 2 ^ 24)), (2, base)] })] }
    (areaWrites ⟨0, 0, 0⟩ (s 0x2000000000001000) [(0, List.replicate 32 1, false)]).2 = none ∧
    (areaWrites ⟨0, 0, 0⟩ (s 0x2000000001000000) [(0, List.replicate 32 1, false)]).2.isSome = true := by decide +kernel

/-- A slot that is being restored from a save area of zeros, and a ring with room and one without. -/
theorem witness_EvictionEvents_saved :
    let s : State := (placed 0 fun t => { t with mode := .spilled, savedLim := 8, regLim := 0, evict := .restoring (.slot ⟨0, 0, 2⟩ 0) }).mapPkg 0 fun k =>
      { k with parts := [(0, { part0 with words := [(0, BitVec.ofNat 64 (2 * 2 ^ 16 + 1 * 2 ^ 24)), (2, 0x2000000000001000)] })] }
    ((s.pkgAt 0).fitWindow 0 8).isSome = true ∧ (readSaved s ⟨0, 0, 0⟩).2.toOption.isSome = true ∧ (s.slotAt ⟨0, 0, 0⟩).evict = .restoring (.slot ⟨0, 0, 2⟩ 0) := by decide +kernel

/-! ### Engines, the hub, partitions, protection -/

/-- Stream 5 of slot 1 at an address, with the element at the head of an output queue, and the units of an element under way. -/
def streamAt (o : Bool) (a : Word) (q : List StreamElt := []) (us : List StreamFlight := []) (f : Slot → Slot := id) : State :=
  streaming { mine with mode := .running, vreg := some 3, base := a, output := o, queue := q, flight := us } fun t => f { t with binds := [(3, 5)] }
/-- An element of which the first and the last lane are to be written. -/
def elt0 : StreamElt := { lanes := List.replicate 32 1, mask := 0x80000001, id := 1 }

/-- Two elements under way: of the first one unit has been read. -/
def flights : List StreamFlight :=
  [{ units := [{ unit0 4 with done := true }, unit0 4 4 1] }, { units := [unit0 4, unit0 4 4 1] }]

theorem witness_StreamEvents : let q (s : State) : Stream := streamOf s 5
    let first := streamAt false 0x1FFF80
    let two := streamAt false 0x100 [] flights
    let out := streamAt true 0x1000 [elt0]
    let sent := streamAt true 0x100 [elt0] [{ units := [unit0 4] }]
    beginsRead first 0 0 5 (q first) = true ∧ (q first).flight = [] ∧ (∀ l < 32, 0x1FFF80 + 4 * l < 0x200000 ∧ (0x1FFF80 + 4 * l) % 4 = 0) ∧
    beginsRead two 0 0 5 (q two) = true ∧ readReady two 0 0 5 (q two) = true ∧ (q two).gen + (q two).flight.length ≤ 4 ∧
    beginsWrite out 0 0 5 (q out) = true ∧ (home out).waiters = [] ∧ writeReady out 0 0 5 (q out) = true ∧
    writeReady sent 0 0 5 (q sent) = true ∧ (here out).wait = none ∧ (List.range 32).filter elt0.mask.getLsbD = [0, 31] ∧
    (q (streaming { mine with mode := .running, gen := 4 })).flight = [] := by decide
/-- The last element of a stream is under way, and finds its first sector poisoned. -/
theorem witness_StreamEvents_poison :
    let s := streaming { mine with mode := .running, vreg := some 3, base := 0x100, gen := 3, flight := [{ units := [unit0 4, unit0 4 4 1] }] } fun t =>
      { t with binds := [(3, 5)] }
    beginsRead s 0 0 5 (streamOf s 5) = false ∧ (here s).wait = none ∧ (streamOf s 5).flight.length = 1 ∧ ¬ clean [0x20] 0x100 4 :=
  ⟨by decide, by decide, by decide, fun h => absurd (h 0x20 (by decide)) (by decide)⟩
/-- An acquire of before the element was appended is outstanding, and a store to its sector; neither is to one of after it. -/
theorem witness_StreamEvents_held : let e : Elt := { lane := 0, addr := 0x1000, n := 4, loc := { store := .spad, pkg := 0, cell := 0, off := 0x1000 } }
    let o := { op0 .store .local with units := [{ path := .local, elts := [e] }] }
    o.touches .local e = true ∧ o.id < elt0.id ∧ o.orphan = false ∧ ({ o with acq := true } : Op).acq = true ∧ ¬ 1 < elt0.id := by decide
theorem witness_StreamEvents_fault :
    (checkElts (streamAt false 0x1FFF84) me 0 .strRead ((List.range 32).map fun l => (l, 0x1FFF84 + BitVec.ofNat 64 (4 * l), 4, 0, 0))).2.toOption = none ∧
    NumSet.has [0x20] 0x20 = true ∧ ¬ clean [0x20] 0x100 4 :=
  ⟨by decide, by decide, fun h => absurd (h 0x20 (by decide)) (by decide)⟩
/-- Node 0 of graph 3 with two records that may be launched, placed in partition 0. -/
def readyNode : Node := { node0 with alloc := 2, req := .quiet, recs := [{ seq := 0, mode := .committed, since := some 0 }, { seq := 1, mode := .committed, since := some 0 }] }
/-- That graph in a partition with a placement, and other slots. -/
def placing (p : Option Placement) (d : Node := readyNode) (rest : Table Slot := []) : State :=
  machine runner {} { graphs := [(3, { graph3 d with h := 1, w := 2 })], parts := [(0, { part0 with place := p })] } me rest
/-- A placement of the node's group. -/
def placement (l : List (GRef × BitVec 11 × BitVec 8)) : Placement := { graph := 3, node := 0, placed := l, chans := [], nextAt := 0 }

theorem witness_ShawmEvents : (pack (placing none)).nodeAt 3 0 = some readyNode ∧ readyNode.req = .quiet ∧ readyNode.launchable.length = 2 ∧
    readyNode.thresh ≤ 2 ∧ readyNode.age 4 < readyNode.timer ∧
    ((pack (placing (some (placement [])))).part 0).place = some (placement []) ∧ (placement []).nextAt ≤ (pack (placing none)).cycle ∧
    ([] : List GRef).length < readyNode.total ∧ (pack (placing none)).takeChans ((pack (placing none)).graphAt 3) readyNode.channels = some [] := by decide
theorem witness_ShawmEvents_spots :
    let full := placing (some (placement [])) readyNode ((List.range 14).map fun i => (i + 2, runner))
    (pack (placing (some (placement [])))).nextSpot { part0 with place := some (placement []) } readyNode (placement []) = some (0, 2, 32) ∧
    (full.pkgAt 0).nextSpot { part0 with words := [(0, BitVec.ofNat 64 (1 * 2 ^ 16 + 1 * 2 ^ 24))] } readyNode (placement []) = none ∧
    readyNode.total ≤ (placement [(⟨0, 0, 2⟩, 32, 32)]).placed.length := by decide
theorem witness_ShawmEvents_groups :
    let m : Member := { graph := 3, node := 0, seq := 0, launch := 1, index := 0, twin := false, partner := none, recs := [0], opNum := 0 }
    let s := placing none readyNode [(2, { mode := .exited, member := some m })]
    let gr : Group := { launch := 1, node := 0, slots := [⟨0, 0, 2⟩], chans := [] }
    (s.slotAt ⟨0, 0, 2⟩).mode = .exited ∧ (s.slotAt ⟨0, 0, 2⟩).member ≠ none ∧ (s.slotAt ⟨0, 0, 2⟩).evict = .none ∧ s.compares ⟨0, 0, 2⟩ = false ∧
    [gr].find? (·.launch == 1) = some gr ∧ ((placing none).slotAt ⟨0, 0, 2⟩).inGroup 3 1 = false ∧ ((placing none).slotAt ⟨0, 0, 2⟩).ops = [] := by decide
theorem witness_ShawmEvents_retry :
    let k (b : List Busy) : Pkg := { graphs := [(3, { graph3 { readyNode with req := .ready } with h := 1, w := 2 })], parts := [(0, { part0 with stuck := some (3, 0), seen := b })] }
    let s (b : List Busy) : State := machine runner {} (k b)
    let part (b : List Busy) : Part := (pack (s b)).part 0
    (part []).stuck = some (3, 0) ∧ (part []).mode = .active ∧ (part []).place = none ∧ ((pack (s [])).firstRequest 0).map (·.2) = some (3, 0) ∧
    .slot ⟨0, 0, 2⟩ ∈ (part [.slot ⟨0, 0, 2⟩]).seen ∧ .slot ⟨0, 0, 2⟩ ∉ (pack (s [])).busy 0 (part []) 3 ∧ .slot me ∈ (pack (s [])).busy 0 (part []) 3 ∧
    (machine runner {} { graphs := [(3, { mode := .tearing })] }).tornDown 0 3 = true := by decide
theorem witness_ShawmEvents_loads :
    let e : Graph := { mode := .loading, nodeBase := 0x2000000000001000, w := 2, h := 1 }
    let s := machine runner {} { graphs := [(3, e)], parts := [(0, part0)] }
    ((pack s).graphAt 3).mode = .loading ∧ e.nodeBase.toNat / 2 ^ 57 = 16 ∧ e.nodeBase.toNat % 64 = 0 ∧ e.w.toNat = part0.field 0 16 7 ∧
    e.h.toNat = part0.field 0 24 7 ∧ (loadNodes 0 e part0 [0] s).2 matches .error (2, 0) := by decide
theorem witness_ShawmEvents_rings :
    let s (n : Word) : State := machine runner {} { graphs := [(3, graph3 node0)], rings := [(3, { base := 0x2000000000001000, log := 1, prod := n })] }
    (pack (s 2)).ringDue 3 = true ∧ (pack (s 3)).ringDue 3 = true ∧ 2 ^ 1 < (3 : Word).toNat - 0 ∧ (2 : Word).toNat - 0 ≤ 2 ^ 1 := by decide

/-- Partition 0 with a command that its unit has read. -/
def commanded (op : Byte) (arg : Byte := 3) (o : List Word := [0, 0, 0]) (m : PartMode := .active) (g : Graph := {}) : State :=
  machine { runner with mode := .idle } {} { parts := [(0, { part0 with mode := m, cmd := some { op := op, arg := arg, opnds := o, malformed := false } })], graphs := [(3, g)] }

theorem witness_MailboxCommands : ((pack (commanded 2)).part 0).cmd = some { op := 2, arg := 3, opnds := [0, 0, 0], malformed := false } ∧
    ((pack (commanded 2)).graphAt 3).mode = .free ∧ 4096 < (BitVec.ofNat 64 (4095 * 2 ^ 36 + 2 * 2 ^ 24)).toNat / 2 ^ 24 % 2 ^ 12 + 4095 ∧
    ((pack (commanded 3 3 [] .active (graph3 node0))).graphAt 3).mode = .resident ∧ (graph3 node0).loadPart = 0 ∧
    badInval 0 0 0 = false ∧ badInval 2 0 0 = true ∧ badInval 3 0 0 = false ∧ ((pack (commanded 5)).part 0).mode = .active ∧
    ((pack (commanded 6 0 [] .fenced)).part 0).mode = .fenced ∧ (pack (commanded 8)).colourTaken 0 3 = false := by decide
theorem witness_MailboxCommands_still : ∀ e ∈ (commanded 8).partSlots 0 ((pack (commanded 8)).part 0), e.2.evict = .none ∧
    (e.2.mode = .idle ∨ e.2.mode = .exited ∨ e.2.mode = .trapped ∨ e.2.mode = .spilled) := by decide
/-- The unit reads its pointers from a mapped mailbox, and so does the posting of a record. -/
theorem witness_MailboxCommands_poll :
    let s := (placed 0).mapPkg 0 fun k => { k with parts := [(0, { part0 with words := Table.put part0.words 3 0x2000000000002000 })] }
    ((pack s).part 0).cmd = none ∧ (pack s).hubWrites = [] ∧ ((pack s).part 0).mode ≠ .free ∧
    (hubReads 0 0 2 s (((pack s).part 0).mailbox + 0x10)).2 matches .ok [0, 0] := by decide +kernel
theorem witness_PartitionEvents :
    let inv : Cmd := { op := 4, arg := 0, opnds := [0, 0, 0], malformed := false, begun := true }
    let s (m : PartMode) (t : Nat) (c : Option Cmd) : State :=
      machine { mode := .idle } {} { time := t, parts := [(0, { part0 with mode := m, newColour := 4, cmd := c })] }
    ((pack (s .active 0 (some inv))).part 0).cmd = some inv ∧ (∀ e ∈ (pack (s .active 0 (some inv))).allSlots 0, e.2.ops = []) ∧
    resetBusy (s .resetting 0 none) 0 0 = false ∧ colourDrained (s .switching 0 none) 0 part0 0 = true ∧
    (let b := inFlight (op0 (.load false) .edge (.scalar 5)) id {} { time := 100000, parts := [(0, { part0 with mode := .switching })] }
     colourDrained b 0 part0 0 = false ∧ ((pack b).part 0).switchAt + 100000 ≤ (pack b).time) ∧
    (pack (s .active 0 none)).bringUp = .ready ∧ (∀ e ∈ (s .active 0 none).partSlots 0 part0, e.2.mode = .idle) := by decide
theorem witness_PartitionEvents_open :
    let q : Part := { words := [(0, BitVec.ofNat 64 (2 * 2 ^ 16 + 1 * 2 ^ 24 + 2 ^ 31)), (2, 0x2000000000000000), (3, 0x2000000000000000), (4, 4)] }
    (pack (machine runner {} { parts := [(0, q)] })).openRefused 0 0 = false ∧
    (pack (machine runner {} { parts := [(0, { q with words := [(0, BitVec.ofNat 64 (2 * 2 ^ 16 + 64 * 2 ^ 8 + 1 * 2 ^ 24 + 63))] })] })).openRefused 0 0 = true := by decide

/-- The words of member `n` of a P group of two, packages 1 and 2, with four frames at 0x100000 and spare 3. -/
def groupWords (n : Nat) : Table Word :=
  [(0, BitVec.ofNat 64 (n * 2 ^ 44 + 1 * 2 ^ 36 + 4)), (1, 0x100000), (2, 0x20001), (6, BitVec.ofNat 64 (3 * 2 ^ 24))]
/-- The word of an UP port whose link partner is package `p`. -/
def upTo (p : Nat) : Word := BitVec.ofNat 64 (2 + p * 2 ^ 24)
/-- That group; port 0 of each leads to the other, port 1 to package 3. -/
def pair (m : ProtMode) (f : Pkg → Pkg := id) : State :=
  let k (i other : Nat) : Pkg := { id := BitVec.ofNat 12 (i + 1), fused := true, bringUp := .ready, prot := { mode := m, words := groupWords i }
                                   ports := [(0, upTo other), (1, upTo 3)], routes := [(other, 1), (3, 2)] }
  { State.reset with pkgs := [(1, f (k 0 2)), (2, k 1 1)] }

theorem witness_ProtectionCommands : (pair .off).protMalformed 1 = false ∧ ((pair .off).mapPkg 1 fun k => { k with prot := { k.prot with words := [] } }).protMalformed 1 = true ∧
    ((pair .off).pkgAt 1).bringUp = .ready ∧ ((pair .off fun k => { k with bringUp := .link }).pkgAt 1).bringUp ≠ .ready ∧
    ((pair .normal).pkgAt 1).prot.mode = .normal ∧ 1 < ((pair .normal).pkgAt 1).prot.members ∧ ((pair .normal).pkgAt 1).prot.isLost 1 = false ∧
    ((pair .normal).pkgAt 1).prot.members ≤ 2 ∧ (pair .normal).hasPkg (((pair .normal).pkgAt 1).prot.member 1) = true ∧
    ((List.range 2).map ((pair .normal).pkgAt 1).prot.member).Nodup ∧ (∀ e ∈ (pair .normal).pkgs, e.2.hubWrites = [] ∧ e.2.forwards = [] ∧ e.2.deltas = []) := by decide
/-- Member 1 is lost; package 3 is a suitable spare for it, and rebuilds with member 0. -/
def rebuilding (m : ProtMode) (f : Pkg → Pkg := id) : State :=
  let s := pair m fun k => f { k with prot := { k.prot with lost := 2, spares := [(1, 3)] } }
  { s with pkgs := s.pkgs ++ [(3, { id := 3, fused := true, bringUp := .ready, ports := [(0, upTo 1), (1, upTo 2)], routes := [(1, 1), (2, 2)], prot := { words := groupWords 1 } })] }

theorem witness_ProtectionCommands_rebuild :
    let s := rebuilding .degraded
    let g := (s.pkgAt 1).prot
    g.lostMembers.zipIdx.map (fun e => (e.1, g.spare e.2)) = [(1, 3)] ∧ s.suitable 1 g 1 3 = true ∧
    (pair .degraded fun k => { k with prot := { k.prot with lost := 2 } }).suitable 1 g 1 3 = false := by decide
/-- The stripe of a lost data member and that of a lost P holder; a survivor's data sector that cannot be read. -/
theorem witness_ProtectionCommands_stripes :
    let s := rebuilding .rebuilding
    let g := (s.pkgAt 1).prot
    (∀ n < 4, g.survivors[n % g.survivors.length]? = some 1) ∧ g.survivors.Nodup ∧ 3 < g.frames ∧ NumSet.has g.rebuilt 3 = false ∧
    g.spares.map (·.1) = g.lostMembers ∧ (((List.range g.members).map g.member) ++ g.spares.map (·.2)).Nodup ∧ g.losses ≤ 1 ∧
    (∀ p ∈ [(1 : PkgId), 3], s.hasPkg p = true ∧ (s.pkgAt p).prot.base = g.base ∧ (s.pkgAt p).prot.frames = g.frames) ∧
    (List.range 4).filter (fun n => (g.dataOf n).filter g.isLost ≠ []) ≠ [] ∧ (List.range 4).filter (fun n => g.isLost (g.holderP n)) ≠ [] ∧
    (g.dataOf 0 ++ g.dataOf 1 ++ g.dataOf 2 ++ g.dataOf 3).contains 0 = true ∧ (s.pkgAt 1).protPoisoned 0 0 = false ∧
    ((rebuilding .rebuilding fun k => { k with hbmPoison := [0x100000 / 32] }).pkgAt 1).protPoisoned 0 0 = true := by decide +kernel
/-- A delta of package 1, whose frame 1 has its P holder in package 2. -/
def delta1 (st : DeltaStage) : Delta :=
  { id := 0, frame := 1, sector := 127, phase := true, bytes := List.replicate 32 5, stage := st, issuer := .slot me 0, addr := 0, since := 0 }

theorem witness_RedundancyEvents :
    let s (st : DeltaStage) : State := pair .normal fun k => { k with deltas := [delta1 st], time := 1000000 }
    let g := ((s .toP).pkgAt 1).prot
    ((s .toP).pkgAt 1).deltaAt 0 = some (delta1 .toP) ∧ (s .toP).holderUp g 1 (g.holderP 1) = true ∧ 1 < ((s .toP).pkgAt 2).prot.frames ∧
    (delta1 .toP).bytes.length = 32 ∧ ((s .toP).pkgAt (g.member (g.holderP 1))).protPoisoned 1 127 = false ∧
    (delta1 .toP).since + 1000000 ≤ ((s .toP).pkgAt 1).time ∧ g.member (g.acknowledger (delta1 .toP)) = 2 ∧
    NumSet.has g.silent 2 = false ∧ ((s .ack).pkgAt 1).deltaAt 0 = some (delta1 .ack) ∧ (s .ack).answers (g.member (g.acknowledger (delta1 .ack))) 1 = true ∧
    (delta1 .parityAck).orphan = false ∧ (s .parityAck).toIssuer 1 (delta1 .parityAck).issuer = true := by decide
/-- Packages 1 to 3, a PQ group of three, of which the P holder of frame `n` forwards a delta of another member. -/
def triple (x : Delta) (fs : List Forward) : State :=
  let words (n : Nat) : Table Word := [(0, BitVec.ofNat 64 (n * 2 ^ 44 + 3 * 2 ^ 32 + 2 * 2 ^ 36 + 4)), (1, 0x100000), (2, 0x300020001)]
  let k (i a b : Nat) : Pkg := { id := BitVec.ofNat 12 (i + 1), fused := true, bringUp := .ready, prot := { mode := .normal, words := words i }
                                 ports := [(0, upTo a), (1, upTo b)], routes := [(a, 1), (b, 2)] }
  { State.reset with pkgs := [(1, { k 0 2 3 with deltas := [x] }), (2, { k 1 1 3 with forwards := fs }), (3, k 2 1 2)] }

theorem witness_RedundancyEvents_pq : let s := triple (delta1 .toP) []
    let g := (s.pkgAt 1).prot
    g.isPq = true ∧ g.members = 3 ∧ (∃ n < 4, ∃ q, g.holderQ n = some q ∧ q ≠ g.me ∧ g.holderP n ≠ g.me ∧ g.isLost q = false ∧
      s.holderUp g 1 q = true ∧ s.holderUp g 1 (g.holderP n) = true) ∧ (s.pkgAt 1).forwardAt 0 = none := by decide +kernel
theorem witness_RedundancyEvents_forward :
    let f : Forward := { id := 0, member := 1, delta := 0, index := 0, frame := 1, sector := 127, phase := true, bytes := List.replicate 32 5, since := 0 }
    let s := triple (delta1 .forwarded) [f]
    let g := (s.pkgAt 2).prot
    (s.pkgAt 2).forwardAt 0 = some f ∧ ((s.pkgAt 1).deltaAt 0).isSome = true ∧ (∃ q, g.holderQ 1 = some q ∧ s.holderUp g 2 q = true) := by decide +kernel
/-- A poisoned data sector of package 1 and a poisoned P sector, which can be reconstructed; and one whose helper is out of reach. -/
theorem witness_RedundancyEvents_sectors :
    let s (n : Nat) : State := pair .normal fun k => { k with hbmPoison := [(0x100000 + 4096 * n) / 32] }
    let far (n : Nat) : State := pair .normal fun k => { k with hbmPoison := [(0x100000 + 4096 * n) / 32], ports := [] }
    let g := ((s 1).pkgAt 1).prot
    (s 1).reconstructs 1 ((0x100000 + 4096) / 32) = true ∧ g.member g.me = 1 ∧ g.me < g.members ∧ g.isLost g.me = false ∧ g.role 1 g.me = .data ∧
    unreadable (s 1) 1 g 1 0 = [g.me] ∧ ((s 1).protRead 1 g (g.holderP 1) 1 0).isSome = true ∧
    (s 0).reconstructs 1 (0x100000 / 32) = true ∧ g.role 0 g.me ≠ .data ∧
    (far 1).canReconstruct 1 ((0x100000 + 4096) / 32) = true ∧ (far 1).reconstructs 1 ((0x100000 + 4096) / 32) = false ∧
    (far 1).coordinator 1 ((0x100000 + 4096) / 32) = 2 ∧
    32 * 1 < ((s 1).pkgAt 1).capacity false ∧ 32 * 1 < ((s 1).pkgAt 1).capacity true := by decide +kernel
/-- A primary in slot 1 and its twin in slot 2, with operation 17 of each. -/
def twins (h : BitVec 32) (c : Nat := 0) : State :=
  let m (t : Bool) (w : GRef) : Member := { graph := 3, node := 0, seq := 0, launch := 1, index := 0, twin := t, partner := some w, recs := [0], opNum := 18 }
  machine { runner with member := some (m false ⟨0, 0, 2⟩), nextOp := 1, lastOp := some 0, ops := [{ op0 (.load false) .remote (.scalar 5) with held := true, num := some (17, 5) }] }
    {} { cycle := c } me
    [(2, { runner with member := some (m true me), nextOp := 1, lastOp := some 0, ops := [{ op0 (.load false) .remote (.scalar 5) with shadow := true, num := some (17, h) }] })]

theorem witness_RedundancyEvents_twins : let b : GRef := ⟨0, 0, 2⟩
    ((twins 5).opOf b 0).map (·.num) = some (some (17, 5)) ∧ ((twins 6).slotAt b).member.map (·.twin) = some true ∧ ((twins 6).heldOp me 17).isSome = true ∧
    ((twins 6).slotAt b).lateFault = false ∧ ((twins 6).slotAt b).dying = false ∧ ((twins 6).slotAt b).lastOp = some 0 ∧ b ≠ me ∧
    ((here (twins 5 4096)).ops.find? fun x => x.held && decide (x.since + 4096 ≤ (twins 5 4096).cycleAt 0)).isSome = true := by decide

/-! ### Host, fabric, words, steps -/

/-- Package 0, ready, with a process that maps 64 KiB. -/
def hosted (f : Pkg → Pkg := id) : State := (placed 0).mapPkg 0 f

theorem witness_HostAccesses : Table.find (hosted).pkgs 0 = some (hosted.pkgAt 0) ∧ (hosted.pkgAt 0).bringUp = .ready ∧ (hosted.pkgAt 0).hubWrites = [] ∧
    [(1 : Byte), 2, 3, 4].length ∈ [1, 2, 4, 8] ∧ (0x3FFFFFFFFC : Word).toNat + 4 ≤ 2 ^ 38 ∧
    ((hostTranslate hosted 0 0x2000000000001000 .strWrite).2 matches .ok _) = true ∧
    ((hostTranslate hosted 0 0x2000000000010000 .strWrite).2 matches .error _) = true ∧ (hosted.pkgAt 0).openParts = [] ∧
    (hosted.pkgAt 0).id = 0 ∧ (hosted.pkgAt 0).domain = 0 ∧ hosted.hasPkg (BitVec.ofNat 12 ((5 : Word).toNat)) = false ∧
    (hosted fun k => { k with reporting := true }).hasPkg 0 = true := by decide +kernel
/-- A write that is taken, one that a partition's boundary refuses, and one for which no port is up. -/
theorem witness_HostAccesses_places :
    let l (p : PkgId) : Loc := { store := .hbm, pkg := p, off := 64 }
    (pair .normal).hubRefusal 1 0 0x2000000000000040 (l 1) .strWrite = none ∧ (pair .normal).linked 1 2 = true ∧
    (pair .normal).hubRefusal 1 0 0x2000000000000040 (l 5) .strWrite ≠ none ∧ (pair .normal).linked 1 5 = false ∧
    (pair .normal fun k => { k with ports := [] }).hubRefusal 1 0 0x2000000000000040 (l 2) .strWrite = none ∧
    (pair .normal fun k => { k with ports := [] }).linked 1 2 = false ∧ (pair .normal).hubRefuses (l 1) = false ∧
    (pair .normal).peek (l 1) 8 ≠ none ∧ (pair .normal fun k => { k with hbmPoison := [2] }).peek (l 1) 8 = none := by decide +kernel
theorem witness_HostAccesses_states : (State.reset.pkgAt 0).bringUp ≠ .ready ∧ ((pair .off).pkgAt 1).id ≠ 0 ∧
    ((hosted fun k => { k with parts := [(0, part0)] }).pkgAt 0).openParts ≠ [] ∧ (((pair .normal).pkgAt 1).prot.mode ≠ .off) := by decide
theorem witness_FabricEvents :
    let s (f : Pkg → Pkg) : State := hosted f
    let p (v : Word) : State := s fun k => { k with ports := [(31, v)] }
    (Table.get 0 ((p 1).pkgAt 0).ports 31).toNat % 4 = 1 ∧ (Table.get 0 ((p 2).pkgAt 0).ports 31).toNat % 4 = 2 ∧
    ((s fun k => { k with time := 2000000, noPort := [(5, 0)] }).pkgAt 0).routeDead 5 = true ∧
    ((s fun k => { k with time := 1000000 }).pkgAt 0).syncAt ≤ 1000000 ∧ ((s id).pkgAt 0).refLost = false ∧
    ((s fun k => { k with refLost := true }).pkgAt 0).refLost = true ∧ ((s fun k => { k with stretchTill := some 0 }).pkgAt 0).stretchTill = some 0 ∧
    ((s id).pkgAt 0).deltas = [] ∧ (∀ e ∈ ((s id).pkgAt 0).cells, e.2.waiters = []) := by decide
/-- A port that has trained and replays, for the fifteenth time; and a member whose master is present. -/
theorem witness_FabricEvents_links : let s := pair .normal
    (s.pkgAt 1).portUp 0 = true ∧ (s.pkgAt 1).portUp 2 = false ∧ 15 ≤ Table.get 0 [(0, 15)] 0 ∧ (s.pkgAt 1).follows = true ∧
    (s.pkgAt 1).timectl.getLsbD 0 = false ∧
    ((s.mapPkg 2 fun k => { k with timectl := 1 }).masterOf (s.pkgAt 1)).isSome = true := by decide
theorem witness_FabricEvents_stages : (State.reset.pkgAt 0).bringUp = .reset ∧ Table.find State.reset.pkgs 0 = some (State.reset.pkgAt 0) ∧
    ((hosted fun k => { k with bringUp := .init }).pkgAt 0).bringUp = .init ∧ (1 : Byte) ∈ ([1, 2, 3] : List Byte) ∧ (0x14 : Byte).toNat ≤ 0x14 := by decide +kernel
theorem witness_WordsHaveOneMeaning : encode (.ld 4 7 .sv .acq .d) ≠ [] ∧ (Instr.ld 4 7 .sv .acq .d).wf = true ∧
    decode [0xC8180009#32, 5] = .ok (.getsr 3 .cycle, [5]) := by decide
theorem witness_DecodedWords : (0xFC000000 : BitVec 32).toNat / 2 ^ 26 = 0x3F ∧ unlistedMinor 0x20000004 = true ∧ unlistedMinor 0x6800001F = true ∧
    unlistedMinor 0xA00000D8 = true := by decide
/-- ADDI at the place of the next step, with nothing due and no event. -/
theorem witness_StepRunsDecoded :
    let w := 0x08180002
    let s := placed w
    s.pkgs ≠ [] ∧ s.hasPkg s.cur.pkg = true ∧ (here s).take = none ∧ settled s = none ∧ portsReady s = [] ∧ dueNow s = none ∧ nextInput s = [] ∧ readyEvents s = [] ∧ canIssue s s.cur = true ∧
    (here s).clause = some { hdr := headerOf 0xF8000061, words := [0x08180002] } ∧ (here s).waitqDone = true ∧ (here s).pendingPub = none ∧
    misplaced (headerOf 0xF8000061) 1 0x08180002 = false ∧ decode [0x08180002#32] = .ok (.addi 3 0 2, []) := by decide +kernel
theorem witness_StepRunsDecoded_other :
    let s := machine { runner with hold := some { why := .idle, till := 0 } }
    dueNow s ≠ none ∧ readyEvents (inFlight { op0 .value with performed := true }) ≠ [] ∧ canIssue (machine { runner with mode := .parked }) me = false ∧
    (headerOf 0xF8000F61).waits = true ∧ canIssue (machine { runner with mode := .subscribed, subscribed := some 7, pendingPub := some published }) me = true ∧
    wordFault (headerOf 0xF8000067) 1 [0xF8000064#32] = some .clause := by decide +kernel
/-- What the machine has to do before anything else: a port whose access is over, an operation at its target, a kill that may end, a
slot that stops, a hub write; and a port that may perform a unit. -/
theorem witness_StepRunsDecoded_moves : let g : GRef := ⟨0, 0, 2⟩
    portDue (machine runner { port := [{ slot := 1, op := 0, left := [0], start := 0, till := 0 }] }) = some (0, 0) ∧
    portsReady (atPort .store [unit0 4]) = [(0, 0)] ∧ portDue (atPort .store [unit0 4]) = none ∧
    ctlDue (machine runner {} { cycle := 1 } me [(2, { mode := .run, ctl := some (.kill, .slot me 0, 0) })]) = some g ∧
    killDue (machine runner {} {} me [(2, { mode := .run, dying := true })]) = some g ∧
    (settled (machine runner)).isNone = true := by decide
/-- A step of the placed machine runs the ADDI that stands in memory. -/
theorem test_step : (match step ((State.reset).withFetchWord 32 0x08180002) with
    | .next t => (t.slotAt ⟨0, 0, 0⟩).sreg 3 | _ => 0) = 2 := by decide +kernel
theorem witness_TurnsRotate : (machine runner).places = [(0, 0)] ∧ laterPlace (0, 0) (0, 0) = false ∧
    laterPlace (0, 0) (0, 1) = true ∧ laterPlace (0, 4095) (1, 0) = true ∧ (machine runner).hasPkg 0 = true := by decide
theorem witness_StepKeepsMemoryForm : (placed 0).memoryWf = true ∧ (machine runner { spad := [(0x100, 0)] }).memoryWf = false := by decide +kernel
theorem witness_StepKeepsNumbers : allNumbered loading := by
  intro e he c hc t ht o ho
  simp [loading, loader, machine] at he
  subst he
  simp at hc
  subst hc
  simp at ht
  subst ht
  simp [runner] at ho
  subst ho
  decide
theorem witness_RegisterWrites : (withS 1 2).hasPkg me.pkg = true := by decide
theorem witness_OperandChecks : let s := machine { runner with sFe := [(1, .pending), (2, .taken)], sTrap := [2], sPoison := [3] }
    (here s).fe (.s 1) ≠ .full ∧ (here s).trapMode (.s 2) = true ∧ (here s).trapMode (.s 1) = false ∧ (here s).sPoison.has (3 : SReg).toNat = true ∧
    (here s).fe (.s 3) = .full ∧ (here s).regLim.toNat ≤ (32 : VRegNo).toNat ∧ (31 : VRegNo).toNat < (here s).regLim.toNat ∧
    (here (machine { runner with take := some (true, false) })).take = some (true, false) := by decide
/-- Under a prefix that names both sources, in every form, with a producer or without. -/
theorem witness_OperandChecks_prefixes : let s := (loader 0x100 fun t => { t with take := some (true, true) })
    (here s).take.isSome = true ∧ ready (unprefixed s) (Opnds.sss 31 1 2) = true ∧ ready (unprefixed s) (Opnds.ss 0 1) = true ∧
    ready (unprefixed s) (Opnds.vvv 31 1 1) = true ∧ ready (unprefixed s) (Opnds.vvs 31 1 2) = true ∧ ready (unprefixed s) (Opnds.vv 31 31) = true ∧
    ready (unprefixed s) (loadOpnds 5 2) = true ∧ ready (unprefixed s) (storeOpnds 1 2) = true ∧ ready (unprefixed s) (atomOpnds 1 2) = true ∧
    ready (unprefixed s) (addrOpnds 2) = true ∧ ((after (.ld 5 2 .sl .rlx .w) (unprefixed s)).slotAt me).nextOp = (here s).nextOp + 1 := by decide
theorem witness_OperandChecks_poison : let s := machine runner { vPoison := [16 * 5 + 15] }
    16 * 5 + 15 ∈ (home s).vPoison ∧ (16 * 5 + 15) / 16 = (here s).phys 5 ∧ (here s).isActive (2 * 15 + 1) = true := by decide
theorem witness_StreamOperands :
    let s (q : Stream) : State := streaming q fun t => { t with binds := [(3, 5)] }
    let e : StreamElt := { lanes := List.replicate 32 1, mask := 0xFFFFFFFF }
    (∀ r ∈ [(31 : VRegNo), 3, 30], r.toNat < (here (s mine)).regLim.toNat) ∧ Table.find (here (s mine)).binds 3 = some 5 ∧
    (here (s mine)).streamless (.v 31) = true ∧ regPoison (s mine) me (Opnds.vvv 31 3 30) (.v 30) = none ∧ (here (s mine)).anyActive = true ∧
    (streamOf (s { mine with queue := [e] }) 5).queue = e :: [] ∧ (streamOf (s { mine with mode := .running }) 5).mode ≠ .error ∧
    ({ mine with output := true, mode := .running } : Stream).pos.toNat < ({ mine with output := true, mode := .running } : Stream).total ∧
    (here (machine { runner with nest := (List.range 32).map fun l => (l, 1) })).anyActive = false := by decide

/-- v3 is bound: as a source of the three shapes, and as a destination. -/
theorem witness_StreamOperands_forms :
    let e : StreamElt := { lanes := List.replicate 32 1, mask := 0xFFFFFFFF }
    let s (q : Stream) : State := streaming q fun t => { t with binds := [(3, 5)] }
    let u := s { mine with queue := [e] }
    let v := s { mine with output := true, mode := .running }
    Table.find (here u).binds (3 : VRegNo).toNat = some 5 ∧ (here u).anyActive = true ∧ ready (unbound u 3 e.lanes) (Opnds.vvv 31 3 30) = true ∧
    ready (unbound u 3 e.lanes) (Opnds.vvv 31 3 3) = true ∧ ready (unbound u 3 e.lanes) (Opnds.vvs 31 3 1) = true ∧ ready (unbound u 3 e.lanes) (Opnds.vv 31 3) = true ∧
    ready (unbound v 3 VReg.zero) (Opnds.vvv 3 31 30) = true ∧ RegRef.v 3 ∉ (Opnds.vvv 3 31 30).srcs ∧ (here v).fe (.v 3) ≠ .pending ∧
    (streamOf v 5).pos.toNat < (streamOf v 5).total ∧ (streamOf v 5).queue.length < 8 := by decide

/-! ### Further states: waiters, stops, refusals -/

/-- An infinity among the operands, and the zeros and infinities at which the roots are exact. -/
theorem witness_FloatRounding_ends : (2 ^ fp32.ew - 1) * 2 ^ fp32.fw = 0x7F800000 ∧ (2 ^ fp16.ew - 1) * 2 ^ fp16.fw = 0x7C00 ∧
    0x80000000 % 2 ^ 31 = 0 ∧ 0x80000000 < 0xBF800000 ∧ 0xBF800000 ≤ 0xFF800000 ∧ (0 : ℝ) + 0 = 0 ∧ valueOf fp32 0x80000000 = some 0 := by
  refine ⟨by decide, by decide, by decide, by decide, by decide, by norm_num, ?_⟩
  norm_num [valueOf, fp32]
theorem witness_PermutationResults_packs :
    ready (withV 1 2) { Opnds.vvs 3 1 2 with whole := [3], prior := [.v 3], reads := [(3, List.range 32)] } = true := by decide +kernel
/-- An LDFE of the word at 0x100 that waits in the cell. -/
def waiter (i : Nat := 1) : Op := { op0 (.fe .ldfe) .local (.scalar 6) with id := i, waiting := true, units := [unit0 4] }
/-- It waits for an empty word while a store stands at the port. -/
theorem witness_ScratchpadAccesses_waiters :
    let s := machine { runner with ops := [{ op0 .store .local with units := [unit0 4], posted := true }, waiter], nextOp := 2 }
      { waiters := [(me, 1)], spadEmpty := [0x40], port := [{ slot := 1, op := 0, left := [0], start := 0, till := 1 }] }
    ((here s).ops.map (·.id)).Nodup ∧ s.opOf me 1 = some waiter ∧ waiter.num = none ∧ waiter.act = .fe .ldfe ∧
    NumSet.has (home s).spadEmpty (0x100 / 4) = true ∧ (home s).waiters = [(me, 1)] := by
  refine ⟨by decide, by decide, rfl, rfl, by decide, rfl⟩
theorem witness_ScratchpadAccesses_open : feOpen .ldfe (eltsOf waiter) {} ∧ ¬ feOpen .ldfe (eltsOf waiter) { spadEmpty := [0x40] } ∧
    feOpen .stfe (eltsOf waiter) { spadEmpty := [0x40] } := by
  refine ⟨fun e he => ?_, fun h => ?_, fun e he => ?_⟩
  · cases List.mem_singleton.1 he
    exact (by decide : NumSet.has [] (0x100 / 4) = false)
  · exact absurd (h _ (List.mem_singleton_self _)) (by unfold isFull; decide)
  · cases List.mem_singleton.1 he
    exact (by unfold isFull; decide)
/-- A waiter whose word is full may proceed, and goes next. -/
theorem witness_ScratchpadAccesses_proceeds : Proceeds (inFlight (waiter 0) id { waiters := [(me, 0)] }) 0 0 [] (me, 0) (waiter 0) :=
  ⟨rfl, rfl, fun _ _ hv => (List.not_mem_nil hv).elim, Or.inr (Or.inr ⟨.ldfe, rfl, fun e he => by
    cases List.mem_singleton.1 he
    exact (by decide : NumSet.has [] (0x100 / 4) = false)⟩)⟩
/-- An element that meets poison. -/
theorem witness_ScratchpadAccesses_poison : meets { spadPoison := [0x20] } (eltsOf waiter)
    { kind := .ecc, sector := BitVec.ofNat 64 ((0x100 : Word).toNat / 32 * 32) } :=
  ⟨[], _, [], rfl, fun _ h => (List.not_mem_nil h).elim, fun h => absurd (h 0x20 (by decide)) (by decide), rfl⟩
theorem witness_BarrierResults_open : let w : Nat := 0x0000000500010002
    w / 2 ^ 60 % 2 = 0 ∧ w % 2 ^ 16 ≠ 0 ∧ w / 2 ^ 16 % 2 ^ 16 < w % 2 ^ 16 ∧ w / 2 ^ 16 % 2 ^ 16 + 1 = w % 2 ^ 16 := by decide
/-- Slots that wait in BARWAIT, BARLEAD and BARARW when the last arrival comes. -/
theorem witness_BarrierResults_waiters : let x (w : WaitFor) : Slot := { runner with mode := .parked, wait := some { what := w, since := 0 } }
    let s := machine { runner with sregs := [(1, 511)] } { barriers := [(511, 0x0000000500010002)] } {} me
      [(2, x (.barrier 511 none)), (3, x (.barrier 511 (some 4))), (4, { x (.phase 511) with phaseWait := some (511, false) })]
    (((home s).slotAt 2).wait.map (·.what)) = some (.barrier 511 none) ∧ (((home s).slotAt 3).wait.map (·.what)) = some (.barrier 511 (some 4)) ∧
    (((home s).slotAt 4).wait.map (·.what)) = some (.phase 511) ∧ ((home s).slotAt 5).wait = none := by decide
/-- FENCE.SV: an SV copy of the slot has a parity delta outstanding. -/
theorem witness_SynchronisationResults_copies : let l : Launch := { regs := [(9, 0x10)], id := 7, slot := 1, head := 0, pos := 1, pid := 0, colour := 0, origin := none
                                                                    opId := 0, mustAck := [], mustOut := [], template := { kind := 0 } }
    let q : CopyCtx := { mode := .busy, cur := some l, parityOut := 1 }
    let s := machine runner { ctxs := [(0, q)] }
    (0, q) ∈ (home s).ctxs ∧ q.parityOut ≠ 0 ∧ l.slot = s.cur.slot ∧ (Table.get 0 l.regs 9).getLsbD 4 = true ∧ ready s {} = true := by decide
/-- SBIND of a register that is bound already; SUNBIND and SDRAIN of an output stream in ERROR. -/
theorem witness_StreamInstructions_refused :
    let s (q : Stream) : State := streaming q fun t => { t with binds := [(3, 5)] }
    let bad : Stream := { mine with vreg := some 3, output := true, mode := .error, err := 0x0B, faddr := 0x1000 }
    ready (s mine) { srcs := [.s 1], named := [3], tb := some (.s 1) } = true ∧ (here (s mine)).fe (.v 3) ≠ .pending ∧
    (Table.find (here (s mine)).binds 3).isSome = true ∧ ready (s bad) { named := [3] } = true ∧ (streamOf (s bad) 5).output = true ∧
    (streamOf (s bad) 5).mode = .error := by decide
/-- Copies that stop: a source past the scratchpad, a destination past it, a poisoned byte, a signal that names no place. -/
theorem witness_CopyEvents_stops : let g (a b : Word) : Launch := { launch16 with regs := [(0, a), (1, b), (2, 16), (5, 1), (6, 0x200000), (9, 1)] }
    let b := nextUnit 0x1FFFF8 0x100 16 8 false
    (g 0x1FFFF8 0x100).src.toNat < 0x200000 ∧ 0x200000 ≤ 0x1FFFF8 + b.1 ∧ 0x1FFFF8 + b.1 < 0x400000 ∧
    (let c := nextUnit 0x100 0x1FFFF8 16 8 false; 0x100 + c.1 + c.2 ≤ 0x200000 ∧ 0x200000 ≤ 0x1FFFF8 + c.1) ∧
    NumSet.has [0x20] ((0x100 + 7) / 8) = true ∧ ((Table.get 0 (g 0 0).regs 9).toNat.testBit 0) = true ∧
    0x200000 ≤ (Table.get 0 (g 0 0).regs 6).toNat := by decide
/-- Completions: a signal to the last words, a record for a node in a scratchpad with room and one that is full, a barrier, a parity
acknowledgement that is awaited. -/
theorem witness_CopyEvents_completions :
    let l (flags : Word) : Launch := { launch16 with regs := [(0, 0x100), (1, 0x104), (2, 16), (5, 1), (6, 0x1FFFF8), (7, 9), (8, 0x3000), (9, flags), (10, 511)] }
    let d : Node := { node0 with desc := node0.desc.set 1 0x1000000000100000 }
    let s (flags : Word) (d : Node) (q : CopyCtx) : State :=
      machine runner { ctxs := [(0, { q with mode := .busy, cur := some (l flags), row := 1 })] } { graphs := [(3, graph3 d)] }
    let flags (w : Word) (i : Nat) : Bool := (Table.get 0 (l w).regs 9).toNat.testBit i
    flags 0x07 0 = true ∧ flags 0x07 1 = true ∧ flags 0x07 2 = true ∧ 0x1FFFF8 % 8 = 0 ∧ 0x1FFFF8 + 8 ≤ 0x200000 ∧ flags 0x10 4 = true ∧
    flags 0x80 7 = true ∧ (511 : Word).toNat < 512 ∧ flags 0x08 3 = true ∧ (l 0).rows ≤ (ctxOf (s 8 d {}) 0 0 0).row ∧
    (pack (s 8 d {})).nodeAt (BitVec.ofNat 6 (0x3000 / 2 ^ 12)) (BitVec.ofNat 12 0x3000) = some d ∧ d.recs.length < d.qcap ∧
    (pack (s 8 d {})).hubWrites = [] ∧ d.qbase = BitVec.ofNat 64 (2 ^ 60 + 0 * 2 ^ 40 + 0 * 2 ^ 28 + 0x100000) ∧ 16 ≤ d.recSize ∧
    0x100000 + d.alloc.toNat % d.qcap * d.recSize + d.recSize ≤ 0x200000 ∧ (pack (s 8 d {})).inRefused 0 = false ∧
    ({ d with recs := (List.range 8).map fun i => { seq := BitVec.ofNat 32 i, mode := .committed } } : Node).qcap ≤ 8 ∧
    (ctxOf (s 0x10 d { parityOut := 1 }) 0 0 0).parityOut ≠ 0 := by decide +kernel
/-- A reservation that meets each check of R224: the word of FP16 with a range that is empty, one that meets another record, an
integer format with scales, binary8 scales that lie outside the range, and a reserved bit. -/
theorem witness_MatrixInstructions_codes :
    let field (w lo n : Nat) : Nat := w / 2 ^ lo % 2 ^ n
    field 0x08400000 11 11 = 0 ∧ field 0x08404001 0 11 < 0 + 8 ∧ 0 < field 0x08404001 0 11 + field 0x08404001 11 11 ∧
    field 0x09404000 22 7 = 0x25 ∧ 1024 < field 0x084041FF 0 11 + field 0x0847F9FF 11 11 + 1024 ∧
    field 0x108404000 32 3 = 1 ∧ field 0x08404000 22 7 = 0x21 ∧ field 0x100404000 22 7 = 1 ∧
    256 * field 0x100404000 11 11 ≤ 16 * field 0x80_0100404000 40 14 ∧ field 0x20000000 29 3 ≠ 0 := by decide
/-- A row that has been poisoned since a step read its operands, while its MMA still runs. -/
theorem witness_MatrixEvents_late :
    let x : StepRun := { slot := 1, tile := 0, zero := false, mask := 1, aNo := 0, bNo := 0, afmt := 0x23, bfmt := 0x23, ascale := none
                         bscale := none, ablk := [], bblk := [], window := 0, j := 0, last := false }
    let m : MmaJob := { slot := 1, tile := 0, aNo := 0, bNo := 0, arec := 0, brec := 0, ao := 0, bo := 0, k := 4, j := 1, zero := false, mask := 1, issued := 0 }
    let s := machine { runner with mode := .parked } { steps := [x], mma := [m], accPoison := [31] } { cycle := 48 }
    x.window + 48 ≤ s.cycleAt 0 ∧ x.mask.getLsbD (0 / 2) = true ∧ NumSet.has (home s).accPoison (x.tile.toNat * 2048 + 0 * 32 + 31) = true ∧
    (here s).mode ∈ [.run, .parked, .subscribed] ∧ (here s).dying = false ∧ (∃ m ∈ (home s).mma, m.slot = x.slot) := by
  refine ⟨by decide, by decide, by decide, by decide, rfl, _, List.mem_singleton_self _, rfl⟩
/-- A plain store to the B-store holds a step back. -/
theorem witness_MatrixEvents_store :
    let e : Elt := { lane := 0, addr := 0x400000, n := 4, loc := { store := .bstore, pkg := 0, cell := 0, off := 0 } }
    (here (inFlight { op0 .store .local with units := [{ path := .local, elts := [e] }] })).storesB 0 0 = true ∧
    (here (inFlight { op0 .store .local with units := [{ path := .local, elts := [e], done := true }] })).storesB 0 0 = false := by decide
/-- A cancel of a wait that reached its bound: before the operation is performed, and after. -/
theorem witness_AnswerEvents_cancel :
    let o := { op0 (.fe .ldfe) .remote (.scalar 5) with cancelled := true }
    let s (o : Op) : State := inFlight o fun t => { t with mode := .parked, feWait := 1, wait := some { what := .answer 0, since := 0 } }
    (s o).opOf me 0 = some o ∧ o.cancelled = true ∧ o.performed = false ∧ (here (s o)).mode = .parked ∧
    (s { o with performed := true }).opOf me 0 = some { o with performed := true } := by decide
/-- A full/empty operation on an empty word of cell 5, where 64 others from other cells wait and where none does. -/
theorem witness_ArrivalEvents_retries :
    let e : Elt := { lane := 0, addr := 0x1000000050000100, n := 4, val := 7, loc := { store := .spad, pkg := 0, cell := 5, off := 0x100 } }
    let o := { op0 (.fe .ldfe) .remote (.scalar 6) with units := [{ path := .remote, elts := [e] }] }
    let s := inFlight o
    o.live = true ∧ o.num = none ∧ ((here s).ops.map (·.id)).Nodup ∧ s.hasPkg e.loc.pkg = true ∧ pathOf e.addr = .remote ∧
    unitFree (here s) o .remote 0 = true ∧ s.refusesPlace 0 e.loc = false ∧ s.boundaryRefuses 0 0 e.loc = false ∧
    serviceFree s me o e = true ∧ s.passes 0 e.loc.pkg = true ∧ (s.cellAt 0 5).waiters = [] ∧
    64 ≤ (((List.range 64).map fun i => (({ pkg := 0, cell := BitVec.ofNat 12 (i + 6), slot := 1 } : GRef), 0)).filter fun w =>
      decide (w.1.pkg ≠ 0) || decide (w.1.cell ≠ 5)).length := by decide +kernel
/-- A header whose waits are met, and one that waits for a load. -/
theorem witness_HoldEvents_header : let c : Clause := { hdr := headerOf 0xF8000F61, words := [0] }
    c.hdr.wm = true ∧ c.hdr.wc = true ∧ c.hdr.wr = true ∧ c.hdr.wl = true ∧ (here (machine { runner with clause := some c, waitqDone := false })).refused = [] ∧
    (here (inFlight { op0 (.load false) .local with units := [unit0 4] })).ops ≠ [] ∧ (op0 (.load false)).path = .edge := by decide
/-- Images whose sum is a number, a NaN, an infinity, both infinities, and zero. -/
theorem witness_ExactSumResults_reads : (1 : Nat).testBit 0 = true ∧ ((2 : Nat).testBit 1 = true ∧ (2 : Nat).testBit 2 = false) ∧
    ((6 : Nat).testBit 1 && (6 : Nat).testBit 2) = true ∧ (2 ^ 100 : Nat) / 2 ^ 64 ≠ 0 ∧ (7 : Nat) / 2 ^ 64 = 0 := by decide
/-- CHSTAT of channel 7, which slot 2 publishes, slot 3 follows and slot 4 waits to join. -/
theorem witness_ChannelInstructions_chstat :
    let s := machine { runner with ops := [op0 (.query (.channel 7)) .hub (.scalar 5)], nextOp := 1 } {} { chans := [(7, { publisher := some ⟨0, 0, 2⟩ })] } me
      [(3, { runner with mode := .subscribed, subscribed := some 7 }), (4, { runner with mode := .parked, wait := some { what := .join 7 0, since := 0 } })]
    s.opOf me 0 = some (op0 (.query (.channel 7)) .hub (.scalar 5)) ∧ (here s).lateFault = false ∧ s.hasPkg 0 = true := by decide
/-- SLOTSTART with INH copies the identity of the starter. -/
theorem witness_SlotInstructions_inherit : let w : Word := BitVec.ofNat 64 (2 + 32 * 2 ^ 8 + 8 * 2 ^ 24 + 2 ^ 32)
    let s := machine { runner with sregs := [(1, w), (2, placedHead)], pid := 9, priv := true } {} {} ⟨0, 0, 0⟩
    w.toNat.testBit 32 = true ∧ w.toNat.testBit 33 = false ∧ ready s { Opnds.ab 1 2 with needs := .lead } = true ∧ (here s).priv = true := by decide
/-- Targets that run, that are SPILLED, and a register of one that is bound; a package that is out of reach. -/
theorem witness_SupervisorInstructions_targets :
    let s (t : Slot) : State := supervisor t
    let u (t : Slot) : Slot := (s t).slotAt ⟨0, 0, 2⟩
    (∀ m ∈ [SlotMode.run, .parked, .subscribed, .spilled, .trapped], aims (s { mode := m }) ((here (s { mode := m })).sreg 2)) ∧
    (u { mode := .spilled, savedLim := 8 }).savedLim = 8 ∧ Table.find (u { mode := .trapped, binds := [(3, 5)] }).binds 3 = some 5 ∧
    (s {}).shut 0 5 = true ∧ SpecReg.ofCode 3 = some .gang := by
  unfold aims; decide +kernel
/-- Whether an access has been translated to a place of which `f` holds. -/
def landed (x : State × Except FaultInfo Loc) (f : State → Loc → Bool) : Bool :=
  match x.2 with
  | .ok l => f x.1 l
  | .error _ => false
/-- A save area of a SPILLED slot that is mapped can be read and written, and so can a partition's ring. -/
theorem witness_SupervisorInstructions_area :
    let s : State := (placed 0).mapPkg 0 fun k => { k with parts := [(0, { part0 with words := [(0, BitVec.ofNat 64 (2 * 2 ^ 16 + 1 * 2 ^ 24)), (2, 0x2000000000001000), (3, 0x2000000000002000)] })] }
    let a := areaAddr s ⟨0, 0, 0⟩ 0x200
    a.2 = 0x2000000000001200 ∧
    landed (resolve s 0 0 a.1 a.2 8 .engRead) (fun u l => !u.boundaryRefuses 0 0 l && !u.refusesPlace 0 l && !u.hubRefuses l &&
      u.linked 0 l.pkg && !l.prot && l.store == .hbm && u.readReady l && (u.peek l 8).isSome) = true ∧
    landed (resolve s 0 hubCell 0 0x2000000000002040 32 .strWrite) (fun u l => !u.refusesPlace 0 l && !u.hubRefuses l && !l.prot &&
      l.store == .hbm && (u.pkgAt 0).hubWrites.isEmpty) = true := by decide +kernel
/-- The ring of partition 0, with room, and a record that waits, one cycle after its fault. -/
theorem witness_EvictionEvents_rings :
    let w : Waiting := { ring := .part 0, cell := 0, slot := some 1, ctx := none, record := { kind := 1 } }
    let s : State := (placed 0).mapPkg 0 fun k =>
      { k with cycle := 1, waiting := [w], parts := [(0, { part0 with words := [(0, BitVec.ofNat 64 (2 * 2 ^ 16 + 1 * 2 ^ 24)), (3, 0x2000000000002000)] })] }
    (s.pkgAt 0).waiting.filter (·.ring == .part 0) = [w] ∧ w.record.cycle ≠ BitVec.ofNat 32 (s.cycleAt 0) ∧
    ((s.pkgAt 0).part 0).mode ≠ .free ∧ ((s.pkgAt 0).part 0).postStopped = false ∧ (s.pkgAt 0).hubWrites = [] ∧
    ((hubReads 0 0 2 s 0x2000000000002000).2 matches .ok [0, 0]) = true := by decide +kernel
/-- A node with a record that is still arriving, and one whose timer is over. -/
theorem witness_ShawmEvents_requests :
    (∀ r ∈ ({ readyNode with recs := readyNode.recs ++ [{ seq := 2, mode := .committed, arriving := true }] } : Node).recs,
      r.arriving = true → r.mode = .committed) ∧
    readyNode.timer ≤ readyNode.age 5 ∧ ({ readyNode with recs := [] } : Node).launchable.length = 0 := by decide
/-- A placement of one slot in a package, with one channel. -/
theorem witness_ShawmEvents_slots : let pl : Placement := { placement [(⟨0, 0, 2⟩, 32, 32)] with chans := [5] }
    let s := placing (some pl)
    ((pack s).part 0).place = some pl ∧ pl.nextAt ≤ (pack s).cycle ∧ readyNode.total ≤ pl.placed.length ∧ pl.chans.Nodup ∧
    (∀ y ∈ pl.placed, y.1.pkg = 0 ∧ 0 < y.2.2.toNat) ∧ 0 < readyNode.total := by decide
/-- Loads of the descriptor of node 0: one that fits and can be placed, and one that does not fit. -/
theorem witness_ShawmEvents_descriptors : descriptorFits (node0.desc.set 3 (BitVec.ofNat 64 (5 * 2 ^ 32 + 2))) ∧ ¬ descriptorFits [] ∧
    placeable node0.desc 2 1 0 ∧ ¬ placeable (node0.desc.set 2 (BitVec.ofNat 64 (64 * 2 ^ 21))) 2 1 0 := by
  refine ⟨?_, ?_, ?_, ?_⟩
  · unfold descriptorFits node0; decide
  · unfold descriptorFits; decide
  · refine ⟨by decide, fun h => absurd h (by decide)⟩
  · exact fun h => absurd h.1 (by decide)
theorem witness_ShawmEvents_read :
    let e : Graph := { mode := .loading, nodeBase := 0x2000000000001000, w := 2, h := 1 }
    let s : State := (placed 0).mapPkg 0 fun k => { k with graphs := [(3, e)], parts := [(0, part0)] }
    ((hubReads 0 e.pid 8 s e.nodeBase).2 matches .ok _) = true ∧
    ((hubReads 0 e.pid 8 s 0x2000000001000000).2 matches .error (some _)) = true ∧
    e.x0.toNat + e.w.toNat ≤ 64 ∧ e.y0.toNat + e.h.toNat ≤ 64 := by decide +kernel
/-- Commands that are turned away when they are fetched, and a GRAPHLOAD with each of its limits kept and one broken. -/
theorem witness_MailboxCommands_fetched :
    (part0.hostSup = false ∧ part0.super.pkg = 0 ∧ part0.hasCell part0.super.cell = true) ∧ 11 < (12 : Word).toNat ∧ 64 ≤ (64 : Byte).toNat ∧
    16 ≤ (16 : Byte).toNat ∧ ¬ (1 ≤ (9 : Byte).toNat ∧ (9 : Byte).toNat ≤ 8) ∧
    (let w2 := 1 * 2 ^ 24 + 64 * 2 ^ 16; ∀ lo ∈ [16, 24], 1 ≤ w2 / 2 ^ lo % 2 ^ 7 ∧ w2 / 2 ^ lo % 2 ^ 7 ≤ 64) ∧
    ¬ (65 * 2 ^ 16 / 2 ^ 16 % 2 ^ 7 ≤ 64) := by decide
/-- GRAPHTEAR of a graph without slots, and of one whose mailbox is another's. -/
theorem witness_MailboxCommands_teardown :
    let s := commanded 3 3 [] .active (graph3 node0)
    (s.groupSlots 0 3) = [] ∧ ((pack s).graphAt 3).nodes ≠ [] ∧ ({ graph3 node0 with loadPart := 1 } : Graph).loadPart ≠ 0 := by decide
/-- A cached page entry for 2 MB that INVAL of one of its pages drops, and an access through it that is under way. -/
theorem witness_PartitionEvents_invalidation :
    let e : Station := { pages := [{ pid := 0, level := 3, index := 0, entry := 1 }] }
    2 ^ (48 - 9 * 3) = 0x200000 ∧ (0x1000 < (0 + 1) * 0x200000 ∧ 0 * 0x200000 < 0x1000 + 0x1000) ∧ e.pages.length = 1 ∧
    (let x : Elt := { lane := 0, addr := 0x2000000000100000, n := 4, loc := { store := .hbm, pkg := 0, off := 0x100000 } }
     x.addr.toNat % 2 ^ 57 < 0x200000) := by decide
/-- A reset that waits, and one whose deadline is over. -/
theorem witness_PartitionEvents_reset :
    let s (o : List Op) (n : Nat) : State :=
      machine { mode := .exited, ops := o } {} { time := n, parts := [(0, { part0 with mode := .resetting })] }
    resetBusy (s [] 0) 0 0 = false ∧ colourDrained (s [] 0) 0 ((pack (s [] 0)).part 0) 0 = true ∧ ((pack (s [] 100000)).part 0).switchAt + 100000 ≤ (pack (s [] 100000)).time ∧
    colourDrained (s [op0 (.load false) .edge (.scalar 5)] 0) 0 ((pack (s [] 0)).part 0) 0 = false := by decide
/-- A package that has been lost runs its group's commands alone; a survivor in OFF is passed over; a reserved bit in MEMBERS. -/
theorem witness_ProtectionCommands_alone :
    ((pair .normal fun k => { k with lost := true }).pkgAt 1).lost = true ∧
    (let s := (pair .normal).mapPkg 2 fun k => { k with prot := { k.prot with mode := .off } }
     (s.pkgAt 1).prot.mode = .normal ∧ (s.pkgAt 2).prot.mode = .off ∧ s.hasPkg 2 = true ∧ (∀ x ∈ s.pkgs, x.2.hubWrites = [])) ∧
    (let g := ((pair .off).pkgAt 1).prot
     0 < g.members ∧ (0x1001 : Word).toNat / 2 ^ (16 * (0 % 4) + 12) % 2 ^ 4 ≠ 0) ∧
    (pair .quiescing).pkgs.all (fun e => e.2.forwards.isEmpty && e.2.deltas.isEmpty) = true ∧
    ((pair .init).pkgAt 1).prot.mode = .init := by decide +kernel
/-- A stripe whose members answer, and one whose spare does not. -/
theorem witness_ProtectionCommands_answers :
    let s := rebuilding .rebuilding
    let g := (s.pkgAt 1).prot
    (∀ e ∈ g.spares, s.hasPkg e.2 = true ∧ s.answers 1 e.2 = true) ∧
    (∀ i < g.members, g.isLost i = false → s.hasPkg (g.member i) = true ∧ s.answers 1 (g.member i) = true ∧ (s.pkgAt (g.member i)).prot.mode ≠ .off) ∧
    (s.pkgAt 1).lost = false ∧
    (let far := s.mapPkg 1 fun k => { k with ports := [] }
     ∃ e ∈ (far.pkgAt 1).prot.spares, far.answers 1 e.2 = false) := by
  refine ⟨by decide +kernel, by decide +kernel, by decide +kernel, (1, 3), by decide +kernel, by decide +kernel⟩
/-- A member that has not answered for 1 ms, one that is reported already, and one that nothing awaits. -/
theorem witness_RedundancyEvents_silence :
    let s (l : NumSet) : State := pair .normal fun k => { k with deltas := [delta1 .toP], time := 1000000, prot := { k.prot with silent := l } }
    let g := ((s []).pkgAt 1).prot
    (delta1 .toP).since + 1000000 ≤ ((s []).pkgAt 1).time ∧ (delta1 .toP).stage ≠ .parityAck ∧ g.member (g.acknowledger (delta1 .toP)) = 2 ∧
    NumSet.has ((s []).pkgAt 1).prot.silent 2 = false ∧ NumSet.has ((s [2]).pkgAt 1).prot.silent 2 = true ∧
    ((pair .normal).pkgAt 1).deltas = [] := by decide +kernel
/-- A write of 256 bytes that begins at byte 31 of a sector has nine parts; a part that is taken, one of a protected sector, and one
whose package does not answer. -/
theorem witness_HostAccesses_parts : (inSectors 0x201F (List.replicate 256 (1 : Byte))).length = 9 ∧
    (inSectors 0x2000 (List.replicate 32 (1 : Byte))).length = 1 ∧
    landed (hostTranslate hosted 0 0x2000000000001000 .strWrite) (fun v l => (l.store == .hbm || l.store == .ddr) &&
      !v.canReconstruct l.pkg (l.off / 32) && (v.pkgAt 0).hubWrites.isEmpty && (v.hubRefusal 0 0 0x2000000000001000 l .strWrite).isNone &&
      v.linked 0 l.pkg && !l.prot && v.hasPkg l.pkg) = true ∧
    (let k := (pair .normal).pkgAt 1
     k.prot.base ≤ 0x100020 ∧ 0x100020 < k.prot.tags ∧ k.protPoisoned 0 1 = false ∧
       ({ k with hbmPoison := [0x100020 / 32] } : Pkg).protPoisoned 0 1 = true ∧ k.protReady 0x100020 = true) := by decide +kernel
theorem witness_HostAccesses_fuses : (State.reset.pkgAt 0).fused = false ∧ Table.find State.reset.pkgs 0 = some (State.reset.pkgAt 0) ∧
    (((pair .normal).pkgAt 1).fused = true) ∧ ((hosted fun k => { k with reporting := true }).pkgAt 0).reporting = true ∧
    ((hosted fun k => { k with bringUp := .halt }).pkgAt 0).bringUp = .halt := by decide +kernel
/-- Nothing may take place beside a turn; and a write that a hub kept back may be performed. -/
theorem witness_StepRunsDecoded_hubs : hubsReady (placed 0) = [] ∧ readyEvents (placed 0) = [] ∧
    hubsReady ((placed 0).mapPkg 0 fun k => { k with hubWrites :=
      [{ loc := { store := .hbm, pkg := 0, off := 64 }, addr := 0x2000000000000040, bytes := [1] }] }) = [0] := by decide +kernel
/-- A package whose clock is stretched. -/
theorem witness_TurnsRotate_stretch : ((pack (machine runner {} { stretchTill := some 256, phase := 3 })).stretchTill) = some 256 ∧ (3 + 1) % 5 = 4 ∧
    laterPlace (0, 0) (0, 0) = false := by decide

end Sys2Proof.Tests
end

/-! Whose turn is next, and how the time of a cycle passes (R6, R7, R391 to R393): O53. -/

namespace Sys2Proof.Machine

/-! ## One package -/

/-- All that relocking changes is the deviation of the rates (R392). -/
theorem Pkg.relock_frame (k : Pkg) : k.relock = { k with driftPpm := k.relock.driftPpm } := by
  unfold Pkg.relock; split <;> rfl

/-- All that a tick changes are the cycle, its fifths, the time and the deviation of the rates. -/
theorem Pkg.tick_frame (k : Pkg) : { k.tick with
    cycle := k.cycle, phase := k.phase, time := k.time, timeFrac := k.timeFrac, driftPpm := k.driftPpm } = k := by
  unfold Pkg.tick; rw [Pkg.relock_frame]

theorem Pkg.tick_driftPpm (k : Pkg) : k.tick.driftPpm = k.relock.driftPpm := rfl

@[simp] theorem Pkg.tick_cells (k : Pkg) : k.tick.cells = k.cells := (congrArg Pkg.cells k.tick_frame :)

@[simp] theorem Pkg.tick_hbm (k : Pkg) : k.tick.hbm = k.hbm := (congrArg Pkg.hbm k.tick_frame :)

@[simp] theorem Pkg.tick_ddr (k : Pkg) : k.tick.ddr = k.ddr := (congrArg Pkg.ddr k.tick_frame :)

theorem Pkg.tick_phase (k : Pkg) : k.tick.phase = if k.stretchTill = none then 0 else (k.phase + 1) % 5 := by
  unfold Pkg.tick; rw [Pkg.relock_frame]
  cases k.stretchTill <;> rfl

theorem Pkg.tick_cycle (k : Pkg) : k.tick.cycle = if k.tick.phase = 4 then k.cycle else k.cycle + 1 := by
  unfold Pkg.tick; rw [Pkg.relock_frame]

theorem Pkg.tick_timeFrac_lt (k : Pkg) : k.tick.timeFrac < nsUnit := Nat.mod_lt _ (by decide)

/-- The time grows by the length of a cycle, at the rate after relocking. -/
theorem Pkg.tick_ticks (k : Pkg) : k.tick.ticks = k.ticks + k.relock.cycleLength := by
  have carry : k.tick.time * nsUnit + k.tick.timeFrac = k.time * nsUnit + (k.timeFrac + k.relock.cycleLength) := by
    unfold Pkg.tick; rw [Pkg.relock_frame]
    simp only [nsUnit]; omega
  unfold Pkg.ticks; rw [carry]; push_cast; ring

theorem Pkg.relock_cycleLength (k : Pkg) :
    (k.relock.cycleLength : Int) = Max.max 0 (20 * (1000000 + k.slewPpm + k.tick.driftPpm)) := by
  rw [Pkg.tick_driftPpm, Pkg.relock_frame]
  exact (Int.toNat_eq_max _).trans (max_comm _ _)

/-- What the time of a cycle does to a package, in the words of the obligation. -/
theorem Pkg.tick_spec (k : Pkg) :
    k.tick.phase = (if k.stretchTill = none then 0 else (k.phase + 1) % 5) ∧
    k.tick.cycle = (if k.tick.phase = 4 then k.cycle else k.cycle + 1) ∧ k.tick.timeFrac < 17000000 ∧
    (17000000 * k.tick.time + k.tick.timeFrac : Int) =
      17000000 * k.time + k.timeFrac + Max.max 0 (20 * (1000000 + k.slewPpm + k.tick.driftPpm)) ∧
    { k.tick with cycle := k.cycle, phase := k.phase, time := k.time, timeFrac := k.timeFrac, driftPpm := k.driftPpm } = k := by
  have inUnits (j : Pkg) : (17000000 * j.time + j.timeFrac : Int) = j.ticks := by
    simp [Pkg.ticks, nsUnit, mul_comm]
  refine ⟨k.tick_phase, k.tick_cycle, k.tick_timeFrac_lt, ?_, k.tick_frame⟩
  rw [inUnits, inUnits, k.tick_ticks, k.relock_cycleLength]

/-! ## All packages together -/

/-- The machine in which the time of one unstretched cycle has passed in every package. -/
def State.tick (s : State) : State := { s with pkgs := s.pkgs.map fun (e : Nat × Pkg) => (e.1, e.2.tick) }

theorem State.find_tick (s : State) (n : Nat) : Table.find s.tick.pkgs n = (Table.find s.pkgs n).map Pkg.tick :=
  Table.find_mapVal s.pkgs (fun _ k => k.tick) n

@[simp] theorem State.hasPkg_tick (s : State) (p : PkgId) : s.tick.hasPkg p = s.hasPkg p := by
  simp [State.hasPkg, State.find_tick]

theorem State.pkgAt_tick {s : State} {p : PkgId} (h : s.hasPkg p = true) : s.tick.pkgAt p = (s.pkgAt p).tick := by
  obtain ⟨k, hk⟩ := Option.isSome_iff_exists.1 h
  simp [State.pkgAt, Table.get, State.find_tick, hk]

theorem State.pkgAt_tick_absent {s : State} {p : PkgId} (h : s.hasPkg p = false) : s.tick.pkgAt p = s.pkgAt p := by
  have absent : Table.find s.pkgs p.toNat = none := by simpa [State.hasPkg] using h
  simp [State.pkgAt, Table.get, State.find_tick, absent]

/-- What a tick keeps of a package is the same at every place afterwards. -/
theorem State.pkgAt_tick_keeps {α : Type} (P : Pkg → α) (h : ∀ k : Pkg, P k.tick = P k) (s : State) (p : PkgId) :
    P (s.tick.pkgAt p) = P (s.pkgAt p) := by
  cases hp : s.hasPkg p with
  | false => rw [State.pkgAt_tick_absent hp]
  | true => rw [State.pkgAt_tick hp, h]

@[simp] theorem State.places_tick (s : State) : s.tick.places = s.places := by
  simp [State.places, State.tick, List.flatMap_map]

theorem SameMemory.tick (s : State) : SameMemory s s.tick :=
  have cell (p : PkgId) (c : CellId) : s.tick.cellAt p c = s.cellAt p c :=
    State.pkgAt_tick_keeps (·.cellAt c) (fun k => by simp [Pkg.cellAt]) s p
  ⟨fun p => ⟨State.pkgAt_tick_keeps Pkg.hbm Pkg.tick_hbm s p, State.pkgAt_tick_keeps Pkg.ddr Pkg.tick_ddr s p⟩,
    fun p c => by simp [cell]⟩

/-! ## The end of a turn -/

/-- The place that comes first in a cycle: cell 0 of the first package, where no cell is listed. -/
def State.firstPlace (s : State) : PkgId × CellId :=
  s.places.head?.getD (BitVec.ofNat 12 ((s.pkgs.head?).map (·.1) |>.getD 0), 0)

theorem State.firstPlace_mem {s : State} (h : s.places ≠ []) : s.firstPlace ∈ s.places := by
  obtain ⟨x, xs, hx⟩ := List.exists_cons_of_ne_nil h
  simp [State.firstPlace, hx]

/-- THE TWO WAYS IN WHICH A TURN ENDS: a later place has its turn in the same cycle, or there is none, a cycle passes, and the
first place has its turn. -/
theorem endTurn_cases (s : State) :
    (∃ x ∈ s.places, laterPlace (s.cur.pkg, s.cur.cell) x = true ∧ endTurn s = { s with cur := s.turnAt x }) ∨
    ((∀ x ∈ s.places, laterPlace (s.cur.pkg, s.cur.cell) x = false) ∧
      endTurn s = { s.tick with cur := s.tick.turnAt s.tick.firstPlace }) := by
  unfold endTurn
  split
  case h_1 x hx => exact .inl ⟨x, List.mem_of_find?_eq_some hx, List.find?_some hx, rfl⟩
  case h_2 hnone => exact .inr ⟨by simpa using hnone, rfl⟩

/-- Settles O53, by the two ways in which a turn ends. -/
theorem turnsRotate : Obligations.TurnsRotate := by
  intro s
  dsimp only
  obtain ⟨x, hx, hlater, hu⟩ | ⟨hlast, hu⟩ := endTurn_cases s
  · rw [hu]
    refine ⟨rfl, fun _ => hx, fun _ => ⟨rfl, hlater⟩, fun hlast => ?_, ⟨fun _ => ⟨rfl, rfl⟩, fun _ _ => ⟨rfl, rfl, rfl⟩⟩, rfl⟩
    exact absurd hlater (by simp [hlast x hx])
  · rw [hu]
    refine ⟨rfl, fun h => ?_, fun ⟨x, hx, hlater⟩ => ?_, fun _ p => ⟨s.hasPkg_tick p, fun hp => ?_⟩, SameMemory.tick s, rfl⟩
    · have first : s.tick.firstPlace ∈ s.tick.places := State.firstPlace_mem (by simpa using h)
      exact s.places_tick ▸ first
    · exact absurd hlater (by simp [hlast x hx])
    · have here : State.pkgAt { s.tick with cur := s.tick.turnAt s.tick.firstPlace } p = (s.pkgAt p).tick :=
        State.pkgAt_tick hp
      rw [here]
      exact (s.pkgAt p).tick_spec

end Sys2Proof.Machine

/-! Registers read as they were last written (R15 to R19, R137): O58. -/

namespace Sys2Proof.Machine

/-! ## A register write in its slot -/

theorem Slot.wakeReg_keeps {α : Sort _} (P : Slot → α)
    (h : ∀ (t : Slot) w m, P { t with wait := w, mode := m } = P t) (t : Slot) (r : RegRef) : P (t.wakeReg r) = P t := by
  unfold Slot.wakeReg
  split
  · split
    · exact h t _ _
    · rfl
  · rfl

@[simp] theorem Slot.fe_wakeReg (t : Slot) (r q : RegRef) : (t.wakeReg r).fe q = t.fe q :=
  Slot.wakeReg_keeps (·.fe q) (fun _ _ _ => rfl) t r
@[simp] theorem Slot.sreg_fill (t : Slot) (r : RegRef) (q : SReg) : (t.fill r).sreg q = t.sreg q :=
  (Slot.wakeReg_keeps (·.sreg q) (fun _ _ _ => rfl) _ r).trans (Slot.setFe_keeps (·.sreg q) (fun _ _ _ => rfl) t r _)
@[simp] theorem Slot.phys_fill (t : Slot) (r : RegRef) (q : VRegNo) : (t.fill r).phys q = t.phys q :=
  (Slot.wakeReg_keeps (·.phys q) (fun _ _ _ => rfl) _ r).trans (Slot.setFe_keeps (·.phys q) (fun _ _ _ => rfl) t r _)

/-- The full/empty state of s0 is always full. -/
@[simp] theorem Slot.fe_zero (t : Slot) : t.fe (.s 0) = .full := rfl
@[simp] theorem Slot.sreg_zero (t : Slot) : t.sreg 0 = 0 := rfl

theorem Slot.fe_fill (t : Slot) (r q : RegRef) : (t.fill r).fe q = if q = r then .full else t.fe q := by
  unfold Slot.fill
  rw [Slot.fe_wakeReg, Slot.fe_setFe]
  by_cases hq : q = r
  · subst hq
    by_cases h0 : q = .s 0
    · rw [if_neg (by simp [h0]), if_pos rfl, h0, Slot.fe_zero]
    · rw [if_pos ⟨rfl, h0⟩, if_pos rfl]
  · rw [if_neg (by simp [hq]), if_neg hq]

@[simp] theorem Slot.putS_zero (t : Slot) (v : Word) : t.putS 0 v = t := rfl

theorem Slot.sreg_putS (t : Slot) (r q : SReg) (v : Word) :
    (t.putS r v).sreg q = if q = r ∧ r ≠ 0 then v else t.sreg q := by
  by_cases hr : r = 0
  · subst hr
    rw [Slot.putS_zero, if_neg (by simp)]
  · unfold Slot.putS
    rw [if_neg hr, Slot.sreg_fill]
    unfold Slot.sreg
    by_cases hq : q = r
    · subst hq
      rw [if_neg hr, if_pos ⟨rfl, hr⟩, Table.get_set_same]
    · rw [Table.get_set_ne _ _ _ (toNat_ne hq), if_neg (c := q = r ∧ r ≠ 0) (by simp [hq])]

theorem Slot.fe_putS (t : Slot) (r : SReg) (v : Word) (q : RegRef) :
    (t.putS r v).fe q = if q = .s r then .full else t.fe q := by
  by_cases hr : r = 0
  · subst hr
    rw [Slot.putS_zero]
    split
    case isTrue h => rw [h, Slot.fe_zero]
    case isFalse => rfl
  · unfold Slot.putS
    rw [if_neg hr, Slot.fe_fill]
    congr 1

@[simp] theorem Slot.phys_putS (t : Slot) (r : SReg) (v : Word) (q : VRegNo) : (t.putS r v).phys q = t.phys q := by
  unfold Slot.putS
  split
  · rfl
  · rw [Slot.phys_fill]; rfl

/-! ## Vector registers -/

/-- What a change of slots that leaves their windows alone leaves of vector registers: all. -/
theorem State.vregAt_mapSlot {f : Slot → Slot} (h : ∀ t q, (f t).phys q = t.phys q) (s : State) (g k : GRef) (q : VRegNo) :
    (s.mapSlot g f).vregAt k q = s.vregAt k q := by
  unfold State.vregAt
  rw [State.slotAt_mapSlot_keeps (·.phys q) (fun t => h t q), State.cellAt_mapSlot_keeps (·.vregs) fun _ _ => rfl]

/-- The lanes of a register after some of them were written. -/
def lanesWritten (old : VReg) (mask : BitVec 32) (f : Nat → Lane) : VReg :=
  (List.range 32).map fun l => if mask.getLsbD l then f l else lane old l

theorem lane_lanesWritten (old : VReg) (mask : BitVec 32) (f : Nat → Lane) {l : Nat} (hl : l < 32) :
    lane (lanesWritten old mask f) l = if mask.getLsbD l then f l else lane old l := by
  unfold lanesWritten
  rw [lane, List.getD_eq_getElem _ _ (by simpa using hl)]
  simp

/-- What every vector register of the machine holds after lanes of one were written. -/
theorem State.vregAt_setLanes {s : State} {g : GRef} (hp : s.hasPkg g.pkg = true) (r : VRegNo) (mask : BitVec 32)
    (f : Nat → Lane) (k : GRef) (q : VRegNo) : (s.setLanes g r mask f).vregAt k q =
      if (k.pkg = g.pkg ∧ k.cell = g.cell) ∧ (s.slotAt k).phys q = (s.slotAt g).phys r
      then lanesWritten (s.vregAt g r) mask f else s.vregAt k q := by
  unfold State.setLanes
  dsimp only
  rw [State.vregAt_mapSlot fun t q => t.phys_fill _ q]
  unfold State.vregAt
  rw [State.slotAt_mapCell_keeps (by exact fun _ => rfl), State.cellAt_mapCell]
  by_cases hk : k.pkg = g.pkg ∧ k.cell = g.cell
  · obtain ⟨h1, h2⟩ := hk
    simp only [h1, h2, hp, and_self, if_true, true_and, Table.get_set]
    rfl
  · simp [hk]

theorem State.slotAt_setLanes {s : State} {g : GRef} (hp : s.hasPkg g.pkg = true) (r : VRegNo) (mask : BitVec 32)
    (f : Nat → Lane) (k : GRef) :
    (s.setLanes g r mask f).slotAt k = if k = g then (s.slotAt g).fill (.v r) else s.slotAt k := by
  unfold State.setLanes
  dsimp only
  rw [State.slotAt_mapSlot, State.slotAt_mapCell_keeps (by exact fun _ => rfl), State.slotAt_mapCell_keeps (by exact fun _ => rfl)]
  simp [hp]

theorem State.slotAt_setS {s : State} {g : GRef} (hp : s.hasPkg g.pkg = true) (r : SReg) (v : Word) (k : GRef) :
    (s.setS g r v).slotAt k = if k = g then (s.slotAt g).putS r v else s.slotAt k := by
  unfold State.setS
  rw [State.slotAt_mapSlot]
  simp [hp]

@[simp] theorem State.vregAt_setS (s : State) (g : GRef) (r : SReg) (v : Word) (k : GRef) (q : VRegNo) :
    (s.setS g r v).vregAt k q = s.vregAt k q := State.vregAt_mapSlot (fun t q => t.phys_putS r v q) s g k q

/-- Settles O58, by what a slot and a register read after each of the two writes. -/
theorem registerWrites : Obligations.RegisterWrites := by
  intro s g hp
  refine ⟨fun r v => ?_, fun r mask f => ?_⟩
  · have here : (s.setS g r v).slotAt g = (s.slotAt g).putS r v := by rw [State.slotAt_setS hp, if_pos rfl]
    refine ⟨fun q => by rw [here, Slot.sreg_putS], Slot.sreg_zero _, by rw [here, Slot.fe_putS, if_pos rfl], ?_,
      fun q hq => by rw [here, Slot.fe_putS, if_neg hq], fun h hh => by rw [State.slotAt_setS hp, if_neg hh],
      fun h q => State.vregAt_setS s g r v h q⟩
    rintro rfl
    rw [here, Slot.putS_zero]
  · have here : (s.setLanes g r mask f).slotAt g = (s.slotAt g).fill (.v r) := by rw [State.slotAt_setLanes hp, if_pos rfl]
    refine ⟨fun l hl => ?_, fun h q hne => ?_, by rw [here, Slot.fe_fill, if_pos rfl],
      fun q hq => by rw [here, Slot.fe_fill, if_neg hq], fun h q => ?_, fun h hh => by rw [State.slotAt_setLanes hp, if_neg hh]⟩
    · rw [State.vregAt_setLanes hp, if_pos ⟨⟨rfl, rfl⟩, rfl⟩, lane_lanesWritten _ _ _ hl]
    · rw [State.vregAt_setLanes hp, if_neg]
      rintro ⟨⟨h1, h2⟩, h3⟩
      exact hne.elim (· h1) (·.elim (· h2) (· h3))
    · rw [State.slotAt_setLanes hp]
      split
      case isTrue e => rw [e, Slot.sreg_fill]
      case isFalse => rfl

end Sys2Proof.Machine

/-! The state after reset (R15, R16, R45, R387, R403): O57. -/

namespace Sys2Proof.Machine

open Sys2Proof.Claims

theorem State.hasPkg_reset (p : PkgId) : State.reset.hasPkg p = true ↔ p = 0 := by
  unfold State.hasPkg State.reset Table.find
  split
  case isTrue h => exact ⟨fun _ => BitVec.eq_of_toNat_eq h, fun _ => rfl⟩
  case isFalse h => exact ⟨fun e => by simp at e, fun e => absurd (congrArg BitVec.toNat e) h⟩

theorem State.pkgAt_reset : State.reset.pkgAt 0 = Pkg.reset := rfl

/-- The lanes of a vector register of zeros. -/
theorem lane_zero (l : Nat) : lane VReg.zero l = 0 := by
  unfold lane VReg.zero
  rw [List.getD_eq_getElem?_getD, List.getElem?_replicate]
  split <;> rfl

/-- After reset every register of every slot reads as zero. -/
theorem State.vregAt_reset (c : CellId) (n : SlotId) (r : VRegNo) : State.reset.vregAt ⟨0, c, n⟩ r = VReg.zero := rfl

theorem resetState : ResetState := by
  refine ⟨State.hasPkg_reset, rfl, rfl, rfl, rfl, rfl, rfl, rfl, rfl, rfl, rfl, rfl, rfl, rfl, rfl, fun _ => rfl, fun _ => rfl, rfl,
    rfl, rfl, rfl, rfl, rfl, rfl, rfl, fun c => ⟨fun a => ?_, rfl, rfl, rfl, rfl, rfl, fun _ => rfl, fun n => ?_⟩, fun _ => ⟨rfl, rfl⟩⟩
  · exact ⟨rfl, rfl, rfl, rfl, rfl, rfl, rfl, rfl, rfl, rfl, rfl, rfl, rfl, rfl, rfl, rfl⟩
  · refine ⟨rfl, fun r => ⟨?_, ?_, rfl⟩, fun r => ⟨rfl, rfl, fun l => ?_⟩, fun _ => rfl, rfl, rfl, rfl, rfl, rfl, rfl, rfl⟩
    · exact ite_self _
    · exact ite_self _
    · rw [State.vregAt_reset, lane_zero]

/-! ## Numbering -/

theorem numbered_default : numbered ({} : Slot) := by
  intro o ho
  simp at ho

/-- Where every listed slot is numbered, every slot is. -/
theorem numbered_slotAt {s : State} (h : allNumbered s) (g : GRef) : numbered (s.slotAt g) := by
  have present (p : PkgId) : ∀ c ∈ (s.pkgAt p).cells, ∀ t ∈ c.2.slots, numbered t.2 := by
    unfold State.pkgAt Table.get
    cases hk : Table.find s.pkgs p.toNat with
    | none => intro c hc; cases hc
    | some k => exact h _ (Table.mem_find hk)
  have listed : ∀ t ∈ (s.cellAt g.pkg g.cell).slots, numbered t.2 := by
    unfold State.cellAt Pkg.cellAt Table.get
    cases hc : Table.find (s.pkgAt g.pkg).cells g.cell.toNat with
    | none => intro t ht; cases ht
    | some c => exact present _ _ (Table.mem_find hc)
  unfold State.slotAt Cell.slotAt Table.get
  cases ht : Table.find (s.cellAt g.pkg g.cell).slots g.slot.toNat with
  | none => exact numbered_default
  | some t => exact listed _ (Table.mem_find ht)

theorem invariantsAtReset : InvariantsAtReset := by
  refine ⟨State.memoryWf_reset, fun e he c hc => ?_, fun s h => numbered_slotAt h s.cur⟩
  rw [List.mem_singleton.1 he] at hc
  cases hc

/-- Settles O57, by reading the state after reset. -/
theorem resetValues : Obligations.ResetValues := ⟨resetState, invariantsAtReset⟩

end Sys2Proof.Machine

/-! The canonical form of memory (R42, R315, R323), operation by operation: which leave it as it is, and that every write keeps it. -/

namespace Sys2Proof.Machine

/-! ## Parts of the machine -/

/-- Putting an entry of which a property holds as of the one that stands there changes nothing of whether it holds of all. -/
theorem Table.all_put_eq {α : Type} {P : α → Bool} {d : α} (hd : P d = true) (t : Table α) (k : Nat) {v : α}
    (hv : P v = P (Table.get d t k)) : (Table.put t k v).all (fun e => P e.2) = t.all (fun e => P e.2) := by
  induction t with
  | nil => simp [Table.put, hv, hd]
  | cons e t ih =>
    obtain ⟨k', v'⟩ := e
    unfold Table.put
    by_cases h : k = k'
    · have here : Table.get d ((k', v') :: t) k = v' := by simp [Table.get, Table.find, h]
      simp [h, hv.trans (congrArg P here)]
    · have below : Table.get d ((k', v') :: t) k = Table.get d t k := by simp [Table.get, Table.find, h]
      rw [below] at hv
      rw [if_neg h]
      split
      · have given : t.all (fun e => P e.2) = true → P v = true := fun ht => hv ▸ Table.all_get ht hd k
        rw [List.all_cons, List.all_cons, Bool.and_eq_right_iff_imp]
        exact fun h' => given (Bool.and_eq_true_iff.1 h').2
      · rw [List.all_cons, List.all_cons, ih hv]

theorem Pkg.memoryWf_mapCell_eq (k : Pkg) (c : CellId) {f : Cell → Cell} (hf : ∀ t, (f t).memoryWf = t.memoryWf) :
    (k.mapCell c f).memoryWf = k.memoryWf := by
  have cells := Table.all_put_eq (P := Cell.memoryWf) Cell.memoryWf_default k.cells c.toNat (hf (k.cellAt c))
  unfold Pkg.memoryWf Pkg.mapCell
  rw [← cells]

/-- A change of packages that leaves their form as it is leaves the machine's. -/
theorem State.memoryWf_mapPkg_eq (s : State) (p : PkgId) {f : Pkg → Pkg} (hf : ∀ k, (f k).memoryWf = k.memoryWf) :
    (s.mapPkg p f).memoryWf = s.memoryWf := by
  unfold State.mapPkg
  split
  case h_1 k hk => exact Table.all_put_eq (P := Pkg.memoryWf) Pkg.memoryWf_default s.pkgs _ (by rw [hf, Table.get, hk]; rfl)
  case h_2 => rfl

theorem State.memoryWf_mapCell_eq (s : State) (p : PkgId) (c : CellId) {f : Cell → Cell}
    (hf : ∀ t, (f t).memoryWf = t.memoryWf) : (s.mapCell p c f).memoryWf = s.memoryWf :=
  State.memoryWf_mapPkg_eq s p fun k => Pkg.memoryWf_mapCell_eq k c hf

theorem Pkg.memoryWf_congr {k k' : Pkg} (hbm : k'.hbm = k.hbm) (ddr : k'.ddr = k.ddr) (cells : k'.cells = k.cells) :
    k'.memoryWf = k.memoryWf := by
  unfold Pkg.memoryWf; rw [hbm, ddr, cells]

theorem Cell.memoryWf_congr {t t' : Cell} (spad : t'.spad = t.spad) (bstore : t'.bstore = t.bstore)
    (opbuf : t'.opbuf = t.opbuf) : t'.memoryWf = t.memoryWf := by
  unfold Cell.memoryWf; rw [spad, bstore, opbuf]

@[simp] theorem State.memoryWf_mapPkg_frame (s : State) (p : PkgId) {f : Pkg → Pkg} (hbm : ∀ k, (f k).hbm = k.hbm)
    (ddr : ∀ k, (f k).ddr = k.ddr) (cells : ∀ k, (f k).cells = k.cells) : (s.mapPkg p f).memoryWf = s.memoryWf :=
  State.memoryWf_mapPkg_eq s p fun k => Pkg.memoryWf_congr (hbm k) (ddr k) (cells k)

@[simp] theorem State.memoryWf_mapCell_frame (s : State) (p : PkgId) (c : CellId) {f : Cell → Cell}
    (spad : ∀ t, (f t).spad = t.spad) (bstore : ∀ t, (f t).bstore = t.bstore) (opbuf : ∀ t, (f t).opbuf = t.opbuf) :
    (s.mapCell p c f).memoryWf = s.memoryWf :=
  State.memoryWf_mapCell_eq s p c fun t => Cell.memoryWf_congr (spad t) (bstore t) (opbuf t)

@[simp] theorem State.memoryWf_mapSlot_eq (s : State) (g : GRef) (f : Slot → Slot) : (s.mapSlot g f).memoryWf = s.memoryWf :=
  State.memoryWf_mapCell_frame s _ _ (fun _ => rfl) (fun _ => rfl) fun _ => rfl

/-- The model's own fields are no memory. -/
@[simp] theorem State.memoryWf_update (s : State) (cur : GRef) (agenda : List Instr) (gone : List (PkgId × Delta)) (free : Nat) :
    ({ pkgs := s.pkgs, cur := cur, agenda := agenda, gone := gone, free := free } : State).memoryWf = s.memoryWf := rfl

@[simp] theorem State.memoryWf_draw (s : State) : s.draw.memoryWf = s.memoryWf := rfl

@[simp] theorem State.memoryWf_mapSlots (s : State) (p : PkgId) (f : CellId → SlotId → Slot → Slot) :
    (s.mapPkg p fun k => k.mapSlots f).memoryWf = s.memoryWf :=
  State.memoryWf_mapPkg_eq s p fun k => by
    unfold Pkg.memoryWf Pkg.mapSlots
    simp only [List.all_map]
    rfl

/-! ## Registers, channels and faults -/

@[simp] theorem State.memoryWf_setS (s : State) (g : GRef) (r : SReg) (v : Word) : (s.setS g r v).memoryWf = s.memoryWf := by
  simp [State.setS]
@[simp] theorem State.memoryWf_setLanes (s : State) (g : GRef) (r : VRegNo) (m : BitVec 32) (f : Nat → Lane) :
    (s.setLanes g r m f).memoryWf = s.memoryWf := by simp [State.setLanes]
@[simp] theorem memoryWf_sendItem (s : State) (g : GRef) (c : BitVec 12) (first : Option (BitVec 8)) (item : PubItem) :
    (sendItem s g c first item).memoryWf = s.memoryWf := by simp [sendItem]
@[simp] theorem State.memoryWf_joinChannel (s : State) (g : GRef) (c : BitVec 12) (m : BitVec 8) :
    (s.joinChannel g c m).memoryWf = s.memoryWf := by simp [State.joinChannel]
@[simp] theorem memoryWf_publish (s : State) (g : GRef) (n : Nat) (next : Word × Nat × LoopStack) (u : State) :
    (publish s g n next u).memoryWf = u.memoryWf := by
  unfold publish; dsimp only; split <;> simp
@[simp] theorem memoryWf_queueRecord (s : State) (g : GRef) (x : Option (BitVec 2)) (ring : Ring) (r : Record) :
    (queueRecord s g x ring r).memoryWf = s.memoryWf := by simp [queueRecord]
@[simp] theorem memoryWf_stopChannel (s : State) (g : GRef) (k : Byte) : (stopChannel s g k).memoryWf = s.memoryWf := by
  unfold stopChannel; dsimp only; split <;> simp
@[simp] theorem memoryWf_takeFault (s : State) (g : GRef) (f : FaultInfo) (head : Word) (pos : Nat)
    (resume : Word × Nat × LoopStack) (late : Bool) (mask : Option (BitVec 32)) (cycle : Option Nat) :
    (takeFault s g f head pos resume late mask cycle).memoryWf = s.memoryWf := by simp [takeFault]
@[simp] theorem memoryWf_faultHere (s : State) (g : GRef) (f : FaultInfo) : (faultHere s g f).memoryWf = s.memoryWf := by
  simp [faultHere]
@[simp] theorem memoryWf_resumeSlot (s : State) (g : GRef) : (resumeSlot s g).memoryWf = s.memoryWf := by
  unfold resumeSlot; split <;> simp

/-! ## Running an instruction -/

/-- The states in which a body leaves the machine have memory in canonical form. -/
def Issue.memoryWf : Issue → Bool
  | .done s | .jump s _ | .place s _ | .park s _ | .fetching s | .engage s | .final s => s.memoryWf
  | .hold | .retry _ | .trap _ | .fenced _ _ | .stopAfter _ => true

/-- An outcome's next state has memory in canonical form. -/
def keepsMemory : Host.Outcome State Fault Refusal → Bool
  | .next s => s.memoryWf
  | .fault _ | .refused _ => true

@[simp] theorem Issue.memoryWf_done (s : State) : (Issue.done s).memoryWf = s.memoryWf := rfl
@[simp] theorem Issue.memoryWf_jump (s : State) (a : Word) : (Issue.jump s a).memoryWf = s.memoryWf := rfl
@[simp] theorem Issue.memoryWf_place (s : State) (x : Word × Nat × LoopStack) : (Issue.place s x).memoryWf = s.memoryWf := rfl
@[simp] theorem Issue.memoryWf_park (s : State) (w : WaitFor) : (Issue.park s w).memoryWf = s.memoryWf := rfl
@[simp] theorem Issue.memoryWf_fetching (s : State) : (Issue.fetching s).memoryWf = s.memoryWf := rfl
@[simp] theorem Issue.memoryWf_engage (s : State) : (Issue.engage s).memoryWf = s.memoryWf := rfl
@[simp] theorem Issue.memoryWf_final (s : State) : (Issue.final s).memoryWf = s.memoryWf := rfl
@[simp] theorem Issue.memoryWf_hold : Issue.hold.memoryWf = true := rfl
@[simp] theorem Issue.memoryWf_retry (w : WaitFor) : (Issue.retry w).memoryWf = true := rfl
@[simp] theorem Issue.memoryWf_trap (f : FaultInfo) : (Issue.trap f).memoryWf = true := rfl
@[simp] theorem Issue.memoryWf_fenced (ops : Table RefusedOp) (sv : Bool) : (Issue.fenced ops sv).memoryWf = true := rfl
@[simp] theorem Issue.memoryWf_stopAfter (f : FaultInfo) : (Issue.stopAfter f).memoryWf = true := rfl
@[simp] theorem keepsMemory_next (s : State) : keepsMemory (.next s) = s.memoryWf := rfl
@[simp] theorem keepsMemory_occur (s : State) : keepsMemory (occur s) = s.memoryWf := rfl

@[simp] theorem Ctx.memoryWf_mapSlot (c : Ctx) (f : Slot → Slot) : (c.mapSlot f).s.memoryWf = c.s.memoryWf := by
  simp [Ctx.mapSlot]
@[simp] theorem Ctx.memoryWf_raise (c : Ctx) (f : FpFlags) : (c.raise f).s.memoryWf = c.s.memoryWf := by simp [Ctx.raise]
@[simp] theorem Ctx.memoryWf_setS (c : Ctx) (r : SReg) (v : Word) : (c.setS r v).memoryWf = c.s.memoryWf := by simp [Ctx.setS]
@[simp] theorem Ctx.memoryWf_setV (c : Ctx) (d : VRegNo) (f : Nat → Lane) : (c.setV d f).memoryWf = c.s.memoryWf := by
  unfold Ctx.setV
  dsimp only
  split
  · split <;> simp
  · simp
@[simp] theorem Ctx.memoryWf_setVAll (c : Ctx) (d : VRegNo) (f : Nat → Lane) : (c.setVAll d f).memoryWf = c.s.memoryWf := by
  simp [Ctx.setVAll]
@[simp] theorem Ctx.memoryWf_setVF (c : Ctx) (d : VRegNo) (f : Nat → Lane × FpFlags) :
    (c.setVF d f).memoryWf = c.s.memoryWf := by simp [Ctx.setVF]
@[simp] theorem memoryWf_advanceRng (g : GRef) (s : State) : (advanceRng g s).memoryWf = s.memoryWf := by simp [advanceRng]
@[simp] theorem State.memoryWf_keepPoison (s b : State) (g : GRef) (r : VRegNo) (m : BitVec 32) :
    (s.keepPoison b g r m).memoryWf = s.memoryWf := by simp [State.keepPoison]

@[simp] theorem memoryWf_popAll (s : State) (g : GRef) (l : List (VRegNo × Nat)) : (popAll s g l).1.memoryWf = s.memoryWf := by
  induction l generalizing s with
  | nil => rfl
  | cons e l ih => simp [popAll, ih]

theorem memoryWf_prepare_ok {s : State} {g : GRef} {o : Opnds} {c : Ctx} (h : prepare s g o = .ok c) :
    c.s.memoryWf = s.memoryWf := by
  unfold prepare at h
  dsimp only at h
  repeat' split at h
  all_goals cases h <;> simp

/-- What ends before the body leaves no state. -/
theorem memoryWf_prepare_error {s : State} {g : GRef} {o : Opnds} {r : Issue} (h : prepare s g o = .error r) :
    r.memoryWf = true := by
  unfold prepare at h
  dsimp only at h
  repeat' split at h
  all_goals cases h <;> rfl

theorem memoryWf_conclude {s : State} (h : s.memoryWf = true) (g : GRef) (o : Opnds) {r : Issue} (hr : r.memoryWf = true) :
    (conclude s g o r).memoryWf = true := by
  cases r <;> simp_all [conclude] <;> split <;> simp_all

/-- AN INSTRUCTION WHOSE BODY KEEPS THE FORM KEEPS IT. -/
theorem keepsMemory_run {s : State} (h : s.memoryWf = true) (o : Opnds) {body : Ctx → Issue}
    (hb : ∀ c, c.s.memoryWf = true → (body c).memoryWf = true) : keepsMemory (run s o body) = true := by
  unfold run
  split
  · split
    case h_1 r hr => exact memoryWf_conclude h _ _ (memoryWf_prepare_error hr)
    case h_2 c hc => exact memoryWf_conclude h _ _ (hb c ((memoryWf_prepare_ok hc).trans h))
  · rfl

end Sys2Proof.Machine

/-! The canonical form of memory through the writes of protected memory, translations and the units of accesses. -/

namespace Sys2Proof.Machine

/-! ## Repeated changes -/

@[simp] theorem memoryWf_foldl {α : Type} {f : State → α → State} (hf : ∀ s a, s.memoryWf = true → (f s a).memoryWf = true)
    (l : List α) {s : State} (h : s.memoryWf = true) : (l.foldl f s).memoryWf = true := by
  induction l generalizing s with
  | nil => exact h
  | cons a l ih => exact ih (hf s a h)

@[simp] theorem memoryWf_foldl_eq {α : Type} {f : State → α → State} (hf : ∀ s a, (f s a).memoryWf = s.memoryWf)
    (l : List α) (s : State) : (l.foldl f s).memoryWf = s.memoryWf := by
  induction l generalizing s with
  | nil => rfl
  | cons a l ih => exact (ih (f s a)).trans (hf s a)

/-! ## Parity and protected writes -/

@[simp] theorem State.memoryWf_stageDelta (s : State) (p : PkgId) (x : Nat) (t : DeltaStage) :
    (s.stageDelta p x t).memoryWf = s.memoryWf := by simp [State.stageDelta]

@[simp] theorem State.memoryWf_countParity (s : State) (i : Issuer) : (s.countParity i).memoryWf = s.memoryWf := by
  unfold State.countParity; split <;> simp

@[simp] theorem State.memoryWf_noParity (s : State) (i : Issuer) : (s.noParity i).memoryWf = s.memoryWf := by
  unfold State.noParity; split <;> simp [Pkg.released]

@[simp] theorem State.memoryWf_mapStation (s : State) (p : PkgId) (n : Nat) (f : Station → Station) :
    (s.mapStation p n f).memoryWf = s.memoryWf := by simp [State.mapStation]

/-- A write of a protected sector and its tag keeps the form, in whatever package. -/
theorem memoryWf_putStripe {s : State} (h : s.memoryWf = true) (p : PkgId) (n x : Nat) (b : Pkg → List Byte) (v : Pkg → Nat) :
    (s.mapPkg p fun k => (k.putProtSector n x (b k)).putTag n x (v k)).memoryWf = true :=
  State.memoryWf_mapPkg h p fun _ hk => Pkg.memoryWf_putTag (Pkg.memoryWf_putProtSector hk _ _ _) _ _ _

@[simp] theorem memoryWf_recomputeAt {s : State} (h : s.memoryWf = true) (g : ProtGroup) (n sec m : Nat) :
    (recomputeAt s g n sec m).memoryWf = true := by
  unfold recomputeAt
  dsimp only
  split
  · exact h
  · refine State.memoryWf_mapPkg h _ fun k hk => ?_
    split
    · exact Pkg.memoryWf_putTag (Pkg.memoryWf_putProtSector hk _ _ _) _ _ _
    · exact hk

@[simp] theorem memoryWf_recompute {s : State} (h : s.memoryWf = true) (g : ProtGroup) (n sec : Nat) :
    (recompute s g n sec).memoryWf = true := by
  unfold recompute
  dsimp only
  split
  · exact memoryWf_recomputeAt (memoryWf_recomputeAt h _ _ _ _) _ _ _ _
  · exact memoryWf_recomputeAt h _ _ _ _

@[simp] theorem memoryWf_reconstruct {s : State} (h : s.memoryWf = true) (p : PkgId) (sector : Nat) :
    (reconstruct s p sector).memoryWf = true := by
  unfold reconstruct
  dsimp only
  split
  · split
    · exact memoryWf_putStripe h _ _ _ (fun _ => _) (fun _ => _)
    · exact h
  · split
    · exact memoryWf_putStripe h _ _ _ (fun _ => _) (fun _ => _)
    · exact h

theorem memoryWf_applyDelta {s : State} (h : s.memoryWf = true) (g : ProtGroup) (holder i n sec : Nat) (ph : Bool)
    (bytes : List Byte) {t : State} (ht : applyDelta s g holder i n sec ph bytes = some t) : t.memoryWf = true := by
  unfold applyDelta at ht
  dsimp only at ht
  have put {u : State} (hu : u.memoryWf = true) := fun p => memoryWf_putStripe hu p n sec
  split_ifs at ht <;> cases ht
  · exact memoryWf_reconstruct h _ _
  · exact put (memoryWf_reconstruct h _ _) _ (fun _ => _) (fun _ => _)
  · exact put (memoryWf_reconstruct h _ _) _ (fun _ => _) (fun _ => _)
  · exact h
  · exact put h _ (fun _ => _) (fun _ => _)
  · exact put h _ (fun _ => _) (fun _ => _)

@[simp] theorem memoryWf_arriveAtP {s : State} (h : s.memoryWf = true) (p : PkgId) (d : Delta) : (arriveAtP s p d).memoryWf = true := by
  unfold arriveAtP
  dsimp only
  split
  · split
    · exact h
    case h_2 t ht =>
      have hw := memoryWf_applyDelta h _ _ _ _ _ _ _ ht
      split <;> split <;> simpa using hw
  · exact h

@[simp] theorem memoryWf_arriveAtQ {s : State} (h : s.memoryWf = true) (p : PkgId) (x : Forward) :
    (arriveAtQ s p x).memoryWf = true := by
  unfold arriveAtQ
  dsimp only
  split
  · exact h
  · split
    · split
      · exact h
      case h_2 t ht => simpa using memoryWf_applyDelta h _ _ _ _ _ _ _ ht
    · exact h

@[simp] theorem memoryWf_arriveStraight {s : State} (h : s.memoryWf = true) (p : PkgId) (d : Delta) :
    (arriveStraight s p d).memoryWf = true := by
  unfold arriveStraight
  dsimp only
  split
  · exact h
  · split
    · split
      · exact h
      case h_2 t ht => simpa using memoryWf_applyDelta h _ _ _ _ _ _ _ ht
    · exact h

@[simp] theorem memoryWf_driveStripe {s : State} (h : s.memoryWf = true) (g : ProtGroup) (n sec : Nat) :
    (driveStripe s g n sec).memoryWf = true := by
  unfold driveStripe
  dsimp only
  refine memoryWf_foldl (fun s p h => memoryWf_foldl (fun s d h => memoryWf_arriveAtQ h _ _) _ h) _
    (memoryWf_foldl (fun s p h => memoryWf_foldl (fun s d h => ?_) _ h) _ h)
  split
  · exact memoryWf_arriveAtP h _ _
  · exact memoryWf_arriveStraight h _ _
  · exact h

@[simp] theorem memoryWf_mendSector {s : State} (h : s.memoryWf = true) (p : PkgId) (sector : Nat) :
    (mendSector s p sector).memoryWf = true := by
  unfold mendSector
  dsimp only
  split
  · split
    · exact memoryWf_reconstruct (memoryWf_driveStripe h _ _ _) _ _
    · exact memoryWf_driveStripe h _ _ _
  · exact h

@[simp] theorem State.memoryWf_mendPlace {s : State} (h : s.memoryWf = true) (l : Loc) : (s.mendPlace l).memoryWf = true := by
  unfold State.mendPlace
  split
  · exact memoryWf_mendSector h _ _
  · exact h

@[simp] theorem State.memoryWf_mended {s : State} (h : s.memoryWf = true) (p : PkgId) : (s.mended p).memoryWf = true :=
  memoryWf_foldl (fun _ _ h => memoryWf_mendSector h _ _) _ h

@[simp] theorem memoryWf_translate {s : State} (h : s.memoryWf = true) (p : PkgId) (c : CellId) (pid : BitVec 16) (a : Word) (k : Acc)
    (fixed : Option Bool) : (translate s p c pid a k fixed).1.memoryWf = true := by
  unfold translate
  dsimp only
  split <;> simpa using State.memoryWf_mended h p

@[simp] theorem memoryWf_resolve {s : State} (h : s.memoryWf = true) (p : PkgId) (c : CellId) (pid : BitVec 16) (a : Word) (n : Nat)
    (k : Acc) : (resolve s p c pid a n k).1.memoryWf = true := by
  unfold resolve
  split
  · exact h
  · exact h
  · exact memoryWf_translate h _ _ _ _ _ _

@[simp] theorem memoryWf_protWrite {s : State} (h : s.memoryWf = true) (l : Loc) (addr : Word) (new : List (Nat × Byte)) (i : Issuer) :
    (protWrite s l addr new i).memoryWf = true := by
  have hi : (s.noParity i).memoryWf = true := by simpa using h
  unfold protWrite
  dsimp only
  split
  · split
    · exact memoryWf_recompute (memoryWf_putStripe hi _ _ _ (fun _ => _) (fun _ => _)) _ _ _
    · refine State.memoryWf_mapPkg hi _ fun k hk => ?_
      obtain ⟨hbm, ddr, cells⟩ := (Pkg.memoryWf_iff k).1 hk
      exact (Pkg.memoryWf_iff _).2 ⟨Memory.wf_cellsWrite hbm _ _, ddr, cells⟩
  · rw [State.memoryWf_countParity]
    refine State.memoryWf_mapPkg h _ fun k hk => ?_
    exact Pkg.memoryWf_putTag (Pkg.memoryWf_putProtSector hk _ _ _) _ _ _

@[simp] theorem State.memoryWf_storeBytes {s : State} (h : s.memoryWf = true) (l : Loc) (addr : Word) (bs : List Byte) (i : Issuer) :
    (s.storeBytes l addr bs i).memoryWf = true := by
  unfold State.storeBytes
  split
  · exact memoryWf_protWrite h _ _ _ _
  · exact State.memoryWf_poke h _ _

@[simp] theorem State.memoryWf_poisonPlace (s : State) (l : Loc) : (s.poisonPlace l).memoryWf = s.memoryWf :=
  State.memoryWf_mapPkg_eq s _ fun k => by split <;> rfl

/-! ## Operations in flight -/

@[simp] theorem State.memoryWf_mapOp (s : State) (g : GRef) (id : Nat) (f : Op → Op) :
    (s.mapOp g id f).memoryWf = s.memoryWf := by simp [State.mapOp]
@[simp] theorem State.memoryWf_dropOp (s : State) (g : GRef) (id : Nat) : (s.dropOp g id).memoryWf = s.memoryWf := by
  simp [State.dropOp]
@[simp] theorem State.memoryWf_setWord (s : State) (full : Bool) (e : Elt) : (s.setWord full e).memoryWf = s.memoryWf := by
  simp [State.setWord]
@[simp] theorem State.memoryWf_leaveWaiters (s : State) (p : PkgId) (c : CellId) (w : GRef × Nat) :
    (s.leaveWaiters p c w).memoryWf = s.memoryWf := by simp [State.leaveWaiters]
@[simp] theorem memoryWf_clearCovered (s : State) (o : Op) (e : Elt) : (clearCovered s o e).memoryWf = s.memoryWf := by
  unfold clearCovered
  dsimp only
  split
  · simp
  · simp
  · split <;> simp
  · split <;> simp
  · rfl
@[simp] theorem memoryWf_finishOp (s : State) (g : GRef) (id : Nat) : (finishOp s g id).memoryWf = s.memoryWf := by
  unfold finishOp
  split
  · rfl
  · split
    · split
      · split <;> simp
      · rfl
    · rfl

/-- What a unit's effect leaves, where it has one, has memory in canonical form. -/
def keepsEffect {α : Type} : Except FaultInfo (State × α) → Bool
  | .ok r => r.1.memoryWf
  | .error _ => true

@[simp] theorem keepsEffect_ok {α : Type} (r : State × α) : keepsEffect (.ok r) = r.1.memoryWf := rfl
@[simp] theorem keepsEffect_error {α : Type} (f : FaultInfo) : keepsEffect (.error f : Except FaultInfo (State × α)) = true := rfl
theorem keepsEffect_map {α β : Type} {s : State} (h : s.memoryWf = true) (r : Except FaultInfo α) (f : α → β) :
    keepsEffect (r.map fun v => (s, f v)) = true := by
  cases r
  · rfl
  · exact h

@[simp] theorem memoryWf_atomElts (f : AtomOp) (i : Issuer) {s : State} (h : s.memoryWf = true) (es : List Elt) :
    (atomElts f i s es).1.memoryWf = true := by
  induction es generalizing s with
  | nil => exact h
  | cons e es ih => exact ih (State.memoryWf_storeBytes h _ _ _ _)

@[simp] theorem memoryWf_storeElts {s : State} (h : s.memoryWf = true) (i : Issuer) (es : List Elt) :
    (storeElts s i es).memoryWf = true := by
  unfold storeElts
  split
  · exact h
  · split
    · exact memoryWf_protWrite h _ _ _ _
    · exact memoryWf_foldl (fun _ _ h => State.memoryWf_poke h _ _) _ h

@[simp] theorem memoryWf_nclaimStep {s : State} (h : s.memoryWf = true) (e : Elt) : (nclaimStep s e).1.memoryWf = true :=
  State.memoryWf_poke h _ _

theorem keepsEffect_feStep {s : State} (h : s.memoryWf = true) (f : FeOp) (es : List Elt) :
    keepsEffect (feStep s f es) = true := by
  unfold feStep
  split
  · rfl
  · dsimp only
    split
    case h_5 => exact memoryWf_foldl (fun s e h => by simpa using State.memoryWf_poke h _ _) _ h
    case h_6 => exact memoryWf_foldl (fun _ _ h => State.memoryWf_poke h _ _) _ h
    all_goals simpa using h

theorem keepsEffect_waitStep {s : State} (h : s.memoryWf = true) (a : Act) (es : List Elt) :
    (waitStep s a es).all keepsEffect = true := by
  unfold waitStep
  split
  · split
    · rfl
    · split
      · exact keepsEffect_feStep h _ _
      · rfl
  · split
    · exact h
    · split
      · rfl
      · dsimp only
        split
        · exact h
        · rfl
  · rfl

theorem keepsEffect_firstReady {s : State} (h : s.memoryWf = true) (pick : Act → Bool) (ahead : List Elt)
    (l : List (GRef × Nat)) : (firstReady s pick ahead l).all (fun r => keepsEffect r.2) = true := by
  induction l generalizing ahead with
  | nil => rfl
  | cons w l ih =>
    unfold firstReady
    split
    · exact ih _
    case h_2 o ho =>
      dsimp only
      split
      · split
        case h_1 res hres =>
          have := keepsEffect_waitStep h o.act (o.units.flatMap (·.elts))
          rwa [hres] at this
        case h_2 => exact ih _
      · exact ih _

@[simp] theorem memoryWf_settleFrom (n : Nat) {s : State} (h : s.memoryWf = true) (p : PkgId) (c : CellId) :
    (settleFrom n s p c).memoryWf = true := by
  induction n generalizing s with
  | zero => exact h
  | succ n ih =>
    unfold settleFrom
    dsimp only
    split
    · exact h
    case h_2 w res hw =>
      have found : keepsEffect res = true := by
        have first := keepsEffect_firstReady h Act.monitors [] (s.cellAt p c).waiters
        have second := keepsEffect_firstReady h (fun a => !a.monitors) [] (s.cellAt p c).waiters
        revert hw
        cases hf : firstReady s Act.monitors [] (s.cellAt p c).waiters with
        | none => intro hw; rw [show firstReady s _ [] _ = _ from hw] at second; exact second
        | some r => intro hw; cases hw; rw [hf] at first; exact first
      refine ih ?_
      cases res with
      | ok r => simpa using found
      | error f => simpa using h

@[simp] theorem State.memoryWf_settle {s : State} (h : s.memoryWf = true) (p : PkgId) (c : CellId) : (s.settle p c).memoryWf = true := by
  unfold State.settle
  split
  · exact h
  · exact memoryWf_settleFrom _ h _ _

theorem keepsEffect_effect (a : Act) {s : State} (h : s.memoryWf = true) (i : Issuer) (es : List Elt) :
    (a.effect s i es).all keepsEffect = true := by
  unfold Act.effect
  split
  · exact keepsEffect_map h _ _
  · exact memoryWf_storeElts h _ _
  · simp only [Option.all_some]
    split
    · rfl
    · exact memoryWf_atomElts _ _ h _
  · simp only [Option.all_some]
    split
    · exact h
    · split
      · rfl
      · exact memoryWf_nclaimStep h _
  · exact keepsEffect_waitStep h _ _
  · exact keepsEffect_waitStep h _ _
  · exact keepsEffect_map h _ _
  · exact h

@[simp] theorem State.memoryWf_beginWait {s : State} (h : s.memoryWf = true) (g : GRef) (o : Op) (p : PkgId) (c : CellId) :
    (s.beginWait g o p c).memoryWf = true := by
  unfold State.beginWait
  dsimp only
  split
  · simpa using h
  · exact State.memoryWf_settle (by simpa using h) _ _

@[simp] theorem memoryWf_performUnit {s : State} (h : s.memoryWf = true) (g : GRef) (id u : Nat) :
    (performUnit s g id u).memoryWf = true := by
  unfold performUnit
  split
  · exact h
  case h_2 o ho =>
    dsimp only
    split
    · exact h
    · simpa using h
    case h_3 e hf =>
      have effect := keepsEffect_effect o.act h (if o.orphan then .hub else .slot g o.colour)
        ((o.together u).flatMap fun j => (o.units[j]?.map (·.elts)).getD [])
      split
      · exact State.memoryWf_beginWait h _ _ _ _
      · simpa using h
      case h_3 t got heff =>
        rw [heff] at effect
        have covered : ∀ (u : State) (o' : Op) (es : List Elt), u.memoryWf = true →
            (es.foldl (fun s e => clearCovered s o' e) u).memoryWf = true := fun u o' es hu => by simpa using hu
        split
        · refine State.memoryWf_settle ?_ _ _
          rw [memoryWf_finishOp]
          split <;> simpa using effect
        · rw [memoryWf_finishOp]
          split <;> simpa using effect

end Sys2Proof.Machine

/-! The canonical form of memory through the issue of operations and the fetch of clauses. -/

namespace Sys2Proof.Machine

/-! ## Issuing an operation -/

@[simp] theorem memoryWf_translateAll (g : GRef) (pid : BitVec 16) (k : Acc) {s : State} (h : s.memoryWf = true)
    (l : List (RawElt × Option Loc)) : (translateAll g pid k s l).1.memoryWf = true := by
  induction l generalizing s with
  | nil => exact h
  | cons e l ih =>
    obtain ⟨e, place⟩ := e
    cases place with
    | some x => exact ih h
    | none =>
      unfold translateAll
      dsimp only
      split
      · exact memoryWf_translate h _ _ _ _ _ _
      · exact ih (memoryWf_translate h _ _ _ _ _ _)

@[simp] theorem memoryWf_checkElts {s : State} (h : s.memoryWf = true) (g : GRef) (pid : BitVec 16) (k : Acc) (raw : List RawElt) :
    (checkElts s g pid k raw).1.memoryWf = true := by
  unfold checkElts
  split
  · exact h
  · exact memoryWf_translateAll _ _ _ h _

@[simp] theorem State.memoryWf_enrol (s : State) (g : GRef) (o : Op) (addrs : List Word) (data : List Byte) :
    (s.enrol g o addrs data).1.memoryWf = s.memoryWf := by
  unfold State.enrol
  dsimp only
  split
  · split <;> simp
  · rfl

@[simp] theorem State.memoryWf_addOp (s : State) (g : GRef) (o : Op) : (s.addOp g o).memoryWf = s.memoryWf := by
  simp [State.addOp]

@[simp] theorem State.memoryWf_listWaiter (s : State) (g : GRef) (id : Nat) : (s.listWaiter g id).memoryWf = s.memoryWf := by
  simp [State.listWaiter]

@[simp] theorem State.memoryWf_atPort (s : State) (g : GRef) (id : Nat) (home : List Nat) (cycles : Nat) (bound : Option Nat) :
    (s.atPort g id home cycles bound).memoryWf = s.memoryWf := by
  unfold State.atPort
  split <;> simp

@[simp] theorem memoryWf_issueFaulted (c : Ctx) (s : State) (r : MemReq) (f : FaultInfo) :
    (c.issueFaulted s r f).memoryWf = s.memoryWf := by simp [Ctx.issueFaulted]

theorem memoryWf_toReport {t : Slot} {sv : Bool} {f : RefusedOp → Bool} {i : Issue} (hi : t.toReport sv f = some i) :
    i.memoryWf = true := by
  unfold Slot.toReport at hi
  dsimp only at hi
  split at hi <;> cases hi
  rfl

theorem memoryWf_releaseHold {c : Ctx} {sv : Bool} {i : Issue} (hi : c.releaseHold sv = some i) : i.memoryWf = true := by
  unfold Ctx.releaseHold at hi
  split at hi
  · cases hi; rfl
  · exact memoryWf_toReport hi

theorem memoryWf_orderHold {c : Ctx} {k : Scope} {o : Order} {i : Issue} (hi : c.orderHold k o = some i) :
    i.memoryWf = true := by
  unfold Ctx.orderHold at hi
  split at hi
  · cases hi; rfl
  · split at hi
    · exact memoryWf_releaseHold hi
    · cases hi

theorem memoryWf_twinGone {c : Ctx} {i : Issue} (hi : c.twinGone = some i) : i.memoryWf = true := by
  unfold Ctx.twinGone at hi
  split at hi
  · split at hi
    · split at hi <;> cases hi
      rfl
    · cases hi
  · cases hi

theorem memoryWf_issueOp {c : Ctx} (h : c.s.memoryWf = true) (o : Op) (addrs : List Word) (data : List Byte) :
    (c.issueOp o addrs data).memoryWf = true := by
  unfold Ctx.issueOp
  split
  · rfl
  · split
    case h_1 i hi => exact memoryWf_twinGone hi
    case h_2 => simpa using h

theorem memoryWf_issueAlone {c : Ctx} (h : c.s.memoryWf = true) (o : Op) : (c.issueAlone o).memoryWf = true := by
  unfold Ctx.issueAlone
  split
  · rfl
  · simpa using h

theorem memoryWf_memIssue {c : Ctx} (h : c.s.memoryWf = true) (r : MemReq) : (memIssue c r).memoryWf = true := by
  have checked := memoryWf_checkElts h c.g c.slot.pid r.acc r.raw
  unfold memIssue
  dsimp only
  split
  · exact h
  · split
    case h_1 i hi => exact memoryWf_orderHold hi
    case h_2 =>
      split
      · split
        · simpa using checked
        · rfl
      · split
        · rfl
        · split
          case h_1 i hi =>
            split at hi
            · exact memoryWf_twinGone hi
            · cases hi
          case h_2 =>
            simp only [apply_ite Issue.memoryWf, apply_ite State.memoryWf, apply_ite Prod.fst, Issue.memoryWf_park,
              Issue.memoryWf_done, State.memoryWf_listWaiter, State.memoryWf_atPort, State.memoryWf_addOp,
              State.memoryWf_enrol, ite_self]
            exact checked

/-! ## Fetching a clause -/

@[simp] theorem memoryWf_readLine {s : State} (h : s.memoryWf = true) (g : GRef) (pid : BitVec 16) (stale : Bool) (a : Word) :
    (readLine s g pid stale a).1.memoryWf = true := by
  have read := memoryWf_translate (State.memoryWf_mended h g.pkg) g.pkg g.cell pid a .fetch (some stale)
  unfold readLine
  dsimp only
  split
  · exact read
  case h_2 l hl =>
    have both := State.memoryWf_mended read l.pkg
    split <;> (dsimp only; exact both)

@[simp] theorem memoryWf_readLines (g : GRef) (pid : BitVec 16) (stale : Bool) (n : Nat) (a : Word) {s : State} (h : s.memoryWf = true)
    (l : List Word) : (readLines s g pid stale n a l).1.memoryWf = true := by
  induction l generalizing s with
  | nil => exact h
  | cons b l ih =>
    have read := memoryWf_readLine h g pid stale (fetchAt a b)
    unfold readLines
    dsimp only
    split
    · exact read
    · exact ih (by simpa using read)

@[simp] theorem memoryWf_renewBeside (s : State) (g : GRef) (pid : BitVec 16) (stale : Bool) (n : Nat) (a : Word) :
    (renewBeside s g pid stale n a).memoryWf = s.memoryWf := by
  refine memoryWf_foldl_eq (fun s b => ?_) _ s
  split
  · rfl
  · split
    · split <;> simp
    · rfl

@[simp] theorem memoryWf_refillClause {s : State} (h : s.memoryWf = true) (g : GRef) (pid : BitVec 16) (a : Word) :
    (refillClause s g pid a).1.memoryWf = true := by
  unfold refillClause
  dsimp only
  split
  · exact h
  · have start : (s.draw.mapCell g.pkg g.cell fun c => { c with fills := (s.cellAt g.pkg g.cell).fills + 1 }).memoryWf = true := by
      simpa using h
    have first := memoryWf_readLines g pid (Config.useStale s.free) ((s.cellAt g.pkg g.cell).fills + 1) a start (linesOf a 4)
    split
    · exact first
    · split
      · exact memoryWf_readLines _ _ _ _ _ first _
      · simpa using memoryWf_readLines _ _ _ _ _ first _

@[simp] theorem memoryWf_startRefill (s : State) (g : GRef) (a : Word) : (startRefill s g a).memoryWf = s.memoryWf := by
  simp [startRefill]
@[simp] theorem memoryWf_endRefill (s : State) (g : GRef) : (endRefill s g).memoryWf = s.memoryWf := by simp [endRefill]
@[simp] theorem memoryWf_fetchFault (s : State) (g : GRef) (f : FaultInfo) (a : Word) :
    (fetchFault s g f a).memoryWf = s.memoryWf := by simp [fetchFault]

/-- The state in which a look for a clause leaves the machine. -/
def Found.state : Found → State
  | .miss s | .fault s _ | .code s _ _ => s

@[simp] theorem Found.state_miss (s : State) : (Found.miss s).state = s := rfl
@[simp] theorem Found.state_fault (s : State) (f : FaultInfo) : (Found.fault s f).state = s := rfl
@[simp] theorem Found.state_code (s : State) (w : BitVec 32) (ws : List (BitVec 32)) : (Found.code s w ws).state = s := rfl

/-- Looking for a clause leaves memory as it is. -/
theorem memoryWf_lookClause (s : State) (g : GRef) (a : Word) : (lookClause s g a).state.memoryWf = s.memoryWf := by
  unfold lookClause
  dsimp only
  split
  · rfl
  · split
    · split
      · split
        · rfl
        · exact memoryWf_startRefill _ _ _
      · split
        · rfl
        · exact memoryWf_startRefill _ _ _
      · exact memoryWf_startRefill _ _ _
    · split
      · rfl
      · split
        · rfl
        · exact (memoryWf_startRefill _ _ _).trans (by simp)

theorem memoryWf_fetchClause (s : State) (g : GRef) : (fetchClause s g).1.memoryWf = s.memoryWf := by
  have look := memoryWf_lookClause s g (s.slotAt g).head
  unfold fetchClause
  dsimp only
  split
  · simp
  · split
    · simp
    · split
      · simp
      · split
        case h_1 u hu => rw [hu] at look; exact look
        case h_2 u f hu => rw [hu] at look; simpa using look
        case h_3 u w ws hu =>
          rw [hu] at look
          split <;> simpa using look

@[simp] theorem memoryWf_passWaitq (s : State) (g : GRef) (hd : Header) : (passWaitq s g hd).1.memoryWf = s.memoryWf := by
  unfold passWaitq
  dsimp only
  split
  · rfl
  · split
    · rfl
    · split <;> simp

theorem memoryWf_checkTarget (s : State) (g : GRef) (a : Word) : (checkTarget s g a).1.memoryWf = s.memoryWf := by
  have look := memoryWf_lookClause s g a
  unfold checkTarget
  dsimp only
  split
  · rfl
  · split
    · rfl
    · split
      case h_1 u hu => rw [hu] at look; exact look
      case h_2 u f hu => rw [hu] at look; exact look
      case h_3 u w ws hu =>
        rw [hu] at look
        split <;> simpa using look

end Sys2Proof.Machine

/-! The canonical form of memory through synchronisation, and through the answers of operations in flight. -/

namespace Sys2Proof.Machine

/-! ## Accesses of registers to memory -/

theorem keepsMemory_memIssue {s : State} (h : s.memoryWf = true) (o : Opnds) (r : Ctx → MemReq) :
    keepsMemory (run s o fun c => memIssue c (r c)) = true := keepsMemory_run h o fun _ hc => memoryWf_memIssue hc _

@[simp] theorem keepsMemory_execPref {s : State} (h : s.memoryWf = true) (b : SReg) : keepsMemory (execPref b s) = true :=
  keepsMemory_run h _ fun c hc => by
    dsimp only [Issue.memoryWf_done]
    split
    · exact memoryWf_translate hc _ _ _ _ _ _
    · exact hc

/-! ## Fences, barriers and timelines -/

theorem memoryWf_fenceBody {c : Ctx} (h : c.s.memoryWf = true) (acq rel sv : Bool) : (fenceBody c acq rel sv).memoryWf = true := by
  unfold fenceBody
  split
  · rfl
  · split
    · split
      case h_1 i hi => exact memoryWf_releaseHold hi
      case h_2 => exact h
    · exact h

/-- A change of what stands in a cell's listed slots. -/
theorem State.memoryWf_mapCell_slots (s : State) (p : PkgId) (c : CellId) (f : Nat × Slot → Nat × Slot) :
    (s.mapCell p c fun t => { t with slots := t.slots.map f }).memoryWf = s.memoryWf := by simp

@[simp] theorem State.memoryWf_arrive (s : State) (p : PkgId) (c : CellId) (b : BitVec 9) (id : Nat) :
    (s.arrive p c b id).memoryWf = s.memoryWf := by
  unfold State.arrive
  dsimp only
  split <;> simp

theorem memoryWf_arrivalHold {c : Ctx} {i : Issue} (hi : c.arrivalHold = some i) : i.memoryWf = true := by
  unfold Ctx.arrivalHold at hi
  split at hi
  · cases hi; rfl
  · exact memoryWf_releaseHold hi

theorem memoryWf_ownBarrier {c : Ctx} {n : SReg} {body : BitVec 9 → Issue} (hb : ∀ b, (body b).memoryWf = true) :
    (ownBarrier c n body).memoryWf = true := by
  unfold ownBarrier
  split
  · exact hb _
  · rfl

theorem memoryWf_arriveOwn {c : Ctx} (h : c.s.memoryWf = true) (n : SReg) (b : BitVec 9) {after : State → Issue}
    (ha : ∀ s, s.memoryWf = true → (after s).memoryWf = true) : (arriveOwn c n b after).memoryWf = true := by
  unfold arriveOwn
  split
  case h_1 i hi => exact memoryWf_arrivalHold hi
  case h_2 =>
    split
    · rfl
    · exact ha _ (by simpa using h)

@[simp] theorem keepsMemory_execBarinit {s : State} (h : s.memoryWf = true) (n k : SReg) : keepsMemory (execBarinit n k s) = true :=
  keepsMemory_run h _ fun c hc => memoryWf_ownBarrier fun b => by
    dsimp only
    split
    · rfl
    · simpa using hc

@[simp] theorem keepsMemory_execBararr {s : State} (h : s.memoryWf = true) (n : SReg) : keepsMemory (execBararr n s) = true :=
  keepsMemory_run h _ fun c hc => by
    split
    · rfl
    · exact memoryWf_arriveOwn hc _ _ fun _ hs => hs
    · split
      · rfl
      · split
        case h_1 i hi => exact memoryWf_arrivalHold hi
        case h_2 => exact memoryWf_issueOp hc _ _ _

@[simp] theorem keepsMemory_execBarwait {s : State} (h : s.memoryWf = true) (n : SReg) : keepsMemory (execBarwait n s) = true :=
  keepsMemory_run h _ fun c hc => memoryWf_ownBarrier fun b => by split <;> exact hc

@[simp] theorem keepsMemory_execBararw {s : State} (h : s.memoryWf = true) (n : SReg) : keepsMemory (execBararw n s) = true :=
  keepsMemory_run h _ fun c hc => memoryWf_ownBarrier fun b => by
    dsimp only
    split
    · simpa using hc
    · split
      · exact hc
      · refine memoryWf_arriveOwn hc _ _ fun s hs => ?_
        split <;> simpa using hs

@[simp] theorem keepsMemory_execBarlead {s : State} (h : s.memoryWf = true) (d n : SReg) : keepsMemory (execBarlead d n s) = true :=
  keepsMemory_run h _ fun c hc => memoryWf_ownBarrier fun b => by
    dsimp only
    split <;> simpa using hc

@[simp] theorem keepsMemory_execBarq {s : State} (h : s.memoryWf = true) (d n : SReg) : keepsMemory (execBarq d n s) = true :=
  keepsMemory_run h _ fun c hc => by
    split
    · rfl
    · split
      · rfl
      · exact memoryWf_issueAlone hc _
      · split
        · rfl
        · exact memoryWf_issueOp hc _ _ _

@[simp] theorem State.memoryWf_wakeTimelines (s : State) (p : PkgId) : (s.wakeTimelines p).memoryWf = s.memoryWf :=
  State.memoryWf_mapPkg_eq s p fun k => by
    unfold Pkg.memoryWf Pkg.mapSlots
    simp only [List.all_map]
    rfl

@[simp] theorem keepsMemory_execTlwait {s : State} (h : s.memoryWf = true) (d v : SReg) (t : Timeline) :
    keepsMemory (execTlwait d v t s) = true :=
  keepsMemory_run h _ fun c hc => by
    split
    · simpa using hc
    · exact hc

@[simp] theorem keepsMemory_execTlget {s : State} (h : s.memoryWf = true) (d : SReg) (t : Timeline) :
    keepsMemory (execTlget d t s) = true :=
  keepsMemory_run h _ fun c hc => by split <;> exact memoryWf_issueAlone hc _

@[simp] theorem keepsMemory_execNunpack {s : State} (h : s.memoryWf = true) (d i : SReg) (n : BitVec 2) :
    keepsMemory (execNunpack d i n s) = true := keepsMemory_run h _ fun c hc => by simpa using hc

@[simp] theorem keepsMemory_execPark {s : State} (h : s.memoryWf = true) (d : SReg) : keepsMemory (execPark d s) = true :=
  keepsMemory_run h _ fun c hc => by split <;> simpa using hc

@[simp] theorem keepsMemory_execWake {s : State} (h : s.memoryWf = true) (r : SReg) : keepsMemory (execWake r s) = true :=
  keepsMemory_run h _ fun c hc => by
    split
    case h_1 i hi => exact memoryWf_arrivalHold hi
    case h_2 =>
      dsimp only
      split
      · rfl
      · split
        · simpa using hc
        · exact memoryWf_issueOp hc _ _ _

/-! ## Answers -/

@[simp] theorem State.memoryWf_mapGraph (s : State) (p : PkgId) (x : BitVec 6) (f : Graph → Graph) :
    (s.mapGraph p x f).memoryWf = s.memoryWf := by simp [State.mapGraph]
@[simp] theorem State.memoryWf_mapNode (s : State) (p : PkgId) (x : BitVec 6) (n : BitVec 12) (f : Node → Node) :
    (s.mapNode p x n f).memoryWf = s.memoryWf := by simp [State.mapNode]

@[simp] theorem State.memoryWf_choose {α : Type} (s : State) (l : List α) : (s.choose l).1.memoryWf = s.memoryWf := by
  unfold State.choose; split <;> rfl

@[simp] theorem memoryWf_writeAnswer (s : State) (g : GRef) (o : Op) : (writeAnswer s g o).memoryWf = s.memoryWf := by
  unfold writeAnswer; split <;> simp

@[simp] theorem State.memoryWf_unwait {s : State} (h : s.memoryWf = true) (g : GRef) (o : Op) : (s.unwait g o).memoryWf = true := by
  unfold State.unwait
  split
  · exact State.memoryWf_settle (by simpa using h) _ _
  · exact h

@[simp] theorem memoryWf_toReplay {s : State} (h : s.memoryWf = true) (g : GRef) (o : Op) (f : FaultInfo) :
    (toReplay s g o f).memoryWf = true := by
  unfold toReplay
  simpa using memoryWf_foldl (fun _ _ h => State.memoryWf_unwait h _ _) _ (State.memoryWf_unwait h g o)

@[simp] theorem memoryWf_takeLate (s : State) (g : GRef) : (takeLate s g).memoryWf = s.memoryWf := by
  unfold takeLate
  dsimp only
  split
  · split <;> simp
  · rfl

@[simp] theorem memoryWf_faultOp {s : State} (h : s.memoryWf = true) (g : GRef) (o : Op) (f : FaultInfo) :
    (faultOp s g o f).memoryWf = true := by
  have gone := State.memoryWf_unwait h g o
  have held := memoryWf_toReplay h g o f
  unfold faultOp
  dsimp only
  split
  · simpa using gone
  · split
    · simpa using gone
    · simpa using gone
    · exact held
    · exact held
    all_goals split <;> simp [gone, held]

@[simp] theorem memoryWf_answerOp {s : State} (h : s.memoryWf = true) (g : GRef) (o : Op) : (answerOp s g o).memoryWf = true := by
  unfold answerOp
  split
  · simpa using h
  · split
    · exact memoryWf_faultOp h _ _ _
    · simpa using h

@[simp] theorem memoryWf_acknowledge {s : State} (h : s.memoryWf = true) (g : GRef) (o : Op) : (acknowledge s g o).memoryWf = true := by
  unfold acknowledge
  split
  · simpa using h
  · split
    · simpa using h
    · split
      · simpa using h
      · exact memoryWf_faultOp h _ _ _

@[simp] theorem memoryWf_refusedNow (s : State) (g : GRef) (o : Op) (a : Word) (l : Loc) :
    (refusedNow s g o a l).1.memoryWf = s.memoryWf := by
  unfold refusedNow
  split
  · rfl
  · dsimp only
    split
    · split <;> rfl
    · rfl

@[simp] theorem memoryWf_refuseUnits (s : State) (g : GRef) (o : Op) (us : List Nat) (f : FaultInfo) :
    (refuseUnits s g o us f).memoryWf = s.memoryWf := by simp [refuseUnits]

@[simp] theorem memoryWf_arriveUnit {s : State} (h : s.memoryWf = true) (g : GRef) (o : Op) (j : Nat) :
    (arriveUnit s g o j).memoryWf = true := by
  unfold arriveUnit
  split
  · exact h
  · simpa using h
  · dsimp only
    split
    · simpa using h
    · exact memoryWf_performUnit (by simpa using h) _ _ _

@[simp] theorem memoryWf_setServing (s : State) (g : GRef) (id : Nat) (e : Elt) :
    (setServing s g id e).memoryWf = s.memoryWf := by simp [setServing]

@[simp] theorem keepsMemory_execMemoryEdgeRequest {s : State} (h : s.memoryWf = true) (g : GRef) (op : Nat) :
    keepsMemory (execMemoryEdgeRequest g op s) = true := by
  unfold execMemoryEdgeRequest
  rw [keepsMemory_occur]
  split
  · exact h
  case h_2 o ho =>
    have chosen := State.memoryWf_choose s (edgeUnits s g o)
    split
    case h_1 u j hu => rw [hu] at chosen; exact memoryWf_arriveUnit (chosen.trans h) _ _ _
    case h_2 => exact h

@[simp] theorem keepsMemory_execProducerValueWrite {s : State} (h : s.memoryWf = true) (g : GRef) (op : Nat) :
    keepsMemory (execProducerValueWrite g op s) = true := by
  unfold execProducerValueWrite
  rw [keepsMemory_occur]
  split
  · exact h
  · split
    · exact h
    · split
      · dsimp only
        split
        · exact memoryWf_answerOp (by simpa using h) _ _
        · simpa using h
      · exact memoryWf_answerOp h _ _

@[simp] theorem keepsMemory_execPostedAcknowledgement {s : State} (h : s.memoryWf = true) (g : GRef) (op : Nat) :
    keepsMemory (execPostedAcknowledgement g op s) = true := by
  unfold execPostedAcknowledgement
  rw [keepsMemory_occur]
  split
  · exact h
  · split
    · exact memoryWf_acknowledge h _ _
    · exact h

@[simp] theorem keepsMemory_execFewaitExpiry {s : State} (h : s.memoryWf = true) (g : GRef) :
    keepsMemory (execFewaitExpiry g s) = true := by
  unfold execFewaitExpiry
  rw [keepsMemory_occur]
  split
  · split <;> simpa using h
  · exact h

@[simp] theorem keepsMemory_execCancelAnswer {s : State} (h : s.memoryWf = true) (g : GRef) :
    keepsMemory (execCancelAnswer g s) = true := by
  unfold execCancelAnswer
  rw [keepsMemory_occur]
  split
  · split
    · split
      · simpa using h
      · exact memoryWf_faultOp h _ _ _
    · exact h
  · exact h

@[simp] theorem keepsMemory_execBarrierArrival {s : State} (h : s.memoryWf = true) (g : GRef) (op : Nat) :
    keepsMemory (execBarrierArrival g op s) = true := by
  unfold execBarrierArrival
  rw [keepsMemory_occur]
  split
  · exact h
  · split
    · split
      · dsimp only
        split <;> simpa using h
      · exact h
    · exact h

@[simp] theorem keepsMemory_execWakeArrival {s : State} (h : s.memoryWf = true) (g : GRef) (op : Nat) :
    keepsMemory (execWakeArrival g op s) = true := by
  unfold execWakeArrival
  rw [keepsMemory_occur]
  split
  · exact h
  · split
    · split
      · dsimp only
        split <;> simpa using h
      · exact h
    · exact h

@[simp] theorem keepsMemory_execWaitqSatisfied {s : State} (h : s.memoryWf = true) (g : GRef) :
    keepsMemory (execWaitqSatisfied g s) = true := by
  unfold execWaitqSatisfied
  rw [keepsMemory_occur]
  split <;> simpa using h

@[simp] theorem keepsMemory_execInstructionCacheRefill {s : State} (h : s.memoryWf = true) (g : GRef) :
    keepsMemory (execInstructionCacheRefill g s) = true := by
  unfold execInstructionCacheRefill
  rw [keepsMemory_occur]
  split
  · split
    · exact h
    · split
      · simpa using h
      · simpa using memoryWf_refillClause h _ _ _
  · exact h

@[simp] theorem keepsMemory_execIcinvComplete {s : State} (h : s.memoryWf = true) (g : GRef) :
    keepsMemory (execIcinvComplete g s) = true := by
  unfold execIcinvComplete
  rw [keepsMemory_occur]
  split <;> simpa using h

@[simp] theorem keepsMemory_execIllegalEncoding {s : State} (h : s.memoryWf = true) (clause : Bool) :
    keepsMemory (execIllegalEncoding clause s) = true := by
  unfold execIllegalEncoding
  split
  · simpa using h
  · rfl

end Sys2Proof.Machine

/-! The canonical form of memory through control transfer, special registers and channels. -/

namespace Sys2Proof.Machine

theorem State.memoryWf_ite {c : Prop} [Decidable c] {s t : State} (hs : s.memoryWf = true) (ht : t.memoryWf = true) :
    (if c then s else t).memoryWf = true := by split <;> assumption

/-! ## Control transfer -/

theorem memoryWf_transfer {c : Ctx} (h : c.s.memoryWf = true) (target : Word) (pops : Bool) (link : Option SReg) :
    (transfer c target pops link).memoryWf = true := by
  have look := (memoryWf_checkTarget c.s c.g target).trans h
  unfold transfer
  dsimp only
  split
  case h_1 u hu => rw [hu] at look; exact look
  case h_2 => rfl
  case h_3 u w hu =>
    rw [hu] at look
    cases link <;> cases pops <;> simpa using look

theorem memoryWf_linkOnly {c : Ctx} (h : c.s.memoryWf = true) (link : Option SReg) : (linkOnly c link).memoryWf = true := by
  cases link <;> simpa [linkOnly] using h

/-- A branch either only links, as in a subscriber, or transfers control. -/
theorem keepsMemory_branch {s : State} (h : s.memoryWf = true) (o : Opnds) {target : Ctx → Word} {pops : Bool}
    {link : Option SReg} :
    keepsMemory (run s o fun c => if c.sub then linkOnly c link else transfer c (target c) pops link) = true :=
  keepsMemory_run h o fun c hc => by
    split
    · exact memoryWf_linkOnly hc _
    · exact memoryWf_transfer hc _ _ _

@[simp] theorem keepsMemory_execBr {s : State} (h : s.memoryWf = true) (i : BitVec 19) : keepsMemory (execBr i s) = true :=
  keepsMemory_branch h _

@[simp] theorem keepsMemory_execBc {s : State} (h : s.memoryWf = true) (k : Cond) (a : SReg) (i : BitVec 12) :
    keepsMemory (execBc k a i s) = true :=
  keepsMemory_run h _ fun c hc => by
    split
    · exact memoryWf_linkOnly hc _
    · split
      · exact memoryWf_transfer hc _ _ _
      · exact hc

@[simp] theorem keepsMemory_execJr {s : State} (h : s.memoryWf = true) (a : SReg) : keepsMemory (execJr a s) = true :=
  keepsMemory_branch h _

@[simp] theorem keepsMemory_execJalr {s : State} (h : s.memoryWf = true) (d a : SReg) : keepsMemory (execJalr d a s) = true :=
  keepsMemory_branch h _

@[simp] theorem keepsMemory_execBal {s : State} (h : s.memoryWf = true) (d : SReg) (i : BitVec 19) :
    keepsMemory (execBal d i s) = true := keepsMemory_branch h _

theorem memoryWf_loopBody {c : Ctx} (h : c.s.memoryWf = true) (n : Word) (i : BitVec 12) :
    (loopBody c n i).memoryWf = true := by
  have last := (memoryWf_checkTarget c.s c.g (offsetBy c.slot.head i)).trans h
  have next (u : State) (hu : u.memoryWf = true) (a : Word) : (checkTarget u c.g a).1.memoryWf = true :=
    (memoryWf_checkTarget u c.g a).trans hu
  unfold loopBody
  dsimp only
  split
  · rfl
  · split
    case h_1 u hu => rw [hu] at last; exact last
    case h_2 => rfl
    case h_3 u w hu =>
      rw [hu] at last
      split
      · have after := next u last (offsetBy c.slot.head i + BitVec.ofNat 64 (4 * (1 + fld w 0 4)))
        split
        case h_1 v hv => rw [hv] at after; exact after
        case h_2 => rfl
        case h_3 v _ hv => rw [hv] at after; simpa using after
      · have after := next u last c.slot.nextClause
        split
        · rfl
        · split
          case h_1 v hv => rw [hv] at after; exact after
          case h_2 => rfl
          case h_3 v _ hv => rw [hv] at after; simpa using after

@[simp] theorem keepsMemory_execLoop {s : State} (h : s.memoryWf = true) (a : SReg) (i : BitVec 12) :
    keepsMemory (execLoop a i s) = true :=
  keepsMemory_run h _ fun c hc => by
    split
    · exact memoryWf_linkOnly hc _
    · exact memoryWf_loopBody hc _ _

@[simp] theorem keepsMemory_execTake {s : State} (h : s.memoryWf = true) (ta tb : Bool) : keepsMemory (execTake ta tb s) = true := by
  unfold execTake
  split
  · simpa using h
  · rfl

/-! ## Special registers and the system instructions -/

@[simp] theorem keepsMemory_execRegmode {s : State} (h : s.memoryWf = true) (r : BitVec 7) (l v m : Bool) :
    keepsMemory (execRegmode r l v m s) = true := keepsMemory_run h _ fun c hc => by simpa using hc

@[simp] theorem keepsMemory_execGetsr {s : State} (h : s.memoryWf = true) (d : SReg) (n : SpecReg) :
    keepsMemory (execGetsr d n s) = true := keepsMemory_run h _ fun c hc => by simpa using hc

@[simp] theorem keepsMemory_execSetsr {s : State} (h : s.memoryWf = true) (a : SReg) (n : SpecReg) :
    keepsMemory (execSetsr a n s) = true := keepsMemory_run h _ fun c hc => by simpa using hc

@[simp] theorem keepsMemory_execTrap {s : State} (h : s.memoryWf = true) (a : SReg) (k : BitVec 7) :
    keepsMemory (execTrap a k s) = true := keepsMemory_run h _ fun _ _ => rfl

@[simp] theorem keepsMemory_execBrkpt {s : State} (h : s.memoryWf = true) (k : BitVec 7) : keepsMemory (execBrkpt k s) = true :=
  keepsMemory_run h _ fun _ _ => rfl

@[simp] theorem keepsMemory_execLocality {s : State} (h : s.memoryWf = true) (d a : SReg) : keepsMemory (execLocality d a s) = true :=
  keepsMemory_run h _ fun c hc => by simpa using hc

@[simp] theorem keepsMemory_execIcinv {s : State} (h : s.memoryWf = true) : keepsMemory (execIcinv s) = true :=
  keepsMemory_run h _ fun c hc => by
    split
    · rfl
    · cases hi : c.slot.toReport false RefusedOp.beforeIcinv with
      | some i => exact memoryWf_toReport hi
      | none => simpa using hc

@[simp] theorem keepsMemory_execNop {s : State} (h : s.memoryWf = true) : keepsMemory (execNop s) = true :=
  keepsMemory_run h _ fun _ hc => hc

@[simp] theorem keepsMemory_execIdle {s : State} (h : s.memoryWf = true) (a : SReg) : keepsMemory (execIdle a s) = true :=
  keepsMemory_run h _ fun c hc => by
    split
    · exact hc
    · dsimp only [Issue.memoryWf_done]
      split <;> simpa using hc

/-! ## Channels: the instructions -/

@[simp] theorem memoryWf_chanTrap (n : Nat) : (chanTrap n).memoryWf = true := rfl

@[simp] theorem keepsMemory_execPublish {s : State} (h : s.memoryWf = true) (a : SReg) : keepsMemory (execPublish a s) = true :=
  keepsMemory_run h _ fun c hc => by
    split
    · rfl
    · split
      · rfl
      · simpa using hc

@[simp] theorem State.memoryWf_setPublisher (s : State) (p : PkgId) (c : BitVec 12) (w : Option GRef) :
    (s.setPublisher p c w).memoryWf = s.memoryWf := by simp [State.setPublisher]

@[simp] theorem keepsMemory_execChannelRegistry {s : State} (h : s.memoryWf = true) (g : GRef) :
    keepsMemory (execChannelRegistry g s) = true := by
  unfold execChannelRegistry
  rw [keepsMemory_occur]
  split
  · exact h
  · dsimp only
    split
    · exact h
    · split <;> simpa using h

@[simp] theorem keepsMemory_execUnpublish {s : State} (h : s.memoryWf = true) : keepsMemory (execUnpublish s) = true :=
  keepsMemory_run h _ fun c hc => by
    split
    · rfl
    · simpa using hc

@[simp] theorem keepsMemory_execSubscribe {s : State} (h : s.memoryWf = true) (a : SReg) : keepsMemory (execSubscribe a s) = true :=
  keepsMemory_run h _ fun c hc => by
    split
    · rfl
    · split
      · rfl
      · simpa using hc

@[simp] theorem keepsMemory_execRejoin {s : State} (h : s.memoryWf = true) (a : SReg) : keepsMemory (execRejoin a s) = true :=
  keepsMemory_run h _ fun c hc => by
    dsimp only
    split
    · rfl
    · split
      · rfl
      · simpa using hc

@[simp] theorem keepsMemory_execDepart {s : State} (h : s.memoryWf = true) (k : Cond) (a : SReg) (i : BitVec 7) :
    keepsMemory (execDepart k a i s) = true :=
  keepsMemory_run h _ fun c hc => by
    have look := (memoryWf_checkTarget c.s c.g (offsetBy c.slot.head i)).trans hc
    dsimp only
    split
    · split
      case h_1 u hu => rw [hu] at look; exact look
      case h_2 => rfl
      case h_3 u _ hu => rw [hu] at look; simpa using look
    · exact hc

@[simp] theorem keepsMemory_execChstat {s : State} (h : s.memoryWf = true) (d a : SReg) : keepsMemory (execChstat d a s) = true :=
  keepsMemory_run h _ fun c hc => by
    split
    · rfl
    · exact memoryWf_issueAlone hc _

/-! ## Channels: what reaches a subscriber, and stops -/

@[simp] theorem State.memoryWf_withdraw (s : State) (g : GRef) (id : Nat) : (s.withdraw g id).memoryWf = s.memoryWf := by
  simp [State.withdraw]

@[simp] theorem memoryWf_abandonWait {s : State} (h : s.memoryWf = true) (g : GRef) : (abandonWait s g).memoryWf = true := by
  have given (o : Op) : (s.unwait g o).memoryWf = true := State.memoryWf_unwait h g o
  unfold abandonWait
  dsimp only
  split
  case h_3 => simpa using h
  case h_4 => exact h
  all_goals
    split
    · split
      · exact memoryWf_answerOp h _ _
      · simpa using given _
    · simpa using h

@[simp] theorem memoryWf_stopNow {s : State} (h : s.memoryWf = true) (g : GRef) (f : FaultInfo) : (stopNow s g f).memoryWf = true := by
  unfold stopNow
  dsimp only
  split <;> simp [h]

@[simp] theorem memoryWf_settleStop {s : State} (h : s.memoryWf = true) (g : GRef) : (settleStop s g).memoryWf = true := by
  unfold settleStop
  split
  · split
    · exact h
    · exact memoryWf_stopNow h _ _
  · exact h

@[simp] theorem memoryWf_stopLater {s : State} (h : s.memoryWf = true) (g : GRef) (f : FaultInfo) : (stopLater s g f).memoryWf = true := by
  unfold stopLater
  dsimp only
  split
  · exact memoryWf_settleStop (by simpa using h) _
  · simpa using h

@[simp] theorem State.memoryWf_takeItem (s : State) (g : GRef) : (s.takeItem g).memoryWf = s.memoryWf := by
  simp [State.takeItem]

@[simp] theorem memoryWf_receive {s : State} (h : s.memoryWf = true) (g : GRef) (e : Published) (c : BitVec 12) :
    (receive s g e c).memoryWf = true := by
  obtain ⟨_, _, item⟩ := e
  cases item with
  | endMark | stop => exact h
  | instr =>
    refine State.memoryWf_ite (by simpa using h) (State.memoryWf_ite (State.memoryWf_ite ?_ ?_) h)
    · exact memoryWf_stopLater h _ _
    · simpa using h

@[simp] theorem keepsMemory_execPublishedInstruction {s : State} (h : s.memoryWf = true) (g : GRef) :
    keepsMemory (execPublishedInstruction g s) = true := by
  unfold execPublishedInstruction
  rw [keepsMemory_occur]
  split
  · split
    · exact memoryWf_receive (by simpa using h) _ _ _
    · exact h
  · exact h

@[simp] theorem keepsMemory_execEndMark {s : State} (h : s.memoryWf = true) (g : GRef) : keepsMemory (execEndMark g s) = true := by
  unfold execEndMark
  rw [keepsMemory_occur]
  split
  · split
    · simpa using h
    · exact h
  · exact h

@[simp] theorem keepsMemory_execChannelStop {s : State} (h : s.memoryWf = true) (g : GRef) :
    keepsMemory (execChannelStop g s) = true := by
  unfold execChannelStop
  rw [keepsMemory_occur]
  split
  · split
    · dsimp only
      split
      · simpa using h
      · split
        · exact memoryWf_stopLater (by simpa using h) _ _
        · simpa using h
    · exact h
  · exact h

@[simp] theorem keepsMemory_execJoinWaitExpiry {s : State} (h : s.memoryWf = true) (g : GRef) :
    keepsMemory (execJoinWaitExpiry g s) = true := by
  unfold execJoinWaitExpiry
  rw [keepsMemory_occur]
  dsimp only
  split
  · split
    · split <;> simpa using h
    · exact h
  · exact h

end Sys2Proof.Machine

/-! The canonical form of memory through the hub's accesses, records, placement, and the start and end of a slot. -/

namespace Sys2Proof.Machine

/-! ## Accesses of the hub -/

@[simp] theorem memoryWf_reportFault (s : State) (p : PkgId) (pid : BitVec 16) (f : FaultInfo) :
    (reportFault s p pid f).memoryWf = s.memoryWf := by simp [reportFault]

@[simp] theorem memoryWf_refuseWrite (s : State) (p : PkgId) (w : HubWrite) (f : FaultInfo) :
    (refuseWrite s p w f).memoryWf = s.memoryWf := by
  unfold refuseWrite
  split <;> simp [Pkg.lostWrite]

@[simp] theorem memoryWf_placeWrite {s : State} (h : s.memoryWf = true) (p : PkgId) (w : HubWrite) :
    (placeWrite s p w).memoryWf = true := by
  unfold placeWrite
  split
  · simpa using h
  · have poisoned : (if w.poison then (s.storeBytes w.loc w.addr w.bytes w.issuer).poisonPlace w.loc
        else s.storeBytes w.loc w.addr w.bytes w.issuer).memoryWf = true := State.memoryWf_ite (by simp [h]) (by simp [h])
    dsimp only
    split
    · exact State.memoryWf_settle poisoned _ _
    · exact poisoned

@[simp] theorem memoryWf_issueStore (i : Issuer) {s : State} (h : s.memoryWf = true) (p : PkgId) (l : Loc) (a : Word)
    (bs : List Byte) (poison : Bool) : (issueStore i s p l a bs poison).memoryWf = true := by
  have mended := State.memoryWf_mendPlace h l
  exact State.memoryWf_ite (memoryWf_placeWrite mended _ _) (by simpa using mended)

@[simp] theorem memoryWf_hubStore {s : State} (h : s.memoryWf = true) (p : PkgId) (l : Loc) (a : Word) (bs : List Byte) :
    (hubStore s p l a bs).memoryWf = true := memoryWf_issueStore _ h _ _ _ _ _

@[simp] theorem memoryWf_signalSuper (s : State) (p : PkgId) (x : BitVec 3 × Nat) :
    (signalSuper s p x).memoryWf = s.memoryWf := by
  unfold signalSuper
  split
  · split <;> simp
  · simp

@[simp] theorem memoryWf_hubSignal (s : State) (p : PkgId) (x : BitVec 3 × Nat) :
    (hubSignal s p x).memoryWf = s.memoryWf := by
  unfold hubSignal
  split <;> simp

@[simp] theorem memoryWf_hubWrite {s : State} (h : s.memoryWf = true) (p : PkgId) (pid : BitVec 16) (a : Word) (bs : List Byte) :
    (hubWrite s p pid a bs).1.memoryWf = true := by
  have found := memoryWf_resolve h p hubCell pid a bs.length .strWrite
  unfold hubWrite
  dsimp only
  split
  · split
    · exact found
    · exact memoryWf_hubStore found _ _ _ _
  · exact found

@[simp] theorem memoryWf_hubWrites (p : PkgId) (pid : BitVec 16) {s : State} (h : s.memoryWf = true) (a : Word)
    (l : List (List Byte)) : (hubWrites p pid s a l).1.memoryWf = true := by
  induction l generalizing s a with
  | nil => exact h
  | cons w l ih =>
    have first := memoryWf_hubWrite h p pid a w
    unfold hubWrites
    split
    case h_1 hu => rw [hu] at first; exact first
    case h_2 hu => rw [hu] at first; exact ih first _

@[simp] theorem memoryWf_placeRead {s : State} (h : s.memoryWf = true) (p : PkgId) (a : Word) (l : Loc) (n : Nat) :
    (placeRead s p a l n).1.memoryWf = true := by
  have mended := State.memoryWf_mendPlace h l
  unfold placeRead
  dsimp only
  split
  · exact mended
  · split <;> exact mended

@[simp] theorem memoryWf_hubRead {s : State} (h : s.memoryWf = true) (p : PkgId) (pid : BitVec 16) (a : Word) (n : Nat) :
    (hubRead s p pid a n).1.memoryWf = true := by
  have found := memoryWf_resolve h p hubCell pid a n .strRead
  unfold hubRead
  dsimp only
  split
  · exact memoryWf_placeRead found _ _ _ _
  · exact found

@[simp] theorem memoryWf_hubReads (p : PkgId) (pid : BitVec 16) (n : Nat) {s : State} (h : s.memoryWf = true) (a : Word) :
    (hubReads p pid n s a).1.memoryWf = true := by
  induction n generalizing s a with
  | zero => exact h
  | succ n ih =>
    have first := memoryWf_hubRead h p pid a 8
    unfold hubReads
    split
    case h_1 hu => rw [hu] at first; exact first
    case h_2 hu => rw [hu] at first; exact ih first _

/-! ## Records and placement -/

@[simp] theorem memoryWf_writeHeader {s : State} (h : s.memoryWf = true) (p : PkgId) (x : BitVec 6) (n : BitVec 12) (r : QRec) :
    (writeHeader s p x n r).memoryWf = true := by
  unfold writeHeader
  split <;> simp [h]

@[simp] theorem memoryWf_writeHeaders {s : State} (h : s.memoryWf = true) (p : PkgId) (x : BitVec 6) (n : BitVec 12)
    (rs : List QRec) : (writeHeaders s p x n rs).memoryWf = true :=
  memoryWf_foldl (fun _ _ h => memoryWf_writeHeader h _ _ _ _) _ h

@[simp] theorem memoryWf_allocate {s : State} (h : s.memoryWf = true) (p : PkgId) (x : BitVec 6) (n : BitVec 12) (k : Nat)
    (like : QRec) : (allocate s p x n k like).memoryWf = true := by
  unfold allocate
  split <;> simp [h]

@[simp] theorem memoryWf_changeRecords {s : State} (h : s.memoryWf = true) (p : PkgId) (x : BitVec 6) (n : BitVec 12)
    (pick : QRec → Bool) (f : QRec → QRec) : (changeRecords s p x n pick f).memoryWf = true := by
  unfold changeRecords
  split <;> simp [h]

@[simp] theorem State.memoryWf_mapPart (s : State) (p : PkgId) (q : BitVec 3) (f : Part → Part) :
    (s.mapPart p q f).memoryWf = s.memoryWf := by simp [State.mapPart]

@[simp] theorem memoryWf_startPlacement (s : State) (p : PkgId) (q : BitVec 3) (retry : Bool) :
    (startPlacement s p q retry).memoryWf = s.memoryWf := by
  unfold startPlacement
  dsimp only
  split
  · rfl
  · split
    · rfl
    · split <;> simp

@[simp] theorem memoryWf_abortPlacement (s : State) (p : PkgId) (q : BitVec 3) (failed : Bool) :
    (abortPlacement s p q failed).memoryWf = s.memoryWf := by
  unfold abortPlacement
  split <;> simp

@[simp] theorem memoryWf_requestReady (s : State) (p : PkgId) (x : BitVec 6) (n : BitVec 12) :
    (requestReady s p x n).memoryWf = s.memoryWf := by
  unfold requestReady
  dsimp only
  split
  · rfl
  · rw [memoryWf_startPlacement]
    split
    · split
      · split <;> simp
      · rfl
    · rfl

@[simp] theorem memoryWf_answerRecord {s : State} (h : s.memoryWf = true) (g : GRef) (id : Nat) (got : List (Nat × Word))
    (f : Option FaultInfo) : (answerRecord s g id got f).memoryWf = true := by
  unfold answerRecord
  simp [h]

@[simp] theorem memoryWf_serveAlloc {s : State} (h : s.memoryWf = true) (p : PkgId) (x : BitVec 6) (n : BitVec 12) (d : Node)
    (free : Nat) (g : GRef) (o : Op) : (serveAlloc s p x n d free g o).memoryWf = true := by
  unfold serveAlloc
  exact memoryWf_answerRecord (memoryWf_allocate h _ _ _ _ _) _ _ _ _

@[simp] theorem memoryWf_serveWaiters (k : Nat) {s : State} (h : s.memoryWf = true) (p : PkgId) (x : BitVec 6) (n : BitVec 12) :
    (serveWaiters k s p x n).memoryWf = true := by
  induction k generalizing s with
  | zero => exact h
  | succ k ih =>
    unfold serveWaiters
    split
    · exact h
    · split
      · exact h
      · split
        · exact ih (by simpa using h)
        · split
          · exact ih (by simp [h])
          · exact h

@[simp] theorem memoryWf_updateNode (s : State) (p : PkgId) (x : BitVec 6) (n : BitVec 12) :
    (updateNode s p x n).memoryWf = s.memoryWf := by
  unfold updateNode
  dsimp only
  split
  · rfl
  · split <;> simp

@[simp] theorem memoryWf_updateNodes (s : State) (p : PkgId) (x : BitVec 6) : (updateNodes s p x).memoryWf = s.memoryWf :=
  memoryWf_foldl_eq (fun _ _ => memoryWf_updateNode _ _ _ _) _ s

@[simp] theorem memoryWf_bodyWritten (s : State) (p : PkgId) (x : BitVec 6) (n : BitVec 12) (seq : BitVec 32) :
    (bodyWritten s p x n seq).memoryWf = s.memoryWf := by simp [bodyWritten]

@[simp] theorem memoryWf_drainHub {s : State} (h : s.memoryWf = true) (p : PkgId) : (drainHub s p).memoryWf = true := by
  unfold drainHub
  split
  · exact h
  · split
    · exact h
    · dsimp only
      split <;> simp [h]

/-! ## Operations of slots at the Shawm -/

@[simp] theorem memoryWf_shawmAlloc {s : State} (h : s.memoryWf = true) (g : GRef) (o : Op) (x : BitVec 6) (n : BitVec 12)
    (trap wait : Bool) : (shawmAlloc s g o x n trap wait).memoryWf = true := by
  unfold shawmAlloc
  dsimp only
  split
  · simp [h]
  · split
    · split <;> simp [h]
    · split
      · split
        · simp [h]
        · split <;> simp [h]
      · simp [h]

@[simp] theorem memoryWf_shawmCommit {s : State} (h : s.memoryWf = true) (g : GRef) (o : Op) (x : BitVec 6) (n : BitVec 12)
    (void : Bool) : (shawmCommit s g o x n void).memoryWf = true := by
  unfold shawmCommit
  split
  · simp [h]
  · dsimp only
    split <;> simp [h]

@[simp] theorem memoryWf_retireRecords {s : State} (h : s.memoryWf = true) (p : PkgId) (m : Member) (seqs : List (BitVec 32)) :
    (retireRecords s p m seqs).memoryWf = true := by simp [retireRecords, h]

@[simp] theorem memoryWf_shawmDone {s : State} (h : s.memoryWf = true) (g : GRef) (o : Op) : (shawmDone s g o).memoryWf = true := by
  unfold shawmDone
  dsimp only
  split <;> simp [h]

@[simp] theorem keepsMemory_execShawmRecordOperation {s : State} (h : s.memoryWf = true) (g : GRef) (op : Nat) :
    keepsMemory (execShawmRecordOperation g op s) = true := by
  unfold execShawmRecordOperation
  rw [keepsMemory_occur]
  split
  · exact h
  case h_2 o _ =>
    split
    · exact h
    · generalize o.act = a
      cases a with
      | record r => cases r <;> simp [h]
      | _ => exact h

@[simp] theorem keepsMemory_execRallocwServed {s : State} (h : s.memoryWf = true) (g : GRef) :
    keepsMemory (execRallocwServed g s) = true := by
  unfold execRallocwServed
  rw [keepsMemory_occur]
  split
  · split <;> simp [h]
  · exact h

@[simp] theorem keepsMemory_execRallocwWaitExpiry {s : State} (h : s.memoryWf = true) (g : GRef) :
    keepsMemory (execRallocwWaitExpiry g s) = true := by
  unfold execRallocwWaitExpiry
  rw [keepsMemory_occur]
  dsimp only
  split
  · split <;> simp [h]
  · exact h

@[simp] theorem keepsMemory_execCoalescingTimer {s : State} (h : s.memoryWf = true) (p : PkgId) (x : BitVec 6) (n : BitVec 12) :
    keepsMemory (execCoalescingTimer p x n s) = true := by simpa [execCoalescingTimer] using h

/-! ## The start and the end of a slot -/

@[simp] theorem memoryWf_startSlot (s : State) (g : GRef) (base : BitVec 11) (lim : BitVec 8) (f : Slot → Slot) :
    (startSlot s g base lim f).memoryWf = s.memoryWf := by simp [startSlot, Cell.clearWindow]

@[simp] theorem memoryWf_sendFlight {s : State} (h : s.memoryWf = true) (g : GRef) (id : Nat) (f : StreamFlight) :
    (sendFlight s g id f).memoryWf = true := by
  have sent (us : List OpUnit) : (us.foldl (fun s u => (storeElts s (.slot g f.colour) u.elts).settle g.pkg g.cell) s).memoryWf = true :=
    memoryWf_foldl (fun _ _ h => by simp [h]) us h
  unfold sendFlight
  dsimp only
  split
  · exact sent _
  · simpa using sent _

@[simp] theorem memoryWf_sendRest {s : State} (h : s.memoryWf = true) (g : GRef) (q : Stream) : (sendRest s g q).memoryWf = true :=
  memoryWf_foldl (fun _ _ h => memoryWf_sendFlight h _ _ _) _ h

@[simp] theorem memoryWf_sendElements {s : State} (h : s.memoryWf = true) (g : GRef) : (sendElements s g).memoryWf = true :=
  memoryWf_foldl (fun _ _ h => State.memoryWf_ite (memoryWf_sendRest h _ _) h) _ h

@[simp] theorem memoryWf_voidRecords {s : State} (h : s.memoryWf = true) (g : GRef) : (voidRecords s g).memoryWf = true :=
  memoryWf_foldl (fun _ _ h => memoryWf_foldl (fun _ _ h => by simp [h]) _ h) _ h

@[simp] theorem memoryWf_freeGroupChans (s : State) (p : PkgId) (x : BitVec 6) : (freeGroupChans s p x).memoryWf = s.memoryWf :=
  memoryWf_foldl_eq (fun _ _ => by dsimp only; split <;> simp) _ s

@[simp] theorem State.memoryWf_orphanDeltas (s : State) (pick : Issuer → Bool) :
    (s.orphanDeltas pick).memoryWf = s.memoryWf := by
  unfold State.orphanDeltas State.memoryWf
  simp only [List.all_map]
  rfl

@[simp] theorem memoryWf_exitSlot {s : State} (h : s.memoryWf = true) (g : GRef) : (exitSlot s g).memoryWf = true := by
  have sent : (voidRecords ((sendElements s g).mapCell g.pkg g.cell fun c => c.freeStreams g.slot) g).memoryWf = true := by
    simp [h, Cell.freeStreams]
  have retired (m : Member) : (if m.twin then voidRecords ((sendElements s g).mapCell g.pkg g.cell fun c => c.freeStreams g.slot) g
      else retireRecords (voidRecords ((sendElements s g).mapCell g.pkg g.cell fun c => c.freeStreams g.slot) g) g.pkg m
        m.recs).memoryWf = true := State.memoryWf_ite sent (memoryWf_retireRecords sent _ _ _)
  unfold exitSlot
  dsimp only
  split
  · split <;> simp [retired]
  · split <;> simp [sent]

@[simp] theorem memoryWf_settleKill {s : State} (h : s.memoryWf = true) (g : GRef) : (settleKill s g).memoryWf = true := by
  unfold settleKill
  split <;> simp [h]

@[simp] theorem memoryWf_killSlot {s : State} (h : s.memoryWf = true) (g : GRef) (by_ : Option Asker) :
    (killSlot s g by_).memoryWf = true := by
  unfold killSlot
  dsimp only
  split
  · exact h
  · refine memoryWf_settleKill ?_ g
    split
    case h_3 => simpa using h
    all_goals
      split
      · split <;> simp [h]
      · simpa using h

@[simp] theorem memoryWf_killSlots {s : State} (h : s.memoryWf = true) (gs : List GRef) : (killSlots s gs).memoryWf = true :=
  memoryWf_foldl (fun _ _ h => State.memoryWf_ite h (memoryWf_killSlot h _ _)) _ h

@[simp] theorem memoryWf_reclaimSlot (s : State) (g : GRef) : (reclaimSlot s g).memoryWf = s.memoryWf := by simp [reclaimSlot]

/-! ## Placement events -/

@[simp] theorem keepsMemory_execPlacementReservation {s : State} (h : s.memoryWf = true) (p : PkgId) (q : BitVec 3) :
    keepsMemory (execPlacementReservation p q s) = true := by
  unfold execPlacementReservation
  rw [keepsMemory_occur]
  dsimp only
  split
  · exact h
  · split
    · exact h
    · split
      · exact h
      · split <;> simp [h]

@[simp] theorem keepsMemory_execPlacementRetry {s : State} (h : s.memoryWf = true) (p : PkgId) (q : BitVec 3) :
    keepsMemory (execPlacementRetry p q s) = true := by
  unfold execPlacementRetry
  rw [keepsMemory_occur]
  split
  · exact h
  · dsimp only
    split <;> simp [h]

@[simp] theorem memoryWf_startGroupSlot (s : State) (pl : Placement) (x : Graph) (d : Node) (recs : List QRec) (launch i : Nat)
    (e : GRef × BitVec 11 × BitVec 8) : (startGroupSlot s pl x d recs launch i e).memoryWf = s.memoryWf := by
  unfold startGroupSlot
  dsimp only
  split <;> simp

@[simp] theorem keepsMemory_execGroupCommit {s : State} (h : s.memoryWf = true) (p : PkgId) (q : BitVec 3) :
    keepsMemory (execGroupCommit p q s) = true := by
  unfold execGroupCommit
  rw [keepsMemory_occur]
  dsimp only
  split
  · exact h
  · split
    · exact h
    · split
      · exact h
      · simp only [memoryWf_startPlacement, memoryWf_updateNode, State.memoryWf_mapPart, State.memoryWf_mapNode,
          State.memoryWf_mapGraph, State.memoryWf_mapPkg_frame, implies_true]
        rw [memoryWf_foldl_eq fun _ _ => memoryWf_startGroupSlot _ _ _ _ _ _ _ _]
        exact memoryWf_changeRecords h _ _ _ _ _

@[simp] theorem keepsMemory_execGroupSlotReturn {s : State} (h : s.memoryWf = true) (g : GRef) :
    keepsMemory (execGroupSlotReturn g s) = true := by
  unfold execGroupSlotReturn
  rw [keepsMemory_occur]
  dsimp only
  split <;> simp [h]

@[simp] theorem keepsMemory_execGroupEnd {s : State} (h : s.memoryWf = true) (p : PkgId) (x : BitVec 6) (launch : Nat) :
    keepsMemory (execGroupEnd p x launch s) = true := by
  unfold execGroupEnd
  rw [keepsMemory_occur]
  dsimp only
  split
  · exact h
  · split
    · exact h
    · split <;> simp [h]

end Sys2Proof.Machine

/-! The canonical form of memory through record instructions, vector accesses and streams. -/

namespace Sys2Proof.Machine

/-! ## Record instructions -/

@[simp] theorem keepsMemory_execRalloc {s : State} (h : s.memoryWf = true) (d : VRegNo) (n : SReg) (t : Bool) :
    keepsMemory (execRalloc d n t s) = true :=
  keepsMemory_run h _ fun c hc => by
    split
    · exact hc
    · exact memoryWf_issueOp hc _ _ _

@[simp] theorem keepsMemory_execRallocw {s : State} (h : s.memoryWf = true) (d : VRegNo) (n : SReg) (t : Bool) :
    keepsMemory (execRallocw d n t s) = true :=
  keepsMemory_run h _ fun c hc => by
    split
    · exact hc
    · have issued := memoryWf_issueOp hc (allocOp c d n t true) [c.sreg n] (allocOp c d n t true).recordBytes
      dsimp only
      split
      case h_1 u hu => rw [hu] at issued; exact issued
      case h_2 => exact issued

/-- What an engine is asked for is an issue, after which the slot waits for it. -/
theorem memoryWf_engaged (i : Issue) :
    i.memoryWf = true → Issue.memoryWf (match i with | .done s => .engage s | i => i) = true := by
  cases i <;> exact id

@[simp] theorem keepsMemory_execRcommit {s : State} (h : s.memoryWf = true) (d : VRegNo) (n : SReg) (v : Bool) :
    keepsMemory (execRcommit d n v s) = true :=
  keepsMemory_run h _ fun c hc => by
    split
    case h_1 i hi => exact memoryWf_releaseHold hi
    case h_2 =>
      split
      · exact hc
      · exact memoryWf_engaged _ (memoryWf_issueOp hc _ _ _)

@[simp] theorem keepsMemory_execRdone {s : State} (h : s.memoryWf = true) : keepsMemory (execRdone s) = true :=
  keepsMemory_run h _ fun c hc => by
    split
    · rfl
    · split
      case h_1 i hi => exact memoryWf_releaseHold hi
      case h_2 =>
        split
        · exact hc
        · exact memoryWf_engaged _ (memoryWf_issueOp hc _ _ _)

@[simp] theorem keepsMemory_execRdepth {s : State} (h : s.memoryWf = true) (d n : SReg) : keepsMemory (execRdepth d n s) = true :=
  keepsMemory_run h _ fun c hc => by simpa using hc

@[simp] theorem keepsMemory_execRinfo {s : State} (h : s.memoryWf = true) (d n : SReg) (k : BitVec 7) :
    keepsMemory (execRinfo d n k s) = true := keepsMemory_run h _ fun _ hc => memoryWf_issueOp hc _ _ _

/-! ## Records of copies and of the host, and graphs -/

@[simp] theorem memoryWf_appendRecord {s : State} (h : s.memoryWf = true) (p : PkgId) (x : BitVec 6) (n : BitVec 12) (like : QRec)
    (body : List Byte) : (appendRecord s p x n like body).memoryWf = true := by
  unfold appendRecord
  dsimp only
  split
  · exact h
  · split <;> simp [h]

@[simp] theorem memoryWf_loadNodes (p : PkgId) (e : Graph) (q : Part) (l : List Nat) {s : State} (h : s.memoryWf = true) :
    (loadNodes p e q l s).1.memoryWf = true := by
  induction l generalizing s with
  | nil => exact h
  | cons n l ih =>
    have read := memoryWf_hubReads p e.pid 8 h (e.nodeBase + BitVec.ofNat 64 (64 * n))
    unfold loadNodes
    split
    case h_1 hu => rw [hu] at read; exact read
    case h_2 hu =>
      rw [hu] at read
      dsimp only
      split
      · exact read
      · split
        · exact read
        · split
          · exact read
          · exact ih read

@[simp] theorem memoryWf_loadGraph {s : State} (h : s.memoryWf = true) (p : PkgId) (x : BitVec 6) :
    (loadGraph s p x).memoryWf = true := by
  have loaded (e : Graph) (q : Part) (l : List Nat) := memoryWf_loadNodes p e q l h
  unfold loadGraph
  dsimp only
  split
  · simpa using h
  · split
    · simpa using h
    · split
      case h_1 hu =>
        have loaded := hu ▸ loaded _ _ _
        exact State.memoryWf_ite h (by simpa using loaded)
      case h_2 hu =>
        have loaded := hu ▸ loaded _ _ _
        simpa using loaded

theorem Pkg.memoryWf_mapSlots (k : Pkg) (f : CellId → SlotId → Slot → Slot) : (k.mapSlots f).memoryWf = k.memoryWf := by
  unfold Pkg.memoryWf Pkg.mapSlots
  simp only [List.all_map]
  rfl

/-- A change of a package that changes of its cells nothing but slots. -/
theorem State.memoryWf_mapPkg_slots (s : State) (p : PkgId) (g : Pkg → CellId → SlotId → Slot → Slot) {f : Pkg → Pkg}
    (hbm : ∀ k, (f k).hbm = k.hbm) (ddr : ∀ k, (f k).ddr = k.ddr) (cells : ∀ k, (f k).cells = (k.mapSlots (g k)).cells) :
    (s.mapPkg p f).memoryWf = s.memoryWf :=
  State.memoryWf_mapPkg_eq s p fun k => (Pkg.memoryWf_congr (k := k.mapSlots (g k)) (hbm k) (ddr k) (cells k)).trans (Pkg.memoryWf_mapSlots k _)

/-- What a torn down graph leaves of an operation of its groups (R312). -/
def Op.outlived (x : BitVec 6) (o : Op) : Op := { o with launch := if (o.launch.map (·.1)) = some x then none else o.launch }

@[simp] theorem memoryWf_tearOn {s : State} (h : s.memoryWf = true) (p : PkgId) (x : BitVec 6) : (tearOn s p x).memoryWf = true := by
  unfold tearOn
  refine State.memoryWf_ite h ?_
  rw [memoryWf_startPlacement, State.memoryWf_wakeTimelines, State.memoryWf_mapGraph]
  refine (State.memoryWf_mapPkg_slots _ _ (fun _ _ _ t => { t with ops := t.ops.map (·.outlived x) }) ?_ ?_ ?_).trans ?_
  · exact fun _ => rfl
  · exact fun _ => rfl
  · exact fun _ => rfl
  exact memoryWf_foldl (fun _ _ h => by split <;> simp [h]) _ h

@[simp] theorem memoryWf_tearGraph {s : State} (h : s.memoryWf = true) (p : PkgId) (x : BitVec 6) :
    (tearGraph s p x).memoryWf = true := by
  unfold tearGraph
  dsimp only
  refine memoryWf_tearOn ?_ _ _
  rw [memoryWf_startPlacement]
  refine memoryWf_killSlots ?_ _
  rw [State.memoryWf_mapPart]
  split
  · exact State.memoryWf_ite (by simpa using h) (by simpa using h)
  · simpa using h

@[simp] theorem memoryWf_freeGraph (s : State) (p : PkgId) (x : BitVec 6) : (freeGraph s p x).memoryWf = s.memoryWf := by
  simp [freeGraph]

/-! ## Vector accesses -/

theorem keepsMemory_vectorLoad {s : State} (h : s.memoryWf = true) (o : Opnds) (d : VRegNo) (c : Scope) (r : Order) (z : VSize)
    (at_ : Ctx → Nat → Word) (gr : Ctx → Grouping) : keepsMemory (vectorLoad o d c r z at_ gr s) = true :=
  keepsMemory_memIssue h _ _

theorem keepsMemory_vectorStore {s : State} (h : s.memoryWf = true) (o : Opnds) (d : VRegNo) (c : Scope) (r : Order) (z : VSize)
    (at_ : Ctx → Nat → Word) (gr : Ctx → Grouping) (wide : Ctx → Bool) :
    keepsMemory (vectorStore o d c r z at_ gr wide s) = true := keepsMemory_memIssue h _ _

theorem keepsMemory_vectorFe {s : State} (h : s.memoryWf = true) (f : FeOp) (o : Opnds) (d : VRegNo) (b : SReg) (dst : Dest)
    (c : Scope) (r : Order) : keepsMemory (vectorFe f o d b dst c r s) = true := keepsMemory_memIssue h _ _

theorem keepsMemory_vectorAtom {s : State} (h : s.memoryWf = true) (f : AtomOp) (d : VRegNo) (b : SReg) (i : VRegNo)
    (o : Order) : keepsMemory (vectorAtom f d b i o s) = true := keepsMemory_memIssue h _ _

/-! ## Stream instructions -/

@[simp] theorem State.memoryWf_mapStream (s : State) (p : PkgId) (c : CellId) (n : Nat) (f : Stream → Stream) :
    (s.mapStream p c n f).memoryWf = s.memoryWf := by simp [State.mapStream]

@[simp] theorem Ctx.memoryWf_putStream (c : Ctx) (n : Nat) (f : Stream → Stream) : (c.putStream n f).memoryWf = c.s.memoryWf := by
  simp [Ctx.putStream]

theorem memoryWf_ownStream {c : Ctx} (w : Word) {body : Nat → Stream → Issue} (hb : ∀ n q, (body n q).memoryWf = true) :
    (ownStream c w body).memoryWf = true := by
  unfold ownStream
  dsimp only
  split
  · exact hb _ _
  · rfl

@[simp] theorem keepsMemory_execSdef {s : State} (h : s.memoryWf = true) (n b : SReg) (x : Bool) (z : VSize) :
    keepsMemory (execSdef n b x z s) = true :=
  keepsMemory_run h _ fun c hc => by
    dsimp only
    split
    · simpa using hc
    · rfl

@[simp] theorem keepsMemory_execSdim {s : State} (h : s.memoryWf = true) (n v : SReg) (j : BitVec 7) :
    keepsMemory (execSdim n v j s) = true :=
  keepsMemory_run h _ fun c hc => memoryWf_ownStream _ fun i q => by
    split
    · rfl
    · split <;> simpa using hc

@[simp] theorem keepsMemory_execSbind {s : State} (h : s.memoryWf = true) (d : VRegNo) (n : SReg) : keepsMemory (execSbind d n s) = true :=
  keepsMemory_run h _ fun c hc => memoryWf_ownStream _ fun i q => by
    split
    · rfl
    · simpa using hc

@[simp] theorem memoryWf_unbindStream (s : State) (g : GRef) (n : Nat) : (unbindStream s g n).memoryWf = s.memoryWf := by
  unfold unbindStream
  split <;> simp

theorem memoryWf_drained {s : State} (h : s.memoryWf = true) (c : Ctx) (q : Stream) : (drained c q s).memoryWf = true := by
  unfold drained
  split
  · exact h
  · rfl

@[simp] theorem keepsMemory_execSunbind {s : State} (h : s.memoryWf = true) (d : VRegNo) : keepsMemory (execSunbind d s) = true :=
  keepsMemory_run h _ fun c hc => by
    split
    · rfl
    · dsimp only
      split
      · simpa using hc
      · split
        · rfl
        · split
          · exact hc
          · exact memoryWf_drained (by simpa using hc) _ _

@[simp] theorem keepsMemory_execSgo {s : State} (h : s.memoryWf = true) (n : SReg) : keepsMemory (execSgo n s) = true :=
  keepsMemory_run h _ fun c hc => by
    split
    · rfl
    · refine memoryWf_ownStream _ fun i q => ?_
      split
      · rfl
      · split <;> simpa using hc

@[simp] theorem keepsMemory_execSstop {s : State} (h : s.memoryWf = true) (n : SReg) : keepsMemory (execSstop n s) = true :=
  keepsMemory_run h _ fun c hc => memoryWf_ownStream _ fun i q => by split <;> simpa using hc

@[simp] theorem keepsMemory_execSstat {s : State} (h : s.memoryWf = true) (d n : SReg) : keepsMemory (execSstat d n s) = true :=
  keepsMemory_run h _ fun c hc => by simpa using hc

@[simp] theorem keepsMemory_execSdrain {s : State} (h : s.memoryWf = true) (n : SReg) : keepsMemory (execSdrain n s) = true :=
  keepsMemory_run h _ fun c hc => memoryWf_ownStream _ fun i q => by
    split
    · simpa using hc
    · split
      · rfl
      · split
        · exact hc
        · exact memoryWf_drained hc _ _

/-! ## The stream engine: input -/

theorem State.memoryWf_of_choose {α : Type} {s t : State} (h : s.memoryWf = true) {l : List α} {x : Option α}
    (ht : s.choose l = (t, x)) : t.memoryWf = true := by
  have chosen := State.memoryWf_choose s l
  rw [ht] at chosen
  exact chosen.trans h

@[simp] theorem memoryWf_wakeOwner (s : State) (p : PkgId) (c : CellId) (n : Nat) : (wakeOwner s p c n).memoryWf = s.memoryWf := by
  unfold wakeOwner
  dsimp only
  split <;> simp

@[simp] theorem memoryWf_endDrain (s : State) (p : PkgId) (c : CellId) (n : Nat) : (endDrain s p c n).memoryWf = s.memoryWf := by
  unfold endDrain
  dsimp only
  split
  · split
    · rfl
    · split
      · simp
      · split
        · rfl
        · split
          · simp
          · split <;> simp
  · rfl

@[simp] theorem memoryWf_streamError (s : State) (p : PkgId) (c : CellId) (n i : Nat) (k : Kind) (a : Word) :
    (streamError s p c n i k a).memoryWf = s.memoryWf := by simp [streamError]

@[simp] theorem memoryWf_hadPassedNow (s : State) (p : PkgId) (c : CellId) (f : StreamFlight) (es : List Elt) :
    (hadPassedNow s p c f es).1.memoryWf = s.memoryWf := by
  unfold hadPassedNow
  split <;> rfl

@[simp] theorem memoryWf_breakPair (s : State) (g : GRef) (n code : Nat) (w : GRef) (k : Nat) :
    (breakPair s g n code w k).memoryWf = s.memoryWf := by
  have stop (s : State) (h : GRef) (f : FaultInfo) (x : Stream → Stream) :
      State.memoryWf (match ((s.mapStream h.pkg h.cell n x).slotAt h).mode with
        | .run | .parked | .subscribed => faultHere (s.mapStream h.pkg h.cell n x) h f
        | _ => s.mapStream h.pkg h.cell n x) = s.memoryWf := by
    split <;> simp
  unfold breakPair
  dsimp only
  split
  · exact (stop _ _ _ _).trans (stop _ _ _ _)
  · exact stop _ _ _ _

@[simp] theorem memoryWf_collectReads (s : State) (p : PkgId) (c : CellId) (n : Nat) :
    (collectReads s p c n).memoryWf = s.memoryWf := by simp [collectReads]

theorem memoryWf_beginRead {s : State} (h : s.memoryWf = true) (p : PkgId) (c : CellId) (n : Nat) :
    (beginRead s p c n).memoryWf = true := by
  have checked := memoryWf_checkElts h (((s.cellAt p c).streamAt n).ownerRef p c)
    (s.slotAt (((s.cellAt p c).streamAt n).ownerRef p c)).pid .strRead ((s.cellAt p c).streamAt n).inputRaw
  unfold beginRead
  dsimp only
  split
  · exact h
  · exact h
  · simpa using h
  all_goals
    split <;> simpa using checked

@[simp] theorem memoryWf_readForTwin (s : State) (w : GRef) (n k : Nat) (part : List (Nat × Lane)) :
    (readForTwin s w n k part).memoryWf = s.memoryWf := by simp [readForTwin]

@[simp] theorem memoryWf_readUnit (s : State) (p : PkgId) (c : CellId) (n i j : Nat) :
    (readUnit s p c n i j).memoryWf = s.memoryWf := by
  unfold readUnit
  dsimp only
  split
  · rfl
  · split
    · split <;> simp
    · split
      · simp
      · split
        · rw [memoryWf_collectReads]
          split <;> simp
        · simp

@[simp] theorem memoryWf_endStream (s : State) (p : PkgId) (c : CellId) (n : Nat) : (endStream s p c n).memoryWf = s.memoryWf := by
  simp [endStream]

@[simp] theorem keepsMemory_execStreamElementRead {s : State} (h : s.memoryWf = true) (p : PkgId) (c : CellId) (x : BitVec 5) :
    keepsMemory (execStreamElementRead p c x s) = true := by
  unfold execStreamElementRead
  rw [keepsMemory_occur]
  refine State.memoryWf_ite h (State.memoryWf_ite (by simpa using h) ?_)
  split
  case h_1 hu => exact memoryWf_beginRead (State.memoryWf_of_choose h hu) _ _ _
  case h_2 hu => simpa using State.memoryWf_of_choose h hu
  case h_3 => exact h

/-! ## The stream engine: output -/

@[simp] theorem memoryWf_storeAll {s : State} (h : s.memoryWf = true) (i : Issuer) (es : List Elt) :
    (storeAll s i es).memoryWf = true := memoryWf_foldl (fun _ _ h => memoryWf_storeElts h _ _) _ (memoryWf_storeElts h _ _)

@[simp] theorem memoryWf_afterStores {s : State} (h : s.memoryWf = true) (o : Op) (es : List Elt) :
    (afterStores s o es).memoryWf = true :=
  memoryWf_foldl (fun _ _ h => State.memoryWf_settle h _ _) _ (memoryWf_foldl (fun _ _ h => by simpa using h) _ h)

@[simp] theorem memoryWf_popElement (s : State) (p : PkgId) (c : CellId) (n : Nat) : (popElement s p c n).memoryWf = s.memoryWf := by
  simp [popElement]

theorem memoryWf_beginWrite {s : State} (h : s.memoryWf = true) (p : PkgId) (c : CellId) (n : Nat) :
    (beginWrite s p c n).memoryWf = true := by
  have checked := memoryWf_checkElts h (((s.cellAt p c).streamAt n).ownerRef p c)
    (s.slotAt (((s.cellAt p c).streamAt n).ownerRef p c)).pid .strWrite ((s.cellAt p c).streamAt n).outputRaw
  unfold beginWrite
  dsimp only
  split
  · exact h
  · exact h
  · simpa using h
  all_goals
    split
    · simpa using checked
    · exact State.memoryWf_ite (by simpa using checked) h

@[simp] theorem memoryWf_refuseElement (s : State) (p : PkgId) (c : CellId) (n : Nat) (a : Word) :
    (refuseElement s p c n a).memoryWf = s.memoryWf := by simp [refuseElement]

@[simp] theorem memoryWf_writtenUnits (s : State) (p : PkgId) (c : CellId) (n : Nat) (us : List Nat) :
    (writtenUnits s p c n us).memoryWf = s.memoryWf := by
  unfold writtenUnits
  dsimp only
  split
  · split
    · split
      · split <;> simp
      · simp
    · simp
  · simp

theorem memoryWf_writeUnit {s : State} (h : s.memoryWf = true) (p : PkgId) (c : CellId) (n j : Nat) :
    (writeUnit s p c n j).memoryWf = true := by
  unfold writeUnit
  dsimp only
  split
  · exact h
  · split <;> simp [h]

@[simp] theorem keepsMemory_execStreamElementWrite {s : State} (h : s.memoryWf = true) (p : PkgId) (c : CellId) (x : BitVec 5) :
    keepsMemory (execStreamElementWrite p c x s) = true := by
  unfold execStreamElementWrite
  rw [keepsMemory_occur]
  refine State.memoryWf_ite h (State.memoryWf_ite (by simpa using h) (State.memoryWf_ite ?_ ?_))
  · exact State.memoryWf_ite h (State.memoryWf_ite (by simpa using h) (memoryWf_beginWrite h _ _ _))
  · split
    case h_1 hu => exact memoryWf_writeUnit (State.memoryWf_of_choose h hu) _ _ _ _
    case h_2 => exact h

@[simp] theorem memoryWf_discardElement {s : State} (h : s.memoryWf = true) (p : PkgId) (c : CellId) (n i : Nat) :
    (discardElement s p c n i).memoryWf = true := by
  unfold discardElement
  dsimp only
  split
  · exact h
  · split
    · simpa using h
    · split <;> simp [h]

end Sys2Proof.Machine

/-! The canonical form of memory through copies and the matrix engine. -/

namespace Sys2Proof.Machine

/-! ## Copies -/

@[simp] theorem State.memoryWf_mapCtx (s : State) (p : PkgId) (c : CellId) (x : BitVec 2) (f : CopyCtx → CopyCtx) :
    (s.mapCtx p c x f).memoryWf = s.memoryWf := by simp [State.mapCtx]

@[simp] theorem keepsMemory_execCpset {s : State} (h : s.memoryWf = true) (r : SReg) (n : BitVec 7) : keepsMemory (execCpset r n s) = true :=
  keepsMemory_run h _ fun c hc => by simpa using hc

@[simp] theorem keepsMemory_execCpget {s : State} (h : s.memoryWf = true) (d : SReg) (n : BitVec 7) : keepsMemory (execCpget d n s) = true :=
  keepsMemory_run h _ fun c hc => by simpa using hc

@[simp] theorem keepsMemory_execCpgo {s : State} (h : s.memoryWf = true) (d : SReg) (x : BitVec 2) : keepsMemory (execCpgo d x s) = true :=
  keepsMemory_run h _ fun c hc => by
    dsimp only
    split
    · rfl
    · split
      · rfl
      · generalize hi : Ctx.issueOp c _ _ _ = i
        have issued : i.memoryWf = true := hi ▸ memoryWf_issueOp hc _ _ _
        split
        · split <;> simpa using issued
        · exact issued

@[simp] theorem keepsMemory_execCpstat {s : State} (h : s.memoryWf = true) (d : SReg) (x : BitVec 2) :
    keepsMemory (execCpstat d x s) = true := keepsMemory_run h _ fun _ hc => memoryWf_issueAlone hc _

@[simp] theorem memoryWf_answerLaunch {s : State} (h : s.memoryWf = true) (p : PkgId) (c : CellId) (l : Launch) :
    (answerLaunch s p c l).memoryWf = true := by
  unfold answerLaunch
  dsimp only
  split
  · exact memoryWf_answerOp (by simp [h]) _ _
  · simp [h]

@[simp] theorem keepsMemory_execCopyLaunchAccept {s : State} (h : s.memoryWf = true) (p : PkgId) (c : CellId) (x : BitVec 2) :
    keepsMemory (execCopyLaunchAccept p c x s) = true := by
  unfold execCopyLaunchAccept
  rw [keepsMemory_occur]
  refine State.memoryWf_ite ?_ h
  split <;> simp [h]

@[simp] theorem memoryWf_faultCtx (s : State) (p : PkgId) (c : CellId) (x : BitVec 2) (k : Kind) (a : Word) :
    (faultCtx s p c x k a).memoryWf = s.memoryWf := by
  unfold faultCtx
  dsimp only
  split <;> simp

@[simp] theorem memoryWf_startCopy (s : State) (p : PkgId) (c : CellId) (x : BitVec 2) :
    (startCopy s p c x).memoryWf = s.memoryWf := by simp [startCopy]

theorem memoryWf_copyPlace {s : State} (h : s.memoryWf = true) (p : PkgId) (c : CellId) (pid : BitVec 16) (a : Word) (k : Acc) :
    (copyPlace s p c pid a k).1.memoryWf = true := by
  have found := memoryWf_resolve h p c pid a 1 k
  unfold copyPlace
  dsimp only
  split
  · exact found
  · split
    · exact found
    · split <;> exact found

theorem memoryWf_copyPlaces (p : PkgId) (c : CellId) (pid : BitVec 16) (base : Word) (k : Acc) {s : State}
    (h : s.memoryWf = true) (l : List Nat) : (copyPlaces p c pid base k s l).1.memoryWf = true := by
  induction l generalizing s with
  | nil => exact h
  | cons b l ih =>
    have place := memoryWf_copyPlace h p c pid (base + BitVec.ofNat 64 b) k
    unfold copyPlaces
    split
    case h_1 hu => rw [hu] at place; exact place
    case h_2 hu => rw [hu] at place; exact ih place

@[simp] theorem memoryWf_clearRow {s : State} (h : s.memoryWf = true) (d : Word) (len : Nat) (desc : Bool) (bs : List Nat)
    (l : Loc) : (clearRow s d len desc bs l).memoryWf = true := by
  unfold clearRow
  dsimp only
  split <;> simp [h]

/-- The writes of a copy's unit. -/
theorem memoryWf_copied {s : State} (h : s.memoryWf = true) (a : Loc) (at_ : Word) (i : Issuer) (bytes : List Byte)
    (l : List (Loc × Byte)) :
    (if a.prot then s.storeBytes a at_ bytes i else l.foldl (fun s e => s.poke e.1 [e.2]) s).memoryWf = true :=
  State.memoryWf_ite (State.memoryWf_storeBytes h _ _ _ _) (memoryWf_foldl (fun _ _ h => State.memoryWf_poke h _ _) _ h)

/-- A write to a scratchpad lets those look that wait on it. -/
theorem memoryWf_settleWritten {s : State} (h : s.memoryWf = true) (k : Store) (p : PkgId) (c : CellId) :
    State.memoryWf (match k with | .spad => s.settle p c | _ => s) = true := by
  cases k
  case spad => exact State.memoryWf_settle h _ _
  all_goals exact h

theorem memoryWf_copyUnit {s : State} (h : s.memoryWf = true) (p : PkgId) (c : CellId) (x : BitVec 2) (q : CopyCtx) (l : Launch) :
    (copyUnit s p c x q l).memoryWf = true := by
  unfold copyUnit
  extract_lets src dst first prot bs
  have from_ := memoryWf_copyPlaces p c l.pid src .engRead h bs
  split
  case h_1 hu => rw [hu] at from_; simpa using from_
  case h_2 u _ hu =>
    rw [hu] at from_
    have to_ := memoryWf_copyPlaces p c l.pid dst .engWrite from_ bs
    split
    case h_1 hv => rw [hv] at to_; simpa using to_
    case h_2 hv =>
      rw [hv] at to_
      refine State.memoryWf_ite to_ ?_
      split
      · simpa using to_
      · split
        · exact to_
        · rw [State.memoryWf_mapCtx]
          exact memoryWf_settleWritten (memoryWf_clearRow (memoryWf_copied to_ _ _ _ _ _) _ _ _ _ _) _ _ _

@[simp] theorem keepsMemory_execCopyPayload {s : State} (h : s.memoryWf = true) (p : PkgId) (c : CellId) (x : BitVec 2) :
    keepsMemory (execCopyPayload p c x s) = true := by
  unfold execCopyPayload
  rw [keepsMemory_occur]
  refine State.memoryWf_ite ?_ h
  dsimp only
  split
  · exact memoryWf_copyUnit (by simpa using h) _ _ _ _ _
  · simpa using h

@[simp] theorem memoryWf_endCopy (s : State) (p : PkgId) (c : CellId) (x : BitVec 2) (l : Launch) :
    (endCopy s p c x l).memoryWf = s.memoryWf := by simp [endCopy]

@[simp] theorem State.memoryWf_markCopy (s : State) (p : PkgId) (c : CellId) (x : BitVec 2) :
    (s.markCopy p c x).memoryWf = s.memoryWf := by simp [State.markCopy]

theorem memoryWf_signalStep {s : State} (h : s.memoryWf = true) (p : PkgId) (c : CellId) (x : BitVec 2) (l : Launch) :
    (signalStep s p c x l).memoryWf = true := by
  unfold signalStep
  extract_lets a n r
  have found : r.1.memoryWf = true := memoryWf_resolve h p c l.pid a n .strWrite
  split
  · simpa using found
  · refine State.memoryWf_ite (by simpa using found) (State.memoryWf_ite found ?_)
    dsimp only
    rw [State.memoryWf_mapCtx]
    have stored (w : Loc) (i : Issuer) : (r.1.storeBytes w a (leBytes n (launchReg l.regs 7).toNat) i).memoryWf = true :=
      State.memoryWf_storeBytes found _ _ _ _
    exact memoryWf_settleWritten (State.memoryWf_ite (by simpa using stored _ _) (stored _ _)) _ _ _

theorem memoryWf_recordStep {s : State} (h : s.memoryWf = true) (p : PkgId) (c : CellId) (x : BitVec 2) (l : Launch) :
    (recordStep s p c x l).memoryWf = true := by
  unfold recordStep
  dsimp only
  split
  · simpa using h
  · split <;> simp [h]

@[simp] theorem memoryWf_barrierStep (s : State) (p : PkgId) (c : CellId) (x : BitVec 2) (l : Launch) :
    (barrierStep s p c x l).memoryWf = s.memoryWf := by
  unfold barrierStep
  dsimp only
  split
  · simp
  · split
    · simp
    · split <;> simp
  · simp

theorem memoryWf_completionStep {s : State} (h : s.memoryWf = true) (p : PkgId) (c : CellId) (x : BitVec 2) :
    (completionStep s p c x).memoryWf = true := by
  unfold completionStep
  dsimp only
  split
  · exact h
  · exact State.memoryWf_ite h <| State.memoryWf_ite h <| State.memoryWf_ite (memoryWf_signalStep h _ _ _ _) <|
      State.memoryWf_ite (memoryWf_recordStep h _ _ _ _) <| State.memoryWf_ite (by simpa using h) (by simpa using h)

@[simp] theorem keepsMemory_execCopyCompletion {s : State} (h : s.memoryWf = true) (p : PkgId) (c : CellId) (x : BitVec 2) :
    keepsMemory (execCopyCompletion p c x s) = true :=
  State.memoryWf_ite (memoryWf_completionStep h _ _ _) h

@[simp] theorem keepsMemory_execCopyWaitrecResume {s : State} (h : s.memoryWf = true) (p : PkgId) (c : CellId) (x : BitVec 2) :
    keepsMemory (execCopyWaitrecResume p c x s) = true :=
  State.memoryWf_ite (memoryWf_completionStep h _ _ _) h

theorem memoryWf_abortCtx {s : State} (h : s.memoryWf = true) (p : PkgId) (c : CellId) (x : BitVec 2) :
    (abortCtx s p c x).memoryWf = true := by
  unfold abortCtx
  dsimp only
  rw [State.memoryWf_wakeTimelines]
  exact memoryWf_foldl (fun _ _ h => memoryWf_answerLaunch h _ _ _) _ (by simpa using h)

@[simp] theorem memoryWf_resumeCtx {s : State} (h : s.memoryWf = true) (p : PkgId) (c : CellId) (x : BitVec 2) (abort : Bool) :
    (resumeCtx s p c x abort).memoryWf = true :=
  State.memoryWf_ite h (State.memoryWf_ite (memoryWf_abortCtx h _ _ _) (by simpa using h))

@[simp] theorem keepsMemory_execCpresume {s : State} (h : s.memoryWf = true) (n : SReg) (x : BitVec 2) :
    keepsMemory (execCpresume n x s) = true :=
  keepsMemory_run h _ fun c hc => by
    dsimp only
    split
    · rfl
    · split
      · rfl
      · exact memoryWf_resumeCtx hc _ _ _ _
      · split
        · rfl
        · split
          · rfl
          · exact memoryWf_issueOp hc _ _ _

theorem memoryWf_arriveResume {s : State} (h : s.memoryWf = true) (g : GRef) (o : Op) (e : Elt) (x : BitVec 2) (abort : Bool) :
    (arriveResume s g o e x abort).memoryWf = true := by
  unfold arriveResume
  dsimp only
  split <;> simp [h]

@[simp] theorem keepsMemory_execActiveMessage {s : State} (h : s.memoryWf = true) (g : GRef) (op : Nat) :
    keepsMemory (execActiveMessage g op s) = true := by
  unfold execActiveMessage
  rw [keepsMemory_occur]
  split
  · exact h
  case h_2 o _ =>
    split
    case h_1 u j hu =>
      have chosen := State.memoryWf_of_choose h hu
      split
      · exact chosen
      · rw [memoryWf_setServing]
        split
        · exact memoryWf_arriveResume chosen _ _ _ _ _
        · exact memoryWf_arriveUnit chosen _ _ _
    case h_2 => exact h

/-! ## The matrix engine -/

@[simp] theorem memoryWf_obresTrap (n : Nat) : (obresTrap n).memoryWf = true := rfl

@[simp] theorem keepsMemory_execObres {s : State} (h : s.memoryWf = true) (v : SReg) (n : BitVec 4) : keepsMemory (execObres v n s) = true :=
  keepsMemory_run h _ fun c hc => by
    dsimp only
    split
    · rfl
    · split
      · rfl
      · simpa using hc

@[simp] theorem keepsMemory_execBsres {s : State} (h : s.memoryWf = true) (v : SReg) (n : BitVec 4) : keepsMemory (execBsres v n s) = true :=
  keepsMemory_run h _ fun c hc => by
    dsimp only
    split
    · rfl
    · split
      · rfl
      · simpa using hc

@[simp] theorem keepsMemory_execObfree {s : State} (h : s.memoryWf = true) (n : BitVec 4) : keepsMemory (execObfree n s) = true :=
  keepsMemory_run h _ fun c hc => by
    split
    · rfl
    · split
      · rfl
      · simpa using hc

@[simp] theorem keepsMemory_execBsfree {s : State} (h : s.memoryWf = true) (n : BitVec 4) : keepsMemory (execBsfree n s) = true :=
  keepsMemory_run h _ fun c hc => by
    split
    · rfl
    · split
      · rfl
      · simpa using hc

theorem memoryWf_mmaBody {c : Ctx} (h : c.s.memoryWf = true) (a b : SReg) (k : BitVec 5) (tile : BitVec 2) (zero : Bool) :
    (mmaBody a b k tile zero c).memoryWf = true := by
  unfold mmaBody
  dsimp only
  split
  · rfl
  · split <;> simpa using h

@[simp] theorem keepsMemory_execMma {s : State} (h : s.memoryWf = true) (a b : SReg) (k : BitVec 5) (t : BitVec 2) :
    keepsMemory (execMma a b k t s) = true := keepsMemory_run h _ fun _ hc => memoryWf_mmaBody hc _ _ _ _ _

@[simp] theorem keepsMemory_execMmaz {s : State} (h : s.memoryWf = true) (a b : SReg) (k : BitVec 5) (t : BitVec 2) :
    keepsMemory (execMmaz a b k t s) = true := keepsMemory_run h _ fun _ hc => memoryWf_mmaBody hc _ _ _ _ _

@[simp] theorem keepsMemory_execMatrixStep {s : State} (h : s.memoryWf = true) (g : GRef) : keepsMemory (execMatrixStep g s) = true := by
  unfold execMatrixStep
  rw [keepsMemory_occur]
  dsimp only
  split
  · exact h
  · split
    · simpa using h
    · exact State.memoryWf_ite (by simpa using h) (memoryWf_settleStop (by simpa using h) _)

@[simp] theorem memoryWf_stepPoisoned (s : State) (g : GRef) (x : StepRun) (rest : List StepRun) (row : Nat) :
    (stepPoisoned s g x rest row).memoryWf = s.memoryWf := by
  unfold stepPoisoned
  extract_lets f alive u v
  have written : v.memoryWf = s.memoryWf :=
    State.memoryWf_mapCell_frame s _ _ (fun _ => rfl) (fun _ => rfl) fun _ => rfl
  split
  · simp [u]
  · split
    · simpa using written
    · exact written

@[simp] theorem keepsMemory_execStepAccumulation {s : State} (h : s.memoryWf = true) (p : PkgId) (c : CellId) :
    keepsMemory (execStepAccumulation p c s) = true := by
  unfold execStepAccumulation
  rw [keepsMemory_occur]
  split
  · exact h
  · refine State.memoryWf_ite ?_ h
    split
    · simpa using h
    · exact (State.memoryWf_mapCell_frame s _ _ (by exact fun _ => rfl) (by exact fun _ => rfl) (by exact fun _ => rfl)).trans h

@[simp] theorem keepsMemory_execAccz {s : State} (h : s.memoryWf = true) (t : BitVec 2) : keepsMemory (execAccz t s) = true :=
  keepsMemory_run h _ fun c hc => by
    split
    · rfl
    · simpa using hc

@[simp] theorem keepsMemory_execAccrd {s : State} (h : s.memoryWf = true) (d : VRegNo) (k : SReg) (t : BitVec 2) :
    keepsMemory (execAccrd d k t s) = true :=
  keepsMemory_run h _ fun c hc => by
    dsimp only
    split
    · rfl
    · split
      · rfl
      · split
        · simpa using hc
        · split
          · exact hc
          · exact memoryWf_issueAlone hc _

@[simp] theorem keepsMemory_execAccwr {s : State} (h : s.memoryWf = true) (v : VRegNo) (k : SReg) (t : BitVec 2) :
    keepsMemory (execAccwr v k t s) = true :=
  keepsMemory_run h _ fun c hc => by
    dsimp only
    split
    · rfl
    · simpa using hc

@[simp] theorem keepsMemory_execAccst {s : State} (h : s.memoryWf = true) (b : SReg) (t : BitVec 2) : keepsMemory (execAccst b t s) = true :=
  keepsMemory_run h _ fun c hc => by
    dsimp only
    split
    · rfl
    · split
      · split
        · rfl
        · exact hc
      · split
        · rfl
        · split
          · rfl
          · exact memoryWf_memIssue hc _

@[simp] theorem keepsMemory_execMrot {s : State} (h : s.memoryWf = true) (l k : SReg) : keepsMemory (execMrot l k s) = true :=
  keepsMemory_run h _ fun c hc => by
    dsimp only
    split
    · rfl
    · simpa using hc

@[simp] theorem keepsMemory_execRotationTableEffect {s : State} (h : s.memoryWf = true) (p : PkgId) (c : CellId) :
    keepsMemory (execRotationTableEffect p c s) = true := by
  unfold execRotationTableEffect
  rw [keepsMemory_occur]
  split
  · exact h
  · exact State.memoryWf_ite (by simpa using h) h

@[simp] theorem keepsMemory_execPowerCapEffect {s : State} (h : s.memoryWf = true) (p : PkgId) :
    keepsMemory (execPowerCapEffect p s) = true := by
  unfold execPowerCapEffect
  rw [keepsMemory_occur]
  refine (State.memoryWf_mapPkg_eq s p fun k => ?_).trans h
  split
  · split <;> rfl
  · rfl

end Sys2Proof.Machine

/-! The canonical form of memory through the mailbox, the slot instructions, and what a supervisor does to a slot. -/

namespace Sys2Proof.Machine

/-! ## The mailbox -/

@[simp] theorem memoryWf_nextRecord (s : State) (p : PkgId) (r : Ring) : (nextRecord s p r).1.memoryWf = s.memoryWf :=
  State.memoryWf_choose s _

@[simp] theorem memoryWf_leaveCell (s : State) (p : PkgId) (w : Waiting) : (leaveCell s p w).memoryWf = s.memoryWf := by
  unfold leaveCell
  dsimp only
  split <;> simp

@[simp] theorem memoryWf_stopPosting (s : State) (p : PkgId) (q : BitVec 3) (f : FaultInfo) :
    (stopPosting s p q f).memoryWf = s.memoryWf := by simp [stopPosting]

/-- The states that a run of hub writes may leave the machine in have memory in canonical form. -/
def HubRun.memoryWf : HubRun → Bool
  | .fault s _ | .done s => s.memoryWf
  | .waits => true

@[simp] theorem HubRun.memoryWf_fault (s : State) (f : FaultInfo) : (HubRun.fault s f).memoryWf = s.memoryWf := rfl
@[simp] theorem HubRun.memoryWf_done (s : State) : (HubRun.done s).memoryWf = s.memoryWf := rfl

theorem memoryWf_hubRun (p : PkgId) (pid : BitVec 16) (l : List (Word × List Byte)) {s : State} (h : s.memoryWf = true) :
    (hubRun s p pid l).memoryWf = true := by
  induction l generalizing s with
  | nil => exact h
  | cons e l ih =>
    obtain ⟨a, b⟩ := e
    have first := memoryWf_hubWrite h p pid a b
    unfold hubRun
    split
    case h_1 hu => rw [hu] at first; exact first
    case h_2 hu =>
      rw [hu] at first
      split
      · exact ih first
      · rfl

@[simp] theorem memoryWf_postPart {s : State} (h : s.memoryWf = true) (p : PkgId) (q : BitVec 3) :
    (postPart s p q).memoryWf = true := by
  have read := memoryWf_hubReads p ((s.pkgAt p).part q).pid 2 h ((s.pkgAt p).part q).mailbox
  unfold postPart
  dsimp only
  refine State.memoryWf_ite h ?_
  split
  case h_1 u _ _ hu =>
    rw [hu] at read
    refine State.memoryWf_ite h ?_
    have next := (memoryWf_nextRecord u p (.part q)).trans read
    split
    · exact h
    case h_2 v _ hv =>
      rw [hv] at next
      generalize hr : hubRun _ _ _ _ = r
      have posted : r.memoryWf = true := hr ▸ memoryWf_hubRun _ _ _ next
      cases r with
      | fault => simpa using posted
      | done => simpa using posted
      | waits => exact h
  case h_2 hu => rw [hu] at read; simpa using read
  case h_3 => exact h

@[simp] theorem memoryWf_postHost (s : State) (p : PkgId) : (postHost s p).memoryWf = s.memoryWf := by
  have next := memoryWf_nextRecord s p .host
  unfold postHost
  dsimp only
  split
  · rfl
  · split
    case h_1 hu => rw [hu] at next; exact next
    case h_2 hu => rw [hu] at next; simpa [Pkg.notice] using next

@[simp] theorem keepsMemory_execFaultRecordPost {s : State} (h : s.memoryWf = true) (p : PkgId) (ring : Ring) :
    keepsMemory (execFaultRecordPost p ring s) = true := by
  unfold execFaultRecordPost
  rw [keepsMemory_occur]
  split <;> simp [h]

@[simp] theorem memoryWf_completeCmd {s : State} (h : s.memoryWf = true) (p : PkgId) (q : BitVec 3) (result : Word)
    (status : Byte) : (completeCmd s p q result status).memoryWf = true := by
  have read := memoryWf_hubRead h p ((s.pkgAt p).part q).pid (((s.pkgAt p).part q).mailbox + 0x18) 8
  unfold completeCmd
  dsimp only
  refine State.memoryWf_ite (by simpa using h) ?_
  split
  · simpa using h
  case h_2 hu => rw [hu] at read; simpa using read
  case h_3 hu =>
    rw [hu] at read
    generalize hr : hubRun _ _ _ _ = r
    have done : r.memoryWf = true := hr ▸ memoryWf_hubRun _ _ _ read
    cases r with
    | fault => simpa using done
    | done => simpa using done
    | waits => simpa using h

@[simp] theorem memoryWf_finishCmd {s : State} (h : s.memoryWf = true) (p : PkgId) (q : BitVec 3) :
    (finishCmd s p q).memoryWf = true := by
  unfold finishCmd
  split <;> simp [h]

theorem memoryWf_pollMailbox {s : State} (h : s.memoryWf = true) (p : PkgId) (q : BitVec 3) :
    (pollMailbox s p q).memoryWf = true := by
  unfold pollMailbox
  extract_lets k part u
  have finished : u.memoryWf = true := by simp [u, h]
  refine State.memoryWf_ite finished ?_
  have read := memoryWf_hubReads p part.pid 2 finished (part.mailbox + 0x10)
  split
  case h_1 v _ _ hv =>
    rw [hv] at read
    refine State.memoryWf_ite read ?_
    generalize hw : hubReads _ _ _ v _ = w
    have block : w.1.memoryWf = true := hw ▸ memoryWf_hubReads _ _ _ read _
    split
    · dsimp only
      split <;> simp [block]
    · exact block
  case h_2 hv => rw [hv] at read; exact read

@[simp] theorem keepsMemory_execMailboxPoll {s : State} (h : s.memoryWf = true) (p : PkgId) (q : BitVec 3) :
    keepsMemory (execMailboxPoll p q s) = true := memoryWf_pollMailbox h p q

@[simp] theorem keepsMemory_execMailboxDoorbell {s : State} (h : s.memoryWf = true) (p : PkgId) (q : BitVec 3) :
    keepsMemory (execMailboxDoorbell p q s) = true := memoryWf_pollMailbox (by simpa using h) p q

theorem memoryWf_beginCmd {s : State} (h : s.memoryWf = true) (p : PkgId) (q : BitVec 3) (op : Nat) {f : State → Cmd → State}
    (hf : ∀ t c, t.memoryWf = true → (f t c).memoryWf = true) : (beginCmd s p q op f).memoryWf = true := by
  unfold beginCmd
  split
  · exact State.memoryWf_ite (hf _ _ (by simpa using h)) h
  · exact h

theorem memoryWf_beginSlotctl {s : State} (h : s.memoryWf = true) (p : PkgId) (q : BitVec 3) (op : Nat)
    {f : State → Cmd → State} (hf : ∀ t c, t.memoryWf = true → (f t c).memoryWf = true) :
    (beginSlotctl s p q op f).memoryWf = true := by
  unfold beginSlotctl
  split
  · exact State.memoryWf_ite (memoryWf_beginCmd h _ _ _ hf) h
  · exact h

/-! ## Slot instructions -/

@[simp] theorem keepsMemory_execSlotstart {s : State} (h : s.memoryWf = true) (c e : SReg) : keepsMemory (execSlotstart c e s) = true :=
  keepsMemory_run h _ fun x hx => by
    split
    case h_1 i hi => exact memoryWf_releaseHold hi
    case h_2 =>
      dsimp only
      split
      · rfl
      · rw [Issue.memoryWf_done]
        exact State.memoryWf_ite (by simpa using hx) (by simpa using hx)

@[simp] theorem keepsMemory_execSlotreap {s : State} (h : s.memoryWf = true) (d t : SReg) : keepsMemory (execSlotreap d t s) = true :=
  keepsMemory_run h _ fun c hc => by
    dsimp only
    rw [Issue.memoryWf_done, State.memoryWf_setS]
    exact State.memoryWf_ite (by simpa using hc) hc

@[simp] theorem keepsMemory_execSlotexit {s : State} (h : s.memoryWf = true) : keepsMemory (execSlotexit s) = true :=
  keepsMemory_run h _ fun c hc => by
    split
    · rfl
    · have sent : (if c.slot.exitSent then c.s else publish c.s c.g 1 (c.s.nextPlace c.g 1) c.s).memoryWf = true :=
        State.memoryWf_ite hc (by simpa using hc)
      dsimp only
      split
      · split
        · rfl
        · simpa using hc
      · exact memoryWf_exitSlot sent _

@[simp] theorem keepsMemory_execRegclaim {s : State} (h : s.memoryWf = true) (d n : SReg) : keepsMemory (execRegclaim d n s) = true :=
  keepsMemory_run h _ fun c hc => by
    dsimp only
    split
    · rfl
    · rw [Issue.memoryWf_done, State.memoryWf_setS]
      exact State.memoryWf_ite (by simpa [Cell.clearWindow] using hc) hc

@[simp] theorem keepsMemory_execRegyield {s : State} (h : s.memoryWf = true) (d n : SReg) : keepsMemory (execRegyield d n s) = true :=
  keepsMemory_run h _ fun c hc => by
    dsimp only
    split
    · rfl
    · split
      · rfl
      · split
        · rfl
        · simpa [Cell.clearWindow] using hc

/-! ## The save area -/

@[simp] theorem memoryWf_areaPlace {s : State} (h : s.memoryWf = true) (g : GRef) (off n : Nat) (k : Acc) :
    (areaPlace s g off n k).1.memoryWf = true := by
  have found := memoryWf_resolve h g.pkg g.cell (s.saveArea g).1 ((s.saveArea g).2 + BitVec.ofNat 64 off) n k
  unfold areaPlace
  dsimp only
  split
  · split <;> exact found
  · exact found

@[simp] theorem memoryWf_areaRead {s : State} (h : s.memoryWf = true) (g : GRef) (off n : Nat) :
    (areaRead s g off n).1.memoryWf = true := by
  have place := memoryWf_areaPlace h g off n .engRead
  unfold areaRead
  dsimp only
  split
  · exact memoryWf_placeRead place _ _ _ _
  · exact place

@[simp] theorem memoryWf_areaWrite {s : State} (h : s.memoryWf = true) (g : GRef) (off : Nat) (b : List Byte) (poison : Bool) :
    (areaWrite s g off b poison).1.memoryWf = true := by
  have place := memoryWf_areaPlace h g off b.length .engWrite
  unfold areaWrite
  dsimp only
  split
  · exact memoryWf_issueStore _ place _ _ _ _ _
  · exact place

@[simp] theorem memoryWf_areaWrites (g : GRef) {s : State} (h : s.memoryWf = true) (l : List SaveSector) :
    (areaWrites g s l).1.memoryWf = true := by
  induction l generalizing s with
  | nil => exact h
  | cons e l ih =>
    have first := memoryWf_areaWrite h g e.1 e.2.1 e.2.2
    unfold areaWrites
    split
    case h_1 hu => rw [hu] at first; exact first
    case h_2 hu => rw [hu] at first; exact ih first

@[simp] theorem memoryWf_areaWords (g : GRef) (n : Nat) {s : State} (h : s.memoryWf = true) (off : Nat) :
    (areaWords g n s off).1.memoryWf = true := by
  induction n generalizing s off with
  | zero => exact h
  | succ n ih =>
    have first := memoryWf_areaRead h g off 8
    unfold areaWords
    dsimp only
    split
    · exact ih first _
    · split
      · exact ih first _
      · exact first

@[simp] theorem memoryWf_readArea {s : State} (h : s.memoryWf = true) (g : GRef) (off n : Nat) :
    (readArea s g off n).1.memoryWf = true := memoryWf_areaRead h g off n

@[simp] theorem memoryWf_writeArea {s : State} (h : s.memoryWf = true) (g : GRef) (off n v : Nat) :
    (writeArea s g off n v).1.memoryWf = true := memoryWf_areaWrite h g off _ _

theorem memoryWf_fillArea {r : State × Option CtlStop} (h : r.1.memoryWf = true) (g : GRef) (i bit : Nat) :
    (fillArea r g i bit).1.memoryWf = true := by
  obtain ⟨s, e⟩ := r
  have read := memoryWf_readArea h g (8 * i) 8
  unfold fillArea
  split
  case h_1 hu => cases hu; exact h
  case h_2 hu =>
    cases hu
    split
    case h_1 hv => rw [hv] at read; exact read
    case h_2 hv => rw [hv] at read; exact memoryWf_writeArea read _ _ _ _

theorem memoryWf_clearArea (g : GRef) {s : State} (h : s.memoryWf = true) (l : List Nat) :
    (clearArea g s l).1.memoryWf = true := by
  induction l generalizing s with
  | nil => exact h
  | cons i l ih =>
    have first := memoryWf_writeArea h g (8 * i) 8 0
    unfold clearArea
    split
    case h_1 hu => rw [hu] at first; exact first
    case h_2 hu => rw [hu] at first; exact ih first

theorem memoryWf_writeDepth {s : State} (h : s.memoryWf = true) (g : GRef) (d : Nat) : (writeDepth s g d).1.memoryWf = true := by
  have read := memoryWf_readArea h g (8 * 27) 8
  unfold writeDepth
  split
  case h_1 hu => rw [hu] at read; exact read
  case h_2 u old hu =>
    rw [hu] at read
    have cleared := memoryWf_clearArea g read ((List.range (4 * (old.toNat - d))).map (11 + 4 * d + ·))
    split
    case h_1 hv => rw [hv] at cleared; exact cleared
    case h_2 hv => rw [hv] at cleared; exact memoryWf_writeArea cleared _ _ _ _

/-! ## SLOTCTL on its target -/

@[simp] theorem memoryWf_ctlRead {s : State} (h : s.memoryWf = true) (f : CtlGet) (g : GRef) (i l : Nat) :
    (f.run s g i l).1.memoryWf = true := by
  cases f with
  | state => exact h
  | rdsr =>
    show (ctlRdsr s g i l).1.memoryWf = true
    unfold ctlRdsr
    split
    case h_5 => split <;> simp [h]
    all_goals exact h
  | rds =>
    show (ctlRds s g i l).1.memoryWf = true
    unfold ctlRds
    dsimp only
    split
    · exact h
    · split <;> simp [h]
  | rdv =>
    show (ctlRdv s g i l).1.memoryWf = true
    unfold ctlRdv
    simp only [apply_ite Prod.fst, apply_ite State.memoryWf, State.memoryWf_draw, memoryWf_readArea h, h, ite_self]
  | rdctx =>
    show (ctlRdctx s g i l).1.memoryWf = true
    unfold ctlRdctx
    split
    · exact h
    · split <;> simp [h]

@[simp] theorem memoryWf_ctlWrite {s : State} (h : s.memoryWf = true) (f : CtlSet) (g : GRef) (i l : Nat) (v : Word) :
    (f.run s g i l v).1.memoryWf = true := by
  cases f with
  | wrsr =>
    show (ctlWrsr s g i l v).1.memoryWf = true
    unfold ctlWrsr
    split
    · exact h
    · split
      · exact h
      · split
        · simpa using h
        · split <;> simp [h]
        · exact h
  | wrs =>
    show (ctlWrs s g i l v).1.memoryWf = true
    unfold ctlWrs
    split
    · exact h
    · split
      · simpa using h
      · split
        · exact h
        · exact memoryWf_fillArea (memoryWf_writeArea h _ _ _ _) _ _ _
      · exact h
  | wrv =>
    show (ctlWrv s g i l v).1.memoryWf = true
    unfold ctlWrv
    simp only [apply_ite Prod.fst, apply_ite State.memoryWf, State.memoryWf_setLanes, h, ite_self,
      memoryWf_fillArea (memoryWf_writeArea h _ _ _ _)]
  | wrctx =>
    show (ctlWrctx s g i l v).1.memoryWf = true
    unfold ctlWrctx
    split
    · exact h
    · split
      · simpa using h
      · split
        · exact memoryWf_writeDepth h _ _
        · exact memoryWf_writeArea h _ _ _ _
      · exact h

/-! ## RESUME, KILL and SPILL -/

theorem memoryWf_redoElts (g : GRef) (pid : BitVec 16) (k : Acc) {s : State} (h : s.memoryWf = true) (l : List Elt) :
    (redoElts g pid k s l).1.memoryWf = true := by
  induction l generalizing s with
  | nil => exact h
  | cons e l ih =>
    have place := memoryWf_resolve h g.pkg g.cell pid e.addr e.n k
    unfold redoElts
    split
    case h_1 hu => rw [hu] at place; exact place
    case h_2 hu => rw [hu] at place; exact ih place

@[simp] theorem memoryWf_redoUnits (g : GRef) (o : Op) {s : State} (h : s.memoryWf = true) (l : List OpUnit) :
    (redoUnits g o s l).1.memoryWf = true := by
  induction l generalizing s with
  | nil => exact h
  | cons u l ih =>
    unfold redoUnits
    split
    · exact ih h
    · exact ih (memoryWf_redoElts _ _ _ h _)

theorem memoryWf_reissue {s : State} (h : s.memoryWf = true) (g : GRef) (o : Op) : (reissue s g o).memoryWf = true := by
  have redone := memoryWf_redoUnits g o h o.units
  unfold reissue
  extract_lets x s' us had o' now s'' home s3
  have placed : s3.memoryWf = true := by simpa [s3, s''] using redone
  split
  · exact State.memoryWf_ite placed (by simpa using placed)
  · exact placed

@[simp] theorem memoryWf_setGoing {s : State} (h : s.memoryWf = true) (g : GRef) : (setGoing s g).memoryWf = true := by
  unfold setGoing
  exact memoryWf_foldl (fun _ _ h => memoryWf_reissue h _ _) _ (by simpa using h)

@[simp] theorem memoryWf_ctlResume {s : State} (h : s.memoryWf = true) (g : GRef) (a : Asker) :
    (ctlResume s g a).1.memoryWf = true := by
  unfold ctlResume
  dsimp only
  split
  · split <;> simp [h]
  · split <;> simp [h]
  · exact h

@[simp] theorem memoryWf_ctlKill {s : State} (h : s.memoryWf = true) (g : GRef) (a : Asker) :
    (ctlKill s g a).1.memoryWf = true := by
  unfold ctlKill
  split
  · exact h
  · exact h
  · dsimp only
    split <;> simp [h]

@[simp] theorem memoryWf_ctlSpill {s : State} (h : s.memoryWf = true) (g : GRef) (a : Asker) :
    (ctlSpill s g a).1.memoryWf = true := by
  unfold ctlSpill
  dsimp only
  split
  · rw [State.memoryWf_mapSlot_eq]
    exact State.memoryWf_ite (by simpa using h) ((State.memoryWf_mapSlot_eq _ _ _).trans (memoryWf_abandonWait (by simpa using h) _))
  · exact h

@[simp] theorem memoryWf_giveAsker {s : State} (h : s.memoryWf = true) (p : PkgId) (a : Asker) (v : Word) :
    (giveAsker s p a v).memoryWf = true := by cases a <;> simp [giveAsker, h]

@[simp] theorem memoryWf_answerAsker {s : State} (h : s.memoryWf = true) (p : PkgId) (a : Asker) (ok : Bool) :
    (answerAsker s p a ok).memoryWf = true := memoryWf_giveAsker h _ _ _

@[simp] theorem memoryWf_spillFailed (s : State) (g : GRef) : (spillFailed s g).memoryWf = s.memoryWf := by
  simp [spillFailed, Cell.rerunStreams]

@[simp] theorem memoryWf_spillDone (s : State) (g : GRef) (was : SlotMode) : (spillDone s g was).memoryWf = s.memoryWf := by
  simp [spillDone]

@[simp] theorem keepsMemory_execSpillComplete {s : State} (h : s.memoryWf = true) (g : GRef) : keepsMemory (execSpillComplete g s) = true := by
  unfold execSpillComplete
  rw [keepsMemory_occur]
  dsimp only
  split
  · refine State.memoryWf_ite (by simp [h]) (State.memoryWf_ite h ?_)
    generalize hu : areaWrites _ _ _ = u
    have saved : u.1.memoryWf = true := hu ▸ memoryWf_areaWrites g (by simpa [Cell.pauseStreams] using h) _
    split
    · simp [saved]
    · exact State.memoryWf_ite (by simp [saved]) h
  · exact h

theorem memoryWf_readVectors (g : GRef) (t : Slot) (l : List Nat) {s : State} (h : s.memoryWf = true) :
    (readVectors g t l s).1.memoryWf = true := by
  induction l generalizing s with
  | nil => exact h
  | cons r l ih =>
    have first := memoryWf_areaWords g 16 h (t.areaVector r)
    unfold readVectors
    split
    case h_1 hu => rw [hu] at first; exact first
    case h_2 hu => rw [hu] at first; exact ih first

theorem memoryWf_readQueues (g : GRef) (base : Nat) (ws : List (Option Nat)) (l : List (Nat × BitVec 5)) (i : Nat) {s : State}
    (h : s.memoryWf = true) : (readQueues g base ws l i s).1.memoryWf = true := by
  induction l generalizing s i with
  | nil => exact h
  | cons b l ih =>
    have words (n : Nat) := memoryWf_areaWords g n h (base + 1024 * i)
    unfold readQueues
    dsimp only
    generalize hu : areaWords _ _ _ _ = u
    have first : u.1.memoryWf = true := hu ▸ words _
    split
    · exact first
    · exact ih _ first

theorem memoryWf_readSaved {s : State} (h : s.memoryWf = true) (g : GRef) : (readSaved s g).1.memoryWf = true := by
  have words := memoryWf_areaWords g 96 h 0
  unfold readSaved
  dsimp only
  split
  case h_1 hu => rw [hu] at words; exact words
  case h_2 u ws hu =>
    rw [hu] at words
    split
    · exact words
    · have vectors := memoryWf_readVectors g (s.slotAt g) ((s.slotAt g).unbound (s.slotAt g).savedLim.toNat) words
      split
      case h_1 hv => rw [hv] at vectors; exact vectors
      case h_2 v _ hv =>
        rw [hv] at vectors
        have queues := memoryWf_readQueues g ((s.slotAt g).areaVector (s.slotAt g).savedLim.toNat) ws (s.slotAt g).binds 0 vectors
        split
        case h_1 hw => rw [hw] at queues; exact queues
        case h_2 hw => rw [hw] at queues; split <;> exact queues

/-- A cell into whose vector registers saved contents are put keeps its memory. -/
theorem Cell.memoryWf_putVectors (base : Nat) (l : List (Nat × List (Option Nat))) (c : Cell) :
    (l.foldl (fun (c : Cell) v =>
      { c with vregs := Table.set VReg.zero c.vregs (base + v.1) (VReg.ofWords v.2)
               vPoison := (List.range 16).foldl (fun p u => if (v.2.getD u none).isNone then p.insert (16 * (base + v.1) + u) else p) c.vPoison })
      c).memoryWf = c.memoryWf := by
  induction l generalizing c with
  | nil => rfl
  | cons v l ih => rw [List.foldl_cons, ih]; rfl

@[simp] theorem memoryWf_restoreSlot {s : State} (h : s.memoryWf = true) (g : GRef) (base : Nat) (x : Saved) :
    (restoreSlot s g base x).memoryWf = true := by
  unfold restoreSlot
  refine memoryWf_setGoing ?_ g
  rw [State.memoryWf_mapSlot_eq]
  refine (State.memoryWf_mapCell_eq s _ _ fun t => ?_).trans h
  exact Cell.memoryWf_putVectors base x.vectors _

@[simp] theorem keepsMemory_execResumeRestore {s : State} (h : s.memoryWf = true) (g : GRef) : keepsMemory (execResumeRestore g s) = true := by
  have saved := memoryWf_readSaved h g
  unfold execResumeRestore
  rw [keepsMemory_occur]
  dsimp only
  split
  · refine State.memoryWf_ite h (State.memoryWf_ite (by simp [h]) ?_)
    split
    · simp [h]
    · split
      case h_1 => exact h
      case h_2 hu => rw [hu] at saved; simp [saved]
      case h_3 hu => rw [hu] at saved; simp [saved]
  · exact h

/-! ## SLOTCTL -/

theorem memoryWf_onTarget {c : Ctx} (r : SReg) {body : GRef → Nat → Nat → Issue} (hb : ∀ g i l, (body g i l).memoryWf = true) :
    (onTarget c r body).memoryWf = true := by
  unfold onTarget
  dsimp only
  split
  · rfl
  · split
    · rfl
    · split
      · rfl
      · split
        · rfl
        · exact hb _ _ _

theorem CtlStop.memoryWf_issue (e : CtlStop) : e.issue.memoryWf = true := by cases e <;> rfl

@[simp] theorem State.memoryWf_arriveCtl (s : State) (g : GRef) (act : CtlAct) (a : Asker) :
    (s.arriveCtl g act a).memoryWf = s.memoryWf := by simp [State.arriveCtl]

theorem keepsMemory_slotctlRead {s : State} (h : s.memoryWf = true) (f : CtlGet) (v g : SReg) :
    keepsMemory (slotctlRead f v g s) = true :=
  keepsMemory_run h _ fun c hc => memoryWf_onTarget _ fun t i l => by
    dsimp only
    split
    · generalize hi : Ctx.issueAlone c _ = x
      have issued : x.memoryWf = true := hi ▸ memoryWf_issueAlone hc _
      split
      · simpa using issued
      · exact issued
    · have read := memoryWf_ctlRead hc f t i l
      split
      · exact CtlStop.memoryWf_issue _
      case h_2 hu => rw [hu] at read; exact memoryWf_issueAlone read _

theorem keepsMemory_slotctlWrite {s : State} (h : s.memoryWf = true) (f : CtlSet) (v g : SReg) :
    keepsMemory (slotctlWrite f v g s) = true :=
  keepsMemory_run h _ fun c hc => memoryWf_onTarget _ fun t i l => by
    split
    · simpa using hc
    · have written := memoryWf_ctlWrite hc f t i l (c.sreg v)
      split
      · exact CtlStop.memoryWf_issue _
      case h_2 hu => rw [hu] at written; exact written

@[simp] theorem memoryWf_failAsker {s : State} (h : s.memoryWf = true) (p : PkgId) (a : Asker) (e : CtlStop) :
    (failAsker s p a e).memoryWf = true := by
  unfold failAsker
  split
  · split <;> simp [h]
  · simp [h]
  · split <;> simp [h]

@[simp] theorem memoryWf_performCtl {s : State} (h : s.memoryWf = true) (g : GRef) : (performCtl s g).memoryWf = true := by
  unfold performCtl
  split
  · exact h
  · dsimp only
    have left : (s.mapSlot g fun t => { t with ctl := none }).memoryWf = true := by simpa using h
    split
    · split <;> simp [left]
    · split <;> simp [left]
    · split <;> simp [left]
    case h_4 f i l _ =>
      have read := memoryWf_ctlRead left f g i l
      split
      · simpa using left
      · simp [left]
      case h_3 hu => rw [hu] at read; simp [read]
    case h_5 f i l v _ =>
      have written := memoryWf_ctlWrite left f g i l v
      split
      · simpa using left
      · simp [left]
      case h_3 hu => rw [hu] at written; simp [written]

@[simp] theorem memoryWf_arriveAct {s : State} (h : s.memoryWf = true) (g : GRef) (act : CtlAct) (a : Asker) :
    (arriveAct s g act a).memoryWf = true :=
  State.memoryWf_ite (memoryWf_performCtl (by simpa using h) _) (by simpa using h)

theorem keepsMemory_slotctlAct {s : State} (h : s.memoryWf = true) (act : CtlAct) (v g : SReg) :
    keepsMemory (slotctlAct act v g s) = true :=
  keepsMemory_run h _ fun c hc => memoryWf_onTarget _ fun t i l => by
    dsimp only
    generalize hi : Ctx.issueAlone c _ = x
    have issued : x.memoryWf = true := hi ▸ memoryWf_issueAlone hc _
    split
    · exact memoryWf_arriveAct issued _ _ _
    · exact issued

theorem memoryWf_finishKill {s : State} (h : s.memoryWf = true) (g : GRef) : (finishKill s g).memoryWf = true := by
  have settled := memoryWf_settleKill h g
  unfold finishKill
  dsimp only
  refine State.memoryWf_ite settled ?_
  split
  · split <;> simp [settled]
  · split <;> simp [settled]

theorem memoryWf_mboxTarget (p : PkgId) (q : BitVec 3) (op : Nat) {s : State} (h : s.memoryWf = true)
    {body : State → GRef → Nat → Nat → Word → State}
    (hb : ∀ s g i l v, s.memoryWf = true → (body s g i l v).memoryWf = true) :
    (mboxTarget p q op s body).memoryWf = true := by
  unfold mboxTarget
  dsimp only
  split
  · exact h
  · refine State.memoryWf_ite h (memoryWf_beginSlotctl h _ _ _ fun t _ ht => ?_)
    exact State.memoryWf_ite (by simp [ht]) (State.memoryWf_ite (by simp [ht]) (hb _ _ _ _ _ ht))

@[simp] theorem memoryWf_unbegun (s : State) (p : PkgId) (q : BitVec 3) : (unbegun s p q).memoryWf = s.memoryWf := by
  simp [unbegun]

theorem keepsMemory_mboxRead {s : State} (h : s.memoryWf = true) (f : CtlGet) (op : Nat) (p : PkgId) (q : BitVec 3) :
    keepsMemory (mboxRead f op p q s) = true :=
  memoryWf_mboxTarget p q op h fun s g i l _ hs => by
    have read := memoryWf_ctlRead hs f g i l
    refine State.memoryWf_ite (by simpa using hs) ?_
    split
    · simpa using hs
    · simp [hs]
    case h_3 hu => rw [hu] at read; simp [read]

theorem keepsMemory_mboxWrite {s : State} (h : s.memoryWf = true) (f : CtlSet) (op : Nat) (p : PkgId) (q : BitVec 3) :
    keepsMemory (mboxWrite f op p q s) = true :=
  memoryWf_mboxTarget p q op h fun s g i l v hs => by
    have written := memoryWf_ctlWrite hs f g i l v
    refine State.memoryWf_ite (by simpa using hs) ?_
    split
    · simpa using hs
    · simp [hs]
    case h_3 hu => rw [hu] at written; simp [written]

theorem keepsMemory_mboxAct {s : State} (h : s.memoryWf = true) (act : CtlAct) (op : Nat) (p : PkgId) (q : BitVec 3) :
    keepsMemory (mboxAct act op p q s) = true :=
  memoryWf_mboxTarget p q op h fun _ _ _ _ _ hs => memoryWf_arriveAct hs _ _ _

end Sys2Proof.Machine

/-! The canonical form of memory through the commands of partitions, redundant groups and protection groups. -/

namespace Sys2Proof.Machine

/-! ## Graphs, invalidations and fences -/

@[simp] theorem State.memoryWf_mapRing (s : State) (p : PkgId) (x : BitVec 6) (f : HostRing → HostRing) :
    (s.mapRing p x f).memoryWf = s.memoryWf := by simp [State.mapRing]

@[simp] theorem keepsMemory_execGraphload {s : State} (h : s.memoryWf = true) (p : PkgId) (q : BitVec 3) :
    keepsMemory (execGraphload p q s) = true :=
  memoryWf_beginCmd h p q 2 fun t c ht =>
    State.memoryWf_ite (by simp [ht]) (State.memoryWf_ite (by simp [ht]) (by simpa using ht))

@[simp] theorem keepsMemory_execGraphLoadComplete {s : State} (h : s.memoryWf = true) (p : PkgId) (x : BitVec 6) :
    keepsMemory (execGraphLoadComplete p x s) = true := by
  have loaded := memoryWf_loadGraph h p x
  exact State.memoryWf_ite h (State.memoryWf_ite loaded (State.memoryWf_ite (memoryWf_completeCmd loaded _ _ _ _) loaded))

@[simp] theorem memoryWf_teardown {s : State} (h : s.memoryWf = true) (p : PkgId) (x : BitVec 6) :
    (teardown s p x).memoryWf = true := by simp [teardown, h]

@[simp] theorem keepsMemory_execGraphtear {s : State} (h : s.memoryWf = true) (p : PkgId) (q : BitVec 3) :
    keepsMemory (execGraphtear p q s) = true :=
  memoryWf_beginCmd h p q 3 fun t c ht =>
    State.memoryWf_ite (by simp [ht]) (State.memoryWf_ite (by simp [ht]) (by simp [ht]))

@[simp] theorem keepsMemory_execGraphTeardownComplete {s : State} (h : s.memoryWf = true) (p : PkgId) (x : BitVec 6) :
    keepsMemory (execGraphTeardownComplete p x s) = true := by
  unfold execGraphTeardownComplete
  rw [keepsMemory_occur]
  refine State.memoryWf_ite ?_ h
  dsimp only
  split
  · exact State.memoryWf_ite (by simp [h]) (by simpa using h)
  · simpa using h

@[simp] theorem keepsMemory_execInval {s : State} (h : s.memoryWf = true) (p : PkgId) (q : BitVec 3) : keepsMemory (execInval p q s) = true :=
  memoryWf_beginCmd h p q 4 fun t c ht => State.memoryWf_ite (by simp [ht]) ht

@[simp] theorem keepsMemory_execInvalidationComplete {s : State} (h : s.memoryWf = true) (p : PkgId) (q : BitVec 3) :
    keepsMemory (execInvalidationComplete p q s) = true := by
  unfold execInvalidationComplete
  rw [keepsMemory_occur]
  split
  · exact State.memoryWf_ite (by simp [h]) h
  · exact h

@[simp] theorem keepsMemory_execMboxFence {s : State} (h : s.memoryWf = true) (p : PkgId) (q : BitVec 3) :
    keepsMemory (execMboxFence p q s) = true :=
  memoryWf_beginCmd h p q 5 fun t c ht => State.memoryWf_ite (by simp [ht]) (by simp [ht])

@[simp] theorem keepsMemory_execUnfence {s : State} (h : s.memoryWf = true) (p : PkgId) (q : BitVec 3) :
    keepsMemory (execUnfence p q s) = true :=
  memoryWf_beginCmd h p q 6 fun t c ht => State.memoryWf_ite (by simp [ht]) (by simp [ht])

/-! ## Draining a colour -/

@[simp] theorem memoryWf_acknowledgeParity (s : State) (d : Delta) : (acknowledgeParity s d).memoryWf = s.memoryWf := by
  unfold acknowledgeParity
  split
  · split <;> simp
  · split <;> simp
  · simp [Pkg.released]
  · rfl

@[simp] theorem memoryWf_loseParity (s : State) (d : Delta) : (loseParity s d).memoryWf = s.memoryWf := by
  unfold loseParity
  split
  · split <;> simp
  · split
    · rfl
    · dsimp only
      split
      · split <;> simp
      · simp
  · simp [Pkg.lostWrite]
  · rfl

@[simp] theorem memoryWf_discardOp {s : State} (h : s.memoryWf = true) (g : GRef) (o : Op) : (discardOp s g o).memoryWf = true := by
  have drawn : s.draw.memoryWf = true := h
  have performed (l : List Nat) : (l.foldl (fun s j => match s.opOf g o.id with
      | some o' => if o'.live && ((o'.units[j]?).map (·.done)) == some false then performUnit s g o.id j else s
      | none => s) s.draw).memoryWf = true :=
    memoryWf_foldl (fun s j hs => by
      split
      · exact State.memoryWf_ite (memoryWf_performUnit hs _ _ _) hs
      · exact hs) l drawn
  unfold discardOp
  dsimp only
  rw [State.memoryWf_mapOp]
  exact State.memoryWf_unwait (State.memoryWf_ite (performed _) drawn) _ _

@[simp] theorem memoryWf_discardParity (s : State) (p : PkgId) (q : Part) (c : BitVec 4) :
    (discardParity s p q c).memoryWf = s.memoryWf := by
  unfold discardParity
  dsimp only
  rw [State.memoryWf_orphanDeltas]
  exact memoryWf_foldl_eq memoryWf_loseParity _ s

@[simp] theorem memoryWf_forceDrain {s : State} (h : s.memoryWf = true) (p : PkgId) (q : BitVec 3) (c : BitVec 4) :
    (forceDrain s p q c).memoryWf = true := by
  unfold forceDrain
  dsimp only
  rw [State.memoryWf_mapPart, State.memoryWf_draw, memoryWf_discardParity]
  refine memoryWf_foldl (fun s e hs => State.memoryWf_ite (memoryWf_foldl (fun s x hs => ?_) _ hs) hs) _ ?_
  · split <;> simp [hs]
  · refine memoryWf_foldl (fun s e hs => State.memoryWf_ite (memoryWf_foldl (fun s x hs => ?_) _ hs) hs) _ ?_
    · exact State.memoryWf_ite (by simpa using hs) hs
    · exact memoryWf_foldl (fun s e hs => memoryWf_foldl (fun s o hs => memoryWf_discardOp hs _ _) _ hs) _ h

/-! ## Resets and switches -/

@[simp] theorem memoryWf_freeChans (s : State) (p : PkgId) (cs : List (BitVec 12)) : (freeChans s p cs).memoryWf = s.memoryWf :=
  State.memoryWf_mapPkg_slots s p (fun _ _ _ t => { t with publishing := t.publishing.filter fun c => !cs.contains c })
    (by exact fun _ => rfl) (by exact fun _ => rfl) (by exact fun _ => rfl)

@[simp] theorem memoryWf_beginReset {s : State} (h : s.memoryWf = true) (p : PkgId) (q : BitVec 3) (opening : Bool) :
    (beginReset s p q opening).memoryWf = true := by
  unfold beginReset
  dsimp only
  rw [memoryWf_freeChans]
  refine memoryWf_foldl (fun s e hs => State.memoryWf_ite (memoryWf_foldl (fun s x hs => memoryWf_abortCtx hs _ _ _) _ hs) hs) _ ?_
  refine memoryWf_killSlots (memoryWf_foldl (fun s e hs => State.memoryWf_ite (by simp [hs]) hs) _ ?_) _
  simpa using h

/-- A wiped cell holds nothing in its memory. -/
theorem Cell.memoryWf_wiped (t : Cell) (active : Bool) : (t.wiped active).memoryWf = true := rfl

/-- Changing one cell after another to cells in canonical form. -/
theorem Pkg.memoryWf_foldl_mapCell {f : Cell → Cell} (hf : ∀ t, (f t).memoryWf = true) (cs : List CellId) {k : Pkg}
    (h : k.memoryWf = true) : (cs.foldl (fun (k : Pkg) c => k.mapCell c f) k).memoryWf = true := by
  induction cs generalizing k with
  | nil => exact h
  | cons c cs ih => exact ih (Pkg.memoryWf_mapCell h c fun _ _ => hf _)

@[simp] theorem memoryWf_wipeCells {s : State} (h : s.memoryWf = true) (p : PkgId) (q : Part) (active : Bool) :
    (wipeCells s p q active).memoryWf = true := by
  unfold wipeCells
  refine memoryWf_foldl (fun s c hs => State.memoryWf_settle hs _ _) _ ?_
  refine State.memoryWf_mapPkg (by simpa using h) p fun k hk => ?_
  exact Pkg.memoryWf_foldl_mapCell (fun t => Cell.memoryWf_wiped t active) _ hk

@[simp] theorem memoryWf_startAt (s : State) (q : Part) (g : GRef) (base lim : Nat) (entry : Word) (priv : Bool) :
    (startAt s q g base lim entry priv).memoryWf = s.memoryWf := by simp [startAt]

@[simp] theorem memoryWf_startLeads (s : State) (p : PkgId) (q : BitVec 3) : (startLeads s p q).memoryWf = s.memoryWf := by
  have leads (part : Part) (lead : Word) (b : Bool) :
      (if lead = 0 then s
        else part.cells.foldl (fun s c =>
          if b && part.super == { pkg := p, cell := c, slot := 0 } then s
          else startAt s part { pkg := p, cell := c, slot := 0 } 0 (part.field 4 8 8) lead
            (s.isSuper { pkg := p, cell := c, slot := 0 })) s).memoryWf = s.memoryWf := by
    split
    · rfl
    · exact memoryWf_foldl_eq (fun s c => by split <;> simp) _ s
  unfold startLeads
  extract_lets part lead inside u base
  have started : u.memoryWf = s.memoryWf := leads part lead inside
  split
  · exact started
  · split
    · exact (memoryWf_startAt _ _ _ _ _ _ _).trans started
    · exact (State.memoryWf_mapSlot_eq _ _ _).trans started

@[simp] theorem keepsMemory_execReset {s : State} (h : s.memoryWf = true) (p : PkgId) (q : BitVec 3) : keepsMemory (execReset p q s) = true :=
  memoryWf_beginCmd h p q 7 fun t c ht => State.memoryWf_ite (by simp [ht]) (by simp [ht])

@[simp] theorem keepsMemory_execPartitionResetComplete {s : State} (h : s.memoryWf = true) (p : PkgId) (q : BitVec 3) :
    keepsMemory (execPartitionResetComplete p q s) = true :=
  State.memoryWf_ite h (State.memoryWf_ite (State.memoryWf_ite (by simp [h]) h)
    (State.memoryWf_ite (by simp [h]) (by simp [h])))

@[simp] theorem keepsMemory_execSwitch {s : State} (h : s.memoryWf = true) (p : PkgId) (q : BitVec 3) : keepsMemory (execSwitch p q s) = true :=
  memoryWf_beginCmd h p q 8 fun t c ht =>
    State.memoryWf_ite (by simp [ht]) (State.memoryWf_ite (by simp [ht]) (by simpa using ht))

@[simp] theorem memoryWf_endSwitch {s : State} (h : s.memoryWf = true) (p : PkgId) (q : BitVec 3) (m : PartMode) (status : Byte) :
    (endSwitch s p q m status).memoryWf = true := by simp [endSwitch, h]

@[simp] theorem keepsMemory_execSwitchDrainComplete {s : State} (h : s.memoryWf = true) (p : PkgId) (q : BitVec 3) :
    keepsMemory (execSwitchDrainComplete p q s) = true := State.memoryWf_ite (by simp [h]) h

@[simp] theorem keepsMemory_execSwitchDeadline {s : State} (h : s.memoryWf = true) (p : PkgId) (q : BitVec 3) :
    keepsMemory (execSwitchDeadline p q s) = true := State.memoryWf_ite (by simp [h]) h

@[simp] theorem State.memoryWf_result (s : State) (p : PkgId) (r : Byte) : (s.result p r).memoryWf = s.memoryWf := by
  simp [State.result]

@[simp] theorem keepsMemory_execPartOpen {s : State} (h : s.memoryWf = true) (p : PkgId) (q : BitVec 3) :
    keepsMemory (execPartOpen p q s) = true :=
  State.memoryWf_ite h (State.memoryWf_ite (by simpa using h) (State.memoryWf_ite (by simpa using h) (by simp [h])))

@[simp] theorem State.memoryWf_dropSuper (s : State) (x : Part) : (s.dropSuper x).memoryWf = s.memoryWf := by
  unfold State.dropSuper
  split <;> simp

@[simp] theorem keepsMemory_execClose {s : State} (h : s.memoryWf = true) (p : PkgId) (q : BitVec 3) : keepsMemory (execClose p q s) = true :=
  State.memoryWf_ite h (State.memoryWf_ite (by simpa using h) (by simp [h]))

/-! ## Redundant groups -/

@[simp] theorem memoryWf_failCompare {s : State} (h : s.memoryWf = true) (g : GRef) (o : Op) (code n : Nat) :
    (failCompare s g o code n).memoryWf = true := by
  have failed := memoryWf_faultOp h g o (redundancyFault code n)
  unfold failCompare
  dsimp only
  split
  · exact State.memoryWf_ite failed (by simpa using failed)
  · exact failed

@[simp] theorem keepsMemory_execTwinHashArrival {s : State} (h : s.memoryWf = true) (g : GRef) (op : Nat) :
    keepsMemory (execTwinHashArrival g op s) = true := by
  unfold execTwinHashArrival
  rw [keepsMemory_occur]
  split
  · refine State.memoryWf_ite ?_ h
    split
    · split
      · exact h
      · exact State.memoryWf_ite (by simpa using h) (memoryWf_failCompare (memoryWf_failCompare h _ _ _ _) _ _ _ _)
    · exact h
  · exact h

@[simp] theorem keepsMemory_execTwinHashTimeout {s : State} (h : s.memoryWf = true) (g : GRef) :
    keepsMemory (execTwinHashTimeout g s) = true := by
  unfold execTwinHashTimeout
  rw [keepsMemory_occur]
  split <;> simp [h]

/-! ## Protection groups -/

@[simp] theorem State.memoryWf_mapProt (s : State) (p : PkgId) (f : ProtGroup → ProtGroup) :
    (s.mapProt p f).memoryWf = s.memoryWf := by simp [State.mapProt]
@[simp] theorem State.memoryWf_protResult (s : State) (p : PkgId) (r : Byte) : (s.protResult p r).memoryWf = s.memoryWf := by
  simp [State.protResult]

theorem keepsMemory_protCommand {s : State} (h : s.memoryWf = true) (p : PkgId) {body : State → State}
    (hb : (body s).memoryWf = true) : keepsMemory (protCommand p s body) = true := State.memoryWf_ite hb h

@[simp] theorem keepsMemory_execEnable {s : State} (h : s.memoryWf = true) (p : PkgId) : keepsMemory (execEnable p s) = true :=
  keepsMemory_protCommand h p
    (State.memoryWf_ite (by simpa using h) (State.memoryWf_ite (by simpa using h) (by simpa using h)))

@[simp] theorem keepsMemory_execProtectionInitComplete {s : State} (h : s.memoryWf = true) (p : PkgId) :
    keepsMemory (execProtectionInitComplete p s) = true := by
  refine State.memoryWf_ite ?_ h
  rw [State.memoryWf_mapProt]
  refine State.memoryWf_mapPkg h p fun k hk => ?_
  obtain ⟨hbm, ddr, cells⟩ := (Pkg.memoryWf_iff k).1 hk
  exact (Pkg.memoryWf_iff _).2 ⟨Memory.wf_filter hbm _, ddr, cells⟩

@[simp] theorem keepsMemory_execDisable {s : State} (h : s.memoryWf = true) (p : PkgId) : keepsMemory (execDisable p s) = true :=
  keepsMemory_protCommand h p (State.memoryWf_ite (by simpa using h) (by simpa using h))

@[simp] theorem State.memoryWf_mapProts (s : State) (ps : List PkgId) (f : ProtGroup → ProtGroup) :
    (s.mapProts ps f).memoryWf = s.memoryWf := memoryWf_foldl_eq (fun _ _ => State.memoryWf_mapProt _ _ _) _ s

/-- A change of every package that leaves its form as it is. -/
theorem State.memoryWf_mapPkgs (s : State) {f : Nat × Pkg → Pkg} (hf : ∀ e, (f e).memoryWf = e.2.memoryWf) :
    ({ s with pkgs := s.pkgs.map fun e => (e.1, f e) } : State).memoryWf = s.memoryWf := by
  unfold State.memoryWf
  simp only [List.all_map, Function.comp_def, hf]

@[simp] theorem memoryWf_dropHubWrites (s : State) (pick : PkgId → HubWrite → Bool) :
    (dropHubWrites s pick).memoryWf = s.memoryWf := by
  unfold dropHubWrites
  refine (State.memoryWf_mapPkgs _ ?_).trans (memoryWf_foldl_eq (fun _ _ => memoryWf_refuseWrite _ _ _ _) _ s)
  exact fun _ => rfl

@[simp] theorem memoryWf_fenceOps (m : PkgId) {s : State} (h : s.memoryWf = true) (p : PkgId) : (fenceOps m s p).memoryWf = true :=
  memoryWf_foldl (fun _ _ hs => memoryWf_foldl (fun _ _ hs => memoryWf_discardOp hs _ _) _ hs) _ h

theorem State.memoryWf_carry {s : State} (h : s.memoryWf = true) (ps : List PkgId) (ok : ProtMode → Bool)
    {f : PkgId → State → State} (hf : ∀ p s, (f p s).memoryWf = s.memoryWf) : (s.carry ps ok f).memoryWf = true :=
  memoryWf_foldl (fun _ _ hs => State.memoryWf_ite ((hf _ _).trans (by simpa using hs)) (by simpa using hs)) _ h

@[simp] theorem memoryWf_loseMember {s : State} (h : s.memoryWf = true) (lost : PkgId) : (loseMember s lost).memoryWf = true := by
  unfold loseMember
  dsimp only
  rw [memoryWf_dropHubWrites]
  refine memoryWf_foldl (fun _ _ hs => memoryWf_fenceOps _ hs _) _ ?_
  refine (State.memoryWf_mapPkg_frame _ _ (by exact fun _ => rfl) (by exact fun _ => rfl) (by exact fun _ => rfl)).trans ?_
  exact (memoryWf_foldl_eq memoryWf_loseParity _ s).trans h

theorem memoryWf_resend (s : State) (p : PkgId) (g : ProtGroup) : (s.mapPkg p g.resend).memoryWf = s.memoryWf :=
  State.memoryWf_mapPkg_frame s p (fun _ => rfl) (fun _ => rfl) fun _ => rfl

@[simp] theorem keepsMemory_execDeclare {s : State} (h : s.memoryWf = true) (p : PkgId) (m : BitVec 4) :
    keepsMemory (execDeclare p m s) = true := by
  refine keepsMemory_protCommand h p (State.memoryWf_ite (by simpa using h) (State.memoryWf_ite (by simpa using h) ?_))
  rw [State.memoryWf_protResult]
  have carried := State.memoryWf_carry h
  refine State.memoryWf_ite (carried _ _ fun p s => ?_) (memoryWf_loseMember (carried _ _ fun p s => ?_) _)
  all_goals exact (memoryWf_resend _ _ _).trans (State.memoryWf_mapProt _ _ _)

@[simp] theorem keepsMemory_execQuiesceDrainComplete {s : State} (h : s.memoryWf = true) (p : PkgId) :
    keepsMemory (execQuiesceDrainComplete p s) = true :=
  State.memoryWf_ite (State.memoryWf_ite (by simpa using h) (by simpa using h)) h

@[simp] theorem keepsMemory_execParityDelta {s : State} (h : s.memoryWf = true) (p : PkgId) (x : Nat) :
    keepsMemory (execParityDelta p x s) = true := by
  unfold execParityDelta
  rw [keepsMemory_occur]
  split
  · exact State.memoryWf_ite (memoryWf_arriveAtP h _ _) h
  · exact h

@[simp] theorem keepsMemory_execDeltaForward {s : State} (h : s.memoryWf = true) (p : PkgId) (x : Nat) :
    keepsMemory (execDeltaForward p x s) = true := by
  unfold execDeltaForward
  rw [keepsMemory_occur]
  split
  · exact memoryWf_arriveAtQ h _ _
  · exact State.memoryWf_ite (memoryWf_arriveStraight h _ _) h
  · exact h

@[simp] theorem keepsMemory_execDeltaAcknowledgement {s : State} (h : s.memoryWf = true) (p : PkgId) (x : Nat) :
    keepsMemory (execDeltaAcknowledgement p x s) = true := by
  unfold execDeltaAcknowledgement
  rw [keepsMemory_occur]
  split
  · exact State.memoryWf_ite (by simpa using h) h
  · exact h

@[simp] theorem keepsMemory_execParityAcknowledgement {s : State} (h : s.memoryWf = true) (p : PkgId) (x : Nat) :
    keepsMemory (execParityAcknowledgement p x s) = true := by
  unfold execParityAcknowledgement
  rw [keepsMemory_occur]
  split
  · exact State.memoryWf_ite (by simpa using h) h
  · exact h

@[simp] theorem keepsMemory_execDeltaSilence {s : State} (h : s.memoryWf = true) (p m : PkgId) :
    keepsMemory (execDeltaSilence p m s) = true := by
  refine State.memoryWf_ite ?_ (State.memoryWf_ite h (by simpa using h))
  simpa [Pkg.notice] using h

@[simp] theorem keepsMemory_execSectorReconstruction {s : State} (h : s.memoryWf = true) (p : PkgId) (sector : Nat) :
    keepsMemory (execSectorReconstruction p sector s) = true :=
  State.memoryWf_ite (by simp [h]) (State.memoryWf_ite (by simpa using h) h)

@[simp] theorem keepsMemory_execPatrolScrub {s : State} (h : s.memoryWf = true) (p : PkgId) (u : ScrubUnit) (bad : Bool) :
    keepsMemory (execPatrolScrub p u bad s) = true := by
  refine State.memoryWf_ite h ?_
  cases u with
  | hbm n | ddr n =>
    refine (State.memoryWf_mapPkg_eq s p fun k => ?_).trans h
    split <;> rfl
  | _ => exact State.memoryWf_ite (by simpa using h) h

@[simp] theorem keepsMemory_execRebuild {s : State} (h : s.memoryWf = true) (p : PkgId) : keepsMemory (execRebuild p s) = true :=
  keepsMemory_protCommand h p (State.memoryWf_ite (by simpa using h) (State.memoryWf_ite (by simpa using h)
    (State.memoryWf_carry h _ _ fun _ _ => by simp)))

@[simp] theorem memoryWf_rebuildSector (c : PkgId) (g : ProtGroup) (n : Nat) {s : State} (h : s.memoryWf = true) (sec : Nat) :
    (rebuildSector c g n s sec).memoryWf = true :=
  memoryWf_foldl (fun t e ht => State.memoryWf_mapPkg ht e.2 fun k hk => by
    split
    · exact Pkg.memoryWf_putTag (Pkg.memoryWf_putProtSector hk _ _ _) _ _ _
    · exact hk) _ h

@[simp] theorem memoryWf_endRebuild (s : State) (g : ProtGroup) : (endRebuild s g).memoryWf = s.memoryWf := by
  unfold endRebuild
  dsimp only
  rw [memoryWf_foldl_eq fun s e => State.memoryWf_mapPkg_frame s _ (by exact fun _ => rfl) (by exact fun _ => rfl) (by exact fun _ => rfl),
    State.memoryWf_mapProts]

@[simp] theorem keepsMemory_execStripeRebuild {s : State} (h : s.memoryWf = true) (p : PkgId) (stripe : Nat) :
    keepsMemory (execStripeRebuild p stripe s) = true := by
  have rebuilt (c : PkgId) (g : ProtGroup) : ((List.range 128).foldl (rebuildSector c g stripe) s).memoryWf = true :=
    memoryWf_foldl (fun _ _ hs => memoryWf_rebuildSector _ _ _ hs _) _ h
  exact State.memoryWf_ite (State.memoryWf_ite (by simp [rebuilt]) (by simp [rebuilt])) h

end Sys2Proof.Machine

/-! The canonical form of memory through the host link, the fabric, time, power and reset. -/

namespace Sys2Proof.Machine

/-! ## The host link -/

theorem memoryWf_hostTranslate {s : State} (h : s.memoryWf = true) (p : PkgId) (a : Word) (k : Acc) :
    (hostTranslate s p a k).1.memoryWf = true := by
  unfold hostTranslate
  dsimp only
  split
  · exact h
  · exact memoryWf_translate h _ _ _ _ _ _

theorem memoryWf_hostPart (p : PkgId) {s : State} (h : s.memoryWf = true) (e : Word × List Byte) :
    (hostPart p s e).memoryWf = true := by
  have found := memoryWf_hostTranslate h p e.1 .strWrite
  unfold hostPart
  split
  case h_1 hu => rw [hu] at found; simpa using found
  case h_2 hu => rw [hu] at found; exact memoryWf_issueStore _ (by simpa using found) _ _ _ _ _

@[simp] theorem keepsMemory_execHostWrite {s : State} (h : s.memoryWf = true) (p : PkgId) (off : Word) (bytes : List Byte) :
    keepsMemory (execHostWrite p off bytes s) = true :=
  State.memoryWf_ite h (memoryWf_foldl (fun _ _ hs => memoryWf_hostPart _ hs _) _ h)

theorem memoryWf_hostReadAt {s : State} (h : s.memoryWf = true) (p : PkgId) (a : Word) (n : Nat) :
    (hostReadAt s p a n).1.memoryWf = true := by
  have found := memoryWf_hostTranslate h p a .strRead
  unfold hostReadAt
  split
  case h_1 hu => rw [hu] at found; exact found
  case h_2 hu => rw [hu] at found; exact memoryWf_placeRead found _ _ _ _

@[simp] theorem keepsMemory_execHostRead {s : State} (h : s.memoryWf = true) (p : PkgId) (off : Word) (n : Nat) :
    keepsMemory (execHostRead p off n s) = true := by
  have read := memoryWf_hostReadAt h p ((s.pkgAt p).bar2 off) n
  refine State.memoryWf_ite h ?_
  split
  case h_1 hu => rw [hu] at read; simpa using read
  case h_2 hu => rw [hu] at read; simpa using read
  case h_3 => exact h

@[simp] theorem keepsMemory_execSvfence {s : State} (h : s.memoryWf = true) (p : PkgId) : keepsMemory (execSvfence p s) = true :=
  State.memoryWf_ite h (by simpa using h)

/-- What the host writes in a window is no memory. -/
theorem State.memoryWf_window {s : State} (h : s.memoryWf = true) (p : PkgId) {f : Pkg → Pkg}
    (hf : ∀ k, (f k).memoryWf = k.memoryWf) : (s.window p f).memoryWf = true :=
  (State.memoryWf_mapPkg_eq s p fun k => by split; exacts [hf k, rfl]).trans h

@[simp] theorem keepsMemory_execIntstat {s : State} (h : s.memoryWf = true) (p : PkgId) (v : Word) :
    keepsMemory (execIntstat p v s) = true := State.memoryWf_window h p fun _ => rfl

@[simp] theorem keepsMemory_execMevent {s : State} (h : s.memoryWf = true) (p : PkgId) (v : Word) :
    keepsMemory (execMevent p v s) = true := State.memoryWf_window h p fun _ => rfl

/-- Taking a package out of the machine, and putting one in canonical form into it. -/
theorem State.memoryWf_del {s : State} (h : s.memoryWf = true) (n : Nat) :
    ({ s with pkgs := Table.del s.pkgs n } : State).memoryWf = true :=
  List.all_eq_true.2 fun e he => List.all_eq_true.1 h e (Table.mem_del he)

@[simp] theorem keepsMemory_execFusepkg {s : State} (h : s.memoryWf = true) (p : PkgId) (v : Word) :
    keepsMemory (execFusepkg p v s) = true := by
  unfold execFusepkg
  rw [keepsMemory_occur]
  split
  · exact h
  case h_2 k hk =>
    refine State.memoryWf_ite h ?_
    have found : k.memoryWf = true := Table.all_find (P := Pkg.memoryWf) h hk
    exact Table.all_put (State.memoryWf_del h p.toNat) _ (P := Pkg.memoryWf) found

@[simp] theorem keepsMemory_execTimectlStep {s : State} (h : s.memoryWf = true) (p : PkgId) (v : Word) :
    keepsMemory (execTimectlStep p v s) = true :=
  State.memoryWf_window h p fun k => by dsimp only; split <;> rfl

@[simp] theorem keepsMemory_execPwrcap {s : State} (h : s.memoryWf = true) (p : PkgId) (v : Word) :
    keepsMemory (execPwrcap p v s) = true := State.memoryWf_window h p fun _ => rfl

@[simp] theorem keepsMemory_execProduceReport {s : State} (h : s.memoryWf = true) (p : PkgId) :
    keepsMemory (execProduceReport p s) = true := State.memoryWf_window h p fun _ => rfl

@[simp] theorem keepsMemory_execReportComplete {s : State} (h : s.memoryWf = true) (p : PkgId) :
    keepsMemory (execReportComplete p s) = true :=
  (State.memoryWf_mapPkg_eq s p fun k => by split <;> rfl).trans h

theorem Pkg.memoryWf_writeReg (k : Pkg) (r : HostReg) (v : Word) : (k.writeReg r v).memoryWf = k.memoryWf := by
  cases r with
  | ringWord g w =>
    unfold Pkg.writeReg
    dsimp only
    split
    · split <;> rfl
    · split <;> rfl
    · rfl
    · rfl
  | partWord | groupWord | nonce | mcmd | groupCmd => unfold Pkg.writeReg; dsimp only; split <;> rfl
  | _ => rfl

@[simp] theorem keepsMemory_execRegisterWrite {s : State} (h : s.memoryWf = true) (p : PkgId) (r : HostReg) (v : Word) :
    keepsMemory (execRegisterWrite p r v s) = true := State.memoryWf_window h p fun k => Pkg.memoryWf_writeReg k r v

@[simp] theorem keepsMemory_execHostRecordAppend {s : State} (h : s.memoryWf = true) (p : PkgId) (x : BitVec 6) :
    keepsMemory (execHostRecordAppend p x s) = true := by
  refine State.memoryWf_ite h (State.memoryWf_ite (by simpa using h) ?_)
  split
  · exact h
  · dsimp only
    generalize hu : hubReads _ _ _ _ _ = u
    have read : u.1.memoryWf = true := hu ▸ memoryWf_hubReads _ _ _ h _
    split
    · exact h
    · simpa using read
    · exact memoryWf_appendRecord (by simpa using read) _ _ _ _ _

/-! ## The fabric, time and power -/

@[simp] theorem keepsMemory_execPortUp {s : State} (h : s.memoryWf = true) (p : PkgId) (x : BitVec 5) (peer : PkgId) (pdom : BitVec 8) :
    keepsMemory (execPortUp p x peer pdom s) = true :=
  (State.memoryWf_mapPkg_eq s p fun k => by dsimp only; split <;> rfl).trans h

theorem Pkg.memoryWf_failPort (k : Pkg) (x : Nat) : (k.failPort x).memoryWf = k.memoryWf := by
  unfold Pkg.failPort
  dsimp only
  split <;> rfl

@[simp] theorem keepsMemory_execPortFailure {s : State} (h : s.memoryWf = true) (p : PkgId) (x : BitVec 5) :
    keepsMemory (execPortFailure p x s) = true := (State.memoryWf_mapPkg_eq s p fun k => Pkg.memoryWf_failPort k _).trans h

/-- Counting a replay, or failing the port at the last one. -/
theorem Pkg.memoryWf_replayed (k : Pkg) (x n : Nat) :
    (if replayLimit ≤ n then k.failPort x else { k with replays := Table.put k.replays x n } : Pkg).memoryWf = k.memoryWf := by
  split
  · exact Pkg.memoryWf_failPort k x
  · rfl

@[simp] theorem keepsMemory_execFlitReplay {s : State} (h : s.memoryWf = true) (p : PkgId) (x : BitVec 5) :
    keepsMemory (execFlitReplay p x s) = true := by
  exact State.memoryWf_ite ((State.memoryWf_mapPkg_eq s.draw p fun k => Pkg.memoryWf_replayed k _ _).trans h) h

@[simp] theorem keepsMemory_execRouteUnreachable {s : State} (h : s.memoryWf = true) (p m : PkgId) :
    keepsMemory (execRouteUnreachable p m s) = true :=
  State.memoryWf_ite (by simp [h]) h

@[simp] theorem keepsMemory_execTimeSync {s : State} (h : s.memoryWf = true) (p : PkgId) : keepsMemory (execTimeSync p s) = true := by
  refine State.memoryWf_ite h (State.memoryWf_ite ?_ (State.memoryWf_ite (by simpa using h) (by simpa using h)))
  split <;> simpa [Pkg.slewTo] using h

@[simp] theorem keepsMemory_execReferenceLoss {s : State} (h : s.memoryWf = true) (p : PkgId) :
    keepsMemory (execReferenceLoss p s) = true := State.memoryWf_ite h (by simpa [Pkg.notice] using h)

@[simp] theorem keepsMemory_execReferenceReturn {s : State} (h : s.memoryWf = true) (p : PkgId) :
    keepsMemory (execReferenceReturn p s) = true := by simpa [execReferenceReturn] using h

@[simp] theorem keepsMemory_execDroopTrip {s : State} (h : s.memoryWf = true) (p : PkgId) (die : BitVec 3) :
    keepsMemory (execDroopTrip p die s) = true := by simpa [execDroopTrip] using h

@[simp] theorem keepsMemory_execStretchEnd {s : State} (h : s.memoryWf = true) (p : PkgId) : keepsMemory (execStretchEnd p s) = true := by
  refine (State.memoryWf_mapPkg_eq s p fun k => ?_).trans h
  split
  · split <;> rfl
  · rfl

@[simp] theorem keepsMemory_execPowerAlert {s : State} (h : s.memoryWf = true) (p : PkgId) : keepsMemory (execPowerAlert p s) = true := by
  simpa [execPowerAlert, Pkg.notice] using h

@[simp] theorem memoryWf_powerLost (p : PkgId) (s : State) (d : Delta) : (powerLost p s d).memoryWf = s.memoryWf := by
  unfold powerLost
  dsimp only
  split
  · split <;> simp
  · simp

@[simp] theorem memoryWf_leaveBehind (p : PkgId) (was : Pkg) (s : State) : (leaveBehind p was s).memoryWf = s.memoryWf := by
  unfold leaveBehind
  dsimp only
  rw [memoryWf_foldl_eq (memoryWf_powerLost p), memoryWf_foldl_eq fun _ _ => State.memoryWf_dropSuper _ _]

@[simp] theorem keepsMemory_execThermalTrip {s : State} (h : s.memoryWf = true) (p : PkgId) : keepsMemory (execThermalTrip p s) = true :=
  State.memoryWf_ite ((memoryWf_leaveBehind _ _ _).trans (State.memoryWf_del h _)) h

/-! ## Reset and bring-up -/

/-- Zeroed cells hold nothing in their memory. -/
theorem Pkg.memoryWf_zeroCells (k : Pkg) : k.zeroCells.all (fun (e : Nat × Cell) => e.2.memoryWf) = true := by
  unfold Pkg.zeroCells
  rw [List.all_map]
  exact List.all_eq_true.2 fun _ _ => rfl

theorem Pkg.memoryWf_afterReset {k : Pkg} (h : k.memoryWf = true) : k.afterReset.memoryWf = true := by
  obtain ⟨hbm, ddr, _⟩ := (Pkg.memoryWf_iff k).1 h
  exact (Pkg.memoryWf_iff _).2 ⟨hbm, ddr, Pkg.memoryWf_zeroCells k⟩

@[simp] theorem memoryWf_settleCells (p : PkgId) {s : State} (h : s.memoryWf = true) : (settleCells p s).memoryWf = true :=
  memoryWf_foldl (fun _ _ hs => State.memoryWf_settle hs _ _) _ h

theorem memoryWf_resetPackage (p : PkgId) {s : State} (h : s.memoryWf = true) : (resetPackage p s).memoryWf = true := by
  unfold resetPackage
  rw [memoryWf_leaveBehind]
  exact memoryWf_settleCells p (State.memoryWf_mapPkg (by simpa using h) p fun _ => Pkg.memoryWf_afterReset)

@[simp] theorem keepsMemory_execPackageReset {s : State} (h : s.memoryWf = true) (p : PkgId) : keepsMemory (execPackageReset p s) = true :=
  memoryWf_resetPackage p h

@[simp] theorem keepsMemory_execResetpkg {s : State} (h : s.memoryWf = true) (p : PkgId) : keepsMemory (execResetpkg p s) = true :=
  State.memoryWf_ite (memoryWf_resetPackage p h) h

theorem Pkg.memoryWf_initialised {k : Pkg} (h : k.memoryWf = true) (ddrBad : Bool) : (k.initialised ddrBad).memoryWf = true := by
  obtain ⟨hbm, ddr, _⟩ := (Pkg.memoryWf_iff k).1 h
  unfold Pkg.initialised
  dsimp only
  split <;> exact (Pkg.memoryWf_iff _).2 ⟨hbm, ddr, Pkg.memoryWf_zeroCells k⟩

theorem Pkg.memoryWf_stage {k : Pkg} (h : k.memoryWf = true) (code : Byte) : (k.stage code).memoryWf = true := by
  unfold Pkg.stage
  split
  case h_3 =>
    split
    · exact Pkg.memoryWf_initialised h _
    · split
      · exact Pkg.memoryWf_initialised h _
      · split <;> exact h
  case h_5 | h_6 => exact h
  all_goals split <;> exact h

@[simp] theorem keepsMemory_execBringupStageComplete {s : State} (h : s.memoryWf = true) (p : PkgId) (code : Byte) :
    keepsMemory (execBringupStageComplete p code s) = true := by
  have staged : (s.mapPkg p fun k => k.stage code).memoryWf = true := State.memoryWf_mapPkg h p fun _ hk => Pkg.memoryWf_stage hk code
  unfold execBringupStageComplete
  rw [keepsMemory_occur]
  dsimp only
  split
  · simpa using staged
  · exact memoryWf_settleCells p staged
  · exact staged

end Sys2Proof.Machine

/-! Every step keeps the canonical form of memory (R42, R315, R323): the remaining instructions, the slot port, the turn of a slot. -/

namespace Sys2Proof.Machine

/-! ## Instructions of registers alone -/

/-- An instruction that only writes registers. -/
theorem keepsMemory_done {s : State} (h : s.memoryWf = true) (o : Opnds) {f : Ctx → State}
    (hf : ∀ c, (f c).memoryWf = c.s.memoryWf) : keepsMemory (run s o fun c => .done (f c)) = true :=
  keepsMemory_run h o fun c hc => (hf c).trans hc

theorem memoryWf_setNest {c : Ctx} (h : c.s.memoryWf = true) (n : List Nat) {k : State → State}
    (hk : ∀ t, (k t).memoryWf = t.memoryWf) : (setNest c n k).memoryWf = true := by
  unfold setNest
  split
  · rfl
  · simpa [hk] using h

theorem keepsMemory_flow {s : State} (h : s.memoryWf = true) (o : Opnds) (cond : Ctx → Nat → Bool) (f : Nat → Bool → Nat)
    {k : State → State} (hk : ∀ t, (k t).memoryWf = t.memoryWf) : keepsMemory (flow o cond f k s) = true :=
  keepsMemory_run h o fun _ hc => memoryWf_setNest hc _ hk

@[simp] theorem keepsMemory_execVsetnc {s : State} (h : s.memoryWf = true) (v : VRegNo) : keepsMemory (execVsetnc v s) = true :=
  keepsMemory_run h _ fun _ hc => memoryWf_setNest hc _ fun _ => rfl

@[simp] theorem keepsMemory_execVcvt {s : State} (h : s.memoryWf = true) (d a : VRegNo) (f : BitVec 7) (st sat : Bool)
    (k : BitVec 3) : keepsMemory (execVcvt d a f st sat k s) = true :=
  keepsMemory_run h _ fun c hc => by
    dsimp only
    split
    · rfl
    · rw [Issue.memoryWf_done]
      exact State.memoryWf_ite (by simpa using hc) (by simpa using hc)

/-! ## Exact sums -/

theorem memoryWf_issueXacc {c : Ctx} (h : c.s.memoryWf = true) (a : Act) (dst : Dest) (units : List OpUnit) (turns : Nat) :
    (issueXacc c a dst units turns).memoryWf = true := by
  unfold issueXacc
  split
  · rfl
  · simpa using h

theorem keepsMemory_runXacc {s : State} (h : s.memoryWf = true) (o : Opnds) {body : Ctx → Issue}
    (hb : ∀ c, c.s.memoryWf = true → (body c).memoryWf = true) : keepsMemory (runXacc s o body) = true :=
  keepsMemory_run h o fun c hc => by
    split
    · rfl
    · exact hb c hc

theorem keepsMemory_addImage {s : State} (h : s.memoryWf = true) (a : SReg) (b : VRegNo) (vals : Lane → List FpVal) :
    keepsMemory (addImage a b vals s) = true :=
  keepsMemory_runXacc h _ fun c hc => by
    dsimp only
    split
    · rfl
    · exact memoryWf_issueXacc hc _ _ _ _

@[simp] theorem keepsMemory_execXadd {s : State} (h : s.memoryWf = true) (a : SReg) (b : VRegNo) :
    keepsMemory (execXadd a b s) = true := keepsMemory_addImage h _ _ _
@[simp] theorem keepsMemory_execXaddh {s : State} (h : s.memoryWf = true) (a : SReg) (b : VRegNo) :
    keepsMemory (execXaddh a b s) = true := keepsMemory_addImage h _ _ _

@[simp] theorem keepsMemory_execXclr {s : State} (h : s.memoryWf = true) (a : SReg) : keepsMemory (execXclr a s) = true :=
  keepsMemory_runXacc h _ fun c hc => by
    dsimp only
    split
    · rfl
    · exact memoryWf_issueXacc hc _ _ _ _

@[simp] theorem keepsMemory_execXmerge {s : State} (h : s.memoryWf = true) (a b : SReg) : keepsMemory (execXmerge a b s) = true :=
  keepsMemory_runXacc h _ fun c hc => by
    split
    · rfl
    · rfl
    · exact memoryWf_issueXacc hc _ _ _ _

theorem keepsMemory_readOut {s : State} (h : s.memoryWf = true) (d a : SReg) (double : Bool) :
    keepsMemory (readOut d a double s) = true :=
  keepsMemory_runXacc h _ fun c hc => by
    dsimp only
    split
    · rfl
    · exact memoryWf_issueXacc hc _ _ _ _

@[simp] theorem keepsMemory_execXrdS {s : State} (h : s.memoryWf = true) (d a : SReg) : keepsMemory (execXrdS d a s) = true :=
  keepsMemory_readOut h _ _ _
@[simp] theorem keepsMemory_execXrdD {s : State} (h : s.memoryWf = true) (d a : SReg) : keepsMemory (execXrdD d a s) = true :=
  keepsMemory_readOut h _ _ _

theorem memoryWf_performXacc {s : State} (h : s.memoryWf = true) (g : GRef) (o : Op) (x : XaccOp) (j : Nat) :
    (performXacc s g o x j).memoryWf = true := by
  unfold performXacc
  split
  · exact h
  · split
    · simpa using h
    · dsimp only
      split
      · exact State.memoryWf_settle (State.memoryWf_poke (by simpa using h) _ _) _ _
      · simpa using h

theorem memoryWf_finishXacc (s : State) (g : GRef) (o : Op) (x : XaccOp) : (finishXacc s g o x).1.memoryWf = s.memoryWf := by
  cases x <;> simp [finishXacc]

/-! ## Every instruction and event -/

theorem keepsMemory_endHold {s : State} (h : s.memoryWf = true) (w : HoldWhy) (g : GRef) : keepsMemory (endHold w g s) = true := by
  simpa [endHold] using h

@[simp] theorem keepsMemory_execWaiterResend {s : State} (h : s.memoryWf = true) (g : GRef) (op : Nat) :
    keepsMemory (execWaiterResend g op s) = true := by simpa [execWaiterResend] using h

@[simp] theorem keepsMemory_execParkTimeout {s : State} (h : s.memoryWf = true) (g : GRef) :
    keepsMemory (execParkTimeout g s) = true := by simpa [execParkTimeout] using h

/-- EVERY INSTRUCTION AND EVENT keeps the form: those of registers alone, the accesses to memory, and the operations of one
shape together; each of the others by its own lemma. -/
theorem keepsMemory_exec {s : State} (h : s.memoryWf = true) (i : Instr) : keepsMemory (exec i s) = true := by
  cases i with
  | add | sub | and | or | xor | andn | shl | shr | sar | ror | mul | mulh | mulhu | div | divu | rem | remu | min |
    max | minu | maxu | seq | sne | slt | sltu | sle | sleu | clz | popc | brev | addw | subw | addi | andi | ori |
    xori | slti | sltiu | shli | shri | sari | rori | lui | addpc | movl | movlz | movlh | vgetnc | vadd | vsub | vmul
    | vmulh | vmulhu | vand | vor | vxor | vandn | vshl | vshr | vsar | vmin | vmax | vminu | vmaxu | vabs | vneg |
    vseq | vsne | vslt | vsltu | vsle | vsleu | vclz | vpopc | vaddsat | vsubsat | vaddsatu | vsubsatu | vdot4 |
    vdot4u | vaddScalar | vsubScalar | vmulScalar | vmulhScalar | vmulhuScalar | vandScalar | vorScalar | vxorScalar |
    vandnScalar | vshlScalar | vshrScalar | vsarScalar | vminScalar | vmaxScalar | vminuScalar | vmaxuScalar |
    vseqScalar | vsneScalar | vsltScalar | vsltuScalar | vsleScalar | vsleuScalar | vaddsatScalar | vsubsatScalar |
    vaddsatuScalar | vsubsatuScalar | vdot4Scalar | vdot4uScalar | vaddH | vsubH | vmulH | vmulhH | vminH | vmaxH |
    vminuH | vmaxuH | vaddsatH | vsubsatH | vaddsatuH | vsubsatuH | vseqH | vsltH | vshlH | vshrH | vsarH | vabsH |
    vfadd | vfsub | vfmul | vfma | vfms | vfnma | vfmin | vfmax | vfminnum | vfmaxnum | vfabs | vfneg | vfceq | vfclt
    | vfcle | vfcun | vfdiv | vfsqrt | vfrcp | vfrsq | vfexp2 | vflog2 | vfrint | vfclass | vfcopysign | vfaddScalar |
    vfsubScalar | vfmulScalar | vfmaScalar | vfmsScalar | vfnmaScalar | vfminScalar | vfmaxScalar | vfminnumScalar |
    vfmaxnumScalar | vfceqScalar | vfcltScalar | vfcleScalar | vfcunScalar | vfdivScalar | vfcopysignScalar | vhadd |
    vhsub | vhmul | vhfma | vhmin | vhmax | vhceq | vhclt | vhcle | vhcun | vhaddBf | vhsubBf | vhmulBf | vhfmaBf |
    vhminBf | vhmaxBf | vhceqBf | vhcltBf | vhcleBf | vhcunBf | vshuf | vrotl | vbfly | vbcast | vextr | vins |
    vprefix | vredadd | vredmin | vredmax | vredminu | vredmaxu | vredfadd | vmerge | vlaneid | vmov | vmovs |
    vactmask | vpackb | vunpkb | vpackh | vunpkh | vrand | vrandf =>
    exact keepsMemory_done h _ fun c => by simp
  | ld | lds | st | ldfe | stfe | ldf | stf | feset | feclr | feget | waiteq | waitne | vld | vldFe | vldF | vst |
    vstFe | vstF | vgath | vscat | vldk | vstk | aadd | aand | aor | axor | amin | amax | aminu | amaxu | aswap | acas
    | afadd | afmax | vaadd | vaand | vaor | vaxor | vamin | vamax | vaminu | vamaxu | vaswap | vafadd | nclaim => exact keepsMemory_memIssue h _ _
  | fence | fenceSc | fenceSv => exact keepsMemory_run h _ fun c hc => memoryWf_fenceBody hc _ _ _
  | vif | vifz | velse | vendif | vendifLx | vloopb | vbrk | vcont => exact keepsMemory_flow h _ _ _ fun _ => rfl
  | vloope => exact keepsMemory_flow h _ _ _ fun t => State.memoryWf_setS t _ _ _
  | slotctlState | slotctlRdsr | slotctlRds | slotctlRdv | slotctlRdctx => exact keepsMemory_slotctlRead h _ _ _
  | slotctlWrsr | slotctlWrs | slotctlWrv | slotctlWrctx => exact keepsMemory_slotctlWrite h _ _ _
  | slotctlResume | slotctlKill | slotctlSpill => exact keepsMemory_slotctlAct h _ _ _
  | mboxSlotctlState | mboxSlotctlRdsr | mboxSlotctlRds | mboxSlotctlRdv | mboxSlotctlRdctx => exact keepsMemory_mboxRead h _ _ _ _
  | mboxSlotctlWrsr | mboxSlotctlWrs | mboxSlotctlWrv | mboxSlotctlWrctx => exact keepsMemory_mboxWrite h _ _ _ _
  | mboxSlotctlResume | mboxSlotctlKill | mboxSlotctlSpill => exact keepsMemory_mboxAct h _ _ _ _
  | idleDelayEnd | groupStart | slotStartFirstIssue | resumedSlotFirstIssue | xaccHoldEnd => exact keepsMemory_endHold h _ _
  | _ => simp [h]

/-! ## The slot port and the turn of a slot -/

@[simp] theorem memoryWf_popPort (s : State) (p : PkgId) (c : CellId) : (popPort s p c).memoryWf = s.memoryWf := by
  simp [popPort]

theorem memoryWf_portEnd {s : State} (h : s.memoryWf = true) (g : GRef) (id : Nat) : (portEnd s g id).memoryWf = true := by
  unfold portEnd
  split
  · exact h
  case h_2 o _ =>
    refine State.memoryWf_ite h ?_
    split
    case h_1 x _ =>
      refine memoryWf_answerOp ?_ _ _
      split
      · exact (memoryWf_finishXacc s g o x).trans h
      · exact h
    case h_2 => exact State.memoryWf_ite (memoryWf_acknowledge h _ _) h

theorem memoryWf_portUnit {s : State} (h : s.memoryWf = true) (g : GRef) (o : Op) (u : Nat) : (portUnit s g o u).memoryWf = true := by
  unfold portUnit
  split
  · exact memoryWf_performXacc h _ _ _ _
  · exact memoryWf_performUnit h _ _ _

theorem memoryWf_servePort {s : State} (h : s.memoryWf = true) (p : PkgId) (c : CellId) : (servePort s p c).memoryWf = true := by
  unfold servePort
  split
  · exact h
  case h_2 j _ _ =>
    dsimp only
    split
    · simpa using h
    case h_2 o _ =>
      refine State.memoryWf_ite (by simpa using h) ?_
      split
      · simpa using h
      · have performed (u : Nat) := memoryWf_portUnit (s := (s.choose (j.next o)).1) (by simpa using h) (j.ref p c) o u
        exact State.memoryWf_ite (memoryWf_portEnd (by simpa using performed _) _ _) (performed _)

theorem memoryWf_endTurn (s : State) : (endTurn s).memoryWf = s.memoryWf := by
  unfold endTurn
  split
  · rfl
  · exact State.memoryWf_mapPkgs s fun _ => by unfold Pkg.tick Pkg.relock; dsimp only; split <;> rfl

/-- The state in which a slot comes to its turn has memory in canonical form. -/
def Turn.memoryWf : Turn → Bool
  | .issue s _ | .passed s | .empty s => s.memoryWf

theorem memoryWf_standing {s : State} (h : s.memoryWf = true) (g : GRef) : (standing s g).memoryWf = true := by
  unfold standing
  dsimp only
  split
  · exact h
  · split
    · split <;> exact h
    · have marked : (if (s.slotAt g).waitqDone then s else s.mapSlot g fun t => { t with waitqDone := true }).memoryWf = true :=
        State.memoryWf_ite h (by simpa using h)
      split
      · exact (State.memoryWf_mapSlot_eq _ _ _).trans marked
      · exact marked

theorem memoryWf_turnOf {s : State} (h : s.memoryWf = true) (g : GRef) : (turnOf s g).memoryWf = true := by
  have fetched := (memoryWf_fetchClause s g).trans h
  unfold turnOf
  split
  · exact h
  · split
    · exact memoryWf_standing h g
    · split
      case h_1 hu => rw [hu] at fetched; exact memoryWf_standing fetched g
      case h_2 hu => rw [hu] at fetched; exact fetched

theorem memoryWf_afterIssue {s : State} (h : s.memoryWf = true) (g : GRef) : (afterIssue s g).memoryWf = true :=
  State.memoryWf_ite h ((memoryWf_endTurn _).trans (memoryWf_settleStop h _))

theorem keepsMemory_takeTurn {s : State} (h : s.memoryWf = true) : keepsMemory (takeTurn s) = true := by
  have turn := memoryWf_turnOf h s.cur
  unfold takeTurn
  split
  · exact (memoryWf_endTurn s).trans h
  · split
    case h_1 hu => rw [hu] at turn; exact (memoryWf_endTurn _).trans (memoryWf_settleStop turn _)
    case h_2 hu => rw [hu] at turn; exact keepsMemory_exec turn _
    case h_3 i hu =>
      rw [hu] at turn
      have issued := keepsMemory_exec turn i
      split
      case h_1 hv => rw [hv] at issued; exact memoryWf_afterIssue issued _
      case h_2 => rfl
      case h_3 => rfl

theorem keepsMemory_takeInput {s : State} (h : s.memoryWf = true) (i : Instr) : keepsMemory (takeInput s i) = true := by
  unfold takeInput
  dsimp only
  split
  · exact keepsMemory_exec (s := { s with agenda := s.agenda.tail }) h i
  · exact h

theorem memoryWf_settled {s t : State} (h : s.memoryWf = true) (ht : settled s = some t) : t.memoryWf = true := by
  unfold settled at ht
  simp only [Option.or_eq_some_iff, Option.map_eq_some_iff] at ht
  obtain ⟨_, _, rfl⟩ | ⟨_, ⟨_, _, rfl⟩ | ⟨_, ⟨_, _, rfl⟩ | ⟨_, _, _, rfl⟩⟩⟩ := ht
  · exact memoryWf_servePort h _ _
  · exact memoryWf_performCtl h _
  · exact memoryWf_finishKill h _
  · exact memoryWf_settleStop h _

theorem memoryWf_moves {s t : State} (h : s.memoryWf = true) (ht : t ∈ moves s) : t.memoryWf = true := by
  unfold moves at ht
  simp only [List.mem_append, List.mem_map] at ht
  obtain ⟨_, _, rfl⟩ | ⟨_, _, rfl⟩ := ht
  · exact memoryWf_servePort (s := s.draw) h _ _
  · exact memoryWf_drainHub (s := s.draw) h _

theorem keepsMemory_choose {s : State} (h : s.memoryWf = true) : keepsMemory (choose s) = true := by
  unfold choose
  dsimp only
  split
  · exact keepsMemory_takeTurn h
  · split
    · split
      · exact keepsMemory_takeInput (s := s.draw) h _
      · exact keepsMemory_exec (s := s.draw) h _
    case h_2 ht => exact memoryWf_moves h (List.mem_of_getElem? ht)
    · exact keepsMemory_takeTurn (s := s.draw) h

theorem keepsMemory_step {s : State} (h : s.memoryWf = true) : keepsMemory (step s) = true := by
  unfold step
  split
  · rfl
  · split
    · exact keepsMemory_takeTurn h
    · split
      case h_1 ht => exact memoryWf_settled h ht
      case h_2 =>
        split
        · exact keepsMemory_exec h _
        · exact keepsMemory_choose h

/-- Settles O55: every operation of the machine keeps the canonical form, so every step does. -/
theorem stepKeepsMemoryForm : Obligations.StepKeepsMemoryForm := by
  unfold Obligations.StepKeepsMemoryForm
  intro s t h hst
  have kept := keepsMemory_step h
  rw [hst] at kept
  exact kept

end Sys2Proof.Machine

/-! No step is refused, and only a machine without packages faults (R12, R360). -/

namespace Sys2Proof.Machine

/-! ## What answers -/

/-- An outcome is a next state. -/
def answers (r : Host.Outcome State Fault Refusal) : Prop := ∃ t, r = .next t

theorem answers_next (t : State) : answers (.next t) := ⟨t, rfl⟩

/-- Whether the package of the slot whose turn it is is present. -/
def State.curHere (s : State) : Bool := s.hasPkg s.cur.pkg

theorem answers_run {s : State} (h : s.curHere = true) (o : Opnds) (body : Ctx → Issue) : answers (run s o body) := by
  unfold run
  rw [if_pos (show s.hasPkg s.cur.pkg = true from h)]
  split <;> exact answers_next _

/-- WHERE THE SLOT'S PACKAGE IS PRESENT every instruction answers; events always do. -/
theorem answers_exec {s : State} (h : s.curHere = true) (i : Instr) : answers (exec i s) := by
  cases i with
  | take ta tb => exact ⟨_, if_pos h⟩
  | illegalEncoding clause => exact ⟨_, if_pos h⟩
  | idleDelayEnd | waitqSatisfied | instructionCacheRefill | icinvComplete | producerValueWrite |
    postedAcknowledgement | activeMessage | waiterResend | fewaitExpiry | cancelAnswer | barrierArrival | wakeArrival
    | parkTimeout | streamElementRead | streamElementWrite | copyLaunchAccept | copyPayload | copyCompletion |
    copyWaitrecResume | matrixStep | stepAccumulation | rotationTableEffect | powerCapEffect | channelRegistry |
    publishedInstruction | endMark | channelStop | joinWaitExpiry | shawmRecordOperation | rallocwServed |
    rallocwWaitExpiry | coalescingTimer | placementReservation | placementRetry | groupCommit | groupStart |
    slotStartFirstIssue | groupSlotReturn | groupEnd | hostRecordAppend | graphLoadComplete | graphTeardownComplete |
    spillComplete | resumeRestore | resumedSlotFirstIssue | faultRecordPost | mailboxPoll | mboxSlotctlState |
    mboxSlotctlRdsr | mboxSlotctlWrsr | mboxSlotctlRds | mboxSlotctlWrs | mboxSlotctlRdv | mboxSlotctlWrv |
    mboxSlotctlRdctx | mboxSlotctlWrctx | mboxSlotctlResume | mboxSlotctlKill | mboxSlotctlSpill | graphload |
    graphtear | inval | invalidationComplete | mboxFence | unfence | reset | partitionResetComplete | switch |
    switchDrainComplete | switchDeadline | partOpen | close | resetpkg | twinHashArrival | twinHashTimeout | enable |
    protectionInitComplete | disable | declare | rebuild | parityDelta | deltaForward | deltaAcknowledgement |
    parityAcknowledgement | deltaSilence | quiesceDrainComplete | stripeRebuild | sectorReconstruction | patrolScrub |
    hostWrite | hostRead | svfence | mailboxDoorbell | intstat | mevent | fusepkg | timectlStep | pwrcap |
    produceReport | reportComplete | registerWrite | flitReplay | portUp | portFailure | routeUnreachable | timeSync |
    referenceLoss | referenceReturn | droopTrip | stretchEnd | powerAlert | thermalTrip | packageReset |
    bringupStageComplete | memoryEdgeRequest | xaccHoldEnd =>
    exact answers_next _
  | _ => exact answers_run h _ _

/-- An instruction or event that answers in every state, as every event does. -/
def alwaysAnswered (i : Instr) : Prop := ∀ s, answers (exec i s)

/-! ## The turn of a slot -/

@[simp] theorem State.curHere_mapPkg (s : State) (p : PkgId) (f : Pkg → Pkg) : (s.mapPkg p f).curHere = s.curHere := by
  simp [State.curHere]
@[simp] theorem State.curHere_mapCell (s : State) (p : PkgId) (c : CellId) (f : Cell → Cell) :
    (s.mapCell p c f).curHere = s.curHere := by simp [State.curHere]
@[simp] theorem State.curHere_mapSlot (s : State) (g : GRef) (f : Slot → Slot) : (s.mapSlot g f).curHere = s.curHere := by
  simp [State.curHere]
@[simp] theorem State.curHere_draw (s : State) : s.draw.curHere = s.curHere := rfl

@[simp] theorem curHere_stopChannel (s : State) (g : GRef) (k : Byte) : (stopChannel s g k).curHere = s.curHere := by
  unfold stopChannel
  dsimp only
  split <;> simp [sendItem]

@[simp] theorem curHere_fetchFault (s : State) (g : GRef) (f : FaultInfo) (a : Word) :
    (fetchFault s g f a).curHere = s.curHere := by simp [fetchFault, takeFault, queueRecord, endRefill]

/-- Looking for a clause moves nothing in or out of the machine. -/
theorem curHere_lookClause (s : State) (g : GRef) (a : Word) : (lookClause s g a).state.curHere = s.curHere := by
  unfold lookClause
  dsimp only
  split
  · rfl
  · split
    · split
      · split <;> simp [startRefill]
      · split <;> simp [startRefill]
      · simp [startRefill]
    · split
      · rfl
      · split <;> simp [startRefill]

theorem curHere_fetchClause (s : State) (g : GRef) : (fetchClause s g).1.curHere = s.curHere := by
  have look := curHere_lookClause s g (s.slotAt g).head
  unfold fetchClause
  dsimp only
  split
  · simp
  · split
    · simp
    · split
      · simp
      · split
        case h_1 hu => rw [hu] at look; exact look
        case h_2 hu => rw [hu] at look; simpa using look
        case h_3 hu =>
          rw [hu] at look
          split <;> simpa [endRefill] using look

/-- Where a slot comes to an instruction, its package is present as before. -/
def Turn.issuesHere : Turn → Bool
  | .issue s _ => s.curHere
  | .passed _ | .empty _ => true

theorem issuesHere_standing {s : State} (h : s.curHere = true) (g : GRef) : (standing s g).issuesHere = true := by
  unfold standing
  dsimp only
  split
  · rfl
  · split
    · split <;> rfl
    · have marked : (if (s.slotAt g).waitqDone then s else s.mapSlot g fun t => { t with waitqDone := true }).curHere = true := by
        split <;> simp [h]
      split
      · exact (State.curHere_mapSlot _ _ _).trans marked
      · exact marked

theorem issuesHere_turnOf {s : State} (h : s.curHere = true) (g : GRef) : (turnOf s g).issuesHere = true := by
  have fetched := (curHere_fetchClause s g).trans h
  unfold turnOf
  split
  · rfl
  · split
    · exact issuesHere_standing h g
    · split
      case h_1 hu => rw [hu] at fetched; exact issuesHere_standing fetched g
      case h_2 => rfl

theorem answers_takeTurn (s : State) : answers (takeTurn s) := by
  unfold takeTurn
  split
  · exact answers_next _
  case isFalse h =>
    have turn := issuesHere_turnOf (s := s) (by simpa [State.curHere] using h) s.cur
    split
    · exact answers_next _
    · exact answers_next _
    case h_3 u i hu =>
      rw [hu] at turn
      obtain ⟨t, ht⟩ := answers_exec turn i
      rw [ht]
      exact answers_next _

/-! ## Events that fall due or may take place -/

/-- Every entry of a list answers in every state. -/
def allAnswered (l : List Instr) : Prop := ∀ i ∈ l, alwaysAnswered i

theorem allAnswered_nil : allAnswered [] := by simp [allAnswered]
@[simp] theorem allAnswered_append (l m : List Instr) : allAnswered (l ++ m) ↔ allAnswered l ∧ allAnswered m := by
  simp [allAnswered, or_imp, forall_and]
theorem allAnswered_single {i : Instr} (h : alwaysAnswered i) : allAnswered [i] := by simpa [allAnswered] using h
theorem allAnswered_pair {i j : Instr} (hi : alwaysAnswered i) (hj : alwaysAnswered j) : allAnswered [i, j] := by
  simpa [allAnswered] using ⟨hi, hj⟩
theorem allAnswered_map {α : Type} {f : α → Instr} (h : ∀ a, alwaysAnswered (f a)) (l : List α) : allAnswered (l.map f) := by
  simp only [allAnswered, List.mem_map]
  rintro _ ⟨a, _, rfl⟩
  exact h a
theorem allAnswered_flatMap {α : Type} {f : α → List Instr} (h : ∀ a, allAnswered (f a)) (l : List α) :
    allAnswered (l.flatMap f) := by
  simp only [allAnswered, List.mem_flatMap]
  rintro i ⟨a, _, hi⟩
  exact h a i hi
theorem allAnswered_ite {c : Prop} [Decidable c] {l m : List Instr} (hl : allAnswered l) (hm : allAnswered m) :
    allAnswered (if c then l else m) := by split <;> assumption
theorem allAnswered_when {c : Prop} [Decidable c] {i : Instr} (h : alwaysAnswered i) : allAnswered (if c then [i] else []) :=
  allAnswered_ite (allAnswered_single h) allAnswered_nil

theorem allAnswered_dueSlot (g : GRef) (t : Slot) : allAnswered (dueSlot g t) := by
  unfold dueSlot
  simp only [allAnswered_append]
  refine ⟨⟨⟨?_, ?_⟩, ?_⟩, allAnswered_when fun _ => answers_next _⟩
  · split
    · split
      case h_6 | h_7 => exact allAnswered_nil
      all_goals exact allAnswered_single fun _ => answers_next _
    · exact allAnswered_nil
  · split
    · split
      case h_4 => exact allAnswered_pair (fun _ => answers_next _) fun _ => answers_next _
      case h_5 => exact allAnswered_nil
      all_goals exact allAnswered_single fun _ => answers_next _
    · exact allAnswered_nil
  · split
    · split <;> exact allAnswered_single fun _ => answers_next _
    · exact allAnswered_nil

theorem allAnswered_dueCell (p : PkgId) (c : CellId) (t : Cell) : allAnswered (dueCell p c t) := by
  unfold dueCell
  simp only [allAnswered_append]
  refine ⟨⟨⟨⟨?_, ?_⟩, allAnswered_map (by exact fun _ _ => answers_next _) _⟩,
    allAnswered_flatMap (by exact fun _ => allAnswered_when fun _ => answers_next _) _⟩, allAnswered_flatMap (fun _ => allAnswered_dueSlot _ _) _⟩
  · split
    · exact allAnswered_nil
    · exact allAnswered_single fun _ => answers_next _
  · split
    · exact allAnswered_nil
    · exact allAnswered_single fun _ => answers_next _

theorem allAnswered_beginEvent (p : PkgId) (q : BitVec 3) (c : Cmd) : allAnswered (beginEvent p q c) := by
  unfold beginEvent
  split
  · split <;> exact allAnswered_single fun _ => answers_next _
  all_goals exact allAnswered_single fun _ => answers_next _

theorem allAnswered_duePart (p : PkgId) (k : Pkg) (q : BitVec 3) (e : Part) : allAnswered (duePart p k q e) := by
  unfold duePart
  simp only [allAnswered_append]
  refine ⟨⟨⟨allAnswered_ite (allAnswered_pair (fun _ => answers_next _) fun _ => answers_next _) allAnswered_nil,
    allAnswered_when fun _ => answers_next _⟩, allAnswered_when fun _ => answers_next _⟩, allAnswered_ite allAnswered_nil ?_⟩
  split
  · exact allAnswered_ite (allAnswered_single fun _ => answers_next _) (allAnswered_ite allAnswered_nil (allAnswered_beginEvent _ _ _))
  · exact allAnswered_when fun _ => answers_next _

theorem allAnswered_duePkg (p : PkgId) (k : Pkg) : allAnswered (duePkg p k) := by
  unfold duePkg
  simp only [allAnswered_append]
  refine ⟨⟨⟨⟨⟨⟨allAnswered_when fun _ => answers_next _, ?_⟩,
    allAnswered_ite allAnswered_nil (allAnswered_map (by exact fun _ _ => answers_next _) _)⟩,
    allAnswered_map (by exact fun _ _ => answers_next _) _⟩,
    allAnswered_flatMap (fun _ => allAnswered_ite (allAnswered_map (by exact fun _ _ => answers_next _) _) allAnswered_nil) _⟩,
    allAnswered_flatMap (fun _ => allAnswered_duePart _ _ _ _) _⟩,
    allAnswered_ite allAnswered_nil (allAnswered_flatMap (fun _ => allAnswered_dueCell _ _ _) _)⟩
  split
  · exact allAnswered_nil
  · exact allAnswered_single fun _ => answers_next _

theorem allAnswered_dueEvents (s : State) : allAnswered (dueEvents s) := allAnswered_flatMap (fun _ => allAnswered_duePkg _ _) _

theorem allAnswered_readyOp (s : State) (g : GRef) (o : Op) : allAnswered (readyOp s g o) := by
  unfold readyOp
  simp only [allAnswered_append]
  refine ⟨⟨⟨⟨⟨⟨allAnswered_when fun _ => answers_next _, allAnswered_when fun _ => answers_next _⟩,
    allAnswered_when fun _ => answers_next _⟩, allAnswered_when fun _ => answers_next _⟩, allAnswered_when fun _ => answers_next _⟩,
    allAnswered_when fun _ => answers_next _⟩, allAnswered_ite ?_ allAnswered_nil⟩
  split
  case h_4 => exact allAnswered_nil
  all_goals exact allAnswered_single fun _ => answers_next _

theorem allAnswered_readySlot (s : State) (g : GRef) (t : Slot) : allAnswered (readySlot s g t) := by
  unfold readySlot
  simp only [allAnswered_append]
  refine ⟨⟨⟨⟨⟨⟨allAnswered_when fun _ => answers_next _, ?_⟩, allAnswered_when fun _ => answers_next _⟩, ?_⟩, ?_⟩,
    allAnswered_when fun _ => answers_next _⟩, allAnswered_flatMap (fun _ => allAnswered_readyOp _ _ _) _⟩
  · split
    · exact allAnswered_single fun _ => answers_next _
    · exact allAnswered_nil
  · split
    · exact allAnswered_when fun _ => answers_next _
    · exact allAnswered_nil
  · split
    case h_3 => exact allAnswered_nil
    all_goals exact allAnswered_single fun _ => answers_next _

theorem allAnswered_readyCell (s : State) (p : PkgId) (c : CellId) (t : Cell) : allAnswered (readyCell s p c t) := by
  unfold readyCell
  simp only [allAnswered_append]
  refine ⟨⟨allAnswered_flatMap (fun _ => ?_) _, allAnswered_flatMap (fun _ => ?_) _⟩,
    allAnswered_flatMap (fun _ => allAnswered_readySlot _ _ _) _⟩
  · rw [allAnswered_append]
    exact ⟨allAnswered_when fun _ => answers_next _, allAnswered_when fun _ => answers_next _⟩
  · simp only [allAnswered_append]
    refine ⟨⟨allAnswered_when fun _ => answers_next _, allAnswered_when fun _ => answers_next _⟩, ?_⟩
    split
    · exact allAnswered_when fun _ => answers_next _
    · exact allAnswered_nil

theorem allAnswered_readyPart (p : PkgId) (q : BitVec 3) (e : Part) : allAnswered (readyPart p q e) := by
  unfold readyPart
  simp only [allAnswered_append]
  refine ⟨?_, allAnswered_when fun _ => answers_next _⟩
  split
  case h_3 => exact allAnswered_nil
  all_goals exact allAnswered_single fun _ => answers_next _

theorem allAnswered_readyDelta (p : PkgId) (d : Delta) : allAnswered (readyDelta p d) := by
  unfold readyDelta
  split
  case h_2 => exact allAnswered_nil
  all_goals exact allAnswered_single fun _ => answers_next _

theorem allAnswered_readyProt (s : State) (p : PkgId) (g : ProtGroup) : allAnswered (readyProt s p g) := by
  unfold readyProt
  split
  · exact allAnswered_single fun _ => answers_next _
  · exact allAnswered_single fun _ => answers_next _
  · dsimp only
    split
    · exact allAnswered_when fun _ => answers_next _
    · exact allAnswered_nil
  · exact allAnswered_nil

/-- The reconstructions of some of the sectors of a package. -/
theorem allAnswered_reconstructions (p : PkgId) (may : Nat → Bool) (l : List Nat) :
    allAnswered (l.filterMap fun n => if may n then some (Instr.sectorReconstruction p n) else none) := by
  simp only [allAnswered, List.mem_filterMap]
  rintro i ⟨n, _, hi⟩
  split at hi <;> cases hi
  exact fun _ => answers_next _

theorem allAnswered_readyPkg (s : State) (p : PkgId) (k : Pkg) : allAnswered (readyPkg s p k) := by
  unfold readyPkg
  simp only [allAnswered_append]
  refine ⟨⟨⟨⟨⟨⟨⟨⟨⟨allAnswered_flatMap (fun _ => allAnswered_readyCell _ _ _ _) _,
    allAnswered_flatMap (fun _ => allAnswered_readyPart _ _ _) _⟩, allAnswered_flatMap (fun _ => ?_) _⟩,
    allAnswered_map (by exact fun _ _ => answers_next _) _⟩, allAnswered_flatMap (fun _ => allAnswered_readyDelta _ _) _⟩,
    allAnswered_map (by exact fun _ _ => answers_next _) _⟩, allAnswered_reconstructions _ _ _⟩, allAnswered_readyProt _ _ _⟩,
    allAnswered_when fun _ => answers_next _⟩, ?_⟩
  · simp only [allAnswered_append]
    refine ⟨⟨?_, allAnswered_when fun _ => answers_next _⟩, allAnswered_map (by exact fun _ _ => answers_next _) _⟩
    split
    case h_3 => exact allAnswered_nil
    all_goals exact allAnswered_single fun _ => answers_next _
  · split
    · exact allAnswered_when fun _ => answers_next _
    · exact allAnswered_nil

theorem allAnswered_readyEvents (s : State) : allAnswered (readyEvents s) :=
  allAnswered_flatMap (fun _ => allAnswered_readyPkg _ _ _) _

/-! ## Inputs, and the step -/

theorem alwaysAnswered_of_isInput {i : Instr} (h : Instr.isInput i = true) : alwaysAnswered i := by
  cases i with
  | hostWrite | hostRead | svfence | mailboxDoorbell | intstat | mevent | fusepkg | timectlStep | pwrcap | produceReport |
    registerWrite | partOpen | close | resetpkg | enable | disable | declare | rebuild | patrolScrub | flitReplay | portUp |
    portFailure | referenceLoss | referenceReturn | droopTrip | powerAlert | thermalTrip | packageReset | bringupStageComplete =>
    exact fun _ => answers_next _
  | _ => exact absurd h Bool.false_ne_true

theorem answers_takeInput (s : State) (i : Instr) : answers (takeInput s i) := by
  unfold takeInput
  dsimp only
  split
  case isTrue h => exact alwaysAnswered_of_isInput h _
  case isFalse => exact answers_next _

theorem answers_choose (s : State) : answers (choose s) := by
  unfold choose
  dsimp only
  split
  · exact answers_takeTurn s
  · split
    case h_1 _ _ i hi =>
      split
      case isTrue => exact answers_takeInput _ _
      case isFalse hn =>
        rw [List.getElem?_append_right (Nat.le_of_not_lt hn)] at hi
        exact allAnswered_readyEvents s i (List.mem_of_getElem? hi) _
    case h_2 => exact answers_next _
    case h_3 => exact answers_takeTurn _

/-- A STEP OF A MACHINE WITH A PACKAGE answers. -/
theorem answers_step {s : State} (h : s.pkgs ≠ []) : answers (step s) := by
  unfold step
  rw [if_neg (by simpa using h)]
  split
  · exact answers_takeTurn s
  · split
    · exact answers_next _
    · split
      case h_1 i hi => exact allAnswered_dueEvents s i (List.mem_of_find?_eq_some hi) s
      case h_2 => exact answers_choose s

/-- Settles O54: a step of a machine with a package is a next state, and without one it is the fault. -/
theorem stepAlwaysAnswers : Obligations.StepAlwaysAnswers := by
  unfold Obligations.StepAlwaysAnswers
  intro s
  by_cases h : s.pkgs = []
  · have fault : step s = .fault .noPackage := by simp [step, h]
    simp [fault, h]
  · obtain ⟨t, ht⟩ := answers_step h
    simp [ht, h]

end Sys2Proof.Machine

/-! GETSR and SETSR (R28 to R33, R129). -/

namespace Sys2Proof.Machine

open Sys2Proof.Claims

/-! ## What GETSR reads -/

/-- A special register reads in the state in which a body starts as before it. -/
theorem State.readSr_started {s : State} (hp : s.hasPkg s.cur.pkg = true) (n : SpecReg) :
    (started s).readSr s.cur n = s.readSr s.cur n := by
  have hs : (((started s).pkgAt s.cur.pkg).cellAt s.cur.cell).slotAt s.cur.slot = (s.slotAt s.cur).unlast := started_slot hp
  have hr : (((started s).pkgAt s.cur.pkg).cellAt s.cur.cell).rotation = (s.cellAt s.cur.pkg s.cur.cell).rotation :=
    started_cell Cell.rotation (fun _ _ => rfl) s _ _
  have pkg {α : Type} (P : Pkg → α) (h : ∀ (k : Pkg) x, P { k with cells := x } = P k) :
      P ((started s).pkgAt s.cur.pkg) = P (s.pkgAt s.cur.pkg) := started_pkg P h s _
  unfold State.readSr mwinOf
  simp only [hs, hr, pkg Pkg.domain fun _ _ => rfl, pkg Pkg.time fun _ _ => rfl, pkg Pkg.cycle fun _ _ => rfl,
    pkg Pkg.timeUnc fun _ _ => rfl, pkg Pkg.refLost fun _ _ => rfl, pkg Pkg.capNow fun _ _ => rfl]
  rfl

theorem gives_readSr {s : State} {d : SReg} (h : ready s (Opnds.d d) = true) (n : SpecReg) :
    gives s d (.getsr d n) (s.readSr s.cur n) :=
  completes_setS h (exec_getsr d n s) (by simp [Ctx.setS, State.readSr_started (ready_hasPkg h)])

/-- A sum that is built from the left is the sum of its terms. -/
theorem foldl_add_eq_sum_map (l : List Nat) (c : Nat → Bool) (f : Nat → Nat) (x : Nat) :
    l.foldl (fun acc w => if c w then acc + f w else acc) x = x + (l.map fun w => if c w then f w else 0).sum := by
  induction l generalizing x with
  | nil => rfl
  | cons w l ih =>
    rw [List.foldl_cons, ih, List.map_cons, List.sum_cons]
    split <;> omega

theorem rotation_active (e : Byte) : e.getLsbD 7 = decide (128 ≤ e.toNat) := by
  have h : e.getLsbD 7 = e.msb := (BitVec.msb_eq_getLsbD_last e).symm
  rw [h, BitVec.msb_eq_decide]

theorem rotation_slot (e : Byte) (n : SlotId) : (e.extractLsb' 0 4 == n) = (e.toNat % 16 == n.toNat) := by
  rw [Bool.eq_iff_iff, beq_iff_eq, beq_iff_eq, ← BitVec.toNat_inj]
  simp

/-- The highest windows are those that the power cap withholds (R33, R308). -/
theorem withheld_windows : ∀ h < 16, (2 ^ 16 - 2 ^ (16 - h)) * 2 ^ 16 =
    ((List.range 16).map fun w => if 16 ≤ w + h then 2 ^ (16 + w) else 0).sum := by decide

/-- %MWIN as the three fields of R33. -/
theorem mwinOf_eq (k : Pkg) (t : Cell) (n : SlotId) : mwinOf k t n =
    ((List.range 16).map fun w => if decide (128 ≤ (Table.get 0 t.rotation w).toNat) &&
        (Table.get 0 t.rotation w).toNat % 16 == n.toNat then 2 ^ w else 0).sum +
      ((List.range 16).map fun w => if 16 ≤ w + k.capNow.toNat then 2 ^ (16 + w) else 0).sum +
      k.cycle / 16 % 16 * 2 ^ 32 := by
  unfold mwinOf
  dsimp only
  rw [foldl_add_eq_sum_map _ (fun w => (Table.get 0 t.rotation w).getLsbD 7 && (Table.get 0 t.rotation w).extractLsb' 0 4 == n),
    Nat.zero_add, withheld_windows _ k.capNow.isLt]
  simp only [rotation_active, rotation_slot]

/-- %CHAN: the channel that the slot publishes, and 16 bits above it the one that it follows (R33). -/
theorem chanWord_eq (t : Slot) : t.chanWord =
    (match t.publishing with | some c => 2 ^ 12 + c.toNat | none => 0) +
      2 ^ 16 * match t.subscribed with | some c => 2 ^ 12 + c.toNat | none => 0 := by
  unfold Slot.chanWord
  cases t.subscribed with
  | none => rfl
  | some c => dsimp only; congr 1; omega

/-! ## What SETSR writes -/

theorem Slot.writeSr_unlast (t : Slot) (n : SpecReg) (v : Word) : t.unlast.writeSr n v = (t.writeSr n v).unlast := by
  cases n <;> rfl

theorem completes_setsr {s : State} {a : SReg} {n : SpecReg}
    (h : ready s { srcs := [.s a], tb := some (.s a), needs := srNeeds n } = true) :
    Completes (.setsr a n) s (withHere s fun t => t.writeSr n ((here s).sreg a)) 1 :=
  completes_of h (exec_setsr a n s)
    (by simpa [started_eq] using mapSlot_unlast s s.cur fun t => t.writeSr_unlast n _) (by simpa using ready_hasPkg h)

/-- An instruction that the slot at hand may not execute traps PRIV (R28, R72). -/
theorem traps_priv {i : Instr} {s : State} {o : Opnds} {body : Ctx → Issue} (hp : s.hasPkg s.cur.pkg = true)
    (he : exec i s = run s o body) (h : allowed s o.needs = false) : Traps i s { kind := .priv } := by
  refine traps_of hp ?_
  have stops : prepare s s.cur o = .error (.trap { kind := .priv }) := by
    unfold prepare
    unfold allowed at h
    cases hn : o.needs <;> simp_all [bne]
  rw [he, run, if_pos hp, stops]
  rfl

/-- The special registers that no slot may write (R28). -/
theorem srNeeds_never : ∀ n ∈ [SpecReg.slot, .cell, .pkg, .gang, .gslot, .node, .group, .reccnt, .time, .cycle, .regbase,
    .reglim, .priv, .mwin, .chan, .depth, .lead], srNeeds n = .never := by decide

/-- Settles O16: GETSR register by register, SETSR through what it writes, and PRIV for the others. -/
theorem specialRegisters : Obligations.SpecialRegisters := by
  unfold Obligations.SpecialRegisters
  refine fun s => ⟨fun d n h => ?_, fun a => ⟨fun h => ?_, fun h => ?_, fun hp => ⟨fun hn => ?_, fun n hn => ?_⟩⟩⟩
  · have reads := gives_readSr h n
    cases n with
    | slot | cell | fpmode | fpflags | fewait | pid | regbase | reglim | cvtsrc =>
      simp only [BitVec.ofNat_toNat]
      exact reads
    | mwin =>
      rw [State.readSr, mwinOf_eq] at reads
      exact reads
    | chan =>
      rw [State.readSr, chanWord_eq] at reads
      exact reads
    | _ => exact reads
  · exact ⟨completes_setsr h, completes_setsr h, completes_setsr h, completes_setsr h, completes_setsr h, completes_setsr h,
      completes_setsr h⟩
  · exact completes_setsr h
  · exact traps_priv hp (exec_setsr a .pid s) hn
  · exact traps_priv hp (exec_setsr a n s) (by rw [srNeeds_never n hn]; rfl)

end Sys2Proof.Machine

/-! Answers and acknowledgements of operations in flight, and cancelled waits (R19, R167, R174, R175, R425). -/

namespace Sys2Proof.Machine

open Sys2Proof.Claims

/-! ## What a register write leaves of its slot -/

theorem Slot.fill_keeps {α : Sort _} (P : Slot → α)
    (h : ∀ (t : Slot) a b w m, P { t with sFe := a, vFe := b, wait := w, mode := m } = P t) (t : Slot) (r : RegRef) :
    P (t.fill r) = P t :=
  (Slot.wakeReg_keeps P (fun t w m => h t t.sFe t.vFe w m) _ r).trans
    (Slot.setFe_keeps P (fun t a b => h t a b t.wait t.mode) t r _)

theorem Slot.putS_keeps {α : Sort _} (P : Slot → α)
    (h : ∀ (t : Slot) a b w m x y, P { t with sFe := a, vFe := b, wait := w, mode := m, sregs := x, sPoison := y } = P t)
    (t : Slot) (r : SReg) (v : Word) : P (t.putS r v) = P t := by
  unfold Slot.putS
  split
  · rfl
  · exact (Slot.fill_keeps P (fun t a b w m => h t a b w m t.sregs t.sPoison) _ _).trans (h t t.sFe t.vFe t.wait t.mode _ _)

/-- The slot waits for no register. -/
def Slot.waitsNoReg (t : Slot) : Prop := ∀ r n, t.wait ≠ some { what := .reg r, since := n }

theorem Slot.waitsNoReg_of_wait {t u : Slot} (h : t.waitsNoReg) (e : u.wait = t.wait) : u.waitsNoReg := fun r n => by
  rw [e]; exact h r n

theorem Slot.wakeReg_of_waitsNoReg {t : Slot} (h : t.waitsNoReg) (r : RegRef) : t.wakeReg r = t := by
  unfold Slot.wakeReg
  split
  case h_1 q n hw => exact absurd hw (h q n)
  case h_2 => rfl

theorem Slot.wait_fill {t : Slot} (h : t.waitsNoReg) (r : RegRef) : (t.fill r).wait = t.wait := by
  have same : (t.setFe r .full).wait = t.wait := Slot.setFe_keeps Slot.wait (fun _ _ _ => rfl) t r _
  unfold Slot.fill
  rw [Slot.wakeReg_of_waitsNoReg (Slot.waitsNoReg_of_wait h same), same]

theorem Slot.wait_putS {t : Slot} (h : t.waitsNoReg) (r : SReg) (v : Word) : (t.putS r v).wait = t.wait := by
  unfold Slot.putS
  split
  · rfl
  · exact Slot.wait_fill (Slot.waitsNoReg_of_wait h (by exact rfl)) _

/-- What a slot keeps of a register write. -/
def KeptByWrites {α : Sort _} (P : Slot → α) : Prop := (∀ t r v, P (Slot.putS t r v) = P t) ∧ ∀ t r, P (Slot.fill t r) = P t

theorem KeptByWrites.of {α : Sort _} {P : Slot → α}
    (h : ∀ (t : Slot) a b w m x y, P { t with sFe := a, vFe := b, wait := w, mode := m, sregs := x, sPoison := y } = P t) :
    KeptByWrites P :=
  ⟨fun t r v => t.putS_keeps P h r v, fun t r => t.fill_keeps P (fun t a b w m => h t a b w m t.sregs t.sPoison) r⟩

/-! ## What an answer writes -/

theorem KeptByWrites.setS {α : Sort _} {P : Slot → α} (h : KeptByWrites P) (s : State) (g : GRef) (r : SReg) (v : Word) (k : GRef) :
    P ((s.setS g r v).slotAt k) = P (s.slotAt k) := State.slotAt_mapSlot_keeps P (fun t => h.1 t r v) s g k

theorem KeptByWrites.setLanes {α : Sort _} {P : Slot → α} (h : KeptByWrites P) (s : State) (g : GRef) (r : VRegNo) (m : BitVec 32)
    (f : Nat → Lane) (k : GRef) : P ((s.setLanes g r m f).slotAt k) = P (s.slotAt k) := by
  unfold State.setLanes
  exact (State.slotAt_mapSlot_keeps P (fun t => h.2 t _) _ g k).trans
    (congrArg P (State.slotAt_mapCell_keeps (by exact fun _ => rfl) _ _ _ _))

theorem KeptByWrites.writeAnswer {α : Sort _} {P : Slot → α} (h : KeptByWrites P) (s : State) (g : GRef) (o : Op) (k : GRef) :
    P ((writeAnswer s g o).slotAt k) = P (s.slotAt k) := by
  unfold Machine.writeAnswer
  split
  · rfl
  · exact h.setS _ _ _ _ _
  · exact (h.setS _ _ _ _ _).trans (h.setS _ _ _ _ _)
  · exact h.setLanes _ _ _ _ _ _
  · exact (h.setLanes _ _ _ _ _ _).trans (h.setLanes _ _ _ _ _ _)

@[simp] theorem writeAnswer_hasPkg (s : State) (g : GRef) (o : Op) (p : PkgId) :
    (writeAnswer s g o).hasPkg p = s.hasPkg p := by
  unfold writeAnswer
  split <;> simp [setS_hasPkg, setLanes_hasPkg]

theorem State.wait_setS {s : State} {g : GRef} (hp : s.hasPkg g.pkg = true) (h : (s.slotAt g).waitsNoReg) (r : SReg) (v : Word) :
    ((s.setS g r v).slotAt g).wait = (s.slotAt g).wait := by
  rw [State.slotAt_setS hp, if_pos rfl, Slot.wait_putS h]

theorem State.wait_setLanes {s : State} {g : GRef} (hp : s.hasPkg g.pkg = true) (h : (s.slotAt g).waitsNoReg) (r : VRegNo)
    (m : BitVec 32) (f : Nat → Lane) : ((s.setLanes g r m f).slotAt g).wait = (s.slotAt g).wait := by
  rw [State.slotAt_setLanes hp, if_pos rfl, Slot.wait_fill h]

theorem wait_writeAnswer {s : State} {g : GRef} (hp : s.hasPkg g.pkg = true) (h : (s.slotAt g).waitsNoReg) (o : Op) :
    ((writeAnswer s g o).slotAt g).wait = (s.slotAt g).wait := by
  unfold writeAnswer
  split
  · rfl
  · exact State.wait_setS hp h _ _
  · have once := State.wait_setS hp h
    exact (State.wait_setS ((setS_hasPkg _ _ _ _ _).trans hp) (Slot.waitsNoReg_of_wait h (once _ _)) _ _).trans (once _ _)
  · exact State.wait_setLanes hp h _ _ _
  · have once := State.wait_setLanes hp h
    exact (State.wait_setLanes ((setLanes_hasPkg _ _ _ _ _ _).trans hp) (Slot.waitsNoReg_of_wait h (once _ _ _)) _ _ _).trans
      (once _ _ _)

/-- An answer writes to its destination what was read for each lane (R19). -/
theorem writeAnswer_eq (s : State) (g : GRef) (o : Op) : writeAnswer s g o =
    let got (l : Nat) : Word := ((o.got.find? (·.1 == l)).map (·.2)).getD 0
    match o.dst with
    | .none => s
    | .scalar r => s.setS g r (got 0)
    | .pair r => (s.setS g r (got 0)).setS g (r + 1) (got 1)
    | .vector r => s.setLanes g r o.mask fun l => BitVec.ofNat 32 (got l).toNat
    | .vpair r => (s.setLanes g r o.mask fun l => BitVec.ofNat 32 (got l).toNat).setLanes g (r + 1) o.mask
        fun l => BitVec.ofNat 32 ((got l).toNat / 2 ^ 32) := by
  have low (w : Word) : BitVec.ofNat 32 w.toNat = w.setWidth 32 := BitVec.ofNat_toNat 32 w
  have high (w : Word) : BitVec.ofNat 32 (w.toNat / 2 ^ 32) = w.extractLsb' 32 32 := by
    simp [BitVec.extractLsb', Nat.shiftRight_eq_div_pow]
  unfold writeAnswer
  simp only [low, high]
  rfl

/-! ## An answer that arrives -/

/-- What an answer does to the slot of its operation, besides its write: a wait for it ends (R167). -/
def Slot.answered (id : Nat) (t : Slot) : Slot :=
  let u := if t.lastOp = some id then { t with lastOp := none } else t
  if t.awaits id || t.engagedIn id then u.endWait else u

theorem State.mapSlot_congr {s : State} {g : GRef} {f f' : Slot → Slot} (h : f (s.slotAt g) = f' (s.slotAt g)) :
    s.mapSlot g f = s.mapSlot g f' := by
  unfold State.mapSlot State.mapCell State.mapPkg Pkg.mapCell Cell.mapSlot
  unfold State.slotAt State.cellAt State.pkgAt Table.get at h
  cases hk : Table.find s.pkgs g.pkg.toNat with
  | none => rfl
  | some k =>
    rw [hk] at h
    dsimp only at h ⊢
    rw [show f ((k.cellAt g.cell).slotAt g.slot) = f' ((k.cellAt g.cell).slotAt g.slot) from h]

theorem takeLate_of_not {s : State} {g : GRef} (h : (s.slotAt g).lateFault = false) : takeLate s g = s := by
  simp [takeLate, h]

theorem Slot.goTo_keeps {α : Sort _} (P : Slot → α)
    (h : ∀ (t : Slot) l k a n c w m d,
      P { t with loops := l, take := k, head := a, pos := n, clause := c, waitqDone := w, mmaStep := m, clauseLoops := d } = P t)
    (t : Slot) (x : Word × Nat × LoopStack) : P (t.goTo x) = P t := by
  unfold Slot.goTo
  dsimp only
  split_ifs
  · exact h t _ _ _ _ _ _ _ _
  · exact h t _ _ t.head _ t.clause t.waitqDone _ t.clauseLoops
  · exact h t _ _ _ _ _ _ _ t.clauseLoops

theorem Slot.wait_endWait (t : Slot) : t.endWait.wait = none := by
  unfold Slot.endWait
  split
  · exact Slot.goTo_keeps Slot.wait (fun _ _ _ _ _ _ _ _ _ => rfl) _ _
  · rfl

theorem Slot.mode_endWait (t : Slot) : t.endWait.mode ≠ .parked := by
  unfold Slot.endWait
  split <;> (dsimp only; split <;> first | exact SlotMode.noConfusion | assumption)

theorem Slot.place_endWait {t : Slot} {x : Word × Nat × LoopStack} (h : t.waitNext = some x) : t.endWait.place = x := by
  unfold Slot.endWait
  rw [h]
  exact Slot.place_goTo _ x

theorem Slot.endWait_keeps {α : Sort _} (P : Slot → α) (hm : ∀ (t : Slot) m w, P { t with mode := m, wait := w } = P t)
    (hc : ∀ t, P (Slot.clear t) = P t) (hg : ∀ t x, P (Slot.goTo t x) = P t) (t : Slot) : P t.endWait = P t := by
  unfold Slot.endWait
  split
  · exact (hm _ _ _).trans ((hg _ _).trans (hc t))
  · exact hm t _ _

/-- An answer changes only the course of its slot. -/
theorem Slot.answered_keeps {α : Sort _} (P : Slot → α) (hl : ∀ (t : Slot) x, P { t with lastOp := x } = P t)
    (hm : ∀ (t : Slot) m w, P { t with mode := m, wait := w } = P t) (hc : ∀ t, P (Slot.clear t) = P t)
    (hg : ∀ t x, P (Slot.goTo t x) = P t) (id : Nat) (t : Slot) : P (t.answered id) = P t := by
  have ended (u : Slot) : P u.endWait = P u := Slot.endWait_keeps P hm hc hg u
  unfold Slot.answered
  dsimp only
  split <;> split <;> simp only [ended, hl]

theorem Slot.answered_lateFault (id : Nat) (t : Slot) : (t.answered id).lateFault = t.lateFault :=
  Slot.answered_keeps Slot.lateFault (fun _ _ => rfl) (fun _ _ _ => rfl) (fun _ => rfl)
    (Slot.goTo_keeps Slot.lateFault fun _ _ _ _ _ _ _ _ _ => rfl) id t
theorem Slot.answered_sreg (id : Nat) (r : SReg) (t : Slot) : (t.answered id).sreg r = t.sreg r :=
  Slot.answered_keeps (·.sreg r) (fun _ _ => rfl) (fun _ _ _ => rfl) (fun _ => rfl)
    (Slot.goTo_keeps (·.sreg r) fun _ _ _ _ _ _ _ _ _ => rfl) id t
theorem Slot.answered_fe (id : Nat) (r : RegRef) (t : Slot) : (t.answered id).fe r = t.fe r :=
  Slot.answered_keeps (·.fe r) (fun _ _ => rfl) (fun _ _ _ => rfl) (fun _ => rfl)
    (Slot.goTo_keeps (·.fe r) fun _ _ _ _ _ _ _ _ _ => rfl) id t

/-- A faultless operation whose slot takes no late fault answers: it writes, is gone, and its slot goes on. -/
theorem answerOp_eq {s : State} {g : GRef} {o : Op} (ho : o.orphan = false) (hf : o.fault = none)
    (hl : (s.slotAt g).lateFault = false) :
    answerOp s g o = ((writeAnswer s g o).dropOp g o.id).mapSlot g (Slot.answered o.id) := by
  have late : ((((writeAnswer s g o).dropOp g o.id).mapSlot g (Slot.answered o.id)).slotAt g).lateFault = false := by
    rw [State.slotAt_mapSlot_keeps Slot.lateFault (Slot.answered_lateFault o.id), State.dropOp,
      State.slotAt_mapSlot_keeps Slot.lateFault (by exact fun _ => rfl), KeptByWrites.writeAnswer (P := Slot.lateFault) (.of fun _ _ _ _ _ _ _ => rfl), hl]
  unfold answerOp
  rw [if_neg (by simp [ho]), hf]
  exact takeLate_of_not late

theorem opOf_id {s : State} {g : GRef} {op : Nat} {o : Op} (h : s.opOf g op = some o) : o.id = op := by
  simpa using List.find?_some h

theorem State.slotAt_dropOp_keeps {α : Sort _} (P : Slot → α) (h : ∀ (t : Slot) l, P { t with ops := l } = P t) (s : State)
    (g : GRef) (id : Nat) (k : GRef) : P ((s.dropOp g id).slotAt k) = P (s.slotAt k) :=
  State.slotAt_mapSlot_keeps P (fun t => h t _) _ _ _

theorem State.slotAt_mapOp_keeps {α : Sort _} (P : Slot → α) (h : ∀ (t : Slot) l, P { t with ops := l } = P t) (s : State)
    (g : GRef) (id : Nat) (f : Op → Op) (k : GRef) : P ((s.mapOp g id f).slotAt k) = P (s.slotAt k) :=
  State.slotAt_mapSlot_keeps P (fun t => h t _) _ _ _

@[simp] theorem State.dropOp_hasPkg (s : State) (g : GRef) (id : Nat) (p : PkgId) : (s.dropOp g id).hasPkg p = s.hasPkg p := by
  simp [State.dropOp]
@[simp] theorem State.mapOp_hasPkg (s : State) (g : GRef) (id : Nat) (f : Op → Op) (p : PkgId) :
    (s.mapOp g id f).hasPkg p = s.hasPkg p := by simp [State.mapOp]

/-- An operation that changes under its number is found as changed. -/
theorem State.opOf_mapOp {s : State} {g : GRef} {op : Nat} {o : Op} (hp : s.hasPkg g.pkg = true) (h : s.opOf g op = some o)
    {f : Op → Op} (hf : ∀ x, (f x).id = x.id) : (s.mapOp g op f).opOf g op = some (f o) := by
  have same : (fun x : Op => (if x.id = op then f x else x).id == op) = fun x => x.id == op := by
    funext x
    split <;> simp [hf]
  have hid := opOf_id h
  unfold State.opOf State.mapOp at *
  rw [State.slotAt_mapSlot_same hp]
  simp only [List.find?_map, Function.comp_def, same, h, Option.map_some, if_pos hid]

/-- PRODUCER_VALUE_WRITE of an operation that has been performed. -/
theorem exec_producerValueWrite_performed {s : State} {g : GRef} {op : Nat} {o : Op} (h : s.opOf g op = some o)
    (hq : o.posted = false) (hd : o.performed = true) (ha : ∀ x, o.act ≠ .launch x) :
    exec (.producerValueWrite g op) s = .next (answerOp s g o) := by
  have may : o.answerReady = true := by
    unfold Op.answerReady
    cases hact : o.act <;> simp_all
  show execProducerValueWrite g op s = _
  unfold execProducerValueWrite occur
  rw [h]
  dsimp only
  rw [if_neg (by simp [may])]
  split
  case h_1 hp => simp [hd] at hp
  case h_2 => rfl

/-- A slot that does not wait for an answer keeps its course when it comes. -/
theorem Slot.answered_of_not {t : Slot} {id : Nat} (hw : t.wait = none) (he : t.engagedIn id = false) :
    t.answered id = { t with lastOp := if t.lastOp = some id then none else t.lastOp } := by
  have ha : t.awaits id = false := by simp [Slot.awaits, hw]
  unfold Slot.answered
  dsimp only
  rw [if_neg (by simp [ha, he])]
  split <;> rfl

theorem Slot.answered_of_awaits {t : Slot} {id n : Nat} (h : t.wait = some { what := .answer id, since := n }) :
    ∃ u : Slot, t.answered id = u.endWait ∧ u.waitNext = t.waitNext := by
  have ha : t.awaits id = true := by simp [Slot.awaits, h]
  unfold Slot.answered
  dsimp only
  rw [if_pos (by simp [ha])]
  exact ⟨_, rfl, by split <;> rfl⟩

/-- An answered slot that does not wait for the answer: the write, and the operation is gone. -/
theorem agree_answerOp {s : State} {g : GRef} {o : Op} (hp : s.hasPkg g.pkg = true) (ho : o.orphan = false) (hf : o.fault = none)
    (hl : (s.slotAt g).lateFault = false) (hw : (s.slotAt g).wait = none) (he : (s.slotAt g).engagedIn o.id = false) :
    Agree g ((writeAnswer s g o).dropOp g o.id) (answerOp s g o) ∧ ((answerOp s g o).slotAt g).place = (s.slotAt g).place := by
  have keeps {α : Type} (P : Slot → α)
      (h : ∀ (t : Slot) a b w m x y, P { t with sFe := a, vFe := b, wait := w, mode := m, sregs := x, sPoison := y } = P t)
      (hops : ∀ (t : Slot) l, P { t with ops := l } = P t) :
      P (((writeAnswer s g o).dropOp g o.id).slotAt g) = P (s.slotAt g) :=
    (State.slotAt_dropOp_keeps P hops _ _ _ _).trans (KeptByWrites.writeAnswer (.of h) s g o g)
  have present : ((writeAnswer s g o).dropOp g o.id).hasPkg g.pkg = true := by simpa using hp
  have wait : (((writeAnswer s g o).dropOp g o.id).slotAt g).wait = none := by
    refine (State.slotAt_dropOp_keeps Slot.wait (fun _ _ => rfl) _ _ _ _).trans ?_
    rw [wait_writeAnswer hp (fun r n => by simp [hw]), hw]
  have next := keeps Slot.waitNext (fun _ _ _ _ _ _ _ => rfl) fun _ _ => rfl
  have last := keeps Slot.lastOp (fun _ _ _ _ _ _ _ => rfl) fun _ _ => rfl
  have engaged : (((writeAnswer s g o).dropOp g o.id).slotAt g).engagedIn o.id = false := by
    simp only [Slot.engagedIn, wait, next, last]
    simpa [Slot.engagedIn, hw] using he
  have only : answerOp s g o = ((writeAnswer s g o).dropOp g o.id).mapSlot g fun t =>
      { t with lastOp := if t.lastOp = some o.id then none else t.lastOp } :=
    (answerOp_eq ho hf hl).trans (State.mapSlot_congr (Slot.answered_of_not wait engaged))
  rw [only]
  refine ⟨Agree.course present (by exact fun _ => rfl), ?_⟩
  exact (State.slotAt_mapSlot_keeps Slot.place (by exact fun _ => rfl) _ _ _).trans
    (keeps Slot.place (fun _ _ _ _ _ _ _ => rfl) fun _ _ => rfl)

/-- A slot that waits for the answer goes on. -/
theorem answerOp_waiting {s : State} {g : GRef} {o : Op} (hp : s.hasPkg g.pkg = true) (ho : o.orphan = false) (hf : o.fault = none)
    (hl : (s.slotAt g).lateFault = false) {n : Nat} (hw : (s.slotAt g).wait = some { what := .answer o.id, since := n }) :
    ∃ u : Slot, (answerOp s g o).slotAt g = u.endWait ∧ u.waitNext = (s.slotAt g).waitNext := by
  have wait : (((writeAnswer s g o).dropOp g o.id).slotAt g).wait = some { what := .answer o.id, since := n } := by
    refine (State.slotAt_dropOp_keeps Slot.wait (fun _ _ => rfl) _ _ _ _).trans ?_
    rw [wait_writeAnswer hp (fun r n => by rw [hw]; simp), hw]
  have next : (((writeAnswer s g o).dropOp g o.id).slotAt g).waitNext = (s.slotAt g).waitNext :=
    (State.slotAt_dropOp_keeps Slot.waitNext (fun _ _ => rfl) _ _ _ _).trans
      (KeptByWrites.writeAnswer (P := Slot.waitNext) (.of fun _ _ _ _ _ _ _ => rfl) s g o g)
  obtain ⟨u, hu, hn⟩ := Slot.answered_of_awaits wait
  refine ⟨u, ?_, hn.trans next⟩
  rw [answerOp_eq ho hf hl, State.slotAt_mapSlot_same (by simpa using hp), hu]

/-- A query when its answer has been made. -/
def Op.queried (v : Word) (o : Op) : Op := { o with performed := true, got := [(0, v)] }

/-- The answer of a query is made when it is delivered. -/
theorem exec_producerValueWrite_query {s : State} {g : GRef} {op : Nat} {o : Op} (hp : s.hasPkg g.pkg = true)
    (h : s.opOf g op = some o) {x : Query} (ha : o.act = .query x) (hq : o.posted = false) (hd : o.performed = false)
    (hh : o.held = false) (hs : o.shadow = false) (hn : o.num = none) :
    exec (.producerValueWrite g op) s =
      .next (answerOp (s.mapOp g op (Op.queried (queryValue s g x))) g (o.queried (queryValue s g x))) := by
  have may : o.answerReady = true := by simp [Op.answerReady, ha, hq, hh, hs]
  have noted := State.opOf_mapOp hp h (f := Op.queried (queryValue s g x)) fun _ => rfl
  have alone : finishOp (s.mapOp g op (Op.queried (queryValue s g x))) g op = s.mapOp g op (Op.queried (queryValue s g x)) := by
    have none : (o.queried (queryValue s g x)).num = none := hn
    unfold finishOp
    rw [noted]
    dsimp only
    rw [none]
  show execProducerValueWrite g op s = _
  unfold execProducerValueWrite occur
  rw [h]
  dsimp only
  rw [if_neg (by simp [may]), ha, hd]
  show Host.Outcome.next (match (finishOp (s.mapOp g op (Op.queried (queryValue s g x))) g op).opOf g op with
    | some o => answerOp (finishOp (s.mapOp g op (Op.queried (queryValue s g x))) g op) g o
    | none => finishOp (s.mapOp g op (Op.queried (queryValue s g x))) g op) = _
  rw [alone, noted]

/-- After an answer a scalar destination holds what was read, and is full. -/
theorem answerOp_scalar {s : State} {g : GRef} {o : Op} (hp : s.hasPkg g.pkg = true) (ho : o.orphan = false) (hf : o.fault = none)
    (hl : (s.slotAt g).lateFault = false) {r : SReg} (hr : r ≠ 0) (hd : o.dst = .scalar r) :
    ((answerOp s g o).slotAt g).sreg r = lookup o.got 0 ∧ ((answerOp s g o).slotAt g).fe (.s r) = .full := by
  have keeps {α : Type} (P : Slot → α)
      (h : ∀ t, P (Slot.answered o.id t) = P t) (hops : ∀ (t : Slot) l, P { t with ops := l } = P t) :
      P ((answerOp s g o).slotAt g) = P ((s.slotAt g).putS r (lookup o.got 0)) := by
    rw [answerOp_eq ho hf hl, State.slotAt_mapSlot_keeps P h]
    refine (State.slotAt_dropOp_keeps P hops _ _ _ _).trans ?_
    rw [writeAnswer, hd]
    dsimp only
    rw [State.slotAt_setS hp, if_pos rfl]
  exact ⟨by rw [keeps (·.sreg r) (Slot.answered_sreg _ r) fun _ _ => rfl, Slot.sreg_putS, if_pos ⟨rfl, hr⟩],
    by rw [keeps (·.fe (.s r)) (Slot.answered_fe _ _) fun _ _ => rfl, Slot.fe_putS, if_pos rfl]⟩

end Sys2Proof.Machine

/-! Acknowledgements and cancelled waits (R167, R175, R425), and what queued records and rings keep of them. -/

namespace Sys2Proof.Machine

open Sys2Proof.Claims

/-! ## Records that wait, and the rings that they go to -/

/-- The records that wait in each package, and what the ring of a slot is found by. -/
def State.filing (s : State) : (PkgId → Bool × List Waiting × Table Part) × (GRef → Bool) :=
  (fun p => (s.hasPkg p, (s.pkgAt p).waiting, (s.pkgAt p).parts), s.isSuper)

/-- What an entry of a table meets, some entry meets after it has been put where it was found or in front. -/
theorem any_put {α : Type} (P : α → Bool) {t : Table α} {k : Nat} {v w : α} (h : Table.find t k = some v) (hv : P w = P v) :
    (Table.put t k w).any (fun e => P e.2) = t.any fun e => P e.2 := by
  induction t with
  | nil => cases h
  | cons e t ih =>
    obtain ⟨k', v'⟩ := e
    unfold Table.find at h
    unfold Table.put
    split at h
    case isTrue hk =>
      cases h
      rw [if_pos hk, List.any_cons, List.any_cons, hv]
    case isFalse hk =>
      rw [if_neg hk]
      split
      · have found : P v = true → t.any (fun e => P e.2) = true := fun hp =>
          List.any_eq_true.2 ⟨(k, v), Table.mem_find h, hp⟩
        rw [List.any_cons, List.any_cons, hv]
        cases hp : P v with
        | false => rfl
        | true => simp [found hp]
      · rw [List.any_cons, List.any_cons, ih h]

/-- A change of a package that leaves alone its partitions and its waiting records. -/
theorem State.filing_mapPkg {f : Pkg → Pkg} (hw : ∀ k, (f k).waiting = k.waiting) (hq : ∀ k, (f k).parts = k.parts) (s : State)
    (p : PkgId) : (s.mapPkg p f).filing = s.filing := by
  unfold State.filing
  refine Prod.ext ?_ ?_
  · funext q
    simp only [State.hasPkg_mapPkg, State.pkgAt_mapPkg_keeps Pkg.waiting hw, State.pkgAt_mapPkg_keeps Pkg.parts hq]
  · funext g
    unfold State.isSuper State.mapPkg
    cases h : Table.find s.pkgs p.toNat with
    | none => rfl
    | some k =>
      refine any_put (w := f k) (fun k => k.openParts.any fun q => q.2.superIs g) h ?_
      simp only [Pkg.openParts, hq]

@[simp] theorem State.filing_mapCell (s : State) (p : PkgId) (c : CellId) (f : Cell → Cell) : (s.mapCell p c f).filing = s.filing :=
  State.filing_mapPkg (by exact fun _ => rfl) (by exact fun _ => rfl) s p
@[simp] theorem State.filing_mapSlot (s : State) (g : GRef) (f : Slot → Slot) : (s.mapSlot g f).filing = s.filing :=
  State.filing_mapCell _ _ _ _
@[simp] theorem State.filing_mapOp (s : State) (g : GRef) (id : Nat) (f : Op → Op) : (s.mapOp g id f).filing = s.filing :=
  State.filing_mapSlot _ _ _
@[simp] theorem State.filing_dropOp (s : State) (g : GRef) (id : Nat) : (s.dropOp g id).filing = s.filing :=
  State.filing_mapSlot _ _ _
@[simp] theorem State.filing_leaveWaiters (s : State) (p : PkgId) (c : CellId) (w : GRef × Nat) :
    (s.leaveWaiters p c w).filing = s.filing := State.filing_mapCell _ _ _ _
@[simp] theorem State.filing_setWord (s : State) (full : Bool) (e : Elt) : (s.setWord full e).filing = s.filing :=
  State.filing_mapCell _ _ _ _

@[simp] theorem State.filing_poke (s : State) (l : Loc) (bs : List Byte) : (s.poke l bs).filing = s.filing := by
  unfold State.poke
  split
  case h_4 => rfl
  case h_5 | h_6 => exact State.filing_mapPkg (by exact fun _ => rfl) (by exact fun _ => rfl) _ _
  all_goals exact State.filing_mapCell _ _ _ _

@[simp] theorem filing_finishOp (s : State) (g : GRef) (id : Nat) : (finishOp s g id).filing = s.filing := by
  unfold finishOp
  split
  · rfl
  · split
    · split
      · split <;> simp
      · rfl
    · rfl

/-! ## Waiters that go on -/

theorem filing_foldl {α : Type} {f : State → α → State} (h : ∀ s a, (f s a).filing = s.filing) (l : List α) (s : State) :
    (l.foldl f s).filing = s.filing := by
  induction l generalizing s with
  | nil => rfl
  | cons a l ih => exact (ih _).trans (h s a)

/-- What a waiter does leaves the records and the rings alone. -/
theorem filing_feStep {s : State} {f : FeOp} {es : List Elt} {r : State × List (Nat × Word)} (h : feStep s f es = .ok r) :
    r.1.filing = s.filing := by
  unfold feStep at h
  split at h
  · cases h
  · dsimp only at h
    split at h <;> cases h
    case h_4 | h_7 => rfl
    all_goals exact filing_foldl (fun _ _ => by simp) _ _

theorem filing_waitStep {s : State} {a : Act} {es : List Elt} {r : State × List (Nat × Word)}
    (h : waitStep s a es = some (.ok r)) : r.1.filing = s.filing := by
  unfold waitStep at h
  split at h
  · split at h
    · cases h
    · split at h
      · exact filing_feStep (Option.some.inj h)
      · cases h
  · split at h
    · cases h; rfl
    · split at h
      · cases h
      · dsimp only at h
        split at h <;> cases h
        rfl
  · cases h

theorem filing_firstReady {s : State} {pick : Act → Bool} {ahead : List Elt} {l : List (GRef × Nat)} {w : GRef × Nat}
    {r : State × List (Nat × Word)} (h : firstReady s pick ahead l = some (w, .ok r)) : r.1.filing = s.filing := by
  induction l generalizing ahead with
  | nil => cases h
  | cons x l ih =>
    unfold firstReady at h
    split at h
    · exact ih h
    · dsimp only at h
      split at h
      · split at h
        case h_1 res hres => cases h; exact filing_waitStep hres
        case h_2 => exact ih h
      · exact ih h

theorem filing_settleFrom (n : Nat) (s : State) (p : PkgId) (c : CellId) : (settleFrom n s p c).filing = s.filing := by
  induction n generalizing s with
  | zero => rfl
  | succ n ih =>
    unfold settleFrom
    dsimp only
    split
    · rfl
    case h_2 w res hw =>
      rw [ih, State.filing_leaveWaiters, filing_finishOp]
      cases res with
      | error f => exact State.filing_mapOp _ _ _ _
      | ok r =>
        refine (State.filing_mapOp _ _ _ _).trans ?_
        cases hf : firstReady s Act.monitors [] (s.cellAt p c).waiters with
        | none => rw [hf] at hw; exact filing_firstReady hw
        | some x => rw [hf] at hw; cases hw; exact filing_firstReady hf

@[simp] theorem State.filing_settle (s : State) (p : PkgId) (c : CellId) : (s.settle p c).filing = s.filing := by
  unfold State.settle
  split
  · rfl
  · exact filing_settleFrom _ _ _ _

@[simp] theorem State.filing_unwait (s : State) (g : GRef) (o : Op) : (s.unwait g o).filing = s.filing := by
  unfold State.unwait
  split <;> simp

/-- What the filing of a state says. -/
theorem State.filing_eq {s t : State} (h : t.filing = s.filing) : (∀ p, t.hasPkg p = s.hasPkg p) ∧
    (∀ p, (t.pkgAt p).waiting = (s.pkgAt p).waiting) ∧ ∀ g, t.ringOf g = s.ringOf g := by
  obtain ⟨hp, hs⟩ := Prod.ext_iff.1 h
  have each (p : PkgId) := congrFun hp p
  simp only [State.filing, Prod.mk.injEq] at each
  refine ⟨fun p => (each p).1, fun p => (each p).2.1, fun g => ?_⟩
  have super : t.isSuper g = s.isSuper g := congrFun hs g
  unfold State.ringOf State.partRing Pkg.partOf Pkg.openParts
  rw [super, (each g.pkg).2.2]

/-! ## Acknowledgements -/

theorem acknowledge_eq {s : State} {g : GRef} {o : Op} (ho : o.orphan = false) (hf : o.fault = none)
    (hl : (s.slotAt g).lateFault = false) : acknowledge s g o = s.mapSlot g fun t =>
      { t with ops := t.ops.filter (·.id != o.id), lastOp := if t.lastOp = some o.id then none else t.lastOp } := by
  unfold acknowledge
  rw [if_neg (by simp [ho]), hf]
  dsimp only
  rw [State.dropOp, State.mapSlot_mapSlot, takeLate_of_not]
  rw [State.slotAt_mapSlot_keeps Slot.lateFault (by exact fun _ => rfl), hl]

theorem acknowledge_fenced {s : State} {g : GRef} {o : Op} {f : FaultInfo} (hp : s.hasPkg g.pkg = true) (ho : o.orphan = false)
    (hf : o.fault = some f) (hk : f.kind = .fenced) (hl : (s.slotAt g).lateFault = false) :
    ((acknowledge s g o).slotAt g).ops = (s.slotAt g).ops.filter (·.id != o.id) ∧
      Table.find ((acknowledge s g o).slotAt g).refused o.id = some { kind := o.refusedKind, addr := f.sector } := by
  have kept : acknowledge s g o = s.mapSlot g fun t =>
      { t with ops := t.ops.filter (·.id != o.id), refused := Table.put t.refused o.id { kind := o.refusedKind, addr := f.sector } } := by
    unfold acknowledge
    rw [if_neg (by simp [ho]), hf]
    dsimp only
    rw [if_pos hk, State.dropOp, State.mapSlot_mapSlot, takeLate_of_not]
    rw [State.slotAt_mapSlot_keeps Slot.lateFault (by exact fun _ => rfl), hl]
  rw [kept, State.slotAt_mapSlot_same hp]
  exact ⟨rfl, Table.find_put_same _ _ _⟩

/-- POSTED_ACKNOWLEDGEMENT of a posted operation that has been performed. -/
theorem exec_postedAcknowledgement_performed {s : State} {g : GRef} {op : Nat} {o : Op} (h : s.opOf g op = some o)
    (hq : o.posted = true) (hd : o.performed = true) : exec (.postedAcknowledgement g op) s = .next (acknowledge s g o) := by
  show execPostedAcknowledgement g op s = _
  unfold execPostedAcknowledgement occur
  rw [h]
  simp [hq, hd]

/-! ## Cancelled waits -/

/-- A wait for a full/empty operation or a monitor is a wait that may be cancelled. -/
theorem waitedOp_eq {s : State} {g : GRef} {op n : Nat} {o : Op} (h : s.opOf g op = some o)
    (hw : (s.slotAt g).wait = some { what := .answer op, since := n }) (ha : (∃ f, o.act = .fe f) ∨ ∃ f, o.act = .monitor f) :
    (s.slotAt g).waitedOp = some (o, n) := by
  unfold State.opOf at h
  unfold Slot.waitedOp
  rw [hw]
  dsimp only
  rw [h]
  obtain ⟨f, hf⟩ | ⟨f, hf⟩ := ha <;> simp [hf]

/-- FEWAIT_EXPIRY when the bound of the wait is reached. -/
theorem exec_fewaitExpiry_reached {s : State} {g : GRef} {o : Op} {n : Nat} (h : (s.slotAt g).waitedOp = some (o, n))
    (hn : (s.slotAt g).feWait ≠ 0) (hc : s.cycleAt g.pkg = n + 16 * (s.slotAt g).feWait.toNat) (hd : o.performed = false) :
    exec (.fewaitExpiry g) s = .next (s.mapOp g o.id fun o => { o with cancelled := true }) := by
  show execFewaitExpiry g s = _
  unfold execFewaitExpiry occur
  rw [h]
  exact congrArg Host.Outcome.next (if_pos (by simpa [Slot.expired, hc, hd] using hn))

theorem exec_cancelAnswer_performed {s : State} {g : GRef} {o : Op} {n : Nat} (h : (s.slotAt g).waitedOp = some (o, n))
    (hc : o.cancelled = true) (hd : o.performed = true) :
    exec (.cancelAnswer g) s = .next (s.mapOp g o.id fun o => { o with cancelled := false }) := by
  show execCancelAnswer g s = _
  unfold execCancelAnswer occur
  rw [h]
  simp [hc, hd]

theorem exec_cancelAnswer_unperformed {s : State} {g : GRef} {o : Op} {n : Nat} (h : (s.slotAt g).waitedOp = some (o, n))
    (hc : o.cancelled = true) (hd : o.performed = false) :
    exec (.cancelAnswer g) s = .next (faultOp s g o (cancelFault o)) := by
  show execCancelAnswer g s = _
  unfold execCancelAnswer occur
  rw [h]
  simp [hc, hd]

/-- A fault of an operation that its slot waits for is taken at the operation's instruction (R23, R175). -/
theorem faultOp_waiting {s : State} {g : GRef} {o : Op} (f : FaultInfo) (hp : s.hasPkg g.pkg = true)
    (hm : (s.slotAt g).mode = .parked ∨ (s.slotAt g).mode = .subscribed) (hl : (s.slotAt g).lateFault = false)
    (hd : (s.slotAt g).dying = false) (hb : o.begun = false) (hw : (s.slotAt g).awaits o.id = true) :
    let u := faultOp s g o f
    (u.slotAt g).mode = .trapped ∧ (u.slotAt g).fkind = f.kind.code ∧ (u.slotAt g).place = (o.head, o.pos, o.loops) ∧
      ∃ r, (u.pkgAt g.pkg).waiting = (s.pkgAt g.pkg).waiting ++
        [{ ring := s.ringOf g, cell := g.cell, slot := some g.slot, ctx := none, record := r }] ∧ r.aux = f.aux := by
  have taken : faultOp s g o f = takeFault (((s.unwait g o).dropOp g o.id).mapSlot g fun t => (t.restore o).renumber o) g f
      o.head o.pos (o.head, o.pos, o.loops) false (some o.mask) (some o.since) := by
    unfold faultOp
    dsimp only
    rw [if_neg (by simp [hd])]
    rcases hm with h | h <;> (rw [h]; dsimp only; rw [if_pos (by simp [hl, hb, hw])])
  obtain ⟨present, waiting, ring⟩ := State.filing_eq (s := s)
    (t := ((s.unwait g o).dropOp g o.id).mapSlot g fun t => (t.restore o).renumber o) (by simp)
  obtain ⟨-, -, -, -, hw, -, -, hs, -⟩ := takeFault_spec (((s.unwait g o).dropOp g o.id).mapSlot g fun t => (t.restore o).renumber o)
    g f o.head o.pos (o.head, o.pos, o.loops) false (some o.mask) (some o.since) ((present _).trans hp)
  rw [taken]
  refine ⟨by rw [hs]; rfl, by rw [hs]; rfl, by rw [hs, (Slot.stopped_spec _ _ _).1], ?_⟩
  rw [hw, waiting, ring]
  exact ⟨_, rfl, rfl⟩

/-! ## Answers -/

/-- Settles O29: an answer and an acknowledgement as `answerOp` and `acknowledge` say, a cancel by what it finds. -/
theorem answerEvents : Obligations.AnswerEvents := by
  unfold Obligations.AnswerEvents
  intro s g op o hp h
  have hid : o.id = op := opOf_id h
  subst hid
  refine ⟨fun hq hd ha ho hf hl => ?_, fun x ha hq hd hh hs hn ho hf hl r hr h0 => ?_, fun hq hd ho hl => ⟨fun hf => ?_, fun f hf hk => ?_⟩,
    rfl, fun n hw ha => ?_⟩
  · refine ⟨answerOp s g o, exec_producerValueWrite_performed h hq hd ha, fun hw he => ?_, fun hw => ?_⟩
    · have agreed := agree_answerOp hp ho hf hl hw he
      rw [writeAnswer_eq] at agreed
      exact agreed
    · obtain ⟨w, hw', hwhat⟩ := Option.map_eq_some_iff.1 hw
      obtain ⟨what, since⟩ := w
      cases hwhat
      obtain ⟨u, hu, hnext⟩ := answerOp_waiting hp ho hf hl hw'
      rw [hu]
      exact ⟨u.wait_endWait, u.mode_endWait, fun x hx => Slot.place_endWait (hnext.trans hx)⟩
  · refine ⟨_, exec_producerValueWrite_query hp h ha hq hd hh hs hn, ?_⟩
    exact answerOp_scalar (o := o.queried (queryValue s g x)) (by simpa using hp) ho hf
      ((State.slotAt_mapOp_keeps Slot.lateFault (fun _ _ => rfl) _ _ _ _ _).trans hl) h0 hr
  · have acked : exec (.postedAcknowledgement g o.id) s = .next (acknowledge s g o) := exec_postedAcknowledgement_performed h hq hd
    rw [acked, acknowledge_eq ho hf hl]
  · obtain ⟨hops, href⟩ := acknowledge_fenced hp ho hf hk hl
    exact ⟨_, exec_postedAcknowledgement_performed h hq hd, hops, href⟩
  · have waited := waitedOp_eq h hw ha
    refine ⟨fun hn hc hd => ?_, fun hc hd => ?_, fun hc hd hm hl hy => ?_⟩
    · exact exec_fewaitExpiry_reached waited hn hc hd
    · exact exec_cancelAnswer_performed waited hc hd
    · have begun : o.begun = false := by
        obtain ⟨f, hf⟩ | ⟨f, hf⟩ := ha <;> simp [Op.begun, hf]
      have awaits : (s.slotAt g).awaits o.id = true := by simp [Slot.awaits, hw]
      obtain ⟨hmode, hkind, hplace, r, hwaiting, haux⟩ := faultOp_waiting (cancelFault o) hp hm hl hy begun awaits
      exact ⟨_, r, exec_cancelAnswer_unperformed waited hc hd, hmode, hkind, hplace, hwaiting, haux⟩

end Sys2Proof.Machine

/-! The checks of an address, the units of an access, and its time at the slot port (R42, R165, R178, R279, R315, R316). -/

namespace Sys2Proof.Machine

open Sys2Proof.Claims

/-! ## The place of an address -/

/-- The PROT fault of an address that names no storage that the access may have (R165). -/
def protFault (pid : BitVec 16) (a : Word) (k : Acc) : FaultInfo := { kind := .prot, sector := a, aux := xlatWord pid k.kind 2 7 }

theorem protFault_eq (pid : BitVec 16) (a : Word) (k : Acc) : protFault pid a k =
    { kind := .prot, sector := a, aux := BitVec.ofNat 64 (7 + k.kind * 2 ^ 4 + 2 * 2 ^ 8 + pid.toNat * 2 ^ 12) } := rfl

/-- No package is shut off from itself. -/
@[simp] theorem State.shut_self (s : State) (p : PkgId) : s.shut p p = false := by simp [State.shut, State.reaches]

section Own

variable {s : State} {p : PkgId} {c : CellId} {pid : BitVec 16} {a : Word} {n : Nat} {k : Acc}

theorem locate_own_none (ha : a.toNat < 2 ^ 60) (h : regionOf a.toNat = none) :
    locate s p c pid a n k = .error (protFault pid a k) := by
  have hw : a.toNat / 2 ^ 60 = 0 := Nat.div_eq_of_lt ha
  have hb : bits a.toNat 0 60 = a.toNat := by rw [bits, Nat.pow_zero, Nat.div_one, Nat.mod_eq_of_lt ha]
  unfold locate
  simp only [hw, hb, h, if_true]
  rfl

theorem locate_own_some {x : Store} {o : Nat} (ha : a.toNat < 2 ^ 60) (h : regionOf a.toNat = some (x, o)) :
    locate s p c pid a n k =
      if k.reaches x = false then .error (protFault pid a k)
      else if x = .control ∧ n < 4 then .error { kind := .align, sector := a }
      else if k.allows x = false then .error (protFault pid a k)
      else if a.toNat % n = 0 then .ok (some { store := x, pkg := p, cell := c, off := o })
      else .error { kind := .align, sector := a } := by
  have hw : a.toNat / 2 ^ 60 = 0 := Nat.div_eq_of_lt ha
  have hb : bits a.toNat 0 60 = a.toNat := by rw [bits, Nat.pow_zero, Nat.div_one, Nat.mod_eq_of_lt ha]
  unfold locate
  simp only [hw, hb, h, if_true, State.shut_self, Bool.false_eq_true, if_false, Bool.not_eq_true', ne_eq, ite_not]
  rfl

end Own

theorem locate_window3 {s : State} {p : PkgId} {c : CellId} {pid : BitVec 16} {a : Word} {n : Nat} {k : Acc}
    (h : 3 ≤ a.toNat / 2 ^ 60) : locate s p c pid a n k = .error (protFault pid a k) := by
  unfold locate
  dsimp only
  rw [if_neg (by omega), if_neg (by omega), if_neg (by omega)]
  rfl

theorem locate_window2_reserved {s : State} {p : PkgId} {c : CellId} {pid : BitVec 16} {a : Word} {n : Nat} {k : Acc}
    (h : a.toNat / 2 ^ 60 = 2) (h2 : a.toNat / 2 ^ 57 ≠ 16) : locate s p c pid a n k = .error (protFault pid a k) := by
  have reserved : bits a.toNat 57 3 ≠ 0 := by unfold bits; omega
  unfold locate
  dsimp only
  rw [h, if_neg (by decide), if_neg (by decide), if_pos rfl, if_pos reserved]
  rfl

/-- The accesses that an instruction makes (R165). -/
def instrAccesses : List Acc := [.load, .store, .atomic, .fe, .monitor, .nclaim]

theorem reaches_of_instr : ∀ k ∈ instrAccesses, k.reaches .spad = true ∧ k.reaches .bstore = true ∧ k.reaches .opbuf = false ∧
    (k.reaches .control = true ↔ k = .load) ∧ k.allows .spad = true ∧ (k.allows .bstore = true ↔ k = .load ∨ k = .store) := by
  decide

theorem placeChecks : PlaceChecks := by
  intro s p c pid a n k hk
  obtain ⟨rs, rb, ro, rc, as, ab⟩ := reaches_of_instr k hk
  dsimp only
  refine ⟨locate_window3, locate_window2_reserved, fun ha => ?_⟩
  rw [Nat.mod_eq_of_lt ha]
  refine ⟨fun h => ?_, fun h1 h2 => ?_, fun h1 h2 => ?_, fun h1 h2 => ?_, fun h1 h2 => ?_⟩
  · rw [locate_own_some ha (x := .spad) (o := a.toNat) (by unfold regionOf; rw [if_pos h])]
    simp [rs, as]
  · rw [locate_own_some ha (x := .bstore) (o := a.toNat - 0x400000) (by
      unfold regionOf; rw [if_neg (by omega), if_pos ⟨h1, h2⟩])]
    rw [if_neg (by simp [rb]), if_neg (fun h => by cases h.1)]
    by_cases hk : k = .load ∨ k = .store
    · have may : ¬ (k ≠ .load ∧ k ≠ .store) := fun h => hk.elim h.1 h.2
      rw [if_neg (by simp [ab.2 hk]), if_neg may]
    · rw [if_pos (by simpa using mt ab.1 hk), if_pos (not_or.1 hk)]
      rfl
  · rw [locate_own_some ha (x := .opbuf) (o := a.toNat - 0x600000) (by
      unfold regionOf; rw [if_neg (by omega), if_neg (by omega), if_pos ⟨h1, h2⟩])]
    rw [if_pos ro]
    rfl
  · rw [locate_own_some ha (x := .control) (o := a.toNat - 0x700000) (by
      unfold regionOf; rw [if_neg (by omega), if_neg (by omega), if_neg (by omega), if_pos ⟨h1, h2⟩])]
    by_cases hk : k = .load
    · subst hk
      have may : Acc.load.allows .control = true := rfl
      by_cases hn : n < 4
      · simp [rc, hn]
      · by_cases hm : a.toNat % n = 0 <;> simp [rc, may, hn, hm]
    · rw [if_pos (by simpa using mt rc.1 hk), if_pos hk]
      rfl
  · exact locate_own_none ha (by
      unfold regionOf; rw [if_neg (by omega), if_neg (by omega), if_neg (by omega), if_neg (by omega)])

/-! ## The units of an access -/

/-- The unit of one element. -/
def oneUnit (e : Elt) : OpUnit := { path := pathOf e.addr, elts := [e] }

/-- The elements of four consecutive lanes. -/
def quad (es : List Elt) (q : Nat) : List Elt := es.filter fun e => e.lane / 4 == q

/-- The unit of a group of elements, at the place of its first. -/
def groupUnit : List Elt → List OpUnit
  | [] => []
  | e :: l => [{ path := pathOf e.addr, elts := e :: l }]

theorem groupElts_each (es : List Elt) : groupElts .each es = es.map oneUnit := rfl
theorem groupElts_whole (es : List Elt) : groupElts .whole es = groupUnit es := by cases es <;> rfl
theorem groupElts_quads (es : List Elt) : groupElts .quads es = (List.range 8).flatMap fun q =>
    if (quad es q).length = 4 then groupUnit (quad es q) else (quad es q).map oneUnit := by
  unfold groupElts
  refine List.flatMap_congr fun q _ => ?_
  unfold quad
  cases h : es.filter fun e => e.lane / 4 == q <;> rfl

theorem elts_groupUnit (es : List Elt) : (groupUnit es).flatMap (·.elts) = es := by cases es <;> simp [groupUnit]
theorem elts_oneUnits (es : List Elt) : (es.map oneUnit).flatMap (·.elts) = es := by
  simp [List.flatMap_map, oneUnit]

/-- A unit that has not been performed, at the place of its first element. -/
def freshUnit (u : OpUnit) : Prop :=
  u.done = false ∧ u.fault = none ∧ ∃ e rest, u.elts = e :: rest ∧ u.path = pathOf e.addr

theorem freshUnit_oneUnit (e : Elt) : freshUnit (oneUnit e) := ⟨rfl, rfl, e, [], rfl, rfl⟩
theorem freshUnit_groupUnit {es : List Elt} {u : OpUnit} (h : u ∈ groupUnit es) : freshUnit u := by
  cases es with
  | nil => cases h
  | cons e l => rw [List.mem_singleton.1 h]; exact ⟨rfl, rfl, e, l, rfl, rfl⟩

theorem elts_quads {es : List Elt} (h : ∀ e ∈ es, e.lane < 32) (e : Elt) :
    e ∈ (groupElts .quads es).flatMap (·.elts) ↔ e ∈ es := by
  have part (q : Nat) : (if (quad es q).length = 4 then groupUnit (quad es q) else (quad es q).map oneUnit).flatMap (·.elts) =
      quad es q := by
    split
    · exact elts_groupUnit _
    · exact elts_oneUnits _
  rw [groupElts_quads, List.flatMap_assoc]
  simp only [part, List.mem_flatMap, List.mem_range]
  refine ⟨fun ⟨_, _, he⟩ => List.mem_of_mem_filter he, fun he => ⟨e.lane / 4, ?_, List.mem_filter.2 ⟨he, beq_self_eq_true _⟩⟩⟩
  have := h e he
  omega

theorem atomicUnits : AtomicUnits := by
  intro es h
  refine ⟨fun g => ⟨fun e => ?_, fun u hu => ?_⟩, ?_, fun hne => ?_, fun u hu => ?_⟩
  · cases g with
    | each => rw [groupElts_each, elts_oneUnits]
    | whole => rw [groupElts_whole, elts_groupUnit]
    | quads => exact elts_quads h e
  · show freshUnit u
    cases g with
    | each =>
      obtain ⟨e, -, rfl⟩ := List.mem_map.1 hu
      exact freshUnit_oneUnit e
    | whole => exact freshUnit_groupUnit (groupElts_whole es ▸ hu)
    | quads =>
      rw [groupElts_quads, List.mem_flatMap] at hu
      obtain ⟨q, -, hu⟩ := hu
      split at hu
      · exact freshUnit_groupUnit hu
      · obtain ⟨e, -, rfl⟩ := List.mem_map.1 hu
        exact freshUnit_oneUnit e
  · rw [groupElts_each, List.map_map]; rfl
  · rw [groupElts_whole]
    cases es with
    | nil => exact absurd rfl hne
    | cons e l => rfl
  · rw [groupElts_quads, List.mem_flatMap] at hu
    obtain ⟨q, -, hu⟩ := hu
    split at hu
    case isTrue h4 =>
      refine .inr ⟨q, ?_⟩
      cases hq : quad es q with
      | nil => simp [hq] at h4
      | cons e l =>
        rw [hq] at hu h4
        rw [List.mem_singleton.1 hu]
        exact ⟨hq.symm, h4⟩
    case isFalse h4 =>
      obtain ⟨e, he, rfl⟩ := List.mem_map.1 hu
      have lane : e.lane / 4 = q := by simpa using (List.mem_filter.1 he).2
      exact .inl ⟨e, rfl, by rw [lane]; exact h4⟩

/-! ## The time of an access at the slot port -/

/-- The 8-byte words of some elements, each once, with whether the scratchpad holds them. -/
def portWords (es : List Elt) : List (Bool × Nat) :=
  (es.flatMap fun e => (unitsOf e.loc.off e.n 8).map fun w => (e.loc.store == .spad, w)).eraseDups

/-- The words of a list that a bank serves. -/
def inBank (ws : List (Bool × Nat)) (b : Nat) : List (Bool × Nat) := ws.filter fun w => w.2 % 16 + (if w.1 then 0 else 16) == b

theorem bankLoad_eq (es : List Elt) :
    bankLoad es = (List.range 32).foldl (fun m b => Nat.max m (inBank (portWords es) b).length) 1 := rfl

theorem nodup_eraseDups {α : Type} [BEq α] [LawfulBEq α] (l : List α) : l.eraseDups.Nodup := by
  match l with
  | [] => exact List.nodup_nil
  | a :: l =>
    have shorter : (l.filter fun b => !b == a).length < (a :: l).length := Nat.lt_succ_of_le (List.length_filter_le _ _)
    rw [List.eraseDups_cons, List.nodup_cons, List.mem_eraseDups]
    exact ⟨by simp, nodup_eraseDups _⟩
termination_by l.length
decreasing_by exact shorter

/-- The largest of some numbers and of a given one. -/
theorem foldl_max_le {α : Type} (f : α → Nat) (l : List α) (m : Nat) :
    m ≤ l.foldl (fun m b => Nat.max m (f b)) m ∧ ∀ b ∈ l, f b ≤ l.foldl (fun m b => Nat.max m (f b)) m := by
  induction l generalizing m with
  | nil => exact ⟨Nat.le_refl m, fun _ h => absurd h List.not_mem_nil⟩
  | cons a l ih =>
    obtain ⟨hm, hl⟩ := ih (Nat.max m (f a))
    refine ⟨Nat.le_trans (Nat.le_max_left _ _) hm, fun b hb => ?_⟩
    rcases List.mem_cons.1 hb with rfl | hb
    · exact Nat.le_trans (Nat.le_max_right _ _) hm
    · exact hl b hb

theorem foldl_max_attained {α : Type} (f : α → Nat) (l : List α) (m : Nat) :
    l.foldl (fun m b => Nat.max m (f b)) m = m ∨ ∃ b ∈ l, f b = l.foldl (fun m b => Nat.max m (f b)) m := by
  induction l generalizing m with
  | nil => exact .inl rfl
  | cons a l ih =>
    rw [List.foldl_cons]
    rcases ih (Nat.max m (f a)) with h | ⟨b, hb, h⟩
    · rw [h]
      rcases Nat.le_total m (f a) with hle | hle
      · exact .inr ⟨a, List.mem_cons_self, (Nat.max_eq_right hle).symm⟩
      · exact .inl (Nat.max_eq_left hle)
    · exact .inr ⟨b, List.mem_cons_of_mem _ hb, h⟩

theorem mem_unitsOf (a n u w : Nat) : w ∈ unitsOf a n u ↔ a / u ≤ w ∧ w ≤ a / u + ((a + n - 1) / u - a / u) := by
  unfold unitsOf
  simp only [List.mem_map, List.mem_range]
  exact ⟨fun ⟨i, hi, h⟩ => by omega, fun h => ⟨w - a / u, by omega, by omega⟩⟩

theorem mem_portWords {es : List Elt} (h : ∀ e ∈ es, 0 < e.n) (w : Bool × Nat) : w ∈ portWords es ↔
    ∃ e ∈ es, w.1 = (e.loc.store == .spad) ∧ e.loc.off / 8 ≤ w.2 ∧ w.2 ≤ (e.loc.off + e.n - 1) / 8 := by
  unfold portWords
  simp only [List.mem_eraseDups, List.mem_flatMap, List.mem_map, mem_unitsOf]
  refine exists_congr fun e => and_congr_right fun he => ?_
  have last : e.loc.off / 8 ≤ (e.loc.off + e.n - 1) / 8 := Nat.div_le_div_right (by have := h e he; omega)
  obtain ⟨b, j⟩ := w
  simp only [Prod.mk.injEq]
  exact ⟨fun ⟨x, hx, hb, hj⟩ => by subst hj; exact ⟨hb.symm, by omega, by omega⟩,
    fun ⟨hb, h1, h2⟩ => ⟨j, by omega, hb.symm, rfl⟩⟩

/-- The number of a bank: those of the scratchpad, then those of the B-store. -/
def bankNumber (bank : Bool × Nat) : Nat := bank.2 + (if bank.1 then 0 else 16)

theorem mem_inBank {ws : List (Bool × Nat)} {bank w : Bool × Nat} (hb : bank.2 < 16) :
    w ∈ inBank ws (bankNumber bank) ↔ w ∈ ws ∧ (w.1, w.2 % 16) = bank := by
  obtain ⟨x, i⟩ := bank
  obtain ⟨y, j⟩ := w
  have hj : j % 16 < 16 := Nat.mod_lt _ (by decide)
  simp only [inBank, bankNumber, List.mem_filter, beq_iff_eq, Prod.mk.injEq]
  refine and_congr_right fun _ => ?_
  cases x <;> cases y <;> simp <;> dsimp only at hb <;> omega

theorem portOccupancy : PortOccupancy := by
  intro a es hx hes
  dsimp only
  have hn : ∀ e ∈ es, 0 < e.n := fun e he => (hes e he).1
  have upper := foldl_max_le (fun b => (inBank (portWords es) b).length) (List.range 32) 1
  have least := foldl_max_attained (fun b => (inBank (portWords es) b).length) (List.range 32) 1
  rw [← bankLoad_eq] at upper least
  refine ⟨bankLoad es, upper.1, fun bank ws hr => ?_, ?_, fun ha => ?_, fun ha => ?_⟩
  · obtain ⟨hnodup, hws⟩ := hr
    cases ws with
    | nil => exact Nat.zero_le _
    | cons w ws =>
      have small : bank.2 < 16 := by
        rw [← (hws w List.mem_cons_self).2]
        exact Nat.mod_lt _ (by decide)
      have sub : w :: ws ⊆ inBank (portWords es) (bankNumber bank) := fun x h =>
        (mem_inBank small).2 ⟨(mem_portWords hn x).2 (hws x h).1, (hws x h).2⟩
      refine Nat.le_trans (hnodup.subperm sub).length_le (upper.2 _ (List.mem_range.2 ?_))
      unfold bankNumber
      split <;> omega
  · rcases least with h | ⟨b, hb, h⟩
    · exact .inl h
    · have hb := List.mem_range.1 hb
      obtain ⟨bank, small, rfl⟩ : ∃ bank : Bool × Nat, bank.2 < 16 ∧ bankNumber bank = b := by
        by_cases h16 : b < 16
        · exact ⟨(true, b), h16, rfl⟩
        · exact ⟨(false, b - 16), by dsimp only; omega, by simp only [bankNumber]; simp; omega⟩
      refine .inr ⟨bank, _, ⟨(nodup_eraseDups _).filter _, fun w hw => ?_⟩, h⟩
      obtain ⟨hword, hbank⟩ := (mem_inBank small).1 hw
      exact ⟨(mem_portWords hn w).1 hword, hbank⟩
  · obtain ⟨f, rfl⟩ | rfl := ha <;> rfl
  · cases a with
    | xacc x => exact absurd rfl (hx x)
    | atom f => exact absurd (.inl ⟨f, rfl⟩) ha
    | nclaim => exact absurd (.inr rfl) ha
    | _ => rfl

/-- Settles O19: addresses by their window and offset, units by their grouping, and the load of the busiest bank. -/
theorem addressChecks : Obligations.AddressChecks := ⟨placeChecks, atomicUnits, portOccupancy⟩

end Sys2Proof.Machine

/-! Reservations, MMA and the rotation table (R65, R224, R225, R227, R228, R235). -/

namespace Sys2Proof.Machine

open Sys2Proof.Claims

/-! ## How a body ends -/

section Bodies

variable {i : Instr} {s : State} {o : Opnds} {body : Ctx → Issue}

/-- An instruction whose operands are ready and whose body traps. -/
theorem traps_body {f : FaultInfo} (h : ready s o = true) (he : exec i s = run s o body) (hb : body (start s) = .trap f) :
    Traps i s f := by
  refine traps_of (ready_hasPkg h) ?_
  rw [he, run_ready h]
  exact congrArg (fun r => Host.Outcome.next (conclude s s.cur o r)) hb

/-- A body that changes its cell alone. -/
theorem completes_home {f : Cell → Cell} (h : ready s o = true) (he : exec i s = run s o body)
    (hf : ∀ t l, f (Cell.mapSlot t s.cur.slot l) = (f t).mapSlot s.cur.slot l)
    (hb : body (start s) = .done ((started s).mapCell s.cur.pkg s.cur.cell f)) : Completes i s (withHome s f) o.words := by
  refine completes_of h he (hb.trans ?_) (by simpa using ready_hasPkg h)
  rw [started_eq, mapCell_mapSlot s s.cur fun t => hf t _]

/-- A body that does nothing. -/
theorem completes_nothing (h : ready s o = true) (he : exec i s = run s o body) (hb : body (start s) = .done (started s)) :
    Completes i s s o.words := completes_of h he (hb.trans (by rw [started_eq])) (ready_hasPkg h)

end Bodies

/-! ## The checks of a reservation -/

/-- The check of R224 with a code, as a proposition. -/
def reserveFails (t : Table Word) (read : Word → Reservation) (n : Nat) (v : Word) (gran limit : Nat) (resv : Prop) : Nat → Prop
  | 7 => resv
  | 1 => inUse (Table.get 0 t n) = true
  | 2 => (read v).len = 0 ∨ limit < (read v).base + (read v).len
  | 3 => ∃ m ∈ t, inUse m.2 = true ∧ windowsMeet (read v).base (read v).len (read m.2).base (read m.2).len = true
  | 4 => (read v).fmt = 0x20 ∨ (read v).fmt = 0x25 ∨ (read v).fmt = 0x26 ∨ (read v).fmt = 0x27
  | 5 => 2 ≤ (read v).blk ∨ (read v).blk = 1 ∧ isB8 (read v).fmt = false
  | 6 => (read v).blk = 1 ∧ gran * (read v).len ≤ 16 * (read v).scoff ∨ (read v).blk = 0 ∧ (read v).scoff ≠ 0
  | _ => False

/-- The place of a code in the order of the checks. -/
def reserveRank (e : Nat) : Nat := if e = 7 then 0 else e

section Reserve

variable {t : Table Word} {read : Word → Reservation} {n : Nat} {v : Word} {gran limit : Nat} {resv : Bool}

/-- No record in use meets the range. -/
theorem find_meeting_none (h : ¬ reserveFails t read n v gran limit (resv = true) 3) :
    t.find? (fun e => inUse e.2 && windowsMeet (read v).base (read v).len (read e.2).base (read e.2).len) = none := by
  rw [List.find?_eq_none]
  intro m hm hc
  exact h ⟨m, hm, by simpa using hc⟩

theorem reserveCode_none (h : ∀ e, ¬ reserveFails t read n v gran limit (resv = true) e) :
    reserveCode t read n v gran limit resv = none := by
  have h7 : ¬ resv = true := h 7
  have h1 : ¬ inUse (Table.get 0 t n) = true := h 1
  have h2 : ¬ ((read v).len = 0 ∨ limit < (read v).base + (read v).len) := h 2
  have h4 : ¬ ((read v).fmt = 0x20 ∨ (read v).fmt = 0x25 ∨ (read v).fmt = 0x26 ∨ (read v).fmt = 0x27) := h 4
  have h5 : ¬ (2 ≤ (read v).blk ∨ (read v).blk = 1 ∧ isB8 (read v).fmt = false) := h 5
  have h6 : ¬ ((read v).blk = 1 ∧ gran * (read v).len ≤ 16 * (read v).scoff ∨ (read v).blk = 0 ∧ (read v).scoff ≠ 0) := h 6
  unfold reserveCode
  dsimp only
  rw [if_neg h7, if_neg h1, if_neg h2, find_meeting_none (h 3)]
  dsimp only
  rw [if_neg h4, if_neg h5, if_neg h6]

theorem reserveCode_some {e : Nat} (he : reserveFails t read n v gran limit (resv = true) e)
    (first : ∀ e', reserveRank e' < reserveRank e → ¬ reserveFails t read n v gran limit (resv = true) e') :
    (e ≠ 3 → reserveCode t read n v gran limit resv = some e) ∧
    (e = 3 → ∃ m ∈ t, (inUse m.2 = true ∧ windowsMeet (read v).base (read v).len (read m.2).base (read m.2).len = true) ∧
      reserveCode t read n v gran limit resv = some (3 + m.1 * 2 ^ 8)) := by
  have p7 : 0 < reserveRank e → ¬ resv = true := first 7
  have p1 : 1 < reserveRank e → ¬ inUse (Table.get 0 t n) = true := first 1
  have p2 : 2 < reserveRank e → ¬ ((read v).len = 0 ∨ limit < (read v).base + (read v).len) := first 2
  have p4 : 4 < reserveRank e → ¬ ((read v).fmt = 0x20 ∨ (read v).fmt = 0x25 ∨ (read v).fmt = 0x26 ∨ (read v).fmt = 0x27) :=
    first 4
  have p5 : 5 < reserveRank e → ¬ (2 ≤ (read v).blk ∨ (read v).blk = 1 ∧ isB8 (read v).fmt = false) := first 5
  have p3 : 3 < reserveRank e → _ := fun h => find_meeting_none (first 3 h)
  clear first
  unfold reserveCode
  dsimp only
  match e with
  | 7 =>
    have he : resv = true := he
    exact ⟨fun _ => if_pos he, fun h => absurd h (by decide)⟩
  | 1 =>
    have he : inUse (Table.get 0 t n) = true := he
    exact ⟨fun _ => by rw [if_neg (p7 (by decide)), if_pos he], fun h => absurd h (by decide)⟩
  | 2 =>
    have he : (read v).len = 0 ∨ limit < (read v).base + (read v).len := he
    exact ⟨fun _ => by rw [if_neg (p7 (by decide)), if_neg (p1 (by decide)), if_pos he], fun h => absurd h (by decide)⟩
  | 3 =>
    refine ⟨fun h => absurd rfl h, fun _ => ?_⟩
    rw [if_neg (p7 (by decide)), if_neg (p1 (by decide)), if_neg (p2 (by decide))]
    cases hf : t.find? fun e => inUse e.2 && windowsMeet (read v).base (read v).len (read e.2).base (read e.2).len with
    | none =>
      obtain ⟨m, hm, hc⟩ := he
      exact absurd (by simpa using hc) (List.find?_eq_none.1 hf m hm)
    | some m => exact ⟨m, List.mem_of_find?_eq_some hf, by simpa using List.find?_some hf, rfl⟩
  | 4 =>
    have he : (read v).fmt = 0x20 ∨ (read v).fmt = 0x25 ∨ (read v).fmt = 0x26 ∨ (read v).fmt = 0x27 := he
    refine ⟨fun _ => ?_, fun h => absurd h (by decide)⟩
    rw [if_neg (p7 (by decide)), if_neg (p1 (by decide)), if_neg (p2 (by decide)), p3 (by decide)]
    exact if_pos he
  | 5 =>
    have he : 2 ≤ (read v).blk ∨ (read v).blk = 1 ∧ isB8 (read v).fmt = false := he
    refine ⟨fun _ => ?_, fun h => absurd h (by decide)⟩
    rw [if_neg (p7 (by decide)), if_neg (p1 (by decide)), if_neg (p2 (by decide)), p3 (by decide)]
    dsimp only
    rw [if_neg (p4 (by decide)), if_pos he]
  | 6 =>
    have he : (read v).blk = 1 ∧ gran * (read v).len ≤ 16 * (read v).scoff ∨ (read v).blk = 0 ∧ (read v).scoff ≠ 0 := he
    refine ⟨fun _ => ?_, fun h => absurd h (by decide)⟩
    rw [if_neg (p7 (by decide)), if_neg (p1 (by decide)), if_neg (p2 (by decide)), p3 (by decide)]
    dsimp only
    rw [if_neg (p4 (by decide)), if_neg (p5 (by decide)), if_pos he]
  | 0 | _ + 8 => exact he.elim

end Reserve

/-! ## OBRES, BSRES, OBFREE and BSFREE -/

/-- The format codes that a reservation takes (R65). -/
theorem validFormat_iff (v : Word) : validFormat (v.extractLsb' 22 7) = true ↔
    (v.toNat / 2 ^ 22 % 2 ^ 7 < 32 ∧ v.toNat / 2 ^ 22 % 2 ^ 7 % 8 ≠ 0) ∨ 32 ≤ v.toNat / 2 ^ 22 % 2 ^ 7 ∧ v.toNat / 2 ^ 22 % 2 ^ 7 < 0x28 := by
  have hf : (v.extractLsb' 22 7).toNat = v.toNat / 2 ^ 22 % 2 ^ 7 := by
    rw [BitVec.extractLsb'_toNat, Nat.shiftRight_eq_div_pow]
  unfold validFormat
  rw [hf]
  split <;> simp <;> omega

theorem recordWord_eq (v : Word) (n : SlotId) :
    recordWord v n = BitVec.ofNat 64 (v.toNat % 2 ^ 56 + n.toNat * 2 ^ 56 + 2 ^ 63) := by
  simp [recordWord, bits]

theorem reservedBits_iff (w : Word) : reservedBits w = true ↔ w.toNat / 2 ^ 29 % 2 ^ 3 ≠ 0 ∨ w.toNat / 2 ^ 35 % 2 ^ 5 ≠ 0 ∨
    w.toNat / 2 ^ 54 % 2 ^ 2 ≠ 0 ∨ w.toNat / 2 ^ 60 % 2 ^ 3 ≠ 0 := by
  simp only [reservedBits, bits, Bool.or_eq_true, bne_iff_ne]
  tauto

theorem isB8_false (f : Nat) : isB8 f = false ↔ ¬ (f < 32 ∧ f % 8 ≠ 0) := by simp [isB8]

/-- How a reservation ends, by what its checks give. -/
def reserveIssue (v : Word) (code : Option Nat) (u : State) : Issue :=
  if !validFormat (v.extractLsb' 22 7) then .trap { kind := .illegal }
  else match code with
    | some e => obresTrap e
    | none => .done u

section Reserving

variable {i : Instr} {s : State} {o : Opnds} {body : Ctx → Issue} {v : Word} {code : Option Nat} {f : Cell → Cell}
variable (h : ready s o = true) (he : exec i s = run s o body)
variable (hb : body (start s) = reserveIssue v code ((started s).mapCell s.cur.pkg s.cur.cell f))

include h he hb

theorem traps_reserve_format (hv : ¬ validFormat (v.extractLsb' 22 7) = true) : Traps i s { kind := .illegal } :=
  traps_body h he (hb.trans (if_pos (by simpa using hv)))

theorem traps_reserve {e : Nat} (hv : validFormat (v.extractLsb' 22 7) = true) (hc : code = some e) :
    Traps i s { kind := .obres, aux := BitVec.ofNat 64 e } := by
  subst hc
  exact traps_body h he (hb.trans (if_neg (by simp [hv])))

theorem completes_reserve (hv : validFormat (v.extractLsb' 22 7) = true) (hc : code = none)
    (hf : ∀ t l, f (Cell.mapSlot t s.cur.slot l) = (f t).mapSlot s.cur.slot l) : Completes i s (withHome s f) o.words := by
  subst hc
  exact completes_home h he hf (hb.trans (if_neg (by simp [hv])))

end Reserving

/-- What the checks of OBRES and BSRES refuse, by code (R224): `range` reads a record's base and length in units of `unit`
bytes. -/
def Refuses (v : Word) (range : Word → Nat × Nat) (t : Table Word) (limit unit : Nat) (more : Prop) (n e : Nat) : Prop :=
  let field (w : Word) (lo n : Nat) : Nat := w.toNat / 2 ^ lo % 2 ^ n
  let at_ := range v
  match e with
  | 7 => field v 29 3 ≠ 0 ∨ field v 35 5 ≠ 0 ∨ field v 54 2 ≠ 0 ∨ field v 60 3 ≠ 0 ∨ more
  | 1 => (Table.get 0 t n).getLsbD 63 = true
  | 2 => at_.2 = 0 ∨ limit < at_.1 + at_.2
  | 3 => ∃ m ∈ t, m.2.getLsbD 63 = true ∧ at_.1 < (range m.2).1 + (range m.2).2 ∧ (range m.2).1 < at_.1 + at_.2
  | 4 => field v 22 7 ∈ [0x20, 0x25, 0x26, 0x27]
  | 5 => 2 ≤ field v 32 3 ∨ field v 32 3 = 1 ∧ ¬ (field v 22 7 < 32 ∧ field v 22 7 % 8 ≠ 0)
  | 6 => field v 32 3 = 1 ∧ unit * at_.2 ≤ 16 * field v 40 14 ∨ field v 32 3 = 0 ∧ field v 40 14 ≠ 0
  | _ => False

/-- A record is read by its range and by the fields that both layouts share (R37, R38). -/
structure ReadsBy (read : Word → Reservation) (range : Word → Nat × Nat) : Prop where
  range : ∀ w, range w = ((read w).base, (read w).len)
  fmt : ∀ w, (read w).fmt = w.toNat / 2 ^ 22 % 2 ^ 7
  blk : ∀ w, (read w).blk = w.toNat / 2 ^ 32 % 2 ^ 3
  scoff : ∀ w, (read w).scoff = w.toNat / 2 ^ 40 % 2 ^ 14

theorem obRecord_readsBy : ReadsBy obRecord fun w => (w.toNat / 2 ^ 0 % 2 ^ 11, w.toNat / 2 ^ 11 % 2 ^ 11) :=
  ⟨fun _ => rfl, fun _ => rfl, fun _ => rfl, fun _ => rfl⟩
theorem bsRecord_readsBy : ReadsBy bsRecord fun w => (w.toNat / 2 ^ 0 % 2 ^ 8, w.toNat / 2 ^ 8 % 2 ^ 9) :=
  ⟨fun _ => rfl, fun _ => rfl, fun _ => rfl, fun _ => rfl⟩

theorem refuses_iff {read : Word → Reservation} {range : Word → Nat × Nat} (hr : ReadsBy read range) {resv : Prop} {more : Prop}
    {v : Word} (hm : resv ↔ reservedBits v = true ∨ more) (t : Table Word) (limit unit n e : Nat) :
    Refuses v range t limit unit more n e ↔ reserveFails t read n v unit limit resv e := by
  unfold Refuses reserveFails
  simp only [hr.range, hr.fmt, hr.blk, hr.scoff]
  match e with
  | 7 =>
    rw [hm, reservedBits_iff]
    simp only [or_assoc]
  | 1 | 2 | 6 => exact Iff.rfl
  | 3 => simp only [inUse, windowsMeet, Bool.and_eq_true, decide_eq_true_eq]
  | 4 => simp
  | 5 => simp only [isB8_false]
  | 0 | _ + 8 => exact Iff.rfl

/-- OBRES and BSRES: the first check that fails, or the reservation (R224). -/
theorem reserves_of {i : Instr} {s : State} {o : Opnds} {body : Ctx → Issue} {v : Word} {f : Cell → Cell} {t : Table Word}
    {read : Word → Reservation} {range : Word → Nat × Nat} {n unit limit : Nat} {resv : Bool} {more : Prop}
    (h : ready s o = true) (he : exec i s = run s o body)
    (hb : body (start s) =
      reserveIssue v (reserveCode t read n v unit limit resv) ((started s).mapCell s.cur.pkg s.cur.cell f))
    (hr : ReadsBy read range) (hm : resv = true ↔ reservedBits v = true ∨ more)
    (hf : ∀ t l, f (Cell.mapSlot t s.cur.slot l) = (f t).mapSlot s.cur.slot l) :
    let F := v.toNat / 2 ^ 22 % 2 ^ 7
    let no := Refuses v range t limit unit more n
    (¬ (F < 32 ∧ F % 8 ≠ 0 ∨ 32 ≤ F ∧ F < 0x28) → Traps i s { kind := .illegal }) ∧
    (F < 32 ∧ F % 8 ≠ 0 ∨ 32 ≤ F ∧ F < 0x28 →
      (∀ e, no e → (∀ e', reserveRank e' < reserveRank e → ¬ no e') →
        (e ≠ 3 → Traps i s { kind := .obres, aux := BitVec.ofNat 64 e }) ∧
        (e = 3 → ∃ m ∈ t, m.2.getLsbD 63 = true ∧ (range v).1 < (range m.2).1 + (range m.2).2 ∧
          (range m.2).1 < (range v).1 + (range v).2 ∧
          Traps i s { kind := .obres, aux := BitVec.ofNat 64 (3 + m.1 * 2 ^ 8) })) ∧
      ((∀ e, ¬ no e) → Completes i s (withHome s f) o.words)) := by
  dsimp only
  rw [← validFormat_iff]
  simp only [refuses_iff hr hm]
  refine ⟨traps_reserve_format h he hb, fun hv => ⟨fun e hno first => ?_, fun hno => ?_⟩⟩
  · obtain ⟨other, meets⟩ := reserveCode_some hno first
    refine ⟨fun h3 => traps_reserve h he hb hv (other h3), fun h3 => ?_⟩
    obtain ⟨m, hmem, ⟨huse, hover⟩, hcode⟩ := meets h3
    obtain ⟨h1, h2⟩ : (read v).base < (read m.2).base + (read m.2).len ∧ (read m.2).base < (read v).base + (read v).len := by
      simpa [windowsMeet] using hover
    simp only [hr.range]
    exact ⟨m, hmem, huse, h1, h2, traps_reserve h he hb hv hcode⟩
  · exact completes_reserve h he hb hv (reserveCode_none hno) hf

/-- A body that traps OBRES unless its record is the slot's, and then frees it (R225). -/
theorem heldBy_iff (w : Word) (n : SlotId) : heldBy w n = true ↔ w.getLsbD 63 = true ∧ w.toNat / 2 ^ 56 % 2 ^ 4 = n.toNat := by
  simp [heldBy, inUse, bits]

theorem start_obres (s : State) : (start s).cell.obres = (home s).obres := start_cell Cell.obres (fun _ _ => rfl) s
theorem start_bsres (s : State) : (start s).cell.bsres = (home s).bsres := start_cell Cell.bsres (fun _ _ => rfl) s
theorem start_steps (s : State) : (start s).cell.steps = (home s).steps := start_cell Cell.steps (fun _ _ => rfl) s

/-- The statement of OBFREE and BSFREE, for the record table that the instruction works on. -/
theorem frees_of {i : Instr} {s : State} {body : Ctx → Issue} {w : Word} {f : Cell → Cell} {uses : StepRun → Nat} {n : Nat}
    (h : ready s {} = true) (he : exec i s = run s {} body)
    (hb : body (start s) = if !heldBy w s.cur.slot then obresTrap 12
      else if (home s).steps.any fun r => r.slot == s.cur.slot && uses r == n then .hold
      else .done ((started s).mapCell s.cur.pkg s.cur.cell f))
    (hf : ∀ t l, f (Cell.mapSlot t s.cur.slot l) = (f t).mapSlot s.cur.slot l) :
    (¬ (w.getLsbD 63 = true ∧ w.toNat / 2 ^ 56 % 2 ^ 4 = s.cur.slot.toNat) →
      Traps i s { kind := .obres, aux := BitVec.ofNat 64 12 }) ∧
    (w.getLsbD 63 = true ∧ w.toNat / 2 ^ 56 % 2 ^ 4 = s.cur.slot.toNat →
      (∀ r ∈ (home s).steps, r.slot = s.cur.slot → uses r ≠ n) → Completes i s (withHome s f) 1) := by
  rw [← heldBy_iff]
  refine ⟨fun hh => traps_body h he (hb.trans (if_pos (by simpa using hh))), fun hh hs => ?_⟩
  have idle : ((home s).steps.any fun r => r.slot == s.cur.slot && uses r == n) = false := by
    simpa [List.any_eq_false] using hs
  exact completes_home h he hf (hb.trans (by rw [if_neg (by simp [hh]), if_neg (by simp [idle])]))

end Sys2Proof.Machine

/-! The checks of MMA and MMAZ (R226, R227), the rotation table (R41, R235), and the matrix commands together. -/

namespace Sys2Proof.Machine

open Sys2Proof.Claims

/-! ## The formats of a step -/

/-- An element of a format is 16 bits wide (R226). -/
abbrev WideFormat (f : Nat) : Prop := f = 0x21 ∨ f = 0x22

theorem isWide_iff (f : Nat) : isWide f = true ↔ WideFormat f := by
  unfold isWide matrixRow
  by_cases h8 : isB8 f = true
  · rw [if_pos h8]
    have : f < 32 := by simp [isB8] at h8; exact h8.1
    simp; omega
  · rw [if_neg h8]
    by_cases h1 : f = 0x23 ∨ f = 0x24
    · rw [if_pos h1]; simp; omega
    · rw [if_neg h1]; split <;> simp_all

theorem kStep_eq (f : Nat) : kStep f = if WideFormat f then 4 else 16 := by
  unfold kStep; simp only [isWide_iff]
theorem aBlock_eq (f : Nat) : aBlock f = if WideFormat f then 512 else 1024 := by
  unfold aBlock; simp only [isWide_iff]
theorem bBlock_eq (f : Nat) : bBlock f = if WideFormat f then 8 else 16 := by
  unfold bBlock; simp only [isWide_iff]

/-- The kinds of formats that a step multiplies: binary8, integers, 16-bit numbers, and none (R227). -/
def formatKind (f : Nat) : Nat :=
  if f < 32 ∧ f % 8 ≠ 0 then 0 else if f = 0x23 ∨ f = 0x24 then 1 else if f = 0x21 ∨ f = 0x22 then 2 else 3

theorem matrixRow_eq (f : Nat) : matrixRow f = if formatKind f = 3 then none else some (formatKind f) := by
  have b8 : isB8 f = true ↔ f < 32 ∧ f % 8 ≠ 0 := by simp [isB8]
  unfold matrixRow formatKind
  simp only [b8]
  split
  · rfl
  · split
    · rfl
    · split <;> rfl

theorem formats_differ_iff (f f' : Nat) : (matrixRow f = none ∨ matrixRow f ≠ matrixRow f') ↔
    formatKind f = 3 ∨ formatKind f ≠ formatKind f' := by
  rw [matrixRow_eq, matrixRow_eq]
  by_cases h : formatKind f = 3
  · simp [h]
  · by_cases h' : formatKind f' = 3
    · simp [h, h']
    · simp [h, h']

/-- The scales of the last step of an operand reach farthest (R227). -/
theorem scales_beyond_iff (len base blk step n w c : Nat) :
    (∃ j < n + 1, ∃ i < w + 1, len ≤ base + c * ((blk + j) * step / 32) + i) ↔ len < base + c * ((blk + n) * step / 32) + w + 1 := by
  refine ⟨fun ⟨j, hj, i, hi, h⟩ => ?_, fun h => ⟨n, Nat.lt_succ_self n, w, Nat.lt_succ_self w, by omega⟩⟩
  have mono : c * ((blk + j) * step / 32) ≤ c * ((blk + n) * step / 32) :=
    Nat.mul_le_mul_left _ (Nat.div_le_div_right (Nat.mul_le_mul_right _ (by omega)))
  omega

theorem scale_beyond_iff (len base blk step n : Nat) :
    (∃ j < n + 1, len ≤ base + (blk + j) * step / 32) ↔ len < base + (blk + n) * step / 32 + 1 := by
  refine ⟨fun ⟨j, hj, h⟩ => ?_, fun h => ⟨n, Nat.lt_succ_self n, by omega⟩⟩
  have mono : (blk + j) * step / 32 ≤ (blk + n) * step / 32 :=
    Nat.div_le_div_right (Nat.mul_le_mul_right _ (by omega))
  omega

/-! ## The checks of MMA -/

/-- What the checks of MMA refuse, by code (R227). -/
def MmaRefuses (t : Cell) (v w : Word) (n e : Nat) : Prop :=
  let aw := (Table.get 0 t.obres (v.toNat % 16)).toNat
  let bw := (Table.get 0 t.bsres (w.toNat % 16)).toNat
  let ao := v.toNat / 2 ^ 8 % 2 ^ 20
  let bo := w.toNat / 2 ^ 8 % 2 ^ 14
  let fmt (r : Nat) : Nat := r / 2 ^ 22 % 2 ^ 7
  let blk (r : Nat) : Prop := r / 2 ^ 32 % 2 ^ 3 = 1
  let scoff (r : Nat) : Nat := r / 2 ^ 40 % 2 ^ 14
  let step (f : Nat) : Nat := if WideFormat f then 4 else 16
  let ab := if WideFormat (fmt aw) then 512 else 1024
  let bb := if WideFormat (fmt bw) then 8 else 16
  let alen := 256 * (aw / 2 ^ 11 % 2 ^ 11)
  let blen := 64 * (bw / 2 ^ 8 % 2 ^ 9)
  match e with
  | 7 => v.toNat / 2 ^ 4 % 2 ^ 4 ≠ 0 ∨ v.toNat / 2 ^ 28 ≠ 0 ∨ w.toNat / 2 ^ 4 % 2 ^ 4 ≠ 0 ∨ w.toNat / 2 ^ 22 ≠ 0
  | 8 => aw < 2 ^ 63 ∨ bw < 2 ^ 63
  | 9 => ao % ab ≠ 0 ∨ bo % bb ≠ 0 ∨ alen < ao + n * ab ∨ blen < bo + n * bb
  | 10 => formatKind (fmt aw) = 3 ∨ formatKind (fmt aw) ≠ formatKind (fmt bw)
  | 11 => (blk aw ∧ ∃ j < n, ∃ i < 64, alen ≤ 16 * scoff aw + 64 * ((ao / ab + j) * step (fmt aw) / 32) + i) ∨
      (blk bw ∧ ∃ j < n, blen ≤ 16 * scoff bw + (bo / bb + j) * step (fmt bw) / 32)
  | _ => False

theorem inUse_iff (w : Word) : (!inUse w) = true ↔ w.toNat < 2 ^ 63 := by
  have h : inUse w = w.msb := (BitVec.msb_eq_getLsbD_last w).symm
  rw [h, BitVec.msb_eq_decide]
  simp

/-- The first check of MMA that fails is that of the lowest code. -/
theorem mmaCode_eq (t : Cell) (v w : Word) (n : Nat) : ∃ c7 c8 c9 c10 c11 : Prop,
    ∃ (_ : Decidable c7) (_ : Decidable c8) (_ : Decidable c9) (_ : Decidable c10) (_ : Decidable c11),
    mmaCode t v w (n + 1) = (if c7 then some 7 else if c8 then some 8 else if c9 then some 9 else if c10 then some 10
      else if c11 then some 11 else none) ∧
    (c7 ↔ MmaRefuses t v w (n + 1) 7) ∧ (c8 ↔ MmaRefuses t v w (n + 1) 8) ∧ (c9 ↔ MmaRefuses t v w (n + 1) 9) ∧
    (c10 ↔ MmaRefuses t v w (n + 1) 10) ∧ (c11 ↔ MmaRefuses t v w (n + 1) 11) := by
  have number (x : Nat) : bits x 0 4 = x % 16 := by simp [bits]
  refine ⟨_, _, _, _, _, _, _, _, _, _, rfl, ?_, ?_, ?_, ?_, ?_⟩
  · have hv : v.toNat / 2 ^ 28 % 2 ^ 36 = v.toNat / 2 ^ 28 := Nat.mod_eq_of_lt (by have := v.isLt; omega)
    have hw : w.toNat / 2 ^ 22 % 2 ^ 42 = w.toNat / 2 ^ 22 := Nat.mod_eq_of_lt (by have := w.isLt; omega)
    simp only [bits, hv, hw]
    exact Iff.rfl
  · rw [Bool.or_eq_true, inUse_iff, inUse_iff, number, number]
    exact Iff.rfl
  · simp only [aBlock_eq, bBlock_eq, number]
    exact Iff.rfl
  · rw [number, number]
    exact formats_differ_iff _ _
  · simp only [aBlock_eq, bBlock_eq, kStep_eq, Nat.add_sub_cancel, number]
    exact or_congr (and_congr Iff.rfl (scales_beyond_iff _ _ _ _ n 63 64).symm)
      (and_congr Iff.rfl (scale_beyond_iff _ _ _ _ n).symm)

theorem mmaCode_some {t : Cell} {v w : Word} {n e : Nat} (he : MmaRefuses t v w (n + 1) e)
    (first : ∀ e' < e, ¬ MmaRefuses t v w (n + 1) e') : mmaCode t v w (n + 1) = some e := by
  obtain ⟨c7, c8, c9, c10, c11, _, _, _, _, _, hc, h7, h8, h9, h10, h11⟩ := mmaCode_eq t v w n
  rw [hc]
  match e with
  | 7 => rw [if_pos (h7.2 he)]
  | 8 => rw [if_neg (mt h7.1 (first 7 (by decide))), if_pos (h8.2 he)]
  | 9 => rw [if_neg (mt h7.1 (first 7 (by decide))), if_neg (mt h8.1 (first 8 (by decide))), if_pos (h9.2 he)]
  | 10 =>
    rw [if_neg (mt h7.1 (first 7 (by decide))), if_neg (mt h8.1 (first 8 (by decide))), if_neg (mt h9.1 (first 9 (by decide))),
      if_pos (h10.2 he)]
  | 11 =>
    rw [if_neg (mt h7.1 (first 7 (by decide))), if_neg (mt h8.1 (first 8 (by decide))), if_neg (mt h9.1 (first 9 (by decide))),
      if_neg (mt h10.1 (first 10 (by decide))), if_pos (h11.2 he)]
  | 0 | 1 | 2 | 3 | 4 | 5 | 6 | _ + 12 => exact he.elim

theorem mmaCode_none {t : Cell} {v w : Word} {n : Nat} (h : ∀ e, ¬ MmaRefuses t v w (n + 1) e) : mmaCode t v w (n + 1) = none := by
  obtain ⟨c7, c8, c9, c10, c11, _, _, _, _, _, hc, h7, h8, h9, h10, h11⟩ := mmaCode_eq t v w n
  rw [hc, if_neg (mt h7.1 (h 7)), if_neg (mt h8.1 (h 8)), if_neg (mt h9.1 (h 9)), if_neg (mt h10.1 (h 10)),
    if_neg (mt h11.1 (h 11))]

/-! ## An engine that holds its slot -/

/-- A body that engages an engine leaves its effect; the slot stays, and knows where it goes on (R228). -/
theorem engages_of {i : Instr} {s u : State} {o : Opnds} {body : Ctx → Issue} (h : ready s o = true) (he : exec i s = run s o body)
    (hb : body (start s) = .engage (u.mapSlot s.cur Slot.unlast)) (hu : u.hasPkg s.cur.pkg = true) :
    ∃ t, exec i s = .next t ∧ Agree s.cur u t ∧ (t.slotAt s.cur).waitNext = some (s.nextPlace s.cur o.words) ∧
      (t.slotAt s.cur).place = (u.slotAt s.cur).place := by
  have hs : Still ((u.mapSlot s.cur Slot.unlast).mapSlot s.cur fun t =>
      { t with waitNext := some (s.nextPlace s.cur o.words), take := none, took := takenRegs (s.slotAt s.cur) o })
      (conclude s s.cur o (.engage (u.mapSlot s.cur Slot.unlast))) := by
    unfold conclude
    simp only
    split
    · exact Still.publish _ _ _ _ _
    · exact Still.refl _
  rw [State.mapSlot_mapSlot] at hs
  have hslot := (hs.2.2.1 s.cur).trans (congrArg Slot.quiet (State.slotAt_mapSlot_same hu _))
  refine ⟨_, by rw [he, run_ready h]; exact congrArg (fun r => Host.Outcome.next (conclude s s.cur o r)) hb,
    Agree.finish hu (by exact fun _ => rfl) hs, ?_, ?_⟩
  · exact congrArg Slot.waitNext hslot
  · rw [Slot.place_quiet hslot]
    rfl

/-- The steps that MMA and MMAZ queue (R228). -/
def mmaJob (s : State) (v w : Word) (k : BitVec 5) (tile : BitVec 2) (zero : Bool) : MmaJob :=
  { slot := s.cur.slot, tile := tile, aNo := v.toNat % 16, bNo := w.toNat % 16
    arec := Table.get 0 (home s).obres (v.toNat % 16), brec := Table.get 0 (home s).bsres (w.toNat % 16)
    ao := v.toNat / 2 ^ 8 % 2 ^ 20, bo := w.toNat / 2 ^ 8 % 2 ^ 14, k := k.toNat + 1, j := (here s).mmaStep.toNat
    zero := zero, mask := (here s).active, issued := s.cycleAt s.cur.pkg }

section Mma

variable {s : State} {a b : SReg} {k : BitVec 5} {tile : BitVec 2} (h : ready s (Opnds.ab a b) = true) (z : Bool)

theorem exec_mma_or_mmaz : exec (if z then .mmaz a b k tile else .mma a b k tile) s = run s (Opnds.ab a b) (mmaBody a b k tile z) := by
  cases z <;> rfl

theorem start_mmaCode (s : State) (v w : Word) (n : Nat) : mmaCode (start s).cell v w n = mmaCode (home s) v w n := by
  have ob := start_obres s
  have bs := start_bsres s
  unfold mmaCode
  rw [ob, bs]

include h

theorem traps_mma {e : Nat} (he : mmaCode (home s) ((here s).sreg a) ((here s).sreg b) (k.toNat + 1) = some e) :
    Traps (if z then .mmaz a b k tile else .mma a b k tile) s { kind := .obres, aux := BitVec.ofNat 64 e } := by
  refine traps_body h (exec_mma_or_mmaz z) ?_
  unfold mmaBody
  simp only [start_sreg, start_mmaCode, he]
  rfl

theorem engages_mma (he : mmaCode (home s) ((here s).sreg a) ((here s).sreg b) (k.toNat + 1) = none)
    (hk : (here s).mmaStep.toNat ≤ k.toNat) : ∃ t, exec (if z then .mmaz a b k tile else .mma a b k tile) s = .next t ∧
      Agree s.cur (withHome s fun t => { t with mma := t.mma ++ [mmaJob s ((here s).sreg a) ((here s).sreg b) k tile z] }) t ∧
      (t.slotAt s.cur).waitNext = some (s.nextPlace s.cur 1) ∧ (t.slotAt s.cur).place = (here s).place := by
  have step : (start s).slot.mmaStep = (here s).mmaStep := start_slot_keeps Slot.mmaStep (fun _ => rfl) s
  have queued : mmaBody a b k tile z (start s) = .engage
      ((withHome s fun t => { t with mma := t.mma ++ [mmaJob s ((here s).sreg a) ((here s).sreg b) k tile z] }).mapSlot s.cur
        Slot.unlast) := by
    have number (x : Nat) : bits x 0 4 = x % 16 := by simp [bits]
    unfold mmaBody
    simp only [start_sreg, start_mmaCode, he, step, start_obres, start_bsres, start_active, start_cycle, number, start_g, start_s]
    rw [if_neg (by omega), started_eq]
    exact congrArg Issue.engage (mapCell_mapSlot s s.cur fun _ => rfl)
  obtain ⟨t, ht, hag, hnext, hplace⟩ := engages_of h (exec_mma_or_mmaz z) queued (by simpa using ready_hasPkg h)
  refine ⟨t, ht, hag, hnext, hplace.trans ?_⟩
  rw [State.slotAt_mapCell_keeps (by exact fun _ => rfl)]

end Mma

/-! ## MROT -/

/-- Entry `i` of a rotation table that MROT writes (R235). -/
def mrotEntry (v w : Word) (i : Nat) : Byte :=
  if i < 8 then BitVec.ofNat 8 (v.toNat / 2 ^ (8 * i)) else BitVec.ofNat 8 (w.toNat / 2 ^ (8 * (i - 8)))

theorem extractLsb'_byte (v : Word) (i : Nat) : v.extractLsb' (8 * i) 8 = BitVec.ofNat 8 (v.toNat / 2 ^ (8 * i)) := by
  simp [BitVec.extractLsb', Nat.shiftRight_eq_div_pow]

theorem rotationEntries_eq (v w : Word) : rotationEntries v w = (List.range 16).map (mrotEntry v w) := by
  have high : (List.range 16).map (mrotEntry v w) =
      (List.range 8).map (mrotEntry v w) ++ (List.range 8).map fun i => mrotEntry v w (8 + i) := by rfl
  rw [high, rotationEntries]
  congr 1
  · refine List.map_congr_left fun i hi => ?_
    rw [mrotEntry, if_pos (List.mem_range.1 hi), extractLsb'_byte]
  · refine List.map_congr_left fun i _ => ?_
    rw [mrotEntry, if_neg (by omega), Nat.add_sub_cancel_left, extractLsb'_byte]

/-- A table that takes the members of a list at their positions reads as the list. -/
theorem get_setAll (l : List Byte) (n : Nat) (t : Table Byte) (k : Nat) :
    Table.get 0 ((l.zipIdx n).foldl (fun t e => Table.set 0 t e.2 e.1) t) k =
      if n ≤ k ∧ k < n + l.length then l.getD (k - n) 0 else Table.get 0 t k := by
  induction l generalizing n t with
  | nil => rw [if_neg (by simp)]; rfl
  | cons x l ih =>
    rw [List.zipIdx_cons, List.foldl_cons, ih, List.length_cons]
    by_cases hk : k = n
    · subst hk
      rw [if_neg (by omega), if_pos (by omega), Table.get_set_same, Nat.sub_self]
      rfl
    · by_cases hin : n + 1 ≤ k ∧ k < n + 1 + l.length
      · rw [if_pos hin, if_pos (by omega), show k - n = k - (n + 1) + 1 by omega]
        rfl
      · rw [if_neg hin, if_neg (by omega), Table.get_set_ne _ _ _ hk]

theorem reserved_entry (e : Byte) : (e.extractLsb' 4 3 != 0) = true ↔ e.toNat / 2 ^ 4 % 8 ≠ 0 := by
  rw [bne_iff_ne, ne_eq, ← BitVec.toNat_inj, BitVec.extractLsb'_toNat, Nat.shiftRight_eq_div_pow]
  rfl

section Mrot

variable {s : State} {a b : SReg} (h : ready s { Opnds.ab a b with needs := .lead } = true)

/-- The body of MROT. -/
theorem start_rotationEntries (s : State) (a b : SReg) : rotationEntries ((start s).sreg a) ((start s).sreg b) =
    (List.range 16).map (mrotEntry ((here s).sreg a) ((here s).sreg b)) := by
  rw [start_sreg, start_sreg, rotationEntries_eq]

include h

theorem traps_mrot (hr : ∃ i < 16, (mrotEntry ((here s).sreg a) ((here s).sreg b) i).toNat / 2 ^ 4 % 8 ≠ 0) :
    Traps (.mrot a b) s { kind := .illegal } := by
  refine traps_body h (exec_mrot a b s) ?_
  dsimp only
  rw [start_rotationEntries, if_pos]
  simp only [List.any_map, Function.comp_def, List.any_eq_true, List.mem_range, reserved_entry]
  exact hr

theorem completes_mrot (hr : ∀ i < 16, (mrotEntry ((here s).sreg a) ((here s).sreg b) i).toNat / 2 ^ 4 % 8 = 0) :
    ∃ table : Table Byte, (∀ i < 16, Table.get 0 table i = mrotEntry ((here s).sreg a) ((here s).sreg b) i) ∧
      Completes (.mrot a b) s (withHome s fun t => { t with
        rotationNext := t.rotationNext.filter (·.1 != (s.cycleAt s.cur.pkg + 16 + 255) / 256 * 256) ++
          [((s.cycleAt s.cur.pkg + 16 + 255) / 256 * 256, table)] }) 1 := by
  refine ⟨(((List.range 16).map (mrotEntry ((here s).sreg a) ((here s).sreg b))).zipIdx).foldl
    (fun t e => Table.set 0 t e.2 e.1) [], fun i hi => ?_, ?_⟩
  · rw [get_setAll, if_pos (by simpa using hi)]
    simp [hi]
  · refine completes_home h (exec_mrot a b s) (fun _ _ => rfl) ?_
    dsimp only
    rw [start_rotationEntries, if_neg, start_cycle]
    · rfl
    · simp only [List.any_map, Function.comp_def, List.any_eq_true, List.mem_range, reserved_entry]
      exact fun ⟨i, hi, he⟩ => he (hr i hi)

end Mrot

/-- What OBRES does once its operand is ready. -/
def obresBody (a : SReg) (n : BitVec 4) (c : Ctx) : Issue :=
  reserveIssue (c.sreg a) (reserveCode c.cell.obres obRecord n.toNat (c.sreg a) 256 1024 (reservedBits (c.sreg a)))
    (c.s.mapCell c.g.pkg c.g.cell fun t => { t with obres := Table.set 0 t.obres n.toNat (recordWord (c.sreg a) c.g.slot) })

/-- What BSRES does once its operand is ready. -/
def bsresBody (a : SReg) (n : BitVec 4) (c : Ctx) : Issue :=
  reserveIssue (c.sreg a)
    (reserveCode c.cell.bsres bsRecord n.toNat (c.sreg a) 64 256 (reservedBits (c.sreg a) || bits (c.sreg a).toNat 17 5 != 0))
    (c.s.mapCell c.g.pkg c.g.cell fun t => { t with bsres := Table.set 0 t.bsres n.toNat (recordWord (c.sreg a) c.g.slot) })

theorem exec_obres_eq (a : SReg) (n : BitVec 4) (s : State) :
    exec (.obres a n) s = run s { srcs := [.s a], tb := some (.s a) } (obresBody a n) := rfl
theorem exec_bsres_eq (a : SReg) (n : BitVec 4) (s : State) :
    exec (.bsres a n) s = run s { srcs := [.s a], tb := some (.s a) } (bsresBody a n) := rfl

theorem Cell.setObres_mapSlot (n : Nat) (w : Word) (m : SlotId) (t : Cell) (l : Slot → Slot) :
    ({ t.mapSlot m l with obres := Table.set 0 (t.mapSlot m l).obres n w } : Cell) =
      ({ t with obres := Table.set 0 t.obres n w } : Cell).mapSlot m l := rfl
theorem Cell.setBsres_mapSlot (n : Nat) (w : Word) (m : SlotId) (t : Cell) (l : Slot → Slot) :
    ({ t.mapSlot m l with bsres := Table.set 0 (t.mapSlot m l).bsres n w } : Cell) =
      ({ t with bsres := Table.set 0 t.bsres n w } : Cell).mapSlot m l := rfl

theorem matrixCommands : MatrixCommands := by
  intro s a b
  dsimp only
  refine ⟨fun n h => ⟨?_, ?_⟩, fun n h => ?_, fun k tile h => ⟨fun e he first => ?_, fun hno hk z => ?_⟩, fun hp hs => ?_,
    fun h => ⟨traps_mrot h, completes_mrot h⟩⟩
  · have made := reserves_of (i := .obres a n) (v := (here s).sreg a) (t := (home s).obres) (n := n.toNat) (unit := 256)
      (limit := 1024) (resv := reservedBits ((here s).sreg a)) (more := False)
      (f := fun t => { t with obres := Table.set 0 t.obres n.toNat (recordWord ((here s).sreg a) s.cur.slot) })
      h (exec_obres_eq a n s) (by rw [obresBody, start_sreg, start_obres, start_s, start_g]) obRecord_readsBy
      (by simp) (Cell.setObres_mapSlot _ _ _)
    simp only [recordWord_eq] at made
    exact made
  · have made := reserves_of (i := .bsres a n) (v := (here s).sreg a) (t := (home s).bsres) (n := n.toNat) (unit := 64)
      (limit := 256) (resv := reservedBits ((here s).sreg a) || bits ((here s).sreg a).toNat 17 5 != 0)
      (more := ((here s).sreg a).toNat / 2 ^ 17 % 2 ^ 5 ≠ 0)
      (f := fun t => { t with bsres := Table.set 0 t.bsres n.toNat (recordWord ((here s).sreg a) s.cur.slot) })
      h (exec_bsres_eq a n s) (by rw [bsresBody, start_sreg, start_bsres, start_s, start_g]) bsRecord_readsBy
      (by simp [bits]) (Cell.setBsres_mapSlot _ _ _)
    simp only [recordWord_eq] at made
    exact made
  · obtain ⟨ob12, ob⟩ := frees_of (i := .obfree n) (w := Table.get 0 (home s).obres n.toNat) (uses := StepRun.aNo) (n := n.toNat)
      (f := fun t => { t with obres := Table.del t.obres n.toNat }) h (exec_obfree n s)
      (by rw [start_obres, start_steps]; rfl) fun _ _ => rfl
    obtain ⟨bs12, bs⟩ := frees_of (i := .bsfree n) (w := Table.get 0 (home s).bsres n.toNat) (uses := StepRun.bNo) (n := n.toNat)
      (f := fun t => { t with bsres := Table.del t.bsres n.toNat }) h (exec_bsfree n s)
      (by rw [start_bsres, start_steps]; rfl) fun _ _ => rfl
    exact ⟨ob12, bs12, ob, bs⟩
  · have code := mmaCode_some (t := home s) (v := (here s).sreg a) (w := (here s).sreg b) (n := k.toNat) he first
    exact ⟨traps_mma h false code, traps_mma h true code⟩
  · exact engages_mma h z (mmaCode_none hno) hk
  · exact traps_priv hp (exec_mrot a b s) (by simpa [allowed] using hs)

end Sys2Proof.Machine

/-! The issue of operations in the own cell (R165, R316, R426), and the lanes of an active mask. -/

namespace Sys2Proof.Machine

open Sys2Proof.Claims

/-! ## The active mask -/

/-- A sum of distinct powers of two below `2 ^ n`, chosen by `p`, and its bits. -/
theorem sumOfBits (p : Nat → Bool) (n : Nat) : ((List.range n).map fun l => if p l then 2 ^ l else 0).foldl (· + ·) 0 < 2 ^ n ∧
    ∀ l < n, Nat.testBit (((List.range n).map fun l => if p l then 2 ^ l else 0).foldl (· + ·) 0) l = p l := by
  induction n with
  | zero => exact ⟨Nat.one_pos, fun l h => absurd h (Nat.not_lt_zero l)⟩
  | succ n ih =>
    rw [List.range_succ, List.map_append, List.foldl_append]
    generalize ((List.range n).map fun l => if p l then 2 ^ l else 0).foldl (· + ·) 0 = x at ih
    obtain ⟨hx, hb⟩ := ih
    simp only [List.map_cons, List.map_nil, List.foldl_cons, List.foldl_nil]
    cases hp : p n with
    | false =>
      refine ⟨by simp only [Bool.false_eq_true, if_false, Nat.add_zero]; omega, fun l hl => ?_⟩
      simp only [Bool.false_eq_true, if_false, Nat.add_zero]
      rcases Nat.lt_succ_iff_lt_or_eq.1 hl with h | h
      · exact hb l h
      · rw [h, hp, Nat.testBit_lt_two_pow hx]
    | true =>
      refine ⟨by simp only [if_true]; omega, fun l hl => ?_⟩
      rw [if_pos rfl, Nat.add_comm]
      rcases Nat.lt_succ_iff_lt_or_eq.1 hl with h | h
      · rw [Nat.testBit_two_pow_add_gt h, hb l h]
      · rw [h, Nat.testBit_two_pow_add_eq, Nat.testBit_lt_two_pow hx, hp]
        rfl

theorem Slot.active_getLsbD (t : Slot) {l : Nat} (hl : l < 32) : t.active.getLsbD l = t.isActive l := by
  unfold Slot.active
  rw [BitVec.getLsbD_ofNat, decide_eq_true hl, Bool.true_and]
  exact (sumOfBits t.isActive 32).2 l hl

theorem filter_active (t : Slot) : (List.range 32).filter t.active.getLsbD = t.activeLanes :=
  List.filter_congr fun _ hl => t.active_getLsbD (List.mem_range.1 hl)

/-- The rows of the active lanes (R36). -/
theorem maskRows_active (t : Slot) : maskRows t.active = t.activeLanes.flatMap fun l => [2 * l, 2 * l + 1] := by
  rw [maskRows, filter_active]

theorem mem_maskRows_active (t : Slot) {r : Nat} (hr : r < 64) : r ∈ maskRows t.active ↔ t.isActive (r / 2) = true := by
  rw [maskRows_active]
  simp only [Slot.activeLanes, List.mem_flatMap, List.mem_filter, List.mem_range, List.mem_cons, List.not_mem_nil, or_false]
  refine ⟨fun ⟨l, ⟨_, ha⟩, h⟩ => ?_, fun ha => ⟨r / 2, ⟨by omega, ha⟩, by omega⟩⟩
  rwa [show r / 2 = l by omega]

/-! ## An operation of the slot at hand -/

/-- What the issue of an operation does to its slot, besides making it the latest producer (R19, R426). -/
def Slot.withOp (o : Op) (t : Slot) : Slot :=
  { (if o.posted then t else o.dst.regs.foldl (fun t r => t.setFe r .pending) t) with
    ops := t.ops ++ [o], nextOp := t.nextOp + 1 }

theorem setFe_unlast (t : Slot) (r : RegRef) (x : RegFe) : t.unlast.setFe r x = (t.setFe r x).unlast := by
  cases r with
  | s r =>
    unfold Slot.setFe
    dsimp only
    split_ifs <;> rfl
  | v r => rfl

theorem pend_unlast (l : List RegRef) (t : Slot) :
    l.foldl (fun t r => t.setFe r .pending) t.unlast = (l.foldl (fun t r => t.setFe r .pending) t).unlast := by
  induction l generalizing t with
  | nil => rfl
  | cons r l ih => rw [List.foldl_cons, List.foldl_cons, setFe_unlast, ih]

theorem pend_keeps {α : Sort _} (P : Slot → α) (h : ∀ (t : Slot) a b, P { t with sFe := a, vFe := b } = P t) (l : List RegRef)
    (t : Slot) : P (l.foldl (fun t r => t.setFe r .pending) t) = P t := by
  induction l generalizing t with
  | nil => rfl
  | cons r l ih => rw [List.foldl_cons, ih, Slot.setFe_keeps P h]

theorem addOp_started (s : State) (o : Op) : (started s).addOp s.cur o = (s.mapSlot s.cur (Slot.withOp o)).mapSlot s.cur fun t =>
    { t with lastOp := if o.precise then some o.id else none } := by
  unfold State.addOp
  rw [started_eq, State.mapSlot_mapSlot, State.mapSlot_mapSlot]
  congr 1
  funext t
  have ops : (o.dst.regs.foldl (fun t r => t.setFe r .pending) t.unlast).ops = t.ops :=
    pend_keeps Slot.ops (fun _ _ _ => rfl) _ _
  have next : (o.dst.regs.foldl (fun t r => t.setFe r .pending) t.unlast).nextOp = t.nextOp :=
    pend_keeps Slot.nextOp (fun _ _ _ => rfl) _ _
  unfold Slot.withOp
  cases o.posted with
  | true => rfl
  | false =>
    simp only [Bool.false_eq_true, if_false, ops, next]
    rw [pend_unlast]
    rfl

theorem State.mapCell_congr {s : State} {p : PkgId} {c : CellId} {f f' : Cell → Cell} (h : f (s.cellAt p c) = f' (s.cellAt p c)) :
    s.mapCell p c f = s.mapCell p c f' := by
  unfold State.mapCell State.mapPkg Pkg.mapCell
  unfold State.cellAt State.pkgAt Table.get at h
  cases hk : Table.find s.pkgs p.toNat with
  | none => rfl
  | some k =>
    rw [hk] at h
    dsimp only at h ⊢
    rw [show f (k.cellAt c) = f' (k.cellAt c) from h]

/-- The state with an operation issued, as the port of its cell takes it. -/
theorem issued_eq (s : State) (o : Op) (n : Nat) : Claims.issued s o n =
    (s.mapSlot s.cur (Slot.withOp o)).atPort s.cur o.id (ownUnits o) n := by
  have free : ((s.mapSlot s.cur (Slot.withOp o)).cellAt s.cur.pkg s.cur.cell).portFree = (home s).portFree :=
    State.cellAt_mapSlot_keeps Cell.portFree (fun _ _ => rfl) _ _ _ _ _
  have now : (s.mapSlot s.cur (Slot.withOp o)).cycleAt s.cur.pkg = s.cycleAt s.cur.pkg := by simp
  unfold Claims.issued State.atPort
  dsimp only
  by_cases h : ownUnits o = []
  · rw [if_pos h, if_pos (by simp [h])]
    rfl
  · rw [if_neg h, if_neg (by simpa using h), now]
    have cur : (s.mapSlot s.cur (Slot.withOp o)).cur = s.cur := by simp
    show (s.mapSlot s.cur (Slot.withOp o)).mapCell (s.mapSlot s.cur (Slot.withOp o)).cur.pkg
      (s.mapSlot s.cur (Slot.withOp o)).cur.cell _ = _
    rw [cur]
    refine State.mapCell_congr ?_
    rw [free]
    rfl

theorem atPort_mapSlot (s : State) (g : GRef) (f : Slot → Slot) (id : Nat) (home : List Nat) (n : Nat) :
    (s.mapSlot g f).atPort g id home n = (s.atPort g id home n).mapSlot g f := by
  have now : (s.mapSlot g f).cycleAt g.pkg = s.cycleAt g.pkg := by simp
  unfold State.atPort
  split
  · rfl
  · rw [now]
    exact mapCell_mapSlot s g fun _ => rfl

theorem atPort_hasPkg (s : State) (g : GRef) (id : Nat) (home : List Nat) (n : Nat) (p : PkgId) :
    (s.atPort g id home n).hasPkg p = s.hasPkg p := by
  unfold State.atPort
  split <;> simp

theorem issued_hasPkg (s : State) (o : Op) (n : Nat) (p : PkgId) : (Claims.issued s o n).hasPkg p = s.hasPkg p := by
  rw [issued_eq, atPort_hasPkg]
  simp

/-- An instruction whose body issues an operation whose own units its cell's port takes. -/
theorem completes_issued {i : Instr} {s : State} {p : Opnds} {body : Ctx → Issue} {o : Op} {n : Nat} (h : ready s p = true)
    (he : exec i s = run s p body) (hb : body (start s) = .done (((started s).addOp s.cur o).atPort s.cur o.id (ownUnits o) n)) :
    Completes i s (Claims.issued s o n) p.words := by
  have hp := ready_hasPkg h
  have effect : ((started s).addOp s.cur o).atPort s.cur o.id (ownUnits o) n = (Claims.issued s o n).mapSlot s.cur fun t =>
      { t with lastOp := if o.precise then some o.id else none } := by
    rw [addOp_started, atPort_mapSlot, issued_eq]
  rw [effect] at hb
  have here_ : (Claims.issued s o n).hasPkg s.cur.pkg = true := (issued_hasPkg _ _ _ _).trans hp
  have hc := conclude_done (s := s) (g := s.cur) (o := p)
    (u := (Claims.issued s o n).mapSlot s.cur fun t => { t with lastOp := if o.precise then some o.id else none }) (by simpa using here_)
  refine ⟨_, by rw [he, run_ready h]; exact congrArg (fun r => Host.Outcome.next (conclude s s.cur p r)) hb, ?_, hc.2⟩
  exact Agree.trans (Agree.course here_ (by exact fun _ => rfl)) hc.1

/-! ## The checks of an access of the own scratchpad -/

/-- An element of the own scratchpad, as its check leaves it. -/
def ownElt (g : GRef) (e : RawElt) : Elt :=
  { lane := e.1, addr := e.2.1, n := e.2.2.1, val := e.2.2.2.1, val2 := e.2.2.2.2
    loc := { store := .spad, pkg := g.pkg, cell := g.cell, off := e.2.1.toNat } }

/-- An aligned address of the own scratchpad names it at its offset. -/
theorem locate_own_spad (s : State) (g : GRef) (pid : BitVec 16) {a : Word} {n : Nat} {k : Acc} (ha : a.toNat < 0x200000)
    (hn : a.toNat % n = 0) (hr : k.reaches .spad = true) (hk : k.allows .spad = true) :
    locate s g.pkg g.cell pid a n k = .ok (some { store := .spad, pkg := g.pkg, cell := g.cell, off := a.toNat }) := by
  rw [locate_own_some (x := .spad) (o := a.toNat) (by omega) (by unfold regionOf; rw [if_pos ha])]
  simp [hr, hk, hn]

theorem checkElts_own (s : State) (g : GRef) (pid : BitVec 16) (k : Acc) (raw : List RawElt)
    (h : ∀ e ∈ raw, e.2.1.toNat < 0x200000 ∧ e.2.1.toNat % e.2.2.1 = 0) (hr : k.reaches .spad = true) (hk : k.allows .spad = true) :
    checkElts s g pid k raw = (s, .ok (raw.map (ownElt g))) := by
  have located : locateAll s g pid k raw = .ok (raw.map fun e => (e, some (ownElt g e).loc)) := by
    induction raw with
    | nil => rfl
    | cons e raw ih =>
      obtain ⟨ha, hn⟩ := h e List.mem_cons_self
      unfold locateAll
      rw [locate_own_spad s g pid ha hn hr hk, ih fun x hx => h x (List.mem_cons_of_mem _ hx)]
      rfl
  have translated : ∀ l : List RawElt, translateAll g pid k s (l.map fun e => (e, some (ownElt g e).loc)) =
      (s, .ok (l.map (ownElt g))) := by
    intro l
    induction l with
    | nil => rfl
    | cons e l ih => rw [List.map_cons, translateAll, ih]; rfl
  rw [checkElts, located]
  exact translated raw

/-! ## The units of an access of the own cell -/

theorem flatMap_range_getElem {α β : Type} (l : List α) (f : Option α → List β) :
    (List.range l.length).flatMap (fun j => f l[j]?) = l.flatMap fun a => f (some a) := by
  induction l with
  | nil => rfl
  | cons a l ih =>
    rw [List.length_cons, List.range_succ_eq_map, List.flatMap_cons, List.flatMap_map, List.flatMap_cons, ← ih]
    rfl

theorem filter_range_local {l : List OpUnit} (h : ∀ u ∈ l, u.path = .local) :
    ((List.range l.length).filter fun j => (l[j]?.map (·.path)) == some .local) = List.range l.length := by
  rw [List.filter_eq_self]
  intro j hj
  have hj := List.mem_range.1 hj
  rw [List.getElem?_eq_getElem hj, Option.map_some, h _ (List.getElem_mem hj)]
  rfl

/-- The operation of an access whose units lie in the own cell. -/
def ownOp (s : State) (r : MemReq) (units : List OpUnit) (inTransit : Bool) : Op :=
  { (start s).newOp r.act .local r.dst with
    units := units, posted := r.posted, acq := acquires r.scope r.order, mask := r.mask, wide := r.wide, inTransit := inTransit }

/-- With nothing that holds an access back, none of it away from the own cell, and room for it, it is issued (R165, R316). -/
theorem memIssue_own {s : State} {r : MemReq} {es : List Elt} (hr : r.raw ≠ []) (hacq : (here s).acquiring = false)
    (hrel : releases r.scope r.order = false) (hchk : checkElts (started s) s.cur (here s).pid r.acc r.raw = (started s, .ok es))
    (hown : ∀ u ∈ groupElts r.group es, u.path = .local) (hroom : (here s).unperformed < 16) (hw : r.waits = false) :
    ∃ t, let o := ownOp s r (groupElts r.group es) t
      memIssue (start s) r = .done (((started s).addOp s.cur o).atPort s.cur o.id (ownUnits o)
        (portCycles r.act ((groupElts r.group es).flatMap (·.elts)))) := by
  have free : (start s).orderHold r.scope r.order = none := by
    have acq : (start s).slot.acquiring = false := (start_slot_keeps Slot.acquiring (fun _ => rfl) s).trans hacq
    simp [Ctx.orderHold, acq, hrel]
  have pid : (start s).slot.pid = (here s).pid := start_slot_keeps Slot.pid (fun _ => rfl) s
  have room : (start s).slot.unperformed = (here s).unperformed := start_slot_keeps Slot.unperformed (fun _ => rfl) s
  have stays : ((groupElts r.group es).any fun u => u.path != .local) = false := by
    simpa [List.any_eq_false] using hown
  have near : ((groupElts r.group es).any fun u => u.path == .remote) = false := by
    rw [List.any_eq_false]
    intro u hu
    rw [hown u hu]
    decide
  have own (t : Bool) : ownUnits (ownOp s r (groupElts r.group es) t) = List.range (groupElts r.group es).length :=
    filter_range_local hown
  have all := filter_range_local hown
  have blind := flatMap_range_getElem (groupElts r.group es) fun u => (u.map (·.elts)).getD []
  unfold memIssue
  dsimp only
  rw [if_neg (by simpa using hr), free]
  dsimp only
  rw [start_g, start_s, pid, hchk]
  dsimp only
  rw [room, if_neg (by omega), stays, near, if_neg Bool.false_ne_true]
  dsimp only
  rw [if_neg (by simp [hw]), if_neg Bool.false_ne_true, if_neg Bool.false_ne_true, if_neg Bool.false_ne_true,
    all, blind]
  refine ⟨es.all fun e => pathOf e.addr == .local || !(started s).boundaryRefuses s.cur.pkg s.cur.cell e.loc, ?_⟩
  rw [own]
  rfl

end Sys2Proof.Machine

/-! The accumulator tiles (R36, R232, R233), and the matrix instructions together. -/

namespace Sys2Proof.Machine

open Sys2Proof.Claims

/-! ## Tables of accumulators -/

/-- An entry of a table of which the entries of some keys remain. -/
theorem Table.get_filter_key {α : Type} (d : α) (t : Table α) (P : Nat → Bool) (k : Nat) :
    Table.get d (t.filter fun e => P e.1) k = if P k then Table.get d t k else d := by
  induction t with
  | nil => simp
  | cons e t ih =>
    obtain ⟨k', v⟩ := e
    unfold Table.get at ih ⊢
    by_cases hk : k = k'
    · subst hk
      cases hp : P k with
      | true => simp [List.filter_cons, hp, Table.find]
      | false =>
        rw [hp] at ih
        simpa [List.filter_cons, hp] using ih
    · cases hp : P k' with
      | true => simpa [List.filter_cons, hp, Table.find, hk] using ih
      | false => simpa [List.filter_cons, hp, Table.find, hk] using ih

/-- Writes under keys that differ, each of them read back, and the rest of the table. -/
theorem Table.get_setMany {ι α : Type} [DecidableEq α] (d : α) (key : ι → Nat) (val : ι → α) (l : List ι)
    (hinj : ∀ a ∈ l, ∀ b ∈ l, key a = key b → val a = val b) (t : Table α) :
    (∀ a ∈ l, Table.get d (l.foldl (fun t a => Table.set d t (key a) (val a)) t) (key a) = val a) ∧
    ∀ k, (∀ a ∈ l, k ≠ key a) → Table.get d (l.foldl (fun t a => Table.set d t (key a) (val a)) t) k = Table.get d t k := by
  induction l generalizing t with
  | nil => exact ⟨fun _ h => absurd h List.not_mem_nil, fun _ _ => rfl⟩
  | cons a l ih =>
    obtain ⟨written, kept⟩ := ih (fun x hx y hy => hinj x (List.mem_cons_of_mem _ hx) y (List.mem_cons_of_mem _ hy))
      (Table.set d t (key a) (val a))
    refine ⟨fun b hb => ?_, fun k hk => ?_⟩
    · by_cases later : ∃ c ∈ l, key b = key c
      · obtain ⟨c, hc, e⟩ := later
        rw [List.foldl_cons, e, written c hc]
        exact hinj c (List.mem_cons_of_mem _ hc) b hb e.symm
      · rcases List.mem_cons.1 hb with rfl | hb
        · rw [List.foldl_cons, kept _ fun c hc e => later ⟨c, hc, e⟩, Table.get_set_same]
        · exact absurd ⟨b, hb, rfl⟩ later
    · rw [List.foldl_cons, kept k fun c hc => hk c (List.mem_cons_of_mem _ hc), Table.get_set_ne _ _ _ (hk a List.mem_cons_self)]

/-! ## The tile instructions -/

/-- The row and the column of a selector (R232). -/
theorem selRow_eq (w : Word) (l : Nat) : selRow w l = 2 * l + w.toNat / 64 % 2 := rfl
theorem selCol_eq (w : Word) : selCol w = w.toNat % 64 := by simp [selCol, bits]

section Tiles

variable {s : State} {tile : BitVec 2}

theorem start_acc (s : State) : (start s).cell.acc = (home s).acc := start_cell Cell.acc (fun _ _ => rfl) s
theorem start_accPoison (s : State) : (start s).cell.accPoison = (home s).accPoison := start_cell Cell.accPoison (fun _ _ => rfl) s
theorem start_activeLanes (s : State) : (start s).slot.activeLanes = activeLanes s :=
  start_slot_keeps Slot.activeLanes (fun _ => rfl) s

variable (idle : ∀ r ∈ (home s).steps, r.tile ≠ tile)

include idle in
theorem start_tileBusy : (start s).tileBusy tile = false := by
  rw [Ctx.tileBusy, start_steps]
  simpa [List.any_eq_false] using idle

/-- ACCZ leaves the rows of the inactive lanes and the other tiles (R232). -/
theorem get_cleared (t : Table Lane) (u : Slot) (tile : BitVec 2) {row col : Nat} (hr : row < 64) (hc : col < 64) :
    Table.get 0 (t.filter fun e => !(e.1 / 4096 == tile.toNat && (maskRows u.active).contains (e.1 / 64 % 64)))
      (tile.toNat * 4096 + row * 64 + col) =
      if u.isActive (row / 2) = true then 0 else Table.get 0 t (tile.toNat * 4096 + row * 64 + col) := by
  rw [Table.get_filter_key 0 t fun k => !(k / 4096 == tile.toNat && (maskRows u.active).contains (k / 64 % 64))]
  have htile : (tile.toNat * 4096 + row * 64 + col) / 4096 = tile.toNat := by omega
  have hrow : (tile.toNat * 4096 + row * 64 + col) / 64 % 64 = row := by omega
  have hmem : (maskRows u.active).contains row = u.isActive (row / 2) := by
    rw [Bool.eq_iff_iff, List.contains_iff_mem, mem_maskRows_active u hr]
  rw [htile, hrow, hmem, beq_self_eq_true, Bool.true_and]
  cases u.isActive (row / 2) <;> rfl

include idle in
theorem accz_clears (h : ready s {} = true) : ∃ (m : Table Lane) (u : NumSet),
    Completes (.accz tile) s (withHome s fun t => { t with acc := m, accPoison := u }) 1 ∧
    (∀ row < 64, ∀ col < 64, Table.get 0 m (tile.toNat * 4096 + row * 64 + col) =
      if (here s).isActive (row / 2) = true then 0 else Table.get 0 (home s).acc (tile.toNat * 4096 + row * 64 + col)) ∧
    ∀ j, j / 4096 ≠ tile.toNat → Table.get 0 m j = Table.get 0 (home s).acc j := by
  refine ⟨(home s).acc.filter fun e => !(e.1 / 4096 == tile.toNat && (maskRows (here s).active).contains (e.1 / 64 % 64)),
    (home s).accPoison.filter fun u => !(u / 2048 == tile.toNat && (maskRows (here s).active).contains (u / 32 % 64)),
    ?_, fun row hr col hc => get_cleared _ _ _ hr hc, fun j hj => ?_⟩
  · refine completes_home h (exec_accz tile s) (fun _ _ => rfl) ?_
    dsimp only
    rw [start_tileBusy idle, if_neg Bool.false_ne_true, start_active, start_s, start_g]
    refine congrArg Issue.done (State.mapCell_congr ?_)
    rw [started_cell Cell.acc (fun _ _ => rfl), started_cell Cell.accPoison (fun _ _ => rfl)]
  · rw [Table.get_filter_key 0 _ fun k => !(k / 4096 == tile.toNat && (maskRows (here s).active).contains (k / 64 % 64)),
      if_pos (by simp [hj])]

include idle in
theorem accrd_answers {d : VRegNo} {k : SReg}
    (h : ready s { srcs := [.s k], dsts := [.v d], named := [d], tb := some (.s k) } = true)
    (sound : ∀ l ∈ activeLanes s, NumSet.has (home s).accPoison (tile.toNat * 2048 +
      (2 * l + ((here s).sreg k).toNat / 64 % 2) * 32 + ((here s).sreg k).toNat % 64 / 2) = false)
    (some_ : activeLanes s ≠ []) (room : (here s).unperformed < 16) :
    Answered (.accrd d k tile) s .value (.vector d) ((activeLanes s).map fun l => (l, BitVec.ofNat 64
      (Table.get 0 (home s).acc (tile.toNat * 4096 + (2 * l + ((here s).sreg k).toNat / 64 % 2) * 64 +
        ((here s).sreg k).toNat % 64)).toNat)) := by
  have whole : (activeLanes s).find? (fun l => (home s).accPoison.has (accUnit tile (selRow ((here s).sreg k) l)
      (selCol ((here s).sreg k)))) = none := by
    rw [List.find?_eq_none]
    intro l hl
    rw [accUnit, selRow_eq, selCol_eq, sound l hl]
    exact Bool.false_ne_true
  have bound : (start s).boundTo d = none := start_boundTo (ready_streamless h (.inr List.mem_cons_self))
  have anyActive : (start s).slot.anyActive = true := by
    rw [start_slot_keeps Slot.anyActive (fun _ => rfl), Slot.anyActive, List.any_eq_true]
    obtain ⟨l, hl⟩ := List.exists_mem_of_ne_nil _ some_
    exact ⟨l, List.mem_of_mem_filter hl, (List.mem_filter.1 hl).2⟩
  have unperformed : (start s).slot.unperformed = (here s).unperformed := start_slot_keeps Slot.unperformed (fun _ => rfl) s
  refine ⟨(start s).valueOp (.vector d) ((activeLanes s).map fun l => (l, BitVec.ofNat 64
    (Table.get 0 (home s).acc (tile.toNat * 4096 + (2 * l + ((here s).sreg k).toNat / 64 % 2) * 64 +
      ((here s).sreg k).toNat % 64)).toNat)), start_slot_keeps Slot.nextOp (fun _ => rfl) s, rfl, rfl, start_active s, rfl, rfl,
    rfl, rfl, rfl, ?_⟩
  refine completes_issued (n := 0) h (exec_accrd d k tile s) ?_
  dsimp only
  rw [start_tileBusy idle, if_neg Bool.false_ne_true, start_sreg, start_accPoison, start_activeLanes, whole]
  dsimp only
  rw [bound, if_neg (by simp), anyActive, if_neg (by simp), Ctx.issueAlone, unperformed, if_neg (by omega), start_acc]
  simp only [accKey, selRow_eq, selCol_eq, ← BitVec.ofNat_toNat]
  rfl

include idle in
theorem accwr_writes {v : VRegNo} {k : SReg}
    (h : ready s { srcs := [.v v, .s k], named := [v], ta := some (.v v), tb := some (.s k) } = true) : ∃ m : Table Lane,
    Completes (.accwr v k tile) s (withHome s fun t => { t with acc := m }) 1 ∧
    (∀ l < 32, (here s).isActive l = true → Table.get 0 m (tile.toNat * 4096 +
      (2 * l + ((here s).sreg k).toNat / 64 % 2) * 64 + ((here s).sreg k).toNat % 64) = lane (s.vregAt s.cur v) l) ∧
    ∀ j, (∀ l < 32, (here s).isActive l = true → j ≠ tile.toNat * 4096 +
      (2 * l + ((here s).sreg k).toNat / 64 % 2) * 64 + ((here s).sreg k).toNat % 64) →
      Table.get 0 m j = Table.get 0 (home s).acc j := by
  obtain ⟨written, kept⟩ := Table.get_setMany (0 : Lane) (fun l => tile.toNat * 4096 +
    (2 * l + ((here s).sreg k).toNat / 64 % 2) * 64 + ((here s).sreg k).toNat % 64) (fun l => lane (s.vregAt s.cur v) l)
    (activeLanes s) (fun a _ b _ e => by rw [show a = b by omega]) (home s).acc
  refine ⟨_, ?_, fun l hl ha => written l (List.mem_filter.2 ⟨List.mem_range.2 hl, ha⟩), fun j hj => kept j fun l hl =>
    hj l (List.mem_range.1 (List.mem_of_mem_filter hl)) (List.mem_filter.1 hl).2⟩
  refine completes_home h (exec_accwr v k tile s) (fun _ _ => rfl) ?_
  dsimp only
  rw [start_tileBusy idle, if_neg Bool.false_ne_true, start_sreg, start_vreg, start_activeLanes, start_s, start_g]
  refine congrArg Issue.done (State.mapCell_congr ?_)
  rw [started_cell Cell.acc (fun _ _ => rfl)]
  simp only [accKey, selRow_eq, selCol_eq]

/-! ### ACCST -/

/-- The rows that ACCST stores, lane after lane. -/
def accstRows (s : State) : List Nat := (activeLanes s).flatMap fun l => [2 * l, 2 * l + 1]

theorem start_maskRows (s : State) : maskRows (start s).slot.active = accstRows s := by
  rw [start_active, maskRows_active]
  rfl

theorem accstRows_nil (h : activeLanes s = []) : accstRows s = [] := by rw [accstRows, h]; rfl

/-- An address that ACCST forms lies in the own scratchpad, where its base leaves room for a tile. -/
theorem accst_addr {a : Word} (ha : a.toNat + 0x4000 ≤ 0x200000) {x : Nat} (hx : x < 0x4000) :
    a + BitVec.ofNat 64 x = BitVec.ofNat 64 (a.toNat + x) ∧ (a + BitVec.ofNat 64 x).toNat = a.toNat + x := by
  have sum : a + BitVec.ofNat 64 x = BitVec.ofNat 64 (a.toNat + x) := by
    rw [BitVec.ofNat_add, BitVec.ofNat_toNat, BitVec.setWidth_eq]
  refine ⟨sum, ?_⟩
  rw [sum, BitVec.toNat_ofNat, Nat.mod_eq_of_lt (by omega)]

section Accst

variable {b : SReg} (h : ready s { srcs := [.s b], tb := some (.s b) } = true)

include idle h

theorem accst_none (hn : activeLanes s = []) (ha : ((here s).sreg b).toNat % 16 = 0) : Completes (.accst b tile) s s 1 := by
  refine completes_nothing h (exec_accst b tile s) ?_
  dsimp only
  rw [start_tileBusy idle, if_neg Bool.false_ne_true, start_maskRows, accstRows_nil hn, start_sreg]
  exact if_neg (not_not.2 ha)

theorem accst_none_misaligned (hn : activeLanes s = []) (ha : ((here s).sreg b).toNat % 16 ≠ 0) :
    Traps (.accst b tile) s { kind := .align, sector := BitVec.ofNat 64 ((here s).sreg b).toNat } := by
  refine traps_body h (exec_accst b tile s) ?_
  dsimp only
  rw [start_tileBusy idle, if_neg Bool.false_ne_true, start_maskRows, accstRows_nil hn, start_sreg,
    BitVec.ofNat_toNat, BitVec.setWidth_eq]
  exact if_pos ha

theorem accst_misaligned {l : Nat} {rest : List Nat} (hl : activeLanes s = l :: rest)
    (hroom : ((here s).sreg b).toNat + 0x4000 ≤ 0x200000) (ha : ((here s).sreg b).toNat % 16 ≠ 0) :
    Traps (.accst b tile) s { kind := .align, sector := BitVec.ofNat 64 (((here s).sreg b).toNat + 512 * l) } := by
  have hl32 : l < 32 := List.mem_range.1 (List.mem_of_mem_filter (hl ▸ List.mem_cons_self : l ∈ activeLanes s))
  obtain ⟨sum, addr⟩ := accst_addr hroom (x := 256 * (2 * l)) (by omega)
  have rows : accstRows s = 2 * l :: (2 * l + 1) :: rest.flatMap fun l => [2 * l, 2 * l + 1] := by rw [accstRows, hl]; rfl
  have refused (pid : BitVec 16) : locate (started s) s.cur.pkg s.cur.cell pid ((here s).sreg b + BitVec.ofNat 64 (256 * (2 * l))) 16 .store =
      .error { kind := .align, sector := BitVec.ofNat 64 (((here s).sreg b).toNat + 512 * l) } := by
    rw [locate_own_some (x := .spad) (o := ((here s).sreg b).toNat + 256 * (2 * l)) (by omega) (by
      rw [addr]; unfold regionOf; rw [if_pos (by omega)]), addr, if_neg (by decide), if_neg (fun h => by cases h.1),
      if_neg (by decide), if_neg (by omega), sum]
    congr 3
    omega
  refine traps_body h (exec_accst b tile s) ?_
  dsimp only
  rw [start_tileBusy idle, if_neg Bool.false_ne_true, start_maskRows, rows, start_sreg]
  dsimp only
  rw [start_s, start_g, refused]

end Accst

/-- The words that ACCST stores, from its base on. -/
def accstWords (s : State) (tile : BitVec 2) (a : Nat) : List Elt :=
  (activeLanes s).flatMap fun l => [2 * l, 2 * l + 1].flatMap fun r => (List.range 64).map fun c =>
    spadElt s l (BitVec.ofNat 64 (a + 256 * r + 4 * c)) 4
      (BitVec.ofNat 64 (Table.get 0 (home s).acc (tile.toNat * 4096 + r * 64 + c)).toNat) 0

/-- What ACCST asks for. -/
def accstReq (s : State) (tile : BitVec 2) (a : Word) : MemReq :=
  { act := .store, acc := .store, posted := true, mask := (here s).active
    raw := (accstRows s).flatMap fun r => (List.range 64).map fun c =>
      (r / 2, a + BitVec.ofNat 64 (256 * r + 4 * c), 4, (Table.get 0 (home s).acc (accKey tile r c)).setWidth 64, 0) }

theorem mem_accstRows {r : Nat} (h : r ∈ accstRows s) : r < 64 := by
  obtain ⟨l, hl, hr⟩ := List.mem_flatMap.1 h
  have := List.mem_range.1 (List.mem_of_mem_filter hl)
  simp only [List.mem_cons, List.not_mem_nil, or_false] at hr
  omega

/-- Every word of ACCST lies in the own scratchpad. -/
theorem accstReq_inside {a : Word} (hroom : a.toNat + 0x4000 ≤ 0x200000) (ha : a.toNat % 16 = 0) :
    ∀ e ∈ (accstReq s tile a).raw, e.2.1.toNat < 0x200000 ∧ e.2.1.toNat % e.2.2.1 = 0 := by
  intro e he
  obtain ⟨r, hr, he⟩ := List.mem_flatMap.1 he
  obtain ⟨c, hc, rfl⟩ := List.mem_map.1 he
  have hr := mem_accstRows hr
  have hc := List.mem_range.1 hc
  obtain ⟨-, addr⟩ := accst_addr hroom (x := 256 * r + 4 * c) (by omega)
  dsimp only
  rw [addr]
  omega

theorem accstReq_elts (a : Word) : (accstReq s tile a).raw.map (ownElt s.cur) = accstWords s tile a.toNat := by
  have sum (x : Nat) : a + BitVec.ofNat 64 x = BitVec.ofNat 64 (a.toNat + x) := by
    rw [BitVec.ofNat_add, BitVec.ofNat_toNat, BitVec.setWidth_eq]
  have row (l r c : Nat) (hr : r / 2 = l) : ownElt s.cur (r / 2, a + BitVec.ofNat 64 (256 * r + 4 * c), 4,
      (Table.get 0 (home s).acc (accKey tile r c)).setWidth 64, 0) = spadElt s l (BitVec.ofNat 64 (a.toNat + 256 * r + 4 * c)) 4
        (BitVec.ofNat 64 (Table.get 0 (home s).acc (tile.toNat * 4096 + r * 64 + c)).toNat) 0 := by
    rw [sum, ← Nat.add_assoc, hr, BitVec.ofNat_toNat]
    rfl
  unfold accstReq accstRows accstWords
  dsimp only
  rw [List.flatMap_assoc, List.map_flatMap]
  refine List.flatMap_congr fun l _ => ?_
  rw [List.map_flatMap]
  refine List.flatMap_congr fun r hr => ?_
  rw [List.map_map]
  refine List.map_congr_left fun c _ => row l r c ?_
  simp only [List.mem_cons, List.not_mem_nil, or_false] at hr
  omega

/-- The units of ACCST: one word each, in the own cell. -/
theorem accstReq_units {a : Word} (hroom : a.toNat + 0x4000 ≤ 0x200000) (ha : a.toNat % 16 = 0) :
    groupElts .each (accstWords s tile a.toNat) = (accstWords s tile a.toNat).map fun e => { path := .local, elts := [e] } := by
  rw [groupElts_each, ← accstReq_elts]
  refine List.map_congr_left fun e he => ?_
  obtain ⟨x, hx, rfl⟩ := List.mem_map.1 he
  have inside := (accstReq_inside hroom ha x hx).1
  have near : pathOf (ownElt s.cur x).addr = .local := if_pos (Nat.div_eq_of_lt (show x.2.1.toNat < 2 ^ 60 by omega))
  rw [oneUnit, near]

include idle in
theorem accst_joins {b : SReg} (h : ready s { srcs := [.s b], tb := some (.s b) } = true) (some_ : activeLanes s ≠ [])
    (hroom : ((here s).sreg b).toNat + 0x4000 ≤ 0x200000) (ha : ((here s).sreg b).toNat % 16 = 0) (sound : (home s).accPoison = [])
    (hacq : (here s).acquiring = false) (room : (here s).unperformed < 16) :
    Joins (.accst b tile) s .store .none true false
      ((accstWords s tile ((here s).sreg b).toNat).map fun e => { path := .local, elts := [e] }) := by
  obtain ⟨l, rest, hl⟩ := List.exists_cons_of_ne_nil some_
  have rows : accstRows s = 2 * l :: (2 * l + 1) :: rest.flatMap fun l => [2 * l, 2 * l + 1] := by rw [accstRows, hl]; rfl
  have hl32 : l < 32 := List.mem_range.1 (List.mem_of_mem_filter (hl ▸ List.mem_cons_self : l ∈ activeLanes s))
  have first (pid : BitVec 16) : ∃ x, locate (started s) s.cur.pkg s.cur.cell pid
      ((here s).sreg b + BitVec.ofNat 64 (256 * (2 * l))) 16 .store = .ok x := by
    obtain ⟨-, addr⟩ := accst_addr hroom (x := 256 * (2 * l)) (by omega)
    exact ⟨_, locate_own_spad _ s.cur pid (by omega) (by omega) rfl rfl⟩
  have sound_ : ((accstRows s).find? fun r => (List.range 64).any fun col => (start s).cell.accPoison.has (accUnit tile r col)) = none := by
    rw [start_accPoison, sound, List.find?_eq_none]
    intro r _ hp
    obtain ⟨c, _, hc⟩ := List.any_eq_true.1 hp
    exact absurd hc Bool.false_ne_true
  have units := accstReq_units (s := s) (tile := tile) hroom ha
  have checked := checkElts_own (started s) s.cur (here s).pid .store _ (accstReq_inside (s := s) (tile := tile) hroom ha) rfl rfl
  rw [accstReq_elts] at checked
  obtain ⟨t, issue⟩ := memIssue_own (s := s) (r := accstReq s tile ((here s).sreg b)) (es := accstWords s tile ((here s).sreg b).toNat)
    (by simp [accstReq, rows]) hacq rfl checked
    (by
      intro u hu
      rw [show (accstReq s tile ((here s).sreg b)).group = .each from rfl, units] at hu
      obtain ⟨e, -, rfl⟩ := List.mem_map.1 hu
      rfl) room rfl
  rw [show (accstReq s tile ((here s).sreg b)).group = .each from rfl, units] at issue
  refine ⟨ownOp s (accstReq s tile ((here s).sreg b)) ((accstWords s tile ((here s).sreg b).toNat).map fun e =>
    { path := .local, elts := [e] }) t, start_slot_keeps Slot.nextOp (fun _ => rfl) s, rfl, rfl, rfl, rfl, rfl, rfl, ?_⟩
  refine completes_issued h (exec_accst b tile s) ?_
  dsimp only
  rw [start_tileBusy idle, if_neg Bool.false_ne_true, start_maskRows]
  obtain ⟨x, hx⟩ := first (start s).slot.pid
  refine Eq.trans ?_ issue
  rw [rows] at sound_
  rw [accstReq, rows]
  dsimp only
  rw [start_sreg, start_s, start_g, hx]
  dsimp only
  rw [sound_]
  dsimp only
  rw [start_acc, start_active]

end Tiles

theorem tileInstructions : TileInstructions := by
  intro s tile idle
  dsimp only
  refine ⟨accz_clears idle, fun k => ⟨fun d h => accrd_answers idle h, fun v h => accwr_writes idle h, fun h =>
    ⟨accst_none idle h, accst_none_misaligned idle h, fun hroom => ⟨fun l rest hl => accst_misaligned idle h hl hroom,
      fun some_ ha sound _ hacq room => accst_joins idle h some_ hroom ha sound hacq room⟩⟩⟩⟩

/-- Settles O27: reservations, MMA and MROT check by check, and the tile instructions once no step is under way in the tile. -/
theorem matrixInstructions : Obligations.MatrixInstructions := ⟨matrixCommands, tileInstructions⟩

end Sys2Proof.Machine

/-! Streams as operands (R27, R140): the slot that still waits on the register it reads. -/

namespace Sys2Proof.Machine

open Sys2Proof.Claims

/-- The mode in which an instruction leaves the slot at hand. -/
def modeAfter (i : Instr) (s : State) : Option SlotMode :=
  match exec i s with
  | .next t => some (t.slotAt s.cur).mode
  | _ => none

theorem modeAfter_of_next {i : Instr} {s t : State} (h : exec i s = .next t) : modeAfter i s = some (t.slotAt s.cur).mode := by
  rw [modeAfter, h]

/-- The element that waits in the stream. -/
def readerElt : StreamElt := { lanes := List.replicate 32 1, mask := 0xFFFFFFFF }

/-- A slot whose register v3 is bound to input stream 5, in which an element waits; the slot is PARKED, and still waits on v3. -/
def parkedReader : State :=
  { State.reset with
    cur := { pkg := 0, cell := 0, slot := 1 }
    pkgs := [(0, { bringUp := .ready, cells := [(0, { active := true
                                                      streams := [(5, { mode := .running, queue := [readerElt] })]
                                                      slots := [(1, { mode := .parked, regLim := 32, binds := [(3, 5)]
                                                                      wait := some { what := .reg (.v 3), since := 0 } })] })] })] }

/-- An element that is popped leaves the slot as it waited; a write of the register sets it going. -/
theorem parkedReader_modes : modeAfter (.vadd 31 3 30) parkedReader = some .parked ∧
    modeAfter (.vadd 31 3 30) (unbound parkedReader 3 readerElt.lanes) = some .run := by decide

theorem parkedReader_ready : ready (unbound parkedReader 3 readerElt.lanes) (Opnds.vvv 31 3 30) = true := by decide

/-- Refutes O60: STREAM FORMS compare with a state in which the bound register has been filled, which wakes a slot that waits
on it, where a pop does not: so a slot that is PARKED on its register ends PARKED with the stream, and in RUN without. -/
theorem not_streamOperands : ¬ Obligations.StreamOperands := by
  unfold Obligations.StreamOperands
  rintro ⟨-, forms⟩
  obtain ⟨pops, -, -⟩ := (forms parkedReader 5 (by decide)).1 31 3 30 (.vadd 31 3 30) List.mem_cons_self
  obtain ⟨v, u, hv, hu, ⟨same, -⟩, -⟩ := (pops (by decide) (by decide)).2 readerElt [] (by decide) (by decide) (by decide) parkedReader_ready
  have mode : (u.slotAt parkedReader.cur).mode = (v.slotAt parkedReader.cur).mode := by
    have kept := congrArg Slot.mode same
    exact kept
  have popped := (modeAfter_of_next hu).symm.trans parkedReader_modes.1
  have filled := (modeAfter_of_next hv).symm.trans parkedReader_modes.2
  have cur : (unbound parkedReader 3 readerElt.lanes).cur = parkedReader.cur := by decide
  rw [cur, ← mode, Option.some.inj popped] at filled
  exact absurd filled (by decide)

end Sys2Proof.Machine

/-! A step runs the words at hand (R11, R46, R48, R53, R66, R72, R243). -/

namespace Sys2Proof.Machine

/-! ## The words at a position -/

/-- Words that decode begin with one of a format, which is no header. -/
theorem fmtOf_of_decode {w : BitVec 32} {rest : List (BitVec 32)} {r : Instr × List (BitVec 32)}
    (h : decode (w :: rest) = .ok r) : fmtOf (major w) ≠ .none ∧ fmtOf (major w) ≠ .header := by
  constructor <;> intro hf <;> simp [decode, hf, decodeFmt, checked, Except.map] at h

/-- A word that no TAKE is and that stands where it may is faulted for its format alone. -/
theorem wordFault_plain {hdr : Header} {p : Nat} {w : BitVec 32} (rest : List (BitVec 32)) (ht : major w ≠ 0x33)
    (hh : major w ≠ 0x3E) (hm : misplaced hdr p w = false) :
    wordFault hdr p (w :: rest) = if fmtOf (major w) = .none then some .illegal else none := by
  simp [wordFault, ht, hh, hm]

theorem decodeAt_plain {c : Clause} {p : Nat} {w : BitVec 32} {rest tail : List (BitVec 32)} {i : Instr}
    (hw : c.words.drop (p - 1) = w :: rest) (ht : major w ≠ 0x33) (hm : misplaced c.hdr p w = false)
    (hd : decode (w :: rest) = .ok (i, tail)) : decodeAt c p = .ok i := by
  obtain ⟨hn, hf⟩ := fmtOf_of_decode hd
  have hh : major w ≠ 0x3E := fun e => hf (by rw [e]; rfl)
  simp [decodeAt, Clause.from_, hw, wordFault_plain rest ht hh hm, hn, mustDecode, ht, hd]

theorem decodeAt_illegal {c : Clause} {p : Nat} {w : BitVec 32} {rest : List (BitVec 32)} {e : DecodeErr}
    (hw : c.words.drop (p - 1) = w :: rest) (ht : major w ≠ 0x33) (hm : misplaced c.hdr p w = false)
    (hh : major w ≠ 0x3E) (hd : decode (w :: rest) = .error e) : decodeAt c p = .error .illegal := by
  rw [decodeAt, Clause.from_, hw, wordFault_plain rest ht hh hm]
  by_cases hn : fmtOf (major w) = .none
  · rw [if_pos hn]
  · simp [hn, mustDecode, ht, hd]

theorem decodeAt_faulted {c : Clause} {p : Nat} {k : Kind} (h : wordFault c.hdr p (c.words.drop (p - 1)) = some k) :
    decodeAt c p = .error k := by
  simp [decodeAt, Clause.from_, h]

theorem decodeAt_take {c : Clause} {p : Nat} {w v : BitVec 32} {rest tail : List (BitVec 32)} {i : Instr}
    {r : Instr × List (BitVec 32)} (hw : c.words.drop (p - 1) = w :: v :: rest) (ht : major w = 0x33)
    (hf : wordFault c.hdr p (w :: v :: rest) = none) (hd : decode (w :: v :: rest) = .ok (i, tail))
    (hv : decode (v :: rest) = .ok r) : decodeAt c p = .ok i := by
  simp [decodeAt, Clause.from_, hw, hf, mustDecode, ht, hd, hv]

/-! ## The slot's turn -/

theorem turnOf_empty {s : State} {g : GRef} (h : canIssue s g = false) : turnOf s g = .empty s := by
  simp [turnOf, h]

theorem turnOf_standing {s : State} {g : GRef} {c : Clause} (h : canIssue s g = true)
    (hc : (s.slotAt g).clause = some c) : turnOf s g = standing s g := by
  simp [turnOf, h, hc]

theorem turnOf_fetched {s u : State} {g : GRef} (h : canIssue s g = true) (hc : (s.slotAt g).clause = none)
    (hf : fetchClause s g = (u, true)) : turnOf s g = standing u g := by
  simp [turnOf, h, hc, hf]

/-- At a header that waits, the slot passes it once it is met. -/
theorem standing_waits {s : State} {g : GRef} {c : Clause} (hc : (s.slotAt g).clause = some c) (hw : c.hdr.waits = true)
    (hq : (s.slotAt g).waitqDone = false) :
    standing s g = if waitqMet s g c.hdr then .passed s else .empty s := by
  simp [standing, hc, hw, hq]

/-- Behind its header's wait, the slot issues the word at its position, the one after it when a TAKE is latched. -/
theorem standing_ready {s : State} {g : GRef} {c : Clause} (hc : (s.slotAt g).clause = some c)
    (hq : (s.slotAt g).waitqDone = true) (hp : (s.slotAt g).pendingPub = none) :
    standing s g = .issue s (issued (decodeAt c
      (if (s.slotAt g).take.isSome then (s.slotAt g).pos + 1 else (s.slotAt g).pos))) := by
  simp [standing, hc, hq, hp]

/-- At a header that selects nothing, the slot issues at once. -/
theorem standing_first {s : State} {g : GRef} {c : Clause} (hc : (s.slotAt g).clause = some c) (hw : c.hdr.waits = false)
    (hq : (s.slotAt g).waitqDone = false) (hp : (s.slotAt g).pendingPub = none) (ht : (s.slotAt g).take = none) :
    standing s g = .issue (s.mapSlot g fun t => { t with waitqDone := true }) (issued (decodeAt c (s.slotAt g).pos)) := by
  simp [standing, hc, hw, hq, hp, ht]

/-- A subscriber issues the words that its publisher sent, under the TAKE that came with them. -/
theorem standing_published {s : State} {g : GRef} {c : Clause} {d : Nat} {n : BitVec 12} {words tail : List (BitVec 32)}
    {take : Option (Bool × Bool)} {h q cl ll h' q' l'} {i : Instr} (hc : (s.slotAt g).clause = some c)
    (hq : (s.slotAt g).waitqDone = true)
    (hp : (s.slotAt g).pendingPub = some { due := d, chan := n, item := .instr words take h q cl ll h' q' l' })
    (hd : decode words = .ok (i, tail)) : standing s g = .issue (s.mapSlot g fun t => { t with take := take }) i := by
  simp [standing, hc, hq, hp, hd, issued]

/-- A fetch whose clause has a proper header ends with the slot at its position in it. -/
theorem fetchClause_code {s u : State} {g : GRef} {w : BitVec 32} {ws : List (BitVec 32)}
    (ha : codeWindow ((s.slotAt g).head + BitVec.ofNat 64 (4 * (s.slotAt g).pos)) = true)
    (hh : codeWindow (s.slotAt g).head = true) (hal : (s.slotAt g).head.toNat % 4 = 0)
    (hl : lookClause s g (s.slotAt g).head = .code u w ws) (hw : headerFault w = none) :
    fetchClause s g = ((endRefill u g).mapSlot g fun t =>
      { t with clause := some { hdr := headerOf w, words := ws }, pos := if t.pos = 0 then 1 else t.pos }, true) := by
  simp [fetchClause, ha, hh, hal, hl, hw]

/-- The clause that a look finds is the cached one, and beside it the state at most draws a choice. -/
theorem lookClause_code {s u : State} {g : GRef} {h : Word} {w : BitVec 32} {ws : List (BitVec 32)}
    (e : lookClause s g h = .code u w ws) :
    (s.cellAt g.pkg g.cell).cachedClause (s.slotAt g).pid h = some (w, ws) ∧ (u = s ∨ u = s.draw) := by
  simp only [lookClause] at e
  split at e
  · cases e
  · split at e
    · split at e
      · split at e <;> cases e
      · split at e <;> cases e
      · cases e
    · next w' ws' hc =>
      split_ifs at e <;> cases e
      · exact ⟨hc, .inl rfl⟩
      · exact ⟨hc, .inr rfl⟩

/-! ## The step -/

/-- After an instruction that was executed in the turn, the turn is over unless it is a TAKE that the slot goes on behind. -/
theorem takeTurn_issue {s v u : State} {i : Instr} (hp : s.hasPkg s.cur.pkg = true) (ht : turnOf s s.cur = .issue v i)
    (he : exec i v = .next u) : takeTurn s = .next (afterIssue u s.cur) := by
  simp [takeTurn, hp, ht, he]

theorem takeTurn_empty {s v : State} (hp : s.hasPkg s.cur.pkg = true) (ht : turnOf s s.cur = .empty v) :
    takeTurn s = .next (endTurn (settleStop v v.cur)) := by
  simp [takeTurn, hp, ht]

theorem takeTurn_passed {s v : State} (hp : s.hasPkg s.cur.pkg = true) (ht : turnOf s s.cur = .passed v) :
    takeTurn s = exec (.waitqSatisfied s.cur) v := by
  simp [takeTurn, hp, ht]

theorem step_latched {s : State} (h : s.pkgs ≠ []) (ht : (s.slotAt s.cur).take.isSome = true) : step s = takeTurn s := by
  simp [step, h, ht]

theorem step_unlatched {s : State} (h : s.pkgs ≠ []) (ht : (s.slotAt s.cur).take = none) :
    step s = match settled s with
      | some t => .next t
      | none => match dueNow s with
        | some i => exec i s
        | none => choose s := by
  simp only [step, List.isEmpty_iff, h, ht, Option.isSome_none, Bool.false_eq_true, if_false] <;> rfl

theorem step_settled {s t : State} (h : s.pkgs ≠ []) (ht : (s.slotAt s.cur).take = none) (hs : settled s = some t) :
    step s = .next t := by
  rw [step_unlatched h ht, hs]

theorem step_due {s : State} {i : Instr} (h : s.pkgs ≠ []) (ht : (s.slotAt s.cur).take = none) (hs : settled s = none)
    (hd : dueNow s = some i) : step s = exec i s := by
  rw [step_unlatched h ht, hs, hd]

theorem step_choose {s : State} (h : s.pkgs ≠ []) (ht : (s.slotAt s.cur).take = none) (hs : settled s = none)
    (hd : dueNow s = none) : step s = choose s := by
  rw [step_unlatched h ht, hs, hd]

/-- What `settled` finds is the first of the four. -/
theorem settled_order (s : State) :
    (∀ x, portDue s = some x → settled s = some (servePort s x.1 x.2)) ∧
    (portDue s = none → ∀ x, ctlDue s = some x → settled s = some (performCtl s x)) ∧
    (portDue s = none → ctlDue s = none → ∀ x, killDue s = some x → settled s = some (finishKill s x)) ∧
    (portDue s = none → ctlDue s = none → killDue s = none → ∀ x, stopDue s = some x →
      settled s = some (settleStop s x)) := by
  refine ⟨fun x hx => ?_, fun h1 x hx => ?_, fun h1 h2 x hx => ?_, fun h1 h2 h3 x hx => ?_⟩ <;>
    simp [settled, *]

theorem choose_quiet {s : State} (hi : nextInput s = []) (he : readyEvents s = []) (hp : portsReady s = [])
    (hh : hubsReady s = []) : choose s = takeTurn s := by
  simp [choose, moves, hi, he, hp, hh]

/-- What may take place beside the turn: each of it is an input, an event, an access at a port or a write of a hub. -/
theorem choose_cases {s : State}
    (h : nextInput s ≠ [] ∨ readyEvents s ≠ [] ∨ portsReady s ≠ [] ∨ hubsReady s ≠ []) :
    choose s = takeTurn s.draw ∨ (∃ i ∈ nextInput s, choose s = takeInput s.draw i) ∨
      (∃ i ∈ readyEvents s, choose s = exec i s.draw) ∨
      (∃ x ∈ portsReady s, choose s = .next (servePort s.draw x.1 x.2)) ∨
      ∃ p ∈ hubsReady s, choose s = .next (drainHub s.draw p) := by
  have hne : ((nextInput s ++ readyEvents s).isEmpty && (moves s).isEmpty) = false := by
    rcases h with h | h | h | h <;> simp [moves, h]
  simp only [choose, hne, Bool.false_eq_true, if_false]
  split
  · next i hi =>
    split_ifs with hn
    · rw [List.getElem?_append_left hn] at hi
      exact .inr (.inl ⟨i, List.mem_of_getElem? hi, rfl⟩)
    · rw [List.getElem?_append_right (by omega)] at hi
      exact .inr (.inr (.inl ⟨i, List.mem_of_getElem? hi, rfl⟩))
  · next t _ ht =>
    obtain hm | hm := List.mem_append.1 (List.mem_of_getElem? ht)
    · obtain ⟨x, hx, rfl⟩ := List.mem_map.1 hm
      exact .inr (.inr (.inr (.inl ⟨x, hx, rfl⟩)))
    · obtain ⟨p, hx, rfl⟩ := List.mem_map.1 hm
      exact .inr (.inr (.inr (.inr ⟨p, hx, rfl⟩)))
  · exact .inl rfl

/-- Nothing is to be done, nothing falls due and nothing may take place beside the turn. -/
structure Quiet (s : State) : Prop where
  pkgs : s.pkgs ≠ []
  home : s.hasPkg s.cur.pkg = true
  take : (s.slotAt s.cur).take = none
  settled : settled s = none
  due : dueNow s = none
  inputs : nextInput s = []
  events : readyEvents s = []
  ports : portsReady s = []
  hubs : hubsReady s = []

theorem Quiet.step {s : State} (q : Quiet s) : step s = takeTurn s := by
  rw [step_choose q.pkgs q.take q.settled q.due, choose_quiet q.inputs q.events q.ports q.hubs]

/-- In a quiet machine the slot whose turn it is runs what it stands at. -/
theorem Quiet.runs {s v u : State} {i : Instr} (q : Quiet s) (h : turnOf s s.cur = .issue v i) (he : exec i v = .next u) :
    Machine.step s = .next (afterIssue u s.cur) := by
  rw [q.step, takeTurn_issue q.home h he]

/-- A slot whose clause is fetched in its turn issues at once behind a header that selects nothing. -/
theorem turnOf_code {s u : State} {w : BitVec 32} {ws : List (BitVec 32)} {p : Nat} (hp : s.hasPkg s.cur.pkg = true)
    (hi : canIssue s s.cur = true) (hc : (s.slotAt s.cur).clause = none)
    (ha : codeWindow ((s.slotAt s.cur).head + BitVec.ofNat 64 (4 * (s.slotAt s.cur).pos)) = true)
    (hh : codeWindow (s.slotAt s.cur).head = true) (hal : (s.slotAt s.cur).head.toNat % 4 = 0)
    (hl : lookClause s s.cur (s.slotAt s.cur).head = .code u w ws) (hw : headerFault w = none)
    (hn : (headerOf w).waits = false) (hq : (u.slotAt s.cur).waitqDone = false)
    (hb : (u.slotAt s.cur).pendingPub = none) (ht : (u.slotAt s.cur).take = none)
    (e : p = if (s.slotAt s.cur).pos = 0 then 1 else (s.slotAt s.cur).pos) :
    turnOf s s.cur = .issue (((endRefill u s.cur).mapSlot s.cur fun t =>
        { t with clause := some { hdr := headerOf w, words := ws }, pos := p }).mapSlot s.cur fun t => { t with waitqDone := true })
      (issued (decodeAt { hdr := headerOf w, words := ws } p)) := by
  obtain ⟨hup, hslot⟩ : u.hasPkg s.cur.pkg = true ∧ u.slotAt s.cur = s.slotAt s.cur := by
    obtain rfl | rfl := (lookClause_code hl).2
    exacts [⟨hp, rfl⟩, ⟨hp, rfl⟩]
  rw [turnOf_fetched hi hc (fetchClause_code ha hh hal hl hw)]
  have hs : ((endRefill u s.cur).mapSlot s.cur fun t =>
      { t with clause := some { hdr := headerOf w, words := ws }, pos := if t.pos = 0 then 1 else t.pos }) =
      ((endRefill u s.cur).mapSlot s.cur fun t =>
        { t with clause := some { hdr := headerOf w, words := ws }, pos := p }) := by
    refine State.mapSlot_congr ?_
    rw [endRefill, State.slotAt_mapSlot_same hup, e, ← hslot]
  rw [hs]
  have ht' : ((endRefill u s.cur).mapSlot s.cur fun t =>
        { t with clause := some { hdr := headerOf w, words := ws }, pos := p }).slotAt s.cur =
      { s.slotAt s.cur with refill := none, clause := some { hdr := headerOf w, words := ws }, pos := p } := by
    rw [endRefill, State.mapSlot_mapSlot, State.slotAt_mapSlot_same hup, hslot]
  have hstand := standing_first (s := ((endRefill u s.cur).mapSlot s.cur fun t =>
        { t with clause := some { hdr := headerOf w, words := ws }, pos := p })) (g := s.cur)
    (c := { hdr := headerOf w, words := ws }) (by rw [ht']) hn (by rw [ht', ← hslot]; exact hq)
    (by rw [ht', ← hslot]; exact hb) (by rw [ht', ← hslot]; exact ht)
  rw [hstand, ht']

open Sys2Proof.Claims in
/-- Settles O52: a latched TAKE, what the machine has to do, what falls due and what may take place come first; else the
slot's turn comes to the words that it stands at. -/
theorem stepRunsDecoded : Obligations.StepRunsDecoded := by
  intro s hs hg g t ends runs awake
  refine ⟨fun ht => ?_, fun ht hset hdue hin hev hpo hhu => ⟨fun hc => ?_, fun hc => ?_⟩,
    fun ht hc hp c i hcl hq hi => ?_⟩
  · obtain ⟨h1, h2, h3, h4⟩ := settled_order s
    refine ⟨fun x hx => step_settled hs ht (h1 x hx), fun a x hx => step_settled hs ht (h2 a x hx),
      fun a b x hx => step_settled hs ht (h3 a b x hx), fun a b c x hx => step_settled hs ht (h4 a b c x hx),
      fun hset i hi => step_due hs ht hset hi, fun hset hdue hany => ?_⟩
    rw [step_choose hs ht hset hdue]
    exact choose_cases hany
  · have q : Quiet s := ⟨hs, hg, ht, hset, hdue, hin, hev, hpo, hhu⟩
    rw [q.step, takeTurn_empty hg (turnOf_empty hc)]
  · have q : Quiet s := ⟨hs, hg, ht, hset, hdue, hin, hev, hpo, hhu⟩
    have at_ : ∀ c, t.clause = some c → t.waitqDone = true → t.pendingPub = none →
        turnOf s s.cur = .issue s (Machine.issued (decodeAt c t.pos)) := fun c hcl hq hp => by
      rw [turnOf_standing hc hcl, standing_ready hcl hq hp, ht]; rfl
    refine ⟨fun c hcl hw hq => ?_, fun hp c hcl hq => ⟨fun w rest hd hm hmis => ⟨fun i tail hdec => ?_,
      fun hh e hdec => ?_⟩, fun k hk => ?_, fun w v rest i tail r hd hm hf hdec hv => ?_⟩,
      fun hp hcl hq ha hh hal u w ws hl => ⟨(lookClause_code hl).1, fun hf hn hq' hb ht' i hdec => ?_⟩,
      fun d c words take h q' cl ll h' q2 l' i tail hcl hq hp hdec => ?_⟩
    · have hst := turnOf_standing hc hcl
      rw [standing_waits hcl hw hq] at hst
      rw [q.step]
      split_ifs at hst ⊢
      · exact takeTurn_passed hg hst
      · exact takeTurn_empty hg hst
    · intro u he
      refine q.runs (at_ c hcl hq hp) ?_
      rw [decodeAt_plain hd hm hmis hdec]
      exact he
    · intro u he
      refine q.runs (at_ c hcl hq hp) ?_
      rw [decodeAt_illegal hd hm hmis hh hdec]
      exact he
    · intro u he
      refine q.runs (at_ c hcl hq hp) ?_
      rw [decodeAt_faulted hk]
      exact he
    · intro u he
      refine q.runs (at_ c hcl hq hp) ?_
      rw [decodeAt_take hd hm hf hdec hv]
      exact he
    · intro x he
      refine q.runs (turnOf_code hg hc hcl ha hh hal hl hf hn hq' hb ht' rfl) ?_
      have hcur : u.cur = s.cur := by
        obtain rfl | rfl := (lookClause_code hl).2 <;> rfl
      simp only [awake, withHere, endRefill, State.cur_mapSlot, hcur] at he
      rw [hdec]
      exact he
    · obtain ⟨c', hc'⟩ := Option.isSome_iff_exists.1 hcl
      intro u he
      exact q.runs ((turnOf_standing hc hc').trans (standing_published hc' hq hp hdec)) he
  · intro u he
    rw [step_latched hs ht]
    refine takeTurn_issue (i := i) hg ?_ he
    rw [turnOf_standing hc hcl, standing_ready hcl hq hp, if_pos ht, hi]
    rfl

end Sys2Proof.Machine

/-! What an instruction meets at its operands where none is bound to a stream (R16, R20, R21, R72, R339). -/

namespace Sys2Proof.Machine

open Sys2Proof.Claims

/-- No register that an instruction names is bound to a stream; a TAKE names sources. -/
structure Unbound (t : Slot) (o : Opnds) : Prop where
  srcs : ∀ r ∈ o.srcs, t.streamless r = true
  dsts : ∀ r ∈ o.dsts, t.streamless r = true
  whole : ∀ q ∈ o.whole, t.streamless (.v q) = true
  ta : ∀ r ∈ o.ta, r ∈ o.srcs
  tb : ∀ r ∈ o.tb, r ∈ o.srcs

/-- The sources that a latched TAKE names, s0 among them. -/
def latched (t : Slot) (o : Opnds) : List RegRef :=
  match t.take with
  | some (a, b) => (if a then o.ta.toList else []) ++ (if b then o.tb.toList else [])
  | none => []

theorem latched_mem {t : Slot} {o : Opnds} (hta : ∀ r ∈ o.ta, r ∈ o.srcs) (htb : ∀ r ∈ o.tb, r ∈ o.srcs) :
    ∀ r ∈ latched t o, r ∈ o.srcs := by
  intro r hr
  unfold latched at hr
  split at hr
  · next a b _ =>
    rcases List.mem_append.1 hr with h | h <;> split_ifs at h
    · exact hta r (Option.mem_toList.1 h)
    · simp at h
    · exact htb r (Option.mem_toList.1 h)
    · simp at h
  · simp at hr

theorem takenRegs_eq (t : Slot) (o : Opnds) : takenRegs t o = (latched t o).filter fun r => r != .s 0 := by
  unfold takenRegs latched
  cases t.take <;> rfl

theorem Unbound.bindFault {s : State} {g : GRef} {o : Opnds} (h : Unbound (s.slotAt g) o) : bindFault s g o = none := by
  have hwh : ∀ q ∈ o.whole, s.binding g q = none := fun q hq => binding_streamless (h.whole q hq)
  have hbs : ∀ q, RegRef.v q ∈ o.srcs → s.binding g q = none := fun q hq => binding_streamless (h.srcs _ hq)
  have hbd : ∀ q, RegRef.v q ∈ o.dsts → s.binding g q = none := fun q hq => binding_streamless (h.dsts _ hq)
  have hbt : ∀ q, RegRef.v q ∈ latched (s.slotAt g) o → s.binding g q = none := fun q hq =>
    hbs q (latched_mem h.ta h.tb _ hq)
  unfold Machine.bindFault
  simp only
  rw [if_neg (any_neg fun q hq => by simp [hwh q hq])]
  rw [if_neg (any_neg fun r hr => by cases r with | s r => rfl | v q => simp [hbt q hr]),
    if_neg (any_neg fun r hr => by cases r with | s r => rfl | v q => simp [hbs q hr]),
    if_neg (any_neg fun r hr => by cases r with | s r => rfl | v q => simp [hbd q hr])]
  split
  · rfl
  · rw [if_neg (any_neg fun r hr => by cases r with | s r => rfl | v q => simp [hbs q hr]),
      findSome_none fun r hr => by cases r with | s r => rfl | v q => simp [hbs q hr]]
    simp only
    rw [findSome_none fun r hr => by cases r with | s r => rfl | v q => simp [hbd q hr]]
    simp only
    rw [if_neg (any_neg fun r hr => by cases r with | s r => rfl | v q => simp [hbd q hr])]

theorem Unbound.popList {s : State} {g : GRef} {o : Opnds} (h : Unbound (s.slotAt g) o) : popList s g o = [] := by
  unfold Machine.popList
  split
  · rfl
  · rw [filterMap_nil fun r hr => by
      cases r with | s r => rfl | v q => simp [binding_streamless (h.srcs _ hr)]]
    rfl

/-- The slot that has emptied registers. -/
def Slot.emptied (t : Slot) (l : List RegRef) : Slot := l.foldl (fun t r => t.setFe r .taken) t

/-- Operands that the slot may name, none bound to a stream: empty sources stop the instruction first, then a pending
destination, then poison. -/
theorem prepare_unbound {s : State} {g : GRef} {o : Opnds} (hn : o.needs = .nothing) (hb : o.beyond = false)
    (hr : ∀ r ∈ o.named, r.toNat < (s.slotAt g).regLim.toNat) (h : Unbound (s.slotAt g) o) :
    prepare s g o =
      let t := s.slotAt g
      let empty := o.srcs.filter fun r => t.fe r != .full
      match empty.find? t.trapMode, empty with
      | some r, _ => .error (.trap { kind := .waitlimit, aux := BitVec.ofNat 64 (r.code + 256) })
      | none, r :: _ => .error (.retry (.reg r))
      | none, [] =>
        match o.dsts.find? fun r => t.fe r == .pending with
        | some r => .error (.retry (.reg r))
        | none =>
          match (o.srcs ++ o.prior).findSome? (regPoison s g o) with
          | some f => .error (.trap f)
          | none => .ok { s := s.mapSlot g fun t => { t.emptied (takenRegs t o) with lastOp := none }
                          g := g, pops := [], took := takenRegs t o } := by
  have hrange : (o.beyond || o.named.any fun r => decide ((s.slotAt g).regLim.toNat ≤ r.toNat)) = false := by
    simp only [hb, Bool.false_or, List.any_eq_false, decide_eq_true_eq]
    intro r hm; have := hr r hm; omega
  have hempty : o.srcs.filter (srcEmpty s g) = o.srcs.filter fun r => (s.slotAt g).fe r != .full :=
    List.filter_congr fun r hm => srcEmpty_streamless (h.srcs r hm)
  have htook : (s.mapSlot g fun t => { t.emptied (takenRegs (s.slotAt g) o) with lastOp := none }) =
      s.mapSlot g fun t => { t.emptied (takenRegs t o) with lastOp := none } := State.mapSlot_congr rfl
  unfold prepare
  simp only [hn, hrange, hempty, h.bindFault, h.popList, popAll, Bool.false_eq_true, if_false]
  rw [findSome_none fun r hm => by cases r with | s r => rfl | v q => simp [binding_streamless (h.dsts _ hm)], ← htook]
  rfl

/-! ## How an instruction ends before it executes -/

section
variable {i : Instr} {s : State} {o : Opnds} {body : Ctx → Issue} (hp : s.hasPkg s.cur.pkg = true)
  (he : exec i s = run s o body)
include hp he

theorem traps_prepare {f : FaultInfo} (h : prepare s s.cur o = .error (.trap f)) : Traps i s f :=
  traps_of hp (by rw [he, run, if_pos hp, h]; rfl)

theorem waitsOn_prepare {r : RegRef} (h : prepare s s.cur o = .error (.retry (.reg r))) : waitsOn i s r := by
  rw [waitsOn, he, run, if_pos hp, h]; rfl

theorem traps_regrange (hn : o.needs = .nothing) (h : ∃ r ∈ o.named, (s.slotAt s.cur).regLim.toNat ≤ r.toNat) :
    Traps i s { kind := .regrange } := by
  refine traps_prepare hp he ?_
  have hr : (o.beyond || o.named.any fun r => decide ((s.slotAt s.cur).regLim.toNat ≤ r.toNat)) = true := by
    obtain ⟨r, hm, hle⟩ := h
    exact Bool.or_eq_true_iff.2 (.inr (List.any_eq_true.2 ⟨r, hm, decide_eq_true hle⟩))
  simp only [prepare, hn, hr, Bool.false_eq_true, if_false, if_true]

variable (hn : o.needs = .nothing) (hb : o.beyond = false) (hr : ∀ r ∈ o.named, r.toNat < (s.slotAt s.cur).regLim.toNat)
  (h : Unbound (s.slotAt s.cur) o)
include hn hb hr h

theorem traps_waitlimit {r : RegRef}
    (hf : (o.srcs.filter fun r => (s.slotAt s.cur).fe r != .full).find? (s.slotAt s.cur).trapMode = some r) :
    Traps i s { kind := .waitlimit, aux := BitVec.ofNat 64 (r.code + 256) } := by
  refine traps_prepare hp he ?_
  rw [prepare_unbound hn hb hr h]
  simp only [hf]

theorem waitsOn_source {r : RegRef}
    (hf : (o.srcs.filter fun r => (s.slotAt s.cur).fe r != .full).find? (s.slotAt s.cur).trapMode = none)
    (hh : (o.srcs.filter fun r => (s.slotAt s.cur).fe r != .full).head? = some r) : waitsOn i s r := by
  refine waitsOn_prepare hp he ?_
  obtain ⟨l, hl⟩ := List.head?_eq_some_iff.1 hh
  rw [prepare_unbound hn hb hr h]
  simp only [hl] at hf ⊢
  rw [hf]

theorem waitsOn_destination {d : RegRef} (hd : o.dsts = [d])
    (hf : o.srcs.filter (fun r => (s.slotAt s.cur).fe r != .full) = []) (hw : (s.slotAt s.cur).fe d = .pending) :
    waitsOn i s d := by
  refine waitsOn_prepare hp he ?_
  rw [prepare_unbound hn hb hr h]
  simp [hf, hd, hw]

theorem traps_poison {f : FaultInfo} (hf : ∀ r ∈ o.srcs, (s.slotAt s.cur).fe r = .full)
    (hd : ∀ r ∈ o.dsts, (s.slotAt s.cur).fe r ≠ .pending) (hx : (o.srcs ++ o.prior).findSome? (regPoison s s.cur o) = some f) :
    Traps i s f := by
  refine traps_prepare hp he ?_
  have hempty : o.srcs.filter (fun r => (s.slotAt s.cur).fe r != .full) = [] :=
    List.filter_eq_nil_iff.2 fun r hm => by simp [hf r hm]
  have hpend : (o.dsts.find? fun r => (s.slotAt s.cur).fe r == .pending) = none :=
    List.find?_eq_none.2 fun r hm => by simpa using hd r hm
  rw [prepare_unbound hn hb hr h]
  simp only [hempty, List.find?_nil, hpend, hx]

end

/-! ## ADD and VADD -/

theorem run_add (d a b : SReg) (s : State) : exec (.add d a b) s =
    run s (Opnds.sss d a b) fun c => .done (c.setS d (c.sreg a + c.sreg b)) := rfl

theorem run_vadd (d a b : VRegNo) (s : State) : exec (.vadd d a b) s =
    run s (Opnds.vvv d a b) fun c => .done (c.setV d fun l => lane (c.vreg a) l + lane (c.vreg b) l) := rfl

/-- What holds of both sources holds of each. -/
theorem forall_pair {α : Type} {P : α → Prop} {x y : α} (hx : P x) (hy : P y) : ∀ r ∈ [x, y], P r := by
  simp [hx, hy]

theorem forall_one {α : Type} {P : α → Prop} {x : α} (hx : P x) : ∀ r ∈ [x], P r := by
  simp [hx]

theorem regPoison_scalar {s : State} {g : GRef} {o : Opnds} {q : SReg} (h : (s.slotAt g).sPoison.has q.toNat = true) :
    regPoison s g o (.s q) = some { kind := .ecc, sector := BitVec.ofNat 64 q.toNat, aux := 4 } := if_pos h

theorem regPoison_scalar_none {s : State} {g : GRef} {o : Opnds} {q : SReg}
    (h : (s.slotAt g).sPoison.has q.toNat = false) : regPoison s g o (.s q) = none := if_neg (by simp [h])

theorem unbound_sss (t : Slot) (d a b : SReg) : Unbound t (Opnds.sss d a b) := by
  constructor <;> simp [Opnds.sss, Slot.streamless]

theorem unbound_vvv {t : Slot} {d a b : VRegNo} (h : ∀ r ∈ [d, a, b], t.streamless (.v r) = true) :
    Unbound t (Opnds.vvv d a b) := by
  simp only [List.mem_cons, List.not_mem_nil, or_false, forall_eq_or_imp, forall_eq] at h
  obtain ⟨hd, ha, hb⟩ := h
  constructor <;> simp [Opnds.vvv, *]

theorem operandWaits : OperandWaits := by
  intro s hp t meets
  refine ⟨fun d a b => ⟨?_, fun ha hb hd => ⟨fun hx => ?_, fun hx hy => ?_⟩⟩, fun d a b => ⟨fun hx => ?_, fun hx => ?_⟩⟩
  · have he := run_add d a b s
    have hu := unbound_sss t d a b
    exact ⟨fun r hf => traps_waitlimit hp he rfl rfl (by simp [Opnds.sss]) hu hf,
      fun hf r hh => waitsOn_source hp he rfl rfl (by simp [Opnds.sss]) hu hf hh,
      fun hf hw => waitsOn_destination hp he rfl rfl (by simp [Opnds.sss]) hu rfl hf hw⟩
  · exact traps_poison hp (run_add d a b s) rfl rfl (by simp [Opnds.sss]) (unbound_sss t d a b) (forall_pair ha hb)
      (forall_one hd)
      (by simp only [Opnds.sss, List.append_nil, List.findSome?_cons, regPoison_scalar hx])
  · refine traps_poison hp (run_add d a b s) rfl rfl (by simp [Opnds.sss]) (unbound_sss t d a b) (forall_pair ha hb)
      (forall_one hd) ?_
    simp only [Opnds.sss, List.append_nil, List.findSome?_cons, regPoison_scalar_none hx, regPoison_scalar hy]
  · exact traps_regrange hp (run_vadd d a b s) rfl hx
  · have he := run_vadd d a b s
    have hu : Unbound t (Opnds.vvv d a b) := unbound_vvv fun r hm => (hx r hm).2
    have hr : ∀ r ∈ (Opnds.vvv d a b).named, r.toNat < t.regLim.toNat := fun r hm => (hx r hm).1
    refine ⟨⟨fun r hf => traps_waitlimit hp he rfl rfl hr hu hf, fun hf r hh => waitsOn_source hp he rfl rfl hr hu hf hh,
      fun hf hw => waitsOn_destination hp he rfl rfl hr hu rfl hf hw⟩, fun ha hb hd hpoison _ => ?_⟩
    refine traps_poison hp he rfl rfl hr hu (forall_pair ha hb) (forall_one hd) ?_
    obtain ⟨u, hu, hphys, hact⟩ := hpoison
    have hbind : Table.find t.binds a.toNat = none := by simpa [Slot.streamless] using (hx a (by simp)).2
    have hbad : regPoison s s.cur (Opnds.vvv d a b) (.v a) =
        some { kind := .ecc, sector := BitVec.ofNat 64 a.toNat, aux := 5 } := by
      unfold regPoison
      refine if_pos ?_
      rw [hbind, Option.isNone_none, Bool.true_and, List.any_eq_true]
      refine ⟨u, hu, ?_⟩
      rw [Bool.and_eq_true, beq_iff_eq, Bool.or_eq_true]
      exact ⟨hphys, hact⟩
    simp only [Opnds.vvv, List.append_nil, List.findSome?_cons] at hbad ⊢
    rw [hbad]

end Sys2Proof.Machine

/-! Under a TAKE, an instruction leaves what it leaves without, and the sources that the TAKE names empty (R66, R67, R126,
R127): the states of the two runs side by side. -/

namespace Sys2Proof.Machine

open Sys2Proof.Claims

/-! ## Slots that differ in what they have taken -/

/-- A slot without its latched TAKE, the states of its registers, and its operations. -/
def Slot.core (t : Slot) : Slot := { t with take := none, sFe := [], vFe := [], ops := [] }

/-- The operations of a slot without what they have taken. -/
def Slot.plainOps (t : Slot) : List Op := t.ops.map fun o => { o with took := [], prevFe := [] }

/-- A change of a slot that acts on its core and leaves its operations alone. -/
structure CoreWise (f : Slot → Slot) : Prop where
  core : ∀ t, (f t).core = (f t.core).core
  ops : ∀ t, (f t).plainOps = t.plainOps

theorem CoreWise.congr {f : Slot → Slot} (h : CoreWise f) {t u : Slot} (e : t.core = u.core) : (f t).core = (f u).core := by
  rw [h.core t, h.core u, e]

theorem Slot.core_setFe (t : Slot) (r : RegRef) (x : RegFe) : (t.setFe r x).core = t.core :=
  Slot.setFe_keeps Slot.core (fun _ _ _ => rfl) t r x

theorem Slot.core_setFe_all (t : Slot) (l : List RegRef) (x : RegFe) :
    (l.foldl (fun t r => t.setFe r x) t).core = t.core := by
  induction l generalizing t with
  | nil => rfl
  | cons r l ih => exact (ih _).trans (t.core_setFe r _)

theorem Slot.core_emptied (t : Slot) (l : List RegRef) : (t.emptied l).core = t.core := t.core_setFe_all l .taken

theorem Slot.plainOps_setFe_all (t : Slot) (l : List RegRef) (x : RegFe) :
    (l.foldl (fun t r => t.setFe r x) t).plainOps = t.plainOps := by
  induction l generalizing t with
  | nil => rfl
  | cons r l ih => exact (ih _).trans (Slot.setFe_keeps Slot.plainOps (fun _ _ _ => rfl) t r _)

theorem Slot.plainOps_emptied (t : Slot) (l : List RegRef) : (t.emptied l).plainOps = t.plainOps :=
  t.plainOps_setFe_all l .taken

theorem Slot.core_wakeReg (t : Slot) (r : RegRef) : (t.wakeReg r).core = t.core.wakeReg r := by
  have hw : t.core.wait = t.wait := rfl
  have hm : t.core.mode = t.mode := rfl
  unfold Slot.wakeReg
  rw [hw, hm]
  split
  · split_ifs <;> rfl
  · rfl

theorem Slot.core_fill (t : Slot) (r : RegRef) : (t.fill r).core = t.core.wakeReg r := by
  rw [Slot.fill, Slot.core_wakeReg, Slot.core_setFe]

theorem Slot.plainOps_fill (t : Slot) (r : RegRef) : (t.fill r).plainOps = t.plainOps :=
  (Slot.wakeReg_keeps Slot.plainOps (fun _ _ _ => rfl) _ r).trans (Slot.setFe_keeps Slot.plainOps (fun _ _ _ => rfl) t r _)

theorem coreWise_fill (r : RegRef) : CoreWise (·.fill r) := by
  refine ⟨fun t => ?_, fun t => t.plainOps_fill r⟩
  rw [Slot.core_fill, Slot.core_fill]; rfl

theorem coreWise_putS (d : SReg) (v : Word) : CoreWise (·.putS d v) := by
  refine ⟨fun t => ?_, fun t => ?_⟩ <;> dsimp only [Slot.putS] <;> split_ifs
  · rfl
  · rw [Slot.core_fill, Slot.core_fill]; rfl
  · rfl
  · rw [Slot.plainOps_fill]; rfl

/-- The states of registers after several have been set. -/
theorem Slot.fe_setFe_all (t : Slot) (l : List RegRef) (x : RegFe) (q : RegRef) :
    (l.foldl (fun t r => t.setFe r x) t).fe q = if q ∈ l ∧ q ≠ .s 0 then x else t.fe q := by
  induction l generalizing t with
  | nil => rw [if_neg (by simp)]; rfl
  | cons r l ih =>
    refine (ih (t.setFe r x)).trans ?_
    rw [Slot.fe_setFe]
    by_cases hq : q ∈ l ∧ q ≠ .s 0
    · rw [if_pos hq, if_pos ⟨List.mem_cons_of_mem _ hq.1, hq.2⟩]
    · rw [if_neg hq]
      refine if_congr ⟨fun h => ?_, fun h => ?_⟩ rfl rfl
      · obtain ⟨rfl, h0⟩ := h
        exact ⟨List.mem_cons_self, h0⟩
      · obtain rfl | hl := List.mem_cons.1 h.1
        · exact ⟨rfl, h.2⟩
        · exact absurd ⟨hl, h.2⟩ hq

/-- What an emptied register holds, and every other. -/
theorem Slot.fe_emptied (t : Slot) {l : List RegRef} (h : RegRef.s 0 ∉ l) (q : RegRef) :
    (t.emptied l).fe q = if q ∈ l then .taken else t.fe q := by
  refine (t.fe_setFe_all l .taken q).trans (if_congr ⟨And.left, fun hq => ⟨hq, ?_⟩⟩ rfl rfl)
  rintro rfl
  exact h hq

theorem not_zero_takenRegs (t : Slot) (o : Opnds) : RegRef.s 0 ∉ takenRegs t o := by
  simp [takenRegs_eq]

/-! ## States side by side -/

/-- The keys of a table after a value has been listed follow from the keys before. -/
theorem Table.keys_put {α : Type} {t u : Table α} (h : u.map (·.1) = t.map (·.1)) (k : Nat) (v w : α) :
    (Table.put u k w).map (·.1) = (Table.put t k v).map (·.1) := by
  induction t generalizing u with
  | nil =>
    rw [List.map_eq_nil_iff.1 h]; rfl
  | cons x t ih =>
    cases u with
    | nil => cases h
    | cons y u =>
      obtain ⟨hx, ht⟩ := List.cons.inj h
      obtain ⟨n, a⟩ := x
      obtain ⟨m, b⟩ := y
      obtain rfl : m = n := hx
      simp only [Table.put]
      split_ifs
      · exact congrArg (k :: ·) ht
      · exact congrArg (k :: m :: ·) ht
      · exact congrArg (m :: ·) (ih ht)

theorem State.keys_mapPkg {a b : State} {p : PkgId} (h : b.pkgs.map (·.1) = a.pkgs.map (·.1)) (hp : b.hasPkg p = a.hasPkg p)
    (f k : Pkg → Pkg) : (b.mapPkg p k).pkgs.map (·.1) = (a.mapPkg p f).pkgs.map (·.1) := by
  unfold State.hasPkg at hp
  unfold State.mapPkg
  cases ha : Table.find a.pkgs p.toNat <;> cases hb : Table.find b.pkgs p.toNat <;> rw [ha, hb] at hp
  · exact h
  · cases hp
  · cases hp
  · exact Table.keys_put h _ _ _

/-- `b` is `a` but for slot `g`, whose registers `T`, those of `W` apart, have been taken there. -/
structure Emptied (g : GRef) (T W : List RegRef) (a b : State) : Prop where
  home : a.hasPkg g.pkg = true
  fe : ∀ q, (b.slotAt g).fe q = if q ∈ T ∧ q ∉ W then .taken else (a.slotAt g).fe q
  core : (b.slotAt g).core = (a.slotAt g).core
  ops : (b.slotAt g).plainOps = (a.slotAt g).plainOps
  pkgs : ∀ p, b.hasPkg p = a.hasPkg p ∧ (b.pkgAt p).bare = (a.pkgAt p).bare
  cells : ∀ p c, (b.cellAt p c).bare = (a.cellAt p c).bare
  others : ∀ h, h ≠ g → (b.slotAt h).quiet = (a.slotAt h).quiet
  rest : (b.cur, b.agenda, b.gone, b.free) = (a.cur, a.agenda, a.gone, a.free)
  keys : b.pkgs.map (·.1) = a.pkgs.map (·.1)

namespace Emptied
variable {g : GRef} {T W : List RegRef} {a b : State}

theorem of_core (e : Emptied g T W a b) {α : Sort _} (P : Slot → α) (h : ∀ t : Slot, P t.core = P t) :
    P (b.slotAt g) = P (a.slotAt g) := by
  rw [← h, e.core, h]

theorem of_cell (e : Emptied g T W a b) {α : Sort _} (P : Cell → α) (h : ∀ t : Cell, P t.bare = P t) (p : PkgId)
    (c : CellId) : P (b.cellAt p c) = P (a.cellAt p c) := by
  rw [← h, e.cells, h]

theorem of_pkg (e : Emptied g T W a b) {α : Sort _} (P : Pkg → α) (h : ∀ k : Pkg, P k.bare = P k) (p : PkgId) :
    P (b.pkgAt p) = P (a.pkgAt p) := by
  rw [← h, (e.pkgs p).2, h]

/-- Changes of the slot that fit together. -/
theorem mapSlot (e : Emptied g T W a b) {f k : Slot → Slot} {W' : List RegRef}
    (hf : ∀ q, (k (b.slotAt g)).fe q = if q ∈ T ∧ q ∉ W' then .taken else (f (a.slotAt g)).fe q)
    (hc : (k (b.slotAt g)).core = (f (a.slotAt g)).core)
    (ho : (k (b.slotAt g)).plainOps = (f (a.slotAt g)).plainOps) : Emptied g T W' (a.mapSlot g f) (b.mapSlot g k) := by
  have hp := e.home
  have hb : b.hasPkg g.pkg = true := ((e.pkgs _).1).trans hp
  refine ⟨(State.hasPkg_mapSlot _ _ _ _).trans hp, ?_, ?_, ?_, fun p => ⟨?_, ?_⟩, fun p c => ?_, fun h hne => ?_, ?_, State.keys_mapPkg e.keys (e.pkgs _).1 _ _⟩
  · rw [State.slotAt_mapSlot_same hp, State.slotAt_mapSlot_same hb]; exact hf
  · rw [State.slotAt_mapSlot_same hp, State.slotAt_mapSlot_same hb]; exact hc
  · rw [State.slotAt_mapSlot_same hp, State.slotAt_mapSlot_same hb]; exact ho
  · rw [State.hasPkg_mapSlot, State.hasPkg_mapSlot, (e.pkgs p).1]
  · rw [State.pkgAt_mapSlot_keeps Pkg.bare (fun _ _ => rfl), State.pkgAt_mapSlot_keeps Pkg.bare (fun _ _ => rfl), (e.pkgs p).2]
  · rw [State.cellAt_mapSlot_keeps Cell.bare (fun _ _ => rfl), State.cellAt_mapSlot_keeps Cell.bare (fun _ _ => rfl), e.cells]
  · rw [State.slotAt_mapSlot_ne _ hne, State.slotAt_mapSlot_ne _ hne, e.others h hne]
  · simpa using e.rest

/-- One change of both slots that leaves readiness alone. -/
theorem mapSlot_same (e : Emptied g T W a b) {f : Slot → Slot} (hf : ∀ t q, (f t).fe q = t.fe q)
    (hc : CoreWise f) : Emptied g T W (a.mapSlot g f) (b.mapSlot g f) :=
  e.mapSlot (fun q => by rw [hf, hf, e.fe]) (hc.congr e.core) (by rw [hc.ops, hc.ops, e.ops])

/-- One change of a cell in both, which leaves its slots alone. -/
theorem mapCell (e : Emptied g T W a b) (p : PkgId) (c : CellId) {f : Cell → Cell} (hs : ∀ t, (f t).slots = t.slots)
    (hb : ∀ t, (f t).bare = (f t.bare).bare) : Emptied g T W (a.mapCell p c f) (b.mapCell p c f) := by
  have hcell (q d) : ((b.mapCell p c f).cellAt q d).bare = ((a.mapCell p c f).cellAt q d).bare := by
    rw [State.cellAt_mapCell, State.cellAt_mapCell, (e.pkgs p).1]
    split_ifs
    · rw [hb, e.cells, ← hb]
    · exact e.cells q d
  refine ⟨(State.hasPkg_mapCell _ _ _ _ _).trans e.home, ?_, ?_, ?_, fun q => ⟨?_, ?_⟩, hcell, fun h hne => ?_, ?_,
    State.keys_mapPkg e.keys (e.pkgs _).1 _ _⟩
  · rw [State.slotAt_mapCell_keeps hs, State.slotAt_mapCell_keeps hs]; exact e.fe
  · rw [State.slotAt_mapCell_keeps hs, State.slotAt_mapCell_keeps hs]; exact e.core
  · rw [State.slotAt_mapCell_keeps hs, State.slotAt_mapCell_keeps hs]; exact e.ops
  · rw [State.hasPkg_mapCell, State.hasPkg_mapCell, (e.pkgs q).1]
  · rw [State.pkgAt_mapCell_keeps Pkg.bare (fun _ _ => rfl), State.pkgAt_mapCell_keeps Pkg.bare (fun _ _ => rfl), (e.pkgs q).2]
  · rw [State.slotAt_mapCell_keeps hs, State.slotAt_mapCell_keeps hs, e.others h hne]
  · simpa using e.rest

/-- A register that is filled in both. -/
theorem filled {r : RegRef} {f : Slot → Slot} (e : Emptied g T W a b)
    (hf : ∀ t q, (f t).fe q = if q = r then .full else t.fe q) (hc : CoreWise f) :
    Emptied g T (r :: W) (a.mapSlot g f) (b.mapSlot g f) := by
  refine e.mapSlot (fun q => ?_) (hc.congr e.core) (by rw [hc.ops, hc.ops, e.ops])
  rw [hf, hf, e.fe]
  by_cases hq : q = r
  · simp [hq]
  · simp [hq, List.mem_cons]

theorem setS (e : Emptied g T W a b) (d : SReg) (v : Word) :
    Emptied g T (.s d :: W) (a.setS g d v) (b.setS g d v) :=
  e.filled (fun t q => t.fe_putS d v q) (coreWise_putS d v)

theorem vregAt (e : Emptied g T W a b) (r : VRegNo) : b.vregAt g r = a.vregAt g r := by
  unfold State.vregAt
  rw [e.of_cell (·.vregs) (fun _ => rfl), e.of_core (·.phys r) (fun _ => rfl)]

theorem setLanes (e : Emptied g T W a b) (d : VRegNo) (m : BitVec 32) (f : Nat → Lane) :
    Emptied g T (.v d :: W) (a.setLanes g d m f) (b.setLanes g d m f) := by
  unfold State.setLanes
  simp only [e.vregAt, e.of_core (·.phys d) (fun _ => rfl)]
  refine Emptied.filled ?_ (fun t q => t.fe_fill (.v d) q) (coreWise_fill (.v d))
  exact e.mapCell _ _ (fun _ => rfl) (fun _ => rfl)

end Emptied

end Sys2Proof.Machine

/-! The bodies of instructions under a TAKE and without (R66, R67, R126, R127). -/

namespace Sys2Proof.Machine

open Sys2Proof.Claims

/-! ## How the two runs begin -/

/-- What an instruction needs besides: operands in reach, its TAKE names sources. -/
structure Takes (o : Opnds) : Prop where
  needs : o.needs = .nothing
  within : o.beyond = false
  ta : ∀ r ∈ o.ta, r ∈ o.srcs
  tb : ∀ r ∈ o.tb, r ∈ o.srcs

section
variable {s : State} {o : Opnds}

theorem hasPkg_unprefixed (s : State) (p : PkgId) : (unprefixed s).hasPkg p = s.hasPkg p := State.hasPkg_mapSlot _ _ _ _

theorem cur_unprefixed (s : State) : (unprefixed s).cur = s.cur := State.cur_mapSlot _ _ _

theorem slotAt_unprefixed (hp : s.hasPkg s.cur.pkg = true) :
    (unprefixed s).slotAt s.cur = { s.slotAt s.cur with take := none } := State.slotAt_mapSlot_same hp _

theorem ready_unprefixed_hasPkg (h : ready (unprefixed s) o = true) : s.hasPkg s.cur.pkg = true := by
  have hp := ((ready_iff _ _).1 h).1
  rwa [cur_unprefixed, hasPkg_unprefixed] at hp

theorem regPoison_unprefixed (hp : s.hasPkg s.cur.pkg = true) (o : Opnds) (r : RegRef) :
    regPoison (unprefixed s) s.cur o r = regPoison s s.cur o r := by
  unfold regPoison
  rw [slotAt_unprefixed hp]
  have hv : ((unprefixed s).cellAt s.cur.pkg s.cur.cell).vPoison = (s.cellAt s.cur.pkg s.cur.cell).vPoison :=
    State.cellAt_mapSlot_keeps (·.vPoison) (fun _ _ => rfl) _ _ _ _ _
  simp only [hv]
  rfl

/-- Under its TAKE an instruction that is ready without comes to its body, the sources that the TAKE names emptied. -/
theorem prepare_taking (ho : Takes o) (h : ready (unprefixed s) o = true) :
    prepare s s.cur o =
      .ok { s := s.mapSlot s.cur fun t => { t.emptied (takenRegs t o) with lastOp := none }
            g := s.cur, pops := [], took := takenRegs (s.slotAt s.cur) o } := by
  have hp := ready_unprefixed_hasPkg h
  obtain ⟨-, -, -, hr, hs, hd, hu, hx, -⟩ := (ready_iff _ _).1 h
  rw [cur_unprefixed, slotAt_unprefixed hp] at hr hs hd hu
  rw [cur_unprefixed] at hx
  have hfe : ∀ r ∈ o.srcs, (s.slotAt s.cur).fe r = .full := hs
  have hempty : o.srcs.filter (fun r => (s.slotAt s.cur).fe r != .full) = [] :=
    List.filter_eq_nil_iff.2 fun r hm => by simp [hfe r hm]
  have hpend : (o.dsts.find? fun r => (s.slotAt s.cur).fe r == .pending) = none :=
    List.find?_eq_none.2 fun r hm => by rw [beq_iff_eq]; exact hd r hm
  have hpoison : (o.srcs ++ o.prior).findSome? (regPoison s s.cur o) = none :=
    findSome_none fun r hm => (regPoison_unprefixed hp o r).symm.trans (hx r (List.mem_append.1 hm))
  have hunb : Unbound (s.slotAt s.cur) o :=
    ⟨fun r hm => hu r (.inl hm), fun r hm => hu r (.inr (.inl hm)), fun q hm => hu _ (.inr (.inr ⟨q, hm, rfl⟩)), ho.ta, ho.tb⟩
  rw [prepare_unbound ho.needs ho.within hr hunb]
  simp only [hempty, List.find?_nil, hpend, hpoison]

/-- The views that the bodies of the two runs begin with. -/
def plainCtx (s : State) : Ctx := { s := started (unprefixed s), g := s.cur, pops := [], took := [] }
def takingCtx (s : State) (o : Opnds) : Ctx :=
  { s := s.mapSlot s.cur fun t => { t.emptied (takenRegs t o) with lastOp := none }
    g := s.cur, pops := [], took := takenRegs (s.slotAt s.cur) o }

theorem run_unprefixed (h : ready (unprefixed s) o = true) (body : Ctx → Issue) :
    run (unprefixed s) o body = .next (conclude (unprefixed s) s.cur o (body (plainCtx s))) := by
  rw [run_ready h, plainCtx, cur_unprefixed]

theorem run_taking (ho : Takes o) (h : ready (unprefixed s) o = true) (body : Ctx → Issue) :
    run s o body = .next (conclude s s.cur o (body (takingCtx s o))) := by
  rw [run, if_pos (ready_unprefixed_hasPkg h), prepare_taking ho h]; rfl

theorem plainCtx_state (s : State) : (plainCtx s).s = s.mapSlot s.cur fun t => { t with take := none, lastOp := none } := by
  rw [plainCtx, started, cur_unprefixed, unprefixed, withHere, State.mapSlot_mapSlot]

/-- Both bodies begin in the same state but for what has been taken. -/
theorem emptied_start (hp : s.hasPkg s.cur.pkg = true) :
    Emptied s.cur (takenRegs (s.slotAt s.cur) o) [] (plainCtx s).s (takingCtx s o).s := by
  have hself : Emptied s.cur (takenRegs (s.slotAt s.cur) o) (takenRegs (s.slotAt s.cur) o) s s :=
    ⟨hp, fun q => by rw [if_neg fun h => h.2 h.1], rfl, rfl, fun _ => ⟨rfl, rfl⟩, fun _ _ => rfl, fun _ _ => rfl, rfl, rfl⟩
  rw [plainCtx_state]
  refine hself.mapSlot (fun q => ?_) ?_ ?_
  · refine ((s.slotAt s.cur).fe_emptied (not_zero_takenRegs _ o) q).trans ?_
    simp only [List.not_mem_nil, not_false_eq_true, and_true]
    rfl
  · exact congrArg (fun t : Slot => { t with lastOp := none }) ((s.slotAt s.cur).core_emptied _)
  · exact (s.slotAt s.cur).plainOps_emptied _

end

/-! ## How they end -/

/-- A slot as the claim compares it. -/
theorem plain_of_core {t u : Slot} (hc : t.bare.core = u.bare.core) (ho : t.plainOps = u.plainOps) :
    ({ t.bare with sFe := [], vFe := [], ops := t.plainOps } : Slot) = { u.bare with sFe := [], vFe := [], ops := u.plainOps } := by
  rw [ho]
  exact congrArg (fun x : Slot => { x with ops := u.plainOps }) hc

/-- What a slot leaves beside its place at the end of an instruction: `m` of what the body left. -/
structure EndsAs (m : Slot → Slot) (g : GRef) (a v : State) : Prop where
  pkgs : ∀ p, v.hasPkg p = a.hasPkg p ∧ (v.pkgAt p).bare = (a.pkgAt p).bare
  cells : ∀ p c, (v.cellAt p c).bare = (a.cellAt p c).bare
  others : ∀ h, h ≠ g → (v.slotAt h).quiet = (a.slotAt h).quiet
  slot : (v.slotAt g).bare = m (a.slotAt g).bare
  rest : (v.cur, v.agenda, v.gone, v.free) = (a.cur, a.agenda, a.gone, a.free)

theorem EndsAs.of_still {m f : Slot → Slot} {g : GRef} {a v : State} (hp : a.hasPkg g.pkg = true)
    (hf : ∀ t, (f t).bare = m t.bare) (h : Still (a.mapSlot g f) v) : EndsAs m g a v := by
  obtain ⟨hk, hc, hs, h1, h2, h3, h4⟩ := h
  refine ⟨fun p => ⟨?_, ?_⟩, fun p c => ?_, fun q hq => ?_, ?_, ?_⟩
  · rw [(hk p).1, State.hasPkg_mapSlot]
  · rw [(hk p).2, State.pkgAt_mapSlot_keeps Pkg.bare (fun _ _ => rfl)]
  · rw [hc, State.cellAt_mapSlot_keeps Cell.bare (fun _ _ => rfl)]
  · rw [hs, State.slotAt_mapSlot_ne _ hq]
  · rw [Slot.bare_of_quiet (hs g), State.slotAt_mapSlot_same hp, hf]
  · simp [h1, h2, h3, h4]

/-- Two runs whose bodies leave states side by side, and which end alike. -/
theorem emptiesAlone_of {s a b v u : State} {o : Opnds} {m : Slot → Slot}
    (e : Emptied s.cur (takenRegs (s.slotAt s.cur) o) o.dsts a b) (hv : EndsAs m s.cur a v) (hu : EndsAs m s.cur b u)
    (hm : ∀ t q, (m t).fe q = t.fe q) (hc : CoreWise m) (ht : (u.slotAt s.cur).take = none)
    (hn : (u.slotAt s.cur).waitNext = none → (u.slotAt s.cur).place = s.nextPlace s.cur o.words) : EmptiesAlone s o v u := by
  have fe {x y : State} (h : EndsAs m s.cur x y) (q) : (y.slotAt s.cur).fe q = (x.slotAt s.cur).fe q :=
    (congrArg (·.fe q) h.slot).trans (hm _ q)
  have ops {x y : State} (h : EndsAs m s.cur x y) : (y.slotAt s.cur).plainOps = (x.slotAt s.cur).plainOps :=
    (congrArg Slot.plainOps h.slot).trans (hc.ops _)
  have core : (u.slotAt s.cur).bare.core = (v.slotAt s.cur).bare.core := by
    rw [hu.slot, hv.slot]
    exact hc.congr (congrArg Slot.bare e.core)
  refine ⟨fun q => ?_, plain_of_core core (by rw [ops hu, ops hv, e.ops]), ht, hn, fun p => ⟨?_, ?_⟩, fun p c => ?_,
    fun h hne => ?_, ?_⟩
  · rw [fe hu, fe hv, e.fe, takenRegs_eq]
    rfl
  · rw [(hu.pkgs p).1, (hv.pkgs p).1, (e.pkgs p).1]
  · rw [(hu.pkgs p).2, (hv.pkgs p).2, (e.pkgs p).2]
  · rw [hu.cells, hv.cells, e.cells]
  · rw [hu.others h hne, hv.others h hne, e.others h hne]
  · rw [hu.rest, hv.rest, e.rest]

theorem coreWise_id : CoreWise id := ⟨fun _ => rfl, fun _ => rfl⟩

/-- A publication after a change of the slot. -/
theorem Still.published (s : State) (g : GRef) (o : Opnds) (next : Word × Nat × LoopStack) (a : State) :
    Still a (if o.pub then Machine.publish s g o.words next a else a) := by
  split
  · exact Still.publish _ _ _ _ _
  · exact Still.refl _

theorem still_done (s a : State) (g : GRef) (o : Opnds) :
    Still (a.mapSlot g fun t => t.clear.goTo (s.nextPlace g o.words)) (conclude s g o (.done a)) :=
  Still.published s g o _ _

theorem Slot.take_goTo (t : Slot) (x : Word × Nat × LoopStack) : (t.goTo x).take = none := by
  unfold Slot.goTo
  simp only
  split_ifs <;> rfl

/-- Both bodies are done. -/
theorem emptiesAlone_done {s a b : State} {o : Opnds}
    (e : Emptied s.cur (takenRegs (s.slotAt s.cur) o) o.dsts a b) :
    EmptiesAlone s o (conclude (unprefixed s) s.cur o (.done a)) (conclude s s.cur o (.done b)) := by
  have hb : b.hasPkg s.cur.pkg = true := ((e.pkgs _).1).trans e.home
  have hq : ((conclude s s.cur o (.done b)).slotAt s.cur).quiet =
      ((b.slotAt s.cur).clear.goTo (s.nextPlace s.cur o.words)).quiet := by
    rw [(still_done s b s.cur o).2.2.1, State.slotAt_mapSlot_same hb]
  refine emptiesAlone_of (m := id) e (EndsAs.of_still e.home (fun t => Slot.bare_goTo t _) (still_done _ a _ o))
    (EndsAs.of_still hb (fun t => Slot.bare_goTo t _) (still_done _ b _ o)) (fun _ _ => rfl) coreWise_id ?_ fun _ => ?_
  · exact (congrArg (·.take) hq).trans (Slot.take_goTo _ _)
  · exact (congrArg (·.place) hq).trans (Slot.place_goTo _ _)

/-- The mode of a slot that parks. -/
def Slot.parking (t : Slot) : Slot := { t with mode := if t.mode = .run then .parked else t.mode }

/-- The slot that has issued an instruction and waits for its answer. -/
def Slot.parkedFor (t : Slot) (w : WaitFor) (now : Nat) (next : Word × Nat × LoopStack) (took : List RegRef) : Slot :=
  { t.parking with wait := some { what := w, since := now }, waitNext := some next, take := none, took := took }

theorem still_park (s a : State) (g : GRef) (o : Opnds) (w : WaitFor) :
    Still (a.mapSlot g fun t => t.parkedFor w (s.cycleAt g.pkg) (s.nextPlace g o.words) (takenRegs (s.slotAt g) o))
      (conclude s g o (.park a w)) :=
  Still.published s g o _ _

/-- Both bodies park the slot. -/
theorem emptiesAlone_park {s a b : State} {o : Opnds} (w : WaitFor)
    (e : Emptied s.cur (takenRegs (s.slotAt s.cur) o) o.dsts a b) :
    EmptiesAlone s o (conclude (unprefixed s) s.cur o (.park a w)) (conclude s s.cur o (.park b w)) := by
  have hb : b.hasPkg s.cur.pkg = true := ((e.pkgs _).1).trans e.home
  have hq : ((conclude s s.cur o (.park b w)).slotAt s.cur).quiet = ((b.slotAt s.cur).parkedFor w (s.cycleAt s.cur.pkg)
      (s.nextPlace s.cur o.words) (takenRegs (s.slotAt s.cur) o)).quiet := by
    rw [(still_park s b s.cur o w).2.2.1, State.slotAt_mapSlot_same hb]
  refine emptiesAlone_of (m := Slot.parking) e (EndsAs.of_still e.home (fun t => rfl) (still_park _ a _ o w))
    (EndsAs.of_still hb (fun t => rfl) (still_park _ b _ o w)) (fun _ _ => rfl) ⟨fun _ => rfl, fun _ => rfl⟩ ?_ fun hn => ?_
  · exact congrArg (·.take) hq
  · cases (congrArg (·.waitNext) hq).symm.trans hn

end Sys2Proof.Machine

/-! Instructions of registers under a TAKE (R66, R67, R126, R127). -/

namespace Sys2Proof.Machine

open Sys2Proof.Claims

/-- The state runs an instruction with operands `o` both with its TAKE and without. -/
structure Twins (s : State) (o : Opnds) : Prop where
  takes : Takes o
  ready : ready (unprefixed s) o = true

theorem plainCtx_slot {s : State} (hp : s.hasPkg s.cur.pkg = true) :
    (plainCtx s).slot = { s.slotAt s.cur with take := none, lastOp := none } := by
  rw [Ctx.slot, plainCtx_state]
  exact State.slotAt_mapSlot_same hp _

namespace Twins
variable {s : State} {o : Opnds} (h : Twins s o)
include h

theorem hasPkg : s.hasPkg s.cur.pkg = true := ready_unprefixed_hasPkg h.ready

theorem start : Emptied s.cur (takenRegs (s.slotAt s.cur) o) [] (plainCtx s).s (takingCtx s o).s := emptied_start h.hasPkg

/-- What a body reads of its slot is the same. -/
theorem slot {α : Sort _} (P : Slot → α) (hP : ∀ t : Slot, P t.core = P t) : P (takingCtx s o).slot = P (plainCtx s).slot :=
  h.start.of_core P hP

theorem sreg (r : SReg) : (takingCtx s o).sreg r = (plainCtx s).sreg r := h.slot (·.sreg r) fun _ => rfl

theorem vreg (r : VRegNo) : (takingCtx s o).vreg r = (plainCtx s).vreg r := h.start.vregAt r

theorem unbound {d : VRegNo} (hd : RegRef.v d ∈ o.dsts) : (plainCtx s).boundTo d = none := by
  obtain ⟨-, -, -, -, -, -, hu, -, -⟩ := (ready_iff _ _).1 h.ready
  rw [cur_unprefixed] at hu
  have hn : Table.find ((unprefixed s).slotAt s.cur).binds d.toNat = none :=
    Option.isNone_iff_eq_none.1 (hu (.v d) (.inr (.inl hd)))
  rw [slotAt_unprefixed h.hasPkg] at hn
  rw [Ctx.boundTo, plainCtx_slot h.hasPkg]
  exact congrArg (Option.map BitVec.toNat) hn

theorem setS (d : SReg) (v : Word) : Emptied s.cur (takenRegs (s.slotAt s.cur) o) [.s d] ((plainCtx s).setS d v)
    ((takingCtx s o).setS d v) := h.start.setS d v

end Twins

/-- The active lanes of a plain vector destination are written in both. -/
theorem Emptied.setV {g : GRef} {T W : List RegRef} {c k : Ctx} (e : Emptied g T W c.s k.s) (hc : c.g = g) (hk : k.g = g)
    {d : VRegNo} (hb : c.boundTo d = none) (f : Nat → Lane) :
    Emptied g T (.v d :: W) (c.setV d f) (k.setV d f) := by
  subst hc
  have hslot {α : Sort _} (P : Slot → α) (hP : ∀ t : Slot, P t.core = P t) : P k.slot = P c.slot := by
    rw [Ctx.slot, hk]; exact e.of_core P hP
  have hb' : k.boundTo d = none := by
    rw [← hb]
    exact hslot (fun t => (Table.find t.binds d.toNat).map (·.toNat)) fun _ => rfl
  unfold Ctx.setV
  simp only [hb, hb', hslot (·.active) (fun _ => rfl), hk]
  exact e.setLanes d _ f

/-- And with the flags that the active lanes raise. -/
theorem Emptied.setVF {g : GRef} {T W : List RegRef} {c k : Ctx} (e : Emptied g T W c.s k.s) (hc : c.g = g) (hk : k.g = g)
    {d : VRegNo} (hb : c.boundTo d = none) (f : Nat → Lane × FpFlags) :
    Emptied g T (.v d :: W) (c.setVF d f) (k.setVF d f) := by
  subst hc
  have hact : k.slot.isActive = c.slot.isActive := by
    rw [Ctx.slot, hk]; exact e.of_core (·.isActive) fun _ => rfl
  have hbind (x : FpFlags) : (c.raise x).boundTo d = c.boundTo d := by
    have hs : (c.raise x).slot = { c.slot with fpFlags := c.slot.fpFlags ||| x } := State.slotAt_mapSlot_same e.home _
    rw [Ctx.boundTo, hs]; rfl
  have raised (x : FpFlags) : Emptied c.g T W (c.raise x).s (k.raise x).s := by
    simp only [Ctx.raise, Ctx.mapSlot, hk]
    exact e.mapSlot_same (fun _ _ => rfl) ⟨fun _ => rfl, fun _ => rfl⟩
  unfold Ctx.setVF
  rw [hact]
  exact (raised _).setV rfl hk ((hbind _).trans hb) _

/-- Under its TAKE the instruction does what it does without. -/
def RunsAlike (o : Opnds) (i : Instr) : Prop :=
  ∀ s, ready (unprefixed s) o = true →
    ∃ v u, exec i (unprefixed s) = .next v ∧ exec i s = .next u ∧ EmptiesAlone s o v u

/-- An instruction whose body is done with what it writes. -/
theorem runsAlike_of {o : Opnds} {i : Instr} (ho : Takes o) {effect : Ctx → State}
    (he : ∀ s, exec i s = run s o fun c => .done (effect c))
    (hb : ∀ s, Twins s o →
      Emptied s.cur (takenRegs (s.slotAt s.cur) o) o.dsts (effect (plainCtx s)) (effect (takingCtx s o))) : RunsAlike o i :=
  fun s h =>
    ⟨_, _, (he _).trans (run_unprefixed h _), (he _).trans (run_taking ho h _), emptiesAlone_done (hb s ⟨ho, h⟩)⟩

/-! ## Instructions of scalar registers -/

theorem takes_sss (d a b : SReg) : Takes (Opnds.sss d a b) := by constructor <;> simp [Opnds.sss]
theorem takes_ss (d a : SReg) : Takes (Opnds.ss d a) := by constructor <;> simp [Opnds.ss]
theorem takes_vvv (d a b : VRegNo) : Takes (Opnds.vvv d a b) := by constructor <;> simp [Opnds.vvv]
theorem takes_vvs (d a : VRegNo) (b : SReg) : Takes (Opnds.vvs d a b) := by constructor <;> simp [Opnds.vvs]
theorem takes_vv (d a : VRegNo) : Takes (Opnds.vv d a) := by constructor <;> simp [Opnds.vv]

theorem runsAlike_scalar3 {d a b : SReg} {i : Instr} (h : ∃ f, ∀ s, exec i s = scalar3 d a b f s) :
    RunsAlike (Opnds.sss d a b) i := by
  obtain ⟨f, he⟩ := h
  refine runsAlike_of (takes_sss d a b) he fun s t => ?_
  rw [t.sreg, t.sreg]
  exact t.setS d _

theorem runsAlike_scalar2 {d a : SReg} {i : Instr} (h : ∃ f, ∀ s, exec i s = scalar2 d a f s) :
    RunsAlike (Opnds.ss d a) i := by
  obtain ⟨f, he⟩ := h
  refine runsAlike_of (takes_ss d a) he fun s t => ?_
  rw [t.sreg]
  exact t.setS d _

theorem runsAlike_scalarDiv {d a b : SReg} {i : Instr} (h : ∃ f, ∀ s, exec i s = scalarDiv d a b f s) :
    RunsAlike (Opnds.sss d a b) i := by
  obtain ⟨f, he⟩ := h
  refine runsAlike_of (takes_sss d a b) he fun s t => ?_
  rw [t.sreg, t.sreg]
  refine Emptied.setS (a := (plainCtx s).s.mapSlot s.cur _) (b := (takingCtx s _).s.mapSlot s.cur _) ?_ d _
  exact t.start.mapSlot_same (fun _ _ => rfl) ⟨fun _ => rfl, fun _ => rfl⟩

/-! ## Instructions that act lane by lane -/

/-- A vector destination is written from what the body reads. -/
theorem runsAlike_setV {d : VRegNo} {o : Opnds} {i : Instr} (ho : Takes o) (hd : o.dsts = [.v d]) {f : Ctx → Nat → Lane}
    (he : ∀ s, exec i s = run s o fun c => .done (c.setV d (f c)))
    (hf : ∀ s, Twins s o → f (takingCtx s o) = f (plainCtx s)) : RunsAlike o i := by
  refine runsAlike_of ho he fun s t => ?_
  rw [hf s t, hd]
  exact t.start.setV rfl rfl (t.unbound (by simp [hd])) _

theorem runsAlike_setVF {d : VRegNo} {o : Opnds} {i : Instr} (ho : Takes o) (hd : o.dsts = [.v d])
    {f : Ctx → Nat → Lane × FpFlags} (he : ∀ s, exec i s = run s o fun c => .done (c.setVF d (f c)))
    (hf : ∀ s, Twins s o → f (takingCtx s o) = f (plainCtx s)) : RunsAlike o i := by
  refine runsAlike_of ho he fun s t => ?_
  rw [hf s t, hd]
  exact t.start.setVF rfl rfl (t.unbound (by simp [hd])) _

theorem Twins.rm {s : State} {o : Opnds} (t : Twins s o) : (takingCtx s o).rm = (plainCtx s).rm :=
  t.slot (fun t => Rm.ofMode t.rm) fun _ => rfl

theorem runsAlike_lanes3 {d a b : VRegNo} {i : Instr} (h : ∃ f, ∀ s, exec i s = lanes3 d a b f s) :
    RunsAlike (Opnds.vvv d a b) i := by
  obtain ⟨f, he⟩ := h
  exact runsAlike_setV (takes_vvv d a b) rfl he fun s t => by simp only [t.vreg]

theorem runsAlike_fpLanes3 {d a b : VRegNo} {i : Instr} (h : ∃ f, ∀ s, exec i s = fpLanes3 d a b f s) :
    RunsAlike (Opnds.vvv d a b) i := by
  obtain ⟨f, he⟩ := h
  exact runsAlike_setVF (takes_vvv d a b) rfl he fun s t => by simp only [t.vreg, t.rm]

theorem runsAlike_lanesS {d a : VRegNo} {b : SReg} {i : Instr} (h : ∃ f, ∀ s, exec i s = lanesS d a b f s) :
    RunsAlike (Opnds.vvs d a b) i := by
  obtain ⟨f, he⟩ := h
  exact runsAlike_setV (takes_vvs d a b) rfl he fun s t => by simp only [t.vreg, t.sreg]

theorem runsAlike_fpLanesS {d a : VRegNo} {b : SReg} {i : Instr} (h : ∃ f, ∀ s, exec i s = fpLanesS d a b f s) :
    RunsAlike (Opnds.vvs d a b) i := by
  obtain ⟨f, he⟩ := h
  exact runsAlike_setVF (takes_vvs d a b) rfl he fun s t => by simp only [t.vreg, t.sreg, t.rm]

theorem runsAlike_lanes2 {d a : VRegNo} {i : Instr} (h : ∃ f, ∀ s, exec i s = lanes2 d a f s) :
    RunsAlike (Opnds.vv d a) i := by
  obtain ⟨f, he⟩ := h
  exact runsAlike_setV (takes_vv d a) rfl he fun s t => by simp only [t.vreg]

theorem runsAlike_fpLanes2 {d a : VRegNo} {i : Instr} (h : ∃ f, ∀ s, exec i s = fpLanes2 d a f s) :
    RunsAlike (Opnds.vv d a) i := by
  obtain ⟨f, he⟩ := h
  exact runsAlike_setVF (takes_vv d a) rfl he fun s t => by simp only [t.vreg, t.rm]

/-! ## The lists of the claim -/

/-- What the first `n` of a list do, and what the others do. -/
theorem forall_split {P : Instr → Prop} (n : Nat) {l : List Instr} (h : ∀ i ∈ l.take n, P i) (h' : ∀ i ∈ l.drop n, P i) :
    ∀ i ∈ l, P i := fun i hi => by
  rw [← List.take_append_drop n l, List.mem_append] at hi
  exact hi.elim (h i) (h' i)

theorem scalarForms_scalar3 (d a b : SReg) :
    ∀ i ∈ (scalarForms d a b).take 25, ∃ f, ∀ s, exec i s = scalar3 d a b f s := by
  simp only [scalarForms, List.take, List.forall_mem_cons]
  exact ⟨
    ⟨_, exec_add d a b⟩, ⟨_, exec_sub d a b⟩, ⟨_, exec_and d a b⟩, ⟨_, exec_or d a b⟩, ⟨_, exec_xor d a b⟩,
    ⟨_, exec_andn d a b⟩, ⟨_, exec_shl d a b⟩, ⟨_, exec_shr d a b⟩, ⟨_, exec_sar d a b⟩, ⟨_, exec_ror d a b⟩,
    ⟨_, exec_mul d a b⟩, ⟨_, exec_mulh d a b⟩, ⟨_, exec_mulhu d a b⟩, ⟨_, exec_min d a b⟩, ⟨_, exec_max d a b⟩,
    ⟨_, exec_minu d a b⟩, ⟨_, exec_maxu d a b⟩, ⟨_, exec_seq d a b⟩, ⟨_, exec_sne d a b⟩, ⟨_, exec_slt d a b⟩,
    ⟨_, exec_sltu d a b⟩, ⟨_, exec_sle d a b⟩, ⟨_, exec_sleu d a b⟩, ⟨_, exec_addw d a b⟩, ⟨_, exec_subw d a b⟩,
    fun _ h => nomatch h⟩

theorem scalarForms_scalarDiv (d a b : SReg) :
    ∀ i ∈ (scalarForms d a b).drop 25, ∃ f, ∀ s, exec i s = scalarDiv d a b f s := by
  simp only [scalarForms, List.drop, List.forall_mem_cons]
  exact ⟨
    ⟨_, exec_div d a b⟩, ⟨_, exec_divu d a b⟩, ⟨_, exec_rem d a b⟩, ⟨_, exec_remu d a b⟩,
    fun _ h => nomatch h⟩

theorem laneForms_lanes3 (d a b : VRegNo) :
    ∀ i ∈ (laneForms d a b).take 45, ∃ f, ∀ s, exec i s = lanes3 d a b f s := by
  simp only [laneForms, List.take, List.forall_mem_cons]
  exact ⟨
    ⟨_, exec_vadd d a b⟩, ⟨_, exec_vsub d a b⟩, ⟨_, exec_vmul d a b⟩, ⟨_, exec_vmulh d a b⟩, ⟨_, exec_vmulhu d a b⟩,
    ⟨_, exec_vand d a b⟩, ⟨_, exec_vor d a b⟩, ⟨_, exec_vxor d a b⟩, ⟨_, exec_vandn d a b⟩, ⟨_, exec_vshl d a b⟩,
    ⟨_, exec_vshr d a b⟩, ⟨_, exec_vsar d a b⟩, ⟨_, exec_vmin d a b⟩, ⟨_, exec_vmax d a b⟩, ⟨_, exec_vminu d a b⟩,
    ⟨_, exec_vmaxu d a b⟩, ⟨_, exec_vseq d a b⟩, ⟨_, exec_vsne d a b⟩, ⟨_, exec_vslt d a b⟩, ⟨_, exec_vsltu d a b⟩,
    ⟨_, exec_vsle d a b⟩, ⟨_, exec_vsleu d a b⟩, ⟨_, exec_vaddsat d a b⟩, ⟨_, exec_vsubsat d a b⟩, ⟨_, exec_vaddsatu d a b⟩,
    ⟨_, exec_vsubsatu d a b⟩, ⟨_, exec_vdot4 d a b⟩, ⟨_, exec_vdot4u d a b⟩, ⟨_, exec_vaddH d a b⟩, ⟨_, exec_vsubH d a b⟩,
    ⟨_, exec_vmulH d a b⟩, ⟨_, exec_vmulhH d a b⟩, ⟨_, exec_vminH d a b⟩, ⟨_, exec_vmaxH d a b⟩, ⟨_, exec_vminuH d a b⟩,
    ⟨_, exec_vmaxuH d a b⟩, ⟨_, exec_vaddsatH d a b⟩, ⟨_, exec_vsubsatH d a b⟩, ⟨_, exec_vaddsatuH d a b⟩,
    ⟨_, exec_vsubsatuH d a b⟩, ⟨_, exec_vseqH d a b⟩, ⟨_, exec_vsltH d a b⟩, ⟨_, exec_vshlH d a b⟩, ⟨_, exec_vshrH d a b⟩,
    ⟨_, exec_vsarH d a b⟩,
    fun _ h => nomatch h⟩

theorem laneForms_fpLanes3 (d a b : VRegNo) :
    ∀ i ∈ ((laneForms d a b).drop 45).take 13, ∃ f, ∀ s, exec i s = fpLanes3 d a b f s := by
  simp only [laneForms, List.take, List.drop, List.forall_mem_cons]
  exact ⟨
    ⟨_, exec_vfadd d a b⟩, ⟨_, exec_vfsub d a b⟩, ⟨_, exec_vfmul d a b⟩, ⟨_, exec_vfdiv d a b⟩, ⟨_, exec_vfmin d a b⟩,
    ⟨_, exec_vfmax d a b⟩, ⟨_, exec_vfminnum d a b⟩, ⟨_, exec_vfmaxnum d a b⟩, ⟨_, exec_vfceq d a b⟩, ⟨_, exec_vfclt d a b⟩,
    ⟨_, exec_vfcle d a b⟩, ⟨_, exec_vfcun d a b⟩, ⟨_, exec_vfcopysign d a b⟩,
    fun _ h => nomatch h⟩

theorem laneForms_fpHalves (d a b : VRegNo) :
    ∀ i ∈ ((laneForms d a b).drop 45).drop 13, ∃ f, ∀ s, exec i s = fpHalves d a b f s := by
  simp only [laneForms, List.drop, List.forall_mem_cons]
  exact ⟨
    ⟨_, exec_vhadd d a b⟩, ⟨_, exec_vhsub d a b⟩, ⟨_, exec_vhmul d a b⟩, ⟨_, exec_vhmin d a b⟩, ⟨_, exec_vhmax d a b⟩,
    ⟨_, exec_vhceq d a b⟩, ⟨_, exec_vhclt d a b⟩, ⟨_, exec_vhcle d a b⟩, ⟨_, exec_vhcun d a b⟩, ⟨_, exec_vhaddBf d a b⟩,
    ⟨_, exec_vhsubBf d a b⟩, ⟨_, exec_vhmulBf d a b⟩, ⟨_, exec_vhminBf d a b⟩, ⟨_, exec_vhmaxBf d a b⟩,
    ⟨_, exec_vhceqBf d a b⟩, ⟨_, exec_vhcltBf d a b⟩, ⟨_, exec_vhcleBf d a b⟩, ⟨_, exec_vhcunBf d a b⟩,
    fun _ h => nomatch h⟩

theorem laneScalarForms_lanesS (d a : VRegNo) (b : SReg) :
    ∀ i ∈ (laneScalarForms d a b).take 28, ∃ f, ∀ s, exec i s = lanesS d a b f s := by
  simp only [laneScalarForms, List.take, List.forall_mem_cons]
  exact ⟨
    ⟨_, exec_vaddScalar d a b⟩, ⟨_, exec_vsubScalar d a b⟩, ⟨_, exec_vmulScalar d a b⟩, ⟨_, exec_vmulhScalar d a b⟩,
    ⟨_, exec_vmulhuScalar d a b⟩, ⟨_, exec_vandScalar d a b⟩, ⟨_, exec_vorScalar d a b⟩, ⟨_, exec_vxorScalar d a b⟩,
    ⟨_, exec_vandnScalar d a b⟩, ⟨_, exec_vshlScalar d a b⟩, ⟨_, exec_vshrScalar d a b⟩, ⟨_, exec_vsarScalar d a b⟩,
    ⟨_, exec_vminScalar d a b⟩, ⟨_, exec_vmaxScalar d a b⟩, ⟨_, exec_vminuScalar d a b⟩, ⟨_, exec_vmaxuScalar d a b⟩,
    ⟨_, exec_vseqScalar d a b⟩, ⟨_, exec_vsneScalar d a b⟩, ⟨_, exec_vsltScalar d a b⟩, ⟨_, exec_vsltuScalar d a b⟩,
    ⟨_, exec_vsleScalar d a b⟩, ⟨_, exec_vsleuScalar d a b⟩, ⟨_, exec_vaddsatScalar d a b⟩, ⟨_, exec_vsubsatScalar d a b⟩,
    ⟨_, exec_vaddsatuScalar d a b⟩, ⟨_, exec_vsubsatuScalar d a b⟩, ⟨_, exec_vdot4Scalar d a b⟩,
    ⟨_, exec_vdot4uScalar d a b⟩,
    fun _ h => nomatch h⟩

theorem laneScalarForms_fpLanesS (d a : VRegNo) (b : SReg) :
    ∀ i ∈ (laneScalarForms d a b).drop 28, ∃ f, ∀ s, exec i s = fpLanesS d a b f s := by
  simp only [laneScalarForms, List.drop, List.forall_mem_cons]
  exact ⟨
    ⟨_, exec_vfaddScalar d a b⟩, ⟨_, exec_vfsubScalar d a b⟩, ⟨_, exec_vfmulScalar d a b⟩, ⟨_, exec_vfdivScalar d a b⟩,
    ⟨_, exec_vfminScalar d a b⟩, ⟨_, exec_vfmaxScalar d a b⟩, ⟨_, exec_vfminnumScalar d a b⟩,
    ⟨_, exec_vfmaxnumScalar d a b⟩, ⟨_, exec_vfceqScalar d a b⟩, ⟨_, exec_vfcltScalar d a b⟩, ⟨_, exec_vfcleScalar d a b⟩,
    ⟨_, exec_vfcunScalar d a b⟩, ⟨_, exec_vfcopysignScalar d a b⟩,
    fun _ h => nomatch h⟩

theorem laneUnaryForms_lanes2 (d a : VRegNo) :
    ∀ i ∈ (laneUnaryForms d a).take 5, ∃ f, ∀ s, exec i s = lanes2 d a f s := by
  simp only [laneUnaryForms, List.take, List.forall_mem_cons]
  exact ⟨
    ⟨_, exec_vabs d a⟩, ⟨_, exec_vneg d a⟩, ⟨_, exec_vclz d a⟩, ⟨_, exec_vpopc d a⟩, ⟨_, exec_vabsH d a⟩,
    fun _ h => nomatch h⟩

theorem laneUnaryForms_fpLanes2 (d a : VRegNo) :
    ∀ i ∈ (laneUnaryForms d a).drop 5, ∃ f, ∀ s, exec i s = fpLanes2 d a f s := by
  simp only [laneUnaryForms, List.drop, List.forall_mem_cons]
  exact ⟨
    ⟨_, exec_vfabs d a⟩, ⟨_, exec_vfneg d a⟩, ⟨_, exec_vfsqrt d a⟩, ⟨_, exec_vfrcp d a⟩, ⟨_, exec_vfrsq d a⟩,
    ⟨_, exec_vfexp2 d a⟩, ⟨_, exec_vflog2 d a⟩, ⟨_, exec_vfrint d a⟩, ⟨_, exec_vfclass d a⟩,
    fun _ h => nomatch h⟩

theorem scalarUnaryForms_bits (d a : SReg) (k : BitVec 12) (n : BitVec 6) :
    ∀ i ∈ (scalarUnaryForms d a k n).take 3, ∃ f, ∀ s, exec i s = scalar2 d a f s := by
  simp only [scalarUnaryForms, List.take, List.forall_mem_cons]
  exact ⟨
    ⟨_, exec_clz d a⟩, ⟨_, exec_popc d a⟩, ⟨_, exec_brev d a⟩,
    fun _ h => nomatch h⟩

theorem scalarUnaryForms_scalarImm (d a : SReg) (k : BitVec 12) (n : BitVec 6) :
    ∀ i ∈ ((scalarUnaryForms d a k n).drop 3).take 6, ∃ f, ∀ s, exec i s = scalarImm d a k f s := by
  simp only [scalarUnaryForms, List.take, List.drop, List.forall_mem_cons]
  exact ⟨
    ⟨_, exec_addi d a k⟩, ⟨_, exec_andi d a k⟩, ⟨_, exec_ori d a k⟩, ⟨_, exec_xori d a k⟩, ⟨_, exec_slti d a k⟩,
    ⟨_, exec_sltiu d a k⟩,
    fun _ h => nomatch h⟩

theorem scalarUnaryForms_shifts (d a : SReg) (k : BitVec 12) (n : BitVec 6) :
    ∀ i ∈ ((scalarUnaryForms d a k n).drop 3).drop 6, ∃ f, ∀ s, exec i s = scalar2 d a f s := by
  simp only [scalarUnaryForms, List.drop, List.forall_mem_cons]
  exact ⟨
    ⟨_, exec_shli d a n⟩, ⟨_, exec_shri d a n⟩, ⟨_, exec_sari d a n⟩, ⟨_, exec_rori d a n⟩,
    fun _ h => nomatch h⟩

theorem runsAlike_scalarImm {d a : SReg} {k : BitVec 12} {i : Instr} (h : ∃ f, ∀ s, exec i s = scalarImm d a k f s) :
    RunsAlike (Opnds.ss d a) i :=
  let ⟨_, he⟩ := h
  runsAlike_scalar2 ⟨_, he⟩

theorem runsAlike_fpHalves {d a b : VRegNo} {i : Instr} (h : ∃ f, ∀ s, exec i s = fpHalves d a b f s) :
    RunsAlike (Opnds.vvv d a b) i :=
  let ⟨_, he⟩ := h
  runsAlike_fpLanes3 ⟨_, he⟩

theorem runsAlike_scalarForms (d a b : SReg) : ∀ i ∈ scalarForms d a b, RunsAlike (Opnds.sss d a b) i :=
  forall_split 25 (fun i hi => runsAlike_scalar3 (scalarForms_scalar3 d a b i hi))
    fun i hi => runsAlike_scalarDiv (scalarForms_scalarDiv d a b i hi)

theorem runsAlike_scalarUnaryForms (d a : SReg) (k : BitVec 12) (n : BitVec 6) :
    ∀ i ∈ scalarUnaryForms d a k n, RunsAlike (Opnds.ss d a) i :=
  forall_split 3 (fun i hi => runsAlike_scalar2 (scalarUnaryForms_bits d a k n i hi)) <|
    forall_split 6 (fun i hi => runsAlike_scalarImm (scalarUnaryForms_scalarImm d a k n i hi))
      fun i hi => runsAlike_scalar2 (scalarUnaryForms_shifts d a k n i hi)

theorem runsAlike_laneForms (d a b : VRegNo) : ∀ i ∈ laneForms d a b, RunsAlike (Opnds.vvv d a b) i :=
  forall_split 45 (fun i hi => runsAlike_lanes3 (laneForms_lanes3 d a b i hi)) <|
    forall_split 13 (fun i hi => runsAlike_fpLanes3 (laneForms_fpLanes3 d a b i hi))
      fun i hi => runsAlike_fpHalves (laneForms_fpHalves d a b i hi)

theorem runsAlike_laneScalarForms (d a : VRegNo) (b : SReg) :
    ∀ i ∈ laneScalarForms d a b, RunsAlike (Opnds.vvs d a b) i :=
  forall_split 28 (fun i hi => runsAlike_lanesS (laneScalarForms_lanesS d a b i hi))
    fun i hi => runsAlike_fpLanesS (laneScalarForms_fpLanesS d a b i hi)

theorem runsAlike_laneUnaryForms (d a : VRegNo) : ∀ i ∈ laneUnaryForms d a, RunsAlike (Opnds.vv d a) i :=
  forall_split 5 (fun i hi => runsAlike_lanes2 (laneUnaryForms_lanes2 d a i hi))
    fun i hi => runsAlike_fpLanes2 (laneUnaryForms_fpLanes2 d a i hi)

end Sys2Proof.Machine

/-! ADD under a TAKE (R66, R67, R126, R127). -/

namespace Sys2Proof.Machine

open Sys2Proof.Claims

/-- ADD of full, sound registers whose destination is not pending is ready but for its TAKE. -/
theorem ready_add {s : State} {d a b : SReg} (hp : s.hasPkg s.cur.pkg = true) (ha : (here s).fe (.s a) = .full)
    (hb : (here s).fe (.s b) = .full) (hd : (here s).fe (.s d) ≠ .pending) (hxa : (here s).sPoison.has a.toNat = false)
    (hxb : (here s).sPoison.has b.toNat = false) : ready (unprefixed s) (Opnds.sss d a b) = true := by
  have hx (q : SReg) (h : (here s).sPoison.has q.toNat = false) :
      regPoison (unprefixed s) s.cur (Opnds.sss d a b) (.s q) = none :=
    (regPoison_unprefixed hp _ _).trans (regPoison_scalar_none h)
  rw [ready_iff, cur_unprefixed, slotAt_unprefixed hp, hasPkg_unprefixed]
  refine ⟨hp, rfl, rfl, by simp [Opnds.sss], forall_pair ha hb, forall_one hd, fun r hr => ?_, fun r hr => ?_, rfl⟩
  · cases r with
    | s q => rfl
    | v q => simp [Opnds.sss] at hr
  · simp only [Opnds.sss, List.mem_cons, List.not_mem_nil, or_false] at hr
    obtain rfl | rfl := hr
    exacts [hx a hxa, hx b hxb]

/-- The registers that a TAKE of ADD empties. -/
theorem mem_takenRegs_sss {t : Slot} {d a b : SReg} {ta tb : Bool} (h : t.take = some (ta, tb)) (q : RegRef) :
    q ∈ takenRegs t (Opnds.sss d a b) ↔ q ≠ .s 0 ∧ ((ta = true ∧ q = .s a) ∨ (tb = true ∧ q = .s b)) := by
  simp only [takenRegs_eq, latched, h, List.mem_filter, List.mem_append, Opnds.sss, Option.toList, bne_iff_ne]
  cases ta <;> cases tb <;> simp [and_comm]

/-- The state that ADD leaves under its TAKE, but for the slot's course. -/
def added (s : State) (d a b : SReg) : State :=
  (takingCtx s (Opnds.sss d a b)).setS d ((here s).sreg a + (here s).sreg b)

section
variable {s : State} {d a b : SReg}

theorem takingCtx_slot (hp : s.hasPkg s.cur.pkg = true) (o : Opnds) :
    (takingCtx s o).slot = { (here s).emptied (takenRegs (here s) o) with lastOp := none } :=
  State.slotAt_mapSlot_same hp _

theorem slotAt_added (hp : s.hasPkg s.cur.pkg = true) : (added s d a b).slotAt s.cur =
    ({ (here s).emptied (takenRegs (here s) (Opnds.sss d a b)) with lastOp := none } : Slot).putS d
      ((here s).sreg a + (here s).sreg b) := by
  rw [← takingCtx_slot hp]
  exact State.slotAt_mapSlot_same ((State.hasPkg_mapSlot _ _ _ _).trans hp) _

/-- Memory is as before once a slot has changed. -/
theorem sameMemory_mapSlot (s : State) (g : GRef) (f : Slot → Slot) : SameMemory s (s.mapSlot g f) :=
  ⟨fun _ => ⟨State.pkgAt_mapSlot_keeps (·.hbm) (fun _ _ => rfl) _ _ _ _, State.pkgAt_mapSlot_keeps (·.ddr) (fun _ _ => rfl) _ _ _ _⟩,
    fun _ _ => ⟨State.cellAt_mapSlot_keeps (·.spad) (fun _ _ => rfl) _ _ _ _ _,
      State.cellAt_mapSlot_keeps (·.bstore) (fun _ _ => rfl) _ _ _ _ _,
      State.cellAt_mapSlot_keeps (·.opbuf) (fun _ _ => rfl) _ _ _ _ _⟩⟩

theorem SameMemory.trans {s t u : State} (h : SameMemory s t) (k : SameMemory t u) : SameMemory s u :=
  ⟨fun p => ⟨(k.1 p).1.trans (h.1 p).1, (k.1 p).2.trans (h.1 p).2⟩,
    fun p c => ⟨(k.2 p c).1.trans (h.2 p c).1, (k.2 p c).2.1.trans (h.2 p c).2.1, (k.2 p c).2.2.trans (h.2 p c).2.2⟩⟩

theorem EndsAs.sameMemory {m : Slot → Slot} {g : GRef} {u v : State} (h : EndsAs m g u v) : SameMemory u v :=
  ⟨fun p => ⟨congrArg (·.hbm) (h.pkgs p).2, congrArg (·.ddr) (h.pkgs p).2⟩,
    fun p c => ⟨congrArg (·.spad) (h.cells p c), congrArg (·.bstore) (h.cells p c), congrArg (·.opbuf) (h.cells p c)⟩⟩

theorem EndsAs.vregAt {g : GRef} {u v : State} (h : EndsAs id g u v) (q : VRegNo) : v.vregAt g q = u.vregAt g q := by
  have hv : (v.cellAt g.pkg g.cell).vregs = (u.cellAt g.pkg g.cell).vregs := congrArg (·.vregs) (h.cells _ _)
  have hq : (v.slotAt g).phys q = (u.slotAt g).phys q := congrArg (·.phys q) h.slot
  rw [State.vregAt, hv, hq, State.vregAt]

theorem vregAt_added (q : VRegNo) : (added s d a b).vregAt s.cur q = s.vregAt s.cur q := by
  rw [added, Ctx.setS, State.vregAt_setS]
  refine State.vregAt_mapSlot (fun t q => ?_) s s.cur s.cur q
  have h : (t.emptied (takenRegs t (Opnds.sss d a b))).core.phys q = t.core.phys q := by rw [Slot.core_emptied]
  exact h

/-- Behind a prefixed word comes the one after it, where the clause has it. -/
theorem nextPlace_taken {ta tb : Bool} (ht : (here s).take = some (ta, tb)) (hpub : (here s).pendingPub = none)
    (hpos : (here s).pos + 2 ≤ (here s).clauseLen) :
    s.nextPlace s.cur 1 = ((here s).head, (here s).pos + 2, (here s).loops) := by
  have hw : (here s).width 1 = 2 := by simp [Slot.width, ht]
  simp only [State.nextPlace, hpub, hw]
  exact if_pos hpos

end

theorem synchronisedReads : SynchronisedReads := by
  intro s d a b ta tb hp t ha hb hd hxa hxb ht
  have hready := ready_add hp ha hb hd hxa hxb
  have hsreg (r : SReg) : (takingCtx s (Opnds.sss d a b)).sreg r = t.sreg r := by
    rw [Ctx.sreg, takingCtx_slot hp]
    exact congrArg (·.sreg r) (t.core_emptied (takenRegs t (Opnds.sss d a b)))
  have hexec : exec (.add d a b) s = .next (conclude s s.cur (Opnds.sss d a b) (.done (added s d a b))) := by
    rw [run_add, run_taking (takes_sss d a b) hready, hsreg, hsreg]; rfl
  have hpa : (added s d a b).hasPkg s.cur.pkg = true :=
    (State.hasPkg_mapSlot _ _ _ _).trans ((State.hasPkg_mapSlot _ _ _ _).trans hp)
  have hend : EndsAs id s.cur (added s d a b) (conclude s s.cur (Opnds.sss d a b) (.done (added s d a b))) :=
    EndsAs.of_still hpa (fun t => Slot.bare_goTo t _) (still_done _ _ _ _)
  have hquiet := (still_done s (added s d a b) s.cur (Opnds.sss d a b)).2.2.1 s.cur
  rw [State.slotAt_mapSlot_same hpa] at hquiet
  have hplace : ((conclude s s.cur (Opnds.sss d a b) (.done (added s d a b))).slotAt s.cur).place = s.nextPlace s.cur 1 :=
    (Slot.place_quiet hquiet).trans (Slot.place_goTo _ _)
  have hfe (q : RegRef) : ((conclude s s.cur (Opnds.sss d a b) (.done (added s d a b))).slotAt s.cur).fe q =
      if q = .s d then .full else if q ∈ takenRegs t (Opnds.sss d a b) then .taken else t.fe q := by
    rw [← Slot.fe_emptied t (not_zero_takenRegs t _)]
    refine (congrArg (·.fe q) hend.slot).trans ?_
    rw [slotAt_added hp]
    exact Slot.fe_putS _ _ _ _
  refine ⟨_, hexec, fun q => ?_, fun q => ?_, fun q => ?_, fun q => (hend.vregAt q).trans (vregAt_added q), ?_, hplace,
    fun hpub hpos => hplace.trans (nextPlace_taken ht hpub hpos), ?_⟩
  · refine (congrArg (·.sreg q) hend.slot).trans ?_
    rw [slotAt_added hp]
    have hkept : ({ t.emptied (takenRegs t (Opnds.sss d a b)) with lastOp := none } : Slot).sreg q = t.sreg q :=
      congrArg (·.sreg q) (t.core_emptied (takenRegs t (Opnds.sss d a b)))
    exact (Slot.sreg_putS _ d q _).trans (by rw [hkept])
  · rw [hfe]
    simp only [mem_takenRegs_sss ht, RegRef.s.injEq, ne_eq]
    by_cases h0 : q = 0
    · subst h0
      have hz : t.fe (.s 0) = .full := t.fe_zero
      rw [if_neg (c := ¬(0 : SReg) = 0 ∧ _) (fun h => h.1 rfl), hz, ite_self, if_pos (.inr rfl)]
    · simp only [h0, or_false, not_false_eq_true, true_and]
  · rw [hfe]
    simp only [mem_takenRegs_sss ht, reduceCtorEq, and_false, or_false, if_false]
  · exact (congrArg (·.take) hquiet).trans (Slot.take_goTo _ _)
  · exact ((sameMemory_mapSlot _ _ _).trans (sameMemory_mapSlot _ _ _)).trans hend.sameMemory

end Sys2Proof.Machine

/-! The checks of addresses, translations and what they mend are the same in both runs (R165, R327 to R335, R352). -/

namespace Sys2Proof.Machine

open Sys2Proof.Claims

/-- Two states that have the same packages but for their cells, which are those of `a₀` and of `b₀`. -/
structure Level (a₀ b₀ a b : State) : Prop where
  left : a.cellAt = a₀.cellAt
  right : b.cellAt = b₀.cellAt
  home : a.hasPkg = a₀.hasPkg
  pkgs : ∀ p, b.hasPkg p = a.hasPkg p ∧ (b.pkgAt p).bare = (a.pkgAt p).bare
  rest : (b.cur, b.agenda, b.gone, b.free) = (a.cur, a.agenda, a.gone, a.free)
  keys : b.pkgs.map (·.1) = a.pkgs.map (·.1)

theorem Emptied.level {g : GRef} {T W : List RegRef} {a b : State} (e : Emptied g T W a b) : Level a b a b :=
  ⟨rfl, rfl, rfl, e.pkgs, e.rest, e.keys⟩

/-- What is side by side stays so as long as cells stay. -/
theorem Level.emptied {g : GRef} {T W : List RegRef} {a₀ b₀ a b : State} (l : Level a₀ b₀ a b) (e : Emptied g T W a₀ b₀) :
    Emptied g T W a b := by
  have ha (h : GRef) : a.slotAt h = a₀.slotAt h := by rw [State.slotAt, l.left, State.slotAt]
  have hb (h : GRef) : b.slotAt h = b₀.slotAt h := by rw [State.slotAt, l.right, State.slotAt]
  refine ⟨?_, ?_, ?_, ?_, l.pkgs, ?_, ?_, l.rest, l.keys⟩
  · rw [l.home]; exact e.home
  · rw [ha, hb]; exact e.fe
  · rw [ha, hb]; exact e.core
  · rw [ha, hb]; exact e.ops
  · rw [l.left, l.right]; exact e.cells
  · intro h hne
    rw [ha, hb]; exact e.others h hne

/-! ## What they read -/

namespace Level
variable {a₀ b₀ a b : State}

theorem of_pkg (e : Level a₀ b₀ a b) {α : Sort _} (P : Pkg → α) (h : ∀ k : Pkg, P k.bare = P k) (p : PkgId) :
    P (b.pkgAt p) = P (a.pkgAt p) := by
  rw [← h, (e.pkgs p).2, h]

theorem hasPkg (e : Level a₀ b₀ a b) (p : PkgId) : b.hasPkg p = a.hasPkg p := (e.pkgs p).1
theorem fused (e : Level a₀ b₀ a b) (p : PkgId) : (b.pkgAt p).fused = (a.pkgAt p).fused := e.of_pkg (·.fused) (fun _ => rfl) p
theorem domain (e : Level a₀ b₀ a b) (p : PkgId) : (b.pkgAt p).domain = (a.pkgAt p).domain :=
  e.of_pkg (·.domain) (fun _ => rfl) p
theorem routes (e : Level a₀ b₀ a b) (p : PkgId) : (b.pkgAt p).routes = (a.pkgAt p).routes :=
  e.of_pkg (·.routes) (fun _ => rfl) p
theorem unreachable (e : Level a₀ b₀ a b) (p : PkgId) : (b.pkgAt p).unreachable = (a.pkgAt p).unreachable :=
  e.of_pkg (·.unreachable) (fun _ => rfl) p
theorem lost (e : Level a₀ b₀ a b) (p : PkgId) : (b.pkgAt p).lost = (a.pkgAt p).lost := e.of_pkg (·.lost) (fun _ => rfl) p
theorem prot (e : Level a₀ b₀ a b) (p : PkgId) : (b.pkgAt p).prot = (a.pkgAt p).prot := e.of_pkg (·.prot) (fun _ => rfl) p
theorem hbmPoison (e : Level a₀ b₀ a b) (p : PkgId) : (b.pkgAt p).hbmPoison = (a.pkgAt p).hbmPoison :=
  e.of_pkg (·.hbmPoison) (fun _ => rfl) p
theorem deltas (e : Level a₀ b₀ a b) (p : PkgId) : (b.pkgAt p).deltas = (a.pkgAt p).deltas :=
  e.of_pkg (·.deltas) (fun _ => rfl) p
theorem forwards (e : Level a₀ b₀ a b) (p : PkgId) : (b.pkgAt p).forwards = (a.pkgAt p).forwards :=
  e.of_pkg (·.forwards) (fun _ => rfl) p
theorem protPoisoned (e : Level a₀ b₀ a b) (p : PkgId) (n s : Nat) :
    (b.pkgAt p).protPoisoned n s = (a.pkgAt p).protPoisoned n s := e.of_pkg (·.protPoisoned n s) (fun _ => rfl) p
theorem protSector (e : Level a₀ b₀ a b) (p : PkgId) (n s : Nat) :
    (b.pkgAt p).protSector n s = (a.pkgAt p).protSector n s := e.of_pkg (·.protSector n s) (fun _ => rfl) p
theorem tag (e : Level a₀ b₀ a b) (p : PkgId) (n s : Nat) : (b.pkgAt p).tag n s = (a.pkgAt p).tag n s :=
  e.of_pkg (·.tag n s) (fun _ => rfl) p

theorem reaches (e : Level a₀ b₀ a b) (p q : PkgId) : b.reaches p q = a.reaches p q := by
  simp only [State.reaches, e.hasPkg, e.fused, e.domain, e.routes, e.unreachable]

theorem shut (e : Level a₀ b₀ a b) (p q : PkgId) : b.shut p q = a.shut p q := by
  simp only [State.shut, e.reaches, e.lost]

theorem leads (e : Level a₀ b₀ a b) (q : PkgId) (n : Nat) (p : PkgId) : b.leads q n p = a.leads q n p := by
  induction n generalizing p with
  | zero => rfl
  | succ n ih =>
    have hc (x) : (b.pkgAt p).carries x = (a.pkgAt p).carries x := e.of_pkg (·.carries x) (fun _ => rfl) p
    have hp (x) : (b.pkgAt p).peerOf x = (a.pkgAt p).peerOf x := e.of_pkg (·.peerOf x) (fun _ => rfl) p
    simp only [State.leads, e.routes, e.fused, e.hasPkg, hc, hp, ih]

theorem linked (e : Level a₀ b₀ a b) (p q : PkgId) : b.linked p q = a.linked p q := by
  have hl : b.pkgs.length = a.pkgs.length := by simpa using congrArg List.length e.keys
  simp only [State.linked, e.leads, hl]

theorem answers (e : Level a₀ b₀ a b) (p q : PkgId) : b.answers p q = a.answers p q := by
  simp only [State.answers, e.reaches, e.linked]

theorem protRead (e : Level a₀ b₀ a b) (c : PkgId) (k : ProtGroup) (m n sec : Nat) :
    b.protRead c k m n sec = a.protRead c k m n sec := by
  simp only [State.protRead, e.hasPkg, e.answers, e.prot, e.protPoisoned, e.protSector]

theorem mayRead (e : Level a₀ b₀ a b) (k : ProtGroup) (n sec m : Nat) : b.mayRead k n sec m = a.mayRead k n sec m := by
  simp only [State.mayRead, e.hasPkg, e.protPoisoned]

theorem solvable (e : Level a₀ b₀ a b) (k : ProtGroup) (n sec : Nat) : b.solvable k n sec = a.solvable k n sec := by
  unfold State.solvable
  simp only [e.mayRead]

theorem solveData (e : Level a₀ b₀ a b) (c : PkgId) (k : ProtGroup) (n sec : Nat) (l : List Nat) :
    solveData b c k n sec l = solveData a c k n sec l := by
  unfold Machine.solveData
  simp only [e.protRead]

theorem unreadable (e : Level a₀ b₀ a b) (c : PkgId) (k : ProtGroup) (n sec : Nat) :
    unreadable b c k n sec = unreadable a c k n sec := by
  simp only [Machine.unreadable, e.protRead]

theorem canReconstruct (e : Level a₀ b₀ a b) (p : PkgId) (x : Nat) : b.canReconstruct p x = a.canReconstruct p x := by
  have hm (k n sec) : b.mayRead k n sec = a.mayRead k n sec := funext (e.mayRead k n sec)
  simp only [State.canReconstruct, e.hbmPoison, e.prot, e.solvable, hm]

theorem tagBit (e : Level a₀ b₀ a b) (k : ProtGroup) (m n sec i : Nat) : b.tagBit k m n sec i = a.tagBit k m n sec i := by
  simp only [State.tagBit, e.tag]

theorem phases (e : Level a₀ b₀ a b) (k : ProtGroup) (n sec : Nat) : b.phases k n sec = a.phases k n sec := by
  simp only [State.phases, e.tagBit]

theorem paritySum (e : Level a₀ b₀ a b) (k : ProtGroup) (n sec : Nat) (q : Bool) :
    b.paritySum k n sec q = a.paritySum k n sec q := by
  simp only [State.paritySum, e.protSector]

theorem solver (e : Level a₀ b₀ a b) (k : ProtGroup) (n sec : Nat) : b.solver k n sec = a.solver k n sec := by
  simp only [State.solver, e.mayRead, e.hasPkg]

theorem coordinator (e : Level a₀ b₀ a b) (p : PkgId) (x : Nat) : b.coordinator p x = a.coordinator p x := by
  simp only [State.coordinator, e.prot, e.solver]

theorem helpers (e : Level a₀ b₀ a b) (k : ProtGroup) (n sec me : Nat) : b.helpers k n sec me = a.helpers k n sec me := by
  simp only [State.helpers, e.mayRead, e.solver]

theorem stripeStill (e : Level a₀ b₀ a b) (k : ProtGroup) (n sec me : Nat) :
    b.stripeStill k n sec me = a.stripeStill k n sec me := by
  unfold State.stripeStill
  simp only [e.deltas]

theorem reconstructs (e : Level a₀ b₀ a b) (p : PkgId) (x : Nat) : b.reconstructs p x = a.reconstructs p x := by
  simp only [State.reconstructs, e.prot, e.coordinator, e.canReconstruct, e.stripeStill, e.answers, e.helpers, e.protRead]

theorem holderUp (e : Level a₀ b₀ a b) (k : ProtGroup) (p : PkgId) (h : Nat) : b.holderUp k p h = a.holderUp k p h := by
  simp only [State.holderUp, e.prot, e.answers]

/-! ## What they change -/

/-- One change of a package in both, which leaves its cells alone. -/
theorem mapPkg (e : Level a₀ b₀ a b) (p : PkgId) {f : Pkg → Pkg} (hs : ∀ k, (f k).cells = k.cells)
    (hb : ∀ k, (f k).bare = (f k.bare).bare) : Level a₀ b₀ (a.mapPkg p f) (b.mapPkg p f) := by
  refine ⟨?_, ?_, ?_, fun q => ⟨?_, ?_⟩, by simpa using e.rest, State.keys_mapPkg e.keys (e.pkgs _).1 _ _⟩
  · rw [← e.left]
    exact funext fun q => funext fun c => State.cellAt_mapPkg_keeps hs _ _ _ _
  · rw [← e.right]
    exact funext fun q => funext fun c => State.cellAt_mapPkg_keeps hs _ _ _ _
  · rw [← e.home]
    exact funext fun q => State.hasPkg_mapPkg _ _ _ _
  · rw [State.hasPkg_mapPkg, State.hasPkg_mapPkg, (e.pkgs q).1]
  · rw [State.pkgAt_mapPkg, State.pkgAt_mapPkg, (e.pkgs p).1]
    split_ifs
    · rw [hb, (e.pkgs _).2, ← hb]
    · exact (e.pkgs q).2

/-- Steps that keep two states side by side do so in sequence. -/
theorem foldl {α : Type} {F : State → α → State} (hF : ∀ x {a b : State}, Level a₀ b₀ a b → Level a₀ b₀ (F a x) (F b x))
    (l : List α) {a b : State} (e : Level a₀ b₀ a b) : Level a₀ b₀ (l.foldl F a) (l.foldl F b) := by
  induction l generalizing a b with
  | nil => exact e
  | cons x l ih => exact ih (hF x e)

theorem reconstruct (e : Level a₀ b₀ a b) (p : PkgId) (x : Nat) : Level a₀ b₀ (reconstruct a p x) (reconstruct b p x) := by
  unfold Machine.reconstruct
  simp only [e.prot, e.coordinator, e.unreadable, e.solveData, e.tagBit, e.solver, e.paritySum, e.phases]
  split
  · split
    · exact e.mapPkg _ (fun _ => rfl) (fun _ => rfl)
    · exact e
  · split_ifs
    · exact e.mapPkg _ (fun _ => rfl) (fun _ => rfl)
    · exact e

theorem stageDelta (e : Level a₀ b₀ a b) (p : PkgId) (x : Nat) (t : DeltaStage) :
    Level a₀ b₀ (a.stageDelta p x t) (b.stageDelta p x t) := e.mapPkg _ (fun _ => rfl) (fun _ => rfl)

end Level

/-- Two answers, none or states side by side. -/
def LevelOption (a₀ b₀ : State) (u v : Option State) : Prop :=
  (u = none ∧ v = none) ∨ ∃ a b, u = some a ∧ v = some b ∧ Level a₀ b₀ a b

/-- A redundant sector that is sound, or has been mended where it can be, takes in what a delta holds. -/
def takeIn (s : State) (k : ProtGroup) (holder i n sec : Nat) (ph : Bool) (bytes : List Byte) : Option State :=
  if (s.pkgAt (k.member holder)).protPoisoned n sec then none
  else if ((s.pkgAt (k.member holder)).tag n sec).testBit i = ph then some s
  else some (s.mapPkg (k.member holder) fun x =>
    (x.putProtSector n sec (xorBytes (x.protSector n sec) (if k.role n holder = .q then gfScale (gfPow 2 i) bytes else bytes))).putTag
      n sec (putBit (x.tag n sec) i ph))

theorem applyDelta_eq (s : State) (k : ProtGroup) (holder i n sec : Nat) (ph : Bool) (bytes : List Byte) :
    applyDelta s k holder i n sec ph bytes =
      let h := k.member holder
      let x := ((s.pkgAt h).prot.base + 4096 * n + 32 * sec) / 32
      takeIn (if (s.pkgAt h).protPoisoned n sec && s.reconstructs h x then reconstruct s h x else s) k holder i n sec ph bytes :=
  rfl

namespace Level
variable {a₀ b₀ a b : State}

theorem takeIn (e : Level a₀ b₀ a b) (k : ProtGroup) (holder i n sec : Nat) (ph : Bool) (bytes : List Byte) :
    LevelOption a₀ b₀ (takeIn a k holder i n sec ph bytes) (takeIn b k holder i n sec ph bytes) := by
  simp only [Machine.takeIn, e.protPoisoned, e.tag]
  split_ifs
  · exact .inl ⟨rfl, rfl⟩
  · exact .inr ⟨_, _, rfl, rfl, e⟩
  all_goals exact .inr ⟨_, _, rfl, rfl, e.mapPkg _ (fun _ => rfl) (fun _ => rfl)⟩

theorem applyDelta (e : Level a₀ b₀ a b) (k : ProtGroup) (holder i n sec : Nat) (ph : Bool) (bytes : List Byte) :
    LevelOption a₀ b₀ (applyDelta a k holder i n sec ph bytes) (applyDelta b k holder i n sec ph bytes) := by
  rw [applyDelta_eq, applyDelta_eq]
  simp only [e.prot, e.protPoisoned, e.reconstructs]
  refine Level.takeIn ?_ _ _ _ _ _ _ _
  split_ifs
  · exact e.reconstruct _ _
  · exact e

theorem arriveAtP (e : Level a₀ b₀ a b) (p : PkgId) (d : Delta) : Level a₀ b₀ (arriveAtP a p d) (arriveAtP b p d) := by
  unfold Machine.arriveAtP
  simp only [e.prot, e.holderUp]
  obtain ⟨ha, hb⟩ | ⟨u, v, ha, hb, e'⟩ := e.applyDelta (a.pkgAt p).prot ((a.pkgAt p).prot.holderP d.frame) (a.pkgAt p).prot.me
      d.frame d.sector d.phase d.bytes <;> simp only [ha, hb] <;> split_ifs
  · exact e
  · exact e
  · exact (e'.stageDelta _ _ _).mapPkg _ (fun _ => rfl) (fun _ => rfl)
  · exact e'.stageDelta _ _ _
  · exact e

theorem arriveStraight (e : Level a₀ b₀ a b) (p : PkgId) (d : Delta) :
    Level a₀ b₀ (arriveStraight a p d) (arriveStraight b p d) := by
  unfold Machine.arriveStraight
  simp only [e.prot, e.holderUp]
  split
  · exact e
  · next h _ =>
    obtain ⟨ha, hb⟩ | ⟨u, v, ha, hb, e'⟩ := e.applyDelta (a.pkgAt p).prot h (a.pkgAt p).prot.me
        d.frame d.sector d.phase d.bytes <;> simp only [ha, hb] <;> split_ifs
    · exact e
    · exact e
    · exact e'.stageDelta _ _ _
    · exact e

theorem arriveAtQ (e : Level a₀ b₀ a b) (p : PkgId) (x : Forward) :
    Level a₀ b₀ (arriveAtQ a p x) (arriveAtQ b p x) := by
  unfold Machine.arriveAtQ
  simp only [e.prot, e.holderUp]
  split
  · exact e
  · next h _ =>
    obtain ⟨ha, hb⟩ | ⟨u, v, ha, hb, e'⟩ := e.applyDelta (a.pkgAt p).prot h x.index x.frame x.sector x.phase x.bytes <;>
      simp only [ha, hb] <;> split_ifs
    · exact e
    · exact e
    · exact (e'.stageDelta _ _ _).mapPkg _ (fun _ => rfl) (fun _ => rfl)
    · exact e

theorem driveStripe (e : Level a₀ b₀ a b) (k : ProtGroup) (n sec : Nat) :
    Level a₀ b₀ (driveStripe a k n sec) (driveStripe b k n sec) := by
  unfold Machine.driveStripe
  refine Level.foldl (fun p _ _ e' => ?_) _ (Level.foldl (fun p _ _ e' => ?_) _ e)
  · rw [e'.forwards]
    exact Level.foldl (fun d _ _ e'' => e''.arriveAtQ p d) _ e'
  · rw [e'.deltas]
    refine Level.foldl (fun d _ _ e'' => ?_) _ e'
    cases d.stage
    case toP => exact e''.arriveAtP p d
    case toQ => exact e''.arriveStraight p d
    all_goals exact e''

theorem mendSector (e : Level a₀ b₀ a b) (p : PkgId) (x : Nat) : Level a₀ b₀ (mendSector a p x) (mendSector b p x) := by
  have e' := e.driveStripe (a.pkgAt p).prot ((a.pkgAt p).prot.place x).1 ((a.pkgAt p).prot.place x).2
  simp only [Machine.mendSector, e.canReconstruct, e.prot, e'.reconstructs]
  split_ifs
  · exact e'.reconstruct p x
  · exact e'
  · exact e

theorem mended (e : Level a₀ b₀ a b) (p : PkgId) : Level a₀ b₀ (a.mended p) (b.mended p) := by
  unfold State.mended
  rw [e.hbmPoison]
  exact Level.foldl (fun x _ _ e' => e'.mendSector p x) _ e

end Level

end Sys2Proof.Machine

/-! Translations and the issue of an access are the same in both runs (R165, R327 to R335, R426). -/

namespace Sys2Proof.Machine

open Sys2Proof.Claims

/-! ## A walk reads the package beside its cells -/

section
variable (k : Pkg) (pid : BitVec 16)

theorem Walk.item_bare (q : Walk) (i : Nat) : q.item k.bare pid i = q.item k pid i := rfl

theorem Walk.entry_bare (q : Walk) (ddr : Bool) (lv x table : Nat) :
    q.entry k.bare pid ddr lv x table = q.entry k pid ddr lv x table := rfl

theorem Walk.block_bare (q : Walk) (ddr : Bool) (table va : Nat) (own : Except (Nat × Nat) Leaf) :
    q.block k.bare pid ddr table va own = q.block k pid ddr table va own := rfl

theorem Walk.walk_bare (ddr : Bool) (va n lv table : Nat) (q : Walk) :
    Walk.walk k.bare pid ddr va n lv table q = Walk.walk k pid ddr va n lv table q := by
  induction n generalizing lv table q with
  | zero => rfl
  | succ n ih => simp only [Walk.walk, Walk.entry_bare, Walk.block_bare, ih]

theorem Walk.ranges_bare (va n r : Nat) (q : Walk) : Walk.ranges k.bare pid va n r q = Walk.ranges k pid va n r q := by
  induction n generalizing r q with
  | zero => rfl
  | succ n ih => simp only [Walk.ranges, Walk.item_bare, ih]

theorem Walk.leaf_bare (q : Walk) (va : Nat) : q.leaf k.bare pid va = q.leaf k pid va := by
  simp only [Walk.leaf, Walk.item_bare, Walk.ranges_bare, Walk.walk_bare]

end

namespace Level
variable {a₀ b₀ a b : State}

/-! ## Translation -/

theorem free (e : Level a₀ b₀ a b) : b.free = a.free := congrArg (·.2.2.2) e.rest

theorem setFree (e : Level a₀ b₀ a b) (n : Nat) : Level a₀ b₀ { a with free := n } { b with free := n } :=
  ⟨e.left, e.right, e.home, e.pkgs, congrArg (fun x => (x.1, x.2.1, x.2.2.1, n)) e.rest, e.keys⟩

theorem draw (e : Level a₀ b₀ a b) : Level a₀ b₀ a.draw b.draw := by
  unfold State.draw
  rw [e.free]
  exact e.setFree _

theorem leaf (e : Level a₀ b₀ a b) (p : PkgId) (q : Walk) (pid : BitVec 16) (va : Nat) :
    q.leaf (b.pkgAt p) pid va = q.leaf (a.pkgAt p) pid va := e.of_pkg (fun k => q.leaf k pid va) (fun k => Walk.leaf_bare k pid q va) p

theorem allowLeaf (e : Level a₀ b₀ a b) (p : PkgId) (pid : BitVec 16) (x : Word) (k : Acc) (l : Leaf) :
    b.allowLeaf p pid x k l = a.allowLeaf p pid x k l := by
  have hc (q d) : (b.pkgAt q).capacity d = (a.pkgAt q).capacity d := e.of_pkg (·.capacity d) (fun _ => rfl) q
  have hp (q n d) : (b.pkgAt q).protCheck n d = (a.pkgAt q).protCheck n d := e.of_pkg (·.protCheck n d) (fun _ => rfl) q
  simp only [State.allowLeaf, e.shut, hc, hp]

/-- A translation gives the same, and leaves states side by side. -/
theorem translate (e : Level a₀ b₀ a b) (p : PkgId) (c : CellId) (pid : BitVec 16) (x : Word) (k : Acc)
    (fixed : Option Bool) :
    Level a₀ b₀ (translate a p c pid x k fixed).1 (translate b p c pid x k fixed).1 ∧
      (translate b p c pid x k fixed).2 = (translate a p c pid x k fixed).2 := by
  have e' := e.mended p
  have hs (n) : ((b.mended p).pkgAt p).station n = ((a.mended p).pkgAt p).station n :=
    e'.of_pkg (·.station n) (fun _ => rfl) p
  unfold Machine.translate
  simp only [e'.free, hs, e'.leaf]
  generalize Walk.leaf _ _ _ _ = w
  have e'' : Level a₀ b₀ { (a.mended p).mapStation p (stationOf c) fun _ => w.1.st with free := w.1.free }
      { (b.mended p).mapStation p (stationOf c) fun _ => w.1.st with free := w.1.free } :=
    Level.setFree (a := (a.mended p).mapStation p (stationOf c) fun _ => w.1.st)
      (b := (b.mended p).mapStation p (stationOf c) fun _ => w.1.st) (e'.mapPkg p (fun _ => rfl) fun _ => rfl) _
  cases w.2 with
  | error x => exact ⟨e'', rfl⟩
  | ok l => exact ⟨e'', e''.allowLeaf _ _ _ _ _⟩

theorem locate (e : Level a₀ b₀ a b) (p : PkgId) (c : CellId) (pid : BitVec 16) (x : Word) (n : Nat) (k : Acc) :
    locate b p c pid x n k = locate a p c pid x n k := by
  simp only [Machine.locate, e.shut]

theorem locateAll (e : Level a₀ b₀ a b) (h : GRef) (pid : BitVec 16) (k : Acc) (l : List RawElt) :
    locateAll b h pid k l = locateAll a h pid k l := by
  induction l with
  | nil => rfl
  | cons x l ih => simp only [Machine.locateAll, e.locate, ih]

theorem translateAll (h : GRef) (pid : BitVec 16) (k : Acc) (l : List (RawElt × Option Loc)) {a b : State}
    (e : Level a₀ b₀ a b) : Level a₀ b₀ (translateAll h pid k a l).1 (translateAll h pid k b l).1 ∧
      (translateAll h pid k b l).2 = (translateAll h pid k a l).2 := by
  induction l generalizing a b with
  | nil => exact ⟨e, rfl⟩
  | cons x l ih =>
    obtain ⟨x, _ | y⟩ := x
    · obtain ⟨e', he⟩ := e.translate h.pkg h.cell pid x.2.1 k none
      simp only [Machine.translateAll, he]
      split
      · exact ⟨e', rfl⟩
      · exact ⟨(ih e').1, by rw [(ih e').2]⟩
    · exact ⟨(ih e).1, congrArg (Except.map _) (ih e).2⟩

theorem checkElts (e : Level a₀ b₀ a b) (h : GRef) (pid : BitVec 16) (k : Acc) (raw : List RawElt) :
    Level a₀ b₀ (checkElts a h pid k raw).1 (checkElts b h pid k raw).1 ∧
      (checkElts b h pid k raw).2 = (checkElts a h pid k raw).2 := by
  unfold Machine.checkElts
  rw [e.locateAll]
  split
  · exact ⟨e, rfl⟩
  · exact translateAll h pid k _ e

theorem boundaryRefuses (e : Level a₀ b₀ a b) (p : PkgId) (c : CellId) (l : Loc) :
    b.boundaryRefuses p c l = a.boundaryRefuses p c l := by
  have ho (q d) : (b.pkgAt q).outRefused d = (a.pkgAt q).outRefused d := e.of_pkg (·.outRefused d) (fun _ => rfl) q
  have hi (q d) : (b.pkgAt q).inRefused d = (a.pkgAt q).inRefused d := e.of_pkg (·.inRefused d) (fun _ => rfl) q
  have hl (q d d') : (b.pkgAt q).legRefused d d' = (a.pkgAt q).legRefused d d' := e.of_pkg (·.legRefused d d') (fun _ => rfl) q
  simp only [State.boundaryRefuses, State.remoteRefused, ho, hi, hl]

end Level

/-! ## Operations -/

/-- A slot with a new operation, of the number that comes next. -/
def Slot.joined (o : Op) (last : Option Nat) (t : Slot) : Slot :=
  { t with ops := t.ops ++ [o], nextOp := t.nextOp + 1, lastOp := last }

theorem joined_core {o w : Op} (last : Option Nat) {t u : Slot} (h : u.core = t.core) :
    (u.joined w last).core = (t.joined o last).core :=
  congrArg (fun x : Slot => { x with nextOp := x.nextOp + 1, lastOp := last }) h

theorem joined_plainOps {o w : Op} (ho : ({ w with took := [], prevFe := [] } : Op) = { o with took := [], prevFe := [] })
    (last : Option Nat) {t u : Slot} (h : u.plainOps = t.plainOps) :
    (u.joined w last).plainOps = (t.joined o last).plainOps := by
  have joined (t : Slot) (x : Op) : (t.joined x last).plainOps = t.plainOps ++ [{ x with took := [], prevFe := [] }] := by
    simp [Slot.plainOps, Slot.joined]
  rw [joined, joined, h, ho]

theorem acquiring_plain (t : Slot) : t.acquiring = t.plainOps.any fun o => o.acq && !o.orphan := by
  simp only [Slot.acquiring, Slot.plainOps, List.any_map]; rfl

theorem unperformed_plain (t : Slot) : t.unperformed =
    (t.plainOps.filter fun o => (!o.performed || o.fault.isSome) && !o.orphan).length := by
  simp only [Slot.unperformed, Slot.plainOps, List.filter_map, List.length_map]; rfl

theorem releaseWaits_plain (t : Slot) (sv : Bool) : t.releaseWaits sv =
    (t.plainOps.any (fun o => o.beforeRelease && !o.orphan) || (sv && t.core.parityOut != 0)) := by
  simp only [Slot.releaseWaits, Slot.plainOps, List.any_map]; rfl

namespace Emptied
variable {g : GRef} {T W : List RegRef} {a b : State}

theorem acquiring (e : Emptied g T W a b) : (b.slotAt g).acquiring = (a.slotAt g).acquiring := by
  rw [acquiring_plain, acquiring_plain, e.ops]

theorem unperformed (e : Emptied g T W a b) : (b.slotAt g).unperformed = (a.slotAt g).unperformed := by
  rw [unperformed_plain, unperformed_plain, e.ops]

theorem releaseWaits (e : Emptied g T W a b) (sv : Bool) : (b.slotAt g).releaseWaits sv = (a.slotAt g).releaseWaits sv := by
  rw [releaseWaits_plain, releaseWaits_plain, e.ops, e.core]

/-- Registers that become pending in both. -/
theorem fe_pending (e : Emptied g T [] a b) (l : List RegRef) (q : RegRef) :
    (l.foldl (fun t r => t.setFe r .pending) (b.slotAt g)).fe q =
      if q ∈ T ∧ q ∉ l then .taken else (l.foldl (fun t r => t.setFe r .pending) (a.slotAt g)).fe q := by
  rw [Slot.fe_setFe_all, Slot.fe_setFe_all]
  have hq := e.fe q
  simp only [List.not_mem_nil, not_false_eq_true, and_true] at hq
  by_cases hl : q ∈ l
  · by_cases h0 : q = .s 0
    · subst h0
      rw [if_neg (fun h => h.2 rfl), if_neg (fun h => h.2 hl), if_neg (fun h => h.2 rfl), Slot.fe_zero, Slot.fe_zero]
    · rw [if_pos ⟨hl, h0⟩, if_neg (fun h => h.2 hl), if_pos ⟨hl, h0⟩]
  · rw [if_neg (fun h => hl h.1), hq, if_neg (c := q ∈ l ∧ _) (fun h => hl h.1)]
    exact if_congr ⟨fun h => ⟨h, hl⟩, And.left⟩ rfl rfl

/-- An operation joins those of the slot in both, which differs only in what it has taken. -/
theorem addOp {o w : Op} (e : Emptied g T [] a b)
    (ho : ({ w with took := [], prevFe := [] } : Op) = { o with took := [], prevFe := [] }) :
    Emptied g T (if o.posted then [] else o.dst.regs) (a.addOp g o) (b.addOp g w) := by
  have hposted : w.posted = o.posted := congrArg (·.posted) ho
  have hdst : w.dst = o.dst := congrArg (·.dst) ho
  have hprecise : w.precise = o.precise := congrArg (·.precise) ho
  have hid : w.id = o.id := congrArg (·.id) ho
  unfold State.addOp
  simp only [hposted, hdst, hprecise, hid]
  cases hpost : o.posted
  · simp only [Bool.false_eq_true, if_false]
    refine e.mapSlot (fun q => e.fe_pending _ q) (joined_core _ ?_) (joined_plainOps ho _ ?_)
    · rw [Slot.core_setFe_all, Slot.core_setFe_all, e.core]
    · rw [Slot.plainOps_setFe_all, Slot.plainOps_setFe_all, e.ops]
  · simp only [if_true]
    exact e.mapSlot e.fe (joined_core _ e.core) (joined_plainOps ho _ e.ops)

end Emptied

end Sys2Proof.Machine

/-! An access that issues under a TAKE (R66, R67, R126, R127, R165 to R170). -/

namespace Sys2Proof.Machine

open Sys2Proof.Claims

/-- The operation that a slot issues, without what it has taken. -/
def plainOp (t : Slot) (now : Nat) (colour : BitVec 4) (x : Act) (p : Path) (dst : Dest) : Op :=
  { id := t.nextOp, head := t.head, pos := t.pos, loops := t.loops, act := x, path := p, dst := dst, mask := t.active
    pid := t.pid, since := now, took := [], launch := t.member.map fun m => (m.graph, m.launch), prevFe := [], colour := colour }

theorem newOp_plain (c : Ctx) (x : Act) (p : Path) (dst : Dest) : ({ c.newOp x p dst with took := [], prevFe := [] } : Op) =
    plainOp c.slot.core (c.s.cycleAt c.g.pkg) (c.s.colourOf c.g) x p dst := rfl

/-- An end of a body that has issued nothing. -/
inductive Idle : Issue → Prop where
  | hold : Idle .hold
  | trap (f : FaultInfo) : Idle (.trap f)
  | fenced (ops : Table RefusedOp) (sv : Bool) : Idle (.fenced ops sv)

/-- The ends of the two bodies: nothing has been issued, or both leave states side by side. -/
inductive IssuesAlike (g : GRef) (T W : List RegRef) : Issue → Issue → Prop where
  | idle {x y : Issue} (h : Idle x) : IssuesAlike g T W x y
  | done {a b : State} (e : Emptied g T W a b) : IssuesAlike g T W (.done a) (.done b)
  | park {a b : State} (w : WaitFor) (e : Emptied g T W a b) :
    IssuesAlike g T W (.park a w) (.park b w)

theorem toReport_idle {t : Slot} {sv : Bool} {f : RefusedOp → Bool} {i : Issue} (h : t.toReport sv f = some i) : Idle i := by
  unfold Slot.toReport at h
  simp only at h
  split_ifs at h
  cases h
  exact .fenced _ _

theorem orderHold_idle {c : Ctx} {k : Scope} {o : Order} {i : Issue} (h : c.orderHold k o = some i) : Idle i := by
  unfold Ctx.orderHold Ctx.releaseHold at h
  split_ifs at h
  · cases h; exact .hold
  · cases h; exact .hold
  · exact toReport_idle h

theorem twinGone_unpaired {c : Ctx} (h : unpaired c.slot) : c.twinGone = none := by
  unfold Ctx.twinGone
  cases hm : c.slot.member with
  | none => rfl
  | some m => simp only [h m hm]

theorem enrol_unpaired {s : State} {g : GRef} (h : unpaired (s.slotAt g)) (o : Op) (l : List Word) (d : List Byte) :
    s.enrol g o l d = (s, o) := by
  unfold State.enrol
  cases hm : (s.slotAt g).member with
  | none => simp only [hm]
  | some m => simp only [hm, h m hm, Option.isSome_none, Bool.false_eq_true, if_false]

namespace Emptied
variable {g : GRef} {T W : List RegRef} {a b : State}

theorem cycleAt (e : Emptied g T W a b) (p : PkgId) : b.cycleAt p = a.cycleAt p := e.level.of_pkg (·.cycle) (fun _ => rfl) p

theorem colourOf (e : Emptied g T W a b) (h : GRef) : b.colourOf h = a.colourOf h :=
  e.level.of_pkg (fun k => ((k.partOf h.cell).map fun x : Nat × Part => x.2.colour).getD 0) (fun _ => rfl) h.pkg

theorem streamsOut (e : Emptied g T W a b) (h : GRef) : b.streamsOut h = a.streamsOut h :=
  e.of_cell (fun t => t.streams.any fun e => e.2.output && e.2.mode != .free && e.2.owner == h.slot && !e.2.queue.isEmpty)
    (fun _ => rfl) h.pkg h.cell

theorem atPort (e : Emptied g T W a b) (id : Nat) (home : List Nat) (n : Nat) :
    Emptied g T W (a.atPort g id home n) (b.atPort g id home n) := by
  unfold State.atPort
  rw [e.cycleAt]
  split_ifs
  · exact e
  · exact e.mapCell _ _ (fun _ => rfl) (fun _ => rfl)

theorem listWaiter (e : Emptied g T W a b) (id : Nat) : Emptied g T W (a.listWaiter g id) (b.listWaiter g id) :=
  e.mapCell _ _ (fun _ => rfl) (fun _ => rfl)

theorem unpaired (e : Emptied g T W a b) (h : unpaired (a.slotAt g)) : unpaired (b.slotAt g) := by
  have hm : (b.slotAt g).member = (a.slotAt g).member := e.of_core (·.member) fun _ => rfl
  intro m hb
  exact h m (hm ▸ hb)

theorem findsLate (e : Emptied g T W a b) (r : MemReq) : findsLate b g r = findsLate a g r := by
  have hm : (b.slotAt g).member = (a.slotAt g).member := e.of_core (·.member) fun _ => rfl
  have hp : (b.slotAt g).pid = (a.slotAt g).pid := e.of_core (·.pid) fun _ => rfl
  simp only [Machine.findsLate, e.unperformed, hm, hp, e.level.locateAll, e.level.free]

theorem faultedUnits (e : Emptied g T W a b) (r : MemReq) (f : FaultInfo) : faultedUnits b g r f = faultedUnits a g r f := by
  have hp : (b.slotAt g).pid = (a.slotAt g).pid := e.of_core (·.pid) fun _ => rfl
  simp only [Machine.faultedUnits, hp, e.level.locateAll]

end Emptied

/-- The operation of an access that faulted in its translation. -/
def faultedOp (o : Op) (u : List OpUnit) (r : MemReq) (f : FaultInfo) : Op :=
  { o with units := u, acq := acquires r.scope r.order, mask := r.mask, fault := some f, performed := true }

theorem issueFaulted_eq (c : Ctx) (s : State) (r : MemReq) (f : FaultInfo) :
    c.issueFaulted s r f = s.draw.addOp c.g (faultedOp (c.newOp r.act .edge r.dst) (faultedUnits s c.g r f) r f) := rfl

theorem findsLate_posted {s : State} {g : GRef} {r : MemReq} (h : findsLate s g r = true) : r.posted = false := by
  simp only [findsLate, Bool.and_eq_true, Bool.not_eq_true'] at h
  obtain ⟨⟨⟨⟨⟨⟨hp, -⟩, -⟩, -⟩, -⟩, -⟩, -⟩ := h
  exact hp

/-- The operation of an access whose elements have places. -/
def placedOp (o : Op) (u : List OpUnit) (r : MemReq) (transit : Bool) : Op :=
  { o with units := u, posted := r.posted, acq := acquires r.scope r.order, mask := r.mask, wide := r.wide, inTransit := transit }

/-- The path of an access with such units. -/
def pathOfUnits (u : List OpUnit) : Path :=
  if u.any fun u => u.path == .remote then .remote else if u.any fun u => u.path != .local then .edge else .local

/-- Those of the units that the slot port performs, and their elements. -/
def homeUnits (u : List OpUnit) : List Nat := (List.range u.length).filter fun j => ((u[j]?).map (·.path)) == some .local
def homeElts (u : List OpUnit) : List Elt := (homeUnits u).flatMap fun j => ((u[j]?).map (·.elts)).getD []

/-- The issue of an access in the state that its translations leave. -/
def issuePlaced (c : Ctx) (r : MemReq) (x : State) (es : List Elt) : Issue :=
  let u := groupElts r.group es
  let away := u.any fun u => u.path != .local
  let o := placedOp (c.newOp r.act (pathOfUnits u) r.dst) u r
    (es.all fun e => pathOf e.addr == .local || !x.boundaryRefuses c.g.pkg c.g.cell e.loc)
  let n := if away then x.enrol c.g o (es.map (·.addr)) (es.flatMap r.act.sends) else (x, o)
  let s := (n.1.addOp c.g n.2).atPort c.g o.id (homeUnits u) (portCycles r.act (homeElts u))
  if r.waits then .park (if (homeUnits u).isEmpty then s else s.listWaiter c.g o.id) (.answer o.id) else .done s

theorem memIssue_eq (c : Ctx) (r : MemReq) : memIssue c r =
    if r.raw.isEmpty then .done c.s
    else match c.orderHold r.scope r.order with
    | some i => i
    | none =>
      match (checkElts c.s c.g c.slot.pid r.acc r.raw).2 with
      | .error f =>
        if findsLate (checkElts c.s c.g c.slot.pid r.acc r.raw).1 c.g r then
          .done (c.issueFaulted (checkElts c.s c.g c.slot.pid r.acc r.raw).1 r f)
        else .trap f
      | .ok es =>
        if 16 ≤ c.slot.unperformed then .hold
        else match (if (groupElts r.group es).any fun u => u.path != .local then c.twinGone else none) with
        | some i => i
        | none => issuePlaced c r (checkElts c.s c.g c.slot.pid r.acc r.raw).1 es := rfl

/-- The views of two bodies side by side. -/
structure CtxTwins (g : GRef) (T : List RegRef) (c k : Ctx) : Prop where
  left : c.g = g
  right : k.g = g
  emptied : Emptied g T [] c.s k.s

namespace CtxTwins
variable {g : GRef} {T : List RegRef} {c k : Ctx} (t : CtxTwins g T c k)
include t

theorem slot {α : Sort _} (P : Slot → α) (h : ∀ x : Slot, P x.core = P x) : P k.slot = P c.slot := by
  rw [Ctx.slot, Ctx.slot, t.left, t.right]
  exact t.emptied.of_core P h

theorem newOp (x : Act) (p : Path) (dst : Dest) : ({ k.newOp x p dst with took := [], prevFe := [] } : Op) =
    { c.newOp x p dst with took := [], prevFe := [] } := by
  rw [newOp_plain, newOp_plain, t.left, t.right, t.emptied.cycleAt, t.emptied.colourOf,
    t.slot Slot.core fun _ => rfl]

theorem orderHold (m : Scope) (o : Order) : k.orderHold m o = c.orderHold m o := by
  have ha : k.slot.acquiring = c.slot.acquiring := by
    rw [Ctx.slot, Ctx.slot, t.left, t.right, t.emptied.acquiring]
  have hr (sv) : k.slot.releaseWaits sv = c.slot.releaseWaits sv := by
    rw [Ctx.slot, Ctx.slot, t.left, t.right, t.emptied.releaseWaits]
  have hp (sv) : (k.slot.toReport sv fun _ => true) = c.slot.toReport sv fun _ => true :=
    t.slot (fun x => x.toReport sv fun _ => true) fun _ => rfl
  have ho : k.s.streamsOut k.g = c.s.streamsOut c.g := by rw [t.left, t.right, t.emptied.streamsOut]
  unfold Ctx.orderHold Ctx.releaseHold Ctx.releaseWaits
  rw [ha, hr, hp, ho]

/-- An access that faults in its translation becomes the same operation. -/
theorem issueFaulted {x y : State} (l : Level c.s k.s x y) {r : MemReq} (hr : r.posted = false) (f : FaultInfo) :
    Emptied g T (if r.posted then [] else r.dst.regs) (c.issueFaulted x r f) (k.issueFaulted y r f) := by
  have e : Emptied g T [] x y := l.emptied t.emptied
  rw [issueFaulted_eq, issueFaulted_eq, t.left, t.right, e.faultedUnits, hr]
  exact Emptied.addOp (o := faultedOp _ _ r f) (w := faultedOp _ _ r f) (l.draw.emptied t.emptied)
    (congrArg (faultedOp · _ r f) (t.newOp r.act .edge r.dst))

/-- An access whose elements have places issues alike. -/
theorem issuePlaced {x y : State} (l : Level c.s k.s x y) (hu : unpaired (c.s.slotAt g)) {r : MemReq} (es : List Elt) :
    IssuesAlike g T (if r.posted then [] else r.dst.regs) (issuePlaced c r x es) (issuePlaced k r y es) := by
  have hx : unpaired (x.slotAt g) := by rw [State.slotAt, l.left]; exact hu
  have hy : unpaired (y.slotAt g) := (l.emptied t.emptied).unpaired hx
  have hid : k.slot.nextOp = c.slot.nextOp := t.slot (·.nextOp) fun _ => rfl
  have added (tr : Bool) (p : Path) (u : List OpUnit) := Emptied.addOp (o := placedOp (c.newOp r.act p r.dst) u r tr)
    (w := placedOp (k.newOp r.act p r.dst) u r tr) (l.emptied t.emptied)
    (congrArg (placedOp · u r tr) (t.newOp r.act p r.dst))
  unfold Machine.issuePlaced
  simp only [t.left, t.right, enrol_unpaired hx, enrol_unpaired hy, ite_self, l.boundaryRefuses]
  have port := (added (es.all fun e => pathOf e.addr == .local || !x.boundaryRefuses g.pkg g.cell e.loc)
    (pathOfUnits (groupElts r.group es)) (groupElts r.group es)).atPort c.slot.nextOp (homeUnits (groupElts r.group es))
    (portCycles r.act (homeElts (groupElts r.group es)))
  have hido (p u tr) : (placedOp (c.newOp r.act p r.dst) u r tr).id = c.slot.nextOp := rfl
  have hidw (p u tr) : (placedOp (k.newOp r.act p r.dst) u r tr).id = c.slot.nextOp := hid
  simp only [hido, hidw]
  by_cases hw : r.waits = true
  · rw [if_pos hw, if_pos hw]
    by_cases hh : (homeUnits (groupElts r.group es)).isEmpty = true
    · rw [if_pos hh, if_pos hh]
      exact .park _ port
    · rw [if_neg hh, if_neg hh]
      exact .park _ (port.listWaiter _)
  · rw [if_neg hw, if_neg hw]
    exact .done port

/-- An access whose views stand side by side issues alike. -/
theorem memIssue {r : MemReq} (hu : unpaired c.slot) (hr : r.raw.isEmpty = false) :
    IssuesAlike g T (if r.posted then [] else r.dst.regs) (memIssue c r) (memIssue k r) := by
  have hpid : k.slot.pid = c.slot.pid := t.slot (·.pid) fun _ => rfl
  have hun : k.slot.unperformed = c.slot.unperformed := by
    rw [Ctx.slot, Ctx.slot, t.left, t.right, t.emptied.unperformed]
  have huc : unpaired (c.s.slotAt g) := by rw [← t.left]; exact hu
  have huk : unpaired (k.s.slotAt g) := t.emptied.unpaired huc
  have htc : c.twinGone = none := twinGone_unpaired hu
  have htk : k.twinGone = none := twinGone_unpaired (by rw [Ctx.slot, t.right]; exact huk)
  obtain ⟨l, he⟩ := t.emptied.level.checkElts g c.slot.pid r.acc r.raw
  have e := l.emptied t.emptied
  rw [memIssue_eq, memIssue_eq, t.orderHold, hr]
  simp only [Bool.false_eq_true, if_false]
  cases ho : c.orderHold r.scope r.order with
  | some i => exact .idle (orderHold_idle ho)
  | none =>
    simp only [hpid, hun, t.left, t.right, he]
    cases hx : (Machine.checkElts c.s g c.slot.pid r.acc r.raw).2 with
    | error f =>
      simp only [e.findsLate]
      by_cases hl : Machine.findsLate (Machine.checkElts c.s g c.slot.pid r.acc r.raw).1 g r = true
      · rw [if_pos hl, if_pos hl]
        exact .done (t.issueFaulted l (findsLate_posted hl) f)
      · rw [if_neg hl]
        exact .idle (.trap f)
    | ok es =>
      simp only [htc, htk, ite_self]
      by_cases h16 : 16 ≤ c.slot.unperformed
      · rw [if_pos h16]
        exact .idle .hold
      · rw [if_neg h16, if_neg h16]
        exact t.issuePlaced l huc es

end CtxTwins

end Sys2Proof.Machine

/-! The scalar accesses to memory under a TAKE (R66, R67, R126, R127), and the obligation on operands. -/

namespace Sys2Proof.Machine

open Sys2Proof.Claims

/-! ## An access that has issued nothing -/

theorem Faulted.nextOp {g : GRef} {f : FaultInfo} {s t : State} (h : Faulted g f s t) :
    (t.slotAt g).nextOp = (s.slotAt g).nextOp := by
  obtain ⟨-, -, -, -, hu, -⟩ := h
  exact congrArg (·.nextOp) hu

theorem nextOp_idle {s : State} {g : GRef} {o : Opnds} {x : Issue} (hp : s.hasPkg g.pkg = true) (h : Idle x) :
    ((conclude s g o x).slotAt g).nextOp = (s.slotAt g).nextOp := by
  cases h with
  | hold =>
    dsimp only [conclude]
    exact State.slotAt_mapSlot_keeps (·.nextOp) (fun _ => by rfl) s g g
  | trap f => exact (faultHere_spec s g f hp).nextOp
  | fenced ops sv =>
    dsimp only [conclude]
    refine (faultHere_spec _ g _ ((State.hasPkg_mapSlot _ _ _ _).trans hp)).nextOp.trans ?_
    exact State.slotAt_mapSlot_keeps (·.nextOp) (fun _ => by rfl) s g g

/-! ## An access that issues -/

/-- Under its TAKE an access that issues does what it does without. -/
def AccessAlike (o : Opnds) (i : Instr) : Prop :=
  ∀ s, ready (unprefixed s) o = true → unpaired (here s) → ∀ v, exec i (unprefixed s) = .next v →
    (v.slotAt s.cur).nextOp = (here s).nextOp + 1 → ∃ u, exec i s = .next u ∧ EmptiesAlone s o v u

theorem Twins.ctx {s : State} {o : Opnds} (t : Twins s o) :
    CtxTwins s.cur (takenRegs (s.slotAt s.cur) o) (plainCtx s) (takingCtx s o) := ⟨rfl, rfl, t.start⟩

theorem accessAlike_of {o : Opnds} {i : Instr} (ho : Takes o) {req : Ctx → MemReq}
    (he : ∀ s, exec i s = run s o fun x => memIssue x (req x))
    (hreq : ∀ s, Twins s o → req (takingCtx s o) = req (plainCtx s)) (hraw : ∀ x, (req x).raw.isEmpty = false)
    (hw : ∀ x, (if (req x).posted then [] else (req x).dst.regs) = o.dsts) : AccessAlike o i := by
  intro s h hu v hv hn
  have t : Twins s o := ⟨ho, h⟩
  have hup : unpaired (plainCtx s).slot := by rw [plainCtx_slot t.hasPkg]; exact hu
  have alike := t.ctx.memIssue hup (hraw (plainCtx s))
  rw [he, run_unprefixed h] at hv
  obtain rfl := Host.Outcome.next.inj hv
  rw [he, run_taking ho h, hreq s t]
  rw [hw] at alike
  refine ⟨_, rfl, ?_⟩
  generalize memIssue (plainCtx s) (req (plainCtx s)) = x at *
  generalize memIssue (takingCtx s o) (req (plainCtx s)) = y at *
  cases alike with
  | idle hx =>
    rw [nextOp_idle ((hasPkg_unprefixed _ _).trans t.hasPkg) hx, slotAt_unprefixed t.hasPkg] at hn
    exact absurd hn (Nat.ne_of_lt (Nat.lt_succ_self _))
  | done e => exact emptiesAlone_done e
  | park w e => exact emptiesAlone_park w e

/-! ## The forms of the claim -/

theorem takes_load (d b : SReg) : Takes (loadOpnds d b) := by constructor <;> simp [loadOpnds]
theorem takes_store (d b : SReg) : Takes (storeOpnds d b) := by constructor <;> simp [storeOpnds]
theorem takes_atom (d b : SReg) : Takes (atomOpnds d b) := by constructor <;> simp [atomOpnds]
theorem takes_addr (b : SReg) : Takes (addrOpnds b) := by constructor <;> simp [addrOpnds]

theorem Twins.active {s : State} {o : Opnds} (t : Twins s o) : (takingCtx s o).slot.active = (plainCtx s).slot.active :=
  t.slot (·.active) fun _ => rfl

section
variable {i : Instr} {d b : SReg} {c : Scope} {o : Order}

theorem accessAlike_scalarLoad (h : ∃ sg z, ∀ s, exec i s = scalarLoad sg d b c o z s) : AccessAlike (loadOpnds d b) i := by
  obtain ⟨sg, z, he⟩ := h
  refine accessAlike_of (takes_load d b) he (fun s t => ?_) (fun _ => rfl) fun _ => rfl
  rw [t.sreg, t.active]

theorem accessAlike_feAccess {k : Opnds} {val : Option SReg} {dst : Dest} {posted : Bool} (hk : Takes k)
    (hw : (if posted then [] else dst.regs) = k.dsts)
    (h : ∃ f waits, ∀ s, exec i s = feAccess f k val dst posted waits b c o s) : AccessAlike k i := by
  obtain ⟨f, waits, he⟩ := h
  refine accessAlike_of hk he (fun s t => ?_) (fun _ => rfl) fun _ => hw
  have hs : (takingCtx s k).sreg = (plainCtx s).sreg := funext t.sreg
  rw [hs, t.active]

theorem accessAlike_execSt (h : ∃ z, ∀ s, exec i s = execSt d b c o z s) : AccessAlike (storeOpnds d b) i := by
  obtain ⟨z, he⟩ := h
  refine accessAlike_of (takes_store d b) he (fun s t => ?_) (fun _ => rfl) fun _ => rfl
  rw [t.sreg, t.sreg, t.active]

theorem accessAlike_monitorWait (h : ∃ ne z, ∀ s, exec i s = monitorWait ne d b c o z s) :
    AccessAlike (storeOpnds d b) i := by
  obtain ⟨ne, z, he⟩ := h
  refine accessAlike_of (takes_store d b) he (fun s t => ?_) (fun _ => rfl) fun _ => rfl
  rw [t.sreg, t.sreg, t.active]

theorem accessAlike_scalarAtom (h : ∃ f n, ∀ s, exec i s = scalarAtom f n d b c o s) : AccessAlike (atomOpnds d b) i := by
  obtain ⟨f, n, he⟩ := h
  refine accessAlike_of (takes_atom d b) he (fun s t => ?_) (fun _ => rfl) fun _ => rfl
  rw [t.sreg, t.sreg, t.active]

theorem accessAlike_loads (z : Size) :
    ∀ i ∈ ([.ld d b c o z, .lds d b c o z, .ldfe d b c o, .ldf d b c o, .feget d b c o] : List Instr),
      AccessAlike (loadOpnds d b) i := by
  simp only [List.forall_mem_cons]
  exact ⟨accessAlike_scalarLoad ⟨_, _, exec_ld d b c o z⟩, accessAlike_scalarLoad ⟨_, _, exec_lds d b c o z⟩,
    accessAlike_feAccess (takes_load d b) rfl ⟨_, _, exec_ldfe d b c o⟩,
    accessAlike_feAccess (takes_load d b) rfl ⟨_, _, exec_ldf d b c o⟩,
    accessAlike_feAccess (takes_load d b) rfl ⟨_, _, exec_feget d b c o⟩, fun _ h => nomatch h⟩

theorem accessAlike_stores (z : Size) :
    ∀ i ∈ ([.st d b c o z, .stfe d b c o, .stf d b c o, .waiteq d b c o z, .waitne d b c o z] : List Instr),
      AccessAlike (storeOpnds d b) i := by
  simp only [List.forall_mem_cons]
  exact ⟨accessAlike_execSt ⟨_, exec_st d b c o z⟩, accessAlike_feAccess (takes_store d b) rfl ⟨_, _, exec_stfe d b c o⟩,
    accessAlike_feAccess (takes_store d b) rfl ⟨_, _, exec_stf d b c o⟩, accessAlike_monitorWait ⟨_, _, exec_waiteq d b c o z⟩,
    accessAlike_monitorWait ⟨_, _, exec_waitne d b c o z⟩, fun _ h => nomatch h⟩

theorem accessAlike_atoms (z : Size) : ∀ i ∈ ([.aadd d b c o z, .aand d b c o z, .aor d b c o z, .axor d b c o z, .amin d b c o z, .amax d b c o z, .aminu d b c o z,
    .amaxu d b c o z, .aswap d b c o z, .afadd d b c o, .afmax d b c o] : List Instr),
    AccessAlike (atomOpnds d b) i := by
  refine fun i hi => accessAlike_scalarAtom (c := c) (o := o) ?_
  revert i
  simp only [List.forall_mem_cons]
  exact ⟨
    ⟨_, _, exec_aadd d b c o z⟩, ⟨_, _, exec_aand d b c o z⟩, ⟨_, _, exec_aor d b c o z⟩, ⟨_, _, exec_axor d b c o z⟩,
    ⟨_, _, exec_amin d b c o z⟩, ⟨_, _, exec_amax d b c o z⟩, ⟨_, _, exec_aminu d b c o z⟩, ⟨_, _, exec_amaxu d b c o z⟩,
    ⟨_, _, exec_aswap d b c o z⟩, ⟨_, _, exec_afadd d b c o⟩, ⟨_, _, exec_afmax d b c o⟩,
    fun _ h => nomatch h⟩

theorem accessAlike_marks : ∀ i ∈ ([.feset b c o, .feclr b c o] : List Instr), AccessAlike (addrOpnds b) i := by
  simp only [List.forall_mem_cons]
  exact ⟨accessAlike_feAccess (takes_addr b) rfl ⟨_, _, exec_feset b c o⟩,
    accessAlike_feAccess (takes_addr b) rfl ⟨_, _, exec_feclr b c o⟩, fun _ h => nomatch h⟩

end

theorem accessAlike_accessForms (d b : SReg) (c : Scope) (o : Order) (z : Size) :
    ∀ e ∈ accessForms d b c o z, AccessAlike e.2 e.1 := by
  simp only [accessForms, List.forall_mem_append, List.forall_mem_map]
  exact ⟨⟨⟨accessAlike_loads z, accessAlike_stores z⟩, accessAlike_atoms z⟩, accessAlike_marks⟩

theorem prefixedInstructions : PrefixedInstructions := by
  intro s _ runs
  exact ⟨fun d a b i hi h => runsAlike_scalarForms d a b i hi s h,
    fun d a k n i hi h => runsAlike_scalarUnaryForms d a k n i hi s h,
    fun d a b i hi h => runsAlike_laneForms d a b i hi s h,
    fun d a b i hi h => runsAlike_laneScalarForms d a b i hi s h,
    fun d a i hi h => runsAlike_laneUnaryForms d a i hi s h,
    fun d b c o z e he h hu v hv hn => accessAlike_accessForms d b c o z e he s h hu v hv hn⟩

/-- Settles O59: what an instruction meets is read off `prepare`, and under a TAKE the two runs stay side by side. -/
theorem operandChecks : Obligations.OperandChecks := ⟨operandWaits, synchronisedReads, prefixedInstructions⟩

end Sys2Proof.Machine

/-! Decoding undoes encoding (R57 to R71): O49. -/

namespace Sys2Proof.Laws

/-- One lemma for each constructor, in the order of the opcode table. -/
theorem roundTrip (i : Instr) : RoundTrip.Statement i :=
  i.rec
    RoundTrip.add RoundTrip.sub RoundTrip.and RoundTrip.or RoundTrip.xor RoundTrip.andn RoundTrip.shl RoundTrip.shr
    RoundTrip.sar RoundTrip.ror RoundTrip.mul RoundTrip.mulh RoundTrip.mulhu RoundTrip.div RoundTrip.divu RoundTrip.rem
    RoundTrip.remu RoundTrip.min RoundTrip.max RoundTrip.minu RoundTrip.maxu RoundTrip.seq RoundTrip.sne RoundTrip.slt
    RoundTrip.sltu RoundTrip.sle RoundTrip.sleu RoundTrip.clz RoundTrip.popc RoundTrip.brev RoundTrip.addw RoundTrip.subw
    RoundTrip.addi RoundTrip.andi RoundTrip.ori RoundTrip.xori RoundTrip.slti RoundTrip.sltiu RoundTrip.shli RoundTrip.shri
    RoundTrip.sari RoundTrip.rori RoundTrip.lui RoundTrip.addpc RoundTrip.movl RoundTrip.movlz RoundTrip.movlh RoundTrip.take
    RoundTrip.br RoundTrip.bc RoundTrip.jr RoundTrip.jalr RoundTrip.bal RoundTrip.loop RoundTrip.vif RoundTrip.vifz
    RoundTrip.velse RoundTrip.vendif RoundTrip.vendifLx RoundTrip.vloopb RoundTrip.vbrk RoundTrip.vcont RoundTrip.vloope
    RoundTrip.vgetnc RoundTrip.vsetnc RoundTrip.vadd RoundTrip.vsub RoundTrip.vmul RoundTrip.vmulh RoundTrip.vmulhu
    RoundTrip.vand RoundTrip.vor RoundTrip.vxor RoundTrip.vandn RoundTrip.vshl RoundTrip.vshr RoundTrip.vsar RoundTrip.vmin
    RoundTrip.vmax RoundTrip.vminu RoundTrip.vmaxu RoundTrip.vabs RoundTrip.vneg RoundTrip.vseq RoundTrip.vsne RoundTrip.vslt
    RoundTrip.vsltu RoundTrip.vsle RoundTrip.vsleu RoundTrip.vclz RoundTrip.vpopc RoundTrip.vaddsat RoundTrip.vsubsat
    RoundTrip.vaddsatu RoundTrip.vsubsatu RoundTrip.vdot4 RoundTrip.vdot4u RoundTrip.vaddScalar RoundTrip.vsubScalar
    RoundTrip.vmulScalar RoundTrip.vmulhScalar RoundTrip.vmulhuScalar RoundTrip.vandScalar RoundTrip.vorScalar
    RoundTrip.vxorScalar RoundTrip.vandnScalar RoundTrip.vshlScalar RoundTrip.vshrScalar RoundTrip.vsarScalar
    RoundTrip.vminScalar RoundTrip.vmaxScalar RoundTrip.vminuScalar RoundTrip.vmaxuScalar RoundTrip.vseqScalar
    RoundTrip.vsneScalar RoundTrip.vsltScalar RoundTrip.vsltuScalar RoundTrip.vsleScalar RoundTrip.vsleuScalar
    RoundTrip.vaddsatScalar RoundTrip.vsubsatScalar RoundTrip.vaddsatuScalar RoundTrip.vsubsatuScalar RoundTrip.vdot4Scalar
    RoundTrip.vdot4uScalar RoundTrip.vaddH RoundTrip.vsubH RoundTrip.vmulH RoundTrip.vmulhH RoundTrip.vminH RoundTrip.vmaxH
    RoundTrip.vminuH RoundTrip.vmaxuH RoundTrip.vaddsatH RoundTrip.vsubsatH RoundTrip.vaddsatuH RoundTrip.vsubsatuH
    RoundTrip.vseqH RoundTrip.vsltH RoundTrip.vshlH RoundTrip.vshrH RoundTrip.vsarH RoundTrip.vabsH RoundTrip.vfadd
    RoundTrip.vfsub RoundTrip.vfmul RoundTrip.vfma RoundTrip.vfms RoundTrip.vfnma RoundTrip.vfmin RoundTrip.vfmax
    RoundTrip.vfminnum RoundTrip.vfmaxnum RoundTrip.vfabs RoundTrip.vfneg RoundTrip.vfceq RoundTrip.vfclt RoundTrip.vfcle
    RoundTrip.vfcun RoundTrip.vfdiv RoundTrip.vfsqrt RoundTrip.vfrcp RoundTrip.vfrsq RoundTrip.vfexp2 RoundTrip.vflog2
    RoundTrip.vfrint RoundTrip.vfclass RoundTrip.vfcopysign RoundTrip.vfaddScalar RoundTrip.vfsubScalar RoundTrip.vfmulScalar
    RoundTrip.vfmaScalar RoundTrip.vfmsScalar RoundTrip.vfnmaScalar RoundTrip.vfminScalar RoundTrip.vfmaxScalar
    RoundTrip.vfminnumScalar RoundTrip.vfmaxnumScalar RoundTrip.vfceqScalar RoundTrip.vfcltScalar RoundTrip.vfcleScalar
    RoundTrip.vfcunScalar RoundTrip.vfdivScalar RoundTrip.vfcopysignScalar RoundTrip.vhadd RoundTrip.vhsub RoundTrip.vhmul
    RoundTrip.vhfma RoundTrip.vhmin RoundTrip.vhmax RoundTrip.vhceq RoundTrip.vhclt RoundTrip.vhcle RoundTrip.vhcun
    RoundTrip.vhaddBf RoundTrip.vhsubBf RoundTrip.vhmulBf RoundTrip.vhfmaBf RoundTrip.vhminBf RoundTrip.vhmaxBf
    RoundTrip.vhceqBf RoundTrip.vhcltBf RoundTrip.vhcleBf RoundTrip.vhcunBf RoundTrip.vcvt RoundTrip.vshuf RoundTrip.vrotl
    RoundTrip.vbfly RoundTrip.vbcast RoundTrip.vextr RoundTrip.vins RoundTrip.vprefix RoundTrip.vredadd RoundTrip.vredmin
    RoundTrip.vredmax RoundTrip.vredminu RoundTrip.vredmaxu RoundTrip.vredfadd RoundTrip.vmerge RoundTrip.vlaneid
    RoundTrip.vmov RoundTrip.vmovs RoundTrip.vactmask RoundTrip.vpackb RoundTrip.vunpkb RoundTrip.vpackh RoundTrip.vunpkh
    RoundTrip.vrand RoundTrip.vrandf RoundTrip.xclr RoundTrip.xadd RoundTrip.xaddh RoundTrip.xmerge RoundTrip.xrdS
    RoundTrip.xrdD RoundTrip.ld RoundTrip.lds RoundTrip.st RoundTrip.ldfe RoundTrip.stfe RoundTrip.ldf RoundTrip.stf
    RoundTrip.feset RoundTrip.feclr RoundTrip.feget RoundTrip.waiteq RoundTrip.waitne RoundTrip.pref RoundTrip.vld
    RoundTrip.vldFe RoundTrip.vldF RoundTrip.vst RoundTrip.vstFe RoundTrip.vstF RoundTrip.vgath RoundTrip.vscat
    RoundTrip.vldk RoundTrip.vstk RoundTrip.aadd RoundTrip.aand RoundTrip.aor RoundTrip.axor RoundTrip.amin RoundTrip.amax
    RoundTrip.aminu RoundTrip.amaxu RoundTrip.aswap RoundTrip.acas RoundTrip.afadd RoundTrip.afmax RoundTrip.vaadd
    RoundTrip.vaand RoundTrip.vaor RoundTrip.vaxor RoundTrip.vamin RoundTrip.vamax RoundTrip.vaminu RoundTrip.vamaxu
    RoundTrip.vaswap RoundTrip.vafadd RoundTrip.fence RoundTrip.fenceSc RoundTrip.fenceSv RoundTrip.barinit RoundTrip.bararr
    RoundTrip.barwait RoundTrip.bararw RoundTrip.barlead RoundTrip.barq RoundTrip.tlwait RoundTrip.tlget RoundTrip.nclaim
    RoundTrip.nunpack RoundTrip.park RoundTrip.wake RoundTrip.sdef RoundTrip.sdim RoundTrip.sbind RoundTrip.sunbind
    RoundTrip.sgo RoundTrip.sstop RoundTrip.sstat RoundTrip.sdrain RoundTrip.cpset RoundTrip.cpget RoundTrip.cpgo
    RoundTrip.cpstat RoundTrip.cpresume RoundTrip.obres RoundTrip.obfree RoundTrip.bsres RoundTrip.bsfree RoundTrip.mma
    RoundTrip.mmaz RoundTrip.accz RoundTrip.accrd RoundTrip.accwr RoundTrip.accst RoundTrip.mrot RoundTrip.publish
    RoundTrip.unpublish RoundTrip.subscribe RoundTrip.depart RoundTrip.rejoin RoundTrip.chstat RoundTrip.ralloc
    RoundTrip.rallocw RoundTrip.rcommit RoundTrip.rdone RoundTrip.rdepth RoundTrip.rinfo RoundTrip.slotstart
    RoundTrip.slotreap RoundTrip.slotexit RoundTrip.regclaim RoundTrip.regyield RoundTrip.regmode RoundTrip.slotctlState
    RoundTrip.slotctlRdsr RoundTrip.slotctlWrsr RoundTrip.slotctlRds RoundTrip.slotctlWrs RoundTrip.slotctlRdv
    RoundTrip.slotctlWrv RoundTrip.slotctlRdctx RoundTrip.slotctlWrctx RoundTrip.slotctlResume RoundTrip.slotctlKill
    RoundTrip.slotctlSpill RoundTrip.getsr RoundTrip.setsr RoundTrip.trap RoundTrip.brkpt RoundTrip.locality RoundTrip.icinv
    RoundTrip.nop RoundTrip.idle RoundTrip.idleDelayEnd RoundTrip.waitqSatisfied RoundTrip.instructionCacheRefill
    RoundTrip.icinvComplete RoundTrip.producerValueWrite RoundTrip.postedAcknowledgement RoundTrip.activeMessage
    RoundTrip.waiterResend RoundTrip.fewaitExpiry RoundTrip.cancelAnswer RoundTrip.barrierArrival RoundTrip.wakeArrival
    RoundTrip.parkTimeout RoundTrip.streamElementRead RoundTrip.streamElementWrite RoundTrip.copyLaunchAccept
    RoundTrip.copyPayload RoundTrip.copyCompletion RoundTrip.copyWaitrecResume RoundTrip.matrixStep
    RoundTrip.stepAccumulation RoundTrip.rotationTableEffect RoundTrip.powerCapEffect RoundTrip.channelRegistry
    RoundTrip.publishedInstruction RoundTrip.endMark RoundTrip.channelStop RoundTrip.joinWaitExpiry
    RoundTrip.shawmRecordOperation RoundTrip.rallocwServed RoundTrip.rallocwWaitExpiry RoundTrip.coalescingTimer
    RoundTrip.placementReservation RoundTrip.placementRetry RoundTrip.groupCommit RoundTrip.groupStart
    RoundTrip.slotStartFirstIssue RoundTrip.groupSlotReturn RoundTrip.groupEnd RoundTrip.hostRecordAppend
    RoundTrip.graphLoadComplete RoundTrip.graphTeardownComplete RoundTrip.spillComplete RoundTrip.resumeRestore
    RoundTrip.resumedSlotFirstIssue RoundTrip.faultRecordPost RoundTrip.mailboxPoll RoundTrip.mboxSlotctlState
    RoundTrip.mboxSlotctlRdsr RoundTrip.mboxSlotctlWrsr RoundTrip.mboxSlotctlRds RoundTrip.mboxSlotctlWrs
    RoundTrip.mboxSlotctlRdv RoundTrip.mboxSlotctlWrv RoundTrip.mboxSlotctlRdctx RoundTrip.mboxSlotctlWrctx
    RoundTrip.mboxSlotctlResume RoundTrip.mboxSlotctlKill RoundTrip.mboxSlotctlSpill RoundTrip.graphload RoundTrip.graphtear
    RoundTrip.inval RoundTrip.invalidationComplete RoundTrip.mboxFence RoundTrip.unfence RoundTrip.reset
    RoundTrip.partitionResetComplete RoundTrip.switch RoundTrip.switchDrainComplete RoundTrip.switchDeadline
    RoundTrip.partOpen RoundTrip.close RoundTrip.resetpkg RoundTrip.twinHashArrival RoundTrip.twinHashTimeout
    RoundTrip.enable RoundTrip.protectionInitComplete RoundTrip.disable RoundTrip.declare RoundTrip.rebuild
    RoundTrip.parityDelta RoundTrip.deltaForward RoundTrip.deltaAcknowledgement RoundTrip.parityAcknowledgement
    RoundTrip.deltaSilence RoundTrip.quiesceDrainComplete RoundTrip.stripeRebuild RoundTrip.sectorReconstruction
    RoundTrip.patrolScrub RoundTrip.hostWrite RoundTrip.hostRead RoundTrip.svfence RoundTrip.mailboxDoorbell
    RoundTrip.intstat RoundTrip.mevent RoundTrip.fusepkg RoundTrip.timectlStep RoundTrip.pwrcap RoundTrip.produceReport
    RoundTrip.reportComplete RoundTrip.registerWrite RoundTrip.flitReplay RoundTrip.portUp RoundTrip.portFailure
    RoundTrip.routeUnreachable RoundTrip.timeSync RoundTrip.referenceLoss RoundTrip.referenceReturn RoundTrip.droopTrip
    RoundTrip.stretchEnd RoundTrip.powerAlert RoundTrip.thermalTrip RoundTrip.packageReset RoundTrip.bringupStageComplete
    RoundTrip.memoryEdgeRequest RoundTrip.xaccHoldEnd RoundTrip.illegalEncoding

/-- Settles O49, instruction by instruction: the fields of a packed word are read back as they were packed. -/
theorem decodeUndoesEncode : Obligations.DecodeUndoesEncode := fun i rest hne hwf => roundTrip i hne hwf rest

end Sys2Proof.Laws

/-! A word has one meaning (R57 to R72): O50. What a decoder makes of the fields of a word is followed from the operands, by
their shapes, through the minors of each major to the words of each format. -/

namespace Sys2Proof.Laws

/-- Whatever `r` reads is an instruction whose only word is `w`. -/
def Spells (w : BitVec 32) (r : Except DecodeErr Instr) : Prop := ∀ i, r = .ok i → encode i = [w]

theorem spells_error {w : BitVec 32} {e : DecodeErr} : Spells w (.error e) := fun _ h => nomatch h

theorem spells_some {w : BitVec 32} {i : Instr} (h : encode i = [w]) : Spells w (fields (some i)) := by
  rintro _ ⟨⟩; exact h

theorem spells_bind {α : Type} {w : BitVec 32} {o : Option α} {g : α → Option Instr}
    (h : ∀ v, o = some v → Spells w (fields (g v))) : Spells w (fields (o.bind g)) := by
  cases o with
  | none => exact spells_error
  | some v => exact h v rfl

theorem spells_if {w : BitVec 32} {q : Prop} [Decidable q] {o : Option Instr} (h : q → Spells w (fields o)) :
    Spells w (fields (if q then o else none)) := by
  split
  · exact h ‹q›
  · exact spells_error

/-! ## A code names one thing -/

theorem sreg_some {x : Nat} {r : SReg} (h : sreg x = some r) : r.toNat = x := by
  obtain ⟨hx, hr⟩ := Option.ite_none_right_eq_some.mp h
  rw [← Option.some.inj hr]
  exact Nat.mod_eq_of_lt hx

theorem scope_some {x : Nat} {c : Scope} (h : Scope.ofCode x = some c) : c.code = x := by
  unfold Scope.ofCode at h; split at h <;> cases h <;> rfl

theorem order_some {x : Nat} {o : Order} (h : Order.ofCode x = some o) : o.code = x := by
  unfold Order.ofCode at h; split at h <;> cases h <;> rfl

theorem size_some {x : Nat} {z : Size} (h : Size.ofCode x = some z) : z.code = x := by
  unfold Size.ofCode at h; split at h <;> cases h <;> rfl

theorem vsize_some {x : Nat} {z : VSize} (h : VSize.ofCode x = some z) : z.code = x := by
  unfold VSize.ofCode at h; split at h <;> cases h <;> rfl

theorem cond_some {x : Nat} {c : Cond} (h : Cond.ofCode x = some c) : c.code = x := by
  unfold Cond.ofCode at h; split at h <;> cases h <;> rfl

theorem specReg_some {x : Nat} {n : SpecReg} (h : SpecReg.ofCode x = some n) : n.code = x := by
  unfold SpecReg.ofCode at h; split at h <;> cases h <;> rfl

theorem timeline_some {x : Nat} {t : Timeline} (h : Timeline.ofCode x = some t) : t.code = x := by
  unfold Timeline.ofCode at h
  split at h
  · cases h
    exact Nat.mod_eq_of_lt ‹_›
  · obtain ⟨⟨hlo, hhi⟩, ht⟩ := Option.ite_none_right_eq_some.mp h
    rw [← Option.some.inj ht, Timeline.code, BitVec.toNat_ofNat, Nat.mod_eq_of_lt (by omega), Nat.sub_add_cancel hlo]

/-! ## A part of a field -/

theorem mod_eq_of_div_eq_zero {x m : Nat} (h : x / m = 0) : x % m = x := by
  rw [Nat.mod_def, h, Nat.mul_zero, Nat.sub_zero]

theorem beq_one_toNat {x : Nat} (h : x < 2) : (x == 1).toNat = x := by
  interval_cases x <;> rfl

theorem bit_toNat {x : Nat} : (x % 2 == 1).toNat = x % 2 := beq_one_toNat (Nat.mod_lt x two_pos)

/-! ## The shapes of operands

For a shape `Dec.<shape>` with the decoder's fields: where encoding an instruction of the shape packs its operands by `p`, the
fields that the shape accepts are those packed by `p`. The fields x, y and z (i in formats V and VA) are written u, v and w
where every value of their bits is an operand. A shape of format X that has its like in format A is the same function, and
has its lemma there. -/

section
variable {x y z n : Nat} {u v w : BitVec 7} {p : Nat → Nat → Nat → BitVec 32}

theorem aSxSySz_spells {f : SReg → SReg → SReg → Instr} (enc : ∀ a b c, encode (f a b c) = [p a.toNat b.toNat c.toNat]) :
    Spells (p x y z) (fields (Dec.aSxSySz f x y z)) :=
  spells_bind fun a ha => spells_bind fun b hb => spells_bind fun c hc =>
    spells_some (by simp only [enc, sreg_some ha, sreg_some hb, sreg_some hc])

theorem aSxSy_spells {f : SReg → SReg → Instr} (enc : ∀ a b, encode (f a b) = [p a.toNat b.toNat 0]) :
    Spells (p x y z) (fields (Dec.aSxSy f x y z)) :=
  spells_if fun hz => spells_bind fun a ha => spells_bind fun b hb =>
    spells_some (by simp only [enc, sreg_some ha, sreg_some hb, hz])

theorem aSxSyN_spells {f : SReg → SReg → BitVec 6 → Instr} (enc : ∀ a b c, encode (f a b c) = [p a.toNat b.toNat c.toNat]) :
    Spells (p x y z) (fields (Dec.aSxSyN f x y z)) :=
  spells_if fun hz => spells_bind fun a ha => spells_bind fun b hb =>
    spells_some (by simp only [enc, sreg_some ha, sreg_some hb, BitVec.toNat_ofNat, Nat.reducePow,
      mod_eq_of_div_eq_zero hz])

theorem aSy_spells {f : SReg → Instr} (enc : ∀ a, encode (f a) = [p 0 a.toNat 0]) :
    Spells (p x y z) (fields (Dec.aSy f x y z)) :=
  spells_if fun ⟨hx, hz⟩ => spells_bind fun a ha => spells_some (by simp only [enc, sreg_some ha, hx, hz])

theorem aVy_spells {f : VRegNo → Instr} (enc : ∀ a, encode (f a) = [p 0 a.toNat 0]) :
    Spells (p x v.toNat z) (fields (Dec.aVy f x v.toNat z)) :=
  spells_if fun ⟨hx, hz⟩ => spells_some (by simp only [enc, ofNat_toNat, hx, hz])

theorem a_spells {f : Instr} (enc : encode f = [p 0 0 0]) :
    Spells (p x y z) (fields (Dec.a f x y z)) :=
  spells_if fun ⟨hx, hy, hz⟩ => spells_some (by simp only [enc, hx, hy, hz])

theorem a2_spells {f : Instr} (enc : encode f = [p 0 0 n]) :
    Spells (p x y n) (fields (Dec.a2 f x y)) :=
  spells_if fun ⟨hx, hy⟩ => spells_some (by simp only [enc, hx, hy])

theorem aVyBz_spells {f : VRegNo → BitVec 7 → Instr} (enc : ∀ a b, encode (f a b) = [p 0 a.toNat b.toNat]) :
    Spells (p x v.toNat w.toNat) (fields (Dec.aVyBz f x v.toNat w.toNat)) :=
  spells_if fun hx => spells_some (by simp only [enc, ofNat_toNat, hx])

theorem aSxVy_spells {f : SReg → VRegNo → Instr} (enc : ∀ a b, encode (f a b) = [p a.toNat b.toNat 0]) :
    Spells (p x v.toNat z) (fields (Dec.aSxVy f x v.toNat z)) :=
  spells_if fun hz => spells_bind fun a ha => spells_some (by simp only [enc, ofNat_toNat, sreg_some ha, hz])

theorem aVx_spells {f : VRegNo → Instr} (enc : ∀ a, encode (f a) = [p a.toNat 0 0]) :
    Spells (p u.toNat y z) (fields (Dec.aVx f u.toNat y z)) :=
  spells_if fun ⟨hy, hz⟩ => spells_some (by simp only [enc, ofNat_toNat, hy, hz])

theorem aVxVyVz_spells {f : VRegNo → VRegNo → VRegNo → Instr} (enc : ∀ a b c, encode (f a b c) = [p a.toNat b.toNat c.toNat]) :
    Spells (p u.toNat v.toNat w.toNat) (fields (Dec.aVxVyVz f u.toNat v.toNat w.toNat)) :=
  spells_some (by simp only [enc, ofNat_toNat])

theorem aVxVy_spells {f : VRegNo → VRegNo → Instr} (enc : ∀ a b, encode (f a b) = [p a.toNat b.toNat 0]) :
    Spells (p u.toNat v.toNat z) (fields (Dec.aVxVy f u.toNat v.toNat z)) :=
  spells_if fun hz => spells_some (by simp only [enc, ofNat_toNat, hz])

theorem aVxVySz_spells {f : VRegNo → VRegNo → SReg → Instr} (enc : ∀ a b c, encode (f a b c) = [p a.toNat b.toNat c.toNat]) :
    Spells (p u.toNat v.toNat z) (fields (Dec.aVxVySz f u.toNat v.toNat z)) :=
  spells_bind fun c hc => spells_some (by simp only [enc, ofNat_toNat, sreg_some hc])

theorem aVxVyFzFFK_spells {f : VRegNo → VRegNo → BitVec 7 → Bool → Bool → BitVec 3 → Instr} {k : Nat}
    {p : Nat → Nat → Nat → Nat → BitVec 32} (hk : k < 32)
    (enc : ∀ a b c d e g, encode (f a b c d e g) = [p (d.toNat * 16 + e.toNat * 8 + g.toNat) a.toNat b.toNat c.toNat]) :
    Spells (p k u.toNat v.toNat w.toNat) (fields (Dec.aVxVyFzFFK f u.toNat v.toNat w.toNat k)) := by
  have hd : (k / 16 == 1).toNat = k / 16 := beq_one_toNat (by omega)
  have hg : (BitVec.ofNat 3 (k % 8)).toNat = k % 8 := Nat.mod_mod ..
  have hsum : k / 16 * 16 + k / 8 % 2 * 8 + k % 8 = k := by omega
  exact spells_some (by simp only [enc, ofNat_toNat, hd, bit_toNat, hg, hsum])

theorem aSxVySz_spells {f : SReg → VRegNo → SReg → Instr} (enc : ∀ a b c, encode (f a b c) = [p a.toNat b.toNat c.toNat]) :
    Spells (p x v.toNat z) (fields (Dec.aSxVySz f x v.toNat z)) :=
  spells_bind fun a ha => spells_bind fun c hc => spells_some (by simp only [enc, ofNat_toNat, sreg_some ha, sreg_some hc])

theorem aVxSySz_spells {f : VRegNo → SReg → SReg → Instr} (enc : ∀ a b c, encode (f a b c) = [p a.toNat b.toNat c.toNat]) :
    Spells (p u.toNat y z) (fields (Dec.aVxSySz f u.toNat y z)) :=
  spells_bind fun b hb => spells_bind fun c hc => spells_some (by simp only [enc, ofNat_toNat, sreg_some hb, sreg_some hc])

theorem aVxSy_spells {f : VRegNo → SReg → Instr} (enc : ∀ a b, encode (f a b) = [p a.toNat b.toNat 0]) :
    Spells (p u.toNat y z) (fields (Dec.aVxSy f u.toNat y z)) :=
  spells_if fun hz => spells_bind fun b hb => spells_some (by simp only [enc, ofNat_toNat, sreg_some hb, hz])

theorem aSx_spells {f : SReg → Instr} (enc : ∀ a, encode (f a) = [p a.toNat 0 0]) :
    Spells (p x y z) (fields (Dec.aSx f x y z)) :=
  spells_if fun ⟨hy, hz⟩ => spells_bind fun a ha => spells_some (by simp only [enc, sreg_some ha, hy, hz])

theorem aSyVz_spells {f : SReg → VRegNo → Instr} (enc : ∀ a b, encode (f a b) = [p 0 a.toNat b.toNat]) :
    Spells (p x y w.toNat) (fields (Dec.aSyVz f x y w.toNat)) :=
  spells_if fun hx => spells_bind fun a ha => spells_some (by simp only [enc, ofNat_toNat, sreg_some ha, hx])

theorem aSySz_spells {f : SReg → SReg → Instr} (enc : ∀ a b, encode (f a b) = [p 0 a.toNat b.toNat]) :
    Spells (p x y z) (fields (Dec.aSySz f x y z)) :=
  spells_if fun hx => spells_bind fun a ha => spells_bind fun b hb =>
    spells_some (by simp only [enc, sreg_some ha, sreg_some hb, hx])

theorem aSxSy2_spells {f : SReg → SReg → Instr} (enc : ∀ a b, encode (f a b) = [p a.toNat b.toNat n]) :
    Spells (p x y n) (fields (Dec.aSxSy2 f x y)) :=
  spells_bind fun a ha => spells_bind fun b hb => spells_some (by simp only [enc, sreg_some ha, sreg_some hb])

end

section
variable {x y : Nat} {w : BitVec 12} {p : Nat → Nat → Nat → BitVec 32}

theorem bSxSyIz_spells {f : SReg → SReg → BitVec 12 → Instr} (enc : ∀ a b c, encode (f a b c) = [p a.toNat b.toNat c.toNat]) :
    Spells (p x y w.toNat) (fields (Dec.bSxSyIz f x y w.toNat)) :=
  spells_bind fun a ha => spells_bind fun b hb => spells_some (by simp only [enc, ofNat_toNat, sreg_some ha, sreg_some hb])

theorem bCxSyIz_spells {f : Cond → SReg → BitVec 12 → Instr} (enc : ∀ a b c, encode (f a b c) = [p a.code b.toNat c.toNat]) :
    Spells (p x y w.toNat) (fields (Dec.bCxSyIz f x y w.toNat)) :=
  spells_bind fun a ha => spells_bind fun b hb => spells_some (by simp only [enc, ofNat_toNat, cond_some ha, sreg_some hb])

theorem bSyIz_spells {f : SReg → BitVec 12 → Instr} (enc : ∀ a b, encode (f a b) = [p 0 a.toNat b.toNat]) :
    Spells (p x y w.toNat) (fields (Dec.bSyIz f x y w.toNat)) :=
  spells_if fun hx => spells_bind fun a ha => spells_some (by simp only [enc, ofNat_toNat, sreg_some ha, hx])

end

section
variable {x : Nat} {v : BitVec 19} {p : Nat → Nat → BitVec 32}

theorem cSxIy_spells {f : SReg → BitVec 19 → Instr} (enc : ∀ a b, encode (f a b) = [p a.toNat b.toNat]) :
    Spells (p x v.toNat) (fields (Dec.cSxIy f x v.toNat)) :=
  spells_bind fun a ha => spells_some (by simp only [enc, ofNat_toNat, sreg_some ha])

theorem cIy_spells {f : BitVec 19 → Instr} (enc : ∀ a, encode (f a) = [p 0 a.toNat]) :
    Spells (p x v.toNat) (fields (Dec.cIy f x v.toNat)) :=
  spells_if fun hx => spells_some (by simp only [enc, ofNat_toNat, hx])

end

section
variable {x y c o z : Nat} {p : Nat → Nat → Nat → Nat → Nat → BitVec 32}

theorem mSxSyCOZz_spells {f : SReg → SReg → Scope → Order → Size → Instr}
    (enc : ∀ a b c d e, encode (f a b c d e) = [p a.toNat b.toNat c.code d.code e.code]) :
    Spells (p x y c o z) (fields (Dec.mSxSyCOZz f x y c o z)) :=
  spells_bind fun a ha => spells_bind fun b hb => spells_bind fun c hc => spells_bind fun d hd => spells_bind fun e he =>
    spells_some (by simp only [enc, sreg_some ha, sreg_some hb, scope_some hc, order_some hd, size_some he])

theorem mSxSyCO_spells {f : SReg → SReg → Scope → Order → Instr}
    (enc : ∀ a b c d, encode (f a b c d) = [p a.toNat b.toNat c.code d.code 2]) :
    Spells (p x y c o z) (fields (Dec.mSxSyCO f x y c o z)) :=
  spells_if fun hz => spells_bind fun a ha => spells_bind fun b hb => spells_bind fun c hc => spells_bind fun d hd =>
    spells_some (by simp only [enc, sreg_some ha, sreg_some hb, scope_some hc, order_some hd, hz])

theorem mSyCO_spells {f : SReg → Scope → Order → Instr} (enc : ∀ a b c, encode (f a b c) = [p 0 a.toNat b.code c.code 2]) :
    Spells (p x y c o z) (fields (Dec.mSyCO f x y c o z)) :=
  spells_if fun ⟨hx, hz⟩ => spells_bind fun a ha => spells_bind fun b hb => spells_bind fun c hc =>
    spells_some (by simp only [enc, sreg_some ha, scope_some hb, order_some hc, hx, hz])

theorem mSy_spells {f : SReg → Instr} (enc : ∀ a, encode (f a) = [p 0 a.toNat 0 0 0]) :
    Spells (p x y c o z) (fields (Dec.mSy f x y c o z)) :=
  spells_if fun ⟨hx, hc, ho, hz⟩ => spells_bind fun a ha => spells_some (by simp only [enc, sreg_some ha, hx, hc, ho, hz])

theorem mCO_spells {f : Scope → Order → Instr} (enc : ∀ a b, encode (f a b) = [p 0 0 a.code b.code 0]) :
    Spells (p x y c o z) (fields (Dec.mCO f x y c o z)) :=
  spells_if fun ⟨hx, hy, hz⟩ => spells_bind fun a ha => spells_bind fun b hb =>
    spells_some (by simp only [enc, scope_some ha, order_some hb, hx, hy, hz])

theorem mC_spells {f : Scope → Instr} (enc : ∀ a, encode (f a) = [p 0 0 a.code 0 0]) :
    Spells (p x y c o z) (fields (Dec.mC f x y c o z)) :=
  spells_if fun ⟨hx, hy, ho, hz⟩ => spells_bind fun a ha => spells_some (by simp only [enc, scope_some ha, hx, hy, ho, hz])

theorem m_spells {f : Instr} (enc : encode f = [p 0 0 0 0 0]) :
    Spells (p x y c o z) (fields (Dec.m f x y c o z)) :=
  spells_if fun ⟨hx, hy, hc, ho, hz⟩ => spells_some (by simp only [enc, hx, hy, hc, ho, hz])

end

section
variable {y i c o z n : Nat} {u v : BitVec 7} {p : Nat → Nat → Nat → Nat → Nat → Nat → BitVec 32}

theorem vVxSyCOZz_spells {f : VRegNo → SReg → Scope → Order → VSize → Instr}
    (enc : ∀ a b c d e, encode (f a b c d e) = [p a.toNat b.toNat n c.code d.code e.code]) :
    Spells (p u.toNat y n c o z) (fields (Dec.vVxSyCOZz f u.toNat y c o z)) :=
  spells_bind fun b hb => spells_bind fun c hc => spells_bind fun d hd => spells_bind fun e he =>
    spells_some (by simp only [enc, ofNat_toNat, sreg_some hb, scope_some hc, order_some hd, vsize_some he])

theorem vVxSyCO_spells {f : VRegNo → SReg → Scope → Order → Instr}
    (enc : ∀ a b c d, encode (f a b c d) = [p a.toNat b.toNat n c.code d.code 2]) :
    Spells (p u.toNat y n c o z) (fields (Dec.vVxSyCO f u.toNat y c o z)) :=
  spells_if fun hz => spells_bind fun b hb => spells_bind fun c hc => spells_bind fun d hd =>
    spells_some (by simp only [enc, ofNat_toNat, sreg_some hb, scope_some hc, order_some hd, hz])

theorem vVxSyViCOZz_spells {f : VRegNo → SReg → VRegNo → Scope → Order → VSize → Instr}
    (enc : ∀ a b c d e g, encode (f a b c d e g) = [p a.toNat b.toNat c.toNat d.code e.code g.code]) :
    Spells (p u.toNat y v.toNat c o z) (fields (Dec.vVxSyViCOZz f u.toNat y v.toNat c o z)) :=
  spells_bind fun b hb => spells_bind fun d hd => spells_bind fun e he => spells_bind fun g hg =>
    spells_some (by simp only [enc, ofNat_toNat, sreg_some hb, scope_some hd, order_some he, vsize_some hg])

theorem vVxSySCOZz_spells {f : VRegNo → SReg → SReg → Scope → Order → VSize → Instr}
    (enc : ∀ a b c d e g, encode (f a b c d e g) = [p a.toNat b.toNat c.toNat d.code e.code g.code]) :
    Spells (p u.toNat y i c o z) (fields (Dec.vVxSySCOZz f u.toNat y i c o z)) :=
  spells_if fun hi => spells_bind fun b hb => spells_bind fun c hc => spells_bind fun d hd => spells_bind fun e he =>
    spells_bind fun g hg =>
    spells_some (by simp only [enc, ofNat_toNat, sreg_some hb, sreg_some hc, scope_some hd, order_some he,
      vsize_some hg, mod_eq_of_div_eq_zero hi])

end

section
variable {y o r : Nat} {u v : BitVec 7} {p : Nat → Nat → Nat → Nat → Nat → BitVec 32}

theorem vaVxSyViO_spells {f : VRegNo → SReg → VRegNo → Order → Instr}
    (enc : ∀ a b c d, encode (f a b c d) = [p a.toNat b.toNat c.toNat d.code 0]) :
    Spells (p u.toNat y v.toNat o r) (fields (Dec.vaVxSyViO f u.toNat y v.toNat o r)) :=
  spells_if fun hr => spells_bind fun b hb => spells_bind fun d hd =>
    spells_some (by simp only [enc, ofNat_toNat, sreg_some hb, order_some hd, hr])

end

section
variable {x y z : Nat} {u w : BitVec 7} {p : Nat → Nat → Nat → BitVec 32}

theorem xSxSyLz_spells {f : SReg → SReg → Timeline → Instr} (enc : ∀ a b c, encode (f a b c) = [p a.toNat b.toNat c.code]) :
    Spells (p x y z) (fields (Dec.xSxSyLz f x y z)) :=
  spells_bind fun a ha => spells_bind fun b hb => spells_bind fun c hc =>
    spells_some (by simp only [enc, sreg_some ha, sreg_some hb, timeline_some hc])

theorem xSxLz_spells {f : SReg → Timeline → Instr} (enc : ∀ a b, encode (f a b) = [p a.toNat 0 b.code]) :
    Spells (p x y z) (fields (Dec.xSxLz f x y z)) :=
  spells_if fun hy => spells_bind fun a ha => spells_bind fun b hb =>
    spells_some (by simp only [enc, sreg_some ha, timeline_some hb, hy])

theorem xSxSyT_spells {f : SReg → SReg → BitVec 2 → Instr} (enc : ∀ a b c, encode (f a b c) = [p a.toNat b.toNat c.toNat]) :
    Spells (p x y z) (fields (Dec.xSxSyT f x y z)) :=
  spells_if fun hz => spells_bind fun a ha => spells_bind fun b hb =>
    spells_some (by simp only [enc, sreg_some ha, sreg_some hb, BitVec.toNat_ofNat, Nat.reducePow,
      mod_eq_of_div_eq_zero hz])

theorem xSxSyFZ_spells {f : SReg → SReg → Bool → VSize → Instr}
    (enc : ∀ a b c d, encode (f a b c d) = [p a.toNat b.toNat (c.toNat * 4 + d.code)]) :
    Spells (p x y z) (fields (Dec.xSxSyFZ f x y z)) :=
  spells_if fun hz => spells_bind fun a ha => spells_bind fun b hb => spells_bind fun d hd => by
    have hsum : z / 4 % 2 * 4 + z % 4 = z := by omega
    exact spells_some (by simp only [enc, sreg_some ha, sreg_some hb, bit_toNat, vsize_some hd, hsum])

theorem xSxSyBz_spells {f : SReg → SReg → BitVec 7 → Instr} (enc : ∀ a b c, encode (f a b c) = [p a.toNat b.toNat c.toNat]) :
    Spells (p x y w.toNat) (fields (Dec.xSxSyBz f x y w.toNat)) :=
  spells_bind fun a ha => spells_bind fun b hb => spells_some (by simp only [enc, ofNat_toNat, sreg_some ha, sreg_some hb])

theorem xSyBz_spells {f : SReg → BitVec 7 → Instr} (enc : ∀ a b, encode (f a b) = [p 0 a.toNat b.toNat]) :
    Spells (p x y w.toNat) (fields (Dec.xSyBz f x y w.toNat)) :=
  spells_if fun hx => spells_bind fun a ha => spells_some (by simp only [enc, ofNat_toNat, sreg_some ha, hx])

theorem xSxBz_spells {f : SReg → BitVec 7 → Instr} (enc : ∀ a b, encode (f a b) = [p a.toNat 0 b.toNat]) :
    Spells (p x y w.toNat) (fields (Dec.xSxBz f x y w.toNat)) :=
  spells_if fun hy => spells_bind fun a ha => spells_some (by simp only [enc, ofNat_toNat, sreg_some ha, hy])

theorem xSxT_spells {f : SReg → BitVec 2 → Instr} (enc : ∀ a b, encode (f a b) = [p a.toNat 0 b.toNat]) :
    Spells (p x y z) (fields (Dec.xSxT f x y z)) :=
  spells_if fun ⟨hy, hz⟩ => spells_bind fun a ha =>
    spells_some (by simp only [enc, sreg_some ha, BitVec.toNat_ofNat, Nat.reducePow, mod_eq_of_div_eq_zero hz, hy])

theorem xSyT_spells {f : SReg → BitVec 2 → Instr} (enc : ∀ a b, encode (f a b) = [p 0 a.toNat b.toNat]) :
    Spells (p x y z) (fields (Dec.xSyT f x y z)) :=
  spells_if fun ⟨hx, hz⟩ => spells_bind fun a ha =>
    spells_some (by simp only [enc, sreg_some ha, BitVec.toNat_ofNat, Nat.reducePow, mod_eq_of_div_eq_zero hz, hx])

theorem xSyR_spells {f : SReg → BitVec 4 → Instr} (enc : ∀ a b, encode (f a b) = [p 0 a.toNat b.toNat]) :
    Spells (p x y z) (fields (Dec.xSyR f x y z)) :=
  spells_if fun ⟨hx, hz⟩ => spells_bind fun a ha =>
    spells_some (by simp only [enc, sreg_some ha, BitVec.toNat_ofNat, Nat.reducePow, mod_eq_of_div_eq_zero hz, hx])

theorem xR_spells {f : BitVec 4 → Instr} (enc : ∀ a, encode (f a) = [p 0 0 a.toNat]) :
    Spells (p x y z) (fields (Dec.xR f x y z)) :=
  spells_if fun ⟨hx, hy, hz⟩ =>
    spells_some (by simp only [enc, BitVec.toNat_ofNat, Nat.reducePow, mod_eq_of_div_eq_zero hz, hx, hy])

theorem xSxSyKT_spells {f : SReg → SReg → BitVec 5 → BitVec 2 → Instr}
    (enc : ∀ a b c d, encode (f a b c d) = [p a.toNat b.toNat (c.toNat * 4 + d.toNat)]) :
    Spells (p x y w.toNat) (fields (Dec.xSxSyKT f x y w.toNat)) :=
  spells_bind fun a ha => spells_bind fun b hb => by
    have hc : (BitVec.ofNat 5 (w.toNat / 4)).toNat = w.toNat / 4 := Nat.mod_eq_of_lt (by omega)
    have hd : (BitVec.ofNat 2 (w.toNat % 4)).toNat = w.toNat % 4 := Nat.mod_mod ..
    have hsum : w.toNat / 4 * 4 + w.toNat % 4 = w.toNat := Nat.div_add_mod' ..
    exact spells_some (by simp only [enc, sreg_some ha, sreg_some hb, hc, hd, hsum])

theorem xT_spells {f : BitVec 2 → Instr} (enc : ∀ a, encode (f a) = [p 0 0 a.toNat]) :
    Spells (p x y z) (fields (Dec.xT f x y z)) :=
  spells_if fun ⟨hx, hy, hz⟩ =>
    spells_some (by simp only [enc, BitVec.toNat_ofNat, Nat.reducePow, mod_eq_of_div_eq_zero hz, hx, hy])

theorem xVxSyT_spells {f : VRegNo → SReg → BitVec 2 → Instr} (enc : ∀ a b c, encode (f a b c) = [p a.toNat b.toNat c.toNat]) :
    Spells (p u.toNat y z) (fields (Dec.xVxSyT f u.toNat y z)) :=
  spells_if fun hz => spells_bind fun b hb =>
    spells_some (by simp only [enc, ofNat_toNat, sreg_some hb, BitVec.toNat_ofNat, Nat.reducePow,
      mod_eq_of_div_eq_zero hz])

theorem xCxSyBz_spells {f : Cond → SReg → BitVec 7 → Instr} (enc : ∀ a b c, encode (f a b c) = [p a.code b.toNat c.toNat]) :
    Spells (p x y w.toNat) (fields (Dec.xCxSyBz f x y w.toNat)) :=
  spells_bind fun a ha => spells_bind fun b hb => spells_some (by simp only [enc, ofNat_toNat, cond_some ha, sreg_some hb])

theorem xVxSyF_spells {f : VRegNo → SReg → Bool → Instr}
    (enc : ∀ a b c, encode (f a b c) = [p a.toNat b.toNat c.toNat]) :
    Spells (p u.toNat y z) (fields (Dec.xVxSyF f u.toNat y z)) :=
  spells_if fun hz => spells_bind fun b hb =>
    spells_some (by simp only [enc, ofNat_toNat, sreg_some hb, mod_eq_of_div_eq_zero hz,
      beq_one_toNat (Nat.lt_of_div_eq_zero two_pos hz)])

theorem xBxFFF_spells {f : BitVec 7 → Bool → Bool → Bool → Instr}
    (enc : ∀ a b c d, encode (f a b c d) = [p a.toNat 0 (b.toNat * 4 + c.toNat * 2 + d.toNat)]) :
    Spells (p u.toNat y z) (fields (Dec.xBxFFF f u.toNat y z)) :=
  spells_if fun ⟨hy, hz⟩ => by
    have hsum : z / 4 % 2 * 4 + z / 2 % 2 * 2 + z % 2 = z := by omega
    exact spells_some (by simp only [enc, ofNat_toNat, bit_toNat, hsum, hy])

theorem xSxPz_spells {f : SReg → SpecReg → Instr} (enc : ∀ a b, encode (f a b) = [p a.toNat 0 b.code]) :
    Spells (p x y z) (fields (Dec.xSxPz f x y z)) :=
  spells_if fun hy => spells_bind fun a ha => spells_bind fun b hb =>
    spells_some (by simp only [enc, sreg_some ha, specReg_some hb, hy])

theorem xSyPz_spells {f : SReg → SpecReg → Instr} (enc : ∀ a b, encode (f a b) = [p 0 a.toNat b.code]) :
    Spells (p x y z) (fields (Dec.xSyPz f x y z)) :=
  spells_if fun hx => spells_bind fun a ha => spells_bind fun b hb =>
    spells_some (by simp only [enc, sreg_some ha, specReg_some hb, hx])

theorem xBz_spells {f : BitVec 7 → Instr} (enc : ∀ a, encode (f a) = [p 0 0 a.toNat]) :
    Spells (p x y w.toNat) (fields (Dec.xBz f x y w.toNat)) :=
  spells_if fun ⟨hx, hy⟩ => spells_some (by simp only [enc, ofNat_toNat, hx, hy])

end

/-! ## The minors of each major, and the majors of each format

In what follows case `h_n` is the n-th row that the decoder lists, and the last case what it does not list. -/

section
variable {k : Nat} {u v w : BitVec 7}

theorem dec01_spells : Spells (packA 0x01 k u.toNat v.toNat w.toNat) (dec01 k u.toNat v.toNat w.toNat) := by
  unfold dec01
  split
  case h_28 | h_29 | h_30 => exact aSxSy_spells fun _ _ => rfl
  case h_33 => exact spells_error
  all_goals exact aSxSySz_spells fun _ _ _ => rfl

theorem dec08_spells : Spells (packA 0x08 k u.toNat v.toNat w.toNat) (dec08 k u.toNat v.toNat w.toNat) := by
  unfold dec08
  split
  case h_5 => exact spells_error
  all_goals exact aSxSyN_spells fun _ _ _ => rfl

theorem dec0E_spells : Spells (packA 0x0E k u.toNat v.toNat w.toNat) (dec0E k u.toNat v.toNat w.toNat) := by
  unfold dec0E
  split
  case h_2 => exact aSxSy_spells fun _ _ => rfl
  case h_3 => exact spells_error
  case h_1 => exact aSy_spells fun _ => rfl

theorem dec11_3_spells {x y z : Nat} : Spells (packA 0x11 3 x y z) (Dec.dec11_3 z x y) := by
  unfold Dec.dec11_3
  split
  case h_3 => exact spells_error
  all_goals exact a2_spells rfl

theorem dec11_spells : Spells (packA 0x11 k u.toNat v.toNat w.toNat) (dec11 k u.toNat v.toNat w.toNat) := by
  unfold dec11
  split
  case h_3 | h_5 => exact a_spells rfl
  case h_4 => exact dec11_3_spells
  case h_6 | h_7 => exact aVyBz_spells fun _ _ => rfl
  case h_8 => exact aSxVy_spells fun _ _ => rfl
  case h_9 => exact aVx_spells fun _ => rfl
  case h_11 => exact spells_error
  all_goals exact aVy_spells fun _ => rfl

theorem dec12_spells : Spells (packA 0x12 k u.toNat v.toNat w.toNat) (dec12 k u.toNat v.toNat w.toNat) := by
  unfold dec12
  split
  case h_17 | h_18 | h_25 | h_26 => exact aVxVy_spells fun _ _ => rfl
  case h_33 => exact spells_error
  all_goals exact aVxVyVz_spells fun _ _ _ => rfl

theorem dec13_spells : Spells (packA 0x13 k u.toNat v.toNat w.toNat) (dec13 k u.toNat v.toNat w.toNat) := by
  unfold dec13
  split
  case h_29 => exact spells_error
  all_goals exact aVxVySz_spells fun _ _ _ => rfl

theorem dec14_spells : Spells (packA 0x14 k u.toNat v.toNat w.toNat) (dec14 k u.toNat v.toNat w.toNat) := by
  unfold dec14
  split
  case h_18 => exact aVxVy_spells fun _ _ => rfl
  case h_19 => exact spells_error
  all_goals exact aVxVyVz_spells fun _ _ _ => rfl

theorem dec15_spells : Spells (packA 0x15 k u.toNat v.toNat w.toNat) (dec15 k u.toNat v.toNat w.toNat) := by
  unfold dec15
  split
  case h_11 | h_12 | h_18 | h_19 | h_20 | h_21 | h_22 | h_23 | h_24 => exact aVxVy_spells fun _ _ => rfl
  case h_26 => exact spells_error
  all_goals exact aVxVyVz_spells fun _ _ _ => rfl

theorem dec16_spells : Spells (packA 0x16 k u.toNat v.toNat w.toNat) (dec16 k u.toNat v.toNat w.toNat) := by
  unfold dec16
  split
  case h_17 => exact spells_error
  all_goals exact aVxVySz_spells fun _ _ _ => rfl

theorem dec17_spells : Spells (packA 0x17 k u.toNat v.toNat w.toNat) (dec17 k u.toNat v.toNat w.toNat) := by
  unfold dec17
  split
  case h_21 => exact spells_error
  all_goals exact aVxVyVz_spells fun _ _ _ => rfl

theorem dec19_spells : Spells (packA 0x19 k u.toNat v.toNat w.toNat) (dec19 k u.toNat v.toNat w.toNat) := by
  unfold dec19
  split
  case h_1 | h_14 => exact aVxVyVz_spells fun _ _ _ => rfl
  case h_5 => exact aSxVySz_spells fun _ _ _ => rfl
  case h_6 => exact aVxSySz_spells fun _ _ _ => rfl
  case h_7 | h_16 => exact aVxVy_spells fun _ _ => rfl
  case h_8 | h_9 | h_10 | h_11 | h_12 | h_13 => exact aSxVy_spells fun _ _ => rfl
  case h_15 => exact aVx_spells fun _ => rfl
  case h_17 => exact aVxSy_spells fun _ _ => rfl
  case h_18 => exact aSx_spells fun _ => rfl
  case h_23 => exact spells_error
  all_goals exact aVxVySz_spells fun _ _ _ => rfl

theorem dec1A_spells : Spells (packA 0x1A k u.toNat v.toNat w.toNat) (dec1A k u.toNat v.toNat w.toNat) := by
  unfold dec1A
  split
  case h_3 => exact spells_error
  all_goals exact aVx_spells fun _ => rfl

theorem dec1B_4_spells {x y z : Nat} : Spells (packA 0x1B 4 x y z) (Dec.dec1B_4 z x y) := by
  unfold Dec.dec1B_4
  split
  case h_3 => exact spells_error
  all_goals exact aSxSy2_spells fun _ _ => rfl

theorem dec1B_spells : Spells (packA 0x1B k u.toNat v.toNat w.toNat) (dec1B k u.toNat v.toNat w.toNat) := by
  unfold dec1B
  split
  case h_1 => exact aSy_spells fun _ => rfl
  case h_4 => exact aSySz_spells fun _ _ => rfl
  case h_5 => exact dec1B_4_spells
  case h_6 => exact spells_error
  all_goals exact aSyVz_spells fun _ _ => rfl

theorem decodeA_spells {m : Nat} (hk : k < 32) :
    Spells (packA m k u.toNat v.toNat w.toNat) (decodeA m k u.toNat v.toNat w.toNat) := by
  unfold decodeA
  split
  case h_1 => exact dec01_spells
  case h_2 => exact dec08_spells
  case h_3 => exact dec0E_spells
  case h_4 => exact dec11_spells
  case h_5 => exact dec12_spells
  case h_6 => exact dec13_spells
  case h_7 => exact dec14_spells
  case h_8 => exact dec15_spells
  case h_9 => exact dec16_spells
  case h_10 => exact dec17_spells
  case h_11 => exact aVxVyFzFFK_spells hk fun _ _ _ _ _ _ => rfl
  case h_12 => exact dec19_spells
  case h_13 => exact dec1A_spells
  case h_14 => exact dec1B_spells
  case h_15 => exact spells_error

end

section
variable {x y : Nat} {w : BitVec 12}

theorem decodeB_spells {m : Nat} :
    Spells (packB m x y w.toNat) (decodeB m x y w.toNat) := by
  unfold decodeB
  split
  case h_1 | h_2 | h_3 | h_4 | h_5 | h_6 => exact bSxSyIz_spells fun _ _ _ => rfl
  case h_7 => exact bCxSyIz_spells fun _ _ _ => rfl
  case h_8 => exact bSyIz_spells fun _ _ => rfl
  case h_9 => exact spells_error

end

section
variable {x : Nat} {v : BitVec 19}

theorem decodeC_spells {m : Nat} :
    Spells (packC m x v.toNat) (decodeC m x v.toNat) := by
  unfold decodeC
  split
  case h_1 | h_2 | h_4 => exact cSxIy_spells fun _ _ => rfl
  case h_3 => exact cIy_spells fun _ => rfl
  case h_5 => exact spells_error

end

section
variable {k x y c o z : Nat}

theorem dec20_spells : Spells (packM 0x20 k x y c o z) (dec20 k x y c o z) := by
  unfold dec20
  split
  case h_4 | h_5 | h_6 | h_7 | h_10 => exact mSxSyCO_spells fun _ _ _ _ => rfl
  case h_8 | h_9 => exact mSyCO_spells fun _ _ _ => rfl
  case h_13 => exact mSy_spells fun _ => rfl
  case h_14 => exact spells_error
  all_goals exact mSxSyCOZz_spells fun _ _ _ _ _ => rfl

theorem dec27_spells : Spells (packM 0x27 k x y c o z) (dec27 k x y c o z) := by
  unfold dec27
  split
  case h_11 | h_12 => exact mSxSyCO_spells fun _ _ _ _ => rfl
  case h_13 => exact spells_error
  all_goals exact mSxSyCOZz_spells fun _ _ _ _ _ => rfl

theorem dec29_spells : Spells (packM 0x29 k x y c o z) (dec29 k x y c o z) := by
  unfold dec29
  split
  case h_2 => exact mC_spells fun _ => rfl
  case h_3 => exact m_spells rfl
  case h_4 => exact spells_error
  case h_1 => exact mCO_spells fun _ _ => rfl

theorem decodeM_spells {m : Nat} :
    Spells (packM m k x y c o z) (decodeM m k x y c o z) := by
  unfold decodeM
  split
  case h_1 => exact dec20_spells
  case h_2 => exact dec27_spells
  case h_3 => exact dec29_spells
  case h_4 => exact spells_error

end

section
variable {y c o z : Nat} {u v : BitVec 7}

theorem dec21_spells {i : Nat} : Spells (packV 0x21 u.toNat y i c o z) (Dec.dec21_ i u.toNat y c o z) := by
  unfold Dec.dec21_
  split
  case h_1 => exact vVxSyCOZz_spells fun _ _ _ _ _ => rfl
  case h_4 => exact spells_error
  all_goals exact vVxSyCO_spells fun _ _ _ _ => rfl

theorem dec22_spells {i : Nat} : Spells (packV 0x22 u.toNat y i c o z) (Dec.dec22_ i u.toNat y c o z) := by
  unfold Dec.dec22_
  split
  case h_1 => exact vVxSyCOZz_spells fun _ _ _ _ _ => rfl
  case h_4 => exact spells_error
  all_goals exact vVxSyCO_spells fun _ _ _ _ => rfl

theorem decodeV_spells {m : Nat} :
    Spells (packV m u.toNat y v.toNat c o z) (decodeV m u.toNat y v.toNat c o z) := by
  unfold decodeV
  split
  case h_1 => exact dec21_spells
  case h_2 => exact dec22_spells
  case h_3 | h_4 => exact vVxSyViCOZz_spells fun _ _ _ _ _ _ => rfl
  case h_5 | h_6 => exact vVxSySCOZz_spells fun _ _ _ _ _ _ => rfl
  case h_7 => exact spells_error

end

section
variable {k y o r : Nat} {u v : BitVec 7}

theorem dec28_spells : Spells (packVA 0x28 k u.toNat y v.toNat o r) (dec28 k u.toNat y v.toNat o r) := by
  unfold dec28
  split
  case h_11 => exact spells_error
  all_goals exact vaVxSyViO_spells fun _ _ _ _ => rfl

theorem decodeVA_spells {m : Nat} :
    Spells (packVA m k u.toNat y v.toNat o r) (decodeVA m k u.toNat y v.toNat o r) := by
  unfold decodeVA
  split
  case h_1 => exact dec28_spells
  case h_2 => exact spells_error

end

section
variable {k : Nat} {u v w : BitVec 7}

theorem dec2A_spells : Spells (packX 0x2A k u.toNat v.toNat w.toNat) (dec2A k u.toNat v.toNat w.toNat) := by
  unfold dec2A
  split
  case h_2 | h_3 | h_4 | h_12 => exact aSy_spells fun _ => rfl
  case h_7 => exact xSxSyLz_spells fun _ _ _ => rfl
  case h_8 => exact xSxLz_spells fun _ _ => rfl
  case h_10 => exact xSxSyT_spells fun _ _ _ => rfl
  case h_11 => exact aSx_spells fun _ => rfl
  case h_13 => exact spells_error
  all_goals exact aSxSy_spells fun _ _ => rfl

theorem dec2C_spells : Spells (packX 0x2C k u.toNat v.toNat w.toNat) (dec2C k u.toNat v.toNat w.toNat) := by
  unfold dec2C
  split
  case h_1 => exact xSxSyFZ_spells fun _ _ _ _ => rfl
  case h_2 => exact xSxSyBz_spells fun _ _ _ => rfl
  case h_3 => exact aVxSy_spells fun _ _ => rfl
  case h_4 => exact aVx_spells fun _ => rfl
  case h_7 => exact aSxSy_spells fun _ _ => rfl
  case h_9 => exact spells_error
  all_goals exact aSy_spells fun _ => rfl

theorem dec2D_spells : Spells (packX 0x2D k u.toNat v.toNat w.toNat) (dec2D k u.toNat v.toNat w.toNat) := by
  unfold dec2D
  split
  case h_1 => exact xSyBz_spells fun _ _ => rfl
  case h_2 => exact xSxBz_spells fun _ _ => rfl
  case h_5 => exact xSyT_spells fun _ _ => rfl
  case h_6 => exact spells_error
  all_goals exact xSxT_spells fun _ _ => rfl

theorem dec2E_spells : Spells (packX 0x2E k u.toNat v.toNat w.toNat) (dec2E k u.toNat v.toNat w.toNat) := by
  unfold dec2E
  split
  case h_2 | h_4 => exact xR_spells fun _ => rfl
  case h_5 | h_6 => exact xSxSyKT_spells fun _ _ _ _ => rfl
  case h_7 => exact xT_spells fun _ => rfl
  case h_8 | h_9 => exact xVxSyT_spells fun _ _ _ => rfl
  case h_10 => exact xSyT_spells fun _ _ => rfl
  case h_11 => exact aSxSy_spells fun _ _ => rfl
  case h_12 => exact spells_error
  all_goals exact xSyR_spells fun _ _ => rfl

theorem dec2F_spells : Spells (packX 0x2F k u.toNat v.toNat w.toNat) (dec2F k u.toNat v.toNat w.toNat) := by
  unfold dec2F
  split
  case h_2 => exact a_spells rfl
  case h_4 => exact xCxSyBz_spells fun _ _ _ => rfl
  case h_6 => exact aSxSy_spells fun _ _ => rfl
  case h_7 => exact spells_error
  all_goals exact aSy_spells fun _ => rfl

theorem dec30_spells : Spells (packX 0x30 k u.toNat v.toNat w.toNat) (dec30 k u.toNat v.toNat w.toNat) := by
  unfold dec30
  split
  case h_4 => exact a_spells rfl
  case h_5 => exact aSxSy_spells fun _ _ => rfl
  case h_6 => exact xSxSyBz_spells fun _ _ _ => rfl
  case h_7 => exact spells_error
  all_goals exact xVxSyF_spells fun _ _ _ => rfl

theorem dec31_6_spells {x y z : Nat} : Spells (packX 0x31 6 x y z) (Dec.dec31_6 z x y) := by
  unfold Dec.dec31_6
  split
  case h_13 => exact spells_error
  all_goals exact aSxSy2_spells fun _ _ => rfl

theorem dec31_spells : Spells (packX 0x31 k u.toNat v.toNat w.toNat) (dec31 k u.toNat v.toNat w.toNat) := by
  unfold dec31
  split
  case h_3 => exact a_spells rfl
  case h_6 => exact xBxFFF_spells fun _ _ _ _ => rfl
  case h_7 => exact dec31_6_spells
  case h_8 => exact spells_error
  all_goals exact aSxSy_spells fun _ _ => rfl

theorem dec32_spells : Spells (packX 0x32 k u.toNat v.toNat w.toNat) (dec32 k u.toNat v.toNat w.toNat) := by
  unfold dec32
  split
  case h_1 => exact xSxPz_spells fun _ _ => rfl
  case h_2 => exact xSyPz_spells fun _ _ => rfl
  case h_3 => exact xSyBz_spells fun _ _ => rfl
  case h_4 => exact xBz_spells fun _ => rfl
  case h_5 => exact aSxSy_spells fun _ _ => rfl
  case h_8 => exact aSy_spells fun _ => rfl
  case h_9 => exact spells_error
  all_goals exact a_spells rfl

theorem decodeX_spells {m : Nat} :
    Spells (packX m k u.toNat v.toNat w.toNat) (decodeX m k u.toNat v.toNat w.toNat) := by
  unfold decodeX
  split
  case h_1 => exact dec2A_spells
  case h_2 => exact dec2C_spells
  case h_3 => exact dec2D_spells
  case h_4 => exact dec2E_spells
  case h_5 => exact dec2F_spells
  case h_6 => exact dec30_spells
  case h_7 => exact dec31_spells
  case h_8 => exact dec32_spells
  case h_9 => exact spells_error

end

/-! ## A word is its fields -/

theorem fld_lt (w : BitVec 32) (lo n : Nat) : fld w lo n < 2 ^ n := Nat.mod_lt _ (Nat.two_pow_pos n)

theorem toNat_fld (w : BitVec 32) (lo n : Nat) : (BitVec.ofNat n (fld w lo n)).toNat = fld w lo n :=
  Nat.mod_eq_of_lt (fld_lt w lo n)

section
variable (w : BitVec 32)

theorem packA_fld : packA (major w) (fld w 0 5) (fld w 19 7) (fld w 12 7) (fld w 5 7) = w := by
  refine BitVec.eq_of_toNat_eq ?_
  simp only [packA, BitVec.toNat_ofNat, major, fld]
  omega

theorem packB_fld : packB (major w) (fld w 19 7) (fld w 12 7) (fld w 0 12) = w := by
  refine BitVec.eq_of_toNat_eq ?_
  simp only [packB, BitVec.toNat_ofNat, major, fld]
  omega

theorem packC_fld : packC (major w) (fld w 19 7) (fld w 0 19) = w := by
  refine BitVec.eq_of_toNat_eq ?_
  simp only [packC, BitVec.toNat_ofNat, major, fld]
  omega

theorem packM_fld :
    packM (major w) (fld w 7 5) (fld w 19 7) (fld w 12 7) (fld w 4 3) (fld w 2 2) (fld w 0 2) = w := by
  refine BitVec.eq_of_toNat_eq ?_
  simp only [packM, BitVec.toNat_ofNat, major, fld]
  omega

theorem packX_fld : packX (major w) (fld w 7 5) (fld w 19 7) (fld w 12 7) (fld w 0 7) = w := by
  refine BitVec.eq_of_toNat_eq ?_
  simp only [packX, BitVec.toNat_ofNat, major, fld]
  omega

theorem packV_fld :
    packV (major w) (fld w 19 7) (fld w 14 5) (fld w 7 7) (fld w 4 3) (fld w 2 2) (fld w 0 2) = w := by
  refine BitVec.eq_of_toNat_eq ?_
  simp only [packV, BitVec.toNat_ofNat, major, fld]
  omega

theorem packVA_fld :
    packVA (major w) (fld w 3 4) (fld w 19 7) (fld w 14 5) (fld w 7 7) (fld w 1 2) (fld w 0 1) = w := by
  refine BitVec.eq_of_toNat_eq ?_
  simp only [packVA, BitVec.toNat_ofNat, major, fld]
  omega

end

/-! ## Words that are accepted -/

theorem major_of_take {m : Nat} (h : fmtOf m = .take) : m = 0x33 := by
  unfold fmtOf at h
  split at h
  case h_46 => rfl
  all_goals nomatch h

theorem major_of_lit {m : Nat} (h : fmtOf m = .lit) : m = 0x0B := by
  unfold fmtOf at h
  split at h
  case h_11 => rfl
  all_goals nomatch h

theorem take_spells {w : BitVec 32} (hm : major w = 0x33) : Spells w (decodeFmt .take w) := by
  intro i h
  by_cases hz : fld w 0 24 = 0
  · have hw : BitVec.ofNat 32 (3422552064 + fld w 25 1 * 33554432 + fld w 24 1 * 16777216) = w := by
      refine BitVec.eq_of_toNat_eq ?_
      simp only [major, fld, BitVec.toNat_ofNat] at hm hz ⊢
      omega
    have hbit (lo : Nat) : (fld w lo 1 == 1).toNat = fld w lo 1 := bit_toNat
    rw [decodeFmt, if_pos hz] at h
    cases h
    show [BitVec.ofNat 32 (3422552064 + (fld w 25 1 == 1).toNat * 33554432 + (fld w 24 1 == 1).toNat * 16777216)] = [w]
    rw [hbit, hbit, hw]
  · rw [decodeFmt, if_neg hz] at h
    nomatch h

/-- A word read in the format of its major. -/
theorem decodeFmt_spells {w : BitVec 32} {f : Fmt} (hf : fmtOf (major w) = f) : Spells w (decodeFmt f w) := by
  cases f with
  | A =>
    have h := decodeA_spells (m := major w) (u := .ofNat 7 (fld w 19 7)) (v := .ofNat 7 (fld w 12 7))
      (w := .ofNat 7 (fld w 5 7)) (fld_lt w 0 5)
    rwa [toNat_fld, toNat_fld, toNat_fld, packA_fld] at h
  | B =>
    have h := decodeB_spells (m := major w) (x := fld w 19 7) (y := fld w 12 7) (w := .ofNat 12 (fld w 0 12))
    rwa [toNat_fld, packB_fld] at h
  | C =>
    have h := decodeC_spells (m := major w) (x := fld w 19 7) (v := .ofNat 19 (fld w 0 19))
    rwa [toNat_fld, packC_fld] at h
  | M =>
    have h := decodeM_spells (m := major w) (k := fld w 7 5) (x := fld w 19 7) (y := fld w 12 7) (c := fld w 4 3)
      (o := fld w 2 2) (z := fld w 0 2)
    rwa [packM_fld] at h
  | X =>
    have h := decodeX_spells (m := major w) (k := fld w 7 5) (u := .ofNat 7 (fld w 19 7))
      (v := .ofNat 7 (fld w 12 7)) (w := .ofNat 7 (fld w 0 7))
    rwa [toNat_fld, toNat_fld, toNat_fld, packX_fld] at h
  | V =>
    have h := decodeV_spells (m := major w) (u := .ofNat 7 (fld w 19 7)) (y := fld w 14 5)
      (v := .ofNat 7 (fld w 7 7)) (c := fld w 4 3) (o := fld w 2 2) (z := fld w 0 2)
    rwa [toNat_fld, toNat_fld, packV_fld] at h
  | VA =>
    have h := decodeVA_spells (m := major w) (k := fld w 3 4) (u := .ofNat 7 (fld w 19 7)) (y := fld w 14 5)
      (v := .ofNat 7 (fld w 7 7)) (o := fld w 1 2) (r := fld w 0 1)
    rwa [toNat_fld, toNat_fld, packVA_fld] at h
  | take => exact take_spells (major_of_take hf)
  | lit | header | none => exact spells_error

theorem decodeLit_ok {w lit : BitVec 32} {i : Instr} (hm : major w = 0x0B) (h : decodeLit w lit = .ok i) :
    encode i = [w, lit] := by
  have spelled {d : SReg} {n : Nat} (hd : sreg (fld w 19 7) = some d) (hn : fld w 0 19 = n) :
      packC 0x0B d.toNat n = w := by
    rw [sreg_some hd, ← hn, ← hm, packC_fld]
  unfold decodeLit at h
  split at h
  case h_1 hd hn | h_2 hd hn | h_3 hd hn =>
    cases h
    exact congrArg (fun v => [v, lit]) (spelled hd hn)
  case h_4 => nomatch h

/-- A reading that passes the checks is the instruction, which is well-formed, and leaves the words behind it. -/
theorem checked_map_ok {r : Except DecodeErr Instr} {i : Instr} {ws rest : List (BitVec 32)}
    (h : ((checked r).map fun i => (i, ws)) = .ok (i, rest)) : r = .ok i ∧ i.wf = true ∧ ws = rest := by
  cases r with
  | error e => nomatch h
  | ok j =>
    cases hj : j.wf with
    | false => simp [checked, hj, Except.map] at h
    | true =>
      obtain ⟨rfl, rfl⟩ : j = i ∧ ws = rest := by simpa [checked, hj, Except.map] using h
      exact ⟨rfl, hj, rfl⟩

/-- Settles O50: an accepted word passes the checks and is spelled by its fields, a LIT together with its literal. -/
theorem wordsHaveOneMeaning : Obligations.WordsHaveOneMeaning := by
  intro ws i rest h
  cases ws with
  | nil => nomatch h
  | cons w ws =>
    by_cases hl : fmtOf (major w) = .lit
    · cases ws with
      | nil => simp [decode, hl] at h
      | cons lit tail =>
        rw [decode_literal lit tail hl] at h
        obtain ⟨hd, hwf, rfl⟩ := checked_map_ok h
        rw [decodeLit_ok (major_of_lit hl) hd]
        exact ⟨hwf, rfl⟩
    · rw [decode_plain ws rfl hl] at h
      obtain ⟨hd, hwf, rfl⟩ := checked_map_ok h
      rw [decodeFmt_spells rfl i hd]
      exact ⟨hwf, rfl⟩

end Sys2Proof.Laws

/-! Words that the spec prints, and words that it leaves unassigned (R57, R58, R69, R70): O51. -/

namespace Sys2Proof.Laws

open Sys2Proof.Claims

theorem decode_error {w : BitVec 32} {e : DecodeErr} (rest : List (BitVec 32)) (he : e ≠ .noLiteral)
    (h : decodeFmt (fmtOf (major w)) w = .error e) : decode (w :: rest) = .error e := by
  have hl : fmtOf (major w) ≠ .lit := by
    intro hf
    rw [hf, decodeFmt] at h
    exact he (Except.error.inj h).symm
  rw [decode_plain rest rfl hl, h]
  rfl

theorem div_eq_major (w : BitVec 32) : w.toNat / 2 ^ 26 = major w :=
  (Nat.mod_eq_of_lt (Nat.div_lt_of_lt_mul (k := 2 ^ 6) w.isLt)).symm

/-! ## Minors that no list names -/

section
variable {w : BitVec 32} {m n : Nat} (hm : major w = m)
include hm

theorem unlisted_A (hf : fmtOf m = .A) (hr : ∀ j x y z, decodeA m (j + n) x y z = .error .badMinor)
    (h : n ≤ fld w 0 5) : decodeFmt (fmtOf (major w)) w = .error .badMinor := by
  obtain ⟨j, hj⟩ := Nat.exists_eq_add_of_le' h
  rw [hm, hf, decodeFmt, hm, hj, hr]

theorem unlisted_M (hf : fmtOf m = .M) (hr : ∀ j x y c o z, decodeM m (j + n) x y c o z = .error .badMinor)
    (h : n ≤ fld w 7 5) : decodeFmt (fmtOf (major w)) w = .error .badMinor := by
  obtain ⟨j, hj⟩ := Nat.exists_eq_add_of_le' h
  rw [hm, hf, decodeFmt, hm, hj, hr]

theorem unlisted_X (hf : fmtOf m = .X) (hr : ∀ j x y z, decodeX m (j + n) x y z = .error .badMinor)
    (h : n ≤ fld w 7 5) : decodeFmt (fmtOf (major w)) w = .error .badMinor := by
  obtain ⟨j, hj⟩ := Nat.exists_eq_add_of_le' h
  rw [hm, hf, decodeFmt, hm, hj, hr]

theorem unlisted_VA (hf : fmtOf m = .VA) (hr : ∀ j x y i o r, decodeVA m (j + n) x y i o r = .error .badMinor)
    (h : n ≤ fld w 3 4) : decodeFmt (fmtOf (major w)) w = .error .badMinor := by
  obtain ⟨j, hj⟩ := Nat.exists_eq_add_of_le' h
  rw [hm, hf, decodeFmt, hm, hj, hr]

end

/-- Major 0x17 lists no minor between the forms of half precision and those of bfloat. -/
theorem dec17_between {k : Nat} (x y z : Nat) (hlo : 10 ≤ k) (hhi : k < 16) : dec17 k x y z = .error .badMinor := by
  interval_cases k <;> rfl

theorem decodeFmt_unlisted {w : BitVec 32} (h : unlistedMinor w = true) :
    decodeFmt (fmtOf (major w)) w = .error .badMinor := by
  have hlow : w.toNat % 32 = fld w 0 5 := by rw [fld, Nat.pow_zero, Nat.div_one]; rfl
  simp only [unlistedMinor, div_eq_major, hlow] at h
  split at h
  case h_1 hm | h_2 hm | h_3 hm | h_4 hm | h_5 hm | h_6 hm | h_8 hm | h_9 hm | h_10 hm =>
    exact unlisted_A hm rfl (fun _ _ _ _ => rfl) (of_decide_eq_true h)
  case h_7 hm =>
    rcases of_decide_eq_true h with ⟨hlo, hhi⟩ | h
    · simp only [hm, fmtOf, decodeFmt, decodeA, dec17_between _ _ _ hlo hhi]
    · exact unlisted_A hm rfl (fun _ _ _ _ => rfl) h
  case h_11 hm | h_12 hm | h_15 hm => exact unlisted_M hm rfl (fun _ _ _ _ _ _ => rfl) (of_decide_eq_true h)
  case h_14 hm => exact unlisted_VA hm rfl (fun _ _ _ _ _ _ => rfl) (of_decide_eq_true h)
  case h_13 hm | h_16 hm | h_17 hm | h_18 hm | h_19 hm | h_20 hm | h_21 hm | h_22 hm =>
    exact unlisted_X hm rfl (fun _ _ _ _ => rfl) (of_decide_eq_true h)
  case h_23 => nomatch h

/-! ## Majors that no rule assigns -/

theorem fmtOf_unassigned :
    ∀ m ∈ [0x00, 0x1C, 0x1D, 0x1E, 0x1F, 0x2B, 0x34, 0x35, 0x36, 0x37, 0x38, 0x39, 0x3A, 0x3B, 0x3C, 0x3D, 0x3F],
      fmtOf m = .none := by decide

theorem decode_unassigned {w : BitVec 32} (rest : List (BitVec 32)) (hf : fmtOf (major w) = .none) :
    decode (w :: rest) = .error .badMajor :=
  decode_error rest (by decide) (by rw [hf, decodeFmt])

theorem decode_header {w : BitVec 32} (rest : List (BitVec 32)) (hf : fmtOf (major w) = .header) :
    decode (w :: rest) = .error .header :=
  decode_error rest (by decide) (by rw [hf, decodeFmt])

/-- Settles O51: printed words are what the encoder writes, and the others are refused by their format or in their minor's row. -/
theorem decodedWords : Obligations.DecodedWords := by
  refine ⟨fun rest => ?_, fun w rest => ?_⟩
  · exact ⟨roundTrip (.vshrScalar 1 1 4) (by decide) rfl rest, roundTrip (.vdot4Scalar 8 9 10) (by decide) rfl rest,
      roundTrip (.vbrk 2 1) (by decide) rfl rest, roundTrip (.regmode 5 false true true) (by decide) rfl rest,
      roundTrip (.getsr 3 .cycle) (by decide) rfl rest, roundTrip (.setsr 6 .fpmode) (by decide) rfl rest,
      roundTrip (.trap 9 0x2A) (by decide) rfl rest, roundTrip (.vredfadd 8 7) (by decide) rfl rest,
      roundTrip (.xclr 2) (by decide) rfl rest, roundTrip (.xadd 2 7) (by decide) rfl rest,
      roundTrip (.take true false) (by decide) rfl rest⟩
  · rw [div_eq_major]
    exact ⟨fun hm => decode_unassigned rest (fmtOf_unassigned _ hm), fun hm => decode_header rest (by rw [hm]; rfl),
      fun h => ⟨_, decode_error rest (by decide) (decodeFmt_unlisted h)⟩⟩

end Sys2Proof.Laws

/-! The results of the scalar ALU in exact arithmetic, and division at its corners (R81, R82, R110): O1. -/

namespace Sys2Proof.Machine

open Sys2Proof.Claims

/-! ## Comparisons, bit counts and reversal as exact numbers -/

theorem bit_eq_oneIf {w : Nat} {b : Bool} {p : Prop} [Decidable p] (h : b = true ↔ p) : bit (w := w) b = oneIf p := by
  simp only [bit, oneIf, h]

theorem seq_exact {w : Nat} (x y : BitVec w) : bit (x == y) = Exact.seq x y := bit_eq_oneIf beq_iff_eq
theorem sne_exact {w : Nat} (x y : BitVec w) : bit (x != y) = Exact.sne x y := bit_eq_oneIf bne_iff_ne
theorem slt_exact {w : Nat} (x y : BitVec w) : bit (x.slt y) = Exact.slt x y := bit_eq_oneIf BitVec.slt_iff_toInt_lt
theorem sltu_exact {w : Nat} (x y : BitVec w) : bit (x.ult y) = Exact.sltu x y := bit_eq_oneIf BitVec.ult_iff_toNat_lt
theorem sle_exact {w : Nat} (x y : BitVec w) : bit (x.sle y) = Exact.sle x y := bit_eq_oneIf BitVec.sle_iff_toInt_le
theorem sleu_exact {w : Nat} (x y : BitVec w) : bit (x.ule y) = Exact.sleu x y := bit_eq_oneIf BitVec.ule_iff_toNat_le

theorem popFrom_eq_countP (n x : Nat) : popFrom n x = (List.range n).countP x.testBit := by
  induction n generalizing x with
  | zero => rfl
  | succ n ih =>
    rw [popFrom, ih, List.range_succ_eq_map, List.countP_cons, List.countP_map, Nat.add_comm]
    congr 1
    · exact List.countP_congr fun k _ => by simp [Nat.testBit_succ]
    · rcases Nat.mod_two_eq_zero_or_one x with h | h <;> simp [h]

theorem popc_exact {w : Nat} (x : BitVec w) : popc x = Exact.popc x := by
  unfold popc Exact.popc
  rw [popFrom_eq_countP]
  rfl

/-- The exponents below `w` whose power is above a number are those above its logarithm. -/
theorem countP_lt_two_pow {x : Nat} (hx : x ≠ 0) (w : Nat) :
    (List.range w).countP (fun k => decide (x < 2 ^ k)) = w - 1 - x.log2 := by
  induction w with
  | zero => simp
  | succ w ih =>
    rw [List.range_succ, List.countP_append, ih, List.countP_singleton]
    simp only [decide_eq_true_eq, ← Nat.log2_lt hx]
    split_ifs <;> omega

theorem clz_exact {w : Nat} (x : BitVec w) : clz x = Exact.clz x := by
  unfold clz Exact.clz
  congr 1
  split_ifs with h
  · simp [h]
  · exact (countP_lt_two_pow (fun e => h (BitVec.eq_of_toNat_eq e)) w).symm

theorem revFrom_testBit (n x acc i : Nat) :
    (revFrom n x acc).testBit i = if i < n then x.testBit (n - 1 - i) else acc.testBit (i - n) := by
  induction n generalizing x acc with
  | zero => simp [revFrom]
  | succ n ih =>
    rw [revFrom, ih]
    rcases Nat.lt_trichotomy i n with h | rfl | h
    · rw [if_pos h, if_pos (by omega), Nat.testBit_div_two]; congr 1; omega
    · rcases Nat.mod_two_eq_zero_or_one x with h | h <;> simp [h, Nat.testBit_zero]
    · obtain ⟨j, rfl⟩ := Nat.exists_eq_add_of_lt h
      rw [if_neg (by omega), if_neg (by omega), show n + j + 1 - n = j + 1 by omega, Nat.testBit_succ]
      congr 1 <;> omega

theorem getLsbD_brev {w : Nat} (x : BitVec w) {i : Nat} (h : i < w) : (brev x).getLsbD i = x.getLsbD (w - 1 - i) := by
  simp only [brev, BitVec.getLsbD_ofNat, revFrom_testBit, h, if_pos, decide_true, Bool.true_and]
  rfl

/-! ## Instructions of major 0x01 -/

variable {s : State} {d a b : SReg} {i : Instr}

theorem gives_of_scalar3 {f : Word → Word → Word} {v : Word} (h : ready s (Opnds.sss d a b) = true)
    (he : exec i s = scalar3 d a b f s) (hv : f ((here s).sreg a) ((here s).sreg b) = v) : gives s d i v :=
  hv ▸ scalar3_completes h he

theorem gives_of_scalar2 {f : Word → Word} {v : Word} (h : ready s (Opnds.ss d a) = true)
    (he : exec i s = scalar2 d a f s) (hv : f ((here s).sreg a) = v) : gives s d i v :=
  hv ▸ scalar2_completes h he

theorem sextW_add (x y : Word) : sextW (x + y) = (BitVec.ofNat 32 (x.toNat + y.toNat)).signExtend 64 := by
  rw [sextW, add_exact, BitVec.setWidth_ofNat_of_le (by decide)]

theorem sextW_sub (x y : Word) : sextW (x - y) = (BitVec.ofInt 32 (x.toInt - y.toInt)).signExtend 64 := by
  rw [sextW, sub_exact]
  congr 1
  apply BitVec.eq_of_toNat_eq
  simp only [BitVec.toNat_setWidth, BitVec.toNat_ofInt]
  omega

theorem scalarAlu : ScalarAlu := fun _ _ _ _ h =>
  ⟨gives_of_scalar3 h (exec_add ..) (add_exact ..), gives_of_scalar3 h (exec_sub ..) (sub_exact ..),
    gives_of_scalar3 h (exec_and ..) rfl, gives_of_scalar3 h (exec_or ..) rfl, gives_of_scalar3 h (exec_xor ..) rfl,
    gives_of_scalar3 h (exec_andn ..) rfl, gives_of_scalar3 h (exec_shl ..) (shl_exact ..),
    gives_of_scalar3 h (exec_shr ..) (shr_exact ..), gives_of_scalar3 h (exec_sar ..) (sar_exact ..),
    gives_of_scalar3 h (exec_ror ..) (ror_exact _ _ (Nat.mod_lt _ (by decide))),
    gives_of_scalar3 h (exec_mul ..) (mul_exact ..), gives_of_scalar3 h (exec_mulh ..) rfl,
    gives_of_scalar3 h (exec_mulhu ..) rfl, gives_of_scalar3 h (exec_min ..) (minS_exact ..),
    gives_of_scalar3 h (exec_max ..) (maxS_exact ..), gives_of_scalar3 h (exec_minu ..) (minU_exact ..),
    gives_of_scalar3 h (exec_maxu ..) (maxU_exact ..), gives_of_scalar3 h (exec_seq ..) (seq_exact ..),
    gives_of_scalar3 h (exec_sne ..) (sne_exact ..), gives_of_scalar3 h (exec_slt ..) (slt_exact ..),
    gives_of_scalar3 h (exec_sltu ..) (sltu_exact ..), gives_of_scalar3 h (exec_sle ..) (sle_exact ..),
    gives_of_scalar3 h (exec_sleu ..) (sleu_exact ..), gives_of_scalar3 h (exec_addw ..) (sextW_add ..),
    gives_of_scalar3 h (exec_subw ..) (sextW_sub ..)⟩

theorem scalarBitCounts : ScalarBitCounts := fun _ _ _ h =>
  ⟨gives_of_scalar2 h (exec_clz ..) (clz_exact _), gives_of_scalar2 h (exec_popc ..) (popc_exact _),
    _, gives_of_scalar2 h (exec_brev ..) rfl, fun _ hi => getLsbD_brev _ hi⟩

/-! ## Division -/

/-- The slot notes a division by zero (R32). -/
def Slot.markZeroDivisor (y : Word) (t : Slot) : Slot := { t with statDz := t.statDz || y == 0 }

/-- A division completes with its quotient or remainder and the sticky mark of a zero divisor (R82). -/
theorem scalarDiv_completes {f : Word → Word → Word} {v : Word} (h : ready s (Opnds.sss d a b) = true)
    (he : exec i s = scalarDiv d a b f s) (hv : f ((here s).sreg a) ((here s).sreg b) = v) :
    Completes i s ((s.mapSlot s.cur (Slot.markZeroDivisor ((here s).sreg b))).setS s.cur d v) 1 := by
  subst hv
  refine completes_of h he ?_ (by simpa [State.setS] using ready_hasPkg h)
  show Issue.done (((start s).mapSlot (Slot.markZeroDivisor ((start s).sreg b))).setS d _) = _
  simp only [start_sreg, Ctx.setS, Ctx.mapSlot, start_g, start_s, started_eq, State.setS]
  rw [mapSlot_unlast (f := Slot.markZeroDivisor _) (h := fun _ => rfl), mapSlot_unlast (h := fun t => t.putS_unlast d _)]

theorem tdiv_intMin_neg_one : BitVec.ofInt 64 ((BitVec.intMin 64).toInt.tdiv (-1 : Word).toInt) = BitVec.intMin 64 := by
  decide
theorem tmod_intMin_neg_one : BitVec.ofInt 64 ((BitVec.intMin 64).toInt.tmod (-1 : Word).toInt) = 0 := by
  decide

theorem divisionResults : DivisionResults := by
  intro s d a b h x y marked divides
  have div : divides (.div d a b) (BitVec.ofInt 64 (x.toInt.tdiv y.toInt)) := scalarDiv_completes h (exec_div ..) rfl
  have rem : divides (.rem d a b) (BitVec.ofInt 64 (x.toInt.tmod y.toInt)) := scalarDiv_completes h (exec_rem ..) rfl
  refine ⟨div, scalarDiv_completes h (exec_divu ..) rfl, rem, scalarDiv_completes h (exec_remu ..) rfl, fun hx hy => ⟨?_, ?_⟩⟩
  · rwa [hx, hy, tdiv_intMin_neg_one, ← hx] at div
  · rwa [hx, hy, tmod_intMin_neg_one] at rem

/-- Settles O1: each instruction is the operation that its name says, and each operation is its exact number. -/
theorem scalarResults : Obligations.ScalarResults := ⟨scalarAlu, scalarBitCounts, divisionResults⟩

end Sys2Proof.Machine

/-! Rounding on a grid of real numbers: what `roundTo` and `roundFw` do to an exact or sticky mantissa (R86, R98). -/

namespace Sys2Proof.Machine

open Sys2Proof.Claims

/-! ## Mantissas that stand for a real number -/

/-- `m · 2^e` STANDS FOR `x` where it is `x`, or where `m` is odd and `x` lies strictly between the even numbers next to it:
the lowest bit of `m` is then a sticky one. -/
def StandsFor (m : Nat) (e : Int) (x : ℝ) : Prop :=
  x = m * (2 : ℝ) ^ e ∨ m % 2 = 1 ∧ ((m : ℝ) - 1) * (2 : ℝ) ^ e < x ∧ x < ((m : ℝ) + 1) * (2 : ℝ) ^ e

section
variable {m c : Nat} {e : Int} {x : ℝ}

theorem two_zpow_pos (e : Int) : 0 < (2 : ℝ) ^ e := by positivity

theorem StandsFor.lt_iff (h : StandsFor m e x) (hc : x = m * (2 : ℝ) ^ e ∨ c % 2 = 0) : x < c * (2 : ℝ) ^ e ↔ m < c := by
  have hp := two_zpow_pos e
  by_cases hx : x = m * (2 : ℝ) ^ e
  · rw [hx, mul_lt_mul_iff_left₀ hp, Nat.cast_lt]
  · obtain ⟨hm, hlo, hhi⟩ := h.resolve_left hx
    have hc := hc.resolve_left hx
    constructor
    · intro hlt
      have : ((m : ℝ) - 1) < c := lt_of_mul_lt_mul_right (hlo.trans hlt) hp.le
      have : m < c + 1 := by exact_mod_cast (by linarith : (m : ℝ) < c + 1)
      omega
    · intro hlt
      have : ((m : ℝ) + 1) ≤ c := by exact_mod_cast hlt
      exact hhi.trans_le (mul_le_mul_of_nonneg_right this hp.le)

theorem StandsFor.eq_iff (h : StandsFor m e x) (hc : x = m * (2 : ℝ) ^ e ∨ c % 2 = 0) : x = c * (2 : ℝ) ^ e ↔ m = c := by
  have hp := two_zpow_pos e
  by_cases hx : x = m * (2 : ℝ) ^ e
  · rw [hx, mul_left_inj' hp.ne', Nat.cast_inj]
  · obtain ⟨hm, hlo, hhi⟩ := h.resolve_left hx
    have hc := hc.resolve_left hx
    refine ⟨fun he => ?_, fun he => by omega⟩
    rw [he, mul_lt_mul_iff_left₀ hp] at hlo hhi
    have h1 : m < c + 1 := by exact_mod_cast (by linarith : (m : ℝ) < c + 1)
    have h2 : c < m + 1 := by exact_mod_cast hhi
    omega

theorem StandsFor.gt_iff (h : StandsFor m e x) (hc : x = m * (2 : ℝ) ^ e ∨ c % 2 = 0) : c * (2 : ℝ) ^ e < x ↔ c < m := by
  rw [← not_iff_not, not_lt, not_lt, le_iff_lt_or_eq, le_iff_lt_or_eq, h.lt_iff hc, h.eq_iff hc]

theorem StandsFor.le_iff (h : StandsFor m e x) (hc : x = m * (2 : ℝ) ^ e ∨ c % 2 = 0) : c * (2 : ℝ) ^ e ≤ x ↔ c ≤ m := by
  rw [← not_lt, ← not_lt, h.lt_iff hc]

/-- The logarithm of what an odd mantissa stands for is that of the mantissa. -/
theorem StandsFor.log_eq (h : StandsFor m e x) (hm : x = m * (2 : ℝ) ^ e ∨ 2 ≤ m) (h0 : 0 < m) :
    Int.log 2 x = dyadicLog m e := by
  have hm0 : m ≠ 0 := h0.ne'
  have hlo : (2 : ℝ) ^ (dyadicLog m e) ≤ x := by
    rw [dyadicLog, zpow_add₀ two_ne_zero, zpow_natCast, ← Nat.cast_ofNat, ← Nat.cast_pow, Nat.cast_ofNat]
    refine (h.le_iff (hm.imp_right fun h2 => ?_)).2 (Nat.log2_self_le hm0)
    have : m.log2 ≠ 0 := by
      intro hl
      have := (Nat.log2_lt hm0 (k := 1)).1 (by omega)
      omega
    rw [Nat.pow_mod, Nat.mod_self, Nat.zero_pow (by omega), Nat.zero_mod]
  have hhi : x < (2 : ℝ) ^ (dyadicLog m e + 1) := by
    rw [dyadicLog, add_right_comm, zpow_add₀ two_ne_zero, ← Nat.cast_succ, zpow_natCast, ← Nat.cast_ofNat, ← Nat.cast_pow,
      Nat.cast_ofNat]
    exact (h.lt_iff (.inr (by rw [Nat.pow_succ]; omega))).2 Nat.lt_log2_self
  have hx : 0 < x := (two_zpow_pos _).trans_le hlo
  apply le_antisymm
  · exact Int.lt_add_one_iff.1 ((Int.lt_zpow_iff_log_lt one_lt_two hx).1 (by exact_mod_cast hhi))
  · exact (Int.zpow_le_iff_le_log one_lt_two hx).1 (by exact_mod_cast hlo)

end

/-! ## Rounding to a grid -/

/-- Whether a mode rounds a magnitude `x` between two neighbours of a grid away from zero; `p` is the index of the lower one. -/
def RoundsAway (rm : Rm) (neg : Bool) (lo hi x : ℝ) (p : Nat) : Prop :=
  match rm with
  | .near => lo + hi < 2 * x ∨ lo + hi = 2 * x ∧ p % 2 = 1
  | .zero => False
  | .up => neg = false ∧ x ≠ lo
  | .down => neg = true ∧ x ≠ lo
  | .stoch k => hi ≤ x + k / 2 ^ 16 * (hi - lo)

/-- `r` IS THE INDEX THAT `x` IS ROUNDED TO on the grid `g`, and `inexact` says whether `x` lies beside the grid. -/
def RoundsOn (g : Nat → ℝ) (rm : Rm) (neg : Bool) (x : ℝ) (r : Nat) (inexact : Bool) : Prop :=
  ∃ n, g n ≤ x ∧ x < g (n + 1) ∧ (inexact = true ↔ x ≠ g n) ∧
    (RoundsAway rm neg (g n) (g (n + 1)) x n ∧ r = n + 1 ∨ ¬ RoundsAway rm neg (g n) (g (n + 1)) x n ∧ r = n)

/-- The multiples of 2^q. -/
noncomputable def multiples (q : Int) (n : Nat) : ℝ := n * (2 : ℝ) ^ q

/-- The random fraction of a stochastic mode has 16 bits. -/
def Rm.Fits (rm : Rm) : Prop := ∀ k, rm = .stoch k → k < 2 ^ 16

/-- When a mantissa tells how `x` is rounded to multiples of 2^q: it is exact, or it has two bits more than the result. -/
def Decides (rm : Rm) (m : Nat) (e : Int) (x : ℝ) (q : Int) : Prop :=
  x = m * (2 : ℝ) ^ e ∧ rm.Fits ∨ e + 2 ≤ q ∧ ∀ k, rm ≠ .stoch k

/-- What `roundTo` adds to the quotient `n` of a mantissa by the quantum `d`, `r` its remainder. -/
def roundsUp (rm : Rm) (neg : Bool) (d n r : Nat) : Bool :=
  match rm with
  | .near => decide (d < 2 * r) || (decide (d = 2 * r) && n % 2 == 1)
  | .zero => false
  | .up => !neg && decide (r ≠ 0)
  | .down => neg && decide (r ≠ 0)
  | .stoch k => decide (65536 * d ≤ 65536 * r + k * d)

theorem roundTo_of_le {rm : Rm} {neg : Bool} {m : Nat} {e q : Int} (h : q ≤ e) :
    roundTo rm neg m e q = (m * 2 ^ (e - q).toNat, false) := by
  unfold roundTo; rw [if_pos h]

theorem roundTo_of_lt {rm : Rm} {neg : Bool} {m d : Nat} {e q : Int} (h : e < q) (hd : 2 ^ (q - e).toNat = d) :
    roundTo rm neg m e q = (if roundsUp rm neg d (m / d) (m % d) then m / d + 1 else m / d, decide (m % d ≠ 0)) := by
  unfold roundTo; rw [if_neg (by omega), hd]; cases rm <;> rfl

section
variable {m : Nat} {e q : Int} {x : ℝ} {rm : Rm}

theorem roundTo_spec_of_le (neg : Bool) (hk : rm.Fits) (hq : q ≤ e) :
    RoundsOn (multiples q) rm neg (m * (2 : ℝ) ^ e) (m * 2 ^ (e - q).toNat) false := by
  have hn : multiples q (m * 2 ^ (e - q).toNat) = m * (2 : ℝ) ^ e := by
    rw [multiples, Nat.cast_mul, Nat.cast_pow, Nat.cast_ofNat, mul_assoc, ← zpow_natCast, ← zpow_add₀ two_ne_zero]
    congr 2; omega
  have hs : multiples q (m * 2 ^ (e - q).toNat + 1) = m * (2 : ℝ) ^ e + 2 ^ q := by
    rw [← hn, multiples, multiples]; push_cast; ring
  have hq0 := two_zpow_pos q
  refine ⟨m * 2 ^ (e - q).toNat, hn.le, by rw [hs]; linarith, by simp [hn], .inr ⟨?_, rfl⟩⟩
  rw [hn, hs]
  cases rm with
  | near => rintro (h | ⟨h, -⟩) <;> linarith
  | zero => exact id
  | up | down => exact fun h => h.2 rfl
  | stoch k =>
    have hk : (k : ℝ) / 2 ^ 16 < 1 := by
      rw [div_lt_one (by positivity)]; exact_mod_cast hk k rfl
    intro h
    simp only [RoundsAway] at h
    nlinarith

/-- A quantum of `2 * b` steps of 2^e: a mantissa decides between the multiples, and, where it is exact or `b` is even, at
the midpoints too. -/
theorem roundsAway_multiples {b n r : Nat} (neg : Bool) (h : StandsFor m e x) (hqe : (2 : ℝ) ^ q = (2 * b : Nat) * (2 : ℝ) ^ e)
    (hm : m = 2 * b * n + r) (hb : x = m * (2 : ℝ) ^ e ∨ b % 2 = 0 ∧ ∀ k, rm ≠ .stoch k) :
    RoundsAway rm neg (multiples q n) (multiples q (n + 1)) x n ↔ roundsUp rm neg (2 * b) n r = true := by
  have hg (k : Nat) : multiples q k = (2 * b * k : Nat) * (2 : ℝ) ^ e := by
    rw [multiples, hqe]; push_cast; ring
  have heq : x = multiples q n ↔ r = 0 := by
    rw [hg, h.eq_iff (.inr (by rw [Nat.mul_assoc]; omega))]; omega
  cases rm with
  | near =>
    have hmid : multiples q n + multiples q (n + 1) = 2 * ((2 * b * n + b : Nat) * (2 : ℝ) ^ e) := by
      rw [hg, hg]; push_cast; ring
    have hmo : x = m * (2 : ℝ) ^ e ∨ (2 * b * n + b) % 2 = 0 := hb.imp_right fun ⟨hb2, _⟩ => by
      rw [Nat.mul_assoc]; omega
    simp only [RoundsAway, roundsUp, hmid, mul_lt_mul_iff_right₀ (zero_lt_two (α := ℝ)), h.gt_iff hmo,
      mul_right_inj' (two_ne_zero (α := ℝ)), eq_comm (b := x), h.eq_iff hmo, Bool.or_eq_true, Bool.and_eq_true,
      decide_eq_true_eq, beq_iff_eq]
    exact or_congr (by omega) (and_congr_left' (by omega))
  | zero => simp [RoundsAway, roundsUp]
  | up => simp [RoundsAway, roundsUp, heq]
  | down => simp [RoundsAway, roundsUp, heq]
  | stoch k =>
    have hx := hb.resolve_right fun h => h.2 k rfl
    have hsum : ((2 * b * n + r : Nat) : ℝ) * 2 ^ e + k / 2 ^ 16 * ((2 * b * (n + 1) : Nat) * 2 ^ e - (2 * b * n : Nat) * 2 ^ e) =
        (2 * b * n + r + k * (2 * b) / 65536 : ℝ) * 2 ^ e := by push_cast; ring
    simp only [RoundsAway, roundsUp, decide_eq_true_eq]
    rw [hg, hg, hx, hm, hsum, mul_le_mul_iff_left₀ (two_zpow_pos e), ← Nat.cast_le (α := ℝ)]
    push_cast
    constructor <;> intro h <;> linarith

/-- ROUNDING A MANTISSA ROUNDS THE NUMBER THAT IT STANDS FOR. -/
theorem roundTo_spec (neg : Bool) (h : StandsFor m e x) (hd : Decides rm m e x q) :
    RoundsOn (multiples q) rm neg x (roundTo rm neg m e q).1 (roundTo rm neg m e q).2 := by
  by_cases hq : q ≤ e
  · obtain ⟨rfl, hk⟩ := hd.resolve_right (by omega)
    rw [roundTo_of_le hq]
    exact roundTo_spec_of_le neg hk hq
  · obtain ⟨j, hj⟩ : ∃ j : Nat, q - e = j + 1 := ⟨(q - e - 1).toNat, by omega⟩
    have hd2 : 2 ^ (q - e).toNat = 2 * 2 ^ j := by rw [hj, ← Nat.pow_succ']; congr 1
    have hqe : (2 : ℝ) ^ q = (2 * 2 ^ j : Nat) * (2 : ℝ) ^ e := by
      rw [← hd2, Nat.cast_pow, Nat.cast_ofNat, ← zpow_natCast, ← zpow_add₀ two_ne_zero]; congr 1; omega
    have hb : x = m * (2 : ℝ) ^ e ∨ 2 ^ j % 2 = 0 ∧ ∀ k, rm ≠ .stoch k := by
      refine hd.imp (·.1) fun ⟨hq2, hs⟩ => ⟨?_, hs⟩
      obtain ⟨i, rfl⟩ : ∃ i, j = i + 1 := ⟨j - 1, by omega⟩
      rw [Nat.pow_succ]; omega
    rw [roundTo_of_lt (by omega) hd2]
    have hb0 : 0 < 2 ^ j := Nat.two_pow_pos j
    generalize 2 ^ j = b at *
    have hdm := Nat.div_add_mod m (2 * b)
    have hr := Nat.mod_lt m (show 0 < 2 * b by omega)
    have hiff := roundsAway_multiples neg h hqe hdm.symm hb
    generalize m / (2 * b) = n at *
    generalize m % (2 * b) = r at *
    have hg (k : Nat) : multiples q k = (2 * b * k : Nat) * (2 : ℝ) ^ e := by
      rw [multiples, hqe]; push_cast; ring
    have heven (k : Nat) : x = m * (2 : ℝ) ^ e ∨ 2 * b * k % 2 = 0 := .inr (by rw [Nat.mul_assoc]; omega)
    refine ⟨n, ?_, ?_, ?_, ?_⟩
    · rw [hg, h.le_iff (heven n)]; omega
    · rw [hg, h.lt_iff (heven (n + 1)), Nat.mul_add, Nat.mul_one]; omega
    · rw [decide_eq_true_eq, hg, ne_eq, ne_eq, h.eq_iff (heven n)]; omega
    · rw [hiff]
      split_ifs with hu
      · exact .inl ⟨hu, rfl⟩
      · exact .inr ⟨hu, rfl⟩

end

end Sys2Proof.Machine

/-! The grid of a format's magnitudes, and the rounding of a number to it (R83, R86, R89, R98). -/

namespace Sys2Proof.Machine

open Sys2Proof.Claims

/-! ## What rounding to a grid delivers -/

section
variable {g : Nat → ℝ} {rm : Rm} {neg i : Bool} {x : ℝ} {r : Nat}

/-- Rounding to nearest delivers a nearest point of the grid, the even one of two. -/
theorem RoundsOn.nearest (h : RoundsOn g .near neg x r i) (hg : StrictMono g) (k : Nat) :
    |g r - x| ≤ |g k - x| ∧ (|g r - x| = |g k - x| → k = r ∨ r % 2 = 0) := by
  obtain ⟨n, hlo, hhi, -, ⟨haway, rfl⟩ | ⟨haway, rfl⟩⟩ := h <;> simp only [RoundsAway, not_or, not_and] at haway
  · rw [abs_of_pos (sub_pos.2 hhi)]
    rcases Nat.lt_or_ge n k with hk | hk
    · have := hg.monotone (Nat.succ_le_of_lt hk)
      rw [abs_of_nonneg (by linarith)]
      exact ⟨by linarith, fun he => .inl (hg.injective (by linarith))⟩
    · have := hg.monotone hk
      rw [abs_of_nonpos (by linarith)]
      rcases haway with ha | ⟨ha, hodd⟩
      · exact ⟨by linarith, fun he => by linarith⟩
      · exact ⟨by linarith, fun he => .inr (by omega)⟩
  · obtain ⟨ha, hodd⟩ := haway
    rw [abs_of_nonpos (by linarith)]
    rcases Nat.lt_or_ge r k with hk | hk
    · have := hg.monotone (Nat.succ_le_of_lt hk)
      rw [abs_of_nonneg (by linarith)]
      refine ⟨by linarith, fun he => .inr ?_⟩
      have := hodd (by linarith)
      omega
    · have := hg.monotone hk
      rw [abs_of_nonpos (by linarith)]
      exact ⟨by linarith, fun he => .inl (hg.injective (by linarith))⟩

/-- WHERE A RESULT REACHES a point of the grid: from there on, and between its predecessor and it where the mode rounds away. -/
theorem RoundsOn.le_iff (h : RoundsOn g rm neg x r i) (hg : StrictMono g) (k : Nat) :
    k + 1 ≤ r ↔ g (k + 1) ≤ x ∨ x < g (k + 1) ∧ g k ≤ x ∧ RoundsAway rm neg (g k) (g (k + 1)) x k := by
  obtain ⟨n, hlo, hhi, -, hr⟩ := h
  rcases Nat.lt_trichotomy k n with hk | rfl | hk
  · have := hg.monotone (Nat.succ_le_of_lt hk)
    exact ⟨fun _ => .inl (this.trans hlo), fun _ => by omega⟩
  · have : ¬ g (k + 1) ≤ x := not_le.2 hhi
    rcases hr with ⟨ha, rfl⟩ | ⟨ha, rfl⟩ <;> simp [this, hhi, hlo, ha]
  · have h1 : x < g k := hhi.trans_le (hg.monotone (Nat.succ_le_of_lt hk))
    have h2 : x < g (k + 1) := h1.trans (hg k.lt_succ_self)
    simp only [not_le.2 h1, not_le.2 h2, false_and, and_false, or_self, iff_false]
    omega

/-- What is delivered is exact where the number lies on the grid. -/
theorem RoundsOn.eq_iff (h : RoundsOn g rm neg x r i) (hg : StrictMono g) (hk : rm.Fits) : i = true ↔ g r ≠ x := by
  obtain ⟨n, hlo, hhi, hi, ⟨ha, rfl⟩ | ⟨-, rfl⟩⟩ := h
  · refine hi.trans (iff_of_true (fun hx => ?_) hhi.ne')
    have hg1 := hg n.lt_succ_self
    rw [Nat.succ_eq_add_one, ← hx] at hg1
    rw [← hx] at ha
    cases rm with
    | near => rcases ha with ha | ⟨ha, -⟩ <;> linarith
    | zero => exact ha
    | up | down => exact ha.2 rfl
    | stoch k =>
      have hk : (k : ℝ) / 2 ^ 16 < 1 := by
        rw [div_lt_one (by positivity)]; exact_mod_cast hk k rfl
      simp only [RoundsAway] at ha
      nlinarith
  · rw [hi, ne_comm]

/-- A number on the grid is delivered as it is. -/
theorem RoundsOn.of_mem (h : RoundsOn g rm neg x r i) (hg : StrictMono g) (hk : rm.Fits) {k : Nat} (hx : x = g k) :
    r = k ∧ i = false := by
  have hi : i = false := by
    by_contra hc
    obtain ⟨n, hlo, hhi, hi, -⟩ := h
    rw [hx] at hlo hhi hi
    have h1 := hg.le_iff_le.1 hlo
    have h2 := hg.lt_iff_lt.1 hhi
    exact (hi.1 (by simpa using hc)) (by rw [show k = n by omega])
  refine ⟨hg.injective ?_, hi⟩
  have := (h.eq_iff hg hk).not.1 (by simp [hi])
  rw [not_not.1 this, hx]

theorem RoundsOn.bounds (h : RoundsOn g rm neg x r i) : ∃ n, g n ≤ x ∧ x < g (n + 1) ∧ n ≤ r ∧ r ≤ n + 1 := by
  obtain ⟨n, hlo, hhi, -, ⟨-, rfl⟩ | ⟨-, rfl⟩⟩ := h
  · exact ⟨n, hlo, hhi, by omega, le_rfl⟩
  · exact ⟨r, hlo, hhi, le_rfl, by omega⟩

end

theorem strictMono_multiples (q : Int) : StrictMono (multiples q) := fun a b h =>
  mul_lt_mul_of_pos_right (by exact_mod_cast h) (two_zpow_pos q)

/-- Rounding to the multiples of 2^q is rounding a fraction to an integer (R98). -/
theorem RoundsOn.roundsTo {q : Int} {rm : Rm} {neg i : Bool} {x : ℝ} {r : Nat} (h : RoundsOn (multiples q) rm neg x r i)
    (hk : rm.Fits) : RoundsTo rm neg x q (multiples q r) := by
  have hq := two_zpow_pos q
  obtain ⟨u, rfl⟩ : ∃ u : ℝ, x = u * 2 ^ q := ⟨x / 2 ^ q, (div_mul_cancel₀ _ hq.ne').symm⟩
  refine ⟨r, rfl, ?_⟩
  rw [mul_div_cancel_right₀ _ hq.ne']
  have hnear := fun hrm : rm = .near => (hrm ▸ h).nearest (strictMono_multiples q)
  obtain ⟨n, hlo, hhi, -, hr⟩ := h
  have hlo : (n : ℝ) ≤ u := le_of_mul_le_mul_right hlo hq
  have hhi : u < n + 1 := by
    have := lt_of_mul_lt_mul_right hhi hq.le
    push_cast at this; exact this
  have h0 : 0 ≤ u := n.cast_nonneg.trans hlo
  have hfloor : ⌊u⌋₊ = n := (Nat.floor_eq_iff h0).2 ⟨hlo, hhi⟩
  have hne : u * 2 ^ q ≠ multiples q n ↔ u ≠ n := (mul_left_injective₀ hq.ne').ne_iff
  have htoward (hz : ¬ RoundsAway rm neg (multiples q n) (multiples q (n + 1)) (u * 2 ^ q) n) : r = ⌊u⌋₊ := by
    rw [hfloor]; exact (hr.resolve_left fun h => hz h.1).2
  have haway (ha : RoundsAway rm neg (multiples q n) (multiples q (n + 1)) (u * 2 ^ q) n ↔ u ≠ n) : r = ⌈u⌉₊ := by
    rw [ha, not_not] at hr
    rcases hr with ⟨hu, rfl⟩ | ⟨rfl, rfl⟩
    · symm
      rw [Nat.ceil_eq_iff (by omega)]
      exact ⟨by simpa using lt_of_le_of_ne hlo hu.symm, by exact_mod_cast hhi.le⟩
    · exact (Nat.ceil_natCast r).symm
  cases rm with
  | near =>
    intro k
    have := hnear rfl k
    simp only [multiples, ← sub_mul, abs_mul, abs_of_pos hq, mul_le_mul_iff_left₀ hq, mul_left_inj' hq.ne'] at this
    exact this
  | zero => exact htoward id
  | up => cases neg <;> simp_all [RoundsAway]
  | down => cases neg <;> simp_all [RoundsAway]
  | stoch k =>
    have hk : (k : ℝ) / 2 ^ 16 < 1 := by
      rw [div_lt_one (by positivity)]; exact_mod_cast hk k rfl
    have hk0 : (0 : ℝ) ≤ k / 2 ^ 16 := by positivity
    have hiff : RoundsAway (.stoch k) neg (multiples q n) (multiples q (n + 1)) (u * 2 ^ q) n ↔ (n : ℝ) + 1 ≤ u + k / 2 ^ 16 := by
      have : u * 2 ^ q + k / 2 ^ 16 * (multiples q (n + 1) - multiples q n) = (u + k / 2 ^ 16) * 2 ^ q := by
        simp only [multiples]; push_cast; ring
      rw [RoundsAway, this, multiples, mul_le_mul_iff_left₀ hq]; push_cast; rfl
    rw [hiff] at hr
    refine Eq.symm ((Nat.floor_eq_iff (by positivity)).2 ?_)
    rcases hr with ⟨ha, rfl⟩ | ⟨ha, rfl⟩
    · push_cast; exact ⟨ha, by linarith⟩
    · exact ⟨by linarith, by linarith⟩

/-! ## The magnitudes of a format -/

/-- The magnitude with the code `k` in a format of fraction width `t` whose least normal exponent is `emin`, as if its
exponents went on without end. -/
noncomputable def magnitude (t : Nat) (emin : Int) (k : Nat) : ℝ :=
  if k < 2 ^ t then multiples (emin - t) k else multiples (emin - t + (k / 2 ^ t : Nat) - 1) (2 ^ t + k % 2 ^ t)

section
variable {t : Nat} {emin : Int}

theorem multiples_double (q : Int) (n : Nat) : multiples q (2 * n) = multiples (q + 1) n := by
  simp only [multiples, zpow_add_one₀ (two_ne_zero (α := ℝ))]; push_cast; ring

theorem magnitude_add {j n : Nat} (hn : n ≤ 2 ^ (t + 1)) (hj : j = 0 ∨ 2 ^ t ≤ n) :
    magnitude t emin (j * 2 ^ t + n) = multiples (emin - t + j) n := by
  have hp := Nat.two_pow_pos t
  rw [Nat.pow_succ] at hn
  unfold magnitude
  rcases Nat.lt_or_ge n (2 ^ t) with h | h
  · obtain rfl := hj.resolve_right (by omega)
    simp [h]
  · rw [if_neg (by nlinarith)]
    rcases Nat.lt_or_ge n (2 ^ t * 2) with h2 | h2
    · have hd : (j * 2 ^ t + n) / 2 ^ t = j + 1 := Nat.div_eq_of_lt_le (by nlinarith) (by nlinarith)
      have hm : (j * 2 ^ t + n) % 2 ^ t = n - 2 ^ t := by
        have := Nat.div_add_mod (j * 2 ^ t + n) (2 ^ t); rw [hd, Nat.mul_comm] at this; rw [Nat.succ_mul] at this; omega
      rw [hd, hm, show 2 ^ t + (n - 2 ^ t) = n by omega]
      congr 1; push_cast; ring
    · obtain rfl : n = 2 * 2 ^ t := by omega
      have he : j * 2 ^ t + 2 * 2 ^ t = (j + 2) * 2 ^ t := by ring
      rw [he, Nat.mul_div_cancel _ hp, Nat.mul_mod_left, Nat.add_zero, multiples_double]
      congr 1; push_cast; ring

/-- Every code is a quantum and a number of them. -/
theorem exists_code (t k : Nat) : ∃ j n, k = j * 2 ^ t + n ∧ n < 2 ^ (t + 1) ∧ (j = 0 ∨ 2 ^ t ≤ n) := by
  have hp := Nat.two_pow_pos t
  have hdm := Nat.div_add_mod k (2 ^ t)
  have hm := Nat.mod_lt k hp
  rw [Nat.pow_succ]
  cases hj : k / 2 ^ t with
  | zero => exact ⟨0, k % 2 ^ t, by rw [hj] at hdm; omega, by omega, .inl rfl⟩
  | succ j => exact ⟨j, 2 ^ t + k % 2 ^ t, by rw [hj] at hdm; linarith, by omega, .inr (by omega)⟩

theorem magnitude_succ {j n : Nat} (hn : n < 2 ^ (t + 1)) (hj : j = 0 ∨ 2 ^ t ≤ n) :
    magnitude t emin (j * 2 ^ t + n + 1) = multiples (emin - t + j) (n + 1) :=
  magnitude_add (n := n + 1) hn (hj.imp_right fun h => h.trans n.le_succ)

theorem strictMono_magnitude : StrictMono (magnitude t emin) := strictMono_nat_of_lt_succ fun k => by
  obtain ⟨j, n, rfl, hn, hj⟩ := exists_code t k
  rw [magnitude_succ hn hj, magnitude_add hn.le hj]
  exact strictMono_multiples _ n.lt_succ_self

@[simp] theorem magnitude_zero : magnitude t emin 0 = 0 := by simp [magnitude, multiples]

theorem magnitude_nonneg (k : Nat) : 0 ≤ magnitude t emin k := by
  rw [← magnitude_zero (t := t) (emin := emin)]; exact strictMono_magnitude.monotone k.zero_le

theorem multiples_pow (q : Int) (n : Nat) : multiples q (2 ^ n) = (2 : ℝ) ^ (q + n) := by
  rw [multiples, zpow_add₀ two_ne_zero, zpow_natCast, mul_comm]; push_cast; rfl

/-- The codes at which a new exponent begins. -/
theorem magnitude_mul_pow (j : Nat) : magnitude t emin ((j + 1) * 2 ^ t) = (2 : ℝ) ^ (emin + j) := by
  rw [Nat.succ_mul, magnitude_add (Nat.pow_le_pow_right two_pos t.le_succ) (.inr le_rfl), multiples_pow]
  congr 1; ring

/-- Few enough steps of a quantum that is not too small are a magnitude. -/
theorem exists_magnitude_eq {q : Int} {n : Nat} (hn : n ≤ 2 ^ (t + 1)) (hq : emin - t ≤ q) :
    ∃ k, magnitude t emin k = multiples q n := by
  obtain ⟨d, rfl⟩ := Int.le.dest hq
  induction d generalizing n with
  | zero => exact ⟨n, by simpa using magnitude_add (t := t) (emin := emin) (j := 0) hn (.inl rfl)⟩
  | succ d ih =>
    by_cases h : 2 ^ t ≤ n
    · exact ⟨_, magnitude_add hn (.inr h)⟩
    · obtain ⟨k, hk⟩ := ih (n := 2 * n) (by rw [Nat.pow_succ]; omega) (by omega)
      exact ⟨k, by rw [hk, multiples_double]; push_cast; rw [add_assoc]⟩

end

/-! ## Rounding to a format -/

/-- The code of a rounded magnitude. -/
def Rounded.code (r : Rounded) (t : Nat) (emin : Int) : Nat := (r.e - emin).toNat * 2 ^ t + r.n

/-- When a mantissa tells how `x` is rounded to `t` fraction bits: it is exact, or it has two bits more. -/
def Suffices (rm : Rm) (t m : Nat) (e : Int) (x : ℝ) : Prop :=
  x = m * (2 : ℝ) ^ e ∧ rm.Fits ∨ 2 ^ (t + 2) ≤ m ∧ ∀ k, rm ≠ .stoch k

section
variable {t m : Nat} {emin e : Int} {rm : Rm} {x : ℝ}

theorem Suffices.fits (h : Suffices rm t m e x) : rm.Fits := h.elim (·.2) fun h k hk => absurd hk (h.2 k)

theorem Suffices.decides (h : Suffices rm t m e x) {q : Int} (hq : dyadicLog m e - t ≤ q) : Decides rm m e x q := by
  refine h.imp_right fun ⟨hm, hs⟩ => ⟨?_, hs⟩
  have hm0 : m ≠ 0 := (lt_of_lt_of_le (Nat.two_pow_pos _) hm).ne'
  have := (Nat.le_log2 hm0).2 hm
  unfold dyadicLog at hq
  omega

theorem Suffices.log_eq (h : Suffices rm t m e x) (hs : StandsFor m e x) (hm : 0 < m) : Int.log 2 x = dyadicLog m e := by
  refine hs.log_eq (h.imp (·.1) fun ⟨hm, _⟩ => le_trans ?_ hm) hm
  rw [Nat.pow_add]; have := Nat.two_pow_pos t; omega

/-- A number is less than 2^(t+1) steps of the quantum of its exponent. -/
theorem lt_multiples_log (hx : 0 < x) {l : Int} (hl : Int.log 2 x ≤ l) : x < multiples (l - t) (2 ^ (t + 1)) := by
  rw [multiples_pow]
  refine (Int.lt_zpow_iff_log_lt one_lt_two hx).2 ?_ |>.trans_eq' ?_ <;> push_cast
  · omega
  · rfl

theorem multiples_log_le (hx : 0 < x) : multiples (Int.log 2 x - t) (2 ^ t) ≤ x := by
  rw [multiples_pow, sub_add_cancel]
  exact (Int.zpow_le_iff_le_log one_lt_two hx).2 le_rfl

theorem StandsFor.pos (h : StandsFor m e x) (hm : 0 < m) : 0 < x := by
  rcases h with rfl | ⟨-, hlo, -⟩
  · have : (0 : ℝ) < m := by exact_mod_cast hm
    have := two_zpow_pos e
    positivity
  · refine lt_of_le_of_lt (mul_nonneg ?_ (two_zpow_pos e).le) hlo
    rw [sub_nonneg]; exact_mod_cast hm

theorem roundFw_e (neg : Bool) (hl : Int.log 2 x = dyadicLog m e) :
    (roundFw t emin rm neg m e).e = max (Int.log 2 x) emin := by
  rw [hl, max_comm, max_def]; unfold roundFw; dsimp only; split_ifs <;> omega

variable (neg : Bool) (h : StandsFor m e x) (hm : 0 < m) (hs : Suffices rm t m e x)
include h hm hs

/-- The rounded number of quanta (R98: rnd). -/
theorem roundFw_multiples : RoundsOn (multiples (max (Int.log 2 x) emin - t)) rm neg x (roundFw t emin rm neg m e).n
    (roundFw t emin rm neg m e).inexact := by
  have hl := hs.log_eq h hm
  rw [← roundFw_e (t := t) (rm := rm) neg hl]
  refine roundTo_spec neg h (hs.decides ?_)
  rw [roundFw_e neg hl, hl]
  omega

omit hs in
/-- The quanta between which a number lies stand in one exponent's row of codes. -/
theorem row_of_quantum {n : Nat} (hlo : multiples (max (Int.log 2 x) emin - t) n ≤ x)
    (hhi : x < multiples (max (Int.log 2 x) emin - t) (n + 1)) :
    n < 2 ^ (t + 1) ∧ ((max (Int.log 2 x) emin - emin).toNat = 0 ∨ 2 ^ t ≤ n) := by
  have hx := h.pos hm
  have hmono := strictMono_multiples (max (Int.log 2 x) emin - t)
  refine ⟨hmono.lt_iff_lt.1 (hlo.trans_lt (lt_multiples_log hx (le_max_left _ _))), ?_⟩
  rcases le_total (Int.log 2 x) emin with hle | hle
  · exact .inl (by rw [max_eq_right hle]; omega)
  · rw [max_eq_left hle] at *
    exact .inr (Nat.lt_succ_iff.1 (hmono.lt_iff_lt.1 ((multiples_log_le hx).trans_lt hhi)))

theorem roundFw_code : magnitude t emin ((roundFw t emin rm neg m e).code t emin) =
    multiples (max (Int.log 2 x) emin - t) (roundFw t emin rm neg m e).n := by
  obtain ⟨n, hlo, hhi, h1, h2⟩ := (roundFw_multiples (emin := emin) neg h hm hs).bounds
  obtain ⟨hn, hj⟩ := row_of_quantum h hm hlo hhi
  rw [Rounded.code, roundFw_e neg (hs.log_eq h hm), magnitude_add (by omega) (hj.imp_right (by omega))]
  congr 1; omega

/-- ROUNDING TO A FORMAT rounds the number to the grid of its magnitudes, the exponent without end. -/
theorem roundFw_magnitude (ht : 1 ≤ t) : RoundsOn (magnitude t emin) rm neg x ((roundFw t emin rm neg m e).code t emin)
    (roundFw t emin rm neg m e).inexact := by
  obtain ⟨n, hlo, hhi, hi, hr⟩ := roundFw_multiples (emin := emin) neg h hm hs
  obtain ⟨hn, hj⟩ := row_of_quantum h hm hlo hhi
  rw [Rounded.code, roundFw_e neg (hs.log_eq h hm)]
  generalize hjj : (max (Int.log 2 x) emin - emin).toNat = j at *
  have hq : max (Int.log 2 x) emin - t = emin - t + j := by omega
  have hg : magnitude t emin (j * 2 ^ t + n) = multiples (max (Int.log 2 x) emin - t) n := hq ▸ magnitude_add hn.le hj
  have hg' : magnitude t emin (j * 2 ^ t + n + 1) = multiples (max (Int.log 2 x) emin - t) (n + 1) := hq ▸ magnitude_succ hn hj
  have hpar : (j * 2 ^ t + n) % 2 = n % 2 := by
    obtain ⟨u, rfl⟩ : ∃ u, t = u + 1 := ⟨t - 1, by omega⟩
    rw [Nat.pow_succ, ← Nat.mul_assoc, Nat.add_comm, Nat.add_mul_mod_self_right]
  refine ⟨j * 2 ^ t + n, hg ▸ hlo, hg' ▸ hhi, hg ▸ hi, ?_⟩
  have haway : RoundsAway rm neg (magnitude t emin (j * 2 ^ t + n)) (magnitude t emin (j * 2 ^ t + n + 1)) x (j * 2 ^ t + n) ↔
      RoundsAway rm neg (multiples (max (Int.log 2 x) emin - t) n) (multiples (max (Int.log 2 x) emin - t) (n + 1)) x n := by
    rw [hg, hg']; cases rm <;> simp only [RoundsAway, hpar]
  rw [haway]
  exact hr.imp (And.imp_right fun h => by omega) (And.imp_right fun h => by omega)

/-- A result is tiny where rounding with unbounded exponent stays below the least normal value (R87, R98: rnd_unb). -/
theorem roundFw_tiny : ∃ w i, RoundsOn (multiples (Int.log 2 x - t)) rm neg x w i ∧
    ((roundFw t emin rm neg m e).tiny = true ↔ multiples (Int.log 2 x - t) w < (2 : ℝ) ^ emin) := by
  have hl := hs.log_eq h hm
  have hx := h.pos hm
  have hw := roundTo_spec neg h (hs.decides (q := Int.log 2 x - t) (by rw [hl]))
  refine ⟨_, _, hw, ?_⟩
  obtain ⟨n, hlo, hhi, h1, h2⟩ := hw.bounds
  have hmono := strictMono_multiples (Int.log 2 x - t)
  have hn1 := hmono.lt_iff_lt.1 (hlo.trans_lt (lt_multiples_log hx le_rfl))
  have hn0 := hmono.lt_iff_lt.1 ((multiples_log_le hx).trans_lt hhi)
  have ht : (roundFw t emin rm neg m e).tiny = (decide (dyadicLog m e < emin) &&
    !(decide (dyadicLog m e = emin - 1) && decide (2 ^ (t + 1) ≤ (roundTo rm neg m e (dyadicLog m e - t)).1))) := rfl
  rw [ht, ← hl]
  generalize (roundTo rm neg m e (Int.log 2 x - t)).1 = w at *
  have hpow (l : Int) : (2 : ℝ) ^ l = multiples (l - t) (2 ^ t) := by rw [multiples_pow, sub_add_cancel]
  simp only [Bool.and_eq_true, Bool.not_eq_true', Bool.and_eq_false_iff, decide_eq_true_eq, decide_eq_false_iff_not]
  rcases lt_trichotomy (Int.log 2 x) (emin - 1) with hc | hc | hc
  · refine iff_of_true ⟨by omega, .inl hc.ne⟩ (lt_of_le_of_lt (hmono.monotone (show w ≤ 2 ^ (t + 1) by omega)) ?_)
    rw [multiples_pow]
    exact zpow_lt_zpow_right₀ one_lt_two (by push_cast; omega)
  · have : (2 : ℝ) ^ emin = multiples (Int.log 2 x - t) (2 ^ (t + 1)) := by rw [multiples_pow]; congr 1; push_cast; omega
    rw [this, hmono.lt_iff_lt]
    omega
  · refine iff_of_false (by omega) (not_lt.2 (le_trans ?_ (hmono.monotone (show 2 ^ t ≤ w by omega))))
    rw [multiples_pow]
    exact zpow_le_zpow_right₀ one_le_two (by omega)

end

end Sys2Proof.Machine

/-! IEEE formats: patterns and the numbers that they stand for, and the one rounding that delivers a result (R83, R86, R87). -/

namespace Sys2Proof.Machine

open Sys2Proof.Claims

/-! ## Patterns -/

/-- A format with a least normal value below its largest one, and with fractions. -/
def FpFmt.Usual (f : FpFmt) : Prop := 2 ≤ f.ew ∧ 1 ≤ f.fw

theorem usual_of_mem {f : FpFmt} (h : f ∈ [fp32, fp16, bf16]) : f.Usual := by
  simp only [List.mem_cons, List.not_mem_nil, or_false] at h
  rcases h with rfl | rfl | rfl <;> exact ⟨by decide, by decide⟩

theorem fp32_usual : fp32.Usual := usual_of_mem (by decide)

/-- A number with a sign put before its magnitude. -/
def withSign (s : Bool) (v : ℝ) : ℝ := if s then -v else v

@[simp] theorem withSign_true (v : ℝ) : withSign true v = -v := rfl
@[simp] theorem withSign_false (v : ℝ) : withSign false v = v := rfl
@[simp] theorem withSign_zero (s : Bool) : withSign s 0 = 0 := by cases s <;> simp
theorem withSign_not (s : Bool) (v : ℝ) : withSign (!s) v = -withSign s v := by cases s <;> simp
theorem abs_withSign (s : Bool) (v : ℝ) : |withSign s v| = |v| := by cases s <;> simp
theorem withSign_eq_zero {s : Bool} {v : ℝ} : withSign s v = 0 ↔ v = 0 := by cases s <;> simp
theorem withSign_mul (s : Bool) (v w : ℝ) : withSign s v * w = withSign s (v * w) := by cases s <;> simp
theorem withSign_inj {s : Bool} {v w : ℝ} : withSign s v = withSign s w ↔ v = w := by cases s <;> simp
theorem withSign_sub (s : Bool) (v w : ℝ) : withSign s v - withSign s w = withSign s (v - w) := by cases s <;> simp; ring
theorem withSign_neg_iff {s : Bool} {v : ℝ} (h : 0 < v) : withSign s v < 0 ↔ s = true := by cases s <;> simp [h, h.le]

namespace FpFmt

variable {f : FpFmt}

/-- The magnitudes of the format's patterns, the exponent without end. -/
noncomputable def grid (f : FpFmt) : Nat → ℝ := magnitude f.fw f.emin

theorem strictMono_grid : StrictMono f.grid := strictMono_magnitude
theorem grid_nonneg (k : Nat) : 0 ≤ f.grid k := magnitude_nonneg k
@[simp] theorem grid_zero : f.grid 0 = 0 := magnitude_zero

theorem emin_eq (f : FpFmt) : f.emin = 2 - 2 ^ (f.ew - 1) := by
  have := Nat.one_le_two_pow (n := f.ew - 1)
  unfold emin bias
  push_cast [this]
  ring

theorem infBits_lt_signBit (f : FpFmt) : f.infBits < f.signBit := by
  unfold infBits signBit
  rw [Nat.pow_add]
  exact Nat.mul_lt_mul_of_pos_right (Nat.sub_lt (Nat.two_pow_pos _) one_pos) (Nat.two_pow_pos _)

theorem infBits_eq (hf : f.Usual) : f.infBits = (2 ^ f.ew - 3) * 2 ^ f.fw + 2 ^ (f.fw + 1) := by
  have h4 : 2 ^ 2 ≤ 2 ^ f.ew := Nat.pow_le_pow_right two_pos hf.1
  unfold infBits
  rw [Nat.pow_succ, show 2 ^ f.ew - 1 = 2 ^ f.ew - 3 + 2 by omega]
  ring

theorem two_pow_ew (hf : f.Usual) : (2 : Int) ^ f.ew = 2 * 2 ^ (f.ew - 1) := by
  rw [← pow_succ', Nat.sub_add_cancel (le_trans one_le_two hf.1)]

theorem exponent_max (hf : f.Usual) : f.emin - f.fw + ((2 ^ f.ew - 3 : Nat) : Int) = 2 ^ (f.ew - 1) - 1 - f.fw := by
  have h4 : 2 ^ 2 ≤ 2 ^ f.ew := Nat.pow_le_pow_right two_pos hf.1
  have hc : ((2 ^ f.ew - 3 : Nat) : Int) = 2 ^ f.ew - 3 := by push_cast [show 3 ≤ 2 ^ f.ew by omega]; rfl
  rw [hc, two_pow_ew hf, emin_eq]; ring

/-- The power of two that follows the largest finite value. -/
theorem grid_infBits (hf : f.Usual) : f.grid f.infBits = (2 : ℝ) ^ ((2 : Int) ^ (f.ew - 1)) := by
  rw [infBits_eq hf, grid, magnitude_add le_rfl (.inr (by rw [Nat.pow_succ]; omega)), exponent_max hf, multiples_pow]
  congr 1; push_cast; ring

theorem maxBits_add_one (f : FpFmt) (hf : f.Usual) : f.maxBits + 1 = f.infBits := by
  have := Nat.two_pow_pos (f.fw + 1)
  have := infBits_eq hf
  unfold maxBits; omega

/-- The largest finite value. -/
theorem grid_maxBits (hf : f.Usual) :
    f.grid f.maxBits = (2 : ℝ) ^ ((2 : Int) ^ (f.ew - 1)) - (2 : ℝ) ^ ((2 : Int) ^ (f.ew - 1) - 1 - (f.fw : Int)) := by
  have hp := Nat.two_pow_pos f.fw
  have hm : f.maxBits = (2 ^ f.ew - 3) * 2 ^ f.fw + (2 ^ (f.fw + 1) - 1) := by
    have := maxBits_add_one f hf
    have := infBits_eq hf
    rw [Nat.pow_succ] at *; omega
  rw [hm, grid, magnitude_add (by omega) (.inr (by rw [Nat.pow_succ]; omega)), exponent_max hf, multiples,
    Nat.cast_sub Nat.one_le_two_pow, sub_mul, Nat.cast_one, one_mul]
  have := multiples_pow ((2 : Int) ^ (f.ew - 1) - 1 - (f.fw : Int)) (f.fw + 1)
  rw [multiples] at this
  rw [this]
  congr 2; push_cast; ring

theorem maxBits_odd (hf : f.Usual) : f.maxBits % 2 = 1 := by
  have := maxBits_add_one f hf
  have h2 : f.infBits % 2 = 0 := by
    obtain ⟨u, hu⟩ : ∃ u, f.fw = u + 1 := ⟨f.fw - 1, by have := hf.2; omega⟩
    rw [infBits, hu, Nat.pow_succ, ← Nat.mul_assoc, Nat.mul_mod_left]
  omega

/-- The least normal value. -/
theorem grid_least : f.grid (2 ^ f.fw) = (2 : ℝ) ^ f.emin := by
  simpa [grid] using magnitude_mul_pow (t := f.fw) (emin := f.emin) 0

theorem least_le_maxBits (hf : f.Usual) : 2 ^ f.fw ≤ f.maxBits := by
  have := maxBits_add_one f hf
  have := infBits_eq hf
  have := Nat.two_pow_pos f.fw
  rw [Nat.pow_succ] at *
  have : 0 ≤ (2 ^ f.ew - 3) * 2 ^ f.fw := Nat.zero_le _
  omega

/-! ## The value of a pattern -/

theorem exponent_of_mod (x : Nat) : x / 2 ^ f.fw % 2 ^ f.ew = x % f.signBit / 2 ^ f.fw := by
  rw [signBit, Nat.add_comm, Nat.pow_add, Nat.mod_mul_right_div_self]

theorem fraction_of_mod (x : Nat) : x % 2 ^ f.fw = x % f.signBit % 2 ^ f.fw := by
  rw [signBit, Nat.mod_mod_of_dvd _ (Nat.pow_dvd_pow 2 (Nat.le_add_left _ _))]

theorem mod_lt_infBits_iff (x : Nat) : x % f.signBit < f.infBits ↔ x / 2 ^ f.fw % 2 ^ f.ew ≠ 2 ^ f.ew - 1 := by
  have h : x / 2 ^ f.fw % 2 ^ f.ew < 2 ^ f.ew := Nat.mod_lt _ (Nat.two_pow_pos _)
  rw [infBits, ← Nat.div_lt_iff_lt_mul (Nat.two_pow_pos _), ← exponent_of_mod]
  omega

theorem valueOf_eq (x : Nat) : valueOf f x =
    if x % f.signBit < f.infBits then some (withSign (x / f.signBit % 2 == 1) (f.grid (x % f.signBit))) else none := by
  have hsign (v : ℝ) : (if x / 2 ^ (f.ew + f.fw) % 2 = 1 then -1 else 1 : ℝ) * v = withSign (x / f.signBit % 2 == 1) v := by
    simp only [withSign, beq_iff_eq, signBit]; split_ifs <;> simp
  have hbias : 1 - ((2 : Int) ^ (f.ew - 1) - 1) = f.emin := by rw [emin_eq]; ring
  have hsub : x / 2 ^ f.fw % 2 ^ f.ew = 0 ↔ x % f.signBit < 2 ^ f.fw := by
    rw [exponent_of_mod, Nat.div_eq_zero_iff_lt (Nat.two_pow_pos _)]
  simp only [valueOf, mod_lt_infBits_iff, ne_eq, ite_not, hsign, hbias, hsub, grid, magnitude, withSign_mul, multiples]
  split_ifs with h1 h2
  · rfl
  · rw [fraction_of_mod, Nat.mod_eq_of_lt h2]
  · rw [exponent_of_mod, fraction_of_mod, ← hbias]
    generalize x % f.signBit / 2 ^ f.fw = e
    generalize x % f.signBit % 2 ^ f.fw = m
    rw [show (1 : Int) - (2 ^ (f.ew - 1) - 1) - f.fw + e - 1 = e - (2 ^ (f.ew - 1) - 1) - f.fw by ring]
    push_cast
    rfl

theorem signed_mod {s : Bool} {k : Nat} (hk : k < f.signBit) : f.signed s k % f.signBit = k := by
  unfold signed; split_ifs
  · rw [Nat.add_mod_left, Nat.mod_eq_of_lt hk]
  · exact Nat.mod_eq_of_lt hk

theorem signed_div {s : Bool} {k : Nat} (hk : k < f.signBit) : f.signed s k / f.signBit = s.toNat := by
  have hp : 0 < f.signBit := Nat.two_pow_pos _
  unfold signed; cases s
  · simpa using Nat.div_eq_of_lt hk
  · simp [Nat.add_div_left _ hp, Nat.div_eq_of_lt hk]

theorem signed_lt {s : Bool} {k : Nat} (hk : k < f.signBit) : f.signed s k < 2 * f.signBit := by
  unfold signed; split_ifs <;> omega

theorem eq_signed {x : Nat} (h : x < 2 * f.signBit) : x = f.signed (x / f.signBit % 2 == 1) (x % f.signBit) := by
  have hlt : x / f.signBit < 2 := Nat.div_lt_of_lt_mul (by omega)
  have hdm := Nat.div_add_mod x f.signBit
  rw [Nat.mod_eq_of_lt hlt]
  generalize x / f.signBit = q at *
  interval_cases q
  · simpa [signed] using hdm.symm
  · simpa [signed] using hdm.symm

theorem valueOf_signed {s : Bool} {k : Nat} (hk : k < f.infBits) : valueOf f (f.signed s k) = some (withSign s (f.grid k)) := by
  have h := hk.trans f.infBits_lt_signBit
  rw [valueOf_eq, signed_mod h, if_pos hk, signed_div h]
  cases s <;> rfl

theorem valueOf_signed_infBits (s : Bool) : valueOf f (f.signed s f.infBits) = none := by
  rw [valueOf_eq, signed_mod f.infBits_lt_signBit, if_neg (lt_irrefl _)]

theorem valueOf_eq_some {x : Nat} {a : ℝ} (h : valueOf f x = some a) :
    x % f.signBit < f.infBits ∧ a = withSign (x / f.signBit % 2 == 1) (f.grid (x % f.signBit)) := by
  rw [valueOf_eq] at h
  split_ifs at h with hk
  exact ⟨hk, (Option.some.inj h).symm⟩

/-- A finite value is a magnitude with one of the two signs. -/
theorem finite_cases (s : Bool) {x : Nat} {a : ℝ} (h : valueOf f x = some a) :
    ∃ k < f.infBits, a = withSign s (f.grid k) ∨ a = -withSign s (f.grid k) := by
  obtain ⟨hk, ha⟩ := valueOf_eq_some h
  refine ⟨_, hk, ?_⟩
  rw [ha]
  cases s <;> cases (x / f.signBit % 2 == 1) <;> simp

end FpFmt

end Sys2Proof.Machine

/-! The one rounding of a result: the delivered pattern and its flags (R86, R87). -/

namespace Sys2Proof.Machine

open Sys2Proof.Claims

section
variable {g : Nat → ℝ} {rm : Rm} {neg i : Bool} {x : ℝ} {r : Nat}

/-- A mode that never rounds away delivers the greatest point of the grid that is not above the number. -/
theorem RoundsOn.greatest (h : RoundsOn g rm neg x r i) (hg : StrictMono g)
    (ha : ∀ lo hi p, ¬ RoundsAway rm neg lo hi x p) : g r ≤ x ∧ ∀ k, g k ≤ x → k ≤ r := by
  obtain ⟨n, hlo, hhi, -, ⟨h, -⟩ | ⟨-, rfl⟩⟩ := h
  · exact (ha _ _ _ h).elim
  · exact ⟨hlo, fun k hk => Nat.lt_succ_iff.1 (hg.lt_iff_lt.1 (hk.trans_lt hhi))⟩

/-- A mode that always rounds away delivers the least point of the grid that is not below the number. -/
theorem RoundsOn.least (h : RoundsOn g rm neg x r i) (hg : StrictMono g)
    (ha : ∀ lo hi p, RoundsAway rm neg lo hi x p ↔ x ≠ lo) : x ≤ g r ∧ ∀ k, x ≤ g k → r ≤ k := by
  obtain ⟨n, hlo, hhi, -, ⟨h, rfl⟩ | ⟨h, rfl⟩⟩ := h <;> rw [ha] at h
  · exact ⟨hhi.le, fun k hk => hg.lt_iff_lt.1 (lt_of_lt_of_le (lt_of_le_of_ne hlo h.symm) hk)⟩
  · rw [not_not] at h
    exact ⟨h.le, fun k hk => hg.le_iff_le.1 (h ▸ hk)⟩

end

namespace FpFmt

variable {f : FpFmt} {rm : Rm} {s i : Bool} {x : ℝ} {b : Nat}

/-- The pattern of a rounded code: what lies beyond the codes is an infinity or the largest finite value (R99). -/
def patternOf (f : FpFmt) (rm : Rm) (s : Bool) (b : Nat) : Nat :=
  f.signed s (if f.infBits ≤ b then (if overflowInf rm s then f.infBits else f.maxBits) else b)

theorem patternOf_of_lt (h : b < f.infBits) : f.patternOf rm s b = f.signed s b := by
  rw [patternOf, if_neg (not_le.2 h)]

theorem patternOf_of_le (h : f.infBits ≤ b) :
    f.patternOf rm s b = f.signed s (if overflowInf rm s then f.infBits else f.maxBits) := by
  rw [patternOf, if_pos h]

section
variable (hf : f.Usual) (hx : 0 < x) (h : RoundsOn f.grid rm s x b i)
include hf

theorem maxBits_lt : f.maxBits < f.infBits := by have := maxBits_add_one f hf; omega

include h

/-- When a result reaches beyond the largest finite value. -/
theorem infBits_le_iff : f.infBits ≤ b ↔ f.grid f.infBits ≤ x ∨
    x < f.grid f.infBits ∧ f.grid f.maxBits ≤ x ∧ RoundsAway rm s (f.grid f.maxBits) (f.grid f.infBits) x f.maxBits := by
  rw [← maxBits_add_one f hf]; exact h.le_iff strictMono_grid _

include hx

theorem overflows_iff (hs : ∀ k, rm ≠ .stoch k) : f.infBits ≤ b ↔ Overflows f rm (withSign s x) := by
  rw [infBits_le_iff hf h, grid_maxBits hf, grid_infBits hf]
  have hstep := two_zpow_pos ((2 : Int) ^ (f.ew - 1) - 1 - (f.fw : Int))
  have htop : 0 ≤ (2 : ℝ) ^ ((2 : Int) ^ (f.ew - 1)) - (2 : ℝ) ^ ((2 : Int) ^ (f.ew - 1) - 1 - (f.fw : Int)) :=
    (grid_maxBits hf) ▸ grid_nonneg _
  unfold Overflows
  generalize (2 : ℝ) ^ ((2 : Int) ^ (f.ew - 1) - 1 - (f.fw : Int)) = step at *
  generalize (2 : ℝ) ^ ((2 : Int) ^ (f.ew - 1)) = T at *
  cases rm with
  | near =>
    simp only [RoundsAway, maxBits_odd hf, and_true, abs_withSign, abs_of_pos hx]
    grind
  | zero =>
    simp only [RoundsAway, and_false, or_false, abs_withSign, abs_of_pos hx]
    grind
  | up => cases s <;> simp only [RoundsAway, withSign_true, withSign_false] <;> grind
  | down => cases s <;> simp only [RoundsAway, withSign_true, withSign_false] <;> grind
  | stoch k => exact absurd rfl (hs k)

end

/-- A code of the format gives the finite pattern that `Rounds` asks for. -/
theorem finite_signed (hx : 0 < x) {k : Nat} (hk : k < f.infBits) {p : ℝ → Prop} (hp : p (withSign s (f.grid k))) :
    ∃ v, (f.signed s k < 2 * 2 ^ (f.ew + f.fw) ∧ valueOf f (f.signed s k) = some v) ∧
      (f.signed s k / 2 ^ (f.ew + f.fw) = 1 ↔ withSign s x < 0) ∧ p v := by
  have hlt := hk.trans f.infBits_lt_signBit
  refine ⟨_, ⟨signed_lt hlt, valueOf_signed hk⟩, ?_, hp⟩
  rw [← signBit, signed_div hlt, withSign_neg_iff hx]
  cases s <;> simp

theorem top_eq (hf : f.Usual) :
    (2 - (2 : ℝ) ^ (-(f.fw : Int))) * (2 : ℝ) ^ ((2 : Int) ^ (f.ew - 1) - 1) = f.grid f.maxBits := by
  rw [grid_maxBits hf, sub_mul, ← zpow_add₀ two_ne_zero, ← zpow_one_add₀ two_ne_zero]
  congr 2 <;> ring

section
variable (hf : f.Usual) (hx : 0 < x)
include hf hx

/-- To nearest, a finite code is nearest among all the finite values of both signs. -/
theorem nearest_finite (h : RoundsOn f.grid .near s x b i) {w : ℝ} {y : Nat} (hw : valueOf f y = some w) :
    |withSign s (f.grid b) - withSign s x| ≤ |w - withSign s x| ∧
      (|withSign s (f.grid b) - withSign s x| = |w - withSign s x| → w = withSign s (f.grid b) ∨ f.signed s b % 2 = 0) := by
  have hpar : f.signed s b % 2 = b % 2 := by
    obtain ⟨u, hu⟩ : ∃ u, f.ew + f.fw = u + 1 := ⟨f.ew + f.fw - 1, by have := hf.2; omega⟩
    unfold signed signBit
    rw [hu, Nat.pow_succ]
    split_ifs <;> omega
  obtain ⟨k, -, rfl | rfl⟩ := finite_cases s hw
  · obtain ⟨h1, h2⟩ := h.nearest strictMono_grid k
    simp only [withSign_sub, abs_withSign, withSign_inj, hpar]
    exact ⟨h1, fun he => (h2 he).imp_left fun hk => by rw [hk]⟩
  · obtain ⟨h1, h2⟩ := h.nearest strictMono_grid 0
    have hk := f.grid_nonneg k
    have hdist : |-withSign s (f.grid k) - withSign s x| = f.grid k + |f.grid 0 - x| := by
      rw [show -withSign s (f.grid k) - withSign s x = withSign s (-(f.grid k + x)) by cases s <;> simp [sub_eq_add_neg, add_comm],
        abs_withSign, abs_neg, grid_zero, zero_sub, abs_neg, abs_of_pos hx, abs_of_nonneg (by linarith)]
    rw [withSign_sub, abs_withSign, hpar, hdist]
    refine ⟨by linarith, fun he => ?_⟩
    have hk0 : f.grid k = 0 := by linarith
    refine (h2 (by linarith)).imp_left fun hb => ?_
    rw [hk0, ← hb, grid_zero, withSign_zero, neg_zero]

omit hf hx in
/-- A greatest magnitude not above the number, cut to the finite ones, is next to it toward zero among the finite values. -/
theorem toward_finite {c : Nat} (hc : ∀ k < f.infBits, f.grid k ≤ x → k ≤ c) {w : ℝ} {y : Nat}
    (hw : valueOf f y = some w) :
    (|w| ≤ x → |w| ≤ f.grid c) ∧ (s = true → withSign s x ≤ w → withSign s (f.grid c) ≤ w) ∧
      (s = false → w ≤ withSign s x → w ≤ withSign s (f.grid c)) := by
  have hle {k : Nat} (hk : k < f.infBits) (h : f.grid k ≤ x) : f.grid k ≤ f.grid c := strictMono_grid.monotone (hc k hk h)
  obtain ⟨k, hk, hwk⟩ := finite_cases false hw
  have hk0 := f.grid_nonneg k
  have hc0 := f.grid_nonneg c
  rw [withSign_false] at hwk
  refine ⟨fun hwx => ?_, ?_, ?_⟩
  · have : |w| = f.grid k := by rcases hwk with rfl | rfl <;> simp [abs_of_nonneg hk0]
    rw [this] at hwx ⊢
    exact hle hk hwx
  · rintro rfl hwx
    rw [withSign_true] at hwx ⊢
    rcases hwk with rfl | rfl
    · linarith
    · linarith [hle hk (by linarith)]
  · rintro rfl hwx
    rw [withSign_false] at hwx ⊢
    rcases hwk with rfl | rfl
    · exact hle hk hwx
    · linarith

omit hf in
/-- A least magnitude not below the number is next to it away from zero among the finite values. -/
theorem away_finite {c : Nat} (hc : ∀ k, x ≤ f.grid k → c ≤ k) {w : ℝ} {y : Nat} (hw : valueOf f y = some w) :
    (s = false → withSign s x ≤ w → withSign s (f.grid c) ≤ w) ∧
      (s = true → w ≤ withSign s x → w ≤ withSign s (f.grid c)) := by
  have hle {k : Nat} (h : x ≤ f.grid k) : f.grid c ≤ f.grid k := strictMono_grid.monotone (hc k h)
  obtain ⟨k, -, hwk⟩ := finite_cases false hw
  have hk0 := f.grid_nonneg k
  rw [withSign_false] at hwk
  refine ⟨?_, ?_⟩
  · rintro rfl hwx
    rw [withSign_false] at hwx ⊢
    rcases hwk with rfl | rfl
    · exact hle hwx
    · linarith
  · rintro rfl hwx
    rw [withSign_true] at hwx ⊢
    rcases hwk with rfl | rfl
    · linarith
    · linarith [hle (show x ≤ f.grid k by linarith)]

omit hx in
/-- The code to which a mode that never rounds away cuts the number: finite, and the greatest finite one not above it. -/
theorem cut_finite (h : RoundsOn f.grid rm s x b i) (ha : ∀ lo hi p, ¬ RoundsAway rm s lo hi x p)
    (ho : overflowInf rm s = false) : ∃ c < f.infBits, f.patternOf rm s b = f.signed s c ∧ f.grid c ≤ x ∧
      ∀ k < f.infBits, f.grid k ≤ x → k ≤ c := by
  obtain ⟨h1, h2⟩ := h.greatest strictMono_grid ha
  rcases Nat.lt_or_ge b f.infBits with hb | hb
  · exact ⟨b, hb, patternOf_of_lt hb, h1, fun k _ => h2 k⟩
  · refine ⟨f.maxBits, maxBits_lt hf, by rw [patternOf_of_le hb, ho]; rfl, ?_, fun k hk _ => ?_⟩
    · exact (strictMono_grid.monotone ((maxBits_lt hf).le.trans hb)).trans h1
    · have := maxBits_add_one f hf; omega

omit hx in
/-- Away from zero, the infinity is delivered exactly above the largest finite value. -/
theorem infBits_le_iff_of_away (h : RoundsOn f.grid rm s x b i) (ha : ∀ lo hi p, RoundsAway rm s lo hi x p ↔ x ≠ lo) :
    f.infBits ≤ b ↔ f.grid f.maxBits < x := by
  have := strictMono_grid (f := f) (maxBits_lt hf)
  rw [infBits_le_iff hf h, ha]
  grind

/-- THE DELIVERED PATTERN is that of one rounding (R86). -/
theorem rounds_patternOf (h : RoundsOn f.grid rm s x b i) (hs : ∀ k, rm ≠ .stoch k) :
    Rounds f rm (withSign s x) (f.patternOf rm s b) := by
  have hmax := f.grid_nonneg f.maxBits
  cases rm with
  | near =>
    simp only [Rounds, top_eq hf]
    have hover := overflows_iff hf hx h hs
    simp only [Overflows, ← grid_maxBits hf] at hover
    split_ifs with hz hneg
    · rw [patternOf_of_le (hover.2 hz), (withSign_neg_iff hx).1 hneg]; rfl
    · rw [patternOf_of_le (hover.2 hz), Bool.eq_false_iff.2 (hneg ∘ (withSign_neg_iff hx).2), Nat.zero_add]; rfl
    · rw [← hover, not_le] at hz
      rw [patternOf_of_lt hz]
      exact finite_signed hx hz fun w y hw => nearest_finite hf hx h hw.2
  | zero =>
    simp only [Rounds]
    obtain ⟨c, hc, he, h1, h2⟩ := cut_finite hf h (fun _ _ _ => id) rfl
    rw [he]
    refine finite_signed hx hc ⟨?_, fun w y hw hwx => ?_⟩
    · rwa [abs_withSign, abs_withSign, abs_of_pos hx, abs_of_nonneg (f.grid_nonneg c)]
    · rw [abs_withSign, abs_of_pos hx] at hwx
      rw [abs_withSign, abs_of_nonneg (f.grid_nonneg c)]
      exact (toward_finite (s := s) h2 hw.2).1 hwx
  | up =>
    simp only [Rounds, top_eq hf]
    cases s with
    | false =>
      have ha (lo hi : ℝ) (p : Nat) : RoundsAway .up false lo hi x p ↔ x ≠ lo := by simp [RoundsAway]
      have hover := infBits_le_iff_of_away hf h ha
      obtain ⟨h1, h2⟩ := h.least strictMono_grid ha
      split_ifs with hz
      · rw [patternOf_of_le (hover.2 hz)]; rfl
      · rw [withSign_false, ← hover, not_le] at hz
        rw [patternOf_of_lt hz]
        exact finite_signed hx hz ⟨h1, fun w y hw hwx => (away_finite (s := false) hx h2 hw.2).1 rfl hwx⟩
    | true =>
      obtain ⟨c, hc, he, h1, h2⟩ := cut_finite hf h (fun _ _ _ ha => nomatch ha.1) rfl
      rw [he, if_neg (by rw [withSign_true]; linarith)]
      exact finite_signed hx hc ⟨neg_le_neg h1, fun w y hw hwx => (toward_finite (s := true) h2 hw.2).2.1 rfl hwx⟩
  | down =>
    simp only [Rounds, top_eq hf]
    cases s with
    | false =>
      obtain ⟨c, hc, he, h1, h2⟩ := cut_finite hf h (fun _ _ _ ha => nomatch ha.1) rfl
      rw [he, if_neg (by rw [withSign_false]; linarith)]
      exact finite_signed hx hc ⟨h1, fun w y hw hwx => (toward_finite (s := false) h2 hw.2).2.2 rfl hwx⟩
    | true =>
      have ha (lo hi : ℝ) (p : Nat) : RoundsAway .down true lo hi x p ↔ x ≠ lo := by simp [RoundsAway]
      have hover := infBits_le_iff_of_away hf h ha
      obtain ⟨h1, h2⟩ := h.least strictMono_grid ha
      split_ifs with hz
      · rw [withSign_true, neg_lt_neg_iff] at hz
        rw [patternOf_of_le (hover.2 hz)]; rfl
      · rw [withSign_true, neg_lt_neg_iff, ← hover, not_le] at hz
        rw [patternOf_of_lt hz]
        exact finite_signed hx hz ⟨neg_le_neg h1, fun w y hw hwx => (away_finite (s := true) hx h2 hw.2).2 rfl hwx⟩
  | stoch k => trivial

end

/-! ## Flags -/

/-- The least normal value and the last step below it, at which a result is no longer tiny (R87). -/
theorem tiny_iff {t w : Nat} {emin : Int} (hx : 0 < x) (hw : RoundsOn (multiples (Int.log 2 x - t)) rm s x w i) :
    multiples (Int.log 2 x - t) w < (2 : ℝ) ^ emin ↔ x < (2 : ℝ) ^ emin ∧
      ¬ ((2 : ℝ) ^ emin - (2 : ℝ) ^ (emin - 1 - t) ≤ x ∧
        RoundsAway rm s ((2 : ℝ) ^ emin - (2 : ℝ) ^ (emin - 1 - t)) ((2 : ℝ) ^ emin) x 1) := by
  have hmono := strictMono_multiples (Int.log 2 x - t)
  have hlt (l : Int) : x < (2 : ℝ) ^ l ↔ Int.log 2 x < l := Int.lt_zpow_iff_log_lt one_lt_two hx
  obtain ⟨n, hlo, hhi, h1, h2⟩ := hw.bounds
  have hn1 := hmono.lt_iff_lt.1 (hlo.trans_lt (lt_multiples_log hx le_rfl))
  have hn0 := hmono.lt_iff_lt.1 ((multiples_log_le hx).trans_lt hhi)
  rw [hlt]
  rcases lt_trichotomy (Int.log 2 x) (emin - 1) with hc | hc | hc
  · refine iff_of_true (lt_of_le_of_lt (hmono.monotone (show w ≤ 2 ^ (t + 1) by omega)) ?_) ⟨by omega, fun h => ?_⟩
    · rw [multiples_pow]
      exact zpow_lt_zpow_right₀ one_lt_two (by push_cast; omega)
    · have h3 : (2 : ℝ) ^ emin = 2 * (2 : ℝ) ^ (emin - 1) := by rw [← zpow_one_add₀ two_ne_zero]; congr 1; ring
      have h4 : (2 : ℝ) ^ (emin - 1 - t) ≤ (2 : ℝ) ^ (emin - 1) := zpow_le_zpow_right₀ one_le_two (by omega)
      have h5 := (hlt (emin - 1)).2 hc
      linarith [h.1]
  · have hodd : (2 ^ (t + 1) - 1) % 2 = 1 := by have := Nat.two_pow_pos t; rw [Nat.pow_succ]; omega
    have hp : 2 ^ (t + 1) - 1 + 1 = 2 ^ (t + 1) := Nat.sub_add_cancel Nat.one_le_two_pow
    have htop : multiples (Int.log 2 x - t) (2 ^ (t + 1)) = (2 : ℝ) ^ emin := by
      rw [multiples_pow]; congr 1; push_cast; omega
    have hlast : multiples (Int.log 2 x - t) (2 ^ (t + 1) - 1) = (2 : ℝ) ^ emin - (2 : ℝ) ^ (emin - 1 - t) := by
      rw [← htop, multiples, multiples, Nat.cast_sub Nat.one_le_two_pow, hc]; push_cast; ring
    have hthr := hw.le_iff hmono (2 ^ (t + 1) - 1)
    rw [hp, htop, hlast, or_iff_right (not_le.2 ((hlt emin).2 (by omega))),
      and_iff_right ((hlt emin).2 (by omega))] at hthr
    have haway (lo hi : ℝ) : RoundsAway rm s lo hi x (2 ^ (t + 1) - 1) ↔ RoundsAway rm s lo hi x 1 := by
      cases rm <;> simp only [RoundsAway, hodd]
    rw [haway] at hthr
    rw [← htop, hmono.lt_iff_lt, htop, ← hthr]
    omega
  · refine iff_of_false (not_lt.2 (le_trans ?_ (hmono.monotone (show 2 ^ t ≤ w by omega)))) (fun h => by omega)
    rw [multiples_pow]
    exact zpow_le_zpow_right₀ one_le_two (by omega)

theorem tiny_iff_roundsAway (hx : 0 < x) (hs : ∀ k, rm ≠ .stoch k) : Tiny f rm (withSign s x) ↔ x < (2 : ℝ) ^ f.emin ∧
    ¬ ((2 : ℝ) ^ f.emin - (2 : ℝ) ^ (f.emin - 1 - f.fw) ≤ x ∧
      RoundsAway rm s ((2 : ℝ) ^ f.emin - (2 : ℝ) ^ (f.emin - 1 - f.fw)) ((2 : ℝ) ^ f.emin) x 1) := by
  have hstep := two_zpow_pos (f.emin - 1 - f.fw)
  have hle : (2 : ℝ) ^ (f.emin - 1 - f.fw) ≤ (2 : ℝ) ^ f.emin := zpow_le_zpow_right₀ one_le_two (by omega)
  have h1 : 2 - (2 : Int) ^ (f.ew - 1) = f.emin := f.emin_eq.symm
  have h2 : 1 - (2 : Int) ^ (f.ew - 1) - f.fw = f.emin - 1 - f.fw := by rw [emin_eq]; ring
  unfold Tiny
  simp only [h1, h2]
  generalize (2 : ℝ) ^ (f.emin - 1 - f.fw) = step at *
  generalize (2 : ℝ) ^ f.emin = T at *
  cases rm with
  | near =>
    simp only [RoundsAway, abs_withSign, abs_of_pos hx]
    grind
  | zero => simp only [RoundsAway, abs_withSign, abs_of_pos hx, and_false, not_false_eq_true, and_true]
  | up => cases s <;> simp only [RoundsAway, withSign_true, withSign_false] <;> grind
  | down => cases s <;> simp only [RoundsAway, withSign_true, withSign_false] <;> grind
  | stoch k => exact absurd rfl (hs k)

theorem flagged_when (nx uf : Bool) : Flagged (FpFlags.when nx FpFlags.nx ||| FpFlags.when uf FpFlags.uf)
    False False False (uf = true) (nx = true) := by
  cases nx <;> cases uf <;> simp [Flagged, FpFlags.when, FpFlags.nx, FpFlags.uf]

theorem flagged_overflow : Flagged (FpFlags.of ||| FpFlags.nx) False False True False True := by
  simp [Flagged, FpFlags.of, FpFlags.nx]

theorem flagged_congr {x : FpFlags} {nv dv ov uf nx nv' dv' ov' uf' nx' : Prop} (h : Flagged x nv dv ov uf nx)
    (h0 : nv ↔ nv') (h1 : dv ↔ dv') (h2 : ov ↔ ov') (h3 : uf ↔ uf') (h4 : nx ↔ nx') : Flagged x nv' dv' ov' uf' nx' := by
  rwa [← propext h0, ← propext h1, ← propext h2, ← propext h3, ← propext h4]

/-! ## The rounded result -/

theorem round_eq (f : FpFmt) (rm : Rm) (s : Bool) (m : Nat) (e : Int) : f.round rm s m e =
    (f.patternOf rm s ((roundFw f.fw f.emin rm s m e).code f.fw f.emin),
      if f.infBits ≤ (roundFw f.fw f.emin rm s m e).code f.fw f.emin then FpFlags.of ||| FpFlags.nx
      else FpFlags.when (roundFw f.fw f.emin rm s m e).inexact FpFlags.nx |||
        FpFlags.when ((roundFw f.fw f.emin rm s m e).inexact && (roundFw f.fw f.emin rm s m e).tiny) FpFlags.uf) := by
  unfold FpFmt.round patternOf Rounded.code
  dsimp only
  split_ifs <;> rfl

/-- A mode that %FPMODE.RM names. -/
theorem ofMode_ne_stoch (m : BitVec 2) (k : Nat) : Rm.ofMode m ≠ .stoch k := by
  unfold Rm.ofMode; split_ifs <;> simp

/-- ONE ROUNDING delivers the pattern and the flags of the number that a mantissa stands for (R86, R87). -/
theorem round_spec {f : FpFmt} {rm : Rm} (s : Bool) {m : Nat} {e : Int} {x : ℝ} (hf : f.Usual) (hrm : ∀ k, rm ≠ .stoch k)
    (h : StandsFor m e x) (hm : 0 < m) (hs : Suffices rm f.fw m e x) :
    Rounds f rm (withSign s x) (f.round rm s m e).1 ∧
    Flagged (f.round rm s m e).2 False False (Overflows f rm (withSign s x))
      (Tiny f rm (withSign s x) ∧ valueOf f (f.round rm s m e).1 ≠ some (withSign s x))
      (valueOf f (f.round rm s m e).1 ≠ some (withSign s x)) := by
  have hx := h.pos hm
  have hr : RoundsOn f.grid .. := roundFw_magnitude (emin := f.emin) s h hm hs hf.2
  obtain ⟨w, i, hw, htiny⟩ := roundFw_tiny (emin := f.emin) s h hm hs
  have htiny := htiny.trans ((tiny_iff hx hw).trans (tiny_iff_roundsAway hx hrm).symm)
  have hover := overflows_iff hf hx hr hrm
  rw [round_eq]
  refine ⟨rounds_patternOf hf hx hr hrm, ?_⟩
  generalize (roundFw f.fw f.emin rm s m e).code f.fw f.emin = b at *
  dsimp only
  split_ifs with hb
  · have hne : valueOf f (f.patternOf rm s b) ≠ some (withSign s x) := by
      rw [patternOf_of_le hb]
      split_ifs
      · rw [valueOf_signed_infBits]; simp
      · rw [valueOf_signed (maxBits_lt hf), ne_eq, Option.some_inj, withSign_inj]
        intro hx
        have := (hr.of_mem strictMono_grid hs.fits hx.symm).1
        have := maxBits_lt hf
        omega
    refine flagged_congr flagged_overflow Iff.rfl Iff.rfl (by simp [← hover, hb]) ?_ (by simp [hne])
    simp only [hne, ne_eq, not_false_eq_true, and_true, false_iff]
    rw [tiny_iff_roundsAway hx hrm, ← grid_least]
    have hle : f.grid f.maxBits ≤ x := by
      rcases (infBits_le_iff hf hr).1 hb with h | h
      · exact (strictMono_grid.monotone (maxBits_lt hf).le).trans h
      · exact h.2.1
    have := strictMono_grid.monotone (f := f.grid) (least_le_maxBits hf)
    intro hc
    linarith [hc.1]
  · have hnx : (roundFw f.fw f.emin rm s m e).inexact = true ↔ valueOf f (f.patternOf rm s b) ≠ some (withSign s x) := by
      rw [patternOf_of_lt (not_le.1 hb), valueOf_signed (not_le.1 hb), hr.eq_iff strictMono_grid hs.fits, ne_eq, ne_eq,
        Option.some_inj, withSign_inj]
    refine flagged_congr (flagged_when _ _) Iff.rfl Iff.rfl (by simp [← hover, hb]) ?_ hnx
    rw [Bool.and_eq_true, hnx, htiny, and_comm]

end FpFmt

end Sys2Proof.Machine

/-! Sums, products, quotients and fused multiply-adds of numbers (R86, R150). -/

namespace Sys2Proof.Machine

open Sys2Proof.Claims

/-! ## Patterns taken apart -/

/-- The real number of a value that is one. -/
noncomputable def FpVal.real? : FpVal → Option ℝ
  | .nan _ => none
  | .inf _ => none
  | .num s m e => some (withSign s (m * (2 : ℝ) ^ e))

namespace FpFmt

variable {f : FpFmt}

/-- The sign of a pattern. -/
def isNeg (f : FpFmt) (x : Nat) : Bool := x / f.signBit % 2 == 1

theorem valueOf_unpack (f : FpFmt) (x : Nat) : valueOf f x = (f.unpack x).real? := by
  have hsign (v : ℝ) : (if x / 2 ^ (f.ew + f.fw) % 2 = 1 then -1 else 1 : ℝ) * v = withSign (x / f.signBit % 2 == 1) v := by
    simp only [withSign, beq_iff_eq, signBit]; split_ifs <;> simp
  have hbias : ((f.bias : Nat) : Int) = 2 ^ (f.ew - 1) - 1 := by
    unfold bias; push_cast [Nat.one_le_two_pow (n := f.ew - 1)]; rfl
  simp only [valueOf, unpack, hsign, emin, hbias, withSign_mul]
  split_ifs
  · rfl
  · rfl
  · rfl
  · simp only [FpVal.real?]; push_cast; rfl

theorem sign_of_unpack {x : Nat} {s : Bool} {m : Nat} {e : Int} (h : f.unpack x = .num s m e) : s = f.isNeg x := by
  unfold unpack at h
  dsimp only at h
  split_ifs at h <;> exact (FpVal.num.inj h).1.symm

/-- The pattern of a number is taken apart into a mantissa and an exponent of its value. -/
theorem unpack_of_valueOf {x : Nat} {a : ℝ} (h : valueOf f x = some a) :
    ∃ m e, f.unpack x = .num (f.isNeg x) m e ∧ a = withSign (f.isNeg x) (m * (2 : ℝ) ^ e) := by
  rw [valueOf_unpack] at h
  cases hu : f.unpack x with
  | nan sig => simp [hu, FpVal.real?] at h
  | inf s => simp [hu, FpVal.real?] at h
  | num s m e =>
    obtain rfl := sign_of_unpack hu
    rw [hu] at h
    exact ⟨m, e, rfl, (Option.some.inj h).symm⟩

/-- The pattern of a number that is not zero has a mantissa that is not zero, and the number's sign. -/
theorem unpack_of_pos {x : Nat} {a : ℝ} (h : valueOf f x = some a) (ha : 0 < a) :
    ∃ m e, f.unpack x = .num false m e ∧ a = m * (2 : ℝ) ^ e ∧ 0 < m := by
  obtain ⟨m, e, hu, rfl⟩ := unpack_of_valueOf h
  have := two_zpow_pos e
  have : 0 ≤ (m : ℝ) * 2 ^ e := by positivity
  cases hs : f.isNeg x <;> rw [hs] at ha hu
  · exact ⟨m, e, hu, rfl, Nat.pos_of_ne_zero fun h0 => by simp [h0] at ha⟩
  · rw [withSign_true] at ha; linarith

theorem unpack_of_neg {x : Nat} {a : ℝ} (h : valueOf f x = some a) (ha : a < 0) :
    ∃ m e, f.unpack x = .num true m e ∧ a = -(m * (2 : ℝ) ^ e) ∧ 0 < m := by
  obtain ⟨m, e, hu, rfl⟩ := unpack_of_valueOf h
  have := two_zpow_pos e
  have : 0 ≤ (m : ℝ) * 2 ^ e := by positivity
  cases hs : f.isNeg x <;> rw [hs] at ha hu
  · rw [withSign_false] at ha; linarith
  · exact ⟨m, e, hu, rfl, Nat.pos_of_ne_zero fun h0 => by simp [h0] at ha⟩

theorem unpack_signed {s : Bool} {k : Nat} (hk0 : 0 < k) (hk : k < f.infBits) :
    ∃ m e, f.unpack (f.signed s k) = .num s m e ∧ 0 < m := by
  have hv := valueOf_signed (s := s) hk
  have hg : 0 < f.grid k := by simpa using strictMono_grid (f := f) hk0
  cases s with
  | false =>
    obtain ⟨m, e, hu, -, hm⟩ := unpack_of_pos hv (by simpa using hg)
    exact ⟨m, e, hu, hm⟩
  | true =>
    obtain ⟨m, e, hu, -, hm⟩ := unpack_of_neg hv (by simpa using hg)
    exact ⟨m, e, hu, hm⟩

theorem unpack_signed_infBits (s : Bool) : f.unpack (f.signed s f.infBits) = .inf s := by
  have hlt := f.infBits_lt_signBit
  have hp := Nat.two_pow_pos f.fw
  have he : f.signed s f.infBits / 2 ^ f.fw % 2 ^ f.ew = 2 ^ f.ew - 1 := by
    rw [exponent_of_mod, signed_mod hlt, infBits, Nat.mul_div_cancel _ hp]
  have hm : f.signed s f.infBits % 2 ^ f.fw = 0 := by
    rw [fraction_of_mod, signed_mod hlt, infBits, Nat.mul_mod_left]
  have hs : (f.signed s f.infBits / f.signBit % 2 == 1) = s := by rw [signed_div hlt]; cases s <;> rfl
  unfold unpack
  simp only [he, hm, hs, if_true]

theorem isNeg_eq {x : Nat} (h : x < 2 ^ (1 + f.ew + f.fw)) : f.isNeg x = decide (x / 2 ^ (f.ew + f.fw) = 1) := by
  have : x / f.signBit < 2 := Nat.div_lt_of_lt_mul (by rw [signBit, ← Nat.pow_succ]; convert h using 2; omega)
  unfold isNeg
  rw [Nat.mod_eq_of_lt this, beq_eq_decide]; rfl

end FpFmt

/-! ## Results that are rounded once -/

/-- `r` IS THE EXACT RESULT `z`, not zero, ROUNDED ONCE, with its flags (R86, R87). -/
def RoundedOnce (f : FpFmt) (rm : Rm) (r : Nat × FpFlags) (z : ℝ) : Prop :=
  Rounds f rm z r.1 ∧
    Flagged r.2 False False (Overflows f rm z) (Tiny f rm z ∧ valueOf f r.1 ≠ some z) (valueOf f r.1 ≠ some z)

/-- An exact result is delivered: rounded once, or the zero of the sign `neg` without a flag. -/
def Delivers (f : FpFmt) (rm : Rm) (r : Nat × FpFlags) (z : ℝ) (neg : Bool) : Prop :=
  (z ≠ 0 → RoundedOnce f rm r z) ∧ (z = 0 → r = (f.signed neg 0, 0))

theorem standsFor_self (m : Nat) (e : Int) : StandsFor m e (m * (2 : ℝ) ^ e) := .inl rfl

section
variable {f : FpFmt} {rm : Rm} (hf : f.Usual) (hrm : ∀ k, rm ≠ .stoch k)
include hf hrm

theorem round_exact (s : Bool) {m : Nat} (hm : 0 < m) (e : Int) :
    RoundedOnce f rm (f.round rm s m e) (withSign s (m * (2 : ℝ) ^ e)) :=
  FpFmt.round_spec s hf hrm (standsFor_self m e) hm (.inl ⟨rfl, fun k hk => absurd hk (hrm k)⟩)

theorem deliverV_num (s : Bool) (m : Nat) (e : Int) :
    Delivers f rm (f.deliverV rm (.num s m e)) (withSign s (m * (2 : ℝ) ^ e)) s := by
  have hz : withSign s ((m : ℝ) * (2 : ℝ) ^ e) = 0 ↔ m = 0 := by
    rw [withSign_eq_zero, mul_eq_zero, or_iff_left (two_zpow_pos e).ne', Nat.cast_eq_zero]
  unfold FpFmt.deliverV
  refine ⟨fun h => ?_, fun h => by simp only [hz.1 h, if_true]⟩
  have hm : m ≠ 0 := fun h0 => h (hz.2 h0)
  simp only [hm, if_false]
  exact round_exact hf hrm s (Nat.pos_of_ne_zero hm) e

theorem deliver_spec (neg : Bool) (v : Int) (e : Int) : Delivers f rm (f.deliver rm neg v e) (v * (2 : ℝ) ^ e) neg := by
  have hz : (v : ℝ) * (2 : ℝ) ^ e = 0 ↔ v = 0 := by rw [mul_eq_zero, or_iff_left (two_zpow_pos e).ne', Int.cast_eq_zero]
  unfold FpFmt.deliver
  refine ⟨fun h => ?_, fun h => by rw [if_pos (hz.1 h)]⟩
  have hv : v ≠ 0 := fun h0 => h (hz.2 h0)
  have hs : (v : ℝ) * (2 : ℝ) ^ e = withSign (decide (v < 0)) (v.natAbs * (2 : ℝ) ^ e) := by
    rw [Nat.cast_natAbs]
    rcases lt_or_ge v 0 with h0 | h0
    · rw [decide_eq_true h0, abs_of_neg h0]; push_cast; rw [withSign_true]; ring
    · rw [decide_eq_false (not_lt.2 h0), abs_of_nonneg h0]; rfl
  rw [if_neg hv, hs]
  exact round_exact hf hrm _ (Int.natAbs_pos.2 hv) e

end

/-! ## Sums -/

/-- The aligned mantissa of a number. -/
theorem alignTo_mul (s : Bool) (m : Nat) {e e0 : Int} (h : e0 ≤ e) :
    (alignTo s m e e0 : ℝ) * (2 : ℝ) ^ e0 = withSign s (m * (2 : ℝ) ^ e) := by
  have hp : (2 : ℝ) ^ (e - e0).toNat * (2 : ℝ) ^ e0 = (2 : ℝ) ^ e := by
    rw [← zpow_natCast, ← zpow_add₀ two_ne_zero]; congr 1; omega
  rw [← hp, ← mul_assoc]
  unfold alignTo withSign
  cases s <;> simp

/-- The sign of an exact zero sum in the terms of R150. -/
def sumSign (rm : Rm) (m n : Nat) (s t : Bool) : Bool := if m = 0 ∧ n = 0 then zeroSumSign rm s t else decide (rm = .down)

theorem addV_num {f : FpFmt} {rm : Rm} (hf : f.Usual) (hrm : ∀ k, rm ≠ .stoch k) (s t : Bool) (m n : Nat) (e g : Int) :
    Delivers f rm (f.addV rm (.num s m e) (.num t n g)) (withSign s (m * (2 : ℝ) ^ e) + withSign t (n * (2 : ℝ) ^ g))
      (sumSign rm m n s t) := by
  have h1 : (if e < g then e else g) ≤ e := by split_ifs <;> omega
  have h2 : (if e < g then e else g) ≤ g := by split_ifs <;> omega
  rw [← alignTo_mul s m h1, ← alignTo_mul t n h2, ← add_mul, ← Int.cast_add]
  exact deliver_spec hf hrm _ _ _

/-! ## Quotients -/

/-- A quotient or root cut to an integer, with a sticky bit, stands for the exact one. -/
theorem standsFor_sticky {q : Nat} {u : ℝ} {p : Prop} [Decidable p] (hlo : (q : ℝ) ≤ u) (hhi : u < q + 1) (hp : p ↔ u = q)
    (e : Int) : StandsFor (2 * q + if p then 0 else 1) (e - 1) (u * (2 : ℝ) ^ e) := by
  have h2 : (2 : ℝ) ^ e = 2 * (2 : ℝ) ^ (e - 1) := by rw [← zpow_one_add₀ two_ne_zero]; congr 1; ring
  have hpos := two_zpow_pos (e - 1)
  rw [h2]
  split_ifs with h
  · left; rw [hp.1 h]; push_cast; ring
  · refine .inr ⟨by omega, ?_, ?_⟩ <;> push_cast
    · have : (q : ℝ) < u := lt_of_le_of_ne hlo fun he => h (hp.2 he.symm)
      nlinarith
    · nlinarith

theorem divV_num {f : FpFmt} {rm : Rm} (hf : f.Usual) (hrm : ∀ k, rm ≠ .stoch k) (hfw : f.fw ≤ 100) (s t : Bool) (m : Nat)
    {n : Nat} (e g : Int) (hn : 0 < n) :
    Delivers f rm (f.divV rm (.num s m e) (.num t n g))
      (withSign s (m * (2 : ℝ) ^ e) / withSign t (n * (2 : ℝ) ^ g)) (s != t) := by
  have hsign : withSign s (m * (2 : ℝ) ^ e) / withSign t (n * (2 : ℝ) ^ g) =
      withSign (s != t) (m * (2 : ℝ) ^ e / (n * (2 : ℝ) ^ g)) := by
    cases s <;> cases t <;> simp [neg_div, div_neg]
  have hn0 : (n : ℝ) ≠ 0 := by exact_mod_cast hn.ne'
  unfold FpFmt.divV
  simp only [hn.ne', if_false]
  rw [hsign]
  rcases Nat.eq_zero_or_pos m with rfl | hm
  · simp [Delivers]
  simp only [hm.ne', if_false]
  refine ⟨fun _ => ?_, fun h => ?_⟩
  · obtain ⟨k, hk⟩ : ∃ k, k = 128 + Nat.log2 n := ⟨_, rfl⟩
    have hu : (m : ℝ) * (2 : ℝ) ^ e / (n * (2 : ℝ) ^ g) = (m * 2 ^ k : Nat) / n * (2 : ℝ) ^ (e - g - k) := by
      rw [zpow_sub₀ two_ne_zero, zpow_sub₀ two_ne_zero, zpow_natCast]; push_cast; field_simp
    have hdm := Nat.div_add_mod (m * 2 ^ k) n
    have hr := Nat.mod_lt (m * 2 ^ k) hn
    have hq : 2 ^ 127 ≤ m * 2 ^ k / n := by
      rw [Nat.le_div_iff_mul_le hn]
      calc 2 ^ 127 * n ≤ 2 ^ 127 * 2 ^ (Nat.log2 n + 1) := Nat.mul_le_mul_left _ Nat.lt_log2_self.le
        _ = 1 * 2 ^ k := by rw [← Nat.pow_add, hk, Nat.one_mul]; congr 1; omega
        _ ≤ m * 2 ^ k := Nat.mul_le_mul_right _ hm
    rw [← hk, hu]
    generalize m * 2 ^ k = X at *
    have hst : StandsFor (2 * (X / n) + if X % n = 0 then 0 else 1) (e - g - k - 1) ((X : ℝ) / n * (2 : ℝ) ^ (e - g - k)) := by
      refine standsFor_sticky ?_ ?_ ?_ _
      · rw [le_div_iff₀ (by positivity)]; exact_mod_cast Nat.div_mul_le_self X n
      · rw [div_lt_iff₀ (by positivity)]; exact_mod_cast (Nat.div_lt_iff_lt_mul hn).1 (Nat.lt_succ_self _)
      · rw [div_eq_iff hn0]
        rw [← Nat.dvd_iff_mod_eq_zero]
        exact ⟨fun h => by exact_mod_cast (Nat.div_mul_cancel h).symm, fun h => ⟨X / n, by rw [Nat.mul_comm]; exact_mod_cast h⟩⟩
    have hbig : 2 ^ (f.fw + 2) ≤ 2 ^ 127 := Nat.pow_le_pow_right two_pos (by omega)
    exact FpFmt.round_spec _ hf hrm hst (by omega) (.inr ⟨by omega, hrm⟩)
  · rw [withSign_eq_zero] at h
    have : (0 : ℝ) < m := by exact_mod_cast hm
    have := two_zpow_pos e
    have := two_zpow_pos g
    have hne : (m : ℝ) * (2 : ℝ) ^ e / (n * (2 : ℝ) ^ g) ≠ 0 := by positivity
    exact absurd h hne

/-! ## The arithmetic of patterns -/

theorem mul_withSign (s t : Bool) (v w : ℝ) : withSign s v * withSign t w = withSign (s != t) (v * w) := by
  cases s <;> cases t <;> simp

theorem mul_value (s t : Bool) (m n : Nat) (e g : Int) :
    withSign s (m * (2 : ℝ) ^ e) * withSign t (n * (2 : ℝ) ^ g) = withSign (s != t) ((m * n : Nat) * (2 : ℝ) ^ (e + g)) := by
  rw [mul_withSign, zpow_add₀ two_ne_zero]; push_cast; congr 1; ring

theorem ofMode_eq_down (m : BitVec 2) : decide (Rm.ofMode m = .down) = decide (m = 3) := by
  revert m; decide

/-- The sign of a zero sum as the statement gives it: from the values of the terms. -/
theorem sumSign_eq (r : BitVec 2) (s t i j : Bool) (m n : Nat) (e g : Int) (p q : ℝ) (hp : p = withSign i (m * (2 : ℝ) ^ e))
    (hq : q = withSign j (n * (2 : ℝ) ^ g)) : (if p = 0 ∧ q = 0 ∧ s = t then s else decide (r = 3)) = sumSign (Rm.ofMode r) m n s t := by
  have hz (i : Bool) (m : Nat) (e : Int) : withSign i ((m : ℝ) * (2 : ℝ) ^ e) = 0 ↔ m = 0 := by
    rw [withSign_eq_zero, mul_eq_zero, or_iff_left (two_zpow_pos e).ne', Nat.cast_eq_zero]
  simp only [hp, hq, hz, sumSign, zeroSumSign, ofMode_eq_down]
  split_ifs <;> simp_all

theorem neg_num_if (b s : Bool) (m : Nat) (e : Int) :
    (if b then (FpVal.num s m e).neg else .num s m e) = .num (b != s) m e := by cases b <;> cases s <;> rfl

section
variable {f : FpFmt} {rm : Rm} {x y w m n l : Nat} {s t u : Bool} {e g h : Int}
  (hx : f.unpack x = .num s m e) (hy : f.unpack y = .num t n g)
include hx hy

theorem op_add_num : f.op rm .add x y = f.addV rm (.num s m e) (.num t n g) := by unfold FpFmt.op; rw [hx, hy]

theorem op_sub_num : f.op rm .sub x y = f.addV rm (.num s m e) (.num (!t) n g) := by unfold FpFmt.op; rw [hx, hy]; rfl

theorem op_mul_num : f.op rm .mul x y = f.deliverV rm (.num (s != t) (m * n) (e + g)) := by
  unfold FpFmt.op; rw [hx, hy]; rfl

theorem op_div_num : f.op rm .div x y = f.divV rm (.num s m e) (.num t n g) := by unfold FpFmt.op; rw [hx, hy]

theorem fma_num (hw : f.unpack w = .num u l h) (np nd : Bool) : f.fma rm np nd x y w =
    f.addV rm (.num ((np != s) != t) (m * n) (e + g)) (.num (nd != u) l h) := by
  unfold FpFmt.fma
  simp only [hx, hy, hw, neg_num_if]
  rfl

end

/-- EVERY ARITHMETIC RESULT OF NUMBERS IS ROUNDED ONCE. -/
theorem arithmeticRounding : ArithmeticRounding := by
  intro f hf r x y a b hx hy ha hb rm sgn minus sumSign delivers
  have hu := usual_of_mem hf
  have hfw : f.fw ≤ 100 := by fin_cases hf <;> decide
  have hrm := FpFmt.ofMode_ne_stoch r
  have hminus {v : Nat} (hv : v < 2 ^ (1 + f.ew + f.fw)) : minus v = f.isNeg v := (FpFmt.isNeg_eq hv).symm
  obtain ⟨m, e, hux, rfl⟩ := FpFmt.unpack_of_valueOf ha
  obtain ⟨n, g, huy, rfl⟩ := FpFmt.unpack_of_valueOf hb
  rw [hminus hx, hminus hy]
  generalize f.isNeg x = s at *
  generalize f.isNeg y = t at *
  have hsum (i j : Bool) (m n : Nat) (e g : Int) : sumSign (withSign i (m * (2 : ℝ) ^ e)) (withSign j (n * (2 : ℝ) ^ g)) i j =
      Machine.sumSign rm m n i j := sumSign_eq r i j i j m n e g _ _ rfl rfl
  refine ⟨?_, ?_, ?_, fun hne => ?_, fun w c hw hc => ?_⟩
  · rw [hsum, op_add_num hux huy]
    exact addV_num hu hrm ..
  · rw [sub_eq_add_neg, ← withSign_not, op_sub_num hux huy]
    have := addV_num hu hrm s (!t) m n e g
    rwa [← sumSign_eq r s (!t) s t m n e g _ _ rfl rfl] at this
  · rw [op_mul_num hux huy, mul_value]
    exact deliverV_num hu hrm ..
  · have hn : 0 < n := Nat.pos_of_ne_zero fun h0 => hne (by simp [h0])
    rw [op_div_num hux huy]
    exact divV_num hu hrm hfw _ _ _ _ _ hn
  · obtain ⟨l, h, huw, rfl⟩ := FpFmt.unpack_of_valueOf hc
    rw [hminus hw, mul_value]
    generalize f.isNeg w = u at *
    have hfma (np nd : Bool) := addV_num hu hrm ((np != s) != t) (nd != u) (m * n) l (e + g) h
    simp only [← fma_num hux huy huw, ← sumSign_eq r _ _ (s != t) u _ _ (e + g) h _ _ rfl rfl] at hfma
    refine ⟨?_, ?_, ?_⟩
    · have := hfma false false
      rw [Bool.false_bne, Bool.false_bne] at this
      exact this
    · have := hfma false true
      rw [Bool.false_bne, Bool.true_bne, withSign_not, ← sub_eq_add_neg] at this
      exact this
    · have hflip : ((true != s) != t) = !(s != t) := by cases s <;> cases t <;> rfl
      have := hfma true false
      rw [hflip, withSign_not, neg_add_eq_sub, Bool.false_bne] at this
      exact this

end Sys2Proof.Machine

/-! Infinities, roots, and rounding to an integer (R86, R87, R150): O6. -/

namespace Sys2Proof.Machine

open Sys2Proof.Claims

/-! ## Infinities -/

theorem op_add (f : FpFmt) (rm : Rm) (x y : Nat) : f.op rm .add x y = f.addV rm (f.unpack x) (f.unpack y) := rfl
theorem op_sub (f : FpFmt) (rm : Rm) (x y : Nat) : f.op rm .sub x y = f.addV rm (f.unpack x) (f.unpack y).neg := rfl
theorem op_mul (f : FpFmt) (rm : Rm) (x y : Nat) : f.op rm .mul x y =
    if (mulV (f.unpack x) (f.unpack y)).1.isNan then f.nanResult (mulV (f.unpack x) (f.unpack y)).2
    else f.deliverV rm (mulV (f.unpack x) (f.unpack y)).1 := rfl
theorem op_div (f : FpFmt) (rm : Rm) (x y : Nat) : f.op rm .div x y = f.divV rm (f.unpack x) (f.unpack y) := rfl

theorem infinityResults : InfinityResults := by
  intro f hf r p q x a hx ha rm sgn with_ inf n
  have hn : n = f.isNeg x := (FpFmt.isNeg_eq hx).symm
  have hi (s : Bool) : f.unpack (inf s) = .inf s := FpFmt.unpack_signed_infBits s
  obtain ⟨m, e, hux, rfl⟩ := FpFmt.unpack_of_valueOf ha
  rw [hn]
  generalize f.isNeg x = s at *
  refine ⟨?_, ?_, ?_, ?_, ?_, ?_, ?_, fun h => ?_, ?_, ?_⟩
  · rw [op_add, hi, hux]; rfl
  · rw [op_add, hi, hux]; rfl
  · rw [op_add, hi, FpFmt.addV, if_pos rfl]; rfl
  · rw [op_sub, hi, hux]; rfl
  · rw [op_sub, hi, hux]; rfl
  · rw [op_sub, hi, hi, FpVal.neg, Bool.not_not, FpFmt.addV, if_pos rfl]; rfl
  · rw [op_mul, hi, hi]; rfl
  · have hm : m ≠ 0 := fun h0 => h (by simp [h0])
    rw [op_mul, op_mul, hi, hux]
    simp only [mulV, hm, if_false, bne_comm (a := s)]
    exact ⟨rfl, rfl⟩
  · rw [op_div, hi, hux]; rfl
  · rw [op_div, hi, hux, bne_comm]; rfl

/-! ## Integer square roots -/

/-- The root found bit by bit stays at or below the root, and less than the bits left below it. -/
theorem isqrtFrom_bounds {k x r : Nat} (hlo : r * r ≤ x) (hhi : x < (r + 2 ^ k) * (r + 2 ^ k)) :
    isqrtFrom k x r * isqrtFrom k x r ≤ x ∧ x < (isqrtFrom k x r + 1) * (isqrtFrom k x r + 1) := by
  induction k generalizing r with
  | zero => exact ⟨hlo, by simpa [isqrtFrom] using hhi⟩
  | succ k ih =>
    unfold isqrtFrom
    rw [Nat.pow_succ, Nat.mul_two, ← Nat.add_assoc] at hhi
    dsimp only
    split_ifs with h
    · exact ih h hhi
    · exact ih hlo (not_le.1 h)

theorem isqrt_eq (x : Nat) : isqrt x = x.sqrt := by
  have hhi : x < (0 + 2 ^ (Nat.log2 x / 2 + 1)) * (0 + 2 ^ (Nat.log2 x / 2 + 1)) := by
    rw [Nat.zero_add, ← Nat.pow_add]
    exact Nat.lt_log2_self.trans_le (Nat.pow_le_pow_right two_pos (by omega))
  obtain ⟨h1, h2⟩ := isqrtFrom_bounds (Nat.zero_le x) hhi
  exact Nat.eq_sqrt.2 ⟨h1, h2⟩

theorem sqrt_le_real (x : Nat) : ((x.sqrt : Nat) : ℝ) ≤ √(x : ℝ) := Real.nat_sqrt_le_real_sqrt
theorem real_lt_sqrt_succ (x : Nat) : √(x : ℝ) < (x.sqrt : Nat) + 1 := Real.real_sqrt_lt_nat_sqrt_succ

/-! ## Roots -/

theorem sqrt_two_zpow_even {e : Int} (he : e % 2 = 0) : √((2 : ℝ) ^ e) = (2 : ℝ) ^ (e / 2) := by
  have : (2 : ℝ) ^ e = ((2 : ℝ) ^ (e / 2)) ^ 2 := by rw [← zpow_natCast, ← zpow_mul]; congr 1; omega
  rw [this, Real.sqrt_sq (two_zpow_pos _).le]

/-- The mantissa that a root is taken of stands for the root (R86). -/
theorem rootOf_standsFor (m : Nat) {e : Int} (he : e % 2 = 0) :
    StandsFor (rootOf m) (e / 2 - 65) (√(m * (2 : ℝ) ^ e)) := by
  have hx : √(m * (2 : ℝ) ^ e) = √((m * 2 ^ 128 : Nat) : ℝ) * (2 : ℝ) ^ (e / 2 - 64) := by
    rw [← show (e - 128) / 2 = e / 2 - 64 by omega, ← sqrt_two_zpow_even (by omega), ← Real.sqrt_mul (by positivity),
      zpow_sub₀ two_ne_zero]
    congr 1
    push_cast
    norm_num
    ring
  unfold rootOf
  dsimp only
  rw [isqrt_eq, hx, show e / 2 - 65 = e / 2 - 64 - 1 by ring]
  refine standsFor_sticky (sqrt_le_real _) (real_lt_sqrt_succ _) ?_ _
  rw [Real.sqrt_eq_iff_eq_sq (by positivity) (by positivity), eq_comm, ← Nat.cast_pow, Nat.cast_inj, sq]

theorem le_rootOf {m : Nat} (hm : 0 < m) : 2 ^ 64 ≤ rootOf m := by
  unfold rootOf
  dsimp only
  have : 2 ^ 64 ≤ isqrt (m * 2 ^ 128) := by
    rw [isqrt_eq, Nat.le_sqrt]
    calc 2 ^ 64 * 2 ^ 64 = 1 * 2 ^ 128 := by norm_num
      _ ≤ m * 2 ^ 128 := Nat.mul_le_mul_right _ hm
  omega

/-- The mantissa of a reciprocal root, with a sticky bit. -/
def rsqrtOf (m : Nat) : Nat :=
  let x := 2 ^ (2 * (128 + Nat.log2 m)) / m
  2 * isqrt x + if isqrt x * isqrt x = x ∧ 2 ^ (2 * (128 + Nat.log2 m)) % m = 0 then 0 else 1

theorem rsqrtOf_standsFor {m : Nat} (hm : 0 < m) {e : Int} (he : e % 2 = 0) :
    StandsFor (rsqrtOf m) (-((128 + Nat.log2 m : Nat) : Int) - e / 2 - 1) (1 / √(m * (2 : ℝ) ^ e)) := by
  unfold rsqrtOf
  generalize 128 + Nat.log2 m = k
  have hm0 : (0 : ℝ) < m := by exact_mod_cast hm
  have hx : 1 / √(m * (2 : ℝ) ^ e) = √(((2 ^ (2 * k) : Nat) : ℝ) / m) * (2 : ℝ) ^ (-(k : Int) - e / 2) := by
    have h1 : √(((2 ^ (2 * k) : Nat) : ℝ)) = (2 : ℝ) ^ (k : Int) := by
      rw [mul_comm, pow_mul]; push_cast; rw [Real.sqrt_sq (by positivity), zpow_natCast]
    rw [Real.sqrt_div (by positivity), h1, Real.sqrt_mul hm0.le, sqrt_two_zpow_even he, zpow_sub₀ two_ne_zero, zpow_neg]
    field_simp
  rw [hx]
  generalize 2 ^ (2 * k) = P
  have hdm := Nat.div_add_mod P m
  have hmod := Nat.mod_lt P hm
  dsimp only
  rw [isqrt_eq]
  have hle : ((P / m : Nat) : ℝ) ≤ (P : ℝ) / m := Nat.cast_div_le
  have hlt : (P : ℝ) / m < (P / m : Nat) + 1 := by
    rw [div_lt_iff₀ hm0]; exact_mod_cast (Nat.div_lt_iff_lt_mul hm).1 (Nat.lt_succ_self _)
  refine standsFor_sticky ((sqrt_le_real _).trans (Real.sqrt_le_sqrt hle)) ?_ ?_ _
  · rw [Real.sqrt_lt' (by positivity)]
    have : P / m + 1 ≤ (Nat.sqrt (P / m) + 1) ^ 2 := by rw [sq]; exact Nat.lt_succ_sqrt _
    have : ((P / m : Nat) : ℝ) + 1 ≤ ((Nat.sqrt (P / m) : Nat) + 1) ^ 2 := by exact_mod_cast this
    linarith
  · rw [Real.sqrt_eq_iff_eq_sq (by positivity) (by positivity), div_eq_iff hm0.ne']
    generalize hr : Nat.sqrt (P / m) = r
    have hr2 : r * r ≤ P / m := hr ▸ Nat.sqrt_le (P / m)
    have hc : (P : ℝ) = (r : ℝ) ^ 2 * m ↔ P = r * r * m := by rw [← sq]; exact_mod_cast Iff.rfl
    rw [hc]
    constructor
    · rintro ⟨h1, h2⟩
      rw [h2] at hdm
      rw [h1, Nat.mul_comm]; exact hdm.symm
    · intro h
      rw [h, Nat.mul_div_cancel _ hm, Nat.mul_mod_left]
      exact ⟨rfl, rfl⟩

theorem le_rsqrtOf {m : Nat} (hm : 0 < m) : 2 ^ 64 ≤ rsqrtOf m := by
  have : 2 ^ 64 ≤ isqrt (2 ^ (2 * (128 + Nat.log2 m)) / m) := by
    rw [isqrt_eq, Nat.le_sqrt, Nat.le_div_iff_mul_le hm]
    calc 2 ^ 64 * 2 ^ 64 * m ≤ 2 ^ 128 * 2 ^ (Nat.log2 m + 1) :=
          Nat.mul_le_mul (by norm_num) Nat.lt_log2_self.le
      _ = 2 ^ (128 + (Nat.log2 m + 1)) := (Nat.pow_add ..).symm
      _ ≤ 2 ^ (2 * (128 + Nat.log2 m)) := Nat.pow_le_pow_right two_pos (by omega)
  unfold rsqrtOf
  dsimp only
  omega

/-- An odd exponent is made even at the cost of the mantissa's lowest place. -/
theorem even_exponent (m : Nat) (e : Int) : (if e % 2 ≠ 0 then e - 1 else e) % 2 = 0 ∧
    ((if e % 2 ≠ 0 then 2 * m else m : Nat) : ℝ) * (2 : ℝ) ^ (if e % 2 ≠ 0 then e - 1 else e) = m * (2 : ℝ) ^ e := by
  split_ifs with h
  · refine ⟨by omega, ?_⟩
    rw [zpow_sub_one₀ two_ne_zero]; push_cast; ring
  · exact ⟨by omega, rfl⟩

section
variable {f : FpFmt} {rm : Rm} (hf : f.Usual) (hrm : ∀ k, rm ≠ .stoch k) (hfw : f.fw ≤ 60) {m : Nat} (hm : 0 < m) (e : Int)
include hf hrm hfw hm

theorem sqrtV_num : RoundedOnce f rm (f.sqrtV rm (.num false m e)) (√(m * (2 : ℝ) ^ e)) := by
  obtain ⟨he, hv⟩ := even_exponent m e
  have hm' : 0 < if e % 2 ≠ 0 then 2 * m else m := by split_ifs <;> omega
  unfold FpFmt.sqrtV
  simp only [hm.ne', if_false, Bool.false_eq_true]
  rw [← hv]
  have hbig := le_rootOf hm'
  have hpow : 2 ^ (f.fw + 2) ≤ 2 ^ 64 := Nat.pow_le_pow_right two_pos (by omega)
  exact FpFmt.round_spec false hf hrm (rootOf_standsFor _ he) (by omega) (.inr ⟨by omega, hrm⟩)

theorem rsqrtV_num : RoundedOnce f rm (f.rsqrtV rm (.num false m e)) (1 / √(m * (2 : ℝ) ^ e)) := by
  obtain ⟨he, hv⟩ := even_exponent m e
  have hm' : 0 < if e % 2 ≠ 0 then 2 * m else m := by split_ifs <;> omega
  have hbig := le_rsqrtOf hm'
  have hpow : 2 ^ (f.fw + 2) ≤ 2 ^ 64 := Nat.pow_le_pow_right two_pos (by omega)
  unfold FpFmt.rsqrtV
  simp only [hm.ne', if_false, Bool.false_eq_true]
  rw [← hv]
  change RoundedOnce f rm (f.round rm false (rsqrtOf _) _) _
  exact FpFmt.round_spec false hf hrm (rsqrtOf_standsFor hm' he) (by omega) (.inr ⟨by omega, hrm⟩)

end

/-! ## Results in the middle of the range -/

theorem not_overflows {f : FpFmt} {rm : Rm} (hf : f.Usual) (hrm : ∀ k, rm ≠ .stoch k) {z : ℝ} (h : |z| < f.grid f.maxBits) :
    ¬ Overflows f rm z := by
  have hstep := two_zpow_pos ((2 : Int) ^ (f.ew - 1) - 1 - (f.fw : Int))
  rw [FpFmt.grid_maxBits hf] at h
  have hz := abs_lt.1 h
  unfold Overflows
  generalize (2 : ℝ) ^ ((2 : Int) ^ (f.ew - 1) - 1 - (f.fw : Int)) = step at *
  cases rm with
  | near | zero => dsimp only; linarith
  | up | down => rintro (h | h) <;> linarith
  | stoch k => exact absurd rfl (hrm k)

theorem not_tiny {f : FpFmt} {rm : Rm} (hrm : ∀ k, rm ≠ .stoch k) {z : ℝ} (h : (2 : ℝ) ^ f.emin ≤ |z|) : ¬ Tiny f rm z := by
  have hstep := two_zpow_pos (1 - (2 : Int) ^ (f.ew - 1) - (f.fw : Int))
  rw [FpFmt.emin_eq] at h
  have hz := le_abs.1 h
  unfold Tiny
  generalize (2 : ℝ) ^ (1 - (2 : Int) ^ (f.ew - 1) - (f.fw : Int)) = step at *
  cases rm with
  | near | zero => dsimp only; linarith
  | up | down => rintro ⟨h1, h2⟩; rcases hz with hz | hz <;> linarith
  | stoch k => exact absurd rfl (hrm k)

/-- A result in the middle of the range of FP32 can only be inexact. -/
theorem RoundedOnce.in_range {rm : Rm} {r : Nat × FpFlags} {z : ℝ} (h : RoundedOnce fp32 rm r z) (hrm : ∀ k, rm ≠ .stoch k)
    (hlo : (2 : ℝ) ^ (-100 : Int) ≤ |z|) (hhi : |z| ≤ (2 : ℝ) ^ (100 : Int)) :
    Rounds fp32 rm z r.1 ∧ Flagged r.2 False False False False (valueOf fp32 r.1 ≠ some z) := by
  have ho : ¬ Overflows fp32 rm z := not_overflows fp32_usual hrm (hhi.trans_lt (by
    rw [FpFmt.grid_maxBits fp32_usual]; norm_num [fp32]))
  have ht : ¬ Tiny fp32 rm z := not_tiny hrm (le_trans (zpow_le_zpow_right₀ one_le_two (by decide)) hlo)
  exact ⟨h.1, FpFmt.flagged_congr h.2 Iff.rfl Iff.rfl (iff_false_intro ho) (iff_false_intro fun h => ht h.1) Iff.rfl⟩

/-- The positive finite values of FP32. -/
theorem fp32_bounds {x : Nat} {a : ℝ} (h : valueOf fp32 x = some a) (ha : a ≠ 0) :
    (2 : ℝ) ^ (-149 : Int) ≤ |a| ∧ |a| < (2 : ℝ) ^ (128 : Int) := by
  obtain ⟨hk, rfl⟩ := FpFmt.valueOf_eq_some h
  generalize x % fp32.signBit = k at *
  rw [abs_withSign, abs_of_nonneg (FpFmt.grid_nonneg k)]
  have hk1 : 1 ≤ k := Nat.one_le_iff_ne_zero.2 fun h0 => ha (by simp [h0])
  have h1 : fp32.grid 1 = (2 : ℝ) ^ (-149 : Int) := by
    norm_num [FpFmt.grid, magnitude, multiples, fp32, FpFmt.emin, FpFmt.bias]
  have h2 : fp32.grid fp32.infBits = (2 : ℝ) ^ (128 : Int) := by
    rw [FpFmt.grid_infBits fp32_usual]; norm_num [fp32]
  rw [← h1, ← h2]
  exact ⟨FpFmt.strictMono_grid.monotone hk1, FpFmt.strictMono_grid hk⟩

/-! ## The roots of FP32 -/

theorem sqrt_in_range {a : ℝ} (h1 : (2 : ℝ) ^ (-149 : Int) ≤ a) (h2 : a < (2 : ℝ) ^ (128 : Int)) :
    (2 : ℝ) ^ (-75 : Int) ≤ √a ∧ √a ≤ (2 : ℝ) ^ (64 : Int) := by
  constructor
  · exact Real.le_sqrt_of_sq_le (le_trans (by norm_num) h1)
  · exact Real.sqrt_le_iff.2 ⟨by positivity, h2.le.trans (by norm_num)⟩

theorem rsqrt_in_range {a : ℝ} (h1 : (2 : ℝ) ^ (-149 : Int) ≤ a) (h2 : a < (2 : ℝ) ^ (128 : Int)) :
    (2 : ℝ) ^ (-64 : Int) ≤ 1 / √a ∧ 1 / √a ≤ (2 : ℝ) ^ (75 : Int) := by
  obtain ⟨h3, h4⟩ := sqrt_in_range h1 h2
  have hp := (two_zpow_pos _).trans_le h3
  rw [le_div_iff₀ hp, div_le_iff₀ hp]
  norm_num at h3 h4 ⊢
  constructor <;> linarith

theorem fp32_unpack_zero {x : Nat} (hx : x < 2 ^ 32) (h : x % 2 ^ 31 = 0) :
    fp32.unpack x = .num (fp32.isNeg x) 0 (-149) ∧ x = fp32.signed (fp32.isNeg x) 0 := by
  rcases (show x = 0 ∨ x = 2 ^ 31 by omega) with rfl | rfl <;> decide

section
variable {f : FpFmt} (rm : Rm) {v : Nat} (h0 : 0 < v) (hv : v ≤ f.infBits)
include h0 hv

/-- Below zero lie numbers and the negative infinity. -/
theorem unpack_negative : f.unpack (f.signed true v) = .inf true ∨ ∃ m e, f.unpack (f.signed true v) = .num true m e ∧ m ≠ 0 := by
  rcases hv.eq_or_lt with rfl | hv
  · exact .inl (FpFmt.unpack_signed_infBits _)
  · obtain ⟨m, e, hu, hm⟩ := FpFmt.unpack_signed (s := true) h0 hv
    exact .inr ⟨m, e, hu, hm.ne'⟩

theorem sqrtV_neg : f.sqrtV rm (f.unpack (f.signed true v)) = f.nanResult true := by
  rcases unpack_negative h0 hv with hu | ⟨m, e, hu, hm⟩ <;> rw [hu, FpFmt.sqrtV]
  · rfl
  · simp only [hm, if_false, if_true]

theorem rsqrtV_neg : f.rsqrtV rm (f.unpack (f.signed true v)) = f.nanResult true := by
  rcases unpack_negative h0 hv with hu | ⟨m, e, hu, hm⟩ <;> rw [hu, FpFmt.rsqrtV]
  · rfl
  · simp only [hm, if_false, if_true]

end

theorem rootRounding : RootRounding := by
  intro r x hx rm q p exact_
  have hrm := FpFmt.ofMode_ne_stoch r
  refine ⟨fun a hxa ha => ?_, fun h => ?_, ?_, fun h1 h2 => ?_⟩
  · obtain ⟨hlo, hhi⟩ := fp32_bounds hxa ha.ne'
    obtain ⟨m, e, hu, rfl, hm⟩ := FpFmt.unpack_of_pos hxa ha
    rw [abs_of_pos ha] at hlo hhi
    obtain ⟨h1, h2⟩ := sqrt_in_range hlo hhi
    obtain ⟨h3, h4⟩ := rsqrt_in_range hlo hhi
    have hp1 := (two_zpow_pos _).trans_le h1
    have hp2 := (two_zpow_pos _).trans_le h3
    have hz (i j : Int) (h : i ≤ j) : (2 : ℝ) ^ i ≤ (2 : ℝ) ^ j := zpow_le_zpow_right₀ one_le_two h
    have hq := sqrtV_num fp32_usual hrm (by decide) hm e
    have hp := rsqrtV_num fp32_usual hrm (by decide) hm e
    rw [← hu] at hq hp
    refine ⟨hq.in_range hrm ?_ ?_, hp.in_range hrm ?_ ?_⟩
    · rw [abs_of_pos hp1]; exact (hz _ _ (by decide)).trans h1
    · rw [abs_of_pos hp1]; exact h2.trans (hz _ _ (by decide))
    · rw [abs_of_pos hp2]; exact (hz _ _ (by decide)).trans h3
    · rw [abs_of_pos hp2]; exact h4.trans (hz _ _ (by decide))
  · obtain ⟨hu, hs⟩ := fp32_unpack_zero hx h
    generalize fp32.isNeg x = s at *
    subst hs
    constructor
    · show fp32.sqrtV rm (fp32.unpack _) = _
      rw [hu]; rfl
    · show fp32.rsqrtV rm (fp32.unpack _) = _
      rw [hu]; cases s <;> rfl
  · rintro rfl
    exact ⟨rfl, rfl⟩
  · obtain ⟨v, rfl⟩ : ∃ v, x = fp32.signed true v := ⟨x - 0x80000000, by show x = 2 ^ 31 + _; omega⟩
    have hv : 0 < v ∧ v ≤ fp32.infBits := by
      change 0x80000000 < 2 ^ 31 + v at h1
      change 2 ^ 31 + v ≤ 0xFF800000 at h2
      exact ⟨by omega, show v ≤ 0x7F800000 by omega⟩
    exact ⟨sqrtV_neg rm hv.1 hv.2, rsqrtV_neg rm hv.1 hv.2⟩

/-! ## Rounding to an integer -/

/-- A number that the format has is delivered as it is, without a flag. -/
theorem round_of_grid {f : FpFmt} {rm : Rm} (s : Bool) {m k : Nat} {e : Int} (hf : f.Usual) (hrm : ∀ k, rm ≠ .stoch k) (hm : 0 < m)
    (h : m * (2 : ℝ) ^ e = f.grid k) (hk : k < f.infBits) : f.round rm s m e = (f.signed s k, 0) := by
  have hs : Suffices rm f.fw m e (m * (2 : ℝ) ^ e) := .inl ⟨rfl, fun k hk => absurd hk (hrm k)⟩
  have hr : RoundsOn f.grid .. := roundFw_magnitude (emin := f.emin) s (standsFor_self m e) hm hs hf.2
  obtain ⟨hc, hi⟩ := hr.of_mem FpFmt.strictMono_grid hs.fits h
  rw [FpFmt.round_eq, hc, hi, FpFmt.patternOf_of_lt hk, if_neg (not_le.2 hk), Bool.false_and]
  rfl

/-- A number of FP32 rounded to an integer is a number of FP32. -/
theorem rounded_integer_mem {rm : Rm} {s i : Bool} {j r : Nat} (h : RoundsOn (multiples 0) rm s (fp32.grid j) r i)
    (hk : rm.Fits) (hj : j < fp32.infBits) : ∃ k < fp32.infBits, fp32.grid k = multiples 0 r := by
  have hinf : fp32.grid fp32.infBits = multiples 0 (2 ^ 128) := by
    rw [FpFmt.grid_infBits fp32_usual, multiples_pow]; norm_num [fp32]
  rcases le_or_gt r (2 ^ 24) with hr | hr
  · obtain ⟨k, hk⟩ := exists_magnitude_eq (t := 23) (emin := fp32.emin) (q := 0) hr (by decide)
    refine ⟨k, ?_, hk⟩
    rw [← FpFmt.strictMono_grid.lt_iff_lt, hinf]
    refine hk.trans_lt (strictMono_multiples 0 (hr.trans_lt ?_))
    exact Nat.pow_lt_pow_right one_lt_two (by norm_num)
  · obtain ⟨d, n, rfl, hn, hd⟩ := exists_code 23 j
    have hg : fp32.grid (d * 2 ^ 23 + n) = multiples (-149 + d) n := magnitude_add hn.le hd
    have hq : (0 : Int) ≤ -149 + d := by
      by_contra hq
      obtain ⟨k, hlo, -, -, hk⟩ := h.bounds
      have h1 : multiples (-149 + d) n ≤ multiples 0 n :=
        mul_le_mul_of_nonneg_left (zpow_le_zpow_right₀ one_le_two (by omega)) n.cast_nonneg
      have := (strictMono_multiples 0).le_iff_le.1 (hlo.trans (hg ▸ h1))
      omega
    refine ⟨_, hj, ?_⟩
    obtain ⟨c, hc⟩ := Int.eq_ofNat_of_zero_le hq
    have he : multiples (-149 + d) n = multiples 0 (n * 2 ^ c) := by
      rw [hc, multiples, multiples, zpow_zero, mul_one, zpow_natCast]; push_cast; rfl
    rw [(h.of_mem (strictMono_multiples 0) hk (hg.trans he)).1, hg, he]

theorem flagged_inexact (i : Bool) : Flagged (FpFlags.when i FpFlags.nx) False False False False (i = true) := by
  cases i <;> simp [Flagged, FpFlags.when, FpFlags.nx]

theorem integralResults : IntegralResults := by
  intro r x hx rm p
  have hrm := FpFmt.ofMode_ne_stoch r
  have hfits : rm.Fits := fun k hk => absurd hk (hrm k)
  have hx' : x < 2 * fp32.signBit := hx
  refine ⟨fun a ha => ?_, fun h => ?_⟩
  · have hneg : decide (2 ^ 31 ≤ x) = fp32.isNeg x := by
      rw [FpFmt.isNeg_eq (by exact hx)]
      exact decide_eq_decide.2 (show 2 ^ 31 ≤ x ↔ x / 2 ^ 31 = 1 by omega)
    have hdiv : x / 2 ^ 31 = (fp32.isNeg x).toNat := by
      conv_lhs => rw [FpFmt.eq_signed hx']
      exact FpFmt.signed_div (Nat.mod_lt _ (Nat.two_pow_pos _))
    obtain ⟨m, e, hu, hme⟩ := FpFmt.unpack_of_valueOf ha
    obtain ⟨hj, hgrid⟩ := FpFmt.valueOf_eq_some ha
    have habs : |a| = m * (2 : ℝ) ^ e := by
      have := two_zpow_pos e
      rw [hme, abs_withSign, abs_of_nonneg (by positivity)]
    have habs' : |a| = fp32.grid (x % fp32.signBit) := by
      rw [hgrid, abs_withSign, abs_of_nonneg (FpFmt.grid_nonneg _)]
    have hr := roundTo_spec (q := 0) (fp32.isNeg x) (standsFor_self m e) (.inl ⟨rfl, hfits⟩ : Decides rm ..)
    have hp : p = fp32.rintV rm (.num (fp32.isNeg x) m e) := by rw [← hu]
    rw [hneg, hp, hme, hdiv, abs_withSign, abs_of_nonneg (habs ▸ abs_nonneg a)]
    generalize fp32.isNeg x = s at *
    unfold FpFmt.rintV
    dsimp only
    obtain ⟨k, hk, hkr⟩ := rounded_integer_mem (habs'.symm.trans habs ▸ hr) hfits hj
    generalize roundTo rm s m e 0 = q at *
    have hout : (if q.1 = 0 then (fp32.signed s 0, FpFlags.when q.2 FpFlags.nx)
        else ((fp32.round rm s q.1 0).1, FpFlags.when q.2 FpFlags.nx)) = (fp32.signed s k, FpFlags.when q.2 FpFlags.nx) := by
      split_ifs with h0
      · rw [h0] at hkr
        have : k = 0 := FpFmt.strictMono_grid.injective (hkr.trans (by simp [multiples]))
        rw [this]
      · rw [round_of_grid s fp32_usual hrm (Nat.pos_of_ne_zero h0) hkr.symm hk]
    rw [hout]
    have hlt := hk.trans fp32.infBits_lt_signBit
    refine ⟨multiples 0 q.1, withSign s (multiples 0 q.1), hr.roundsTo hfits, ?_, ?_, FpFmt.signed_lt hlt,
      FpFmt.signed_div hlt, ?_⟩
    · rw [FpFmt.valueOf_signed hk, hkr]
    · rw [abs_withSign, abs_of_nonneg (hkr ▸ FpFmt.grid_nonneg k)]
    · refine FpFmt.flagged_congr (flagged_inexact q.2) Iff.rfl Iff.rfl Iff.rfl Iff.rfl ?_
      rw [hr.eq_iff (strictMono_multiples 0) hfits, ne_eq, ne_eq, withSign_inj]
  · have hs := FpFmt.eq_signed hx'
    rw [show x % fp32.signBit = fp32.infBits from h] at hs
    show fp32.rintV rm (fp32.unpack x) = _
    rw [hs, FpFmt.unpack_signed_infBits]
    rfl

/-- Settles O6: each result is the rounding of an exact or sticky mantissa, and one rounding delivers pattern and flags. -/
theorem floatRounding : Obligations.FloatRounding :=
  ⟨arithmeticRounding, infinityResults, rootRounding, integralResults⟩

end Sys2Proof.Machine

/-! NaNs, invalid operations, divisions by zero, minimum, maximum and comparison (R84, R87, R88): O9. -/

namespace Sys2Proof.Machine

open Sys2Proof.Claims

/-! ## NaNs among the operands -/

section
variable {f : FpFmt} {rm : Rm} {a b c : FpVal}

theorem addV_of_nan (h : a.isNan = true ∨ b.isNan = true) : f.addV rm a b = f.nanResult (a.isSig || b.isSig) := by
  cases a <;> cases b <;> simp_all [FpFmt.addV, FpVal.isNan, FpVal.isSig]

theorem mulV_of_nan (h : a.isNan = true ∨ b.isNan = true) : mulV a b = (.nan false, a.isSig || b.isSig) := by
  cases a <;> cases b <;> simp_all [mulV, FpVal.isNan, FpVal.isSig]

theorem divV_of_nan (h : a.isNan = true ∨ b.isNan = true) : f.divV rm a b = f.nanResult (a.isSig || b.isSig) := by
  cases a <;> cases b <;> simp_all [FpFmt.divV, FpVal.isNan, FpVal.isSig]

theorem isNan_neg : a.neg.isNan = a.isNan := by cases a <;> rfl
theorem isSig_neg : a.neg.isSig = a.isSig := by cases a <;> rfl

theorem fmaV_of_nan (h : a.isNan = true ∨ b.isNan = true ∨ c.isNan = true) : (f.fmaV rm a b c).1 = f.nanBits := by
  unfold FpFmt.fmaV
  dsimp only
  split_ifs with hp
  · rfl
  · have hc : c.isNan = true := by
      rcases h with h | h | h
      · exact absurd (by rw [mulV_of_nan (.inl h)]; rfl) hp
      · exact absurd (by rw [mulV_of_nan (.inr h)]; rfl) hp
      · exact h
    rw [addV_of_nan (.inr hc)]; rfl

theorem isNan_unpack {x : Nat} : (f.unpack x).isNan = true ↔ isNanBits f x := by
  unfold FpFmt.unpack isNanBits
  dsimp only
  split_ifs <;> simp_all [FpVal.isNan]

theorem isSig_unpack {x : Nat} : (f.unpack x).isSig = true ↔ isSigBits f x := by
  unfold FpFmt.unpack isSigBits isNanBits
  dsimp only
  split_ifs <;> simp_all [FpVal.isSig]

theorem unpack_of_isNanBits {x : Nat} (h : isNanBits f x) : ∃ sig, f.unpack x = .nan sig ∧ (sig = true ↔ isSigBits f x) := by
  have h1 := isNan_unpack.2 h
  have h2 := isSig_unpack (f := f) (x := x)
  cases hu : f.unpack x with
  | nan sig => exact ⟨sig, rfl, by rw [← h2, hu]; rfl⟩
  | inf s => rw [hu] at h1; cases h1
  | num s m e => rw [hu] at h1; cases h1

theorem op_of_nan {x y : Nat} (h : isNanBits f x ∨ isNanBits f y) (o : FpOp) :
    f.op rm o x y = f.nanResult ((f.unpack x).isSig || (f.unpack y).isSig) := by
  rw [← isNan_unpack, ← isNan_unpack] at h
  cases o with
  | add => exact addV_of_nan h
  | sub => rw [op_sub, addV_of_nan (by rwa [isNan_neg]), isSig_neg]
  | mul => rw [op_mul, mulV_of_nan h]; rfl
  | div => exact divV_of_nan h

theorem fma_of_nan {x y w : Nat} (np nd : Bool) (h : isNanBits f x ∨ isNanBits f y ∨ isNanBits f w) :
    (f.fma rm np nd x y w).1 = f.nanBits := by
  simp only [← isNan_unpack] at h
  have hneg (b : Bool) (a : FpVal) : (if b then a.neg else a).isNan = a.isNan := by cases b <;> simp [isNan_neg]
  exact fmaV_of_nan (by rwa [hneg, hneg])

end

theorem unpack_signed_zero (f : FpFmt) (s : Bool) (hf : f.Usual) : ∃ e, f.unpack (f.signed s 0) = .num s 0 e := by
  have h0 : 0 < f.infBits := (Nat.zero_le _).trans_lt (FpFmt.maxBits_lt hf)
  obtain ⟨m, e, hu, hv⟩ := FpFmt.unpack_of_valueOf (FpFmt.valueOf_signed (s := s) h0)
  have hm : m = 0 := by
    rw [FpFmt.grid_zero, withSign_zero, eq_comm, withSign_eq_zero, mul_eq_zero] at hv
    exact_mod_cast hv.resolve_right (two_zpow_pos e).ne'
  have hs : f.isNeg (f.signed s 0) = s := by
    unfold FpFmt.isNeg; rw [FpFmt.signed_div (Nat.two_pow_pos _)]; cases s <;> rfl
  rw [hm, hs] at hu
  exact ⟨e, hu⟩

theorem usual_of_row {t : FpFmt × Nat} (h : t ∈ [(fp32, 0x7FC00000), (fp16, 0x7E00), (bf16, 0x7FC0)]) :
    t.1.Usual ∧ t.2 = t.1.nanBits := by
  have hb : ∀ t ∈ [(fp32, 0x7FC00000), (fp16, 0x7E00), (bf16, 0x7FC0)], t.1 ∈ [fp32, fp16, bf16] ∧ t.2 = t.1.nanBits := by decide
  exact ⟨usual_of_mem (hb t h).1, (hb t h).2⟩

theorem nanResults : NanResults := by
  intro t ht r x y f rm nan sgn inf minus
  obtain ⟨hf, hnan⟩ := usual_of_row ht
  have hres {i : Prop} {b : Bool} (h : b = true ↔ i) : nan i (f.nanResult b) := by
    refine ⟨hnan.symm, fun hi => ?_, fun hi => ?_⟩
    · rw [h.2 hi]; rfl
    · rw [Bool.eq_false_iff.2 fun hb => hi (h.1 hb)]; rfl
  have htrue : nan True (f.nanResult true) := hres (by simp)
  have hi (s : Bool) : f.unpack (minus s inf) = .inf s := FpFmt.unpack_signed_infBits s
  have hz (s : Bool) : ∃ e, f.unpack (minus s 0) = .num s 0 e := unpack_signed_zero f s hf
  refine ⟨fun h o => ?_, fun h => ?_, fun w p q h => ?_, fun p => ⟨?_, ?_⟩, fun p q w => ?_, fun v h0 hv => ?_, fun p q v h0 hv => ?_⟩
  · rw [op_of_nan h]
    exact hres (by rw [Bool.or_eq_true, isSig_unpack, isSig_unpack])
  · obtain ⟨sig, hu, hsig⟩ := unpack_of_isNanBits h
    rw [hu]
    exact ⟨hres hsig, hres hsig, hres hsig, hres hsig, hres hsig⟩
  · rw [fma_of_nan p q h]; exact hnan.symm
  · rw [op_add, hi, hi, FpFmt.addV, if_neg (by cases p <;> decide)]
    exact htrue
  · rw [op_sub, hi, FpVal.neg, FpFmt.addV, if_neg (by cases p <;> decide)]
    exact htrue
  · obtain ⟨e, hp⟩ := hz p
    obtain ⟨g, hq⟩ := hz q
    refine ⟨?_, ?_, ?_, ?_, ?_⟩
    · rw [op_mul, hp, hi]; exact htrue
    · rw [op_mul, hi, hq]; exact htrue
    · rw [op_div, hp, hq]; exact htrue
    · rw [op_div, hi, hi]; exact htrue
    · show nan True (f.fmaV rm (f.unpack (minus p 0)) (f.unpack (minus q inf)) (f.unpack w))
      rw [hp, hi]; exact htrue
  · exact (sqrtV_neg rm h0 hv).symm ▸ htrue
  · obtain ⟨m, e, hp, hm⟩ := FpFmt.unpack_signed (s := p) h0 hv
    obtain ⟨g, hq⟩ := hz q
    rw [op_div, hq, show f.unpack (minus p v) = _ from hp, FpFmt.divV, if_pos rfl, if_neg hm.ne']
    rfl

/-! ## The order of numbers -/

theorem ltV_num (s t : Bool) (m n : Nat) (e g : Int) : ltV (.num s m e) (.num t n g) = true ↔
    withSign s (m * (2 : ℝ) ^ e) < withSign t (n * (2 : ℝ) ^ g) := by
  have h1 : (if e < g then e else g) ≤ e := by split_ifs <;> omega
  have h2 : (if e < g then e else g) ≤ g := by split_ifs <;> omega
  rw [← alignTo_mul s m h1, ← alignTo_mul t n h2, mul_lt_mul_iff_left₀ (two_zpow_pos _), Int.cast_lt]
  exact decide_eq_true_iff

theorem eqV_num (s t : Bool) (m n : Nat) (e g : Int) : eqV (.num s m e) (.num t n g) = true ↔
    withSign s (m * (2 : ℝ) ^ e) = withSign t (n * (2 : ℝ) ^ g) := by
  have h1 := ltV_num s t m n e g
  have h2 := ltV_num t s n m g e
  refine Iff.trans ?_ le_antisymm_iff.symm
  rw [← not_lt, ← not_lt, ← h1, ← h2]
  simp [eqV, FpVal.isNan, and_comm]

theorem minLtV_zeros (s t : Bool) (e g : Int) : minLtV (.num s 0 e) (.num t 0 g) = (s && !t) := rfl

theorem minLtV_num {s t : Bool} {m n : Nat} {e g : Int} (h : m ≠ 0 ∨ n ≠ 0) :
    minLtV (.num s m e) (.num t n g) = ltV (.num s m e) (.num t n g) := by
  cases m with
  | zero => cases n with
    | zero => simp at h
    | succ n => rfl
  | succ m => cases n <;> rfl

section
variable {f : FpFmt} {x y m n : Nat} {s t : Bool} {e g : Int} (hx : f.unpack x = .num s m e) (hy : f.unpack y = .num t n g)
include hx hy

theorem minmax_num (max : Bool) : f.minmax max x y =
    (if (if max then minLtV (.num s m e) (.num t n g) else minLtV (.num t n g) (.num s m e)) then y else x, 0) := by
  unfold FpFmt.minmax
  rw [hx, hy]
  cases max <;> rfl

theorem minmaxNum_num (max : Bool) : f.minmaxNum max x y = f.minmax max x y := by
  unfold FpFmt.minmaxNum
  rw [hx, hy]
  rfl

end

/-- With a zero among the least of two numbers or none, the order of R88 is that of the numbers, −0 below +0. -/
theorem minmax_spec {f : FpFmt} {x y : Nat} {a b : ℝ} (hx : x < 2 * f.signBit) (hy : y < 2 * f.signBit)
    (ha : valueOf f x = some a) (hb : valueOf f y = some b) (hab : a ≠ b ∨ a = 0) :
    f.minmax false x y = (if a < b ∨ a = 0 ∧ b = 0 ∧ x = f.signBit then x else y, 0) ∧
      f.minmax true x y = (if a < b ∨ a = 0 ∧ b = 0 ∧ x = f.signBit then y else x, 0) := by
  obtain ⟨m, e, hux, hva⟩ := FpFmt.unpack_of_valueOf ha
  obtain ⟨n, g, huy, hvb⟩ := FpFmt.unpack_of_valueOf hb
  have hzero {x : Nat} {a : ℝ} (hx : x < 2 * f.signBit) (ha : valueOf f x = some a) (h0 : a = 0) :
      x = f.signed (f.isNeg x) 0 := by
    obtain ⟨-, hg⟩ := FpFmt.valueOf_eq_some ha
    have hk : x % f.signBit = 0 := by
      rw [h0, eq_comm, withSign_eq_zero, ← FpFmt.grid_zero (f := f)] at hg
      exact FpFmt.strictMono_grid.injective hg
    conv_lhs => rw [FpFmt.eq_signed hx, hk]
    rfl
  have hmant {s : Bool} {m : Nat} {e : Int} : withSign s ((m : ℝ) * (2 : ℝ) ^ e) = 0 ↔ m = 0 := by
    rw [withSign_eq_zero, mul_eq_zero, or_iff_left (two_zpow_pos e).ne', Nat.cast_eq_zero]
  rw [minmax_num hux huy, minmax_num hux huy]
  by_cases hz : a = 0 ∧ b = 0
  · have hm : m = 0 := hmant.1 (hva ▸ hz.1)
    have hn : n = 0 := hmant.1 (hvb ▸ hz.2)
    have hxs := hzero hx ha hz.1
    have hys := hzero hy hb hz.2
    rw [hm, hn, minLtV_zeros, minLtV_zeros, hz.1, hz.2]
    generalize f.isNeg x = s at *
    generalize f.isNeg y = t at *
    have hp : 0 < f.signBit := Nat.two_pow_pos _
    subst hxs hys
    cases s <;> cases t <;> simp [FpFmt.signed, hp.ne]
  · have hne : a ≠ b := by rintro rfl; exact hz ⟨hab.resolve_left (by simp), hab.resolve_left (by simp)⟩
    have hmn : m ≠ 0 ∨ n ≠ 0 := by
      by_contra hc
      rw [not_or, not_not, not_not] at hc
      exact hz ⟨hva.trans (hmant.2 hc.1), hvb.trans (hmant.2 hc.2)⟩
    have hlt : (a < b ∨ a = 0 ∧ b = 0 ∧ x = f.signBit) ↔ a < b := or_iff_left fun h => hz ⟨h.1, h.2.1⟩
    simp only [minLtV_num hmn, minLtV_num hmn.symm, ltV_num, ← hva, ← hvb, hlt, if_true, Bool.false_eq_true, if_false,
      and_true]
    rcases lt_or_gt_of_ne hne with h | h
    · rw [if_neg h.not_gt, if_pos h]
    · rw [if_pos h, if_neg h.not_gt]

theorem minMaxResults : MinMaxResults := by
  intro t ht x y f sgn sig nv
  obtain ⟨hf, hnan⟩ := usual_of_row ht
  have hflag (b : Bool) (v : Nat) (h : b = true ↔ sig) : nv sig (v, FpFlags.when b FpFlags.nv) := by
    refine ⟨fun hi => ?_, fun hi => ?_⟩
    · rw [h.2 hi]; rfl
    · rw [Bool.eq_false_iff.2 fun hb => hi (h.1 hb)]; rfl
  have hsig : ((f.unpack x).isSig || (f.unpack y).isSig) = true ↔ sig := by
    rw [Bool.or_eq_true, isSig_unpack, isSig_unpack]
  refine ⟨fun h => ?_, fun a b hx hy ha hb => ?_⟩
  · have hor : ((f.unpack x).isNan || (f.unpack y).isNan) = true := by
      rwa [Bool.or_eq_true, isNan_unpack, isNan_unpack]
    have heq : eqV (f.unpack x) (f.unpack y) = false := by
      rw [Bool.or_eq_true] at hor
      rcases hor with h | h <;> simp [eqV, h]
    simp only [FpFmt.minmax, FpFmt.minmaxNum, FpFmt.compare, hor, heq, ← isNan_unpack, if_true]
    refine ⟨fun _ => ⟨hnan.symm, hflag _ _ hsig⟩, fun b => ?_, rfl, hflag _ _ hsig, rfl, rfl, trivial, hflag _ _ hsig⟩
    split_ifs with hnx hny
    · exact ⟨hnan.symm, hflag _ _ hsig⟩
    · exact ⟨rfl, hflag _ _ hsig⟩
    · exact ⟨rfl, hflag _ _ hsig⟩
    · rw [Bool.or_eq_true] at hor
      exact absurd (hor.resolve_left hnx) ‹_›
  · obtain ⟨m, e, hux, hva⟩ := FpFmt.unpack_of_valueOf ha
    obtain ⟨n, g, huy, hvb⟩ := FpFmt.unpack_of_valueOf hb
    refine ⟨minmax_spec hx hy ha hb, minmaxNum_num hux huy _, minmaxNum_num hux huy _, ?_⟩
    simp only [FpFmt.compare, hux, huy, eqV_num, FpVal.isNan, FpVal.isSig, Bool.or_false, Bool.not_false, Bool.true_and,
      Bool.not_eq_true', ← Bool.not_eq_true, ltV_num, ← hva, ← hvb, not_lt]
    exact ⟨rfl, rfl, rfl, rfl⟩

/-- Settles O9, by what each operation does with each kind of value, and by the order of aligned mantissas. -/
theorem specialFloatResults : Obligations.SpecialFloatResults := ⟨nanResults, minMaxResults⟩

end Sys2Proof.Machine

/-! The numbers that sources stand for, and their conversion to each format (R89 to R92, R97 to R102). -/

namespace Sys2Proof.Machine

open Sys2Proof.Claims

/-! ## Sources -/

/-- The number of a value that is taken apart. -/
noncomputable def FpVal.number : FpVal → Number
  | .nan sig => .nan sig
  | .inf s => .inf s
  | .num s m e => .real s (withSign s (m * (2 : ℝ) ^ e))

theorem ieeeNumber_unpack (f : FpFmt) (x : Nat) : ieeeNumber f x = (f.unpack x).number := by
  have hv := FpFmt.valueOf_unpack f x
  unfold ieeeNumber
  cases hu : f.unpack x with
  | num s m e =>
    rw [hu] at hv
    obtain rfl := FpFmt.sign_of_unpack hu
    rw [hv, ← beq_eq_decide]
    rfl
  | nan sig | inf s =>
    rw [hu] at hv
    rw [hv]
    unfold FpFmt.unpack at hu
    dsimp only [FpVal.real?] at hu ⊢
    split_ifs at hu ⊢ with h1 h2
    cases hu
    simp only [FpVal.number, ← beq_eq_decide, FpFmt.signBit]

theorem intNumber_eq (x : Int) : intNumber x = (intValue x).number := by
  have hv : (x : ℝ) = withSign (decide (x < 0)) (x.natAbs * (2 : ℝ) ^ (0 : Int)) := by
    rw [zpow_zero, mul_one, Nat.cast_natAbs]
    rcases lt_or_ge x 0 with h | h
    · rw [decide_eq_true h, abs_of_neg h]; simp
    · rw [decide_eq_false (not_lt.2 h), abs_of_nonneg h]; rfl
  rw [intNumber, hv]
  rfl

theorem natNumber_eq (x : Nat) : intNumber x = (FpVal.num false x 0).number := by
  rw [intNumber_eq, intValue, decide_eq_false (by omega), Int.natAbs_natCast]

theorem e8m0Number_eq (x : Nat) : e8m0Number x = (e8m0Value x).number := by
  unfold e8m0Number e8m0Value
  split_ifs
  · rfl
  · simp [FpVal.number]

theorem b8Uns_iff (c : Nat) : b8Uns c = true ↔ c / 8 % 2 = 1 := beq_iff_eq
theorem b8Ext_iff (c : Nat) : b8Ext c = true ↔ c / 16 % 2 = 1 := beq_iff_eq

theorem b8Number_eq (c x : Nat) : b8Number c x = (b8Value c x).number := by
  have hu : c / 8 % 2 = 0 ↔ b8Uns c = false := by rw [← Bool.not_eq_true, b8Uns_iff]; omega
  have hbias : (if b8Uns c = false then (2 : Int) ^ (7 - c % 8) else 2 ^ (8 - c % 8)) = b8Bias c := by
    unfold b8Bias; cases b8Uns c <;> simp
  have hnan : (b8Uns c = false ∧ x = 0x80 ∨ b8Uns c = true ∧ x = 0xFF) ↔ x = b8Nan c := by
    unfold b8Nan; cases b8Uns c <;> simp
  have hinf (m : Nat) : (b8Ext c = true ∧ (b8Uns c = false ∧ m = 0x7F ∨ b8Uns c = true ∧ m = 0xFE)) ↔
      (b8Ext c && m == b8Inf c) = true := by
    unfold b8Inf; cases b8Uns c <;> simp
  have hm : (if b8Uns c = false then x % 128 else x) = if b8Uns c = true then x else x % 128 := by cases b8Uns c <;> rfl
  have hs : decide (b8Uns c = false ∧ 128 ≤ x) = (!b8Uns c && decide (128 ≤ x)) := by cases b8Uns c <;> simp
  have ht : c % 8 - 1 = b8T c := rfl
  simp only [b8Number, b8Value, hu, ← b8Uns_iff, ← b8Ext_iff, hbias, hnan, hinf, hm, hs, ht]
  generalize (if b8Uns c = true then x else x % 128) = m
  by_cases h1 : x = b8Nan c
  · rw [if_pos h1, if_pos h1]; rfl
  rw [if_neg h1, if_neg h1]
  by_cases h2 : (b8Ext c && m == b8Inf c) = true
  · rw [if_pos h2, if_pos h2]; rfl
  rw [if_neg h2, if_neg h2]
  by_cases h3 : m / 2 ^ b8T c = 0
  · simp only [h3, if_true]; rfl
  · simp only [h3, if_false, FpVal.number]; push_cast; rfl

/-- What VCVT reads of a lane is the number of the source that the model takes apart, and integers are marked as such (R97). -/
theorem sourceNumber_eq (k : BitVec 3) (c : Nat) (x : Lane) : sourceNumber k.toNat c x = (cvtSource k c x).val.number := by
  have hlo : (x.extractLsb' 0 16).toNat = x.toNat % 65536 := by simp [BitVec.extractLsb'_toNat]
  have hhi : (x.extractLsb' 16 16).toNat = x.toNat / 65536 := by
    have := x.isLt
    simp [BitVec.extractLsb'_toNat, Nat.shiftRight_eq_div_pow]; omega
  have hb : (x.extractLsb' 0 8).toNat = x.toNat % 256 := by simp [BitVec.extractLsb'_toNat]
  have hblo : x.extractLsb' 0 16 = BitVec.ofNat 16 (x.toNat % 65536) := by rw [← hlo, BitVec.ofNat_toNat, BitVec.setWidth_eq]
  have hbb : x.extractLsb' 0 8 = BitVec.ofNat 8 (x.toNat % 256) := by rw [← hb, BitVec.ofNat_toNat, BitVec.setWidth_eq]
  unfold sourceNumber cvtSource
  have hk : k.toNat < 8 := k.isLt
  generalize k.toNat = n at *
  interval_cases n <;> dsimp only
  · exact ieeeNumber_unpack _ _
  · rw [hlo]; exact ieeeNumber_unpack _ _
  · rw [hhi]; exact ieeeNumber_unpack _ _
  · rw [hlo]; exact ieeeNumber_unpack _ _
  · rw [hhi]; exact ieeeNumber_unpack _ _
  · exact intNumber_eq _
  · rw [hb, hbb]
    split_ifs
    · exact intNumber_eq _
    · exact natNumber_eq _
    · exact e8m0Number_eq _
    · exact b8Number_eq _ _
  · rw [hblo]; exact intNumber_eq _

theorem cvtSource_int (k : BitVec 3) (c : Nat) (x : Lane) :
    (cvtSource k c x).int = decide (k = 5 ∨ k = 7 ∨ k = 6 ∧ c ∈ [0x23, 0x24]) := by
  have h6 : (cvtSource 6 c x).int = decide (c ∈ [0x23, 0x24]) := by
    show (if c = 0x23 then (⟨_, true⟩ : CvtSrc) else if c = 0x24 then ⟨_, true⟩ else if c = 0x27 then ⟨_, false⟩ else ⟨_, false⟩).int = _
    by_cases h1 : c = 0x23
    · simp [h1]
    by_cases h2 : c = 0x24
    · simp [h2]
    simp only [h1, h2, if_false]
    split_ifs <;> simp [h1, h2]
  by_cases hk : k = 6
  · subst hk
    rw [h6]; simp
  · have hk8 : k.toNat < 8 := k.isLt
    have hkn : k.toNat ≠ 6 := fun h => hk (BitVec.eq_of_toNat_eq h)
    have h5 : k = 5 ↔ k.toNat = 5 := BitVec.toNat_inj.symm
    have h7 : k = 7 ↔ k.toNat = 7 := BitVec.toNat_inj.symm
    simp only [hk, false_and, or_false, h5, h7]
    unfold cvtSource
    generalize k.toNat = n at *
    obtain hn | rfl : n < 6 ∨ n = 7 := by omega
    · interval_cases n <;> rfl
    · rfl

/-! ## Conversion to IEEE formats -/

section
variable {f : FpFmt} {rm : Rm}

theorem ieeeNumber_signed {s : Bool} {k : Nat} (hk : k < f.infBits) :
    ieeeNumber f (f.signed s k) = .real s (withSign s (f.grid k)) := by
  have hs : decide (f.signed s k / 2 ^ (f.ew + f.fw) % 2 = 1) = s := by
    rw [← FpFmt.signBit, FpFmt.signed_div (hk.trans f.infBits_lt_signBit)]; cases s <;> rfl
  unfold ieeeNumber
  rw [FpFmt.valueOf_signed hk, hs]

/-- Where an overflow becomes an infinity, in the words of R99. -/
theorem overflowInf_iff (rm : Rm) (s : Bool) : overflowInf rm s = true ↔
    rm ≠ .zero ∧ (rm = .up → s = false) ∧ (rm = .down → s = true) := by
  cases rm <;> simp [overflowInf]

theorem signed_eq_add (s : Bool) (k : Nat) : f.signed s k = (if s then 2 ^ (f.ew + f.fw) else 0) + k := by
  cases s <;> simp [FpFmt.signed, FpFmt.signBit]

theorem of_inexact (nx uf : Bool) : (FpFlags.when nx FpFlags.nx ||| FpFlags.when uf FpFlags.uf) &&& FpFlags.of = 0 := by
  cases nx <;> cases uf <;> rfl

theorem cvtIeee_num {s sat : Bool} {m : Nat} {e : Int} (hm : 0 < m) : cvtIeee f rm sat (.num s m e) =
    let b := (roundFw f.fw f.emin rm s m e).code f.fw f.emin
    if f.infBits ≤ b then (f.signed s (if !sat && overflowInf rm s then f.infBits else f.maxBits), FpFlags.of ||| FpFlags.nx)
    else (f.signed s b, FpFlags.when (roundFw f.fw f.emin rm s m e).inexact FpFlags.nx |||
      FpFlags.when ((roundFw f.fw f.emin rm s m e).inexact && (roundFw f.fw f.emin rm s m e).tiny) FpFlags.uf) := by
  unfold cvtIeee
  simp only [hm.ne', if_false, FpFmt.round_eq]
  generalize (roundFw f.fw f.emin rm s m e).code f.fw f.emin = b
  by_cases hb : f.infBits ≤ b
  · rw [if_pos hb, if_pos hb, FpFmt.patternOf_of_le hb]
    cases sat <;> cases overflowInf rm s <;> rfl
  · rw [if_neg hb, if_neg hb, FpFmt.patternOf_of_lt (not_le.1 hb), of_inexact]
    cases sat <;> rfl

theorem toIeee_cvtIeee (hf : f.Usual) (hk : rm.Fits) (sat : Bool) (v : FpVal) : ToIeee f rm sat v.number (cvtIeee f rm sat v) := by
  cases v with
  | nan sig =>
    refine ⟨rfl, ?_⟩
    cases sig <;> simp [cvtIeee, FpFmt.nanResult, Flagged, FpFlags.when, FpFlags.nv]
  | inf s => exact congrArg (·, (0 : FpFlags)) (signed_eq_add s f.infBits)
  | num s m e =>
    have hp := two_zpow_pos e
    have habs : |withSign s ((m : ℝ) * (2 : ℝ) ^ e)| = m * (2 : ℝ) ^ e := by
      rw [abs_withSign, abs_of_nonneg (by positivity)]
    have hzero : withSign s ((m : ℝ) * (2 : ℝ) ^ e) = 0 ↔ m = 0 := by
      rw [withSign_eq_zero, mul_eq_zero, or_iff_left hp.ne', Nat.cast_eq_zero]
    simp only [ToIeee, FpVal.number, habs, hzero, ← FpFmt.emin_eq, FpFmt.top_eq hf]
    by_cases hm : m = 0
    · rw [if_pos hm, hm]
      exact congrArg (·, (0 : FpFlags)) (signed_eq_add s 0)
    rw [if_neg hm]
    replace hm : 0 < m := Nat.pos_of_ne_zero hm
    have hs : Suffices rm f.fw m e (m * (2 : ℝ) ^ e) := .inl ⟨rfl, hk⟩
    have hr := roundFw_multiples (emin := f.emin) s (standsFor_self m e) hm hs
    have hcode : f.grid _ = _ := roundFw_code (emin := f.emin) s (standsFor_self m e) hm hs
    obtain ⟨w, i, hw, htiny⟩ := roundFw_tiny (emin := f.emin) s (standsFor_self m e) hm hs
    refine ⟨_, _, hr.roundsTo hk, hw.roundsTo hk, ?_⟩
    rw [cvtIeee_num hm, ← htiny]
    have hinx := hr.eq_iff (strictMono_multiples _) hk
    rw [← hcode] at hinx ⊢
    generalize (roundFw f.fw f.emin rm s m e).code f.fw f.emin = b at *
    have hover : f.grid f.maxBits < f.grid b ↔ f.infBits ≤ b := by
      rw [FpFmt.strictMono_grid.lt_iff_lt, ← FpFmt.maxBits_add_one f hf]; exact Iff.rfl
    simp only [hover]
    by_cases hb : f.infBits ≤ b
    · rw [if_pos hb, if_pos hb]
      refine ⟨?_, FpFmt.flagged_overflow⟩
      rw [signed_eq_add]
      simp only [← overflowInf_iff]
      cases sat <;> cases overflowInf rm s <;> rfl
    · rw [if_neg hb, if_neg hb]
      refine ⟨FpFmt.signed_lt ((not_le.1 hb).trans f.infBits_lt_signBit), ieeeNumber_signed (not_le.1 hb), ?_⟩
      exact FpFmt.flagged_congr (FpFmt.flagged_when _ _) Iff.rfl Iff.rfl Iff.rfl (by rw [Bool.and_eq_true, hinx]) hinx

end

/-! ## Conversion to binary8 formats -/

/-- The exponent of the smallest normal value of a binary8 format (R98). -/
def b8Emin (c : Nat) : Int := 1 - (b8Bias c : Int)

theorem b8Max_lt (c : Nat) : b8Max c < b8Nan c ∧ (b8Uns c = false → b8Max c < 128) ∧ (b8Ext c = true → b8Max c < b8Inf c) := by
  unfold b8Max b8Nan b8Inf
  cases b8Uns c <;> cases b8Ext c <;> decide

/-- A finite code with a sign, which an unsigned format and the code of zero do not have. -/
theorem b8Number_signed {c k : Nat} {s : Bool} (hk : k ≤ b8Max c) (hs : s = true → b8Uns c = false ∧ k ≠ 0) :
    b8Number c (b8Signed c s k) = .real s (withSign s (magnitude (b8T c) (b8Emin c) k)) := by
  obtain ⟨hnan, huns, hext⟩ := b8Max_lt c
  have hne : b8Signed c s k ≠ b8Nan c := by
    unfold b8Signed
    split_ifs with h
    · rw [Bool.and_eq_true] at h
      have h0 := hs h.1
      rw [b8Nan, h0.1]
      have := h0.2
      simp only [Bool.false_eq_true, if_false]
      omega
    · omega
  have hm : (if b8Uns c = true then b8Signed c s k else b8Signed c s k % 128) = k := by
    cases hu : b8Uns c
    · have := huns hu
      cases s <;> simp [b8Signed, hu] <;> omega
    · simp [b8Signed, hu]
  have hsign : (!b8Uns c && decide (128 ≤ b8Signed c s k)) = s := by
    cases hu : b8Uns c
    · have := huns hu
      cases s <;> simp [b8Signed, hu]; omega
    · cases s
      · rfl
      · exact absurd (hs rfl).1 (by simp [hu])
  have hinf : ¬ (b8Ext c && k == b8Inf c) = true := by
    rw [Bool.and_eq_true, beq_iff_eq]
    rintro ⟨h1, h2⟩
    have := hext h1
    omega
  rw [b8Number_eq]
  unfold b8Value
  simp only [hm, hsign, hne, hinf, if_false, magnitude, multiples]
  have hz : k / 2 ^ b8T c = 0 ↔ k < 2 ^ b8T c := Nat.div_eq_zero_iff_lt (Nat.two_pow_pos _)
  by_cases h : k < 2 ^ b8T c
  · simp only [hz.2 h, h, if_true, FpVal.number, Nat.mod_eq_of_lt h]
    rfl
  · simp only [mt hz.1 h, h, Bool.false_eq_true, if_false, FpVal.number]
    rw [b8Emin, show 1 - (b8Bias c : Int) - b8T c + (k / 2 ^ b8T c : Nat) - 1 = (k / 2 ^ b8T c : Nat) - b8Bias c - b8T c by ring]

theorem b8Signed_eq_add {c : Nat} {s : Bool} (h : ¬ (b8Uns c = true ∧ s = true)) (k : Nat) :
    b8Signed c s k = (if s then 0x80 else 0) + k := by
  unfold b8Signed
  cases s <;> cases hu : b8Uns c <;> simp_all

/-- A non-zero number that the format's sign allows (R98, R99). -/
theorem cvtB8_num {c m : Nat} {rm : Rm} {s sat : Bool} {e : Int} (hm : 0 < m) (hs : ¬ (b8Uns c = true ∧ s = true)) :
    cvtB8 c rm sat (.num s m e) =
      let r := roundFw (b8T c) (b8Emin c) rm s m e
      let k := r.code (b8T c) (b8Emin c)
      if b8Max c < k then
        (if sat then (b8Signed c s (b8Max c), 20) else if b8Ext c = true then (b8Signed c s (b8Inf c), 20) else (b8Nan c, 21))
      else (if k = 0 then 0 else b8Signed c s k,
        FpFlags.when r.inexact FpFlags.nx ||| FpFlags.when (r.inexact && r.tiny) FpFlags.uf) := by
  have hs' : (b8Uns c && s) = false := by rw [← Bool.not_eq_true, Bool.and_eq_true]; exact hs
  unfold cvtB8
  simp only [hm.ne', if_false, hs', Bool.false_eq_true]
  rfl

/-- A delivered code is a byte, and stands for the magnitude with the sign, which zero does not keep (R99). -/
theorem b8Code_spec {c k : Nat} {s : Bool} (hs : ¬ (b8Uns c = true ∧ s = true)) (hk : k ≤ b8Max c) :
    (if k = 0 then 0 else b8Signed c s k) < 256 ∧ b8Number c (if k = 0 then 0 else b8Signed c s k) =
      if magnitude (b8T c) (b8Emin c) k = 0 then .real false 0
      else .real s (if s then -magnitude (b8T c) (b8Emin c) k else magnitude (b8T c) (b8Emin c) k) := by
  obtain ⟨hnan, huns, -⟩ := b8Max_lt c
  by_cases h0 : k = 0
  · have hz := b8Number_signed (c := c) (k := 0) (s := false) (Nat.zero_le _) nofun
    simp only [h0, if_true, magnitude_zero, withSign_zero] at hz ⊢
    exact ⟨by decide, hz⟩
  · have hne : magnitude (b8T c) (b8Emin c) k ≠ 0 := by
      rw [← magnitude_zero (t := b8T c) (emin := b8Emin c)]
      exact strictMono_magnitude.injective.ne h0
    rw [if_neg h0, if_neg hne]
    refine ⟨?_, b8Number_signed hk fun h => ⟨by rw [← Bool.not_eq_true]; exact fun hu => hs ⟨hu, h⟩, h0⟩⟩
    have hn : b8Nan c < 256 := by unfold b8Nan; split_ifs <;> decide
    rw [b8Signed_eq_add hs]
    split_ifs with h
    · have := huns (by rw [← Bool.not_eq_true]; exact fun hu => hs ⟨hu, h⟩)
      omega
    · omega

theorem toBinary8_cvtB8 {rm : Rm} (hk : rm.Fits) (c : Nat) (sat : Bool) (v : FpVal) :
    ToBinary8 c rm sat v.number (cvtB8 c rm sat v) := by
  have hnan : (if b8Uns c = true then 0xFF else 0x80) = b8Nan c := rfl
  have htop : (if b8Uns c = true then 0xFE else 0x7F) = b8Inf c := rfl
  have hmost : (if b8Ext c = true then b8Inf c - 1 else b8Inf c) = b8Max c := by unfold b8Max; split_ifs <;> rfl
  have hemin : 1 - (if b8Uns c = true then (2 : Int) ^ (8 - c % 8) else 2 ^ (7 - c % 8)) = b8Emin c := by
    unfold b8Emin b8Bias; split_ifs <;> push_cast <;> rfl
  have ht : c % 8 - 1 = b8T c := rfl
  unfold ToBinary8
  simp only [← b8Uns_iff, ← b8Ext_iff, hnan, htop, hmost, hemin, ht]
  cases v with
  | nan sig => refine ⟨rfl, ?_⟩; cases sig <;> simp [cvtB8, Flagged, FpFlags.when, FpFlags.nv]
  | inf s =>
    simp only [FpVal.number, cvtB8, Bool.and_eq_true]
    by_cases hs : b8Uns c = true ∧ s = true
    · rw [if_pos hs, if_pos hs]; rfl
    · rw [if_neg hs, if_neg hs, b8Signed_eq_add hs, b8Signed_eq_add hs]
      by_cases he : b8Ext c = true
      · rw [if_pos he, if_pos he]
      · rw [if_neg he, if_neg he]; rfl
  | num s m e =>
    have hp := two_zpow_pos e
    have habs : |withSign s ((m : ℝ) * (2 : ℝ) ^ e)| = m * (2 : ℝ) ^ e := by
      rw [abs_withSign, abs_of_nonneg (by positivity)]
    have hzero : withSign s ((m : ℝ) * (2 : ℝ) ^ e) = 0 ↔ m = 0 := by
      rw [withSign_eq_zero, mul_eq_zero, or_iff_left hp.ne', Nat.cast_eq_zero]
    simp only [FpVal.number, habs, hzero]
    by_cases hm : m = 0
    · rw [if_pos hm, hm]; rfl
    rw [if_neg hm]
    replace hm : 0 < m := Nat.pos_of_ne_zero hm
    by_cases hs : b8Uns c = true ∧ s = true
    · rw [if_pos hs]
      simp only [cvtB8, hm.ne', if_false, hs.1, hs.2, Bool.and_self, if_true]
      rfl
    rw [if_neg hs, cvtB8_num hm hs]
    have hsf : Suffices rm (b8T c) m e (m * (2 : ℝ) ^ e) := .inl ⟨rfl, hk⟩
    have hr := roundFw_multiples (emin := b8Emin c) s (standsFor_self m e) hm hsf
    have hcode := roundFw_code (emin := b8Emin c) s (standsFor_self m e) hm hsf
    obtain ⟨w, i, hw, htiny⟩ := roundFw_tiny (emin := b8Emin c) s (standsFor_self m e) hm hsf
    have hinx := hr.eq_iff (strictMono_multiples _) hk
    refine ⟨_, _, hr.roundsTo hk, hw.roundsTo hk, magnitude (b8T c) (b8Emin c) (b8Max c), b8Number_signed (s := false) le_rfl nofun, ?_⟩
    rw [← hcode] at hinx ⊢
    rw [← htiny]
    dsimp only
    generalize (roundFw (b8T c) (b8Emin c) rm s m e).code (b8T c) (b8Emin c) = k at *
    simp only [strictMono_magnitude.lt_iff_lt]
    by_cases hb : b8Max c < k
    · rw [if_pos hb, if_pos hb, b8Signed_eq_add hs, b8Signed_eq_add hs]
    · rw [if_neg hb, if_neg hb]
      obtain ⟨h1, h2⟩ := b8Code_spec hs (not_lt.1 hb)
      exact ⟨h1, h2, FpFmt.flagged_congr (FpFmt.flagged_when _ _) Iff.rfl Iff.rfl Iff.rfl (by rw [Bool.and_eq_true, hinx]) hinx⟩

/-! ## Conversion to integers and scales -/

theorem flagged_invalid (nv nx : Bool) : Flagged (FpFlags.when nv FpFlags.nv ||| FpFlags.when nx FpFlags.nx)
    (nv = true) False False False (nx = true) := by
  cases nv <;> cases nx <;> simp [Flagged, FpFlags.when, FpFlags.nx, FpFlags.nv]

theorem toInteger_cvtInt {rm : Rm} (hk : rm.Fits) (w : Nat) (signed int sat : Bool) (v : FpVal) :
    ToInteger w signed int rm sat v.number (cvtInt w signed rm sat int v) := by
  have hlo : (if signed then -((2 ^ (w - 1) : Nat) : Int) else 0) = if signed then -2 ^ (w - 1) else 0 := by push_cast; rfl
  have hhi : (if signed then ((2 ^ (w - 1) : Nat) : Int) - 1 else (2 ^ w : Nat) - 1) =
      if signed then 2 ^ (w - 1) - 1 else 2 ^ w - 1 := by push_cast; rfl
  have hle : (if signed then -2 ^ (w - 1) else 0 : Int) ≤ if signed then 2 ^ (w - 1) - 1 else 2 ^ w - 1 := by
    have h1 : (0 : Int) < 2 ^ (w - 1) := by positivity
    have h2 : (0 : Int) < 2 ^ w := by positivity
    split_ifs <;> omega
  have hbits (x : Int) : (BitVec.ofInt w x).toNat = (x % 2 ^ w).toNat := by rw [BitVec.toNat_ofInt]; push_cast; rfl
  unfold ToInteger cvtInt
  simp only [hlo, hhi, hbits]
  generalize (if signed then -2 ^ (w - 1) else 0 : Int) = lo at *
  generalize (if signed then 2 ^ (w - 1) - 1 else 2 ^ w - 1 : Int) = hi at *
  cases v with
  | nan sig => rfl
  | inf s => rfl
  | num s m e =>
    have hp := two_zpow_pos e
    have habs : |withSign s ((m : ℝ) * (2 : ℝ) ^ e)| = m * (2 : ℝ) ^ e := by
      rw [abs_withSign, abs_of_nonneg (by positivity)]
    have hr := roundTo_spec (q := 0) s (standsFor_self m e) (.inl ⟨rfl, hk⟩ : Decides rm ..)
    have hinx := hr.eq_iff (strictMono_multiples 0) hk
    simp only [FpVal.number, habs]
    generalize roundTo rm s m e 0 = r at *
    obtain ⟨k, hkr⟩ : ∃ k : Int, k = if s then -(r.1 : Int) else r.1 := ⟨_, rfl⟩
    have hreal : (k : ℝ) = withSign s (multiples 0 r.1) := by rw [hkr]; cases s <;> simp [multiples]
    rw [← hkr]
    refine ⟨_, k, hr.roundsTo hk, hreal, ?_⟩
    have hnx : r.2 = true ↔ (k : ℝ) ≠ withSign s (m * (2 : ℝ) ^ e) := by rw [hinx, hreal, ne_eq, ne_eq, withSign_inj]
    have hout (h : k < lo ∨ hi < k) : Flagged (FpFlags.when (!int) FpFlags.nv ||| FpFlags.when r.2 FpFlags.nx)
        ((k < lo ∨ hi < k) ∧ int = false) False False False ((k : ℝ) ≠ withSign s (m * (2 : ℝ) ^ e)) :=
      FpFmt.flagged_congr (flagged_invalid _ _) (by simp [h]) Iff.rfl Iff.rfl Iff.rfl hnx
    by_cases h1 : k < lo
    · rw [if_pos h1]
      have hclamp : max lo (min hi k) = lo := by omega
      rw [hclamp]
      cases sat <;> exact ⟨rfl, hout (.inl h1)⟩
    rw [if_neg h1]
    by_cases h2 : hi < k
    · rw [if_pos h2]
      have hclamp : max lo (min hi k) = hi := by omega
      rw [hclamp]
      cases sat <;> exact ⟨rfl, hout (.inr h2)⟩
    · rw [if_neg h2]
      have hclamp : max lo (min hi k) = k := by omega
      rw [hclamp, ite_self]
      exact ⟨rfl, FpFmt.flagged_congr (flagged_inexact _) (by simp [h1, h2]) Iff.rfl Iff.rfl Iff.rfl hnx⟩

theorem toScale_cvtE8m0 (sat : Bool) (v : FpVal) : ToScale sat v.number (cvtE8m0 sat v) := by
  cases v with
  | nan sig => refine ⟨rfl, ?_⟩; cases sig <;> simp [cvtE8m0, Flagged, FpFlags.when, FpFlags.nv]
  | inf s => cases sat <;> rfl
  | num s m e =>
    have hp := two_zpow_pos e
    have habs : |withSign s ((m : ℝ) * (2 : ℝ) ^ e)| = m * (2 : ℝ) ^ e := by
      rw [abs_withSign, abs_of_nonneg (by positivity)]
    simp only [ToScale, FpVal.number, habs, cvtE8m0]
    by_cases hm : m = 0
    · have h0 : (m : ℝ) * (2 : ℝ) ^ e < (2 : ℝ) ^ (-127 : Int) := by rw [hm, Nat.cast_zero, zero_mul]; positivity
      rw [if_pos h0, if_pos (Or.inl hm)]; rfl
    replace hm : 0 < m := Nat.pos_of_ne_zero hm
    have hx : 0 < (m : ℝ) * (2 : ℝ) ^ e := (standsFor_self m e).pos hm
    have hl := (standsFor_self m e).log_eq (.inl rfl) hm
    have hlt : (m : ℝ) * (2 : ℝ) ^ e < (2 : ℝ) ^ (-127 : Int) ↔ m = 0 ∨ dyadicLog m e < -127 := by
      rw [or_iff_right hm.ne', ← hl]
      exact Int.lt_zpow_iff_log_lt one_lt_two hx
    by_cases h : m = 0 ∨ dyadicLog m e < -127
    · rw [if_pos h, if_pos (hlt.2 h)]; rfl
    · rw [if_neg h, if_neg (mt hlt.1 h)]
      refine ⟨by rw [hl]; dsimp only; omega, ?_⟩
      refine FpFmt.flagged_congr (flagged_inexact _) Iff.rfl Iff.rfl Iff.rfl Iff.rfl ?_
      have hval : ((2 ^ Nat.log2 m : Nat) : ℝ) * (2 : ℝ) ^ e = (2 : ℝ) ^ dyadicLog m e := by
        rw [dyadicLog, zpow_add₀ two_ne_zero, zpow_natCast]; push_cast; rfl
      rw [decide_eq_true_eq]
      refine ⟨fun hne k hk => hne ?_, fun h heq => h (dyadicLog m e) (by rw [← hval, ← heq])⟩
      have hkl : dyadicLog m e = k := by
        rw [← hl, hk]; exact_mod_cast Int.log_zpow (R := ℝ) one_lt_two k
      rw [← hkl, ← hval, mul_left_inj' hp.ne'] at hk
      exact_mod_cast hk

/-- EVERY CONVERSION OF A LANE to a valid format code is the conversion of its number. -/
theorem converts_cvtLane {rm : Rm} (hk : rm.Fits) {d : Nat} (hd : d < 32 ∧ d % 8 ≠ 0 ∨ 32 ≤ d ∧ d < 40) (sat : Bool) (src : CvtSrc) :
    Converts d src.int rm sat src.val.number (cvtLane d rm sat src) := by
  have hb : isB8 d = true ↔ d < 32 := by unfold isB8; rw [Bool.and_eq_true, decide_eq_true_eq, decide_eq_true_eq]; omega
  unfold Converts cvtLane
  by_cases h : d < 32
  · rw [if_pos h, if_pos (hb.2 h)]
    exact toBinary8_cvtB8 hk d sat _
  · rw [if_neg h, if_neg (mt hb.1 h)]
    obtain ⟨hlo, hhi⟩ := hd.resolve_left fun hc => h hc.1
    interval_cases d
    · exact toIeee_cvtIeee fp32_usual hk sat _
    · exact toIeee_cvtIeee (usual_of_mem (by decide)) hk sat _
    · exact toIeee_cvtIeee (usual_of_mem (by decide)) hk sat _
    · exact toInteger_cvtInt hk 8 true _ sat _
    · exact toInteger_cvtInt hk 8 false _ sat _
    · exact toInteger_cvtInt hk 16 true _ sat _
    · exact toInteger_cvtInt hk 32 true _ sat _
    · exact toScale_cvtE8m0 sat _

end Sys2Proof.Machine

/-! VCVT: the random words that it draws, its flags, and its effect on the slot (R97, R104, R141, R154, R158): O8. -/

namespace Sys2Proof.Machine

open Sys2Proof.Claims

/-! ## Philox on words and on numbers -/

/-- The counter and key as 32-bit words. -/
def Philox.words (p : Philox) : List (BitVec 32) :=
  [BitVec.ofNat 32 p.c0, BitVec.ofNat 32 p.c1, BitVec.ofNat 32 p.c2, BitVec.ofNat 32 p.c3, BitVec.ofNat 32 p.k0, BitVec.ofNat 32 p.k1]

/-- Every number is a 32-bit word. -/
def Philox.Fits (p : Philox) : Prop :=
  p.c0 < 2 ^ 32 ∧ p.c1 < 2 ^ 32 ∧ p.c2 < 2 ^ 32 ∧ p.c3 < 2 ^ 32 ∧ p.k0 < 2 ^ 32 ∧ p.k1 < 2 ^ 32

theorem Philox.round_fits {p : Philox} (h : p.Fits) : p.round.Fits := by
  obtain ⟨h0, h1, h2, h3, h4, h5⟩ := h
  have hmod (n : Nat) : n % 2 ^ 32 < 2 ^ 32 := Nat.mod_lt _ (by decide)
  have hx {a b c : Nat} (ha : a < 2 ^ 64) (hb : b < 2 ^ 32) (hc : c < 2 ^ 32) : a / 2 ^ 32 ^^^ b ^^^ c < 2 ^ 32 :=
    Nat.xor_lt_two_pow (Nat.xor_lt_two_pow (by omega) hb) hc
  exact ⟨hx (by omega) h1 h4, hmod _, hx (by omega) h3 h5, hmod _, hmod _, hmod _⟩

/-- The two halves of the product of a constant and a word. -/
theorem product_halves {k c : Nat} (hk : k < 2 ^ 32) (hc : c < 2 ^ 32) :
    (BitVec.ofNat 64 k * (BitVec.ofNat 32 c).setWidth 64).extractLsb' 32 32 = BitVec.ofNat 32 (k * c / 2 ^ 32) ∧
    (BitVec.ofNat 64 k * (BitVec.ofNat 32 c).setWidth 64).extractLsb' 0 32 = BitVec.ofNat 32 (k * c % 2 ^ 32) := by
  have hp : k * c < 2 ^ 64 := by nlinarith
  have hm : (BitVec.ofNat 64 k * (BitVec.ofNat 32 c).setWidth 64).toNat = k * c := by
    rw [BitVec.toNat_mul, BitVec.toNat_setWidth, BitVec.toNat_ofNat, BitVec.toNat_ofNat, Nat.mod_eq_of_lt hc,
      Nat.mod_eq_of_lt (by omega : k < 2 ^ 64), Nat.mod_eq_of_lt (by omega : c < 2 ^ 64), Nat.mod_eq_of_lt hp]
  constructor <;> apply BitVec.eq_of_toNat_eq
  · rw [BitVec.extractLsb'_toNat, hm, Nat.shiftRight_eq_div_pow, BitVec.toNat_ofNat]
  · rw [BitVec.extractLsb'_toNat, hm, BitVec.toNat_ofNat, Nat.shiftRight_zero, Nat.mod_mod]

theorem ofNat_xor (a b : Nat) : BitVec.ofNat 32 (a ^^^ b) = BitVec.ofNat 32 a ^^^ BitVec.ofNat 32 b := by
  apply BitVec.eq_of_toNat_eq
  simp

theorem philoxRound_words {p : Philox} (h : p.Fits) : philoxRound p.words = p.round.words := by
  obtain ⟨h0, h1, h2, h3, h4, h5⟩ := h
  obtain ⟨a1, a0⟩ := product_halves (k := 0xD2511F53) (by decide) h0
  obtain ⟨b1, b0⟩ := product_halves (k := 0xCD9E8D57) (by decide) h2
  have hadd (n c : Nat) : BitVec.ofNat 32 n + BitVec.ofNat 32 c = BitVec.ofNat 32 ((n + c) % 2 ^ 32) := by
    rw [← BitVec.ofNat_add]; apply BitVec.eq_of_toNat_eq; simp
  simp only [Philox.words, Philox.round, ofNat_xor, ← hadd]
  rw [← a1, ← a0, ← b1, ← b0]
  rfl

theorem philoxRound_iterate {p : Philox} (h : p.Fits) (n : Nat) :
    philoxRound^[n] p.words = (Philox.rounds n p).words ∧ (Philox.rounds n p).Fits := by
  induction n generalizing p with
  | zero => exact ⟨rfl, h⟩
  | succ n ih =>
    rw [Function.iterate_succ_apply, philoxRound_words h]
    exact ih (Philox.round_fits h)

/-- The counter and key of a lane of the slot at hand (R104). -/
def Philox.ofLane (s : State) (l : Nat) : Philox where
  c0 := (here s).rngCtr.toNat % 2 ^ 32
  c1 := (here s).rngCtr.toNat / 2 ^ 32
  c2 := l + s.cur.slot.toNat * 32 + s.cur.cell.toNat % 65536 * 512
  c3 := (s.cur.pkg.toNat + (Claims.pack s).domain.toNat * 4096) % 2 ^ 32
  k0 := (here s).rngKey.toNat % 2 ^ 32
  k1 := (here s).rngKey.toNat / 2 ^ 32

theorem Philox.ofLane_fits (s : State) {l : Nat} (hl : l < 32) : (Philox.ofLane s l).Fits := by
  have hc := (here s).rngCtr.isLt
  have hk := (here s).rngKey.isLt
  have hs := s.cur.slot.isLt
  have he := s.cur.cell.isLt
  refine ⟨Nat.mod_lt _ (by decide), ?_, ?_, Nat.mod_lt _ (by decide), Nat.mod_lt _ (by decide), ?_⟩ <;>
    simp only [Philox.ofLane] <;> omega

theorem philox_ofLane (s : State) (l : Nat) : (start s).philox l = (Philox.rounds 10 (Philox.ofLane s l)).c0 := by
  unfold Ctx.philox philoxLane
  rw [start_slot_keeps Slot.rngCtr (fun _ => rfl), start_slot_keeps Slot.rngKey (fun _ => rfl),
    start_pkg Pkg.domain (fun _ _ => rfl)]
  rfl

/-- The two words of a number of 64 bits. -/
theorem halves_eq (x : Word) : x.extractLsb' 0 32 = BitVec.ofNat 32 (x.toNat % 2 ^ 32) ∧
    x.extractLsb' 32 32 = BitVec.ofNat 32 (x.toNat / 2 ^ 32) := by
  constructor <;> apply BitVec.eq_of_toNat_eq
  · rw [BitVec.extractLsb'_toNat, BitVec.toNat_ofNat, Nat.shiftRight_zero, Nat.mod_mod]
  · rw [BitVec.extractLsb'_toNat, BitVec.toNat_ofNat, Nat.shiftRight_eq_div_pow]

theorem philoxAt_ofLane (s : State) (l : Nat) :
    philoxAt s l = ((philoxRound^[10] (Philox.ofLane s l).words).getD 0 0).toNat := by
  have h2 : l + 2 ^ 5 * s.cur.slot.toNat + 2 ^ 9 * (s.cur.cell.toNat % 2 ^ 16) = (Philox.ofLane s l).c2 := by
    simp only [Philox.ofLane]; omega
  have h3 : BitVec.ofNat 32 (s.cur.pkg.toNat + 2 ^ 12 * (Claims.pack s).domain.toNat) = BitVec.ofNat 32 (Philox.ofLane s l).c3 := by
    apply BitVec.eq_of_toNat_eq
    simp only [Philox.ofLane, BitVec.toNat_ofNat, Nat.mod_mod, Nat.mul_comm (2 ^ 12)]
    rfl
  unfold philoxAt
  dsimp only
  rw [h2, h3, (halves_eq _).1, (halves_eq _).2, (halves_eq (here s).rngKey).1, (halves_eq (here s).rngKey).2]
  rfl

/-- The random word of a lane is that of R104. -/
theorem philox_eq (s : State) {l : Nat} (hl : l < 32) : (start s).philox l = philoxAt s l := by
  obtain ⟨hw, hf⟩ := philoxRound_iterate (Philox.ofLane_fits s hl) 10
  obtain ⟨h0, -⟩ := hf
  rw [philox_ofLane, philoxAt_ofLane, hw]
  exact (Nat.mod_eq_of_lt h0).symm

theorem philoxAt_lt (s : State) (l : Nat) : philoxAt s l < 2 ^ 32 := BitVec.isLt _

/-! ## The conversion of a lane -/

/-- The rounding of a lane: that of %FPMODE.RM, or one by the lane's random word (R103). -/
def cvtRounding (s : State) (st : Bool) (l : Nat) : Rm :=
  if st then .stoch (philoxAt s l / 2 ^ 16) else Rm.ofMode (here s).rm

theorem cvtRounding_fits (s : State) (st : Bool) (l : Nat) : (cvtRounding s st l).Fits := by
  intro n hn
  have hlt := philoxAt_lt s l
  cases st with
  | false => exact absurd hn (FpFmt.ofMode_ne_stoch _ n)
  | true =>
    have hn : Rm.stoch (philoxAt s l / 2 ^ 16) = .stoch n := hn
    rw [← Rm.stoch.inj hn]
    omega

/-- What the body of VCVT makes of a lane. -/
def cvtOf (c : Ctx) (a : VRegNo) (f : BitVec 7) (st sat : Bool) (k : BitVec 3) (l : Nat) : Nat × FpFlags :=
  cvtLane f.toNat (if st then .stoch (c.philox l / 65536) else c.rm) sat
    (cvtSource k c.slot.cvtSrc.toNat (lane (c.vreg a) l))

theorem cvtOf_start {s : State} (a : VRegNo) (f : BitVec 7) (st sat : Bool) (k : BitVec 3) {l : Nat} (hl : l < 32) :
    cvtOf (start s) a f st sat k l = cvtLane f.toNat (cvtRounding s st l) sat
      (cvtSource k (here s).cvtSrc.toNat (lane (s.vregAt s.cur a) l)) := by
  unfold cvtOf
  rw [philox_eq s hl, start_rm, start_vreg, start_slot_keeps Slot.cvtSrc fun _ => rfl]
  rfl

theorem converts_cvtOf (s : State) (a : VRegNo) {f : BitVec 7} (st sat : Bool) (k : BitVec 3) {l : Nat} (hl : l < 32)
    (hd : f.toNat < 32 ∧ f.toNat % 8 ≠ 0 ∨ 32 ≤ f.toNat ∧ f.toNat < 40) :
    Converts f.toNat (decide (k = 5 ∨ k = 7 ∨ k = 6 ∧ (here s).cvtSrc.toNat ∈ [0x23, 0x24])) (cvtRounding s st l) sat
      (sourceNumber k.toNat (here s).cvtSrc.toNat (lane (s.vregAt s.cur a) l)) (cvtOf (start s) a f st sat k l) := by
  rw [sourceNumber_eq, cvtOf_start a f st sat k hl, ← cvtSource_int k _ (lane (s.vregAt s.cur a) l)]
  exact converts_cvtLane (cvtRounding_fits s st l) hd sat _

theorem isCvtSrc_iff (c : Nat) : isCvtSrc c = true ↔ c < 32 ∧ c % 8 ≠ 0 ∨ c ∈ [0x23, 0x24, 0x27] := by
  simp [isCvtSrc, isB8, or_assoc]

/-! ## The effect on the slot -/

/-- What flags leave of a slot. -/
theorem raise_slot_keeps {α : Sort _} (P : Slot → α) (h : ∀ (t : Slot) x, P { t with fpFlags := x } = P t) (c : Ctx) (x : FpFlags) :
    P (c.raise x).slot = P c.slot := State.slotAt_mapSlot_keeps P (fun t => h t _) _ _ _

/-- A body that writes a vector destination with flags, in the state in which it starts. -/
theorem start_setVF {s : State} {o : Opnds} (h : ready s o = true) {d : VRegNo} (hd : RegRef.v d ∈ o.dsts)
    (f : Nat → Lane × FpFlags) :
    (start s).setVF d f = ((raised s (((activeLanes s).map fun l => (f l).2).foldl (· ||| ·) 0)).setLanes s.cur d
      (here s).active fun l => (f l).1).mapSlot s.cur Slot.unlast := by
  have hfl : ((List.range 32).filter (start s).slot.isActive).foldl (fun a l => a ||| (f l).2) 0 =
      ((activeLanes s).map fun l => (f l).2).foldl (· ||| ·) 0 := by
    rw [List.foldl_map, show (start s).slot.isActive = (here s).isActive from funext (start_isActive s)]
    rfl
  have hb (x : FpFlags) : ((start s).raise x).boundTo d = none := by
    unfold Ctx.boundTo
    rw [raise_slot_keeps Slot.binds fun _ _ => rfl]
    exact start_boundTo (ready_streamless h (.inr hd))
  have ha (x : FpFlags) : ((start s).raise x).slot.active = (here s).active := by
    rw [raise_slot_keeps Slot.active fun _ _ => rfl, start_active]
  unfold Ctx.setVF
  rw [hfl, Ctx.setV, hb, ha]
  dsimp only
  rw [Ctx.raise, Ctx.mapSlot, start_s, start_g, started_eq, mapSlot_unlast, setLanes_mapSlot]
  · rfl
  · exact fun _ => rfl
  · exact fun t => t.fill_unlast _
  · exact fun _ => rfl

/-- The random counter advances as R158 says. -/
theorem advanceRng_unlast {g : GRef} {u : State} (h : u.cur = g) :
    advanceRng g (u.mapSlot g Slot.unlast) = (nextRandom u).mapSlot g Slot.unlast :=
  h ▸ mapSlot_unlast u u.cur fun _ => rfl

/-- What the body of VCVT does when it does not trap. -/
theorem start_cvt {s : State} {d a : VRegNo} (h : ready s (Opnds.vv d a) = true) (f : BitVec 7) (st sat : Bool) (k : BitVec 3) :
    (let c' := (start s).setVF d fun l => fpLane (cvtOf (start s) a f st sat k l)
      if st then advanceRng s.cur c' else c') =
    (let u := (raised s (((activeLanes s).map fun l => (cvtOf (start s) a f st sat k l).2).foldl (· ||| ·) 0)).setLanes s.cur d
      (here s).active fun l => BitVec.ofNat 32 (cvtOf (start s) a f st sat k l).1
      if st then nextRandom u else u).mapSlot s.cur Slot.unlast := by
  dsimp only
  rw [start_setVF h (d := d) List.mem_cons_self]
  cases st with
  | false => rfl
  | true => exact advanceRng_unlast (by simp [raised, State.setLanes])

/-- The effect of VCVT leaves the slot's package in place. -/
theorem cvt_hasPkg (s : State) (x : FpFlags) (d : VRegNo) (m : BitVec 32) (g : Nat → Lane) (st : Bool) (p : PkgId) :
    (let u := (raised s x).setLanes s.cur d m g
      if st then nextRandom u else u).hasPkg p = s.hasPkg p := by
  have hr : (raised s x).hasPkg p = s.hasPkg p := State.hasPkg_mapSlot ..
  cases st with
  | false => exact (setLanes_hasPkg ..).trans hr
  | true => exact (State.hasPkg_mapSlot ..).trans ((setLanes_hasPkg ..).trans hr)

/-- Settles O8: a lane of VCVT is converted by `cvtLane`, whose random word is that of R104, and the flags of the active lanes
are gathered. -/
theorem conversionResults : Obligations.ConversionResults := by
  intro s d a f st sat k h hf
  have hp := ready_hasPkg h
  have hsrc : (start s).slot.cvtSrc = (here s).cvtSrc := start_slot_keeps Slot.cvtSrc (fun _ => rfl) s
  have hbyte : (k = 6 ∧ ¬ isCvtSrc (start s).slot.cvtSrc.toNat = true) ↔
      k = 6 ∧ ¬ ((here s).cvtSrc.toNat < 32 ∧ (here s).cvtSrc.toNat % 8 ≠ 0 ∨ (here s).cvtSrc.toNat ∈ [0x23, 0x24, 0x27]) := by
    rw [isCvtSrc_iff, hsrc]
  dsimp only
  by_cases hk : k = 6 ∧ ¬ isCvtSrc (start s).slot.cvtSrc.toNat = true
  · rw [if_pos (hbyte.1 hk)]
    refine traps_of hp ?_
    rw [exec_vcvt, execVcvt, run_ready h]
    exact congrArg (fun i => Host.Outcome.next (conclude s s.cur _ i)) (if_pos hk)
  · rw [if_neg (mt hbyte.2 hk)]
    refine ⟨cvtOf (start s) a f st sat k, fun l hl => converts_cvtOf s a st sat k ?_ hf, ?_⟩
    · exact List.mem_range.1 (List.mem_of_mem_filter hl)
    · refine completes_of h (exec_vcvt ..) ((if_neg hk).trans (congrArg Issue.done (start_cvt h f st sat k))) ?_
      rw [cvt_hasPkg]
      exact hp

end Sys2Proof.Machine

/-! How far the fixed-point series of 2^a and log2 a lie from the exact values (R86). -/

namespace Sys2Proof.Machine

open Sys2Proof.Claims Finset

/-! ## Truncated quotients -/

theorem cast_div_lt (m n : Nat)  : (m : ℝ) / n < ((m / n : Nat) : ℝ) + 1 := by
  rw [← Nat.floor_div_eq_div (K := ℝ)]; exact Nat.lt_floor_add_one _

/-- One in fixed point. -/
theorem cast_fixOne : ((2 ^ fixBits : Nat) : ℝ) = (2 : ℝ) ^ fixBits := by push_cast; rfl

theorem fixOne_pos : (0 : ℝ) < 2 ^ fixBits := by positivity

theorem fixOne_eq : (2 : ℝ) ^ fixBits = 2 ^ 192 * 2 ^ 192 := by rw [← pow_add]; rfl

/-! ## ln 2 -/

/-- The exact sum that `ln2From` truncates; `T` is the exact power of 1/3. -/
noncomputable def ln2Sum (n k : Nat) (T : ℝ) : ℝ := ∑ j ∈ range n, 2 * (T / 9 ^ j) / (2 * (k + j : Nat) + 1)

theorem ln2Sum_succ (n k : Nat) (T : ℝ) : ln2Sum (n + 1) k T = 2 * T / (2 * k + 1) + ln2Sum n (k + 1) (T / 9) := by
  unfold ln2Sum
  rw [sum_range_succ', add_comm]
  congr 1
  · simp
  · refine sum_congr rfl fun j _ => ?_
    rw [pow_succ', div_div, Nat.add_assoc, Nat.add_comm 1 j]

theorem ln2From_bounds (n k t : Nat) (T : ℝ) (h1 : t ≤ T) (h2 : T ≤ t + 2) :
    ln2From n k t ≤ ln2Sum n k T ∧ ln2Sum n k T ≤ ln2From n k t + 5 * n := by
  induction n generalizing k t T with
  | zero => simp [ln2From, ln2Sum]
  | succ n ih =>
    have hk : (1 : ℝ) ≤ 2 * k + 1 := by have := k.cast_nonneg (α := ℝ); linarith
    have hq1 : ((2 * t / (2 * k + 1) : Nat) : ℝ) ≤ 2 * t / (2 * k + 1) := by exact_mod_cast Nat.cast_div_le (α := ℝ)
    have hq2 : (2 * t : ℝ) / (2 * k + 1) < (2 * t / (2 * k + 1) : Nat) + 1 := by
      exact_mod_cast cast_div_lt (2 * t) (2 * k + 1)
    have hp1 : ((t / 9 : Nat) : ℝ) ≤ t / 9 := by exact_mod_cast Nat.cast_div_le (α := ℝ)
    have hp2 : (t : ℝ) ≤ 9 * (t / 9 : Nat) + 8 := by exact_mod_cast (by omega : t ≤ 9 * (t / 9) + 8)
    have hlo : (2 * t : ℝ) / (2 * k + 1) ≤ 2 * T / (2 * k + 1) := by gcongr
    have hhi : 2 * T / (2 * k + 1) ≤ 2 * t / (2 * k + 1) + 4 := by
      rw [div_add' _ _ _ (by positivity)]
      gcongr
      linarith
    obtain ⟨i1, i2⟩ := ih (k + 1) (t / 9) (T / 9) (by linarith) (by linarith)
    rw [ln2Sum_succ, ln2From]
    push_cast at *
    constructor <;> linarith

theorem ln2Sum_eq (n : Nat) : ln2Sum n 0 (2 ^ fixBits / 3) =
    2 ^ fixBits * 2 * ∑ i ∈ range n, (1 / 3 : ℝ) ^ (2 * i + 1) / (2 * i + 1) := by
  unfold ln2Sum
  rw [mul_sum]
  refine sum_congr rfl fun j _ => ?_
  rw [pow_succ, pow_mul, Nat.zero_add, div_pow, div_pow, one_pow, one_pow, show (3 : ℝ) ^ 2 = 9 by norm_num]
  field_simp

/-- ln 2 IN FIXED POINT. -/
theorem ln2Fix_bounds : (ln2Fix : ℝ) ≤ 2 ^ fixBits * Real.log 2 ∧ 2 ^ fixBits * Real.log 2 ≤ ln2Fix + 651 := by
  have hP := fixOne_pos
  have hlog : (1 + 1 / 3 : ℝ) / (1 - 1 / 3) = 2 := by norm_num
  have hlo := Real.sum_range_le_log_div (x := 1 / 3) (by norm_num) (by norm_num) 130
  have hhi := Real.log_div_le_sum_range_add (x := 1 / 3) (by norm_num) (by norm_num) 130
  rw [hlog] at hlo hhi
  have htail : 2 ^ fixBits * 2 * ((1 / 3 : ℝ) ^ (2 * 130 + 1) / (1 - (1 / 3) ^ 2)) ≤ 1 := by
    rw [fixOne_eq, show 2 * 130 + 1 = 130 + 131 from rfl, pow_add]; norm_num
  obtain ⟨h1, h2⟩ := ln2From_bounds 130 0 (2 ^ fixBits / 3) (2 ^ fixBits / 3)
    (by exact_mod_cast Nat.cast_div_le (α := ℝ)) (by
      have := cast_div_lt (2 ^ fixBits) 3
      push_cast at this ⊢; linarith)
  rw [ln2Sum_eq] at h1 h2
  generalize (1 / 3 : ℝ) ^ (2 * 130 + 1) / (1 - (1 / 3) ^ 2) = r at *
  generalize ∑ i ∈ range 130, (1 / 3 : ℝ) ^ (2 * i + 1) / (2 * i + 1) = S at *
  have h3 := mul_le_mul_of_nonneg_left hlo hP.le
  have h4 := mul_le_mul_of_nonneg_left hhi hP.le
  unfold ln2Fix
  push_cast at *
  constructor <;> linarith

/-! ## The exponential series -/

/-- The exact sum that `expFrom` truncates; `T` is the exact term number `k`. -/
noncomputable def expSum (n k : Nat) (T X : ℝ) : ℝ := ∑ j ∈ range n, T * (k.factorial * X ^ j / (k + j).factorial)

theorem expSum_succ (n k : Nat) (T X : ℝ) : expSum (n + 1) k T X = T + expSum n (k + 1) (T * X / (k + 1)) X := by
  unfold expSum
  rw [sum_range_succ', add_comm]
  have hf (i : Nat) : (i.factorial : ℝ) ≠ 0 := by exact_mod_cast i.factorial_ne_zero
  congr 1
  · simp [hf]
  · refine sum_congr rfl fun j _ => ?_
    have hk : (k : ℝ) + 1 ≠ 0 := by exact_mod_cast k.succ_ne_zero
    rw [show k + (j + 1) = k + 1 + j by omega, Nat.factorial_succ k]
    have := hf (k + 1 + j)
    push_cast
    field_simp
    ring

/-- One term from the one before it. -/
theorem expTerm_bounds {k t x d : Nat} {T : ℝ} (hx : x ≤ 2 ^ fixBits) (h1 : t ≤ T) (h2 : T ≤ t + d) :
    ((t * x / 2 ^ fixBits / (k + 1) : Nat) : ℝ) ≤ T * (x / 2 ^ fixBits) / (k + 1) ∧
      T * (x / 2 ^ fixBits) / (k + 1) ≤ (t * x / 2 ^ fixBits / (k + 1) : Nat) + (d + 2 : Nat) := by
  have hk : (1 : ℝ) ≤ k + 1 := by have := k.cast_nonneg (α := ℝ); linarith
  have hX0 : (0 : ℝ) ≤ x / 2 ^ fixBits := by positivity
  have hX1 : (x : ℝ) / 2 ^ fixBits ≤ 1 := (div_le_one fixOne_pos).2 (by exact_mod_cast hx)
  have hq1 : ((t * x / 2 ^ fixBits : Nat) : ℝ) ≤ t * (x / 2 ^ fixBits) := by
    rw [← mul_div_assoc]; exact_mod_cast Nat.cast_div_le (α := ℝ)
  have hq2 : (t : ℝ) * (x / 2 ^ fixBits) < (t * x / 2 ^ fixBits : Nat) + 1 := by
    rw [← mul_div_assoc]; exact_mod_cast cast_div_lt (t * x) (2 ^ fixBits)
  generalize t * x / 2 ^ fixBits = q at *
  generalize (x : ℝ) / 2 ^ fixBits = X at *
  have hr1 : ((q / (k + 1) : Nat) : ℝ) ≤ q / (k + 1) := by exact_mod_cast Nat.cast_div_le (α := ℝ)
  have hr2 : (q : ℝ) / (k + 1) < (q / (k + 1) : Nat) + 1 := by exact_mod_cast cast_div_lt q (k + 1)
  have h3 : (q : ℝ) ≤ T * X := hq1.trans (mul_le_mul_of_nonneg_right h1 hX0)
  have h4 : T * X ≤ q + (d + 1) := by
    have := mul_le_mul_of_nonneg_right h2 hX0
    have : (d : ℝ) * X ≤ d := mul_le_of_le_one_right d.cast_nonneg hX1
    linarith
  constructor
  · exact hr1.trans (by gcongr)
  · have h5 : T * X / (k + 1) ≤ q / (k + 1) + (d + 1) := by
      rw [div_add' _ _ _ (by positivity)]
      gcongr
      have : (d + 1 : ℝ) ≤ (d + 1) * (k + 1) := le_mul_of_one_le_right (by positivity) hk
      linarith
    push_cast
    linarith

theorem expFrom_bounds (n k t x d : Nat) (T : ℝ) (hx : x ≤ 2 ^ fixBits) (h1 : t ≤ T) (h2 : T ≤ t + d) :
    expFrom n k t x ≤ expSum n k T (x / 2 ^ fixBits) ∧
      expSum n k T (x / 2 ^ fixBits) ≤ expFrom n k t x + (n * (d + 2 * n) : Nat) := by
  induction n generalizing k t T d with
  | zero => simp [expFrom, expSum]
  | succ n ih =>
    obtain ⟨ht1, ht2⟩ := expTerm_bounds (k := k) hx h1 h2
    obtain ⟨i1, i2⟩ := ih (k + 1) _ (d + 2) _ ht1 ht2
    rw [expSum_succ, expFrom]
    push_cast at *
    constructor
    · linarith
    · nlinarith [n.cast_nonneg (α := ℝ)]

theorem expSum_zero (n : Nat) (T X : ℝ) : expSum n 0 T X = T * ∑ j ∈ range n, X ^ j / j.factorial := by
  simp [expSum, mul_sum]

/-- The exponential function in fixed point. -/
theorem expFrom_exp {x : Nat} (hx : x ≤ 2 ^ fixBits) :
    (expFrom 90 0 (2 ^ fixBits) x : ℝ) ≤ 2 ^ fixBits * Real.exp (x / 2 ^ fixBits) ∧
      2 ^ fixBits * Real.exp (x / 2 ^ fixBits) ≤ expFrom 90 0 (2 ^ fixBits) x + 16201 := by
  have hP := fixOne_pos
  have hX0 : (0 : ℝ) ≤ x / 2 ^ fixBits := by positivity
  have hX1 : (x : ℝ) / 2 ^ fixBits ≤ 1 := (div_le_one hP).2 (by exact_mod_cast hx)
  obtain ⟨h1, h2⟩ := expFrom_bounds 90 0 (2 ^ fixBits) x 0 (2 ^ fixBits) hx (by simp) (by simp)
  rw [expSum_zero] at h1 h2
  have hlo := Real.sum_le_exp_of_nonneg hX0 90
  have hhi := Real.exp_bound' hX0 hX1 (n := 90) (by norm_num)
  have hpow : ((x : ℝ) / 2 ^ fixBits) ^ 90 ≤ 1 := pow_le_one₀ hX0 hX1
  have htail : (2 : ℝ) ^ fixBits * (1 * ((90 : Nat) + 1) / ((Nat.factorial 90) * (90 : Nat))) ≤ 1 := by
    rw [fixOne_eq]; norm_num [Nat.factorial]
  have htail' : ((x : ℝ) / 2 ^ fixBits) ^ 90 * ((90 : Nat) + 1) / ((Nat.factorial 90) * (90 : Nat)) ≤
      1 * ((90 : Nat) + 1) / ((Nat.factorial 90) * (90 : Nat)) := by gcongr
  generalize ∑ j ∈ range 90, ((x : ℝ) / 2 ^ fixBits) ^ j / j.factorial = S at *
  generalize ((x : ℝ) / 2 ^ fixBits) ^ 90 * ((90 : Nat) + 1) / ((Nat.factorial 90) * (90 : Nat)) = r at *
  generalize 1 * (((90 : Nat) : ℝ) + 1) / ((Nat.factorial 90) * (90 : Nat)) = r' at *
  have h3 := mul_le_mul_of_nonneg_left hlo hP.le
  have h4 := mul_le_mul_of_nonneg_left (hhi.trans (add_le_add_right htail' S)) hP.le
  push_cast at *
  constructor <;> linarith

/-- 2^y IN FIXED POINT. -/
theorem exp2Fix_bounds {y : Nat} (hy : y < 2 ^ fixBits) :
    (exp2Fix y : ℝ) ≤ 2 ^ fixBits * (2 : ℝ) ^ ((y : ℝ) / 2 ^ fixBits) ∧
      2 ^ fixBits * (2 : ℝ) ^ ((y : ℝ) / 2 ^ fixBits) ≤ exp2Fix y + 2 ^ 20 := by
  have hP := fixOne_pos
  obtain ⟨hl1, hl2⟩ := ln2Fix_bounds
  have hlog : Real.log 2 ≤ 1 := by have := Real.log_two_lt_d9; linarith
  have hlog0 := Real.log_pos one_lt_two
  have hy' : (y : ℝ) < 2 ^ fixBits := by exact_mod_cast hy
  have hq1 : ((y * ln2Fix / 2 ^ fixBits : Nat) : ℝ) ≤ y * (ln2Fix / 2 ^ fixBits) := by
    rw [← mul_div_assoc]; exact_mod_cast Nat.cast_div_le (α := ℝ)
  have hq2 : (y : ℝ) * (ln2Fix / 2 ^ fixBits) < (y * ln2Fix / 2 ^ fixBits : Nat) + 1 := by
    rw [← mul_div_assoc]; exact_mod_cast cast_div_lt (y * ln2Fix) (2 ^ fixBits)
  unfold exp2Fix
  generalize y * ln2Fix / 2 ^ fixBits = x at *
  -- the exponent in fixed point
  have hx1 : (x : ℝ) ≤ y * Real.log 2 := by
    refine hq1.trans (mul_le_mul_of_nonneg_left ?_ y.cast_nonneg)
    rw [div_le_iff₀ hP]; linarith
  have hx2 : y * Real.log 2 ≤ x + 652 := by
    have h1 : Real.log 2 ≤ ln2Fix / 2 ^ fixBits + 651 / 2 ^ fixBits := by
      rw [← add_div, le_div_iff₀ hP]; linarith
    have h2 := mul_le_mul_of_nonneg_left h1 (y.cast_nonneg (α := ℝ))
    have h3 : (y : ℝ) * (651 / 2 ^ fixBits) ≤ 651 := by
      rw [mul_div_assoc', div_le_iff₀ hP]; nlinarith
    linarith
  have hxP : x ≤ 2 ^ fixBits := by
    have : (x : ℝ) ≤ 2 ^ fixBits := hx1.trans (by nlinarith)
    exact_mod_cast this
  obtain ⟨e1, e2⟩ := expFrom_exp hxP
  generalize expFrom 90 0 (2 ^ fixBits) x = F at *
  have hz : (2 : ℝ) ^ ((y : ℝ) / 2 ^ fixBits) = Real.exp (y * Real.log 2 / 2 ^ fixBits) := by
    rw [Real.rpow_def_of_pos two_pos]; congr 1; ring
  have hz2 : Real.exp (y * Real.log 2 / 2 ^ fixBits) ≤ 2 := by
    rw [← hz]
    calc (2 : ℝ) ^ ((y : ℝ) / 2 ^ fixBits) ≤ 2 ^ (1 : ℝ) :=
          Real.rpow_le_rpow_of_exponent_le one_le_two ((div_le_one hP).2 hy'.le)
      _ = 2 := Real.rpow_one 2
  have hle : Real.exp (x / 2 ^ fixBits) ≤ Real.exp (y * Real.log 2 / 2 ^ fixBits) := Real.exp_le_exp.2 (by gcongr)
  have hge : Real.exp (y * Real.log 2 / 2 ^ fixBits) * (1 + (x / 2 ^ fixBits - y * Real.log 2 / 2 ^ fixBits)) ≤
      Real.exp (x / 2 ^ fixBits) := by
    have h := Real.add_one_le_exp (x / 2 ^ fixBits - y * Real.log 2 / 2 ^ fixBits)
    rw [Real.exp_sub, le_div_iff₀ (Real.exp_pos _)] at h
    linarith
  rw [hz]
  have hd : (2 : ℝ) ^ fixBits * (x / 2 ^ fixBits - y * Real.log 2 / 2 ^ fixBits) = x - y * Real.log 2 := by
    field_simp
  have hE0 := Real.exp_pos (y * Real.log 2 / 2 ^ fixBits)
  generalize Real.exp (y * Real.log 2 / 2 ^ fixBits) = E at *
  generalize Real.exp (x / 2 ^ fixBits) = E' at *
  constructor
  · exact e1.trans (mul_le_mul_of_nonneg_left hle hP.le)
  · have h5 := mul_le_mul_of_nonneg_left hge hP.le
    have h6 : (2 : ℝ) ^ fixBits * (E * (1 + (x / 2 ^ fixBits - y * Real.log 2 / 2 ^ fixBits))) =
        2 ^ fixBits * E + E * (x - y * Real.log 2) := by rw [← hd]; ring
    have h7 : -(2 * 652) ≤ E * (x - y * Real.log 2) := by nlinarith
    norm_num
    linarith

theorem le_expFrom (n k t x : Nat) : t ≤ expFrom (n + 1) k t x := Nat.le_add_right _ _

theorem le_exp2Fix (y : Nat) {n : Nat} (h : n ≤ fixBits) : 2 ^ n ≤ exp2Fix y :=
  (pow_le_pow_right₀ one_le_two h).trans (le_expFrom 89 0 _ _)

/-! ## The logarithm by repeated squaring -/

theorem logb_sub_le {A B : ℝ} (hB : 1 ≤ B) (hAB : B ≤ A) : Real.logb 2 A - Real.logb 2 B ≤ 2 * (A - B) := by
  have hB0 : 0 < B := by linarith
  have hA0 : 0 < A := by linarith
  have hl := Real.log_two_gt_d9
  rw [← Real.logb_div hA0.ne' hB0.ne', Real.logb, div_le_iff₀ (by linarith)]
  have h1 := Real.log_le_sub_one_of_pos (div_pos hA0 hB0)
  have h2 : A / B - 1 ≤ A - B := by
    rw [div_sub_one hB0.ne']
    exact div_le_self (by linarith) hB
  nlinarith

/-- What a logarithm loses where its operand is cut to a multiple of 2^b parts of `P`. -/
theorem logb_cut {W P y : ℝ} {b : Nat} (hP : 0 < P) (h1 : P ≤ y) (h2 : y * 2 ^ b ≤ W) (h3 : W ≤ (y + 1) * 2 ^ b) :
    b + Real.logb 2 (y / P) ≤ Real.logb 2 (W / P) ∧ Real.logb 2 (W / P) ≤ b + Real.logb 2 (y / P) + 2 / P := by
  have hb : (0 : ℝ) < 2 ^ b := by positivity
  have hy : y ≤ W / 2 ^ b := (le_div_iff₀ hb).2 h2
  have hy' : W / 2 ^ b ≤ y + 1 := (div_le_iff₀ hb).2 h3
  have hW : Real.logb 2 (W / P) = b + Real.logb 2 (W / 2 ^ b / P) := by
    have hpos : W / 2 ^ b / P ≠ 0 := (div_pos (by linarith) hP).ne'
    have hlog : Real.logb 2 ((2 : ℝ) ^ b) = b := by rw [← Real.rpow_natCast, Real.logb_rpow two_pos (by norm_num)]
    have hmul : W / P = 2 ^ b * (W / 2 ^ b / P) := by field_simp
    rw [hmul, Real.logb_mul hb.ne' hpos, hlog]
  have hB : 1 ≤ y / P := (one_le_div hP).2 h1
  have hAB : y / P ≤ W / 2 ^ b / P := by gcongr
  have hd : W / 2 ^ b / P - y / P ≤ 1 / P := by rw [← sub_div]; gcongr; linarith
  have hsub := logb_sub_le hB hAB
  have hmono := Real.logb_le_logb_of_le (one_lt_two (α := ℝ)) (by linarith) hAB
  rw [hW]
  constructor
  · linarith
  · have : 2 / P = 2 * (1 / P) := by ring
    linarith

/-- One squaring: the bit that it yields, and what the truncation loses. -/
theorem log2_step {P y b y' : Nat} (h1 : P ≤ y) (h2 : y < 2 * P) (hb : y * y / P / 2 ^ b = y')
    (hy1 : P ≤ y') :
    b + Real.logb 2 (y' / P) ≤ 2 * Real.logb 2 (y / P) ∧
      2 * Real.logb 2 (y / P) ≤ b + Real.logb 2 (y' / P) + 2 / P := by
  have hP : (0 : ℝ) < P := by exact_mod_cast (by omega : 0 < P)
  have hsq : 2 * Real.logb 2 ((y : ℝ) / P) = Real.logb 2 ((y * y : ℝ) / P / P) := by
    rw [← Nat.cast_ofNat, ← Real.logb_pow]; congr 1; field_simp
  rw [hsq]
  rw [Nat.div_div_eq_div_mul] at hb
  have hlo : (y' : ℝ) ≤ (y * y : Nat) / (P * 2 ^ b : Nat) := hb ▸ Nat.cast_div_le
  have hhi : ((y * y : Nat) : ℝ) / (P * 2 ^ b : Nat) < y' + 1 := hb ▸ cast_div_lt ..
  have hD : ((y * y : Nat) : ℝ) / (P * 2 ^ b : Nat) = (y * y : ℝ) / P / 2 ^ b := by push_cast; rw [div_div]
  rw [hD] at hlo hhi
  have hb0 : (0 : ℝ) < 2 ^ b := by positivity
  exact logb_cut hP (by exact_mod_cast hy1) ((le_div_iff₀ hb0).1 hlo) ((div_lt_iff₀ hb0).1 hhi).le

/-- The squaring of a number in [1, 2), with its bit. -/
theorem log2From_succ (n y acc : Nat) (h1 : 2 ^ fixBits ≤ y) (h2 : y < 2 * 2 ^ fixBits) :
    ∃ b y', log2From (n + 1) y acc = log2From n y' (2 * acc + b) ∧ 2 ^ fixBits ≤ y' ∧ y' < 2 * 2 ^ fixBits ∧
      y * y / 2 ^ fixBits / 2 ^ b = y' := by
  have hp := Nat.two_pow_pos fixBits
  have hz1 : 2 ^ fixBits ≤ y * y / 2 ^ fixBits := (Nat.le_div_iff_mul_le hp).2 (Nat.mul_le_mul h1 h1)
  have hz2 : y * y / 2 ^ fixBits < 4 * 2 ^ fixBits := (Nat.div_lt_iff_lt_mul hp).2 (by nlinarith)
  have hrec : log2From (n + 1) y acc = if 2 * 2 ^ fixBits ≤ y * y / 2 ^ fixBits then
      log2From n (y * y / 2 ^ fixBits / 2) (2 * acc + 1) else log2From n (y * y / 2 ^ fixBits) (2 * acc) := by
    rw [log2From, Nat.pow_succ, Nat.mul_comm _ 2]
  rw [hrec]
  split_ifs with hz
  · exact ⟨1, _, rfl, by omega, by omega, rfl⟩
  · exact ⟨0, _, rfl, hz1, by omega, Nat.div_one _⟩

/-- log2 y IN FIXED POINT. -/
theorem log2From_bounds (n y acc : Nat) (h1 : 2 ^ fixBits ≤ y) (h2 : y < 2 * 2 ^ fixBits) :
    (log2From n y acc : ℝ) ≤ 2 ^ n * (acc + Real.logb 2 (y / (2 ^ fixBits : Nat))) ∧
      2 ^ n * (acc + Real.logb 2 (y / (2 ^ fixBits : Nat))) < log2From n y acc + 1 + (2 ^ n - 1) * (2 / (2 ^ fixBits : Nat)) := by
  induction n generalizing y acc with
  | zero =>
    have hP : (0 : ℝ) < (2 ^ fixBits : Nat) := by positivity
    have hy : (0 : ℝ) < y := by exact_mod_cast (Nat.two_pow_pos fixBits).trans_le h1
    have hlo : 0 ≤ Real.logb 2 (y / (2 ^ fixBits : Nat)) :=
      Real.logb_nonneg one_lt_two ((one_le_div hP).2 (by exact_mod_cast h1))
    have hhi : Real.logb 2 (y / (2 ^ fixBits : Nat)) < 1 := by
      rw [Real.logb_lt_iff_lt_rpow one_lt_two (div_pos hy hP), Real.rpow_one, div_lt_iff₀ hP]
      exact_mod_cast h2
    simp only [log2From, pow_zero, one_mul, sub_self, zero_mul, add_zero]
    constructor <;> linarith
  | succ n ih =>
    obtain ⟨b, y', hrec, hy1, hy2, hb⟩ := log2From_succ n y acc h1 h2
    obtain ⟨s1, s2⟩ := log2_step h1 h2 hb hy1
    obtain ⟨i1, i2⟩ := ih y' (2 * acc + b) hy1 hy2
    have hn : (0 : ℝ) < 2 ^ n := by positivity
    rw [hrec, pow_succ]
    push_cast at *
    generalize Real.logb 2 ((y : ℝ) / 2 ^ fixBits) = L at *
    generalize Real.logb 2 ((y' : ℝ) / 2 ^ fixBits) = L' at *
    have t1 := mul_le_mul_of_nonneg_left s1 hn.le
    have t2 := mul_le_mul_of_nonneg_left s2 hn.le
    constructor <;> nlinarith

end Sys2Proof.Machine

/-! What VFEXP2 delivers (R86, R87). -/

namespace Sys2Proof.Machine

open Sys2Proof.Claims

/-! ## The numbers of FP32 -/

theorem fp32_unpack_num {x : Nat} {s : Bool} {m : Nat} {e : Int} (h : fp32.unpack x = .num s m e) : m < 2 ^ 24 ∧ -149 ≤ e := by
  have hm : x % 2 ^ 23 < 2 ^ 23 := Nat.mod_lt _ (by decide)
  unfold FpFmt.unpack at h
  dsimp only at h
  split_ifs at h
  · obtain ⟨-, rfl, rfl⟩ := FpVal.num.inj h
    exact ⟨hm.trans (by decide), by decide⟩
  · obtain ⟨-, rfl, rfl⟩ := FpVal.num.inj h
    constructor
    · show 2 ^ 23 + x % 2 ^ 23 < 2 ^ 24
      omega
    · show -149 ≤ ((x / 2 ^ 23 % 2 ^ 8 : Nat) : Int) - 127 - 23
      have h0 : ¬ x / 2 ^ 23 % 2 ^ 8 = 0 := ‹_›
      omega

/-- No number of FP32 needs an odd mantissa of more than 24 bits. -/
theorem valueOf_ne_odd (r : Nat) {M : Int} (e : Int) (hodd : M % 2 = 1) (hbig : 2 ^ 24 ≤ M.natAbs) :
    valueOf fp32 r ≠ some (M * (2 : ℝ) ^ e) := by
  intro h
  obtain ⟨-, hv⟩ := FpFmt.valueOf_eq_some h
  obtain ⟨j, n, hk, hn, hj⟩ := exists_code 23 (r % fp32.signBit)
  have hg : fp32.grid (r % fp32.signBit) = multiples (-149 + j) n := by rw [hk]; exact magnitude_add hn.le hj
  have habs : (M.natAbs : ℝ) * (2 : ℝ) ^ e = n * (2 : ℝ) ^ (-149 + j : Int) := by
    have := congrArg abs hv
    rwa [abs_withSign, abs_of_nonneg (FpFmt.grid_nonneg _), hg, abs_mul, abs_of_pos (two_zpow_pos e), ← Int.cast_abs,
      Int.abs_eq_natAbs] at this
  generalize (-149 + j : Int) = q at *
  have hsplit (a b : Int) (h : a ≤ b) : (2 : ℝ) ^ b = (2 ^ (b - a).toNat : Nat) * (2 : ℝ) ^ a := by
    rw [Nat.cast_pow, Nat.cast_ofNat, ← zpow_natCast, ← zpow_add₀ two_ne_zero]; congr 1; omega
  rcases le_or_gt q e with hq | hq
  · rw [hsplit q e hq, ← mul_assoc, mul_left_inj' (two_zpow_pos q).ne'] at habs
    have hnat : M.natAbs * 2 ^ (e - q).toNat = n := by exact_mod_cast habs
    have := Nat.le_mul_of_pos_right M.natAbs (Nat.two_pow_pos (e - q).toNat)
    omega
  · rw [hsplit e q hq.le, ← mul_assoc, mul_left_inj' (two_zpow_pos e).ne'] at habs
    have hnat : M.natAbs = n * 2 ^ (q - e).toNat := by exact_mod_cast habs
    obtain ⟨d, hd⟩ : ∃ d, (q - e).toNat = d + 1 := ⟨(q - e).toNat - 1, by omega⟩
    rw [hd, Nat.pow_succ, ← Nat.mul_assoc] at hnat
    omega

/-- A delivered odd mantissa of more than 24 bits is inexact. -/
theorem RoundedOnce.inexact {rm : Rm} {r : Nat × FpFlags} {M e : Int} (h : RoundedOnce fp32 rm r (M * (2 : ℝ) ^ e))
    (hodd : M % 2 = 1) (hbig : 2 ^ 24 ≤ M.natAbs) : r.2.getLsbD 4 = true := by
  obtain ⟨-, -, -, -, -, hnx⟩ := h
  exact hnx.2 (valueOf_ne_odd r.1 e hodd hbig)

/-- The powers of two of FP32. -/
theorem fp32_pow_mem {n : Int} (h1 : -149 ≤ n) (h2 : n ≤ 127) : ∃ k < fp32.infBits, fp32.grid k = (2 : ℝ) ^ n := by
  obtain ⟨k, hk⟩ := exists_magnitude_eq (t := 23) (emin := fp32.emin) (q := n) (n := 1) (by decide) h1
  have hk' : fp32.grid k = (2 : ℝ) ^ n := hk.trans (by simp [multiples])
  refine ⟨k, ?_, hk'⟩
  rw [← FpFmt.strictMono_grid.lt_iff_lt, hk', FpFmt.grid_infBits fp32_usual]
  exact zpow_lt_zpow_right₀ one_lt_two (by change n < 128; omega)

/-! ## Results far outside the range -/

/-- Every number above zero is rounded on the grid of a format. -/
theorem FpFmt.exists_roundsOn (f : FpFmt) (rm : Rm) (s : Bool) {x : ℝ} (hx : 0 < x) : ∃ b i, RoundsOn f.grid rm s x b i := by
  have hex : ∃ n, x < f.grid n := by
    obtain ⟨j, hj⟩ := pow_unbounded_of_one_lt (x * (2 : ℝ) ^ (-f.emin)) one_lt_two
    refine ⟨(j + 1) * 2 ^ f.fw, ?_⟩
    rw [FpFmt.grid, magnitude_mul_pow, zpow_add₀ two_ne_zero, zpow_natCast]
    rwa [zpow_neg, ← div_eq_mul_inv, div_lt_iff₀ (two_zpow_pos _), mul_comm] at hj
  classical
  obtain ⟨n, hn⟩ : ∃ n, Nat.find hex = n + 1 := by
    refine ⟨Nat.find hex - 1, ?_⟩
    have : Nat.find hex ≠ 0 := fun h0 => by
      have h := Nat.find_spec hex
      rw [h0, FpFmt.grid_zero] at h
      exact absurd hx (not_lt.2 h.le)
    omega
  have hlo : f.grid n ≤ x := not_lt.1 (Nat.find_min hex (by omega))
  have hhi : x < f.grid (n + 1) := hn ▸ Nat.find_spec hex
  by_cases ha : RoundsAway rm s (f.grid n) (f.grid (n + 1)) x n
  · exact ⟨n + 1, decide (x ≠ f.grid n), n, hlo, hhi, decide_eq_true_iff, .inl ⟨ha, rfl⟩⟩
  · exact ⟨n, decide (x ≠ f.grid n), n, hlo, hhi, decide_eq_true_iff, .inr ⟨ha, rfl⟩⟩

section
variable {f : FpFmt} {rm : Rm} (hf : f.Usual) (hrm : ∀ k, rm ≠ .stoch k) (s : Bool) {x z : ℝ}
include hf hrm

/-- All numbers beyond the range are delivered alike. -/
theorem rounds_above {m : Nat} (hm : 0 < m) {e : Int} (hm' : f.grid f.infBits ≤ m * (2 : ℝ) ^ e) (hx : f.grid f.infBits ≤ x) :
    Rounds f rm (withSign s x) (f.round rm s m e).1 := by
  have hinf : 0 < f.grid f.infBits := by rw [FpFmt.grid_infBits hf]; exact two_zpow_pos _
  have hs : Suffices rm f.fw m e (m * (2 : ℝ) ^ e) := .inl ⟨rfl, fun k hk => absurd hk (hrm k)⟩
  have hr : RoundsOn f.grid .. := roundFw_magnitude (emin := f.emin) s (standsFor_self m e) hm hs hf.2
  obtain ⟨b, i, hb⟩ := f.exists_roundsOn rm s (hinf.trans_le hx)
  have h := FpFmt.rounds_patternOf hf (hinf.trans_le hx) hb hrm
  rw [FpFmt.patternOf_of_le ((FpFmt.infBits_le_iff hf hb).2 (.inl hx))] at h
  rwa [FpFmt.round_eq, FpFmt.patternOf_of_le ((FpFmt.infBits_le_iff hf hr).2 (.inl hm'))]

/-- All numbers below half the least one are delivered alike. -/
theorem rounds_below {m : Nat} (hm : 0 < m) {e : Int} (hm' : 2 * (m * (2 : ℝ) ^ e) < f.grid 1) (hx0 : 0 < x)
    (hx : 2 * x < f.grid 1) : Rounds f rm (withSign s x) (f.round rm s m e).1 := by
  have hs : Suffices rm f.fw m e (m * (2 : ℝ) ^ e) := .inl ⟨rfl, fun k hk => absurd hk (hrm k)⟩
  have hr : RoundsOn f.grid .. := roundFw_magnitude (emin := f.emin) s (standsFor_self m e) hm hs hf.2
  have hz := (standsFor_self m e).pos hm
  rw [FpFmt.round_eq]
  refine FpFmt.rounds_patternOf hf hx0 (i := true) ?_ hrm
  generalize (roundFw f.fw f.emin rm s m e).code f.fw f.emin = b at *
  obtain ⟨n, hlo, hhi, -, hb⟩ := hr
  obtain rfl : n = 0 := by
    have := FpFmt.strictMono_grid.lt_iff_lt.1 (hlo.trans_lt (by linarith : _ < f.grid 1))
    omega
  have haway : RoundsAway rm s (f.grid 0) (f.grid (0 + 1)) (m * (2 : ℝ) ^ e) 0 ↔
      RoundsAway rm s (f.grid 0) (f.grid (0 + 1)) x 0 := by
    rw [FpFmt.grid_zero] at *
    cases rm with
    | near => exact iff_of_false (by simp only [RoundsAway]; grind) (by simp only [RoundsAway]; grind)
    | zero => exact Iff.rfl
    | up | down => exact and_congr_right' (iff_of_true hz.ne' hx0.ne')
    | stoch k => exact absurd rfl (hrm k)
  rw [haway] at hb
  exact ⟨0, by simpa using hx0.le, by simp only [Nat.zero_add]; linarith, by simpa using hx0.ne', hb⟩

end

/-! ## 2^a -/

/-- An operand in the range of the fixed point: its integer and its fraction. -/
theorem exp2V_fixed (f : FpFmt) (rm : Rm) (s : Bool) {m : Nat} {e : Int} (he : -384 ≤ e) (hsmall : m = 0 ∨ dyadicLog m e ≤ 12) :
    ∃ (i : Int) (y : Nat), y < 2 ^ fixBits ∧ withSign s (m * (2 : ℝ) ^ e) = i + y / (2 ^ fixBits : Nat) ∧
      f.exp2V rm (.num s m e) =
        if y = 0 then f.round rm false 1 i else f.round rm false (2 * exp2Fix y + 1) (i - fixBits - 1) := by
  have hP : 0 < 2 ^ fixBits := Nat.two_pow_pos _
  unfold FpFmt.exp2V
  dsimp only
  rcases Nat.eq_zero_or_pos m with rfl | hm
  · exact ⟨0, 0, hP, by simp, by simp⟩
  rw [if_neg hm.ne', if_neg (by simpa using hsmall.resolve_left hm.ne')]
  have hv : withSign s (m * (2 : ℝ) ^ e) = ((if s then -((m * 2 ^ (e + fixBits).toNat : Nat) : Int) else
      ((m * 2 ^ (e + fixBits).toNat : Nat) : Int) : Int) : ℝ) / (2 ^ fixBits : Nat) := by
    have hpow : (2 : ℝ) ^ e = ((2 ^ (e + fixBits).toNat : Nat) : ℝ) / (2 ^ fixBits : Nat) := by
      rw [eq_div_iff (by positivity), Nat.cast_pow, Nat.cast_pow, Nat.cast_ofNat, ← zpow_natCast, ← zpow_natCast,
        ← zpow_add₀ two_ne_zero]
      congr 1
      have : (fixBits : Int) = 384 := rfl
      omega
    rw [hpow]
    cases s
    · rw [withSign_false, if_neg Bool.false_ne_true, Int.cast_natCast, Nat.cast_mul, mul_div_assoc]
    · rw [withSign_true, if_pos rfl, Int.cast_neg, Int.cast_natCast, Nat.cast_mul, neg_div, mul_div_assoc]
  generalize (if s then -((m * 2 ^ (e + fixBits).toNat : Nat) : Int) else ((m * 2 ^ (e + fixBits).toNat : Nat) : Int)) = X at *
  have hmod0 := Int.emod_nonneg X (b := (2 ^ fixBits : Nat)) (by exact_mod_cast hP.ne')
  have hmod1 := Int.emod_lt_of_pos X (b := (2 ^ fixBits : Nat)) (by exact_mod_cast hP)
  refine ⟨X / (2 ^ fixBits : Nat), (X % (2 ^ fixBits : Nat)).toNat, by omega, ?_, rfl⟩
  have hdm := Int.mul_ediv_add_emod X (2 ^ fixBits : Nat)
  have hy : (((X % (2 ^ fixBits : Nat)).toNat : Nat) : ℝ) = ((X % (2 ^ fixBits : Nat) : Int) : ℝ) := by
    exact_mod_cast Int.toNat_of_nonneg hmod0
  have hP' : ((2 ^ fixBits : Nat) : ℝ) ≠ 0 := by positivity
  rw [hv, hy, div_eq_iff hP', add_mul, div_mul_cancel₀ _ hP']
  generalize X % (2 ^ fixBits : Nat) = R at *
  generalize X / (2 ^ fixBits : Nat) = Q at *
  rw [← hdm]
  push_cast
  ring

/-- The number that an inexact 2^a delivers. -/
theorem exp2_close {y : Nat} (hy : y < 2 ^ fixBits) (i : Int) :
    |((2 * exp2Fix y + 1 : Nat) : Int) * (2 : ℝ) ^ (i - fixBits - 1) - (2 : ℝ) ^ ((i : ℝ) + y / (2 ^ fixBits : Nat))| ≤
      (2 : ℝ) ^ ((i : ℝ) + y / (2 ^ fixBits : Nat)) / 2 ^ 100 := by
  obtain ⟨h1, h2⟩ := exp2Fix_bounds hy
  have hP := fixOne_pos
  have hi := two_zpow_pos i
  have hE : 1 ≤ (2 : ℝ) ^ ((y : ℝ) / 2 ^ fixBits) := Real.one_le_rpow one_le_two (by positivity)
  have hP100 : (2 : ℝ) ^ 20 ≤ 2 ^ fixBits / 2 ^ 100 := by rw [fixOne_eq]; norm_num
  have hpow : (2 : ℝ) ^ (i - fixBits - 1) = 2 ^ i / (2 ^ fixBits * 2) := by
    rw [zpow_sub_one₀ two_ne_zero, zpow_sub₀ two_ne_zero, zpow_natCast]; field_simp
  rw [Real.rpow_add two_pos, Real.rpow_intCast, hpow, cast_fixOne]
  generalize (2 : ℝ) ^ ((y : ℝ) / 2 ^ fixBits) = E at *
  generalize exp2Fix y = F at *
  have hdiff : (((2 * F + 1 : Nat) : Int) : ℝ) * (2 ^ i / (2 ^ fixBits * 2)) - 2 ^ i * E =
      2 ^ i * (F + 1 / 2 - 2 ^ fixBits * E) / 2 ^ fixBits := by push_cast; field_simp
  rw [hdiff, abs_div, abs_mul, abs_of_pos hi, abs_of_pos hP, div_le_iff₀ hP, mul_div_assoc, mul_assoc]
  refine mul_le_mul_of_nonneg_left ?_ hi.le
  have h3 : E / 2 ^ 100 * 2 ^ fixBits = E * (2 ^ fixBits / 2 ^ 100) := by ring
  rw [h3]
  have h4 : (2 : ℝ) ^ fixBits / 2 ^ 100 ≤ E * (2 ^ fixBits / 2 ^ 100) := le_mul_of_one_le_left (by positivity) hE
  rw [abs_le]
  constructor <;> linarith

/-- WHAT VFEXP2 SAYS OF A NUMBER `a`: the clauses of R86. -/
structure Exp2Delivers (rm : Rm) (a : ℝ) (r : Nat × FpFlags) : Prop where
  close : ∃ y, |y - (2 : ℝ) ^ a| ≤ |(2 : ℝ) ^ a| / 2 ^ 100 ∧ Rounds fp32 rm y r.1
  exact_ : ∀ n : Int, a = n → -149 ≤ n → n ≤ 127 → valueOf fp32 r.1 = some ((2 : ℝ) ^ n) ∧ r.2 = 0
  inexact : (∀ n : Int, a ≠ n) → r.2.getLsbD 4 = true

section
variable {rm : Rm} (hrm : ∀ k, rm ≠ .stoch k)
include hrm

theorem exp2_round_pow (n : Int) : RoundedOnce fp32 rm (fp32.round rm false 1 n) ((2 : ℝ) ^ n) := by
  simpa using round_exact fp32_usual hrm false one_pos n

theorem exp2Delivers_int (i : Int) : Exp2Delivers rm i (fp32.round rm false 1 i) where
  close := ⟨(2 : ℝ) ^ i, by rw [Real.rpow_intCast, sub_self, abs_zero]; positivity, (exp2_round_pow hrm i).1⟩
  exact_ n hn h1 h2 := by
    obtain rfl : i = n := by exact_mod_cast hn
    obtain ⟨k, hk, hg⟩ := fp32_pow_mem h1 h2
    rw [round_of_grid false fp32_usual hrm one_pos (by rw [hg, Nat.cast_one, one_mul]) hk]
    exact ⟨by rw [FpFmt.valueOf_signed hk, hg, withSign_false], rfl⟩
  inexact h := absurd rfl (h i)

theorem exp2Delivers_fraction (i : Int) {y : Nat} (h0 : y ≠ 0) (hy : y < 2 ^ fixBits) :
    Exp2Delivers rm (i + y / (2 ^ fixBits : Nat)) (fp32.round rm false (2 * exp2Fix y + 1) (i - fixBits - 1)) := by
  have hr := round_exact fp32_usual hrm false (Nat.succ_pos (2 * exp2Fix y)) (i - fixBits - 1)
  have hbig := le_exp2Fix y (show 24 ≤ fixBits by decide)
  have hP : (0 : ℝ) < (2 ^ fixBits : Nat) := by positivity
  refine ⟨⟨_, ?_, hr.1⟩, fun n hn => ?_, fun _ => ?_⟩
  · have h := exp2_close hy i
    rw [abs_of_pos (Real.rpow_pos_of_pos two_pos _)]
    exact_mod_cast h
  · have hn' : (y : ℝ) / (2 ^ fixBits : Nat) = ((n - i : Int) : ℝ) := by push_cast; push_cast at hn; linarith
    have hpos : (0 : ℝ) < (y : ℝ) / (2 ^ fixBits : Nat) := div_pos (by exact_mod_cast Nat.pos_of_ne_zero h0) hP
    have hlt : (y : ℝ) / (2 ^ fixBits : Nat) < 1 := (div_lt_one hP).2 (by exact_mod_cast hy)
    rw [hn'] at hpos hlt
    have h1 : 0 < n - i := by exact_mod_cast hpos
    have h2 : n - i < 1 := by exact_mod_cast hlt
    omega
  · exact RoundedOnce.inexact (M := (2 * exp2Fix y + 1 : Nat)) (e := i - fixBits - 1) (by exact_mod_cast hr) (by omega) (by omega)

/-- Far outside the range every result is that of 2^±8192. -/
theorem exp2Delivers_big (s : Bool) {x : ℝ} (hx : 2 ^ 13 ≤ x) :
    Exp2Delivers rm (withSign s x) (fp32.round rm false 1 (if s then -8192 else 8192)) where
  close := by
    refine ⟨_, by rw [sub_self, abs_zero]; positivity, ?_⟩
    have hinf : fp32.grid fp32.infBits = (2 : ℝ) ^ (128 : Int) := by rw [FpFmt.grid_infBits fp32_usual]; norm_num [fp32]
    have hone : fp32.grid 1 = (2 : ℝ) ^ (-149 : Int) := by
      norm_num [FpFmt.grid, magnitude, multiples, fp32, FpFmt.emin, FpFmt.bias]
    have hpow (n : Int) {t : ℝ} (h : (n : ℝ) ≤ t) : (2 : ℝ) ^ n ≤ 2 ^ t := by
      rw [← Real.rpow_intCast]; exact Real.rpow_le_rpow_of_exponent_le one_le_two h
    have hpow' (n : Int) {t : ℝ} (h : t ≤ n) : (2 : ℝ) ^ t ≤ 2 ^ n := by
      rw [← Real.rpow_intCast]; exact Real.rpow_le_rpow_of_exponent_le one_le_two h
    have hdouble : 2 * (2 : ℝ) ^ (-151 : Int) < 2 ^ (-149 : Int) := by norm_num
    cases s with
    | false =>
      refine rounds_above fp32_usual hrm false one_pos ?_ ?_ (x := 2 ^ x) <;> rw [hinf]
      · rw [Nat.cast_one, one_mul]; exact zpow_le_zpow_right₀ one_le_two (by decide)
      · exact hpow _ (by norm_num at hx ⊢; linarith)
    | true =>
      refine rounds_below fp32_usual hrm false one_pos ?_ (Real.rpow_pos_of_pos two_pos _) ?_ (x := 2 ^ (-x)) <;> rw [hone]
      · have : (2 : ℝ) ^ (-8192 : Int) ≤ 2 ^ (-151 : Int) := zpow_le_zpow_right₀ one_le_two (by decide)
        rw [Nat.cast_one, one_mul, if_pos rfl]; linarith
      · have : (2 : ℝ) ^ (-x) ≤ 2 ^ (-151 : Int) := hpow' _ (by norm_num at hx ⊢; linarith)
        linarith
  exact_ n hn h1 h2 := by
    have habs : x = |(n : ℝ)| := by rw [← hn, abs_withSign, abs_of_nonneg (by linarith)]
    rw [habs, ← Int.cast_abs] at hx
    have : (2 : Int) ^ 13 ≤ |n| := by exact_mod_cast hx
    rcases abs_cases n with ⟨h, -⟩ | ⟨h, -⟩ <;> omega
  inexact _ := by
    obtain ⟨-, -, -, -, -, hnx⟩ := exp2_round_pow hrm (if s then -8192 else 8192)
    refine hnx.2 fun h => ?_
    obtain ⟨h1, h2⟩ := fp32_bounds h (two_zpow_pos _).ne'
    rw [abs_of_pos (two_zpow_pos _)] at h1 h2
    have h1 := (zpow_le_zpow_iff_right₀ one_lt_two).1 h1
    have h2 := (zpow_lt_zpow_iff_right₀ one_lt_two).1 h2
    split_ifs at h1 h2 <;> omega

/-- WHAT VFEXP2 DELIVERS. -/
theorem exp2Delivers {x : Nat} {a : ℝ} (ha : valueOf fp32 x = some a) : Exp2Delivers rm a (fp32.exp2V rm (fp32.unpack x)) := by
  obtain ⟨m, e, hu, rfl⟩ := FpFmt.unpack_of_valueOf ha
  obtain ⟨-, he⟩ := fp32_unpack_num hu
  rw [hu]
  generalize fp32.isNeg x = s
  by_cases hsmall : m = 0 ∨ dyadicLog m e ≤ 12
  · obtain ⟨i, y, hy, hv, hr⟩ := exp2V_fixed fp32 rm s (by omega) hsmall
    rw [hr, hv]
    split_ifs with h0
    · subst h0
      simpa using exp2Delivers_int hrm i
    · exact exp2Delivers_fraction hrm i h0 hy
  · obtain ⟨hm, hbig⟩ := not_or.1 hsmall
    have hr : fp32.exp2V rm (.num s m e) = fp32.round rm false 1 (if s then -8192 else 8192) := by
      unfold FpFmt.exp2V
      dsimp only
      rw [if_neg hm, if_pos (by simpa using hbig)]
    rw [hr]
    refine exp2Delivers_big hrm s ?_
    calc (2 : ℝ) ^ 13 = 2 ^ (13 : Int) := by norm_num
      _ ≤ 2 ^ (dyadicLog m e) := zpow_le_zpow_right₀ one_le_two (by omega)
      _ = (2 ^ Nat.log2 m : Nat) * (2 : ℝ) ^ e := by rw [dyadicLog, zpow_add₀ two_ne_zero, zpow_natCast]; push_cast; rfl
      _ ≤ m * (2 : ℝ) ^ e := by gcongr; exact Nat.log2_self_le hm

end

end Sys2Proof.Machine

/-! What VFLOG2 delivers, and the special cases of VFEXP2, VFLOG2 and VFRSQ (R86, R87): O7. -/

namespace Sys2Proof.Machine

open Sys2Proof.Claims

/-! ## The fixed-point logarithm -/

/-- The logarithm of a number that is no power of two, cut to 160 places, is delivered with one more place. -/
theorem log2V_fixed (f : FpFmt) (rm : Rm) {m : Nat} (e : Int) (h0 : 0 < m) (hm : m < 2 ^ 24) (hpow : m ≠ 2 ^ Nat.log2 m) :
    ∃ v : Int, (v : ℝ) ≤ 2 ^ 160 * Real.logb 2 (m * (2 : ℝ) ^ e) ∧ 2 ^ 160 * Real.logb 2 (m * (2 : ℝ) ^ e) < v + 2 ∧
      f.log2V rm (.num false m e) = f.deliver rm false (2 * v + 1) (-161) := by
  have hm0 : m ≠ 0 := h0.ne'
  have hlog : Nat.log2 m ≤ fixBits := by
    have : Nat.log2 m < 24 := (Nat.log2_lt hm0).2 hm
    exact this.le.trans (by decide)
  have hsplit : 2 ^ fixBits = 2 ^ Nat.log2 m * 2 ^ (fixBits - Nat.log2 m) := by rw [← Nat.pow_add, Nat.add_sub_cancel' hlog]
  have hy1 : 2 ^ fixBits ≤ m * 2 ^ (fixBits - Nat.log2 m) := hsplit ▸ Nat.mul_le_mul_right _ (Nat.log2_self_le hm0)
  have hy2 : m * 2 ^ (fixBits - Nat.log2 m) < 2 * 2 ^ fixBits := by
    rw [hsplit, ← Nat.mul_assoc, ← Nat.pow_succ']
    exact Nat.mul_lt_mul_of_pos_right Nat.lt_log2_self (Nat.two_pow_pos _)
  obtain ⟨h1, h2⟩ := log2From_bounds 160 _ 0 hy1 hy2
  have hval : Real.logb 2 (m * (2 : ℝ) ^ e) = ((Nat.log2 m : Int) + e : Int) +
      Real.logb 2 ((m * 2 ^ (fixBits - Nat.log2 m) : Nat) / (2 ^ fixBits : Nat)) := by
    have hm' : (m : ℝ) ≠ 0 := by exact_mod_cast hm0
    have hz : (m : ℝ) * (2 : ℝ) ^ e =
        (2 : ℝ) ^ ((Nat.log2 m : Int) + e) * ((m * 2 ^ (fixBits - Nat.log2 m) : Nat) / (2 ^ fixBits : Nat)) := by
      rw [hsplit, zpow_add₀ two_ne_zero, zpow_natCast]; push_cast; field_simp
    have hq : ((m * 2 ^ (fixBits - Nat.log2 m) : Nat) : ℝ) / (2 ^ fixBits : Nat) ≠ 0 := by positivity
    rw [hz, Real.logb_mul (two_zpow_pos _).ne' hq, ← Real.rpow_intCast, Real.logb_rpow two_pos (by norm_num)]
  have hP : (2 ^ 160 - 1) * (2 / ((2 ^ fixBits : Nat) : ℝ)) ≤ 1 := by rw [cast_fixOne, fixOne_eq]; norm_num
  refine ⟨((Nat.log2 m : Int) + e) * (2 ^ 160 : Nat) + log2From 160 (m * 2 ^ (fixBits - Nat.log2 m)) 0, ?_, ?_, ?_⟩
  · rw [hval]
    push_cast at *
    linarith
  · rw [hval]
    push_cast at *
    linarith
  · unfold FpFmt.log2V FpFmt.deliver
    dsimp only
    rw [if_neg hm0, if_neg Bool.false_ne_true, if_neg hpow]
    generalize ((Nat.log2 m : Int) + e) * (2 ^ 160 : Nat) + log2From 160 (m * 2 ^ (fixBits - Nat.log2 m)) 0 = v
    rw [if_neg (by omega : ¬ 2 * v + 1 = 0)]
    split_ifs with hv
    · rw [decide_eq_false (by omega)]; congr 1; omega
    · rw [decide_eq_true (by omega)]; congr 1; omega

/-- The mantissa and the exponent of a power of two. -/
theorem mantissa_of_pow {m : Nat} {e n : Int} (h0 : 0 < m) (h : (m : ℝ) * (2 : ℝ) ^ e = (2 : ℝ) ^ n) :
    m = 2 ^ Nat.log2 m ∧ (Nat.log2 m : Int) + e = n := by
  have hm : (m : ℝ) = (2 : ℝ) ^ (n - e) := by
    rw [zpow_sub₀ two_ne_zero, eq_div_iff (two_zpow_pos e).ne', h]
  have hle : (0 : Int) ≤ n - e := by
    rw [← zpow_le_zpow_iff_right₀ (one_lt_two (α := ℝ)), zpow_zero, ← hm]
    exact_mod_cast h0
  obtain ⟨k, hk⟩ := Int.eq_ofNat_of_zero_le hle
  rw [hk, zpow_natCast] at hm
  obtain rfl : m = 2 ^ k := by exact_mod_cast hm
  rw [Nat.log2_two_pow]
  exact ⟨rfl, by omega⟩

/-- A number of FP32 other than one lies away from one. -/
theorem away_from_one {m : Nat} {e : Int} (hm : m < 2 ^ 24) (h1 : (m : ℝ) * (2 : ℝ) ^ e ≠ 1) :
    (2 : ℝ) ^ (-24 : Int) ≤ |m * (2 : ℝ) ^ e - 1| := by
  have he := two_zpow_pos e
  rcases le_or_gt 0 e with h | h
  · obtain ⟨n, rfl⟩ := Int.eq_ofNat_of_zero_le h
    have hcast : (m : ℝ) * (2 : ℝ) ^ (n : Int) - 1 = (((m * 2 ^ n : Nat) : Int) - 1 : Int) := by push_cast; rfl
    have hne : ((m * 2 ^ n : Nat) : Int) - 1 ≠ 0 := fun h0 => h1 (by
      rw [← sub_eq_zero, hcast, h0, Int.cast_zero])
    rw [hcast, ← Int.cast_abs]
    have : (1 : ℝ) ≤ (|((m * 2 ^ n : Nat) : Int) - 1| : Int) := by exact_mod_cast Int.one_le_abs hne
    exact le_trans (by norm_num) this
  · obtain ⟨n, hn⟩ : ∃ n : Nat, e = -n := ⟨(-e).toNat, by omega⟩
    have hunit : ((2 ^ n : Nat) : ℝ) * (2 : ℝ) ^ e = 1 := by
      rw [hn, zpow_neg, zpow_natCast, Nat.cast_pow, Nat.cast_ofNat]; exact mul_inv_cancel₀ (by positivity)
    have hcast : (m : ℝ) * (2 : ℝ) ^ e - 1 = ((m : Int) - (2 ^ n : Nat) : Int) * (2 : ℝ) ^ e := by
      rw [← hunit]; push_cast; ring
    have hne : (m : Int) - (2 ^ n : Nat) ≠ 0 := fun h0 => h1 (by rw [← sub_eq_zero, hcast, h0, Int.cast_zero, zero_mul])
    rw [hcast, abs_mul, abs_of_pos he, ← Int.cast_abs]
    rcases le_or_gt n 24 with hle | hgt
    · have hone : (1 : ℝ) ≤ (|(m : Int) - (2 ^ n : Nat)| : Int) := by exact_mod_cast Int.one_le_abs hne
      have : (2 : ℝ) ^ (-24 : Int) ≤ 2 ^ e := zpow_le_zpow_right₀ one_le_two (by omega)
      exact this.trans (le_mul_of_one_le_left he.le hone)
    · have hbig : 2 ^ 25 ≤ 2 ^ n := Nat.pow_le_pow_right two_pos hgt
      have hhalf : ((2 ^ n : Nat) : Int) ≤ 2 * |(m : Int) - (2 ^ n : Nat)| := by
        rw [abs_of_neg (by omega)]; omega
      have hhalf' : ((2 ^ n : Nat) : ℝ) ≤ 2 * (|(m : Int) - (2 ^ n : Nat)| : Int) := by exact_mod_cast hhalf
      have := mul_le_mul_of_nonneg_right hhalf' he.le
      norm_num at this hunit ⊢
      linarith

/-- Nor does its logarithm come close to zero. -/
theorem abs_logb_ge {a : ℝ} (h0 : 0 < a) (h : (2 : ℝ) ^ (-24 : Int) ≤ |a - 1|) : (2 : ℝ) ^ (-25 : Int) ≤ |Real.logb 2 a| := by
  have hl0 := Real.log_pos one_lt_two
  have hl1 : Real.log 2 ≤ 1 := by have := Real.log_two_lt_d9; linarith
  have hlog : (2 : ℝ) ^ (-25 : Int) ≤ |Real.log a| := by
    have hup := Real.log_le_sub_one_of_pos h0
    have hlo := Real.one_sub_inv_le_log_of_pos h0
    rcases le_or_gt a 1 with ha | ha
    · rw [abs_of_nonpos (by linarith)] at h
      rw [abs_of_nonpos (by linarith)]
      have : (2 : ℝ) ^ (-25 : Int) ≤ 2 ^ (-24 : Int) := by norm_num
      linarith
    · rw [abs_of_pos (by linarith)] at h
      have hinv : (2 : ℝ) ^ (-25 : Int) ≤ 1 - a⁻¹ := by
        have : a⁻¹ ≤ (1 + (2 : ℝ) ^ (-24 : Int))⁻¹ := inv_anti₀ (by positivity) (by linarith)
        norm_num at this ⊢
        linarith
      exact (hinv.trans hlo).trans (le_abs_self _)
  rw [Real.logb, abs_div, abs_of_pos hl0]
  exact hlog.trans (le_div_self (abs_nonneg _) hl0 hl1)

/-- WHAT VFLOG2 SAYS OF A NUMBER `a` ABOVE ZERO: the clauses of R86. -/
structure Log2Delivers (rm : Rm) (a : ℝ) (r : Nat × FpFlags) : Prop where
  exact_ : ∀ n : Int, a = (2 : ℝ) ^ n → valueOf fp32 r.1 = some (n : ℝ) ∧ r.2 = 0
  inexact : (∀ n : Int, a ≠ (2 : ℝ) ^ n) →
    (∃ y, |y - Real.logb 2 a| ≤ |Real.logb 2 a| / 2 ^ 100 ∧ Rounds fp32 rm y r.1) ∧ r.2 = 16

theorem flags_inexact {x : FpFlags} (h : Flagged x False False False False True) : x = 16 := by
  obtain ⟨h0, h1, h2, h3, h4⟩ := h
  revert x
  decide

section
variable {rm : Rm} (hrm : ∀ k, rm ≠ .stoch k)
include hrm

/-- An integer that FP32 has is delivered without a flag. -/
theorem deliver_int {n : Int} (h1 : -149 ≤ n) (h2 : n ≤ 127) :
    ∃ r, fp32.deliver rm false n 0 = (r, 0) ∧ valueOf fp32 r = some (n : ℝ) := by
  unfold FpFmt.deliver
  split_ifs with h0
  · exact ⟨_, rfl, by rw [FpFmt.valueOf_signed (by decide), h0]; simp⟩
  · obtain ⟨k, hk⟩ := exists_magnitude_eq (t := 23) (emin := fp32.emin) (q := 0) (n := n.natAbs) (by omega) (by decide)
    have hg : fp32.grid k = n.natAbs := hk.trans (by simp [multiples])
    have hklt : k < fp32.infBits := by
      rw [← FpFmt.strictMono_grid.lt_iff_lt, hg, FpFmt.grid_infBits fp32_usual]
      have : ((n.natAbs : Nat) : ℝ) ≤ (149 : Nat) := by exact_mod_cast (by omega : n.natAbs ≤ 149)
      exact this.trans_lt (by norm_num [fp32])
    rw [round_of_grid _ fp32_usual hrm (Int.natAbs_pos.2 h0) (by rw [hg, zpow_zero, mul_one]) hklt]
    refine ⟨_, rfl, ?_⟩
    rw [FpFmt.valueOf_signed hklt, hg, Nat.cast_natAbs]
    rcases lt_or_ge n 0 with hn | hn
    · rw [decide_eq_true hn, abs_of_neg hn]; simp
    · rw [decide_eq_false (not_lt.2 hn), abs_of_nonneg hn]; simp

theorem log2_inexact {m : Nat} {e : Int} (h0 : 0 < m) (hm : m < 2 ^ 24) (hpow : m ≠ 2 ^ Nat.log2 m)
    (h1 : (2 : ℝ) ^ (-149 : Int) ≤ m * (2 : ℝ) ^ e) (h2 : m * (2 : ℝ) ^ e < (2 : ℝ) ^ (128 : Int)) :
    (∃ y, |y - Real.logb 2 (m * (2 : ℝ) ^ e)| ≤ |Real.logb 2 (m * (2 : ℝ) ^ e)| / 2 ^ 100 ∧
      Rounds fp32 rm y (fp32.log2V rm (.num false m e)).1) ∧ (fp32.log2V rm (.num false m e)).2 = 16 := by
  have ha := (two_zpow_pos _).trans_le h1
  have hne : (m : ℝ) * (2 : ℝ) ^ e ≠ 1 := fun h => hpow (mantissa_of_pow (n := 0) h0 (by rw [h, zpow_zero])).1
  have hL := abs_logb_ge ha (away_from_one hm hne)
  have hL1 : -149 ≤ Real.logb 2 (m * (2 : ℝ) ^ e) := by
    rw [Real.le_logb_iff_rpow_le one_lt_two ha]; exact_mod_cast h1
  have hL2 : Real.logb 2 (m * (2 : ℝ) ^ e) ≤ 128 := by
    rw [Real.logb_le_iff_le_rpow one_lt_two ha]; exact_mod_cast h2.le
  obtain ⟨v, hv1, hv2, hv⟩ := log2V_fixed fp32 rm e h0 hm hpow
  rw [hv]
  generalize Real.logb 2 (m * (2 : ℝ) ^ e) = L at *
  have hz : ((2 * v + 1 : Int) : ℝ) * (2 : ℝ) ^ (-161 : Int) = (v + 1 / 2) / 2 ^ 160 := by push_cast; norm_num; ring
  have hclose : |((2 * v + 1 : Int) : ℝ) * (2 : ℝ) ^ (-161 : Int) - L| ≤ 2 ^ (-159 : Int) := by
    rw [hz, abs_le]
    constructor
    · rw [le_sub_iff_add_le, le_div_iff₀ (by positivity)]; norm_num at *; linarith
    · rw [sub_le_iff_le_add, div_le_iff₀ (by positivity)]; norm_num at *; linarith
  have hlo : (2 : ℝ) ^ (-26 : Int) ≤ |((2 * v + 1 : Int) : ℝ) * (2 : ℝ) ^ (-161 : Int)| := by
    have := abs_sub_abs_le_abs_sub L (((2 * v + 1 : Int) : ℝ) * (2 : ℝ) ^ (-161 : Int))
    rw [abs_sub_comm] at this
    norm_num at *
    linarith
  have hhi : |((2 * v + 1 : Int) : ℝ) * (2 : ℝ) ^ (-161 : Int)| ≤ 2 ^ (100 : Int) := by
    have := abs_sub_abs_le_abs_sub (((2 * v + 1 : Int) : ℝ) * (2 : ℝ) ^ (-161 : Int)) L
    have : |L| ≤ 149 := abs_le.2 ⟨hL1, by linarith⟩
    norm_num at *
    linarith
  have hodd : (2 * v + 1) % 2 = 1 := by omega
  have hbig : 2 ^ 24 ≤ (2 * v + 1).natAbs := by
    rw [abs_mul, abs_of_pos (two_zpow_pos _), ← Int.cast_abs, Int.abs_eq_natAbs] at hlo
    have : (2 : ℝ) ^ 24 ≤ ((2 * v + 1).natAbs : Nat) := by norm_num at *; linarith
    exact_mod_cast this
  have hne0 : ((2 * v + 1 : Int) : ℝ) * (2 : ℝ) ^ (-161 : Int) ≠ 0 := fun h => by
    rw [h, abs_zero] at hlo; exact absurd hlo (not_le.2 (two_zpow_pos _))
  have hr := (deliver_spec fp32_usual hrm false (2 * v + 1) (-161)).1 hne0
  obtain ⟨hrounds, hflags⟩ := hr.in_range hrm
    (le_trans (zpow_le_zpow_right₀ one_le_two (by decide)) hlo) hhi
  refine ⟨⟨_, ?_, hrounds⟩, flags_inexact ?_⟩
  · norm_num at *
    linarith
  · exact FpFmt.flagged_congr hflags Iff.rfl Iff.rfl Iff.rfl Iff.rfl (iff_true_intro (valueOf_ne_odd _ _ hodd hbig))

/-- WHAT VFLOG2 DELIVERS of a number above zero. -/
theorem log2Delivers {x : Nat} {a : ℝ} (ha : valueOf fp32 x = some a) (h0 : 0 < a) :
    Log2Delivers rm a (fp32.log2V rm (fp32.unpack x)) := by
  obtain ⟨h1, h2⟩ := fp32_bounds ha h0.ne'
  obtain ⟨m, e, hu, rfl, hm⟩ := FpFmt.unpack_of_pos ha h0
  obtain ⟨hm24, -⟩ := fp32_unpack_num hu
  rw [abs_of_pos h0] at h1 h2
  rw [hu]
  refine ⟨fun n hn => ?_, fun hn => log2_inexact hrm hm hm24 (fun hpow => ?_) h1 h2⟩
  · obtain ⟨hpow, hsum⟩ := mantissa_of_pow hm hn
    rw [hn] at h1 h2
    have h1 := (zpow_le_zpow_iff_right₀ one_lt_two).1 h1
    have h2 := (zpow_lt_zpow_iff_right₀ one_lt_two).1 h2
    obtain ⟨r, hr, hv⟩ := deliver_int hrm h1 (by omega : n ≤ 127)
    have hlog : fp32.log2V rm (.num false m e) = fp32.deliver rm false n 0 := by
      unfold FpFmt.log2V
      dsimp only
      rw [if_neg hm.ne', if_neg Bool.false_ne_true, if_pos hpow, hsum]
    rw [hlog, hr]
    exact ⟨hv, rfl⟩
  · refine hn ((Nat.log2 m : Int) + e) ?_
    rw [zpow_add₀ two_ne_zero, zpow_natCast]
    congr 1
    exact_mod_cast hpow

end

/-! ## Zeros and negative numbers -/

theorem fp32_zero {x : Nat} (h : valueOf fp32 x = some 0) : x % 2 ^ 31 = 0 := by
  obtain ⟨hk, hv⟩ := FpFmt.valueOf_eq_some h
  have hz := withSign_eq_zero.1 hv.symm
  exact FpFmt.strictMono_grid.injective (hz.trans FpFmt.grid_zero.symm)

/-- The logarithm and the reciprocal root of a zero. -/
theorem zero_results (rm : Rm) {x : Nat} (hx : x < 2 ^ 32) (h : valueOf fp32 x = some 0) :
    fp32.log2V rm (fp32.unpack x) = (0xFF800000, 2) ∧
      fp32.rsqrtV rm (fp32.unpack x) = (if x < 2 ^ 31 then 0x7F800000 else 0xFF800000, 2) := by
  obtain ⟨hu, hs⟩ := fp32_unpack_zero hx (fp32_zero h)
  generalize fp32.isNeg x = s at *
  subst hs
  rw [hu]
  cases s <;> exact ⟨rfl, rfl⟩

theorem log2V_negative (rm : Rm) {x : Nat} {a : ℝ} (h : valueOf fp32 x = some a) (ha : a < 0) :
    fp32.log2V rm (fp32.unpack x) = (0x7FC00000, 1) := by
  obtain ⟨m, e, hu, -, hm⟩ := FpFmt.unpack_of_neg h ha
  rw [hu, FpFmt.log2V]
  simp only [hm.ne', if_false, if_true]
  rfl

/-- Settles O7: the fixed-point series lie within one part in 2^100 of the exact values, and their last bit is a sticky one. -/
theorem transcendentalResults : Obligations.TranscendentalResults := by
  intro r x hx rm e l close
  have hrm := FpFmt.ofMode_ne_stoch r
  refine ⟨fun a ha => ?_, ?_, ?_⟩
  · have he := exp2Delivers hrm ha
    refine ⟨he.close, he.exact_, he.inexact, fun h0 => ?_, ?_, fun h => log2V_negative rm ha h⟩
    · have hl := log2Delivers hrm ha h0
      exact ⟨hl.exact_, hl.inexact⟩
    · rintro rfl
      exact zero_results rm hx ha
  · rintro rfl
    exact ⟨rfl, rfl⟩
  · rintro rfl
    exact ⟨rfl, rfl⟩

end Sys2Proof.Machine

/-! The scalar immediates, the shifts by a constant, and the constants (R68, R111 to R115): O2. -/

namespace Sys2Proof.Machine

open Sys2Proof.Claims

section

variable {s : State} {d a : SReg} {i : Instr}

/-! ## Immediates and constants as exact numbers -/

theorem add_signExtend_exact {w v : Nat} (x : BitVec w) (k : BitVec v) (h : v ≤ w) :
    x + k.signExtend w = BitVec.ofInt w (x.toInt + k.toInt) := by
  rw [add_exactInt, BitVec.toInt_signExtend_of_le h]

theorem slt_signExtend_exact {w v : Nat} (x : BitVec w) (k : BitVec v) (h : v ≤ w) :
    bit (w := w) (x.slt (k.signExtend w)) = oneIf (x.toInt < k.toInt) := by
  rw [slt_exact, Exact.slt, BitVec.toInt_signExtend_of_le h]

theorem sltu_oneIf {w : Nat} (x y : BitVec w) : bit (w := w) (x.ult y) = oneIf (x.toNat < y.toNat) := sltu_exact x y

/-- A sign-extended immediate times a power of two that 64 bits can hold. -/
theorem signExtend_mul_exact {v : Nat} (k : BitVec v) (c : Word) (h : v ≤ 64) :
    k.signExtend 64 * c = BitVec.ofInt 64 (k.toInt * c.toInt) := by
  rw [mul_exact, BitVec.toInt_signExtend_of_le h]

theorem lui_exact (i : BitVec 19) : i.signExtend 64 <<< 13 = BitVec.ofInt 64 (i.toInt * 2 ^ 13) := by
  rw [BitVec.shiftLeft_eq_mul_twoPow, signExtend_mul_exact i _ (by decide)]
  rfl

/-- An offset in words from an address (R55, R114). -/
theorem words_exact {v : Nat} (k : BitVec v) (h : v ≤ 64) : k.signExtend 64 * 4 = BitVec.ofInt 64 (4 * k.toInt) := by
  rw [signExtend_mul_exact k 4 h, mul_comm]
  rfl

theorem signExtend_exact {w v : Nat} (k : BitVec v) (h : v ≤ w) : k.signExtend w = BitVec.ofInt w k.toInt := by
  rw [← BitVec.toInt_signExtend_of_le h, BitVec.ofInt_toInt]

theorem append_setWidth_exact (l : BitVec 32) (x : Word) :
    l ++ x.setWidth 32 = BitVec.ofNat 64 (l.toNat * 2 ^ 32 + x.toNat % 2 ^ 32) := by
  apply BitVec.eq_of_toNat_eq
  have low : x.toNat % 2 ^ 32 < 2 ^ 32 := Nat.mod_lt _ (by decide)
  rw [BitVec.toNat_append, BitVec.toNat_setWidth, ← Nat.shiftLeft_add_eq_or_of_lt low, Nat.shiftLeft_eq,
    BitVec.toNat_ofNat]
  omega

/-! ## Instructions of majors 0x02 to 0x0B -/

theorem gives_of_scalarImm {k : BitVec 12} {f : Word → Word → Word} {v : Word} (h : ready s (Opnds.ss d a) = true)
    (he : exec i s = scalarImm d a k f s) (hv : f ((here s).sreg a) (k.signExtend 64) = v) : gives s d i v :=
  gives_of_scalar2 (f := fun x => f x (k.signExtend 64)) h he hv

theorem immediateAlu : ImmediateAlu := fun _ _ _ h =>
  ⟨fun k =>
    ⟨gives_of_scalarImm h (exec_addi ..) (add_signExtend_exact _ k (by decide)), gives_of_scalarImm h (exec_andi ..) rfl,
      gives_of_scalarImm h (exec_ori ..) rfl, gives_of_scalarImm h (exec_xori ..) rfl,
      gives_of_scalarImm h (exec_slti ..) (slt_signExtend_exact _ k (by decide)),
      gives_of_scalarImm h (exec_sltiu ..) (sltu_oneIf ..)⟩,
    fun n =>
    ⟨gives_of_scalar2 h (exec_shli ..) (shl_exact ..), gives_of_scalar2 h (exec_shri ..) (shr_exact ..),
      gives_of_scalar2 h (exec_sari ..) (sar_exact ..), gives_of_scalar2 h (exec_rori ..) (ror_exact _ _ n.isLt)⟩⟩

/-- An instruction whose body writes a scalar register with a value. -/
theorem gives_of_setS {o : Opnds} {f : Ctx → Word} {v : Word} (h : ready s o = true)
    (he : exec i s = run s o fun c => .done (c.setS d (f c))) (hv : f (start s) = v) : gives s d i v o.words :=
  completes_setS h he (by rw [← hv]; rfl)

theorem start_head (s : State) : (start s).slot.head = (here s).head := start_slot_keeps Slot.head (fun _ => rfl) s

theorem constantResults : ConstantResults := by
  intro s d h
  have literal : ready s { Opnds.d d with words := 2 } = true := h
  refine ⟨fun i => ⟨gives_of_setS h (exec_lui ..) (lui_exact i), gives_of_setS h (exec_addpc ..) ?_⟩, fun l =>
    ⟨gives_of_setS literal (exec_movl ..) (signExtend_exact l (by decide)),
      gives_of_setS literal (exec_movlz ..) (BitVec.ofNat_toNat 64 l).symm, fun hl => ?_⟩⟩
  · rw [start_head, words_exact i (by decide), mul_comm, BitVec.ofInt_add, BitVec.ofInt_toInt]
  · have merged : ready s { Opnds.d d with words := 2, prior := [.s d] } = true := hl
    exact gives_of_setS merged (exec_movlh ..) (by rw [start_sreg]; exact append_setWidth_exact ..)

/-- Settles O2: each instruction is the operation that its name says, and each operation is its exact number. -/
theorem immediateResults : Obligations.ImmediateResults := ⟨immediateAlu, constantResults⟩

end
end Sys2Proof.Machine

/-! The system instructions that are no register access (R126, R128, R131 to R136): O15. -/

namespace Sys2Proof.Machine

open Sys2Proof.Claims

/-! ## Changes of the slot at hand -/

/-- A body that changes its slot alone. -/
theorem completes_mapSlot {i : Instr} {s : State} {o : Opnds} {body : Ctx → Issue} {f : Slot → Slot} (h : ready s o = true)
    (he : exec i s = run s o body) (hf : ∀ t, f t.unlast = (f t).unlast)
    (hb : body (start s) = .done ((started s).mapSlot s.cur f)) : Completes i s (withHere s f) o.words :=
  completes_of h he (by rw [hb, started_eq, mapSlot_unlast s s.cur hf]) (by simpa using ready_hasPkg h)

/-! ## REGMODE -/

theorem setModes_has (set : NumSet) (rs : List Nat) (m : Bool) (q : Nat) :
    (setModes set rs m).has q = if q ∈ rs then m else set.has q := by
  induction rs generalizing set with
  | nil => rfl
  | cons r rs ih =>
    have first : (if m then set.insert r else set.erase r).has q = if q = r then m else set.has q := by
      by_cases same : q = r
      · cases m <;> simp [NumSet.has_erase, NumSet.has_insert, same]
      · cases m <;> simp [NumSet.has_erase, NumSet.has_insert, same]
    have step : setModes set (r :: rs) m = setModes (if m then set.insert r else set.erase r) rs m := rfl
    rw [step, ih, first]
    by_cases later : q ∈ rs
    · simp [later]
    · simp [later]

/-- The registers that a REGMODE names (R128). -/
def modeRegs (t : Slot) (r : BitVec 7) (l v : Bool) : List Nat :=
  if l then List.range (if v then t.regLim.toNat else 32) else [r.toNat]

theorem regmode_completes {s : State} {r : BitVec 7} {l v m : Bool}
    (h : ready s { named := if v && !l then [r] else [] } = true) :
    ∃ x y : NumSet, Completes (.regmode r l v m) s (withHere s fun t => { t with sTrap := x, vTrap := y }) 1 ∧
      (∀ q < 32, NumSet.has x q = if v = false ∧ (l = true ∨ q = r.toNat) then m else NumSet.has (here s).sTrap q) ∧
      ∀ q < 128, NumSet.has y q =
        if v = true ∧ (if l = true then q < (here s).regLim.toNat else q = r.toNat) then m
        else NumSet.has (here s).vTrap q := by
  let rs := modeRegs (here s) r l v
  cases v with
  | false =>
    refine ⟨setModes (here s).sTrap rs m, (here s).vTrap, ?_, fun q hq => ?_, fun q _ => by simp⟩
    · have e : withHere s (fun t => { t with sTrap := setModes (here s).sTrap rs m, vTrap := (here s).vTrap }) =
        withHere s fun t => { t with sTrap := setModes t.sTrap (modeRegs t r l false) m } := State.mapSlot_congr rfl
      rw [e]
      exact completes_mapSlot h (exec_regmode ..) (fun _ => rfl) rfl
    · rw [setModes_has]; cases l <;> simp [rs, modeRegs, hq]
  | true =>
    refine ⟨(here s).sTrap, setModes (here s).vTrap rs m, ?_, fun q _ => by simp, fun q _ => ?_⟩
    · have e : withHere s (fun t => { t with sTrap := (here s).sTrap, vTrap := setModes (here s).vTrap rs m }) =
        withHere s fun t => { t with vTrap := setModes t.vTrap (modeRegs t r l true) m } := State.mapSlot_congr rfl
      rw [e]
      exact completes_mapSlot h (exec_regmode ..) (fun _ => rfl) rfl
    · rw [setModes_has]; cases l <;> simp [rs, modeRegs]

/-! ## LOCALITY -/

theorem absDiff_eq_natAbs (a b : Nat) : absDiff a b = ((a : Int) - b).natAbs := by
  unfold absDiff
  split <;> omega

/-- A cell's number in a word (R132). -/
theorem extract_cell (x : Word) (k : Nat) : x.extractLsb' k 12 = BitVec.ofNat 12 (x.toNat / 2 ^ k % 2 ^ 12) := by
  apply BitVec.eq_of_toNat_eq
  simp [Nat.shiftRight_eq_div_pow]

theorem localityOf_exact {p q : Nat} (hp : p < 2 ^ 12) (hq : q < 2 ^ 12) :
    localityOf (BitVec.ofNat 12 p) (BitVec.ofNat 12 q) =
      (if dieOf (BitVec.ofNat 12 p) = dieOf (BitVec.ofNat 12 q) then 1 else 0) + (if p = q then 2 else 0) +
        (((p % 64 : Nat) - (q % 64 : Nat) : Int).natAbs + ((p / 64 : Nat) - (q / 64 : Nat) : Int).natAbs) * 2 ^ 8 := by
  have same : (BitVec.ofNat 12 p == BitVec.ofNat 12 q) = decide (p = q) := by
    rw [Bool.eq_iff_iff, beq_iff_eq, decide_eq_true_eq, ← BitVec.toNat_inj, BitVec.toNat_ofNat, BitVec.toNat_ofNat,
      Nat.mod_eq_of_lt hp, Nat.mod_eq_of_lt hq]
  unfold localityOf cellX cellY flag
  rw [same, absDiff_eq_natAbs, absDiff_eq_natAbs, BitVec.toNat_ofNat, BitVec.toNat_ofNat, Nat.mod_eq_of_lt hp,
    Nat.mod_eq_of_lt hq]
  congr 2
  · simp
  · split <;> simp_all

/-! ## ICINV and IDLE -/

theorem toReport_none {t : Slot} {f : RefusedOp → Bool} (h : t.refused.any (fun e => f e.2) = false) :
    t.toReport false f = none := by
  have : t.refused.filter (fun e => f e.2) = [] := by simpa [List.filter_eq_nil_iff] using h
  simp [Slot.toReport, this]

theorem icinv_completes {s : State} (h : ready s {} = true) (hops : (here s).ops.any Op.beforeIcinv = false)
    (hrefused : (here s).refused.any (fun e => e.2.beforeIcinv) = false) :
    Completes .icinv s (withHere s fun t => { t with icinv := true }) 1 := by
  refine completes_mapSlot h (exec_icinv s) (fun _ => rfl) ?_
  have ops : (start s).slot.ops = (here s).ops := start_slot_keeps Slot.ops (fun _ => rfl) s
  have refused : (start s).slot.toReport false RefusedOp.beforeIcinv = none :=
    (start_slot_keeps (·.toReport false RefusedOp.beforeIcinv) (fun _ => rfl) s).trans (toReport_none hrefused)
  simp only [ops, hops, refused, Option.getD_none, start_s, start_g, if_neg Bool.false_ne_true]

/-- A slot that fetches for itself has the operands of its branches. -/
theorem branchOpnds_own {s : State} (h : (here s).following = false) (o : Opnds) : branchOpnds s o = o :=
  if_neg (by simpa [State.atSub] using h)

theorem idle_completes {s : State} {a : SReg} (hown : (here s).following = false)
    (h : ready s { srcs := [.s a], tb := some (.s a) } = true) :
    let n := ((here s).sreg a).toNat % 2 ^ 32
    (n = 0 → Completes (.idle a) s s 1) ∧
    (n ≠ 0 → Completes (.idle a) s
      (withHere s fun t => { t with hold := some { why := .idle, till := s.cycleAt s.cur.pkg + 16 * (1 + n) } }) 1) := by
  have he := exec_idle a s
  unfold execIdle at he
  rw [branchOpnds_own hown] at he
  have own : ¬ (start s).sub = true := by simpa using hown
  refine ⟨fun hn => completes_nothing h he ?_, fun hn => completes_mapSlot h he (fun _ => rfl) ?_⟩
  · simp only [if_neg own, start_sreg, hn, if_true, start_s]
  · simp only [if_neg own, start_sreg, if_neg hn, start_s, start_g, start_cycle]

theorem plainSystemResults : PlainSystemResults := by
  intro s
  refine ⟨fun hp a b => ?_, fun r l v m h => regmode_completes h, fun d a h => ?_, fun h => ⟨?_, icinv_completes h⟩,
    fun a hown h => idle_completes hown h⟩
  · rw [exec_take, execTake, if_pos hp]
  · refine gives_of_setS h (exec_locality ..) ?_
    simp only [start_sreg, extract_cell, pow_zero, Nat.div_one]
    rw [localityOf_exact (Nat.mod_lt _ (by decide)) (Nat.mod_lt _ (by decide))]
  · exact completes_nothing h (exec_nop s) rfl

/-! ## TRAP and BRKPT -/

theorem conclude_stopAfter (s : State) (g : GRef) (o : Opnds) (f : FaultInfo) :
    conclude s g o (.stopAfter f) = takeFault s g f (s.slotAt g).head (s.slotAt g).pos (s.nextPlace g o.words) := rfl

theorem Slot.sreg_unstopped (t : Slot) (r : SReg) : t.unstopped.sreg r = t.sreg r := rfl

/-- What a fault leaves of packages and cells holds all their memory. -/
theorem sameMemory_of_unfiled {s t : State} (hp : ∀ p, (t.pkgAt p).unfiled = (s.pkgAt p).unfiled)
    (hc : ∀ p c, (t.cellAt p c).bare = (s.cellAt p c).bare) : SameMemory s t :=
  ⟨fun p => ⟨(congrArg Pkg.hbm (hp p) :), (congrArg Pkg.ddr (hp p) :)⟩,
    fun p c => ⟨(congrArg Cell.spad (hc p c) :), (congrArg Cell.bstore (hc p c) :), (congrArg Cell.opbuf (hc p c) :)⟩⟩

/-- A body that stops its slot after the instruction. -/
theorem stopsAfter_body {i : Instr} {s : State} {o : Opnds} {body : Ctx → Issue} {f : FaultInfo} (h : ready s o = true)
    (he : exec i s = run s o body) (hw : o.words = 1) (hb : body (start s) = .stopAfter f) : StopsAfter i s f := by
  have hrun : exec i s = .next (takeFault s s.cur f (here s).head (here s).pos (s.nextPlace s.cur 1)) := by
    rw [he, run_ready h, ← hw, ← conclude_stopAfter]
    exact congrArg (fun r => Host.Outcome.next (conclude s s.cur o r)) hb
  obtain ⟨-, unfiled, -, -, waiting, cells, -, slot, -⟩ := takeFault_spec s s.cur f (here s).head (here s).pos
    (s.nextPlace s.cur 1) false none none (ready_hasPkg h)
  obtain ⟨place, unstopped, -⟩ := Slot.stopped_spec ({ here s with publishing := none } : Slot) f.kind
    (s.nextPlace s.cur 1)
  generalize takeFault s s.cur f (here s).head (here s).pos (s.nextPlace s.cur 1) = t at hrun unfiled waiting cells slot
  refine ⟨t, hrun, by rw [slot]; rfl, by rw [slot]; rfl, by rw [slot, place], fun r => ?_,
    sameMemory_of_unfiled unfiled cells, _, waiting, rfl, rfl, rfl⟩
  rw [slot, ← Slot.sreg_unstopped, unstopped]
  rfl

theorem trapWord_exact (x : Word) (k : BitVec 7) :
    x <<< 8 ||| k.setWidth 64 = BitVec.ofNat 64 (x.toNat % 2 ^ 56 * 2 ^ 8 + k.toNat) := by
  apply BitVec.eq_of_toNat_eq
  have hk : k.toNat < 2 ^ 8 := by omega
  rw [BitVec.toNat_or, BitVec.toNat_shiftLeft, BitVec.toNat_setWidth, BitVec.toNat_ofNat,
    Nat.mod_eq_of_lt (show k.toNat < 2 ^ 64 by omega), Nat.shiftLeft_eq,
    show x.toNat * 2 ^ 8 % 2 ^ 64 = (x.toNat % 2 ^ 56) * 2 ^ 8 by omega, ← Nat.shiftLeft_eq,
    ← Nat.shiftLeft_add_eq_or_of_lt hk, Nat.shiftLeft_eq]
  omega

theorem stopInstructions : StopInstructions := by
  refine fun s k => ⟨fun a h => stopsAfter_body h (exec_trap ..) rfl ?_, fun h => stopsAfter_body h (exec_brkpt ..) rfl ?_⟩
  · simp only [start_sreg, trapWord_exact]
  · rw [← BitVec.ofNat_toNat]

/-- Settles O15, instruction by instruction. -/
theorem systemResults : Obligations.SystemResults := ⟨plainSystemResults, stopInstructions⟩

end Sys2Proof.Machine

/-! The refill of an instruction cache, line by line (R134, R340). -/

namespace Sys2Proof.Machine

/-! ## What a read of a line leaves -/

theorem Level.refl (s : State) : Level s s s s := ⟨rfl, rfl, rfl, fun _ => ⟨rfl, rfl⟩, rfl, rfl⟩

/-- Reading a line of code changes no cell, and no package comes or goes. -/
theorem readLine_level {s a : State} (e : Level s s a a) (g : GRef) (pid : BitVec 16) (stale : Bool) (x : Word) :
    Level s s (readLine a g pid stale x).1 (readLine a g pid stale x).1 := by
  have translated := ((e.mended g.pkg).translate g.pkg g.cell pid x .fetch (some stale)).1
  unfold readLine
  dsimp only
  split
  · exact translated
  case h_2 l hl =>
    have both := translated.mended l.pkg
    split <;> (dsimp only; exact both)

theorem readLine_cellAt (s : State) (g : GRef) (pid : BitVec 16) (stale : Bool) (x : Word) (p : PkgId) (c : CellId) :
    (readLine s g pid stale x).1.cellAt p c = s.cellAt p c :=
  congrFun (congrFun (readLine_level (Level.refl s) g pid stale x).left p) c

theorem readLine_hasPkg (s : State) (g : GRef) (pid : BitVec 16) (stale : Bool) (x : Word) (p : PkgId) :
    (readLine s g pid stale x).1.hasPkg p = s.hasPkg p :=
  congrFun (readLine_level (Level.refl s) g pid stale x).home p

/-! ## Lines of one moment -/

/-- The line at an address is cached, and was memory's contents at moment `n`. -/
def Cell.filledAt (t : Cell) (pid : BitVec 16) (n : Nat) (a : Word) : Prop := ∃ l, t.lineAt pid a = some l ∧ n ∈ l.moments

/-- A line as a refill puts it into the cache, in place of the one for its address. -/
def Cell.putLine (t : Cell) (l : IcLine) : Cell :=
  { t with icache := l :: t.icache.filter fun x => !(x.pid == l.pid && x.line == l.line) }

theorem Cell.lineAt_putLine (t : Cell) (l : IcLine) (pid : BitVec 16) (a : Word) :
    (t.putLine l).lineAt pid a = if l.pid = pid ∧ l.line = a then some l else t.lineAt pid a := by
  unfold Cell.putLine Cell.lineAt
  rw [List.find?_cons, List.find?_filter]
  by_cases h : l.pid = pid ∧ l.line = a
  · simp [h]
  · have other : (l.pid == pid && l.line == a) = false := by simpa using h
    rw [other, if_neg h]
    dsimp only
    congr 1
    funext x
    rw [Bool.eq_iff_iff, decide_eq_true_eq]
    refine and_iff_right_of_imp fun hx => ?_
    obtain ⟨rfl, rfl⟩ : x.pid = pid ∧ x.line = a := by simpa using hx
    have other : ¬(x.pid = l.pid ∧ x.line = l.line) := fun e => h ⟨e.1.symm, e.2.symm⟩
    simpa [imp_iff_not_or] using other

theorem Cell.filledAt_putLine {t : Cell} {pid : BitVec 16} {n : Nat} {a : Word} {l : IcLine} (hn : n ∈ l.moments)
    (h : l.pid = pid ∧ l.line = a ∨ t.filledAt pid n a) : (t.putLine l).filledAt pid n a := by
  unfold Cell.filledAt
  rw [Cell.lineAt_putLine]
  split
  case isTrue => exact ⟨l, rfl, hn⟩
  case isFalse other => exact h.resolve_left other

/-- A change of cached lines that leaves them where they are and forgets none of their moments. -/
theorem Cell.filledAt_map {t : Cell} {pid : BitVec 16} {n : Nat} {a : Word} {f : IcLine → IcLine}
    (hpid : ∀ l, (f l).pid = l.pid) (hline : ∀ l, (f l).line = l.line) (hm : ∀ l, n ∈ l.moments → n ∈ (f l).moments)
    (h : t.filledAt pid n a) : ({ t with icache := t.icache.map f } : Cell).filledAt pid n a := by
  obtain ⟨l, hl, hn⟩ := h
  refine ⟨f l, ?_, hm l hn⟩
  have same : ((fun x : IcLine => x.pid == pid && x.line == a) ∘ f) = fun x => x.pid == pid && x.line == a := by
    funext x
    simp [hpid, hline]
  unfold Cell.lineAt at hl ⊢
  rw [List.find?_map, same, hl]
  rfl

theorem oneMoment_of_common {ls : List IcLine} {n : Nat} (h : ∀ l ∈ ls, n ∈ l.moments) : oneMoment ls = true := by
  cases ls with
  | nil => rfl
  | cons l ls =>
    refine List.any_eq_true.2 ⟨n, h l List.mem_cons_self, List.all_eq_true.2 fun x hx => ?_⟩
    exact (NumSet.has_iff _ _).2 (h x (List.mem_cons_of_mem _ hx))

/-- A list whose members all have an answer with a property has one as a whole. -/
theorem mapM_some_of_forall {α β : Type} {f : α → Option β} {P : β → Prop} {l : List α}
    (h : ∀ a ∈ l, ∃ b, f a = some b ∧ P b) : ∃ bs, l.mapM f = some bs ∧ ∀ b ∈ bs, P b := by
  induction l with
  | nil => exact ⟨[], rfl, fun _ hb => nomatch hb⟩
  | cons a l ih =>
    obtain ⟨b, hb, pb⟩ := h a List.mem_cons_self
    obtain ⟨bs, hbs, pbs⟩ := ih fun x hx => h x (List.mem_cons_of_mem _ hx)
    exact ⟨b :: bs, by rw [List.mapM_cons, hb, hbs]; rfl, List.forall_mem_cons.2 ⟨pb, pbs⟩⟩

/-- Bytes whose lines are cached from one moment are there to be fetched (R134). -/
theorem Cell.cachedBytes_of_filled {t : Cell} {pid : BitVec 16} {n k : Nat} {h : Word}
    (hf : ∀ a ∈ linesOf h k, t.filledAt pid n a) : ∃ b, t.cachedBytes pid h k = some b := by
  obtain ⟨ls, hls, moments⟩ := mapM_some_of_forall hf
  unfold Cell.cachedBytes
  rw [hls]
  exact ⟨_, if_pos (oneMoment_of_common moments)⟩

theorem linesOf_mono (h : Word) {m n : Nat} (hmn : m ≤ n) {a : Word} (ha : a ∈ linesOf h m) : a ∈ linesOf h n := by
  have := Nat.div_le_div_right (c := 64) (show h.toNat + m - 1 ≤ h.toNat + n - 1 by omega)
  simp only [linesOf, unitsOf, List.mem_map, List.mem_range] at ha ⊢
  obtain ⟨u, ⟨i, hi, rfl⟩, rfl⟩ := ha
  exact ⟨_, ⟨i, by omega, rfl⟩, rfl⟩

/-- The lines of a header are among those of the clause that it begins (R340). -/
theorem mem_clauseLines {h : Word} (w : BitVec 32) {a : Word} (ha : a ∈ linesOf h 4) :
    a ∈ if major w = 0x3E then linesOf h (4 * (1 + fld w 0 4)) else linesOf h 4 := by
  split
  · exact linesOf_mono h (by omega) ha
  · exact ha

/-! ## A refill -/

section
variable {g : GRef} {pid : BitVec 16} {stale : Bool} {n : Nat} {h : Word}

theorem readLines_hasPkg (s : State) (l : List Word) (p : PkgId) :
    (readLines s g pid stale n h l).1.hasPkg p = s.hasPkg p := by
  induction l generalizing s with
  | nil => rfl
  | cons a l ih =>
    unfold readLines
    dsimp only
    split
    · exact readLine_hasPkg _ _ _ _ _ _
    · rw [ih, State.hasPkg_mapCell, readLine_hasPkg]

theorem readLines_ok {s : State} {a : Word} {l : List Word} {b : List Byte}
    (hb : (readLine s g pid stale (fetchAt h a)).2 = .ok b) : readLines s g pid stale n h (a :: l) =
      readLines ((readLine s g pid stale (fetchAt h a)).1.mapCell g.pkg g.cell fun c =>
        c.putLine { pid := pid, line := a, bytes := b, moments := [n] }) g pid stale n h l := by
  rw [readLines, hb]
  rfl

theorem readLines_error {s : State} {a : Word} {l : List Word} {f : FaultInfo}
    (hf : (readLine s g pid stale (fetchAt h a)).2 = .error f) : (readLines s g pid stale n h (a :: l)).2 = some f := by
  rw [readLines, hf]

/-- Lines that are read without a fault are in the cache from that moment on, beside those that were there. -/
theorem readLines_filled {s : State} (hp : s.hasPkg g.pkg = true) {l : List Word}
    (hr : (readLines s g pid stale n h l).2 = none) {a : Word}
    (ha : a ∈ l ∨ (s.cellAt g.pkg g.cell).filledAt pid n a) :
    ((readLines s g pid stale n h l).1.cellAt g.pkg g.cell).filledAt pid n a := by
  induction l generalizing s with
  | nil => exact ha.resolve_left List.not_mem_nil
  | cons b l ih =>
    cases hb : (readLine s g pid stale (fetchAt h b)).2 with
    | error f => rw [readLines_error hb] at hr; cases hr
    | ok bytes =>
      rw [readLines_ok hb] at hr ⊢
      have hu : (readLine s g pid stale (fetchAt h b)).1.hasPkg g.pkg = true := by rw [readLine_hasPkg]; exact hp
      refine ih (by rw [State.hasPkg_mapCell]; exact hu) hr ?_
      rw [State.cellAt_mapCell_same hu, readLine_cellAt]
      rcases ha with ha | ha
      · rcases List.mem_cons.1 ha with rfl | ha
        · exact .inr (Cell.filledAt_putLine List.mem_cons_self (.inl ⟨rfl, rfl⟩))
        · exact .inl ha
      · exact .inr (Cell.filledAt_putLine List.mem_cons_self (.inr ha))

/-- What a renewal beside a line leaves: the same packages, and cached lines with the moments that they had. -/
theorem renewBeside_filled {s : State} (hp : s.hasPkg g.pkg = true) (b : Word) :
    (renewBeside s g pid stale n b).hasPkg g.pkg = true ∧
    ∀ m a, (s.cellAt g.pkg g.cell).filledAt pid m a →
      ((renewBeside s g pid stale n b).cellAt g.pkg g.cell).filledAt pid m a := by
  unfold renewBeside
  refine List.foldlRecOn (motive := fun u : State => u.hasPkg g.pkg = true ∧ ∀ m a,
    (s.cellAt g.pkg g.cell).filledAt pid m a → (u.cellAt g.pkg g.cell).filledAt pid m a) _ _ ⟨hp, fun _ _ h => h⟩ ?_
  rintro u ⟨hu, kept⟩ c -
  split
  · exact ⟨hu, kept⟩
  · split
    · split
      · refine ⟨by rw [State.hasPkg_mapCell]; exact hu, fun m a hm => ?_⟩
        rw [State.cellAt_mapCell_same hu]
        refine Cell.filledAt_map (fun l => ?_) (fun l => ?_) (fun l hl => ?_) (kept m a hm)
        · split <;> rfl
        · split <;> rfl
        · split
          · exact (NumSet.mem_insert _ _ _).2 (.inr hl)
          · exact hl
      · exact ⟨hu, kept⟩
    · exact ⟨hu, kept⟩
/-- What the renewals beside the lines of a refill leave. -/
theorem renewals_filled {s : State} (hp : s.hasPkg g.pkg = true) (l : List Word) :
    (l.foldl (fun s a => renewBeside s g pid stale n a) s).hasPkg g.pkg = true ∧
    ∀ m a, (s.cellAt g.pkg g.cell).filledAt pid m a →
      ((l.foldl (fun s a => renewBeside s g pid stale n a) s).cellAt g.pkg g.cell).filledAt pid m a := by
  induction l generalizing s with
  | nil => exact ⟨hp, fun _ _ h => h⟩
  | cons b l ih =>
    obtain ⟨hu, kept⟩ := renewBeside_filled (pid := pid) (stale := stale) (n := n) hp b
    exact ⟨(ih hu).1, fun m a hm => (ih hu).2 m a (kept m a hm)⟩

end

/-- A REFILL: its package stays, and where it meets no fault the lines of the header have been read at one moment (R340). -/
theorem refillClause_filled {s : State} {g : GRef} (hp : s.hasPkg g.pkg = true) (pid : BitVec 16) (h : Word) :
    (refillClause s g pid h).1.hasPkg g.pkg = true ∧ ((refillClause s g pid h).2 = none →
      ∃ n, ∀ a ∈ linesOf h 4, ((refillClause s g pid h).1.cellAt g.pkg g.cell).filledAt pid n a) := by
  unfold refillClause
  dsimp only
  split
  · exact ⟨hp, fun e => nomatch e⟩
  · generalize hn : (s.cellAt g.pkg g.cell).fills + 1 = n
    generalize hst : Config.useStale s.free = stale
    generalize hs : s.draw.mapCell g.pkg g.cell (fun c => { c with fills := n }) = u
    have hu : u.hasPkg g.pkg = true := by
      rw [← hs, State.hasPkg_mapCell]
      exact hp
    have hv : (readLines u g pid stale n h (linesOf h 4)).1.hasPkg g.pkg = true := by rw [readLines_hasPkg]; exact hu
    generalize readLines u g pid stale n h (linesOf h 4) = r at hv
    have hw (l : List Word) : (readLines r.1 g pid stale n h l).1.hasPkg g.pkg = true := by
      rw [readLines_hasPkg]
      exact hv
    split
    · exact ⟨hv, fun e => nomatch e⟩
    · split
      · exact ⟨hw _, fun e => nomatch e⟩
      case h_2 clean =>
        refine ⟨(renewals_filled (hw _) _).1, fun _ => ⟨n, fun a ha => (renewals_filled (hw _) _).2 n a ?_⟩⟩
        exact readLines_filled hv clean (.inl (mem_clauseLines _ ha))

end Sys2Proof.Machine

/-! The ends of holds and waits of a slot, header waits, ICINV and refills (R53, R133, R136, R162, R194, R262, R305, R340,
R367): O31. -/

namespace Sys2Proof.Machine

open Sys2Proof.Claims

/-! ## Holds and waits -/

variable {s : State} {g : GRef}

/-- A hold whose cycle has come ends (R136, R162, R262, R305, R367). -/
theorem endHold_due {w : HoldWhy} {n : Nat} (h : (s.slotAt g).hold = some { why := w, till := n })
    (hn : n ≤ s.cycleAt g.pkg) : endHold w g s = .next (s.mapSlot g fun t => { t with hold := none }) := by
  refine congrArg Host.Outcome.next (State.mapSlot_congr ?_)
  rw [h]
  exact if_pos ⟨rfl, hn⟩

/-- A PARK that reaches its bound writes 1 (R194). -/
theorem parkTimeout_due {d : SReg} {n : Nat} (h : (s.slotAt g).wait = some { what := .wake d, since := n })
    (hb : (s.slotAt g).feWait ≠ 0) (hn : s.cycleAt g.pkg = n + 16 * (s.slotAt g).feWait.toNat) :
    exec (.parkTimeout g) s = .next (s.mapSlot g fun t => (t.putS d 1).endWait) := by
  rw [exec_parkTimeout]
  refine congrArg Host.Outcome.next (State.mapSlot_congr ?_)
  rw [h]
  have expired : (s.slotAt g).expired n (s.cycleAt g.pkg) = true :=
    Bool.and_eq_true_iff.2 ⟨bne_iff_ne.2 hb, beq_iff_eq.2 hn⟩
  exact if_pos expired

/-! ## The wait of a clause header -/

theorem Op.leaves_eq_false (o : Op) :
    o.leaves = false ↔ o.path ≠ .remote ∧ o.path ≠ .edge ∧ ∀ y ∈ o.units, y.path = .local := by
  simp [Op.leaves, and_assoc]

theorem Op.atHome_iff (o : Op) : o.atHome = true ↔ ∃ y ∈ o.units, y.path = .local := by
  simp [Op.atHome]

/-- What a header's WAITQ selects has come to the state that R47 names. -/
theorem waitqMet_iff (h : Header) : waitqMet s g h = true ↔
    (h.wm = true → (∀ j ∈ (s.cellAt g.pkg g.cell).mma, j.slot ≠ g.slot) ∧
      ∀ r ∈ (s.cellAt g.pkg g.cell).steps, r.slot ≠ g.slot) ∧
    (h.wc = true → ∀ o ∈ (s.slotAt g).ops, ∀ k, o.act ≠ .launch k) ∧
    (h.wr = true → ∀ o ∈ (s.slotAt g).ops, o.path ≠ .remote ∧ o.path ≠ .edge ∧ ∀ y ∈ o.units, y.path = .local) ∧
    (h.wl = true → ∀ o ∈ (s.slotAt g).ops, (∃ y ∈ o.units, y.path = .local) → o.posted = true) := by
  have launches (o : Op) : (match o.act with | .launch _ => true | _ => false) = false ↔ ∀ k, o.act ≠ .launch k := by
    cases o.act <;> simp
  have asked (b x : Bool) : (!(b && x)) = true ↔ (b = true → x = false) := by cases b <;> simp
  simp only [waitqMet, Bool.and_eq_true, asked, and_assoc]
  refine and_congr (imp_congr_right fun _ => ?_) (and_congr (imp_congr_right fun _ => ?_)
    (and_congr (imp_congr_right fun _ => ?_) (imp_congr_right fun _ => ?_)))
  · simp [Bool.or_eq_false_iff]
  · simp only [List.any_eq_false, Bool.not_eq_true]
    exact forall₂_congr fun o _ => launches o
  · simp only [List.any_eq_false, Bool.not_eq_true, Op.leaves_eq_false]
  · simp [← Op.atHome_iff]

/-- The wait of a header that has not been over, in a slot that has nothing to report, ends when what it selects has (R53). -/
theorem waitqSatisfied_eq {x : Clause} (hc : (s.slotAt g).clause = some x) (hr : (s.slotAt g).refused = [])
    (hw : (s.slotAt g).waitqDone = false) : exec (.waitqSatisfied g) s =
      .next (if waitqMet s g x.hdr then s.mapSlot g fun t => { t with waitqDone := true } else s) := by
  rw [exec_waitqSatisfied, execWaitqSatisfied, hc]
  refine congrArg Host.Outcome.next ?_
  simp only [passWaitq, hw, hr, List.filter_nil]
  cases waitqMet s g x.hdr <;> rfl

/-! ## ICINV and refills -/

theorem icinvComplete_eq (h : (s.slotAt g).icinv = true) : exec (.icinvComplete g) s =
    .next ((s.mapCell g.pkg g.cell fun t => { t with icache := [] }).mapSlot g fun t => { t with icinv := false }) :=
  congrArg Host.Outcome.next (if_pos h)

/-- A refill whose lines answer ends with a fault for its slot, or with the header in the cache (R340). -/
theorem instructionCacheRefill_ends {a : Word} (hp : s.hasPkg g.pkg = true) (ha : (s.slotAt g).refill = some (a, none))
    (hready : refillReady s g (s.slotAt g).pid a = true) : ∃ u, exec (.instructionCacheRefill g) s = .next u ∧
      ((∃ f, (u.slotAt g).refill = some (a, some f)) ∨ (u.slotAt g).refill = none ∧
        ∃ b, (u.cellAt g.pkg g.cell).cachedBytes (s.slotAt g).pid a 4 = some b) := by
  obtain ⟨hu, filled⟩ := refillClause_filled hp (s.slotAt g).pid a
  rw [exec_instructionCacheRefill, execInstructionCacheRefill, ha]
  refine ⟨_, rfl, ?_⟩
  simp only [hready, Bool.not_true, Bool.false_eq_true, if_false]
  split
  case isTrue refused =>
    obtain ⟨f, hf⟩ := Option.isSome_iff_exists.1 (Bool.and_eq_true_iff.1 refused).1
    refine .inl ⟨f, ?_⟩
    rw [State.slotAt_mapSlot_same (s := s.draw) hp, hf]
  case isFalse =>
    rw [State.slotAt_mapSlot_same hu]
    cases hf : (refillClause s g (s.slotAt g).pid a).2 with
    | some f => exact .inl ⟨f, rfl⟩
    | none =>
      obtain ⟨n, lines⟩ := filled hf
      refine .inr ⟨rfl, ?_⟩
      rw [State.cellAt_mapSlot_keeps (fun t => t.cachedBytes (s.slotAt g).pid a 4) (fun _ _ => rfl)]
      exact Cell.cachedBytes_of_filled lines

/-- Settles O31: each event at its cycle, and the refill by what its reads leave in the cache. -/
theorem holdEvents : Obligations.HoldEvents := by
  unfold Obligations.HoldEvents
  intro s g hp t now
  refine ⟨fun e he n hold due => ?_, fun d n wait bound at_ => parkTimeout_due wait bound at_, fun x hc hr hw => ?_,
    icinvComplete_eq, fun a ha hready => instructionCacheRefill_ends hp ha hready, fun hg => ?_⟩
  · simp only [List.mem_cons, List.not_mem_nil, or_false] at he
    rcases he with rfl | rfl | rfl | rfl | rfl <;> exact endHold_due hold due
  · have ends := waitqSatisfied_eq hc hr hw
    refine ⟨fun met => ?_, fun unmet => ?_⟩
    · rwa [if_pos ((waitqMet_iff x.hdr).2 met)] at ends
    · rwa [if_neg (mt (waitqMet_iff x.hdr).1 unmet)] at ends
  · subst hg
    exact ⟨traps_of hp (if_pos hp), traps_of hp (if_pos hp)⟩

end Sys2Proof.Machine

/-! The targets of transfers, and transfers that are taken, trap, or stand in a subscriber (R55, R56, R109, R116 to R120). -/

namespace Sys2Proof.Machine

open Sys2Proof.Claims

/-! ## Conditions and offsets -/

theorem condHolds_iff (k : Cond) (x : Word) (t : Slot) : condHolds k x t = true ↔ branches t k x := by
  have zero : x.toInt = 0 ↔ x = 0 := by rw [← BitVec.toInt_zero (w := 64), BitVec.toInt_inj]; rfl
  have neg : x.msb = true ↔ x.toInt < 0 := by rw [BitVec.msb_eq_toInt, decide_eq_true_eq]
  cases k with
  | eqz => simp [condHolds, branches, zero]
  | nez => simp [condHolds, branches, zero]
  | ltz => exact neg
  | gez => simp [condHolds, branches, BitVec.msb_eq_toInt]
  | gtz =>
    simp only [condHolds, branches, Bool.and_eq_true, Bool.not_eq_true', bne_iff_ne, ← Bool.not_eq_true, neg, ne_eq, ← zero]
    omega
  | lez =>
    simp only [condHolds, branches, Bool.or_eq_true, beq_iff_eq, neg, ← zero]
    omega
  | any => simp [condHolds, branches, Slot.anyActive, Slot.isActive]
  | none => simp [condHolds, branches, Slot.anyActive, Slot.isActive]
  | all => simp [condHolds, branches, Slot.isActive]

theorem offsetBy_exact {v : Nat} (h : Word) (i : BitVec v) (hv : v ≤ 64) :
    offsetBy h i = h + BitVec.ofInt 64 (4 * i.toInt) := by
  rw [offsetBy, words_exact i hv]

section
variable {s : State}

/-! ## The check of a target -/

/-- The state that a look for code leaves when it has found the clause in the cache. -/
def startFetched (s : State) : State := s.mapSlot s.cur fun t => { t with lastOp := none, refill := none }

/-- The slot at hand without a refill that it has used. -/
def fetched (s : State) : State := s.mapSlot s.cur fun t => { t with refill := none }

theorem endRefill_started (s : State) : endRefill (started s) s.cur = startFetched s :=
  State.mapSlot_mapSlot s s.cur _ _

theorem endRefill_startFetched (s : State) : endRefill (startFetched s) s.cur = startFetched s :=
  State.mapSlot_mapSlot s s.cur _ _

theorem startFetched_eq (s : State) : startFetched s = (fetched s).mapSlot s.cur Slot.unlast := by
  rw [fetched, State.mapSlot_mapSlot]
  rfl

theorem checkTarget_code {u : State} {g : GRef} {a : Word} {w : BitVec 32} {ws : List (BitVec 32)}
    (window : a.toNat / 2 ^ 57 = 16) (aligned : a.toNat % 4 = 0) (header : w.toNat / 2 ^ 26 = 0x3E)
    (look : lookClause u g a = .code u w ws) : checkTarget u g a = (endRefill u g, .ok w) := by
  have inCode : codeWindow a = true := beq_iff_eq.2 window
  rw [Laws.div_eq_major] at header
  simp [checkTarget, inCode, aligned, look, header]

/-- A target whose clause is at hand passes its check, before and after the look at another target. -/
theorem checkTarget_at {a : Word} {w : BitVec 32} (h : codeAt s a w) :
    checkTarget (started s) s.cur a = (startFetched s, .ok w) ∧
    checkTarget (startFetched s) s.cur a = (startFetched s, .ok w) := by
  obtain ⟨window, aligned, header, ws, look⟩ := h
  refine ⟨(checkTarget_code window aligned header (look _ List.mem_cons_self)).trans ?_,
    (checkTarget_code window aligned header (look _ (List.mem_cons_of_mem _ List.mem_cons_self))).trans ?_⟩
  · exact congrArg (·, _) (endRefill_started s)
  · exact congrArg (·, _) (endRefill_startFetched s)

/-- The fault of a target that fails the check of its window or of its alignment (R55, R56). -/
def targetFault (pid : BitVec 16) (a : Word) : Option FaultInfo :=
  if codeWindow a then (if a.toNat % 4 = 0 then none else some { kind := .clause, aux := a }) else some (codeProt pid a)

theorem checkTarget_fault {u : State} {g : GRef} {a : Word} {f : FaultInfo} (h : targetFault (u.slotAt g).pid a = some f) :
    checkTarget u g a = (u, .bad f) := by
  unfold targetFault at h
  unfold checkTarget
  cases hw : codeWindow a with
  | false => simp_all
  | true =>
    by_cases ha : a.toNat % 4 = 0 <;> simp_all

/-- An instruction that traps whenever a target fails its check traps PROT outside the code window, and CLAUSE within it at a
target that is no multiple of 4. -/
theorem traps_of_targetFault {i : Instr} {a : Word} (h : ∀ f, targetFault (here s).pid a = some f → Traps i s f) :
    (a.toNat / 2 ^ 57 ≠ 16 → Traps i s
      { kind := .prot, sector := a, aux := BitVec.ofNat 64 (7 + 3 * 2 ^ 4 + 2 * 2 ^ 8 + (here s).pid.toNat * 2 ^ 12) }) ∧
    (a.toNat / 2 ^ 57 = 16 → a.toNat % 4 ≠ 0 → Traps i s { kind := .clause, aux := a }) := by
  refine ⟨fun out => h _ ?_, fun window misaligned => h _ ?_⟩
  · have outside : ¬ codeWindow a = true := by simpa [codeWindow] using out
    rw [targetFault, if_neg outside]
    rfl
  · have inside : codeWindow a = true := beq_iff_eq.2 window
    rw [targetFault, if_pos inside, if_neg misaligned]

/-! ## A taken transfer -/

theorem start_slot (hp : s.hasPkg s.cur.pkg = true) : (start s).slot = (here s).unlast := started_slot hp

theorem startFetched_hasPkg (s : State) (p : PkgId) : (startFetched s).hasPkg p = s.hasPkg p := State.hasPkg_mapSlot _ _ _ _
theorem fetched_hasPkg (s : State) (p : PkgId) : (fetched s).hasPkg p = s.hasPkg p := State.hasPkg_mapSlot _ _ _ _

theorem slotAt_startFetched (hp : s.hasPkg s.cur.pkg = true) :
    (startFetched s).slotAt s.cur = { here s with lastOp := none, refill := none } := State.slotAt_mapSlot_same hp _

/-- A body that jumps, with an effect that is the given one but for the slot's course. -/
theorem completesAt_jump {i : Instr} {o : Opnds} {body : Ctx → Issue} {u v : State} {a : Word} (h : ready s o = true)
    (he : exec i s = run s o body) (hb : body (start s) = .jump v a) (hu : Agree s.cur u v) (hv : v.hasPkg s.cur.pkg = true) :
    CompletesAt i s u (a, 0, (v.slotAt s.cur).loops) := by
  obtain ⟨agrees, place⟩ := conclude_jump (s := s) (g := s.cur) (o := o) (u := v) (a := a) hv
  refine ⟨_, ?_, Agree.trans hu agrees, place⟩
  rw [he, run_ready h]
  exact congrArg (fun r => Host.Outcome.next (conclude s s.cur o r)) hb

/-- A jump with a loop stack of its own. -/
theorem completesAt_jump_loops {i : Instr} {o : Opnds} {body : Ctx → Issue} {f : Slot → LoopStack} {a : Word}
    (h : ready s o = true) (he : exec i s = run s o body)
    (hb : body (start s) = .jump ((startFetched s).mapSlot s.cur fun t => { t with loops := f t }) a) :
    CompletesAt i s (fetched s) (a, 0, f { here s with lastOp := none, refill := none }) := by
  have hp := ready_hasPkg h
  have hq : (startFetched s).hasPkg s.cur.pkg = true := by rw [startFetched_hasPkg]; exact hp
  have agrees : Agree s.cur (fetched s) ((startFetched s).mapSlot s.cur fun t => { t with loops := f t }) := by
    have hs : (fetched s).hasPkg s.cur.pkg = true := by rw [fetched_hasPkg]; exact hp
    rw [startFetched_eq]
    exact (Agree.course (f := Slot.unlast) hs fun _ => rfl).course_right (f := fun t => { t with loops := f t }) hs
      fun _ => rfl
  have done := completesAt_jump h he hb agrees (by rw [State.hasPkg_mapSlot]; exact hq)
  rwa [State.slotAt_mapSlot_same hq, slotAt_startFetched hp] at done

/-- A jump of slot `g` with the loop stack that it then has, once its target has passed its check (R116). -/
def checkedJump (u : State) (g : GRef) (a : Word) (f : Slot → LoopStack) : Issue :=
  match checkTarget u g a with
  | (v, .ok _) => .jump (v.mapSlot g fun t => { t with loops := f t }) a
  | (v, .wait) => .fetching v
  | (_, .bad x) => .trap x

/-- The loop stack of a slot that leaves for an address (R123). -/
def popsTo (a : Word) (t : Slot) : LoopStack := t.loops.leave 5 t.instrAddr a

/-- A jump that pops the loop entries that it leaves. -/
abbrev poppingJump (u : State) (g : GRef) (a : Word) : Issue := checkedJump u g a (popsTo a)

theorem transfer_popping (c : Ctx) (a : Word) : transfer c a true none = poppingJump c.s c.g a := by
  unfold transfer poppingJump checkedJump
  rcases checkTarget c.s c.g a with ⟨v, _ | _ | _⟩ <;> rfl

/-- With its operands ready an instruction comes to an end of its body. -/
def ComesTo (s : State) (i : Instr) (e : Issue) : Prop :=
  ∃ o body, ready s o = true ∧ exec i s = run s o body ∧ body (start s) = e

theorem started_pid (s : State) : ((started s).slotAt s.cur).pid = (here s).pid :=
  started_slot_keeps Slot.pid (fun _ => rfl) s s.cur

theorem startFetched_pid (s : State) : ((startFetched s).slotAt s.cur).pid = (here s).pid :=
  State.slotAt_mapSlot_keeps Slot.pid (f := fun t => { t with lastOp := none, refill := none }) (fun _ => rfl) s s.cur s.cur

section
variable {i : Instr} {u : State} {a : Word} {f : Slot → LoopStack} {d : SReg}

theorem ComesTo.traps {x : FaultInfo} (h : ComesTo s i (.trap x)) : Traps i s x := by
  obtain ⟨o, body, ready, he, hb⟩ := h
  exact traps_body ready he hb

/-- A jump to a clause at hand (R116). -/
theorem ComesTo.jump_completes (h : ComesTo s i (checkedJump u s.cur a f)) (hu : u = started s ∨ u = startFetched s)
    {w : BitVec 32} (ha : codeAt s a w) :
    CompletesAt i s (fetched s) (a, 0, f { here s with lastOp := none, refill := none }) := by
  obtain ⟨o, body, ready, he, hb⟩ := h
  refine completesAt_jump_loops ready he (hb.trans ?_)
  have found : checkTarget u s.cur a = (startFetched s, .ok w) := by
    rcases hu with rfl | rfl
    · exact (checkTarget_at ha).1
    · exact (checkTarget_at ha).2
  rw [checkedJump, found]

/-- A jump whose target fails its check traps (R116). -/
theorem ComesTo.jump_traps (h : ComesTo s i (checkedJump u s.cur a f)) (hu : (u.slotAt s.cur).pid = (here s).pid)
    (x : FaultInfo) (hx : targetFault (here s).pid a = some x) : Traps i s x := by
  have bad : checkedJump u s.cur a f = .trap x := by rw [checkedJump, checkTarget_fault (hu ▸ hx)]
  rw [bad] at h
  exact h.traps

/-- A transfer with a link value to a clause at hand writes it and pops nothing (R119, R120, R123). -/
theorem ComesTo.link_completes (h : ComesTo s i (transfer (start s) a false (some d))) {w : BitVec 32} (ha : codeAt s a w) :
    CompletesAt i s ((fetched s).setS s.cur d (here s).nextClause) (a, 0, (here s).loops) := by
  obtain ⟨o, body, ready, he, hb⟩ := h
  have hp := ready_hasPkg ready
  have hs : ((fetched s).setS s.cur d (here s).nextClause).hasPkg s.cur.pkg = true := by
    rw [setS_hasPkg, fetched_hasPkg]
    exact hp
  have written : (startFetched s).setS s.cur d (here s).nextClause =
      ((fetched s).setS s.cur d (here s).nextClause).mapSlot s.cur Slot.unlast := by
    rw [startFetched_eq]
    exact mapSlot_unlast (fetched s) s.cur fun t => t.putS_unlast d (here s).nextClause
  have jumps : body (start s) = .jump ((startFetched s).setS s.cur d (here s).nextClause) a := by
    rw [hb]
    simp only [transfer, start_s, start_g, (checkTarget_at ha).1, start_slot hp]
    rfl
  have loops : (((startFetched s).setS s.cur d (here s).nextClause).slotAt s.cur).loops = (here s).loops := by
    rw [State.setS, State.slotAt_mapSlot_same (by rw [startFetched_hasPkg]; exact hp), slotAt_startFetched hp]
    exact Slot.putS_keeps Slot.loops (fun _ _ _ _ _ _ _ => rfl) _ _ _
  have done := completesAt_jump ready he jumps (by rw [written]; exact Agree.course hs fun _ => rfl)
    (by rw [written, State.hasPkg_mapSlot]; exact hs)
  rwa [loops] at done

/-- A transfer with a link value whose target fails its check traps (R116). -/
theorem ComesTo.link_traps (h : ComesTo s i (transfer (start s) a false (some d))) (x : FaultInfo)
    (hx : targetFault (here s).pid a = some x) : Traps i s x := by
  have bad : transfer (start s) a false (some d) = .trap x := by
    simp only [transfer, start_s, start_g, checkTarget_fault ((started_pid s).symm ▸ hx)]
  rw [bad] at h
  exact h.traps

end

/-! ## The transfers of a slot that fetches for itself -/

/-- The code address that lies so many words from the header of the clause at hand (R55). -/
def wordsAhead (s : State) (n : Int) : Word := (here s).head + BitVec.ofInt 64 (4 * n)

theorem start_offset (hp : s.hasPkg s.cur.pkg = true) {v : Nat} (i : BitVec v) (hv : v ≤ 64) :
    offsetBy (start s).slot.head i = wordsAhead s i.toInt := by
  rw [offsetBy_exact _ i hv, start_slot hp]
  rfl

theorem start_condHolds (k : Cond) (a : SReg) :
    condHolds k ((start s).sreg a) (start s).slot = true ↔ branches (here s) k ((here s).sreg a) := by
  rw [start_sreg, start_slot_keeps (condHolds k _) (fun _ => by cases k <;> rfl), condHolds_iff]

section
variable (hown : (here s).following = false)
include hown

/-- An instruction with the operands of a branch runs on them, and its body is not that of a subscriber (R109). -/
theorem comesTo_own {i : Instr} {o : Opnds} {x y : Ctx → Issue} {e : Issue} (h : ready s o = true)
    (he : exec i s = run s (branchOpnds s o) fun c => if c.sub then x c else y c) (hy : y (start s) = e) : ComesTo s i e := by
  rw [branchOpnds_own hown] at he
  have own : ¬ (start s).sub = true := by simpa using hown
  exact ⟨o, _, h, he, (if_neg own).trans hy⟩

theorem br_jumps {i : BitVec 19} (h : ready s {} = true) :
    ComesTo s (.br i) (poppingJump (started s) s.cur (wordsAhead s i.toInt)) :=
  comesTo_own hown h (exec_br ..) (by rw [transfer_popping, start_offset (ready_hasPkg h) i (by decide)]; rfl)

theorem bc_jumps {k : Cond} {a : SReg} {i : BitVec 12} (h : ready s (condOpnds k a) = true)
    (hb : branches (here s) k ((here s).sreg a)) :
    ComesTo s (.bc k a i) (poppingJump (started s) s.cur (wordsAhead s i.toInt)) :=
  comesTo_own hown h (exec_bc ..) (by
    rw [if_pos ((start_condHolds k a).2 hb), transfer_popping, start_offset (ready_hasPkg h) i (by decide)]; rfl)

theorem bc_goes_on {k : Cond} {a : SReg} {i : BitVec 12} (h : ready s (condOpnds k a) = true)
    (hb : ¬ branches (here s) k ((here s).sreg a)) : Completes (.bc k a i) s s 1 := by
  have he := exec_bc k a i s
  unfold execBc at he
  rw [branchOpnds_own hown] at he
  have own : ¬ (start s).sub = true := by simpa using hown
  have done := completes_nothing h he ((if_neg own).trans (if_neg (mt (start_condHolds k a).1 hb)))
  have words : (condOpnds k a).words = 1 := by cases k <;> rfl
  rwa [words] at done

theorem jr_jumps {a : SReg} (h : ready s (Opnds.a a) = true) :
    ComesTo s (.jr a) (poppingJump (started s) s.cur ((here s).sreg a)) :=
  comesTo_own hown h (exec_jr ..) (by rw [transfer_popping, start_sreg]; rfl)

theorem jalr_links {d a : SReg} (h : ready s (Opnds.ss d a) = true) :
    ComesTo s (.jalr d a) (transfer (start s) ((here s).sreg a) false (some d)) :=
  comesTo_own hown h (exec_jalr ..) (by rw [start_sreg])

theorem bal_links {d : SReg} {i : BitVec 19} (h : ready s (Opnds.d d) = true) :
    ComesTo s (.bal d i) (transfer (start s) (wordsAhead s i.toInt) false (some d)) :=
  comesTo_own hown h (exec_bal ..) (by rw [start_offset (ready_hasPkg h) i (by decide)])

end

end
end Sys2Proof.Machine

/-! LOOP (R121 to R124), and the control transfers together: O14. -/

namespace Sys2Proof.Machine

open Sys2Proof.Claims

/-! ## LOOP -/

/-- The clause that follows the last one of a LOOP, whose header is `w` (R121). -/
def loopAfter (s : State) (i : BitVec 12) (w : BitVec 32) : Word :=
  wordsAhead s i.toInt + BitVec.ofNat 64 (4 * (1 + w.toNat % 16))

/-- The loop stack of a LOOP that enters its body, before it pushes its entry (R123). -/
def loopsAtBody (s : State) : LoopStack := popsTo (here s).nextClause (here s)

/-- The entry of a LOOP of count `n` whose last clause has the header `w` (R121). -/
def loopEntry (s : State) (i : BitVec 12) (w : BitVec 32) (n : Word) : LoopEntry :=
  { start := (here s).nextClause, last := wordsAhead s i.toInt, after := loopAfter s i w, remaining := n }

section
variable {s : State} {a : SReg} {i : BitVec 12}

section
variable (hp : s.hasPkg s.cur.pkg = true) {n : Word}
include hp

theorem loopBody_short (hi : i.toInt < 1 + ((here s).clauseLen : Int)) :
    loopBody (start s) n i = .trap { kind := .clause, aux := wordsAhead s i.toInt } := by
  have short : i.toInt < 1 + ((start s).slot.clauseLen : Int) := by rw [start_slot hp]; exact hi
  rw [loopBody, if_pos short, start_offset hp i (by decide)]

variable (hi : 1 + ((here s).clauseLen : Int) ≤ i.toInt)
include hi

theorem loopBody_lastFault {f : FaultInfo} (hf : targetFault (here s).pid (wordsAhead s i.toInt) = some f) :
    loopBody (start s) n i = .trap f := by
  have long : ¬ i.toInt < 1 + ((start s).slot.clauseLen : Int) := by rw [start_slot hp]; exact not_lt.2 hi
  rw [loopBody, if_neg long, start_offset hp i (by decide), start_s, start_g,
    checkTarget_fault (by rw [started_pid]; exact hf)]

/-- With its last clause at hand, a LOOP goes behind it, traps, or enters its body (R121, R124). -/
theorem loopBody_last {w : BitVec 32} (hw : codeAt s (wordsAhead s i.toInt) w) : loopBody (start s) n i =
    if n = 0 then poppingJump (startFetched s) s.cur (loopAfter s i w)
    else if (loopsAtBody s).depth = 4 then .trap { kind := .clause, aux := BitVec.allOnes 64 }
    else checkedJump (startFetched s) s.cur (here s).nextClause fun _ => (loopsAtBody s).push (loopEntry s i w n) := by
  have long : ¬ i.toInt < 1 + ((start s).slot.clauseLen : Int) := by rw [start_slot hp]; exact not_lt.2 hi
  have count : fld w 0 4 = w.toNat % 16 := by simp [fld]
  rw [loopBody, if_neg long, start_offset hp i (by decide), start_s, start_g, (checkTarget_at hw).1]
  dsimp only
  rw [count, ← loopAfter, start_slot hp, show (here s).unlast.nextClause = (here s).nextClause from rfl]
  unfold poppingJump checkedJump
  refine if_congr Iff.rfl ?_ (if_congr Iff.rfl rfl ?_)
  · rcases checkTarget (startFetched s) s.cur (loopAfter s i w) with ⟨v, _ | _ | _⟩ <;> rfl
  · rcases checkTarget (startFetched s) s.cur (here s).nextClause with ⟨v, _ | _ | _⟩ <;> rfl

end

section
variable (hown : (here s).following = false) (h : ready s (Opnds.a a) = true)
include hown h

/-- LOOP in a slot that fetches for itself does what its body says of its count. -/
theorem loop_comesTo {e : Issue} (he : loopBody (start s) ((here s).sreg a) i = e) : ComesTo s (.loop a i) e :=
  comesTo_own hown h (exec_loop ..) (by rw [start_sreg]; exact he)

variable (hi : 1 + ((here s).clauseLen : Int) ≤ i.toInt) {w : BitVec 32} (hw : codeAt s (wordsAhead s i.toInt) w)
include hi hw

theorem loop_skips (hn : (here s).sreg a = 0) :
    ComesTo s (.loop a i) (poppingJump (startFetched s) s.cur (loopAfter s i w)) :=
  loop_comesTo hown h ((loopBody_last (ready_hasPkg h) hi hw).trans (if_pos hn))

theorem loop_full (hn : (here s).sreg a ≠ 0) (full : (loopsAtBody s).depth = 4) :
    ComesTo s (.loop a i) (.trap { kind := .clause, aux := BitVec.allOnes 64 }) :=
  loop_comesTo hown h ((loopBody_last (ready_hasPkg h) hi hw).trans ((if_neg hn).trans (if_pos full)))

theorem loop_enters (hn : (here s).sreg a ≠ 0) (room : (loopsAtBody s).depth ≠ 4) :
    ComesTo s (.loop a i) (checkedJump (startFetched s) s.cur (here s).nextClause fun _ =>
      (loopsAtBody s).push (loopEntry s i w ((here s).sreg a))) :=
  loop_comesTo hown h ((loopBody_last (ready_hasPkg h) hi hw).trans ((if_neg hn).trans (if_neg room)))

end

end

/-! ## Taken transfers, and those that trap -/

theorem takenTransfers : TakenTransfers := by
  intro s hown t link own there unfetched goes
  refine ⟨fun i h w hw => ?_, fun k a i h => ⟨fun hb w hw => ?_, fun hb => ?_⟩, fun a h w hw => ?_, fun d a h w hw => ?_,
    fun d i h w hw => ?_, fun a i h hi w hw => ⟨fun hn w' hw' => ?_, fun hn => ?_⟩⟩
  · exact (br_jumps hown h).jump_completes (.inl rfl) hw
  · exact (bc_jumps hown h hb).jump_completes (.inl rfl) hw
  · exact bc_goes_on hown h hb
  · exact (jr_jumps hown h).jump_completes (.inl rfl) hw
  · exact (jalr_links hown h).link_completes hw
  · exact (bal_links hown h).link_completes hw
  · exact (loop_skips hown h hi hw hn).jump_completes (.inr rfl) hw'
  · intro l room w' hw'
    exact (loop_enters hown h hi hw hn room).jump_completes (.inr rfl) hw'

theorem transferTraps : TransferTraps := by
  intro s hown t there checked
  refine ⟨fun i h => ?_, fun k a i h hb => ?_, fun a h => ?_, fun d a h => ?_, fun d i h => ?_,
    fun a i h => ⟨fun hi => ?_, fun hi => ⟨?_, fun w hw => ⟨fun hn => ?_, fun hn full => ?_, fun hn room => ?_⟩⟩⟩⟩
  · exact traps_of_targetFault ((br_jumps hown h).jump_traps (started_pid s))
  · exact traps_of_targetFault ((bc_jumps hown h hb).jump_traps (started_pid s))
  · exact traps_of_targetFault ((jr_jumps hown h).jump_traps (started_pid s))
  · exact traps_of_targetFault (jalr_links hown h).link_traps
  · exact traps_of_targetFault (bal_links hown h).link_traps
  · exact (loop_comesTo hown h (loopBody_short (ready_hasPkg h) hi)).traps
  · exact traps_of_targetFault fun f hf => (loop_comesTo hown h (loopBody_lastFault (ready_hasPkg h) hi hf)).traps
  · exact traps_of_targetFault ((loop_skips hown h hi hw hn).jump_traps (startFetched_pid s))
  · exact (loop_full hown h hi hw hn full).traps
  · exact traps_of_targetFault ((loop_enters hown h hi hw hn room).jump_traps (startFetched_pid s))

/-! ## Subscribers -/

section
variable {s : State} (hsub : (here s).following = true)
include hsub

/-- A subscriber reads no source of a branch (R109). -/
theorem branchOpnds_sub (o : Opnds) : branchOpnds s o = { dsts := o.dsts, words := o.words } :=
  if_pos (show s.atSub = true from hsub)

theorem start_following : (start s).sub = true := by simpa using hsub

/-- In a subscriber an instruction with the operands of a branch, that writes nothing there, does nothing. -/
theorem completes_sub {i : Instr} {o : Opnds} {body : Ctx → Issue} (h : ready s {} = true)
    (he : exec i s = run s (branchOpnds s o) body) (ho : o.dsts = []) (hw : o.words = 1)
    (hb : (start s).sub = true → body (start s) = .done (started s)) : Completes i s s 1 := by
  rw [branchOpnds_sub hsub, ho, hw] at he
  exact completes_nothing h he (hb (start_following hsub))

/-- In a subscriber a transfer with a link value writes that of its publisher. -/
theorem gives_link {i : Instr} {o : Opnds} {body : Ctx → Issue} {d : SReg} (h : ready s (Opnds.d d) = true)
    (he : exec i s = run s (branchOpnds s o) body) (ho : o.dsts = [.s d]) (hw : o.words = 1)
    (hb : (start s).sub = true → body (start s) = linkOnly (start s) (some d)) : gives s d i (here s).nextClause := by
  rw [branchOpnds_sub hsub, ho, hw] at he
  refine completes_setS (o := Opnds.d d) h he ((hb (start_following hsub)).trans ?_)
  rw [linkOnly, start_slot (ready_hasPkg h)]
  rfl

end

theorem subscriberTransfers : SubscriberTransfers := by
  intro s hsub
  refine ⟨fun h a => ⟨fun i => ?_, fun k i => ?_, ?_, fun i => ?_, ?_⟩, fun d h => ⟨fun a => ?_, fun i => ?_⟩⟩
  · exact completes_sub hsub h (exec_br ..) rfl rfl fun sub => if_pos sub
  · exact completes_sub hsub h (exec_bc ..) (by cases k <;> rfl) (by cases k <;> rfl) fun sub => if_pos sub
  · exact completes_sub hsub h (exec_jr ..) rfl rfl fun sub => if_pos sub
  · exact completes_sub hsub h (exec_loop ..) rfl rfl fun sub => if_pos sub
  · exact completes_sub hsub h (exec_idle ..) rfl rfl fun sub => if_pos sub
  · exact gives_link hsub h (exec_jalr ..) rfl rfl fun sub => if_pos sub
  · exact gives_link hsub h (exec_bal ..) rfl rfl fun sub => if_pos sub

/-- Settles O14: each transfer is a jump with a checked target, and LOOP checks its last clause and then is such a jump. -/
theorem transferResults : Obligations.TransferResults := ⟨takenTransfers, transferTraps, subscriberTransfers⟩

end Sys2Proof.Machine
